-- ==== Sys2Proof/Word.lean ====
section
/-! DEFINITION. The words the registers and memories hold, the sparse table that holds anything numbered, and the
plainest arithmetic over them. -/

namespace Sys2Proof

/-- A register word (R1). -/
abbrev Word := BitVec 32

/-- A byte of the Shed, the Warehouse, the Hold or the Charter. -/
abbrev Byte := BitVec 8

/-- A sparse table: keys strictly rising, and no entry equal to the value an unlisted key reads as. -/
abbrev Tab (α : Type) := List (Nat × α)

/-- `n` reduced to its `w` low bits. -/
def low (w n : Nat) : Nat := n % 2 ^ w

/-- Bits `[lo + w - 1 : lo]` of `n`. -/
def bits (n lo w : Nat) : Nat := n / 2 ^ lo % 2 ^ w

/-- Bit `i` of `n`. -/
def bit (n i : Nat) : Bool := n / 2 ^ i % 2 == 1

/-- A Bool as a field value. -/
def flag (b : Bool) : Nat := if b then 1 else 0

/-- Division rounded up. -/
def ceilDiv (a b : Nat) : Nat := (a + b - 1) / b

/-- The value `n` of `w` bits read as a two's complement integer. -/
def toSigned (w n : Nat) : Int := if n % 2 ^ w < 2 ^ (w - 1) then (n % 2 ^ w : Nat) else (n % 2 ^ w : Nat) - (2 ^ w : Nat)

/-- The integer `i` as `w` bits of two's complement. -/
def ofSigned (w : Nat) (i : Int) : Nat := (i % (2 ^ w : Nat)).toNat

/-- Addition that stops at the largest value of `w` bits. -/
def satAdd (w a b : Nat) : Nat := min (a + b) (2 ^ w - 1)

/-- The integer `i` limited to the range of `w`-bit two's complement. -/
def clampSigned (w : Nat) (i : Int) : Int := max (-(2 ^ (w - 1) : Nat)) (min i ((2 ^ (w - 1) : Nat) - 1))

/-- The little-endian value of a list of bytes (R9). -/
def leNat : List Byte → Nat
  | [] => 0
  | b :: bs => b.toNat + 256 * leNat bs

/-- `n` as `k` bytes, lowest first (R9). -/
def leBytes : Nat → Nat → List Byte
  | 0, _ => []
  | k + 1, n => BitVec.ofNat 8 n :: leBytes k (n / 256)

/-- The big-endian value of a list of bytes (network byte order). -/
def beNat (bs : List Byte) : Nat := bs.foldl (fun a b => 256 * a + b.toNat) 0

/-- `n` as `k` bytes, highest first (network byte order). -/
def beBytes (k n : Nat) : List Byte := (leBytes k n).reverse

end Sys2Proof
end

