-- ==== Sys2Proof/Kinds.lean ====
section
/-! DEFINITION. The plain kinds of data that stand as operands of commands. -/

namespace Sys2Proof

/-- Who makes an access to a register: the host through BAR0, or a Tug. -/
inductive Requester where
  | host | tug
  deriving DecidableEq, Repr
/-- Work that arrived for a berth on a budget engine during the closing tide, in engine-ns (R46, R47). -/
structure TideLoad where
  engine : Nat
  berth : Nat
  amount : Nat
  deriving DecidableEq, Repr
/-- A command of a quay's serial port (R81): frame length code, chip select, whether MISO is stored, whether it waits for a
boundary, and the frame. -/
structure SpiCmd where
  len : Nat
  cs : Nat
  rd : Bool
  atTide : Bool
  txd : Nat
  deriving DecidableEq, Repr
/-- Point-state entries of a point and a slot that fail parity from now on (R102), by 16 × point + slot: slot offsets, and code-store entries. -/
structure SlotParity where
  offsets : List Nat := []
  code : List Nat := []
  deriving DecidableEq, Repr


/-- How a Pier instruction addresses memory: through a circular set, post-modified by a step (R325), or at an address it forms
otherwise. -/
inductive PierAddr where
  | set (i : Fin 8) (step : Int)
  | at_ (addr : Nat)
  deriving DecidableEq, Repr

/-- What a load writes: a general register, an accumulator, or B, L or P of a circular set (R319, Table 12.2). -/
inductive PierDst where
  | g (r : Fin 32)
  | a (k : Fin 4)
  | base (i : Fin 8)
  | len (i : Fin 8)
  | ptr (i : Fin 8)
  deriving DecidableEq, Repr

/-- One memory access of a Pier instruction (R317, R318): a load of `n` bytes, sign-extended or not, or a store of the `n` low bytes of a
general register. -/
inductive PierAccess where
  | load (dst : PierDst) (addr : PierAddr) (n : Nat) (signed : Bool)
  | store (src : Fin 32) (addr : PierAddr) (n : Nat)
  deriving DecidableEq, Repr

/-- The count of a REPEAT (R320): an immediate or a general register. -/
inductive RepeatCount where
  | imm (n : Nat)
  | reg (r : Fin 32)
  deriving DecidableEq, Repr
/-- How LDA loads (R317, R323): the number of bytes, and the cycles that the core stalls. -/
structure AccLoad where
  bytes : Nat
  stall : Nat := 0
  deriving DecidableEq, Repr
/-- What the Warehouse memory did on a request (R346): the blocks of the request that the write queue still holds, the blocks whose first
reading failed though their cells are intact, and the blocks whose cells have failed by now. -/
structure WhLuck where
  queued : List Nat := []
  once : List Nat := []
  spoilt : List Nat := []
  deriving DecidableEq, Repr
/-- The first beat of a descriptor that was answered with an error (R360 to R362): whether it is a destination beat, the byte of the
descriptor at which it lies, and whether a Lock answered it (R364, R445). -/
structure TugFail where
  dst : Bool := true
  byte : Nat := 0
  lock : Bool := false
  deriving DecidableEq, Repr
/-- Who makes a Warehouse request and how (R348 to R350): the owner that the controller charges for the data, `none` where the requester has
charged them by its own account; the service class; PAGE; and, for a read, RETRY (R346). Owner 4,096 is the host, 4,097 the reserve. -/
structure WhReq where
  owner : Option Nat := none
  cls : Fin 4 := 0
  page : Bool := false
  retry : Bool := false
  deriving DecidableEq, Repr
/-- What a write request carries: its bytes, and the blocks whose cells have failed by now (R345, R346). -/
structure WhData where
  bytes : List Byte
  spoilt : List Nat := []
  deriving DecidableEq, Repr
/-- What the memories did while the Sluice worked: the Warehouse on the tiles it read (R123), and the channels whose state failed parity (R132). -/
structure SluiceLuck where
  tiles : WhLuck := {}
  badState : List Nat := []
  deriving DecidableEq, Repr
/-- What a received network frame carries (Table 15.10): ARP or NDP and an echo, a request or not; a PTP event message with its messageType
and sequenceId, or a PTP general message; a Clasuzal datagram; a Modbus TCP segment; a clause 31 PAUSE frame; anything else. -/
inductive FrameKind where
  | arp (request : Bool)
  | ndp (request : Bool)
  | echo (request : Bool)
  | ptpEvent (msg seq : Nat)
  | ptpGeneral
  | clasuzal
  | modbus
  | pause
  | other
  deriving DecidableEq, Repr

/-- A received network frame (R398, R399): what it carries, IP version (0 for none), length in bytes, whether its FCS is right, its VLAN tag,
whether its destination is the port's own address, broadcast or a listed group, whether it has IPv4 options, fragments or IPv6 extension
headers, its timestamp point in device time (1/256 ns), and the payload an echo returns. -/
structure NetFrame where
  kind : FrameKind
  ip : Nat := 0
  len : Nat := 64
  fcsOk : Bool := true
  vlan : Option Nat := none
  forUs : Bool := true
  options : Bool := false
  at_ : Nat := 0
  body : List Byte := []
  deriving DecidableEq, Repr
/-- Who makes a Modbus TCP request (R189): the network port, the number of the connection on it, and the connections of the port that their
clients have closed by now. -/
structure ModbusClient where
  port : Fin 2
  conn : Nat
  ended : List Nat := []
  deriving DecidableEq, Repr
/-- What a pass accumulated for one slice (R419): the mean of its codes, their variance, and its correlations with the slice before it and with
the slice after it. -/
structure SliceStat where
  mean : Rat
  var : Rat
  before : Rat
  after : Rat
  deriving DecidableEq, Repr

/-- What a pass accumulated for a lane (R419): slices 0 to 7 and the spare, and the slope of the lane's autocorrelation at 1 ns lag, per ps. -/
structure LaneStat where
  slices : List SliceStat
  slope : Rat
  deriving DecidableEq, Repr

/-- What a pass accumulated for a polarisation (R419): E[I²], E[Q²] and E[IQ]. -/
structure IqStat where
  ii : Rat
  qq : Rat
  iq : Rat
  deriving DecidableEq, Repr

/-- The errors of one slice in a pass (R419): offset in codes, gain as a ratio − 1, skew in ps. -/
structure SliceErr where
  offset : Rat
  gain : Rat
  skew : Rat
  deriving DecidableEq, Repr

/-- The errors of one polarisation in a pass (R419): amplitude as a ratio − 1, phase in degrees. -/
structure IqErr where
  amp : Rat
  phase : Rat
  deriving DecidableEq, Repr

/-- The die or bank that a trim image is for (R416): the Quay die at boot, the part of one quay after its own reset, a tally bank, the Sounding die. -/
inductive TrimDie where
  | quays
  | quay (n : Fin 8)
  | bank (n : Fin 8)
  | sounding
  deriving DecidableEq, Repr
/-- The balls that the device drives (Table 18.3): the launch DAC pairs LI and LQ (`q` set) of a quay, its gates, serial port and GPIO lines; ALERT_N;
a port's rows, enable and columns; BYB_OUT; a Sounding channel's excitation; a network port's transmitter, TX_DIS and I²C; HAWSER_OUT; and a
Warehouse channel's RESET_N. -/
inductive Ball where
  | dac (n : Nat) (q : Bool) | lgateA (n : Nat) | lgateT (n : Nat) | sclk (n : Nat) | mosi (n : Nat) | cs (n k : Nat) | gpio (n i : Nat)
  | alert | row (m r : Nat) | cen (m : Nat) | column (m j : Nat) | bybOut | exc (c : Nat)
  | netTx (n : Nat) | txDis (n : Nat) | i2c (n : Nat) | hawserOut | whReset (k : Nat)
  deriving DecidableEq, Repr

/-- How a ball is driven (Tables 18.3 and 18.5): a level; high-impedance with its weak pull-down, or without one; an open drain that is released; an
analogue output at a code, or one that sources no current; a transmitter at electrical idle, or an LVDS pair at differential 0; and an output in
the middle of a frame. -/
inductive Drive where
  | low | high | pulledDown | floating | released | code (v : Int) | off | idle | zero | frame
  deriving DecidableEq, Repr
/-- A reset source that asserts (R431); for source 0 with VDD_IO in mV as the power-on reset senses it (R464), or none where the supplies have yet
to ramp (R462). -/
structure ResetCause where
  src : Fin 16
  vddio : Option Nat := none
  deriving DecidableEq, Repr

end Sys2Proof
end

