-- ==== Sys2Proof/Syntax.lean ====
section
/-! DEFINITION. The commands of the block: one constructor per row of spec/opcode_table.json, in the table's order. -/

namespace Sys2Proof

/-- A command or event of the table of operations. -/
inductive Instr where
  /-- R3: a write of `value` to the register at byte address `addr`; `hwSet` holds the bits that hardware sets in the same cycle (R4). -/
  | registerWrite (who : Requester) (addr : Nat) (value : Word) (hwSet : Word)
  /-- R1: an access of `size` bytes at `addr` that is not an aligned 32-bit access. -/
  | unsupportedAccess (write : Bool) (addr size : Nat)
  /-- R32: a host access to an address of the BAR that no register occupies. -/
  | unmappedAccess (write : Bool) (addr : Nat)
  /-- R2: a read of the low word of the latching pair at `addr`. -/
  | lowWordRead (addr : Nat)
  /-- R5: a read of a register with RC fields; `hwSet` holds the bits hardware sets in the same cycle. -/
  | readClear (addr : Nat) (hwSet : Word)
  /-- R33: a host read of `len` bytes at Shed offset `off`. -/
  | shedWindowRead (off len : Nat)
  /-- R33: a host write of the bytes at Shed offset `off`. -/
  | shedWindowWrite (off : Nat) (bytes : List Byte)
  /-- R15: the receiver of `link` finds a CRC-32 mismatch in the flit numbered `flit`. -/
  | flitCrcMismatch (link : Fin 10) (flit : Nat)
  /-- R16: the link retrains after 8 failures of one flit. -/
  | linkRetrain (link : Fin 10)
  /-- R16: the retraining link is back up. -/
  | linkRetrainDone (link : Fin 10)
  /-- R23. -/
  | pllLockLoss (pll : Fin 7)
  /-- R23. -/
  | pllLockRegain (pll : Fin 7)
  /-- R22: a write to the Ballast register at `addr`. -/
  | ballastWrite (addr : Nat) (value : Word)
  /-- R22: the oldest queued Ballast write takes effect. -/
  | ballastWriteApply
  /-- R36: device time reaches the next multiple of 2^17 ns; `loads` is the berths' work that arrived in the closing tide, in order of arrival, `reserve` what the Harbourmaster's own work used of each engine, `stops` the output bytes at which each packing engine stops a job that is cut (R377). -/
  | tideBoundary (loads : List TideLoad) (reserve : List Nat) (stops : List Nat)
  /-- R25, R404: a write of HB_TIME_RATE. -/
  | timeRateWrite (value : Word)
  /-- R405: a write of HB_TIME_STEP_HI. -/
  | timeStepRequest (hi : Word)
  /-- R406: a write of VALIDATE. -/
  | timeValidate
  /-- R57: a write of LOAD. -/
  | manifestLoad
  /-- R58: the checks of Table 2.8 finish. -/
  | manifestCheckDone
  /-- R394. -/
  | hello
  /-- R392: the Harbourmaster takes the berth.open entry at MB_CMD_HEAD. -/
  | berthOpen
  /-- R392: the Harbourmaster takes the berth.close entry at MB_CMD_HEAD. -/
  | berthClose
  /-- R392: the Harbourmaster takes the berth.query entry at MB_CMD_HEAD. -/
  | berthQuery
  /-- R392: the Harbourmaster takes the tide.query entry at MB_CMD_HEAD. -/
  | tideQuery
  /-- R427. -/
  | calSwap
  /-- R453. -/
  | fwSwap
  /-- R336. -/
  | pierSwap
  /-- R193. -/
  | ledgerRead
  /-- R449. -/
  | sealBreak
  /-- R482. -/
  | commandParityFail
  /-- R388: a write of GO. -/
  | bootGo
  /-- R389: the verification of the image in the Shed ends. -/
  | bootVerifyDone
  /-- R416: a trim image has arrived whole, and its CRC-32 verifies or not. -/
  | trimImageArrive (die : TrimDie) (ok : Bool)
  /-- R416: the trim load is complete. -/
  | trimLoadDone
  /-- R74: a write of RUN of quay `n`. -/
  | quayRunWrite (n : Fin 8) (run : Bool)
  /-- R63: the next grid launch of the slot is due; `phase` is the phase, in turns, with which its carrier at f_s begins. -/
  | launchStart (n : Fin 8) (slot : Fin 16) (phase : Rat)
  /-- R74: the last sample of the oldest launch in flight in the slot leaves the DACs. -/
  | launchEnd (n : Fin 8) (slot : Fin 16)
  /-- R79: a write of RESUME = 1. -/
  | quayResumeWrite (n : Fin 8)
  /-- R84: line `i`, a FAULT input, becomes active. -/
  | faultInputActive (n : Fin 8) (i : Fin 4)
  /-- R75: a write of QY_PLAN_SEL. -/
  | planSelectWrite (n : Fin 8) (p : Fin 4)
  /-- R73: a write of QY_LGT_PERIOD, or, with `period` false, of QY_LGT_CFG. -/
  | lgateTCfgWrite (n : Fin 8) (period : Bool) (value : Word)
  /-- R73: LGATE_T reaches the instant of its next pulse. -/
  | lgateTPulse (n : Fin 8)
  /-- R83: a write of QY_SPI_CMD. -/
  | spiCommandWrite (n : Fin 8) (value : Word)
  /-- R82: the head command starts its frame. -/
  | spiFrameStart (n : Fin 8)
  /-- R81: the frame ends with these MISO bits. -/
  | spiFrameDone (n : Fin 8) (miso : Word)
  /-- R83: a read of QY_SPI_RXD. -/
  | spiRxdRead (n : Fin 8)
  /-- R84: a write of QY_GPIO_CFG. -/
  | gpioCfgWrite (n : Fin 8) (value : Word)
  /-- R84: a write of QY_GPIO_OUT. -/
  | gpioOutWrite (n : Fin 8) (value : Word)
  /-- R103: the next segment of quay `n` closes. `adc` holds the codes of the four physical lanes, lane 0 lowest, of the ADC samples since the last close, one word a nanosecond (R86); `residues` is the number of residue mismatches (R102); `badPoints` and `badSlots` name the point-state entries that fail parity from now on. -/
  | segmentClose (n : Fin 8) (adc : List (BitVec 48)) (residues : Nat) (badPoints : List Nat) (badSlots : SlotParity)
  /-- R105: the replay unit takes the oldest queued segment. -/
  | replayStart
  /-- R104: the replay ends, with this number of residue mismatches; the lists name the point-state entries that fail parity from now on, by point, and by 16 × point + slot. -/
  | replayDone (residues : Nat) (badPoints badOffsets badCode : List Nat)
  /-- R97: the estimate has covered 256 slot launches since its restart. -/
  | noiseEstimateValid (n : Fin 8)
  /-- R97: a write of RX_NOISE_LEN, or, with `len` false, of RX_NOISE_P0. -/
  | noiseWindowWrite (n : Fin 8) (len : Bool) (value : Word)
  /-- R109: a write of RX_CFG. -/
  | rxCfgWrite (n : Fin 8) (value : Word)
  /-- R121: the oldest full tile of a group of a berth is flushed; `parityRows` are its rows whose staging buffer fails parity (R123). -/
  | tileFlush (berth : Nat) (group : Nat) (parityRows : List Nat)
  /-- R130: the Sluice writes the next row of a berth; of the blocks of the tiles it reads, `queued` are still in the write queue, `once` fail the first reading and `spoilt` have failed by now (R123), and `badState` are the points whose state failed parity (R132). -/
  | sluiceRowWrite (berth : Nat) (queued once spoilt : List Nat) (badState : List Nat)
  /-- R133: a write of SYNC. -/
  | syncWrite
  /-- R156: the next block of a flow zone is complete and its record is written; `luck` is what the memories did meanwhile. -/
  | flowRecordWrite (berth : Nat) (luck : SluiceLuck)
  /-- R170: device time reaches the next whole second at which the ledger closes seconds. -/
  | ledgerSecondClose
  /-- R174: the commit in progress completes. -/
  | commitDone
  /-- R181: the oldest interval record whose last second has been committed joins the signing queue. -/
  | intervalRecord
  /-- R179: the record at the head of the signing queue is signed. -/
  | recordSign
  /-- R187: the collector sends HELLO with its version range and its resume point. -/
  | czHello (min : Nat) (max : Nat) (resume : Nat)
  /-- R188: the collector sends NACK with SEQ and its ranges, each a first RECSEQ and a count. -/
  | czNack (seq : Nat) (ranges : List (Nat × Nat))
  /-- R189: on a connection of a network port a Modbus TCP request with its function code, first register and number of registers arrives. -/
  | modbusRequest (client : ModbusClient) (fn : Nat) (addr : Nat) (count : Nat)
  /-- R191: the incoming ledger service compares the state digest. -/
  | ledgerHandoverVerify (same : Bool)
  /-- R456: B + 100 ms passes without a verification. -/
  | ledgerHandoverTimeout
  /-- R195: an edge of the active slope reaches the lane's converter at this raw time, in 1/256 ns of device time. -/
  | tallyEdge (lane : Fin 128) (raw : Nat)
  /-- R201: the start of the lane's source reaches its converter at this raw time, in 1/256 ns of device time. -/
  | tallyStart (lane : Fin 128) (raw : Nat)
  /-- R201: the timeout edge of the lane's measurement passes. -/
  | tallyTimeout (lane : Fin 128)
  /-- R208: a read of TL_FIFO_0. -/
  | tallyFifoPop (bank : Fin 8)
  /-- R212: the lane's oldest complete statistics set is written. -/
  | statSetComplete (lane : Fin 128)
  /-- R214: the lane's gate ends. -/
  | freqGateEnd (lane : Fin 128)
  /-- R217: the lane's dump or clear ends; `ok` says that the dump's Tug descriptor completed OK (R218). -/
  | histogramDumpDone (lane : Fin 128) (ok : Bool)
  /-- R219: a write of CLEAR = 1. -/
  | histogramClearWrite (lane : Fin 128)
  /-- R230: a write to TL_LANE_i_CFG, _TMO, _HCFG, _HOFS, _STATCFG or _FGATE, numbered 0 to 5. -/
  | laneCfgWrite (lane : Fin 128) (reg : Fin 6) (value : Word)
  /-- R226: the next complete trace of the berth is written. -/
  | ramanTraceRecord (berth : Nat)
  /-- R237: the next scan frame of port `m` is due. -/
  | scanFrameStart (m : Fin 8)
  /-- R234: the next row slot of the scan frame in progress; bit j of `sense` is BC_m_SNS_j 35 ns after the shot instant (R240). -/
  | rowSlot (m : Fin 8) (sense : Nat)
  /-- R241: the diagnostic slot of the scan frame in progress, with the sense lines (R240). -/
  | diagnosticSlot (m : Fin 8) (sense : Nat)
  /-- R243: a write of SHORTCHK = 1. -/
  | shortCheckWrite (m : Fin 8)
  /-- R243: the check of port `m` ends with these pairs of line codes, in the order found (R242). -/
  | shortCheckDone (m : Fin 8) (pairs : List (Nat × Nat))
  /-- R246: a write of RESUME = 1. -/
  | beaconResumeWrite (m : Fin 8)
  /-- R255: the record of the berth's oldest dumped frame is written. -/
  | rangingRecord (berth : Nat)
  /-- R262: the next Bybovi frame is due. -/
  | byboviFrameStart
  /-- R266: a returned share of 40 bits other than END, and whether it holds a symbol error (R260). -/
  | byboviStatusShare (share : Nat) (symbolError : Bool)
  /-- R266: END returns. -/
  | byboviEnd
  /-- R266: position `k` has had no valid status share in 3 successive frames. -/
  | headLost (k : Fin 16)
  /-- R268: a write of BC_BYB_k_CMD. -/
  | byboviCmdWrite (k : Fin 16) (value : Word)
  /-- R262: a write of DISCOVER = 1. -/
  | byboviDiscover
  /-- R280: channel `c` is due to start a conversion at device time `t`, a mains cycle start. -/
  | conversionStart (c : Fin 16) (t : Nat)
  /-- R283: the conversion of channel `c` ends at `t` with this unclamped code (R274), with or without a modulator overload (R276), at a measured excitation in nA or µV (R271); `ended` lists the channels whose conversions end at the same instant with OVR (R277). -/
  | conversionEnd (c : Fin 16) (t : Nat) (code : Int) (overload : Bool) (exc : Nat) (ended : List (Fin 16))
  /-- R272: as CONVERSION_END, for a lead conversion. -/
  | leadConversionEnd (c : Fin 16) (t : Nat) (code : Int) (overload : Bool) (exc : Nat) (ended : List (Fin 16))
  /-- R280: a write of START = 1. -/
  | soundingStart
  /-- R281: a write of RESTART = 1. -/
  | soundingRestart
  /-- R280: a write of MODE = STOP. -/
  | soundingStop
  /-- R281: a write of MSRC. -/
  | msrcWrite (msrc : Fin 4)
  /-- R279: MAINS_SYNC is lost; its last period in ns, 0 with no edges. -/
  | mainsLost (period : Nat)
  /-- R279: MAINS_SYNC has been within the lock range for 10 cycles; its period in ns. -/
  | mainsRelock (period : Nat)
  /-- R297: a write to register `reg` of channel `c`, counted in the order of R296. -/
  | soundingCfgWrite (c : Fin 16) (reg : Fin 10) (value : Word)
  /-- R424: the next step of the rotation (zero, V_REF, R_REF through buffers 0 to 3) ends with this reading. -/
  | referenceRotationStep (reading : Int)
  /-- R303: the watch in slot `w` takes the next sample of its source. -/
  | watchSampleTake (w : Fin 32)
  /-- R311: the header of the capture of slot `w` that is complete is written. -/
  | captureHeaderWrite (w : Fin 32)
  /-- R307: a write of FORCE = 1. -/
  | watchForce (w : Fin 32)
  /-- R308: a write of REARM = 1. -/
  | watchRearm (w : Fin 32)
  /-- R308: a write of WT_w_HYST, or of WT_w_LEVEL. -/
  | watchLimitWrite (w : Fin 32) (hyst : Bool) (value : Word)
  /-- R321: the core takes the pending interrupt `src` (TIDE, ABANDON, SWAP, DOORBELL, TIMER). -/
  | pierInterrupt (core : Fin 16) (src : Fin 5)
  /-- R322: the core takes an interrupt that has been held for LAT cycles inside a REPEAT body. -/
  | holdOffBreak (core : Fin 16) (src : Fin 5)
  /-- R320: REPEAT n, len. -/
  | repeatBody (core : Fin 16) (n : RepeatCount) (len : Nat)
  /-- R327: TAPMOV a_k, c_h, c_x, g_c, s. -/
  | tapmov (core : Fin 16) (k : Fin 4) (h x : Fin 8) (c : Fin 32) (step : Int)
  /-- R323: a_k += lo16(g_a) × lo16(g_b). -/
  | mac (core : Fin 16) (k : Fin 4) (ga gb : Fin 32)
  /-- R323: a_k −= lo16(g_a) × lo16(g_b). -/
  | msu (core : Fin 16) (k : Fin 4) (ga gb : Fin 32)
  /-- R323: the complex product into a_(2·pair) and a_(2·pair + 1). -/
  | cmac (core : Fin 16) (pair : Fin 2) (ga gb : Fin 32)
  /-- R323: g_d := a_k >> sh, rounded and saturated to 16 or 32 bits. -/
  | ext (core : Fin 16) (d : Fin 32) (k : Fin 4) (sh : Fin 40) (w32 : Bool)
  /-- R323: a_k := 0. -/
  | clra (core : Fin 16) (k : Fin 4)
  /-- R323: a_k := the value moved. -/
  | mova (core : Fin 16) (k : Fin 4) (value : BitVec 40)
  /-- R323: a_k := the sign-extended bytes at the address. -/
  | lda (core : Fin 16) (k : Fin 4) (addr : PierAddr) (load : AccLoad)
  /-- R325: post-modifies P of c_i alone. -/
  | cmod (core : Fin 16) (i : Fin 8) (step : Int)
  /-- R319: a load, with the second access of the instruction if it makes one, and the cycles the core stalls. -/
  | ld (core : Fin 16) (dst : PierDst) (addr : PierAddr) (n : Nat) (signed : Bool) (second : Option PierAccess) (stall : Nat)
  /-- R318: a store, as LD. -/
  | st (core : Fin 16) (src : Fin 32) (addr : PierAddr) (n : Nat) (second : Option PierAccess) (stall : Nat)
  /-- R319: a branch and whether its condition holds. -/
  | branch (core : Fin 16) (taken : Bool) (target : Fin 16384)
  /-- R328: POST g_e, g_a. -/
  | post (core : Fin 16) (e a : Fin 32)
  /-- R329: END. -/
  | endJob (core : Fin 16)
  /-- R322: RTI. -/
  | rti (core : Fin 16)
  /-- R328: a write of PI_CL_POST_1. -/
  | jobPostWrite (cluster : Fin 4) (arg : Word)
  /-- R329: the dispatcher looks for a job for the core. -/
  | jobDispatch (core : Fin 16)
  /-- R342: a write of INIT = 1 to WH_CTL. -/
  | warehouseInit
  /-- R342: training of both channels is complete. -/
  | warehouseReady
  /-- R343, R346 to R350: a read request, who makes it, and what the memory did. -/
  | warehouseRead (req : WhReq) (addr len : Nat) (luck : WhLuck)
  /-- R343, R345, R348 to R350: a write request, who makes it, and what it carries. -/
  | warehouseWrite (req : WhReq) (addr : Nat) (data : WhData)
  /-- R348: a request of class `cls` has waited `waited` ns. -/
  | warehousePromotion (cls : Fin 4) (waited : Nat)
  /-- R352: a write of TG_e_CH_c_HEAD. -/
  | tugEnqueue (e : Fin 8) (c : Fin 32) (value : Word)
  /-- R358: the free engine chooses its next chain. -/
  | tugChainStart (e : Fin 8)
  /-- R360 to R363: the descriptor in progress ends; `host` holds the bytes read from host memory, `fails` the first beat that a register block, host memory or a Lock answered with an error, or, where the chain was cut, where issuing stopped. -/
  | tugDescriptorComplete (e : Fin 8) (luck : WhLuck) (host : List Byte) (fails : Option TugFail)
  /-- R364: the Lock of a domain being powered down closes. -/
  | lockClose (domain : Fin 26)
  /-- R373: a write of PK_e_JOB. -/
  | packingEnqueue (e : Fin 2) (value : Word)
  /-- R374: the free engine takes its next job. -/
  | packingJobStart (e : Fin 2)
  /-- R374 to R379: the running job ends after `cycles` cycles. -/
  | packingJobComplete (e : Fin 2) (cycles : Nat) (luck : WhLuck)
  /-- R381: the capture stream at a berth index reads its next source unit. -/
  | captureUnitRead (b : Fin 4096) (luck : WhLuck)
  /-- R381: the stream's crate closes and is written to its ring. -/
  | crateClose (b : Fin 4096)
  /-- R401: a write of EN = 1 to NT_EXP_k_CFG, with PORT and DPORT. -/
  | exportEnableWrite (k : Fin 8) (port : Fin 2) (dport : BitVec 16)
  /-- R399: port `n` receives a frame. -/
  | networkFrameReceive (n : Fin 2) (f : NetFrame)
  /-- R403: a read of NT_TS_FIFO_0. -/
  | ptpStampPop
  /-- R408: a frame arrives whose Manchester coding is good or not, its first edge at device time `at_`, in 1/16 ns. -/
  | hawserFrameReceive (frame : BitVec 96) (coded : Bool) (at_ : Nat)
  /-- R408: 100 ns have passed since the arrival of the frame to be forwarded. -/
  | hawserForward
  /-- R409: 3 successive boundaries have passed without a good frame. -/
  | hawserLost
  /-- R412: an edge of PPS_IN at device time `at_`, in 1/16 ns. -/
  | ppsInEdge (at_ : Nat)
  /-- R412: a second of counting F10M_IN gives this rate error. -/
  | f10mRateUpdate (rate : Word)
  /-- R419: lane `l` of quay `n` completes a pass: what it accumulated over the samples that are neither clipped nor near a clipped one, and, with the last lane, what polarisations X and Y accumulated. -/
  | backscatterPass (n : Fin 8) (l : Fin 4) (stat : LaneStat) (iq : List IqStat)
  /-- R422: the lane has 2^20 hits: the hits by tap, and the taps in more than one bubble per 10,000 hits (R423). -/
  | codeDensityPass (lane : Fin 128) (hits : List Nat) (bubbly : List Nat)
  /-- R428: the selection record of the oldest landed swap is written. -/
  | calSelectionWrite
  /-- R433: a source asserts. -/
  | resetAssert (cause : ResetCause)
  /-- R433: every asserted source is inactive. -/
  | resetRelease
  /-- R433: a write of WARM in RS_CTL. -/
  | warmResetWrite
  /-- R433: a write of COLD in RS_CTL. -/
  | coldResetWrite
  /-- R432: a write of RS_DOM_RST. -/
  | domainResetWrite (domain : Fin 32)
  /-- R436: a write of RS_BERTH_RST. -/
  | berthResetWrite (index : Fin 4096)
  /-- R435: the domain is ready after an L2 reset or power-up. -/
  | domainReady (domain : Fin 26)
  /-- R484: a write of RS_WDT_CFG. -/
  | watchdogCfgWrite (value : Word)
  /-- R484: a write of RS_WDT_KICK. -/
  | watchdogKick (key : Fin 256)
  /-- R484: the period runs out. -/
  | watchdogExpire
  /-- R445: a powered domain leaves a transfer unanswered for 20 µs. -/
  | lockTimeout (domain : Fin 26)
  /-- R433: Tj is at or above 125 °C for 10 µs. -/
  | thermalTrip
  /-- R466: VDD_CORE or VDD_SRAM falls to its brown-out threshold. -/
  | brownOut
  /-- R466: another supply leaves its range for 1 µs. -/
  | supplyFault
  /-- R442: a write of RS_PWR_REQ. -/
  | powerRequest (domain : Fin 32) (on : Bool)
  /-- R437: a write of RELEASE in RS_PIN_HOLD. -/
  | pinHoldRelease
  /-- R485: a write of RS_BAL_RTC_LO. -/
  | rtcLoWrite (value : Word)
  /-- R485: a write of RS_BAL_RTC_HI. -/
  | rtcHiWrite (value : BitVec 16)
  /-- R447: VBAT returns after a loss. -/
  | vbatReturn
  /-- R441: a write of KEY 0xA5 to RS_SAFE, with Tj in °C + 64, and whether ILOCK_N rises in the same cycle. -/
  | safeArm (tj : Fin 256) (rises : Bool)
  /-- R440: a write of KEY 0x5A to RS_SAFE. -/
  | safeEngage
  /-- R440: ILOCK_N goes high. -/
  | ilockNHigh
  /-- R440: Tj reaches this value, in °C + 64. -/
  | thermalWarn (tj : Fin 256)
  /-- R448: a write of FIT in CU_CTL. -/
  | fitWrite
  /-- R450: a write of SEAL in CU_CTL. -/
  | sealWrite
  /-- R449: a write of APPLY in CU_CTL. -/
  | tokenApply
  /-- R448: a write of GO in CU_PROG_CTL. -/
  | charterProgram
  /-- R448: programming ends; `a` and `b` are the bits that stay blown in copies A and B. -/
  | charterProgramDone (a b : Word)
  /-- R454: the incoming firmware has checked the handover block's digest. -/
  | fwSwapReady (ok : Bool)
  /-- R454: B + 20 ms passes without FW_READY. -/
  | fwSwapTimeout
  /-- R441: ILOCK_N goes low. -/
  | ilockNLow
  /-- R84: line `i`, a FAULT input, becomes inactive. -/
  | faultInputInactive (n : Fin 8) (i : Fin 4)
  /-- R447: VBAT is removed. -/
  | vbatLoss
  /-- R72: the lead before the slot's next grid launch begins. -/
  | lgateARise (n : Fin 8) (slot : Fin 16)
  /-- R392. -/
  | unknownCmd
  /-- R31: a host read of a register whose domain may be off. -/
  | domainOffRead (addr : Nat)
  /-- R403: port `n` sends a PTP event message whose timestamp point passes at `at_`, in 1/256 ns. -/
  | ptpSend (n : Fin 2) (msg : Fin 4) (seq : BitVec 16) (at_ : Nat)
  deriving DecidableEq, Repr

end Sys2Proof
end

