-- ==== Sys2Proof/Decode.lean ====
section
/-! DEFINITION. The decoder over opcode_table.json. No row of the table gives bits, so no word spells a command. -/

namespace Sys2Proof

/-- The command that the `nbits` bits of `w` spell by the table: none, since the table gives no row bits. -/
def decodeTableWord (_nbits _w : Nat) : Option Instr := none

end Sys2Proof
end

