-- ==== Sys2Proof/Machine/Crypto.lean ====
section
/-! DEFINITION. The check words and signatures that the spec names by their standards: CRC-32 (R371), SHA-256, and ECDSA P-256
with the deterministic nonce of RFC 6979 (R55, R167, R179). The constants come from those standards (log entry 15). -/

namespace Sys2Proof.Machine

/-- Eight shifts of the reflected CRC register. -/
def crcShift : Nat → Nat → Nat
  | 0, x => x
  | k + 1, x => crcShift k (if x % 2 = 1 then (x / 2) ^^^ 0xEDB88320 else x / 2)

/-- CRC-32 of ISO/IEC 3309 (R371). -/
def crc32 (bs : List Byte) : Nat := (bs.foldl (fun c b => crcShift 8 (c ^^^ b.toNat)) 0xFFFFFFFF) ^^^ 0xFFFFFFFF

/-- The first 32 bits of the fractions of the cube roots of the primes 2 to 311, which SHA-256 adds round by round, eight to a row and the
smallest prime's highest. -/
def shaRoots : List Nat :=
  [0x428a2f9871374491b5c0fbcfe9b5dba53956c25b59f111f1923f82a4ab1c5ed5,
   0xd807aa9812835b01243185be550c7dc372be5d7480deb1fe9bdc06a7c19bf174,
   0xe49b69c1efbe47860fc19dc6240ca1cc2de92c6f4a7484aa5cb0a9dc76f988da,
   0x983e5152a831c66db00327c8bf597fc7c6e00bf3d5a7914706ca635114292967,
   0x27b70a852e1b21384d2c6dfc53380d13650a7354766a0abb81c2c92e92722c85,
   0xa2bfe8a1a81a664bc24b8b70c76c51a3d192e819d6990624f40e3585106aa070,
   0x19a4c1161e376c082748774c34b0bcb5391c0cb34ed8aa4a5b9cca4f682e6ff3,
   0x748f82ee78a5636f84c878148cc7020890befffaa4506cebbef9a3f7c67178f2]

/-- The constant of round `i`. -/
def shaK (i : Nat) : Word := BitVec.ofNat 32 (shaRoots.getD (i / 8) 0 / 2 ^ (32 * (7 - i % 8)))

/-- The eight working words of SHA-256. -/
structure Sha where
  a : Word := 0x6a09e667
  b : Word := 0xbb67ae85
  c : Word := 0x3c6ef372
  d : Word := 0xa54ff53a
  e : Word := 0x510e527f
  f : Word := 0x9b05688c
  g : Word := 0x1f83d9ab
  h : Word := 0x5be0cd19
  deriving DecidableEq, Repr

/-- One round of SHA-256 with its constant and schedule word. -/
def Sha.round (x : Sha) (k w : Word) : Sha :=
  let s1 := x.e.rotateRight 6 ^^^ x.e.rotateRight 11 ^^^ x.e.rotateRight 25
  let t1 := x.h + s1 + ((x.e &&& x.f) ^^^ (~~~x.e &&& x.g)) + k + w
  let s0 := x.a.rotateRight 2 ^^^ x.a.rotateRight 13 ^^^ x.a.rotateRight 22
  let t2 := s0 + ((x.a &&& x.b) ^^^ (x.a &&& x.c) ^^^ (x.b &&& x.c))
  ⟨t1 + t2, x.a, x.b, x.c, x.d + t1, x.e, x.f, x.g⟩

/-- The message schedule, newest word first, extended by `k` words. -/
def shaExpand : Nat → List Word → List Word
  | 0, ws => ws
  | k + 1, ws =>
    let x := ws.getD 14 0
    let y := ws.getD 1 0
    let s0 := x.rotateRight 7 ^^^ x.rotateRight 18 ^^^ (x >>> 3)
    let s1 := y.rotateRight 17 ^^^ y.rotateRight 19 ^^^ (y >>> 10)
    shaExpand k ((s1 + ws.getD 6 0 + s0 + ws.getD 15 0) :: ws)

/-- A block of 64 bytes as 16 words, highest byte first. -/
def shaWords : Nat → List Byte → List Word
  | 0, _ => []
  | k + 1, bs => BitVec.ofNat 32 (beNat (bs.take 4)) :: shaWords k (bs.drop 4)

/-- The compression of one block. -/
def Sha.block (x : Sha) (bs : List Byte) : Sha :=
  let ws := (shaExpand 48 (shaWords 16 bs).reverse).reverse
  let y := ws.zipIdx.foldl (fun t q => t.round (shaK q.2) q.1) x
  ⟨x.a + y.a, x.b + y.b, x.c + y.c, x.d + y.d, x.e + y.e, x.f + y.f, x.g + y.g, x.h + y.h⟩

/-- The blocks of a padded message. -/
def shaBlocks : Nat → List Byte → Sha → Sha
  | 0, _, x => x
  | k + 1, bs, x => shaBlocks k (bs.drop 64) (x.block (bs.take 64))

/-- SHA-256 of a list of bytes: 32 bytes. -/
def sha256 (m : List Byte) : List Byte :=
  let pad : List Byte := 0x80 :: List.replicate ((119 - m.length % 64) % 64) 0
  let bs := m ++ pad ++ beBytes 8 (8 * m.length)
  let x := shaBlocks (bs.length / 64) bs {}
  [x.a, x.b, x.c, x.d, x.e, x.f, x.g, x.h].flatMap (fun w => beBytes 4 w.toNat)

/-- HMAC-SHA256 for a key of at most 64 bytes. -/
def hmac (key m : List Byte) : List Byte :=
  let k := key ++ List.replicate (64 - key.length) 0
  sha256 (k.map (· ^^^ 0x5c) ++ sha256 (k.map (· ^^^ 0x36) ++ m))

/-- The field prime of P-256. -/
def p256P : Nat := 0xffffffff00000001000000000000000000000000ffffffffffffffffffffffff
/-- The order of the base point of P-256. -/
def p256N : Nat := 0xffffffff00000000ffffffffffffffffbce6faada7179e84f3b9cac2fc632551
/-- The coefficient b of P-256. -/
def p256B : Nat := 0x5ac635d8aa3a93e7b3ebbd55769886bc651d06b0cc53b0f63bce3c3e27d2604b
/-- The base point of P-256. -/
def p256G : Nat × Nat := (0x6b17d1f2e12c4247f8bce6e563a440f277037d812deb33a0f4a13945d898c296,
  0x4fe342e2fe1a7f9b8ee7eb4a7c0f9e162bce33576b315ececbb6406837bf51f5)

/-- `x ^ e mod m` over `k` bits of `e`. -/
def powMod (m x : Nat) : Nat → Nat → Nat
  | 0, _ => 1 % m
  | k + 1, e => let h := powMod m (x * x % m) k (e / 2); if e % 2 = 1 then x * h % m else h

/-- The inverse modulo a prime of 256 bits. -/
def invMod (m x : Nat) : Nat := powMod m (x % m) 256 (m - 2)

/-- Addition on P-256; `none` is the point at infinity. -/
def ecAdd : Option (Nat × Nat) → Option (Nat × Nat) → Option (Nat × Nat)
  | none, q => q
  | p, none => p
  | some (x1, y1), some (x2, y2) =>
    if x1 = x2 ∧ (y1 + y2) % p256P = 0 then none
    else
      let l := if x1 = x2 then (3 * x1 * x1 + (p256P - 3)) * invMod p256P (2 * y1) % p256P
        else (y2 + p256P - y1) * invMod p256P (x2 + p256P - x1) % p256P
      let x3 := (l * l + 2 * p256P - x1 - x2) % p256P
      some (x3, (l * (x1 + p256P - x3) + p256P - y1) % p256P)

/-- The multiple of a point by the low `k` bits of a number. -/
def ecMul (p : Option (Nat × Nat)) : Nat → Nat → Option (Nat × Nat)
  | 0, _ => none
  | k + 1, n => let h := ecMul (ecAdd p p) k (n / 2); if n % 2 = 1 then ecAdd p h else h

/-- A pair of coordinates is a point of P-256. -/
def onCurve (q : Nat × Nat) : Bool :=
  decide (q.1 < p256P ∧ q.2 < p256P) && (q.2 * q.2 % p256P == (q.1 * q.1 * q.1 + (p256P - 3) * q.1 + p256B) % p256P)

/-- ECDSA P-256 verification of a digest under a 64-byte public key, by a 64-byte signature r and s, big-endian. -/
def ecdsaVerify (key digest sig : List Byte) : Bool :=
  let q := (beNat (key.take 32), beNat ((key.drop 32).take 32))
  let r := beNat (sig.take 32)
  let s := beNat ((sig.drop 32).take 32)
  if decide (0 < r ∧ r < p256N ∧ 0 < s ∧ s < p256N) && onCurve q then
    let w := invMod p256N s
    match ecAdd (ecMul (some p256G) 256 (beNat digest * w % p256N)) (ecMul (some q) 256 (r * w % p256N)) with
    | some (x, _) => x % p256N == r
    | none => false
  else false

/-- The nonces of RFC 6979 tried until one gives a signature, at most `k` of them. -/
def nonceLoop (d z : Nat) (key v : List Byte) : Nat → List Byte
  | 0 => List.replicate 64 0
  | k + 1 =>
    let v1 := hmac key v
    let n := beNat v1
    let r := match ecMul (some p256G) 256 n with
      | some (x, _) => x % p256N
      | none => 0
    let s := invMod p256N n * (z + r * d) % p256N
    if 0 < n ∧ n < p256N ∧ 0 < r ∧ 0 < s then beBytes 32 r ++ beBytes 32 s
    else
      let key1 := hmac key (v1 ++ [0])
      nonceLoop d z key1 (hmac key1 v1) k

/-- ECDSA P-256 signature of a digest under a private key, with the nonce of RFC 6979 (R179). -/
def ecdsaSign (d : Nat) (digest : List Byte) : List Byte :=
  let z := beNat digest
  let seed := beBytes 32 d ++ beBytes 32 (z % p256N)
  let v0 : List Byte := List.replicate 32 1
  let k1 := hmac (List.replicate 32 0) (v0 ++ [0] ++ seed)
  let v1 := hmac k1 v0
  let k2 := hmac k1 (v1 ++ [1] ++ seed)
  nonceLoop d z k2 (hmac k2 v1) 64

/-- The public key of a private key, 64 bytes. -/
def ecdsaPublic (d : Nat) : List Byte :=
  match ecMul (some p256G) 256 d with
  | some (x, y) => beBytes 32 x ++ beBytes 32 y
  | none => List.replicate 64 0

end Sys2Proof.Machine
end

