-- ==== Sys2Proof/Config.lean ====
section
/-! DEFINITION. What an implementation fixes: the constants the spec's tables give, and the free values, constants with no
body, that stand for what the spec leaves open. -/

namespace Sys2Proof

/-- Length of a tide in ns (R35). -/
def Config.tideLen : Nat := 131072

/-- Capacity of budget engine `n` in engine-ns per tide (Table 2.2). -/
def Config.budgetCap (n : Nat) : Nat :=
  if n = 0 then 2097152 else if n ≤ 4 then 524288 else if n ≤ 12 then 131072 else if n ≤ 16 then 262144
  else if n = 17 then 262144 else if n = 18 then 131072 else if n = 19 then 262144 else 0

/-- Highest version of interface `i` (Table 15.9). -/
def Config.ifMax (i : Nat) : Nat := if i = 1 then 1 else 2

/-- The free value: the `n`-th value the spec leaves open (log entry 2). -/
opaque Config.freeValue : Nat → Nat

/-- Bytes of a Warehouse block that nothing has written since READY (R481): free, by occasion and address. -/
opaque Config.undefByte : Nat → Nat → Byte

/-- Whether the check of a block not written since READY passes (R481): free, by occasion and block. -/
opaque Config.undefPass : Nat → Nat → Bool

/-- The bank of its channel in which a Warehouse block lies: the memory's own, which the spec does not give (R349). -/
opaque Config.dramBank : Nat → Nat

/-- The row of its bank in which a Warehouse block lies (R349). -/
opaque Config.dramRow : Nat → Nat

/-- Padding bytes up to the rounded size of a ring slot, which the spec gives no value: free, by address. -/
opaque Config.padByte : Nat → Byte

/-- The aligned phase of a vanishing product sum, arg(0), which is not defined (R93, R95). -/
opaque Config.argOfZero : Nat

/-- The taps of the channeliser's prototype filter for 2^LOG2N slots (R89): the limits are given, the taps are not. -/
opaque Config.channelTap : Nat → Nat → Rat

/-- The scale by which compressed outputs come to their 16-bit parts, by LOG2N and the launch length in half nanoseconds (R90). -/
opaque Config.filterScale : Nat → Nat → Rat

/-- The power of full scale of the compressed outputs (R97). -/
opaque Config.fullScale : Rat

/-- Which of the eight slices of a lane takes the sample of device time 0 (R419). -/
opaque Config.slicePhase : Nat

/-- Whether a half-band stage outputs at its even or its odd inputs (R124). -/
opaque Config.stagePhase : Nat

/-- The coefficients of a half-band stage at the odd distances 1, 3, … 15 from its centre (R124): limits on its response are given, the
coefficients are not. -/
opaque Config.halfBand : Nat → Rat

/-- The coefficients of the resampler's phases, and of the phase after the last, but for the one that makes the DC gain 1 (R125). -/
opaque Config.phaseTap : Nat → Nat → Rat

/-- The part of a sample that a skew trim of so many 1/64 ps adds, by the trim and the sample (R86, Table 16.5). -/
opaque Config.skewTerm : Int → Rat → Rat

/-- I and Q of a polarisation under I/Q trims other than 1 and 0°: amplitude in 2^-16, phase in 1/1,024°, I and Q (R86, Table 16.5). -/
opaque Config.iqBalance : Int → Int → Rat → Rat → Rat × Rat

/-- QUAL of a vanishing product sum over a vanishing noise power (R97): the quotient 0 / 0 is not defined. -/
opaque Config.qualOfZero : Nat

/-- The words that a profile of the PROFILES section gives a berth of a kind, by the section's body, the kind and the profile
index; none where the section holds no such profile (R479). The layout of the section's body is not
given. -/
opaque Config.profileWords : List Byte → Nat → Nat → Option (List Nat)

/-- The flow-zone parts of a PROFILES body, which check 11 compares (Table 2.8); the layout is not given. -/
opaque Config.flowProfiles : List Byte → List Byte

/-- Properties of a fluid that a formulation of Table 6.3 gives: density in kg/m³, specific enthalpy in J/kg, viscosity in Pa·s and
speed of sound in m/s. -/
structure FluidProps where
  rho : Rat := 0
  h : Rat := 0
  mu : Rat := 0
  c : Rat := 0
  deriving DecidableEq, Repr, Inhabited

/-- Viscosity of saturated steam at P and dryness x; the spec names no mixing rule. -/
opaque Config.satMu : Rat → Rat → Rat

/-- Dryness of saturated steam from P and the speed of sound, by the firmware's homogeneous-equilibrium table. -/
opaque Config.dryness : Rat → Rat → Rat

/-- Humid air by the firmware's real humid-air table, from P, T and the humidity ratio W. -/
opaque Config.air : Rat → Rat → Rat → FluidProps

/-- Humidity ratio from P, T and the speed of sound, not yet clamped, and the saturation ratio at P and T. -/
opaque Config.airW : Rat → Rat → Rat → Rat × Rat

/-- T_sound for a speed of sound that no temperature in the zone's range gives at the pressure (R155): not stated. -/
opaque Config.noSoundTemp : Rat → Rat → Rat

/-- The power P(k, f) at a wavenumber beyond the 256 of R147, by the wavenumber in turns per metre and the bin. -/
opaque Config.powerBeyond : Rat → Nat → Rat

/-- The refined slope where the strongest trial slope ends a search range and has no second neighbour (R148). -/
opaque Config.edgeSlope : Rat → Rat

/-- Whether a value between two units of a field is rounded up, where the spec states no rounding. -/
opaque Config.roundsUp : Rat → Bool

/-- A computed value in the unit of its field where the spec states no rounding: a whole number stands, any other value becomes one of its
two neighbours. -/
def Config.rnd (x : Rat) : Int := if x = x.floor ∨ Config.roundsUp x = false then x.floor else x.floor + 1

/-- The ARGS bytes of HOLD_LOST (Table 7.10): how a mask of points and their RECSEQs stand in 52 bytes is not given. -/
opaque Config.holdLostArgs : List Nat → List Byte

/-- The length in bytes of item `i` in the ARGS of an event `code`, for an item whose width no table gives: a flag bit, a cluster, a
reset cause, HB_CLK_STATUS.LOCK, a counter's index, a table that fell back (Table 7.10). -/
opaque Config.argLen : Nat → Nat → Nat

/-- The error in °C of the inverse of a PT curve at the ratio R/R0, which R285 bounds by 0.1 mK. -/
opaque Config.ptError : Rat → Rat

/-- The error in °C of the inverse of a thermocouple curve at E in µV, which R285 bounds by 1 mK. -/
opaque Config.tcError : Nat → Rat → Rat

/-- The factory reading of rotation step `n` in Charter table 6 (R424); the layout of the table is not given. -/
opaque Config.factoryReading : List Byte → Nat → Int

/-- The byte offset in Charter table 2 of the slot of a key class that a KEY_ID names; the layout of the table is not given. -/
opaque Config.keySlot : Nat → Nat → Option Nat

/-- The KEY_IDs of the slots of a key class in Charter table 2. -/
opaque Config.keyIds : Nat → List Nat

/-- A Charter word holds an energy limit, which Customs does not program (R483); the places within table 3 are not given. -/
opaque Config.limitWord : Nat → Bool

/-- The mailbox versions that a firmware VERSION offers, MIN and MAX (R395). -/
opaque Config.fwRange : Nat → Nat × Nat

/-- What the compressor makes of the bytes of a crate: literals and pairs of a length and a distance (R368). -/
inductive DeflateTok where
  | lit (b : Byte)
  | pair (len dist : Nat)
  deriving DecidableEq, Repr, Inhabited

/-- The literals and pairs that the compressor finds in a crate at a LEVEL (R368); which candidates it examines is not given. -/
opaque Config.findMatches : Nat → List Byte → List DeflateTok

/-- The code lengths of the dynamic tables for a list of literals and pairs: literal and length codes, distance codes (R368). -/
opaque Config.dynLengths : List DeflateTok → List Nat × List Nat

/-- The bits in which a dynamic block's header gives those code lengths (R368); the choice among the forms of RFC 1951 is not given. -/
opaque Config.dynHeader : List Nat × List Nat → List Bool

/-- Whether firmware holds PPS valid, by the instant of its last edge (1/16 ns) and device time. -/
opaque Config.ppsValid : Nat → Nat → Bool

/-- Whether firmware holds PTP valid, by device time. -/
opaque Config.ptpValid : Nat → Bool

/-- MAC address of port `n` in Charter table 1; the layout of the table beyond the identity is not given. -/
opaque Config.macOf : List Byte → Nat → Nat

/-- The jitter seed in Charter table 1. -/
opaque Config.jitSeed : List Byte → Nat

/-- The mapped-out taps that the 16 bytes of a lane in Charter table 5 list; how unused places are marked is not given. -/
opaque Config.tapList : List Byte → List Nat

/-- The byte that the factory left at a Charter address (Table 16.3). -/
opaque Config.factoryByte : Nat → Byte

/-- The level fuse v_s of source `s` that Charter table 3 holds (R431); its layout within the table is not given. -/
opaque Config.fuseLevel : List Byte → Nat → Nat

/-- E_EMIT_MAX and E_HEAD_MAX in Charter table 3 (R483). -/
opaque Config.fuseLimits : List Byte → Nat × Nat

/-- The 32-bit field of Charter table 3 whose blown bits are the rollback count (R483). -/
opaque Config.fuseRollback : List Byte → Nat

/-- Whether every field of a PROFILES body is in range (Table 2.8, check 7); its layout is not given. -/
opaque Config.profilesOk : List Byte → Bool

/-- The vendor default of level fuse v_s (Table 17.1): source `s` resets at level 3 − v_s. -/
def Config.vendorLevel (s : Nat) : Nat := [3, 2, 2, 2, 2, 2, 3, 3, 2, 3, 1, 1, 0, 3, 2, 3].getD s 3

end Sys2Proof
end

