-- ==== Sys2Proof/Machine/Fields.lean ====
section
/-! DEFINITION. Every register field the spec's register tables name, one constant per field under the manual's own
register and field names, with the key (the bit address in the register window: 8 times the byte address plus the lowest bit),
the width and the reset value of the table. Lower-case letters in a name are the instance letters of the tables and
become arguments, in the order they stand in the name. A reset that the table calls "per fuses", "per Charter" or "random"
stands as 0 here (log entry 4); the out-of-reset sequence loads it. -/

namespace Sys2Proof.Machine

/-- A register field: where it lies (bit address), how wide it is, what it holds after the reset of its block. -/
structure Fld where
  key : Nat
  width : Nat
  reset : Nat
  deriving DecidableEq, Repr

namespace R
/-! Table 1.10 -/
def HB_ID_PART : Fld := ⟨8 * (0x0) + 16, 16, 33064⟩
def HB_ID_FAMILY : Fld := ⟨8 * (0x0) + 8, 8, 1⟩
def HB_ID_STEP_MAJ : Fld := ⟨8 * (0x0) + 4, 4, 0⟩
def HB_ID_STEP_MIN : Fld := ⟨8 * (0x0) + 0, 4, 0⟩
def HB_TIME_LO_TIME_LO : Fld := ⟨8 * (0x8) + 0, 32, 0⟩
def HB_TIME_HI_TIME_HI : Fld := ⟨8 * (0xC) + 0, 32, 0⟩
def HB_TIDE_LO_TIDE_LO : Fld := ⟨8 * (0x10) + 0, 32, 0⟩
def HB_TIDE_HI_TIDE_HI : Fld := ⟨8 * (0x14) + 0, 15, 0⟩
def HB_TIME_STATUS_STEP_PENDING : Fld := ⟨8 * (0x18) + 8, 1, 0⟩
def HB_TIME_STATUS_SOURCE : Fld := ⟨8 * (0x18) + 4, 4, 0⟩
def HB_TIME_STATUS_STEPPED : Fld := ⟨8 * (0x18) + 3, 1, 0⟩
def HB_TIME_STATUS_SLEWING : Fld := ⟨8 * (0x18) + 2, 1, 0⟩
def HB_TIME_STATUS_LOCKED : Fld := ⟨8 * (0x18) + 1, 1, 0⟩
def HB_TIME_STATUS_VALID : Fld := ⟨8 * (0x18) + 0, 1, 0⟩
def HB_CLK_STATUS_CLK_FAULT : Fld := ⟨8 * (0x1C) + 31, 1, 0⟩
def HB_CLK_STATUS_LOCK : Fld := ⟨8 * (0x1C) + 0, 7, 0⟩
def HB_LINK_STATUS_RETRAINED : Fld := ⟨8 * (0x20) + 16, 10, 0⟩
def HB_LINK_STATUS_UP : Fld := ⟨8 * (0x20) + 0, 10, 0⟩
def HB_ERR_STATUS_SHED_POISON : Fld := ⟨8 * (0x24) + 2, 1, 0⟩
def HB_ERR_STATUS_BAL_WOVF : Fld := ⟨8 * (0x24) + 1, 1, 0⟩
def HB_ERR_STATUS_UNMAPPED : Fld := ⟨8 * (0x24) + 0, 1, 0⟩
def HB_UNMAPPED_ADDR_ADDR : Fld := ⟨8 * (0x28) + 0, 27, 0⟩
def HB_LINK_CNT_n_RETRAINS (n : Nat) : Fld := ⟨8 * (0x40 + n * 0x4) + 16, 16, 0⟩
def HB_LINK_CNT_n_REPLAYS (n : Nat) : Fld := ⟨8 * (0x40 + n * 0x4) + 0, 16, 0⟩
/-! Table 2.10 -/
def HB_TIDE_STATUS_TIDE_OVR : Fld := ⟨8 * (0x1000) + 20, 1, 0⟩
def HB_TIDE_STATUS_OVR : Fld := ⟨8 * (0x1000) + 0, 20, 0⟩
def HB_TIDE_OVR_COUNT : Fld := ⟨8 * (0x1004) + 0, 32, 0⟩
def HB_OVR_BERTH_HANDLE : Fld := ⟨8 * (0x1008) + 0, 32, 0⟩
def HB_LAND_LO_TIDE_LO : Fld := ⟨8 * (0x1010) + 0, 32, 0⟩
def HB_LAND_HI_TIDE_HI : Fld := ⟨8 * (0x1014) + 0, 15, 0⟩
def HB_BUDGET_CAP_n_CAP (n : Nat) : Fld := ⟨8 * (0x1100 + n * 0x4) + 0, 32, Config.budgetCap n⟩
def HB_BUDGET_SHARE_n_SHARE (n : Nat) : Fld := ⟨8 * (0x1180 + n * 0x4) + 0, 8, 0⟩
def HB_BUDGET_ALLOC_n_ALLOC (n : Nat) : Fld := ⟨8 * (0x1200 + n * 0x4) + 0, 32, 0⟩
def HB_BUDGET_USED_n_USED (n : Nat) : Fld := ⟨8 * (0x1280 + n * 0x4) + 0, 32, 0⟩
def HB_BUDGET_PEAK_n_PEAK (n : Nat) : Fld := ⟨8 * (0x1300 + n * 0x4) + 0, 32, 0⟩
def HB_TIDE_OVR_n_DROPS (n : Nat) : Fld := ⟨8 * (0x1380 + n * 0x4) + 16, 16, 0⟩
def HB_TIDE_OVR_n_OVERRUNS (n : Nat) : Fld := ⟨8 * (0x1380 + n * 0x4) + 0, 16, 0⟩
def HB_MF_OFFSET_OFFSET : Fld := ⟨8 * (0x1800) + 0, 26, 0⟩
def HB_MF_LEN_LEN : Fld := ⟨8 * (0x1804) + 0, 23, 0⟩
def HB_MF_CTL_LOAD : Fld := ⟨8 * (0x1808) + 0, 1, 0⟩
def HB_MF_STATUS_SECTION : Fld := ⟨8 * (0x180C) + 24, 8, 0⟩
def HB_MF_STATUS_ERR : Fld := ⟨8 * (0x180C) + 8, 8, 0⟩
def HB_MF_STATUS_STATE : Fld := ⟨8 * (0x180C) + 0, 3, 0⟩
def HB_MF_SCHEMA_MAX : Fld := ⟨8 * (0x1810) + 16, 16, 259⟩
def HB_MF_SCHEMA_MIN : Fld := ⟨8 * (0x1810) + 0, 16, 256⟩
def HB_MF_BUILD_LO_BUILD_LO : Fld := ⟨8 * (0x1818) + 0, 32, 0⟩
def HB_MF_BUILD_HI_BUILD_HI : Fld := ⟨8 * (0x181C) + 0, 32, 0⟩
/-! Table 3.5 -/
def QY_CTL_RESUME (n : Nat) : Fld := ⟨8 * (0x400000 + n * 0x10000) + 2, 1, 0⟩
def QY_CTL_FAULT_STOP (n : Nat) : Fld := ⟨8 * (0x400000 + n * 0x10000) + 1, 1, 0⟩
def QY_CTL_RUN (n : Nat) : Fld := ⟨8 * (0x400000 + n * 0x10000) + 0, 1, 0⟩
def QY_STATUS_SPI_OVF (n : Nat) : Fld := ⟨8 * (0x400004 + n * 0x10000) + 7, 1, 0⟩
def QY_STATUS_DAC_CLAMP (n : Nat) : Fld := ⟨8 * (0x400004 + n * 0x10000) + 6, 1, 0⟩
def QY_STATUS_FE_FAULT (n : Nat) : Fld := ⟨8 * (0x400004 + n * 0x10000) + 5, 1, 0⟩
def QY_STATUS_STOPPED (n : Nat) : Fld := ⟨8 * (0x400004 + n * 0x10000) + 4, 1, 0⟩
def QY_STATUS_RUNNING (n : Nat) : Fld := ⟨8 * (0x400004 + n * 0x10000) + 3, 1, 0⟩
def QY_STATUS_ARMED (n : Nat) : Fld := ⟨8 * (0x400004 + n * 0x10000) + 2, 1, 0⟩
def QY_STATUS_ACTIVE (n : Nat) : Fld := ⟨8 * (0x400004 + n * 0x10000) + 0, 2, 0⟩
def QY_PLAN_SEL_PLAN (n : Nat) : Fld := ⟨8 * (0x400008 + n * 0x10000) + 0, 2, 0⟩
def QY_PLAN_STATUS_ERR (n : Nat) : Fld := ⟨8 * (0x40000C + n * 0x10000) + 8, 8, 0⟩
def QY_PLAN_STATUS_STATE (n : Nat) : Fld := ⟨8 * (0x40000C + n * 0x10000) + 0, 2, 0⟩
def QY_EPOCH_LO_EPOCH_LO (n : Nat) : Fld := ⟨8 * (0x400010 + n * 0x10000) + 0, 32, 0⟩
def QY_EPOCH_HI_EPOCH_HI (n : Nat) : Fld := ⟨8 * (0x400014 + n * 0x10000) + 0, 32, 0⟩
def QY_LAUNCH_LO_COUNT_LO (n : Nat) : Fld := ⟨8 * (0x400018 + n * 0x10000) + 0, 32, 0⟩
def QY_LAUNCH_HI_COUNT_HI (n : Nat) : Fld := ⟨8 * (0x40001C + n * 0x10000) + 0, 32, 0⟩
def QY_CLAMP_CNT_COUNT (n : Nat) : Fld := ⟨8 * (0x400020 + n * 0x10000) + 0, 32, 0⟩
def QY_MISS_CNT_COUNT (n : Nat) : Fld := ⟨8 * (0x400024 + n * 0x10000) + 0, 32, 0⟩
def QY_LGA_CFG_LAG (n : Nat) : Fld := ⟨8 * (0x400030 + n * 0x10000) + 8, 8, 0⟩
def QY_LGA_CFG_LEAD (n : Nat) : Fld := ⟨8 * (0x400030 + n * 0x10000) + 0, 8, 0⟩
def QY_LGT_CFG_EN (n : Nat) : Fld := ⟨8 * (0x400034 + n * 0x10000) + 31, 1, 0⟩
def QY_LGT_CFG_WIDTH (n : Nat) : Fld := ⟨8 * (0x400034 + n * 0x10000) + 0, 9, 0⟩
def QY_LGT_PERIOD_PERIOD (n : Nat) : Fld := ⟨8 * (0x400038 + n * 0x10000) + 0, 18, 2500⟩
def QY_LGT_DLY_DLY (n : Nat) : Fld := ⟨8 * (0x40003C + n * 0x10000) + 0, 16, 0⟩
def QY_SPI_CFG_DIV (n : Nat) : Fld := ⟨8 * (0x400040 + n * 0x10000) + 8, 8, 24⟩
def QY_SPI_CFG_CS1_POL (n : Nat) : Fld := ⟨8 * (0x400040 + n * 0x10000) + 3, 1, 0⟩
def QY_SPI_CFG_CS0_POL (n : Nat) : Fld := ⟨8 * (0x400040 + n * 0x10000) + 2, 1, 0⟩
def QY_SPI_CFG_MODE (n : Nat) : Fld := ⟨8 * (0x400040 + n * 0x10000) + 0, 1, 0⟩
def QY_SPI_CMD_AT_TIDE (n : Nat) : Fld := ⟨8 * (0x400044 + n * 0x10000) + 4, 1, 0⟩
def QY_SPI_CMD_RD (n : Nat) : Fld := ⟨8 * (0x400044 + n * 0x10000) + 3, 1, 0⟩
def QY_SPI_CMD_CS (n : Nat) : Fld := ⟨8 * (0x400044 + n * 0x10000) + 2, 1, 0⟩
def QY_SPI_CMD_LEN (n : Nat) : Fld := ⟨8 * (0x400044 + n * 0x10000) + 0, 2, 0⟩
def QY_SPI_TXD_DATA (n : Nat) : Fld := ⟨8 * (0x400048 + n * 0x10000) + 0, 32, 0⟩
def QY_SPI_RXD_DATA (n : Nat) : Fld := ⟨8 * (0x40004C + n * 0x10000) + 0, 32, 0⟩
def QY_SPI_STATUS_RX_LVL (n : Nat) : Fld := ⟨8 * (0x400050 + n * 0x10000) + 16, 5, 0⟩
def QY_SPI_STATUS_CMD_LVL (n : Nat) : Fld := ⟨8 * (0x400050 + n * 0x10000) + 8, 5, 0⟩
def QY_SPI_STATUS_BUSY (n : Nat) : Fld := ⟨8 * (0x400050 + n * 0x10000) + 0, 1, 0⟩
def QY_GPIO_CFG_AT_TIDE_i (n i : Nat) : Fld := ⟨8 * (0x400060 + n * 0x10000) + 3 + i * 4, 1, 0⟩
def QY_GPIO_CFG_POL_i (n i : Nat) : Fld := ⟨8 * (0x400060 + n * 0x10000) + 2 + i * 4, 1, 0⟩
def QY_GPIO_CFG_FUNC_i (n i : Nat) : Fld := ⟨8 * (0x400060 + n * 0x10000) + 0 + i * 4, 2, 0⟩
def QY_GPIO_OUT_OUT (n : Nat) : Fld := ⟨8 * (0x400064 + n * 0x10000) + 0, 4, 0⟩
def QY_GPIO_IN_IN (n : Nat) : Fld := ⟨8 * (0x400068 + n * 0x10000) + 0, 4, 0⟩
def QY_PLAN_p_CFG_VALID (n p : Nat) : Fld := ⟨8 * (0x400100 + n * 0x10000 + p * 0x20) + 31, 1, 0⟩
def QY_PLAN_p_CFG_DIR (n p : Nat) : Fld := ⟨8 * (0x400100 + n * 0x10000 + p * 0x20) + 11, 1, 0⟩
def QY_PLAN_p_CFG_KIND (n p : Nat) : Fld := ⟨8 * (0x400100 + n * 0x10000 + p * 0x20) + 8, 2, 0⟩
def QY_PLAN_p_CFG_LOG2D (n p : Nat) : Fld := ⟨8 * (0x400100 + n * 0x10000 + p * 0x20) + 4, 3, 0⟩
def QY_PLAN_p_CFG_LOG2N (n p : Nat) : Fld := ⟨8 * (0x400100 + n * 0x10000 + p * 0x20) + 0, 3, 0⟩
def QY_PLAN_p_PERIOD_PERIOD (n p : Nat) : Fld := ⟨8 * (0x400104 + n * 0x10000 + p * 0x20) + 0, 18, 0⟩
def QY_PLAN_p_LINT_LINT (n p : Nat) : Fld := ⟨8 * (0x400108 + n * 0x10000 + p * 0x20) + 0, 17, 0⟩
def QY_PLAN_p_NG_NG (n p : Nat) : Fld := ⟨8 * (0x40010C + n * 0x10000 + p * 0x20) + 0, 24, 0⟩
def QY_PLAN_p_WAVE_CHIP (n p : Nat) : Fld := ⟨8 * (0x400110 + n * 0x10000 + p * 0x20) + 20, 9, 0⟩
def QY_PLAN_p_WAVE_LOG2L (n p : Nat) : Fld := ⟨8 * (0x400110 + n * 0x10000 + p * 0x20) + 16, 4, 0⟩
def QY_PLAN_p_WAVE_LEN8 (n p : Nat) : Fld := ⟨8 * (0x400110 + n * 0x10000 + p * 0x20) + 0, 14, 0⟩
def QY_PLAN_p_BW_TAPER (n p : Nat) : Fld := ⟨8 * (0x400114 + n * 0x10000 + p * 0x20) + 20, 5, 0⟩
def QY_PLAN_p_BW_BW (n p : Nat) : Fld := ⟨8 * (0x400114 + n * 0x10000 + p * 0x20) + 0, 20, 0⟩
def QY_PLAN_p_AMP_AMP (n p : Nat) : Fld := ⟨8 * (0x400118 + n * 0x10000 + p * 0x20) + 0, 16, 0⟩
def QY_PLAN_p_ZERO_ZERO (n p : Nat) : Fld := ⟨8 * (0x40011C + n * 0x10000 + p * 0x20) + 0, 16, 0⟩
/-! Table 4.6 -/
def RX_REPLAY_STATUS_PEAK : Fld := ⟨8 * (0x500000) + 8, 5, 0⟩
def RX_REPLAY_STATUS_LEVEL : Fld := ⟨8 * (0x500000) + 0, 5, 0⟩
def RX_REPLAY_CNT_COUNT : Fld := ⟨8 * (0x500004) + 0, 32, 0⟩
def RX_REPLAY_DROP_COUNT : Fld := ⟨8 * (0x500008) + 0, 32, 0⟩
/-! Table 4.7 -/
def RX_CFG_OFS_SHIFT (n : Nat) : Fld := ⟨8 * (0x501000 + n * 0x100) + 24, 4, 6⟩
def RX_CFG_POL (n : Nat) : Fld := ⟨8 * (0x501000 + n * 0x100) + 16, 2, 0⟩
def RX_CFG_POLW (n : Nat) : Fld := ⟨8 * (0x501000 + n * 0x100) + 8, 1, 0⟩
def RX_CFG_GAUGE (n : Nat) : Fld := ⟨8 * (0x501000 + n * 0x100) + 0, 7, 8⟩
def RX_CFG_ACT_OFS_SHIFT (n : Nat) : Fld := ⟨8 * (0x501004 + n * 0x100) + 24, 4, 6⟩
def RX_CFG_ACT_POL (n : Nat) : Fld := ⟨8 * (0x501004 + n * 0x100) + 16, 2, 0⟩
def RX_CFG_ACT_POLW (n : Nat) : Fld := ⟨8 * (0x501004 + n * 0x100) + 8, 1, 0⟩
def RX_CFG_ACT_GAUGE (n : Nat) : Fld := ⟨8 * (0x501004 + n * 0x100) + 0, 7, 8⟩
def RX_CLIP_LEVEL (n : Nat) : Fld := ⟨8 * (0x501008 + n * 0x100) + 0, 11, 2047⟩
def RX_FADE_FLOOR (n : Nat) : Fld := ⟨8 * (0x50100C + n * 0x100) + 0, 8, 24⟩
def RX_NOISE_P0_P0 (n : Nat) : Fld := ⟨8 * (0x501010 + n * 0x100) + 0, 21, 0⟩
def RX_NOISE_LEN_LEN (n : Nat) : Fld := ⟨8 * (0x501014 + n * 0x100) + 0, 10, 0⟩
def RX_RING_DEPTH (n : Nat) : Fld := ⟨8 * (0x501018 + n * 0x100) + 0, 5, 0⟩
def RX_RING_OFS_OFFSET (n : Nat) : Fld := ⟨8 * (0x50101C + n * 0x100) + 0, 24, 0⟩
def RX_PSM_NEED_BYTES (n : Nat) : Fld := ⟨8 * (0x501020 + n * 0x100) + 0, 23, 0⟩
def RX_STATUS_PENDING (n : Nat) : Fld := ⟨8 * (0x501024 + n * 0x100) + 9, 1, 0⟩
def RX_STATUS_SETTLING (n : Nat) : Fld := ⟨8 * (0x501024 + n * 0x100) + 8, 1, 0⟩
def RX_STATUS_PSM_PARITY (n : Nat) : Fld := ⟨8 * (0x501024 + n * 0x100) + 7, 1, 0⟩
def RX_STATUS_RING_PARITY (n : Nat) : Fld := ⟨8 * (0x501024 + n * 0x100) + 6, 1, 0⟩
def RX_STATUS_LOST_SEG (n : Nat) : Fld := ⟨8 * (0x501024 + n * 0x100) + 5, 1, 0⟩
def RX_STATUS_RESIDUE (n : Nat) : Fld := ⟨8 * (0x501024 + n * 0x100) + 3, 1, 0⟩
def RX_STATUS_CLIP (n : Nat) : Fld := ⟨8 * (0x501024 + n * 0x100) + 2, 1, 0⟩
def RX_STATUS_NOISE_VALID (n : Nat) : Fld := ⟨8 * (0x501024 + n * 0x100) + 0, 1, 0⟩
def RX_RESIDUE_CNT_COUNT (n : Nat) : Fld := ⟨8 * (0x501028 + n * 0x100) + 0, 32, 0⟩
def RX_LOST_SEG_CNT_COUNT (n : Nat) : Fld := ⟨8 * (0x50102C + n * 0x100) + 0, 32, 0⟩
def RX_LOST_PS_CNT_COUNT (n : Nat) : Fld := ⟨8 * (0x501030 + n * 0x100) + 0, 32, 0⟩
def RX_PARITY_CNT_RING (n : Nat) : Fld := ⟨8 * (0x501034 + n * 0x100) + 16, 16, 0⟩
def RX_PARITY_CNT_PSM (n : Nat) : Fld := ⟨8 * (0x501034 + n * 0x100) + 0, 16, 0⟩
def RX_FADE_CNT_COUNT (n : Nat) : Fld := ⟨8 * (0x501038 + n * 0x100) + 0, 32, 0⟩
def RX_NOISE_Y (n : Nat) : Fld := ⟨8 * (0x50103C + n * 0x100) + 16, 16, 0⟩
def RX_NOISE_X (n : Nat) : Fld := ⟨8 * (0x50103C + n * 0x100) + 0, 16, 0⟩
def RX_CLIP_CNT_l_COUNT (n l : Nat) : Fld := ⟨8 * (0x501040 + n * 0x100 + l * 0x4) + 0, 32, 0⟩
def RX_SEG_LO_COUNT_LO (n : Nat) : Fld := ⟨8 * (0x501050 + n * 0x100) + 0, 32, 0⟩
def RX_SEG_HI_COUNT_HI (n : Nat) : Fld := ⟨8 * (0x501054 + n * 0x100) + 0, 32, 0⟩
def RX_LOST_AT_LO_TIME_LO (n : Nat) : Fld := ⟨8 * (0x501058 + n * 0x100) + 0, 32, 0⟩
def RX_LOST_AT_HI_TIME_HI (n : Nat) : Fld := ⟨8 * (0x50105C + n * 0x100) + 0, 32, 0⟩
/-! Table 5.8 -/
def RX_SL_CTL_HAWSER_EN : Fld := ⟨8 * (0x504000) + 1, 1, 0⟩
def RX_SL_CTL_SYNC : Fld := ⟨8 * (0x504000) + 0, 1, 0⟩
def RX_SL_STATUS_STAGE_PARITY : Fld := ⟨8 * (0x504004) + 6, 1, 0⟩
def RX_SL_STATUS_TILE_ERR : Fld := ⟨8 * (0x504004) + 5, 1, 0⟩
def RX_SL_STATUS_STATE_PARITY : Fld := ⟨8 * (0x504004) + 4, 1, 0⟩
def RX_SL_STATUS_STAGE_OVF : Fld := ⟨8 * (0x504004) + 3, 1, 0⟩
def RX_SL_STATUS_SYNC_LATE : Fld := ⟨8 * (0x504004) + 2, 1, 0⟩
def RX_SL_STATUS_SYNC_DONE : Fld := ⟨8 * (0x504004) + 1, 1, 0⟩
def RX_SL_STATUS_SYNC_PENDING : Fld := ⟨8 * (0x504004) + 0, 1, 0⟩
def RX_SL_SYNC_LO_TIME_LO : Fld := ⟨8 * (0x504008) + 0, 32, 0⟩
def RX_SL_SYNC_HI_TIME_HI : Fld := ⟨8 * (0x50400C) + 0, 32, 0⟩
def RX_SL_POINTS_POINTS : Fld := ⟨8 * (0x504010) + 0, 21, 0⟩
def RX_SL_STAGE_SIZE_BYTES : Fld := ⟨8 * (0x504014) + 0, 25, 0⟩
def RX_SL_STAGE_USED_BYTES : Fld := ⟨8 * (0x504018) + 0, 25, 0⟩
def RX_SL_STATE_SIZE_BYTES : Fld := ⟨8 * (0x50401C) + 0, 24, 0⟩
def RX_SL_STATE_USED_BYTES : Fld := ⟨8 * (0x504020) + 0, 24, 0⟩
def RX_SL_SYNC_CNT_COUNT : Fld := ⟨8 * (0x504024) + 0, 32, 0⟩
def RX_SL_STAGE_OVF_CNT_COUNT : Fld := ⟨8 * (0x504028) + 0, 32, 0⟩
def RX_SL_TILE_ERR_CNT_COUNT : Fld := ⟨8 * (0x50402C) + 0, 32, 0⟩
def RX_SL_PARITY_CNT_STATE : Fld := ⟨8 * (0x504030) + 16, 16, 0⟩
def RX_SL_PARITY_CNT_STAGE : Fld := ⟨8 * (0x504030) + 0, 16, 0⟩
/-! Table 5.9 -/
def RX_BT_i_HANDLE_HANDLE (i : Nat) : Fld := ⟨8 * (0x508000 + i * 0x80) + 0, 32, 0⟩
def RX_BT_i_CFG_ACTIVE (i : Nat) : Fld := ⟨8 * (0x508004 + i * 0x80) + 31, 1, 0⟩
def RX_BT_i_CFG_QUAY (i : Nat) : Fld := ⟨8 * (0x508004 + i * 0x80) + 28, 3, 0⟩
def RX_BT_i_CFG_H (i : Nat) : Fld := ⟨8 * (0x508004 + i * 0x80) + 24, 4, 0⟩
def RX_BT_i_CFG_PASS (i : Nat) : Fld := ⟨8 * (0x508004 + i * 0x80) + 15, 1, 0⟩
def RX_BT_i_CFG_AVG (i : Nat) : Fld := ⟨8 * (0x508004 + i * 0x80) + 14, 1, 0⟩
def RX_BT_i_CFG_FMT (i : Nat) : Fld := ⟨8 * (0x508004 + i * 0x80) + 12, 2, 0⟩
def RX_BT_i_CFG_STRIDE (i : Nat) : Fld := ⟨8 * (0x508004 + i * 0x80) + 0, 7, 0⟩
def RX_BT_i_FIRST_FIRST (i : Nat) : Fld := ⟨8 * (0x508008 + i * 0x80) + 0, 21, 0⟩
def RX_BT_i_COUNT_COUNT (i : Nat) : Fld := ⟨8 * (0x50800C + i * 0x80) + 0, 21, 0⟩
def RX_BT_i_INC_LO_INC_LO (i : Nat) : Fld := ⟨8 * (0x508010 + i * 0x80) + 0, 32, 0⟩
def RX_BT_i_INC_HI_INC_HI (i : Nat) : Fld := ⟨8 * (0x508014 + i * 0x80) + 0, 8, 0⟩
def RX_BT_i_TIN_TIN (i : Nat) : Fld := ⟨8 * (0x508018 + i * 0x80) + 0, 18, 0⟩
def RX_BT_i_TUG_TUG (i : Nat) : Fld := ⟨8 * (0x50801C + i * 0x80) + 0, 3, 0⟩
def RX_BT_i_RING_LO_ADDR_LO (i : Nat) : Fld := ⟨8 * (0x508020 + i * 0x80) + 0, 32, 0⟩
def RX_BT_i_RING_HI_ADDR_HI (i : Nat) : Fld := ⟨8 * (0x508024 + i * 0x80) + 0, 2, 0⟩
def RX_BT_i_ROWS_ROWS (i : Nat) : Fld := ⟨8 * (0x508028 + i * 0x80) + 0, 17, 0⟩
def RX_BT_i_ROW_BYTES_BYTES (i : Nat) : Fld := ⟨8 * (0x50802C + i * 0x80) + 0, 24, 0⟩
def RX_BT_i_SEQ_LO_SEQ_LO (i : Nat) : Fld := ⟨8 * (0x508030 + i * 0x80) + 0, 32, 0⟩
def RX_BT_i_SEQ_HI_SEQ_HI (i : Nat) : Fld := ⟨8 * (0x508034 + i * 0x80) + 0, 32, 0⟩
def RX_BT_i_STATUS_STAGE_OVF (i : Nat) : Fld := ⟨8 * (0x508038 + i * 0x80) + 3, 1, 0⟩
def RX_BT_i_STATUS_OVR (i : Nat) : Fld := ⟨8 * (0x508038 + i * 0x80) + 2, 1, 0⟩
def RX_BT_i_STATUS_LOST_ROWS (i : Nat) : Fld := ⟨8 * (0x508038 + i * 0x80) + 1, 1, 0⟩
def RX_BT_i_STATUS_FILLING (i : Nat) : Fld := ⟨8 * (0x508038 + i * 0x80) + 0, 1, 0⟩
def RX_BT_i_LOST_CNT_COUNT (i : Nat) : Fld := ⟨8 * (0x50803C + i * 0x80) + 0, 32, 0⟩
def RX_BT_i_DELAY_LO_DELAY_LO (i : Nat) : Fld := ⟨8 * (0x508040 + i * 0x80) + 0, 32, 0⟩
def RX_BT_i_DELAY_HI_DELAY_HI (i : Nat) : Fld := ⟨8 * (0x508044 + i * 0x80) + 0, 6, 0⟩
def RX_BT_i_ANCHOR_LO_TIME_LO (i : Nat) : Fld := ⟨8 * (0x508048 + i * 0x80) + 0, 32, 0⟩
def RX_BT_i_ANCHOR_HI_TIME_HI (i : Nat) : Fld := ⟨8 * (0x50804C + i * 0x80) + 0, 32, 0⟩
def RX_BT_i_ANCHOR_SEQ_LO_SEQ_LO (i : Nat) : Fld := ⟨8 * (0x508050 + i * 0x80) + 0, 32, 0⟩
def RX_BT_i_ANCHOR_SEQ_HI_SEQ_HI (i : Nat) : Fld := ⟨8 * (0x508054 + i * 0x80) + 0, 32, 0⟩
/-! Table 6.12 -/
def RX_FZ_ZONES_COUNT : Fld := ⟨8 * (0x590000) + 0, 9, 0⟩
def RX_FZ_STATUS_TCHK : Fld := ⟨8 * (0x590004) + 2, 1, 0⟩
def RX_FZ_STATUS_LOST : Fld := ⟨8 * (0x590004) + 1, 1, 0⟩
def RX_FZ_STATUS_DISAGREE : Fld := ⟨8 * (0x590004) + 0, 1, 0⟩
def RX_FZ_LOST_CNT_COUNT : Fld := ⟨8 * (0x590008) + 0, 32, 0⟩
/-! Table 6.13 -/
def RX_FZ_z_HANDLE_HANDLE (z : Nat) : Fld := ⟨8 * (0x591000 + z * 0x100) + 0, 32, 0⟩
def RX_FZ_z_CFG_ACTIVE (z : Nat) : Fld := ⟨8 * (0x591004 + z * 0x100) + 31, 1, 0⟩
def RX_FZ_z_CFG_MODE (z : Nat) : Fld := ⟨8 * (0x591004 + z * 0x100) + 30, 1, 0⟩
def RX_FZ_z_CFG_QUAY (z : Nat) : Fld := ⟨8 * (0x591004 + z * 0x100) + 27, 3, 0⟩
def RX_FZ_z_CFG_CLUSTER (z : Nat) : Fld := ⟨8 * (0x591004 + z * 0x100) + 25, 2, 0⟩
def RX_FZ_z_CFG_TUG (z : Nat) : Fld := ⟨8 * (0x591004 + z * 0x100) + 22, 3, 0⟩
def RX_FZ_z_CFG_FLUID (z : Nat) : Fld := ⟨8 * (0x591004 + z * 0x100) + 20, 2, 0⟩
def RX_FZ_z_CFG_H (z : Nat) : Fld := ⟨8 * (0x591004 + z * 0x100) + 16, 4, 0⟩
def RX_FZ_z_CFG_CALSET (z : Nat) : Fld := ⟨8 * (0x591004 + z * 0x100) + 8, 8, 0⟩
def RX_FZ_z_CFG_SELECT (z : Nat) : Fld := ⟨8 * (0x591004 + z * 0x100) + 6, 2, 0⟩
def RX_FZ_z_CFG_NC (z : Nat) : Fld := ⟨8 * (0x591004 + z * 0x100) + 0, 6, 0⟩
def RX_FZ_z_SEQ_LO_SEQ_LO (z : Nat) : Fld := ⟨8 * (0x591008 + z * 0x100) + 0, 32, 0⟩
def RX_FZ_z_SEQ_HI_SEQ_HI (z : Nat) : Fld := ⟨8 * (0x59100C + z * 0x100) + 0, 32, 0⟩
def RX_FZ_z_RING_LO_ADDR_LO (z : Nat) : Fld := ⟨8 * (0x591010 + z * 0x100) + 0, 32, 0⟩
def RX_FZ_z_RING_HI_ADDR_HI (z : Nat) : Fld := ⟨8 * (0x591014 + z * 0x100) + 0, 2, 0⟩
def RX_FZ_z_RECS_RECS (z : Nat) : Fld := ⟨8 * (0x591018 + z * 0x100) + 0, 17, 0⟩
def RX_FZ_z_STATUS_CAL_VALID (z : Nat) : Fld := ⟨8 * (0x59101C + z * 0x100) + 5, 1, 0⟩
def RX_FZ_z_STATUS_STALE (z : Nat) : Fld := ⟨8 * (0x59101C + z * 0x100) + 4, 1, 0⟩
def RX_FZ_z_STATUS_STATE_RANGE (z : Nat) : Fld := ⟨8 * (0x59101C + z * 0x100) + 3, 1, 0⟩
def RX_FZ_z_STATUS_TCHK (z : Nat) : Fld := ⟨8 * (0x59101C + z * 0x100) + 2, 1, 0⟩
def RX_FZ_z_STATUS_LOST (z : Nat) : Fld := ⟨8 * (0x59101C + z * 0x100) + 1, 1, 0⟩
def RX_FZ_z_STATUS_DISAGREE (z : Nat) : Fld := ⟨8 * (0x59101C + z * 0x100) + 0, 1, 0⟩
def RX_FZ_z_LOST_CNT_COUNT (z : Nat) : Fld := ⟨8 * (0x591020 + z * 0x100) + 0, 32, 0⟩
def RX_FZ_z_DIS_CNT_COUNT (z : Nat) : Fld := ⟨8 * (0x591024 + z * 0x100) + 0, 32, 0⟩
def RX_FZ_z_ANCHOR_LO_TIME_LO (z : Nat) : Fld := ⟨8 * (0x591028 + z * 0x100) + 0, 32, 0⟩
def RX_FZ_z_ANCHOR_HI_TIME_HI (z : Nat) : Fld := ⟨8 * (0x59102C + z * 0x100) + 0, 32, 0⟩
def RX_FZ_z_BLOCK_LB (z : Nat) : Fld := ⟨8 * (0x591030 + z * 0x100) + 14, 18, 0⟩
def RX_FZ_z_BLOCK_MS (z : Nat) : Fld := ⟨8 * (0x591030 + z * 0x100) + 0, 14, 0⟩
def RX_FZ_z_DELAY_LO_DELAY_LO (z : Nat) : Fld := ⟨8 * (0x591034 + z * 0x100) + 0, 32, 0⟩
def RX_FZ_z_DELAY_HI_DELAY_HI (z : Nat) : Fld := ⟨8 * (0x591038 + z * 0x100) + 0, 6, 0⟩
def RX_FZ_z_VBULK_VBULK (z : Nat) : Fld := ⟨8 * (0x59103C + z * 0x100) + 0, 32, 0⟩
def RX_FZ_z_POS_c_POS (z c : Nat) : Fld := ⟨8 * (0x591040 + z * 0x100 + c * 0x4) + 0, 32, 0⟩
/-! Table 7.13 -/
def LG_STATUS_EVT_OVF : Fld := ⟨8 * (0xF00000) + 6, 1, 0⟩
def LG_STATUS_CZ_BEHIND : Fld := ⟨8 * (0xF00000) + 5, 1, 0⟩
def LG_STATUS_LATE : Fld := ⟨8 * (0xF00000) + 4, 1, 0⟩
def LG_STATUS_COMMIT_SKIP : Fld := ⟨8 * (0xF00000) + 3, 1, 0⟩
def LG_STATUS_HOLD_ERR : Fld := ⟨8 * (0xF00000) + 2, 1, 0⟩
def LG_STATUS_CZ_UP : Fld := ⟨8 * (0xF00000) + 1, 1, 0⟩
def LG_STATUS_READY : Fld := ⟨8 * (0xF00000) + 0, 1, 0⟩
def LG_POINTS_OPEN : Fld := ⟨8 * (0xF00004) + 0, 7, 0⟩
def LG_GEN_LO_GEN_LO : Fld := ⟨8 * (0xF00008) + 0, 32, 0⟩
def LG_GEN_HI_GEN_HI : Fld := ⟨8 * (0xF0000C) + 0, 32, 0⟩
def LG_RECSEQ_LO_SEQ_LO : Fld := ⟨8 * (0xF00010) + 0, 32, 0⟩
def LG_RECSEQ_HI_SEQ_HI : Fld := ⟨8 * (0xF00014) + 0, 32, 0⟩
def LG_RING_LOG2RECS : Fld := ⟨8 * (0xF00018) + 0, 5, 0⟩
def LG_RING_ADDR_LO_ADDR_LO : Fld := ⟨8 * (0xF0001C) + 0, 32, 0⟩
def LG_RING_ADDR_HI_ADDR_HI : Fld := ⟨8 * (0xF00020) + 0, 2, 0⟩
def LG_KEY_ID_KEY_ID : Fld := ⟨8 * (0xF00024) + 0, 32, 0⟩
def LG_SKIP_CNT_COUNT : Fld := ⟨8 * (0xF00028) + 0, 32, 0⟩
def LG_LATE_CNT_COUNT : Fld := ⟨8 * (0xF0002C) + 0, 32, 0⟩
def LG_EVT_DROP_CNT_COUNT : Fld := ⟨8 * (0xF00030) + 0, 32, 0⟩
def LG_DAY_OFS_OFS : Fld := ⟨8 * (0xF00034) + 0, 17, 0⟩
def LG_CZ_CFG_VER : Fld := ⟨8 * (0xF00038) + 8, 2, 0⟩
def LG_CZ_CFG_EN : Fld := ⟨8 * (0xF00038) + 0, 1, 0⟩
def LG_CZ_PORT_SRC : Fld := ⟨8 * (0xF0003C) + 16, 16, 40400⟩
def LG_CZ_PORT_DST : Fld := ⟨8 * (0xF0003C) + 0, 16, 40400⟩
def LG_CZ_ADDR_k_ADDR (k : Nat) : Fld := ⟨8 * (0xF00040 + k * 0x4) + 0, 32, 0⟩
def LG_CZ_ACKED_LO_SEQ_LO : Fld := ⟨8 * (0xF00050) + 0, 32, 0⟩
def LG_CZ_ACKED_HI_SEQ_HI : Fld := ⟨8 * (0xF00054) + 0, 32, 0⟩
def LG_CZ_CNT_GONE : Fld := ⟨8 * (0xF00058) + 16, 16, 0⟩
def LG_CZ_CNT_NACK : Fld := ⟨8 * (0xF00058) + 0, 16, 0⟩
def LG_PT_i_HANDLE_HANDLE (i : Nat) : Fld := ⟨8 * (0xF01000 + i * 0x40) + 0, 32, 0⟩
def LG_PT_i_DEF_WORD0 (i : Nat) : Fld := ⟨8 * (0xF01008 + i * 0x40) + 0, 32, 0⟩
def LG_PT_i_LAG_LAG (i : Nat) : Fld := ⟨8 * (0xF0100C + i * 0x40) + 0, 6, 0⟩
def LG_PT_i_STATUS_LOST (i : Nat) : Fld := ⟨8 * (0xF01010 + i * 0x40) + 2, 1, 0⟩
def LG_PT_i_STATUS_MARKED (i : Nat) : Fld := ⟨8 * (0xF01010 + i * 0x40) + 1, 1, 0⟩
def LG_PT_i_STATUS_OPEN (i : Nat) : Fld := ⟨8 * (0xF01010 + i * 0x40) + 0, 1, 0⟩
def LG_PT_i_LAST_LO_SEC_LO (i : Nat) : Fld := ⟨8 * (0xF01018 + i * 0x40) + 0, 32, 0⟩
def LG_PT_i_LAST_HI_SEC_HI (i : Nat) : Fld := ⟨8 * (0xF0101C + i * 0x40) + 0, 32, 0⟩
/-! Table 8.14 -/
def TL_BANK_STATUS_FIFO_LVL (n : Nat) : Fld := ⟨8 * (0x600000 + n * 0x10000) + 8, 11, 0⟩
def TL_BANK_STATUS_CAL_VALID (n : Nat) : Fld := ⟨8 * (0x600000 + n * 0x10000) + 4, 1, 0⟩
def TL_BANK_STATUS_WR_OWNED (n : Nat) : Fld := ⟨8 * (0x600000 + n * 0x10000) + 3, 1, 0⟩
def TL_BANK_STATUS_DUMP_ERR (n : Nat) : Fld := ⟨8 * (0x600000 + n * 0x10000) + 2, 1, 0⟩
def TL_BANK_STATUS_ALERT (n : Nat) : Fld := ⟨8 * (0x600000 + n * 0x10000) + 1, 1, 0⟩
def TL_BANK_STATUS_FIFO_OVF (n : Nat) : Fld := ⟨8 * (0x600000 + n * 0x10000) + 0, 1, 0⟩
def TL_FIFO_OVF_CNT_COUNT (n : Nat) : Fld := ⟨8 * (0x600004 + n * 0x10000) + 0, 32, 0⟩
def TL_ALERT_CFG_PIN_EN (n : Nat) : Fld := ⟨8 * (0x600008 + n * 0x10000) + 0, 1, 0⟩
def TL_ALR_r_CFG_EN (n r : Nat) : Fld := ⟨8 * (0x600010 + n * 0x10000 + r * 0x10) + 31, 1, 0⟩
def TL_ALR_r_CFG_KIND (n r : Nat) : Fld := ⟨8 * (0x600010 + n * 0x10000 + r * 0x10) + 12, 2, 0⟩
def TL_ALR_r_CFG_STOP (n r : Nat) : Fld := ⟨8 * (0x600010 + n * 0x10000 + r * 0x10) + 8, 4, 0⟩
def TL_ALR_r_CFG_ANYSTOP (n r : Nat) : Fld := ⟨8 * (0x600010 + n * 0x10000 + r * 0x10) + 7, 1, 0⟩
def TL_ALR_r_CFG_LANE (n r : Nat) : Fld := ⟨8 * (0x600010 + n * 0x10000 + r * 0x10) + 0, 4, 0⟩
def TL_ALR_r_LO_LO (n r : Nat) : Fld := ⟨8 * (0x600014 + n * 0x10000 + r * 0x10) + 0, 32, 0⟩
def TL_ALR_r_HI_HI (n r : Nat) : Fld := ⟨8 * (0x600018 + n * 0x10000 + r * 0x10) + 0, 32, 0⟩
def TL_ALR_r_CNT_COUNT (n r : Nat) : Fld := ⟨8 * (0x60001C + n * 0x10000 + r * 0x10) + 0, 32, 0⟩
def TL_FIFO_w_DATA (n w : Nat) : Fld := ⟨8 * (0x600100 + n * 0x10000 + w * 0x4) + 0, 32, 0⟩
/-! Table 8.15 -/
def TL_LANE_i_CFG_OWNER (n i : Nat) : Fld := ⟨8 * (0x601000 + n * 0x10000 + i * 0x100) + 30, 2, 0⟩
def TL_LANE_i_CFG_END_REC (n i : Nat) : Fld := ⟨8 * (0x601000 + n * 0x10000 + i * 0x100) + 24, 1, 0⟩
def TL_LANE_i_CFG_START_REC (n i : Nat) : Fld := ⟨8 * (0x601000 + n * 0x10000 + i * 0x100) + 23, 1, 0⟩
def TL_LANE_i_CFG_FIFO_EN (n i : Nat) : Fld := ⟨8 * (0x601000 + n * 0x10000 + i * 0x100) + 22, 1, 0⟩
def TL_LANE_i_CFG_MAXSTOP (n i : Nat) : Fld := ⟨8 * (0x601000 + n * 0x10000 + i * 0x100) + 16, 4, 0⟩
def TL_LANE_i_CFG_SRC (n i : Nat) : Fld := ⟨8 * (0x601000 + n * 0x10000 + i * 0x100) + 12, 4, 0⟩
def TL_LANE_i_CFG_START_SEL (n i : Nat) : Fld := ⟨8 * (0x601000 + n * 0x10000 + i * 0x100) + 8, 3, 0⟩
def TL_LANE_i_CFG_HYST (n i : Nat) : Fld := ⟨8 * (0x601000 + n * 0x10000 + i * 0x100) + 7, 1, 0⟩
def TL_LANE_i_CFG_TERM (n i : Nat) : Fld := ⟨8 * (0x601000 + n * 0x10000 + i * 0x100) + 6, 1, 0⟩
def TL_LANE_i_CFG_INMODE (n i : Nat) : Fld := ⟨8 * (0x601000 + n * 0x10000 + i * 0x100) + 5, 1, 0⟩
def TL_LANE_i_CFG_SLOPE (n i : Nat) : Fld := ⟨8 * (0x601000 + n * 0x10000 + i * 0x100) + 4, 1, 0⟩
def TL_LANE_i_CFG_CLASS (n i : Nat) : Fld := ⟨8 * (0x601000 + n * 0x10000 + i * 0x100) + 3, 1, 0⟩
def TL_LANE_i_CFG_MODE (n i : Nat) : Fld := ⟨8 * (0x601000 + n * 0x10000 + i * 0x100) + 0, 2, 0⟩
def TL_LANE_i_THRESH_THRESH (n i : Nat) : Fld := ⟨8 * (0x601004 + n * 0x10000 + i * 0x100) + 0, 10, 100⟩
def TL_LANE_i_TMO_TMO (n i : Nat) : Fld := ⟨8 * (0x601008 + n * 0x10000 + i * 0x100) + 0, 21, 1000⟩
def TL_LANE_i_HOLDOFF_HOLDOFF (n i : Nat) : Fld := ⟨8 * (0x60100C + n * 0x10000 + i * 0x100) + 0, 16, 0⟩
def TL_LANE_i_HCFG_HEN (n i : Nat) : Fld := ⟨8 * (0x601010 + n * 0x10000 + i * 0x100) + 31, 1, 0⟩
def TL_LANE_i_HCFG_HALL (n i : Nat) : Fld := ⟨8 * (0x601010 + n * 0x10000 + i * 0x100) + 12, 1, 1⟩
def TL_LANE_i_HCFG_HSTOP (n i : Nat) : Fld := ⟨8 * (0x601010 + n * 0x10000 + i * 0x100) + 8, 4, 0⟩
def TL_LANE_i_HCFG_K (n i : Nat) : Fld := ⟨8 * (0x601010 + n * 0x10000 + i * 0x100) + 0, 5, 4⟩
def TL_LANE_i_HOFS_HOFS (n i : Nat) : Fld := ⟨8 * (0x601014 + n * 0x10000 + i * 0x100) + 0, 20, 0⟩
def TL_LANE_i_STATCFG_SEN (n i : Nat) : Fld := ⟨8 * (0x601018 + n * 0x10000 + i * 0x100) + 31, 1, 0⟩
def TL_LANE_i_STATCFG_STAT_STOP (n i : Nat) : Fld := ⟨8 * (0x601018 + n * 0x10000 + i * 0x100) + 16, 4, 0⟩
def TL_LANE_i_STATCFG_STAT_N (n i : Nat) : Fld := ⟨8 * (0x601018 + n * 0x10000 + i * 0x100) + 0, 16, 1024⟩
def TL_LANE_i_FGATE_FGATE (n i : Nat) : Fld := ⟨8 * (0x60101C + n * 0x10000 + i * 0x100) + 0, 16, 7630⟩
def TL_LANE_i_HCTL_CLEAR (n i : Nat) : Fld := ⟨8 * (0x601020 + n * 0x10000 + i * 0x100) + 0, 1, 0⟩
def TL_LANE_i_HFRAME_HFRAME (n i : Nat) : Fld := ⟨8 * (0x601024 + n * 0x10000 + i * 0x100) + 0, 16, 0⟩
def TL_LANE_i_STATUS_PENDING (n i : Nat) : Fld := ⟨8 * (0x601028 + n * 0x10000 + i * 0x100) + 9, 1, 0⟩
def TL_LANE_i_STATUS_DUMPING (n i : Nat) : Fld := ⟨8 * (0x601028 + n * 0x10000 + i * 0x100) + 8, 1, 0⟩
def TL_LANE_i_STATUS_ARMED (n i : Nat) : Fld := ⟨8 * (0x601028 + n * 0x10000 + i * 0x100) + 7, 1, 0⟩
def TL_LANE_i_STATUS_NOFREQ (n i : Nat) : Fld := ⟨8 * (0x601028 + n * 0x10000 + i * 0x100) + 6, 1, 0⟩
def TL_LANE_i_STATUS_FREQ_DONE (n i : Nat) : Fld := ⟨8 * (0x601028 + n * 0x10000 + i * 0x100) + 5, 1, 0⟩
def TL_LANE_i_STATUS_STAT_DONE (n i : Nat) : Fld := ⟨8 * (0x601028 + n * 0x10000 + i * 0x100) + 4, 1, 0⟩
def TL_LANE_i_STATUS_SAT (n i : Nat) : Fld := ⟨8 * (0x601028 + n * 0x10000 + i * 0x100) + 3, 1, 0⟩
def TL_LANE_i_STATUS_ORDER (n i : Nat) : Fld := ⟨8 * (0x601028 + n * 0x10000 + i * 0x100) + 2, 1, 0⟩
def TL_LANE_i_STATUS_NEAR (n i : Nat) : Fld := ⟨8 * (0x601028 + n * 0x10000 + i * 0x100) + 1, 1, 0⟩
def TL_LANE_i_STATUS_ORPHAN (n i : Nat) : Fld := ⟨8 * (0x601028 + n * 0x10000 + i * 0x100) + 0, 1, 0⟩
def TL_LANE_i_DELAY_DELAY (n i : Nat) : Fld := ⟨8 * (0x60102C + n * 0x10000 + i * 0x100) + 0, 32, 0⟩
def TL_LANE_i_ORPHAN_CNT_COUNT (n i : Nat) : Fld := ⟨8 * (0x601030 + n * 0x10000 + i * 0x100) + 0, 32, 0⟩
def TL_LANE_i_DEAD_CNT_COUNT (n i : Nat) : Fld := ⟨8 * (0x601034 + n * 0x10000 + i * 0x100) + 0, 32, 0⟩
def TL_LANE_i_SKIP_CNT_COUNT (n i : Nat) : Fld := ⟨8 * (0x601038 + n * 0x10000 + i * 0x100) + 0, 32, 0⟩
def TL_LANE_i_BOUNCE_CNT_COUNT (n i : Nat) : Fld := ⟨8 * (0x60103C + n * 0x10000 + i * 0x100) + 0, 32, 0⟩
def TL_LANE_i_UO_CNT_OVER (n i : Nat) : Fld := ⟨8 * (0x601040 + n * 0x10000 + i * 0x100) + 16, 16, 0⟩
def TL_LANE_i_UO_CNT_UNDER (n i : Nat) : Fld := ⟨8 * (0x601040 + n * 0x10000 + i * 0x100) + 0, 16, 0⟩
def TL_LANE_i_MEAN_LO_MEAN_LO (n i : Nat) : Fld := ⟨8 * (0x601048 + n * 0x10000 + i * 0x100) + 0, 32, 0⟩
def TL_LANE_i_MEAN_HI_MEAN_HI (n i : Nat) : Fld := ⟨8 * (0x60104C + n * 0x10000 + i * 0x100) + 0, 8, 0⟩
def TL_LANE_i_SD_SD (n i : Nat) : Fld := ⟨8 * (0x601050 + n * 0x10000 + i * 0x100) + 0, 32, 0⟩
def TL_LANE_i_MIN_MIN (n i : Nat) : Fld := ⟨8 * (0x601054 + n * 0x10000 + i * 0x100) + 0, 32, 0⟩
def TL_LANE_i_MAX_MAX (n i : Nat) : Fld := ⟨8 * (0x601058 + n * 0x10000 + i * 0x100) + 0, 32, 0⟩
def TL_LANE_i_STAT_MISC_NEAR (n i : Nat) : Fld := ⟨8 * (0x60105C + n * 0x10000 + i * 0x100) + 16, 16, 0⟩
def TL_LANE_i_STAT_MISC_MISS (n i : Nat) : Fld := ⟨8 * (0x60105C + n * 0x10000 + i * 0x100) + 0, 16, 0⟩
def TL_LANE_i_STAT_SEQ_SEQ (n i : Nat) : Fld := ⟨8 * (0x601060 + n * 0x10000 + i * 0x100) + 0, 32, 0⟩
def TL_LANE_i_FREQ_FREQ (n i : Nat) : Fld := ⟨8 * (0x601064 + n * 0x10000 + i * 0x100) + 0, 32, 0⟩
def TL_LANE_i_FEDGES_E (n i : Nat) : Fld := ⟨8 * (0x601068 + n * 0x10000 + i * 0x100) + 0, 32, 0⟩
def TL_LANE_i_PERIOD_LO_PERIOD_LO (n i : Nat) : Fld := ⟨8 * (0x60106C + n * 0x10000 + i * 0x100) + 0, 32, 0⟩
def TL_LANE_i_PERIOD_HI_PERIOD_HI (n i : Nat) : Fld := ⟨8 * (0x601070 + n * 0x10000 + i * 0x100) + 0, 16, 0⟩
def TL_LANE_i_COUNT_LO_COUNT_LO (n i : Nat) : Fld := ⟨8 * (0x601078 + n * 0x10000 + i * 0x100) + 0, 32, 0⟩
def TL_LANE_i_COUNT_HI_COUNT_HI (n i : Nat) : Fld := ⟨8 * (0x60107C + n * 0x10000 + i * 0x100) + 0, 32, 0⟩
def TL_LANE_i_MEAS_LO_MEAS_LO (n i : Nat) : Fld := ⟨8 * (0x601080 + n * 0x10000 + i * 0x100) + 0, 32, 0⟩
def TL_LANE_i_MEAS_HI_MEAS_HI (n i : Nat) : Fld := ⟨8 * (0x601084 + n * 0x10000 + i * 0x100) + 0, 32, 0⟩
/-! Table 9.11 -/
def BC_JIT_SEED_SEED : Fld := ⟨8 * (0x700000) + 0, 31, 1⟩
def BC_BYB_CTL_EN : Fld := ⟨8 * (0x700010) + 31, 1, 0⟩
def BC_BYB_CTL_DISCOVER : Fld := ⟨8 * (0x700010) + 16, 1, 0⟩
def BC_BYB_CTL_PER : Fld := ⟨8 * (0x700010) + 0, 16, 11⟩
def BC_BYB_STATUS_HEADS : Fld := ⟨8 * (0x700014) + 16, 5, 0⟩
def BC_BYB_STATUS_VER_CHG : Fld := ⟨8 * (0x700014) + 6, 1, 0⟩
def BC_BYB_STATUS_MISMATCH : Fld := ⟨8 * (0x700014) + 5, 1, 0⟩
def BC_BYB_STATUS_EXCESS : Fld := ⟨8 * (0x700014) + 4, 1, 0⟩
def BC_BYB_STATUS_ALARM : Fld := ⟨8 * (0x700014) + 3, 1, 0⟩
def BC_BYB_STATUS_CRC_ERR : Fld := ⟨8 * (0x700014) + 2, 1, 0⟩
def BC_BYB_STATUS_RING_BREAK : Fld := ⟨8 * (0x700014) + 1, 1, 0⟩
def BC_BYB_STATUS_FRAME_DONE : Fld := ⟨8 * (0x700014) + 0, 1, 0⟩
def BC_BYB_FRAMES_COUNT : Fld := ⟨8 * (0x700018) + 0, 32, 0⟩
def BC_BYB_CRC_CNT_COUNT : Fld := ⟨8 * (0x70001C) + 0, 32, 0⟩
def BC_BYB_k_CMD_PENDING (k : Nat) : Fld := ⟨8 * (0x700100 + k * 0x10) + 31, 1, 0⟩
def BC_BYB_k_CMD_OP (k : Nat) : Fld := ⟨8 * (0x700100 + k * 0x10) + 24, 2, 0⟩
def BC_BYB_k_CMD_REG (k : Nat) : Fld := ⟨8 * (0x700100 + k * 0x10) + 16, 8, 0⟩
def BC_BYB_k_CMD_DATA (k : Nat) : Fld := ⟨8 * (0x700100 + k * 0x10) + 0, 16, 0⟩
def BC_BYB_k_INFO_VALID (k : Nat) : Fld := ⟨8 * (0x700104 + k * 0x10) + 31, 1, 0⟩
def BC_BYB_k_INFO_LOST (k : Nat) : Fld := ⟨8 * (0x700104 + k * 0x10) + 30, 1, 0⟩
def BC_BYB_k_INFO_INCOMPAT (k : Nat) : Fld := ⟨8 * (0x700104 + k * 0x10) + 29, 1, 0⟩
def BC_BYB_k_INFO_ALARM (k : Nat) : Fld := ⟨8 * (0x700104 + k * 0x10) + 28, 1, 0⟩
def BC_BYB_k_INFO_ACK (k : Nat) : Fld := ⟨8 * (0x700104 + k * 0x10) + 27, 1, 0⟩
def BC_BYB_k_INFO_KIND (k : Nat) : Fld := ⟨8 * (0x700104 + k * 0x10) + 16, 4, 0⟩
def BC_BYB_k_INFO_VER (k : Nat) : Fld := ⟨8 * (0x700104 + k * 0x10) + 12, 4, 0⟩
def BC_BYB_k_INFO_VMAX (k : Nat) : Fld := ⟨8 * (0x700104 + k * 0x10) + 8, 4, 0⟩
def BC_BYB_k_INFO_VMIN (k : Nat) : Fld := ⟨8 * (0x700104 + k * 0x10) + 4, 4, 0⟩
def BC_BYB_k_DATA_DATA (k : Nat) : Fld := ⟨8 * (0x700108 + k * 0x10) + 0, 16, 0⟩
/-! Table 9.12 -/
def BC_m_CTL_SHORTCHK (m : Nat) : Fld := ⟨8 * (0x701000 + m * 0x400) + 3, 1, 0⟩
def BC_m_CTL_ALARM_STOP (m : Nat) : Fld := ⟨8 * (0x701000 + m * 0x400) + 2, 1, 1⟩
def BC_m_CTL_RESUME (m : Nat) : Fld := ⟨8 * (0x701000 + m * 0x400) + 1, 1, 0⟩
def BC_m_CTL_DIAG_EN (m : Nat) : Fld := ⟨8 * (0x701000 + m * 0x400) + 0, 1, 1⟩
def BC_m_STATUS_CHECK_ABORT (m : Nat) : Fld := ⟨8 * (0x701004 + m * 0x400) + 11, 1, 0⟩
def BC_m_STATUS_GOV (m : Nat) : Fld := ⟨8 * (0x701004 + m * 0x400) + 10, 1, 0⟩
def BC_m_STATUS_OPEN_UNKNOWN (m : Nat) : Fld := ⟨8 * (0x701004 + m * 0x400) + 9, 1, 0⟩
def BC_m_STATUS_OPEN (m : Nat) : Fld := ⟨8 * (0x701004 + m * 0x400) + 8, 1, 0⟩
def BC_m_STATUS_SHORT (m : Nat) : Fld := ⟨8 * (0x701004 + m * 0x400) + 7, 1, 0⟩
def BC_m_STATUS_HEAD_LOST (m : Nat) : Fld := ⟨8 * (0x701004 + m * 0x400) + 6, 1, 0⟩
def BC_m_STATUS_HEAD_ALARM (m : Nat) : Fld := ⟨8 * (0x701004 + m * 0x400) + 5, 1, 0⟩
def BC_m_STATUS_CHECKING (m : Nat) : Fld := ⟨8 * (0x701004 + m * 0x400) + 4, 1, 0⟩
def BC_m_STATUS_STOPPED (m : Nat) : Fld := ⟨8 * (0x701004 + m * 0x400) + 3, 1, 0⟩
def BC_m_STATUS_RUNNING (m : Nat) : Fld := ⟨8 * (0x701004 + m * 0x400) + 2, 1, 0⟩
def BC_m_STATUS_ARMED (m : Nat) : Fld := ⟨8 * (0x701004 + m * 0x400) + 1, 1, 0⟩
def BC_m_STATUS_OWNED (m : Nat) : Fld := ⟨8 * (0x701004 + m * 0x400) + 0, 1, 0⟩
def BC_m_SLOT_SLOT (m : Nat) : Fld := ⟨8 * (0x701008 + m * 0x400) + 16, 16, 0⟩
def BC_m_SLOT_BLANK (m : Nat) : Fld := ⟨8 * (0x701008 + m * 0x400) + 0, 7, 0⟩
def BC_m_PULSE_JBITS (m : Nat) : Fld := ⟨8 * (0x70100C + m * 0x400) + 28, 4, 0⟩
def BC_m_PULSE_INT (m : Nat) : Fld := ⟨8 * (0x70100C + m * 0x400) + 16, 9, 0⟩
def BC_m_PULSE_PW (m : Nat) : Fld := ⟨8 * (0x70100C + m * 0x400) + 0, 7, 0⟩
def BC_m_STEP_STEP (m : Nat) : Fld := ⟨8 * (0x701010 + m * 0x400) + 8, 3, 0⟩
def BC_m_STEP_ROWS (m : Nat) : Fld := ⟨8 * (0x701010 + m * 0x400) + 0, 8, 0⟩
def BC_m_SHOT_DLY_DLY (m : Nat) : Fld := ⟨8 * (0x701014 + m * 0x400) + 0, 16, 0⟩
def BC_m_SCAN_LO_COUNT_LO (m : Nat) : Fld := ⟨8 * (0x701018 + m * 0x400) + 0, 32, 0⟩
def BC_m_SCAN_HI_COUNT_HI (m : Nat) : Fld := ⟨8 * (0x70101C + m * 0x400) + 0, 32, 0⟩
def BC_m_GOV_CNT_COUNT (m : Nat) : Fld := ⟨8 * (0x701020 + m * 0x400) + 0, 32, 0⟩
def BC_m_MISS_CNT_COUNT (m : Nat) : Fld := ⟨8 * (0x701024 + m * 0x400) + 0, 32, 0⟩
def BC_m_COIN_REJ_CNT_COUNT (m : Nat) : Fld := ⟨8 * (0x701028 + m * 0x400) + 0, 32, 0⟩
def BC_m_HEAD_SUM_SUM (m : Nat) : Fld := ⟨8 * (0x70102C + m * 0x400) + 0, 32, 0⟩
def BC_m_HEAD_LIM_LIM (m : Nat) : Fld := ⟨8 * (0x701030 + m * 0x400) + 0, 32, 0⟩
def BC_m_EMIT_LIM_LIM (m : Nat) : Fld := ⟨8 * (0x701034 + m * 0x400) + 0, 32, 0⟩
def BC_m_SHORT_NUM_OVF (m : Nat) : Fld := ⟨8 * (0x701038 + m * 0x400) + 4, 1, 0⟩
def BC_m_SHORT_NUM_NUM (m : Nat) : Fld := ⟨8 * (0x701038 + m * 0x400) + 0, 4, 0⟩
def BC_m_EMIT_r_ST_j (m r j : Nat) : Fld := ⟨8 * (0x701040 + m * 0x400 + r * 0x4) + 0 + j * 2, 2, 0⟩
def BC_m_SHORT_p_LINE_A (m p : Nat) : Fld := ⟨8 * (0x701060 + m * 0x400 + p * 0x4) + 8, 8, 0⟩
def BC_m_SHORT_p_LINE_B (m p : Nat) : Fld := ⟨8 * (0x701060 + m * 0x400 + p * 0x4) + 0, 8, 0⟩
def BC_m_ESUM_e_SUM (m e : Nat) : Fld := ⟨8 * (0x701100 + m * 0x400 + e * 0x4) + 0, 32, 0⟩
/-! Table 10.11 -/
def SN_CTL_MSRC : Fld := ⟨8 * (0x800000) + 8, 2, 0⟩
def SN_CTL_RESTART : Fld := ⟨8 * (0x800000) + 5, 1, 0⟩
def SN_CTL_START : Fld := ⟨8 * (0x800000) + 4, 1, 0⟩
def SN_CTL_MODE : Fld := ⟨8 * (0x800000) + 0, 2, 0⟩
def SN_STATUS_WR_OWNED : Fld := ⟨8 * (0x800004) + 7, 1, 0⟩
def SN_STATUS_NOVR : Fld := ⟨8 * (0x800004) + 6, 1, 0⟩
def SN_STATUS_OVR : Fld := ⟨8 * (0x800004) + 5, 1, 0⟩
def SN_STATUS_MAINS_LOST : Fld := ⟨8 * (0x800004) + 4, 1, 0⟩
def SN_STATUS_HOLDOVER : Fld := ⟨8 * (0x800004) + 3, 1, 0⟩
def SN_STATUS_MAINS_LOCK : Fld := ⟨8 * (0x800004) + 2, 1, 0⟩
def SN_STATUS_RUNNING : Fld := ⟨8 * (0x800004) + 1, 1, 0⟩
def SN_STATUS_CAL_VALID : Fld := ⟨8 * (0x800004) + 0, 1, 0⟩
def SN_MAINS_PERIOD_PERIOD : Fld := ⟨8 * (0x800008) + 0, 32, 0⟩
def SN_CONV_CNT_COUNT : Fld := ⟨8 * (0x80000C) + 0, 32, 0⟩
/-! Table 10.12 -/
def SN_CH_c_CFG_OWNER (c : Nat) : Fld := ⟨8 * (0x801000 + c * 0x100) + 30, 2, 0⟩
def SN_CH_c_CFG_EN (c : Nat) : Fld := ⟨8 * (0x801000 + c * 0x100) + 29, 1, 0⟩
def SN_CH_c_CFG_AUTO (c : Nat) : Fld := ⟨8 * (0x801000 + c * 0x100) + 28, 1, 1⟩
def SN_CH_c_CFG_RANGE (c : Nat) : Fld := ⟨8 * (0x801000 + c * 0x100) + 24, 3, 0⟩
def SN_CH_c_CFG_UNIT (c : Nat) : Fld := ⟨8 * (0x801000 + c * 0x100) + 20, 4, 0⟩
def SN_CH_c_CFG_CJ_CH (c : Nat) : Fld := ⟨8 * (0x801000 + c * 0x100) + 16, 4, 0⟩
def SN_CH_c_CFG_CURVE (c : Nat) : Fld := ⟨8 * (0x801000 + c * 0x100) + 8, 8, 0⟩
def SN_CH_c_CFG_NPLC (c : Nat) : Fld := ⟨8 * (0x801000 + c * 0x100) + 6, 2, 3⟩
def SN_CH_c_CFG_EXCMODE (c : Nat) : Fld := ⟨8 * (0x801000 + c * 0x100) + 4, 2, 0⟩
def SN_CH_c_CFG_WIRE (c : Nat) : Fld := ⟨8 * (0x801000 + c * 0x100) + 2, 2, 0⟩
def SN_CH_c_CFG_CJ_EN (c : Nat) : Fld := ⟨8 * (0x801000 + c * 0x100) + 1, 1, 0⟩
def SN_CH_c_EXC_EXC (c : Nat) : Fld := ⟨8 * (0x801004 + c * 0x100) + 0, 13, 100⟩
def SN_CH_c_LEADR_LEADR (c : Nat) : Fld := ⟨8 * (0x801008 + c * 0x100) + 0, 24, 0⟩
def SN_CH_c_LEADN_LEADN (c : Nat) : Fld := ⟨8 * (0x80100C + c * 0x100) + 0, 16, 64⟩
def SN_CH_c_A_A (c : Nat) : Fld := ⟨8 * (0x801010 + c * 0x100) + 0, 32, 0⟩
def SN_CH_c_B_B (c : Nat) : Fld := ⟨8 * (0x801014 + c * 0x100) + 0, 32, 65536⟩
def SN_CH_c_X0_X0 (c : Nat) : Fld := ⟨8 * (0x801018 + c * 0x100) + 0, 32, 0⟩
def SN_CH_c_CUT_CUT (c : Nat) : Fld := ⟨8 * (0x80101C + c * 0x100) + 0, 32, 0⟩
def SN_CH_c_R0_R0 (c : Nat) : Fld := ⟨8 * (0x801020 + c * 0x100) + 0, 32, 100000⟩
def SN_CH_c_POLY_SET (c : Nat) : Fld := ⟨8 * (0x801024 + c * 0x100) + 0, 4, 0⟩
def SN_CH_c_STATUS_RANGE (c : Nat) : Fld := ⟨8 * (0x801028 + c * 0x100) + 10, 3, 0⟩
def SN_CH_c_STATUS_SETTLE_LEFT (c : Nat) : Fld := ⟨8 * (0x801028 + c * 0x100) + 8, 2, 0⟩
def SN_CH_c_STATUS_WR_OWNED (c : Nat) : Fld := ⟨8 * (0x801028 + c * 0x100) + 7, 1, 0⟩
def SN_CH_c_STATUS_PENDING (c : Nat) : Fld := ⟨8 * (0x801028 + c * 0x100) + 5, 1, 0⟩
def SN_CH_c_STATUS_LEAD_VALID (c : Nat) : Fld := ⟨8 * (0x801028 + c * 0x100) + 4, 1, 0⟩
def SN_CH_c_STATUS_RANGE_CHG (c : Nat) : Fld := ⟨8 * (0x801028 + c * 0x100) + 3, 1, 0⟩
def SN_CH_c_STATUS_NOVR (c : Nat) : Fld := ⟨8 * (0x801028 + c * 0x100) + 2, 1, 0⟩
def SN_CH_c_STATUS_OVR (c : Nat) : Fld := ⟨8 * (0x801028 + c * 0x100) + 1, 1, 0⟩
def SN_CH_c_STATUS_ACTIVE (c : Nat) : Fld := ⟨8 * (0x801028 + c * 0x100) + 0, 1, 0⟩
def SN_CH_c_SEQ_SEQ (c : Nat) : Fld := ⟨8 * (0x80102C + c * 0x100) + 0, 32, 0⟩
def SN_CH_c_CODE_CODE (c : Nat) : Fld := ⟨8 * (0x801030 + c * 0x100) + 0, 32, 0⟩
def SN_CH_c_VALUE_VALUE (c : Nat) : Fld := ⟨8 * (0x801034 + c * 0x100) + 0, 32, 0⟩
def SN_CH_c_TAG_RANGE (c : Nat) : Fld := ⟨8 * (0x801038 + c * 0x100) + 8, 3, 0⟩
def SN_CH_c_TAG_TAG (c : Nat) : Fld := ⟨8 * (0x801038 + c * 0x100) + 0, 8, 0⟩
def SN_CH_c_STAMP_LO_TIME_LO (c : Nat) : Fld := ⟨8 * (0x80103C + c * 0x100) + 0, 32, 0⟩
def SN_CH_c_STAMP_HI_TIME_HI (c : Nat) : Fld := ⟨8 * (0x801040 + c * 0x100) + 0, 32, 0⟩
def SN_CH_c_LEAD_R_L (c : Nat) : Fld := ⟨8 * (0x801044 + c * 0x100) + 0, 24, 0⟩
def SN_CH_c_OVR_CNT_COUNT (c : Nat) : Fld := ⟨8 * (0x801048 + c * 0x100) + 0, 32, 0⟩
def SN_CH_c_RANGE_CNT_COUNT (c : Nat) : Fld := ⟨8 * (0x80104C + c * 0x100) + 0, 32, 0⟩
def SN_CH_c_DISC_CNT_COUNT (c : Nat) : Fld := ⟨8 * (0x801050 + c * 0x100) + 0, 32, 0⟩
/-! Table 11.9 -/
def WT_WATCHES_COUNT : Fld := ⟨8 * (0x900000) + 0, 6, 0⟩
def WT_STATUS_CAPTURED : Fld := ⟨8 * (0x900004) + 0, 32, 0⟩
/-! Table 11.10 -/
def WT_w_HANDLE_HANDLE (w : Nat) : Fld := ⟨8 * (0x901000 + w * 0x100) + 0, 32, 0⟩
def WT_w_CFG_SRC_KIND (w : Nat) : Fld := ⟨8 * (0x901004 + w * 0x100) + 28, 4, 0⟩
def WT_w_CFG_EDGE (w : Nat) : Fld := ⟨8 * (0x901004 + w * 0x100) + 26, 2, 0⟩
def WT_w_CFG_MODE (w : Nat) : Fld := ⟨8 * (0x901004 + w * 0x100) + 24, 2, 0⟩
def WT_w_CFG_SEL (w : Nat) : Fld := ⟨8 * (0x901004 + w * 0x100) + 0, 20, 0⟩
def WT_w_SOURCE_SOURCE (w : Nat) : Fld := ⟨8 * (0x901008 + w * 0x100) + 0, 32, 0⟩
def WT_w_LEVEL_LEVEL (w : Nat) : Fld := ⟨8 * (0x90100C + w * 0x100) + 0, 32, 0⟩
def WT_w_HYST_HYST (w : Nat) : Fld := ⟨8 * (0x901010 + w * 0x100) + 0, 31, 0⟩
def WT_w_CTL_REARM (w : Nat) : Fld := ⟨8 * (0x901014 + w * 0x100) + 1, 1, 0⟩
def WT_w_CTL_FORCE (w : Nat) : Fld := ⟨8 * (0x901014 + w * 0x100) + 0, 1, 0⟩
def WT_w_STATUS_PENDING (w : Nat) : Fld := ⟨8 * (0x901018 + w * 0x100) + 9, 1, 0⟩
def WT_w_STATUS_SKIPPED (w : Nat) : Fld := ⟨8 * (0x901018 + w * 0x100) + 8, 1, 0⟩
def WT_w_STATUS_IGNORED (w : Nat) : Fld := ⟨8 * (0x901018 + w * 0x100) + 7, 1, 0⟩
def WT_w_STATUS_FORCED (w : Nat) : Fld := ⟨8 * (0x901018 + w * 0x100) + 6, 1, 0⟩
def WT_w_STATUS_CAPTURED (w : Nat) : Fld := ⟨8 * (0x901018 + w * 0x100) + 5, 1, 0⟩
def WT_w_STATUS_ARM_FALL (w : Nat) : Fld := ⟨8 * (0x901018 + w * 0x100) + 4, 1, 0⟩
def WT_w_STATUS_ARM_RISE (w : Nat) : Fld := ⟨8 * (0x901018 + w * 0x100) + 3, 1, 0⟩
def WT_w_STATUS_STATE (w : Nat) : Fld := ⟨8 * (0x901018 + w * 0x100) + 0, 3, 0⟩
def WT_w_FILL_TAKEN (w : Nat) : Fld := ⟨8 * (0x90101C + w * 0x100) + 0, 21, 0⟩
def WT_w_SEQ_LO_SEQ_LO (w : Nat) : Fld := ⟨8 * (0x901020 + w * 0x100) + 0, 32, 0⟩
def WT_w_SEQ_HI_SEQ_HI (w : Nat) : Fld := ⟨8 * (0x901024 + w * 0x100) + 0, 32, 0⟩
def WT_w_RING_LO_ADDR_LO (w : Nat) : Fld := ⟨8 * (0x901028 + w * 0x100) + 0, 32, 0⟩
def WT_w_RING_HI_ADDR_HI (w : Nat) : Fld := ⟨8 * (0x90102C + w * 0x100) + 0, 2, 0⟩
def WT_w_SLOTS_NCAP (w : Nat) : Fld := ⟨8 * (0x901030 + w * 0x100) + 0, 11, 0⟩
def WT_w_SLOT_BYTES_BYTES (w : Nat) : Fld := ⟨8 * (0x901034 + w * 0x100) + 0, 25, 0⟩
def WT_w_TRIG_LO_TIME_LO (w : Nat) : Fld := ⟨8 * (0x901038 + w * 0x100) + 0, 32, 0⟩
def WT_w_TRIG_HI_TIME_HI (w : Nat) : Fld := ⟨8 * (0x90103C + w * 0x100) + 0, 32, 0⟩
def WT_w_TRIG_FRAC_FRAC (w : Nat) : Fld := ⟨8 * (0x901040 + w * 0x100) + 0, 8, 0⟩
def WT_w_VALUE_VALUE (w : Nat) : Fld := ⟨8 * (0x901044 + w * 0x100) + 0, 32, 0⟩
def WT_w_IGN_CNT_COUNT (w : Nat) : Fld := ⟨8 * (0x901048 + w * 0x100) + 0, 32, 0⟩
def WT_w_FORCE_CNT_COUNT (w : Nat) : Fld := ⟨8 * (0x90104C + w * 0x100) + 0, 32, 0⟩
def WT_w_SKIP_CNT_COUNT (w : Nat) : Fld := ⟨8 * (0x901050 + w * 0x100) + 0, 32, 0⟩
/-! Table 12.6 -/
def PI_CL_STATUS_REFUSED (n : Nat) : Fld := ⟨8 * (0xA00000 + n * 0x40000) + 11, 1, 0⟩
def PI_CL_STATUS_GOV (n : Nat) : Fld := ⟨8 * (0xA00000 + n * 0x40000) + 10, 1, 0⟩
def PI_CL_STATUS_HOLD_BREAK (n : Nat) : Fld := ⟨8 * (0xA00000 + n * 0x40000) + 9, 1, 0⟩
def PI_CL_STATUS_DROP (n : Nat) : Fld := ⟨8 * (0xA00000 + n * 0x40000) + 8, 1, 0⟩
def PI_CL_STATUS_FAULT (n : Nat) : Fld := ⟨8 * (0xA00000 + n * 0x40000) + 7, 1, 0⟩
def PI_CL_STATUS_CPAR (n : Nat) : Fld := ⟨8 * (0xA00000 + n * 0x40000) + 6, 1, 0⟩
def PI_CL_STATUS_DPAR (n : Nat) : Fld := ⟨8 * (0xA00000 + n * 0x40000) + 5, 1, 0⟩
def PI_CL_STATUS_IPAR (n : Nat) : Fld := ⟨8 * (0xA00000 + n * 0x40000) + 4, 1, 0⟩
def PI_CL_STATUS_DUAL (n : Nat) : Fld := ⟨8 * (0xA00000 + n * 0x40000) + 3, 1, 0⟩
def PI_CL_STATUS_ACT_BANK (n : Nat) : Fld := ⟨8 * (0xA00000 + n * 0x40000) + 2, 1, 0⟩
def PI_CL_STATUS_SWAPPING (n : Nat) : Fld := ⟨8 * (0xA00000 + n * 0x40000) + 1, 1, 0⟩
def PI_CL_STATUS_READY (n : Nat) : Fld := ⟨8 * (0xA00000 + n * 0x40000) + 0, 1, 0⟩
def PI_CL_QUEUE_PEAK (n : Nat) : Fld := ⟨8 * (0xA00004 + n * 0x40000) + 16, 9, 0⟩
def PI_CL_QUEUE_LEVEL (n : Nat) : Fld := ⟨8 * (0xA00004 + n * 0x40000) + 0, 9, 0⟩
def PI_CL_BANK_b_ID_PROG_ID (n b : Nat) : Fld := ⟨8 * (0xA00008 + n * 0x40000 + b * 0x4) + 0, 32, 0⟩
def PI_CL_BANK_b_INFO_VALID (n b : Nat) : Fld := ⟨8 * (0xA00010 + n * 0x40000 + b * 0x4) + 31, 1, 0⟩
def PI_CL_BANK_b_INFO_FLOWLIB (n b : Nat) : Fld := ⟨8 * (0xA00010 + n * 0x40000 + b * 0x4) + 30, 1, 0⟩
def PI_CL_BANK_b_INFO_SIZE (n b : Nat) : Fld := ⟨8 * (0xA00010 + n * 0x40000 + b * 0x4) + 16, 7, 0⟩
def PI_CL_BANK_b_INFO_LAT (n b : Nat) : Fld := ⟨8 * (0xA00010 + n * 0x40000 + b * 0x4) + 0, 15, 0⟩
def PI_CL_JOB_CNT_COUNT (n : Nat) : Fld := ⟨8 * (0xA00020 + n * 0x40000) + 0, 32, 0⟩
def PI_CL_DROP_CNT_COUNT (n : Nat) : Fld := ⟨8 * (0xA00024 + n * 0x40000) + 0, 32, 0⟩
def PI_CL_FAULT_CNT_RERUN (n : Nat) : Fld := ⟨8 * (0xA00028 + n * 0x40000) + 16, 16, 0⟩
def PI_CL_FAULT_CNT_FAULT (n : Nat) : Fld := ⟨8 * (0xA00028 + n * 0x40000) + 0, 16, 0⟩
def PI_CL_PARITY_CNT_CMEM (n : Nat) : Fld := ⟨8 * (0xA0002C + n * 0x40000) + 20, 10, 0⟩
def PI_CL_PARITY_CNT_IMEM (n : Nat) : Fld := ⟨8 * (0xA0002C + n * 0x40000) + 10, 10, 0⟩
def PI_CL_PARITY_CNT_DMEM (n : Nat) : Fld := ⟨8 * (0xA0002C + n * 0x40000) + 0, 10, 0⟩
def PI_CL_HOLD_CNT_COUNT (n : Nat) : Fld := ⟨8 * (0xA00030 + n * 0x40000) + 0, 32, 0⟩
def PI_CL_HOLD_MAX_CYCLES (n : Nat) : Fld := ⟨8 * (0xA00034 + n * 0x40000) + 0, 16, 0⟩
def PI_CL_POST_0_BANK (n : Nat) : Fld := ⟨8 * (0xA00040 + n * 0x40000) + 24, 1, 0⟩
def PI_CL_POST_0_ENTRY (n : Nat) : Fld := ⟨8 * (0xA00040 + n * 0x40000) + 16, 5, 0⟩
def PI_CL_POST_0_BERTH (n : Nat) : Fld := ⟨8 * (0xA00040 + n * 0x40000) + 0, 12, 0⟩
def PI_CL_POST_1_ARG (n : Nat) : Fld := ⟨8 * (0xA00044 + n * 0x40000) + 0, 32, 0⟩
def PI_CL_LASTFAULT_CORE (n : Nat) : Fld := ⟨8 * (0xA00050 + n * 0x40000) + 30, 2, 0⟩
def PI_CL_LASTFAULT_CODE (n : Nat) : Fld := ⟨8 * (0xA00050 + n * 0x40000) + 24, 4, 0⟩
def PI_CL_LASTFAULT_ADDR (n : Nat) : Fld := ⟨8 * (0xA00050 + n * 0x40000) + 0, 22, 0⟩
/-! Table 12.7 -/
def PI_CORE_k_STATUS_BERTH (n k : Nat) : Fld := ⟨8 * (0xA01000 + n * 0x40000 + k * 0x100) + 16, 12, 0⟩
def PI_CORE_k_STATUS_GOV (n k : Nat) : Fld := ⟨8 * (0xA01000 + n * 0x40000 + k * 0x100) + 12, 4, 0⟩
def PI_CORE_k_STATUS_FRZ (n k : Nat) : Fld := ⟨8 * (0xA01000 + n * 0x40000 + k * 0x100) + 8, 4, 0⟩
def PI_CORE_k_STATUS_WRAP (n k : Nat) : Fld := ⟨8 * (0xA01000 + n * 0x40000 + k * 0x100) + 4, 4, 0⟩
def PI_CORE_k_STATUS_IRQ_HELD (n k : Nat) : Fld := ⟨8 * (0xA01000 + n * 0x40000 + k * 0x100) + 3, 1, 0⟩
def PI_CORE_k_STATUS_DEPTH (n k : Nat) : Fld := ⟨8 * (0xA01000 + n * 0x40000 + k * 0x100) + 1, 2, 0⟩
def PI_CORE_k_STATUS_BUSY (n k : Nat) : Fld := ⟨8 * (0xA01000 + n * 0x40000 + k * 0x100) + 0, 1, 0⟩
def PI_CORE_k_PC_PC (n k : Nat) : Fld := ⟨8 * (0xA01004 + n * 0x40000 + k * 0x100) + 0, 14, 0⟩
def PI_CORE_k_CYC_CYCLES (n k : Nat) : Fld := ⟨8 * (0xA01008 + n * 0x40000 + k * 0x100) + 0, 32, 0⟩
def PI_CORE_k_BUSY_CNT_COUNT (n k : Nat) : Fld := ⟨8 * (0xA0100C + n * 0x40000 + k * 0x100) + 0, 32, 0⟩
def PI_CORE_k_JOBS_COUNT (n k : Nat) : Fld := ⟨8 * (0xA01010 + n * 0x40000 + k * 0x100) + 0, 32, 0⟩
def PI_CORE_k_HOLD_MAX_CYCLES (n k : Nat) : Fld := ⟨8 * (0xA01014 + n * 0x40000 + k * 0x100) + 0, 16, 0⟩
/-! Table 13.11 -/
def WH_CTL_INIT : Fld := ⟨8 * (0xB00000) + 0, 1, 0⟩
def WH_CFG_SIZE : Fld := ⟨8 * (0xB00004) + 0, 3, 0⟩
def WH_STATUS_RANGE_ERR : Fld := ⟨8 * (0xB00008) + 7, 1, 0⟩
def WH_STATUS_RMW_ERR : Fld := ⟨8 * (0xB00008) + 6, 1, 0⟩
def WH_STATUS_REREAD : Fld := ⟨8 * (0xB00008) + 5, 1, 0⟩
def WH_STATUS_CHK_ERR : Fld := ⟨8 * (0xB00008) + 4, 1, 0⟩
def WH_STATUS_TRAINING : Fld := ⟨8 * (0xB00008) + 1, 1, 0⟩
def WH_STATUS_READY : Fld := ⟨8 * (0xB00008) + 0, 1, 0⟩
def WH_AGE_AGE : Fld := ⟨8 * (0xB0000C) + 0, 16, 2000⟩
def WH_USABLE_LO_BYTES_LO : Fld := ⟨8 * (0xB00010) + 0, 32, 0⟩
def WH_USABLE_HI_BYTES_HI : Fld := ⟨8 * (0xB00014) + 0, 3, 0⟩
def WH_CHK_ADDR_LO_ADDR_LO : Fld := ⟨8 * (0xB00018) + 0, 32, 0⟩
def WH_CHK_ADDR_HI_ADDR_HI : Fld := ⟨8 * (0xB0001C) + 0, 2, 0⟩
def WH_CHK_CNT_COUNT : Fld := ⟨8 * (0xB00020) + 0, 32, 0⟩
def WH_REREAD_CNT_COUNT : Fld := ⟨8 * (0xB00024) + 0, 32, 0⟩
def WH_FWD_CNT_COUNT : Fld := ⟨8 * (0xB00028) + 0, 32, 0⟩
def WH_PROMO_CNT_c_COUNT (c : Nat) : Fld := ⟨8 * (0xB00030 + c * 0x4) + 0, 32, 0⟩
def WH_AREA_a_SIZE (a : Nat) : Fld := ⟨8 * (0xB00040 + a * 0x4) + 16, 16, 0⟩
def WH_AREA_a_BASE (a : Nat) : Fld := ⟨8 * (0xB00040 + a * 0x4) + 0, 16, 0⟩
/-! Table 13.12 -/
def TG_SHED_STATUS_WRITE_DISC : Fld := ⟨8 * (0xC00000) + 1, 1, 0⟩
def TG_SHED_STATUS_PARITY : Fld := ⟨8 * (0xC00000) + 0, 1, 0⟩
def TG_SHED_PAR_CNT_COUNT : Fld := ⟨8 * (0xC00004) + 0, 32, 0⟩
def TG_SHED_PAR_ADDR_OFFSET : Fld := ⟨8 * (0xC00008) + 0, 26, 0⟩
def TG_SHED_PART_p_KIB (p : Nat) : Fld := ⟨8 * (0xC00010 + p * 0x4) + 0, 16, 0⟩
/-! Table 13.13 -/
def TG_e_STATUS_CH (e : Nat) : Fld := ⟨8 * (0xC01000 + e * 0x1000) + 8, 5, 0⟩
def TG_e_STATUS_BUSY (e : Nat) : Fld := ⟨8 * (0xC01000 + e * 0x1000) + 0, 1, 0⟩
def TG_e_DONE_DONE (e : Nat) : Fld := ⟨8 * (0xC01004 + e * 0x1000) + 0, 32, 0⟩
def TG_e_ERR_ERR (e : Nat) : Fld := ⟨8 * (0xC01008 + e * 0x1000) + 0, 32, 0⟩
def TG_e_BYTES_COUNT (e : Nat) : Fld := ⟨8 * (0xC0100C + e * 0x1000) + 0, 32, 0⟩
def TG_e_DESC_CNT_COUNT (e : Nat) : Fld := ⟨8 * (0xC01010 + e * 0x1000) + 0, 32, 0⟩
def TG_e_BAD_CNT_BAD (e : Nat) : Fld := ⟨8 * (0xC01014 + e * 0x1000) + 16, 16, 0⟩
def TG_e_BAD_CNT_DROPPED (e : Nat) : Fld := ⟨8 * (0xC01014 + e * 0x1000) + 0, 16, 0⟩
def TG_e_LASTERR_CODE (e : Nat) : Fld := ⟨8 * (0xC01018 + e * 0x1000) + 28, 4, 0⟩
def TG_e_LASTERR_CAUSE (e : Nat) : Fld := ⟨8 * (0xC01018 + e * 0x1000) + 24, 4, 0⟩
def TG_e_LASTERR_CH (e : Nat) : Fld := ⟨8 * (0xC01018 + e * 0x1000) + 16, 5, 0⟩
def TG_e_LASTERR_DESC_OFFSET (e : Nat) : Fld := ⟨8 * (0xC0101C + e * 0x1000) + 0, 26, 0⟩
/-! Table 13.14 -/
def TG_e_CH_c_CFG_EN (e c : Nat) : Fld := ⟨8 * (0xC01100 + e * 0x1000 + c * 0x20) + 31, 1, 0⟩
def TG_e_CH_c_CFG_VEC (e c : Nat) : Fld := ⟨8 * (0xC01100 + e * 0x1000 + c * 0x20) + 16, 6, 0⟩
def TG_e_CH_c_CFG_HOST (e c : Nat) : Fld := ⟨8 * (0xC01100 + e * 0x1000 + c * 0x20) + 12, 1, 0⟩
def TG_e_CH_c_CFG_OWNER (e c : Nat) : Fld := ⟨8 * (0xC01100 + e * 0x1000 + c * 0x20) + 0, 12, 0⟩
def TG_e_CH_c_HEAD_HEAD (e c : Nat) : Fld := ⟨8 * (0xC01104 + e * 0x1000 + c * 0x20) + 5, 21, 0⟩
def TG_e_CH_c_STATUS_OVF (e c : Nat) : Fld := ⟨8 * (0xC01108 + e * 0x1000 + c * 0x20) + 9, 1, 0⟩
def TG_e_CH_c_STATUS_RUNNING (e c : Nat) : Fld := ⟨8 * (0xC01108 + e * 0x1000 + c * 0x20) + 8, 1, 0⟩
def TG_e_CH_c_STATUS_QLVL (e c : Nat) : Fld := ⟨8 * (0xC01108 + e * 0x1000 + c * 0x20) + 0, 5, 0⟩
def TG_e_CH_c_CUR_CUR (e c : Nat) : Fld := ⟨8 * (0xC0110C + e * 0x1000 + c * 0x20) + 5, 21, 0⟩
def TG_e_CH_c_CHAINS_COUNT (e c : Nat) : Fld := ⟨8 * (0xC01110 + e * 0x1000 + c * 0x20) + 0, 32, 0⟩
/-! Table 14.10 -/
def PK_STATUS_CRC_ERR : Fld := ⟨8 * (0xD00000) + 3, 1, 0⟩
def PK_STATUS_FORMAT : Fld := ⟨8 * (0xD00000) + 2, 1, 0⟩
def PK_STATUS_BAD : Fld := ⟨8 * (0xD00000) + 1, 1, 0⟩
def PK_STATUS_DROPPED : Fld := ⟨8 * (0xD00000) + 0, 1, 0⟩
def PK_CRC_CNT_COUNT : Fld := ⟨8 * (0xD00004) + 0, 32, 0⟩
def PK_FORMAT_CNT_COUNT : Fld := ⟨8 * (0xD00008) + 0, 32, 0⟩
def PK_GAP_CNT_COUNT : Fld := ⟨8 * (0xD0000C) + 0, 32, 0⟩
/-! Table 14.11 -/
def PK_e_CFG_VEC (e : Nat) : Fld := ⟨8 * (0xD01000 + e * 0x100) + 0, 6, 0⟩
def PK_e_JOB_DESC (e : Nat) : Fld := ⟨8 * (0xD01004 + e * 0x100) + 7, 19, 0⟩
def PK_e_STATUS_ERR (e : Nat) : Fld := ⟨8 * (0xD01008 + e * 0x100) + 11, 1, 0⟩
def PK_e_STATUS_DONE (e : Nat) : Fld := ⟨8 * (0xD01008 + e * 0x100) + 10, 1, 0⟩
def PK_e_STATUS_OVF (e : Nat) : Fld := ⟨8 * (0xD01008 + e * 0x100) + 9, 1, 0⟩
def PK_e_STATUS_BUSY (e : Nat) : Fld := ⟨8 * (0xD01008 + e * 0x100) + 8, 1, 0⟩
def PK_e_STATUS_QLVL (e : Nat) : Fld := ⟨8 * (0xD01008 + e * 0x100) + 0, 5, 0⟩
def PK_e_CUR_CUR (e : Nat) : Fld := ⟨8 * (0xD0100C + e * 0x100) + 7, 19, 0⟩
def PK_e_JOBS_COUNT (e : Nat) : Fld := ⟨8 * (0xD01010 + e * 0x100) + 0, 32, 0⟩
def PK_e_IN_BYTES_COUNT (e : Nat) : Fld := ⟨8 * (0xD01014 + e * 0x100) + 0, 32, 0⟩
def PK_e_OUT_BYTES_COUNT (e : Nat) : Fld := ⟨8 * (0xD01018 + e * 0x100) + 0, 32, 0⟩
def PK_e_LASTERR_CODE (e : Nat) : Fld := ⟨8 * (0xD0101C + e * 0x100) + 28, 4, 0⟩
def PK_e_LASTERR_CAUSE (e : Nat) : Fld := ⟨8 * (0xD0101C + e * 0x100) + 24, 4, 0⟩
def PK_e_LASTERR_DESC_DESC (e : Nat) : Fld := ⟨8 * (0xD01020 + e * 0x100) + 7, 19, 0⟩
def PK_e_LASTERR_CRATE_CRATE_IN (e : Nat) : Fld := ⟨8 * (0xD01024 + e * 0x100) + 0, 32, 0⟩
/-! Table 15.14 -/
def HB_TIME_CFG_F10M_EN : Fld := ⟨8 * (0x80) + 5, 1, 0⟩
def HB_TIME_CFG_HWS_FWD : Fld := ⟨8 * (0x80) + 4, 1, 0⟩
def HB_TIME_CFG_HWS_HEAD : Fld := ⟨8 * (0x80) + 3, 1, 0⟩
def HB_TIME_CFG_SRC_EN : Fld := ⟨8 * (0x80) + 0, 3, 0⟩
def HB_TIME_RATE_RATE : Fld := ⟨8 * (0x84) + 0, 32, 0⟩
def HB_TIME_STEP_LO_STEP_LO : Fld := ⟨8 * (0x88) + 0, 32, 0⟩
def HB_TIME_STEP_HI_STEP_HI : Fld := ⟨8 * (0x8C) + 0, 32, 0⟩
def HB_TIME_CTL_LOCK : Fld := ⟨8 * (0x90) + 1, 1, 0⟩
def HB_TIME_CTL_VALIDATE : Fld := ⟨8 * (0x90) + 0, 1, 0⟩
def HB_HWS_CABLE_DELAY : Fld := ⟨8 * (0x94) + 0, 20, 0⟩
def HB_HWS_STATUS_VER : Fld := ⟨8 * (0x98) + 8, 4, 0⟩
def HB_HWS_STATUS_SYNC_RX : Fld := ⟨8 * (0x98) + 7, 1, 0⟩
def HB_HWS_STATUS_CRC_ERR : Fld := ⟨8 * (0x98) + 6, 1, 0⟩
def HB_HWS_STATUS_INCOMPAT : Fld := ⟨8 * (0x98) + 5, 1, 0⟩
def HB_HWS_STATUS_HOP : Fld := ⟨8 * (0x98) + 0, 5, 0⟩
def HB_HWS_VALID_VALID : Fld := ⟨8 * (0x9C) + 0, 1, 0⟩
def HB_HWS_OFS_OFS : Fld := ⟨8 * (0xA0) + 0, 32, 0⟩
def HB_PPS_OFS_OFS : Fld := ⟨8 * (0xA4) + 0, 32, 0⟩
def HB_F10M_RATE_RATE : Fld := ⟨8 * (0xA8) + 0, 32, 0⟩
/-! Table 15.15 -/
def MB_STATUS_VER : Fld := ⟨8 * (0xF04000) + 16, 4, 0⟩
def MB_STATUS_RPL : Fld := ⟨8 * (0xF04000) + 2, 1, 0⟩
def MB_STATUS_NEGOTIATED : Fld := ⟨8 * (0xF04000) + 1, 1, 0⟩
def MB_STATUS_FW_READY : Fld := ⟨8 * (0xF04000) + 0, 1, 0⟩
def MB_CFG_VEC : Fld := ⟨8 * (0xF04004) + 0, 6, 0⟩
def MB_CMD_BASE_OFFSET : Fld := ⟨8 * (0xF04008) + 0, 26, 0⟩
def MB_CMD_TAIL_TAIL : Fld := ⟨8 * (0xF0400C) + 0, 6, 0⟩
def MB_CMD_HEAD_HEAD : Fld := ⟨8 * (0xF04010) + 0, 6, 0⟩
def MB_RPL_BASE_OFFSET : Fld := ⟨8 * (0xF04014) + 0, 26, 0⟩
def MB_RPL_TAIL_TAIL : Fld := ⟨8 * (0xF04018) + 0, 6, 0⟩
def MB_RPL_HEAD_HEAD : Fld := ⟨8 * (0xF0401C) + 0, 6, 0⟩
def MB_BOOT_LEN_LEN : Fld := ⟨8 * (0xF04020) + 0, 24, 0⟩
def MB_BOOT_CTL_GO : Fld := ⟨8 * (0xF04024) + 0, 1, 0⟩
def MB_BOOT_STATUS_ERR : Fld := ⟨8 * (0xF04028) + 8, 8, 0⟩
def MB_BOOT_STATUS_STATE : Fld := ⟨8 * (0xF04028) + 0, 3, 0⟩
def MB_FW_VER_VERSION : Fld := ⟨8 * (0xF0402C) + 0, 32, 0⟩
/-! Table 15.16 -/
def NT_CTL_CZ_PORT : Fld := ⟨8 * (0xE00000) + 0, 1, 0⟩
def NT_PTP_CFG_EN : Fld := ⟨8 * (0xE00004) + 31, 1, 0⟩
def NT_PTP_CFG_PORT : Fld := ⟨8 * (0xE00004) + 11, 1, 0⟩
def NT_PTP_CFG_IPVER : Fld := ⟨8 * (0xE00004) + 10, 1, 0⟩
def NT_PTP_CFG_MODE : Fld := ⟨8 * (0xE00004) + 9, 1, 0⟩
def NT_PTP_CFG_TS_OVF : Fld := ⟨8 * (0xE00004) + 8, 1, 0⟩
def NT_PTP_CFG_DOMAIN : Fld := ⟨8 * (0xE00004) + 0, 8, 0⟩
def NT_TS_FIFO_w_DATA (w : Nat) : Fld := ⟨8 * (0xE00010 + w * 0x4) + 0, 32, 0⟩
def NT_n_CFG_EN (n : Nat) : Fld := ⟨8 * (0xE01000 + n * 0x1000) + 31, 1, 0⟩
def NT_n_CFG_VLAN_EN (n : Nat) : Fld := ⟨8 * (0xE01000 + n * 0x1000) + 15, 1, 0⟩
def NT_n_CFG_PCP (n : Nat) : Fld := ⟨8 * (0xE01000 + n * 0x1000) + 12, 3, 0⟩
def NT_n_CFG_VID (n : Nat) : Fld := ⟨8 * (0xE01000 + n * 0x1000) + 0, 12, 0⟩
def NT_n_MAC_LO_MAC_LO (n : Nat) : Fld := ⟨8 * (0xE01004 + n * 0x1000) + 0, 32, 0⟩
def NT_n_MAC_HI_MAC_HI (n : Nat) : Fld := ⟨8 * (0xE01008 + n * 0x1000) + 0, 16, 0⟩
def NT_n_IP4_ADDR (n : Nat) : Fld := ⟨8 * (0xE0100C + n * 0x1000) + 0, 32, 0⟩
def NT_n_IP4_GW_ADDR (n : Nat) : Fld := ⟨8 * (0xE01010 + n * 0x1000) + 0, 32, 0⟩
def NT_n_PREFIX_IP6 (n : Nat) : Fld := ⟨8 * (0xE01014 + n * 0x1000) + 8, 8, 64⟩
def NT_n_PREFIX_IP4 (n : Nat) : Fld := ⟨8 * (0xE01014 + n * 0x1000) + 0, 8, 24⟩
def NT_n_IP6_j_ADDR (n j : Nat) : Fld := ⟨8 * (0xE01020 + n * 0x1000 + j * 0x4) + 0, 32, 0⟩
def NT_n_IP6_GW_j_ADDR (n j : Nat) : Fld := ⟨8 * (0xE01030 + n * 0x1000 + j * 0x4) + 0, 32, 0⟩
def NT_n_STATUS_TX_FAULT (n : Nat) : Fld := ⟨8 * (0xE01040 + n * 0x1000) + 4, 1, 0⟩
def NT_n_STATUS_LOS (n : Nat) : Fld := ⟨8 * (0xE01040 + n * 0x1000) + 3, 1, 0⟩
def NT_n_STATUS_MOD_ABS (n : Nat) : Fld := ⟨8 * (0xE01040 + n * 0x1000) + 2, 1, 0⟩
def NT_n_STATUS_BLOCK_LOCK (n : Nat) : Fld := ⟨8 * (0xE01040 + n * 0x1000) + 1, 1, 0⟩
def NT_n_STATUS_LINK (n : Nat) : Fld := ⟨8 * (0xE01040 + n * 0x1000) + 0, 1, 0⟩
def NT_n_TS_ADJ_ADJ (n : Nat) : Fld := ⟨8 * (0xE01044 + n * 0x1000) + 0, 32, 0⟩
def NT_n_RX_CNT_COUNT (n : Nat) : Fld := ⟨8 * (0xE01048 + n * 0x1000) + 0, 32, 0⟩
def NT_n_TX_CNT_COUNT (n : Nat) : Fld := ⟨8 * (0xE0104C + n * 0x1000) + 0, 32, 0⟩
def NT_n_DROP_CNT_COUNT (n : Nat) : Fld := ⟨8 * (0xE01050 + n * 0x1000) + 0, 32, 0⟩
def NT_n_FCS_CNT_COUNT (n : Nat) : Fld := ⟨8 * (0xE01054 + n * 0x1000) + 0, 32, 0⟩
def NT_EXP_k_HANDLE_HANDLE (k : Nat) : Fld := ⟨8 * (0xE04000 + k * 0x40) + 0, 32, 0⟩
def NT_EXP_k_CFG_EN (k : Nat) : Fld := ⟨8 * (0xE04004 + k * 0x40) + 31, 1, 0⟩
def NT_EXP_k_CFG_EXP_REFUSED (k : Nat) : Fld := ⟨8 * (0xE04004 + k * 0x40) + 30, 1, 0⟩
def NT_EXP_k_CFG_PORT (k : Nat) : Fld := ⟨8 * (0xE04004 + k * 0x40) + 29, 1, 0⟩
def NT_EXP_k_CFG_DPORT (k : Nat) : Fld := ⟨8 * (0xE04004 + k * 0x40) + 0, 16, 0⟩
def NT_EXP_k_SPORT_SPORT (k : Nat) : Fld := ⟨8 * (0xE04008 + k * 0x40) + 0, 16, 0⟩
def NT_EXP_k_ADDR_j_ADDR (k j : Nat) : Fld := ⟨8 * (0xE04010 + k * 0x40 + j * 0x4) + 0, 32, 0⟩
def NT_EXP_k_SENT_COUNT (k : Nat) : Fld := ⟨8 * (0xE04020 + k * 0x40) + 0, 32, 0⟩
/-! Table 16.9 -/
def CL_STATUS_REF_DRIFT : Fld := ⟨8 * (0x300000) + 9, 1, 0⟩
def CL_STATUS_LANE_FAIL : Fld := ⟨8 * (0x300000) + 8, 1, 0⟩
def CL_STATUS_TAP_MAP : Fld := ⟨8 * (0x300000) + 7, 1, 0⟩
def CL_STATUS_SPARE_IN : Fld := ⟨8 * (0x300000) + 6, 1, 0⟩
def CL_STATUS_USER_FALLBACK : Fld := ⟨8 * (0x300000) + 5, 1, 0⟩
def CL_STATUS_SWAP_PENDING : Fld := ⟨8 * (0x300000) + 4, 1, 0⟩
def CL_STATUS_CAL_DEGRADED : Fld := ⟨8 * (0x300000) + 3, 1, 0⟩
def CL_STATUS_CHECK_RETRY : Fld := ⟨8 * (0x300000) + 2, 1, 0⟩
def CL_STATUS_LOADED : Fld := ⟨8 * (0x300000) + 1, 1, 0⟩
def CL_STATUS_LOADING : Fld := ⟨8 * (0x300000) + 0, 1, 0⟩
def CL_DEGRADED_TABLE : Fld := ⟨8 * (0x300004) + 0, 8, 0⟩
def CL_COPY_B_TABLE : Fld := ⟨8 * (0x300008) + 0, 8, 0⟩
def CL_CFG_SN_AUTO : Fld := ⟨8 * (0x30000C) + 2, 1, 1⟩
def CL_CFG_TL_AUTO : Fld := ⟨8 * (0x30000C) + 1, 1, 1⟩
def CL_CFG_QY_AUTO : Fld := ⟨8 * (0x30000C) + 0, 1, 1⟩
def CL_HOLD_GEN_LO_GEN_LO : Fld := ⟨8 * (0x300010) + 0, 32, 0⟩
def CL_HOLD_GEN_HI_GEN_HI : Fld := ⟨8 * (0x300014) + 0, 32, 0⟩
def CL_ID_STAMP_TABLE_ID : Fld := ⟨8 * (0x300020) + 0, 32, 0⟩
def CL_ID_SOUNDING_TABLE_ID : Fld := ⟨8 * (0x300024) + 0, 32, 0⟩
def CL_ID_FLOW_s_TABLE_ID (s : Nat) : Fld := ⟨8 * (0x300080 + s * 0x4) + 0, 32, 0⟩
def CL_QY_n_STATUS_FAIL (n : Nat) : Fld := ⟨8 * (0x301000 + n * 0x100) + 4, 4, 0⟩
def CL_QY_n_STATUS_CONV (n : Nat) : Fld := ⟨8 * (0x301000 + n * 0x100) + 0, 4, 0⟩
def CL_QY_n_UPD_COUNT (n : Nat) : Fld := ⟨8 * (0x301004 + n * 0x100) + 0, 32, 0⟩
def CL_QY_n_NOISE_Y (n : Nat) : Fld := ⟨8 * (0x301008 + n * 0x100) + 16, 16, 0⟩
def CL_QY_n_NOISE_X (n : Nat) : Fld := ⟨8 * (0x301008 + n * 0x100) + 0, 16, 0⟩
def CL_QY_n_IQ_q_PHASE (n q : Nat) : Fld := ⟨8 * (0x30100C + n * 0x100 + q * 0x4) + 16, 16, 0⟩
def CL_QY_n_IQ_q_AMP (n q : Nat) : Fld := ⟨8 * (0x30100C + n * 0x100 + q * 0x4) + 0, 16, 0⟩
def CL_QY_n_L_l_SPARE_IN_USE (n l : Nat) : Fld := ⟨8 * (0x301020 + n * 0x100 + l * 0x10) + 7, 1, 0⟩
def CL_QY_n_L_l_SPARE_REPLACED (n l : Nat) : Fld := ⟨8 * (0x301020 + n * 0x100 + l * 0x10) + 4, 3, 0⟩
def CL_QY_n_L_l_SPARE_SHADOW (n l : Nat) : Fld := ⟨8 * (0x301020 + n * 0x100 + l * 0x10) + 0, 3, 0⟩
def CL_QY_n_L_l_SEL_SLICE (n l : Nat) : Fld := ⟨8 * (0x301024 + n * 0x100 + l * 0x10) + 0, 4, 0⟩
def CL_QY_n_L_l_TRIM1_OFFSET (n l : Nat) : Fld := ⟨8 * (0x301028 + n * 0x100 + l * 0x10) + 16, 16, 0⟩
def CL_QY_n_L_l_TRIM1_GAIN (n l : Nat) : Fld := ⟨8 * (0x301028 + n * 0x100 + l * 0x10) + 0, 16, 0⟩
def CL_QY_n_L_l_TRIM2_SKEW (n l : Nat) : Fld := ⟨8 * (0x30102C + n * 0x100 + l * 0x10) + 0, 16, 0⟩
def CL_TL_l_STATUS_MAPPED (l : Nat) : Fld := ⟨8 * (0x304000 + l * 0x20) + 24, 8, 0⟩
def CL_TL_l_STATUS_SPAN (l : Nat) : Fld := ⟨8 * (0x304000 + l * 0x20) + 12, 12, 0⟩
def CL_TL_l_STATUS_SRC (l : Nat) : Fld := ⟨8 * (0x304000 + l * 0x20) + 1, 2, 0⟩
def CL_TL_l_STATUS_FAIL (l : Nat) : Fld := ⟨8 * (0x304000 + l * 0x20) + 0, 1, 0⟩
def CL_TL_l_HITS_HITS (l : Nat) : Fld := ⟨8 * (0x304004 + l * 0x20) + 0, 21, 0⟩
def CL_TL_l_AMB_LO_LO (l : Nat) : Fld := ⟨8 * (0x304008 + l * 0x20) + 0, 32, 1⟩
def CL_TL_l_AMB_HI_HI (l : Nat) : Fld := ⟨8 * (0x30400C + l * 0x20) + 0, 32, 0⟩
def CL_TL_l_PASSES_COUNT (l : Nat) : Fld := ⟨8 * (0x304010 + l * 0x20) + 0, 32, 0⟩
def CL_SN_STATUS_ROT_DONE : Fld := ⟨8 * (0x306000) + 8, 1, 0⟩
def CL_SN_STATUS_DRIFT : Fld := ⟨8 * (0x306000) + 0, 4, 0⟩
def CL_SN_REF_k_D (k : Nat) : Fld := ⟨8 * (0x306004 + k * 0x4) + 0, 32, 0⟩
def CL_SN_ROT_COUNT : Fld := ⟨8 * (0x306014) + 0, 32, 0⟩
/-! Table 17.10 -/
def RS_LAST_LEVEL : Fld := ⟨8 * (0x200000) + 4, 2, 0⟩
def RS_LAST_SRC : Fld := ⟨8 * (0x200000) + 0, 4, 0⟩
def RS_CTL_COLD : Fld := ⟨8 * (0x200004) + 1, 1, 0⟩
def RS_CTL_WARM : Fld := ⟨8 * (0x200004) + 0, 1, 0⟩
def RS_WDT_CFG_EN : Fld := ⟨8 * (0x200008) + 31, 1, 0⟩
def RS_WDT_CFG_PERIOD : Fld := ⟨8 * (0x200008) + 0, 24, 1000000⟩
def RS_WDT_KICK_KEY : Fld := ⟨8 * (0x20000C) + 0, 8, 0⟩
def RS_LEVEL_V_s (s : Nat) : Fld := ⟨8 * (0x200010) + 0 + s * 2, 2, Config.vendorLevel s⟩
def RS_PWR_REQ_ON : Fld := ⟨8 * (0x200020) + 8, 1, 0⟩
def RS_PWR_REQ_DOMAIN : Fld := ⟨8 * (0x200020) + 0, 5, 0⟩
def RS_PWR_STATUS_RESULT : Fld := ⟨8 * (0x200024) + 28, 4, 0⟩
def RS_PWR_STATUS_PENDING : Fld := ⟨8 * (0x200024) + 27, 1, 0⟩
def RS_PWR_STATUS_ON : Fld := ⟨8 * (0x200024) + 0, 26, 67108863⟩
def RS_LOCK_ERR_ERR : Fld := ⟨8 * (0x200028) + 0, 26, 0⟩
def RS_LOCK_TMO_TMO : Fld := ⟨8 * (0x20002C) + 0, 26, 0⟩
def RS_DOM_RST_DOMAIN : Fld := ⟨8 * (0x200030) + 0, 5, 0⟩
def RS_BERTH_RST_INDEX : Fld := ⟨8 * (0x200034) + 0, 12, 0⟩
def RS_SAFE_KEY : Fld := ⟨8 * (0x200040) + 0, 8, 0⟩
def RS_SAFE_STATUS_CAUSE : Fld := ⟨8 * (0x200044) + 8, 4, 0⟩
def RS_SAFE_STATUS_ARM_REFUSED : Fld := ⟨8 * (0x200044) + 5, 1, 0⟩
def RS_SAFE_STATUS_ILOCK_LOW : Fld := ⟨8 * (0x200044) + 4, 1, 0⟩
def RS_SAFE_STATUS_ILOCK_STABLE : Fld := ⟨8 * (0x200044) + 3, 1, 0⟩
def RS_SAFE_STATUS_MF_ACTIVE : Fld := ⟨8 * (0x200044) + 2, 1, 0⟩
def RS_SAFE_STATUS_TRIMS_OK : Fld := ⟨8 * (0x200044) + 1, 1, 0⟩
def RS_SAFE_STATUS_RELEASED : Fld := ⟨8 * (0x200044) + 0, 1, 0⟩
def RS_THERM_TEMP : Fld := ⟨8 * (0x200048) + 16, 8, 0⟩
def RS_THERM_WARN : Fld := ⟨8 * (0x200048) + 8, 8, 174⟩
def RS_THERM_WARN_HIT : Fld := ⟨8 * (0x200048) + 0, 1, 0⟩
def RS_PIN_HOLD_RELEASE : Fld := ⟨8 * (0x200050) + 1, 1, 0⟩
def RS_PIN_HOLD_HOLDING : Fld := ⟨8 * (0x200050) + 0, 1, 0⟩
def RS_FW_FW_REVERT : Fld := ⟨8 * (0x200054) + 2, 1, 0⟩
def RS_FW_LEDGER_BANK : Fld := ⟨8 * (0x200054) + 1, 1, 0⟩
def RS_FW_FW_BANK : Fld := ⟨8 * (0x200054) + 0, 1, 0⟩
def RS_BAL_CNT_s_COUNT (s : Nat) : Fld := ⟨8 * (0x200100 + s * 0x4) + 0, 16, 0⟩
def RS_BAL_CAUSE_LEVEL : Fld := ⟨8 * (0x200140) + 4, 2, 0⟩
def RS_BAL_CAUSE_SRC : Fld := ⟨8 * (0x200140) + 0, 4, 0⟩
def RS_BAL_STAMP_LO_RTC_LO : Fld := ⟨8 * (0x200144) + 0, 32, 0⟩
def RS_BAL_STAMP_HI_RTC_HI : Fld := ⟨8 * (0x200148) + 0, 16, 0⟩
def RS_BAL_TRIM_ABORT_COUNT : Fld := ⟨8 * (0x20014C) + 0, 16, 0⟩
def RS_BAL_SEALCNT_COUNT : Fld := ⟨8 * (0x200150) + 0, 32, 0⟩
def RS_BAL_STATUS_RTC_VALID : Fld := ⟨8 * (0x200154) + 1, 1, 0⟩
def RS_BAL_STATUS_VBAT_LOST : Fld := ⟨8 * (0x200154) + 0, 1, 0⟩
def RS_BAL_RTC_LO_RTC_LO : Fld := ⟨8 * (0x200158) + 0, 32, 0⟩
def RS_BAL_RTC_HI_RTC_HI : Fld := ⟨8 * (0x20015C) + 0, 16, 0⟩
/-! Table 17.11 -/
def CU_STATE_JTAG : Fld := ⟨8 * (0x100000) + 9, 1, 0⟩
def CU_STATE_DEBUG : Fld := ⟨8 * (0x100000) + 8, 1, 0⟩
def CU_STATE_STATE : Fld := ⟨8 * (0x100000) + 0, 3, 0⟩
def CU_CTL_FIT : Fld := ⟨8 * (0x100004) + 2, 1, 0⟩
def CU_CTL_SEAL : Fld := ⟨8 * (0x100004) + 1, 1, 0⟩
def CU_CTL_APPLY : Fld := ⟨8 * (0x100004) + 0, 1, 0⟩
def CU_STATUS_ERR : Fld := ⟨8 * (0x100008) + 4, 4, 0⟩
def CU_STATUS_RWL_HIT : Fld := ⟨8 * (0x100008) + 3, 1, 0⟩
def CU_STATUS_SEAL_PENDING : Fld := ⟨8 * (0x100008) + 2, 1, 0⟩
def CU_STATUS_CONSENT_OK : Fld := ⟨8 * (0x100008) + 1, 1, 0⟩
def CU_STATUS_RETURN_OK : Fld := ⟨8 * (0x100008) + 0, 1, 0⟩
def CU_RWL_CNT_COUNT : Fld := ⟨8 * (0x10000C) + 0, 32, 0⟩
def CU_NONCE_LO_NONCE_LO : Fld := ⟨8 * (0x100010) + 0, 32, 0⟩
def CU_NONCE_HI_NONCE_HI : Fld := ⟨8 * (0x100014) + 0, 32, 0⟩
def CU_SEALCNT_COUNT : Fld := ⟨8 * (0x100018) + 0, 32, 0⟩
def CU_ROLLBACK_COUNT : Fld := ⟨8 * (0x10001C) + 0, 6, 0⟩
def CU_ELIM_EMIT_LIM : Fld := ⟨8 * (0x100020) + 0, 32, 50000000⟩
def CU_ELIM_HEAD_LIM : Fld := ⟨8 * (0x100024) + 0, 32, 1500000000⟩
def CU_TOKEN_w_DATA (w : Nat) : Fld := ⟨8 * (0x100080 + w * 0x4) + 0, 32, 0⟩
def CU_PROG_ADDR_WORD : Fld := ⟨8 * (0x100100) + 0, 12, 0⟩
def CU_PROG_DATA_DATA : Fld := ⟨8 * (0x100104) + 0, 32, 0⟩
def CU_PROG_CTL_GO : Fld := ⟨8 * (0x100108) + 0, 1, 0⟩
def CU_PROG_STATUS_FAIL : Fld := ⟨8 * (0x10010C) + 1, 1, 0⟩
def CU_PROG_STATUS_BUSY : Fld := ⟨8 * (0x10010C) + 0, 1, 0⟩
/-! Tables 15.8 and 15.9 -/
def HB_IF_i_CUR (i : Nat) : Fld := ⟨8 * (0x2000 + i * 0x4) + 24, 8, 0⟩
def HB_IF_i_MAX (i : Nat) : Fld := ⟨8 * (0x2000 + i * 0x4) + 8, 8, Config.ifMax i⟩
def HB_IF_i_MIN (i : Nat) : Fld := ⟨8 * (0x2000 + i * 0x4) + 0, 8, 1⟩

end R

end Sys2Proof.Machine
end

