-- ==== Sys2Proof/Machine/State.lean ====
section
/-! DEFINITION. Everything the spec lets the block hold, as plain data, the reasons a step can stop, and the state right
after reset. -/

namespace Sys2Proof.Machine

/-- A step ends in no fault: the spec gives every command an effect, and what it calls a fault (an error response, a
status bit, a refused request) is itself a next state. The type has no constructor, so no step can fault (safe). -/
inductive Fault where
  deriving DecidableEq, Repr

/-- Why a step is refused. -/
inductive Refusal where
  /-- Raised by the dispatch for a command whose meaning is not written; safe, since nothing is claimed about it. -/
  | notModelled (mnemonic : String)
  /-- Raised by a meaning for a term that stands for no command: an operand outside what the command can carry, such as a
  Shed offset beyond 64 MiB. Safe: no such command exists. -/
  | illFormed
  deriving DecidableEq, Repr

/-- How the last bus access completed (R1, R31 to R33); the model's own record, since a read answers a value. -/
inductive BusStatus where
  | none | ok | unsupported | poisoned | malformed
  deriving DecidableEq, Repr

/-- The last bus completion: its status, and the bytes or the word it returned. -/
structure Completion where
  status : BusStatus := .none
  data : List Nat := []
  deriving DecidableEq, Repr

/-- A die-to-die link (R15, R16): the flit that failed last and how often in succession, whether the link retrains, and the
configuration writes held while it does, each with the power domain of its block (QLINK_C). -/
structure Link where
  flit : Nat := 0
  fails : Nat := 0
  retraining : Bool := false
  held : List (Nat × Instr) := []
  deriving DecidableEq, Repr
/-- Where a berth stands between its acceptance and its close (R39, R477). -/
inductive BerthState where
  | pending | open | closing | closed
  deriving DecidableEq, Repr

/-- One berth of the berth table (R10, R39, R42 to R46, R477): its handle, kind and state, the tides at which its open and
its close land, its cost vector, its parameter words after the profile was applied, the berths it names as inputs, its
credit per engine, the power domains it uses, the slot its kind assigned to it, the cluster memory it holds (the cluster and
bytes), and the words it keeps until it lands: the addresses of its rings, then what its kind settled at acceptance. -/
structure Berth where
  handle : Nat := 0
  kind : Nat := 0
  state : BerthState := .closed
  land : Nat := 0
  closeLand : Nat := 0
  cost : List Nat := []
  params : List Nat := []
  inputs : List Nat := []
  credit : List Nat := []
  domains : List Nat := []
  slot : Nat := 0
  mem : Nat × Nat := (0, 0)
  keep : List Nat := []
  deriving DecidableEq, Repr

/-- A section of a manifest: its TYPE and its body (R52). -/
structure Section where
  type : Nat
  body : List Byte
  deriving DecidableEq, Repr

/-- An accepted or active manifest: BUILD_ID, SCHEMA and the sections that were not skipped (R51 to R53). -/
structure Manifest where
  build : Nat := 0
  schema : Nat := 0
  sections : List Section := []
  deriving DecidableEq, Repr
/-- A ring laid out in a Warehouse area for a berth (R135, R140, R351): the berth's index and handle, the area, the byte address
and the length. -/
structure Ring where
  berth : Nat
  handle : Nat
  area : Nat
  base : Nat
  len : Nat
  deriving DecidableEq, Repr
/-- A plan as the QY_PLAN_p registers hold it (Table 3.5). -/
structure Plan where
  valid : Bool := false
  dir : Nat := 0
  kind : Nat := 0
  log2d : Nat := 0
  log2n : Nat := 0
  period : Nat := 0
  lint : Nat := 0
  ng : Nat := 0
  chip : Nat := 0
  log2l : Nat := 0
  len8 : Nat := 0
  taper : Nat := 0
  bw : Nat := 0
  amp : Nat := 0
  zero : Nat := 0
  deriving DecidableEq, Repr

/-- A launch in flight (R61, R66, R74): its slot, its start, its plan, whether it carries code B, the instant by which its last sample
has left the DACs, and the phase in turns with which its carrier began. -/
structure Flight where
  slot : Nat
  start : Nat
  plan : Plan
  odd : Bool
  until_ : Nat
  phase : Rat := 0
  deriving DecidableEq, Repr

/-- What became of a grid launch, for the point-samples made from it: the slot, its start, the epoch and plan it belongs to, whether it carries
code B (R66), whether its echo is lost (not fired, cut short, missing on QLINK_n, or a PLL out of lock), whether it starts in a SETTLE window
(R108), whether it is the slot's first launch under the plan, and the RX_CFG values it started with (R109). -/
structure Fate where
  slot : Nat
  start : Nat
  epoch : Nat
  plan : Plan
  odd : Bool
  lost : Bool
  settle : Bool
  first : Bool
  gauge : Nat
  pol : Nat
  polw : Nat
  shift : Nat
  deriving DecidableEq, Repr

/-- The launch path, front-end lines and serial port of a quay. -/
structure Quay where
  /-- RUN = 1 has landed (R74). -/
  run : Bool := false
  /-- The launch grid is scheduled. -/
  grid : Bool := false
  /-- The plan that the grid ran last (R480). -/
  ran : Plan := {}
  /-- RUN = 1 waits for ARMED (R74). -/
  runWaitsArm : Bool := false
  /-- The boundary at which a new epoch is set (R76, R480). -/
  newEpoch : Option Nat := none
  /-- Number of the next grid launch of each slot since the epoch (R63). -/
  nextK : Tab Nat := []
  /-- Launches of each slot under the active plan, for code A or B (R66). -/
  codeK : Tab Nat := []
  /-- Launches in flight. -/
  flights : List Flight := []
  /-- The DAC samples before this instant, in half nanoseconds, have been sent and their clamps counted (R67). -/
  dacAt : Nat := 0
  /-- Launches whose LGATE_A lead has begun and which have not started, by slot and start (R72, R77). -/
  leads : List (Nat × Nat) := []
  /-- LGATE_A is high before this instant (R72). -/
  gateUntil : Nat := 0
  /-- Fates of the latest grid launches, newest first. -/
  fates : List Fate := []
  /-- LGATE_T: enabled, WIDTH and PERIOD in force, those that wait for the next landing of EN = 1, the instant of the next pulse, the last ball
  edges in 1/256 ns, and the pulses given (R73). -/
  lgtEn : Bool := false
  lgtWidth : Nat := 0
  lgtPeriod : Nat := 2500
  lgtStaged : Option Nat × Option Nat := (none, none)
  lgtNext : Nat := 0
  lgtEdge : Nat := 0
  lgtFall : Nat := 0
  lgtPulses : Nat := 0
  /-- SPI commands waiting, the tide in which the head reached its place, the frame in progress, and the read queue (R81 to R83). -/
  spiQ : List SpiCmd := []
  spiHeadTide : Nat := 0
  spiFrame : Option SpiCmd := none
  spiRx : List Nat := []
  /-- FAULT inputs that are active, those whose filter started anew and has not settled, one bit a line, and the output levels in force before
  POL (R84). -/
  faults : Nat := 0
  filters : Nat := 0
  gpioOut : Nat := 0
  /-- The SETTLE window of R108: launches that start in `[settleFrom, settleTo)` carry SETTLE. -/
  settleFrom : Nat := 0
  settleTo : Nat := 0
  deriving DecidableEq, Repr
/-- One nanosecond of ADC input as the quay slice holds it (R86, R87): the codes of the four physical lanes, 12 bits each, the logical signals
that clipped, one bit each, and whether the sample reached the slice. -/
structure AdcSample where
  code : Nat := 0
  clip : Nat := 0
  held : Bool := false
  deriving DecidableEq, Repr

/-- The compressed outputs of a slot launch at a point, after code pairing (R90, R91): the slot, the launch start and the point, X and Y as
real and imaginary part, and whether the value is lost. -/
structure Compressed where
  slot : Nat
  start : Nat
  p : Nat
  x : Int × Int
  y : Int × Int
  lost : Bool
  deriving DecidableEq, Repr

/-- A point-sample to be formed: the first slot of its group, the common launch start, the epoch and the point (R63, R88). -/
structure PointRef where
  slot : Nat
  start : Nat
  epoch : Nat
  p : Nat
  deriving DecidableEq, Repr

/-- A 4-byte entry of the point-state memory: the previous aligned phase (2π/65,536 rad) and VALID (R95, R96). -/
structure PointEntry where
  phase : Nat := 0
  valid : Bool := false
  deriving DecidableEq, Repr

/-- An offset entry of the point-state memory: a 15-bit angle and SEEDED (R93). -/
structure OffsetEntry where
  angle : Nat := 0
  seeded : Bool := false
  deriving DecidableEq, Repr

/-- A code-store entry of the point-state memory (R91): the compressed X and Y of the slot's launch that started at `start`, none before. -/
structure CodeEntry where
  start : Option Nat := none
  x : Int × Int := (0, 0)
  y : Int × Int := (0, 0)
  deriving DecidableEq, Repr

/-- A segment: the epoch it counts from and its number (R92). -/
abbrev Seg := Nat × Nat

/-- A segment that waits for replay or is being replayed (R104, R105), and the instant at which the replay unit took it. -/
structure Replay where
  quay : Nat
  seg : Seg
  at_ : Nat := 0
  deriving DecidableEq, Repr

/-- A slot launch's part of the noise window (R97): its start, the points so far, and the sums of |y|² of X and Y. -/
structure NoiseSum where
  start : Nat := 0
  got : Nat := 0
  x : Nat := 0
  y : Nat := 0
  deriving DecidableEq, Repr

/-- The receive-pipeline slice of a quay. -/
structure RxSlice where
  /-- The point-state memory: points, offsets and code store by 16 × point + slot, and the entries that fail parity (R103). -/
  points : Tab PointEntry := []
  offsets : Tab OffsetEntry := []
  code : Tab CodeEntry := []
  badPoints : List Nat := []
  badOffsets : List Nat := []
  badCode : List Nat := []
  /-- ADC samples by device time, and the instant after the last one (R86). -/
  adc : Tab AdcSample := []
  adcEnd : Nat := 0
  /-- Compressed outputs that the gauge stage may still read (R93). -/
  outs : List Compressed := []
  /-- Segments of this epoch that time steps have skipped (R26). -/
  skipped : Nat := 0
  /-- Segments of earlier epochs that are still to close: the epoch, the next segment, and the number of the last plus 1 (R92). -/
  tails : List (Nat × Nat × Nat) := []
  /-- Segments that wait for replay or are being replayed, those delivered LOST, and the point-samples held with their segment (R106, R107). -/
  waiting : List Seg := []
  lost : List Seg := []
  held : List (Seg × PointRef) := []
  /-- The noise estimate: powers of X and Y, slot launches covered since the restart, and the windows in progress by slot (R97). -/
  noise : Rat × Rat := (0, 0)
  noiseCount : Nat := 0
  noiseSums : Tab NoiseSum := []
  deriving DecidableEq, Repr
/-- The quality of a tile's point: the OR of its 16 tag bytes and the minimum of its 16 QUAL values (R119). -/
structure TileSum where
  tags : Nat := 0
  qual : Nat := 255
  deriving DecidableEq, Repr

/-- A berth point's sample while its STRIDE quay points come in (R117): the launch they belong to, sum of increments, OR of tags, least QUAL,
points so far. -/
structure PointAcc where
  start : Nat := 0
  sum : Int := 0
  tags : Nat := 0
  qual : Nat := 255
  got : Nat := 0
  deriving DecidableEq, Repr

/-- A value that a stage of the cascade holds: in 1/256 of an input LSB, and whether a stage on its way saturated (R128). -/
structure LineVal where
  v : Int := 0
  sat : Bool := false
  deriving DecidableEq, Repr

/-- The filter state of a channel (R131): the anchor of the output grid it runs on, the first input of that grid and the next one, the inputs that
each half-band stage and the resampler hold, newest first, the resampler's position for the row at the anchor in 1/65,536 of its inputs (R127), the
running sum since the anchor (R138), and the time up to which outputs are LOST in 2^-38 ns (R132). -/
structure PointFilter where
  anchor : Option Nat := none
  first : Nat := 0
  next : Nat := 0
  stages : List (List LineVal) := []
  line : List LineVal := []
  pos : Int := 0
  sum : Nat := 0
  lostUntil : Nat := 0
  deriving DecidableEq, Repr

/-- A DAS zone berth's corner turn and cascade (chapter 05). `key` below is (tile × 4096 + group) × 16 + row for rows and
(tile × 4096 + group) × 256 + point for summaries. -/
structure Das where
  /-- Half-band stages, resampler increment, input period in ns, Tug (R113, R114); the slots of the quay's plan. -/
  h : Nat := 0
  inc : Nat := 0
  tin : Nat := 0
  tug : Nat := 0
  slots : Nat := 1
  /-- Warehouse byte addresses of the output ring and the tile ring, bytes reserved in staging and Sluice state. -/
  ring : Nat := 0
  tiles : Nat := 0
  stage : Nat := 0
  stateBytes : Nat := 0
  /-- The landing boundary (R117), and the output grids, newest first: anchor and the SEQ of the row at the anchor (R127, R134). -/
  landed : Nat := 0
  grids : List (Nat × Nat) := []
  /-- Number of the next sample of each channel, and the times of its samples as runs, newest first: a sample's number and the time of its first quay
  point (1/2 ns), from which the samples of the run follow T_in apart (R88, R118). -/
  nextJ : Tab Nat := []
  runs : Tab (List (Nat × Nat)) := []
  /-- Samples being formed, row cells (PHASE by row key × 256 + column), rows that hold a buffer, rows dropped, summaries, next tile
  to flush of each group (R117 to R121). -/
  acc : Tab PointAcc := []
  cells : Tab Nat := []
  rows : List Nat := []
  dropped : List Nat := []
  sums : Tab TileSum := []
  flushed : Tab Nat := []
  /-- Tiles of each group that the Sluice has read, from number 0. -/
  tilesRead : Tab Nat := []
  /-- Tiles whose read failed twice, group and tile (R123). -/
  failed : List (Nat × Nat) := []
  /-- Cascade state (R131). -/
  filters : Tab PointFilter := []
  deriving DecidableEq, Repr
/-- A sample of a Sounding berth (R153, R286): its stamp, its value and its tag byte. -/
structure InSample where
  stamp : Nat
  value : Rat
  tag : Nat
  deriving DecidableEq, Repr

/-- A Raman trace as its readers see it (R153, R227): its stamp, its tag byte, and each bin's temperature in mK and tag byte. -/
structure TraceSum where
  stamp : Nat
  tag : Nat
  bins : List (Nat × Nat)
  deriving DecidableEq, Repr

/-- A coil sample while its quay points come in (R144): the launch they belong to, points so far, and over the points that qualify the sum of increments, the
OR of tags, the sum of QUAL and their number, and the points left out for FADE. -/
structure CoilAcc where
  start : Nat := 0
  got : Nat := 0
  sum : Int := 0
  tags : Nat := 0
  qual : Nat := 0
  used : Nat := 0
  fades : Nat := 0
  deriving DecidableEq, Repr

/-- Coil positions in µm and user curves 8 to 15, each a list of points (log10 Re × 10⁴, K × 10⁶) (R143, R425). -/
structure CoilSet where
  pos : List Int := []
  curves : List (List (Nat × Nat)) := []
  deriving DecidableEq, Repr

/-- A block that a CAL zone accumulates (R160): C_REF and c in m/s, and the estimate of each δ_c in m with its weight,
0 for a coil that was not used. -/
structure CalBlock where
  cRef : Rat
  c : Rat
  deltas : List (Rat × Rat)
  deriving DecidableEq, Repr

/-- A flow zone berth beside its corner turn (chapter 06). -/
structure Flow where
  cluster : Nat := 0
  mem : Nat := 0
  ring : Nat := 0
  /-- The anchor A and the number of the next block since it (R146, R159). -/
  anchor : Nat := 0
  next : Nat := 0
  /-- SEQ of the next record; boundaries at which a reset or a close cut the block in progress, oldest first; and whether the last of
  them was the close (R159). -/
  seq : Nat := 0
  cuts : List Nat := []
  ends : Bool := false
  /-- The program bank of its cluster that its blocks run in (R159, R336). -/
  bank : Nat := 0
  /-- The positions and curves in use, and those that replace them from a boundary on (R159). -/
  set : CoilSet := {}
  newSet : Option (Nat × CoilSet) := none
  /-- Coil samples being formed. -/
  acc : Tab CoilAcc := []
  /-- The latest dryness or humidity ratio found from c, with its block's τ in ns (R155). -/
  lastX : Option (Nat × Rat) := none
  /-- CAL mode: the accumulated blocks (R160). -/
  cal : List CalBlock := []
  deriving DecidableEq, Repr
/-- What the ledger keeps of a flow zone's record (R171): handle, SEQ, STAMP and its end in ns, tag byte, flags, and the rates. -/
structure ZoneRec where
  handle : Nat
  seq : Nat
  stamp : Nat
  endT : Nat
  tag : Nat
  flags : Nat
  qvol : Int
  mdot : Int
  edot : Int
  deriving DecidableEq, Repr

/-- One opening of a custody point (R165, R168): its handle, word 0, zone handles, LAG, its first accounted second, the next second
to account, its last one once its close has landed, and whether a CLEAR still waits for the seconds of the openings before it. -/
structure Span where
  handle : Nat
  word0 : Nat
  zones : List Nat
  lag : Nat
  first : Nat
  next : Nat
  last : Option Nat
  clear : Bool := false
  deriving DecidableEq, Repr

/-- What an interval record gathers (R181, Table 7.8): its START, and over the interval the flags and tags of the records used,
lost and marked time, records with DISAGREE, late records, the records (handle, SEQ) that its latest second used, and that second.
`start` is none while no second has been accounted. -/
structure IntAcc where
  start : Option Nat := none
  zflags : Nat := 0
  ztags : Nat := 0
  lost : Nat := 0
  marked : Nat := 0
  dis : Nat := 0
  late : Nat := 0
  seen : List (Nat × Nat) := []
  upTo : Nat := 0
  deriving DecidableEq, Repr

/-- The totals of a POINT_ID (R169, Table 7.6): the twelve counters and their remainders, lost and marked time, last accounted
second, definition digest, its openings (those accounted to their end too: a record may still be late for one of their seconds,
R173), and the hour and day in progress. -/
structure Point where
  defined : Bool := false
  counters : List Nat := []
  rems : List Nat := []
  lostNs : Nat := 0
  markedNs : Nat := 0
  lastSec : Nat := 0
  digest : List Byte := []
  spans : List Span := []
  hour : IntAcc := {}
  day : IntAcc := {}
  deriving DecidableEq, Repr

/-- The hysteresis of one alarm condition of a zone (R183): on, and records in succession without the condition. -/
structure Alarm where
  on : Bool := false
  clear : Nat := 0
  deriving DecidableEq, Repr

/-- A commit in progress (R174): its second and the bank without its CRC. -/
structure Commit where
  sec : Nat
  image : List Byte
  deriving DecidableEq, Repr

/-- An interval record that waits for the commit of its last second, and its body (R181). -/
structure IntervalDue where
  afterSec : Nat
  body : List Byte
  deriving DecidableEq, Repr

/-- A ledger service swap that waits for the incoming service (R191, R456): old and new versions, the digest of the state handed
over, the boundary B, and the second up to which the outgoing service had closed. -/
structure Handover where
  old : Nat
  new : Nat
  digest : Nat
  at_ : Nat
  deriving DecidableEq, Repr

/-- The custody ledger beside its registers and its signing queue (chapter 07). -/
structure Ledger where
  points : Tab Point := []
  recs : List ZoneRec := []
  /-- By 4 × zone handle + condition: DISAGREE, STATE_RANGE, TCHK, LOST. -/
  alarms : Tab Alarm := []
  /-- The last instant, in seconds, at which seconds were closed. -/
  instant : Nat := 0
  commit : Option Commit := none
  /-- The bank of the latest complete commit (R190); empty for none. -/
  latest : List Byte := []
  /-- The first second whose commit has not been started. -/
  nextCommit : Nat := 0
  due : List IntervalDue := []
  /-- Digest of the last record (CHAIN_HEAD); empty stands for 32 zero bytes. -/
  chain : List Byte := []
  /-- The private ledger key, 0 for none, and its KEY_ID (R179, R448). -/
  key : Nat := 0
  keyId : Nat := 0
  /-- A POWER_LOSS event waits for device time to be valid (R176): the GEN taken at start-up. -/
  powerLoss : Option Nat := none
  /-- A handover in progress (R191). -/
  handover : Option Handover := none
  /-- Next RECSEQ to send on the Clasuzal stream, none while the stream sends nothing (R187). -/
  czNext : Option Nat := none
  /-- The Modbus TCP connections, each a network port and a number, at most 4 (R189). -/
  modbus : List (Nat × Nat) := []
  deriving DecidableEq, Repr

/-- What kind of message a network port sent. -/
inductive SentKind where
  | clasuzal | modbus | answer | exported | ptp | hawser | bybovi
  deriving DecidableEq, Repr

/-- The UDP ports and the destination address of a datagram, the address as four words with the most significant first (R186). -/
structure Udp where
  src : Nat
  dst : Nat
  addr : List Nat
  deriving DecidableEq, Repr

/-- A message that the device sent (the model's own record of what leaves it), with its UDP ports and address where the spec gives
them, the frame's tag as PCP and VID, and the address of its next hop. -/
structure Sent where
  kind : SentKind
  port : Nat
  body : List Byte
  udp : Option Udp := none
  tag : Option (Nat × Nat) := none
  via : List Nat := []
  deriving DecidableEq, Repr
/-- A record that waits for signing (R185): TYPE 1 interval or 2 event, its body, and, for an event, its code and ORIGIN. -/
structure LedgerItem where
  type : Nat
  code : Nat := 0
  point : Nat := 255
  origin : Nat := 0
  args : List Nat := []
  body : List Byte := []
  deriving DecidableEq, Repr

/-- An entry of a bank FIFO (Table 8.5), and the CK_TLY cycle in which its lane writes it (R206). -/
structure TallyEntry where
  time : Nat := 0
  frac : Nat := 0
  lane : Nat := 0
  type : Nat := 15
  idx : Nat := 0
  flags : Nat := 0
  value : Nat := 0
  cycle : Nat := 0
  deriving DecidableEq, Repr

/-- A statistics set being gathered (R212): accepted values, their sum and sum of squares, least and greatest, values with NEAR, and
measurements without the stop, and whether the core PLL was out of lock during the set (R23). -/
structure StatSet where
  n : Nat := 0
  sum : Int := 0
  sq : Nat := 0
  lo : Int := 0
  hi : Int := 0
  near : Nat := 0
  miss : Nat := 0
  lost : Bool := false
  deriving DecidableEq, Repr

/-- A frequency gate (R214): the boundary in ns at which it began, edges in it, stamps of the first and the last in 1/256 ns, and
whether the core PLL was out of lock in it (R23). -/
structure Gate where
  start : Nat := 0
  edges : Nat := 0
  first : Nat := 0
  last : Nat := 0
  lost : Bool := false
  deriving DecidableEq, Repr

/-- A histogram frame in progress (R217, Table 8.8): its opening boundary, the ns of skipped tides since (R26), its number, what its header
counts, whether a bin saturated and whether the core PLL was out of lock in it (R23). -/
structure HistFrame where
  start : Nat := 0
  skip : Nat := 0
  num : Nat := 0
  starts : Nat := 0
  skips : Nat := 0
  under : Nat := 0
  beyond : Nat := 0
  near : Nat := 0
  dead : Nat := 0
  sat : Bool := false
  lost : Bool := false
  deriving DecidableEq, Repr

/-- A tally lane beside its registers (chapter 08). Raw converter times and stamps are device time in 1/256 ns. -/
structure Lane where
  /-- Raw time of the last edge converted, and raw time of the last accepted edge (R197, R198). -/
  conv : Option Nat := none
  acc : Option Nat := none
  /-- A measurement is in progress; raw time and instant of the last start taken; raw times of the stops of its measurement, in order;
  stops whose coincidence is not decided, with their intervals (R251). -/
  armed : Bool := false
  raw : Nat := 0
  inst : Nat := 0
  stops : List Nat := []
  undecided : List (Nat × Int) := []
  /-- The next entry of the lane carries GAP (R207). -/
  gap : Bool := false
  stat : StatSet := {}
  sets : List StatSet := []
  gate : Gate := {}
  frame : HistFrame := {}
  /-- The frame whose dump is in progress (R217). -/
  done : HistFrame := {}
  /-- The boundary of a frame end or a clear that waits for the measurement in progress, and whether a dump is due; the instant at which
  the dump or clear began (R217, R219). -/
  ending : Option (Nat × Bool) := none
  dumping : Option Nat := none
  deriving DecidableEq, Repr

/-- A Raman trace being summed (R224): START of its first frame, frame pairs seen and used, OR of their tags, the sums of A and S by bin,
and the bins that were saturated in a frame used. -/
structure TraceAcc where
  start : Nat := 0
  seen : Nat := 0
  used : Nat := 0
  tags : Nat := 0
  a : Tab Nat := []
  s : Tab Nat := []
  sat : Tab Bool := []
  deriving DecidableEq, Repr

/-- A dumped frame as its owner reads it: number, lane, START, tag byte and counts by bin. -/
structure DumpedFrame where
  num : Nat
  lane : Nat
  start : Nat
  tag : Nat
  counts : Tab Nat
  deriving DecidableEq, Repr

/-- A Raman trace berth (R221 to R228): its record ring, the dump rings of its anti-Stokes and Stokes lanes, the next SEQ, the frame that
waits for its pair, the trace being summed and the traces complete and not yet written. -/
structure Raman where
  ring : Nat := 0
  asRing : Nat := 0
  sRing : Nat := 0
  seq : Nat := 0
  half : Option DumpedFrame := none
  acc : TraceAcc := {}
  ready : List TraceAcc := []
  deriving DecidableEq, Repr

/-- What a histogram frame of a ranging berth saw of its port (Table 9.5): number, START, step, rows, shots that issued a start, emitter
pulses withheld, and whether a shot was withheld under R245. -/
structure ScanInfo where
  num : Nat := 0
  start : Nat := 0
  step : Nat := 0
  rows : Nat := 0
  shots : Nat := 0
  governed : Nat := 0
  missed : Bool := false
  deriving DecidableEq, Repr

/-- An emitter port of the Beacon beside its registers (chapter 09). Instants are device time in 1/256 ns. -/
structure Port where
  /-- Index of the berth that owns the port, and its landing boundary in ns. -/
  berth : Nat := 0
  landed : Nat := 0
  /-- The jitter register (R236). -/
  lfsr : Nat := 1
  /-- Earliest instant of the next scan frame; rows still to be slotted in the frame in progress, whether its diagnostic slot follows,
  and the start of its next slot (R237). -/
  next : Nat := 0
  rows : List Nat := []
  diag : Bool := false
  slotAt : Nat := 0
  /-- Number of the next shot of each row, and of the next diagnostic slot (R238, R241). -/
  shots : Tab Nat := []
  diags : Nat := 0
  /-- The latest shot instant and its lane group (R235); the codes the column setpoints hold. -/
  shot : Nat := 0
  group : List Nat := []
  setpoints : List Nat := []
  /-- The latest pulse: its row, and the instants at which its row line and BC_m_CEN rise and fall (R233, R234). -/
  row : Nat := 0
  rise : Nat := 0
  fall : Nat := 0
  /-- Charge of each emitter by slice of 1 ms, newest first (R239). -/
  charge : List (Nat × Tab Nat) := []
  /-- The port is stopped for a cause other than a short check; for a short check (R245, R246). -/
  halted : Bool := false
  checkStop : Bool := false
  /-- The histogram frame in progress, and the ended ones whose record is not yet written (R255). -/
  info : ScanInfo := {}
  ended : List ScanInfo := []
  deriving DecidableEq, Repr

/-- A ranging berth beside its port (R247 to R257): its record ring, the lanes of its groups with their dump rings, and the dumped frames
that wait for their record. -/
structure Ranging where
  ring : Nat := 0
  rings : List (Nat × Nat) := []
  frames : List DumpedFrame := []
  deriving DecidableEq, Repr

/-- The Bybovi ring (R262 to R268): whether EN has landed, the boundary of the next frame, whether it is a discovery frame; the frame in
flight: whether its END is out, its status shares so far, the positions that returned a valid one, and the positions whose command
it carries; frames in succession without a valid share, and the instant of the waiting command, by position. -/
structure Bybovi where
  run : Bool := false
  next : Nat := 0
  discover : Bool := false
  flying : Bool := false
  got : Nat := 0
  valid : List Nat := []
  sentTo : List Nat := []
  misses : Tab Nat := []
  cmdAt : Tab Nat := []
  deriving DecidableEq, Repr

/-- A Sounding channel beside its registers (chapter 10): the configuration words in force, in the order of R296; the range of the last
conversion and of the next; whether a first conversion is due; conversions still to mark SETTLE and NOVR (R287, R277); whether a lead
conversion is due, main conversions since the last one, whether one came since the last sample, and R_L (R272); the conversion in
progress, if any: whether it is a lead conversion, its start and the berth it works for; the end of the last one; a conversion asked
for in SINGLE mode; whether the channel was taken over or released since its last start; and the berth that owns it. -/
structure Chan where
  act : List Nat := [0x100000C0, 0x64, 0, 0x40, 0, 0x10000, 0, 0, 0x186A0, 0]
  range : Nat := 0
  nextRange : Nat := 0
  first : Bool := true
  settle : Nat := 0
  novr : Nat := 0
  needLead : Bool := true
  mains : Nat := 0
  leadNew : Bool := false
  rl : Option Int := none
  active : Bool := false
  lead : Bool := false
  started : Nat := 0
  owner : Nat := 0
  ended : Option Nat := none
  single : Bool := false
  moved : Bool := false
  berth : Nat := 0
  past : List InSample := []
  deriving DecidableEq, Repr

/-- The Sounding die beside its registers: its channels, whether conversions follow one another and since when (R280), the instant of the last RESTART
(R281), and the reference rotation: its next step and the latest zero reading (R424). -/
structure Sounding where
  chans : Tab Chan := []
  going : Bool := false
  began : Nat := 0
  restart : Option Nat := none
  step : Nat := 0
  zero : Int := 0
  deriving DecidableEq, Repr

/-- A Sounding berth: its sample ring and the SEQ of its next sample (R294). -/
structure SoundBerth where
  ring : Nat := 0
  seq : Nat := 0
  deriving DecidableEq, Repr

/-- A sample as a watch takes it (R300): value, instant in 1/256 ns, tag byte, range tag, QUAL, and whether a result before it was not
taken (R302). -/
structure WatchSample where
  value : Int
  at_ : Nat
  tag : Nat
  range : Nat := 0
  qual : Nat := 0
  gap : Bool := false
  deriving DecidableEq, Repr

/-- A capture whose trigger has come (R304, R310): trigger instant in 1/256 ns, POSF, flags, L and H, FIRST, post entries written, the
instant of the latest. -/
structure Capture where
  at_ : Nat
  posf : Nat
  flags : Nat
  level : Int
  hyst : Nat
  first : Nat
  post : Nat := 0
  last : Nat := 0
  deriving DecidableEq, Repr

/-- A watch beside its registers (chapter 11): its berth handle, 0 for none; source; limits in force; the samples its source gave and it has
not taken, oldest first; the instant of the latest tally result given and whether one was skipped since (R302); the latest sample
taken if it can open a crossing pair (R303); the slot marker is still to be written (R309); the tags of the pre entries, newest
first; the instant of fill completion (R307); a FORCE waits; the capture in progress and whether it is complete. -/
structure Watch where
  handle : Nat := 0
  kind : Nat := 0
  source : Nat := 0
  sel : Nat := 0
  edge : Nat := 0
  mode : Nat := 0
  tmo : Nat := 0
  pre : Nat := 0
  post : Nat := 0
  slots : Nat := 1
  ring : Nat := 0
  level : Int := 0
  hyst : Nat := 0
  inbox : List WatchSample := []
  lastRes : Option Nat := none
  skipped : Bool := false
  prev : Option (Int × Nat) := none
  mark : Bool := false
  taken : Nat := 0
  tags : List Nat := []
  filledAt : Option Nat := none
  force : Bool := false
  cap : Option Capture := none
  done : Bool := false
  deriving DecidableEq, Repr

/-- A circular address set: base, length and pointer (Table 12.2). -/
structure CircSet where
  b : Nat := 0
  l : Nat := 0
  p : Nat := 0
  deriving DecidableEq, Repr

/-- An active REPEAT level: remaining iterations, start and end instruction index (lc, ls, le of Table 12.2). -/
structure LoopLevel where
  left : Nat
  start : Nat
  stop : Nat
  deriving DecidableEq, Repr

/-- A load whose value has not landed (R319): instructions until it lands, its destination and its value. -/
structure PendingLoad where
  left : Nat
  dst : PierDst
  value : Nat
  deriving DecidableEq, Repr

/-- A job (R328): entry, bank, berth index (none for INIT, which the reserve pays), ARG, and the tide in which it was posted. -/
structure PierJob where
  entry : Nat
  bank : Nat
  berth : Option Nat
  arg : Nat
  posted : Nat
  deriving DecidableEq, Repr

/-- The completion that a job's posting agent receives (R328, R331, R332). -/
structure JobDone where
  job : PierJob
  refused : Bool := false
  tide : Bool := false
  dropped : Bool := false
  fault : Nat := 0
  addr : Nat := 0
  deriving DecidableEq, Repr

/-- A signal core beside its registers (Table 12.2): general registers, accumulators, circular sets, CSR_ACC's fields, the program counter
and cycles, the active REPEAT levels (innermost first), loads in flight, the branch in flight (delay slots left and its target if
taken), instructions in one run of slots and shadows, the running job, whether it was run again and is to be abandoned, the
pending interrupts with the cycles each has been held, the value that CSR_CYC is compared with, what the handler returns to, the
memories by core address (Table 12.1) and their words that fail parity, and an INIT that is due (bank and ARG). -/
structure Core where
  g : Tab Nat := []
  a : Tab Int := []
  c : Tab CircSet := []
  wrap : Nat := 0
  frz : Nat := 0
  gov : Nat := 0
  pc : Nat := 0
  cyc : Nat := 0
  loops : List LoopLevel := []
  loads : List PendingLoad := []
  branch : Option (Nat × Option Nat) := none
  run : Nat := 0
  job : Option PierJob := none
  rerun : Bool := false
  abandoned : Bool := false
  irqs : List (Nat × Nat) := []
  timer : Option Nat := none
  saved : Option (Nat × List LoopLevel) := none
  mem : Tab Byte := []
  bad : Tab Bool := []
  initDue : Option (Nat × Nat) := none
  deriving DecidableEq, Repr

/-- A Pier cluster beside its registers: the job queue, the images of both banks (empty for none), an accepted swap (its image), the
boundary at which the last swap landed (R336), cycles charged to each berth in this tide, and the completions written (R328 to R336). -/
structure Cluster where
  queue : List PierJob := []
  banks : Tab (List Byte) := []
  swap : Option (List Byte) := none
  swapAt : Nat := 0
  used : Tab Nat := []
  done : List JobDone := []
  deriving DecidableEq, Repr
/-- The Warehouse (R342 to R350): stored bytes, blocks written since READY, their check words, blocks whose cells have failed, the block numbers in each
channel's write queue, oldest first, and the row that each bank holds open (R349), the banks of channel 1 after those of channel 0. -/
structure Warehouse where
  bytes : Tab Byte := []
  written : Tab Bool := []
  check : Tab Nat := []
  bad : Tab Bool := []
  queue : Tab (List Nat) := []
  rows : Tab (Option Nat) := []
  deriving DecidableEq, Repr
/-- How a Warehouse request completes (R342, R343, R345, R346). -/
inductive WhCause where
  | ok | range | check
  deriving DecidableEq, Repr

/-- A Tug chain in its channel's queue (R352): the Shed offset of its first descriptor, the tide in which it was enqueued, whether the
channel was enabled and owned then, and its place in the engine's enqueue order (R47). -/
structure TugChain where
  head : Nat
  tide : Nat
  ok : Bool
  seq : Nat := 0
  deriving DecidableEq, Repr

/-- The chain an engine runs (R358): its channel, the tide of its enqueuing, whether it may run, the descriptor in progress, that one's
number in the chain from 1, the instant it started, and whether a Lock closed on it while it ran (R364). -/
structure TugRun where
  ch : Nat
  tide : Nat
  ok : Bool
  desc : Nat
  num : Nat
  since : Nat
  shut : Bool := false
  deriving DecidableEq, Repr

/-- A Tug engine beside its registers: its channels' queues, oldest first, the chain it runs, the engine-ns charged to each owner in this
tide, and the chains enqueued so far (R352, R358, R359). -/
structure Tug where
  queues : Tab (List TugChain) := []
  run : Option TugRun := none
  used : Tab Nat := []
  enqueued : Nat := 0
  deriving DecidableEq, Repr
/-- A packing job in an engine's queue or running (R373): the Shed offset of its descriptor and the tide of its enqueuing. -/
structure PackRun where
  desc : Nat
  tide : Nat
  deriving DecidableEq, Repr

/-- A packing engine beside its registers: queued jobs, oldest first, and the running one. -/
structure PackEngine where
  queue : List PackRun := []
  run : Option PackRun := none
  deriving DecidableEq, Repr

/-- A capture stream (R380, R381): its ring, the SEQ of the next source unit and of the next crate; the crate being filled: its input, the
stamp and SEQ of its first unit, its units, the units skipped before it, and the instant at which it took its first unit; input of a
unit that waits for the next crate, with its stamp and SEQ; and whether the crate is to be closed. -/
structure Stream where
  ring : Nat := 0
  next : Nat := 0
  seq : Nat := 0
  buf : List Byte := []
  stamp : Nat := 0
  first : Nat := 0
  units : Nat := 0
  gap : Nat := 0
  since : Nat := 0
  beyond : List Byte := []
  overStamp : Nat := 0
  overSeq : Nat := 0
  skipped : Nat := 0
  due : Bool := false
  deriving DecidableEq, Repr
/-- An entry of the PTP stamp FIFO (Table 15.11): the stamp in 1/256 ns, DIR, MSGTYPE, PORT and SEQID. -/
structure Stamp where
  at_ : Nat
  dir : Nat
  msg : Nat
  port : Nat
  seq : Nat
  deriving DecidableEq, Repr

/-- The Hawser beside its registers (R407 to R410): a good frame came since the last boundary, boundaries in succession without one, and the
frame to be forwarded with its arrival in ns; and the instant of the last PPS_IN edge in 1/16 ns. -/
structure Hawser where
  good : Bool := false
  misses : Nat := 0
  forward : Option (Nat × Nat) := none
  pps : Option Nat := none
  deriving DecidableEq, Repr
/-- The trims of one ADC slice (Table 16.5): offset in 1/16 code, gain − 1 in 2^-16, skew in 1/64 ps. -/
structure SliceTrim where
  offset : Int := 0
  gain : Int := 0
  skew : Int := 0
  deriving DecidableEq, Repr

/-- An ADC lane's calibration (R419 to R421): the trims of slices 0 to 7 and of the spare, 8; passes in succession in which a slice's offset
or gain error was too large; passes since the spare began to shadow its slice; the slice that the spare is to replace after two passes; the
errors of a pass whose moves have not landed; and whether every move of its last pass was small. -/
structure LaneTrim where
  trims : Tab SliceTrim := []
  high : Tab Nat := []
  turn : Nat := 0
  wanted : Option Nat := none
  due : List SliceErr := []
  calm : Bool := false
  deriving DecidableEq, Repr

/-- A quay's calibration: its lanes XI, XQ, YI and YQ; the lanes that have completed the pass, the I/Q errors whose moves have not landed, and
the polarisations whose last moves were small. -/
structure QuayTrim where
  lanes : Tab LaneTrim := []
  done : List Nat := []
  iqDue : List IqErr := []
  calm : List Nat := []
  deriving DecidableEq, Repr

/-- A tally lane's code density (R422, R423): its code table (F by tap, empty before the first pass), the table that takes effect at the next
boundary, and the taps mapped out by the Charter and live. -/
structure TapTable where
  table : List Nat := []
  due : List Nat := []
  factory : List Nat := []
  live : List Nat := []
  deriving DecidableEq, Repr

/-- A user table swap that has landed and whose selection record is not yet written (R428): its bit, the old and new TABLE_ID, and B. -/
structure CalDone where
  bit : Nat
  old : Nat
  new : Nat
  at_ : Nat
  deriving DecidableEq, Repr
/-- Reset and power beside their registers (chapter 17): the level and source of the reset that holds the device, if one does; domains in
reset or powering up; domains whose trim image is on its way, and those whose first image failed its check; domains with valid trims;
domains to be restored at the next boundary, the configuration kept for them by register bit address, and those that missed an activation;
the watchdog's instant, or what was left of its period when it was held; since when ILOCK_N is low; the device time at which the RTC held its register's value; the
RTC_LO word staged; whether VBAT is present; the outputs held through an L1 reset, by block; the blocks whose outputs are still in their cold-reset
state (R461); whether the supplies still ramp (R462); and whether VDD_IO was sensed as 3.3 V (R464). -/
structure Power where
  held : Option (Nat × Nat) := none
  down : List Nat := []
  image : List Nat := []
  failed : List Nat := []
  trims : List Nat := []
  restore : List Nat := []
  kept : Tab (Tab Nat) := []
  fresh : List Nat := []
  wdt : Option Nat := none
  wdtLeft : Option Nat := none
  ilock : Option Int := none
  rtcAt : Int := 0
  rtcStaged : Nat := 0
  vbat : Bool := true
  holds : Tab (List (Ball × Drive)) := []
  cold : List Nat := [1, 2, 3, 4, 5, 6, 7, 8, 9, 21, 22, 23, 24]
  ramping : Bool := false
  io33 : Bool := false
  deriving DecidableEq, Repr

/-- Customs beside its registers (R448 to R451): the life-cycle word, as the STATE it gives without the seal; the seal state in the Ballast;
SEALCNT and seal state in the Hold header; the rollback count mirrored there; the rights that a DEBUG token grants when the seal is broken;
the Charter word and bits being blown; and, while SEALED, the flow programs by cluster and the flow-zone profiles sealed (R450). -/
structure Life where
  word : Nat := 0
  sealed : Bool := false
  mirror : Nat × Bool := (0, false)
  rollback : Nat := 0
  rights : Nat := 0
  blow : Option (Nat × Nat) := none
  parts : Option (List (Nat × List Byte) × List Byte) := none
  deriving DecidableEq, Repr

/-- A firmware or ledger service swap (R453 to R456): its target, the old and new VERSION, the mailbox version in force when it landed (0 for
none), and, once a firmware swap has landed, B. -/
structure FwSwap where
  target : Nat
  old : Nat
  new : Nat
  ver : Nat := 0
  landed : Option Nat := none
  reverting : Bool := false
  deriving DecidableEq, Repr

/-- A change that lands at a tide boundary (R36). -/
inductive Change where
  | rate (v : Int)                       -- R25: the rate correction
  | timeStep (s : Nat)                   -- R26: a forward step of s ns
  | manifest                             -- R57: activation of the pending manifest
  | berthOpen (idx : Nat)                -- R36: a berth begins work
  | berthClose (idx : Nat)               -- R140: a berth stops work
  | quayRun (n : Nat) (run : Bool)       -- R74
  | quayResume (n : Nat)                 -- R79
  | planSwitch (n p : Nat)               -- R75
  | lgtEn (n : Nat) (en : Bool)          -- R73
  | lgtWidth (n w : Nat)                 -- R73
  | lgtPeriod (n p : Nat)                -- R73
  | gpioOut (n mask value : Nat)         -- R84
  | rxCfg (n value : Nat)                -- R109
  | sync                                 -- R133, R134

  | laneCfg (l reg value : Nat)          -- R230: register `reg` bytes into the lane's block
  | histClear (l : Nat)                  -- R219
  | shortCheck (m : Nat)                 -- R243
  | portResume (m : Nat)                 -- R246
  | bybEn (en : Bool)                    -- R262
  | bybDiscover                          -- R262
  | watchLimit (w : Nat) (hyst : Bool) (v : Nat) -- R308
  | watchRearm (w : Nat)                 -- R308
  | pierSwap (n : Nat)                   -- R336
  | whAge (v : Nat)                      -- Table 13.11: AGE
  | power (d : Nat) (on : Bool)          -- R442
  | exportSlot (k : Nat)                     -- R401
  | calSwap (bit : Nat)                  -- R428
  | calCfg (v : Nat)                     -- R430
  | berthReset (idx : Nat)               -- R436
  | seal (made : Bool)                   -- R449, R450
  | fwSwap                               -- R454, R456
  | fwRevert                             -- R454
  deriving DecidableEq, Repr

/-- A change that was accepted and waits for the boundary at device time `due` (R37). -/
structure Landing where
  due : Nat
  change : Change
  deriving DecidableEq, Repr

/-- The state of the device. -/
structure State where
  /-- Device time in ns, the master counter (R24). -/
  now : Nat := 0
  /-- Register fields by bit address; an unlisted field holds its reset value (Tables 1.10 to 17.11). -/
  regs : Tab Nat := []
  /-- Shadows of the latching pairs by byte address of the latched row (R2). -/
  shadows : Tab (Option Nat) := []
  /-- The last bus completion (the model's own record). -/
  completion : Completion := {}
  /-- Counter of the free values used so far (the model's own field, log entry 2). -/
  free : Nat := 0
  /-- Bytes of the on-chip SRAM, 64 MiB (R338). -/
  shed : Tab Byte := []
  /-- Words of the Shed whose parity fails (R340), by word index. -/
  shedBad : Tab Bool := []
  /-- The die-to-die links 0 to 9 (R15, R16). -/
  links : Tab Link := []
  /-- PLLs that lost lock and have not regained it (R23), one bit each. -/
  pllLost : Nat := 0
  /-- When the links and PLLs were down: from an instant up to another, or still (R16, R23), by link 0 to 9 and 16 + PLL. -/
  gaps : Tab (List (Nat × Option Nat)) := []
  /-- Ballast writes waiting, oldest first: byte address and value (R22). -/
  ballast : List (Nat × Nat) := []
  /-- Changes accepted and not yet landed, in acceptance order (R37, R38). -/
  landing : List Landing := []
  /-- The rate correction in force, 2^-32 ns per ns (R25, R404). -/
  rate : Int := 0
  /-- The berth table by index (R10). -/
  berths : Tab Berth := []
  /-- Berths accepted and not yet landed, by index (R39). -/
  coming : Tab Berth := []
  /-- Last generation issued at each index since the last cold or warm reset, 0 for none (R11). -/
  gens : Tab Nat := []
  /-- Indexes in the order in which their last berths closed (R116). -/
  closedOrder : List Nat := []
  /-- Work carried into this tide, per engine: berth and amount, oldest first (R47, R49). -/
  carried : Tab (List (Nat × Nat)) := []
  /-- Work of this tide that commands have carried out, per engine, in order of arrival: the berth index, 4,096 for the host or 4,097 for the reserve,
  and engine-ns (R47, R350, R359). -/
  work : Tab (List (Nat × Nat)) := []
  /-- What is still to come of the work carried into this tide and of the work discarded, per engine and berth (R48, R49). -/
  late : Tab (List (Nat × Nat)) := []
  cutWork : Tab (List (Nat × Nat)) := []
  /-- The image under check: Shed offset and length of HB_MF_LEN at the write of LOAD (R56). -/
  mfCheck : Option (Nat × Nat) := none
  /-- The manifest that waits for its activation boundary (R57). -/
  mfPending : Option Manifest := none
  /-- The active manifest (R57). -/
  mfActive : Option Manifest := none
  /-- Slots of each berth kind in the order in which their last berths closed, by kind (R164). -/
  slotOrder : Tab (List Nat) := []
  /-- Rings laid out in the Warehouse areas (R140, R351). -/
  rings : List Ring := []
  /-- The quays 0 to 7 (chapter 03). -/
  quays : Tab Quay := []
  /-- The receive pipeline of each quay (chapter 04). -/
  rx : Tab RxSlice := []
  /-- LANE_MAP and INV of each quay's receive routing block (R86, Table 4.5). -/
  routes : Tab (Nat × Nat) := []
  /-- The replay queue of all quays, oldest first (R105). -/
  replayQ : List Replay := []
  /-- The segment being replayed (R104). -/
  replaying : Option Replay := none
  /-- DAS zone berths by berth index, and the flow zones' coil channels (chapter 05). -/
  das : Tab Das := []
  /-- Tile writes under way on each Tug, oldest first: berth index, group and tile (R121). -/
  tileWrites : Tab (List (Nat × Nat × Nat)) := []
  /-- DAS parts of berths accepted and not yet landed, by index (R120, R131). -/
  dasComing : Tab Das := []
  /-- Flow zone berths by berth index (chapter 06). -/
  flow : Tab Flow := []
  /-- Flow parts of berths accepted and not yet landed, by index (R163). -/
  flowComing : Tab Flow := []
  /-- Samples of each Sounding berth, newest first, by berth index (R153, R286). -/
  samples : Tab (List InSample) := []
  /-- Traces of each Raman berth, newest first, by berth index (R153). -/
  traces : Tab (List TraceSum) := []
  /-- The user NVM, 2 MiB (Table 16.6). -/
  hold : Tab Byte := []
  /-- The custody ledger (chapter 07). -/
  ledger : Ledger := {}
  /-- Messages sent, oldest first (the model's own record). -/
  sent : List Sent := []
  /-- Records waiting for signing, oldest first, at most 256 (R185). -/
  signQ : List LedgerItem := []
  /-- Events dropped since the last one that entered the queue: count, first and last ORIGIN (R185). -/
  evtLost : Nat × Nat × Nat := (0, 0, 0)
  /-- The tally lanes 0 to 127 (chapter 08). -/
  lanes : Tab Lane := []
  /-- The bank FIFOs, head first (R206). -/
  fifos : Tab (List TallyEntry) := []
  /-- Raman trace berths by berth index (R221). -/
  raman : Tab Raman := []
  /-- The emitter ports 0 to 7 (chapter 09). -/
  ports : Tab Port := []
  /-- Ranging berths by berth index. -/
  ranging : Tab Ranging := []
  /-- The Bybovi ring. -/
  byb : Bybovi := {}
  /-- The Sounding die. -/
  snd : Sounding := {}
  /-- Sounding berths by berth index. -/
  sounding : Tab SoundBerth := []
  /-- Watches by slot. -/
  watches : Tab Watch := []
  /-- The signal cores 0 to 15. -/
  cores : Tab Core := []
  /-- The Pier clusters 0 to 3. -/
  clusters : Tab Cluster := []
  /-- The external DRAM (R342 to R350). -/
  wh : Warehouse := {}
  /-- How the last Warehouse request completed, and the bytes a read returned (the model's own record). -/
  whDone : WhCause × List Byte := (.ok, [])
  /-- The Tug engines 0 to 7. -/
  tugs : Tab Tug := []
  /-- Domains whose power-down has landed and whose Lock has not closed, with the boundary (R364). -/
  draining : List (Nat × Nat) := []
  /-- Bytes written to host memory, oldest first: bus address and bytes (the model's own record). -/
  toHost : List (Nat × List Byte) := []
  /-- MSI-X vectors signalled, oldest first (the model's own record). -/
  signalled : List Nat := []
  /-- The packing engines 0 and 1. -/
  packs : Tab PackEngine := []
  /-- Engine-ns of packing charged to each owner in this tide (R374). -/
  packUsed : Tab Nat := []
  /-- Capture streams by berth index (R380). -/
  streams : Tab Stream := []
  /-- Egress cost that each enabled export slot added to its stream's cost vector (R401), by slot: berth handle and cost. -/
  exportCost : Tab (Nat × Nat) := []
  /-- The stream and the egress entry of each export slot that waits to land (R38, R401). -/
  exportDue : Tab (Nat × Nat) := []
  /-- The PTP stamp FIFO, head first (R403). -/
  stamps : List Stamp := []
  /-- The Hawser and PPS_IN (R407 to R410). -/
  hawser : Hawser := {}
  /-- Bodies of the active user calibration tables by the bit of the selection record (Table 16.7): 0 STAMP, 1 SOUNDING, 16 + s
  FLOW set s; empty for none (R426). -/
  calActive : Tab (List Byte) := []
  /-- The ADC calibration of each quay (R419 to R421). -/
  quayTrims : Tab QuayTrim := []
  /-- The code density of each tally lane (R422, R423). -/
  taps : Tab TapTable := []
  /-- SEL and PRESENT of the selection record (Table 16.7). -/
  calSel : Nat × Nat := (0, 0)
  /-- User table images accepted and not yet landed, by bit (R428). -/
  calWaiting : Tab (List Byte) := []
  /-- User table swaps whose selection record is not yet written, oldest first (R428). -/
  calDone : List CalDone := []
  /-- The factory OTP, 16 KiB in two copies (Table 16.3). -/
  charter : Tab Byte := []
  /-- Reset and power (R431 to R447). -/
  power : Power := {}
  /-- The life cycle (R448 to R451). -/
  life : Life := {}
  /-- The firmware or ledger service swap in progress (R453). -/
  fwSwap : Option FwSwap := none
  /-- VERSION of the ledger service. -/
  ledgerVer : Nat := 0
  /-- MB_BOOT_LEN at the write of GO (R388). -/
  bootLen : Nat := 0
  /-- The commands waiting, first in, first out. -/
  pending : List Instr := []
  deriving DecidableEq, Repr

/-- The state right after reset: every field as the spec gives it, the open ones as the log entries name them. -/
def State.reset : State := {}

end Sys2Proof.Machine
end

