-- ==== Sys2Proof/Machine/Tab.lean ====
section
/-! DEFINITION. Reading and writing a sparse table. A table is strictly sorted by key and lists no entry equal to what an
unlisted key reads as, so equal contents are equal data. -/

namespace Sys2Proof.Machine

/-- The value at key `k`; `d` is what an unlisted key reads as. -/
def Tab.get {α : Type} (d : α) : Tab α → Nat → α
  | [], _ => d
  | (i, v) :: t, k => if i = k then v else Tab.get d t k

/-- Removes every entry at key `k`. -/
def Tab.erase {α : Type} (t : Tab α) (k : Nat) : Tab α := t.filter (fun e => e.1 != k)

/-- Puts the entry `(k, v)` at its place. -/
def Tab.insert {α : Type} : Tab α → Nat → α → Tab α
  | [], k, v => [(k, v)]
  | (i, w) :: t, k, v => if i = k then (k, v) :: t else if k < i then (k, v) :: (i, w) :: t else (i, w) :: Tab.insert t k v

/-- Sets key `k` to `v`; a value equal to the default `d` leaves no entry. -/
def Tab.put {α : Type} [DecidableEq α] (d : α) (t : Tab α) (k : Nat) (v : α) : Tab α :=
  if v = d then Tab.erase t k else Tab.insert t k v

/-- Sets the keys `k, k + 1, …` to the listed values. -/
def Tab.putList {α : Type} [DecidableEq α] (d : α) (t : Tab α) (k : Nat) : List α → Tab α
  | [] => t
  | v :: vs => Tab.putList d (Tab.put d t k v) (k + 1) vs

/-- The values at `k, k + 1, …, k + n - 1`. -/
def Tab.getList {α : Type} (d : α) (t : Tab α) (k : Nat) : Nat → List α
  | 0 => []
  | n + 1 => Tab.get d t k :: Tab.getList d t (k + 1) n

/-- Clears the keys from `a` up to but not including `b`. -/
def Tab.clear {α : Type} (t : Tab α) (a b : Nat) : Tab α := t.filter (fun e => e.1 < a || b ≤ e.1)

/-- The keys rise strictly, starting above `lo` when one is given. -/
def Tab.sorted {α : Type} : Tab α → Bool
  | [] => true
  | [_] => true
  | a :: b :: t => decide (a.1 < b.1) && Tab.sorted (b :: t)

/-- The canonical form: keys strictly rising and no entry equal to the default. -/
def Tab.wf {α : Type} [DecidableEq α] (d : α) (t : Tab α) : Bool := Tab.sorted t && t.all (fun e => e.2 != d)

end Sys2Proof.Machine
end

