-- ==== Sys2Proof/Machine/Ops.lean ====
section
/-! DEFINITION. The named operations over registers, the Shed, the landing list and the ledger's event queue that the
meanings share. -/

namespace Sys2Proof.Machine

/-- The value of a register field. -/
def State.rd (s : State) (f : Fld) : Nat := Tab.get f.reset s.regs f.key

/-- Writes a register field with the low bits of `v`. -/
def State.wr (s : State) (f : Fld) (v : Nat) : State := { s with regs := Tab.put f.reset s.regs f.key (low f.width v) }

/-- A one-bit field as a Bool. -/
def State.on (s : State) (f : Fld) : Bool := s.rd f == 1

/-- Bit `i` of a field. -/
def State.rdBit (s : State) (f : Fld) (i : Nat) : Bool := bit (s.rd f) i

/-- `n` with bit `i` set to `b`. -/
def withBit (n i : Nat) (b : Bool) : Nat := n - (n / 2 ^ i % 2) * 2 ^ i + flag b * 2 ^ i

/-- Sets bit `i` of a field to `b`. -/
def State.wrBit (s : State) (f : Fld) (i : Nat) (b : Bool) : State := s.wr f (withBit (s.rd f) i b)

/-- Writes a one-bit field. -/
def State.wrB (s : State) (f : Fld) (b : Bool) : State := s.wr f (flag b)

/-- Adds to a counter that stops at its largest value. -/
def State.addSat (s : State) (f : Fld) (n : Nat) : State := s.wr f (satAdd f.width (s.rd f) n)

/-- Increments a counter that stops at its largest value. -/
def State.inc (s : State) (f : Fld) : State := s.addSat f 1

/-- The value of a 64-bit quantity in two fields, the low one 32 bits wide. -/
def State.rdPair (s : State) (lo hi : Fld) : Nat := s.rd lo + 2 ^ 32 * s.rd hi

/-- Writes a 64-bit quantity into its two fields. -/
def State.wrPair (s : State) (lo hi : Fld) (v : Nat) : State := (s.wr lo v).wr hi (v / 2 ^ 32)

/-- Gives every register whose byte address lies in `[a, b)` its reset value, and drops the shadows of its pairs (R2). -/
def State.resetRegs (s : State) (a b : Nat) : State :=
  { s with regs := Tab.clear s.regs (8 * a) (8 * b), shadows := Tab.clear s.shadows a b }

/-- Uses the next free value (log entry 2). -/
def State.nextFree (s : State) : State := { s with free := s.free + 1 }

/-- The free value a step uses. -/
def State.freeNow (s : State) : Nat := Config.freeValue s.free

/-- The first tide boundary at least 16,384 ns after device time `t` (R37). -/
def landAt (t : Nat) : Nat := (t + 16384 + 131071) / 131072 * 131072

/-- The first tide boundary at or after `t`. -/
def boundaryAt (t : Nat) : Nat := (t + 131071) / 131072 * 131072

/-- The first tide boundary after `t`. -/
def nextBoundary (t : Nat) : Nat := (t / 131072 + 1) * 131072

/-- The tide number of a device time (R35). -/
def tideOf (t : Nat) : Nat := t / 131072

/-- Records the landing tide of the last accepted change (Table 2.10). -/
def State.setLand (s : State) (due : Nat) : State := s.wrPair R.HB_LAND_LO_TIDE_LO R.HB_LAND_HI_TIDE_HI (tideOf due)

/-- Accepts a change to land at the boundary `due`. -/
def State.acceptAt (s : State) (due : Nat) (c : Change) : State :=
  { (s.setLand due) with landing := s.landing ++ [⟨due, c⟩] }

/-- Accepts a change to land at the boundary that R37 gives for this instant. -/
def State.accept (s : State) (c : Change) : State := s.acceptAt (landAt s.now) c

/-- Drops the waiting changes that `p` selects. -/
def State.dropWaiting (s : State) (p : Change → Bool) : State := { s with landing := s.landing.filter (fun l => !p l.change) }

/-- Whether a waiting change satisfies `p`. -/
def State.waits (s : State) (p : Change → Bool) : Bool := s.landing.any (fun l => p l.change)

/-- Power domain `d` is on (R443). -/
def State.powered (s : State) (d : Nat) : Bool := s.rdBit R.RS_PWR_STATUS_ON d

/-- The power domain of the register at a byte address (Table 1.9, R443). -/
def domainOf (addr : Nat) : Nat :=
  if 0x400000 ≤ addr ∧ addr < 0x480000 then 1 + (addr - 0x400000) / 0x10000
  else if 0x600000 ≤ addr ∧ addr < 0x680000 then 9 + (addr - 0x600000) / 0x10000
  else if 0x700000 ≤ addr ∧ addr < 0x800000 then 22
  else if 0x800000 ≤ addr ∧ addr < 0x900000 then 21
  else if 0xA00000 ≤ addr ∧ addr < 0xB00000 then 17 + min 3 ((addr - 0xA00000) / 0x40000)
  else if 0xB00000 ≤ addr ∧ addr < 0xC00000 then 24
  else if 0xE00000 ≤ addr ∧ addr < 0xF00000 then 23
  else 0

/-- A Lock answers an access to domain `d` on its behalf: the bit in RS_LOCK_ERR sets (R31, R444). -/
def State.lockAnswer (s : State) (d : Nat) : State := s.wrBit R.RS_LOCK_ERR_ERR d true

/-- The event enters the signing queue, preceded by EVENT_OVERFLOW when events were dropped before it; a full queue drops and
counts it (R182, R185). -/
def State.event (s : State) (code point : Nat) (args : List Nat) : State :=
  let e : LedgerItem := { type := 2, code := code, point := point, origin := s.now, args := args }
  let need := if s.evtLost.1 = 0 then 1 else 2
  if s.signQ.length + need ≤ 256 then
    let o : LedgerItem := { type := 2, code := 0x57, point := 255, origin := s.now, args := [s.evtLost.1, s.evtLost.2.1, s.evtLost.2.2] }
    { s with signQ := s.signQ ++ (if s.evtLost.1 = 0 then [e] else [o, e]), evtLost := (0, 0, 0) }
  else
    let first := if s.evtLost.1 = 0 then s.now else s.evtLost.2.1
    { ((s.wr R.LG_STATUS_EVT_OVF 1).inc R.LG_EVT_DROP_CNT_COUNT) with evtLost := (s.evtLost.1 + 1, first, s.now) }

/-- IPv4 is enabled on a port (Table 15.16). -/
def State.ip4On (s : State) (n : Nat) : Bool := s.rd (R.NT_n_IP4_ADDR n) != 0

/-- IPv6 is enabled on a port (Table 15.16). -/
def State.ip6On (s : State) (n : Nat) : Bool := (List.range 4).any (fun j => s.rd (R.NT_n_IP6_j_ADDR n j) != 0)

/-- The port takes part in IP version `v`. -/
def State.ipOn (s : State) (n v : Nat) : Bool := (v == 4 && s.ip4On n) || (v == 6 && s.ip6On n)

/-- The number that address words spell, the most significant first. -/
def addrNat (ws : List Nat) : Nat := ws.foldl (fun a w => 2 ^ 32 * a + w) 0

/-- The IP version of an address: an IPv4-mapped one is of version 4 (Tables 7.13 and 15.16). -/
def addrVersion (ws : List Nat) : Nat := if addrNat ws / 2 ^ 32 = 0xFFFF then 4 else 6

/-- Where a datagram to an address goes next: there, or to the gateway when it lies outside the port's prefix (R399). -/
def State.nextHop (s : State) (n : Nat) (ws : List Nat) : List Nat :=
  let four := addrVersion ws == 4
  let own := if four then s.rd (R.NT_n_IP4_ADDR n) else addrNat ((List.range 4).map (fun j => s.rd (R.NT_n_IP6_j_ADDR n j)))
  let rest := if four then 32 - s.rd (R.NT_n_PREFIX_IP4 n) else 128 - s.rd (R.NT_n_PREFIX_IP6 n)
  let dst := if four then low 32 (addrNat ws) else addrNat ws
  if dst / 2 ^ rest = own / 2 ^ rest then ws
  else if four then [0, 0, 0xFFFF, s.rd (R.NT_n_IP4_GW_ADDR n)]
  else (List.range 4).map (fun j => s.rd (R.NT_n_IP6_GW_j_ADDR n j))

/-- The tag of the frames that a port sends: PCP and VID (R398, Table 15.16). -/
def State.sendTag (s : State) (n : Nat) : Option (Nat × Nat) :=
  if s.on (R.NT_n_CFG_VLAN_EN n) then some (s.rd (R.NT_n_CFG_PCP n), s.rd (R.NT_n_CFG_VID n)) else none

/-- A network port that is on sends a datagram or frame (R398 to R400); a port that is off sends nothing, and none leaves for an address of an IP
version that is disabled on it. -/
def State.netSend (s : State) (kind : SentKind) (n : Nat) (body : List Byte) (udp : Option Udp := none) : State :=
  let via := (udp.map (fun u => s.nextHop n u.addr)).getD []
  if s.on (R.NT_n_CFG_EN n) ∧ s.powered 23 ∧ udp.all (fun u => s.ipOn n (addrVersion u.addr)) then
    ({ s with sent := s.sent ++ [{ kind := kind, port := n, body := body, udp := udp, tag := s.sendTag n, via := via }] } : State).inc
      (R.NT_n_TX_CNT_COUNT n)
  else s

/-- The Shed's size in bytes (R338). -/
def shedSize : Nat := 0x4000000

/-- The byte at a Shed offset, as stored. -/
def State.shedByte (s : State) (a : Nat) : Byte := Tab.get 0 s.shed a

/-- `n` bytes of the Shed from offset `a`, as stored. -/
def State.shedBytes (s : State) (a n : Nat) : List Byte := Tab.getList 0 s.shed a n

/-- The little-endian value of `n` Shed bytes from `a`, as stored. -/
def State.shedNat (s : State) (a n : Nat) : Nat := leNat (s.shedBytes a n)

/-- A word of the `n` bytes from offset `a` fails parity (R340). -/
def State.shedFails (s : State) (a n : Nat) : Bool :=
  s.shedBad.any (fun e => e.2 && decide (a / 4 ≤ e.1) && decide (e.1 * 4 < a + n))

/-- One Shed word of a read is checked: a failing word sets PARITY, is counted, and is latched if it is the first (R341). -/
def State.parityCheck (s : State) (w : Nat) : State :=
  if Tab.get false s.shedBad w then
    let s1 := if s.on R.TG_SHED_STATUS_PARITY then s else s.wr R.TG_SHED_PAR_ADDR_OFFSET (4 * w)
    (s1.wr R.TG_SHED_STATUS_PARITY 1).inc R.TG_SHED_PAR_CNT_COUNT
  else s

/-- The word indexes an access of `n` bytes at `a` touches. -/
def wordsOf (a n : Nat) : List Nat := if n = 0 then [] else (List.range ((a + n - 1) / 4 - a / 4 + 1)).map (fun i => a / 4 + i)

/-- The parity record of a read of `n` bytes at `a` (R341). -/
def State.parityScan (s : State) (a n : Nat) : State := (wordsOf a n).foldl State.parityCheck s

/-- One word's part of a Shed write (R340): a whole word is written with fresh parity; a part of a word that fails parity is
discarded and sets WRITE_DISC. -/
def State.shedWritePart (s : State) (a : Nat) (bs : List Byte) (w : Nat) : State :=
  let lo := max a (4 * w)
  let hi := min (a + bs.length) (4 * w + 4)
  let part := (bs.drop (lo - a)).take (hi - lo)
  if hi - lo = 4 then
    { s with shed := Tab.putList 0 s.shed lo part, shedBad := Tab.put false s.shedBad w false }
  else if Tab.get false s.shedBad w then s.wr R.TG_SHED_STATUS_WRITE_DISC 1
  else { s with shed := Tab.putList 0 s.shed lo part }

/-- A write of bytes at Shed offset `a`, word by word (R33, R340). -/
def State.shedWrite (s : State) (a : Nat) (bs : List Byte) : State :=
  (wordsOf a bs.length).foldl (fun t w => t.shedWritePart a bs w) s

/-- The life-cycle state is SEALED (Table 17.11). -/
def State.isSealed (s : State) : Bool := s.rd R.CU_STATE_STATE == 3

/-- A PLL that clocks the quays (core or sampling) is out of lock since its loss (R23, Table 1.7). -/
def State.quayClockLost (s : State) : Bool := bit s.pllLost 0 || bit s.pllLost 5

/-- The link numbered `n`. -/
def State.link (s : State) (n : Nat) : Link := Tab.get {} s.links n

/-- Updates one link. -/
def State.setLink (s : State) (n : Nat) (l : Link) : State := { s with links := Tab.put {} s.links n l }

/-- A source, link 0 to 9 or 16 + PLL, was down at some instant from `a` up to `b` (R16, R23). -/
def State.gapMeets (s : State) (src a b : Nat) : Bool :=
  (Tab.get [] s.gaps src).any (fun g => decide (g.1 < b) && match g.2 with | some e => decide (a < e) | none => true)

/-- A source goes down now; what lies more than 1 s back is forgotten, since nothing that asks for it reaches so far. -/
def State.openGap (s : State) (src : Nat) : State :=
  let l := (Tab.get [] s.gaps src).filter (fun g => match g.2 with | some e => decide (s.now < e + 1000000000) | none => true)
  { s with gaps := Tab.put [] s.gaps src (l ++ [(s.now, none)]) }

/-- A source is back. -/
def State.closeGap (s : State) (src : Nat) : State :=
  { s with gaps := Tab.put [] s.gaps src ((Tab.get [] s.gaps src).map (fun g => (g.1, some (g.2.getD s.now)))) }

/-- The RTC in 1/32,768 s (R447): the value last set and what has passed since. -/
def State.rtc (s : State) : Nat :=
  low 48 (s.rdPair R.RS_BAL_RTC_LO_RTC_LO R.RS_BAL_RTC_HI_RTC_HI + (((s.now : Int) - s.power.rtcAt).toNat * 32768) / 1000000000)

/-- Sets the RTC. -/
def State.setRtc (s : State) (v : Nat) : State :=
  { s.wrPair R.RS_BAL_RTC_LO_RTC_LO R.RS_BAL_RTC_HI_RTC_HI v with power := { s.power with rtcAt := s.now } }

/-- ILOCK_N has been low for the last 1 ms (R441). -/
def State.ilockStable (s : State) : Bool := match s.power.ilock with
  | some t => decide (t + 1000000 ≤ (s.now : Int))
  | none => false

/-- LOADED is 1 and the trims of every powered quay are valid (R441). -/
def State.trimsOk (s : State) : Bool :=
  s.on R.CL_STATUS_LOADED && (List.range 8).all (fun n => !s.powered (1 + n) || s.power.trims.contains (1 + n))

/-- HB_MF_STATUS.STATE reads ACTIVE. -/
def State.mfIsActive (s : State) : Bool := s.rd R.HB_MF_STATUS_STATE == 3

/-- The answer of a meaning: the next state. -/
abbrev Res := Host.Outcome State Fault Refusal

/-- Ends a meaning in the next state `s`. -/
def goOn (s : State) : Res := .next s

/-- While an L0 or L1 reset holds the device, no block runs and no command has an effect (R433). -/
def State.live (s : State) (f : State → Res) : Res := if s.power.held.isSome then goOn s else f s

end Sys2Proof.Machine
end

