-- ==== Sys2Proof/Machine/Flags.lean ====
section
/-! DEFINITION. The tag byte that every sample and record carries (R12, Table 0.7), and how tags pass from inputs to outputs
(R13, R18). -/

namespace Sys2Proof.Machine

/-- FILL: the filter fills after a synchronising reset. -/
def tagFill : Nat := 1
/-- SETTLE: the path settles after a change. -/
def tagSettle : Nat := 2
/-- FADE: the signal faded below the quality floor. -/
def tagFade : Nat := 4
/-- LOST: the value could not be computed or recomputed. -/
def tagLost : Nat := 8
/-- CLIP: a contributing ADC sample clipped. -/
def tagClip : Nat := 16
/-- OVR: the input was over range. -/
def tagOvr : Nat := 32
/-- NOVR: a neighbour on a shared reference was over range. -/
def tagNovr : Nat := 64
/-- TIDE: produced in a tide whose budget overran. -/
def tagTide : Nat := 128

/-- The tag `t` of the byte `b` is set. -/
def hasTag (b t : Nat) : Bool := b &&& t != 0

/-- The tag `t` if `c` holds, no tag otherwise. -/
def tagIf (c : Bool) (t : Nat) : Nat := if c then t else 0

/-- The OR of tag bytes (R18). -/
def orTags (ts : List Nat) : Nat := ts.foldl (· ||| ·) 0

/-- R13: a sample that carries LOST has its value field 0. -/
def lostZero {α : Type} [OfNat α 0] (tag : Nat) (v : α) : α := if hasTag tag tagLost then 0 else v

end Sys2Proof.Machine
end

