-- ==== Sys2Proof/Machine/LedgerOps.lean ====
section
/-! DEFINITION. Chapter 07: what the custody ledger does with a zone record and with a second of a point: accounting, counters,
interval records, commit banks, alarms (R168 to R185). An opening's `last` is its last second (R168). -/

namespace Sys2Proof.Machine

/-- A ledger second in ns. -/
def secNs : Nat := 1000000000

/-- The totals of a POINT_ID. -/
def State.point (s : State) (i : Nat) : Point := Tab.get {} s.ledger.points i

/-- Sets the totals of a POINT_ID. -/
def State.setPoint (s : State) (i : Nat) (p : Point) : State := { s with ledger := { s.ledger with points := Tab.put {} s.ledger.points i p } }

/-- The opening of a point that is open: its last one, while its close has not landed. -/
def Point.openSpan (p : Point) : Option Span := p.spans.find? (fun x => x.last.isNone)

/-- An opening is accounted to its end: its close has landed and no second of it is left (R168). -/
def Span.done (x : Span) : Bool := match x.last with
  | some l => decide (l < x.next)
  | none => false

/-- The openings of a point that have a second left to account or are open. -/
def Point.pending (p : Point) : List Span := p.spans.filter (fun x => !x.done)

/-- An opening of the point before the one of handle `h` has a second left. -/
def Point.waitsFor (p : Point) (h : Nat) : Bool := (p.spans.takeWhile (fun x => x.handle != h)).any (fun x => !x.done)

/-- Changes the opening of handle `h`. -/
def Point.mapSpan (p : Point) (h : Nat) (f : Span → Span) : Point :=
  { p with spans := p.spans.map (fun x => if x.handle = h then f x else x) }

/-- The open points, ascending. -/
def State.openPoints (s : State) : List Nat := (s.ledger.points.filter (fun e => e.2.openSpan.isSome)).map Prod.fst

/-- NEG of zone `k` (Table 7.1). -/
def Span.neg (x : Span) (k : Nat) : Bool := bit x.word0 (8 + k)

/-- Counter `k` of a point, in the order of Table 7.3: V, M and E forward and reverse, then their marked parts. -/
def Point.counter (p : Point) (k : Nat) : Nat := p.counters.getD k 0

/-- A list of `n` numbers with entry `k` set. -/
def setNth (n : Nat) (l : List Nat) (k v : Nat) : List Nat := (l ++ List.replicate (n - l.length) 0).set k v

/-- R172: counter `k` of point `i` takes `x` thousandths of its LSB through its remainder; a counter that wraps writes WRAP (R169). -/
def State.countUp (s : State) (i k x : Nat) : State :=
  let p := s.point i
  let t := p.rems.getD k 0 + x
  let c := p.counter k + t / 1000
  let s1 := s.setPoint i { p with counters := setNth 12 p.counters k (c % 2 ^ 96), rems := setNth 12 p.rems k (t % 1000) }
  if 2 ^ 96 ≤ c then s1.event 0x55 i [k] else s1

/-- R172: the net and the marked net of a quantity (0 volume, 1 mass, 2 energy) update its counters. -/
def State.countNet (s : State) (i q : Nat) (n m : Int) : State :=
  if 0 < n then (s.countUp i (2 * q) n.toNat).countUp i (6 + 2 * q) (min (max m 0) n).toNat
  else if n < 0 then (s.countUp i (2 * q + 1) (-n).toNat).countUp i (7 + 2 * q) (min (max (-m) 0) (-n)).toNat
  else s

/-- Tags that mark a sub-interval: all but LOST (R171). -/
def markTags : Nat := 247
/-- Flags that mark a sub-interval: DISAGREE, COILS_REDUCED, STALE, TCHK, RE_RANGE (R171, Table 6.7). -/
def markFlags : Nat := 457

/-- A record marks the sub-intervals it covers. -/
def ZoneRec.marks (r : ZoneRec) : Bool := r.tag &&& markTags != 0 || r.flags &&& markFlags != 0

/-- One sub-interval of a second: its length, whether it is lost and marked, and the signed sums of the rates. -/
structure SubInterval where
  len : Nat
  lost : Bool
  marked : Bool
  rates : List Int
  deriving DecidableEq, Repr

/-- The edges inside `[a, b]` in ascending order, ends included (R171). -/
def edgesOf (a b : Nat) (rs : List ZoneRec) : List Nat :=
  let es := (rs.flatMap (fun r => [r.stamp, r.endT])).filter (fun e => decide (a < e ∧ e < b))
  (a :: b :: es).eraseDups.mergeSort

/-- The record of a zone over the sub-interval from `a` to `b`. -/
def recOver (rs : List ZoneRec) (z a b : Nat) : Option ZoneRec := rs.find? (fun r => r.handle == z && decide (r.stamp ≤ a ∧ b ≤ r.endT))

/-- A sub-interval of a second of an opening (R171). -/
def subInterval (x : Span) (rs : List ZoneRec) (a b : Nat) : SubInterval :=
  let cover := x.zones.map (fun z => recOver rs z a b)
  let recs := cover.filterMap id
  let sum := fun (f : ZoneRec → Int) => ((cover.zipIdx.map (fun e => match e.1 with
    | some r => if x.neg e.2 then -(f r) else f r
    | none => 0)).foldl (· + ·) 0)
  { len := b - a, lost := cover.any Option.isNone || recs.any (fun r => hasTag r.tag tagLost), marked := recs.any ZoneRec.marks
    rates := [sum ZoneRec.qvol, sum ZoneRec.mdot, sum ZoneRec.edot] }

/-- The sub-intervals between successive edges. -/
def subIntervals (x : Span) (rs : List ZoneRec) : List Nat → List SubInterval
  | a :: b :: t => subInterval x rs a b :: subIntervals x rs (b :: t)
  | _ => []

/-- The net of quantity `q` over the sub-intervals that `ok` selects (R172). -/
def netOf (xs : List SubInterval) (q : Nat) (ok : SubInterval → Bool) : Int :=
  ((xs.filter (fun x => !x.lost && ok x)).map (fun x => x.rates.getD q 0 * (x.len : Int))).foldl (· + ·) 0

/-- An interval gathers second `n` (Table 7.8). -/
def IntAcc.take (a : IntAcc) (n : Nat) (rs : List ZoneRec) (lost marked : Nat) : IntAcc :=
  let fresh := rs.filter (fun r => !a.seen.contains (r.handle, r.seq))
  { a with start := some (a.start.getD (n * secNs)), zflags := a.zflags ||| orTags (rs.map ZoneRec.flags)
           ztags := a.ztags ||| orTags (rs.map ZoneRec.tag), lost := a.lost + lost, marked := a.marked + marked, upTo := max a.upTo n
           dis := a.dis + (fresh.filter (fun r => bit r.flags 0)).length, seen := rs.map (fun r => (r.handle, r.seq)) }

/-- The body of an interval record (Table 7.8). -/
def intervalBody (i kind : Nat) (p : Point) (a : IntAcc) (end_ : Nat) : List Byte :=
  leBytes 1 i ++ leBytes 1 kind ++ leBytes 2 a.zflags ++ leBytes 1 a.ztags ++ leBytes 3 0 ++ leBytes 8 (a.start.getD 0) ++ leBytes 8 end_ ++
  (List.range 12).flatMap (fun k => leBytes 12 (p.counter k)) ++ leBytes 8 a.lost ++ leBytes 8 a.marked ++ leBytes 4 a.dis ++
  leBytes 4 a.late ++ (p.digest ++ List.replicate (32 - p.digest.length) 0) ++ leBytes 32 0

/-- An interval record waits for the commit of second `n`. -/
def State.intervalDue (s : State) (n : Nat) (body : List Byte) : State :=
  { s with ledger := { s.ledger with due := s.ledger.due ++ [⟨n, body⟩] } }

/-- The last second of the hour in which second `n` lies (R181). -/
def hourEnd (n : Nat) : Nat := n / 3600 * 3600 + 3599

/-- The last second of the day in which second `n` lies, under LG_DAY_OFS (R181). -/
def dayEnd (n ofs : Nat) : Nat := (n + 86400 - ofs % 86400) / 86400 * 86400 + ofs % 86400 - 1

/-- The intervals of point `i` whose last second lies before second `n` are written off for their records, which wait for the commit
of that second (R181). An interval in which the point accounted nothing has no record. -/
def State.flushIntervals (s : State) (i n : Nat) : State :=
  let p := s.point i
  let e := hourEnd p.hour.upTo
  let s1 := if p.hour.start.isSome && decide (e < n) then
      (s.intervalDue e (intervalBody i 1 p p.hour ((e + 1) * secNs))).setPoint i { p with hour := {} }
    else s
  let p1 := s1.point i
  let d := dayEnd p1.day.upTo (s.rd R.LG_DAY_OFS_OFS)
  if p1.day.start.isSome && decide (d < n) then
    (s1.intervalDue d (intervalBody i 2 p1 p1.day ((d + 1) * secNs))).setPoint i { p1 with day := {} }
  else s1

/-- R171, R172: point `i` closes second `n` of its opening `x`. -/
def State.closeSecond (s : State) (i : Nat) (x : Span) (n : Nat) : State :=
  let a := n * secNs
  let b := (n + 1) * secNs
  let rs := s.ledger.recs.filter (fun r => x.zones.contains r.handle && decide (r.stamp < b ∧ a < r.endT))
  let xs := subIntervals x rs (edgesOf a b rs)
  let lost := ((xs.filter SubInterval.lost).map SubInterval.len).sum
  let marked := ((xs.filter SubInterval.marked).map SubInterval.len).sum
  let s1 := (List.range 3).foldl (fun t q => t.countNet i q (netOf xs q (fun _ => true)) (netOf xs q SubInterval.marked))
    (s.flushIntervals i n)
  let p := s1.point i
  let later := p.spans.any (fun y => decide (x.first < y.first ∧ y.first < y.next))
  let p1 : Point := { p with lostNs := (p.lostNs + lost) % 2 ^ 64, markedNs := (p.markedNs + marked) % 2 ^ 64
                             lastSec := if later then p.lastSec else n
                             hour := p.hour.take n rs lost marked, day := p.day.take n rs lost marked }
  let s2 := (s1.setPoint i (p1.mapSpan x.handle (fun y => { y with next := n + 1 }))).wrPair (R.LG_PT_i_LAST_LO_SEC_LO i)
    (R.LG_PT_i_LAST_HI_SEC_HI i) p1.lastSec
  let s3 := if 0 < lost then s2.wr (R.LG_PT_i_STATUS_LOST i) 1 else s2
  (if 0 < marked then s3.wr (R.LG_PT_i_STATUS_MARKED i) 1 else s3).flushIntervals i (n + 1)

/-- RECSEQ_NEXT. -/
def State.recseq (s : State) : Nat := s.rdPair R.LG_RECSEQ_LO_SEQ_LO R.LG_RECSEQ_HI_SEQ_HI

/-- An interval record joins the signing queue, or waits before those that wait for a commit until the queue has room (R185). -/
def State.recordOrWait (s : State) (body : List Byte) : State :=
  if s.signQ.length < 256 then { s with signQ := s.signQ ++ [{ type := 1, body := body }] }
  else { s with ledger := { s.ledger with due := ⟨0, body⟩ :: s.ledger.due } }

/-- CLEAR of the opening `x` (R165, R181): the KIND 3 record of the totals as they stood at the start of its first accounted second,
TOTALS_CLEARED with its RECSEQ, and totals of 0. DESIGN CHOICE (log entry 122): what the record's interval gathers is not stated, free
values. -/
def State.clearTotals (s : State) (i : Nat) (x : Span) : State :=
  let p := s.point i
  let f := fun k => Config.freeValue (s.free + k)
  let body := intervalBody i 3 p { start := some (f 0), zflags := f 1, ztags := f 2, lost := p.lostNs, marked := p.markedNs, dis := f 3, late := f 4 }
    (x.first * secNs)
  let n := s.recseq + s.signQ.length
  let s1 : State := { s with free := s.free + 5 }
  ((s1.recordOrWait body).event 0x13 i [n]).setPoint i
    ({ p with counters := [], rems := [], lostNs := 0, markedNs := 0 }.mapSpan x.handle (fun y => { y with clear := false }))

/-- The CLEAR of opening `h` of point `i` takes effect once the openings before it are accounted to their end (R165; log entry 122). -/
def State.settleClear (s : State) (i h : Nat) : State :=
  let p := s.point i
  match p.spans.find? (fun x => x.handle == h) with
  | none => s
  | some x => if x.clear && !p.waitsFor h then s.clearTotals i x else s

/-- Opening `h` of point `i` closes the seconds that are due at instant `k`, at most `n` of them; one with a CLEAR that waits closes
none (R170; log entry 122). -/
def State.closeDue (s : State) (k i h : Nat) : Nat → State
  | 0 => s
  | n + 1 => match (s.point i).spans.find? (fun x => x.handle == h) with
    | none => s
    | some x => if !x.done && !x.clear && decide (x.next + 1 + x.lag ≤ k) then (s.closeSecond i x x.next).closeDue k i h n else s

/-- Every opening of point `i` closes its seconds that are due at instant `k` (R170). -/
def State.pointInstant (s : State) (k i : Nat) : State :=
  (s.point i).spans.foldl (fun t x => (t.settleClear i x.handle).closeDue k i x.handle (k - x.next)) s

/-- The interval records of point `i` that need no further second of it, all before second `c` being closed by the open points
(R181). -/
def State.pointIntervals (s : State) (c i : Nat) : State :=
  s.flushIntervals i (((s.point i).pending.map Span.next).foldl min c)

/-- An entry of a commit bank (Table 7.6). -/
def pointEntry (p : Point) : List Byte :=
  if !p.defined then leBytes 256 0
  else
    leBytes 4 (1 + (if p.openSpan.isSome then 2 else 0)) ++ leBytes 4 (match p.openSpan with | some x => x.handle | none => 0) ++
    (List.range 12).flatMap (fun k => leBytes 12 (p.counter k)) ++ (List.range 12).flatMap (fun k => leBytes 2 (p.rems.getD k 0)) ++
    leBytes 8 p.lostNs ++ leBytes 8 p.markedNs ++ leBytes 8 p.lastSec ++ (p.digest ++ List.replicate (32 - p.digest.length) 0) ++ leBytes 24 0

/-- 32 bytes of a digest, zeros where there is none. -/
def digest32 (d : List Byte) : List Byte := d ++ List.replicate (32 - d.length) 0

/-- The bank of second `n` without its CRC (Table 7.5). -/
def State.bankImage (s : State) (n : Nat) : List Byte :=
  leBytes 4 0x4C474B42 ++ leBytes 2 1 ++ leBytes 2 0 ++ leBytes 8 n ++ leBytes 8 s.now ++ leBytes 8 s.recseq ++ digest32 s.ledger.chain ++
  leBytes 4 (s.rd R.CU_SEALCNT_COUNT) ++ leBytes 60 0 ++ (List.range 64).flatMap (fun i => pointEntry (s.point i))

/-- Hold offset of the bank of second `n` (Table 16.6, R174). -/
def bankBase (n : Nat) : Nat := 0x1000 + 0x5000 * (n % 2)

/-- Writes bytes into the Hold. -/
def State.holdWrite (s : State) (a : Nat) (bs : List Byte) : State := { s with hold := Tab.putList 0 s.hold a bs }

/-- Bytes of the Hold. -/
def State.holdBytes (s : State) (a n : Nat) : List Byte := Tab.getList 0 s.hold a n

/-- R174, R175: the commit of second `n` starts; one still in progress is abandoned, counted and recorded. -/
def State.startCommit (s : State) (n : Nat) : State :=
  let s1 := match s.ledger.commit with
    | some c => ((s.wr R.LG_STATUS_COMMIT_SKIP 1).inc R.LG_SKIP_CNT_COUNT).event 0x52 255 [c.sec]
    | none => s
  let image := s1.bankImage n
  { (s1.holdWrite (bankBase n) image) with ledger := { s1.ledger with commit := some ⟨n, image⟩, nextCommit := n + 1 } }

/-- The first second that some open point has not closed at instant `k`, openings that have closed not counted (R174); `k` with no
point open. -/
def State.closedBy (s : State) (k : Nat) : Nat :=
  (s.ledger.points.filterMap (fun e => e.2.openSpan.map Span.next)).foldl min k

/-- Alarm conditions of a zone (R183): DISAGREE, STATE_RANGE, TCHK and LOST, with the bit that ARGS carries. -/
def alarmConds (tag flags : Nat) : List (Nat × Bool) := [(0, bit flags 0), (4, bit flags 4), (7, bit flags 7), (16, hasTag tag tagLost)]

/-- R183: one condition of a zone in a record: ALARM_ON at its onset, ALARM_OFF after 60 records without it. -/
def State.alarmStep (s : State) (pid : Nat) (r : ZoneRec) (e : (Nat × Bool) × Nat) : State :=
  let key := 4 * r.handle + e.2
  let a := Tab.get {} s.ledger.alarms key
  let put := fun (t : State) (v : Alarm) => { t with ledger := { t.ledger with alarms := Tab.put {} t.ledger.alarms key v } }
  if e.1.2 then
    let s1 := put s ⟨true, 0⟩
    if a.on then s1 else s1.event 0x20 pid [r.handle, e.1.1, r.seq]
  else if a.on then
    if 60 ≤ a.clear + 1 then (put s {}).event 0x21 pid [r.handle, e.1.1, r.seq] else put s ⟨true, a.clear + 1⟩
  else s

/-- The zone of handle `h` is a zone of an open point. -/
def State.zoneWatched (s : State) (h : Nat) : Bool :=
  s.ledger.points.any (fun e => e.2.spans.any (fun x => x.last.isNone && x.zones.contains h))

/-- The alarms of the zones that are no longer zones of an open point end with their history (R183; log entry 122). -/
def State.pruneAlarms (s : State) : State :=
  { s with ledger := { s.ledger with alarms := s.ledger.alarms.filter (fun e => s.zoneWatched (e.1 / 4)) } }

/-- A point that names the zone has closed a second that the record overlaps (R173). -/
def Point.lateFor (p : Point) (r : ZoneRec) : Bool :=
  p.spans.any (fun x => x.zones.contains r.handle && decide (r.stamp < x.next * secNs ∧ x.first * secNs < r.endT ∧ x.first < x.next))

/-- R173, R183: the ledger takes a zone's record: late for a closed second, alarms, and its part for the seconds to come. -/
def State.ledgerTake (s : State) (r : ZoneRec) : State :=
  let named := s.ledger.points.filter (fun e => e.2.spans.any (fun x => x.zones.contains r.handle))
  if named.isEmpty then s
  else
    let late := named.filter (fun e => e.2.lateFor r)
    let s1 := late.foldl (fun t e =>
      let p := t.point e.1
      t.setPoint e.1 { p with hour := { p.hour with late := p.hour.late + 1 }, day := { p.day with late := p.day.late + 1 } }) s
    let s2 := match late with
      | [] => s1
      | e :: _ => ((s1.wr R.LG_STATUS_LATE 1).inc R.LG_LATE_CNT_COUNT).event 0x53 e.1 [r.handle, r.seq]
    let open_ := named.find? (fun e => e.2.spans.any (fun x => x.last.isNone && x.zones.contains r.handle))
    let s3 := match open_ with
      | none => s2
      | some e => (alarmConds r.tag r.flags).zipIdx.foldl (fun t c => t.alarmStep e.1 r c) s2
    { s3 with ledger := { s3.ledger with recs := s3.ledger.recs ++ [r] } }

/-- Drops the records that no second still to be closed overlaps. -/
def State.pruneRecs (s : State) : State :=
  let spans := s.ledger.points.flatMap (fun e => e.2.pending)
  { s with ledger := { s.ledger with recs := s.ledger.recs.filter (fun r =>
      spans.any (fun x => x.zones.contains r.handle && decide (x.next * secNs < r.endT))) } }

end Sys2Proof.Machine
end

