-- ==== Sys2Proof/Machine/Budget.lean ====
section
/-! DEFINITION. Chapter 02: device time, and the accounting of a tide: serving order, overrun, carried work (R40 to R50). -/

namespace Sys2Proof.Machine

/-- The allocable budget of engine `n` under share `sh` (R41). -/
def allocable (n sh : Nat) : Nat := Config.budgetCap n * sh / 256

/-- The allocable budget of engine `n` under the active manifest. -/
def State.budget (s : State) (n : Nat) : Nat := allocable n (s.rd (R.HB_BUDGET_SHARE_n_SHARE n))

/-- Entry `n` of a cost or credit vector. -/
def vecAt (v : List Nat) (n : Nat) : Nat := v.getD n 0

/-- The berth at an index. -/
def State.berth (s : State) (i : Nat) : Berth := Tab.get {} s.berths i

/-- Sets the berth at an index. -/
def State.setBerth (s : State) (i : Nat) (b : Berth) : State := { s with berths := Tab.put {} s.berths i b }

/-- A berth that is at work: open, or open with a close accepted. -/
def Berth.isOpen (b : Berth) : Bool := b.state == .open || b.state == .closing

/-- The indexes of the berths at work, ascending. -/
def State.openBerths (s : State) : List Nat := (s.berths.filter (fun e => e.2.isOpen)).map Prod.fst

/-- A berth is open or pending (R57, Table 2.8 check 10). -/
def State.anyBerth (s : State) : Bool := s.berths.any (fun e => e.2.isOpen) || !s.coming.isEmpty

/-- What a berth's arrived work amounts to. -/
def demandOf (loads : List (Nat × Nat)) (b : Nat) : Nat := ((loads.filter (fun l => l.1 == b)).map Prod.snd).sum

/-- Serves the wants in order out of `cap`, and gives what each received (R47). -/
def serve (cap : Nat) : List Nat → List Nat
  | [] => []
  | w :: ws => min w cap :: serve (cap - min w cap) ws

/-- One engine's tide: what was used, what each berth has undone and consumed of excess, what allowance it left, and the carried work that was
left, by berth. -/
structure EngineTide where
  used : Nat
  undone : List (Nat × Nat)
  excess : List (Nat × Nat)
  allowLeft : List (Nat × Nat)
  carryLeft : List (Nat × Nat)
  deriving DecidableEq, Repr

/-- The tide of engine `n` in the four tiers of R47, over the berths at work in ascending index and then the host, which has no entry. The
reserve's own work comes after the first tier, which always completes (log entry 118). -/
def engineTide (cap n reserve : Nat) (bs : List (Nat × Berth)) (loads carried : List (Nat × Nat)) : EngineTide :=
  let ids := bs.map Prod.fst ++ [4096]
  let cost := bs.map (fun e => vecAt e.2.cost n) ++ [0]
  let allow := bs.map (fun e => vecAt e.2.cost n + vecAt e.2.credit n) ++ [0]
  let dem := ids.map (demandOf loads)
  let w1 := List.zipWith min dem cost
  let w2 := List.zipWith (fun d ca => min d ca.2 - min d ca.1) dem (cost.zip allow)
  let w3 := carried.map Prod.snd
  let w4 := List.zipWith (fun d a => d - a) dem allow
  let k := ids.length
  let got := serve cap (w1 ++ reserve :: w2 ++ w3 ++ w4)
  let g1 := got.take k
  let g2 := (got.drop (k + 1)).take k
  let g3 := (got.drop (2 * k + 1)).take w3.length
  let g4 := got.drop (2 * k + 1 + w3.length)
  let done := List.zipWith (· + ·) (List.zipWith (· + ·) g1 g2) g4
  { used := got.sum
    undone := ids.zip (List.zipWith (· - ·) dem done)
    excess := ids.zip g4
    allowLeft := (ids.zip (List.zipWith (· - ·) allow (List.zipWith (· + ·) g1 g2))).take bs.length
    carryLeft := (carried.map Prod.fst).zip (List.zipWith (· - ·) w3 g3) }

/-- The latest-arriving parts of the loads that are undone, walking the loads from the last to the first. -/
def tailPart (undone : List (Nat × Nat)) : List (Nat × Nat) → List (Nat × Nat) → List (Nat × Nat)
  | [], acc => acc
  | l :: ls, acc =>
    let left := ((undone.find? (fun e => e.1 == l.1)).map Prod.snd).getD 0
    let part := min l.2 left
    tailPart (undone.map (fun e => if e.1 = l.1 then (e.1, e.2 - part) else e)) ls (if part = 0 then acc else (l.1, part) :: acc)

/-- The work carried into the next tide, oldest first across all berths (R47). -/
def carriedOf (undone loads : List (Nat × Nat)) : List (Nat × Nat) := tailPart undone loads.reverse []

/-- The first entry with the largest nonzero value; the lowest index among equals (R50). -/
def largest : List (Nat × Nat) → Option (Nat × Nat)
  | [] => none
  | e :: es => match largest es with
    | none => if e.2 = 0 then none else some e
    | some m => if m.2 ≤ e.2 then some e else some m

/-- R48, R50: engine `n` overruns: TIDE_OVR and the counters move, and HB_OVR_BERTH latches the berth of the largest excess
if OVR read all zero before. -/
def State.overrun (s : State) (n : Nat) (e : EngineTide) : State :=
  let s1 := match largest e.excess with
    | some m => if s.rd R.HB_TIDE_STATUS_OVR = 0 then s.wr R.HB_OVR_BERTH_HANDLE (s.berth m.1).handle else s
    | none => s
  (((s1.wrBit R.HB_TIDE_STATUS_OVR n true).wr R.HB_TIDE_STATUS_TIDE_OVR 1).inc R.HB_TIDE_OVR_COUNT).inc
    (R.HB_TIDE_OVR_n_OVERRUNS n)

/-- The credit a berth takes into the next tide on engine `n` (R46). -/
def setCredit (b : Berth) (n left : Nat) : Berth :=
  { b with credit := (b.credit ++ List.replicate (20 - b.credit.length) 0).set n (min left (vecAt b.cost n)) }

/-- A queued job of an engine of the closing tide `k` is not complete (R48): a Tug's chain, a Pier job, a packing job. -/
def State.jobsBehind (s : State) (n k : Nat) : Bool :=
  if 5 ≤ n ∧ n ≤ 12 then
    let x := Tab.get {} s.tugs (n - 5)
    x.queues.any (fun q => q.2.any (fun h => h.tide == k)) || x.run.any (fun r => r.tide == k)
  else if 1 ≤ n ∧ n ≤ 4 then
    (Tab.get {} s.clusters (n - 1)).queue.any (fun j => j.posted == k) ||
      (List.range 4).any (fun i => (Tab.get {} s.cores (4 * (n - 1) + i)).job.any (fun j => j.posted == k))
  else if n = 17 then s.packs.any (fun e => e.2.queue.any (fun j => j.tide == k) || e.2.run.any (fun j => j.tide == k))
  else false

/-- Engine `n` closes tide `k`: use and peak are latched, overrun and drops are evaluated, undone work is carried, and credit is renewed (R46 to
R50, Table 2.1 step 3). Carried work that is still undone is discarded, and what depended on it is lost (R49). -/
def State.closeEngine (loads : List TideLoad) (reserve : List Nat) (s : State) (n : Nat) : State :=
  let k := tideOf s.now
  let bs := s.berths.filter (fun e => e.2.isOpen)
  let w := Tab.get [] s.work n
  let own := w.filter (fun e => e.1 ≤ 4096) ++ (loads.filter (fun l => l.engine == n)).map (fun l => (l.berth, l.amount))
  let e := engineTide (Config.budgetCap n) n (vecAt reserve n + demandOf w 4097) bs own (Tab.get [] s.carried n)
  let s1 := (s.wr (R.HB_BUDGET_USED_n_USED n) e.used).wr (R.HB_BUDGET_PEAK_n_PEAK n) (max e.used (s.rd (R.HB_BUDGET_PEAK_n_PEAK n)))
  let s2 := if e.undone.any (fun u => decide (0 < u.2)) || s.jobsBehind n k then s1.overrun n e else s1
  let lost := e.carryLeft.filter (fun u => decide (0 < u.2))
  let s3 := if !lost.isEmpty || (decide (0 < k) && s.jobsBehind n (k - 1)) then s2.inc (R.HB_TIDE_OVR_n_DROPS n) else s2
  let c := carriedOf e.undone own
  let s4 : State := { s3 with carried := Tab.put [] s3.carried n c, late := Tab.put [] s3.late n c, work := Tab.put [] s3.work n []
                              cutWork := Tab.put [] s3.cutWork n (Tab.get [] s3.cutWork n ++ lost) }
  e.allowLeft.foldl (fun t u => t.setBerth u.1 (setCredit (t.berth u.1) n u.2)) s4

/-- Table 2.1 step 3: every engine latches its consumption and evaluates overrun, engine 0 first: of two engines that overrun at one boundary the
lower one sets its bit first, and only it can move HB_OVR_BERTH (log entry 118). -/
def State.closeTide (s : State) (loads : List TideLoad) (reserve : List Nat) : State :=
  (List.range 20).foldl (fun t n => t.closeEngine loads reserve n) s

/-- Takes up to `n` of the amounts of berth `b`, oldest first: the rest, and what was taken. -/
def takeOf (b : Nat) : Nat → List (Nat × Nat) → List (Nat × Nat) × Nat
  | _, [] => ([], 0)
  | n, e :: es =>
    if e.1 = b then
      let x := min n e.2
      let r := takeOf b (n - x) es
      (if e.2 = x then r.1 else (e.1, e.2 - x) :: r.1, x + r.2)
    else
      let r := takeOf b n es
      (e :: r.1, r.2)

/-- Engine `n` charges `amount` engine-ns to an owner in this tide. -/
def State.chargeTo (s : State) (n owner amount : Nat) : State :=
  if amount = 0 then s else { s with work := Tab.put [] s.work n (Tab.get [] s.work n ++ [(owner, amount)]) }

/-- R48, R49 for an output of berth `b` whose work on engine `n` is `amount`: work that was discarded loses it, work carried into this tide gives
it TIDE, and the rest is work of this tide. The tags that the output gains. -/
def State.spend (s : State) (n b amount : Nat) : State × Nat :=
  let x := takeOf b amount (Tab.get [] s.cutWork n)
  let y := takeOf b (amount - x.2) (Tab.get [] s.late n)
  let s1 : State := { s with cutWork := Tab.put [] s.cutWork n x.1, late := Tab.put [] s.late n y.1 }
  (s1.chargeTo n b (amount - x.2 - y.2), tagIf (decide (0 < x.2)) tagLost ||| tagIf (decide (0 < y.2)) tagTide)

/-- The first of the least by a key. -/
def leastBy {α : Type} (key : α → Nat) : List α → Option α
  | [] => none
  | x :: xs => match leastBy key xs with
    | none => some x
    | some y => if key y < key x then some y else some x

/-- The piece of the least owner, and of that owner's the one that arrived first (R47). -/
def leastWork {α : Type} (owner seq : α → Nat) (xs : List α) : Option α := match leastBy owner xs with
  | none => none
  | some x => leastBy seq (xs.filter (fun y => owner y == owner x))

/-- The next piece of work that engine `n` serves (R47): of owners below their cost entry, then below their allowance, each by ascending index;
then of earlier tides by arrival; then the rest by ascending index. `used` is what each owner has consumed in this tide; the host, index 4,096,
has no allowance. -/
def State.nextWork {α : Type} (s : State) (n : Nat) (used : Nat → Nat) (owner tide seq : α → Nat) (xs : List α) : Option α :=
  let cost := fun o => if o = 4096 then 0 else vecAt (s.berth o).cost n
  let allow := fun o => if o = 4096 then 0 else vecAt (s.berth o).cost n + vecAt (s.berth o).credit n
  (leastWork owner seq (xs.filter (fun x => decide (used (owner x) < cost (owner x)))))
    |>.or (leastWork owner seq (xs.filter (fun x => decide (used (owner x) < allow (owner x)))))
    |>.or (leastBy seq (xs.filter (fun x => decide (tide x < tideOf s.now))))
    |>.or (leastWork owner seq xs)

/-- R25, R404: the value, limited to ±200 ppm, is stored and waits to land; it replaces one that still waits. -/
def execTimeRateWrite (value : Word) (s : State) : Res := s.live fun s =>
  let v := max (-858993) (min value.toInt 858993)
  let s1 := (s.dropWaiting (fun c => match c with | .rate _ => true | _ => false)).wr R.HB_TIME_RATE_RATE (ofSigned 32 v)
  goOn (s1.accept (.rate v))

/-- R405: the step of the 64-bit value written, rounded down to whole tides, is accepted; one that rounds to 0, one while VALID
is 1 and one while another waits are discarded. STEP_HI stores the written word. -/
def execTimeStepRequest (hi : Word) (s : State) : Res := s.live fun s =>
  let s0 := s.wr R.HB_TIME_STEP_HI_STEP_HI hi.toNat
  let v := s0.rdPair R.HB_TIME_STEP_LO_STEP_LO R.HB_TIME_STEP_HI_STEP_HI / 131072 * 131072
  if v = 0 ∨ s.on R.HB_TIME_STATUS_VALID ∨ s.on R.HB_TIME_STATUS_STEP_PENDING then goOn s0
  else goOn ((s0.wr R.HB_TIME_STATUS_STEP_PENDING 1).accept (.timeStep v))

/-- R57: STATE becomes CHECKING and the image's place is taken; discarded while STATE is CHECKING or PENDING. -/
def execManifestLoad (s : State) : Res := s.live fun s =>
  if s.rd R.HB_MF_STATUS_STATE = 1 ∨ s.rd R.HB_MF_STATUS_STATE = 2 then goOn s
  else goOn { (((s.wr R.HB_MF_STATUS_STATE 1).wr R.HB_MF_STATUS_ERR 0).wr R.HB_MF_STATUS_SECTION 255) with mfCheck := some (s.rd R.HB_MF_OFFSET_OFFSET, s.rd R.HB_MF_LEN_LEN) }

end Sys2Proof.Machine
end

