-- ==== Sys2Proof/Machine/Numeric.lean ====
section
/-! DEFINITION. The real functions that the spec's formulas use, over whole numbers and rationals: arg and logarithm limits exactly, the
others in fixed point far beyond any field's unit (log entry 113). -/

namespace Sys2Proof.Machine

/-- A value rounded to nearest, a half away from zero (R476). -/
def roundHalf (x : Rat) : Int := if 0 ≤ x then (x + 1 / 2).floor else -((-x + 1 / 2).floor)

/-- A value rounded to nearest, a half to the even neighbour (R117, R144). -/
def roundEven (x : Rat) : Int :=
  let f := x.floor
  if x - f < 1 / 2 then f else if 1 / 2 < x - f then f + 1 else if f % 2 = 0 then f else f + 1

/-- The first `w` bits of arg(re + j·im) as a fraction of a turn: the angle lies in the lower half plane or not, and squaring doubles it. -/
def turnBits : Nat → Int → Int → Nat
  | 0, _, _ => 0
  | w + 1, re, im => (if im < 0 ∨ (im = 0 ∧ re < 0) then 2 ^ w else 0) + turnBits w (re * re - im * im) (2 * re * im)

/-- A complex number of rationals. -/
abbrev Cx := Rat × Rat

/-- The first `w` bits of an angle as a fraction of a turn, in fixed point: each doubling is cut back to 256 bits. -/
def angleBits : Nat → Int → Int → Nat
  | 0, _, _ => 0
  | w + 1, re, im =>
    let a := re * re - im * im
    let b := 2 * re * im
    let k := Nat.log2 (max a.natAbs b.natAbs) - 255
    (if im < 0 ∨ (im = 0 ∧ re < 0) then 2 ^ w else 0) + angleBits w (a / 2 ^ k) (b / 2 ^ k)

/-- arg of a complex number in turns, from −1/2 up to 1/2, to 2^-48; arg of 0 is not defined and open. -/
def argTurns (z : Cx) : Rat :=
  if z = (0, 0) then (toSigned 16 Config.argOfZero : Rat) / 65536
  else
    let m := (max (z.1.num * z.2.den).natAbs (z.2.num * z.1.den).natAbs).log2
    let k : Rat := 2 ^ 255 * (z.1.den * z.2.den : Nat) / 2 ^ m
    (toSigned 48 (angleBits 48 (z.1 * k).floor (z.2 * k).floor) : Rat) / 2 ^ 48

/-- The sum of complex numbers. -/
def cxSum (zs : List Cx) : Cx := zs.foldl (fun a z => (a.1 + z.1, a.2 + z.2)) (0, 0)

/-- The product of two complex numbers. -/
def cxMul (a b : Cx) : Cx := (a.1 * b.1 - a.2 * b.2, a.1 * b.2 + a.2 * b.1)

/-- The conjugate. -/
def cxConj (a : Cx) : Cx := (a.1, -a.2)

/-- The square of the magnitude. -/
def cxNorm (a : Cx) : Rat := a.1 * a.1 + a.2 * a.2

/-- arg of a complex number in units of 2π/65,536, rounded to nearest (R93, R95); arg of 0 is not defined and open. -/
def argUnits (z : Cx) : Nat :=
  if z = (0, 0) then Config.argOfZero % 65536
  else (turnBits 17 (z.1.num * z.2.den) (z.2.num * z.1.den) + 1) / 2 % 65536

/-- The scale of the fixed point. -/
def fx : Nat := 2 ^ 160

/-- The product of two fixed-point numbers. -/
def fxMul (a b : Int) : Int := a * b / fx

/-- π to 50 decimals. -/
def piRat : Rat := 314159265358979323846264338327950288419716939937511 / 10 ^ 50

/-- cos and sin of a small fixed-point angle by their series. -/
def cisSmall (x : Int) : Int × Int :=
  let q := fxMul x x
  let f := fun (c : Int) (d : Int) => (fx : Int) - fxMul q c / d
  (f (f (f (f (f (f fx 132) 90) 56) 30) 12) 2, fxMul x (f (f (f (f (f fx 110) 72) 42) 20) 6))

/-- A unit complex number turned by its own angle, `k` times. -/
def cisDouble : Nat → Int × Int → Int × Int
  | 0, z => z
  | k + 1, z => cisDouble k (fxMul z.1 z.1 - fxMul z.2 z.2, 2 * fxMul z.1 z.2)

/-- exp(j·2π·r) for `r` turns. -/
def cis (r : Rat) : Cx :=
  let z := cisDouble 16 (cisSmall ((2 * piRat * (r - r.floor) * fx / 65536).floor))
  ((z.1 : Rat) / fx, (z.2 : Rat) / fx)

/-- The greatest root of at most `x`, bit by bit from bit `i - 1` down, above `r`. -/
def rootBits (x : Nat) : Nat → Nat → Nat
  | 0, r => r
  | i + 1, r => rootBits x i (if (r + 2 ^ i) * (r + 2 ^ i) ≤ x then r + 2 ^ i else r)

/-- The integer square root, rounded down. -/
def natRoot (x : Nat) : Nat := rootBits x (Nat.log2 x / 2 + 1) 0

/-- The square root of a rational, rounded down to 2^-80. -/
def sqrtRat (x : Rat) : Rat := (natRoot (x * 2 ^ 160).floor.toNat : Rat) / 2 ^ 80

/-- `w` bits of log2 of a fixed-point number from 1 up to 2, by squaring. -/
def log2Bits : Nat → Nat → Nat
  | 0, _ => 0
  | w + 1, m =>
    let q := m * m / fx
    if 2 * fx ≤ q then 2 ^ w + log2Bits w (q / 2) else log2Bits w q

/-- log2 of a positive rational to 2^-80. -/
def log2Rat (x : Rat) : Rat :=
  let n := x.num.toNat
  let e : Int := (Nat.log2 n : Int) - Nat.log2 x.den
  let m := if 0 ≤ e then n * fx / (x.den * 2 ^ e.toNat) else n * 2 ^ (-e).toNat * fx / x.den
  let e1 := if m < fx then e - 1 else e
  let m1 := if m < fx then 2 * m else m
  (e1 : Rat) + (log2Bits 80 m1 : Rat) / 2 ^ 80

/-- The exponential of a rational, through its 65,536th part. -/
def expRat (x : Rat) : Rat :=
  let y : Int := (x * fx / 65536).floor
  let s := (List.range 20).foldl (fun (a : Int × Int) i => let t := fxMul a.2 y / (i + 1 : Nat); (a.1 + t, t)) ((fx : Int), (fx : Int))
  (((List.range 16).foldl (fun z _ => fxMul z z) s.1 : Int) : Rat) / fx

/-- log10 of a positive rational. -/
def log10Rat (x : Rat) : Rat := log2Rat x / log2Rat 10

/-- ln of a positive rational: log2 x / log2 e. -/
def lnRat (x : Rat) : Rat := log2Rat x / (144269504088896340735992468100189213742664595415298593 / 10 ^ 53)

/-- The number of q from 1 to 255 with q − 1/2 ≤ 40·log10(√(a/b)), that is 10^(2q−1) ≤ (a/b)^40: the rounded logarithm limited to 0 to 255
(R97). -/
def qualCount (a b : Rat) : Nat := ((List.range 255).filter (fun q => decide (10 ^ (2 * q + 1) * b ^ 40 ≤ a ^ 40))).length

/-- Halves an interval `k` times towards the point where a test changes from true to false. -/
def bisect (test : Rat → Bool) : Nat → Rat → Rat → Rat
  | 0, lo, hi => (lo + hi) / 2
  | k + 1, lo, hi => if test ((lo + hi) / 2) then bisect test k ((lo + hi) / 2) hi else bisect test k lo ((lo + hi) / 2)

end Sys2Proof.Machine
end

