-- ==== Sys2Proof/Machine/RegMap.lean ====
section
/-! DEFINITION. The register window row by row: name, byte address of the first instance, instance strides and counts, and
the fields with their access codes (Table 0.4). `own` marks a field whose write has a row of its own in the command table
(R3's row is for the others); a list of ranges gives the encodings a field accepts where the table reserves the others (R8). -/

namespace Sys2Proof.Machine

/-- Access codes of Table 0.4 (R3); `own` is a writable field whose write is a command of its own. -/
inductive Acc where
  | ro | rw | w1c | w1s | rc | wo | rwl | own
  deriving DecidableEq, Repr

/-- One field of a register row: lowest bit, width, access, reset value and accepted encodings (all of them if the list is empty). -/
structure FRow where
  lo : Nat
  width : Nat
  acc : Acc
  reset : Nat
  legal : List (Nat × Nat) := []
  deriving DecidableEq, Repr

/-- One register row: its name, the byte address of its first instance, the strides and counts of its instances, its fields. -/
structure RegRow where
  name : String
  base : Nat
  dims : List (Nat × Nat) := []
  fields : List FRow := []
  deriving DecidableEq, Repr

/-- Rows of Table 1.10. -/
def regs1_10_0 : List RegRow := [
  ⟨"HB_ID", 0x0, [],
    [⟨16, 16, .ro, 33064, []⟩,
     ⟨8, 8, .ro, 1, []⟩,
     ⟨4, 4, .ro, 0, []⟩,
     ⟨0, 4, .ro, 0, []⟩]⟩,
  ⟨"HB_TIME_LO", 0x8, [],
    [⟨0, 32, .ro, 0, []⟩]⟩,
  ⟨"HB_TIME_HI", 0xC, [],
    [⟨0, 32, .ro, 0, []⟩]⟩,
  ⟨"HB_TIDE_LO", 0x10, [],
    [⟨0, 32, .ro, 0, []⟩]⟩,
  ⟨"HB_TIDE_HI", 0x14, [],
    [⟨0, 15, .ro, 0, []⟩]⟩,
  ⟨"HB_TIME_STATUS", 0x18, [],
    [⟨8, 1, .ro, 0, []⟩,
     ⟨4, 4, .ro, 0, []⟩,
     ⟨3, 1, .w1c, 0, []⟩,
     ⟨2, 1, .ro, 0, []⟩,
     ⟨1, 1, .ro, 0, []⟩,
     ⟨0, 1, .ro, 0, []⟩]⟩,
  ⟨"HB_CLK_STATUS", 0x1C, [],
    [⟨31, 1, .w1c, 0, []⟩,
     ⟨0, 7, .ro, 0, []⟩]⟩,
  ⟨"HB_LINK_STATUS", 0x20, [],
    [⟨16, 10, .w1c, 0, []⟩,
     ⟨0, 10, .ro, 0, []⟩]⟩,
  ⟨"HB_ERR_STATUS", 0x24, [],
    [⟨2, 1, .w1c, 0, []⟩,
     ⟨1, 1, .w1c, 0, []⟩,
     ⟨0, 1, .w1c, 0, []⟩]⟩,
  ⟨"HB_UNMAPPED_ADDR", 0x28, [],
    [⟨0, 27, .ro, 0, []⟩]⟩,
  ⟨"HB_LINK_CNT_n", 0x40, [(0x4, 10)],
    [⟨16, 16, .rc, 0, []⟩,
     ⟨0, 16, .rc, 0, []⟩]⟩]

/-- Rows of Table 2.10. -/
def regs2_10_0 : List RegRow := [
  ⟨"HB_TIDE_STATUS", 0x1000, [],
    [⟨20, 1, .w1c, 0, []⟩,
     ⟨0, 20, .w1c, 0, []⟩]⟩,
  ⟨"HB_TIDE_OVR", 0x1004, [],
    [⟨0, 32, .rc, 0, []⟩]⟩,
  ⟨"HB_OVR_BERTH", 0x1008, [],
    [⟨0, 32, .ro, 0, []⟩]⟩,
  ⟨"HB_LAND_LO", 0x1010, [],
    [⟨0, 32, .ro, 0, []⟩]⟩,
  ⟨"HB_LAND_HI", 0x1014, [],
    [⟨0, 15, .ro, 0, []⟩]⟩,
  ⟨"HB_BUDGET_CAP_0", 0x1100, [],
    [⟨0, 32, .ro, 2097152, []⟩]⟩,
  ⟨"HB_BUDGET_CAP_1", 0x1104, [],
    [⟨0, 32, .ro, 524288, []⟩]⟩,
  ⟨"HB_BUDGET_CAP_2", 0x1108, [],
    [⟨0, 32, .ro, 524288, []⟩]⟩,
  ⟨"HB_BUDGET_CAP_3", 0x110C, [],
    [⟨0, 32, .ro, 524288, []⟩]⟩,
  ⟨"HB_BUDGET_CAP_4", 0x1110, [],
    [⟨0, 32, .ro, 524288, []⟩]⟩,
  ⟨"HB_BUDGET_CAP_5", 0x1114, [],
    [⟨0, 32, .ro, 131072, []⟩]⟩,
  ⟨"HB_BUDGET_CAP_6", 0x1118, [],
    [⟨0, 32, .ro, 131072, []⟩]⟩,
  ⟨"HB_BUDGET_CAP_7", 0x111C, [],
    [⟨0, 32, .ro, 131072, []⟩]⟩,
  ⟨"HB_BUDGET_CAP_8", 0x1120, [],
    [⟨0, 32, .ro, 131072, []⟩]⟩,
  ⟨"HB_BUDGET_CAP_9", 0x1124, [],
    [⟨0, 32, .ro, 131072, []⟩]⟩,
  ⟨"HB_BUDGET_CAP_10", 0x1128, [],
    [⟨0, 32, .ro, 131072, []⟩]⟩,
  ⟨"HB_BUDGET_CAP_11", 0x112C, [],
    [⟨0, 32, .ro, 131072, []⟩]⟩,
  ⟨"HB_BUDGET_CAP_12", 0x1130, [],
    [⟨0, 32, .ro, 131072, []⟩]⟩,
  ⟨"HB_BUDGET_CAP_13", 0x1134, [],
    [⟨0, 32, .ro, 262144, []⟩]⟩,
  ⟨"HB_BUDGET_CAP_14", 0x1138, [],
    [⟨0, 32, .ro, 262144, []⟩]⟩,
  ⟨"HB_BUDGET_CAP_15", 0x113C, [],
    [⟨0, 32, .ro, 262144, []⟩]⟩,
  ⟨"HB_BUDGET_CAP_16", 0x1140, [],
    [⟨0, 32, .ro, 262144, []⟩]⟩,
  ⟨"HB_BUDGET_CAP_17", 0x1144, [],
    [⟨0, 32, .ro, 262144, []⟩]⟩,
  ⟨"HB_BUDGET_CAP_18", 0x1148, [],
    [⟨0, 32, .ro, 131072, []⟩]⟩]

/-- Rows of Table 2.10. -/
def regs2_10_1 : List RegRow := [
  ⟨"HB_BUDGET_CAP_19", 0x114C, [],
    [⟨0, 32, .ro, 262144, []⟩]⟩,
  ⟨"HB_BUDGET_SHARE_n", 0x1180, [(0x4, 20)],
    [⟨0, 8, .ro, 0, []⟩]⟩,
  ⟨"HB_BUDGET_ALLOC_n", 0x1200, [(0x4, 20)],
    [⟨0, 32, .ro, 0, []⟩]⟩,
  ⟨"HB_BUDGET_USED_n", 0x1280, [(0x4, 20)],
    [⟨0, 32, .ro, 0, []⟩]⟩,
  ⟨"HB_BUDGET_PEAK_n", 0x1300, [(0x4, 20)],
    [⟨0, 32, .rc, 0, []⟩]⟩,
  ⟨"HB_TIDE_OVR_n", 0x1380, [(0x4, 20)],
    [⟨16, 16, .rc, 0, []⟩,
     ⟨0, 16, .rc, 0, []⟩]⟩,
  ⟨"HB_MF_OFFSET", 0x1800, [],
    [⟨0, 26, .rw, 0, []⟩]⟩,
  ⟨"HB_MF_LEN", 0x1804, [],
    [⟨0, 23, .rw, 0, [(0, 4194304)]⟩]⟩,
  ⟨"HB_MF_CTL", 0x1808, [],
    [⟨0, 1, .own, 0, []⟩]⟩,
  ⟨"HB_MF_STATUS", 0x180C, [],
    [⟨24, 8, .ro, 0, []⟩,
     ⟨8, 8, .ro, 0, []⟩,
     ⟨0, 3, .ro, 0, []⟩]⟩,
  ⟨"HB_MF_SCHEMA", 0x1810, [],
    [⟨16, 16, .ro, 259, []⟩,
     ⟨0, 16, .ro, 256, []⟩]⟩,
  ⟨"HB_MF_BUILD_LO", 0x1818, [],
    [⟨0, 32, .ro, 0, []⟩]⟩,
  ⟨"HB_MF_BUILD_HI", 0x181C, [],
    [⟨0, 32, .ro, 0, []⟩]⟩]

/-- Rows of Table 3.5. -/
def regs3_5_0 : List RegRow := [
  ⟨"QY_CTL", 0x400000, [(0x10000, 8)],
    [⟨2, 1, .own, 0, []⟩,
     ⟨1, 1, .rw, 0, []⟩,
     ⟨0, 1, .own, 0, []⟩]⟩,
  ⟨"QY_STATUS", 0x400004, [(0x10000, 8)],
    [⟨7, 1, .w1c, 0, []⟩,
     ⟨6, 1, .w1c, 0, []⟩,
     ⟨5, 1, .w1c, 0, []⟩,
     ⟨4, 1, .ro, 0, []⟩,
     ⟨3, 1, .ro, 0, []⟩,
     ⟨2, 1, .ro, 0, []⟩,
     ⟨0, 2, .ro, 0, []⟩]⟩,
  ⟨"QY_PLAN_SEL", 0x400008, [(0x10000, 8)],
    [⟨0, 2, .own, 0, []⟩]⟩,
  ⟨"QY_PLAN_STATUS", 0x40000C, [(0x10000, 8)],
    [⟨8, 8, .ro, 0, []⟩,
     ⟨0, 2, .ro, 0, []⟩]⟩,
  ⟨"QY_EPOCH_LO", 0x400010, [(0x10000, 8)],
    [⟨0, 32, .ro, 0, []⟩]⟩,
  ⟨"QY_EPOCH_HI", 0x400014, [(0x10000, 8)],
    [⟨0, 32, .ro, 0, []⟩]⟩,
  ⟨"QY_LAUNCH_LO", 0x400018, [(0x10000, 8)],
    [⟨0, 32, .ro, 0, []⟩]⟩,
  ⟨"QY_LAUNCH_HI", 0x40001C, [(0x10000, 8)],
    [⟨0, 32, .ro, 0, []⟩]⟩,
  ⟨"QY_CLAMP_CNT", 0x400020, [(0x10000, 8)],
    [⟨0, 32, .rc, 0, []⟩]⟩,
  ⟨"QY_MISS_CNT", 0x400024, [(0x10000, 8)],
    [⟨0, 32, .rc, 0, []⟩]⟩,
  ⟨"QY_LGA_CFG", 0x400030, [(0x10000, 8)],
    [⟨8, 8, .rw, 0, []⟩,
     ⟨0, 8, .rw, 0, []⟩]⟩,
  ⟨"QY_LGT_CFG", 0x400034, [(0x10000, 8)],
    [⟨31, 1, .own, 0, []⟩,
     ⟨0, 9, .own, 0, [(2, 511)]⟩]⟩,
  ⟨"QY_LGT_PERIOD", 0x400038, [(0x10000, 8)],
    [⟨0, 18, .own, 2500, [(2500, 262143)]⟩]⟩,
  ⟨"QY_LGT_DLY", 0x40003C, [(0x10000, 8)],
    [⟨0, 16, .ro, 0, []⟩]⟩,
  ⟨"QY_SPI_CFG", 0x400040, [(0x10000, 8)],
    [⟨8, 8, .rw, 24, []⟩,
     ⟨3, 1, .rw, 0, []⟩,
     ⟨2, 1, .rw, 0, []⟩,
     ⟨0, 1, .rw, 0, []⟩]⟩,
  ⟨"QY_SPI_CMD", 0x400044, [(0x10000, 8)],
    [⟨4, 1, .own, 0, []⟩,
     ⟨3, 1, .own, 0, []⟩,
     ⟨2, 1, .own, 0, []⟩,
     ⟨0, 2, .own, 0, []⟩]⟩,
  ⟨"QY_SPI_TXD", 0x400048, [(0x10000, 8)],
    [⟨0, 32, .rw, 0, []⟩]⟩,
  ⟨"QY_SPI_RXD", 0x40004C, [(0x10000, 8)],
    [⟨0, 32, .ro, 0, []⟩]⟩,
  ⟨"QY_SPI_STATUS", 0x400050, [(0x10000, 8)],
    [⟨16, 5, .ro, 0, []⟩,
     ⟨8, 5, .ro, 0, []⟩,
     ⟨0, 1, .ro, 0, []⟩]⟩,
  ⟨"QY_GPIO_CFG", 0x400060, [(0x10000, 8)],
    [⟨3, 1, .own, 0, []⟩,
     ⟨7, 1, .own, 0, []⟩,
     ⟨11, 1, .own, 0, []⟩,
     ⟨15, 1, .own, 0, []⟩,
     ⟨2, 1, .own, 0, []⟩,
     ⟨6, 1, .own, 0, []⟩,
     ⟨10, 1, .own, 0, []⟩,
     ⟨14, 1, .own, 0, []⟩,
     ⟨0, 2, .own, 0, [(0, 2)]⟩,
     ⟨4, 2, .own, 0, [(0, 2)]⟩,
     ⟨8, 2, .own, 0, [(0, 2)]⟩,
     ⟨12, 2, .own, 0, [(0, 2)]⟩]⟩,
  ⟨"QY_GPIO_OUT", 0x400064, [(0x10000, 8)],
    [⟨0, 4, .own, 0, []⟩]⟩,
  ⟨"QY_GPIO_IN", 0x400068, [(0x10000, 8)],
    [⟨0, 4, .ro, 0, []⟩]⟩,
  ⟨"QY_PLAN_p_CFG", 0x400100, [(0x10000, 8), (0x20, 4)],
    [⟨31, 1, .ro, 0, []⟩,
     ⟨11, 1, .ro, 0, []⟩,
     ⟨8, 2, .ro, 0, []⟩,
     ⟨4, 3, .ro, 0, []⟩,
     ⟨0, 3, .ro, 0, []⟩]⟩,
  ⟨"QY_PLAN_p_PERIOD", 0x400104, [(0x10000, 8), (0x20, 4)],
    [⟨0, 18, .ro, 0, []⟩]⟩]

/-- Rows of Table 3.5. -/
def regs3_5_1 : List RegRow := [
  ⟨"QY_PLAN_p_LINT", 0x400108, [(0x10000, 8), (0x20, 4)],
    [⟨0, 17, .ro, 0, []⟩]⟩,
  ⟨"QY_PLAN_p_NG", 0x40010C, [(0x10000, 8), (0x20, 4)],
    [⟨0, 24, .ro, 0, []⟩]⟩,
  ⟨"QY_PLAN_p_WAVE", 0x400110, [(0x10000, 8), (0x20, 4)],
    [⟨20, 9, .ro, 0, []⟩,
     ⟨16, 4, .ro, 0, []⟩,
     ⟨0, 14, .ro, 0, []⟩]⟩,
  ⟨"QY_PLAN_p_BW", 0x400114, [(0x10000, 8), (0x20, 4)],
    [⟨20, 5, .ro, 0, []⟩,
     ⟨0, 20, .ro, 0, []⟩]⟩,
  ⟨"QY_PLAN_p_AMP", 0x400118, [(0x10000, 8), (0x20, 4)],
    [⟨0, 16, .ro, 0, []⟩]⟩,
  ⟨"QY_PLAN_p_ZERO", 0x40011C, [(0x10000, 8), (0x20, 4)],
    [⟨0, 16, .ro, 0, []⟩]⟩]

/-- Rows of Table 4.6. -/
def regs4_6_0 : List RegRow := [
  ⟨"RX_REPLAY_STATUS", 0x500000, [],
    [⟨8, 5, .rc, 0, []⟩,
     ⟨0, 5, .ro, 0, []⟩]⟩,
  ⟨"RX_REPLAY_CNT", 0x500004, [],
    [⟨0, 32, .rc, 0, []⟩]⟩,
  ⟨"RX_REPLAY_DROP", 0x500008, [],
    [⟨0, 32, .rc, 0, []⟩]⟩]

/-- Rows of Table 4.7. -/
def regs4_7_0 : List RegRow := [
  ⟨"RX_CFG", 0x501000, [(0x100, 8)],
    [⟨24, 4, .own, 6, [(2, 8)]⟩,
     ⟨16, 2, .own, 0, [(0, 2)]⟩,
     ⟨8, 1, .own, 0, []⟩,
     ⟨0, 7, .own, 8, [(1, 64)]⟩]⟩,
  ⟨"RX_CFG_ACT", 0x501004, [(0x100, 8)],
    [⟨24, 4, .ro, 6, []⟩,
     ⟨16, 2, .ro, 0, []⟩,
     ⟨8, 1, .ro, 0, []⟩,
     ⟨0, 7, .ro, 8, []⟩]⟩,
  ⟨"RX_CLIP", 0x501008, [(0x100, 8)],
    [⟨0, 11, .rw, 2047, []⟩]⟩,
  ⟨"RX_FADE", 0x50100C, [(0x100, 8)],
    [⟨0, 8, .rw, 24, []⟩]⟩,
  ⟨"RX_NOISE_P0", 0x501010, [(0x100, 8)],
    [⟨0, 21, .own, 0, []⟩]⟩,
  ⟨"RX_NOISE_LEN", 0x501014, [(0x100, 8)],
    [⟨0, 10, .own, 0, []⟩]⟩,
  ⟨"RX_RING", 0x501018, [(0x100, 8)],
    [⟨0, 5, .ro, 0, []⟩]⟩,
  ⟨"RX_RING_OFS", 0x50101C, [(0x100, 8)],
    [⟨0, 24, .ro, 0, []⟩]⟩,
  ⟨"RX_PSM_NEED", 0x501020, [(0x100, 8)],
    [⟨0, 23, .ro, 0, []⟩]⟩,
  ⟨"RX_STATUS", 0x501024, [(0x100, 8)],
    [⟨9, 1, .ro, 0, []⟩,
     ⟨8, 1, .ro, 0, []⟩,
     ⟨7, 1, .w1c, 0, []⟩,
     ⟨6, 1, .w1c, 0, []⟩,
     ⟨5, 1, .w1c, 0, []⟩,
     ⟨3, 1, .w1c, 0, []⟩,
     ⟨2, 1, .w1c, 0, []⟩,
     ⟨0, 1, .ro, 0, []⟩]⟩,
  ⟨"RX_RESIDUE_CNT", 0x501028, [(0x100, 8)],
    [⟨0, 32, .rc, 0, []⟩]⟩,
  ⟨"RX_LOST_SEG_CNT", 0x50102C, [(0x100, 8)],
    [⟨0, 32, .rc, 0, []⟩]⟩,
  ⟨"RX_LOST_PS_CNT", 0x501030, [(0x100, 8)],
    [⟨0, 32, .rc, 0, []⟩]⟩,
  ⟨"RX_PARITY_CNT", 0x501034, [(0x100, 8)],
    [⟨16, 16, .rc, 0, []⟩,
     ⟨0, 16, .rc, 0, []⟩]⟩,
  ⟨"RX_FADE_CNT", 0x501038, [(0x100, 8)],
    [⟨0, 32, .rc, 0, []⟩]⟩,
  ⟨"RX_NOISE", 0x50103C, [(0x100, 8)],
    [⟨16, 16, .ro, 0, []⟩,
     ⟨0, 16, .ro, 0, []⟩]⟩,
  ⟨"RX_CLIP_CNT_l", 0x501040, [(0x100, 8), (0x4, 4)],
    [⟨0, 32, .rc, 0, []⟩]⟩,
  ⟨"RX_SEG_LO", 0x501050, [(0x100, 8)],
    [⟨0, 32, .ro, 0, []⟩]⟩,
  ⟨"RX_SEG_HI", 0x501054, [(0x100, 8)],
    [⟨0, 32, .ro, 0, []⟩]⟩,
  ⟨"RX_LOST_AT_LO", 0x501058, [(0x100, 8)],
    [⟨0, 32, .ro, 0, []⟩]⟩,
  ⟨"RX_LOST_AT_HI", 0x50105C, [(0x100, 8)],
    [⟨0, 32, .ro, 0, []⟩]⟩]

/-- Rows of Table 5.8. -/
def regs5_8_0 : List RegRow := [
  ⟨"RX_SL_CTL", 0x504000, [],
    [⟨1, 1, .rw, 0, []⟩,
     ⟨0, 1, .own, 0, []⟩]⟩,
  ⟨"RX_SL_STATUS", 0x504004, [],
    [⟨6, 1, .w1c, 0, []⟩,
     ⟨5, 1, .w1c, 0, []⟩,
     ⟨4, 1, .w1c, 0, []⟩,
     ⟨3, 1, .w1c, 0, []⟩,
     ⟨2, 1, .w1c, 0, []⟩,
     ⟨1, 1, .w1c, 0, []⟩,
     ⟨0, 1, .ro, 0, []⟩]⟩,
  ⟨"RX_SL_SYNC_LO", 0x504008, [],
    [⟨0, 32, .ro, 0, []⟩]⟩,
  ⟨"RX_SL_SYNC_HI", 0x50400C, [],
    [⟨0, 32, .ro, 0, []⟩]⟩,
  ⟨"RX_SL_POINTS", 0x504010, [],
    [⟨0, 21, .ro, 0, []⟩]⟩,
  ⟨"RX_SL_STAGE_SIZE", 0x504014, [],
    [⟨0, 25, .ro, 0, []⟩]⟩,
  ⟨"RX_SL_STAGE_USED", 0x504018, [],
    [⟨0, 25, .ro, 0, []⟩]⟩,
  ⟨"RX_SL_STATE_SIZE", 0x50401C, [],
    [⟨0, 24, .ro, 0, []⟩]⟩,
  ⟨"RX_SL_STATE_USED", 0x504020, [],
    [⟨0, 24, .ro, 0, []⟩]⟩,
  ⟨"RX_SL_SYNC_CNT", 0x504024, [],
    [⟨0, 32, .rc, 0, []⟩]⟩,
  ⟨"RX_SL_STAGE_OVF_CNT", 0x504028, [],
    [⟨0, 32, .rc, 0, []⟩]⟩,
  ⟨"RX_SL_TILE_ERR_CNT", 0x50402C, [],
    [⟨0, 32, .rc, 0, []⟩]⟩,
  ⟨"RX_SL_PARITY_CNT", 0x504030, [],
    [⟨16, 16, .rc, 0, []⟩,
     ⟨0, 16, .rc, 0, []⟩]⟩]

/-- Rows of Table 5.9. -/
def regs5_9_0 : List RegRow := [
  ⟨"RX_BT_i_HANDLE", 0x508000, [(0x80, 4096)],
    [⟨0, 32, .ro, 0, []⟩]⟩,
  ⟨"RX_BT_i_CFG", 0x508004, [(0x80, 4096)],
    [⟨31, 1, .ro, 0, []⟩,
     ⟨28, 3, .ro, 0, []⟩,
     ⟨24, 4, .ro, 0, []⟩,
     ⟨15, 1, .ro, 0, []⟩,
     ⟨14, 1, .ro, 0, []⟩,
     ⟨12, 2, .ro, 0, []⟩,
     ⟨0, 7, .ro, 0, []⟩]⟩,
  ⟨"RX_BT_i_FIRST", 0x508008, [(0x80, 4096)],
    [⟨0, 21, .ro, 0, []⟩]⟩,
  ⟨"RX_BT_i_COUNT", 0x50800C, [(0x80, 4096)],
    [⟨0, 21, .ro, 0, []⟩]⟩,
  ⟨"RX_BT_i_INC_LO", 0x508010, [(0x80, 4096)],
    [⟨0, 32, .ro, 0, []⟩]⟩,
  ⟨"RX_BT_i_INC_HI", 0x508014, [(0x80, 4096)],
    [⟨0, 8, .ro, 0, []⟩]⟩,
  ⟨"RX_BT_i_TIN", 0x508018, [(0x80, 4096)],
    [⟨0, 18, .ro, 0, []⟩]⟩,
  ⟨"RX_BT_i_TUG", 0x50801C, [(0x80, 4096)],
    [⟨0, 3, .ro, 0, []⟩]⟩,
  ⟨"RX_BT_i_RING_LO", 0x508020, [(0x80, 4096)],
    [⟨0, 32, .ro, 0, []⟩]⟩,
  ⟨"RX_BT_i_RING_HI", 0x508024, [(0x80, 4096)],
    [⟨0, 2, .ro, 0, []⟩]⟩,
  ⟨"RX_BT_i_ROWS", 0x508028, [(0x80, 4096)],
    [⟨0, 17, .ro, 0, []⟩]⟩,
  ⟨"RX_BT_i_ROW_BYTES", 0x50802C, [(0x80, 4096)],
    [⟨0, 24, .ro, 0, []⟩]⟩,
  ⟨"RX_BT_i_SEQ_LO", 0x508030, [(0x80, 4096)],
    [⟨0, 32, .ro, 0, []⟩]⟩,
  ⟨"RX_BT_i_SEQ_HI", 0x508034, [(0x80, 4096)],
    [⟨0, 32, .ro, 0, []⟩]⟩,
  ⟨"RX_BT_i_STATUS", 0x508038, [(0x80, 4096)],
    [⟨3, 1, .w1c, 0, []⟩,
     ⟨2, 1, .w1c, 0, []⟩,
     ⟨1, 1, .w1c, 0, []⟩,
     ⟨0, 1, .ro, 0, []⟩]⟩,
  ⟨"RX_BT_i_LOST_CNT", 0x50803C, [(0x80, 4096)],
    [⟨0, 32, .rc, 0, []⟩]⟩,
  ⟨"RX_BT_i_DELAY_LO", 0x508040, [(0x80, 4096)],
    [⟨0, 32, .ro, 0, []⟩]⟩,
  ⟨"RX_BT_i_DELAY_HI", 0x508044, [(0x80, 4096)],
    [⟨0, 6, .ro, 0, []⟩]⟩,
  ⟨"RX_BT_i_ANCHOR_LO", 0x508048, [(0x80, 4096)],
    [⟨0, 32, .ro, 0, []⟩]⟩,
  ⟨"RX_BT_i_ANCHOR_HI", 0x50804C, [(0x80, 4096)],
    [⟨0, 32, .ro, 0, []⟩]⟩,
  ⟨"RX_BT_i_ANCHOR_SEQ_LO", 0x508050, [(0x80, 4096)],
    [⟨0, 32, .ro, 0, []⟩]⟩,
  ⟨"RX_BT_i_ANCHOR_SEQ_HI", 0x508054, [(0x80, 4096)],
    [⟨0, 32, .ro, 0, []⟩]⟩]

/-- Rows of Table 6.12. -/
def regs6_12_0 : List RegRow := [
  ⟨"RX_FZ_ZONES", 0x590000, [],
    [⟨0, 9, .ro, 0, []⟩]⟩,
  ⟨"RX_FZ_STATUS", 0x590004, [],
    [⟨2, 1, .w1c, 0, []⟩,
     ⟨1, 1, .w1c, 0, []⟩,
     ⟨0, 1, .w1c, 0, []⟩]⟩,
  ⟨"RX_FZ_LOST_CNT", 0x590008, [],
    [⟨0, 32, .rc, 0, []⟩]⟩]

/-- Rows of Table 6.13. -/
def regs6_13_0 : List RegRow := [
  ⟨"RX_FZ_z_HANDLE", 0x591000, [(0x100, 256)],
    [⟨0, 32, .ro, 0, []⟩]⟩,
  ⟨"RX_FZ_z_CFG", 0x591004, [(0x100, 256)],
    [⟨31, 1, .ro, 0, []⟩,
     ⟨30, 1, .ro, 0, []⟩,
     ⟨27, 3, .ro, 0, []⟩,
     ⟨25, 2, .ro, 0, []⟩,
     ⟨22, 3, .ro, 0, []⟩,
     ⟨20, 2, .ro, 0, []⟩,
     ⟨16, 4, .ro, 0, []⟩,
     ⟨8, 8, .ro, 0, []⟩,
     ⟨6, 2, .ro, 0, []⟩,
     ⟨0, 6, .ro, 0, []⟩]⟩,
  ⟨"RX_FZ_z_SEQ_LO", 0x591008, [(0x100, 256)],
    [⟨0, 32, .ro, 0, []⟩]⟩,
  ⟨"RX_FZ_z_SEQ_HI", 0x59100C, [(0x100, 256)],
    [⟨0, 32, .ro, 0, []⟩]⟩,
  ⟨"RX_FZ_z_RING_LO", 0x591010, [(0x100, 256)],
    [⟨0, 32, .ro, 0, []⟩]⟩,
  ⟨"RX_FZ_z_RING_HI", 0x591014, [(0x100, 256)],
    [⟨0, 2, .ro, 0, []⟩]⟩,
  ⟨"RX_FZ_z_RECS", 0x591018, [(0x100, 256)],
    [⟨0, 17, .ro, 0, []⟩]⟩,
  ⟨"RX_FZ_z_STATUS", 0x59101C, [(0x100, 256)],
    [⟨5, 1, .ro, 0, []⟩,
     ⟨4, 1, .w1c, 0, []⟩,
     ⟨3, 1, .w1c, 0, []⟩,
     ⟨2, 1, .w1c, 0, []⟩,
     ⟨1, 1, .w1c, 0, []⟩,
     ⟨0, 1, .w1c, 0, []⟩]⟩,
  ⟨"RX_FZ_z_LOST_CNT", 0x591020, [(0x100, 256)],
    [⟨0, 32, .rc, 0, []⟩]⟩,
  ⟨"RX_FZ_z_DIS_CNT", 0x591024, [(0x100, 256)],
    [⟨0, 32, .rc, 0, []⟩]⟩,
  ⟨"RX_FZ_z_ANCHOR_LO", 0x591028, [(0x100, 256)],
    [⟨0, 32, .ro, 0, []⟩]⟩,
  ⟨"RX_FZ_z_ANCHOR_HI", 0x59102C, [(0x100, 256)],
    [⟨0, 32, .ro, 0, []⟩]⟩,
  ⟨"RX_FZ_z_BLOCK", 0x591030, [(0x100, 256)],
    [⟨14, 18, .ro, 0, []⟩,
     ⟨0, 14, .ro, 0, []⟩]⟩,
  ⟨"RX_FZ_z_DELAY_LO", 0x591034, [(0x100, 256)],
    [⟨0, 32, .ro, 0, []⟩]⟩,
  ⟨"RX_FZ_z_DELAY_HI", 0x591038, [(0x100, 256)],
    [⟨0, 6, .ro, 0, []⟩]⟩,
  ⟨"RX_FZ_z_VBULK", 0x59103C, [(0x100, 256)],
    [⟨0, 32, .ro, 0, []⟩]⟩,
  ⟨"RX_FZ_z_POS_c", 0x591040, [(0x100, 256), (0x4, 32)],
    [⟨0, 32, .ro, 0, []⟩]⟩]

/-- Rows of Table 7.13. -/
def regs7_13_0 : List RegRow := [
  ⟨"LG_STATUS", 0xF00000, [],
    [⟨6, 1, .w1c, 0, []⟩,
     ⟨5, 1, .w1c, 0, []⟩,
     ⟨4, 1, .w1c, 0, []⟩,
     ⟨3, 1, .w1c, 0, []⟩,
     ⟨2, 1, .w1c, 0, []⟩,
     ⟨1, 1, .ro, 0, []⟩,
     ⟨0, 1, .ro, 0, []⟩]⟩,
  ⟨"LG_POINTS", 0xF00004, [],
    [⟨0, 7, .ro, 0, []⟩]⟩,
  ⟨"LG_GEN_LO", 0xF00008, [],
    [⟨0, 32, .ro, 0, []⟩]⟩,
  ⟨"LG_GEN_HI", 0xF0000C, [],
    [⟨0, 32, .ro, 0, []⟩]⟩,
  ⟨"LG_RECSEQ_LO", 0xF00010, [],
    [⟨0, 32, .ro, 0, []⟩]⟩,
  ⟨"LG_RECSEQ_HI", 0xF00014, [],
    [⟨0, 32, .ro, 0, []⟩]⟩,
  ⟨"LG_RING", 0xF00018, [],
    [⟨0, 5, .ro, 0, []⟩]⟩,
  ⟨"LG_RING_ADDR_LO", 0xF0001C, [],
    [⟨0, 32, .ro, 0, []⟩]⟩,
  ⟨"LG_RING_ADDR_HI", 0xF00020, [],
    [⟨0, 2, .ro, 0, []⟩]⟩,
  ⟨"LG_KEY_ID", 0xF00024, [],
    [⟨0, 32, .ro, 0, []⟩]⟩,
  ⟨"LG_SKIP_CNT", 0xF00028, [],
    [⟨0, 32, .rc, 0, []⟩]⟩,
  ⟨"LG_LATE_CNT", 0xF0002C, [],
    [⟨0, 32, .rc, 0, []⟩]⟩,
  ⟨"LG_EVT_DROP_CNT", 0xF00030, [],
    [⟨0, 32, .rc, 0, []⟩]⟩,
  ⟨"LG_DAY_OFS", 0xF00034, [],
    [⟨0, 17, .rwl, 0, []⟩]⟩,
  ⟨"LG_CZ_CFG", 0xF00038, [],
    [⟨8, 2, .ro, 0, []⟩,
     ⟨0, 1, .rw, 0, []⟩]⟩,
  ⟨"LG_CZ_PORT", 0xF0003C, [],
    [⟨16, 16, .rw, 40400, []⟩,
     ⟨0, 16, .rw, 40400, []⟩]⟩,
  ⟨"LG_CZ_ADDR_k", 0xF00040, [(0x4, 4)],
    [⟨0, 32, .rwl, 0, []⟩]⟩,
  ⟨"LG_CZ_ACKED_LO", 0xF00050, [],
    [⟨0, 32, .ro, 0, []⟩]⟩,
  ⟨"LG_CZ_ACKED_HI", 0xF00054, [],
    [⟨0, 32, .ro, 0, []⟩]⟩,
  ⟨"LG_CZ_CNT", 0xF00058, [],
    [⟨16, 16, .rc, 0, []⟩,
     ⟨0, 16, .rc, 0, []⟩]⟩,
  ⟨"LG_PT_i_HANDLE", 0xF01000, [(0x40, 64)],
    [⟨0, 32, .ro, 0, []⟩]⟩,
  ⟨"LG_PT_i_CFG", 0xF01004, [(0x40, 64)],
    []⟩,
  ⟨"LG_PT_i_DEF", 0xF01008, [(0x40, 64)],
    [⟨0, 32, .ro, 0, []⟩]⟩,
  ⟨"LG_PT_i_LAG", 0xF0100C, [(0x40, 64)],
    [⟨0, 6, .ro, 0, []⟩]⟩]

/-- Rows of Table 7.13. -/
def regs7_13_1 : List RegRow := [
  ⟨"LG_PT_i_STATUS", 0xF01010, [(0x40, 64)],
    [⟨2, 1, .w1c, 0, []⟩,
     ⟨1, 1, .w1c, 0, []⟩,
     ⟨0, 1, .ro, 0, []⟩]⟩,
  ⟨"LG_PT_i_LAST_LO", 0xF01018, [(0x40, 64)],
    [⟨0, 32, .ro, 0, []⟩]⟩,
  ⟨"LG_PT_i_LAST_HI", 0xF0101C, [(0x40, 64)],
    [⟨0, 32, .ro, 0, []⟩]⟩]

/-- Rows of Table 8.14. -/
def regs8_14_0 : List RegRow := [
  ⟨"TL_BANK_STATUS", 0x600000, [(0x10000, 8)],
    [⟨8, 11, .ro, 0, []⟩,
     ⟨4, 1, .ro, 0, []⟩,
     ⟨3, 1, .w1c, 0, []⟩,
     ⟨2, 1, .w1c, 0, []⟩,
     ⟨1, 1, .w1c, 0, []⟩,
     ⟨0, 1, .w1c, 0, []⟩]⟩,
  ⟨"TL_FIFO_OVF_CNT", 0x600004, [(0x10000, 8)],
    [⟨0, 32, .rc, 0, []⟩]⟩,
  ⟨"TL_ALERT_CFG", 0x600008, [(0x10000, 8)],
    [⟨0, 1, .rw, 0, []⟩]⟩,
  ⟨"TL_ALR_r_CFG", 0x600010, [(0x10000, 8), (0x10, 4)],
    [⟨31, 1, .rw, 0, []⟩,
     ⟨12, 2, .rw, 0, [(0, 2)]⟩,
     ⟨8, 4, .rw, 0, []⟩,
     ⟨7, 1, .rw, 0, []⟩,
     ⟨0, 4, .rw, 0, []⟩]⟩,
  ⟨"TL_ALR_r_LO", 0x600014, [(0x10000, 8), (0x10, 4)],
    [⟨0, 32, .rw, 0, []⟩]⟩,
  ⟨"TL_ALR_r_HI", 0x600018, [(0x10000, 8), (0x10, 4)],
    [⟨0, 32, .rw, 0, []⟩]⟩,
  ⟨"TL_ALR_r_CNT", 0x60001C, [(0x10000, 8), (0x10, 4)],
    [⟨0, 32, .rc, 0, []⟩]⟩,
  ⟨"TL_FIFO_w", 0x600100, [(0x10000, 8), (0x4, 4)],
    [⟨0, 32, .ro, 0, []⟩]⟩]

/-- Rows of Table 8.15. -/
def regs8_15_0 : List RegRow := [
  ⟨"TL_LANE_i_CFG", 0x601000, [(0x10000, 8), (0x100, 16)],
    [⟨30, 2, .ro, 0, []⟩,
     ⟨24, 1, .own, 0, []⟩,
     ⟨23, 1, .own, 0, []⟩,
     ⟨22, 1, .own, 0, []⟩,
     ⟨16, 4, .own, 0, []⟩,
     ⟨12, 4, .own, 0, []⟩,
     ⟨8, 3, .own, 0, []⟩,
     ⟨7, 1, .own, 0, []⟩,
     ⟨6, 1, .own, 0, []⟩,
     ⟨5, 1, .own, 0, []⟩,
     ⟨4, 1, .own, 0, []⟩,
     ⟨3, 1, .own, 0, []⟩,
     ⟨0, 2, .own, 0, []⟩]⟩,
  ⟨"TL_LANE_i_THRESH", 0x601004, [(0x10000, 8), (0x100, 16)],
    [⟨0, 10, .own, 100, []⟩]⟩,
  ⟨"TL_LANE_i_TMO", 0x601008, [(0x10000, 8), (0x100, 16)],
    [⟨0, 21, .own, 1000, [(16, 1048576)]⟩]⟩,
  ⟨"TL_LANE_i_HOLDOFF", 0x60100C, [(0x10000, 8), (0x100, 16)],
    [⟨0, 16, .own, 0, []⟩]⟩,
  ⟨"TL_LANE_i_HCFG", 0x601010, [(0x10000, 8), (0x100, 16)],
    [⟨31, 1, .own, 0, []⟩,
     ⟨12, 1, .own, 1, []⟩,
     ⟨8, 4, .own, 0, []⟩,
     ⟨0, 5, .own, 4, [(4, 16)]⟩]⟩,
  ⟨"TL_LANE_i_HOFS", 0x601014, [(0x10000, 8), (0x100, 16)],
    [⟨0, 20, .own, 0, []⟩]⟩,
  ⟨"TL_LANE_i_STATCFG", 0x601018, [(0x10000, 8), (0x100, 16)],
    [⟨31, 1, .own, 0, []⟩,
     ⟨16, 4, .own, 0, []⟩,
     ⟨0, 16, .own, 1024, [(1, 65535)]⟩]⟩,
  ⟨"TL_LANE_i_FGATE", 0x60101C, [(0x10000, 8), (0x100, 16)],
    [⟨0, 16, .own, 7630, [(1, 65535)]⟩]⟩,
  ⟨"TL_LANE_i_HCTL", 0x601020, [(0x10000, 8), (0x100, 16)],
    [⟨0, 1, .own, 0, []⟩]⟩,
  ⟨"TL_LANE_i_HFRAME", 0x601024, [(0x10000, 8), (0x100, 16)],
    [⟨0, 16, .ro, 0, []⟩]⟩,
  ⟨"TL_LANE_i_STATUS", 0x601028, [(0x10000, 8), (0x100, 16)],
    [⟨9, 1, .ro, 0, []⟩,
     ⟨8, 1, .ro, 0, []⟩,
     ⟨7, 1, .ro, 0, []⟩,
     ⟨6, 1, .w1c, 0, []⟩,
     ⟨5, 1, .w1c, 0, []⟩,
     ⟨4, 1, .w1c, 0, []⟩,
     ⟨3, 1, .w1c, 0, []⟩,
     ⟨2, 1, .w1c, 0, []⟩,
     ⟨1, 1, .w1c, 0, []⟩,
     ⟨0, 1, .w1c, 0, []⟩]⟩,
  ⟨"TL_LANE_i_DELAY", 0x60102C, [(0x10000, 8), (0x100, 16)],
    [⟨0, 32, .ro, 0, []⟩]⟩,
  ⟨"TL_LANE_i_ORPHAN_CNT", 0x601030, [(0x10000, 8), (0x100, 16)],
    [⟨0, 32, .rc, 0, []⟩]⟩,
  ⟨"TL_LANE_i_DEAD_CNT", 0x601034, [(0x10000, 8), (0x100, 16)],
    [⟨0, 32, .rc, 0, []⟩]⟩,
  ⟨"TL_LANE_i_SKIP_CNT", 0x601038, [(0x10000, 8), (0x100, 16)],
    [⟨0, 32, .rc, 0, []⟩]⟩,
  ⟨"TL_LANE_i_BOUNCE_CNT", 0x60103C, [(0x10000, 8), (0x100, 16)],
    [⟨0, 32, .rc, 0, []⟩]⟩,
  ⟨"TL_LANE_i_UO_CNT", 0x601040, [(0x10000, 8), (0x100, 16)],
    [⟨16, 16, .rc, 0, []⟩,
     ⟨0, 16, .rc, 0, []⟩]⟩,
  ⟨"TL_LANE_i_MEAN_LO", 0x601048, [(0x10000, 8), (0x100, 16)],
    [⟨0, 32, .ro, 0, []⟩]⟩,
  ⟨"TL_LANE_i_MEAN_HI", 0x60104C, [(0x10000, 8), (0x100, 16)],
    [⟨0, 8, .ro, 0, []⟩]⟩,
  ⟨"TL_LANE_i_SD", 0x601050, [(0x10000, 8), (0x100, 16)],
    [⟨0, 32, .ro, 0, []⟩]⟩,
  ⟨"TL_LANE_i_MIN", 0x601054, [(0x10000, 8), (0x100, 16)],
    [⟨0, 32, .ro, 0, []⟩]⟩,
  ⟨"TL_LANE_i_MAX", 0x601058, [(0x10000, 8), (0x100, 16)],
    [⟨0, 32, .ro, 0, []⟩]⟩,
  ⟨"TL_LANE_i_STAT_MISC", 0x60105C, [(0x10000, 8), (0x100, 16)],
    [⟨16, 16, .ro, 0, []⟩,
     ⟨0, 16, .ro, 0, []⟩]⟩,
  ⟨"TL_LANE_i_STAT_SEQ", 0x601060, [(0x10000, 8), (0x100, 16)],
    [⟨0, 32, .ro, 0, []⟩]⟩]

/-- Rows of Table 8.15. -/
def regs8_15_1 : List RegRow := [
  ⟨"TL_LANE_i_FREQ", 0x601064, [(0x10000, 8), (0x100, 16)],
    [⟨0, 32, .ro, 0, []⟩]⟩,
  ⟨"TL_LANE_i_FEDGES", 0x601068, [(0x10000, 8), (0x100, 16)],
    [⟨0, 32, .ro, 0, []⟩]⟩,
  ⟨"TL_LANE_i_PERIOD_LO", 0x60106C, [(0x10000, 8), (0x100, 16)],
    [⟨0, 32, .ro, 0, []⟩]⟩,
  ⟨"TL_LANE_i_PERIOD_HI", 0x601070, [(0x10000, 8), (0x100, 16)],
    [⟨0, 16, .ro, 0, []⟩]⟩,
  ⟨"TL_LANE_i_COUNT_LO", 0x601078, [(0x10000, 8), (0x100, 16)],
    [⟨0, 32, .ro, 0, []⟩]⟩,
  ⟨"TL_LANE_i_COUNT_HI", 0x60107C, [(0x10000, 8), (0x100, 16)],
    [⟨0, 32, .ro, 0, []⟩]⟩,
  ⟨"TL_LANE_i_MEAS_LO", 0x601080, [(0x10000, 8), (0x100, 16)],
    [⟨0, 32, .ro, 0, []⟩]⟩,
  ⟨"TL_LANE_i_MEAS_HI", 0x601084, [(0x10000, 8), (0x100, 16)],
    [⟨0, 32, .ro, 0, []⟩]⟩]

/-- Rows of Table 9.11. -/
def regs9_11_0 : List RegRow := [
  ⟨"BC_JIT_SEED", 0x700000, [],
    [⟨0, 31, .ro, 1, []⟩]⟩,
  ⟨"BC_BYB_CTL", 0x700010, [],
    [⟨31, 1, .rw, 0, []⟩,
     ⟨16, 1, .own, 0, []⟩,
     ⟨0, 16, .rw, 11, [(1, 65535)]⟩]⟩,
  ⟨"BC_BYB_STATUS", 0x700014, [],
    [⟨16, 5, .ro, 0, []⟩,
     ⟨6, 1, .w1c, 0, []⟩,
     ⟨5, 1, .w1c, 0, []⟩,
     ⟨4, 1, .w1c, 0, []⟩,
     ⟨3, 1, .w1c, 0, []⟩,
     ⟨2, 1, .w1c, 0, []⟩,
     ⟨1, 1, .w1c, 0, []⟩,
     ⟨0, 1, .w1c, 0, []⟩]⟩,
  ⟨"BC_BYB_FRAMES", 0x700018, [],
    [⟨0, 32, .rc, 0, []⟩]⟩,
  ⟨"BC_BYB_CRC_CNT", 0x70001C, [],
    [⟨0, 32, .rc, 0, []⟩]⟩,
  ⟨"BC_BYB_k_CMD", 0x700100, [(0x10, 16)],
    [⟨31, 1, .ro, 0, []⟩,
     ⟨24, 2, .own, 0, [(0, 2)]⟩,
     ⟨16, 8, .own, 0, []⟩,
     ⟨0, 16, .own, 0, []⟩]⟩,
  ⟨"BC_BYB_k_INFO", 0x700104, [(0x10, 16)],
    [⟨31, 1, .ro, 0, []⟩,
     ⟨30, 1, .ro, 0, []⟩,
     ⟨29, 1, .ro, 0, []⟩,
     ⟨28, 1, .ro, 0, []⟩,
     ⟨27, 1, .ro, 0, []⟩,
     ⟨16, 4, .ro, 0, []⟩,
     ⟨12, 4, .ro, 0, []⟩,
     ⟨8, 4, .ro, 0, []⟩,
     ⟨4, 4, .ro, 0, []⟩]⟩,
  ⟨"BC_BYB_k_DATA", 0x700108, [(0x10, 16)],
    [⟨0, 16, .ro, 0, []⟩]⟩]

/-- Rows of Table 9.12. -/
def regs9_12_0 : List RegRow := [
  ⟨"BC_m_CTL", 0x701000, [(0x400, 8)],
    [⟨3, 1, .own, 0, []⟩,
     ⟨2, 1, .rw, 1, []⟩,
     ⟨1, 1, .own, 0, []⟩,
     ⟨0, 1, .rw, 1, []⟩]⟩,
  ⟨"BC_m_STATUS", 0x701004, [(0x400, 8)],
    [⟨11, 1, .w1c, 0, []⟩,
     ⟨10, 1, .w1c, 0, []⟩,
     ⟨9, 1, .ro, 0, []⟩,
     ⟨8, 1, .ro, 0, []⟩,
     ⟨7, 1, .ro, 0, []⟩,
     ⟨6, 1, .ro, 0, []⟩,
     ⟨5, 1, .ro, 0, []⟩,
     ⟨4, 1, .ro, 0, []⟩,
     ⟨3, 1, .ro, 0, []⟩,
     ⟨2, 1, .ro, 0, []⟩,
     ⟨1, 1, .ro, 0, []⟩,
     ⟨0, 1, .ro, 0, []⟩]⟩,
  ⟨"BC_m_SLOT", 0x701008, [(0x400, 8)],
    [⟨16, 16, .ro, 0, []⟩,
     ⟨0, 7, .ro, 0, []⟩]⟩,
  ⟨"BC_m_PULSE", 0x70100C, [(0x400, 8)],
    [⟨28, 4, .ro, 0, []⟩,
     ⟨16, 9, .ro, 0, []⟩,
     ⟨0, 7, .ro, 0, []⟩]⟩,
  ⟨"BC_m_STEP", 0x701010, [(0x400, 8)],
    [⟨8, 3, .ro, 0, []⟩,
     ⟨0, 8, .ro, 0, []⟩]⟩,
  ⟨"BC_m_SHOT_DLY", 0x701014, [(0x400, 8)],
    [⟨0, 16, .ro, 0, []⟩]⟩,
  ⟨"BC_m_SCAN_LO", 0x701018, [(0x400, 8)],
    [⟨0, 32, .ro, 0, []⟩]⟩,
  ⟨"BC_m_SCAN_HI", 0x70101C, [(0x400, 8)],
    [⟨0, 32, .ro, 0, []⟩]⟩,
  ⟨"BC_m_GOV_CNT", 0x701020, [(0x400, 8)],
    [⟨0, 32, .rc, 0, []⟩]⟩,
  ⟨"BC_m_MISS_CNT", 0x701024, [(0x400, 8)],
    [⟨0, 32, .rc, 0, []⟩]⟩,
  ⟨"BC_m_COIN_REJ_CNT", 0x701028, [(0x400, 8)],
    [⟨0, 32, .rc, 0, []⟩]⟩,
  ⟨"BC_m_HEAD_SUM", 0x70102C, [(0x400, 8)],
    [⟨0, 32, .ro, 0, []⟩]⟩,
  ⟨"BC_m_HEAD_LIM", 0x701030, [(0x400, 8)],
    [⟨0, 32, .ro, 0, []⟩]⟩,
  ⟨"BC_m_EMIT_LIM", 0x701034, [(0x400, 8)],
    [⟨0, 32, .ro, 0, []⟩]⟩,
  ⟨"BC_m_SHORT_NUM", 0x701038, [(0x400, 8)],
    [⟨4, 1, .ro, 0, []⟩,
     ⟨0, 4, .ro, 0, []⟩]⟩,
  ⟨"BC_m_EMIT_r", 0x701040, [(0x400, 8), (0x4, 8)],
    [⟨0, 2, .ro, 0, []⟩,
     ⟨2, 2, .ro, 0, []⟩,
     ⟨4, 2, .ro, 0, []⟩,
     ⟨6, 2, .ro, 0, []⟩,
     ⟨8, 2, .ro, 0, []⟩,
     ⟨10, 2, .ro, 0, []⟩,
     ⟨12, 2, .ro, 0, []⟩,
     ⟨14, 2, .ro, 0, []⟩,
     ⟨16, 2, .ro, 0, []⟩,
     ⟨18, 2, .ro, 0, []⟩,
     ⟨20, 2, .ro, 0, []⟩,
     ⟨22, 2, .ro, 0, []⟩,
     ⟨24, 2, .ro, 0, []⟩,
     ⟨26, 2, .ro, 0, []⟩,
     ⟨28, 2, .ro, 0, []⟩,
     ⟨30, 2, .ro, 0, []⟩]⟩,
  ⟨"BC_m_SHORT_p", 0x701060, [(0x400, 8), (0x4, 8)],
    [⟨8, 8, .ro, 0, []⟩,
     ⟨0, 8, .ro, 0, []⟩]⟩,
  ⟨"BC_m_ESUM_e", 0x701100, [(0x400, 8), (0x4, 128)],
    [⟨0, 32, .ro, 0, []⟩]⟩]

/-- Rows of Table 10.11. -/
def regs10_11_0 : List RegRow := [
  ⟨"SN_CTL", 0x800000, [],
    [⟨8, 2, .own, 0, []⟩,
     ⟨5, 1, .own, 0, []⟩,
     ⟨4, 1, .own, 0, []⟩,
     ⟨0, 2, .own, 0, [(0, 2)]⟩]⟩,
  ⟨"SN_STATUS", 0x800004, [],
    [⟨7, 1, .w1c, 0, []⟩,
     ⟨6, 1, .w1c, 0, []⟩,
     ⟨5, 1, .w1c, 0, []⟩,
     ⟨4, 1, .w1c, 0, []⟩,
     ⟨3, 1, .ro, 0, []⟩,
     ⟨2, 1, .ro, 0, []⟩,
     ⟨1, 1, .ro, 0, []⟩,
     ⟨0, 1, .ro, 0, []⟩]⟩,
  ⟨"SN_MAINS_PERIOD", 0x800008, [],
    [⟨0, 32, .ro, 0, []⟩]⟩,
  ⟨"SN_CONV_CNT", 0x80000C, [],
    [⟨0, 32, .rc, 0, []⟩]⟩]

/-- Rows of Table 10.12. -/
def regs10_12_0 : List RegRow := [
  ⟨"SN_CH_c_CFG", 0x801000, [(0x100, 16)],
    [⟨30, 2, .ro, 0, []⟩,
     ⟨29, 1, .own, 0, []⟩,
     ⟨28, 1, .own, 1, []⟩,
     ⟨24, 3, .own, 0, []⟩,
     ⟨20, 4, .own, 0, []⟩,
     ⟨16, 4, .own, 0, []⟩,
     ⟨8, 8, .own, 0, []⟩,
     ⟨6, 2, .own, 3, []⟩,
     ⟨4, 2, .own, 0, [(0, 2)]⟩,
     ⟨2, 2, .own, 0, []⟩,
     ⟨1, 1, .own, 0, []⟩]⟩,
  ⟨"SN_CH_c_EXC", 0x801004, [(0x100, 16)],
    [⟨0, 13, .own, 100, []⟩]⟩,
  ⟨"SN_CH_c_LEADR", 0x801008, [(0x100, 16)],
    [⟨0, 24, .own, 0, []⟩]⟩,
  ⟨"SN_CH_c_LEADN", 0x80100C, [(0x100, 16)],
    [⟨0, 16, .own, 64, [(8, 65535)]⟩]⟩,
  ⟨"SN_CH_c_A", 0x801010, [(0x100, 16)],
    [⟨0, 32, .own, 0, []⟩]⟩,
  ⟨"SN_CH_c_B", 0x801014, [(0x100, 16)],
    [⟨0, 32, .own, 65536, []⟩]⟩,
  ⟨"SN_CH_c_X0", 0x801018, [(0x100, 16)],
    [⟨0, 32, .own, 0, []⟩]⟩,
  ⟨"SN_CH_c_CUT", 0x80101C, [(0x100, 16)],
    [⟨0, 32, .own, 0, []⟩]⟩,
  ⟨"SN_CH_c_R0", 0x801020, [(0x100, 16)],
    [⟨0, 32, .own, 100000, []⟩]⟩,
  ⟨"SN_CH_c_POLY", 0x801024, [(0x100, 16)],
    [⟨0, 4, .own, 0, []⟩]⟩,
  ⟨"SN_CH_c_STATUS", 0x801028, [(0x100, 16)],
    [⟨10, 3, .ro, 0, []⟩,
     ⟨8, 2, .ro, 0, []⟩,
     ⟨7, 1, .w1c, 0, []⟩,
     ⟨5, 1, .ro, 0, []⟩,
     ⟨4, 1, .ro, 0, []⟩,
     ⟨3, 1, .w1c, 0, []⟩,
     ⟨2, 1, .w1c, 0, []⟩,
     ⟨1, 1, .w1c, 0, []⟩,
     ⟨0, 1, .ro, 0, []⟩]⟩,
  ⟨"SN_CH_c_SEQ", 0x80102C, [(0x100, 16)],
    [⟨0, 32, .ro, 0, []⟩]⟩,
  ⟨"SN_CH_c_CODE", 0x801030, [(0x100, 16)],
    [⟨0, 32, .ro, 0, []⟩]⟩,
  ⟨"SN_CH_c_VALUE", 0x801034, [(0x100, 16)],
    [⟨0, 32, .ro, 0, []⟩]⟩,
  ⟨"SN_CH_c_TAG", 0x801038, [(0x100, 16)],
    [⟨8, 3, .ro, 0, []⟩,
     ⟨0, 8, .ro, 0, []⟩]⟩,
  ⟨"SN_CH_c_STAMP_LO", 0x80103C, [(0x100, 16)],
    [⟨0, 32, .ro, 0, []⟩]⟩,
  ⟨"SN_CH_c_STAMP_HI", 0x801040, [(0x100, 16)],
    [⟨0, 32, .ro, 0, []⟩]⟩,
  ⟨"SN_CH_c_LEAD", 0x801044, [(0x100, 16)],
    [⟨0, 24, .ro, 0, []⟩]⟩,
  ⟨"SN_CH_c_OVR_CNT", 0x801048, [(0x100, 16)],
    [⟨0, 32, .rc, 0, []⟩]⟩,
  ⟨"SN_CH_c_RANGE_CNT", 0x80104C, [(0x100, 16)],
    [⟨0, 32, .rc, 0, []⟩]⟩,
  ⟨"SN_CH_c_DISC_CNT", 0x801050, [(0x100, 16)],
    [⟨0, 32, .rc, 0, []⟩]⟩]

/-- Rows of Table 11.9. -/
def regs11_9_0 : List RegRow := [
  ⟨"WT_WATCHES", 0x900000, [],
    [⟨0, 6, .ro, 0, []⟩]⟩,
  ⟨"WT_STATUS", 0x900004, [],
    [⟨0, 32, .w1c, 0, []⟩]⟩]

/-- Rows of Table 11.10. -/
def regs11_10_0 : List RegRow := [
  ⟨"WT_w_HANDLE", 0x901000, [(0x100, 32)],
    [⟨0, 32, .ro, 0, []⟩]⟩,
  ⟨"WT_w_CFG", 0x901004, [(0x100, 32)],
    [⟨28, 4, .ro, 0, []⟩,
     ⟨26, 2, .ro, 0, []⟩,
     ⟨24, 2, .ro, 0, []⟩,
     ⟨0, 20, .ro, 0, []⟩]⟩,
  ⟨"WT_w_SOURCE", 0x901008, [(0x100, 32)],
    [⟨0, 32, .ro, 0, []⟩]⟩,
  ⟨"WT_w_LEVEL", 0x90100C, [(0x100, 32)],
    [⟨0, 32, .own, 0, []⟩]⟩,
  ⟨"WT_w_HYST", 0x901010, [(0x100, 32)],
    [⟨0, 31, .own, 0, []⟩]⟩,
  ⟨"WT_w_CTL", 0x901014, [(0x100, 32)],
    [⟨1, 1, .own, 0, []⟩,
     ⟨0, 1, .own, 0, []⟩]⟩,
  ⟨"WT_w_STATUS", 0x901018, [(0x100, 32)],
    [⟨9, 1, .ro, 0, []⟩,
     ⟨8, 1, .w1c, 0, []⟩,
     ⟨7, 1, .w1c, 0, []⟩,
     ⟨6, 1, .w1c, 0, []⟩,
     ⟨5, 1, .w1c, 0, []⟩,
     ⟨4, 1, .ro, 0, []⟩,
     ⟨3, 1, .ro, 0, []⟩,
     ⟨0, 3, .ro, 0, []⟩]⟩,
  ⟨"WT_w_FILL", 0x90101C, [(0x100, 32)],
    [⟨0, 21, .ro, 0, []⟩]⟩,
  ⟨"WT_w_SEQ_LO", 0x901020, [(0x100, 32)],
    [⟨0, 32, .ro, 0, []⟩]⟩,
  ⟨"WT_w_SEQ_HI", 0x901024, [(0x100, 32)],
    [⟨0, 32, .ro, 0, []⟩]⟩,
  ⟨"WT_w_RING_LO", 0x901028, [(0x100, 32)],
    [⟨0, 32, .ro, 0, []⟩]⟩,
  ⟨"WT_w_RING_HI", 0x90102C, [(0x100, 32)],
    [⟨0, 2, .ro, 0, []⟩]⟩,
  ⟨"WT_w_SLOTS", 0x901030, [(0x100, 32)],
    [⟨0, 11, .ro, 0, []⟩]⟩,
  ⟨"WT_w_SLOT_BYTES", 0x901034, [(0x100, 32)],
    [⟨0, 25, .ro, 0, []⟩]⟩,
  ⟨"WT_w_TRIG_LO", 0x901038, [(0x100, 32)],
    [⟨0, 32, .ro, 0, []⟩]⟩,
  ⟨"WT_w_TRIG_HI", 0x90103C, [(0x100, 32)],
    [⟨0, 32, .ro, 0, []⟩]⟩,
  ⟨"WT_w_TRIG_FRAC", 0x901040, [(0x100, 32)],
    [⟨0, 8, .ro, 0, []⟩]⟩,
  ⟨"WT_w_VALUE", 0x901044, [(0x100, 32)],
    [⟨0, 32, .ro, 0, []⟩]⟩,
  ⟨"WT_w_IGN_CNT", 0x901048, [(0x100, 32)],
    [⟨0, 32, .rc, 0, []⟩]⟩,
  ⟨"WT_w_FORCE_CNT", 0x90104C, [(0x100, 32)],
    [⟨0, 32, .rc, 0, []⟩]⟩,
  ⟨"WT_w_SKIP_CNT", 0x901050, [(0x100, 32)],
    [⟨0, 32, .rc, 0, []⟩]⟩]

/-- Rows of Table 12.6. -/
def regs12_6_0 : List RegRow := [
  ⟨"PI_CL_STATUS", 0xA00000, [(0x40000, 4)],
    [⟨11, 1, .w1c, 0, []⟩,
     ⟨10, 1, .w1c, 0, []⟩,
     ⟨9, 1, .w1c, 0, []⟩,
     ⟨8, 1, .w1c, 0, []⟩,
     ⟨7, 1, .w1c, 0, []⟩,
     ⟨6, 1, .w1c, 0, []⟩,
     ⟨5, 1, .w1c, 0, []⟩,
     ⟨4, 1, .w1c, 0, []⟩,
     ⟨3, 1, .ro, 0, []⟩,
     ⟨2, 1, .ro, 0, []⟩,
     ⟨1, 1, .ro, 0, []⟩,
     ⟨0, 1, .ro, 0, []⟩]⟩,
  ⟨"PI_CL_QUEUE", 0xA00004, [(0x40000, 4)],
    [⟨16, 9, .rc, 0, []⟩,
     ⟨0, 9, .ro, 0, []⟩]⟩,
  ⟨"PI_CL_BANK_b_ID", 0xA00008, [(0x40000, 4), (0x4, 2)],
    [⟨0, 32, .ro, 0, []⟩]⟩,
  ⟨"PI_CL_BANK_b_INFO", 0xA00010, [(0x40000, 4), (0x4, 2)],
    [⟨31, 1, .ro, 0, []⟩,
     ⟨30, 1, .ro, 0, []⟩,
     ⟨16, 7, .ro, 0, []⟩,
     ⟨0, 15, .ro, 0, []⟩]⟩,
  ⟨"PI_CL_JOB_CNT", 0xA00020, [(0x40000, 4)],
    [⟨0, 32, .rc, 0, []⟩]⟩,
  ⟨"PI_CL_DROP_CNT", 0xA00024, [(0x40000, 4)],
    [⟨0, 32, .rc, 0, []⟩]⟩,
  ⟨"PI_CL_FAULT_CNT", 0xA00028, [(0x40000, 4)],
    [⟨16, 16, .rc, 0, []⟩,
     ⟨0, 16, .rc, 0, []⟩]⟩,
  ⟨"PI_CL_PARITY_CNT", 0xA0002C, [(0x40000, 4)],
    [⟨20, 10, .rc, 0, []⟩,
     ⟨10, 10, .rc, 0, []⟩,
     ⟨0, 10, .rc, 0, []⟩]⟩,
  ⟨"PI_CL_HOLD_CNT", 0xA00030, [(0x40000, 4)],
    [⟨0, 32, .rc, 0, []⟩]⟩,
  ⟨"PI_CL_HOLD_MAX", 0xA00034, [(0x40000, 4)],
    [⟨0, 16, .rc, 0, []⟩]⟩,
  ⟨"PI_CL_POST_0", 0xA00040, [(0x40000, 4)],
    [⟨24, 1, .rw, 0, []⟩,
     ⟨16, 5, .rw, 0, [(2, 31)]⟩,
     ⟨0, 12, .rw, 0, []⟩]⟩,
  ⟨"PI_CL_POST_1", 0xA00044, [(0x40000, 4)],
    [⟨0, 32, .own, 0, []⟩]⟩,
  ⟨"PI_CL_LASTFAULT", 0xA00050, [(0x40000, 4)],
    [⟨30, 2, .ro, 0, []⟩,
     ⟨24, 4, .ro, 0, []⟩,
     ⟨0, 22, .ro, 0, []⟩]⟩]

/-- Rows of Table 12.7. -/
def regs12_7_0 : List RegRow := [
  ⟨"PI_CORE_k_STATUS", 0xA01000, [(0x40000, 4), (0x100, 4)],
    [⟨16, 12, .ro, 0, []⟩,
     ⟨12, 4, .ro, 0, []⟩,
     ⟨8, 4, .ro, 0, []⟩,
     ⟨4, 4, .ro, 0, []⟩,
     ⟨3, 1, .ro, 0, []⟩,
     ⟨1, 2, .ro, 0, []⟩,
     ⟨0, 1, .ro, 0, []⟩]⟩,
  ⟨"PI_CORE_k_PC", 0xA01004, [(0x40000, 4), (0x100, 4)],
    [⟨0, 14, .ro, 0, []⟩]⟩,
  ⟨"PI_CORE_k_CYC", 0xA01008, [(0x40000, 4), (0x100, 4)],
    [⟨0, 32, .ro, 0, []⟩]⟩,
  ⟨"PI_CORE_k_BUSY_CNT", 0xA0100C, [(0x40000, 4), (0x100, 4)],
    [⟨0, 32, .rc, 0, []⟩]⟩,
  ⟨"PI_CORE_k_JOBS", 0xA01010, [(0x40000, 4), (0x100, 4)],
    [⟨0, 32, .rc, 0, []⟩]⟩,
  ⟨"PI_CORE_k_HOLD_MAX", 0xA01014, [(0x40000, 4), (0x100, 4)],
    [⟨0, 16, .rc, 0, []⟩]⟩]

/-- Rows of Table 13.11. -/
def regs13_11_0 : List RegRow := [
  ⟨"WH_CTL", 0xB00000, [],
    [⟨0, 1, .own, 0, []⟩]⟩,
  ⟨"WH_CFG", 0xB00004, [],
    [⟨0, 3, .rw, 0, [(0, 4)]⟩]⟩,
  ⟨"WH_STATUS", 0xB00008, [],
    [⟨7, 1, .w1c, 0, []⟩,
     ⟨6, 1, .w1c, 0, []⟩,
     ⟨5, 1, .w1c, 0, []⟩,
     ⟨4, 1, .w1c, 0, []⟩,
     ⟨1, 1, .ro, 0, []⟩,
     ⟨0, 1, .ro, 0, []⟩]⟩,
  ⟨"WH_AGE", 0xB0000C, [],
    [⟨0, 16, .rw, 2000, [(100, 65535)]⟩]⟩,
  ⟨"WH_USABLE_LO", 0xB00010, [],
    [⟨0, 32, .ro, 0, []⟩]⟩,
  ⟨"WH_USABLE_HI", 0xB00014, [],
    [⟨0, 3, .ro, 0, []⟩]⟩,
  ⟨"WH_CHK_ADDR_LO", 0xB00018, [],
    [⟨0, 32, .ro, 0, []⟩]⟩,
  ⟨"WH_CHK_ADDR_HI", 0xB0001C, [],
    [⟨0, 2, .ro, 0, []⟩]⟩,
  ⟨"WH_CHK_CNT", 0xB00020, [],
    [⟨0, 32, .rc, 0, []⟩]⟩,
  ⟨"WH_REREAD_CNT", 0xB00024, [],
    [⟨0, 32, .rc, 0, []⟩]⟩,
  ⟨"WH_FWD_CNT", 0xB00028, [],
    [⟨0, 32, .rc, 0, []⟩]⟩,
  ⟨"WH_PROMO_CNT_c", 0xB00034, [(0x4, 3)],
    [⟨0, 32, .rc, 0, []⟩]⟩,
  ⟨"WH_AREA_a", 0xB00040, [(0x4, 4)],
    [⟨16, 16, .ro, 0, []⟩,
     ⟨0, 16, .ro, 0, []⟩]⟩]

/-- Rows of Table 13.12. -/
def regs13_12_0 : List RegRow := [
  ⟨"TG_SHED_STATUS", 0xC00000, [],
    [⟨1, 1, .w1c, 0, []⟩,
     ⟨0, 1, .w1c, 0, []⟩]⟩,
  ⟨"TG_SHED_PAR_CNT", 0xC00004, [],
    [⟨0, 32, .rc, 0, []⟩]⟩,
  ⟨"TG_SHED_PAR_ADDR", 0xC00008, [],
    [⟨0, 26, .ro, 0, []⟩]⟩,
  ⟨"TG_SHED_PART_p", 0xC00010, [(0x4, 6)],
    [⟨0, 16, .ro, 0, []⟩]⟩]

/-- Rows of Table 13.13. -/
def regs13_13_0 : List RegRow := [
  ⟨"TG_e_STATUS", 0xC01000, [(0x1000, 8)],
    [⟨8, 5, .ro, 0, []⟩,
     ⟨0, 1, .ro, 0, []⟩]⟩,
  ⟨"TG_e_DONE", 0xC01004, [(0x1000, 8)],
    [⟨0, 32, .w1c, 0, []⟩]⟩,
  ⟨"TG_e_ERR", 0xC01008, [(0x1000, 8)],
    [⟨0, 32, .w1c, 0, []⟩]⟩,
  ⟨"TG_e_BYTES", 0xC0100C, [(0x1000, 8)],
    [⟨0, 32, .rc, 0, []⟩]⟩,
  ⟨"TG_e_DESC_CNT", 0xC01010, [(0x1000, 8)],
    [⟨0, 32, .rc, 0, []⟩]⟩,
  ⟨"TG_e_BAD_CNT", 0xC01014, [(0x1000, 8)],
    [⟨16, 16, .rc, 0, []⟩,
     ⟨0, 16, .rc, 0, []⟩]⟩,
  ⟨"TG_e_LASTERR", 0xC01018, [(0x1000, 8)],
    [⟨28, 4, .ro, 0, []⟩,
     ⟨24, 4, .ro, 0, []⟩,
     ⟨16, 5, .ro, 0, []⟩]⟩,
  ⟨"TG_e_LASTERR_DESC", 0xC0101C, [(0x1000, 8)],
    [⟨0, 26, .ro, 0, []⟩]⟩]

/-- Rows of Table 13.14. -/
def regs13_14_0 : List RegRow := [
  ⟨"TG_e_CH_c_CFG", 0xC01100, [(0x1000, 8), (0x20, 32)],
    [⟨31, 1, .rw, 0, []⟩,
     ⟨16, 6, .rw, 0, []⟩,
     ⟨12, 1, .rw, 0, []⟩,
     ⟨0, 12, .rw, 0, []⟩]⟩,
  ⟨"TG_e_CH_c_HEAD", 0xC01104, [(0x1000, 8), (0x20, 32)],
    [⟨5, 21, .own, 0, []⟩]⟩,
  ⟨"TG_e_CH_c_STATUS", 0xC01108, [(0x1000, 8), (0x20, 32)],
    [⟨9, 1, .w1c, 0, []⟩,
     ⟨8, 1, .ro, 0, []⟩,
     ⟨0, 5, .ro, 0, []⟩]⟩,
  ⟨"TG_e_CH_c_CUR", 0xC0110C, [(0x1000, 8), (0x20, 32)],
    [⟨5, 21, .ro, 0, []⟩]⟩,
  ⟨"TG_e_CH_c_CHAINS", 0xC01110, [(0x1000, 8), (0x20, 32)],
    [⟨0, 32, .rc, 0, []⟩]⟩]

/-- Rows of Table 14.10. -/
def regs14_10_0 : List RegRow := [
  ⟨"PK_STATUS", 0xD00000, [],
    [⟨3, 1, .w1c, 0, []⟩,
     ⟨2, 1, .w1c, 0, []⟩,
     ⟨1, 1, .w1c, 0, []⟩,
     ⟨0, 1, .w1c, 0, []⟩]⟩,
  ⟨"PK_CRC_CNT", 0xD00004, [],
    [⟨0, 32, .rc, 0, []⟩]⟩,
  ⟨"PK_FORMAT_CNT", 0xD00008, [],
    [⟨0, 32, .rc, 0, []⟩]⟩,
  ⟨"PK_GAP_CNT", 0xD0000C, [],
    [⟨0, 32, .rc, 0, []⟩]⟩]

/-- Rows of Table 14.11. -/
def regs14_11_0 : List RegRow := [
  ⟨"PK_e_CFG", 0xD01000, [(0x100, 2)],
    [⟨0, 6, .rw, 0, []⟩]⟩,
  ⟨"PK_e_JOB", 0xD01004, [(0x100, 2)],
    [⟨7, 19, .own, 0, []⟩]⟩,
  ⟨"PK_e_STATUS", 0xD01008, [(0x100, 2)],
    [⟨11, 1, .w1c, 0, []⟩,
     ⟨10, 1, .w1c, 0, []⟩,
     ⟨9, 1, .w1c, 0, []⟩,
     ⟨8, 1, .ro, 0, []⟩,
     ⟨0, 5, .ro, 0, []⟩]⟩,
  ⟨"PK_e_CUR", 0xD0100C, [(0x100, 2)],
    [⟨7, 19, .ro, 0, []⟩]⟩,
  ⟨"PK_e_JOBS", 0xD01010, [(0x100, 2)],
    [⟨0, 32, .rc, 0, []⟩]⟩,
  ⟨"PK_e_IN_BYTES", 0xD01014, [(0x100, 2)],
    [⟨0, 32, .rc, 0, []⟩]⟩,
  ⟨"PK_e_OUT_BYTES", 0xD01018, [(0x100, 2)],
    [⟨0, 32, .rc, 0, []⟩]⟩,
  ⟨"PK_e_LASTERR", 0xD0101C, [(0x100, 2)],
    [⟨28, 4, .ro, 0, []⟩,
     ⟨24, 4, .ro, 0, []⟩]⟩,
  ⟨"PK_e_LASTERR_DESC", 0xD01020, [(0x100, 2)],
    [⟨7, 19, .ro, 0, []⟩]⟩,
  ⟨"PK_e_LASTERR_CRATE", 0xD01024, [(0x100, 2)],
    [⟨0, 32, .ro, 0, []⟩]⟩]

/-- Rows of Table 15.14. -/
def regs15_14_0 : List RegRow := [
  ⟨"HB_TIME_CFG", 0x80, [],
    [⟨5, 1, .rw, 0, []⟩,
     ⟨4, 1, .rw, 0, []⟩,
     ⟨3, 1, .rw, 0, []⟩,
     ⟨0, 3, .rw, 0, []⟩]⟩,
  ⟨"HB_TIME_RATE", 0x84, [],
    [⟨0, 32, .own, 0, []⟩]⟩,
  ⟨"HB_TIME_STEP_LO", 0x88, [],
    [⟨0, 32, .rw, 0, []⟩]⟩,
  ⟨"HB_TIME_STEP_HI", 0x8C, [],
    [⟨0, 32, .own, 0, []⟩]⟩,
  ⟨"HB_TIME_CTL", 0x90, [],
    [⟨1, 1, .rw, 0, []⟩,
     ⟨0, 1, .own, 0, []⟩]⟩,
  ⟨"HB_HWS_CABLE", 0x94, [],
    [⟨0, 20, .rw, 0, []⟩]⟩,
  ⟨"HB_HWS_STATUS", 0x98, [],
    [⟨8, 4, .ro, 0, []⟩,
     ⟨7, 1, .w1c, 0, []⟩,
     ⟨6, 1, .w1c, 0, []⟩,
     ⟨5, 1, .ro, 0, []⟩,
     ⟨0, 5, .ro, 0, []⟩]⟩,
  ⟨"HB_HWS_VALID", 0x9C, [],
    [⟨0, 1, .ro, 0, []⟩]⟩,
  ⟨"HB_HWS_OFS", 0xA0, [],
    [⟨0, 32, .ro, 0, []⟩]⟩,
  ⟨"HB_PPS_OFS", 0xA4, [],
    [⟨0, 32, .ro, 0, []⟩]⟩,
  ⟨"HB_F10M_RATE", 0xA8, [],
    [⟨0, 32, .ro, 0, []⟩]⟩]

/-- Rows of Table 15.15. -/
def regs15_15_0 : List RegRow := [
  ⟨"MB_STATUS", 0xF04000, [],
    [⟨16, 4, .ro, 0, []⟩,
     ⟨2, 1, .w1c, 0, []⟩,
     ⟨1, 1, .ro, 0, []⟩,
     ⟨0, 1, .ro, 0, []⟩]⟩,
  ⟨"MB_CFG", 0xF04004, [],
    [⟨0, 6, .rw, 0, []⟩]⟩,
  ⟨"MB_CMD_BASE", 0xF04008, [],
    [⟨0, 26, .rw, 0, []⟩]⟩,
  ⟨"MB_CMD_TAIL", 0xF0400C, [],
    [⟨0, 6, .rw, 0, []⟩]⟩,
  ⟨"MB_CMD_HEAD", 0xF04010, [],
    [⟨0, 6, .ro, 0, []⟩]⟩,
  ⟨"MB_RPL_BASE", 0xF04014, [],
    [⟨0, 26, .rw, 0, []⟩]⟩,
  ⟨"MB_RPL_TAIL", 0xF04018, [],
    [⟨0, 6, .ro, 0, []⟩]⟩,
  ⟨"MB_RPL_HEAD", 0xF0401C, [],
    [⟨0, 6, .rw, 0, []⟩]⟩,
  ⟨"MB_BOOT_LEN", 0xF04020, [],
    [⟨0, 24, .rw, 0, []⟩]⟩,
  ⟨"MB_BOOT_CTL", 0xF04024, [],
    [⟨0, 1, .own, 0, []⟩]⟩,
  ⟨"MB_BOOT_STATUS", 0xF04028, [],
    [⟨8, 8, .ro, 0, []⟩,
     ⟨0, 3, .ro, 0, []⟩]⟩,
  ⟨"MB_FW_VER", 0xF0402C, [],
    [⟨0, 32, .ro, 0, []⟩]⟩]

/-- Rows of Table 15.16. -/
def regs15_16_0 : List RegRow := [
  ⟨"NT_CTL", 0xE00000, [],
    [⟨0, 1, .rw, 0, []⟩]⟩,
  ⟨"NT_PTP_CFG", 0xE00004, [],
    [⟨31, 1, .rw, 0, []⟩,
     ⟨11, 1, .rw, 0, []⟩,
     ⟨10, 1, .rw, 0, []⟩,
     ⟨9, 1, .rw, 0, []⟩,
     ⟨8, 1, .w1c, 0, []⟩,
     ⟨0, 8, .rw, 0, []⟩]⟩,
  ⟨"NT_TS_FIFO_w", 0xE00010, [(0x4, 4)],
    [⟨0, 32, .ro, 0, []⟩]⟩,
  ⟨"NT_n_CFG", 0xE01000, [(0x1000, 2)],
    [⟨31, 1, .rw, 0, []⟩,
     ⟨15, 1, .rw, 0, []⟩,
     ⟨12, 3, .rw, 0, []⟩,
     ⟨0, 12, .rw, 0, []⟩]⟩,
  ⟨"NT_n_MAC_LO", 0xE01004, [(0x1000, 2)],
    [⟨0, 32, .rw, 0, []⟩]⟩,
  ⟨"NT_n_MAC_HI", 0xE01008, [(0x1000, 2)],
    [⟨0, 16, .rw, 0, []⟩]⟩,
  ⟨"NT_n_IP4", 0xE0100C, [(0x1000, 2)],
    [⟨0, 32, .rw, 0, []⟩]⟩,
  ⟨"NT_n_IP4_GW", 0xE01010, [(0x1000, 2)],
    [⟨0, 32, .rw, 0, []⟩]⟩,
  ⟨"NT_n_PREFIX", 0xE01014, [(0x1000, 2)],
    [⟨8, 8, .rw, 64, []⟩,
     ⟨0, 8, .rw, 24, []⟩]⟩,
  ⟨"NT_n_IP6_j", 0xE01020, [(0x1000, 2), (0x4, 4)],
    [⟨0, 32, .rw, 0, []⟩]⟩,
  ⟨"NT_n_IP6_GW_j", 0xE01030, [(0x1000, 2), (0x4, 4)],
    [⟨0, 32, .rw, 0, []⟩]⟩,
  ⟨"NT_n_STATUS", 0xE01040, [(0x1000, 2)],
    [⟨4, 1, .ro, 0, []⟩,
     ⟨3, 1, .ro, 0, []⟩,
     ⟨2, 1, .ro, 0, []⟩,
     ⟨1, 1, .ro, 0, []⟩,
     ⟨0, 1, .ro, 0, []⟩]⟩,
  ⟨"NT_n_TS_ADJ", 0xE01044, [(0x1000, 2)],
    [⟨0, 32, .ro, 0, []⟩]⟩,
  ⟨"NT_n_RX_CNT", 0xE01048, [(0x1000, 2)],
    [⟨0, 32, .rc, 0, []⟩]⟩,
  ⟨"NT_n_TX_CNT", 0xE0104C, [(0x1000, 2)],
    [⟨0, 32, .rc, 0, []⟩]⟩,
  ⟨"NT_n_DROP_CNT", 0xE01050, [(0x1000, 2)],
    [⟨0, 32, .rc, 0, []⟩]⟩,
  ⟨"NT_n_FCS_CNT", 0xE01054, [(0x1000, 2)],
    [⟨0, 32, .rc, 0, []⟩]⟩,
  ⟨"NT_EXP_k_HANDLE", 0xE04000, [(0x40, 8)],
    [⟨0, 32, .rw, 0, []⟩]⟩,
  ⟨"NT_EXP_k_CFG", 0xE04004, [(0x40, 8)],
    [⟨31, 1, .own, 0, []⟩,
     ⟨30, 1, .w1c, 0, []⟩,
     ⟨29, 1, .rw, 0, []⟩,
     ⟨0, 16, .rw, 0, []⟩]⟩,
  ⟨"NT_EXP_k_SPORT", 0xE04008, [(0x40, 8)],
    [⟨0, 16, .rw, 0, []⟩]⟩,
  ⟨"NT_EXP_k_ADDR_j", 0xE04010, [(0x40, 8), (0x4, 4)],
    [⟨0, 32, .rw, 0, []⟩]⟩,
  ⟨"NT_EXP_k_SENT", 0xE04020, [(0x40, 8)],
    [⟨0, 32, .rc, 0, []⟩]⟩]

/-- Rows of Table 16.9. -/
def regs16_9_0 : List RegRow := [
  ⟨"CL_STATUS", 0x300000, [],
    [⟨9, 1, .w1c, 0, []⟩,
     ⟨8, 1, .w1c, 0, []⟩,
     ⟨7, 1, .w1c, 0, []⟩,
     ⟨6, 1, .w1c, 0, []⟩,
     ⟨5, 1, .w1c, 0, []⟩,
     ⟨4, 1, .ro, 0, []⟩,
     ⟨3, 1, .ro, 0, []⟩,
     ⟨2, 1, .w1c, 0, []⟩,
     ⟨1, 1, .ro, 0, []⟩,
     ⟨0, 1, .ro, 0, []⟩]⟩,
  ⟨"CL_DEGRADED", 0x300004, [],
    [⟨0, 8, .ro, 0, []⟩]⟩,
  ⟨"CL_COPY_B", 0x300008, [],
    [⟨0, 8, .ro, 0, []⟩]⟩,
  ⟨"CL_CFG", 0x30000C, [],
    [⟨2, 1, .rw, 1, []⟩,
     ⟨1, 1, .rw, 1, []⟩,
     ⟨0, 1, .rw, 1, []⟩]⟩,
  ⟨"CL_HOLD_GEN_LO", 0x300010, [],
    [⟨0, 32, .ro, 0, []⟩]⟩,
  ⟨"CL_HOLD_GEN_HI", 0x300014, [],
    [⟨0, 32, .ro, 0, []⟩]⟩,
  ⟨"CL_ID_STAMP", 0x300020, [],
    [⟨0, 32, .ro, 0, []⟩]⟩,
  ⟨"CL_ID_SOUNDING", 0x300024, [],
    [⟨0, 32, .ro, 0, []⟩]⟩,
  ⟨"CL_ID_FLOW_s", 0x300080, [(0x4, 16)],
    [⟨0, 32, .ro, 0, []⟩]⟩,
  ⟨"CL_QY_n_STATUS", 0x301000, [(0x100, 8)],
    [⟨4, 4, .ro, 0, []⟩,
     ⟨0, 4, .ro, 0, []⟩]⟩,
  ⟨"CL_QY_n_UPD", 0x301004, [(0x100, 8)],
    [⟨0, 32, .rc, 0, []⟩]⟩,
  ⟨"CL_QY_n_NOISE", 0x301008, [(0x100, 8)],
    [⟨16, 16, .ro, 0, []⟩,
     ⟨0, 16, .ro, 0, []⟩]⟩,
  ⟨"CL_QY_n_IQ_q", 0x30100C, [(0x100, 8), (0x4, 2)],
    [⟨16, 16, .ro, 0, []⟩,
     ⟨0, 16, .ro, 0, []⟩]⟩,
  ⟨"CL_QY_n_L_l_SPARE", 0x301020, [(0x100, 8), (0x10, 4)],
    [⟨7, 1, .ro, 0, []⟩,
     ⟨4, 3, .ro, 0, []⟩,
     ⟨0, 3, .ro, 0, []⟩]⟩,
  ⟨"CL_QY_n_L_l_SEL", 0x301024, [(0x100, 8), (0x10, 4)],
    [⟨0, 4, .rw, 0, [(0, 8)]⟩]⟩,
  ⟨"CL_QY_n_L_l_TRIM1", 0x301028, [(0x100, 8), (0x10, 4)],
    [⟨16, 16, .ro, 0, []⟩,
     ⟨0, 16, .ro, 0, []⟩]⟩,
  ⟨"CL_QY_n_L_l_TRIM2", 0x30102C, [(0x100, 8), (0x10, 4)],
    [⟨0, 16, .ro, 0, []⟩]⟩,
  ⟨"CL_TL_l_STATUS", 0x304000, [(0x20, 128)],
    [⟨24, 8, .ro, 0, []⟩,
     ⟨12, 12, .ro, 0, []⟩,
     ⟨1, 2, .ro, 0, []⟩,
     ⟨0, 1, .ro, 0, []⟩]⟩,
  ⟨"CL_TL_l_HITS", 0x304004, [(0x20, 128)],
    [⟨0, 21, .ro, 0, []⟩]⟩,
  ⟨"CL_TL_l_AMB_LO", 0x304008, [(0x20, 128)],
    [⟨0, 32, .rw, 1, []⟩]⟩,
  ⟨"CL_TL_l_AMB_HI", 0x30400C, [(0x20, 128)],
    [⟨0, 32, .rw, 0, []⟩]⟩,
  ⟨"CL_TL_l_PASSES", 0x304010, [(0x20, 128)],
    [⟨0, 32, .rc, 0, []⟩]⟩,
  ⟨"CL_SN_STATUS", 0x306000, [],
    [⟨8, 1, .ro, 0, []⟩,
     ⟨0, 4, .ro, 0, []⟩]⟩,
  ⟨"CL_SN_REF_k", 0x306004, [(0x4, 4)],
    [⟨0, 32, .ro, 0, []⟩]⟩]

/-- Rows of Table 16.9. -/
def regs16_9_1 : List RegRow := [
  ⟨"CL_SN_ROT", 0x306014, [],
    [⟨0, 32, .rc, 0, []⟩]⟩]

/-- Rows of Table 17.10. -/
def regs17_10_0 : List RegRow := [
  ⟨"RS_LAST", 0x200000, [],
    [⟨4, 2, .ro, 0, []⟩,
     ⟨0, 4, .ro, 0, []⟩]⟩,
  ⟨"RS_CTL", 0x200004, [],
    [⟨1, 1, .own, 0, []⟩,
     ⟨0, 1, .own, 0, []⟩]⟩,
  ⟨"RS_WDT_CFG", 0x200008, [],
    [⟨31, 1, .own, 0, []⟩,
     ⟨0, 24, .own, 1000000, [(1000, 10000000)]⟩]⟩,
  ⟨"RS_WDT_KICK", 0x20000C, [],
    [⟨0, 8, .own, 0, []⟩]⟩,
  ⟨"RS_LEVEL", 0x200010, [],
    [⟨0, 2, .ro, 3, []⟩,
     ⟨2, 2, .ro, 2, []⟩,
     ⟨4, 2, .ro, 2, []⟩,
     ⟨6, 2, .ro, 2, []⟩,
     ⟨8, 2, .ro, 2, []⟩,
     ⟨10, 2, .ro, 2, []⟩,
     ⟨12, 2, .ro, 3, []⟩,
     ⟨14, 2, .ro, 3, []⟩,
     ⟨16, 2, .ro, 2, []⟩,
     ⟨18, 2, .ro, 3, []⟩,
     ⟨20, 2, .ro, 1, []⟩,
     ⟨22, 2, .ro, 1, []⟩,
     ⟨24, 2, .ro, 0, []⟩,
     ⟨26, 2, .ro, 3, []⟩,
     ⟨28, 2, .ro, 2, []⟩,
     ⟨30, 2, .ro, 3, []⟩]⟩,
  ⟨"RS_PWR_REQ", 0x200020, [],
    [⟨8, 1, .own, 0, []⟩,
     ⟨0, 5, .own, 0, []⟩]⟩,
  ⟨"RS_PWR_STATUS", 0x200024, [],
    [⟨28, 4, .ro, 0, []⟩,
     ⟨27, 1, .ro, 0, []⟩,
     ⟨0, 26, .ro, 67108863, []⟩]⟩,
  ⟨"RS_LOCK_ERR", 0x200028, [],
    [⟨0, 26, .w1c, 0, []⟩]⟩,
  ⟨"RS_LOCK_TMO", 0x20002C, [],
    [⟨0, 26, .w1c, 0, []⟩]⟩,
  ⟨"RS_DOM_RST", 0x200030, [],
    [⟨0, 5, .wo, 0, []⟩]⟩,
  ⟨"RS_BERTH_RST", 0x200034, [],
    [⟨0, 12, .wo, 0, []⟩]⟩,
  ⟨"RS_SAFE", 0x200040, [],
    [⟨0, 8, .own, 0, []⟩]⟩,
  ⟨"RS_SAFE_STATUS", 0x200044, [],
    [⟨8, 4, .ro, 0, []⟩,
     ⟨5, 1, .w1c, 0, []⟩,
     ⟨4, 1, .ro, 0, []⟩,
     ⟨3, 1, .ro, 0, []⟩,
     ⟨2, 1, .ro, 0, []⟩,
     ⟨1, 1, .ro, 0, []⟩,
     ⟨0, 1, .ro, 0, []⟩]⟩,
  ⟨"RS_THERM", 0x200048, [],
    [⟨16, 8, .ro, 0, []⟩,
     ⟨8, 8, .rw, 174, []⟩,
     ⟨0, 1, .w1c, 0, []⟩]⟩,
  ⟨"RS_PIN_HOLD", 0x200050, [],
    [⟨1, 1, .own, 0, []⟩,
     ⟨0, 1, .ro, 0, []⟩]⟩,
  ⟨"RS_FW", 0x200054, [],
    [⟨2, 1, .w1c, 0, []⟩,
     ⟨1, 1, .ro, 0, []⟩,
     ⟨0, 1, .ro, 0, []⟩]⟩,
  ⟨"RS_BAL_CNT_s", 0x200100, [(0x4, 16)],
    [⟨0, 16, .ro, 0, []⟩]⟩,
  ⟨"RS_BAL_CAUSE", 0x200140, [],
    [⟨4, 2, .ro, 0, []⟩,
     ⟨0, 4, .ro, 0, []⟩]⟩,
  ⟨"RS_BAL_STAMP_LO", 0x200144, [],
    [⟨0, 32, .ro, 0, []⟩]⟩,
  ⟨"RS_BAL_STAMP_HI", 0x200148, [],
    [⟨0, 16, .ro, 0, []⟩]⟩,
  ⟨"RS_BAL_TRIM_ABORT", 0x20014C, [],
    [⟨0, 16, .ro, 0, []⟩]⟩,
  ⟨"RS_BAL_SEALCNT", 0x200150, [],
    [⟨0, 32, .ro, 0, []⟩]⟩,
  ⟨"RS_BAL_STATUS", 0x200154, [],
    [⟨1, 1, .ro, 0, []⟩,
     ⟨0, 1, .w1c, 0, []⟩]⟩,
  ⟨"RS_BAL_RTC_LO", 0x200158, [],
    [⟨0, 32, .own, 0, []⟩]⟩]

/-- Rows of Table 17.10. -/
def regs17_10_1 : List RegRow := [
  ⟨"RS_BAL_RTC_HI", 0x20015C, [],
    [⟨0, 16, .own, 0, []⟩]⟩]

/-- Rows of Table 17.11. -/
def regs17_11_0 : List RegRow := [
  ⟨"CU_STATE", 0x100000, [],
    [⟨9, 1, .ro, 0, []⟩,
     ⟨8, 1, .ro, 0, []⟩,
     ⟨0, 3, .ro, 0, []⟩]⟩,
  ⟨"CU_CTL", 0x100004, [],
    [⟨2, 1, .own, 0, []⟩,
     ⟨1, 1, .own, 0, []⟩,
     ⟨0, 1, .own, 0, []⟩]⟩,
  ⟨"CU_STATUS", 0x100008, [],
    [⟨4, 4, .ro, 0, []⟩,
     ⟨3, 1, .w1c, 0, []⟩,
     ⟨2, 1, .ro, 0, []⟩,
     ⟨1, 1, .ro, 0, []⟩,
     ⟨0, 1, .ro, 0, []⟩]⟩,
  ⟨"CU_RWL_CNT", 0x10000C, [],
    [⟨0, 32, .rc, 0, []⟩]⟩,
  ⟨"CU_NONCE_LO", 0x100010, [],
    [⟨0, 32, .ro, 0, []⟩]⟩,
  ⟨"CU_NONCE_HI", 0x100014, [],
    [⟨0, 32, .ro, 0, []⟩]⟩,
  ⟨"CU_SEALCNT", 0x100018, [],
    [⟨0, 32, .ro, 0, []⟩]⟩,
  ⟨"CU_ROLLBACK", 0x10001C, [],
    [⟨0, 6, .ro, 0, []⟩]⟩,
  ⟨"CU_ELIM_EMIT", 0x100020, [],
    [⟨0, 32, .ro, 50000000, []⟩]⟩,
  ⟨"CU_ELIM_HEAD", 0x100024, [],
    [⟨0, 32, .ro, 1500000000, []⟩]⟩,
  ⟨"CU_TOKEN_w", 0x100080, [(0x4, 32)],
    [⟨0, 32, .wo, 0, []⟩]⟩,
  ⟨"CU_PROG_ADDR", 0x100100, [],
    [⟨0, 12, .rw, 0, []⟩]⟩,
  ⟨"CU_PROG_DATA", 0x100104, [],
    [⟨0, 32, .rw, 0, []⟩]⟩,
  ⟨"CU_PROG_CTL", 0x100108, [],
    [⟨0, 1, .own, 0, []⟩]⟩,
  ⟨"CU_PROG_STATUS", 0x10010C, [],
    [⟨1, 1, .w1c, 0, []⟩,
     ⟨0, 1, .ro, 0, []⟩]⟩]

/-- Rows of Table 15.8. -/
def regs15_8_0 : List RegRow := [
  ⟨"HB_IF_0", 0x2000, [],
    [⟨24, 8, .ro, 0, []⟩,
     ⟨8, 8, .ro, 2, []⟩,
     ⟨0, 8, .ro, 1, []⟩]⟩,
  ⟨"HB_IF_1", 0x2004, [],
    [⟨24, 8, .ro, 0, []⟩,
     ⟨8, 8, .ro, 1, []⟩,
     ⟨0, 8, .ro, 1, []⟩]⟩,
  ⟨"HB_IF_2", 0x2008, [],
    [⟨24, 8, .ro, 0, []⟩,
     ⟨8, 8, .ro, 2, []⟩,
     ⟨0, 8, .ro, 1, []⟩]⟩,
  ⟨"HB_IF_3", 0x200C, [],
    [⟨24, 8, .ro, 0, []⟩,
     ⟨8, 8, .ro, 2, []⟩,
     ⟨0, 8, .ro, 1, []⟩]⟩,
  ⟨"HB_IF_4", 0x2010, [],
    [⟨24, 8, .ro, 0, []⟩,
     ⟨8, 8, .ro, 2, []⟩,
     ⟨0, 8, .ro, 1, []⟩]⟩]

/-- The MSI-X table and PBA (Table 15.1); their words are laid out as PCI Express lays them out (PRESUMED, log entry 23). -/
def regsMsix : List RegRow := [
  ⟨"MSIX_v_ADDR_LO", 0xFF0000, [(0x10, 64)],
    [⟨0, 32, .rw, 0, []⟩]⟩,
  ⟨"MSIX_v_ADDR_HI", 0xFF0004, [(0x10, 64)],
    [⟨0, 32, .rw, 0, []⟩]⟩,
  ⟨"MSIX_v_DATA", 0xFF0008, [(0x10, 64)],
    [⟨0, 32, .rw, 0, []⟩]⟩,
  ⟨"MSIX_v_CTRL", 0xFF000C, [(0x10, 64)],
    [⟨0, 1, .rw, 1, []⟩]⟩,
  ⟨"MSIX_PBA_w", 0xFF1000, [(0x4, 2)],
    [⟨0, 32, .ro, 0, []⟩]⟩]

/-- Every register row of the window (Tables 1.10 to 17.11). -/
def regMap : List RegRow :=
  regs1_10_0 ++
  regs2_10_0 ++
  regs2_10_1 ++
  regs3_5_0 ++
  regs3_5_1 ++
  regs4_6_0 ++
  regs4_7_0 ++
  regs5_8_0 ++
  regs5_9_0 ++
  regs6_12_0 ++
  regs6_13_0 ++
  regs7_13_0 ++
  regs7_13_1 ++
  regs8_14_0 ++
  regs8_15_0 ++
  regs8_15_1 ++
  regs9_11_0 ++
  regs9_12_0 ++
  regs10_11_0 ++
  regs10_12_0 ++
  regs11_9_0 ++
  regs11_10_0 ++
  regs12_6_0 ++
  regs12_7_0 ++
  regs13_11_0 ++
  regs13_12_0 ++
  regs13_13_0 ++
  regs13_14_0 ++
  regs14_10_0 ++
  regs14_11_0 ++
  regs15_14_0 ++
  regs15_15_0 ++
  regs15_16_0 ++
  regs16_9_0 ++
  regs16_9_1 ++
  regs17_10_0 ++
  regs17_10_1 ++
  regs17_11_0 ++
  regs15_8_0 ++
  regsMsix

/-- A latching pair (R2): its low row, its instances, and the distances of the rows that a read of the low word latches. -/
structure PairRow where
  name : String
  base : Nat
  dims : List (Nat × Nat)
  highs : List Nat
  deriving DecidableEq, Repr

/-- The 64-bit pairs whose low row says that reading it latches the high word (R2). -/
def pairMap : List PairRow := [
  ⟨"HB_TIME_LO", 0x8, [], [4]⟩,
  ⟨"HB_TIDE_LO", 0x10, [], [4]⟩,
  ⟨"HB_LAND_LO", 0x1010, [], [4]⟩,
  ⟨"HB_MF_BUILD_LO", 0x1818, [], [4]⟩,
  ⟨"QY_EPOCH_LO", 0x400010, [(0x10000, 8)], [4]⟩,
  ⟨"QY_LAUNCH_LO", 0x400018, [(0x10000, 8)], [4]⟩,
  ⟨"RX_SEG_LO", 0x501050, [(0x100, 8)], [4]⟩,
  ⟨"RX_LOST_AT_LO", 0x501058, [(0x100, 8)], [4]⟩,
  ⟨"RX_SL_SYNC_LO", 0x504008, [], [4]⟩,
  ⟨"RX_BT_i_RING_LO", 0x508020, [(0x80, 4096)], [4]⟩,
  ⟨"RX_BT_i_SEQ_LO", 0x508030, [(0x80, 4096)], [4]⟩,
  ⟨"RX_BT_i_DELAY_LO", 0x508040, [(0x80, 4096)], [4]⟩,
  ⟨"RX_BT_i_ANCHOR_LO", 0x508048, [(0x80, 4096)], [4]⟩,
  ⟨"RX_BT_i_ANCHOR_SEQ_LO", 0x508050, [(0x80, 4096)], [4]⟩,
  ⟨"RX_FZ_z_SEQ_LO", 0x591008, [(0x100, 256)], [4]⟩,
  ⟨"RX_FZ_z_RING_LO", 0x591010, [(0x100, 256)], [4]⟩,
  ⟨"RX_FZ_z_ANCHOR_LO", 0x591028, [(0x100, 256)], [4]⟩,
  ⟨"RX_FZ_z_DELAY_LO", 0x591034, [(0x100, 256)], [4]⟩,
  ⟨"LG_GEN_LO", 0xF00008, [], [4]⟩,
  ⟨"LG_RECSEQ_LO", 0xF00010, [], [4]⟩,
  ⟨"LG_RING_ADDR_LO", 0xF0001C, [], [4]⟩,
  ⟨"LG_CZ_ACKED_LO", 0xF00050, [], [4]⟩,
  ⟨"LG_PT_i_LAST_LO", 0xF01018, [(0x40, 64)], [4]⟩,
  ⟨"TL_LANE_i_PERIOD_LO", 0x60106C, [(0x10000, 8), (0x100, 16)], [4]⟩,
  ⟨"TL_LANE_i_COUNT_LO", 0x601078, [(0x10000, 8), (0x100, 16)], [4]⟩,
  ⟨"TL_LANE_i_MEAS_LO", 0x601080, [(0x10000, 8), (0x100, 16)], [4]⟩,
  ⟨"BC_m_SCAN_LO", 0x701018, [(0x400, 8)], [4]⟩,
  ⟨"SN_CH_c_STAMP_LO", 0x80103C, [(0x100, 16)], [4]⟩,
  ⟨"WT_w_SEQ_LO", 0x901020, [(0x100, 32)], [4]⟩,
  ⟨"WT_w_RING_LO", 0x901028, [(0x100, 32)], [4]⟩,
  ⟨"WT_w_TRIG_LO", 0x901038, [(0x100, 32)], [4, 8]⟩,
  ⟨"WH_USABLE_LO", 0xB00010, [], [4]⟩,
  ⟨"WH_CHK_ADDR_LO", 0xB00018, [], [4]⟩,
  ⟨"CL_HOLD_GEN_LO", 0x300010, [], [4]⟩,
  ⟨"RS_BAL_STAMP_LO", 0x200144, [], [4]⟩,
  ⟨"RS_BAL_RTC_LO", 0x200158, [], [4]⟩,
  ⟨"CU_NONCE_LO", 0x100010, [], [4]⟩]

end Sys2Proof.Machine
end

