-- ==== Sys2Proof/Machine/Operands.lean ====
section
/-! DEFINITION. The forms in which a command names a register: finding a register row from a byte address, reading a word,
and writing a field under its access code (R1 to R8, Table 0.4). -/

namespace Sys2Proof.Machine

/-- The distance `o` from a row's base is that of one of its instances. -/
def dimsHit : List (Nat × Nat) → Nat → Bool
  | [], o => o == 0
  | (st, n) :: ds, o => decide (o / st < n) && dimsHit ds (o % st)

/-- The row of the register at a byte address, if one occupies it. -/
def regRow? (addr : Nat) : Option RegRow :=
  regMap.find? (fun r => decide (r.base ≤ addr) && dimsHit r.dims (addr - r.base))

/-- The latching pair whose low row lies at a byte address (R2). -/
def pairRow? (addr : Nat) : Option PairRow :=
  pairMap.find? (fun r => decide (r.base ≤ addr) && dimsHit r.dims (addr - r.base))

/-- The field of a row as it lies at a byte address. -/
def FRow.at (f : FRow) (addr : Nat) : Fld := ⟨8 * addr + f.lo, f.width, f.reset⟩

/-- The encodings a field accepts (R8): all of them when the table names no range. -/
def FRow.accepts (f : FRow) (v : Nat) : Bool := f.legal.isEmpty || f.legal.any (fun r => decide (r.1 ≤ v ∧ v ≤ r.2))

/-- The word the stored fields of a row make. -/
def rowWord (s : State) (r : RegRow) (addr : Nat) : Nat :=
  (r.fields.map (fun f => if f.acc == .wo then 0 else s.rd (f.at addr) * 2 ^ f.lo)).sum

/-- The reset value of the register at an address. -/
def rowReset (r : RegRow) : Nat := (r.fields.map (fun f => f.reset * 2 ^ f.lo)).sum

/-- The word a register holds at this instant; the time registers follow the master counter (R24, R34), the
RTC its crystal, and three conditions of RS_SAFE_STATUS show as they stand (R441). -/
def State.liveWord (s : State) (addr : Nat) : Nat :=
  if addr = 0x8 then low 32 s.now
  else if addr = 0xC then low 32 (s.now / 2 ^ 32)
  else if addr = 0x10 then low 32 (tideOf s.now)
  else if addr = 0x14 then low 15 (tideOf s.now / 2 ^ 32)
  else if addr = 0x200044 then (match regRow? addr with
    | some r => rowWord s r addr
    | none => 0) + 2 * flag s.trimsOk + 4 * flag s.mfIsActive + 8 * flag s.ilockStable
  else if addr = 0x200158 then low 32 s.rtc
  else if addr = 0x20015C then s.rtc / 2 ^ 32
  else match regRow? addr with
    | some r => rowWord s r addr
    | none => 0

/-- A byte address is the high row of a latching pair (R2). -/
def isHighRow (addr : Nat) : Bool :=
  pairMap.any (fun p => p.highs.any (fun h => decide (p.base + h ≤ addr) && dimsHit p.dims (addr - (p.base + h))))

/-- What a read of a register returns: the shadow, or before any read of the low word the reset value, for the high row of a
latching pair (R2), the register itself otherwise. -/
def State.readWord (s : State) (addr : Nat) : Nat :=
  if isHighRow addr then
    match Tab.get none s.shadows addr with
    | some v => v
    | none => match regRow? addr with
      | some r => rowReset r
      | none => 0
  else s.liveWord addr

/-- Latches the rows a read of the low word at `addr` latches (R2). -/
def State.latchHigh (s : State) (addr : Nat) (p : PairRow) : State :=
  { s with shadows := p.highs.foldl (fun t h => Tab.put none t (addr + h) (some (s.liveWord (addr + h)))) s.shadows }

/-- Ends a bus access with its completion. -/
def State.answer (s : State) (st : BusStatus) (data : List Nat) : State := { s with completion := ⟨st, data⟩ }

/-- A write of `v` to one field under its access code (Table 0.4); `hw` holds the field's bits that hardware sets in the same
cycle, which win over a clear (R4). A field whose write has its own command stays as it is. -/
def State.writeField (s : State) (addr : Nat) (f : FRow) (v hw : Nat) : State :=
  match f.acc with
  | .ro | .rc | .own => s
  | .rw | .wo => if f.accepts v then s.wr (f.at addr) v else s
  | .w1s => s.wr (f.at addr) (s.rd (f.at addr) ||| v)
  | .w1c => s.wr (f.at addr) (s.rd (f.at addr) - (s.rd (f.at addr) &&& v) ||| hw)
  | .rwl => if s.isSealed then (s.wr R.CU_STATUS_RWL_HIT 1).inc R.CU_RWL_CNT_COUNT
            else if f.accepts v then s.wr (f.at addr) v else s

/-- A write of a whole word to the register of row `r`, field by field (R3, R8). -/
def State.writeRow (s : State) (r : RegRow) (addr value hw : Nat) : State :=
  r.fields.foldl (fun t f => t.writeField addr f (bits value f.lo f.width) (bits hw f.lo f.width)) s

/-- A read of an RC field clears it but for the bits hardware sets in the same cycle (R5). -/
def State.readClearField (s : State) (addr hw : Nat) (f : FRow) : State :=
  if f.acc = .rc then s.wr (f.at addr) (bits hw f.lo f.width) else s

end Sys2Proof.Machine
end

