-- ==== Sys2Proof/Machine/Launch.lean ====
section
/-! DEFINITION. Chapter 03: launch synthesis, plans, gates, and the front-end lines of a quay. -/

namespace Sys2Proof.Machine

/-- The quay numbered `n`. -/
def State.quay (s : State) (n : Nat) : Quay := Tab.get {} s.quays n

/-- Sets the quay numbered `n`. -/
def State.setQuay (s : State) (n : Nat) (q : Quay) : State := { s with quays := Tab.put {} s.quays n q }

/-- The receive slice of quay `n`. -/
def State.rxOf (s : State) (n : Nat) : RxSlice := Tab.get {} s.rx n

/-- Sets the receive slice of quay `n`. -/
def State.setRx (s : State) (n : Nat) (x : RxSlice) : State := { s with rx := Tab.put {} s.rx n x }

/-- The first register write of a block after an L0 or L1 reset ends the cold-reset state or the hold of its outputs (R437, R461); the tally banks
share ALERT_N. -/
def State.endHold (s : State) (d : Nat) : State :=
  let k := if 9 ≤ d ∧ d ≤ 16 then 9 else d
  let h := Tab.put [] s.power.holds k []
  let s1 : State := { s with power := { s.power with holds := h, cold := s.power.cold.filter (· != k) } }
  if s.power.holds.isEmpty then s1 else s1.wrB R.RS_PIN_HOLD_HOLDING (!h.isEmpty)

/-- A register write reaches its domain, or its Lock discards it and notes the access (R31, R444). -/
def State.whenOn (s : State) (d : Nat) (f : State → Res) : Res := if s.powered d then f (s.endHold d) else goOn (s.lockAnswer d)

/-- A configuration write to a block of domain `d`: while QLINK_C retrains, one that goes over it is held, and so is any later write to the
same block, which keeps the host's order (R16, R21). -/
def State.overQlink (s : State) (d : Nat) (crosses : Bool) (c : Instr) (f : State → Res) : Res :=
  let l := s.link 8
  if l.retraining && (crosses || l.held.any (fun e => e.1 == d)) then goOn (s.setLink 8 { l with held := l.held ++ [(d, c)] }) else f s

/-- The power domain of quay `n` (R443). -/
def quayDomain (n : Nat) : Nat := 1 + n

/-- The write `c` to a block of domain `d`: its Lock discards it while the domain is off, QLINK_C may hold it, and otherwise it reaches the block. -/
def State.blockWrite (s : State) (d : Nat) (crosses : Bool) (c : Instr) (f : State → Res) : Res :=
  if s.powered d then s.overQlink d crosses c (fun t => f (t.endHold d)) else goOn (s.lockAnswer d)

/-- A write to a register of quay `n`, which goes over QLINK_C to the Quay die. -/
def State.quayWrite (s : State) (n : Nat) (c : Instr) (f : State → Res) : Res := s.blockWrite (quayDomain n) true c f

/-- Plan `p` of quay `n`. -/
def State.plan (s : State) (n p : Nat) : Plan :=
  { valid := s.on (R.QY_PLAN_p_CFG_VALID n p), dir := s.rd (R.QY_PLAN_p_CFG_DIR n p), kind := s.rd (R.QY_PLAN_p_CFG_KIND n p)
    log2d := s.rd (R.QY_PLAN_p_CFG_LOG2D n p), log2n := s.rd (R.QY_PLAN_p_CFG_LOG2N n p)
    period := s.rd (R.QY_PLAN_p_PERIOD_PERIOD n p), lint := s.rd (R.QY_PLAN_p_LINT_LINT n p), ng := s.rd (R.QY_PLAN_p_NG_NG n p)
    chip := s.rd (R.QY_PLAN_p_WAVE_CHIP n p), log2l := s.rd (R.QY_PLAN_p_WAVE_LOG2L n p), len8 := s.rd (R.QY_PLAN_p_WAVE_LEN8 n p)
    taper := s.rd (R.QY_PLAN_p_BW_TAPER n p), bw := s.rd (R.QY_PLAN_p_BW_BW n p), amp := s.rd (R.QY_PLAN_p_AMP_AMP n p)
    zero := s.rd (R.QY_PLAN_p_ZERO_ZERO n p) }

/-- The active plan of quay `n`. -/
def State.activePlan (s : State) (n : Nat) : Plan := s.plan n (s.rd (R.QY_STATUS_ACTIVE n))

/-- Slots N of a plan (R62). -/
def Plan.slots (p : Plan) : Nat := 2 ^ p.log2n

/-- Pitch of the slots in MHz (R62). -/
def Plan.pitch (p : Plan) : Rat := 1000 / p.slots

/-- Centre f_s of a slot in MHz (R62). -/
def Plan.centre (p : Plan) (slot : Nat) : Rat := ((slot : Rat) - ((p.slots : Rat) - 1) / 2) * p.pitch

/-- Diversity factor D of a plan (R63). -/
def Plan.div (p : Plan) : Nat := 2 ^ p.log2d

/-- Launch period in ns (R63, R68). -/
def Plan.launchPeriod (p : Plan) : Nat := 4 * p.period

/-- The slot's group (R63). -/
def Plan.group (p : Plan) (slot : Nat) : Nat := slot % (p.slots / p.div)

/-- The slots of group `g` (R63). -/
def Plan.groupSlots (p : Plan) (g : Nat) : List Nat := (List.range p.div).map (fun i => g + i * (p.slots / p.div))

/-- Launch length in half nanoseconds, one per DAC sample (R65, R66). -/
def Plan.codeHalfNs (p : Plan) : Nat := if p.kind = 0 then 8 * p.len8 else 2 ^ p.log2l * p.chip

/-- Launch length in ns, rounded up. -/
def Plan.codeNs (p : Plan) : Nat := ceilDiv p.codeHalfNs 2

/-- Start of launch `k` of a slot (R63). -/
def Plan.launchTime (p : Plan) (epoch k slot : Nat) : Nat :=
  epoch + k * p.launchPeriod + p.group slot * p.launchPeriod * p.div / p.slots

/-- Point-samples of a slot launch (R70). -/
def Plan.yields (p : Plan) : Nat := p.launchPeriod / p.slots

/-- Two plans with one cadence: the same N, D, PERIOD, LINT, NG and ZERO (R75, R76). -/
def Plan.sameCadence (a b : Plan) : Bool :=
  a.log2n == b.log2n && a.log2d == b.log2d && a.period == b.period && a.lint == b.lint && a.ng == b.ng && a.zero == b.zero

/-- Addressable points P = floor(L_int / Δz_N) + 1 (R70); c = 299,792,458 m/s. -/
def Plan.points (p : Plan) : Nat := p.lint * (2 * p.ng * 10 ^ 9) / (p.slots * 299792458 * 2 ^ 22) + 1

/-- Point-state need in bytes (R100). -/
def Plan.psmNeed (p : Plan) : Nat :=
  4 * p.points + (if p.slots = 1 then 0 else 2 * p.points * p.slots) + (if p.kind = 1 then 8 * p.points * p.slots else 0)

/-- The conditions of Table 3.2 and R100 on a plan (R68). -/
def Plan.wf (p : Plan) : Bool :=
  decide (p.log2n ≤ 4) && decide (p.log2d ≤ p.log2n) &&
  decide (140 * 2 ^ 22 ≤ 100 * p.ng ∧ 100 * p.ng ≤ 155 * 2 ^ 22) &&
  decide (100 ≤ p.lint ∧ p.lint ≤ 105000) &&
  -- LINT is at least D_code = Δz_1 × T_code
  decide (299792458 * 2 ^ 22 * p.codeHalfNs ≤ p.lint * (2 * p.ng * 10 ^ 9) * 2) &&
  decide (p.period % p.slots = 0) &&
  -- PERIOD × 4 ns is at least T_rt(LINT)
  decide (2 * p.ng * p.lint * 10 ^ 9 ≤ 4 * p.period * 2 ^ 22 * 299792458) &&
  decide (p.period ≤ 262143) &&
  decide (p.kind ≤ 1) &&
  (if p.kind = 0 then decide (8 ≤ p.len8 ∧ p.len8 ≤ 8192 ∧ p.bw * p.slots ≤ 900000 ∧ p.taper ≤ 25)
   else decide (2 ≤ p.log2l ∧ p.log2l ≤ 12 ∧ ceilDiv (5 * p.slots) 2 ≤ p.chip ∧ p.chip ≤ 256 ∧ 2 ^ p.log2l * p.chip ≤ 65536)) &&
  decide (1 ≤ p.amp) && decide (p.psmNeed ≤ 4194304)

/-- The Tukey taper at `h` half nanoseconds from the launch start: `taper` % of the length `len`, half of it at either end (R65). -/
def tukey (taper len : Nat) (h : Rat) : Rat :=
  let m : Rat := taper * len / 200
  let x := if 2 * h ≤ len then h else len - h
  if m ≤ x then 1 else (1 - (cis (x / (2 * m))).1) / 2

/-- The complementary pair A_i and B_i of 2^i chips, by doubling (R66). -/
def codePair : Nat → List Int × List Int
  | 0 => ([1], [1])
  | i + 1 => let c := codePair i; (c.1 ++ c.2, c.1 ++ c.2.map (fun z => -z))

/-- The raised-cosine pulse of roll-off 0.125, `x` chips from its centre (R66). -/
def chipPulse (x : Rat) : Rat :=
  if x = 0 then 1 else if x * x = 16 then 0 else (cis (x / 2)).2 / (piRat * x) * (cis (x / 16)).1 / (1 - x * x / 16)

/-- The chips of the code that a launch carries (R66). -/
def Plan.code (p : Plan) (odd : Bool) : List Int := if odd then (codePair p.log2l).2 else (codePair p.log2l).1

/-- The launch about its slot centre, of amplitude 1 before scaling, `h` half nanoseconds from its start: the linear sweep with its taper, or the
shaped chips (R65, R66). -/
def Plan.envelope (p : Plan) (odd : Bool) (h : Rat) : Cx :=
  if h < 0 ∨ (p.codeHalfNs : Rat) ≤ h then (0, 0)
  else if p.kind = 0 then
    let turns : Rat := p.bw / 10 ^ 6 * (h * h / (4 * p.codeHalfNs) - h / 4)
    let a := tukey p.taper p.codeHalfNs h
    let z := cis (if p.dir = 0 then turns else -turns)
    (a * z.1, a * z.2)
  else ((((p.code odd).zipIdx.map (fun c => (c.1 : Rat) * chipPulse ((h - ((c.2 : Rat) + 1 / 2) * p.chip) / p.chip))).foldl (· + ·) 0), 0)

/-- The largest magnitude of the launch's samples before scaling: 1 for a sweep. -/
def Plan.peak (p : Plan) (odd : Bool) : Rat :=
  if p.kind = 0 then 1 else ((List.range p.codeHalfNs).map (fun (h : Nat) => let x := (p.envelope odd h).1; max x (-x))).foldl max 0

/-- The sample of a launch in flight at a DAC instant `h`, in half nanoseconds of device time (R60, R62, R65 to R67): at f_s, with AMP = 0xFFFF for
a peak of 511 codes. -/
def Flight.sample (f : Flight) (h : Nat) : Cx :=
  let i : Rat := (h : Rat) - 2 * f.start
  let e := f.plan.envelope f.odd i
  let z := cxMul e (cis (f.plan.centre f.slot * i / 2000 + f.phase))
  let a : Rat := 511 * f.plan.amp / 65535 / f.plan.peak f.odd
  (a * z.1, a * z.2)

/-- I and Q of quay `n` at a DAC instant before the clamp: the sum of the launches in flight, code 0 while QLINK_n retrains (R16, R67). -/
def State.dacSum (s : State) (n h : Nat) : Int × Int :=
  if s.gapMeets n (h / 2) (h / 2 + 1) then (0, 0)
  else
    let z := cxSum ((s.quay n).flights.map (fun f => f.sample h))
    (Config.rnd z.1, Config.rnd z.2)

/-- The clamp of a DAC code to ±511 (R60, R67). -/
def dacClamp (v : Int) : Int := max (-511) (min v 511)

/-- The codes of LI and LQ at a DAC instant (R60, R61, R67). -/
def State.dacCodes (s : State) (n h : Nat) : Int × Int := (dacClamp (s.dacSum n h).1, dacClamp (s.dacSum n h).2)

/-- LGATE_A of quay `n` is high (R72). -/
def State.gateA (s : State) (n : Nat) : Bool := decide (s.now < (s.quay n).gateUntil)

/-- LGATE_T of quay `n` is high (R73). -/
def State.gateT (s : State) (n : Nat) : Bool := decide ((s.quay n).lgtEdge ≤ 256 * s.now ∧ 256 * s.now < (s.quay n).lgtFall)

/-- The DAC samples up to the instant `h` (half ns) are sent: those that clamp set DAC_CLAMP and are counted (R67). Launches whose amplitudes
add to at most 0xFFFF cannot clamp. -/
def State.runDac (s : State) (n h : Nat) : State :=
  let q := s.quay n
  let s1 := s.setQuay n { q with dacAt := max q.dacAt h }
  if (q.flights.map (fun f => f.plan.amp)).sum ≤ 65535 then s1
  else
    let c := ((List.range (h - q.dacAt)).filter (fun i => decide (s.dacSum n (q.dacAt + i) ≠ s.dacCodes n (q.dacAt + i)))).length
    if c = 0 then s1 else (s1.wr (R.QY_STATUS_DAC_CLAMP n) 1).addSat (R.QY_CLAMP_CNT_COUNT n) c

/-- The epoch of quay `n` (R74). -/
def State.epoch (s : State) (n : Nat) : Nat := s.rdPair (R.QY_EPOCH_LO_EPOCH_LO n) (R.QY_EPOCH_HI_EPOCH_HI n)

/-- Device time moves on to an instant inside the current tide (log entry 5). -/
def State.advance (s : State) (t : Nat) : State := { s with now := max s.now t }

/-- An instant at which something may still happen before the next tide boundary. -/
def State.inTide (s : State) (t : Nat) : Bool := decide (t < nextBoundary s.now)

/-- Opens the SETTLE window of R108 at boundary `b`: 2 launch periods, 3 for a CODE plan; SEEDED of every offset clears, and
at a change of epoch VALID of every point clears too. -/
def State.openSettle (s : State) (n b : Nat) (newEpoch : Bool) : State :=
  let p := s.activePlan n
  let len := (if p.kind = 1 then 3 else 2) * p.launchPeriod
  let x := s.rxOf n
  let x1 := { x with offsets := x.offsets.map (fun (e : Nat × OffsetEntry) => (e.1, { e.2 with seeded := false })) }
  let x2 := if newEpoch then { x1 with points := x1.points.map (fun (e : Nat × PointEntry) => (e.1, { e.2 with valid := false })) } else x1
  let q := s.quay n
  let x3 := { x2 with offsets := x2.offsets.filter (fun e => decide (e.2 ≠ { angle := 0, seeded := false })),
                        points := x2.points.filter (fun e => decide (e.2 ≠ { phase := 0, valid := false })) }
  (s.setQuay n { q with settleFrom := b, settleTo := b + len }).setRx n x3

/-- The power of compressed outputs that a value in 1/16 dB below full scale stands for (R97). -/
def noisePower (v : Nat) : Rat :=
  -- 10^(1/160)
  Config.fullScale / (101449520806873610873546628282456835218651861739874 / 10 ^ 50 : Rat) ^ v

/-- The noise estimate of quay `n` restarts from the calibrated value and NOISE_VALID clears (R97). -/
def State.restartNoise (s : State) (n : Nat) : State :=
  let x := s.rd (R.CL_QY_n_NOISE_X n)
  let y := s.rd (R.CL_QY_n_NOISE_Y n)
  let s1 := ((s.wr (R.RX_STATUS_NOISE_VALID n) 0).wr (R.RX_NOISE_X n) x).wr (R.RX_NOISE_Y n) y
  s1.setRx n { (s.rxOf n) with noise := (noisePower x, noisePower y), noiseCount := 0, noiseSums := [] }

/-- Number of the next segment to close, counted from the epoch (R92). -/
def State.segNext (s : State) (n : Nat) : Nat :=
  s.rdPair (R.RX_SEG_LO_COUNT_LO n) (R.RX_SEG_HI_COUNT_HI n) + (s.rxOf n).skipped

/-- The echoes of the launches in flight on quay `n` are lost: samples of them are missing (R16, R23). -/
def State.loseFlights (s : State) (n : Nat) : State :=
  let q := s.quay n
  s.setQuay n { q with fates := q.fates.map (fun f => if q.flights.any (fun g => g.slot == f.slot && g.start == f.start) then { f with lost := true } else f) }

/-- The quay stops launching (R77): STOPPED sets, begun leads are dropped and LGATE_A falls. Only a quay whose RUNNING reads 1 stops. -/
def State.quayStop (s : State) (n : Nat) : State :=
  if s.on (R.QY_STATUS_RUNNING n) then
    let q := s.quay n
    (s.wr (R.QY_STATUS_STOPPED n) 1).setQuay n { q with leads := [], gateUntil := min q.gateUntil s.now }
  else s

/-- R78: LI and LQ go to code 0, and LGATE_A and LGATE_T go low; the launches cut short are lost, and with none to come RUNNING reads 0. -/
def State.cutQuay (s : State) (n : Nat) : State :=
  let s1 := (s.runDac n (2 * s.now)).loseFlights n
  let q := s1.quay n
  let s2 := s1.setQuay n { q with flights := [], leads := [], gateUntil := min q.gateUntil s.now, lgtFall := min q.lgtFall (256 * s.now) }
  if ¬ q.grid ∧ q.newEpoch.isNone then s2.wr (R.QY_STATUS_RUNNING n) 0 else s2

/-- The segments of the epoch that ends which are still to close: up to the last echo of its launches (R92). -/
def State.segTail (s : State) (n : Nat) : List (Nat × Nat × Nat) :=
  let e := s.epoch n
  let last := (((s.quay n).fates.filter (fun f => f.epoch == e)).map (fun f => (f.start - e + f.plan.launchPeriod) / 1024 + 1)).foldl max 0
  if s.segNext n < last then [(e, s.segNext n, last)] else []

/-- Starts the grid of quay `n` at boundary `b` as its epoch, if the active plan is VALID (R74); a quay whose FAULT input is
active with FAULT_STOP at 1, or whose latch is engaged, sets its epoch and is at once stopped (R77). -/
def State.startGrid (s : State) (n b : Nat) : State :=
  if (s.activePlan n).valid then
    let q := s.quay n
    let x := s.rxOf n
    let s1 := ((s.wrPair (R.QY_EPOCH_LO_EPOCH_LO n) (R.QY_EPOCH_HI_EPOCH_HI n) b).wr (R.QY_STATUS_RUNNING n) 1).wrPair
      (R.RX_SEG_LO_COUNT_LO n) (R.RX_SEG_HI_COUNT_HI n) 0
    let s2 := s1.setQuay n { q with grid := true, ran := s.activePlan n, newEpoch := none, nextK := [], codeK := [] }
    let s3 := ((s2.setRx n { x with tails := x.tails ++ s.segTail n, skipped := 0 }).openSettle n b true).restartNoise n
    if (s3.on (R.QY_CTL_FAULT_STOP n) && q.faults != 0) || !s3.on (R.QY_STATUS_ARMED n) then s3.quayStop n else s3
  else s

/-- The grid of quay `n` ends: no further launch starts; RUNNING reads 0 once the launches in flight complete (R74). -/
def State.endGrid (s : State) (n : Nat) : State :=
  let q := s.quay n
  let s1 := s.setQuay n { q with grid := false, newEpoch := none, leads := [] }
  if q.flights.isEmpty then s1.wr (R.QY_STATUS_RUNNING n) 0 else s1

/-- R74 at a landing boundary `b`: RUN = 1 lands only while ARMED is 1 and otherwise waits for it; RUN = 0 ends the grid. A
RUN = 1 on a quay that already runs changes nothing (log entry 12). -/
def State.landRun (s : State) (n b : Nat) (run : Bool) : State :=
  let q := s.quay n
  if run then
    if !s.on (R.QY_STATUS_ARMED n) then s.setQuay n { q with runWaitsArm := true }
    else if q.run then s
    else (s.setQuay n { q with run := true }).startGrid n b
  else (s.setQuay n { q with run := false }).endGrid n

/-- R79 at a landing boundary: the quay resumes if no FAULT input is active and ARMED is 1. -/
def State.landResume (s : State) (n : Nat) : State :=
  if (s.quay n).faults = 0 ∧ s.on (R.QY_STATUS_ARMED n) then s.wr (R.QY_STATUS_STOPPED n) 0 else s

/-- A DAS zone or flow zone berth is at work on quay `n`. -/
def State.berthOnQuay (s : State) (n : Nat) : Bool :=
  s.berths.any (fun e => e.2.isOpen && (e.2.kind == 1 || e.2.kind == 2) && e.2.params.getD 0 0 % 8 == n)

/-- The error with which a switch of quay `n` to plan `p` would be refused now, 0 for none (R75). -/
def State.switchError (s : State) (n p : Nat) : Nat :=
  if !(s.plan n p).valid then 1
  else if !(s.plan n p).sameCadence (s.activePlan n) && s.berthOnQuay n then 2
  else 0

/-- RX_PSM_NEED shows the need of the active plan, 0 where it is not VALID (Table 4.7). -/
def State.showNeed (s : State) (n : Nat) : State :=
  s.wr (R.RX_PSM_NEED_BYTES n) (if (s.activePlan n).valid then (s.activePlan n).psmNeed else 0)

/-- R75, R76 at a landing boundary `b`: the switch is refused with its error, or the plan becomes active; a change of cadence
ends the launches at `b` and sets the new epoch once the old echoes have drained, also where an earlier new epoch still waits. ERR returns to 0
with a switch that lands (log entry 116). -/
def State.landPlan (s : State) (n b p : Nat) : State :=
  let e := s.switchError n p
  if e ≠ 0 then (s.wr (R.QY_PLAN_STATUS_STATE n) 2).wr (R.QY_PLAN_STATUS_ERR n) e
  else
    let old := s.activePlan n
    let q := s.quay n
    let s1 := (((s.wr (R.QY_PLAN_STATUS_STATE n) 0).wr (R.QY_PLAN_STATUS_ERR n) 0).wr (R.QY_STATUS_ACTIVE n) p).showNeed n
    let same := old.sameCadence (s1.activePlan n)
    if ¬ q.run then s1
    else if q.grid then
      if same then (s1.setQuay n { q with codeK := [], ran := s1.activePlan n }).openSettle n b false
      else s1.setQuay n { q with grid := false, leads := [], newEpoch := some (boundaryAt (b + old.launchPeriod)) }
    else if q.newEpoch.isSome then
      if same then s1 else s1.setQuay n { q with newEpoch := some (boundaryAt (b + old.launchPeriod)) }
    else s1.startGrid n b

/-- The new epoch of quay `n`, if it is due at boundary `b` (R76, R480). -/
def State.epochDue (s : State) (n b : Nat) : State :=
  match (s.quay n).newEpoch with
  | some e => if e ≤ b ∧ (s.quay n).run then s.startGrid n b else s
  | none => s

/-- R74: RUN reads the value written; the write waits to land in place of any earlier one. Whether RUN = 1 lands or goes on
waiting for ARMED is judged at the boundary (`State.landRun`). -/
def execQuayRunWrite (n : Fin 8) (run : Bool) (s : State) : Res := s.live fun s =>
  s.quayWrite n (.quayRunWrite n run) fun s =>
    let s1 := s.dropWaiting (fun c => match c with | .quayRun m _ => m == n.val | _ => false)
    goOn (((s1.wrB (R.QY_CTL_RUN n) run).setQuay n { (s1.quay n) with runWaitsArm := false }).accept (.quayRun n run))

/-- R60 to R67, R74, R77: the next grid launch of the slot is due. It starts at its instant of the schedule; a stopped quay does
not fire it and counts it as missed; a fired launch is counted and sends its samples. -/
def execLaunchStart (n : Fin 8) (slot : Fin 16) (phase : Rat) (s : State) : Res := s.live fun s =>
  let q := s.quay n
  let p := s.activePlan n
  let k := Tab.get 0 q.nextK slot
  let t := p.launchTime (s.epoch n) k slot
  if q.grid ∧ slot.val < p.slots ∧ s.inTide t then
    let s1 := (s.advance t).runDac n (2 * t)
    let stopped := s.on (R.QY_STATUS_STOPPED n)
    let c := Tab.get 0 q.codeK slot
    let fate : Fate :=
      { slot := slot, start := t, epoch := s.epoch n, plan := p, odd := c % 2 == 1
        lost := stopped || (s.link n).retraining || s.quayClockLost
        settle := decide (q.settleFrom ≤ t ∧ t < q.settleTo), first := c == 0
        gauge := s.rd (R.RX_CFG_ACT_GAUGE n), pol := s.rd (R.RX_CFG_ACT_POL n), polw := s.rd (R.RX_CFG_ACT_POLW n)
        shift := s.rd (R.RX_CFG_ACT_OFS_SHIFT n) }
    let q1 := s1.quay n
    let q2 : Quay := { q1 with nextK := Tab.put 0 q.nextK slot (k + 1), codeK := Tab.put 0 q.codeK slot (c + 1)
                               leads := q.leads.filter (fun e => e != (slot.val, t))
                               fates := fate :: q.fates.filter (fun f => decide (t ≤ f.start + 2 * f.plan.launchPeriod + 1048576)) }
    if stopped then goOn ((s1.setQuay n q2).inc (R.QY_MISS_CNT_COUNT n))
    else
      let stop := t + p.codeNs
      let q3 : Quay := { q2 with flights := q.flights ++ [⟨slot, t, p, c % 2 == 1, stop, phase⟩]
                                 gateUntil := max q.gateUntil (stop + 4 * s.rd (R.QY_LGA_CFG_LAG n)) }
      goOn ((s1.setQuay n q3).wrPair (R.QY_LAUNCH_LO_COUNT_LO n) (R.QY_LAUNCH_HI_COUNT_HI n)
        (s.rdPair (R.QY_LAUNCH_LO_COUNT_LO n) (R.QY_LAUNCH_HI_COUNT_HI n) + 1))
  else goOn s

/-- R74: the oldest launch in flight of the slot is complete; after RUN = 0 the end of the last one clears RUNNING. -/
def execLaunchEnd (n : Fin 8) (slot : Fin 16) (s : State) : Res := s.live fun s =>
  match (s.quay n).flights.find? (fun f => f.slot == slot.val) with
  | none => goOn s
  | some f =>
    if s.inTide f.until_ then
      let s1 := (s.advance f.until_).runDac n (2 * f.until_)
      let q := s1.quay n
      let rest := q.flights.filter (fun g => g != f)
      let s2 := s1.setQuay n { q with flights := rest }
      goOn (if rest.isEmpty ∧ ¬ q.grid ∧ q.newEpoch.isNone then s2.wr (R.QY_STATUS_RUNNING n) 0 else s2)
    else goOn s

/-- The plan that is active on quay `n` after the next tide boundary, as the switches that land there leave it (R75). -/
def State.planAhead (s : State) (n : Nat) : Plan :=
  s.landing.foldl (fun p l => match l.change with
    | .planSwitch m k => if m = n ∧ l.due ≤ nextBoundary s.now ∧ (s.plan n k).valid then s.plan n k else p
    | _ => p) (s.activePlan n)

/-- A grid of quay `n` is to start at the next tide boundary (R72, R74, R76): a new epoch or RUN = 1 is due there, or a switch to a VALID plan
that RUN waits for. -/
def State.startsAhead (s : State) (n : Nat) : Bool :=
  let q := s.quay n
  let b := nextBoundary s.now
  !q.grid && s.on (R.QY_STATUS_ARMED n) && (s.planAhead n).valid &&
  (match q.newEpoch with
   | some e => decide (e ≤ b)
   | none => q.run || s.landing.any (fun l => decide (l.change = .quayRun n true ∧ l.due ≤ b)))

/-- The start and the plan of the slot's next launch that will be fired as things stand: on the grid that runs, from the boundary at which a
stopped quay resumes, or on the grid that starts at the next boundary (R72). -/
def State.nextFired (s : State) (n slot : Nat) : Option (Nat × Plan) :=
  let q := s.quay n
  if q.grid then
    let p := s.activePlan n
    let t := p.launchTime (s.epoch n) (Tab.get 0 q.nextK slot) slot
    if !s.on (R.QY_STATUS_STOPPED n) || s.landing.any (fun l => decide (l.change = .quayResume n ∧ l.due ≤ t)) then some (t, p) else none
  else if s.startsAhead n then some ((s.planAhead n).launchTime (nextBoundary s.now) 0 slot, s.planAhead n)
  else none

/-- R72: the gate rises LEAD × 4 ns before the slot's next launch, also before the first launch of a grid and of a resume. -/
def execLgateARise (n : Fin 8) (slot : Fin 16) (s : State) : Res := s.live fun s =>
  match s.nextFired n slot with
  | none => goOn s
  | some (t, p) =>
    let q := s.quay n
    let r := t - 4 * s.rd (R.QY_LGA_CFG_LEAD n)
    if slot.val < p.slots ∧ s.inTide r ∧ ¬ q.leads.contains (slot.val, t) then
      goOn ((s.advance r).setQuay n
        { q with leads := q.leads.filter (fun e => decide (s.now ≤ e.2)) ++ [(slot.val, t)], gateUntil := max q.gateUntil t })
    else goOn s

/-- R79: the resume waits to land if no FAULT input is active and ARMED is 1, otherwise it is discarded. -/
def execQuayResumeWrite (n : Fin 8) (s : State) : Res := s.live fun s =>
  s.quayWrite n (.quayResumeWrite n) fun s =>
    if (s.quay n).faults = 0 ∧ s.on (R.QY_STATUS_ARMED n) then goOn (s.accept (.quayResume n)) else goOn s

/-- The level at the pin of a line whose function is active or not, before POL (R84). -/
def pinLevel (active pol : Bool) : Bool := active != pol

/-- R84, R77: FE_FAULT sets, and with FAULT_STOP at 1 the quay stops. A line that is no FAULT input, or already active with its filter settled,
has no such event. -/
def execFaultInputActive (n : Fin 8) (i : Fin 4) (s : State) : Res := s.live fun s =>
  let q := s.quay n
  if s.rd (R.QY_GPIO_CFG_FUNC_i n i) = 2 ∧ (¬ bit q.faults i ∨ bit q.filters i) then
    let s1 := ((s.wr (R.QY_STATUS_FE_FAULT n) 1).wrBit (R.QY_GPIO_IN_IN n) i (pinLevel true (s.on (R.QY_GPIO_CFG_POL_i n i)))).setQuay n
      { q with faults := withBit q.faults i true, filters := withBit q.filters i false }
    goOn (if s.on (R.QY_CTL_FAULT_STOP n) then s1.quayStop n else s1)
  else goOn s

/-- R84: the line returns to inactive. -/
def execFaultInputInactive (n : Fin 8) (i : Fin 4) (s : State) : Res := s.live fun s =>
  let q := s.quay n
  if s.rd (R.QY_GPIO_CFG_FUNC_i n i) = 2 ∧ (bit q.faults i ∨ bit q.filters i) then
    goOn ((s.wrBit (R.QY_GPIO_IN_IN n) i (pinLevel false (s.on (R.QY_GPIO_CFG_POL_i n i)))).setQuay n
      { q with faults := withBit q.faults i false, filters := withBit q.filters i false })
  else goOn s

/-- R75: the request waits to land and STATE reads PENDING; while one is pending the write is discarded and sets ERR 3. An accepted request
returns ERR to 0 (log entry 116). -/
def execPlanSelectWrite (n : Fin 8) (p : Fin 4) (s : State) : Res := s.live fun s =>
  s.quayWrite n (.planSelectWrite n p) fun s =>
    if s.rd (R.QY_PLAN_STATUS_STATE n) = 1 then goOn (s.wr (R.QY_PLAN_STATUS_ERR n) 3)
    else goOn ((((s.wr (R.QY_PLAN_SEL_PLAN n) p).wr (R.QY_PLAN_STATUS_STATE n) 1).wr (R.QY_PLAN_STATUS_ERR n) 0).accept (.planSwitch n p))

/-- R73: EN waits to land; WIDTH and PERIOD wait to land while EN is 1, and otherwise take effect with the next landing of
EN = 1; a reserved value is discarded for its field (R8). -/
def execLgateTCfgWrite (n : Fin 8) (period : Bool) (value : Word) (s : State) : Res := s.live fun s =>
  s.quayWrite n (.lgateTCfgWrite n period value) fun s =>
    let v := value.toNat
    let q := s.quay n
    if period then
      let p := bits v 0 18
      if p < 2500 then goOn s
      else
        let s1 := s.wr (R.QY_LGT_PERIOD_PERIOD n) p
        goOn (if s.on (R.QY_LGT_CFG_EN n) then s1.accept (.lgtPeriod n p) else s1.setQuay n { q with lgtStaged := (q.lgtStaged.1, some p) })
    else
      let w := bits v 0 9
      let s1 := if w < 2 then s else
        let t := s.wr (R.QY_LGT_CFG_WIDTH n) w
        if s.on (R.QY_LGT_CFG_EN n) then t.accept (.lgtWidth n w) else t.setQuay n { q with lgtStaged := (some w, q.lgtStaged.2) }
      goOn ((s1.wrB (R.QY_LGT_CFG_EN n) (bit v 31)).accept (.lgtEn n (bit v 31)))

/-- R73 at boundary `b`: EN = 1 takes the WIDTH and PERIOD written while EN was 0, and the first pulse rises at `b` unless the grid already
runs. -/
def State.landLgtEn (s : State) (n b : Nat) (en : Bool) : State :=
  let q := s.quay n
  if en then
    let q1 : Quay := { q with lgtEn := true, lgtWidth := q.lgtStaged.1.getD q.lgtWidth, lgtPeriod := q.lgtStaged.2.getD q.lgtPeriod
                              lgtStaged := (none, none) }
    s.setQuay n (if q.lgtEn then q1 else { q1 with lgtNext := b })
  else s.setQuay n { q with lgtEn := false }

/-- R73: the pulse grid moves on; the pulse is given, WIDTH × 0.5 ns long, unless WIDTH is below 2 or the safety latch holds the gate low (R78).
The ball edge is the internal edge plus QY_LGT_DLY. -/
def execLgateTPulse (n : Fin 8) (s : State) : Res := s.live fun s =>
  let q := s.quay n
  if q.lgtEn ∧ s.inTide q.lgtNext then
    let q1 : Quay := { q with lgtNext := q.lgtNext + 4 * q.lgtPeriod }
    let e := 256 * q.lgtNext + s.rd (R.QY_LGT_DLY_DLY n)
    goOn ((s.advance q.lgtNext).setQuay n
      (if q.lgtWidth < 2 ∨ ¬ s.on (R.QY_STATUS_ARMED n) then q1
       else { q1 with lgtEdge := e, lgtFall := e + 128 * q.lgtWidth, lgtPulses := q.lgtPulses + 1 }))
  else goOn s

/-- Shows the levels of the SPI queues, and the head of the read queue (Table 3.5). -/
def State.spiLevels (s : State) (n : Nat) : State :=
  let q := s.quay n
  ((s.wr (R.QY_SPI_STATUS_CMD_LVL n) q.spiQ.length).wr (R.QY_SPI_STATUS_RX_LVL n) q.spiRx.length).wr
    (R.QY_SPI_RXD_DATA n) (q.spiRx.headD 0)

/-- R83: the command joins the queue with QY_SPI_TXD; a full queue discards it and sets SPI_OVF. -/
def execSpiCommandWrite (n : Fin 8) (value : Word) (s : State) : Res := s.live fun s =>
  s.quayWrite n (.spiCommandWrite n value) fun s =>
    let q := s.quay n
    if q.spiQ.length < 16 then
      let v := value.toNat
      let c : SpiCmd := ⟨bits v 0 2, bits v 2 1, bit v 3, bit v 4, s.rd (R.QY_SPI_TXD_DATA n)⟩
      let since := if q.spiQ.isEmpty then tideOf s.now else q.spiHeadTide
      goOn ((s.setQuay n { q with spiQ := q.spiQ ++ [c], spiHeadTide := since }).spiLevels n)
    else goOn (s.wr (R.QY_STATUS_SPI_OVF n) 1)

/-- R81, R82: the head starts its frame if none is in progress, if a boundary has passed since it became the head where it
asks for one, and if the read queue has room where it reads. -/
def execSpiFrameStart (n : Fin 8) (s : State) : Res := s.live fun s =>
  let q := s.quay n
  match q.spiQ with
  | [] => goOn s
  | c :: rest =>
    if q.spiFrame.isSome ∨ (c.atTide ∧ tideOf s.now ≤ q.spiHeadTide) ∨ (c.rd ∧ 16 ≤ q.spiRx.length) then goOn s
    else goOn (((s.setQuay n { q with spiQ := rest, spiFrame := some c, spiHeadTide := tideOf s.now }).wr
      (R.QY_SPI_STATUS_BUSY n) 1).spiLevels n)

/-- R81: the frame is over; a read command stores the MISO frame, right-aligned. -/
def execSpiFrameDone (n : Fin 8) (miso : Word) (s : State) : Res := s.live fun s =>
  let q := s.quay n
  match q.spiFrame with
  | none => goOn s
  | some c =>
    let rx := if c.rd then q.spiRx ++ [low (8 * (c.len + 1)) miso.toNat] else q.spiRx
    goOn (((s.setQuay n { q with spiFrame := none, spiRx := rx }).wr (R.QY_SPI_STATUS_BUSY n) 0).spiLevels n)

/-- R83: the read returns the head and removes it, or 0 when the queue is empty. -/
def execSpiRxdRead (n : Fin 8) (s : State) : Res := s.live fun s =>
  if s.powered (quayDomain n) then
    let q := s.quay n
    goOn (((s.setQuay n { q with spiRx := q.spiRx.tail }).spiLevels n).answer .ok [q.spiRx.headD 0])
  else goOn ((s.lockAnswer (quayDomain n)).answer .ok [0])

/-- R84 for one line: FUNC 3 is reserved and discarded for that field (R8); a line that becomes a FAULT input starts its filter
anew as inactive, and a change of POL of a FAULT input starts it anew with the FAULT state it has; one that stops being a FAULT input has no
FAULT state. -/
def State.gpioLine (s : State) (n v : Nat) (i : Nat) : State :=
  let f := bits v (4 * i) 2
  let q := s.quay n
  let pol := bit v (4 * i + 2)
  let s1 := (s.wrB (R.QY_GPIO_CFG_AT_TIDE_i n i) (bit v (4 * i + 3))).wrB (R.QY_GPIO_CFG_POL_i n i) pol
  let g := if f = 3 then s.rd (R.QY_GPIO_CFG_FUNC_i n i) else f
  if s.rd (R.QY_GPIO_CFG_FUNC_i n i) = 2 ∧ g = 2 then
    (if pol = s.on (R.QY_GPIO_CFG_POL_i n i) then s1 else s1.setQuay n { q with filters := withBit q.filters i true })
  else (s1.wr (R.QY_GPIO_CFG_FUNC_i n i) g).setQuay n { q with faults := withBit q.faults i false, filters := withBit q.filters i (g == 2) }

/-- R84: a write of QY_GPIO_CFG, line by line. -/
def execGpioCfgWrite (n : Fin 8) (value : Word) (s : State) : Res := s.live fun s =>
  s.quayWrite n (.gpioCfgWrite n value) fun s => goOn ([0, 1, 2, 3].foldl (fun t i => t.gpioLine n value.toNat i) s)

/-- The lines of quay `n` whose output writes wait for a boundary, one bit a line (R84). -/
def State.tideLines (s : State) (n : Nat) : Nat :=
  ([0, 1, 2, 3].map (fun i => if s.on (R.QY_GPIO_CFG_AT_TIDE_i n i) then 2 ^ i else 0)).sum

/-- Takes the levels of the lines in `mask` from `value`. -/
def Quay.takeLevels (q : Quay) (mask value : Nat) : Quay := { q with gpioOut := (q.gpioOut - (q.gpioOut &&& mask)) ||| (value &&& mask) }

/-- R84: lines with AT_TIDE = 0 take their levels at once, the others wait to land. -/
def execGpioOutWrite (n : Fin 8) (value : Word) (s : State) : Res := s.live fun s =>
  s.quayWrite n (.gpioOutWrite n value) fun s =>
    let v := low 4 value.toNat
    let m := s.tideLines n
    let s1 := (s.wr (R.QY_GPIO_OUT_OUT n) v).setQuay n ((s.quay n).takeLevels (15 - m) v)
    goOn (if m = 0 then s1 else s1.accept (.gpioOut n m v))

end Sys2Proof.Machine
end

