-- ==== Sys2Proof/Machine/BerthOps.lean ====
section
/-! DEFINITION. What every berth.open shares: the berths, budget and rings as they will stand at the landing boundary, profiles,
and the verdict on a request (R38, R42 to R44, R116, R479). -/

namespace Sys2Proof.Machine

/-- Status OK (Table 15.6). -/
def stOk : Nat := 0
/-- E_BUDGET (R43). -/
def stBudget : Nat := 1
/-- E_STALE (R10). -/
def stStale : Nat := 2
/-- E_LOCKED: forbidden in the life-cycle state. -/
def stLocked : Nat := 3
/-- E_VERSION. -/
def stVersion : Nat := 4
/-- E_RANGE. -/
def stRange : Nat := 5
/-- E_BUSY. -/
def stBusy : Nat := 6
/-- E_CHECK. -/
def stCheck : Nat := 7

/-- What an accepted berth.open takes: its resolved parameter words, cost vector, inputs, power domains, kind slot and cluster memory, the rings it
needs (area and length), and the words its kind keeps until it lands. -/
structure Grant where
  params : List Nat
  cost : List Nat
  inputs : List Nat := []
  domains : List Nat := []
  slot : Nat := 0
  mem : Nat × Nat := (0, 0)
  rings : List (Nat × Nat) := []
  extra : List Nat := []
  deriving DecidableEq, Repr

/-- The verdict of a kind on a berth.open: a status with result words, or a grant. -/
inductive Verdict where
  | refuse (status : Nat) (words : List Nat)
  | grant (g : Grant)
  deriving DecidableEq, Repr

/-- The first refusal whose condition holds, otherwise the grant. -/
def judge : List (Bool × Nat) → Grant → Verdict
  | [], g => .grant g
  | (c, st) :: rest, g => if c then .refuse st [] else judge rest g

/-- The berths that will be at work at the landing boundary, with their indexes: open and not closing, or accepted (R38). -/
def State.willBe (s : State) : List (Nat × Berth) := s.berths.filter (fun e => e.2.state == .open) ++ s.coming

/-- The egress entries of the export slots accepted before, as far as each will fit at the landing boundary, on top of `base` (R38, R401). -/
def State.exportsLater (s : State) (base : Nat) : Nat :=
  s.exportDue.foldl (fun a e => if s.willBe.any (fun w => w.2.handle == e.2.1) && decide (a + e.2.2 ≤ s.budget 19) then a + e.2.2 else a) base

/-- The allocation of engine `n` as it will stand at the landing boundary (R38, R43): the berths' entries, and on network egress those of export
slots. -/
def State.allocLater (s : State) (n : Nat) : Nat :=
  let base := (s.willBe.map (fun e => vecAt e.2.cost n)).sum
  if n = 19 then s.exportsLater base else base

/-- What engine `n` has left to allocate (R44). -/
def State.remain (s : State) (n : Nat) : Nat := s.budget n - s.allocLater n

/-- The engines that lack budget for a cost vector, one bit each (Table 2.3). -/
def State.shortMask (s : State) (cost : List Nat) : Nat :=
  ((List.range 20).map (fun n => if s.budget n < s.allocLater n + vecAt cost n then 2 ^ n else 0)).sum

/-- The E_BUDGET payload (R44, Table 2.3). -/
def State.budgetWords (s : State) (cost : List Nat) : List Nat := s.shortMask cost :: (List.range 20).map s.remain

/-- The budget judgement that ends every refusal table (R43). -/
def State.withBudget (s : State) (v : Verdict) : Verdict :=
  match v with
  | .grant g => if s.shortMask g.cost = 0 then .grant g else .refuse stBudget (s.budgetWords g.cost)
  | r => r

/-- A declared vector lies below the computed one for an engine that R42 floors: 0 and 5 to 16. -/
def declaredBelow (declared computed : List Nat) : Bool :=
  (0 :: (List.range 12).map (· + 5)).any (fun n => decide (vecAt declared n < vecAt computed n))

/-- A cost vector with the listed entries. -/
def costVec (es : List (Nat × Nat)) : List Nat := (List.range 20).map (fun n => ((es.filter (fun e => e.1 == n)).map Prod.snd).sum)

/-- The base and the end of Warehouse area `a` in bytes (R351). -/
def State.area (s : State) (a : Nat) : Nat × Nat :=
  let b := s.rd (R.WH_AREA_a_BASE a) * 2 ^ 20
  (b, b + s.rd (R.WH_AREA_a_SIZE a) * 2 ^ 20)

/-- The lowest 64-byte-aligned place for `len` bytes in an area that no ring occupies (log entry 14). -/
def State.ringPlace (s : State) (a len : Nat) : Option Nat :=
  let r := s.area a
  let mine := s.rings.filter (fun x => x.area == a)
  let cands := r.1 :: mine.map (fun x => ceilDiv (x.base + x.len) 64 * 64)
  let ok := cands.filter (fun c => decide (r.1 ≤ c ∧ c + len ≤ r.2) && mine.all (fun x => decide (c + len ≤ x.base ∨ x.base + x.len ≤ c)))
  ok.min?

/-- A ring of `len` bytes fits an area. -/
def State.ringFits (s : State) (a len : Nat) : Bool := (s.ringPlace a len).isSome

/-- Places rings one after another; the addresses in order, 0 for one that does not fit. -/
def State.placeRings (s : State) (b h : Nat) : List (Nat × Nat) → State × List Nat
  | [] => (s, [])
  | (a, len) :: rest =>
    let at_ := (s.ringPlace a len).getD 0
    let r := State.placeRings { s with rings := s.rings ++ [⟨b, h, a, at_, len⟩] } b h rest
    (r.1, at_ :: r.2)

/-- Every ring of a list fits, placed one after another. -/
def State.ringsFit (s : State) : List (Nat × Nat) → Bool
  | [] => true
  | (a, len) :: rest => s.ringFits a len && State.ringsFit (s.placeRings 0 0 [(a, len)]).1 rest

/-- The body of a section of the active manifest. -/
def State.activeBody (s : State) (type : Nat) : Option (List Byte) :=
  match s.mfActive with
  | none => none
  | some m => (m.sections.find? (fun x => x.type == type)).map Section.body

/-- `n` bytes of a body from an offset, little-endian (R9). -/
def bodyNat (b : List Byte) (off n : Nat) : Nat := leNat ((b.drop off).take n)

/-- The values a profile gives a berth, none where the section holds no such profile (R479). -/
def State.profile (s : State) (kind idx : Nat) : Option (List Nat) :=
  match s.activeBody 8 with
  | none => none
  | some b => Config.profileWords b kind idx

/-- Replaces the words at the listed places by the values of a profile, in order. -/
def replaceWords (w : List Nat) : List Nat → List Nat → List Nat
  | [], _ => w
  | i :: is, v => replaceWords (w.set i (v.headD 0)) is v.tail

/-- The values that a kind takes from a profile: the words at its places, and a DAS zone's PLAN (R112). -/
def profileNeed (kind : Nat) (places : List Nat) : Nat := places.length + (if kind = 1 then 1 else 0)

/-- The parameter words with the profile's values in place, and whether R479 refuses the profile: there is none, or its entry is shorter than what
the kind takes from it. -/
def State.withProfile (s : State) (kind : Nat) (w places : List Nat) : List Nat × Bool :=
  let p := bits (w.getD 0 0) 16 8
  if p = 255 then (w, false)
  else match s.profile kind p with
    | some v => if v.length < profileNeed kind places then (w, true) else (replaceWords w places v, false)
    | none => (w, true)

/-- Bits of a word outside the given fields are 0. -/
def onlyBits (v : Nat) (fs : List (Nat × Nat)) : Bool := v &&& ((fs.map (fun f => (2 ^ f.2 - 1) * 2 ^ f.1)).sum) == v

/-- The declared cost words from word `i` on (R42). -/
def declaredCost (w : List Nat) (i : Nat) : List Nat := (w.drop i).take 20

/-- A power of two. -/
def isPow2 (n : Nat) : Bool := n != 0 && 2 ^ n.log2 == n

/-- ENABLE of quay `n` in the active QUAY_PLAN (R80): 164 bytes a quay. -/
def State.quayEnabled (s : State) (n : Nat) : Bool :=
  match s.activeBody 1 with
  | none => false
  | some b => bit (bodyNat b (164 * n) 4) 0

/-- A berth is a DAS zone or flow zone on quay `n`. -/
def Berth.onQuay (b : Berth) (n : Nat) : Bool := (b.kind == 1 || b.kind == 2) && b.params.getD 0 0 % 8 == n

/-- A DAS zone or flow zone will be at work on quay `n` at the landing boundary. -/
def State.zoneLater (s : State) (n : Nat) : Bool :=
  s.willBe.any (fun e => e.2.onQuay n)

/-- One waiting change, in acceptance order, as it moves the plan number of quay `n` and the zones at work there (R38, R75). -/
def State.planStep (s : State) (n : Nat) (a : Nat × List Nat) (l : Landing) : Nat × List Nat := match l.change with
  | .berthOpen i => if (Tab.get {} s.coming i).onQuay n then (a.1, i :: a.2) else a
  | .berthClose i => (a.1, a.2.filter (· != i))
  | .planSwitch m p => if m = n ∧ (s.plan n p).valid ∧ ((s.plan n p).sameCadence (s.plan n a.1) ∨ a.2 = []) then (p, a.2) else a
  | _ => a

/-- The plan number of quay `n` as it will stand at the landing boundary, after the changes accepted before (R38, R75, R113). -/
def State.planNoLater (s : State) (n : Nat) : Nat :=
  let zones := (s.berths.filter (fun e => e.2.isOpen && e.2.onQuay n)).map Prod.fst
  (s.landing.foldl (s.planStep n) (s.rd (R.QY_STATUS_ACTIVE n), zones)).1

/-- The plan of quay `n` as it will stand at the landing boundary. -/
def State.planLater (s : State) (n : Nat) : Plan := s.plan n (s.planNoLater n)

/-- The slot of a kind's `n` slots that a new berth takes (R164, as R116): the lowest never used, else the one closed longest, else
one whose close, accepted first, will have landed by then. -/
def State.freeSlot (s : State) (kind n : Nat) : Nat :=
  let busy := ((s.willBe.filter (fun e => e.2.kind == kind)).map (fun e => e.2.slot))
  let closing := s.landing.filterMap (fun l => match l.change with
    | .berthClose i => if (s.berth i).kind = kind ∧ (s.berth i).state = .closing then some (s.berth i).slot else none
    | _ => none)
  let order := Tab.get [] s.slotOrder kind
  match (List.range n).find? (fun z => !busy.contains z && !closing.contains z && !order.contains z) with
  | some z => z
  | none => match order.find? (fun z => !busy.contains z && !closing.contains z) with
    | some z => z
    | none => (closing.find? (fun z => !busy.contains z)).getD 0

/-- A slot of a kind was closed. -/
def State.closeSlot (s : State) (kind z : Nat) : State :=
  { s with slotOrder := Tab.put [] s.slotOrder kind (((Tab.get [] s.slotOrder kind).filter (fun x => x != z)) ++ [z]) }

/-- Cluster memory that will be held for berths on cluster `c` (R163). -/
def State.memLater (s : State) (c : Nat) : Nat :=
  ((s.willBe.filter (fun e => e.2.mem.1 == c)).map (fun e => e.2.mem.2)).sum

/-- Cluster memory of cluster `c` that SHED_PLAN reserves for berths (Table 13.2). -/
def State.memGrant (s : State) (c : Nat) : Nat := match s.activeBody 9 with
  | some b => bodyNat b (16 + 4 * c) 4
  | none => 0

/-- Cluster `c` is enabled in the PIER_PLAN and its image carries the flow library (R163, R334, Table 12.5). -/
def State.flowCluster (s : State) (c : Nat) : Bool := match s.activeBody 3 with
  | none => false
  | some b => (b.getD (16 * c) 0) != 0 && bit (b.getD (bodyNat b (16 * c + 4) 4 + 19) 0).toNat 0

/-- The cluster with the flow library and the most remaining allocable budget, the lowest index among equals (R163). -/
def State.bestCluster (s : State) : Option Nat :=
  ((List.range 4).filter s.flowCluster).foldl (fun (best : Option Nat) c => match best with
    | none => some c
    | some b => if s.remain (1 + b) < s.remain (1 + c) then some c else some b) none

/-- The cluster with the most remaining allocable budget, the lowest index among equals. -/
def State.roomiestCluster (s : State) : Nat :=
  ((List.range 4).foldl (fun (b : Nat × Nat) c => if b.2 < s.remain (1 + c) then (c, s.remain (1 + c)) else b) (0, s.remain 1)).1

/-- The Tug with the most remaining allocable budget, the lowest index among equals (R139). -/
def State.bestTug (s : State) : Nat :=
  ((List.range 8).foldl (fun (best : Nat × Nat) t =>
    if best.2 < s.remain (5 + t) then (t, s.remain (5 + t)) else best) (0, s.remain 5)).1

/-- The free index that a new berth takes (R116): the lowest never used, else the one closed longest, else one whose close will
have landed by then. -/
def State.freeIndex (s : State) : Option Nat :=
  let coming := s.coming.map Prod.fst
  let used := s.berths.map Prod.fst ++ coming
  match (List.range 4096).find? (fun i => !used.contains i) with
  | some i => some i
  | none =>
    match s.closedOrder.find? (fun i => (s.berth i).state == .closed && !coming.contains i) with
    | some i => some i
    | none => s.landing.findSome? (fun l => match l.change with
        | .berthClose i => if coming.contains i then none else some i
        | _ => none)

/-- The generation that the next opening of an index takes (R11). -/
def State.nextGen (s : State) (i : Nat) : Nat :=
  let g := Tab.get 0 s.gens i
  if g ≤ 1 then 4095 else g - 1

/-- A handle from its parts (Table 0.5). -/
def makeHandle (kind gen idx : Nat) : Nat := kind * 2 ^ 28 + gen * 2 ^ 16 + idx

/-- How a handle stands to a command that names it (R10, R39, R477). -/
inductive HandleState where
  | never | stale | pending | open | closing
  deriving DecidableEq, Repr

/-- Judges a handle (R10). -/
def State.judgeHandle (s : State) (h : Nat) : HandleState :=
  let kind := bits h 28 4
  let idx := bits h 0 12
  if kind = 0 ∨ 8 < kind ∨ bits h 16 12 = 0 ∨ bits h 12 4 ≠ 0 then .never
  else
    let b := s.berth idx
    if (Tab.get {} s.coming idx).handle = h then .pending
    else if b.handle ≠ h then .stale
    else match b.state with
      | .pending => .pending
      | .open => .open
      | .closing => .closing
      | .closed => .stale

/-- Whether a handle is one that could never have been issued (R10). -/
def neverIssued (h : Nat) : Bool := bits h 28 4 == 0 || decide (8 < bits h 28 4) || bits h 16 12 == 0 || bits h 12 4 != 0

/-- The two refusal conditions of an input handle that is well formed: it is stale, and then it is pending or closing (R39, R477) or
names a berth that `ok` does not accept. -/
def State.inputConds (s : State) (h : Nat) (ok : Berth → Bool) : (Bool × Nat) × List (Bool × Nat) :=
  let j := s.judgeHandle h
  ((j == .stale, stStale), [(j == .pending || j == .closing, stBusy), (!ok (s.berth (bits h 0 12)), stRange)])

/-- A Sounding berth delivers 0.01 Pa (R284). -/
def givesPressure (b : Berth) : Bool := b.kind == 5 && bits (b.params.getD 1 0) 20 4 == 2

/-- A Sounding berth delivers mK: UNIT 1 or a temperature curve (R284). -/
def givesMilliKelvin (b : Berth) : Bool :=
  let c := bits (b.params.getD 1 0) 8 8
  b.kind == 5 && (bits (b.params.getD 1 0) 20 4 == 1 || c == 16 || decide (32 ≤ c ∧ c ≤ 39))

end Sys2Proof.Machine
end

