-- ==== Sys2Proof/Machine/Cascade.lean ====
section
/-! DEFINITION. Chapter 05: the decimation cascade of one channel: half-band stages, resampler, and the output grid (R124 to R128). -/

namespace Sys2Proof.Machine

/-- A stage's output, rounded to nearest and held within ±(2^23 − 1) (R128). -/
def holdValue (x : Rat) (sat : Bool) : LineVal :=
  let r := roundHalf x
  { v := max (-8388607) (min r 8388607), sat := sat || decide (r < -8388607 ∨ 8388607 < r) }

/-- The output of a filter with the given taps over the inputs it holds, newest first; missing inputs are 0. -/
def filterOut (taps : List Rat) (line : List LineVal) : LineVal :=
  let es := (taps.zip line).filter (fun e => decide (e.1 ≠ 0))
  holdValue (es.foldl (fun a e => a + e.1 * e.2.v) 0) (es.any (fun e => e.2.sat))

/-- The 31 taps of a half-band stage: 16 at odd distances from the centre, and a centre that makes the DC gain 1 (R124). -/
def halfTaps : List Rat := (List.range 31).map (fun i =>
  let d := if i ≤ 15 then 15 - i else i - 15
  if d = 0 then 1 - 2 * ((List.range 8).map Config.halfBand).foldl (· + ·) 0 else if d % 2 = 0 then 0 else Config.halfBand (d / 2))

/-- Whether a stage outputs at even or odd inputs. -/
def stageParity : Nat := Config.stagePhase % 2

/-- Input `n` enters a chain of half-band stages, each with the last 30 inputs it holds; every second input yields one (R124). -/
def feedStages : List (List LineVal) → Nat → LineVal → List (List LineVal) × Option LineVal
  | [], _, v => ([], some v)
  | l :: ls, n, v =>
    if n % 2 = stageParity then
      let r := feedStages ls (n / 2) (filterOut halfTaps (v :: l))
      ((v :: l).take 30 :: r.1, r.2)
    else ((v :: l).take 30 :: ls, none)

/-- The next input, an int16 increment, enters a channel's cascade with 8 fraction bits (R128). -/
def PointFilter.feed (f : PointFilter) (x : Int) : PointFilter :=
  let r := feedStages f.stages (f.next - f.first) { v := 256 * x }
  { f with next := f.next + 1, stages := r.1
           line := match r.2 with
             | some u => (u :: f.line).take 32
             | none => f.line }

/-- Tap `i` of the resampler's phase `p`; the 16th makes the DC gain 1 (R125). -/
def phaseTap (p i : Nat) : Rat :=
  if i = 15 then 1 - (((List.range 32).filter (· != 15)).map (Config.phaseTap p)).foldl (· + ·) 0 else Config.phaseTap p i

/-- The taps at a position's fraction of 38 bits: between the phase that the top 6 bits name and the next, by the 10 bits below (R125). -/
def resampleTaps (frac : Nat) : List Rat :=
  let p := bits frac 32 6
  let t : Rat := (bits frac 22 10 : Rat) / 1024
  (List.range 32).map (fun i => (1 - t) * phaseTap p i + t * phaseTap (p + 1) i)

/-- The input of the point to which stage outputs of number 0 are aligned, in input periods after the first one: the group delay of `h` stages
(R124). -/
def stageShift (h : Nat) : Int := ((stageParity : Int) - 15) * (2 ^ h - 1)

/-- Position of the row at the anchor in 1/65,536 of a resampler input (R127): the anchor in half nanoseconds, and the time of the first input. -/
def startPos (h tin anchor t0 : Nat) : Int :=
  Config.rnd ((((2 * anchor : Nat) - (t0 : Int) : Rat) / 2 - tin * stageShift h) * 65536 / (2 ^ h * tin))

/-- Position of output `m` since the anchor, in 2^-38 of a resampler input (R125, R127). -/
def PointFilter.posAt (f : PointFilter) (inc m : Nat) : Int := f.pos * 2 ^ 22 + m * inc

/-- The input after the last one that output `m` needs: the resampler's 16 inputs beyond its position, through `h` stages (R124, R125). -/
def PointFilter.needs (f : PointFilter) (h inc m : Nat) : Nat :=
  let k := f.posAt inc m / 2 ^ 38 + 16
  if k < 0 then f.first else f.first + stageParity * (2 ^ h - 1) + 2 ^ h * k.toNat + 1

/-- Output `m` of a channel whose cascade has its inputs (R125, R128); one that lies wholly before the first input is 0. -/
def PointFilter.out (f : PointFilter) (inc m : Nat) : LineVal :=
  if f.posAt inc m / 2 ^ 38 + 16 < 0 then {} else filterOut (resampleTaps (f.posAt inc m % 2 ^ 38).toNat) f.line

/-- A cascade cleared to start on the grid anchored at `anchor` with input `j` of time `t0` in half nanoseconds (R127, R134). -/
def PointFilter.start (f : PointFilter) (h tin anchor j t0 : Nat) : PointFilter :=
  { anchor := some anchor, first := j, next := j, stages := List.replicate h [], line := [], pos := startPos h tin anchor t0
    sum := 0, lostUntil := f.lostUntil }

/-- The state of a cascade cleared to 0 (R132). -/
def PointFilter.clear (f : PointFilter) : PointFilter := { f with stages := f.stages.map (fun _ => []), line := [] }

end Sys2Proof.Machine
end

