-- ==== Sys2Proof/Machine/WatchFeed.lean ====
section
/-! DEFINITION. How the samples of a source reach the watches on it (R300, R302). -/

namespace Sys2Proof.Machine

/-- A watch gets a sample of its source; a tally result within 500 ns of the last one is not taken (R302). -/
def State.offer (s : State) (w : Nat) (p : WatchSample) : State :=
  let x := Tab.get {} s.watches w
  let close := match x.lastRes with
    | some t => x.kind == 4 && decide (p.at_ < t + 500 * 256)
    | none => false
  if close then
    let s1 := (s.inc (R.WT_w_SKIP_CNT_COUNT w)).wr (R.WT_w_STATUS_SKIPPED w) 1
    { s1 with watches := Tab.put {} s1.watches w { x with skipped := true } }
  else { s with watches := Tab.put {} s.watches w
                  { x with inbox := x.inbox ++ [{ p with gap := x.skipped }], skipped := false, lastRes := some p.at_ } }

/-- Every watch on the source gets the sample that its selector picks (Table 11.2). -/
def State.feed (s : State) (kind source : Nat) (pick : Nat → Option WatchSample) : State :=
  s.watches.foldl (fun (t : State) e =>
    if e.2.handle ≠ 0 ∧ e.2.kind = kind ∧ e.2.source = source then
      match pick e.2.sel with
      | some p => t.offer e.1 p
      | none => t
    else t) s

/-- A value of a tally result as a watch sees it (R300): limited to ±(2^31 − 1), with OVR where it saturates, and LOST
where its clock was out of lock (R23). -/
def tallySample (v : Int) (at_ : Nat) (lost : Bool) : WatchSample :=
  let lim : Int := 2147483647
  { value := max (-lim) (min v lim), at_ := at_, tag := (if v < -lim ∨ lim < v then 32 else 0) ||| tagIf lost tagLost }

end Sys2Proof.Machine
end

