-- ==== Sys2Proof/Machine/WhMem.lean ====
section
/-! DEFINITION. The Warehouse as its requesters see it: blocks, check words, merge of partial writes, reads, open rows, charges, ring slots (R342 to R350, R481). -/

namespace Sys2Proof.Machine

/-- One byte into the CRC of R344, most significant bit first. -/
def crc16Byte (crc : Nat) (b : Byte) : Nat :=
  (List.range 8).foldl (fun c i => low 16 (2 * c) ^^^ (if bit c 15 != bit b.toNat (7 - i) then 0x1021 else 0)) crc

/-- The CRC of R344 over bytes. -/
def crc16 (bs : List Byte) : Nat := bs.foldl crc16Byte 0xFFFF

/-- The check word of block `b` with these 64 bytes (R344). -/
def checkWord (b : Nat) (bs : List Byte) : Nat := crc16 (bs ++ leBytes 4 (low 28 b))

/-- The usable bytes of the Warehouse (R343, WH_USABLE). -/
def State.whUsable (s : State) : Nat := s.rdPair R.WH_USABLE_LO_BYTES_LO R.WH_USABLE_HI_BYTES_HI

/-- The 64 bytes a read of a block returns: what was written, or free bytes for a block not written since READY (R481). -/
def State.whBlock (s : State) (b : Nat) : List Byte :=
  if Tab.get false s.wh.written b then Tab.getList 0 s.wh.bytes (64 * b) 64
  else (List.range 64).map (fun i => Config.undefByte s.free (64 * b + i))

/-- The block's check word passes: its cells are sound and it fits the 64 bytes (R344), or the block was never written and the free choice says
so (R481). -/
def State.whPasses (s : State) (b : Nat) : Bool :=
  if Tab.get false s.wh.written b then
    !Tab.get false s.wh.bad b && Tab.get 0 s.wh.check b == checkWord b (Tab.getList 0 s.wh.bytes (64 * b) 64)
  else Config.undefPass s.free b

/-- A block becomes these 64 bytes with a fresh check word, and joins its channel's queue of 64 (R345, R347). -/
def Warehouse.putBlock (w : Warehouse) (b : Nat) (bs : List Byte) : Warehouse :=
  let c := b / 4 % 2
  let q := ((Tab.get [] w.queue c).filter (fun x => x != b)) ++ [b]
  { w with bytes := Tab.putList 0 w.bytes (64 * b) bs
           written := Tab.put false w.written b true
           bad := Tab.put false w.bad b false
           check := Tab.put 0 w.check b (checkWord b bs)
           queue := Tab.put [] w.queue c (q.drop (q.length - 64)) }

/-- An access of block `b` opens its row, and PAGE decides whether the row stays open (R349). Banks and rows are the memory's own. -/
def Warehouse.touch (w : Warehouse) (page : Bool) (b : Nat) : Warehouse :=
  { w with rows := Tab.put none w.rows (b / 4 % 2 + 2 * Config.dramBank b) (if page then none else some (Config.dramRow b)) }

/-- Channel-ns of `n` bytes, at 25.6 bytes per channel-ns (R350, Table 2.2). -/
def channelNs (n : Nat) : Nat := ceilDiv (10 * n) 256

/-- A Warehouse class charges the reserve (R350). -/
def State.chargeReserve (s : State) (cls n : Nat) : State := s.chargeTo (13 + cls) 4097 (channelNs n)

/-- R350: the data bytes of a request go to its owner and class, and its check words to the reserve. -/
def State.whCharge (s : State) (req : WhReq) (n blocks : Nat) : State :=
  let s1 := match req.owner with
    | some o => s.chargeTo (13 + req.cls) o (channelNs n)
    | none => s
  s1.chargeReserve req.cls (2 * blocks)

/-- One block's part of a write of `bs` at `a` (R345): a whole block is written without reading; a part is merged, its read charged to the
reserve, and discarded with RMW_ERR when that read fails. The Bool says that it was discarded. -/
def State.whWritePart (s : State) (req : WhReq) (a : Nat) (bs : List Byte) (b : Nat) : State × Bool :=
  let lo := max a (64 * b)
  let hi := min (a + bs.length) (64 * b + 64)
  let part := (bs.drop (lo - a)).take (hi - lo)
  if hi - lo = 64 then ({ s with wh := (s.wh.putBlock b part).touch req.page b }, false)
  else
    let s0 := s.chargeReserve req.cls 64
    if s.whPasses b then
      let old := s.whBlock b
      let s1 := if Tab.get false s.wh.written b then s0 else s0.nextFree
      ({ s1 with wh := (s1.wh.putBlock b (old.take (lo - 64 * b) ++ part ++ old.drop (hi - 64 * b))).touch req.page b }, false)
    else ({ s0 with wh := s0.wh.touch req.page b }.wr R.WH_STATUS_RMW_ERR 1, true)

/-- The block numbers an access of `n` bytes at `a` touches. -/
def blocksOf (a n : Nat) : List Nat := if n = 0 then [] else (List.range ((a + n - 1) / 64 - a / 64 + 1)).map (fun i => a / 64 + i)

/-- A write request: RANGE before READY and beyond the usable range, otherwise charged and done block by block (R342, R343, R345, R350). -/
def State.whWrite (s : State) (req : WhReq) (a : Nat) (bs : List Byte) : State × WhCause :=
  if !s.on R.WH_STATUS_READY then (s, .range)
  else if s.whUsable < a + bs.length then (s.wr R.WH_STATUS_RANGE_ERR 1, .range)
  else
    let r := (blocksOf a bs.length).foldl (fun (t : State × Bool) b =>
      let p := t.1.whWritePart req a bs b
      (p.1, t.2 || p.2)) (s.whCharge req bs.length (blocksOf a bs.length).length, false)
    (r.1, if r.2 then .check else .ok)

/-- Blocks whose cells have failed: their check words fail until a whole-block write replaces them (R346). -/
def State.spoil (s : State) (bs : List Nat) : State :=
  { s with wh := { s.wh with bad := bs.foldl (fun t b => if Tab.get false s.wh.written b then Tab.put false t b true else t) s.wh.bad } }

/-- A block is in its channel's write queue (R347). -/
def State.whQueued (s : State) (b : Nat) : Bool := (Tab.get [] s.wh.queue (b / 4 % 2)).contains b

/-- One block of a read (R346, R347): from the queue, or from memory with its check word and the re-read, which is charged to the reserve. The
Bool says that it completed with CHECK. -/
def State.whReadPart (s0 : State) (req : WhReq) (retry : Bool) (luck : WhLuck) (b : Nat) : State × Bool :=
  if luck.queued.contains b && s0.whQueued b then (s0.inc R.WH_FWD_CNT_COUNT, false)
  else
    let s : State := { s0 with wh := s0.wh.touch req.page b }
    let good := s0.whPasses b
    if good && !luck.once.contains b then (s, false)
    else
      let t := if retry then s.chargeReserve req.cls 64 else s
      if good && retry then ((t.wr R.WH_STATUS_REREAD 1).inc R.WH_REREAD_CNT_COUNT, false)
      else
        let s1 := if t.on R.WH_STATUS_CHK_ERR then t else t.wrPair R.WH_CHK_ADDR_LO_ADDR_LO R.WH_CHK_ADDR_HI_ADDR_HI (64 * b)
        ((s1.wr R.WH_STATUS_CHK_ERR 1).inc R.WH_CHK_CNT_COUNT, true)

/-- The bytes a reader finds at a Warehouse address, without the effects of a request. -/
def State.whPeek (s : State) (a n : Nat) : List Byte :=
  (List.range n).map (fun i => (s.whBlock ((a + i) / 64)).getD ((a + i) % 64) 0)

/-- A read request (R342, R343, R346, R350, R481): how it completes and the bytes it returns. A block not written since READY uses up the free
values of this reading. -/
def State.whRead (s : State) (req : WhReq) (a n : Nat) (retry : Bool) (luck : WhLuck) : State × WhCause × List Byte :=
  if !s.on R.WH_STATUS_READY then (s, .range, [])
  else if s.whUsable < a + n then (s.wr R.WH_STATUS_RANGE_ERR 1, .range, [])
  else
    let s0 := (s.spoil luck.spoilt).whCharge req n (blocksOf a n).length
    let r := (blocksOf a n).foldl (fun (t : State × Bool) b =>
      let p := t.1.whReadPart req retry luck b
      (p.1, t.2 || p.2)) (s0, false)
    let fresh := (blocksOf a n).any (fun b => !Tab.get false s.wh.written b)
    (if fresh then r.1.nextFree else r.1, if r.2 then .check else .ok, s0.whPeek a n)

/-- A device ring writes bytes to the Warehouse. -/
def State.whStore (s : State) (req : WhReq) (a : Nat) (bs : List Byte) : State := (s.whWrite req a bs).1

/-- A slot of a ring is written, padded up to `size` bytes. -/
def State.whSlot (s : State) (req : WhReq) (a size : Nat) (bs : List Byte) : State :=
  s.whStore req a (bs ++ (List.range (size - bs.length)).map (fun i => Config.padByte (a + bs.length + i)))

end Sys2Proof.Machine
end

