-- ==== Sys2Proof/Machine/Das.lean ====
section
/-! DEFINITION. Chapter 05: the corner turn, the Sluice's rows and the synchronising reset of DAS zone berths. -/

namespace Sys2Proof.Machine

/-- The DAS part of the berth at an index. -/
def State.dasOf (s : State) (b : Nat) : Das := Tab.get {} s.das b

/-- Sets the DAS part of the berth at an index. -/
def State.setDas (s : State) (b : Nat) (d : Das) : State := { s with das := Tab.put {} s.das b d }

/-- A DAS zone's parameter words after its profile was applied (Table 5.1). -/
structure DasParams where
  quay : Nat
  expert : Bool
  profile : Nat
  first : Nat
  count : Nat
  pass : Bool
  avg : Bool
  fmt : Nat
  stride : Nat
  rate : Nat
  h : Nat
  inc : Nat
  outRows : Nat
  tug : Nat
  gauge : Nat
  deriving DecidableEq, Repr

/-- Reads the words of Table 5.1. -/
def dasParams (w : List Nat) : DasParams :=
  let x := fun i => w.getD i 0
  { quay := bits (x 0) 0 3, expert := bit (x 0) 8, profile := bits (x 0) 16 8, first := bits (x 1) 0 21, count := bits (x 2) 0 21
    pass := bit (x 3) 11, avg := bit (x 3) 10, fmt := bits (x 3) 8 2, stride := bits (x 3) 0 7, rate := x 4, h := bits (x 5) 0 4
    inc := x 6 + 2 ^ 32 * bits (x 7) 0 8, outRows := bits (x 8) 0 17, tug := bits (x 9) 0 4, gauge := bits (x 10) 0 7 }

/-- Channels that a berth's corner turn carries: berth points of a DAS zone, coils of a flow zone (R117, R145). -/
def Berth.channels (b : Berth) : Nat := if b.kind = 2 then bits (b.params.getD 1 0) 0 6 else (dasParams b.params).count

/-- Channels in a tile row (R118, R145). -/
def Berth.width (b : Berth) : Nat := if b.kind = 2 then 32 else 256

/-- Groups of 256 berth points (R118). -/
def groupsOf (count : Nat) : Nat := ceilDiv count 256

/-- Bytes of an entry (R135). -/
def entryBytes (fmt : Nat) : Nat := if fmt = 0 then 4 else 8

/-- ROW_BYTES (R135). -/
def rowBytes (count fmt : Nat) : Nat := ceilDiv (32 + count * entryBytes fmt) 64 * 64

/-- Bytes of a tile: 16 rows (R118, R145). -/
def Berth.tileBytes (b : Berth) : Nat := 32 * b.width

/-- Tiles per group in the tile ring (R122). -/
def tileRingLen (tin : Nat) : Nat := ceilDiv 262144 (16 * tin) + 2

/-- Row buffers that the staging reservation of a berth holds (R120). -/
def rowBuffers (g : Nat) : Nat := 136 * (g / 16) + (g % 16) * (33 - g % 16) / 2 + ceilDiv g 16

/-- STAGE_NEED (R120). -/
def stageNeed (count tin : Nat) : Nat := 512 * rowBuffers (groupsOf count) + 512 * groupsOf count * tileRingLen tin

/-- Sluice state of one berth point (R131). -/
def pointState (pass : Bool) (h : Nat) : Nat := if pass then 0 else if h = 0 then 64 else 64 + 96 * (h - 1) + 96

/-- D_total in ns (R126); no filter delays a PASS berth. -/
def delayTotal (pass : Bool) (h tin : Nat) : Nat := if pass then 0 else tin * (31 * 2 ^ h - 15)

/-- The key of row `r` of tile `u` of group `g`. -/
def rowKey (u g r : Nat) : Nat := (u * 4096 + g) * 16 + r

/-- The key of the summary of point column `c` of tile `u` of group `g`. -/
def sumKey (u g c : Nat) : Nat := (u * 4096 + g) * 256 + c

/-- The summary a tile's point starts with: the samples with j < 0 of a group's first tile carry LOST (R118). -/
def sumStart (u g : Nat) : TileSum := if u = 0 ∧ g % 16 ≠ 0 then ⟨tagLost, 0⟩ else ⟨0, 255⟩

/-- A point's summary. -/
def Das.sum (d : Das) (u g c : Nat) : TileSum :=
  let t := Tab.get ⟨0, 255⟩ d.sums (sumKey u g c)
  ⟨t.tags ||| (sumStart u g).tags, min t.qual (sumStart u g).qual⟩

/-- Adds a sample's tag byte and QUAL to a point's summary (R119). -/
def Das.addSum (d : Das) (u g c tags qual : Nat) : Das :=
  let t := Tab.get ⟨0, 255⟩ d.sums (sumKey u g c)
  { d with sums := Tab.put ⟨0, 255⟩ d.sums (sumKey u g c) ⟨t.tags ||| tags, min t.qual qual⟩ }

/-- The number of the first sample of a channel at or after `t` half nanoseconds, from the runs of its samples `step` apart; `up` is the first
number of the run that follows. -/
def firstAt (step t : Nat) : Option Nat → List (Nat × Nat) → Nat
  | _, [] => 0
  | up, (j0, t0) :: rs =>
    if t0 ≤ t then let j := if step = 0 then j0 else j0 + ceilDiv (t - t0) step; match up with | some m => min m j | none => j
    else if rs.isEmpty then j0 else firstAt step t (some j0) rs

/-- The time of sample `j` of a channel in half nanoseconds. -/
def timeOf (step j : Nat) : List (Nat × Nat) → Nat
  | [] => 0
  | (j0, t0) :: rs => if j0 ≤ j then t0 + (j - j0) * step else timeOf step j rs

/-- The middle of a channel's quay points after the first one, in half nanoseconds: what the mean of AVG = 1 or of a coil represents (R136; log entry
119). -/
def State.midOf (s : State) (b i : Nat) : Nat :=
  let t := s.berth b
  let d := s.dasOf b
  if t.kind = 2 then (bits (t.params.getD (20 + 2 * i) 0) 21 11 - 1) * d.slots
  else let p := dasParams t.params; if p.avg then (p.stride - 1) * d.slots else 0

/-- The time of sample `j` of channel `i`, in half nanoseconds. -/
def State.sampleTime (s : State) (b i j : Nat) : Nat :=
  timeOf (2 * (s.dasOf b).tin) j (Tab.get [] (s.dasOf b).runs i) + s.midOf b i

/-- The number of the first sample of channel `i` at or after `t` half nanoseconds. -/
def State.sampleFrom (s : State) (b i t : Nat) : Nat :=
  firstAt (2 * (s.dasOf b).tin) (t - s.midOf b i) none (Tab.get [] (s.dasOf b).runs i)

/-- A complete sample of a channel enters its tile: a row that finds no free buffer in the reservation is dropped (R121).
`t2` is the time of its first quay point in half nanoseconds. -/
def State.cornerSample (s : State) (b i phase tags qual t2 : Nat) : State :=
  let d := s.dasOf b
  let g := i / 256
  let j := Tab.get 0 d.nextJ i
  let u := (j + g % 16) / 16
  let r := (j + g % 16) % 16
  let key := rowKey u g r
  let runs := Tab.get [] d.runs i
  let d1 : Das := { d with nextJ := Tab.put 0 d.nextJ i (j + 1)
                           runs := if !runs.isEmpty && timeOf (2 * d.tin) j runs == t2 then d.runs else Tab.put [] d.runs i ((j, t2) :: runs) }
  if d.dropped.contains key ∨ (¬ d.rows.contains key ∧ rowBuffers (groupsOf (s.berth b).channels) ≤ d.rows.length) then
    let d2 := d1.addSum u g (i % 256) tagLost 255
    if d.dropped.contains key then s.setDas b d2
    else (((s.setDas b { d2 with dropped := d2.dropped ++ [key] }).wr R.RX_SL_STATUS_STAGE_OVF 1).wr (R.RX_BT_i_STATUS_STAGE_OVF b) 1).inc
      R.RX_SL_STAGE_OVF_CNT_COUNT
  else
    let d2 : Das := { d1 with rows := if d.rows.contains key then d.rows else d.rows ++ [key]
                              cells := Tab.put 0 d1.cells (key * 256 + i % 256) phase }
    s.setDas b (d2.addSum u g (i % 256) tags qual)

/-- A point-sample word's fields (Table 4.2). -/
structure PointWord where
  tags : Nat
  qual : Nat
  phase : Nat

/-- Reads a point-sample word. -/
def pointFields (w : Nat) : PointWord := ⟨bits w 24 8, bits w 16 8, bits w 0 16⟩

/-- Echo start of a point of a launch that starts at `start`, in half nanoseconds (R88). -/
def Plan.echo (p : Plan) (start point : Nat) : Nat := (2 * (start + point * p.slots : Nat) + toSigned 16 p.zero).toNat

/-- A point-sample word of quay point `q` of the launch at `start` reaches the corner turn of berth `b` (R117): AVG = 0 takes the first quay point
of a berth point, AVG = 1 the mean of its STRIDE increments of one launch, the OR of the tags and the least QUAL. A sample counts from the landing
boundary when its first quay point's echo does not start before it (log entry 119). -/
def State.cornerPoint (s : State) (b : Nat) (pl : Plan) (start q word : Nat) : State :=
  let p := dasParams (s.berth b).params
  let d := s.dasOf b
  let i := (q - p.first) / p.stride
  let r := (q - p.first) % p.stride
  let t2 := pl.echo start (p.first + i * p.stride)
  let w := pointFields word
  if q < p.first ∨ p.stride = 0 ∨ p.count ≤ i ∨ t2 < 2 * d.landed then s
  else if !p.avg then (if r = 0 then s.cornerSample b i w.phase w.tags w.qual t2 else s)
  else
    let a := Tab.get {} d.acc i
    let a0 : PointAcc := if a.start = start then a else { start := start }
    let a1 : PointAcc := ⟨start, a0.sum + toSigned 16 w.phase, a0.tags ||| w.tags, min a0.qual w.qual, a0.got + 1⟩
    if a1.got < p.stride then s.setDas b { d with acc := Tab.put {} d.acc i a1 }
    else
      let ph := if hasTag a1.tags tagLost then 0 else ofSigned 16 (roundEven ((a1.sum : Rat) / p.stride))
      (s.setDas b { d with acc := Tab.put {} d.acc i {} }).cornerSample b i ph a1.tags a1.qual t2

/-- The tile of a group is full: every point of the group has its last sample (R121). -/
def Das.tileFull (d : Das) (count u g : Nat) : Bool :=
  (List.range (min 256 (count - 256 * g))).all (fun c => decide (16 * (u + 1) ≤ Tab.get 0 d.nextJ (256 * g + c) + g % 16))

/-- The bytes of a tile: 16 rows of 256 increments, or of 32 for a flow zone (R118, R145). -/
def Das.tileBytes (d : Das) (width u g : Nat) (bad : List Nat) : List Byte :=
  (List.range 16).flatMap (fun r => (List.range width).flatMap (fun c =>
    leBytes 2 (if bad.contains r then 0 else Tab.get 0 d.cells (rowKey u g r * 256 + c))))

/-- Every point of a tile gains tags in its summary. -/
def Das.tagTile (d : Das) (u g tags : Nat) : Das := (List.range 256).foldl (fun e c => e.addSum u g c tags 255) d

/-- The Warehouse address of tile `u` of group `g` of berth `b` (R122). -/
def State.tileAddr (s : State) (b g u : Nat) : Nat :=
  let d := s.dasOf b
  d.tiles + (s.berth b).tileBytes * (g * tileRingLen d.tin + u % tileRingLen d.tin)

/-- R121 to R123: the oldest full tile of the group goes through the berth's Tug to its slot of the tile ring, and its summary stays. A row whose
buffer fails parity is 0 and lost; it counts as a staging parity error, and TILE_ERR and its counter, which are of whole tiles, do not move
(log entry 119). The write ends, and the row buffers return, when the Tug reports it complete (`execTugDescriptorComplete`). -/
def execTileFlush (berth group : Nat) (parityRows : List Nat) (s : State) : Res := s.live fun s =>
  let d := s.dasOf berth
  let n := (s.berth berth).channels
  let w := (s.berth berth).width
  let u := Tab.get 0 d.flushed group
  if (s.berth berth).isOpen ∧ group < groupsOf n ∧ d.tileFull n u group then
    let bad := (parityRows.filter (fun r => r < 16)).eraseDups
    let d1 : Das := { d with flushed := Tab.put 0 d.flushed group (u + 1)
                             failed := d.failed.filter (fun e => e.1 != group || decide (u < e.2 + tileRingLen d.tin)) }
    let d2 := if bad.isEmpty then d1 else d1.tagTile u group tagLost
    let s1 := (s.whStore { owner := some berth } (s.tileAddr berth group u) (d.tileBytes w u group bad)).setDas berth d2
    let s2 : State := { s1 with tileWrites := Tab.put [] s1.tileWrites d.tug (Tab.get [] s1.tileWrites d.tug ++ [(berth, group, u)]) }
    goOn (bad.foldl (fun t _ => (t.wr R.RX_SL_STATUS_STAGE_PARITY 1).inc R.RX_SL_PARITY_CNT_STAGE) s2)
  else goOn s

/-- R121: the oldest tile write of Tug `e` is complete: its work is charged to the berth (R359), and its row buffers return to the pool. A tile
whose work was carried over carries TIDE, one whose work was discarded LOST (R48, R49). -/
def State.tileWritten (s : State) (e : Nat) : State := match Tab.get [] s.tileWrites e with
  | [] => s
  | (b, g, u) :: rest =>
    let x := ({ s with tileWrites := Tab.put [] s.tileWrites e rest } : State).spend (5 + e) b (ceilDiv (s.berth b).tileBytes 16)
    let d := x.1.dasOf b
    let keys := (List.range 16).map (fun r => rowKey u g r)
    let d1 : Das := { d with rows := d.rows.filter (fun k => !keys.contains k), dropped := d.dropped.filter (fun k => !keys.contains k)
                             cells := Tab.clear d.cells (rowKey u g 0 * 256) (rowKey u g 16 * 256) }
    x.1.setDas b (if x.2 = 0 then d1 else d1.tagTile u g x.2)

/-- Tile `u` of group `g` of berth `b` is in its tile ring. -/
def State.tileThere (s : State) (b g u : Nat) : Bool :=
  decide (u < Tab.get 0 (s.dasOf b).flushed g) && !(Tab.get [] s.tileWrites (s.dasOf b).tug).contains (b, g, u)

/-- The grid that row `q` belongs to: its anchor, the SEQ at the anchor, and the anchor of the grid that replaced it. -/
def gridOf : List (Nat × Nat) → Nat → Option Nat → Nat × Nat × Option Nat
  | [], _, later => (0, 0, later)
  | (a, s0) :: gs, q, later => if s0 ≤ q ∨ gs.isEmpty then (a, s0, later) else gridOf gs q (some a)

/-- The grids that row `q` and later rows belong to. -/
def gridsFrom : List (Nat × Nat) → Nat → List (Nat × Nat)
  | [], _ => []
  | (a, s0) :: gs, q => if s0 ≤ q then [(a, s0)] else (a, s0) :: gridsFrom gs q

/-- τ of row `q` in units of 2^-38 ns (R127); with PASS the time of berth point 0's first quay point for its sample `q` (R136). -/
def State.rowTime (s : State) (b q : Nat) : Nat :=
  let d := s.dasOf b
  if (dasParams (s.berth b).params).pass then timeOf (2 * d.tin) q (Tab.get [] d.runs 0) * 2 ^ 37
  else
    let g := gridOf d.grids q none
    g.1 * 2 ^ 38 + (q - g.2.1) * (2 ^ d.h * d.inc * d.tin)

/-- The tiles of channel `i` that hold an input sample with a time within D_total of `tau` (in 2^-38 ns), both ends included (R129). -/
def State.tilesNear (s : State) (b tau i : Nat) : List Nat :=
  let d := s.dasOf b
  let dd := delayTotal false d.h d.tin * 2 ^ 38
  let g := i / 256 % 16
  let lo := s.sampleFrom b i (ceilDiv (tau - dd) (2 ^ 37))
  let hi := s.sampleFrom b i ((tau + dd) / 2 ^ 37 + 1)
  if hi ≤ lo then [] else (List.range ((hi - 1 + g) / 16 + 1 - (lo + g) / 16)).map (fun k => (lo + g) / 16 + k)

/-- The cascade of channel `i` as it stands for outputs of the grid anchored at `anchor`: cleared where it has not yet worked on that grid, to start
with the first sample at or after the anchor (R127, R134). -/
def State.filterOn (s : State) (b i anchor : Nat) : PointFilter :=
  let d := s.dasOf b
  let f := Tab.get {} d.filters i
  if f.anchor = some anchor then f
  else let j := s.sampleFrom b i (2 * anchor); f.start d.h d.tin anchor j (s.sampleTime b i j)

/-- The inputs that output `m` of the grid still needs. -/
def State.inputsFor (s : State) (b i anchor m : Nat) : List Nat :=
  let d := s.dasOf b
  let f := s.filterOn b i anchor
  (List.range (f.needs d.h d.inc m - f.next)).map (f.next + ·)

/-- The tile that holds sample `j` of a channel. -/
def tileOf (i j : Nat) : Nat := (j + i / 256 % 16) / 16

/-- Everything that output `m` of channel `i` needs is there: the first input of the grid, its inputs, and every tile that gives it tags. -/
def State.outReady (s : State) (b i anchor m tau : Nat) : Bool :=
  decide ((s.filterOn b i anchor).first < Tab.get 0 (s.dasOf b).nextJ i) &&
  ((s.inputsFor b i anchor m).map (tileOf i) ++ s.tilesNear b tau i).all (fun u => s.tileThere b (i / 256) u)

/-- The increment of sample `j` of channel `i` as the Sluice reads it, 0 in a tile that failed (R123). -/
def State.tileValue (s : State) (b i j : Nat) : Int :=
  let g := i / 256
  let u := tileOf i j
  if (s.dasOf b).failed.contains (g, u) then 0
  else toSigned 16 (leNat (s.whPeek (s.tileAddr b g u + 2 * ((s.berth b).width * ((j + g % 16) % 16) + i % 256)) 2))

/-- The cascade of channel `i` after the inputs of output `m`. -/
def State.runFilter (s : State) (b i anchor m : Nat) : PointFilter :=
  (s.inputsFor b i anchor m).foldl (fun f j => f.feed (s.tileValue b i j)) (s.filterOn b i anchor)

/-- The Sluice reads a tile, group and number, in class 0 with RETRY = 1: one that fails the re-read too gives 0 and is lost for all its points
(R122, R123, R346). -/
def State.readTile (s : State) (b : Nat) (luck : WhLuck) (e : Nat × Nat) : State :=
  let r := s.whRead { owner := some b } (s.tileAddr b e.1 e.2) (s.berth b).tileBytes true luck
  let t := r.1
  let d := { t.dasOf b with tilesRead := Tab.put 0 (t.dasOf b).tilesRead e.1 (max (e.2 + 1) (Tab.get 0 (t.dasOf b).tilesRead e.1)) }
  if r.2.1 = .ok then t.setDas b d
  else ((t.setDas b { d.tagTile e.2 e.1 tagLost with failed := d.failed ++ [e] }).wr R.RX_SL_STATUS_TILE_ERR 1).inc R.RX_SL_TILE_ERR_CNT_COUNT

/-- The Sluice reads those of the tiles that it has not read yet. -/
def State.readTiles (s : State) (b : Nat) (tiles : List (Nat × Nat)) (luck : WhLuck) : State :=
  (tiles.eraseDups.filter (fun e => decide (Tab.get 0 (s.dasOf b).tilesRead e.1 ≤ e.2))).foldl (fun t e => t.readTile b luck e) s

/-- The state of channel `i` fails parity as its next input enters: it is cleared, and outputs below that input's time plus D_total are LOST
(R132). -/
def State.stateError (s : State) (b anchor i : Nat) : State :=
  let d := s.dasOf b
  let f := s.filterOn b i anchor
  let t := s.sampleTime b i f.next * 2 ^ 37 + delayTotal false d.h d.tin * 2 ^ 38
  ((s.setDas b { d with filters := Tab.put {} d.filters i { f.clear with lostUntil := max f.lostUntil t } }).wr R.RX_SL_STATUS_STATE_PARITY 1).inc
    R.RX_SL_PARITY_CNT_STATE

/-- One entry of a row: its bytes, tag byte and new running sum (R128, R129, R137, R138). -/
structure Entry where
  bytes : List Byte
  tag : Nat
  sum : Nat
  deriving DecidableEq, Repr

/-- Forms an entry from the cascade output, its tags and QUAL. -/
def makeEntry (d : Das) (fmt : Nat) (y : LineVal) (tags qual sum : Nat) : Entry :=
  let rtot : Rat := (2 ^ d.h * d.inc : Nat) / 2 ^ 38
  let v16 := roundHalf (y.v * rtot / 256)
  let v32 := roundHalf (y.v * rtot)
  let beyond := y.sat || (if fmt = 0 then decide (v16 < -32767 ∨ 32767 < v16) else decide (v32 < -2147483647 ∨ 2147483647 < v32))
  let tag := tags ||| tagIf (beyond && !hasTag tags tagLost) tagOvr
  if hasTag tags tagLost then
    ⟨if fmt = 0 then leBytes 4 (tag * 2 ^ 24 + qual * 2 ^ 16) else leBytes 8 (tag * 2 ^ 56 + qual * 2 ^ 48), tag, sum⟩
  else if fmt = 0 then
    ⟨leBytes 4 (tag * 2 ^ 24 + qual * 2 ^ 16 + ofSigned 16 (max (-32767) (min v16 32767))), tag, sum⟩
  else
    let w := max (-2147483647) (min v32 2147483647)
    let acc := (sum + ofSigned 32 w) % 2 ^ 32
    ⟨leBytes 8 (tag * 2 ^ 56 + qual * 2 ^ 48 + (if fmt = 2 then acc else ofSigned 32 w)), tag, acc⟩

/-- The entry of berth point `i` in a row as a watch sees it (Table 11.2): under PASS each point has its own instant. -/
def rowSample (p : DasParams) (slots tau : Nat) (es : List Entry) (i : Nat) : Option WatchSample := (es.drop i).head?.map fun e =>
  let v := leNat e.bytes
  { value := if p.fmt = 0 then toSigned 16 v else toSigned 32 v
    at_ := tau / 2 ^ 30 + (if p.pass then 256 * (i * p.stride * slots) + (if p.avg then 128 * (p.stride - 1) * slots else 0) else 0)
    tag := e.tag, qual := if p.fmt = 0 then bits v 16 8 else bits v 48 8 }

/-- What the tags and QUAL of a channel's output come to from the summaries of its tiles (R129). -/
def State.sumsOver (s : State) (b i : Nat) (us : List Nat) : TileSum :=
  let sums := us.map (fun u => (s.dasOf b).sum u (i / 256) (i % 256))
  ⟨orTags (sums.map TileSum.tags), (sums.map TileSum.qual).foldl min 255⟩

/-- A row of a DAS zone as its SEQ gives it: its grid, τ, whether a reset has cut it, and whether the filters still fill (R129, R134). -/
structure RowAt where
  anchor : Nat
  m : Nat
  tau : Nat
  cut : Bool
  fill : Bool

/-- The row of SEQ `q` (R134): cut when its τ + D_total reaches the anchor of the next grid. -/
def State.rowAt (s : State) (b q : Nat) : RowAt :=
  let p := dasParams (s.berth b).params
  let d := s.dasOf b
  let g := gridOf d.grids q none
  let dly := delayTotal p.pass d.h d.tin * 2 ^ 38
  let tau := s.rowTime b q
  { anchor := g.1, m := q - g.2.1, tau := tau
    cut := !p.pass && (match g.2.2 with | some a => decide (a * 2 ^ 38 ≤ tau + dly) | none => false)
    fill := !p.pass && decide (tau < g.1 * 2 ^ 38 + dly) }

/-- The tiles that the next row of SEQ `q` reads. -/
def State.rowTiles (s : State) (b q : Nat) (r : RowAt) : List (Nat × Nat) :=
  let p := dasParams (s.berth b).params
  (List.range p.count).flatMap (fun i =>
    (if p.pass then [tileOf i q] else if r.cut then [] else (s.inputsFor b i r.anchor r.m).map (tileOf i)).map (fun u => (i / 256, u)))

/-- The Sluice has what the row of SEQ `q` needs. -/
def State.rowReady (s : State) (b q : Nat) (r : RowAt) : Bool :=
  let p := dasParams (s.berth b).params
  (List.range p.count).all (fun i =>
    if p.pass then s.tileThere b (i / 256) (tileOf i q) else r.cut || s.outReady b i r.anchor r.m r.tau)

/-- Point `i` of a row: its cascade after it, and its entry (R128, R129, R136 to R138). -/
def State.rowEntry (s : State) (b q : Nat) (r : RowAt) (tags i : Nat) : PointFilter × Entry :=
  let p := dasParams (s.berth b).params
  let d := s.dasOf b
  if p.pass then
    let x := s.sumsOver b i [tileOf i q]
    (Tab.get {} d.filters i, makeEntry d p.fmt { v := 256 * s.tileValue b i q } (x.tags ||| tags) x.qual 0)
  else
    let x := s.sumsOver b i (s.tilesNear b r.tau i)
    let f := if r.cut then Tab.get {} d.filters i else s.runFilter b i r.anchor r.m
    let t := x.tags ||| tags ||| tagIf (r.cut || decide (r.tau < f.lostUntil)) tagLost ||| tagIf r.fill tagFill
    let e := makeEntry d p.fmt (f.out d.inc r.m) t x.qual f.sum
    ({ f with sum := e.sum }, e)

/-- The Sluice's work on a row (Table 5.6): half-band outputs formed and twice the resampler's; a quarter of an input with PASS. -/
def State.rowWork (s : State) (b : Nat) (r : RowAt) : Nat :=
  let p := dasParams (s.berth b).params
  let d := s.dasOf b
  if p.pass then ceilDiv p.count 4
  else if r.cut then 0
  else ((List.range p.count).map (fun i =>
    let f := s.filterOn b i r.anchor
    let a := f.next - f.first
    let n := (s.inputsFor b i r.anchor r.m).length
    ((List.range d.h).map (fun k => (a + n) / 2 ^ (k + 1) - a / 2 ^ (k + 1))).sum + 2)).sum

/-- R123, R128 to R138: the next row of the berth is written with its tags, SEQ last, and the counters move. -/
def execSluiceRowWrite (berth : Nat) (queued once spoilt badState : List Nat) (s : State) : Res := s.live fun s =>
  let b := s.berth berth
  let p := dasParams b.params
  let q := s.rdPair (R.RX_BT_i_SEQ_LO_SEQ_LO berth) (R.RX_BT_i_SEQ_HI_SEQ_HI berth)
  let r := s.rowAt berth q
  if b.isOpen ∧ b.kind = 1 ∧ s.rowReady berth q r then
    let s1 := s.readTiles berth (s.rowTiles berth q r) ⟨queued, once, spoilt⟩
    let errs := if p.pass ∨ r.cut then [] else badState.eraseDups.filter (fun i => decide (i < p.count))
    let s2 := errs.foldl (fun (t : State) i => t.stateError berth r.anchor i) s1
    let w := s2.spend 0 berth (s2.rowWork berth r)
    let s3 := w.1
    let es := (List.range p.count).map (s3.rowEntry berth q r w.2)
    let tags := orTags (es.map (fun e => e.2.tag))
    let d := s3.dasOf berth
    let slot := d.ring + rowBytes p.count p.fmt * (q % p.outRows)
    let hdr := leBytes 8 (r.tau / 2 ^ 38) ++ leBytes 8 q ++ leBytes 4 b.handle ++ leBytes 4 p.count ++ leBytes 1 p.fmt ++ leBytes 1 tags ++
      leBytes 1 (r.tau / 2 ^ 30 % 256) ++ leBytes 5 0
    let lostN := (es.filter (fun e => hasTag e.2.tag tagLost)).length
    let s4 := s3.whSlot { owner := some berth } slot (rowBytes p.count p.fmt) (hdr ++ es.flatMap (fun e => e.2.bytes))
    let d1 : Das := { d with filters := (es.zipIdx).foldl (fun t (e : (PointFilter × Entry) × Nat) => Tab.put {} t e.2 e.1.1) d.filters
                             grids := gridsFrom d.grids (q + 1) }
    let s5 := (s4.setDas berth d1).wrPair (R.RX_BT_i_SEQ_LO_SEQ_LO berth) (R.RX_BT_i_SEQ_HI_SEQ_HI berth) (q + 1)
    let s6 := (s5.wrB (R.RX_BT_i_STATUS_FILLING berth) r.fill).addSat (R.RX_BT_i_LOST_CNT_COUNT berth) lostN
    let s7 := if lostN = 0 then s6 else s6.wr (R.RX_BT_i_STATUS_LOST_ROWS berth) 1
    let s8 := if hasTag tags tagOvr then s7.wr (R.RX_BT_i_STATUS_OVR berth) 1 else s7
    goOn (s8.feed 1 b.handle (rowSample p d.slots r.tau (es.map Prod.snd)))
  else goOn s

/-- R133: the reset waits to land; a write while one is pending is discarded. -/
def execSyncWrite (s : State) : Res := s.live fun s =>
  if s.on R.RX_SL_STATUS_SYNC_PENDING then goOn s
  else goOn ((s.wr R.RX_SL_STATUS_SYNC_PENDING 1).accept .sync)

end Sys2Proof.Machine
end

