-- ==== Sys2Proof/Machine/Zone.lean ====
section
/-! DEFINITION. Chapter 06: a flow zone's parameters and the corner turn of its coils (R142 to R146). -/

namespace Sys2Proof.Machine

/-- The flow part of the berth at an index. -/
def State.flowOf (s : State) (b : Nat) : Flow := Tab.get {} s.flow b

/-- Sets the flow part of the berth at an index. -/
def State.setFlow (s : State) (b : Nat) (f : Flow) : State := { s with flow := Tab.put {} s.flow b f }

/-- A flow zone's parameter words after its profile was applied (Table 6.1). -/
structure FlowParams where
  profile : Nat
  mode : Nat
  expert : Bool
  quay : Nat
  tsrc : Nat
  select : Nat
  dirn : Bool
  nc : Nat
  qMin : Nat
  nfft : Nat
  blk : Nat
  fzSel : Nat
  fcHi : Nat
  fcLo : Nat
  faHi : Nat
  faLo : Nat
  vcMax : Nat
  curveA : Nat
  curveC : Nat
  fluid : Nat
  diam : Nat
  pHandle : Nat
  tHandle : Nat
  raman : Nat
  ramanCount : Nat
  ramanFirst : Nat
  disRel : Nat
  disAbs : Nat
  hRef : Int
  hum : Nat
  pAtm : Nat
  staleS : Nat
  tchkLim : Nat
  outRecs : Nat
  calset : Nat
  gauge : Nat
  cluster : Nat
  tug : Nat
  ncal : Nat
  deriving DecidableEq, Repr

/-- Reads the words of Table 6.1. -/
def flowParams (w : List Nat) : FlowParams :=
  let x := fun i => w.getD i 0
  { profile := bits (x 0) 16 8, mode := bits (x 0) 12 1, expert := bit (x 0) 8, quay := bits (x 0) 0 3, tsrc := bits (x 1) 24 2
    select := bits (x 1) 16 2, dirn := bit (x 1) 8, nc := bits (x 1) 0 6, qMin := bits (x 2) 24 8, nfft := 128 * 2 ^ bits (x 2) 16 2
    blk := bits (x 2) 8 6, fzSel := bits (x 2) 0 3, fcHi := bits (x 3) 16 16, fcLo := bits (x 3) 0 16, faHi := bits (x 4) 16 16
    faLo := bits (x 4) 0 16, vcMax := bits (x 5) 0 16, curveA := bits (x 6) 16 8, curveC := bits (x 6) 8 8, fluid := bits (x 6) 0 2
    diam := x 7, pHandle := x 8, tHandle := x 9, raman := x 10, ramanCount := bits (x 11) 16 16, ramanFirst := bits (x 11) 0 16
    disRel := bits (x 12) 16 16, disAbs := bits (x 12) 0 16, hRef := toSigned 32 (x 13), hum := x 14, pAtm := x 15
    staleS := bits (x 16) 16 16, tchkLim := bits (x 16) 0 16, outRecs := bits (x 17) 0 17, calset := bits (x 18) 16 8
    gauge := bits (x 18) 8 7, cluster := bits (x 18) 4 4, tug := bits (x 18) 0 4, ncal := bits (x 19) 0 16 }

/-- Zone rate f_z in Hz (Table 6.1). -/
def FlowParams.fz (p : FlowParams) : Nat := 512 * 2 ^ p.fzSel

/-- Samples of a block, L_b (R146). -/
def FlowParams.lb (p : FlowParams) : Nat := p.fz * p.blk / 4

/-- Quay points of coil `c` of a zone: their number and the first (Table 6.1). -/
def coilPoints (w : List Nat) (c : Nat) : Nat × Nat := (bits (w.getD (20 + 2 * c) 0) 21 11, bits (w.getD (20 + 2 * c) 0) 0 21)

/-- The declared position of coil `c` in µm. -/
def coilPos (w : List Nat) (c : Nat) : Nat := w.getD (21 + 2 * c) 0

/-- τ of a block's start in units of 2^-38 ns (R146): A + b × L_b × T_out. -/
def blockStart (f : Flow) (d : Das) (lb b : Nat) : Nat := f.anchor * 2 ^ 38 + b * lb * (2 ^ d.h * d.inc * d.tin)

/-- R144 for a coil whose quay points are all in: the mean increment of the points that carry neither LOST nor FADE, LOST with
fewer than a quarter of them, FADE when more than half were left out for it. The value, the tags and QUAL. -/
def coilSample (npts : Nat) (a : CoilAcc) : Nat × Nat × Nat :=
  if a.used < ceilDiv npts 4 ∨ a.used = 0 then (0, tagLost, 0)
  else (ofSigned 16 (roundEven ((a.sum : Rat) / a.used)), a.tags ||| tagIf (npts < 2 * a.fades) tagFade, a.qual / a.used)

/-- A point-sample word of quay point `q` of the launch at `start` reaches the coil that covers it (R144); a coil sample is of one launch. -/
def State.coilPoint (s : State) (b : Nat) (pl : Plan) (start q word : Nat) : State :=
  let w := (s.berth b).params
  let nc := (s.berth b).channels
  match (List.range nc).find? (fun c => decide ((coilPoints w c).2 ≤ q ∧ q < (coilPoints w c).2 + (coilPoints w c).1)) with
  | none => s
  | some c =>
    let f := s.flowOf b
    let t2 := pl.echo start (coilPoints w c).2
    let x := pointFields word
    let a0 := Tab.get {} f.acc c
    let a : CoilAcc := if a0.start = start then a0 else { start := start }
    let out := hasTag x.tags tagLost || hasTag x.tags tagFade
    let a1 : CoilAcc :=
      { start := start, got := a.got + 1, sum := if out then a.sum else a.sum + toSigned 16 x.phase, tags := if out then a.tags else a.tags ||| x.tags
        qual := if out then a.qual else a.qual + x.qual, used := if out then a.used else a.used + 1
        fades := if hasTag x.tags tagFade && !hasTag x.tags tagLost then a.fades + 1 else a.fades }
    if t2 < 2 * (s.dasOf b).landed then s
    else if a1.got < (coilPoints w c).1 then s.setFlow b { f with acc := Tab.put {} f.acc c a1 }
    else
      let v := coilSample (coilPoints w c).1 a1
      (s.setFlow b { f with acc := Tab.put {} f.acc c {} }).cornerSample b c v.1 v.2.1 v.2.2 t2

end Sys2Proof.Machine
end

