-- ==== Sys2Proof/Machine/Receive.lean ====
section
/-! DEFINITION. Chapter 04: the lane interface, the channeliser, the matched filter, segments, point-samples, replay, and the receive settings of
a quay. -/

namespace Sys2Proof.Machine

/-- The calibration of quay `n`. -/
def State.quayTrim (s : State) (n : Nat) : QuayTrim := Tab.get {} s.quayTrims n

/-- Sets the calibration of quay `n`. -/
def State.setQuayTrim (s : State) (n : Nat) (x : QuayTrim) : State := { s with quayTrims := Tab.put {} s.quayTrims n x }

/-- The calibration of lane `l` of a quay. -/
def QuayTrim.lane (x : QuayTrim) (l : Nat) : LaneTrim := Tab.get {} x.lanes l

/-- The trims of a slice. -/
def LaneTrim.slice (x : LaneTrim) (k : Nat) : SliceTrim := Tab.get {} x.trims k

/-- The code of a physical lane in a sample (R86). -/
def AdcSample.lane (a : AdcSample) (k : Nat) : Int := toSigned 12 (bits a.code (12 * k) 12)

/-- The receive routing of quay `n`: LANE_MAP and INV (Table 4.5); the identity before any manifest (log entry 117). -/
def State.route (s : State) (n : Nat) : Nat × Nat := Tab.get (0xE4, 0) s.routes n

/-- The physical lane of logical signal `l`, 0 to 3 for XI, XQ, YI and YQ (R86). -/
def State.laneOf (s : State) (n l : Nat) : Nat := bits (s.route n).1 (2 * l) 2

/-- A negated sample; −2,048 becomes +2,047 (R86). -/
def adcNegate (v : Int) : Int := if v = -2048 then 2047 else -v

/-- The slice trims under which logical lane `l` takes the sample of instant `t`: those of its slice, or of the spare that replaced it (R421). -/
def State.sliceTrim (s : State) (n l t : Nat) : SliceTrim :=
  let k := (t + Config.slicePhase) % 8
  let spare := s.on (R.CL_QY_n_L_l_SPARE_IN_USE n l) && s.rd (R.CL_QY_n_L_l_SPARE_REPLACED n l) == k
  ((s.quayTrim n).lane l).slice (if spare then 8 else k)

/-- Logical signal `l` of a sample: its lane by LANE_MAP, negated by INV, with its slice's trims (R86, Table 16.5). -/
def State.adcSignal (s : State) (n l t : Nat) (a : AdcSample) : Rat :=
  let v := a.lane (s.laneOf n l)
  let w : Rat := if bit (s.route n).2 l then adcNegate v else v
  let k := s.sliceTrim n l t
  (w + k.offset / 16) * (1 + k.gain / 65536) + (if k.skew = 0 then 0 else Config.skewTerm k.skew w)

/-- X (`q` = 0) or Y of the sample of instant `t`: I + j·Q under the I/Q trims of the polarisation (R86). -/
def State.polSample (s : State) (n q t : Nat) (a : AdcSample) : Cx :=
  let i := s.adcSignal n (2 * q) t a
  let k := s.adcSignal n (2 * q + 1) t a
  let amp := toSigned 16 (s.rd (R.CL_QY_n_IQ_q_AMP n q))
  let ph := toSigned 16 (s.rd (R.CL_QY_n_IQ_q_PHASE n q))
  if amp = 0 ∧ ph = 0 then (i, k) else Config.iqBalance amp ph i k

/-- Slot stream `slot` of a polarisation at instant `t`: X or Y itself for N = 1, otherwise the polyphase filter of 24 × N ns about f_s (R89). -/
def State.slotStream (s : State) (n : Nat) (p : Plan) (slot q t : Nat) (get : Nat → AdcSample) : Cx :=
  if p.slots = 1 then s.polSample n q t (get t)
  else cxSum ((List.range (24 * p.slots)).map (fun i =>
    let u := t + 12 * p.slots - i
    let z := cxMul (s.polSample n q u (get u)) (cis (-(p.centre slot * u / 1000)))
    let h := Config.channelTap p.log2n i
    (h * z.1, h * z.2)))

/-- Slot samples of an overlap-save block, and of a partition of the reference (R90). -/
def Plan.blockLen (p : Plan) : Nat := 1024 / p.slots

/-- FFT length of the matched filter (R90). -/
def Plan.fftLen (p : Plan) : Nat := 2048 / p.slots

/-- Partitions of the reference (R90). -/
def Plan.partitions (p : Plan) : Nat := ceilDiv p.codeHalfNs 2048

/-- The matched-filter reference at slot sample `i`: the launch about its slot centre, in a slot sample's spacing of N ns; an odd ZERO shifts it
by its half nanosecond (R88, R90). -/
def Plan.reference (p : Plan) (odd : Bool) (i : Nat) : Cx := p.envelope odd (2 * i * p.slots - (if p.zero % 2 = 1 then 1 else 0))

/-- The compressed output of a slot launch at a point for a polarisation, partition by partition of the reference, as two 16-bit parts (R90,
R100). -/
def State.compressAt (s : State) (n : Nat) (f : Fate) (point q : Nat) (get : Nat → AdcSample) : Int × Int :=
  let p := f.plan
  let t0 := p.echo f.start point / 2
  let part := fun j => cxSum ((List.range p.blockLen).map (fun i =>
    let k := j * p.blockLen + i
    cxMul (s.slotStream n p f.slot q (t0 + k * p.slots) get) (cxConj (p.reference f.odd k))))
  let z := cxSum ((List.range p.partitions).map part)
  let g := Config.filterScale p.log2n p.codeHalfNs
  (clampSigned 16 (Config.rnd (g * z.1)), clampSigned 16 (Config.rnd (g * z.2)))

/-- The input window of a point at one of its gauge ends: the first and the last ADC instant (R87). -/
def Plan.window (p : Plan) (start point : Nat) : Nat × Nat :=
  let e := p.echo start point
  (e / 2 - 12 * p.slots, ceilDiv e 2 + p.codeNs + 12 * p.slots)

/-- The instants of a window. -/
def windowTimes (w : Nat × Nat) : List Nat := (List.range (w.2 + 1 - w.1)).map (fun i => w.1 + i)

/-- The fate of the launch of a slot that started at an instant. -/
def State.fate (s : State) (n slot start : Nat) : Option Fate := (s.quay n).fates.find? (fun f => f.slot == slot && f.start == start)

/-- The segment in which a point lies, counted from the epoch (R92). -/
def PointRef.seg (r : PointRef) (p : Plan) (point : Nat) : Seg := (r.epoch, (r.start - r.epoch + point * p.slots) / 1024)

/-- The points of a slot launch that lie in segment `m` of the epoch (R70, R92). -/
def Fate.pointsIn (f : Fate) (m : Nat) : List Nat :=
  let off := f.start - f.epoch
  let a := ceilDiv (1024 * m - off) f.plan.slots
  let b := min f.plan.yields (ceilDiv (1024 * (m + 1) - off) f.plan.slots)
  (List.range (b - a)).map (fun i => a + i)

/-- The point-samples of a segment: those of every grid launch that the segment's interval holds, oldest launch first (R70, R77, R92). -/
def State.segPoints (s : State) (n : Nat) (g : Seg) : List PointRef :=
  ((s.quay n).fates.reverse.filter (fun f => f.epoch == g.1 && decide (f.plan.group f.slot = f.slot))).flatMap
    (fun f => (f.pointsIn g.2).map (fun i => ⟨f.slot, f.start, f.epoch, i⟩))

/-- The plan that the launches of an epoch follow: its N, D, PERIOD and ZERO stay the same (R76). -/
def State.epochPlan (s : State) (n e : Nat) : Plan :=
  match (s.quay n).fates.find? (fun f => f.epoch == e) with
  | some f => f.plan
  | none => (s.quay n).ran

/-- The next segment of quay `n` to close: of an earlier epoch first, then of this one while its grid runs or echoes are out (R92). -/
def State.nextSeg (s : State) (n : Nat) : Option Seg :=
  match (s.rxOf n).tails with
  | t :: _ => some (t.1, t.2.1)
  | [] =>
    let e := s.epoch n
    let m := s.segNext n
    if (s.quay n).grid || (s.quay n).fates.any (fun f => f.epoch == e && decide (e + 1024 * m < f.start + f.plan.launchPeriod)) then some (e, m) else none

/-- The instant of the last ADC sample of a segment's input windows (Table 4.3 step 1). -/
def State.segLast (s : State) (n : Nat) (g : Seg) : Nat :=
  let p := s.epochPlan n g.1
  (p.window (g.1 + 1024 * g.2 + 1023) 0).2

/-- The instant of the first ADC sample of a segment's input windows. -/
def State.segFirst (s : State) (n : Nat) (g : Seg) : Nat := ((s.epochPlan n g.1).window (g.1 + 1024 * g.2) 0).1

/-- Shed offset of a sample in the recompute ring: 6 bytes a nanosecond, DEPTH × 16,000 ns (R103, R338). -/
def State.ringAddr (s : State) (n t : Nat) : Nat := s.rd (R.RX_RING_OFS_OFFSET n) + 6 * (t % (16000 * s.rd (R.RX_RING_DEPTH n)))

/-- A raw code clips at −2,048 or at LEVEL (R87). -/
def State.clips (s : State) (n : Nat) (v : Int) : Bool := v == -2048 || decide ((s.rd (R.RX_CLIP_LEVEL n) : Int) ≤ v.natAbs)

/-- One clipped sample of a logical signal: the counter moves and CLIP sets (R87). -/
def State.countClip (s : State) (n l : Nat) : State := (s.wr (R.RX_STATUS_CLIP n) 1).inc (R.RX_CLIP_CNT_l_COUNT n l)

/-- A sample of instant `t` reaches the slice: clips are counted, and it goes into the recompute ring, written with fresh parity (R86, R87). -/
def State.takeAdcSample (s : State) (n t : Nat) (w : BitVec 48) : State :=
  let a : AdcSample := { code := w.toNat, held := true }
  let hit := [0, 1, 2, 3].filter (fun l => s.clips n (a.lane (s.laneOf n l)))
  let o := s.ringAddr n t
  let s1 := hit.foldl (fun (u : State) l => u.countClip n l) s
  let s2 : State := { s1 with shed := Tab.putList 0 s1.shed o (leBytes 6 w.toNat)
                              shedBad := (wordsOf o 6).foldl (fun b i => Tab.put false b i false) s1.shedBad }
  s2.setRx n { (s2.rxOf n) with adc := Tab.put {} (s2.rxOf n).adc t { a with clip := (hit.map (2 ^ ·)).sum } }

/-- The ADC samples up to the instant `last` arrive: those taken while QLINK_n or a PLL was down, or while the quay's trims are not valid, never
reach the slice (R16, R23, R416). Samples that the longest ring no longer holds are forgotten. -/
def State.takeAdc (s : State) (n first last : Nat) (ws : List (BitVec 48)) : State :=
  let x := s.rxOf n
  let t0 := max first x.adcEnd
  let fed := (ws.take (last + 1 - t0)).zipIdx.filter (fun e =>
    let t := t0 + e.2
    !s.gapMeets n t (t + 1) && !s.gapMeets 16 t (t + 1) && !s.gapMeets 21 t (t + 1) && s.power.trims.contains (quayDomain n))
  let s1 := s.setRx n { x with adc := x.adc.filter (fun e => decide (last ≤ e.1 + 262144)), adcEnd := last + 1 }
  fed.foldl (fun (t : State) e => t.takeAdcSample n (t0 + e.2) e.1) s1

/-- The key of the offset and code-store entries of a point and a slot. -/
def ofsKey (p slot : Nat) : Nat := 16 * p + slot

/-- The sum of two complex whole numbers. -/
def intSum (a b : Int × Int) : Int × Int := (a.1 + b.1, a.2 + b.2)

/-- One parity error of the point-state memory (R102). -/
def State.psmError (s : State) (n : Nat) : State := (s.wr (R.RX_STATUS_PSM_PARITY n) 1).inc (R.RX_PARITY_CNT_PSM n)

/-- A noise power in 1/16 dB below full scale (Table 4.7). -/
def noiseUnits (v : Rat) : Nat := if v ≤ 0 then 65535 else (max 0 (min (Config.rnd (160 * log10Rat (Config.fullScale / v))) 65535)).toNat

/-- A compressed output of the noise window joins its slot launch's average; with the window complete the estimate moves, with a time constant
of 256 slot launches (R97). -/
def State.noiseStep (s : State) (n : Nat) (c : Compressed) : State :=
  let len := s.rd (R.RX_NOISE_LEN_LEN n)
  let p0 := s.rd (R.RX_NOISE_P0_P0 n)
  if c.lost ∨ ¬ (p0 ≤ c.p ∧ c.p < p0 + len) then s
  else
    let x := s.rxOf n
    let a := Tab.get {} x.noiseSums c.slot
    let b : NoiseSum := if a.start = c.start then a else { start := c.start }
    let sq := fun (z : Int × Int) => (z.1 * z.1 + z.2 * z.2).toNat
    let d : NoiseSum := { b with got := b.got + 1, x := b.x + sq c.x, y := b.y + sq c.y }
    if d.got < len then s.setRx n { x with noiseSums := Tab.put {} x.noiseSums c.slot d }
    else
      let step := fun (e : Rat) (t : Nat) => e + ((t : Rat) / len - e) / 256
      let e := (step x.noise.1 d.x, step x.noise.2 d.y)
      ((s.setRx n { x with noise := e, noiseCount := min 256 (x.noiseCount + 1), noiseSums := Tab.put {} x.noiseSums c.slot {} }).wr
        (R.RX_NOISE_X n) (noiseUnits e.1)).wr (R.RX_NOISE_Y n) (noiseUnits e.2)

/-- R90, R91 for a point of a slot launch whose segment commits: the compressed outputs are formed, paired with those of the launch before under a
CODE plan, and take their place in the code store. An entry that fails parity reads as a lost partner (R103). -/
def State.commitOut (s : State) (n : Nat) (get : Nat → AdcSample) (f : Fate) (point : Nat) : State :=
  let p := f.plan
  let x := s.rxOf n
  let key := ofsKey point f.slot
  let lost := f.lost || (windowTimes (p.window f.start point)).any (fun t => !(get t).held)
  let vx := s.compressAt n f point 0 get
  let vy := s.compressAt n f point 1 get
  let e := Tab.get {} x.code key
  let bad := p.kind == 1 && x.badCode.contains key
  let alone := p.kind == 1 && (f.first || bad || e.start != some (f.start - p.launchPeriod))
  let c : Compressed :=
    if p.kind = 1 then ⟨f.slot, f.start, point, intSum vx e.x, intSum vy e.y, lost || alone⟩ else ⟨f.slot, f.start, point, vx, vy, lost⟩
  let code := if p.kind = 1 then Tab.put {} x.code key (if lost then {} else ⟨some f.start, vx, vy⟩) else x.code
  let s1 := s.setRx n { x with outs := x.outs ++ [c], code := code, badCode := x.badCode.filter (· != key) }
  (if bad then s1.psmError n else s1).noiseStep n c

/-- The state of a segment commits: every slot of every point-sample (R103). -/
def State.commitSeg (s : State) (n : Nat) (g : Seg) (get : Nat → AdcSample) : State :=
  (s.segPoints n g).foldl (fun (t : State) r => match t.fate n r.slot r.start with
    | none => t
    | some f => (f.plan.groupSlots r.slot).foldl (fun (u : State) sl => match u.fate n sl r.start with
      | some e => u.commitOut n get e r.p
      | none => u) t) s

/-- The wrapped difference of two angles of `w` bits, as a signed number. -/
def wrapDiff (w a b : Nat) : Int := toSigned w (a + 2 ^ w - b % 2 ^ w)

/-- Polarisations in use under POL: 0 X, 1 Y (Table 4.7). -/
def polsOf (pol : Nat) : List Nat := if pol = 1 then [0] else if pol = 2 then [1] else [0, 1]

/-- The gauge product of a slot for a polarisation (R93): the end ahead times the conjugate of the end behind. -/
def gaugeProduct (ahead behind : Compressed) (q : Nat) : Cx :=
  let y := fun (c : Compressed) => if q = 0 then c.x else c.y
  cxMul ((y ahead).1, (y ahead).2) (cxConj ((y behind).1, (y behind).2))

/-- POLW = 1 divides every product of nonzero magnitude by its magnitude (R93). -/
def weigh (polw : Nat) (u : Cx) : Cx := if polw = 0 ∨ u = (0, 0) then u else (u.1 / sqrtRat (cxNorm u), u.2 / sqrtRat (cxNorm u))

/-- One slot of a point-sample: the slot, its products, and its offset as the point-sample uses it, with whether it was SEEDED. -/
structure SlotLook where
  slot : Nat
  us : List Cx
  ofs : Nat
  seeded : Bool

/-- The offset of a slot as a point-sample uses it (R93, R94): 0 for slot 0; an entry that is not SEEDED, or fails parity, is seeded from the
reference phase. -/
def RxSlice.offsetFor (x : RxSlice) (p slot arg ref : Nat) : Nat × Bool :=
  let o := Tab.get {} x.offsets (ofsKey p slot)
  if slot = 0 then (0, true)
  else if o.seeded && !x.badOffsets.contains (ofsKey p slot) then (o.angle, true)
  else (ofSigned 15 (Config.rnd ((wrapDiff 16 arg ref : Rat) / 2)), false)

/-- The combined product of a point-sample under a POLW (R93). -/
def combine (polw : Nat) (ls : List SlotLook) : Cx :=
  cxSum (ls.map (fun l => cxMul (cxSum (l.us.map (weigh polw))) (cis (-(l.ofs : Rat) / 32768))))

/-- QUAL of a point-sample from its products as formed with POLW = 0: K × σ² is the sum of the noise powers of its products (R97). -/
def State.qualOf (s : State) (n : Nat) (pols : List Nat) (ls : List SlotLook) : Nat :=
  let x := s.rxOf n
  let sg := if s.rd (R.RX_NOISE_LEN_LEN n) = 0 then (noisePower (s.rd (R.CL_QY_n_NOISE_X n)), noisePower (s.rd (R.CL_QY_n_NOISE_Y n))) else x.noise
  let k : Rat := ls.length * ((pols.map (fun q => if q = 0 then sg.1 else sg.2)).foldl (· + ·) 0)
  let a := cxNorm (combine 0 ls)
  if a = 0 ∧ k = 0 then min Config.qualOfZero 255 else qualCount a (k * k)

/-- A clipped sample of a polarisation in use lies in the input window at one of the gauge ends (R87). -/
def RxSlice.clipAt (x : RxSlice) (p : Plan) (r : PointRef) (pols ends : List Nat) : Bool :=
  ends.any (fun i => (windowTimes (p.window r.start i)).any (fun t => pols.any (fun q => bits (Tab.get {} x.adc t).clip (2 * q) 2 != 0)))

/-- The word of a point-sample (R99). -/
def pointWord (tags qual phase : Nat) : Nat := tags * 2 ^ 24 + qual * 2 ^ 16 + phase

/-- The point-sample word goes to the corner turns of the berths over the point (R99, R117, R144). -/
def State.stagePoint (s : State) (n : Nat) (p : Plan) (r : PointRef) (word : Nat) : State :=
  (s.openBerths.filter (fun b => ((s.berth b).kind == 1 || (s.berth b).kind == 2) && (s.berth b).params.getD 0 0 % 8 == n)).foldl
    (fun t b => if (s.berth b).kind = 2 then t.coilPoint b p r.start r.p word else t.cornerPoint b p r.start r.p word) s

/-- The offsets after a point-sample (R94): one that carries FADE leaves them; a seeded one moves by e / 2^OFS_SHIFT, another takes its seed. -/
def nextOffsets (offsets : Tab OffsetEntry) (p phi shift : Nat) (fade : Bool) (ls : List SlotLook) : Tab OffsetEntry :=
  if fade then offsets
  else ls.foldl (fun t l =>
    let e := wrapDiff 16 (argUnits (cxSum l.us)) (2 * l.ofs + phi)
    if l.slot = 0 then t
    else Tab.put {} t (ofsKey p l.slot)
      ⟨if l.seeded then ofSigned 15 (Config.rnd (((2 * l.ofs : Nat) + (e : Rat) / 2 ^ shift) / 2)) else l.ofs, true⟩) offsets

/-- R93 to R99: forms one point-sample whose segments are all decided, commits its point state, and hands its word to the staging. In a lost
segment it carries LOST (R106). -/
def State.finishPoint (s : State) (n : Nat) (g : Seg) (r : PointRef) : State := match s.fate n r.slot r.start with
  | none => s
  | some f =>
    let p := f.plan
    let x := s.rxOf n
    let slots := p.groupSlots r.slot
    let pols := polsOf f.pol
    let a := ceilDiv f.gauge 2
    let b := f.gauge - a
    let out := fun sl i => x.outs.find? (fun c => c.slot == sl && c.start == r.start && c.p == i && !c.lost)
    let ends := slots.map (fun sl => (sl, out sl (r.p + a), out sl (r.p - b)))
    let inSeg := x.lost.contains g
    let lost0 := decide (r.p < b) || decide (p.yields ≤ r.p + a) || inSeg || ends.any (fun e => e.2.1.isNone || e.2.2.isNone)
    let e := Tab.get {} x.points r.p
    let badPt := !inSeg && x.badPoints.contains r.p
    let valid := e.valid && !badPt && f.epoch == s.epoch n
    let us := ends.map (fun t => match t.2.1, t.2.2 with
      | some h, some l => (t.1, pols.map (gaugeProduct h l))
      | _, _ => (t.1, []))
    let ref := if !valid && slots.contains 0 then ((us.find? (fun u => u.1 == 0)).map (fun u => argUnits (cxSum u.2))).getD 0 else e.phase
    let looks : List SlotLook := us.map (fun u => let o := x.offsetFor r.p u.1 (argUnits (cxSum u.2)) ref; ⟨u.1, u.2, o.1, o.2⟩)
    let phi := argUnits (combine f.polw looks)
    let lost := lost0 || !valid
    let qual := if lost then 0 else s.qualOf n pols looks
    let fade := !lost && decide (qual < s.rd (R.RX_FADE_FLOOR n))
    let phase := if lost then 0 else ofSigned 16 (wrapDiff 16 phi e.phase)
    let tags := tagIf f.settle tagSettle ||| tagIf fade tagFade ||| tagIf lost tagLost ||| tagIf (x.clipAt p r pols [r.p + a, r.p - b]) tagClip
    let badOfs := if inSeg then [] else (slots.filter (· != 0)).filter (fun sl => x.badOffsets.contains (ofsKey r.p sl))
    let x1 := { x with points := Tab.put {} x.points r.p (if lost0 then { e with valid := false } else ⟨phi, f.epoch == s.epoch n⟩)
                       offsets := if lost0 then x.offsets else nextOffsets x.offsets r.p phi f.shift fade looks
                       badPoints := if inSeg then x.badPoints else x.badPoints.filter (· != r.p)
                       badOffsets := x.badOffsets.filter (fun k => !(badOfs.map (ofsKey r.p)).contains k) }
    let s1 := s.setRx n x1
    let s2 := if lost then s1.inc (R.RX_LOST_PS_CNT_COUNT n) else s1
    let s3 := if fade then s2.inc (R.RX_FADE_CNT_COUNT n) else s2
    let s4 := (List.range ((if badPt then 1 else 0) + badOfs.length)).foldl (fun (t : State) _ => t.psmError n) s3
    s4.stagePoint n p r (pointWord tags qual phase)

/-- The verdict on a segment is out: it has closed and does not wait for a replay (R106, R107). -/
def State.decided (s : State) (n : Nat) (g : Seg) : Bool :=
  let x := s.rxOf n
  !x.waiting.contains g &&
  (if g.1 = s.epoch n then decide (g.2 < s.segNext n) else x.tails.all (fun t => t.1 != g.1 || decide (g.2 < t.2.1)))

/-- The segments a point-sample reads: its own and those of its two gauge ends (R93, R107). -/
def State.pointSegs (s : State) (n : Nat) (g : Seg) (r : PointRef) : List Seg := match s.fate n r.slot r.start with
  | none => [g]
  | some f =>
    let a := ceilDiv f.gauge 2
    let b := f.gauge - a
    g :: (if r.p + a < f.plan.yields then [r.seg f.plan (r.p + a)] else []) ++ (if b ≤ r.p then [r.seg f.plan (r.p - b)] else [])

/-- Finishes every held point-sample of quay `n` whose segments are all decided, in order, and keeps the others (R107); what no later
point-sample reads is dropped. -/
def State.drainHeld (s : State) (n : Nat) : State :=
  let ready := fun (e : Seg × PointRef) => (s.pointSegs n e.1 e.2).all (s.decided n)
  let held := (s.rxOf n).held
  let keep := held.filter (fun e => !ready e)
  let s1 := (held.filter ready).foldl (fun t e => t.finishPoint n e.1 e.2) s
  let x := s1.rxOf n
  let near := fun (g : Seg) => s.nextSeg n == none || decide (g.1 = s.epoch n ∧ s.segNext n ≤ g.2 + 2) || keep.any (fun e => e.1.1 == g.1)
  s1.setRx n { x with held := keep
                      lost := x.lost.filter near
                      outs := x.outs.filter (fun c => keep.any (fun e => e.2.start == c.start) || decide (x.adcEnd ≤ c.start + 4194304)) }

/-- R106: segment `g` is delivered LOST: LOST_SEG sets, the segment is counted, and RX_LOST_AT latches its first echo start if
LOST_SEG was 0. -/
def State.loseSegment (s : State) (n : Nat) (g : Seg) : State :=
  let x := s.rxOf n
  let p := s.epochPlan n g.1
  let starts := (s.segPoints n g).map (fun r => p.echo r.start r.p / 2)
  let s1 := if s.on (R.RX_STATUS_LOST_SEG n) then s
    else s.wrPair (R.RX_LOST_AT_LO_TIME_LO n) (R.RX_LOST_AT_HI_TIME_HI n) (starts.foldl min (starts.headD (p.echo (g.1 + 1024 * g.2) 0 / 2)))
  ((s1.wr (R.RX_STATUS_LOST_SEG n) 1).inc (R.RX_LOST_SEG_CNT_COUNT n)).setRx n
    { x with lost := g :: x.lost, waiting := x.waiting.filter (· != g) }

/-- Shows the level of the replay queue and its peak (Table 4.6). -/
def State.replayLevel (s : State) : State :=
  (s.wr R.RX_REPLAY_STATUS_LEVEL s.replayQ.length).wr R.RX_REPLAY_STATUS_PEAK (max (s.rd R.RX_REPLAY_STATUS_PEAK) s.replayQ.length)

/-- Residue mismatches are recorded (R102). -/
def State.residuesSeen (s : State) (n c : Nat) : State :=
  if c = 0 then s else (s.wr (R.RX_STATUS_RESIDUE n) 1).addSat (R.RX_RESIDUE_CNT_COUNT n) c

/-- Segment `g` is no longer the next to close: the count of this epoch's segments moves, or an earlier epoch's tail shortens (Table 4.7). -/
def State.passSeg (s : State) (n : Nat) (g : Seg) : State :=
  let x := s.rxOf n
  match x.tails with
  | t :: ts => s.setRx n { x with tails := if t.2.1 + 1 < t.2.2 then (t.1, t.2.1 + 1, t.2.2) :: ts else ts }
  | [] => s.wrPair (R.RX_SEG_LO_COUNT_LO n) (R.RX_SEG_HI_COUNT_HI n) (g.2 + 1 - x.skipped)

/-- R86 to R93, R97, R102, R103, R105, R107: the next segment closes, once its last ADC sample has come. Its points are kept until every
segment they read is decided; a residue mismatch queues it for replay, or, with the queue full, loses it. -/
def execSegmentClose (n : Fin 8) (adc : List (BitVec 48)) (residues : Nat) (badPoints : List Nat) (badSlots : SlotParity) (s : State) : Res := s.live fun s =>
  match s.nextSeg n with
  | none => goOn s
  | some g =>
    if s.inTide (s.segLast n g) then
      let s1 := (s.advance (s.segLast n g)).takeAdc n (s.segFirst n g) (s.segLast n g) adc
      let x := s1.rxOf n
      let s2 := (s1.setRx n { x with held := x.held ++ (s1.segPoints n g).map (fun r => (g, r)), badPoints := x.badPoints ++ badPoints
                                     badOffsets := x.badOffsets ++ badSlots.offsets, badCode := x.badCode ++ badSlots.code }).passSeg n g
      if residues = 0 then goOn ((s2.commitSeg n g (fun t => Tab.get {} x.adc t)).drainHeld n)
      else
        let s3 := s2.residuesSeen n residues
        if s3.replayQ.length < 16 then
          let y := s3.rxOf n
          let s4 := s3.setRx n { y with waiting := y.waiting ++ [g] }
          goOn ((State.replayLevel { s4 with replayQ := s4.replayQ ++ [{ quay := n.val, seg := g }] }).drainHeld n)
        else goOn (((s3.inc R.RX_REPLAY_DROP_COUNT).loseSegment n g).drainHeld n)
    else goOn s

/-- R105: the replay unit, when free, takes the oldest segment. -/
def execReplayStart (s : State) : Res := s.live fun s =>
  match s.replaying, s.replayQ with
  | none, r :: rest => goOn (State.replayLevel { s with replaying := some { r with at_ := s.now }, replayQ := rest })
  | _, _ => goOn s

/-- The instants of the ADC samples that a segment's compressed outputs need (R87, R104). -/
def State.segTimes (s : State) (n : Nat) (g : Seg) : List Nat := windowTimes (s.segFirst n g, s.segLast n g)

/-- R104: when the replay reads the ring, every sample of the segment's input windows is still held there. -/
def State.ringHolds (s : State) (n : Nat) (g : Seg) (at_ : Nat) : Bool := decide (at_ ≤ s.segFirst n g + 16000 * s.rd (R.RX_RING_DEPTH n))

/-- The words of the recompute ring that fail parity as a replay reads a segment's input windows (R102, R104). -/
def State.ringErrors (s : State) (n : Nat) (g : Seg) : List Nat :=
  (((s.segTimes n g).flatMap (fun t => wordsOf (s.ringAddr n t) 6)).eraseDups).filter (fun w => Tab.get false s.shedBad w)

/-- R104: a replay commits in time while the first later segment that holds samples of the same points has not reached step 7 of Table 4.3,
where the segment after it has closed. -/
def State.replayInTime (s : State) (n : Nat) (g : Seg) : Bool :=
  let p := s.epochPlan n g.1
  let later := max (g.2 + 1) ((1024 * g.2 + p.launchPeriod * p.div / p.slots) / 1024)
  !s.decided n (g.1, later) || !s.decided n (g.1, later + 1)

/-- R104, R106, R107: the replay ends; if the ring still held its samples without a parity error, no residue mismatched and it is in time, the
segment is recomputed and is as one that closed clean, otherwise it is LOST. -/
def execReplayDone (residues : Nat) (badPoints badOffsets badCode : List Nat) (s : State) : Res := s.live fun s =>
  match s.replaying with
  | none => goOn s
  | some r =>
    let n := r.quay
    let y := s.rxOf n
    let s1 := ({ s with replaying := none } : State).setRx n
      { y with badPoints := y.badPoints ++ badPoints, badOffsets := y.badOffsets ++ badOffsets, badCode := y.badCode ++ badCode }
    let bad := s1.ringErrors n r.seg
    let s2 := if bad.isEmpty then s1
      else (bad.foldl State.parityCheck (s1.wr (R.RX_STATUS_RING_PARITY n) 1)).addSat (R.RX_PARITY_CNT_RING n) bad.length
    let s3 := s2.residuesSeen n residues
    if s.ringHolds n r.seg r.at_ ∧ bad.isEmpty ∧ residues = 0 ∧ s.replayInTime n r.seg then
      let x := s3.rxOf n
      let get := fun t => { Tab.get {} x.adc t with code := s3.shedNat (s3.ringAddr n t) 6 }
      let s4 := (s3.inc R.RX_REPLAY_CNT_COUNT).setRx n { x with waiting := x.waiting.filter (· != r.seg) }
      goOn ((s4.commitSeg n r.seg get).drainHeld n)
    else goOn ((s3.loseSegment n r.seg).drainHeld n)

/-- R97: NOISE_VALID sets once the estimate has covered 256 slot launches; it stays 0 while NOISE_LEN is 0. -/
def execNoiseEstimateValid (n : Fin 8) (s : State) : Res := s.live fun s =>
  if s.rd (R.RX_NOISE_LEN_LEN n) ≠ 0 ∧ 256 ≤ (s.rxOf n).noiseCount then goOn (s.wr (R.RX_STATUS_NOISE_VALID n) 1) else goOn s

/-- R97, R109: the window takes effect and the estimate restarts. -/
def execNoiseWindowWrite (n : Fin 8) (len : Bool) (value : Word) (s : State) : Res := s.live fun s =>
  let s1 := if len then s.wr (R.RX_NOISE_LEN_LEN n) (bits value.toNat 0 10) else s.wr (R.RX_NOISE_P0_P0 n) (bits value.toNat 0 21)
  goOn (s1.restartNoise n)

/-- The fields of a written RX_CFG word, each kept as it was where the encoding is reserved (R8, Table 4.7). -/
def State.storeRxCfg (s : State) (n v : Nat) : State :=
  let s1 := if 2 ≤ bits v 24 4 ∧ bits v 24 4 ≤ 8 then s.wr (R.RX_CFG_OFS_SHIFT n) (bits v 24 4) else s
  let s2 := if bits v 16 2 < 3 then s1.wr (R.RX_CFG_POL n) (bits v 16 2) else s1
  let s3 := s2.wr (R.RX_CFG_POLW n) (bits v 8 1)
  if 1 ≤ bits v 0 7 ∧ bits v 0 7 ≤ 64 then s3.wr (R.RX_CFG_GAUGE n) (bits v 0 7) else s3

/-- RX_CFG as a word. -/
def State.rxCfgWord (s : State) (n : Nat) : Nat :=
  s.rd (R.RX_CFG_OFS_SHIFT n) * 2 ^ 24 + s.rd (R.RX_CFG_POL n) * 2 ^ 16 + s.rd (R.RX_CFG_POLW n) * 2 ^ 8 + s.rd (R.RX_CFG_GAUGE n)

/-- RX_CFG_ACT as a word. -/
def State.rxActWord (s : State) (n : Nat) : Nat :=
  s.rd (R.RX_CFG_ACT_OFS_SHIFT n) * 2 ^ 24 + s.rd (R.RX_CFG_ACT_POL n) * 2 ^ 16 + s.rd (R.RX_CFG_ACT_POLW n) * 2 ^ 8 + s.rd (R.RX_CFG_ACT_GAUGE n)

/-- A new RX_CFG becomes active at boundary `b`; a change of a value opens a SETTLE window (R108, R109). -/
def State.landRxCfg (s : State) (n b v : Nat) : State :=
  let s1 := (((s.wr (R.RX_CFG_ACT_OFS_SHIFT n) (bits v 24 4)).wr (R.RX_CFG_ACT_POL n) (bits v 16 2)).wr (R.RX_CFG_ACT_POLW n) (bits v 8 1)).wr
    (R.RX_CFG_ACT_GAUGE n) (bits v 0 7)
  let s2 := s1.wr (R.RX_STATUS_PENDING n) 0
  if s2.rxActWord n = s.rxActWord n then s2 else s2.openSettle n b false

/-- A write of RX_CFG waits to land in place of any earlier one (R109). -/
def State.requestRxCfg (s : State) (n v : Nat) : State :=
  let s1 := (s.dropWaiting (fun c => match c with | .rxCfg m _ => m == n | _ => false)).storeRxCfg n v
  (s1.wr (R.RX_STATUS_PENDING n) 1).accept (.rxCfg n (s1.rxCfgWord n))

/-- R109: PENDING sets; the value waits to land and replaces one that still waits. -/
def execRxCfgWrite (n : Fin 8) (value : Word) (s : State) : Res := s.live fun s => goOn (s.requestRxCfg n value.toNat)

end Sys2Proof.Machine
end

