-- ==== Sys2Proof/Machine/DasOpen.lean ====
section
/-! DEFINITION. Chapter 05: the opening, landing and closing of a DAS zone berth, and its synchronising reset. -/

namespace Sys2Proof.Machine

/-- Every reserved bit of Table 5.1 is 0. -/
def dasBitsOk (w : List Nat) : Bool :=
  onlyBits (w.getD 0 0) [(16, 8), (8, 1), (0, 3)] && onlyBits (w.getD 1 0) [(0, 21)] && onlyBits (w.getD 2 0) [(0, 21)] &&
  onlyBits (w.getD 3 0) [(11, 1), (10, 1), (8, 2), (0, 7)] && onlyBits (w.getD 5 0) [(0, 4)] && onlyBits (w.getD 7 0) [(0, 8)] &&
  onlyBits (w.getD 8 0) [(0, 17)] && onlyBits (w.getD 9 0) [(0, 4)] && onlyBits (w.getD 10 0) [(0, 7)]

/-- Condition 1 of Table 5.2 on the fields. -/
def dasFieldsOk (p : DasParams) : Bool :=
  decide (1 ≤ p.count ∧ p.count ≤ 1048576) && decide (p.fmt < 3) && decide (1 ≤ p.stride ∧ p.stride ≤ 64) &&
  decide (16 ≤ p.outRows ∧ p.outRows ≤ 65536) && isPow2 p.outRows && (!p.expert || decide ((p.tug < 8 ∨ p.tug = 15) ∧ p.h ≤ 12)) &&
  decide (p.gauge ≤ 64) && !(p.pass && p.fmt != 0)

/-- Input period of quay plan `p` in ns (R113). -/
def Plan.inputPeriod (p : Plan) : Nat := 4 * p.period * p.div / p.slots

/-- H and INC for an output rate of `rate` mHz (R114): f_in / f_out = 10^12 / (T_in × RATE). A rate above f_in has no H. -/
def cascadeFor (tin rate : Nat) : Option (Nat × Nat) :=
  if tin = 0 ∨ rate = 0 ∨ 10 ^ 12 < tin * rate then none
  else
    let h := (10 ^ 12 / (tin * rate)).log2
    some (h, (2 * 2 ^ 38 * 10 ^ 12 + 2 ^ h * tin * rate) / (2 * (2 ^ h * tin * rate)))

/-- H and INC of a DAS zone (R114); a PASS berth neither filters nor resamples. -/
def dasCascade (p : DasParams) (tin : Nat) : Option (Nat × Nat) :=
  if p.pass then some (0, 2 ^ 38)
  else if p.expert ∧ p.rate = 0 then some (p.h, p.inc)
  else cascadeFor tin p.rate

/-- Condition 4 of Table 5.2. -/
def cascadeOk (pass : Bool) (c : Option (Nat × Nat)) : Bool :=
  match c with
  | none => false
  | some (h, inc) => pass || (decide (2 ^ 38 ≤ inc ∧ inc ≤ 2 ^ 39) && decide (h ≤ 12))

/-- f_out as a fraction per ns: RATE where it is given, otherwise 1 / T_out (R114). -/
def dasRate (p : DasParams) (tin h inc : Nat) : Nat × Nat :=
  if p.pass ∨ p.rate = 0 then (2 ^ 38, 2 ^ h * inc * tin) else (p.rate, 10 ^ 12)

/-- The cost vector of Table 5.6, each entry rounded up (R139). -/
def dasCost (p : DasParams) (tin h inc tug : Nat) : List Nat :=
  let m := p.count * 131072
  let f := dasRate p tin h inc
  let rb := rowBytes p.count p.fmt
  let sluice := if p.pass then ceilDiv m (4 * tin)
    else ceilDiv (m * ((2 ^ h - 1) * f.2 + 2 * f.1 * tin * 2 ^ h)) (tin * 2 ^ h * f.2)
  costVec [(0, sluice), (5 + tug, ceilDiv (2 * m) (16 * tin)),
    (13, ceilDiv ((4 * m * f.2 + rb * 131072 * f.1 * tin) * 10) (256 * tin * f.2)),
    (14, ceilDiv (rb * 131072 * f.1 * 10) (256 * f.2))]

/-- Berth points of the DAS zones that will be at work (Table 5.2 condition 5). -/
def State.dasPoints (s : State) : Nat :=
  ((s.willBe.filter (fun e => e.2.kind == 1)).map (fun e => (dasParams e.2.params).count)).sum

/-- Staging and Sluice state that will be reserved (R120, R131): DAS zones and flow zones alike, as their landing words keep it. -/
def State.stageLater (s : State) : Nat :=
  ((s.berths.filter (fun e => e.2.state == .open)).map (fun e => (s.dasOf e.1).stage)).sum + (s.dasComing.map (fun e => e.2.stage)).sum
/-- Sluice state that will be reserved. -/
def State.sluiceLater (s : State) : Nat :=
  ((s.berths.filter (fun e => e.2.state == .open)).map (fun e => (s.dasOf e.1).stateBytes)).sum + (s.dasComing.map (fun e => e.2.stateBytes)).sum

/-- RX_SL_STAGE_USED: the staging reserved since the acceptances and not yet released by the landing of a close (R120). -/
def State.stageUsed (s : State) : Nat := (s.das.map (fun e => e.2.stage)).sum + (s.dasComing.map (fun e => e.2.stage)).sum
/-- RX_SL_STATE_USED: the Sluice state reserved since the acceptances and not yet released (R131). -/
def State.sluiceUsed (s : State) : Nat :=
  (s.das.map (fun e => e.2.stateBytes)).sum + (s.dasComing.map (fun e => e.2.stateBytes)).sum

/-- The verdict on a berth.open of kind 1 (Table 5.2), judged on the parameter words `w`. Conditions 3 to 8 are judged against the plan that the
profile names, also where the quay will refuse the switch to it (DESIGN CHOICE, log entry 119). -/
def State.judgeDas (s : State) (w0 : List Nat) : Verdict :=
  let r := s.withProfile 1 w0 [3, 4, 8, 10]
  let p := dasParams r.1
  let planField := if p.profile = 255 then 255 else ((s.profile 1 p.profile).getD []).getD 4 255
  let cur := s.planNoLater p.quay
  let planNo := if planField < 4 then planField else cur
  let pl := s.plan p.quay planNo
  let swErr := if planField < 4 ∧ planField ≠ cur then
      (if !pl.valid then 1 else if s.rd (R.QY_PLAN_STATUS_STATE p.quay) = 1 then 3
       else if !pl.sameCadence (s.plan p.quay cur) && s.zoneLater p.quay then 2 else 0) else 0
  let tin := pl.inputPeriod
  let c := dasCascade p tin
  let h := (c.getD (0, 0)).1
  let inc := (c.getD (0, 0)).2
  let tug := if p.expert ∧ p.tug < 8 then p.tug else s.bestTug
  let cost := dasCost p tin h inc tug
  let declared := declaredCost r.1 11
  let others := s.zoneLater p.quay
  let stage := stageNeed p.count tin
  let state := p.count * pointState p.pass h
  let out := p.outRows * rowBytes p.count p.fmt
  let tiles := groupsOf p.count * tileRingLen tin * 8192
  s.withBudget (judge
    [(r.2 || !dasBitsOk r.1 || !dasFieldsOk p, stRange),
     (!s.quayEnabled p.quay || !(s.plan p.quay cur).valid || swErr == 1, stRange),
     (decide (pl.points < p.first + p.count * p.stride), stRange),
     (!cascadeOk p.pass c, stRange),
     (decide (1048576 < p.count + s.dasPoints), stRange),
     (decide (s.rd R.RX_SL_STAGE_SIZE_BYTES < s.stageLater + stage), stRange),
     (decide (s.rd R.RX_SL_STATE_SIZE_BYTES < s.sluiceLater + state), stRange),
     (!s.ringFits 2 out || !s.ringFits 1 tiles, stRange),
     ((p.gauge != 0 && others && p.gauge != s.rd (R.RX_CFG_GAUGE p.quay)) || swErr == 2 || swErr == 3, stBusy),
     (p.expert && declaredBelow declared cost, stRange)]
    { params := r.1, cost := if p.expert then declared else cost, domains := [quayDomain p.quay], rings := [(2, out), (1, tiles)]
      extra := [h, inc, tin, tug, stage, state, planNo, if swErr = 0 ∧ planField < 4 ∧ planField ≠ cur then 1 else 0, pl.slots] })

/-- What the acceptance of a DAS zone sets in motion before the berth itself: the named plan switch (R80), and the gauge when no
other DAS zone is at work on the quay (R109). -/
def State.beforeDas (s : State) (g : Grant) : State :=
  let p := dasParams g.params
  let s1 := if g.extra.getD 7 0 = 1 then
      (((s.wr (R.QY_PLAN_SEL_PLAN p.quay) (g.extra.getD 6 0)).wr (R.QY_PLAN_STATUS_STATE p.quay) 1).wr (R.QY_PLAN_STATUS_ERR p.quay) 0).accept
        (.planSwitch p.quay (g.extra.getD 6 0))
    else s
  let others := s.zoneLater p.quay
  if p.gauge ≠ 0 ∧ !others ∧ p.gauge ≠ s.rd (R.RX_CFG_GAUGE p.quay) then
    s1.requestRxCfg p.quay (s1.rxCfgWord p.quay / 128 * 128 + p.gauge)
  else s1

/-- Reserves what an accepted DAS zone at index `i` holds from its acceptance on (R120, R131, R135). -/
def State.reserveDas (s : State) (g : Grant) (addrs : List Nat) : Das :=
  { h := g.extra.getD 0 0, inc := g.extra.getD 1 0, tin := g.extra.getD 2 0, tug := g.extra.getD 3 0, stage := g.extra.getD 4 0
    stateBytes := g.extra.getD 5 0, slots := g.extra.getD 8 1, ring := addrs.getD 0 0, tiles := addrs.getD 1 0, grids := [(landAt s.now, 0)] }

/-- The berth-table registers of an index take the berth's values (Table 5.9); SEQ starts at 0 and the anchor is the landing
boundary `b` (R127, R134). -/
def State.landDas (s : State) (i b : Nat) (d : Das) : State :=
  let t := s.berth i
  let p := dasParams t.params
  let s1 := (((((((s.wr (R.RX_BT_i_HANDLE_HANDLE i) t.handle).wr (R.RX_BT_i_CFG_ACTIVE i) 1).wr (R.RX_BT_i_CFG_QUAY i) p.quay).wr
    (R.RX_BT_i_CFG_H i) d.h).wrB (R.RX_BT_i_CFG_PASS i) p.pass).wrB (R.RX_BT_i_CFG_AVG i) p.avg).wr (R.RX_BT_i_CFG_FMT i) p.fmt).wr
    (R.RX_BT_i_CFG_STRIDE i) p.stride
  let s2 := (((((s1.wr (R.RX_BT_i_FIRST_FIRST i) p.first).wr (R.RX_BT_i_COUNT_COUNT i) p.count).wrPair (R.RX_BT_i_INC_LO_INC_LO i)
    (R.RX_BT_i_INC_HI_INC_HI i) d.inc).wr (R.RX_BT_i_TIN_TIN i) (d.tin / 4)).wr (R.RX_BT_i_TUG_TUG i) d.tug).wrPair
    (R.RX_BT_i_RING_LO_ADDR_LO i) (R.RX_BT_i_RING_HI_ADDR_HI i) d.ring
  let s3 := ((((s2.wr (R.RX_BT_i_ROWS_ROWS i) p.outRows).wr (R.RX_BT_i_ROW_BYTES_BYTES i) (rowBytes p.count p.fmt)).wrPair
    (R.RX_BT_i_SEQ_LO_SEQ_LO i) (R.RX_BT_i_SEQ_HI_SEQ_HI i) 0).wrPair (R.RX_BT_i_DELAY_LO_DELAY_LO i) (R.RX_BT_i_DELAY_HI_DELAY_HI i)
    (delayTotal p.pass d.h d.tin)).wrPair (R.RX_BT_i_ANCHOR_LO_TIME_LO i) (R.RX_BT_i_ANCHOR_HI_TIME_HI i) b
  let s4 := (s3.wrPair (R.RX_BT_i_ANCHOR_SEQ_LO_SEQ_LO i) (R.RX_BT_i_ANCHOR_SEQ_HI_SEQ_HI i) 0).wrB (R.RX_BT_i_STATUS_FILLING i) (!p.pass)
  (s4.setDas i { d with landed := b, grids := [(b, 0)] }).wr R.RX_SL_POINTS_POINTS (s.rd R.RX_SL_POINTS_POINTS + p.count)

/-- What the corner turn still writes for the berth at index `i` is dropped with it (R140). -/
def State.dropTiles (s : State) (i : Nat) : State :=
  { s with tileWrites := s.tileWrites.foldl (fun t e => Tab.put [] t e.1 (e.2.filter (fun x => x.1 != i))) s.tileWrites }

/-- The close of a DAS zone lands (R140): its reservations go, and its registers read 0 but for SEQ, RING and ROWS, whose latched halves stay
too (R141). -/
def State.closeDas (s : State) (i : Nat) : State :=
  let t := s.berth i
  let p := dasParams t.params
  let keep := s.rdPair (R.RX_BT_i_SEQ_LO_SEQ_LO i) (R.RX_BT_i_SEQ_HI_SEQ_HI i)
  let ring := s.rdPair (R.RX_BT_i_RING_LO_ADDR_LO i) (R.RX_BT_i_RING_HI_ADDR_HI i)
  let rows := s.rd (R.RX_BT_i_ROWS_ROWS i)
  let a := 0x508000 + 0x80 * i
  let s1 := s.resetRegs a (a + 0x80)
  let s2 := ((s1.wrPair (R.RX_BT_i_SEQ_LO_SEQ_LO i) (R.RX_BT_i_SEQ_HI_SEQ_HI i) keep).wrPair (R.RX_BT_i_RING_LO_ADDR_LO i)
    (R.RX_BT_i_RING_HI_ADDR_HI i) ring).wr (R.RX_BT_i_ROWS_ROWS i) rows
  let s3 : State := { s2 with shadows := [a + 0x24, a + 0x34].foldl (fun h k => Tab.put none h k (Tab.get none s.shadows k)) s2.shadows }
  ((s3.setDas i {}).dropTiles i).wr R.RX_SL_POINTS_POINTS (s.rd R.RX_SL_POINTS_POINTS - p.count)

/-- Rows of the present grid whose τ lies before `b` (R134): the SEQ that the row at the new anchor takes. With PASS they are the samples of
berth point 0 before `b` (R136). -/
def State.seqAt (s : State) (i b : Nat) : Nat :=
  let d := s.dasOf i
  if (dasParams (s.berth i).params).pass then firstAt (2 * d.tin) (2 * b) none (Tab.get [] d.runs 0)
  else match d.grids with
    | [] => 0
    | (a, s0) :: _ =>
      let step := 2 ^ d.h * d.inc * d.tin
      if step = 0 ∨ b ≤ a then s0 else s0 + ceilDiv ((b - a) * 2 ^ 38) step

/-- R134 for one DAS zone at boundary `b`: the unfinished rows will be written LOST, and the grid is anchored anew with SEQ going on; the cascades
start cleared, and the running sums at 0, with the first row of the new grid (`State.filterOn`, R138). -/
def State.resyncDas (s : State) (i b : Nat) : State :=
  let d := s.dasOf i
  let p := dasParams (s.berth i).params
  let q := s.seqAt i b
  ((s.setDas i { d with grids := (b, q) :: d.grids }).wrPair (R.RX_BT_i_ANCHOR_LO_TIME_LO i) (R.RX_BT_i_ANCHOR_HI_TIME_HI i) b).wrPair
    (R.RX_BT_i_ANCHOR_SEQ_LO_SEQ_LO i) (R.RX_BT_i_ANCHOR_SEQ_HI_SEQ_HI i) q |>.wrB (R.RX_BT_i_STATUS_FILLING i) (!p.pass)

end Sys2Proof.Machine
end

