-- ==== Sys2Proof/Machine/FlowOpen.lean ====
section
/-! DEFINITION. Chapter 06: the opening, landing and closing of a flow zone berth, and its synchronising reset. -/

namespace Sys2Proof.Machine

/-- Point `i` of a user curve table entry (R425): log10 Re × 10⁴ and K × 10⁶. -/
def curvePoint (b : List Byte) (c i : Nat) : Nat × Nat := (bodyNat b (132 + 132 * c + 8 * i) 4, bodyNat b (136 + 132 * c + 8 * i) 4)

/-- User curve 8 + `c` of a FLOW set's body. -/
def userCurve (b : List Byte) (c : Nat) : List (Nat × Nat) := (List.range (bodyNat b (128 + 132 * c) 4)).map (curvePoint b c)

/-- The effective positions and user curves of a zone under the body of a FLOW set, empty for none (R143, R425). -/
def coilSetOf (w : List Nat) (nc : Nat) (body : List Byte) : CoilSet :=
  { pos := (List.range nc).map (fun c => (coilPos w c : Int) + (if body.isEmpty then 0 else toSigned 32 (bodyNat body (4 * c) 4)))
    curves := if body.isEmpty then [] else (List.range 8).map (userCurve body) }

/-- The spacings of adjacent positions. -/
def spacings : List Int → List Int
  | a :: b :: t => (b - a) :: spacings (b :: t)
  | _ => []

/-- Effective positions rise by 300 mm to 3,000 mm (R143). -/
def spacingOk (pos : List Int) : Bool := (spacings pos).all (fun d => decide (300000 ≤ d ∧ d ≤ 3000000))

/-- A curve number that a zone may name (Table 6.4): 0 to 2, or a user curve that its set defines. -/
def curveOk (cs : CoilSet) (n : Nat) : Bool :=
  decide (n ≤ 2) || (decide (8 ≤ n ∧ n ≤ 15) && !(cs.curves.getD (n - 8) []).isEmpty)

/-- Every reserved bit of words 0 to 19 is 0 (Table 6.1). -/
def flowBitsOk (w : List Nat) : Bool :=
  onlyBits (w.getD 0 0) [(16, 8), (12, 1), (8, 1), (0, 3)] && onlyBits (w.getD 1 0) [(24, 2), (16, 2), (8, 1), (0, 6)] &&
  onlyBits (w.getD 2 0) [(24, 8), (16, 2), (8, 6), (0, 3)] && onlyBits (w.getD 5 0) [(0, 16)] &&
  onlyBits (w.getD 6 0) [(16, 8), (8, 8), (0, 2)] && onlyBits (w.getD 17 0) [(0, 17)] && onlyBits (w.getD 18 0) [(16, 8), (8, 7), (4, 4), (0, 4)] &&
  onlyBits (w.getD 19 0) [(0, 16)]

/-- Two coils share no quay point, and each holds 10 m to 50 m of fibre under plan `pl` (R143). -/
def coilsOk (pl : Plan) (w : List Nat) (nc : Nat) : Bool :=
  (List.range nc).all (fun c =>
    let a := coilPoints w c
    let dz := a.1 * pl.slots * 299792458 * 2 ^ 22
    let unit := 2 * pl.ng * 10 ^ 9
    decide (10 * unit ≤ dz ∧ dz ≤ 50 * unit) &&
    (List.range c).all (fun e => let b := coilPoints w e; decide (a.2 + a.1 ≤ b.2 ∨ b.2 + b.1 ≤ a.2)))

/-- Condition 2 of Table 6.8 on the fields; the handles that are not required are 0 and the required ones could have been issued (R10). -/
def flowFieldsOk (p : FlowParams) (cs : CoilSet) : Bool :=
  decide (p.tsrc ≤ 1) && decide (p.select ≤ 2) && decide (8 ≤ p.nc ∧ p.nc ≤ 32) && decide (1 ≤ p.blk ∧ p.blk ≤ 40) && decide (p.fzSel ≤ 4) &&
  decide (10 ≤ p.vcMax ∧ p.vcMax ≤ 10000) && curveOk cs p.curveA && curveOk cs p.curveC && decide (p.fluid ≤ 2) &&
  decide (10000 ≤ p.diam ∧ p.diam ≤ 3000000) && decide (p.pAtm ≤ 120000) && decide (1 ≤ p.staleS ∧ p.staleS ≤ 3600) &&
  decide (16 ≤ p.outRecs ∧ p.outRecs ≤ 65536) && isPow2 p.outRecs && decide (p.gauge ≤ 64) &&
  decide (p.cluster ≤ 3 ∨ p.cluster = 15) && decide (p.tug ≤ 7 ∨ p.tug = 15) && (p.mode == 0 || decide (16 ≤ p.ncal)) &&
  !neverIssued p.pHandle && (if p.tsrc = 0 then !neverIssued p.tHandle && p.raman == 0 else !neverIssued p.raman && p.tHandle == 0)

/-- C_MIN and C_MAX of a fluid in m/s (Table 6.3). -/
def soundRange (fluid : Nat) : Nat × Nat := if fluid = 0 then (1300, 1600) else if fluid = 1 then (350, 700) else (300, 420)

/-- A band in 0.25 Hz units keeps condition 5 of Table 6.8. -/
def bandOk (p : FlowParams) (lo hi : Nat) : Bool := decide (lo < hi) && decide (4 * p.fz ≤ lo * p.nfft) && decide (10 * hi ≤ 16 * p.fz)

/-- Frequency bins in either band (R147): bin i lies in a band when LO ≤ i × f_z / NFFT ≤ HI. -/
def FlowParams.bins (p : FlowParams) : Nat :=
  ((List.range (p.nfft / 2 + 1)).filter (fun i =>
    decide (p.fcLo * p.nfft ≤ 4 * i * p.fz ∧ 4 * i * p.fz ≤ p.fcHi * p.nfft) ||
    decide (p.faLo * p.nfft ≤ 4 * i * p.fz ∧ 4 * i * p.fz ≤ p.faHi * p.nfft))).length

/-- Segments of a block (R147). -/
def FlowParams.nseg (p : FlowParams) : Nat := 2 * p.lb / p.nfft - 1

/-- C_block of R163. -/
def FlowParams.cycles (p : FlowParams) : Nat :=
  3 * p.nc * p.nseg * p.nfft * p.nfft.log2 + 2 * p.nc * p.nc * p.bins * p.nseg + 4 * p.nc * p.nc * p.bins * 256 +
    (if p.mode = 0 then 2000000 else 3000000)

/-- Cluster memory of a zone (R163). -/
def FlowParams.memory (p : FlowParams) : Nat := 8 * p.bins * p.nc * p.nc + 8 * p.nc * p.nfft + 16384

/-- The cost vector of Table 6.9, each entry rounded up; T_block = BLK × 0.25 s. -/
def flowCost (p : FlowParams) (tin h cluster tug : Nat) : List Nat :=
  let tb := p.blk * 250000000
  costVec [(0, ceilDiv (p.nc * 131072 * ((2 ^ h - 1) * 10 ^ 9 + 2 * p.fz * tin * 2 ^ h)) (tin * 2 ^ h * 10 ^ 9)),
    (5 + tug, ceilDiv (64 * 131072) (16 * tin)), (1 + cluster, ceilDiv (p.cycles * 131072) tb),
    (13, ceilDiv ((128 * 131072 * tb + 128 * 131072 * tin) * 10) (256 * tin * tb)), (14, ceilDiv (128 * 131072 * 10) (256 * tb))]

/-- The words as the Harbourmaster reads them: at basic level CLUSTER and TUG are 0xF and the cost words 0 (R142). -/
def flowWords (w : List Nat) : List Nat :=
  if bit (w.getD 0 0) 8 then w else (w.take 84).set 18 (w.getD 18 0 / 256 * 256 + 255)

/-- The body of the FLOW set that a CALSET names, empty for none. -/
def State.flowBody (s : State) (cal : Nat) : List Byte := if cal = 255 then [] else Tab.get [] s.calActive (16 + cal)

/-- The body of that set as it will stand at the landing boundary: a cal.swap accepted before brings its image's body (R38, R143, R425). -/
def State.flowBodyLater (s : State) (cal : Nat) : List Byte :=
  let x := Tab.get [] s.calWaiting (16 + cal)
  if cal = 255 ∨ x.isEmpty then s.flowBody cal else (x.drop 32).take 1184

/-- The FLOW set that CALSET names will be present (R426). -/
def State.setPresent (s : State) (cal : Nat) : Bool := cal == 255 || (decide (cal < 16) && !(s.flowBodyLater cal).isEmpty)

/-- The verdict on a berth.open of kind 2 (Table 6.8). -/
def State.judgeFlow (s : State) (w0 : List Nat) : Verdict :=
  let r := s.withProfile 2 w0 [2, 3, 4, 5, 6, 12, 13, 16]
  let w := flowWords r.1
  let p := flowParams w
  let cs := coilSetOf w p.nc (s.flowBodyLater p.calset)
  let pl := s.planLater p.quay
  let tin := pl.inputPeriod
  let c := cascadeFor tin (1000 * p.fz)
  let h := (c.getD (0, 0)).1
  let gaps := spacings cs.pos
  let widest := (gaps.foldl max 0).toNat
  let second := if p.tsrc = 0 then p.tHandle else p.raman
  let c1 := s.inputConds p.pHandle givesPressure
  let c2 := s.inputConds second (fun b => if p.tsrc = 0 then givesMilliKelvin b else b.kind == 3)
  let cluster := if p.cluster < 4 then some p.cluster else s.bestCluster
  let cl := cluster.getD 0
  let tug := if p.tug < 8 then p.tug else s.bestTug
  let stage := 64 * 17 + 64 * tileRingLen tin
  let state := p.nc * pointState false h
  let cost := flowCost p tin h cl tug
  let declared := declaredCost w 84
  s.withBudget (judge
    ([(s.isSealed && (p.expert || p.profile == 255 || p.mode == 1), stLocked),
      (r.2 || !flowBitsOk w || !flowFieldsOk p cs || !s.setPresent p.calset || !coilsOk pl w p.nc || !spacingOk cs.pos, stRange),
      (!s.quayEnabled p.quay || !pl.valid || (List.range p.nc).any (fun i => decide (pl.points < (coilPoints w i).2 + (coilPoints w i).1)), stRange),
      (c.isNone || decide (12 < h), stRange),
      (decide (p.lb < p.nfft) || !bandOk p p.fcLo p.fcHi || !bandOk p p.faLo p.faHi ||
        decide ((soundRange p.fluid).1 * 2000000 < p.faHi * widest), stRange),
      (p.mode == 1 && p.fluid == 2 && p.hum == 0xFFFFFFFF, stRange),
      (decide (256 ≤ (s.willBe.filter (fun e => e.2.kind == 2)).length), stRange),
      c1.1, c2.1] ++ c1.2 ++ c2.2 ++
     [(decide (s.rd R.RX_SL_STAGE_SIZE_BYTES < s.stageLater + stage) || decide (s.rd R.RX_SL_STATE_SIZE_BYTES < s.sluiceLater + state) ||
        cluster.isNone || decide (s.memGrant cl < s.memLater cl + p.memory) || !s.ringFits 2 (128 * p.outRecs) ||
        !s.ringFits 1 (1024 * tileRingLen tin), stRange),
      (p.gauge != 0 && s.zoneLater p.quay && p.gauge != s.rd (R.RX_CFG_GAUGE p.quay), stBusy),
      (p.expert && declaredBelow declared cost, stRange)])
    { params := w, cost := if p.expert then declared else cost, inputs := [p.pHandle, second]
      domains := [quayDomain p.quay, 17 + cl], slot := s.freeSlot 2 256, mem := (cl, p.memory)
      rings := [(2, 128 * p.outRecs), (1, 1024 * tileRingLen tin)]
      extra := [h, (c.getD (0, 0)).2, tin, tug, cl, stage, state, pl.slots] })

/-- A gauge that an accepted zone requests is written into RX_CFG and lands with it (R109, R143). -/
def State.beforeFlow (s : State) (g : Grant) : State :=
  let p := flowParams g.params
  if p.gauge ≠ 0 ∧ !s.zoneLater p.quay ∧ p.gauge ≠ s.rd (R.RX_CFG_GAUGE p.quay) then
    s.requestRxCfg p.quay (s.rxCfgWord p.quay / 128 * 128 + p.gauge)
  else s

/-- Reserves the corner turn's part of an accepted flow zone (R145). -/
def State.reserveFlowDas (s : State) (g : Grant) (addrs : List Nat) : Das :=
  { h := g.extra.getD 0 0, inc := g.extra.getD 1 0, tin := g.extra.getD 2 0, tug := g.extra.getD 3 0, stage := g.extra.getD 5 0
    stateBytes := g.extra.getD 6 0, slots := g.extra.getD 7 1, ring := addrs.getD 0 0, tiles := addrs.getD 1 0, grids := [(landAt s.now, 0)] }

/-- Reserves the flow part of an accepted flow zone. -/
def State.reserveFlow (s : State) (g : Grant) (addrs : List Nat) : Flow :=
  let p := flowParams g.params
  { cluster := g.extra.getD 4 0, mem := p.memory, ring := addrs.getD 0 0, anchor := landAt s.now
    set := coilSetOf g.params p.nc (s.flowBodyLater p.calset) }

/-- The positions in use show in RX_FZ_z_POS_c. -/
def State.showPositions (s : State) (z : Nat) (pos : List Int) : State :=
  (pos.zipIdx).foldl (fun t e => t.wr (R.RX_FZ_z_POS_c_POS z e.2) (ofSigned 32 e.1)) s

/-- A flow zone lands at boundary `b` with the calibration set of then: its slot's registers take its values (Table 6.13), and its coils start as
at a synchronising reset (R134). -/
def State.landFlow (s : State) (i b : Nat) (d : Das) (f0 : Flow) : State :=
  let t := s.berth i
  let p := flowParams t.params
  let f : Flow := { f0 with set := coilSetOf t.params p.nc (s.flowBody p.calset), anchor := b, bank := s.rd (R.PI_CL_STATUS_ACT_BANK f0.cluster) }
  let z := t.slot
  let s0 := s.resetRegs (0x591000 + 0x100 * z) (0x591100 + 0x100 * z)
  let s1 := (((((s0.wr (R.RX_FZ_z_HANDLE_HANDLE z) t.handle).wr (R.RX_FZ_z_CFG_ACTIVE z) 1).wr (R.RX_FZ_z_CFG_MODE z) p.mode).wr
    (R.RX_FZ_z_CFG_QUAY z) p.quay).wr (R.RX_FZ_z_CFG_CLUSTER z) f.cluster).wr (R.RX_FZ_z_CFG_TUG z) d.tug
  let s2 := ((((s1.wr (R.RX_FZ_z_CFG_FLUID z) p.fluid).wr (R.RX_FZ_z_CFG_H z) d.h).wr (R.RX_FZ_z_CFG_CALSET z) p.calset).wr
    (R.RX_FZ_z_CFG_SELECT z) p.select).wr (R.RX_FZ_z_CFG_NC z) p.nc
  let s3 := ((s2.wrPair (R.RX_FZ_z_RING_LO_ADDR_LO z) (R.RX_FZ_z_RING_HI_ADDR_HI z) f.ring).wr (R.RX_FZ_z_RECS_RECS z) p.outRecs).wrPair
    (R.RX_FZ_z_ANCHOR_LO_TIME_LO z) (R.RX_FZ_z_ANCHOR_HI_TIME_HI z) b
  let s4 := ((s3.wr (R.RX_FZ_z_BLOCK_LB z) p.lb).wr (R.RX_FZ_z_BLOCK_MS z) (250 * p.blk)).wrPair (R.RX_FZ_z_DELAY_LO_DELAY_LO z)
    (R.RX_FZ_z_DELAY_HI_DELAY_HI z) (delayTotal false d.h d.tin)
  let s5 := (s4.showPositions z f.set.pos).wr R.RX_FZ_ZONES_COUNT (s.rd R.RX_FZ_ZONES_COUNT + 1)
  (s5.setDas i { d with landed := b, grids := [(b, 0)] }).setFlow i f

/-- A block cut short by a reset or a close at boundary `b` (R159) waits for its record. -/
def Flow.cut (f : Flow) (b : Nat) (last : Bool) : Flow := { f with cuts := f.cuts ++ [b], ends := f.ends || last }

/-- The close of a flow zone lands at boundary `b` (R140, R159, R164): its reservations go, its slot reads 0 but for SEQ and RING, and
the record of the block in progress is still to be written. -/
def State.closeFlow (s : State) (i b : Nat) : State :=
  let t := s.berth i
  let z := t.slot
  let d := s.dasOf i
  let seq := s.rdPair (R.RX_FZ_z_SEQ_LO_SEQ_LO z) (R.RX_FZ_z_SEQ_HI_SEQ_HI z)
  let ring := s.rdPair (R.RX_FZ_z_RING_LO_ADDR_LO z) (R.RX_FZ_z_RING_HI_ADDR_HI z)
  let s1 := s.resetRegs (0x591000 + 0x100 * z) (0x591100 + 0x100 * z)
  let s2 := ((s1.wrPair (R.RX_FZ_z_SEQ_LO_SEQ_LO z) (R.RX_FZ_z_SEQ_HI_SEQ_HI z) seq).wrPair (R.RX_FZ_z_RING_LO_ADDR_LO z)
    (R.RX_FZ_z_RING_HI_ADDR_HI z) ring).wr R.RX_FZ_ZONES_COUNT (s.rd R.RX_FZ_ZONES_COUNT - 1)
  (((s2.setDas i { d with stage := 0, stateBytes := 0 }).dropTiles i).setFlow i ((s.flowOf i).cut b true)).closeSlot 2 z

/-- R134, R159 for one flow zone at boundary `b`: the cascades of its coils start cleared on the new grid, and its blocks start again there. -/
def State.resyncFlow (s : State) (i b : Nat) : State :=
  let d := s.dasOf i
  let z := (s.berth i).slot
  ((s.setDas i { d with grids := [(b, 0)] }).setFlow i ((s.flowOf i).cut b false)).wrPair
    (R.RX_FZ_z_ANCHOR_LO_TIME_LO z) (R.RX_FZ_z_ANCHOR_HI_TIME_HI z) b

end Sys2Proof.Machine
end

