-- ==== Sys2Proof/Machine/Ridge.lean ====
section
/-! DEFINITION. Chapter 06: what a flow program makes of a block of coil samples: spectra, wavenumber power, ridges, and the residual phases of a
calibration (R147, R148, R160). -/

namespace Sys2Proof.Machine

/-- The sum of rationals. -/
def ratSum (xs : List Rat) : Rat := xs.foldl (· + ·) 0

/-- The frequency bins of a band in 0.25 Hz units (R147). -/
def FlowParams.bandBins (p : FlowParams) (lo hi : Nat) : List Nat :=
  (List.range (p.nfft / 2 + 1)).filter (fun i => decide (lo * p.nfft ≤ 4 * i * p.fz ∧ 4 * i * p.fz ≤ hi * p.nfft))

/-- Centre of bin `i` in Hz. -/
def FlowParams.binHz (p : FlowParams) (i : Nat) : Rat := (i * p.fz : Nat) / p.nfft

/-- The Hann window, periodic over a segment (R147; log entry 121). -/
def hann (len n : Nat) : Rat := (1 - (cis (n / len)).1) / 2

/-- A coil in use: its effective position in m, and its samples of the block. -/
structure CoilData where
  x : Rat
  v : List Int

/-- The transform of segment `g` of a coil at bin `i`; segments overlap by half (R147 step 1). -/
def FlowParams.segmentBin (p : FlowParams) (v : List Int) (g i : Nat) : Cx :=
  cxSum ((List.range p.nfft).map (fun n =>
    let w := hann p.nfft n * v.getD (g * (p.nfft / 2) + n) 0
    let z := cis (-(i * n : Nat) / p.nfft)
    (w * z.1, w * z.2)))

/-- The cross-spectral matrix of bin `i`: the sum over segments of X × X^H (R147 step 2). -/
def FlowParams.crossSpectrum (p : FlowParams) (coils : List CoilData) (i : Nat) : List (List Cx) :=
  let xs := (List.range p.nseg).map (fun g => coils.map (fun c => p.segmentBin c.v g i))
  (List.range coils.length).map (fun a => (List.range coils.length).map (fun b =>
    cxSum (xs.map (fun x => cxMul (x.getD a (0, 0)) (cxConj (x.getD b (0, 0)))))))

/-- The steering vector at a wavenumber in turns per metre: exp(−j·k·x). -/
def steering (coils : List CoilData) (k : Rat) : List Cx := coils.map (fun c => cis (-(k * c.x)))

/-- S × a. -/
def spectrumTimes (m : List (List Cx)) (a : List Cx) : List Cx := m.map (fun row => cxSum (List.zipWith cxMul row a))

/-- P(k, f) of a bin (R147 step 3). -/
def FlowParams.power (p : FlowParams) (coils : List CoilData) (m : List (List Cx)) (k : Rat) : Rat :=
  let a := steering coils k
  (cxSum (List.zipWith (fun z y => cxMul (cxConj z) y) a (spectrumTimes m a))).1 / (coils.length * coils.length * p.nseg : Nat)

/-- A bin of a band: its number, its frequency, its matrix, and its power on the 256 wavenumbers. -/
structure BinData where
  i : Nat
  f : Rat
  m : List (List Cx)
  ps : List Rat

/-- The wavenumbers of R147 in turns per metre, both ends included: −1/(2 ΔX_min) to +1/(2 ΔX_min). -/
def wavenumber (dx : Rat) (n : Nat) : Rat := ((2 * n : Nat) / 255 - 1) / (2 * dx)

/-- What a band's bins hold. -/
def FlowParams.bandData (p : FlowParams) (coils : List CoilData) (dx : Rat) (bins : List Nat) : List BinData :=
  bins.map (fun i =>
    let m := p.crossSpectrum coils i
    ⟨i, p.binHz i, m, (List.range 256).map (fun n => p.power coils m (wavenumber dx n))⟩)

/-- P of a bin interpolated linearly in k; the spec states none beyond the 256 wavenumbers. -/
def BinData.at (b : BinData) (dx k : Rat) : Rat :=
  let u := (k * 2 * dx + 1) * 255 / 2
  if u < 0 ∨ 255 < u then Config.powerBeyond k b.i
  else
    let n := u.floor.toNat
    let t := u - n
    (1 - t) * b.ps.getD n 0 + t * b.ps.getD (n + 1) 0

/-- The strength of a line of slope `s` (R148): k = 2πf / s. -/
def lineStrength (bs : List BinData) (dx s : Rat) : Rat := ratSum (bs.map (fun b => b.at dx (b.f / s)))

/-- `n` values spread evenly from `lo` to `hi`. -/
def spread (lo hi : Rat) (n : Nat) : List Rat := (List.range n).map (fun (i : Nat) => lo + (hi - lo) * i / (n - 1 : Nat))

/-- A ridge: its slope in m/s and its quality in 0.25 dB units (R148). -/
structure Ridge where
  s : Rat
  q : Nat

/-- The middle of an even number of values: the mean of the two middle ones. -/
def medianOf (xs : List Rat) : Rat :=
  let ys := xs.mergeSort (fun a b => decide (a ≤ b))
  (ys.getD (ys.length / 2 - 1) 0 + ys.getD (ys.length / 2) 0) / 2

/-- The ridge of a search over pieces of a range, 1,024 trial slopes in all: the strongest, refined by the parabola through it and its neighbours in
its piece; the quality against the median (R148). -/
def searchRidge (bs : List BinData) (dx : Rat) (pieces : List (List Rat)) : Ridge :=
  let rows := pieces.map (fun ss => ss.map (fun s => (s, lineStrength bs dx s)))
  let all := rows.flatten.map Prod.snd
  let best := all.foldl max (all.headD 0)
  let hit := rows.findSome? (fun r => (r.findIdx? (fun e => decide (e.2 = best))).map (fun i => (r, i)))
  let slope : Rat := match hit with
    | none => 0
    | some (r, i) =>
      let s0 := (r.getD i (0, 0)).1
      if i = 0 ∨ r.length ≤ i + 1 then Config.edgeSlope s0
      else
        let a := (r.getD (i - 1) (0, 0)).2
        let c := (r.getD (i + 1) (0, 0)).2
        let step := (r.getD (i + 1) (0, 0)).1 - s0
        if a - 2 * best + c = 0 then s0 else s0 + step / 2 * (a - c) / (a - 2 * best + c)
  let mid := medianOf all
  let q : Int := if mid ≤ 0 then (if 0 < best then 255 else Config.qualOfZero) else if best ≤ 0 then 0 else Config.rnd (40 * log10Rat (best / mid))
  ⟨slope, (max 0 (min q 255)).toNat⟩

/-- The three ridges of a block (Table 6.2): convective, downstream and upstream, the last with its slope as found. -/
structure Ridges where
  conv : Ridge
  dn : Ridge
  up : Ridge

/-- What a block's processing gives: the ridges, and the acoustic bins for a calibration. -/
structure BlockSpectra where
  ridges : Ridges
  acoustic : List BinData

/-- R147, R148 over the coils in use, with the smallest spacing of the array in m. -/
def FlowParams.process (p : FlowParams) (coils : List CoilData) (dx : Rat) : BlockSpectra :=
  let cb := p.bandData coils dx (p.bandBins p.fcLo p.fcHi)
  let ab := p.bandData coils dx (p.bandBins p.faLo p.faHi)
  let v : Rat := p.vcMax / 100
  let lo : Rat := (soundRange p.fluid).1 - 60
  let hi : Rat := (soundRange p.fluid).2 + 60
  { ridges := { conv := searchRidge cb dx [spread (-v) (-1 / 10) 512, spread (1 / 10) v 512]
                dn := searchRidge ab dx [spread lo hi 1024]
                up := searchRidge ab dx [spread (-hi) (-lo) 1024] }
    acoustic := ab }

/-- For one acoustic bin and one ridge: each coil's estimate −ψ/k in m, and the ridge power of the bin (R160). ψ is the phase of S × a against a
(log entry 121). -/
def residuals (coils : List CoilData) (scale dx : Rat) (b : BinData) (s : Rat) : List Rat × Rat :=
  let k := b.f / s
  let a := steering (coils.map (fun c => { c with x := scale * c.x })) k
  let v := spectrumTimes b.m a
  (List.zipWith (fun y z => -(argTurns (cxMul y (cxConj z))) / k) v a, b.at dx k)

/-- The estimates of a block over its acoustic bins and its two ridges, weighted by the ridge power, by coil in use; none without weight (R160). -/
def blockDeltas (coils : List CoilData) (scale dx : Rat) (bs : List BinData) (slopes : List Rat) : Option (List Rat × Rat) :=
  let rs := bs.flatMap (fun b => slopes.map (residuals coils scale dx b))
  let w := ratSum (rs.map Prod.snd)
  if w = 0 then none
  else some ((List.range coils.length).map (fun c => ratSum (rs.map (fun r => r.1.getD c 0 * r.2)) / w), w)

/-- Values without their mean and their linear trend over the positions (R160). -/
def detrend (xs ys : List Rat) : List Rat :=
  let n : Rat := xs.length
  if n = 0 then []
  else
    let mx := ratSum xs / n
    let my := ratSum ys / n
    let sxx := ratSum (xs.map (fun x => (x - mx) * (x - mx)))
    let sxy := ratSum (List.zipWith (fun x y => (x - mx) * (y - my)) xs ys)
    let m := if sxx = 0 then 0 else sxy / sxx
    List.zipWith (fun x y => y - my - m * (x - mx)) xs ys

end Sys2Proof.Machine
end

