-- ==== Sys2Proof/Machine/Steam.lean ====
section
/-! DEFINITION. The formulations that Table 6.3 names: IAPWS-IF97 regions 1, 2 and 4, and the viscosity of IAPWS 2008. The spec names them and does
not print them: coefficients and reference constants are PRESUMED, those of the published formulations (log entry 120). -/

namespace Sys2Proof.Machine

/-- A term of a formulation: the exponents of its two variables, and its coefficient as a mantissa over a power of ten. -/
structure Term where
  i : Int
  j : Int
  m : Int
  e : Nat

/-- The coefficient of a term. -/
def Term.n (t : Term) : Rat := (t.m : Rat) / 10 ^ t.e

/-- A power with a whole exponent. -/
def ratPow (x : Rat) (i : Int) : Rat := if 0 ≤ i then x ^ i.toNat else 1 / x ^ (-i).toNat

/-- The factor that the `d`-th derivative of a power with exponent `i` brings. -/
def fallBy (i : Int) : Nat → Rat
  | 0 => 1
  | d + 1 => fallBy i d * (i - d : Int)

/-- The sum of n·a^i·b^j over the terms, derived `da` times by a and `db` times by b. -/
def termSum (ts : List Term) (a b : Rat) (da db : Nat) : Rat :=
  ts.foldl (fun s t =>
    let c := fallBy t.i da * fallBy t.j db
    if c = 0 then s else s + t.n * c * ratPow a (t.i - da) * ratPow b (t.j - db)) 0

/-- The specific gas constant of water in J/(kg·K). -/
def gasConst : Rat := 461526 / 1000

/-- Region 1. -/
def region1 : List Term :=
  [⟨0, -2, 14632971213167, 14⟩, ⟨0, -1, -84548187169114, 14⟩, ⟨0, 0, -3756360367204, 12⟩, ⟨0, 1, 33855169168385, 13⟩,
   ⟨0, 2, -95791963387872, 14⟩, ⟨0, 3, 15772038513228, 14⟩, ⟨0, 4, -16616417199501, 15⟩, ⟨0, 5, 81214629983568, 17⟩,
   ⟨1, -9, 28319080123804, 17⟩, ⟨1, -7, -60706301565874, 17⟩, ⟨1, -1, -18990068218419, 15⟩, ⟨1, 0, -32529748770505, 15⟩,
   ⟨1, 1, -21841717175414, 15⟩, ⟨1, 3, -5283835796993, 17⟩, ⟨2, -3, -47184321073267, 17⟩, ⟨2, 0, -30001780793026, 17⟩,
   ⟨2, 1, 47661393906987, 18⟩, ⟨2, 3, -44141845330846, 19⟩, ⟨2, 17, -72694996297594, 29⟩, ⟨3, -4, -31679644845054, 18⟩,
   ⟨3, 0, -28270797985312, 19⟩, ⟨3, 6, -85205128120103, 23⟩, ⟨4, -5, -22425281908, 16⟩, ⟨4, -2, -65171222895601, 20⟩,
   ⟨4, 10, -14341729937924, 26⟩, ⟨5, -8, -40516996860117, 20⟩, ⟨8, -11, -12734301741641, 22⟩, ⟨8, -6, -17424871230634, 23⟩,
   ⟨21, -29, -68762131295531, 32⟩, ⟨23, -31, 14478307828521, 33⟩, ⟨29, -38, 26335781662795, 36⟩, ⟨30, -39, -11947622640071, 36⟩,
   ⟨31, -40, 18228094581404, 37⟩, ⟨32, -41, -93537087292458, 39⟩]

/-- Region 2, ideal-gas part. -/
def region2Ideal : List Term :=
  [⟨0, 0, -96927686500217, 13⟩, ⟨0, 1, 10086655968018, 12⟩, ⟨0, -5, -5608791128302, 15⟩, ⟨0, -4, 71452738081455, 15⟩,
   ⟨0, -3, -40710498223928, 14⟩, ⟨0, -2, 14240819171444, 13⟩, ⟨0, -1, -4383951131945, 12⟩, ⟨0, 2, -28408632460772, 14⟩,
   ⟨0, 3, 21268463753307, 15⟩]

/-- Region 2, residual part. -/
def region2 : List Term :=
  [⟨1, 0, -17731742473213, 16⟩, ⟨1, 1, -17834862292358, 15⟩, ⟨1, 2, -45996013696365, 15⟩, ⟨1, 3, -57581259083432, 15⟩,
   ⟨1, 6, -5032527872793, 14⟩, ⟨2, 1, -33032641670203, 18⟩, ⟨2, 2, -18948987516315, 17⟩, ⟨2, 4, -39392777243355, 16⟩,
   ⟨2, 7, -43797295650573, 15⟩, ⟨2, 36, -26674547914087, 18⟩, ⟨3, 0, 20481737692309, 21⟩, ⟨3, 1, 43870667284435, 20⟩,
   ⟨3, 3, -3227767723857, 17⟩, ⟨3, 6, -15033924542148, 16⟩, ⟨3, 35, -40668253562649, 15⟩, ⟨4, 1, -78847309559367, 23⟩,
   ⟨4, 2, 12790717852285, 21⟩, ⟨4, 3, 48225372718507, 20⟩, ⟨5, 7, 22922076337661, 19⟩, ⟨6, 3, -16714766451061, 24⟩,
   ⟨6, 16, -21171472321355, 16⟩, ⟨6, 35, -23895741934104, 12⟩] ++
  [⟨7, 0, -5905956432427, 30⟩, ⟨7, 11, -12621808899101, 19⟩, ⟨7, 25, -38946842435739, 15⟩, ⟨8, 8, 11256211360459, 24⟩,
   ⟨8, 36, -82311340897998, 13⟩, ⟨9, 13, 19809712802088, 21⟩, ⟨10, 4, 10406965210174, 32⟩, ⟨10, 10, -10234747095929, 26⟩,
   ⟨10, 14, -10018179379511, 22⟩, ⟨16, 29, -80882908646985, 24⟩, ⟨16, 50, 10693031879409, 14⟩, ⟨18, 57, -33662250574171, 14⟩,
   ⟨20, 20, 89185845355421, 38⟩, ⟨20, 35, 30629316876232, 26⟩, ⟨20, 48, -42002467698208, 19⟩, ⟨21, 21, -59056029685639, 39⟩,
   ⟨22, 53, 37826947613457, 19⟩, ⟨23, 39, -12768608934681, 28⟩, ⟨24, 26, 73087610595061, 42⟩, ⟨24, 40, 55414715350778, 30⟩,
   ⟨24, 58, -9436970724121, 19⟩]

/-- The coefficients of region 4. -/
def region4 : List Rat := [11670521452767 / 10 ^ 10, -72421316703206 / 10 ^ 8, -17073846940092 / 10 ^ 12, 1202082470247 / 10 ^ 8,
  -32325550322333 / 10 ^ 7, 1491510861353 / 10 ^ 11, -48232657361591 / 10 ^ 10, 40511340542057 / 10 ^ 8,
  -23855557567849 / 10 ^ 14, 65017534844798 / 10 ^ 11]

/-- The coefficients of the viscosity in the limit of zero density. -/
def visc0 : List Rat := [167752 / 10 ^ 5, 220462 / 10 ^ 5, 6366564 / 10 ^ 7, -241605 / 10 ^ 6]

/-- The coefficients of its part at finite density. -/
def visc1 : List Term :=
  [⟨0, 0, 520094, 6⟩, ⟨1, 0, 850895, 7⟩, ⟨2, 0, -108374, 5⟩, ⟨3, 0, -289555, 6⟩,
   ⟨0, 1, 222531, 6⟩, ⟨1, 1, 999115, 6⟩, ⟨2, 1, 188797, 5⟩, ⟨3, 1, 126613, 5⟩,
   ⟨5, 1, 120573, 6⟩, ⟨0, 2, -281378, 6⟩, ⟨1, 2, -906851, 6⟩, ⟨2, 2, -772479, 6⟩,
   ⟨3, 2, -489837, 6⟩, ⟨4, 2, -25704, 5⟩, ⟨0, 3, 161913, 6⟩, ⟨1, 3, 257399, 6⟩,
   ⟨0, 4, -325372, 7⟩, ⟨3, 4, 698452, 7⟩, ⟨4, 5, 872102, 8⟩, ⟨3, 6, -435673, 8⟩,
   ⟨5, 6, -593264, 9⟩]

/-- The viscosity in Pa·s at a temperature in K and a density in kg/m³, without the critical enhancement. -/
def viscosity (t rho : Rat) : Rat :=
  let x := t / (647096 / 1000)
  let r := rho / 322
  let m0 := 100 * sqrtRat x / (visc0.zipIdx.foldl (fun s h => s + h.1 / x ^ h.2) 0)
  m0 * expRat (r * termSum visc1 (1 / x - 1) (r - 1) 0 0) / 1000000

/-- Water by region 1 at P in Pa and T in K. -/
def waterAt (p t : Rat) : FluidProps :=
  let pi := p / 16530000
  let tau := 1386 / t
  let g := termSum region1 (71 / 10 - pi) (tau - 1222 / 1000)
  let v := gasConst * t / p * pi * (-(g 1 0))
  let w := -(g 1 0) + tau * g 1 1
  { rho := 1 / v, h := gasConst * t * tau * g 0 1, mu := viscosity t (1 / v)
    c := sqrtRat (gasConst * t * (g 1 0 * g 1 0) / (w * w / (tau * tau * g 0 2) - g 2 0)) }

/-- Steam by region 2 at P in Pa and T in K. -/
def steamAt (p t : Rat) : FluidProps :=
  let pi := p / 1000000
  let tau := 540 / t
  let o := termSum region2Ideal 1 tau 0
  let g := termSum region2 pi (tau - 1 / 2)
  let v := gasConst * t / p * (1 + pi * g 1 0)
  let w := 1 + pi * g 1 0 - tau * pi * g 1 1
  { rho := 1 / v, h := gasConst * t * tau * (o 1 + g 0 1), mu := viscosity t (1 / v)
    c := sqrtRat (gasConst * t * (1 + 2 * pi * g 1 0 + pi * pi * (g 1 0 * g 1 0)) /
      (1 - pi * pi * g 2 0 + w * w / (tau * tau * (o 2 + g 0 2)))) }

/-- The saturation temperature in K at P in Pa, region 4. -/
def satTempAt (p : Rat) : Rat :=
  let n := fun i => region4.getD i 0
  let b := sqrtRat (sqrtRat (p / 1000000))
  let e := b * b + n 2 * b + n 5
  let f := n 0 * b * b + n 3 * b + n 6
  let g := n 1 * b * b + n 4 * b + n 7
  let d := 2 * g / (-f - sqrtRat (f * f - 4 * e * g))
  (n 9 + d - sqrtRat ((n 9 + d) * (n 9 + d) - 4 * (n 8 + n 9 * d))) / 2

/-- Saturated steam at P in Pa: v_f, v_g, h_f and h_fg (Table 6.3). -/
def satPropsAt (p : Rat) : (Rat × Rat) × (Rat × Rat) :=
  let t := satTempAt p
  let f := waterAt p t
  let g := steamAt p t
  ((1 / f.rho, 1 / g.rho), (f.h, g.h - f.h))

/-- The temperature of water at P at which sound travels at `c`: the one nearest the measured temperature, on either side of the temperature of the
fastest sound; none where no temperature in the zone's range gives `c` (R155; log entry 120). -/
def soundTempAt (c p t : Rat) : Option Rat :=
  let lo : Rat := 27415 / 100
  let hi : Rat := 42315 / 100
  let w := fun x => (waterAt p x).c
  let top := bisect (fun x => decide (w x < w (x + 1 / 1000))) 40 lo hi
  let a := if w lo ≤ c ∧ c ≤ w top then [bisect (fun x => decide (w x < c)) 40 lo top] else []
  let b := if w hi ≤ c ∧ c ≤ w top then [bisect (fun x => decide (c < w x)) 40 top hi] else []
  (a ++ b).foldl (fun r x => match r with
    | none => some x
    | some y => if (x - t) * (x - t) < (y - t) * (y - t) then some x else some y) none

end Sys2Proof.Machine
end

