-- ==== Sys2Proof/Machine/Flow.lean ====
section
/-! DEFINITION. Chapter 06: a flow zone's block, from its coils and inputs to its record (R146 to R161). -/

namespace Sys2Proof.Machine

/-- The factor curves that the device holds (Table 6.4), as points (log10 Re × 10⁴, K × 10⁶). -/
def curveTable (cs : CoilSet) (n : Nat) : List (Nat × Nat) :=
  let xs := [40000, 50000, 60000, 70000, 80000]
  if n = 0 then xs.zip [1000000, 1000000, 1000000, 1000000, 1000000]
  else if n = 1 then xs.zip [842000, 861000, 874000, 883000, 889000]
  else if n = 2 then xs.zip [994000, 996000, 998000, 999000, 1000000]
  else cs.curves.getD (n - 8) []

/-- K at `x` = log10 Re × 10⁴, interpolated between the points and clamped at the ends; the Bool says that it was clamped (R150). -/
def curveAt : List (Nat × Nat) → Rat → Rat × Bool
  | [], _ => (1, true)
  | [(_, k)], _ => ((k : Rat) / 1000000, true)
  | (x0, k0) :: (x1, k1) :: t, x =>
    if x < (x0 : Rat) then ((k0 : Rat) / 1000000, true)
    else if x ≤ (x1 : Rat) then (((k0 : Rat) + ((k1 : Rat) - k0) * (x - x0) / ((x1 : Rat) - x0)) / 1000000, false)
    else curveAt ((x1, k1) :: t) x

/-- A pass of R150: velocities in m/s, the bulk velocity, the factor applied to it (none where it is a mean of two) and RE_RANGE. -/
structure Bulk where
  vc : Option Rat
  va : Option Rat
  v : Rat
  k : Option Rat
  re : Rat
  clamped : Bool

/-- The pass at Reynolds number `re` (R150, R152). -/
def bulkAt (cs : CoilSet) (p : FlowParams) (vc va : Option Rat) (re : Rat) : Bulk :=
  let x := if re ≤ 0 then 0 else 10000 * log10Rat re
  let kc := curveAt (curveTable cs p.curveC) x
  let ka := curveAt (curveTable cs p.curveA) x
  let bc := vc.map (· * kc.1)
  let ba := va.map (· * ka.1)
  let cl := (vc.isSome && kc.2) || (va.isSome && ka.2)
  match bc, ba with
  | some c, some a =>
    if p.select = 0 then ⟨bc, ba, a, some ka.1, re, cl⟩
    else if p.select = 1 then ⟨bc, ba, c, some kc.1, re, cl⟩
    else ⟨bc, ba, (c + a) / 2, none, re, cl⟩
  | some c, none => ⟨bc, ba, c, some kc.1, re, cl⟩
  | none, some a => ⟨bc, ba, a, some ka.1, re, cl⟩
  | none, none => ⟨bc, ba, 0, none, re, cl⟩

/-- The absolute value of a computed number. -/
def absRat (x : Rat) : Rat := if x < 0 then -x else x

/-- The passes after the first, at most `k` of them, until the relative change of v_b falls below 10⁻⁶ (R150). -/
def bulkLoop (cs : CoilSet) (p : FlowParams) (vc va : Option Rat) (fp : FluidProps) : Nat → Bulk → Bulk
  | 0, b => b
  | k + 1, b =>
    let re := fp.rho * absRat b.v * ((p.diam : Rat) / 1000000) / fp.mu
    let b1 := bulkAt cs p vc va re
    if absRat (b1.v - b.v) < absRat b1.v / 1000000 then b1 else bulkLoop cs p vc va fp k b1

/-- The mean of a list. -/
def meanRat (xs : List Rat) : Rat := xs.foldl (· + ·) 0 / (xs.length : Rat)

/-- What a block takes from one input (R153): its value, the tags of the samples used, and STALE. -/
structure Taken where
  value : Rat
  tags : Nat
  stale : Bool

/-- The mean of the usable samples stamped in the block from τ to `fin` (units of 2^-38 ns), of a Raman source only the latest; or the latest earlier
one no older than `staleS` seconds at τ (R153). The samples come newest first. -/
def takeInput (latest : Bool) (all : List InSample) (tau fin staleS : Nat) : Option Taken :=
  let xs := all.filter (fun x => !hasTag x.tag tagLost)
  let within := xs.filter (fun x => decide (tau ≤ x.stamp * 2 ^ 38 ∧ x.stamp * 2 ^ 38 < fin))
  let inside := if latest then within.take 1 else within
  if inside.isEmpty then
    match xs.find? (fun x => decide (x.stamp * 2 ^ 38 < tau)) with
    | some x => if tau ≤ (x.stamp + staleS * secNs) * 2 ^ 38 then some ⟨x.value, x.tag, true⟩ else none
    | none => none
  else some ⟨meanRat (inside.map InSample.value), orTags (inside.map InSample.tag), false⟩

/-- A Raman trace as a sample: the mean of the bins that the zone averages; not usable when the trace or one of these bins is LOST. -/
def traceSample (p : FlowParams) (t : TraceSum) : Option InSample :=
  let bs := (t.bins.drop p.ramanFirst).take p.ramanCount
  if hasTag t.tag tagLost || bs.isEmpty || bs.any (fun b => hasTag b.2 tagLost) then none
  else some ⟨t.stamp, meanRat (bs.map (fun b => (b.1 : Rat))), t.tag ||| orTags (bs.map Prod.snd)⟩

/-- The samples of the zone's temperature source, newest first (R153). -/
def State.tempSamples (s : State) (p : FlowParams) : List InSample :=
  if p.tsrc = 0 then Tab.get [] s.samples (bits p.tHandle 0 12)
  else (Tab.get [] s.traces (bits p.raman 0 12)).filterMap (traceSample p)

/-- The fluid state of a block (R154, R155). -/
structure FluidState where
  props : FluidProps := {}
  range : Bool := false
  sat : Bool := false
  hum : Bool := false
  stale : Bool := false
  tchk : Bool := false
  lost : Bool := false
  xw : Rat := 0
  tSound : Rat := 0
  newX : Option Rat := none

/-- The dryness or humidity ratio of a block: from c when it exists, else the latest found within STALE_S (R155). -/
def wetness (found : Option Rat) (last : Option (Nat × Rat)) (tauNs staleS : Nat) : Option (Rat × Bool) :=
  match found, last with
  | some x, _ => some (x, false)
  | none, some (t, x) => if tauNs ≤ t + staleS * secNs then some (x, true) else none
  | none, none => none

/-- c differs from the formulation's value by more than 1 %, or lies outside C_MIN to C_MAX (R149, R155; log entry 16). -/
def soundOff (fluid : Nat) (c : Option Rat) (form : Rat) : Bool :=
  match c with
  | none => false
  | some c => decide (form / 100 < absRat (c - form)) || decide (c < ((soundRange fluid).1 : Rat)) || decide (((soundRange fluid).2 : Rat) < c)

/-- R154, R155: the fluid state from P in Pa, T in K and c in m/s. -/
def fluidState (p : FlowParams) (last : Option (Nat × Rat)) (tauNs : Nat) (pr t : Rat) (c : Option Rat) : FluidState :=
  if p.fluid = 0 then
    let range := decide (pr < 50000) || decide (4000000 < pr) || decide (t < 27415 / 100) || decide (42315 / 100 < t)
    let ts := match c with | some c => (soundTempAt c pr t).getD (Config.noSoundTemp c pr) | none => 0
    let off := match c with
      | some c => decide ((p.tchkLim : Rat) / 1000 < absRat (ts - t)) || decide (c < 1300) || decide (1600 < c)
      | none => false
    { props := waterAt pr t, range := range, lost := range, tchk := off, tSound := ts }
  else if p.fluid = 1 then
    let tsat := satTempAt pr
    let range := decide (pr < 50000) || decide (4000000 < pr) || decide (t < tsat - 1 / 2) || decide (67315 / 100 < t)
    if tsat + 1 / 2 < t then
      let fp := steamAt pr t
      { props := fp, range := range, lost := range, tchk := soundOff 1 c fp.c }
    else
      let found := c.map (fun c => Config.dryness pr c)
      match wetness found last tauNs p.staleS with
      | none => { sat := true, lost := true, range := range }
      | some (x, old) =>
        let q := satPropsAt pr
        let out := range || decide (x < 8 / 10) || decide (1 < x)
        { props := { rho := 1 / (q.1.1 + x * (q.1.2 - q.1.1)), h := q.2.1 + x * q.2.2, mu := Config.satMu pr x, c := 0 }
          range := out, lost := out, sat := true, stale := old, xw := x, newX := found }
  else
    let range := decide (pr < 80000) || decide (1600000 < pr) || decide (t < 25315 / 100) || decide (35315 / 100 < t)
    if p.hum ≠ 0xFFFFFFFF then
      let w := (p.hum : Rat) / 1000000
      let fp := Config.air pr t w
      { props := fp, range := range, lost := range, tchk := soundOff 2 c fp.c, xw := w }
    else
      let raw := c.map (fun c => Config.airW pr t c)
      let found := raw.map (fun r => if r.1 < 0 then 0 else if r.2 < r.1 then r.2 else r.1)
      let clampedW := match raw with | some r => decide (r.1 < 0) || decide (r.2 < r.1) | none => false
      match wetness found last tauNs p.staleS with
      | none => { hum := true, lost := true, range := range }
      | some (w, old) =>
        { props := Config.air pr t w, range := range, lost := range, hum := true, stale := old, tchk := clampedW, xw := w, newX := found }

/-- What a coil brings to a block (R157): its samples, a lost one as 0, how many carry LOST, and the OR of the tags of the others. -/
structure CoilUse where
  v : List Int := []
  lost : Nat := 0
  tags : Nat := 0

/-- Sample `m` of coil `c` since the zone's anchor, as an INC16 value with its tag byte, and the cascade after it (R129, R145): a reset at `cut` cuts
it, and FILL follows the anchor. `gained` is what the Sluice's own work adds (R48, R49). -/
def State.zoneSample (s : State) (b c m gained : Nat) (cut : Option Nat) : State × Int × Nat :=
  let d := s.dasOf b
  let f := s.flowOf b
  let tau := f.anchor * 2 ^ 38 + m * (2 ^ d.h * d.inc * d.tin)
  let dly := delayTotal false d.h d.tin * 2 ^ 38
  let isCut := match cut with | some a => decide (a * 2 ^ 38 ≤ tau + dly) | none => false
  let x := s.sumsOver b c (s.tilesNear b tau c)
  let g := if isCut then Tab.get {} d.filters c else s.runFilter b c f.anchor m
  let t := x.tags ||| gained ||| tagIf (isCut || decide (tau < g.lostUntil)) tagLost ||| tagIf (decide (tau < f.anchor * 2 ^ 38 + dly)) tagFill
  let e := makeEntry d 0 (g.out d.inc m) t x.qual 0
  (s.setDas b { d with filters := Tab.put {} d.filters c g }, toSigned 16 (leNat e.bytes), e.tag)

/-- Coil `c`'s samples from number `m0` on, `n` of them. -/
def State.zoneCoil (b c m0 gained : Nat) (cut : Option Nat) : Nat → State × CoilUse → State × CoilUse
  | 0, a => a
  | n + 1, a =>
    let r := State.zoneCoil b c m0 gained cut n a
    let x := r.1.zoneSample b c (m0 + n) gained cut
    let lost := hasTag x.2.2 tagLost
    (x.1, ⟨r.2.v ++ [if lost then 0 else x.2.1], if lost then r.2.lost + 1 else r.2.lost, if lost then r.2.tags else r.2.tags ||| x.2.2⟩)

/-- The coils of a zone over `n` samples from number `m0` on (R145, R157). -/
def State.zoneCoils (s : State) (b m0 n gained : Nat) (cut : Option Nat) : State × List CoilUse :=
  (List.range (s.berth b).channels).foldl (fun a c =>
    let r := State.zoneCoil b c m0 gained cut n (a.1, {})
    (r.1, a.2 ++ [r.2])) (s, [])

/-- A coil is used unless more than 1/16 of its samples carry LOST (R157). -/
def coilsUsed (n : Nat) (us : List CoilUse) : List (CoilUse × Nat) := us.zipIdx.filter (fun e => decide (e.1.lost * 16 ≤ n))

/-- Tags that a record takes from its coils: FILL, SETTLE, FADE, CLIP, OVR and TIDE (R157). -/
def coilTags : Nat := 183

/-- A ridge that exists: its quality is not below Q_MIN (R148). -/
def ridgeOf (p : FlowParams) (r : Ridge) : Option Rat := if r.q < p.qMin then none else some r.s

/-- A velocity in µm/s, a free value where it does not exist. -/
def State.orFree (s : State) (k : Nat) (v : Option Rat) (scale : Rat) : Int := match v with
  | some x => Config.rnd (x * scale)
  | none => Config.freeValue (s.free + k)

/-- The bytes of a record's first 36 (Table 6.5). -/
def recordHead (stamp seq dur handle type tag flags ncoil qc qa frac : Nat) : List Byte :=
  leBytes 8 stamp ++ leBytes 8 seq ++ leBytes 8 dur ++ leBytes 4 handle ++ leBytes 1 type ++ leBytes 1 tag ++ leBytes 2 flags ++ leBytes 1 ncoil ++
  leBytes 1 qc ++ leBytes 1 qa ++ leBytes 1 frac

/-- An integer as `k` bytes of two's complement. -/
def leInt (k : Nat) (i : Int) : List Byte := leBytes k (ofSigned (8 * k) i)

/-- A flag at its bit of Table 6.7. -/
def flagAt (c : Bool) (i : Nat) : Nat := if c then 2 ^ i else 0

/-- The standard error of the mean of a list; none while it is not defined. -/
def stdError (xs : List Rat) : Option Rat :=
  let n := xs.length
  if n < 2 then none
  else let m := meanRat xs; some (sqrtRat (xs.foldl (fun a x => a + (x - m) * (x - m)) 0 / ((n : Rat) * (n - 1))))

/-- S of R160; none while it is not defined. -/
def scaleOf (cal : List CalBlock) : Option Rat := if cal.isEmpty then none else some (meanRat (cal.map (fun e => e.cRef / e.c)))

/-- δ_c of a coil over the accumulated blocks, before mean and trend are removed, and its standard error; none for a coil that no block had weight
for (R160). -/
def deltaOf (cal : List CalBlock) (c : Nat) : Option Rat × Option Rat :=
  let xs := (cal.map (fun e => e.deltas.getD c (0, 0))).filter (fun e => decide (e.2 ≠ 0))
  let w := ratSum (xs.map Prod.snd)
  (if w = 0 then none else some (ratSum (xs.map (fun e => e.1 * e.2)) / w), stdError (xs.map Prod.fst))

/-- The flags and bytes from offset 36 of a CAL record (R160, Table 6.6): a coil correction and an error that are not defined are free. -/
def State.calPart (s : State) (p : FlowParams) (pos : List Int) (cal : List CalBlock) (cRef : Rat) : Nat × List Byte :=
  let n := cal.length
  let scale := scaleOf cal
  let err := stdError (cal.map (fun e => e.cRef / e.c))
  let es := (List.range p.nc).map (deltaOf cal)
  let raw := es.map (fun e => e.1.getD 0)
  let ds := (detrend (pos.map (fun (x : Int) => (x : Rat) / 1000000)) raw).zip es
  let units := ds.zipIdx.map (fun e => if e.1.2.1.isSome then Config.rnd (e.1.1 * 100000) else toSigned 16 (Config.freeValue (s.free + 8 + e.2)))
  let worst : Option Rat := if es.any (fun e => e.2.isNone) then none else some ((es.map (fun e => e.2.getD 0)).foldl max 0)
  let valid := decide (p.ncal ≤ n) && (match err with | some g => decide (g ≤ 200 / 1000000) | none => false) &&
    (match worst with | some g => decide (g ≤ 5 / 1000) | none => false)
  let range := (match scale with | some m => decide (5 / 100 < absRat (m - 1)) | none => false) ||
    ds.any (fun e => e.2.1.isSome && decide (5 / 100 < absRat e.1))
  let meas : Option Rat := if n = 0 then none else some (meanRat (cal.map CalBlock.c))
  (flagAt valid 10 + flagAt range 11,
   leInt 4 (Config.rnd (cRef * 1000000)) ++ leInt 4 (s.orFree 0 meas 1000000) ++
   leInt 4 (s.orFree 1 (scale.map (· - 1)) 1000000000) ++ leInt 4 (s.orFree 2 err 1000000000) ++
   leBytes 4 n ++ leInt 2 (s.orFree 3 worst 100000) ++ leBytes 6 0 ++
   (List.range 32).flatMap (fun c => leInt 2 (clampSigned 16 (units.getD c 0))))

/-- A block's record in the making: tags, flags, coils used, the ridge qualities, the bytes from offset 36, and what the ledger and the registers
take. -/
structure BlockOut where
  tag : Nat
  flags : Nat
  ncoil : Nat
  qc : Nat
  qa : Nat
  body : List Byte
  rates : Int × Int × Int := (0, 0, 0)
  vbulk : Int := 0
  lastX : Option (Nat × Rat) := none
  cal : List CalBlock := []

/-- The pressure and temperature inputs of a block (R153). -/
def State.blockInputs (s : State) (p : FlowParams) (tau fin : Nat) : Option Taken × Option Taken :=
  (takeInput false (Tab.get [] s.samples (bits p.pHandle 0 12)) tau fin p.staleS, takeInput (p.tsrc == 1) (s.tempSamples p) tau fin p.staleS)

/-- The tags of the inputs used, LOST excluded, and whether one of them is stale (R153). -/
def inputTags (x : Option Taken × Option Taken) : Nat × Bool :=
  let t := (x.1.map Taken.tags).getD 0 ||| (x.2.map Taken.tags).getD 0
  (t - (t &&& tagLost), (x.1.map Taken.stale).getD false || (x.2.map Taken.stale).getD false)

/-- What a CAL zone adds for a block (R160): C_REF, c, and the estimates over the coils used, after scaling by S with this block in it. -/
def calBlock (p : FlowParams) (f : Flow) (sp : BlockSpectra) (coils : List (CoilData × Nat)) (dx cRef c : Rat) : CalBlock :=
  let s0 := meanRat (f.cal.map (fun e => e.cRef / e.c) ++ [cRef / c])
  let r := blockDeltas (coils.map Prod.fst) s0 dx sp.acoustic [sp.ridges.dn.s, sp.ridges.up.s]
  { cRef := cRef, c := c
    deltas := (List.range p.nc).map (fun k => match r, coils.findIdx? (fun e => e.2 == k) with
      | some x, some i => (x.1.getD i 0, x.2)
      | _, _ => (0, 0)) }

/-- R144 to R161: the block of berth `b` from τ to `fin` (units of 2^-38 ns), with its coils' samples and what the flow program's work gained
(R48). -/
def State.flowBlock (s : State) (b tau fin : Nat) (uses : List CoilUse) (gained : Nat) : BlockOut :=
  let p := flowParams (s.berth b).params
  let f := s.flowOf b
  let cs := f.set
  let used := coilsUsed p.lb uses
  let dx : Rat := (((spacings cs.pos).foldl min ((spacings cs.pos).headD 0) : Int) : Rat) / 1000000
  let coils := used.map (fun e => (({ x := ((cs.pos.getD e.2 0 : Int) : Rat) / 1000000, v := e.1.v } : CoilData), e.2))
  let sp := p.process (coils.map Prod.fst) dx
  let sgn : Rat := if p.dirn then -1 else 1
  let uc := ridgeOf p sp.ridges.conv
  let dn := ridgeOf p sp.ridges.dn
  let up := (ridgeOf p sp.ridges.up).map (fun v => -v)
  let vConv := uc.map (· * sgn)
  let vAcou : Option Rat := match dn, up with | some a, some c => some ((a - c) / 2 * sgn) | _, _ => none
  let c : Option Rat := match dn, up with | some a, some c => some ((a + c) / 2) | _, _ => none
  let inp := s.blockInputs p tau fin
  let pr := match inp.1 with | some v => v.value / 100 + (p.pAtm : Rat) | none => 0
  let t := match inp.2 with | some v => v.value / 1000 | none => 0
  let tauNs := tau / 2 ^ 38
  let fs : FluidState := match inp with
    | (some _, some _) => fluidState p f.lastX tauNs pr t c
    | _ => { lost := true }
  let stale := (inputTags inp).2 || fs.stale
  let bk := bulkLoop cs p vConv vAcou fs.props 7 (bulkAt cs p vConv vAcou 1000000)
  let none_ := vConv.isNone && vAcou.isNone
  let dis := match bk.vc, bk.va with
    | some vc, some va =>
      let lim := max ((p.disAbs : Rat) / 1000) ((p.disRel : Rat) / 10000 * absRat bk.v)
      decide (lim < absRat (vc - va))
    | _, _ => false
  let lost := fs.lost || none_ || decide (used.length < 6) || hasTag gained tagLost
  let tag := (orTags (used.map (fun e => e.1.tags)) &&& coilTags) ||| (inputTags inp).1 ||| gained ||| tagIf lost tagLost
  let flags := flagAt dis 0 + flagAt uc.isNone 1 + flagAt c.isNone 2 + flagAt (decide (used.length < p.nc)) 3 + flagAt fs.range 4 + flagAt fs.sat 5 +
    flagAt stale 6 + flagAt fs.tchk 7 + flagAt (bk.clamped && !none_) 8 + flagAt fs.hum 9
  let qc := sp.ridges.conv.q
  let qa := min sp.ridges.dn.q sp.ridges.up.q
  let lastX := match fs.newX with | some v => some (tauNs, v) | none => f.lastX
  let area := piRat * (p.diam : Rat) * (p.diam : Rat) / (4 * 1000000 * 1000000)
  let q := bk.v * area
  let m := fs.props.rho * q
  let e := m * (fs.props.h - (p.hRef : Rat))
  let qv := Config.rnd (q * 1000000000)
  let md := Config.rnd (m * 1000000000)
  let ed := Config.rnd (e * 1000)
  let vb := Config.rnd (bk.v * 1000000)
  if p.mode = 1 then
    let cal := match c, inp with
      | some cv, (some _, some _) => if fs.range || fs.sat then f.cal else f.cal ++ [calBlock p f sp coils dx fs.props.c cv]
      | _, _ => f.cal
    let part := s.calPart p cs.pos cal fs.props.c
    ⟨tag, flags + part.1, used.length, qc, qa, if lost then leBytes 92 0 else part.2, (0, 0, 0), 0, lastX, cal⟩
  else if lost then ⟨tag, flags, used.length, qc, qa, leBytes 92 0, (0, 0, 0), 0, lastX, f.cal⟩
  else
    let body := leInt 4 (s.orFree 0 vConv 1000000) ++ leInt 4 (s.orFree 1 vAcou 1000000) ++ leInt 4 vb ++ leInt 4 (s.orFree 2 c 1000000) ++
      leInt 4 (Config.rnd (fs.props.rho * 1000000)) ++ leInt 8 qv ++ leInt 8 md ++ leInt 8 ed ++ leInt 4 (Config.rnd (pr * 100)) ++
      leInt 4 (Config.rnd (t * 1000)) ++ leBytes 4 (min (Config.rnd bk.re).toNat (2 ^ 32 - 1)) ++ leInt 4 (s.orFree 3 bk.k 1000000) ++
      leInt 4 (Config.rnd (fs.xw * 1000000)) ++ leInt 4 (Config.rnd (fs.tSound * 1000)) ++ leInt 4 (s.orFree 4 dn 1000000) ++
      leInt 4 (s.orFree 5 up 1000000) ++ leBytes 16 0
    ⟨tag, flags, used.length, qc, qa, body, (qv, md, ed), vb, lastX, f.cal⟩

/-- The record at its slot, the counters and status bits of the zone and of all zones (R156, Tables 6.12 and 6.13). -/
def State.flowFinish (s : State) (b dur stamp frac : Nat) (o : BlockOut) (f1 : Flow) : State :=
  let t := s.berth b
  let p := flowParams t.params
  let z := t.slot
  let f := s.flowOf b
  let lost := hasTag o.tag tagLost
  let rec_ := recordHead stamp f.seq dur t.handle p.mode o.tag o.flags o.ncoil o.qc o.qa frac ++ o.body
  let s1 := (s.whStore { owner := some b } (f.ring + 128 * (f.seq % p.outRecs)) rec_).setFlow b { f1 with seq := f.seq + 1 }
  let s2 := if lost then (s1.wr R.RX_FZ_STATUS_LOST 1).inc R.RX_FZ_LOST_CNT_COUNT else s1
  let s3 := if bit o.flags 7 then s2.wr R.RX_FZ_STATUS_TCHK 1 else s2
  let s4 := if bit o.flags 0 then s3.wr R.RX_FZ_STATUS_DISAGREE 1 else s3
  let hold := s4.rd (R.RX_FZ_z_HANDLE_HANDLE z)
  let s5 := if hold = t.handle ∨ hold = 0 then s4.wrPair (R.RX_FZ_z_SEQ_LO_SEQ_LO z) (R.RX_FZ_z_SEQ_HI_SEQ_HI z) (f.seq + 1) else s4
  let s6 := if hold ≠ t.handle then s5
    else
      let a := (s5.wr (R.RX_FZ_z_VBULK_VBULK z) (ofSigned 32 o.vbulk)).wrB (R.RX_FZ_z_STATUS_CAL_VALID z) (bit o.flags 10)
      let a1 := if bit o.flags 6 then a.wr (R.RX_FZ_z_STATUS_STALE z) 1 else a
      let a2 := if bit o.flags 4 then a1.wr (R.RX_FZ_z_STATUS_STATE_RANGE z) 1 else a1
      let a3 := if bit o.flags 7 then a2.wr (R.RX_FZ_z_STATUS_TCHK z) 1 else a2
      let a4 := if lost then (a3.wr (R.RX_FZ_z_STATUS_LOST z) 1).inc (R.RX_FZ_z_LOST_CNT_COUNT z) else a3
      if bit o.flags 0 then (a4.wr (R.RX_FZ_z_STATUS_DISAGREE z) 1).inc (R.RX_FZ_z_DIS_CNT_COUNT z) else a4
  if p.mode = 1 then s6
  else (s6.feed 2 t.handle (fun k => some { value := toSigned 32 (leNat ((rec_.drop k).take 4)), at_ := 256 * stamp + frac, tag := o.tag })).ledgerTake ⟨t.handle, f.seq, stamp, stamp + dur, o.tag, o.flags, o.rates.1, o.rates.2.1, o.rates.2.2⟩

/-- A cut that falls exactly on the start of the next block leaves no block in progress: the blocks restart there (R159). -/
def Flow.settleCut (f : Flow) (d : Das) (lb : Nat) : Flow :=
  match f.cuts with
  | c :: rest => if c * 2 ^ 38 ≤ blockStart f d lb f.next then { f with cuts := rest, anchor := c, next := 0 } else f
  | [] => f

/-- The samples of a zone that a block takes from its coils: `n` from number `m0` on, of which those from `m0 + k` on are cut. They are there when the
last one that is not cut is. -/
def State.coilsReady (s : State) (b m0 k : Nat) : Bool :=
  let d := s.dasOf b
  let a := (s.flowOf b).anchor
  k == 0 || (List.range (s.berth b).channels).all (fun c =>
    s.outReady b c a (m0 + k - 1) (a * 2 ^ 38 + (m0 + k - 1) * (2 ^ d.h * d.inc * d.tin)))

/-- The Sluice reads what the coils need up to sample `m`, with the tiles and states that fail (R123, R132), and its work is charged. The tags that
the samples gain. -/
def State.coilsRead (s : State) (b m : Nat) (luck : WhLuck) (badState : List Nat) : State × Nat :=
  let a := (s.flowOf b).anchor
  let cs := List.range (s.berth b).channels
  let s1 := s.readTiles b (cs.flatMap (fun c => (s.inputsFor b c a m).map (fun j => (0, tileOf c j)))) luck
  let s2 := (badState.eraseDups.filter cs.contains).foldl (fun (t : State) i => t.stateError b a i) s1
  let h := (s.dasOf b).h
  s2.spend 0 b ((cs.map (fun c =>
    let f := s2.filterOn b c a
    let x := f.next - f.first
    let n := (s2.inputsFor b c a m).length
    ((List.range h).map (fun k => (x + n) / 2 ^ (k + 1) - x / 2 ^ (k + 1))).sum)).sum + 2 * (s.berth b).channels * (flowParams (s.berth b).params).lb)

/-- The calibration set and the program bank that a block from `tau` on runs with (R159): those of the latest swap whose boundary is not later. -/
def State.blockSetup (s : State) (f : Flow) (tau : Nat) : Flow × Bool :=
  let bank := if (Tab.get {} s.clusters f.cluster).swapAt * 2 ^ 38 ≤ tau then s.rd (R.PI_CL_STATUS_ACT_BANK f.cluster) else f.bank
  match f.newSet with
  | some (bd, cs) => if bd * 2 ^ 38 ≤ tau then ({ f with set := cs, newSet := none, bank := bank }, true) else ({ f with bank := bank }, false)
  | none => ({ f with bank := bank }, false)

/-- The record of a block that the boundary `cut` ends (R157, R159): it carries SHORT and LOST, with the tags of what its coils and inputs gave. -/
def State.shortBlock (s : State) (b tau cut n : Nat) (uses : List CoilUse) (new_ : Bool) : BlockOut :=
  let p := flowParams (s.berth b).params
  let f := s.flowOf b
  let used := coilsUsed n uses
  let inp := inputTags (s.blockInputs p tau (cut * 2 ^ 38))
  { tag := (orTags (used.map (fun e => e.1.tags)) &&& coilTags) ||| inp.1 ||| tagLost
    flags := flagAt (decide (used.length < p.nc)) 3 + flagAt inp.2 6 + flagAt true 12 + flagAt new_ 13
    ncoil := used.length, qc := Config.freeValue s.free, qa := Config.freeValue (s.free + 1), body := leBytes 92 0, lastX := f.lastX, cal := f.cal }

/-- R146 to R160: the next block of the zone is complete, or was cut by a reset or a close, and its record is written; the first block
at or after a calibration swap's boundary uses the new set and carries CAL_NEW. -/
def execFlowRecordWrite (berth : Nat) (luck : SluiceLuck) (s : State) : Res := s.live fun s =>
  let t := s.berth berth
  let p := flowParams t.params
  let d := s.dasOf berth
  let f0 := (s.flowOf berth).settleCut d p.lb
  if t.kind = 2 ∧ (t.isOpen ∨ (f0.ends ∧ f0.cuts ≠ [])) then
    let step := 2 ^ d.h * d.inc * d.tin
    let tau := blockStart f0 d p.lb f0.next
    let whole := blockStart f0 d p.lb (f0.next + 1)
    let stamp := tau / 2 ^ 38
    let frac := tau / 2 ^ 30 % 256
    let m0 := f0.next * p.lb
    let set := s.blockSetup f0 tau
    match f0.cuts.find? (fun c => decide (c * 2 ^ 38 < whole)) with
    | some c =>
      -- the block in progress at the boundary ends there (R159): samples whose τ + D_total reaches it are cut
      let n := ceilDiv (c * 2 ^ 38 - tau) step
      let k := min n (ceilDiv ((c - delayTotal false d.h d.tin) * 2 ^ 38 - tau) step)
      let sa := s.setFlow berth set.1
      if sa.coilsReady berth m0 k then
        let r := if k = 0 then (sa, 0) else sa.coilsRead berth (m0 + k - 1) luck.tiles luck.badState
        let us := r.1.zoneCoils berth m0 n r.2 (some c)
        let o := us.1.shortBlock berth tau c n us.2 set.2
        goOn { (us.1.flowFinish berth (c - stamp) stamp frac o { us.1.flowOf berth with cuts := f0.cuts.drop 1, anchor := c, next := 0 }) with
          free := s.free + 2 }
      else goOn s
    | none =>
      let sa := s.setFlow berth set.1
      if s.inTide (whole / 2 ^ 38) ∧ sa.coilsReady berth m0 p.lb then
        let sb := sa.advance (whole / 2 ^ 38)
        let sc := if s.rd (R.RX_FZ_z_HANDLE_HANDLE t.slot) = t.handle then sb.showPositions t.slot set.1.set.pos else sb
        let r := sc.coilsRead berth (m0 + p.lb - 1) luck.tiles luck.badState
        let us := r.1.zoneCoils berth m0 p.lb r.2 f0.cuts.head?
        let w := us.1.spend (1 + f0.cluster) berth p.cycles
        let o0 := w.1.flowBlock berth tau whole us.2 w.2
        let o := { o0 with flags := o0.flags + flagAt set.2 13 }
        goOn { (w.1.flowFinish berth (whole / 2 ^ 38 - stamp) stamp frac o
          { w.1.flowOf berth with next := f0.next + 1, lastX := o.lastX, cal := o.cal }) with free := s.free + 48 }
      else goOn s
  else goOn s

end Sys2Proof.Machine
end

