-- ==== Sys2Proof/Machine/TallyOps.lean ====
section
/-! DEFINITION. Chapter 08: what the events of a tally lane share: FIFO entries, alerts, histogram bins, statistics, gates, and the
start and end of a measurement (R194 to R219). -/

namespace Sys2Proof.Machine

/-- A lane register's field, by lane number (R194). -/
def ln (f : Nat → Nat → Fld) (l : Nat) : Fld := f (l / 16) (l % 16)

/-- The core PLL, which clocks CK_TLY (Table 1.7), is out of lock. -/
def State.tallyLost (s : State) : Bool := bit s.pllLost 0

/-- Lane `l`. -/
def State.lane (s : State) (l : Nat) : Lane := Tab.get {} s.lanes l

/-- Sets lane `l`. -/
def State.setLane (s : State) (l : Nat) (x : Lane) : State := { s with lanes := Tab.put {} s.lanes l x }

/-- The power domain of bank `n` (R443). -/
def bankDomain (n : Nat) : Nat := 9 + n

/-- 1.2 ns in the converter's codes of 1/256 ns, rounded down (R197): an edge at most this long after the last one finds it busy. -/
def deadCodes : Nat := 307

/-- The lane's calibrated input delay (R195). -/
def State.laneDelay (s : State) (l : Nat) : Int := toSigned 32 (s.rd (ln R.TL_LANE_i_DELAY_DELAY l))

/-- The stamp of an edge in 1/256 ns (R195). -/
def State.laneStamp (s : State) (l raw : Nat) : Nat := ((raw : Int) - s.laneDelay l).toNat

/-- The FIFO with an entry put behind all others but those of higher lanes that write in the same CK_TLY cycle (R206). -/
def fifoPut (q : List TallyEntry) (e : TallyEntry) : List TallyEntry :=
  let tail := (q.reverse.takeWhile (fun x => x.cycle == e.cycle && decide (e.lane < x.lane))).reverse
  q.take (q.length - tail.length) ++ [e] ++ tail

/-- A lane whose FIFO_EN is 1 writes an entry; one that finds the FIFO full is discarded and counted (R205 to R207). -/
def State.fifoEntry (s : State) (l raw : Nat) (e : TallyEntry) : State :=
  if s.on (ln R.TL_LANE_i_CFG_FIFO_EN l) then
    let n := l / 16
    let q := Tab.get [] s.fifos n
    let x := s.lane l
    if q.length < 1024 then
      let e1 : TallyEntry := { e with lane := l, cycle := raw / 512, flags := e.flags + (if x.gap then 4 else 0) }
      let q1 := fifoPut q e1
      (({ s with fifos := Tab.put [] s.fifos n q1 }).setLane l { x with gap := false }).wr (R.TL_BANK_STATUS_FIFO_LVL n) q1.length
    else ((s.setLane l { x with gap := true }).wr (R.TL_BANK_STATUS_FIFO_OVF n) 1).inc (R.TL_FIFO_OVF_CNT_COUNT n)
  else s

/-- An instant in 1/256 ns as the TIME and FRAC of an entry. -/
def entryAt (t type idx flags value : Nat) : TallyEntry :=
  { time := t / 256, frac := t % 256, type := type, idx := idx, flags := flags, value := low 32 value }

/-- Alert rule `r` of bank `n` fires on stop `idx` with interval `i` of lane `l` (R210). -/
def State.alertHit (s : State) (n r l idx : Nat) (i : Int) : Bool :=
  s.on (R.TL_ALR_r_CFG_EN n r) && s.rd (R.TL_ALR_r_CFG_LANE n r) == l % 16 &&
  (s.on (R.TL_ALR_r_CFG_ANYSTOP n r) || s.rd (R.TL_ALR_r_CFG_STOP n r) == idx) &&
  (let lo := toSigned 32 (s.rd (R.TL_ALR_r_LO_LO n r))
   let hi := toSigned 32 (s.rd (R.TL_ALR_r_HI_HI n r))
   let k := s.rd (R.TL_ALR_r_CFG_KIND n r)
   if k = 0 then decide (lo ≤ i ∧ i ≤ hi) else if k = 1 then decide (i < lo ∨ hi < i) else k == 2)

/-- The alert rules see a stop; the Bool says that one fired (R210). -/
def State.alertStop (s : State) (l idx : Nat) (i : Int) : State × Bool :=
  let n := l / 16
  let hits := (List.range 4).filter (fun r => s.alertHit n r l idx i)
  let s1 := hits.foldl (fun t r => t.inc (R.TL_ALR_r_CNT_COUNT n r)) s
  if hits.isEmpty then (s, false) else (s1.wr (R.TL_BANK_STATUS_ALERT n) 1, true)

/-- ALERT_N is driven low (R211). -/
def State.alertLow (s : State) : Bool :=
  (List.range 8).any (fun n => s.on (R.TL_BANK_STATUS_ALERT n) && s.on (R.TL_ALERT_CFG_PIN_EN n))

/-- Shed offset of the histogram of lane `l` (Table 13.1). -/
def histBase (l : Nat) : Nat := 0x2400000 + 24576 * l

/-- The count in bin `b` of a lane. -/
def State.histBin (s : State) (l b : Nat) : Nat := s.shedNat (histBase l + 3 * b) 3

/-- An interval that is binned goes to its bin, or is counted under or over (R215, R216). -/
def State.binInterval (s : State) (l : Nat) (i : Int) : State :=
  if s.on (ln R.TL_LANE_i_HCFG_HEN l) then
    let x := s.lane l
    let b := (i - 256 * (s.rd (ln R.TL_LANE_i_HOFS_HOFS l) : Int)) / (2 ^ s.rd (ln R.TL_LANE_i_HCFG_K l) : Nat)
    if b < 0 then (s.inc (ln R.TL_LANE_i_UO_CNT_UNDER l)).setLane l { x with frame := { x.frame with under := x.frame.under + 1 } }
    else if 8192 ≤ b then (s.inc (ln R.TL_LANE_i_UO_CNT_OVER l)).setLane l { x with frame := { x.frame with beyond := x.frame.beyond + 1 } }
    else
      let c := s.histBin l b.toNat
      let c1 := min (c + 1) (2 ^ 24 - 1)
      let s1 := s.shedWrite (histBase l + 3 * b.toNat) (leBytes 3 c1)
      if c1 = 2 ^ 24 - 1 then (s1.wr (ln R.TL_LANE_i_STATUS_SAT l) 1).setLane l { x with frame := { x.frame with sat := true } } else s1
  else s

/-- KCOIN and CWIN of the ranging berth that owns port `m`, 0 when none does (Table 9.3). -/
def State.coincidence (s : State) (m : Nat) : Nat × Nat :=
  match s.berths.find? (fun e => e.2.isOpen && e.2.kind == 4 && e.2.params.getD 0 0 % 8 == m) with
  | some e => (bits (e.2.params.getD 5 0) 8 4, bits (e.2.params.getD 5 0) 0 5)
  | none => (0, 0)

/-- The declared neighbours of lane `l` in the active BEACON_PLAN (R258). -/
def State.neighbours (s : State) (l : Nat) : List Nat :=
  match s.activeBody 4 with
  | some b => ((b.drop (1040 + 8 * l)).take 4).map BitVec.toNat |>.filter (fun k => decide (k < 128))
  | none => []

/-- Neighbours of lane `l` that converted a stop of the same shot within the window of a stop at `raw` (R251). -/
def State.coincident (s : State) (l raw win : Nat) : Nat :=
  ((s.neighbours l).filter (fun k =>
    let y := s.lane k
    y.inst == (s.lane l).inst && y.stops.any (fun r => decide (r ≤ raw + win ∧ raw ≤ r + win)))).length

/-- R251: the stops of lane `l` whose window has passed at raw time `t` are binned, or rejected and counted for the lane's port. -/
def State.decideStops (s : State) (l t : Nat) : State :=
  let m := s.rd (ln R.TL_LANE_i_CFG_SRC l)
  let kc := s.coincidence m
  let due := fun (u : Nat × Int) => decide (u.1 + 128 * kc.2 < t)
  let x := s.lane l
  let s1 := s.setLane l { x with undecided := x.undecided.filter (fun u => !due u) }
  (x.undecided.filter due).foldl (fun (t : State) u =>
    if kc.1 ≤ t.coincident l u.1 (128 * kc.2) then t.binInterval l u.2 else t.inc (R.BC_m_COIN_REJ_CNT_COUNT m)) s1

/-- Every undecided stop of lane `l` is decided: no neighbour can convert a stop of its shot any more. -/
def State.decideAll (s : State) (l : Nat) : State :=
  s.decideStops l (((s.lane l).undecided.map Prod.fst).foldl max 0 + 4097)

/-- A value joins a statistics set (R212). -/
def StatSet.take (x : StatSet) (i : Int) : StatSet :=
  { x with n := x.n + 1, sum := x.sum + i, sq := x.sq + (i * i).toNat, lo := if x.n = 0 then i else min x.lo i
           hi := if x.n = 0 then i else max x.hi i }

/-- The statistics see a stop of index STAT_STOP (R212). -/
def State.statStop (s : State) (l idx : Nat) (i : Int) (near : Bool) : State :=
  if s.on (ln R.TL_LANE_i_STATCFG_SEN l) && s.rd (ln R.TL_LANE_i_STATCFG_STAT_STOP l) == idx then
    let x := s.lane l
    if near then s.setLane l { x with stat := { x.stat with near := x.stat.near + 1 } }
    else
      let st := { x.stat.take i with lost := x.stat.lost || s.tallyLost }
      if s.rd (ln R.TL_LANE_i_STATCFG_STAT_N l) ≤ st.n then s.setLane l { x with stat := {}, sets := x.sets ++ [st] }
      else s.setLane l { x with stat := st }
  else s

/-- The dump or the clear of lane `l` begins at instant `t` ns once its measurement has ended; what the lane counts from then on belongs
to the next frame (R217). -/
def State.beginDump (s : State) (l t : Nat) : State :=
  let x := s.lane l
  match x.ending, x.dumping with
  | some (b, dump), none =>
    if x.armed then s
    else
      let s1 := s.decideAll l
      let y := s1.lane l
      (s1.setLane l { y with dumping := some (max b t), done := y.frame
                             frame := { start := b, num := y.frame.num + flag dump, lost := s.tallyLost } }).wr (ln R.TL_LANE_i_STATUS_DUMPING l) 1
  | _, _ => s

/-- The measurement in progress of lane `l` ends at instant `t` (1/256 ns) with the flags CUT (8) or TMO (16): END entry, MISS, and a
dump that waits for it (R201, R205, R212, R217). -/
def State.endMeasurement (s : State) (l t flags : Nat) : State :=
  let x := s.lane l
  if x.armed then
    let s1 := if s.on (ln R.TL_LANE_i_CFG_END_REC l) then s.fifoEntry l t (entryAt t 2 0 flags x.stops.length) else s
    let x1 := s1.lane l
    let missed := s.on (ln R.TL_LANE_i_STATCFG_SEN l) && decide (x.stops.length ≤ s.rd (ln R.TL_LANE_i_STATCFG_STAT_STOP l))
    let x2 : Lane := { x1 with armed := false, stat := { x1.stat with miss := x1.stat.miss + flag missed } }
    ((s1.setLane l x2).wr (ln R.TL_LANE_i_STATUS_ARMED l) 0).beginDump l (ceilDiv t 256)
  else s

/-- The timeout edge of the measurement in progress, raw (R201): the first CK_TLY edge at or after the start plus TMO. -/
def State.timeoutEdge (s : State) (l : Nat) : Nat := ceilDiv ((s.lane l).raw + 256 * s.rd (ln R.TL_LANE_i_TMO_TMO l)) 512 * 512

/-- The end of the lane's gate in ns (R214). -/
def State.gateEnd (s : State) (l : Nat) : Nat := (s.lane l).gate.start + 131072 * s.rd (ln R.TL_LANE_i_FGATE_FGATE l)

/-- R214: the gate of lane `l` ends; its results are written and the next one begins. -/
def State.closeGate (s : State) (l : Nat) : State :=
  let x := s.lane l
  let g := x.gate
  let fin := s.gateEnd l
  let span : Rat := ((g.last : Rat) - g.first) / 256
  let has := decide (2 ≤ g.edges ∧ g.first < g.last)
  let freq := if has then (roundHalf (((g.edges : Rat) - 1) * 1000000000000 / span)).toNat else 0
  let period := if has then (roundHalf (256 * span / ((g.edges : Rat) - 1))).toNat else 0
  let s1 := (((s.wr (ln R.TL_LANE_i_FREQ_FREQ l) freq).wrPair (ln R.TL_LANE_i_PERIOD_LO_PERIOD_LO l) (ln R.TL_LANE_i_PERIOD_HI_PERIOD_HI l) period).wr
    (ln R.TL_LANE_i_FEDGES_E l) g.edges).wr (ln R.TL_LANE_i_STATUS_FREQ_DONE l) 1
  let s2 := if g.edges < 2 then s1.wr (ln R.TL_LANE_i_STATUS_NOFREQ l) 1 else s1
  ((s2.setLane l { x with gate := { start := fin, lost := s.tallyLost } }).fifoEntry l (256 * fin) (entryAt (256 * fin) 3 0 0 freq)).feed 4 l
    (fun k => if k = 4 then some (tallySample freq (256 * fin) g.lost) else none)

/-- R214: the gates of lane `l` that are over when an edge is stamped `t` (1/256 ns) end one after the other. -/
def State.closeGates (s : State) (l t : Nat) : State :=
  (List.range ((t / 256 - (s.lane l).gate.start) / (131072 * s.rd (ln R.TL_LANE_i_FGATE_FGATE l)))).foldl (fun (u : State) _ => u.closeGate l) s

/-- An accepted edge is counted (R213). -/
def State.countEdge (s : State) (l : Nat) : State :=
  s.wrPair (ln R.TL_LANE_i_COUNT_LO_COUNT_LO l) (ln R.TL_LANE_i_COUNT_HI_COUNT_HI l)
    (s.rdPair (ln R.TL_LANE_i_COUNT_LO_COUNT_LO l) (ln R.TL_LANE_i_COUNT_HI_COUNT_HI l) + 1)

/-- R203 to R215: a stop of the measurement in progress, converted at `raw`. -/
def State.takeStop (s : State) (l raw : Nat) (near : Bool) : State :=
  let x := s.lane l
  let idx := x.stops.length
  let i := (raw : Int) - s.laneDelay l - x.inst
  let order := decide (i < 0)
  let s1 := if near then s.wr (ln R.TL_LANE_i_STATUS_NEAR l) 1 else s
  let s2 := if order then s1.wr (ln R.TL_LANE_i_STATUS_ORDER l) 1 else s1
  let a := s2.alertStop l idx i
  let s3 := a.1.fifoEntry l raw (entryAt (s.laneStamp l raw) 0 idx (flag near + 2 * flag order + 32 * flag a.2) (ofSigned 32 i))
  let x3 := s3.lane l
  let s4 := (s3.setLane l { x3 with stops := x3.stops ++ [raw] }).statStop l idx i near
  let x4 := s4.lane l
  let chosen := s.on (ln R.TL_LANE_i_HCFG_HALL l) || s.rd (ln R.TL_LANE_i_HCFG_HSTOP l) == idx
  let ranging := s.rd (ln R.TL_LANE_i_CFG_OWNER l) == 2 && (s.coincidence (s.rd (ln R.TL_LANE_i_CFG_SRC l))).1 != 0
  let s5 := if near then s4.setLane l { x4 with frame := { x4.frame with near := x4.frame.near + 1 } }
    else if !chosen then s4
    else if ranging then s4.setLane l { x4 with undecided := x4.undecided ++ [(raw, i)] }
    else s4.binInterval l i
  if s.rd (ln R.TL_LANE_i_CFG_MAXSTOP l) ≤ idx then s5.endMeasurement l (s.laneStamp l raw) 0 else s5

/-- A code-density hit of lane `l` (R422). -/
def State.codeHit (s : State) (l : Nat) : State :=
  if s.on R.CL_CFG_TL_AUTO then s.wr (R.CL_TL_l_HITS_HITS l) (min (s.rd (R.CL_TL_l_HITS_HITS l) + 1) (2 ^ 20)) else s

/-- A stop at interval `i` counts as a hit when it is not NEAR and lies in the ambient window (R422). -/
def State.ambientHit (s : State) (l : Nat) (i : Int) (near : Bool) : State :=
  if !near ∧ toSigned 32 (s.rd (R.CL_TL_l_AMB_LO_LO l)) ≤ i ∧ i ≤ toSigned 32 (s.rd (R.CL_TL_l_AMB_HI_HI l)) then s.codeHit l else s

/-- The ambient window of lane `l` becomes the span of a berth's dark or background bins (R422). -/
def State.ambientBins (s : State) (l k : Nat) (hofs : Int) (first count : Nat) : State :=
  let at_ := fun (b : Nat) => 256 * hofs + ((b * 2 ^ k : Nat) : Int)
  (s.wr (R.CL_TL_l_AMB_LO_LO l) (ofSigned 32 (at_ first))).wr (R.CL_TL_l_AMB_HI_HI l) (ofSigned 32 (at_ (first + count) - 1))

/-- R202: a stop that belongs to no measurement. -/
def State.orphan (s : State) (l : Nat) : State := (s.inc (ln R.TL_LANE_i_ORPHAN_CNT_COUNT l)).wr (ln R.TL_LANE_i_STATUS_ORPHAN l) 1

/-- The instant of the latest start of lane `l`'s source (Table 8.3, R200), 0 where it has given none. -/
def State.startInstant (s : State) (l : Nat) : Nat :=
  let src := s.rd (ln R.TL_LANE_i_CFG_SRC l)
  let sel := s.rd (ln R.TL_LANE_i_CFG_START_SEL l)
  if sel = 1 then (Tab.get {} s.quays src).lgtEdge
  else if sel = 2 then
    let p := Tab.get {} s.ports src
    if p.group.contains l then p.shot else 0
  else if sel = 3 then match (s.lane (l / 16 * 16 + src)).conv with
    | some r => s.laneStamp (l / 16 * 16 + src) r
    | none => 0
  else if sel = 4 then 256 * (s.now / 131072 * 131072)
  else 0

/-- The configuration of lane `l` changes at boundary `b` (R230): its measurement ends with CUT, its statistics and its gate restart. -/
def State.restartLane (s : State) (l b : Nat) : State :=
  let s1 := s.endMeasurement l (256 * b) 8
  s1.setLane l { (s1.lane l) with stat := {}, gate := { start := b, lost := s.tallyLost } }

/-- A frame of an owned lane, or a clear of a free one, ends at boundary `b` (R217, R219). -/
def State.endFrame (s : State) (l b : Nat) (dump : Bool) : State :=
  let x := s.lane l
  if x.ending.isSome then s else (s.setLane l { x with ending := some (b, dump) }).beginDump l b

/-- A changed word lands in register `reg` of lane `l` (R230): reserved encodings are discarded for their fields (R8). -/
def State.putLaneReg (s : State) (l reg v : Nat) : State :=
  let f := fun (g : Nat → Nat → Fld) (lo : Nat) (ok : Nat → Bool) (t : State) =>
    let x := bits v lo (ln g l).width
    if ok x then t.wr (ln g l) x else t
  let any := fun _ => true
  match reg with
  | 0 => f R.TL_LANE_i_CFG_MODE 0 any (f R.TL_LANE_i_CFG_CLASS 3 any (f R.TL_LANE_i_CFG_SLOPE 4 any (f R.TL_LANE_i_CFG_INMODE 5 any
      (f R.TL_LANE_i_CFG_TERM 6 any (f R.TL_LANE_i_CFG_HYST 7 any (f R.TL_LANE_i_CFG_START_SEL 8 (fun x => decide (x < 5))
      (f R.TL_LANE_i_CFG_SRC 12 any (f R.TL_LANE_i_CFG_MAXSTOP 16 any (f R.TL_LANE_i_CFG_FIFO_EN 22 any
      (f R.TL_LANE_i_CFG_START_REC 23 any (f R.TL_LANE_i_CFG_END_REC 24 any s)))))))))))
  | 1 => f R.TL_LANE_i_TMO_TMO 0 (fun x => decide (16 ≤ x ∧ x ≤ 1048576)) s
  | 2 => f R.TL_LANE_i_HCFG_K 0 (fun x => decide (4 ≤ x ∧ x ≤ 16)) (f R.TL_LANE_i_HCFG_HSTOP 8 any (f R.TL_LANE_i_HCFG_HALL 12 any
      (f R.TL_LANE_i_HCFG_HEN 31 any s)))
  | 3 => f R.TL_LANE_i_HOFS_HOFS 0 any s
  | 4 => f R.TL_LANE_i_STATCFG_STAT_N 0 (fun x => decide (1 ≤ x)) (f R.TL_LANE_i_STATCFG_STAT_STOP 16 any (f R.TL_LANE_i_STATCFG_SEN 31 any s))
  | _ => f R.TL_LANE_i_FGATE_FGATE 0 (fun x => decide (1 ≤ x)) s

/-- A lane's configuration keeps R199: class H with MODE 2 takes START_SEL 3 or 4, class T does not take MODE 3. -/
def State.laneCfgOk (s : State) (l : Nat) : Bool :=
  let m := s.rd (ln R.TL_LANE_i_CFG_MODE l)
  let c := s.rd (ln R.TL_LANE_i_CFG_CLASS l)
  let x := s.rd (ln R.TL_LANE_i_CFG_START_SEL l)
  !(c == 1 && m == 2 && x != 3 && x != 4) && !(c == 0 && m == 3)

/-- PENDING of lane `l` reads 1 while a configuration write waits (R230). -/
def State.lanePending (s : State) (l : Nat) : State :=
  s.wrB (ln R.TL_LANE_i_STATUS_PENDING l) (s.waits (fun c => match c with | .laneCfg k _ _ => k == l | _ => false))

/-- R199, R230 at boundary `b`: a configuration that breaks R199, or finds the lane owned by then, is discarded. -/
def State.landLaneCfg (s : State) (l reg v b : Nat) : State :=
  if s.rd (ln R.TL_LANE_i_CFG_OWNER l) ≠ 0 then s.wr (R.TL_BANK_STATUS_WR_OWNED (l / 16)) 1
  else if (s.putLaneReg l reg v).laneCfgOk l then (s.restartLane l b).putLaneReg l reg v
  else s

/-- R219 at boundary `b`. -/
def State.landHistClear (s : State) (l b : Nat) : State :=
  if s.rd (ln R.TL_LANE_i_CFG_OWNER l) ≠ 0 then s.wr (R.TL_BANK_STATUS_WR_OWNED (l / 16)) 1 else s.endFrame l b false

/-- The counts of a lane's histogram that are not 0, by bin. -/
def State.histCounts (s : State) (l : Nat) : Tab Nat :=
  (List.range 8192).filterMap (fun b => let c := s.histBin l b; if c = 0 then none else some (b, c))

/-- Clears the histogram of lane `l`: whole words are written, so parity is fresh (R340). -/
def State.clearHist (s : State) (l : Nat) : State :=
  { s with shed := Tab.clear s.shed (histBase l) (histBase l + 24576)
           shedBad := Tab.clear s.shedBad (histBase l / 4) (histBase l / 4 + 6144) }

/-- Lane `l` becomes owned by a berth at boundary `b`, its first frame begins there, and its histogram is empty (R223, R250). -/
def State.ownLane (s : State) (l b owner sel src tmo k hofs hframe : Nat) : State :=
  let s1 := (s.restartLane l b).clearHist l
  let x := s1.lane l
  let s2 := s1.setLane l { x with frame := { start := b, lost := s.tallyLost }, ending := none, dumping := none, undecided := [] }
  let s3 := (((((s2.wr (ln R.TL_LANE_i_CFG_OWNER l) owner).wr (ln R.TL_LANE_i_CFG_MODE l) 2).wr (ln R.TL_LANE_i_CFG_START_SEL l) sel).wr
    (ln R.TL_LANE_i_CFG_SRC l) src).wr (ln R.TL_LANE_i_CFG_MAXSTOP l) 15).wr (ln R.TL_LANE_i_TMO_TMO l) tmo
  let s4 := ((((s3.wr (ln R.TL_LANE_i_HCFG_HEN l) 1).wr (ln R.TL_LANE_i_HCFG_HALL l) 1).wr (ln R.TL_LANE_i_HCFG_K l) k).wr
    (ln R.TL_LANE_i_HOFS_HOFS l) hofs).wr (ln R.TL_LANE_i_HFRAME_HFRAME l) hframe
  s4.wr (ln R.TL_LANE_i_STATUS_DUMPING l) 0

/-- Lane `l` becomes free at boundary `b`: OWNER = 0 and MODE = 0 (R223, R250). -/
def State.freeLane (s : State) (l b : Nat) : State :=
  let s1 := s.restartLane l b
  let s2 := s1.setLane l { (s1.lane l) with ending := none, dumping := none, undecided := [], frame := {} }
  (((s2.wr (ln R.TL_LANE_i_CFG_OWNER l) 0).wr (ln R.TL_LANE_i_CFG_MODE l) 0).wr (ln R.TL_LANE_i_HFRAME_HFRAME l) 0).wr
    (ln R.TL_LANE_i_STATUS_DUMPING l) 0

/-- The frames of the owned lanes that end at boundary `b` (R217, R218). -/
def State.lanesAt (s : State) (b : Nat) : State :=
  (s.lanes.map Prod.fst).foldl (fun (t : State) l =>
    let h := t.rd (ln R.TL_LANE_i_HFRAME_HFRAME l)
    if t.rd (ln R.TL_LANE_i_CFG_OWNER l) ≠ 0 ∧ h ≠ 0 ∧ (t.lane l).frame.start + (t.lane l).frame.skip + 131072 * h ≤ b then t.endFrame l b true else t) s

/-- R23: the core PLL loses lock, and what the lanes gather meanwhile is lost. -/
def State.loseTally (s : State) : State :=
  { s with lanes := s.lanes.map (fun e => (e.1, { e.2 with
      stat := { e.2.stat with lost := true }, gate := { e.2.gate with lost := true }, frame := { e.2.frame with lost := true } })) }

/-- A dumped frame's header (Table 8.8). -/
def frameHeader (f : HistFrame) (b handle l tag k : Nat) : List Byte :=
  leBytes 8 f.start ++ leBytes 8 b ++ leBytes 8 f.num ++ leBytes 4 handle ++ leBytes 1 l ++ leBytes 1 tag ++ leBytes 1 k ++ leBytes 1 0 ++
  leBytes 4 f.starts ++ leBytes 4 f.skips ++ leBytes 4 f.under ++ leBytes 4 f.beyond ++ leBytes 4 f.near ++ leBytes 4 f.dead ++ leBytes 8 0

end Sys2Proof.Machine
end

