-- ==== Sys2Proof/Machine/Tally.lean ====
section
/-! DEFINITION. Chapter 08: the events of the tally lanes, and Raman trace berths. -/

namespace Sys2Proof.Machine

/-- R195 to R216: an edge reaches the lane. It is ignored while the bank's trims are not valid, counted as a bounce within the hold-off,
counted dead while the converter is busy, and otherwise accepted and filed as the mode says; the first stop within 1.2 ns of a
start is converted at its end with NEAR. -/
def execTallyEdge (lane : Fin 128) (raw : Nat) (s0 : State) : Res := s0.live fun s0 =>
  let l := lane.val
  if ¬ s0.on (R.TL_BANK_STATUS_CAL_VALID (l / 16)) ∨ ¬ s0.inTide (raw / 256) then goOn s0
  else
    let mode := s0.rd (ln R.TL_LANE_i_CFG_MODE l)
    let s1 := (s0.advance (raw / 256)).decideStops l raw
    let s := if mode = 2 ∧ (s1.lane l).armed ∧ s1.timeoutEdge l < raw then s1.endMeasurement l (s1.timeoutEdge l) 16
      else if mode = 3 ∧ 256 * s1.gateEnd l ≤ s1.laneStamp l raw then s1.closeGates l (s1.laneStamp l raw) else s1
    let x := s.lane l
    let held := s.rd (ln R.TL_LANE_i_CFG_CLASS l) == 1 && (match x.acc with
      | some a => decide (raw < a + 256000 * s.rd (ln R.TL_LANE_i_HOLDOFF_HOLDOFF l))
      | none => false)
    let near := mode == 2 && x.armed && x.stops.isEmpty && x.conv == some x.raw && decide (raw ≤ x.raw + deadCodes)
    let busy := mode != 0 && !near && (match x.conv with
      | some c => decide (raw ≤ c + deadCodes)
      | none => false)
    if held then goOn (s.inc (ln R.TL_LANE_i_BOUNCE_CNT_COUNT l))
    else if busy then
      goOn ((s.inc (ln R.TL_LANE_i_DEAD_CNT_COUNT l)).setLane l { x with frame := { x.frame with dead := x.frame.dead + 1 } })
    else
      let at_ := if near then x.raw + deadCodes else raw
      let s2 := (s.setLane l { x with acc := some raw, conv := if mode = 0 then x.conv else some at_ }).countEdge l
      let x2 := s2.lane l
      let stamp := s.laneStamp l at_
      if mode = 0 then goOn s2
      else if mode = 1 then
        goOn ((s2.codeHit l).fifoEntry l at_ (entryAt stamp 4 0 0 (s2.rd (ln R.TL_LANE_i_COUNT_LO_COUNT_LO l))))
      else if mode = 2 then goOn (if x.armed then (s2.ambientHit l ((at_ : Int) - s2.laneDelay l - x.inst) near).takeStop l at_ near else (s2.codeHit l).orphan l)
      else
        let g := x2.gate
        if stamp < 256 * g.start then goOn (s2.codeHit l)
        else goOn ((s2.codeHit l).setLane l { x2 with gate := { g with edges := g.edges + 1, first := if g.edges = 0 then stamp else g.first, last := stamp } })

/-- R200, R201, R217: the start of the lane's source arrives, once for each instant its source gives, and occupies the converter. It ends
the measurement in progress with CUT and arms a new one; from the end of a frame until the dump ends it is skipped, and the next
frame counts it. -/
def execTallyStart (lane : Fin 128) (raw : Nat) (s0 : State) : Res := s0.live fun s0 =>
  let l := lane.val
  let t := s0.startInstant l
  if s0.on (R.TL_BANK_STATUS_CAL_VALID (l / 16)) ∧ s0.rd (ln R.TL_LANE_i_CFG_MODE l) = 2 ∧ (s0.lane l).inst < t ∧ s0.inTide (raw / 256) then
    let s1 := s0.advance (raw / 256)
    let late := (s1.lane l).armed && decide (s1.timeoutEdge l < raw)
    let ended := (s1.lane l).ending.isSome || (s1.lane l).dumping.isSome
    let s2 := if late then s1.endMeasurement l (s1.timeoutEdge l) 16 else s1.endMeasurement l t 8
    let s := s2.decideAll l
    let x := s.lane l
    if ended then
      goOn ((s.inc (ln R.TL_LANE_i_SKIP_CNT_COUNT l)).setLane l { x with conv := some raw, inst := t, frame := { x.frame with skips := x.frame.skips + 1 } })
    else
      let n := s.rdPair (ln R.TL_LANE_i_MEAS_LO_MEAS_LO l) (ln R.TL_LANE_i_MEAS_HI_MEAS_HI l) + 1
      let s3 := s.setLane l { x with armed := true, raw := raw, inst := t, conv := some raw, stops := []
                                     frame := { x.frame with starts := x.frame.starts + 1 } }
      let s4 := (s3.wr (ln R.TL_LANE_i_STATUS_ARMED l) 1).wrPair (ln R.TL_LANE_i_MEAS_LO_MEAS_LO l) (ln R.TL_LANE_i_MEAS_HI_MEAS_HI l) n
      goOn (if s.on (ln R.TL_LANE_i_CFG_START_REC l) then s4.fifoEntry l raw (entryAt t 1 0 0 n) else s4)
  else goOn s0

/-- R201: the timeout edge passes; the measurement ends with TMO. -/
def execTallyTimeout (lane : Fin 128) (s : State) : Res := s.live fun s =>
  let l := lane.val
  let t := s.timeoutEdge l
  if (s.lane l).armed ∧ s.inTide (t / 256) then goOn ((s.advance (t / 256)).endMeasurement l t 16) else goOn s

/-- The four words of an entry (Table 8.5, R208). -/
def entryWords (e : TallyEntry) : List Nat :=
  [low 32 e.time, low 32 (e.time / 2 ^ 32), e.frac + 256 * e.lane + 65536 * (e.type + 16 * e.idx) + 16777216 * e.flags, e.value]

/-- Loads the read shadow of bank `n` (R208). -/
def State.fifoShadow (s : State) (n : Nat) (ws : List Nat) : State :=
  ws.zipIdx.foldl (fun t e => t.wr (R.TL_FIFO_w_DATA n e.2) e.1) s

/-- R208: the head entry moves into the read shadow and its bytes 0 to 3 are returned; an empty FIFO gives an entry of TYPE 15 and
returns 0. -/
def State.popFifo (s : State) (n : Nat) : State × Nat :=
  match Tab.get [] s.fifos n with
  | [] => (s.fifoShadow n [0, 0, 15 * 65536, 0], 0)
  | e :: q =>
    ((({ s with fifos := Tab.put [] s.fifos n q }).wr (R.TL_BANK_STATUS_FIFO_LVL n) q.length).fifoShadow n (entryWords e), (entryWords e).headD 0)

/-- R208, R31. -/
def execTallyFifoPop (bank : Fin 8) (s : State) : Res := s.live fun s =>
  if s.powered (bankDomain bank) then
    let r := s.popFifo bank
    goOn (r.1.answer .ok [r.2])
  else goOn ((s.lockAnswer (bankDomain bank)).answer .ok [0])

/-- Population deviation in 1/256 LSB, rounded to nearest (R212): sqrt(N Σx² − (Σx)²) / N. -/
def StatSet.sd (x : StatSet) : Nat :=
  let d := ((x.n * x.sq : Nat) - x.sum * x.sum).toNat
  (natRoot (512 * 512 * d) + x.n) / (2 * x.n)

/-- R212: the oldest complete set is written at once. -/
def execStatSetComplete (lane : Fin 128) (s : State) : Res := s.live fun s =>
  let l := lane.val
  let x := s.lane l
  match x.sets with
  | [] => goOn s
  | st :: rest =>
    let mean := ofSigned 40 (roundHalf (256 * (st.sum : Rat) / (st.n : Rat)))
    let s1 := ((s.wr (ln R.TL_LANE_i_MEAN_LO_MEAN_LO l) mean).wr (ln R.TL_LANE_i_MEAN_HI_MEAN_HI l) (mean / 2 ^ 32)).wr (ln R.TL_LANE_i_SD_SD l)
      (min st.sd (2 ^ 32 - 1))
    let s2 := ((s1.wr (ln R.TL_LANE_i_MIN_MIN l) (ofSigned 32 st.lo)).wr (ln R.TL_LANE_i_MAX_MAX l) (ofSigned 32 st.hi)).wr
      (ln R.TL_LANE_i_STAT_MISC_NEAR l) (min st.near 65535)
    let s3 := ((s2.wr (ln R.TL_LANE_i_STAT_MISC_MISS l) (min st.miss 65535)).wr (ln R.TL_LANE_i_STAT_SEQ_SEQ l)
      (s.rd (ln R.TL_LANE_i_STAT_SEQ_SEQ l) + 1)).wr (ln R.TL_LANE_i_STATUS_STAT_DONE l) 1
    let res := fun (k : Nat) =>
      if k = 0 then some (roundHalf ((toSigned 40 mean : Rat) / 256)) else if k = 1 then some (roundHalf ((st.sd : Rat) / 256))
      else if k = 2 then some st.lo else if k = 3 then some st.hi else none
    goOn ((s3.setLane l { x with sets := rest }).feed 4 l (fun k => (res k).map (fun v => tallySample v (256 * s.now) st.lost)))

/-- R214: the gate ends at its boundary. -/
def execFreqGateEnd (lane : Fin 128) (s : State) : Res := s.live fun s =>
  if s.rd (ln R.TL_LANE_i_CFG_MODE lane) = 3 ∧ s.gateEnd lane ≤ s.now then goOn (s.closeGate lane)
  else goOn s

/-- R219: CLEAR waits to land; on an owned lane it is discarded with WR_OWNED (R230). -/
def execHistogramClearWrite (lane : Fin 128) (s : State) : Res := s.live fun s =>
  s.blockWrite (bankDomain (lane / 16)) false (.histogramClearWrite lane) fun s =>
    if s.rd (ln R.TL_LANE_i_CFG_OWNER lane) ≠ 0 then goOn (s.wr (R.TL_BANK_STATUS_WR_OWNED (lane / 16)) 1)
    else goOn (s.accept (.histClear lane))

/-- R230: the write waits to land and PENDING reads 1; on an owned lane it is discarded with WR_OWNED. -/
def execLaneCfgWrite (lane : Fin 128) (reg : Fin 6) (value : Word) (s : State) : Res := s.live fun s =>
  s.blockWrite (bankDomain (lane / 16)) false (.laneCfgWrite lane reg value) fun s =>
    if s.rd (ln R.TL_LANE_i_CFG_OWNER lane) ≠ 0 then goOn (s.wr (R.TL_BANK_STATUS_WR_OWNED (lane / 16)) 1)
    else goOn ((s.accept (.laneCfg lane reg value.toNat)).lanePending lane)

/-- The Raman entry of quay `q` in the active TALLY_PLAN (Table 8.9). -/
structure RamanEntry where
  en : Bool := false
  asLane : Nat := 0
  sLane : Nat := 0
  k : Nat := 4
  hofs : Nat := 0
  hframe : Nat := 1
  log2fr : Nat := 2
  tug : Nat := 0
  ng : Nat := 0
  zero : Int := 0
  tmo : Nat := 0
  period : Nat := 0
  width : Nat := 0
  deriving DecidableEq, Repr

/-- Reads a Raman entry of a TALLY_PLAN body (R229, Table 8.9). -/
def ramanEntry (b : List Byte) (q : Nat) : RamanEntry :=
  let g := fun o n => bodyNat b (4096 + 32 * q + o) n
  { en := g 0 1 == 1, asLane := g 1 1, sLane := g 2 1, k := g 3 1, hofs := g 4 4, hframe := g 8 2, log2fr := g 10 1, tug := g 11 1, ng := g 12 4
    zero := toSigned 32 (g 16 4), tmo := g 20 4, period := g 24 4, width := g 28 2 }

/-- The Raman entry of a quay under the active manifest. -/
def State.ramanOf (s : State) (q : Nat) : RamanEntry := match s.activeBody 2 with
  | some b => ramanEntry b q
  | none => {}

/-- A Raman trace berth's parameter words (Table 8.10). -/
structure RamanParams where
  expert : Bool
  quay : Nat
  frames : Nat
  nbins : Nat
  first : Nat
  refCount : Nat
  refFirst : Nat
  tHandle : Nat
  gamma : Nat
  dalpha : Int
  darkCount : Nat
  darkFirst : Nat
  staleS : Nat
  outRecs : Nat
  cluster : Nat
  deriving DecidableEq, Repr

/-- Reads the words of Table 8.10. -/
def ramanParams (w : List Nat) : RamanParams :=
  let x := fun i => w.getD i 0
  { expert := bit (x 0) 8, quay := bits (x 0) 0 3, frames := bits (x 1) 0 16, nbins := bits (x 2) 16 16, first := bits (x 2) 0 16
    refCount := bits (x 3) 16 16, refFirst := bits (x 3) 0 16, tHandle := x 4, gamma := x 5, dalpha := toSigned 32 (x 6)
    darkCount := bits (x 7) 16 16, darkFirst := bits (x 7) 0 16, staleS := bits (x 8) 0 16, outRecs := bits (x 9) 0 17, cluster := bits (x 10) 0 4 }

/-- Bytes of a trace record (R226). -/
def RamanParams.recb (p : RamanParams) : Nat := ceilDiv (64 + 4 * p.nbins) 64 * 64

/-- Condition 1 of Table 8.11: fields, reserved bits, bin ranges, and a handle that could have been issued (R10). -/
def ramanFieldsOk (w : List Nat) (p : RamanParams) : Bool :=
  onlyBits (w.getD 0 0) [(16, 8), (8, 1), (0, 3)] && onlyBits (w.getD 1 0) [(0, 16)] && onlyBits (w.getD 8 0) [(0, 16)] &&
  onlyBits (w.getD 9 0) [(0, 17)] && onlyBits (w.getD 10 0) [(0, 4)] && decide (1 ≤ p.frames) && decide (p.first + p.nbins ≤ 8192) &&
  decide (1 ≤ p.refCount ∧ p.refCount ≤ 256 ∧ p.refFirst + p.refCount ≤ 8192) &&
  decide (1 ≤ p.darkCount ∧ p.darkCount ≤ 1024 ∧ p.darkFirst + p.darkCount ≤ 8192) && decide (1 ≤ p.staleS ∧ p.staleS ≤ 3600) &&
  isPow2 p.outRecs && decide (4 ≤ p.outRecs ∧ p.outRecs ≤ 4096) && decide (p.cluster ≤ 3 ∨ p.cluster = 15) && !neverIssued p.tHandle

/-- The cost vector of Table 8.13, each entry rounded up. -/
def ramanCost (p : RamanParams) (e : RamanEntry) (cluster : Nat) : List Nat :=
  let fh := p.frames * e.hframe
  costVec [(5 + e.tug, ceilDiv 3080 e.hframe), (1 + cluster, ceilDiv (65536 * p.frames + 200 * p.nbins + 100000) fh),
    (13, ceilDiv ((98560 * p.frames + p.recb) * 10) (256 * fh)), (14, ceilDiv (p.recb * 10) (256 * fh))]

/-- The verdict on a berth.open of kind 3 (Table 8.11). -/
def State.judgeRaman (s : State) (w0 : List Nat) : Verdict :=
  let r := s.withProfile 3 w0 [1, 2, 3, 5, 6, 7]
  let p := ramanParams r.1
  let e := s.ramanOf p.quay
  let cl := if p.cluster < 4 then p.cluster else s.roomiestCluster
  let c := s.inputConds p.tHandle givesMilliKelvin
  let cost := ramanCost p e cl
  let declared := declaredCost r.1 11
  let mem := 8 * 8192 + 4 * p.nbins
  let fr := 24640 * 2 ^ e.log2fr
  s.withBudget (judge
    ([(r.2 || !ramanFieldsOk r.1 p, stRange), (!e.en, stRange),
      (s.willBe.any (fun x => x.2.kind == 3 && bits (x.2.params.getD 0 0) 0 3 == p.quay), stBusy), c.1] ++ c.2 ++
     [(!s.ringsFit [(2, fr), (2, fr), (2, p.recb * p.outRecs)] || decide (s.memGrant cl < s.memLater cl + mem), stRange),
      (p.expert && declaredBelow declared cost, stRange)])
    { params := r.1, cost := if p.expert then declared else cost, inputs := [p.tHandle]
      domains := [quayDomain p.quay, bankDomain (e.asLane / 16), 17 + cl], slot := p.quay, mem := (cl, mem)
      rings := [(2, fr), (2, fr), (2, p.recb * p.outRecs)] })

/-- R223, R422 at the landing boundary `b`: LGATE_T of the quay and both lanes. -/
def State.landRaman (s : State) (i b : Nat) : State :=
  let t := s.berth i
  let rings := t.keep
  let p := ramanParams t.params
  let e := s.ramanOf p.quay
  let s1 := ((s.wr (R.QY_LGT_PERIOD_PERIOD p.quay) e.period).wr (R.QY_LGT_CFG_WIDTH p.quay) e.width).wr (R.QY_LGT_CFG_EN p.quay) 1
  let own := fun (u : State) l => (u.ownLane l b 1 1 p.quay e.tmo e.k e.hofs e.hframe).ambientBins l e.k e.hofs p.darkFirst p.darkCount
  { (own (own (s1.landLgtEn p.quay b true) e.asLane) e.sLane) with
    raman := Tab.put {} s.raman i { asRing := rings.getD 0 0, sRing := rings.getD 1 0, ring := rings.getD 2 0, acc := { start := b } } }

/-- R223 at the boundary at which the close lands. -/
def State.closeRaman (s : State) (i b : Nat) : State :=
  let p := ramanParams (s.berth i).params
  let e := s.ramanOf p.quay
  let s1 := (s.wr (R.QY_LGT_CFG_EN p.quay) 0).landLgtEn p.quay b false
  { ((s1.freeLane e.asLane b).freeLane e.sLane b) with raman := Tab.put {} s.raman i {}, traces := Tab.put [] s.traces i [] }

/-- Adds counts bin by bin. -/
def addCounts (a b : Tab Nat) : Tab Nat := b.foldl (fun t e => Tab.put 0 t e.1 (Tab.get 0 t e.1 + e.2)) a

/-- A frame pair of a trace (R224): it is used unless a header carries LOST; the trace is complete with its last frame. -/
def Raman.pair (x : Raman) (frames : Nat) (a s : DumpedFrame) : Raman :=
  let t := x.acc
  let lost := hasTag a.tag tagLost || hasTag s.tag tagLost
  let full := (a.counts ++ s.counts).filter (fun e => decide (2 ^ 24 - 1 ≤ e.2))
  let t1 : TraceAcc := { t with
    start := if t.seen = 0 then a.start else t.start, seen := t.seen + 1
    used := if lost then t.used else t.used + 1
    tags := t.tags ||| (a.tag ||| s.tag) &&& (255 - tagLost)
    a := if lost then t.a else addCounts t.a a.counts, s := if lost then t.s else addCounts t.s s.counts
    sat := if lost then t.sat else full.foldl (fun u e => Tab.put false u e.1 true) t.sat }
  if frames ≤ t1.seen then { x with half := none, acc := {}, ready := x.ready ++ [t1] } else { x with half := none, acc := t1 }

/-- A dumped frame reaches its Raman trace berth. -/
def State.ramanFrame (s : State) (i : Nat) (f : DumpedFrame) : State :=
  let x := Tab.get {} s.raman i
  let p := ramanParams (s.berth i).params
  let as_ := (s.ramanOf p.quay).asLane
  let put := fun (y : Raman) => { s with raman := Tab.put {} s.raman i y }
  match x.half with
  | some g => if g.num = f.num ∧ g.lane ≠ f.lane then put (if f.lane = as_ then x.pair p.frames f g else x.pair p.frames g f)
    else put { x with half := some f }
  | none => put { x with half := some f }

/-- The open berth that owns lane `l` and the dump ring of that lane: its index, the ring and its slots. -/
def State.frameOwner (s : State) (l : Nat) : Option (Nat × Nat × Nat) :=
  s.berths.findSome? (fun e =>
    if !e.2.isOpen then none
    else if e.2.kind = 3 then
      let r := s.ramanOf (bits (e.2.params.getD 0 0) 0 3)
      let x := Tab.get {} s.raman e.1
      if l = r.asLane then some (e.1, x.asRing, 2 ^ r.log2fr) else if l = r.sLane then some (e.1, x.sRing, 2 ^ r.log2fr) else none
    else if e.2.kind = 4 then ((Tab.get {} s.ranging e.1).rings.find? (fun r => r.1 == l)).map (fun r => (e.1, r.2, 4))
    else none)

/-- The dump Tug of bank `n` for a Raman trace or ranging berth (Table 8.9, R250); a ranging berth keeps one for each bank behind its rings. -/
def State.dumpTug (s : State) (b : Berth) (n : Nat) : Nat :=
  if b.kind = 3 then (s.ramanOf (bits (b.params.getD 0 0) 0 3)).tug else (b.keep.drop (b.keep.length - 8)).getD n 0

/-- A frame is dumped: its slot is written and its owner takes it (R218). The dump is work of the dump Tug; it is written and read again
in Warehouse class 0, and summed in the berth's cluster (R48; Tables 8.13 and 9.7a). -/
def State.dumpFrame (s : State) (l b : Nat) (ok : Bool) : State :=
  let h := (s.lane l).done
  match s.frameOwner l with
  | none => s
  | some (i, ring, slots) =>
    let w1 := s.spend (5 + s.dumpTug (s.berth i) (l / 16)) i 1540
    let w2 := w1.1.spend 13 i 1925
    let tag := tagIf (!ok || h.lost) tagLost ||| tagIf h.sat tagOvr ||| w1.2 ||| w2.2
    let f : DumpedFrame := { num := h.num, lane := l, start := h.start, tag := tag, counts := s.histCounts l }
    let s1 := if ok then w2.1 else w2.1.wr (R.TL_BANK_STATUS_DUMP_ERR (l / 16)) 1
    let bytes := frameHeader h b (s.berth i).handle l tag (s.rd (ln R.TL_LANE_i_HCFG_K l)) ++ s.shedBytes (histBase l) 24576
    let s2 := s1.whStore {} (ring + 24640 * (h.num % slots)) bytes
    if (s.berth i).kind = 3 then (s2.chargeTo (1 + (s.berth i).mem.1) i 32768).ramanFrame i f
    else
      let r := Tab.get {} s2.ranging i
      { (s2.chargeTo (1 + (s.berth i).mem.1) i 30000) with ranging := Tab.put {} s2.ranging i { r with frames := r.frames ++ [f] } }

/-- R217 to R219: the dump or clear of the lane ends 16,384 ns after it began: the frame is delivered, the histogram is clear, starts
are armed again, and the skipped starts count in the next frame. -/
def execHistogramDumpDone (lane : Fin 128) (ok : Bool) (s : State) : Res := s.live fun s =>
  let l := lane.val
  let x := s.lane l
  match x.ending, x.dumping with
  | some (b, dump), some t =>
    if s.inTide (t + 16384) then
      let s1 := s.advance (t + 16384)
      let s2 := ((if dump then s1.dumpFrame l b ok else s1).clearHist l).wr (ln R.TL_LANE_i_STATUS_DUMPING l) 0
      goOn (s2.setLane l { (s2.lane l) with ending := none, dumping := none })
    else goOn s
  | _, _ => goOn s

/-- The mean of the counts of bins `a` to `a + n - 1`. -/
def meanBins (t : Tab Nat) (a n : Nat) : Rat := (((List.range n).map (fun i => Tab.get 0 t (a + i))).sum : Rat) / (n : Rat)

/-- R224 to R226: the next complete trace is formed and its record written. -/
def State.traceRecord (s0 : State) (i : Nat) (x : Raman) (t : TraceAcc) (rest : List TraceAcc) : State :=
  let b := s0.berth i
  let p := ramanParams b.params
  let w1 := s0.spend (1 + b.mem.1) i (200 * p.nbins + 100000)
  let w2 := w1.1.spend 14 i (ceilDiv (p.recb * 10) 256)
  let s := w2.1
  let late := w1.2 ||| w2.2
  let e := s.ramanOf p.quay
  let dur := p.frames * e.hframe * 131072
  let ad := meanBins t.a p.darkFirst p.darkCount
  let sd := meanBins t.s p.darkFirst p.darkCount
  let a' := fun k => ((Tab.get (0 : Nat) t.a k : Nat) : Rat) - ad
  let s' := fun k => ((Tab.get (0 : Nat) t.s k : Nat) : Rat) - sd
  let refs := (List.range p.refCount).map (fun k => p.refFirst + k)
  let ra := (refs.map a').foldl (· + ·) 0
  let rs := (refs.map s').foldl (· + ·) 0
  let r := ra / rs
  let z := fun (k : Nat) => (299792458 / 1000000000 : Rat) / (2 * ((e.ng : Rat) / 2 ^ 22)) *
    ((e.hofs : Rat) + ((k : Rat) + 1 / 2) * 2 ^ e.k / 256 - (e.zero : Rat) / 256)
  let zref := meanRat (refs.map z)
  let tref := takeInput false (Tab.get [] s.samples (bits p.tHandle 0 12)) (t.start * 2 ^ 38) ((t.start + dur) * 2 ^ 38) p.staleS
  let lost := t.used == 0 || hasTag late tagLost || decide (ra ≤ 0 ∨ rs ≤ 0) || tref.isNone
  let tr := (tref.map Taken.value).getD 0
  let bin := fun (k : Nat) =>
    let a := a' k
    let q := s' k
    let inv := 1 / tr - (lnRat (a / q) - lnRat r + (p.dalpha : Rat) / 1000000000 * (z k - zref)) / (p.gamma : Rat)
    let v := roundHalf (1 / inv)
    let bad := lost || decide (a ≤ 0 ∨ q ≤ 0) || decide (v < 1 ∨ 16777215 < v ∨ inv ≤ 0)
    ((if bad then 0 else v.toNat), tagIf bad tagLost ||| tagIf (Tab.get false t.sat k) tagOvr)
  let bins := (List.range p.nbins).map (fun k => bin (p.first + k))
  let tag := (t.tags ||| late ||| (tref.map Taken.tags).getD 0) &&& (255 - tagLost) ||| tagIf lost tagLost
  let flags := flag ((tref.map Taken.stale).getD false) + 2 * flag (decide (t.used < p.frames))
  let um := (299792458 / 1000000000 : Rat) / (2 * ((e.ng : Rat) / 2 ^ 22)) * (2 ^ e.k / 256) * 1000000
  let num := fun (v : Rat) => if lost then 0 else (roundHalf v).toNat
  let bytes := leBytes 8 t.start ++ leBytes 8 x.seq ++ leBytes 8 dur ++ leBytes 4 b.handle ++ leBytes 1 tag ++ leBytes 1 flags ++ leBytes 2 t.used ++
    leBytes 4 (num tr) ++ leBytes 4 (num (1000000000 * r)) ++ leBytes 2 p.first ++ leBytes 2 p.nbins ++ leBytes 4 (roundHalf um).toNat ++
    leInt 4 (roundHalf (1000 * z p.first)) ++ leBytes 4 (num (256 * ad)) ++ leBytes 4 (num (256 * sd)) ++ leBytes 4 0 ++
    bins.flatMap (fun v => leBytes 4 (v.1 + 2 ^ 24 * v.2))
  let s1 := s.whSlot {} (x.ring + p.recb * (x.seq % p.outRecs)) p.recb bytes
  { s1 with raman := Tab.put {} s1.raman i { x with seq := x.seq + 1, ready := rest }
            traces := Tab.put [] s1.traces i (⟨t.start, tag, bins⟩ :: Tab.get [] s1.traces i) }

/-- R226: the record of the berth's next complete trace; nothing when none is complete. -/
def execRamanTraceRecord (berth : Nat) (s : State) : Res := s.live fun s =>
  let x := Tab.get {} s.raman berth
  match x.ready with
  | [] => goOn s
  | t :: rest => goOn (s.traceRecord berth x t rest)

end Sys2Proof.Machine
end

