-- ==== Sys2Proof/Machine/Beacon.lean ====
section
/-! DEFINITION. Chapter 09: emitter ports, their scan, the energy governor, short checks, and ranging berths. -/

namespace Sys2Proof.Machine

/-- Port `m`. -/
def State.port (s : State) (m : Nat) : Port := Tab.get {} s.ports m

/-- Sets port `m`. -/
def State.setPort (s : State) (m : Nat) (p : Port) : State := { s with ports := Tab.put {} s.ports m p }

/-- Power domain PD_BCN (R443). -/
def beaconDomain : Nat := 22

/-- The BEACON_PLAN entry of a port (Table 9.8). -/
structure PortPlan where
  en : Bool := false
  rows : Nat := 0
  cols : Nat := 0
  eEmit : Nat := 0
  eHead : Nat := 0
  pos : Nat := 255
  pre : Nat := 0
  codes : List Nat := []
  groups : List (List Nat) := []
  deriving DecidableEq, Repr

/-- The lanes of a group: bank, then a 16-bit lane mask (Table 9.8). -/
def groupLanes (bank mask : Nat) : List Nat := ((List.range 16).filter (bit mask)).map (fun i => 16 * bank + i)

/-- Reads the entry of port `m` from a BEACON_PLAN body (R258). -/
def portPlan (b : List Byte) (m : Nat) : PortPlan :=
  let g := fun o n => bodyNat b (16 + 128 * m + o) n
  { en := g 0 1 == 1, rows := g 1 1, cols := g 2 2, eEmit := g 4 4, eHead := g 8 4, pos := g 12 1, pre := g 14 2
    codes := (List.range 16).map (fun j => g (16 + 2 * j) 2), groups := (List.range 8).map (fun r => groupLanes (g (88 + 3 * r) 1) (g (89 + 3 * r) 2)) }

/-- The entry of port `m` under the active manifest. -/
def State.portPlan (s : State) (m : Nat) : PortPlan := match s.activeBody 4 with
  | some b => Sys2Proof.Machine.portPlan b m
  | none => {}

/-- NA of the active BEACON_PLAN: the group index of air × 2^22 (R258). -/
def State.airIndex (s : State) : Nat := match s.activeBody 4 with
  | some b => bodyNat b 4 4
  | none => 0

/-- A ranging berth's parameter words (Table 9.3). -/
structure RangeParams where
  expert : Bool
  port : Nat
  hframe : Nat
  nstep : Nat
  masks : List Nat
  inten : Nat
  pw : Nat
  blank : Nat
  slot : Nat
  jbits : Nat
  kcoin : Nat
  cwin : Nat
  sel : Nat
  k : Nat
  thr : Nat
  gate : Nat
  rmax : Nat
  bgCount : Nat
  bgFirst : Nat
  minCnt : Nat
  outRecs : Nat
  tug : Nat
  cluster : Nat
  floor : Nat
  deriving DecidableEq, Repr

/-- Reads the words of Table 9.3. -/
def rangeParams (w : List Nat) : RangeParams :=
  let x := fun i => w.getD i 0
  { expert := bit (x 0) 8, port := bits (x 0) 0 3, hframe := bits (x 1) 16 16, nstep := bits (x 1) 0 4
    masks := (List.range 8).map (fun i => bits (x (2 + i / 4)) (8 * (i % 4)) 8), inten := bits (x 4) 16 9, pw := bits (x 4) 8 7
    blank := bits (x 4) 0 7, slot := bits (x 5) 16 16, jbits := bits (x 5) 12 4, kcoin := bits (x 5) 8 4, cwin := bits (x 5) 0 5
    sel := bits (x 6) 30 2, k := bits (x 6) 16 5, thr := bits (x 6) 0 16, gate := bits (x 7) 0 18, rmax := bits (x 8) 0 18
    bgCount := bits (x 9) 16 16, bgFirst := bits (x 9) 0 16, minCnt := bits (x 10) 0 16, outRecs := bits (x 11) 0 17
    tug := bits (x 12) 4 4, cluster := bits (x 12) 0 4, floor := bits (x 13) 0 8 }

/-- The rows of a mask, ascending. -/
def maskRows (m : Nat) : List Nat := (List.range 8).filter (bit m)

/-- The lanes of the rows of a step, ascending. -/
def PortPlan.stepLanes (p : PortPlan) (mask : Nat) : List Nat := ((maskRows mask).flatMap (fun r => p.groups.getD r [])).mergeSort

/-- The steps of a berth. -/
def RangeParams.steps (p : RangeParams) : List Nat := p.masks.take p.nstep

/-- Every lane of every group of the berth's steps (R250). -/
def rangeLanes (pl : PortPlan) (p : RangeParams) : List Nat := ((p.steps.flatMap pl.stepLanes).eraseDups).mergeSort

/-- NL (R248). -/
def rangeNl (pl : PortPlan) (p : RangeParams) : Nat := (p.steps.map (fun m => (pl.stepLanes m).length)).foldl max 0

/-- The derived lane timeout in ns (R248). -/
def rangeTmo (na rmax : Nat) : Nat := ceilDiv (2 * na * rmax * 1000000) (2 ^ 22 * 299792458) + 16

/-- The least row slot (R248): the timeout in CK_BCN cycles of 2.5 ns, rounded up. -/
def RangeParams.slotMin (p : RangeParams) (tmo : Nat) : Nat := p.blank + 2 ^ p.jbits - 1 + p.pw + ceilDiv (2 * tmo) 5 + 8

/-- Bytes of a ranging record (R255). -/
def rangeRecb (nl : Nat) : Nat := ceilDiv (64 + 8 * nl) 64 * 64

/-- NL of the lanes that Tug `t` dumps, given the Tug of each bank (R248, R250). -/
def tugNl (pl : PortPlan) (p : RangeParams) (tugs : List Nat) (t : Nat) : Nat :=
  (p.steps.map (fun m => ((pl.stepLanes m).filter (fun l => tugs.getD (l / 16) 0 == t)).length)).foldl max 0

/-- The cost vector of Table 9.7a, each entry rounded up, given the lanes of each Tug: lanes in banks that different Tugs serve cost the Tug that
dumps them (log entry 136). -/
def rangeCost (nl hframe cluster : Nat) (tugs : List (Nat × Nat)) : List Nat :=
  let r := rangeRecb nl
  costVec (tugs.map (fun e => (5 + e.1, ceilDiv (e.2 * 3080) hframe)) ++ [(1 + cluster, ceilDiv (nl * 30000 + 20000) hframe),
    (13, ceilDiv ((4 * 24640 * nl + r) * 10) (256 * hframe)), (14, ceilDiv (r * 10) (256 * hframe))])

/-- Condition 1 of Table 9.4. -/
def rangeFieldsOk (w : List Nat) (p : RangeParams) : Bool :=
  onlyBits (w.getD 0 0) [(16, 8), (8, 1), (0, 3)] && onlyBits (w.getD 1 0) [(16, 16), (0, 4)] && onlyBits (w.getD 4 0) [(16, 9), (8, 7), (0, 7)] &&
  onlyBits (w.getD 5 0) [(16, 16), (12, 4), (8, 4), (0, 5)] && onlyBits (w.getD 6 0) [(30, 2), (16, 5), (0, 16)] && onlyBits (w.getD 7 0) [(0, 18)] &&
  onlyBits (w.getD 8 0) [(0, 18)] && onlyBits (w.getD 10 0) [(0, 16)] && onlyBits (w.getD 11 0) [(0, 17)] && onlyBits (w.getD 12 0) [(0, 8)] &&
  onlyBits (w.getD 13 0) [(0, 8)] && decide (1 ≤ p.hframe) && decide (1 ≤ p.nstep ∧ p.nstep ≤ 8) &&
  (p.masks.take p.nstep).all (· != 0) && (p.masks.drop p.nstep).all (· == 0) && decide (1 ≤ p.inten ∧ p.inten ≤ 256) &&
  decide (1 ≤ p.pw ∧ p.pw ≤ 80) && decide (8 ≤ p.blank ∧ p.blank ≤ 80) && decide (p.jbits ≤ 8) && decide (p.kcoin ≤ 4) &&
  decide (2 ≤ p.cwin ∧ p.cwin ≤ 16) && decide (4 ≤ p.k ∧ p.k ≤ 16) && decide (1000 ≤ p.rmax ∧ p.rmax ≤ 150000) &&
  decide (1 ≤ p.bgCount ∧ p.bgCount ≤ 1024) && isPow2 p.outRecs && decide (4 ≤ p.outRecs ∧ p.outRecs ≤ 4096) &&
  decide (p.tug ≤ 7 ∨ p.tug = 15) && decide (p.cluster ≤ 3 ∨ p.cluster = 15)

/-- Two rows of a step whose groups share a lane (Table 9.4 condition 4). -/
def PortPlan.rowsClash (p : PortPlan) (mask : Nat) : Bool := (p.stepLanes mask).eraseDups.length != (p.stepLanes mask).length

/-- Lanes that a berth at work owns or will own (R223, R250). -/
def State.berthLanes (s : State) (b : Berth) : List Nat :=
  if b.kind = 3 then
    let e := s.ramanOf (bits (b.params.getD 0 0) 0 3)
    [e.asLane, e.sLane]
  else if b.kind = 4 then
    let p := rangeParams b.params
    rangeLanes (s.portPlan p.port) p
  else []

/-- The dump Tug of a bank that already serves another owner's lanes (R250). -/
def State.bankTug (s : State) (bank : Nat) : Option Nat :=
  s.willBe.findSome? (fun e => if (s.berthLanes e.2).any (fun l => l / 16 == bank) then some (s.dumpTug e.2 bank) else none)

/-- The verdict on a berth.open of kind 4 (Table 9.4). -/
def State.judgeRange (s : State) (w0 : List Nat) : Verdict :=
  let r := s.withProfile 4 w0 [1, 2, 3, 4, 5, 6, 7, 8, 9, 10, 13]
  let p := rangeParams r.1
  let pl := s.portPlan p.port
  let tmo := rangeTmo s.airIndex p.rmax
  let lanes := rangeLanes pl p
  let nl := rangeNl pl p
  let cl := if p.cluster < 4 then p.cluster else s.roomiestCluster
  let tug := if p.tug < 8 then p.tug else s.bestTug
  let tugs := (List.range 8).map (fun n => (s.bankTug n).getD tug)
  let cost := rangeCost nl p.hframe cl ((List.range 8).map (fun t => (t, tugNl pl p tugs t)))
  let declared := declaredCost r.1 14
  let mem := 2 * 24640 + 4096
  let rings := lanes.map (fun _ => (2, 4 * 24640)) ++ [(2, rangeRecb nl * p.outRecs)]
  let open_ := s.willBe
  s.withBudget (judge
    [(r.2 || !rangeFieldsOk r.1 p, stRange),
     (!pl.en || p.steps.any (fun m => (maskRows m).any (fun x => !bit pl.rows x)), stRange),
     (decide (p.slot < p.slotMin tmo) || decide (32 * 2 ^ p.k < tmo) || decide (8192 < p.bgFirst + p.bgCount), stRange),
     (p.steps.any pl.rowsClash, stRange),
     (open_.any (fun e => e.2.kind == 4 && bits (e.2.params.getD 0 0) 0 3 == p.port) ||
       open_.any (fun e => (s.berthLanes e.2).any lanes.contains), stBusy),
     (s.on (R.BC_m_STATUS_SHORT p.port), stCheck),
     (decide (pl.pos < 16) && s.on (R.BC_BYB_k_INFO_INCOMPAT pl.pos), stVersion),
     (!s.ringsFit rings || decide (s.memGrant cl < s.memLater cl + mem), stRange),
     (p.expert && declaredBelow declared cost, stRange)]
    { params := r.1, cost := if p.expert then declared else cost, domains := beaconDomain :: (17 + cl) :: (lanes.map (fun l => bankDomain (l / 16))).eraseDups
      slot := p.port, mem := (cl, mem), rings := rings, extra := tugs })

/-- Row line `r` of port `m` is high, and BC_m_CEN with it (R233). -/
def State.rowLine (s : State) (m r : Nat) : Bool :=
  let q := s.port m
  q.row == r && decide (q.rise ≤ 256 * s.now ∧ 256 * s.now < q.fall)

/-- BC_m_CEN of port `m` is high (R233). -/
def State.columnEnable (s : State) (m : Nat) : Bool := (List.range 8).any (s.rowLine m)

/-- The lines of a stopped port: a pulse in progress ends and every setpoint is 0 (R233, R244). -/
def Port.dark (q : Port) (now : Nat) : Port := { q with setpoints := [], fall := min q.fall (256 * now) }

/-- Stops port `m` for a cause other than a short check (R245, R246). -/
def State.haltPort (s : State) (m : Nat) : State :=
  if s.on (R.BC_m_STATUS_RUNNING m) then
    (s.setPort m { ((s.port m).dark s.now) with halted := true }).wr (R.BC_m_STATUS_STOPPED m) 1
  else s

/-- ARMED of port `m`: the safety latch is released and SHORT is 0 (R243). -/
def State.armPort (s : State) (m : Nat) : State :=
  s.wrB (R.BC_m_STATUS_ARMED m) (s.on R.RS_SAFE_STATUS_RELEASED && !s.on (R.BC_m_STATUS_SHORT m))

/-- The port's head is in ALARM or LOST and ALARM_STOP is 1 (R245, R267). -/
def State.headStops (s : State) (m : Nat) : Bool :=
  s.on (R.BC_m_CTL_ALARM_STOP m) && (s.on (R.BC_m_STATUS_HEAD_ALARM m) || s.on (R.BC_m_STATUS_HEAD_LOST m))

/-- Shows step `h mod NSTEP` of the port's berth (R237, Table 9.12). -/
def State.showStep (s : State) (m h : Nat) (p : RangeParams) : State :=
  (s.wr (R.BC_m_STEP_STEP m) (h % p.nstep)).wr (R.BC_m_STEP_ROWS m) (p.masks.getD (h % p.nstep) 0)

/-- The frame of a port's berth that opens at boundary `b`. -/
def scanInfo (p : RangeParams) (h b : Nat) : ScanInfo :=
  { num := h, start := b, step := h % p.nstep, rows := p.masks.getD (h % p.nstep) 0 }

/-- Every emitter of port `m` reads the given status in the rows and columns named (Table 9.12). -/
def State.setEmitters (s : State) (m rows cols st : Nat) : State :=
  ((List.range 8).filter (bit rows)).foldl (fun (t : State) r =>
    ((List.range 16).filter (bit cols)).foldl (fun (u : State) j => u.wr (R.BC_m_EMIT_r_ST_j m r j) st) t) s

/-- OPEN and OPEN_UNKNOWN of port `m` follow its emitters (Table 9.12). -/
def State.showEmitters (s : State) (m : Nat) : State :=
  let has := fun st => (List.range 8).any (fun r => (List.range 16).any (fun j => s.rd (R.BC_m_EMIT_r_ST_j m r j) == st))
  (s.wrB (R.BC_m_STATUS_OPEN m) (has 2)).wrB (R.BC_m_STATUS_OPEN_UNKNOWN m) (has 3)

/-- R250 at the landing boundary `b`: the lanes of all groups, the port's settings, the scan, and the first histogram frame. The scan
starts stopped where a cause of R245 holds. -/
def State.landRange (s : State) (i b : Nat) : State :=
  let t := s.berth i
  let p := rangeParams t.params
  let m := p.port
  let pl := s.portPlan m
  let lanes := rangeLanes pl p
  let s1 := lanes.foldl (fun (u : State) l =>
    (((u.ownLane l b 2 2 m (rangeTmo s.airIndex p.rmax) p.k 0 p.hframe).wr (ln R.TL_LANE_i_CFG_CLASS l) 0).wr (ln R.TL_LANE_i_CFG_FIFO_EN l) 0).ambientBins
      l p.k 0 p.bgFirst p.bgCount) s
  let s2 := ((((((s1.wr (R.BC_m_SLOT_SLOT m) p.slot).wr (R.BC_m_SLOT_BLANK m) p.blank).wr (R.BC_m_PULSE_JBITS m) p.jbits).wr (R.BC_m_PULSE_INT m) p.inten).wr
    (R.BC_m_PULSE_PW m) p.pw).wr (R.BC_m_STATUS_OWNED m) 1).wr (R.BC_m_STATUS_RUNNING m) 1
  let s3 := (((s2.showStep m 0 p).wrPair (R.BC_m_SCAN_LO_COUNT_LO m) (R.BC_m_SCAN_HI_COUNT_HI m) 0).setEmitters m 255 65535 0).showEmitters m
  let halted := !s.on (R.BC_m_STATUS_ARMED m) || s.headStops m
  let checking := s.on (R.BC_m_STATUS_CHECKING m)
  let s4 := s3.setPort m { (s.port m) with berth := i, landed := b, lfsr := s.rd R.BC_JIT_SEED_SEED, next := 256 * b, rows := [], diag := false
                                           shots := [], diags := 0, group := [], halted := halted, checkStop := checking
                                           info := scanInfo p 0 b, ended := [] }
  { (s4.wrB (R.BC_m_STATUS_STOPPED m) (halted || checking)) with
    ranging := Tab.put {} s4.ranging i { ring := t.keep.getD lanes.length 0, rings := lanes.zip (t.keep.take lanes.length) } }

/-- R250 at the boundary at which the close lands: the port stops scanning and the lanes are free. -/
def State.closeRange (s : State) (i b : Nat) : State :=
  let p := rangeParams (s.berth i).params
  let m := p.port
  let lanes := rangeLanes (s.portPlan m) p
  let s1 := lanes.foldl (fun (u : State) l => u.freeLane l b) s
  let s2 := ((((((s1.wr (R.BC_m_SLOT_SLOT m) 0).wr (R.BC_m_SLOT_BLANK m) 0).wr (R.BC_m_PULSE_JBITS m) 0).wr (R.BC_m_PULSE_INT m) 0).wr
    (R.BC_m_PULSE_PW m) 0).wr (R.BC_m_STATUS_OWNED m) 0).wr (R.BC_m_STATUS_RUNNING m) 0
  let s3 := ((s2.wr (R.BC_m_STEP_STEP m) 0).wr (R.BC_m_STEP_ROWS m) 0).wr (R.BC_m_STATUS_STOPPED m) 0
  let q := s3.port m
  { s3.setPort m { (q.dark b) with rows := [], diag := false, group := [], halted := false, checkStop := false, info := {}, ended := [] } with
    ranging := Tab.put {} s3.ranging i {} }

/-- The scan of every owned port at boundary `b` (R237): scan frames begin there, or 16,384 ns later at a histogram frame boundary of the
port's berth, where the next step begins. -/
def State.portsAt (s : State) (b : Nat) : State :=
  (List.range 8).foldl (fun (t : State) m =>
    if t.on (R.BC_m_STATUS_OWNED m) then
      let q := t.port m
      let p := rangeParams (t.berth q.berth).params
      let len := 131072 * p.hframe
      if q.landed < b ∧ (b - q.landed) % len = 0 then
        let h := (b - q.landed) / len
        (t.setPort m { q with next := 256 * (b + 16384), rows := [], diag := false, info := scanInfo p h b, ended := q.ended ++ [q.info] }).showStep m h p
      else t.setPort m { q with next := max q.next (256 * b), rows := [], diag := false }
    else t) s

/-- CK_BCN cycles in 1/256 ns. -/
def bcn (n : Nat) : Nat := 640 * n

/-- A scan frame is due (R237): it starts if it would end before the next tide boundary. -/
def execScanFrameStart (m : Fin 8) (s : State) : Res := s.live fun s =>
  let q := s.port m
  let rows := maskRows (s.rd (R.BC_m_STEP_ROWS m))
  let f := s.rdPair (R.BC_m_SCAN_LO_COUNT_LO m) (R.BC_m_SCAN_HI_COUNT_HI m)
  let short := decide (s.rd (R.BC_m_PULSE_PW m) < 16)
  let diag := short && s.on (R.BC_m_CTL_DIAG_EN m) && f % 64 == 63
  let t0 := q.next
  let len := bcn (s.rd (R.BC_m_SLOT_SLOT m) * (rows.length + flag diag))
  if s.on (R.BC_m_STATUS_RUNNING m) ∧ q.rows.isEmpty ∧ ¬ q.diag ∧ t0 + len < 256 * nextBoundary s.now then
    let s1 := (s.advance (t0 / 256)).setPort m { q with rows := rows, diag := diag, slotAt := t0, next := t0 + len }
    let s2 := s1.wrPair (R.BC_m_SCAN_LO_COUNT_LO m) (R.BC_m_SCAN_HI_COUNT_HI m) (f + 1)
    goOn (if short && !s.on (R.BC_m_CTL_DIAG_EN m) then
      (s2.setEmitters m (s.rd (R.BC_m_STEP_ROWS m)) (s.portPlan m).cols 3).showEmitters m else s2)
  else goOn s

/-- One step of the jitter register, x^31 + x^28 + 1 (R236; the form is presumed, log entry 17). -/
def lfsrStep (x : Nat) : Nat := low 31 (2 * x) + (x / 2 ^ 30 + x / 2 ^ 27) % 2

/-- The register 8 steps on (R236). -/
def lfsrNext (x : Nat) : Nat := (List.range 8).foldl (fun a _ => lfsrStep a) x

/-- Shot `n` of a row fires at intensity `i` (R238). -/
def shotFires (i n : Nat) : Bool :=
  let k := max 1 (i / 4)
  decide (32 ≤ i) || decide (n % 8 * k / 8 < (n % 8 + 1) * k / 8)

/-- The column codes at intensity `i`, rounded to nearest (R238). -/
def shotCodes (codes : List Nat) (i : Nat) : List Nat := codes.map (fun c => (c * max i 32 * 2 + 256) / 512)

/-- S_e of emitter `e` in the slice of instant `t` ns and the 99 before it (R239). -/
def Port.sumOf (p : Port) (t e : Nat) : Nat :=
  ((p.charge.filter (fun c => decide (t / 1000000 < c.1 + 100))).map (fun c => Tab.get 0 c.2 e)).sum

/-- S_h (R239). -/
def Port.headSum (p : Port) (t : Nat) : Nat :=
  ((p.charge.filter (fun c => decide (t / 1000000 < c.1 + 100))).map (fun c => (c.2.map Prod.snd).sum)).sum

/-- The columns that the governor passes for a pulse of row `r` at instant `t` ns with the given codes and pulse width (R239). -/
def Port.passed (p : Port) (t r cols eEmit eHead pw : Nat) (codes : List Nat) : List Nat :=
  let ok := ((List.range 16).filter (bit cols)).filter (fun j => decide (p.sumOf t (16 * r + j) + codes.getD j 0 * pw ≤ eEmit))
  if eHead < p.headSum t + (ok.map (fun j => codes.getD j 0 * pw)).sum then [] else ok

/-- Charge of a pulse joins the current slice; slices older than 100 go (R239). -/
def Port.addCharge (p : Port) (t r pw : Nat) (cols codes : List Nat) : Port :=
  let k := t / 1000000
  let add := fun (u : Tab Nat) => cols.foldl (fun v j => Tab.put 0 v (16 * r + j) (Tab.get 0 v (16 * r + j) + codes.getD j 0 * pw)) u
  let old := p.charge.filter (fun c => decide (k < c.1 + 100))
  match old with
  | c :: rest => if c.1 = k then { p with charge := (k, add c.2) :: rest } else { p with charge := (k, add []) :: old }
  | [] => { p with charge := [(k, add [])] }

/-- A pulse of row `r` at instant `t` ns under the governor: the passed columns, the withheld ones counted (R239). -/
def State.govern (s : State) (m t r pw : Nat) (codes : List Nat) : State × List Nat :=
  let cols := (s.portPlan m).cols
  let q := s.port m
  let ok := q.passed t r cols (s.rd (R.BC_m_EMIT_LIM_LIM m)) (s.rd (R.BC_m_HEAD_LIM_LIM m)) pw codes
  let held := ((List.range 16).filter (bit cols)).length - ok.length
  let set := (List.range 16).map (fun j => if ok.contains j then codes.getD j 0 else 0)
  let s1 := s.setPort m { (q.addCharge t r pw ok codes) with setpoints := set, info := { q.info with governed := q.info.governed + held } }
  (if held = 0 then s1 else (s1.addSat (R.BC_m_GOV_CNT_COUNT m) held).wr (R.BC_m_STATUS_GOV m) 1, ok)

/-- Each passed column of row `r` is diagnosed by its sense line (R240). -/
def State.diagnose (s : State) (m r sense : Nat) (ok : List Nat) : State :=
  (ok.foldl (fun (t : State) j => t.wr (R.BC_m_EMIT_r_ST_j m r j) (if bit sense j then 1 else 2)) s).showEmitters m

/-- R234 to R240, R245: the next row slot: pre-charge, jitter, and the shot with its start, unless the intensity skips the shot, the
governor withholds every column, or the port is stopped, which is counted as missed. -/
def execRowSlot (m : Fin 8) (sense : Nat) (s : State) : Res := s.live fun s =>
  let q := s.port m
  match q.rows with
  | [] => goOn s
  | r :: rest =>
    if s.inTide (q.slotAt / 256) then
      let s0 := s.advance (q.slotAt / 256)
      let reg := lfsrNext q.lfsr
      let j := low (s.rd (R.BC_m_PULSE_JBITS m)) reg
      let at_ := q.slotAt + bcn (s.rd (R.BC_m_SLOT_BLANK m) + j)
      let n := Tab.get 0 q.shots r
      let i := s.rd (R.BC_m_PULSE_INT m)
      let pw := s.rd (R.BC_m_PULSE_PW m)
      let codes := shotCodes (s.portPlan m).codes i
      let q1 : Port := { q with rows := rest, lfsr := reg, shots := Tab.put 0 q.shots r (n + 1), slotAt := q.slotAt + bcn (s.rd (R.BC_m_SLOT_SLOT m))
                                setpoints := if s.on (R.BC_m_STATUS_STOPPED m) then [] else List.replicate 16 (s.portPlan m).pre }
      let s1 := s0.setPort m q1
      if !shotFires i n then goOn s1
      else if s.on (R.BC_m_STATUS_STOPPED m) then
        goOn ((s1.setPort m { q1 with info := { q1.info with missed := true } }).inc (R.BC_m_MISS_CNT_COUNT m))
      else
        let g := s1.govern m (at_ / 256) r pw codes
        if g.2.isEmpty then goOn g.1
        else
          let s2 := if 16 ≤ pw then g.1.diagnose m r sense g.2 else g.1
          let q2 := s2.port m
          goOn (s2.setPort m { q2 with shot := at_ + s.rd (R.BC_m_SHOT_DLY_DLY m), row := r, rise := at_, fall := at_ + bcn pw, group := (s.portPlan m).groups.getD r []
                                       info := { q2.info with shots := q2.info.shots + 1 } })
    else goOn s

/-- R241: the diagnostic slot: one row, 16 cycles, no start; each passed column is diagnosed and each withheld one unknown. -/
def execDiagnosticSlot (m : Fin 8) (sense : Nat) (s : State) : Res := s.live fun s =>
  let q := s.port m
  if q.rows.isEmpty ∧ q.diag ∧ s.inTide (q.slotAt / 256) then
    let rows := maskRows (s.rd (R.BC_m_STEP_ROWS m))
    let r := rows.getD (q.diags % rows.length) 0
    let s1 := (s.advance (q.slotAt / 256)).setPort m { q with diag := false, diags := q.diags + 1, lfsr := lfsrNext q.lfsr
                                                              slotAt := q.slotAt + bcn (s.rd (R.BC_m_SLOT_SLOT m)) }
    if s.on (R.BC_m_STATUS_STOPPED m) then goOn s1
    else
      let pl := s.portPlan m
      let g := s1.govern m ((q.slotAt + bcn (s.rd (R.BC_m_SLOT_BLANK m))) / 256) r 16 (shotCodes pl.codes 32)
      let held := ((List.range 16).filter (bit pl.cols)).filter (fun j => !g.2.contains j)
      let at_ := q.slotAt + bcn (s.rd (R.BC_m_SLOT_BLANK m))
      let s2 := if g.2.isEmpty then g.1 else g.1.setPort m { g.1.port m with row := r, rise := at_, fall := at_ + bcn 16 }
      goOn ((held.foldl (fun (t : State) j => t.wr (R.BC_m_EMIT_r_ST_j m r j) 3) s2).diagnose m r sense g.2)
  else goOn s

/-- The short check of port `m` begins: CHECKING sets and a running port stops for it (R242, R243, R245). -/
def State.startCheck (s : State) (m : Nat) : State :=
  let s1 := s.wr (R.BC_m_STATUS_CHECKING m) 1
  if s.on (R.BC_m_STATUS_RUNNING m) then (s1.setPort m { ((s.port m).dark s.now) with checkStop := true }).wr (R.BC_m_STATUS_STOPPED m) 1 else s1

/-- R243: the check waits to land. -/
def execShortCheckWrite (m : Fin 8) (s : State) : Res := s.live fun s =>
  s.whenOn beaconDomain fun s => goOn (s.accept (.shortCheck m))

/-- PIN_ORDER of port `m`: line codes in connector order (Table 9.8). -/
def State.pinOrder (s : State) (m : Nat) : List Nat := match s.activeBody 4 with
  | some b => (List.range 40).map (fun i => bodyNat b (16 + 128 * m + 48 + i) 1)
  | none => []

/-- A pair with the line that comes first in PIN_ORDER as LINE_A (R242). -/
def inPinOrder (order : List Nat) (p : Nat × Nat) : Nat × Nat :=
  if order.idxOf p.2 < order.idxOf p.1 then (p.2, p.1) else p

/-- Reports the pairs of a check, at most 8 (R242, Table 9.12). -/
def State.reportPairs (s : State) (m : Nat) (found : List (Nat × Nat)) : State :=
  let ps := found.map (inPinOrder (s.pinOrder m))
  let s1 := (s.wr (R.BC_m_SHORT_NUM_NUM m) (min ps.length 8)).wrB (R.BC_m_SHORT_NUM_OVF m) (decide (8 < ps.length))
  (List.range 8).foldl (fun (t : State) i =>
    (t.wr (R.BC_m_SHORT_p_LINE_A m i) (ps.getD i (0, 0)).1).wr (R.BC_m_SHORT_p_LINE_B m i) (ps.getD i (0, 0)).2) s1

/-- R242, R243, R245: the check ends: a pair sets SHORT and stops the port; none clears SHORT and ends the stop that the check made. -/
def execShortCheckDone (m : Fin 8) (pairs : List (Nat × Nat)) (s : State) : Res := s.live fun s =>
  if s.on (R.BC_m_STATUS_CHECKING m) then
    let s1 := (((s.wr (R.BC_m_STATUS_CHECKING m) 0).reportPairs m pairs).wrB (R.BC_m_STATUS_SHORT m) (!pairs.isEmpty)).armPort m
    let q := s1.port m
    if pairs.isEmpty then
      goOn (if q.checkStop then (s1.setPort m { q with checkStop := false }).wrB (R.BC_m_STATUS_STOPPED m) q.halted else s1)
    else goOn ((s1.setPort m { q with checkStop := false }).haltPort m)
  else goOn s

/-- R246: the resume waits to land while ARMED is 1 and no ALARM or LOST condition of the head holds; otherwise it is discarded. -/
def execBeaconResumeWrite (m : Fin 8) (s : State) : Res := s.live fun s =>
  s.whenOn beaconDomain fun s =>
    if s.on (R.BC_m_STATUS_ARMED m) ∧ ¬ s.on (R.BC_m_STATUS_HEAD_ALARM m) ∧ ¬ s.on (R.BC_m_STATUS_HEAD_LOST m) then goOn (s.accept (.portResume m))
    else goOn s

/-- R246 at the landing boundary `b`, if its conditions still hold. -/
def State.landPortResume (s : State) (m b : Nat) : State :=
  if s.on (R.BC_m_STATUS_ARMED m) ∧ ¬ s.on (R.BC_m_STATUS_HEAD_ALARM m) ∧ ¬ s.on (R.BC_m_STATUS_HEAD_LOST m) then
    let q := s.port m
    (s.setPort m { q with halted := false, next := max q.next (256 * b) }).wrB (R.BC_m_STATUS_STOPPED m) q.checkStop
  else s

/-- The safety latch acts on port `m` (R243 to R245): setpoints go to 0, a check stops with CHECK_ABORT, and a running port stops. -/
def State.latchPort (s : State) (m : Nat) : State :=
  let q := s.port m
  let s1 := (s.setPort m { (q.dark s.now) with checkStop := false }).wr (R.BC_m_STATUS_ARMED m) 0
  let s2 := if s.on (R.BC_m_STATUS_CHECKING m) then (s1.wr (R.BC_m_STATUS_CHECKING m) 0).wr (R.BC_m_STATUS_CHECK_ABORT m) 1 else s1
  s2.haltPort m

/-- A peak of R252: position c in bins, strength, QUAL and range in m. -/
structure Peak where
  c : Rat
  str : Rat
  qual : Nat
  range : Rat
  deriving DecidableEq, Repr

/-- The maximal runs of bins above the threshold, as first bin and length (R252). -/
def runsAbove (beyond : Nat → Bool) : Nat → Option (Nat × Nat) → List (Nat × Nat)
  | 0, cur => cur.toList
  | n + 1, cur =>
    if beyond n then match cur with
      | some (_, k) => runsAbove beyond n (some (n, k + 1))
      | none => runsAbove beyond n (some (n, 1))
    else match cur with
      | some r => r :: runsAbove beyond n none
      | none => runsAbove beyond n none

/-- The peaks of a frame, nearest first (R252). -/
def findPeaks (p : RangeParams) (na tmo : Nat) (zero : Int) (counts : Tab Nat) : List Peak :=
  let n := fun (b : Nat) => ((Tab.get (0 : Nat) counts b : Nat) : Rat)
  let bg := meanBins counts p.bgFirst p.bgCount
  let bg1 := max bg 1
  let th := bg + max (p.minCnt : Rat) ((p.thr : Rat) / 16 * sqrtRat bg1)
  let bmax := (tmo - 16) * 256 / 2 ^ p.k
  let peak := fun (r : Nat × Nat) =>
    let inside := (List.range r.2).map (fun i => r.1 + i)
    let wide := (if r.1 = 0 then [] else [r.1 - 1]) ++ inside ++ (if r.1 + r.2 < 8192 then [r.1 + r.2] else [])
    let w := fun b => max (n b - bg) 0
    let c := ((wide.map (fun b => w b * ((b : Rat) + 1 / 2))).foldl (· + ·) 0) / ((wide.map w).foldl (· + ·) 0)
    let str := (inside.map (fun b => n b - bg)).foldl (· + ·) 0
    let q := roundHalf (40 * log10Rat (str / sqrtRat (bg1 * (r.2 : Rat))))
    { c := c, str := str, qual := (max 0 (min q 255)).toNat
      range := (299792458 / 1000000000 : Rat) / (2 * ((na : Rat) / 2 ^ 22)) * c * 2 ^ p.k / 256 - (zero : Rat) / 1000000 : Peak }
  ((runsAbove (fun b => decide (th < n b)) (min (bmax + 1) 8192) none).map peak).reverse

/-- The selected peak (R253), from the peaks in the order of c. -/
def selectPeak (sel gate : Nat) (ps : List Peak) : Option Peak :=
  if sel = 0 then ps.head?
  else if sel = 1 then ps.foldl (fun (best : Option Peak) x => match best with
    | none => some x
    | some b => if b.str < x.str then some x else some b) none
  else if sel = 2 then ps.getLast?
  else ps.find? (fun x => decide ((gate : Rat) / 1000 ≤ x.range))

/-- ZERO_l in µm of a lane (R258). -/
def State.laneZero (s : State) (l : Nat) : Int := match s.activeBody 4 with
  | some b => toSigned 32 (bodyNat b (1044 + 8 * l) 4)
  | none => 0

/-- The entry of one lane (Table 9.6, R254) and its tag byte; `late` holds the tags that the program's work gives (R48, R49). -/
def State.rangeEntry (s : State) (p : RangeParams) (f : DumpedFrame) (missed : Bool) (late : Nat) : List Byte × Nat :=
  let ps := findPeaks p s.airIndex (rangeTmo s.airIndex p.rmax) (s.laneZero f.lane) f.counts
  let x := selectPeak p.sel p.gate ps
  let lost := x.isNone || hasTag f.tag tagLost || missed || hasTag late tagLost
  let q := (x.map Peak.qual).getD 0
  let tag := tagIf lost tagLost ||| tagIf (x.isSome && decide (q < p.floor)) tagFade ||| f.tag &&& tagOvr |||
    tagIf (hasTag f.tag tagTide || hasTag late tagTide) tagTide
  let r := if lost then 0 else roundHalf (100000 * (x.map Peak.range).getD 0)
  (leInt 4 r ++ leBytes 1 tag ++ leBytes 1 q ++ leBytes 1 (min ps.length 255) ++ leBytes 1 f.lane, tag)

/-- R252 to R255: the record of the berth's oldest frame whose lanes are all dumped. -/
def execRangingRecord (berth : Nat) (s : State) : Res := s.live fun s =>
  let b := s.berth berth
  let p := rangeParams b.params
  let x := Tab.get {} s.ranging berth
  let q := s.port p.port
  match q.ended with
  | [] => goOn s
  | i :: rest =>
    let lanes := (s.portPlan p.port).stepLanes i.rows
    let fs := lanes.filterMap (fun l => x.frames.find? (fun f => f.lane == l && f.num == i.num))
    if b.isOpen ∧ b.kind = 4 ∧ q.berth = berth ∧ fs.length = lanes.length then
      let recb := rangeRecb (rangeNl (s.portPlan p.port) p)
      let w1 := s.spend (1 + b.mem.1) berth 20000
      let w2 := w1.1.spend 13 berth (ceilDiv (recb * 10) 256)
      let w3 := w2.1.spend 14 berth (ceilDiv (recb * 10) 256)
      let es := fs.map (fun f => s.rangeEntry p f i.missed (w1.2 ||| w2.2 ||| w3.2))
      let tag := orTags (es.map Prod.snd)
      let head := leBytes 8 i.start ++ leBytes 8 i.num ++ leBytes 8 (131072 * p.hframe) ++ leBytes 4 b.handle ++ leBytes 1 tag ++
        leBytes 1 (flag (decide (0 < i.governed)) + 2 * flag i.missed) ++ leBytes 1 i.step ++ leBytes 1 i.rows ++ leBytes 4 i.shots ++
        leBytes 4 i.governed ++ leBytes 1 es.length ++ leBytes 1 p.sel ++ leBytes 1 p.k ++ leBytes 1 0 ++ leBytes 4 s.airIndex ++ leBytes 16 0
      let bytes := head ++ es.flatMap Prod.fst
      let s1 := w3.1.whStore {} (x.ring + recb * (i.num % p.outRecs)) (bytes ++ List.replicate (recb - bytes.length) 0)
      goOn ({ s1 with ranging := Tab.put {} s1.ranging berth { x with frames := x.frames.filter (fun f => decide (i.num < f.num)) } }.setPort p.port
        { q with ended := rest })
    else goOn s

end Sys2Proof.Machine
end

