-- ==== Sys2Proof/Machine/CharterOps.lean ====
section
/-! DEFINITION. The Charter's tables (Table 16.3) and the keys they hold (R55, R387, R417, R449). -/

namespace Sys2Proof.Machine

/-- Offset and size of Charter table `t` within a copy (Table 16.3). -/
def charterPlace (t : Nat) : Nat × Nat :=
  [(0x0, 64), (0x40, 64), (0x80, 1536), (0x680, 256), (0x780, 1984), (0xF40, 2592), (0x1960, 1152), (0x1DE0, 64)].getD t (0, 0)

/-- `n` bytes of the Charter from address `a`: the factory's contents, which are not given (log entry 20), and the bits blown since. -/
def State.charterBytes (s : State) (a n : Nat) : List Byte := (List.range n).map (fun i => Config.factoryByte (a + i) ||| Tab.get 0 s.charter (a + i))

/-- The bytes of table `t` in copy `c` (0 for A, 1 for B). -/
def State.charterCopy (s : State) (t c : Nat) : List Byte := s.charterBytes (0x2000 * c + (charterPlace t).1) (charterPlace t).2

/-- A table ends in the CRC-32 of the bytes before it. -/
def crcGood (bs : List Byte) : Bool := decide (4 ≤ bs.length) && leNat (bs.drop (bs.length - 4)) == crc32 (bs.take (bs.length - 4))

/-- R417: table `t` from copy A if it verifies, else from copy B, else none. -/
def State.charterTable (s : State) (t : Nat) : Option (List Byte) :=
  if crcGood (s.charterCopy t 0) then some (s.charterCopy t 0)
  else if crcGood (s.charterCopy t 1) then some (s.charterCopy t 1)
  else none

/-- The device identity: the first 8 bytes of table 1, 0 when the table fails (Tables 16.3 and 17.8). -/
def State.deviceId (s : State) : Nat := match s.charterTable 1 with
  | some b => leNat (b.take 8)
  | none => 0

/-- The keys of Charter table 2. -/
inductive KeyClass where
  | vendorFirmware | vendorManifest | vendorDebug | vendorReturn | oemManifest | oemDebug | oemSeal | oemOwner
  deriving DecidableEq, Repr

/-- A class as a number, for the layout of table 2. -/
def KeyClass.num : KeyClass → Nat
  | .vendorFirmware => 0 | .vendorManifest => 1 | .vendorDebug => 2 | .vendorReturn => 3
  | .oemManifest => 4 | .oemDebug => 5 | .oemSeal => 6 | .oemOwner => 7

/-- The public key of a class that KEY_ID names, none when the slot does not exist, or holds zeros or ones (R449), or table 2 fails
(Table 17.8). -/
def State.publicKey (s : State) (c : KeyClass) (id : Nat) : Option (List Byte) :=
  match s.charterTable 2, Config.keySlot c.num id with
  | some b, some o =>
    let k := (b.drop o).take 64
    if k.all (· == 0) || k.all (· == 255) then none else some k
  | _, _ => none

/-- The 72-byte trailer of R55 on an image of `len` bytes verifies under a key of class `c`. -/
def State.trailerOk (s : State) (c : KeyClass) (img : List Byte) : Bool :=
  let n := img.length
  decide (72 ≤ n) && (match s.publicKey c (leNat ((img.drop (n - 72)).take 4)) with
    | some k => ecdsaVerify k (sha256 (img.take (n - 72))) (img.drop (n - 64))
    | none => false)

end Sys2Proof.Machine
end

