-- ==== Sys2Proof/Machine/Ledger.lean ====
section
/-! DEFINITION. Chapter 07: custody points as berths, seconds and commits, records and their chain, the Clasuzal stream, Modbus,
and the handover of the ledger service. -/

namespace Sys2Proof.Machine

/-- Words 0 to 83 of a zone in its definition, words 8 to 10 set to 0 (R167). -/
def zoneWords (w : List Nat) : List Nat := (List.range 84).map (fun i => if 8 ≤ i ∧ i ≤ 10 then 0 else w.getD i 0)

/-- The definition digest of a point (R167): word 0 without CLEAR, then its zones, each word little-endian. -/
def State.pointDigest (s : State) (word0 : Nat) (zones : List Nat) : List Byte :=
  sha256 (leBytes 4 (word0 % 2 ^ 31) ++ zones.flatMap (fun h => (zoneWords (s.berth (bits h 0 12)).params).flatMap (leBytes 4)))

/-- The record bound W of a zone in ns (R158, R170). -/
def State.zoneBound (s : State) (h : Nat) : Nat :=
  let i := bits h 0 12
  let p := flowParams (s.berth i).params
  let d := s.dasOf i
  2 * p.blk * 250000000 + delayTotal false d.h d.tin + 17 * d.tin + 405216

/-- LAG of a point over its zones (R170). -/
def State.pointLag (s : State) (zones : List Nat) : Nat := (zones.map (fun h => ceilDiv (s.zoneBound h) secNs)).foldl max 1

/-- A point of the same POINT_ID, or a sixty-fifth point, among the berths that will be open (Table 7.2). -/
def State.pointsLater (s : State) : List Nat := ((s.willBe.filter (fun e => e.2.kind == 7)).map (fun e => bits (e.2.params.getD 0 0) 16 6))

/-- The verdict on a berth.open of kind 7 (Table 7.2). DESIGN CHOICE (log entry 122): a definition that names a berth that is not there has no
digest, so condition 1 does not hold for it. -/
def State.judgePoint (s : State) (w : List Nat) : Verdict :=
  let w0 := w.getD 0 0
  let nz := bits w0 0 3
  let pid := bits w0 16 6
  let zones := ((w.drop 1).take 4).take nz
  let formOk := onlyBits w0 [(31, 1), (16, 6), (8, 4), (0, 3)] && decide (1 ≤ nz ∧ nz ≤ 4) && (((w.drop 1).take 4).drop nz).all (· == 0) &&
    zones.all (fun h => !neverIssued h)
  let held := (s.point pid).defined
  let there := zones.all (fun h => s.judgeHandle h != .never && s.judgeHandle h != .stale)
  let conds := zones.map (fun h => s.inputConds h (fun b => b.kind == 2 && (flowParams b.params).mode == 0))
  s.withBudget (judge
    ([(s.isSealed && (bit w0 31 || (there && held && (s.point pid).digest != s.pointDigest w0 zones)), stLocked),
      (!formOk, stRange),
      (!s.on R.HB_TIME_STATUS_VALID || s.pointsLater.contains pid, stBusy)] ++
     conds.map Prod.fst ++ conds.flatMap Prod.snd ++
     [(zones.eraseDups.length != zones.length || decide (32 < s.pointLag zones), stRange),
      (decide (64 ≤ s.pointsLater.length), stRange)])
    { params := w, cost := costVec [(18, 1), (16, 1), (19, 1)], inputs := zones, slot := pid, extra := [s.pointLag zones] })

/-- The end of the last second that a point has accounted or still accounts (R168). -/
def Point.accountedTo (p : Point) : Nat :=
  match p.spans.reverse.findSome? (fun x => x.last.bind (fun l => if x.first ≤ l then some l else none)) with
  | some l => (l + 1) * secNs
  | none => (p.lastSec + 1) * secNs

/-- A custody point lands at boundary `b` (R165 to R168). -/
def State.landPoint (s : State) (idx b : Nat) : State :=
  let t := s.berth idx
  let w0 := t.params.getD 0 0
  let i := bits w0 16 6
  let zones := t.inputs
  let first := ceilDiv b secNs
  let p := s.point i
  let digest := if p.defined && s.isSealed then p.digest else s.pointDigest w0 zones
  let s1 := if p.defined then s.event 0x12 i [p.accountedTo, first * secNs] else s
  let x : Span := { handle := t.handle, word0 := w0, zones := zones, lag := s.pointLag zones, first := first, next := first, last := none, clear := bit w0 31 }
  let s2 := (s1.setPoint i { s1.point i with defined := true, digest := digest, spans := (s1.point i).spans ++ [x] }).settleClear i t.handle
  let s3 := s2.event 0x10 i [t.handle, beNat digest]
  (((((s3.wr (R.LG_PT_i_HANDLE_HANDLE i) t.handle).wr (R.LG_PT_i_DEF_WORD0 i) w0).wr (R.LG_PT_i_LAG_LAG i) x.lag).wr
    (R.LG_PT_i_STATUS_OPEN i) 1).wr R.LG_POINTS_OPEN (s.rd R.LG_POINTS_OPEN + 1))

/-- The close of a custody point lands at boundary `b` (R168). -/
def State.closePoint (s : State) (idx b : Nat) : State :=
  let t := s.berth idx
  let i := bits (t.params.getD 0 0) 16 6
  let last := b / secNs - 1
  let s1 := ((s.setPoint i ((s.point i).mapSpan t.handle (fun x => { x with last := some last }))).event 0x11 i [t.handle, last]).pruneAlarms
  (((((s1.wr (R.LG_PT_i_HANDLE_HANDLE i) 0).wr (R.LG_PT_i_DEF_WORD0 i) 0).wr (R.LG_PT_i_LAG_LAG i) 0).wr
    (R.LG_PT_i_STATUS_OPEN i) 0).wr R.LG_POINTS_OPEN (s.rd R.LG_POINTS_OPEN - 1))

/-- What waits for device time to be valid (R176, R418, R452): POWER_LOSS with GEN, the last cause and its stamp; CAL_DEGRADED for
Charter tables 1 and 3 to 7; and the ledger's seconds start. -/
def State.timeValid (s : State) : State :=
  let s1 := match s.ledger.powerLoss with
    | some g => { s with ledger := { s.ledger with powerLoss := none } }.event 0x50 255
        [g, s.rd R.RS_BAL_CAUSE_SRC + 16 * s.rd R.RS_BAL_CAUSE_LEVEL, s.rdPair R.RS_BAL_STAMP_LO_RTC_LO R.RS_BAL_STAMP_HI_RTC_HI]
    | none => s
  let s2 := (([1, 3, 4, 5, 6, 7].filter (fun t => s.rdBit R.CL_DEGRADED_TABLE t)).foldl (fun t k => t.event 0x56 255 [k]) s1)
  { s2 with ledger := { s2.ledger with instant := s.now / secNs, nextCommit := s.now / secNs + 1 } }

/-- R406: VALID sets unless a step waits; what waited for it then happens. -/
def execTimeValidate (s : State) : Res := s.live fun s =>
  if s.on R.HB_TIME_STATUS_STEP_PENDING ∨ s.on R.HB_TIME_STATUS_VALID then goOn s
  else
    let s1 := s.wr R.HB_TIME_STATUS_VALID 1
    goOn (if s.on R.LG_STATUS_READY then s1.timeValid else s1)

/-- R170 to R175: at the next whole second every open point closes the second that is LAG behind; when all have closed a further
second, its commit starts. -/
def execLedgerSecondClose (s : State) : Res := s.live fun s =>
  let k := s.ledger.instant + 1
  if s.on R.LG_STATUS_READY ∧ s.on R.HB_TIME_STATUS_VALID ∧ s.inTide (k * secNs) then
    let s1 : State := { (s.advance (k * secNs)) with ledger := { s.ledger with instant := k } }
    let s2 := (s1.ledger.points.map Prod.fst).foldl (fun t i => t.pointInstant k i) s1
    let c := s2.closedBy k
    let s3 := (s2.ledger.points.map Prod.fst).foldl (fun t i => t.pointIntervals c i) s2
    let s4 := s3.pruneRecs
    goOn (if s4.ledger.nextCommit < c then s4.startCommit (c - 1) else s4)
  else goOn s

/-- R174: the CRC is written last and LG_GEN shows the commit. -/
def execCommitDone (s : State) : Res := s.live fun s =>
  match s.ledger.commit with
  | none => goOn s
  | some c =>
    let s1 := s.holdWrite (bankBase c.sec + 16512) (leBytes 4 (crc32 c.image))
    goOn { (s1.wrPair R.LG_GEN_LO_GEN_LO R.LG_GEN_HI_GEN_HI c.sec) with ledger := { s1.ledger with commit := none, latest := c.image } }

/-- R181, R185: an interval record whose last second is committed waits for room in the signing queue and then joins it. -/
def execIntervalRecord (s : State) : Res := s.live fun s =>
  let gen := s.rdPair R.LG_GEN_LO_GEN_LO R.LG_GEN_HI_GEN_HI
  match s.ledger.due with
  | d :: rest =>
    if d.afterSec ≤ gen ∧ s.signQ.length < 256 then
      goOn { s with signQ := s.signQ ++ [{ type := 1, body := d.body }], ledger := { s.ledger with due := rest } }
    else goOn s
  | [] => goOn s

/-- The items of the ARGS of an event code with the lengths that other tables give them (Table 7.10), `none` where no table does. -/
def argItems (code : Nat) : List (Option Nat) :=
  if code = 0x1 then [some 8, some 4]
  else if code = 0x10 then [some 4, some 32]
  else if code = 0x11 then [some 4, some 8]
  else if code = 0x12 then [some 8, some 8]
  else if code = 0x13 then [some 8]
  else if code = 0x20 ∨ code = 0x21 then [some 4, none, some 8]
  else if code = 0x30 then [some 1, some 1, some 4, some 4]
  else if code = 0x31 then [some 4, some 4]
  else if code = 0x32 then [none, some 4, some 4]
  else if code = 0x33 then [some 4, some 4, some 32]
  else if code = 0x34 then [some 8]
  else if code = 0x40 ∨ code = 0x41 then [some 4]
  else if code = 0x50 then [some 8, none, some 8]
  else if code = 0x52 then [some 8]
  else if code = 0x53 then [some 4, some 8]
  else if code = 0x57 then [some 4, some 8, some 8]
  else [none]

/-- The ARGS of an event (Tables 7.9 and 7.10): its items one after another, each little-endian (R9) and a digest as its bytes stand.
DEDUCED (log entry 123): items back to back with the lengths their own tables give; a length that no table gives is a free value. -/
def argBytes (code : Nat) (args : List Nat) : List Byte :=
  if code = 0x51 then Config.holdLostArgs args
  else (List.zip (argItems code) args).zipIdx.flatMap (fun e =>
    let n := e.1.1.getD (Config.argLen code e.2)
    if n = 32 then beBytes 32 e.1.2 else leBytes n e.1.2)

/-- The items of lengths `ns` in a row of bytes, little-endian. -/
def splitArgs : List Nat → List Byte → List Nat
  | [], _ => []
  | n :: ns, b => leNat (b.take n) :: splitArgs ns (b.drop n)

/-- The numbers that the ARGS of an event hold (Table 7.10). -/
def readArgs (code : Nat) (b : List Byte) : List Nat :=
  splitArgs ((argItems code).zipIdx.map (fun e => e.1.getD (Config.argLen code e.2))) b

/-- The body of a record (Tables 7.8 and 7.9). -/
def LedgerItem.bytes (e : LedgerItem) : List Byte :=
  if e.type = 1 then e.body
  else
    let a := argBytes e.code e.args
    leBytes 2 e.code ++ leBytes 1 e.point ++ leBytes 1 0 ++ leBytes 8 e.origin ++ (a ++ List.replicate (52 - a.length) 0).take 52

/-- The record that an item becomes, without its signature (Table 7.7, R180). -/
def State.recordBytes (s : State) (e : LedgerItem) : List Byte :=
  leBytes 2 0x4C44 ++ leBytes 1 1 ++ leBytes 1 e.type ++ leBytes 2 (if e.type = 1 then 384 else 192) ++ leBytes 2 (flag s.isSealed) ++
  leBytes 8 s.recseq ++ leBytes 8 s.now ++ leBytes 4 (s.rd R.CU_SEALCNT_COUNT) ++ leBytes 4 s.ledger.keyId ++ digest32 s.ledger.chain ++ e.bytes

/-- Records that the Warehouse ring holds (R184). -/
def State.ringDepth (s : State) : Nat := if s.rd R.LG_RING_LOG2RECS = 0 then 0 else 2 ^ s.rd R.LG_RING_LOG2RECS

/-- The Warehouse address of RECSEQ `r`. -/
def State.ringSlot (s : State) (r : Nat) : Nat :=
  s.rdPair R.LG_RING_ADDR_LO_ADDR_LO R.LG_RING_ADDR_HI_ADDR_HI + 384 * (r % s.ringDepth)

/-- Records are written in Warehouse class 3, on the reserve, which carries record signing (R41, Table 13.4). -/
def recordReq : WhReq := { owner := some 4097, cls := 3 }

/-- The record RECSEQ `r` as the ring holds it, if it does. -/
def State.ringRecord (s : State) (r : Nat) : Option (List Byte) :=
  if s.ringDepth = 0 ∨ s.recseq ≤ r ∨ r + s.ringDepth < s.recseq then none
  else
    let b := s.whPeek (s.ringSlot r) 384
    if leNat (b.take 2) = 0x4C44 ∧ leNat ((b.drop 8).take 8) = r then some (b.take (min 384 (leNat ((b.drop 4).take 2)))) else none

/-- A Clasuzal datagram leaves (Table 7.11). -/
def State.czSend (s : State) (type ver count seq : Nat) (body : List Byte) : State :=
  let h := leBytes 2 0x5A43 ++ leBytes 1 ver ++ leBytes 1 type ++ leBytes 2 (32 + body.length) ++ leBytes 1 count ++ leBytes 1 0 ++
    leBytes 8 s.deviceId ++ leBytes 8 seq ++ leBytes 8 0
  s.netSend .clasuzal (s.rd R.NT_CTL_CZ_PORT) (h ++ body)
    (some { src := s.rd R.LG_CZ_PORT_SRC, dst := s.rd R.LG_CZ_PORT_DST, addr := (List.range 4).map (fun k => s.rd (R.LG_CZ_ADDR_k_ADDR k)) })

/-- The RECSEQs from `a` on and below `b` that the ring holds, ascending. -/
def State.czHeld (s : State) (a b : Nat) : List Nat :=
  let lo := max a (s.recseq - s.ringDepth)
  ((List.range (min b s.recseq - lo)).map (lo + ·)).filter (fun r => (s.ringRecord r).isSome)

/-- A DATA datagram of one record that the ring holds (R186). -/
def State.czData (s : State) (ver r : Nat) : State := match s.ringRecord r with
  | some b => s.czSend 1 ver 1 r b
  | none => s

/-- The runs of RECSEQs from `a` on and below `b` that an ascending list leaves out, each a first one and a count. -/
def missingRuns (a : Nat) : List Nat → Nat → List (Nat × Nat)
  | [], b => if a < b then [(a, b - a)] else []
  | h :: t, b => (if a < h then [(a, h - a)] else []) ++ missingRuns (h + 1) t b

/-- GONE for `n` records from `r` on (R187, R188). -/
def State.czGone (s : State) (ver r n : Nat) : State :=
  if n = 0 then s
  else (s.czSend 5 ver 1 0 (leBytes 8 r ++ leBytes 4 n ++ leBytes 4 0)).addSat R.LG_CZ_CNT_GONE n

/-- The records from `a` on and below `b`: those that the ring holds, ascending, then GONE for each run of the others (R187, R188). -/
def State.czServe (s : State) (ver a b : Nat) : State :=
  let held := s.czHeld a b
  (missingRuns a held b).foldl (fun t g => t.czGone ver g.1 g.2) (held.foldl (fun t r => t.czData ver r) s)

/-- R178 to R184, R186: the item at the head of the queue becomes record RECSEQ_NEXT: chained, signed, written to the journal and the
ring, and sent while the stream runs. A service that does not run signs nothing but the LEDGER_HANDOVER of a handover. -/
def execRecordSign (s : State) : Res := s.live fun s =>
  match s.signQ with
  | [] => goOn s
  | e :: rest =>
    if s.ledger.key = 0 ∨ (!s.on R.LG_STATUS_READY ∧ !(s.ledger.handover.isSome && e.code == 0x33)) then goOn s
    else
      let r := s.recseq
      let body := s.recordBytes e
      let digest := sha256 body
      let bytes := body ++ ecdsaSign s.ledger.key digest
      let s1 := s.holdWrite (0x80000 + 384 * (r % 4096)) bytes
      let s2 := if s.ringDepth = 0 then s1 else s1.whSlot recordReq (s.ringSlot r) 384 bytes
      let acked := s.rdPair R.LG_CZ_ACKED_LO_SEQ_LO R.LG_CZ_ACKED_HI_SEQ_HI
      let s3 := if 0 < s.ringDepth ∧ acked + s.ringDepth ≤ r then s2.wr R.LG_STATUS_CZ_BEHIND 1 else s2
      let s4 := { (s3.wrPair R.LG_RECSEQ_LO_SEQ_LO R.LG_RECSEQ_HI_SEQ_HI (r + 1)) with signQ := rest, ledger := { s3.ledger with chain := digest } }
      match s4.ledger.czNext with
      | some _ =>
        if s4.on R.LG_CZ_CFG_EN then
          goOn { (s4.czSend 1 (s4.rd R.LG_CZ_CFG_VER) 1 r bytes) with ledger := { s4.ledger with czNext := some (r + 1) } }
        else goOn s4
      | none => goOn s4

/-- R187: the version is negotiated anew and, with one in common, the records from the resume point on are sent, then GONE for the
part that the ring no longer holds. -/
def execCzHello (min max resume : Nat) (s : State) : Res := s.live fun s =>
  if !s.on R.LG_CZ_CFG_EN then goOn s
  else
    let lo := s.rd (R.HB_IF_i_MIN 2)
    let hi := s.rd (R.HB_IF_i_MAX 2)
    let v := Nat.min hi max
    if v = 0 ∨ v < lo ∨ v < min then
      let s1 := ((s.wr R.LG_CZ_CFG_VER 0).wr (R.HB_IF_i_CUR 2) 0).wr R.LG_STATUS_CZ_UP 0
      goOn { (s1.czSend 4 0 0 0 (leBytes 1 0 ++ leBytes 1 lo ++ leBytes 1 hi ++ leBytes 8 s.recseq)) with ledger := { s1.ledger with czNext := none } }
    else
      let s1 := ((s.wr R.LG_CZ_CFG_VER v).wr (R.HB_IF_i_CUR 2) v).wr R.LG_STATUS_CZ_UP 1
      let s2 := s1.czSend 4 v 0 0 (leBytes 1 v ++ leBytes 1 lo ++ leBytes 1 hi ++ leBytes 8 s.recseq)
      let s3 := s2.czServe v resume s.recseq
      goOn { s3 with ledger := { s3.ledger with czNext := some s.recseq } }

/-- R188: resends, GONE, and the acknowledged point. -/
def execCzNack (seq : Nat) (ranges : List (Nat × Nat)) (s : State) : Res := s.live fun s =>
  if !s.on R.LG_STATUS_CZ_UP then goOn s
  else
    let s1 := s.inc R.LG_CZ_CNT_NACK
    let acked := s.rdPair R.LG_CZ_ACKED_LO_SEQ_LO R.LG_CZ_ACKED_HI_SEQ_HI
    let s2 := if acked < seq then s1.wrPair R.LG_CZ_ACKED_LO_SEQ_LO R.LG_CZ_ACKED_HI_SEQ_HI seq else s1
    goOn ((ranges.take 32).foldl (fun t r => t.czServe (s.rd R.LG_CZ_CFG_VER) r.1 (r.1 + r.2)) s2)

/-- A value as registers of 16 bits, most significant first (R190). -/
def toRegs (n v : Nat) : List Nat := (List.range n).map (fun i => bits v (16 * (n - 1 - i)) 16)

/-- The registers of one point from its entry of the latest commit (Table 7.12): 85 of them. -/
def pointRegs (e : List Byte) : List Nat :=
  [leNat (e.take 2)] ++ (List.range 12).flatMap (fun k => toRegs 6 (bodyNat e (8 + 12 * k) 12)) ++ toRegs 4 (bodyNat e 176 8) ++
  toRegs 4 (bodyNat e 184 8) ++ toRegs 4 (bodyNat e 192 8)

/-- The latest commit's GEN. -/
def State.gen (s : State) : Nat := s.rdPair R.LG_GEN_LO_GEN_LO R.LG_GEN_HI_GEN_HI

/-- The entry of POINT_ID `i` in the latest commit, zeros before the first. -/
def State.commitEntry (s : State) (i : Nat) : List Byte :=
  ((s.ledger.latest.drop (128 + 256 * i)).take 256 ++ List.replicate 256 0).take 256

/-- The register at a Modbus address (Table 7.12), if the map has one there. -/
def State.modbusReg (s : State) (a : Nat) : Option Nat :=
  if a < 4 then (toRegs 4 s.gen)[a]?
  else if a = 4 then some (((List.range 64).filter (fun i => bit (bodyNat (s.commitEntry i) 0 4) 1)).length)
  else if a = 5 then some (flag s.isSealed + 2 * s.rd R.LG_STATUS_HOLD_ERR)
  else if 1000 ≤ a ∧ a < 1000 + 128 * 64 then (pointRegs (s.commitEntry ((a - 1000) / 128)))[(a - 1000) % 128]?
  else none

/-- R189, R190: function codes 03 and 04 read the map; any other is answered with exception 01, a read beyond the map with 02 and, by
the protocol's own limit, one of no register or of more than 125 with 03. A request on a fifth connection is not served (log entry 124). -/
def execModbusRequest (client : ModbusClient) (fn addr count : Nat) (s0 : State) : Res := s0.live fun s0 =>
  let port := client.port
  let conn := client.conn
  let ended := client.ended
  let others := s0.ledger.modbus.filter (fun c => !(c.1 == port.val && (c.2 == conn || ended.contains c.2)))
  let known := s0.ledger.modbus.contains (port.val, conn) && !ended.contains conn
  let served := known || decide (others.length < 4)
  let s : State := { s0 with ledger := { s0.ledger with modbus := if served then others ++ [(port.val, conn)] else others } }
  let answer := fun (bs : List Byte) => goOn (s.netSend .modbus port bs)
  if !served then goOn s
  else if fn ≠ 3 ∧ fn ≠ 4 then answer (leBytes 1 (128 + fn) ++ leBytes 1 1)
  else if count = 0 ∨ 125 < count then answer (leBytes 1 (128 + fn) ++ leBytes 1 3)
  else
    let rs := (List.range count).map (fun i => s.modbusReg (addr + i))
    if rs.any Option.isNone then answer (leBytes 1 (128 + fn) ++ leBytes 1 2)
    else answer (leBytes 1 fn ++ leBytes 1 (2 * count) ++ rs.flatMap (fun r => beBytes 2 (r.getD 0)))

/-- An item of the signing queue once another goes before it: a TOTALS_CLEARED names a KIND 3 record from RECSEQ `r` on, which takes the next one. -/
def LedgerItem.movedBack (r : Nat) (e : LedgerItem) : LedgerItem :=
  if e.code = 0x13 then { e with args := e.args.map (fun a => if r ≤ a then a + 1 else a) } else e

/-- LEDGER_HANDOVER becomes the next record to sign (R191). -/
def State.handoverRecord (s : State) (old new digest : Nat) : State :=
  { s with signQ := { type := 2, code := 0x33, point := 255, origin := s.now, args := [old, new, digest] } :: s.signQ.map (LedgerItem.movedBack s.recseq) }

/-- A ledger service swap lands at boundary `b` (R191, R456): the outgoing service stops, and LEDGER_HANDOVER with the state's digest
is its last record. How the state is laid out for the digest is not given: a free value. -/
def State.landHandover (s : State) (b old new : Nat) : State :=
  let d := s.freeNow
  let s1 := ((s.nextFree).wr R.LG_STATUS_READY 0).handoverRecord old new d
  { s1 with ledger := { s1.ledger with handover := some ⟨old, new, d, b⟩ } }

/-- The outgoing service resumes from the same state (R191). -/
def State.handoverRefused (s : State) (h : Handover) : State :=
  let s1 := (s.wr R.LG_STATUS_READY 1).wrB R.RS_FW_LEDGER_BANK (!s.on R.RS_FW_LEDGER_BANK)
  State.handoverRecord { s1 with ledger := { s1.ledger with handover := none } } h.old 0 h.digest

/-- R191: equal digests make the incoming service the owner; others make it refuse. -/
def execLedgerHandoverVerify (same : Bool) (s : State) : Res := s.live fun s =>
  match s.ledger.handover with
  | none => goOn s
  | some h =>
    if same then goOn { (s.wr R.LG_STATUS_READY 1) with ledger := { s.ledger with handover := none }, ledgerVer := h.new }
    else goOn (s.handoverRefused h)

/-- R456: no verification by B + 100 ms counts as a refusal. -/
def execLedgerHandoverTimeout (s : State) : Res := s.live fun s =>
  match s.ledger.handover with
  | none => goOn s
  | some h => if s.inTide (h.at_ + 100000000) then goOn ((s.advance (h.at_ + 100000000)).handoverRefused h) else goOn s

/-- A commit bank verifies: its MAGIC and CRC (R176). -/
def State.bankGood (s : State) (k : Nat) : Bool :=
  let b := s.holdBytes (bankBase k) 16516
  leNat (b.take 4) == 0x4C474B42 && leNat (b.drop 16512) == crc32 (b.take 16512)

/-- GEN of a bank. -/
def State.bankGen (s : State) (k : Nat) : Nat := leNat (s.holdBytes (bankBase k + 8) 8)

/-- The journal record in a slot, if its signature verifies under the ledger key (R184). -/
def State.journalRecord (s : State) (slot : Nat) : Option (Nat × List Byte) :=
  let b := s.holdBytes (0x80000 + 384 * slot) 384
  let n := leNat ((b.drop 4).take 2)
  if leNat (b.take 2) = 0x4C44 ∧ (n = 384 ∨ n = 192) then
    if ecdsaVerify (ecdsaPublic s.ledger.key) (sha256 (b.take (n - 64))) ((b.take n).drop (n - 64)) then some (leNat ((b.drop 8).take 8), b.take n)
    else none
  else none

/-- The journal's verified records, in RECSEQ order. -/
def State.journal (s : State) : List (Nat × List Byte) :=
  ((List.range 4096).filterMap s.journalRecord).mergeSort (fun a b => a.1 ≤ b.1)

/-- Copies the journal into the Warehouse record ring (R184). -/
def State.journalToRing (s : State) : State :=
  if s.ringDepth = 0 then s else s.journal.foldl (fun t e => t.whSlot recordReq (t.ringSlot e.1) 384 e.2) s

/-- Totals of a point from its entry in a bank. -/
def entryPoint (e : List Byte) : Point :=
  if bit (bodyNat e 0 4) 0 then
    { defined := true, counters := (List.range 12).map (fun k => bodyNat e (8 + 12 * k) 12), rems := (List.range 12).map (fun k => bodyNat e (152 + 2 * k) 2)
      lostNs := bodyNat e 176 8, markedNs := bodyNat e 184 8, lastSec := bodyNat e 192 8, digest := (e.drop 200).take 32 }
  else {}

/-- Totals of a point from its latest interval record (R177). -/
def recordPoint (r : List Byte) : Point :=
  { defined := true, counters := (List.range 12).map (fun k => bodyNat r (88 + 12 * k) 12), lostNs := bodyNat r 232 8, markedNs := bodyNat r 240 8
    lastSec := bodyNat r 80 8 / secNs - 1, digest := (r.drop 256).take 32 }

/-- R177: no bank verifies. -/
def State.holdLost (s : State) (journal : List (Nat × List Byte)) : State :=
  let found := (List.range 64).filterMap (fun i =>
    (journal.reverse.find? (fun e => bodyNat e.2 3 1 == 1 && bodyNat e.2 64 1 == i)).map (fun e => (i, e)))
  let s1 := found.foldl (fun t e => t.setPoint e.1 (recordPoint e.2.2)) (s.wr R.LG_STATUS_HOLD_ERR 1)
  s1.event 0x51 255 ((found.map (fun e => 2 ^ e.1)).sum :: found.map (fun e => e.2.1))

/-- LG_PT_i_LAST shows the last accounted second of every defined point (Table 7.13). -/
def State.showLast (s : State) : State :=
  s.ledger.points.foldl (fun t e => if e.2.defined then t.wrPair (R.LG_PT_i_LAST_LO_SEC_LO e.1) (R.LG_PT_i_LAST_HI_SEC_HI e.1) e.2.lastSec else t) s

/-- R176, R177, R184: the ledger service starts: the bank with the higher GEN of those that verify, the chain from the journal, and
GENESIS for a chain that has no record; the journal goes into the ring where a manifest has given one. Without a ledger key it does not run. -/
def State.ledgerStart (s : State) : State :=
  if s.ledger.key = 0 then s
  else
    let j := s.journal
    let s1 : State := match j.getLast? with
      | some (r, b) => { (s.wrPair R.LG_RECSEQ_LO_SEQ_LO R.LG_RECSEQ_HI_SEQ_HI (r + 1)) with
          ledger := { s.ledger with chain := sha256 (b.take (b.length - 64)) } }
      | none => s.event 0x1 255 [s.deviceId, s.ledger.keyId]
    let g0 := s.bankGood 0
    let g1 := s.bankGood 1
    let pick : Option Nat := if g0 && (!g1 || decide (s.bankGen 1 < s.bankGen 0)) then some 0 else if g1 then some 1 else none
    let s2 := match pick with
      | some k =>
        let t := (List.range 64).foldl (fun (t : State) i => t.setPoint i (entryPoint (s.holdBytes (bankBase k + 128 + 256 * i) 256))) s1
        { (t.wrPair R.LG_GEN_LO_GEN_LO R.LG_GEN_HI_GEN_HI (s.bankGen k)) with
            ledger := { t.ledger with latest := s.holdBytes (bankBase k) 16512 } }
      | none => s1.holdLost j
    let s3 : State := { s2.showLast with ledger := { s2.ledger with powerLoss := some (match pick with | some k => s.bankGen k | none => 0) } }
    let s4 := (s3.journalToRing.wr R.LG_KEY_ID_KEY_ID s.ledger.keyId).wr R.LG_STATUS_READY 1
    if s4.on R.HB_TIME_STATUS_VALID then s4.timeValid else s4

end Sys2Proof.Machine
end

