-- ==== Sys2Proof/Machine/Platform.lean ====
section
/-! DEFINITION. Chapters 00 and 01: bus accesses, the Shed window and the Ballast write queue. -/

namespace Sys2Proof.Machine

/-- R1: the access completes with an unsupported-request response and has no effect. An aligned 32-bit access is no such access. -/
def execUnsupportedAccess (_write : Bool) (addr size : Nat) (s : State) : Res := s.live fun s =>
  if size = 4 ∧ addr % 4 = 0 then .refused .illFormed else goOn (s.answer .unsupported [])

/-- R32: reads 0 and discards a write, sets UNMAPPED, and latches the address if UNMAPPED was 0. An address that a register
or the Shed window occupies, or one outside the BAR, is no such access. -/
def execUnmappedAccess (write : Bool) (addr : Nat) (s : State) : Res := s.live fun s =>
  if 0x4000000 ≤ addr ∨ (regRow? addr).isSome then .refused .illFormed
  else
    let s1 := if s.on R.HB_ERR_STATUS_UNMAPPED then s else s.wr R.HB_UNMAPPED_ADDR_ADDR addr
    goOn ((s1.wr R.HB_ERR_STATUS_UNMAPPED 1).answer .ok (if write then [] else [0]))

/-- R31, R444: a host read of a register whose domain is off returns 0 and sets the domain's bit; in a domain that is on
nothing of the kind happens. -/
def execDomainOffRead (addr : Nat) (s : State) : Res := s.live fun s =>
  if s.powered (domainOf addr) then goOn s else goOn ((s.lockAnswer (domainOf addr)).answer .ok [0])

/-- An access of `n` bytes at offset `a` crosses a 4 KiB boundary (R33). -/
def crosses4K (a n : Nat) : Bool := decide (0 < n) && a / 4096 != (a + n - 1) / 4096

/-- R33: a read through the Shed window; a request across 4 KiB is malformed and has no effect; a parity error gives a
poisoned completion and sets SHED_POISON. -/
def execShedWindowRead (off len : Nat) (s : State) : Res := s.live fun s =>
  if shedSize < off + len then .refused .illFormed
  else if crosses4K off len then goOn (s.answer .malformed [])
  else if s.shedFails off len then
    goOn (((s.parityScan off len).wr R.HB_ERR_STATUS_SHED_POISON 1).answer .poisoned [])
  else goOn (s.answer .ok ((s.shedBytes off len).map BitVec.toNat))

/-- R33, R340: a write through the Shed window, word by word; a request across 4 KiB is malformed and has no effect. -/
def execShedWindowWrite (off : Nat) (bytes : List Byte) (s : State) : Res := s.live fun s =>
  if shedSize < off + bytes.length then .refused .illFormed
  else if crosses4K off bytes.length then goOn (s.answer .malformed [])
  else goOn ((s.shedWrite off bytes).answer .ok [])

/-- The byte addresses of the Ballast registers (Table 17.10). -/
def isBallast (addr : Nat) : Bool := decide (0x200100 ≤ addr ∧ addr < 0x200160 ∧ addr % 4 = 0)

/-- A write joins the Ballast queue, or finds 8 waiting, is discarded and sets BAL_WOVF (R22). -/
def State.ballastPush (s : State) (addr v : Nat) : State :=
  if s.ballast.length < 8 then { s with ballast := s.ballast ++ [(addr, v)] } else s.wr R.HB_ERR_STATUS_BAL_WOVF 1

/-- R22: a write to a Ballast register other than the RTC, whose writes have rows of their own (R485). -/
def execBallastWrite (addr : Nat) (value : Word) (s : State) : Res := s.live fun s =>
  if isBallast addr ∧ addr < 0x200158 then goOn (s.ballastPush addr value.toNat) else .refused .illFormed

/-- R22, R485: the oldest queued write takes effect: the RTC takes both its words and RTC_VALID sets; any other register
takes the write under its access codes. -/
def execBallastWriteApply (s : State) : Res := s.live fun s =>
  match s.ballast with
  | [] => goOn s
  | (addr, v) :: rest =>
    let s1 := { s with ballast := rest }
    if addr = 0x20015C then
      goOn ((s1.setRtc v).wr R.RS_BAL_STATUS_RTC_VALID 1)
    else match regRow? addr with
      | some r => goOn (s1.writeRow r addr v 0)
      | none => goOn s1

end Sys2Proof.Machine
end

