-- ==== Sys2Proof/Machine/Links.lean ====
section
/-! DEFINITION. Chapter 01: what a retrain of a die-to-die link and a loss of a PLL's lock do to the values that depend on them (R15, R16, R23). -/

namespace Sys2Proof.Machine

/-- Every link is up and every PLL has lock (R34), as they are when the device leaves a reset (log entry 126). -/
def State.clocksUp (s : State) : State := (s.wr R.HB_LINK_STATUS_UP 0x3FF).wr R.HB_CLK_STATUS_LOCK 0x7F

/-- The echoes of the launches in flight on every quay are lost (R23). -/
def State.loseAllFlights (s : State) : State := (List.range 8).foldl State.loseFlights s

/-- R15: a mismatch requests replay and is counted; a second mismatch of the same flit in succession counts towards R16. -/
def execFlitCrcMismatch (link : Fin 10) (flit : Nat) (s : State) : Res := s.live fun s =>
  let l := s.link link
  let fails := if l.flit = flit ∧ 0 < l.fails then l.fails + 1 else 1
  goOn ((s.inc (R.HB_LINK_CNT_n_REPLAYS link)).setLink link { l with flit := flit, fails := fails })

/-- R16: after 8 failures of one flit the link retrains: it is down, RETRAINED sets and the retrain is counted; from now on until it is up again
the samples of QLINK_n are missing, and the launches in flight there are LOST. -/
def execLinkRetrain (link : Fin 10) (s : State) : Res := s.live fun s =>
  let l := s.link link
  if l.fails < 8 ∨ l.retraining then goOn s
  else
    let s1 := if link.val < 8 then (s.runDac link (2 * s.now)).loseFlights link else s
    goOn (((((s1.wrBit R.HB_LINK_STATUS_UP link false).wrBit R.HB_LINK_STATUS_RETRAINED link true).inc
      (R.HB_LINK_CNT_n_RETRAINS link)).setLink link { l with retraining := true }).openGap link)

/-- R23: LOCK of the PLL reads 0, CLK_FAULT sets, its domain's samples carry LOST until it regains lock (core and sampling PLL: the quays; core
PLL: the tally lanes; Sounding PLL: the conversions), and CLOCK_LOSS is recorded with LOCK at the loss (Table 7.10). A PLL that is out of lock
already loses none. -/
def execPllLockLoss (pll : Fin 7) (s : State) : Res := s.live fun s =>
  if bit s.pllLost pll then goOn s
  else
    let s1 := (s.wrBit R.HB_CLK_STATUS_LOCK pll false).wr R.HB_CLK_STATUS_CLK_FAULT 1
    let s2 := ({ s1 with pllLost := withBit s.pllLost pll true } : State).openGap (16 + pll)
    let s3 := if pll.val = 0 ∨ pll.val = 5 then s2.loseAllFlights else s2
    let s4 := if pll.val = 0 then s3.loseTally else s3
    goOn (s4.event 0x54 255 [s4.rd R.HB_CLK_STATUS_LOCK])

/-- R23: the PLL has lock again and its domain's samples stop carrying LOST. -/
def execPllLockRegain (pll : Fin 7) (s : State) : Res := s.live fun s =>
  goOn (({ (s.wrBit R.HB_CLK_STATUS_LOCK pll true) with pllLost := withBit s.pllLost pll false } : State).closeGap (16 + pll))

end Sys2Proof.Machine
end

