-- ==== Sys2Proof/Machine/Latch.lean ====
section
/-! DEFINITION. Chapter 17: the safety latch, for the device and for one domain (R439 to R441). -/

namespace Sys2Proof.Machine

/-- ARMED of quay `n` becomes 1 while the latch is released and the quay's trims are valid; a RUN = 1 that waited for it waits to land (R74). -/
def State.armQuay (s : State) (n : Nat) : State :=
  if s.on R.RS_SAFE_STATUS_RELEASED ∧ s.powered (quayDomain n) ∧ s.power.trims.contains (quayDomain n) then
    let q := s.quay n
    let s1 := s.wr (R.QY_STATUS_ARMED n) 1
    if q.runWaitsArm then (s1.setQuay n { q with runWaitsArm := false }).accept (.quayRun n true) else s1
  else s

/-- The latch covers quay `n`: its launches are cut, and ARMED reads 0 (R78, R439). -/
def State.latchQuay (s : State) (n : Nat) : State := ((s.quayStop n).cutQuay n).wr (R.QY_STATUS_ARMED n) 0

/-- The latch covers the Beacon (R439, R243). -/
def State.latchBeacon (s : State) : State := (List.range 8).foldl State.latchPort s

/-- The Beacon's latch is released: the ports whose plan entry has EN = 1 run their short check before they are armed (R243, R441). -/
def State.releaseBeacon (s : State) : State :=
  if s.on R.RS_SAFE_STATUS_RELEASED ∧ s.powered beaconDomain then
    (List.range 8).foldl (fun (t : State) m => if (t.portPlan m).en then t.startCheck m else t.armPort m) s
  else s

/-- R440: the latch engages; CAUSE keeps the first cause. -/
def State.engageLatch (s : State) (cause : Nat) : State :=
  if s.on R.RS_SAFE_STATUS_RELEASED then
    ((List.range 8).foldl State.latchQuay ((s.wr R.RS_SAFE_STATUS_RELEASED 0).wr R.RS_SAFE_STATUS_CAUSE cause)).latchBeacon
  else s

/-- R441: the latch releases. -/
def State.releaseLatch (s : State) : State :=
  ((List.range 8).foldl State.armQuay (s.wr R.RS_SAFE_STATUS_RELEASED 1)).releaseBeacon

/-- R441: SAFE_ARM with Tj as measured then, in °C + 64; a rise of ILOCK_N in the same cycle keeps the latch engaged. -/
def execSafeArm (tj : Fin 256) (rises : Bool) (s : State) : Res := s.live fun s =>
  let s1 := s.wr R.RS_THERM_TEMP tj
  if s.trimsOk ∧ s.mfIsActive ∧ s.ilockStable ∧ ¬ rises ∧ tj.val < s.rd R.RS_THERM_WARN then
    goOn (if s.on R.RS_SAFE_STATUS_RELEASED then s1 else s1.releaseLatch)
  else goOn (s1.wr R.RS_SAFE_STATUS_ARM_REFUSED 1)

/-- R440: KEY 0x5A engages the latch. -/
def execSafeEngage (s : State) : Res := s.live fun s => goOn (s.engageLatch 2)

/-- R440, R441: ILOCK_N goes high. -/
def execIlockNHigh (s : State) : Res :=
  goOn (({ s with power := { s.power with ilock := none } } : State).wr R.RS_SAFE_STATUS_ILOCK_LOW 0 |>.engageLatch 1)

/-- R441: ILOCK_N goes low; an input that is low already stays so. -/
def execIlockNLow (s : State) : Res :=
  if s.power.ilock.isSome then goOn s
  else goOn (({ s with power := { s.power with ilock := some s.now } } : State).wr R.RS_SAFE_STATUS_ILOCK_LOW 1)

/-- R440: Tj is measured as `tj` (°C + 64); at WARN or above WARN_HIT sets and the latch engages. -/
def execThermalWarn (tj : Fin 256) (s : State) : Res := s.live fun s =>
  let s1 := s.wr R.RS_THERM_TEMP tj
  if s.rd R.RS_THERM_WARN ≤ tj.val then goOn ((s1.wr R.RS_THERM_WARN_HIT 1).engageLatch 3) else goOn s1

end Sys2Proof.Machine
end

