-- ==== Sys2Proof/Machine/Net.lean ====
section
/-! DEFINITION. Chapter 15: the network ports, PTP stamps, the Hawser, PPS_IN and F10M_IN (R398 to R410, R412). -/

namespace Sys2Proof.Machine

/-- The network domain (R443). -/
def netDomain : Nat := 23

/-- PTP runs on the port over IP version `v` (R402). -/
def State.ptpOn (s : State) (n v : Nat) : Bool :=
  s.on R.NT_PTP_CFG_EN && s.rd R.NT_PTP_CFG_PORT == n && v == (if s.on R.NT_PTP_CFG_IPVER then 6 else 4)

/-- The frame's protocol is one that the port answers (R399, Table 15.10). -/
def State.protocolOk (s : State) (n : Nat) (f : NetFrame) : Bool := match f.kind with
  | .arp _ => s.ip4On n
  | .ndp _ => s.ip6On n
  | .echo _ | .modbus => s.ipOn n f.ip
  | .ptpEvent _ _ | .ptpGeneral => s.ipOn n f.ip && s.ptpOn n f.ip
  | .clasuzal => s.ipOn n f.ip && s.rd R.NT_CTL_CZ_PORT == n
  | .pause | .other => false

/-- The frame's tag is the one the port carries (R398). -/
def State.tagOk (s : State) (n : Nat) (f : NetFrame) : Bool :=
  f.vlan == (if s.on (R.NT_n_CFG_VLAN_EN n) then some (s.rd (R.NT_n_CFG_VID n)) else none)

/-- A stamp taken at `t` (1/256 ns), referred to the balls by NT_n_TS_ADJ (R403). -/
def State.atBalls (s : State) (n t : Nat) : Nat := ((t : Int) + toSigned 32 (s.rd (R.NT_n_TS_ADJ_ADJ n))).toNat

/-- R403: a stamp enters the FIFO, or finds 64 entries in it and is discarded. -/
def State.stamp (s : State) (x : Stamp) : State :=
  if s.stamps.length < 64 then { s with stamps := s.stamps ++ [x] } else s.wr R.NT_PTP_CFG_TS_OVF 1

/-- The port's MAC address as six bytes. -/
def State.mac (s : State) (n : Nat) : List Byte := beBytes 6 (s.rdPair (R.NT_n_MAC_LO_MAC_LO n) (R.NT_n_MAC_HI_MAC_HI n))

/-- What an accepted frame brings about: an answer or a stamp. The protocols of the Clasuzal stream and of Modbus TCP have rows of their own. -/
def State.takeFrame (s : State) (n : Nat) (f : NetFrame) : State := match f.kind with
  | .arp true | .ndp true => s.netSend .answer n (s.mac n)
  | .echo true => s.netSend .answer n f.body
  | .ptpEvent msg seq => s.stamp ⟨s.atBalls n f.at_, 0, msg, n, seq⟩
  | _ => s

/-- R398, R399: the port receives a frame. A frame with a bad FCS is counted there; one that is too long and one with another tag are dropped;
what R399 names is dropped and counted, a PAUSE frame among it, which is of no kind of Table 15.10; the rest is accepted. A port that is off
receives nothing. -/
def execNetworkFrameReceive (n : Fin 2) (f : NetFrame) (s : State) : Res := s.live fun s =>
  if !s.powered netDomain ∨ !s.on (R.NT_n_CFG_EN n) then goOn s
  else if !f.fcsOk then goOn (s.inc (R.NT_n_FCS_CNT_COUNT n))
  else if 1522 < f.len ∨ (f.kind ≠ .pause ∧ !s.tagOk n f) then goOn s
  else if !s.protocolOk n f ∨ !f.forUs ∨ f.options then goOn (s.inc (R.NT_n_DROP_CNT_COUNT n))
  else goOn ((s.inc (R.NT_n_RX_CNT_COUNT n)).takeFrame n f)

/-- The four words of a stamp entry (Table 15.11). -/
def stampWords (x : Stamp) : List Nat :=
  [low 32 (x.at_ / 256), low 32 (x.at_ / 2 ^ 40), x.at_ % 256 + 256 * x.dir + 65536 * x.msg + 16777216 * x.port, x.seq]

/-- Loads the read shadow of the stamp FIFO. -/
def State.stampShadow (s : State) (ws : List Nat) : State := ws.zipIdx.foldl (fun t e => t.wr (R.NT_TS_FIFO_w_DATA e.2) e.1) s

/-- R208 for the stamp FIFO: the head moves into the shadow; an empty FIFO gives an entry of DIR 15 and returns 0. -/
def State.popStamp (s : State) : State × Nat := match s.stamps with
  | [] => (s.stampShadow [0, 0, 15 * 256, 0], 0)
  | x :: q => (({ s with stamps := q } : State).stampShadow (stampWords x), (stampWords x).headD 0)

/-- R403, R208, R31. -/
def execPtpStampPop (s : State) : Res := s.live fun s =>
  if s.powered netDomain then goOn (s.popStamp.1.answer .ok [s.popStamp.2]) else goOn ((s.lockAnswer netDomain).answer .ok [0])

/-- R402, R403: the port sends a Delay_Req in E2E, a Pdelay_Req or Pdelay_Resp in P2P, and stamps it. Another message, and one on a port that
does not run PTP, is never sent. -/
def execPtpSend (n : Fin 2) (msg : Fin 4) (seq : BitVec 16) (at_ : Nat) (s : State) : Res := s.live fun s =>
  let v := if s.on R.NT_PTP_CFG_IPVER then 6 else 4
  let fits := if s.on R.NT_PTP_CFG_MODE then msg.val = 2 ∨ msg.val = 3 else msg.val = 1
  if s.powered netDomain ∧ s.on (R.NT_n_CFG_EN n) ∧ s.ptpOn n v ∧ s.ipOn n v ∧ fits then
    goOn ((s.netSend .ptp n (leBytes 1 msg ++ leBytes 1 (s.rd R.NT_PTP_CFG_DOMAIN) ++ beBytes 2 seq.toNat)).stamp ⟨s.atBalls n at_, 1, msg, n, seq.toNat⟩)
  else goOn s

/-- A Hawser frame with its CRC (R407, Table 15.12), from its bits [79:0]. -/
def hawserFrame (v : Nat) : Nat := low 80 v + 2 ^ 80 * crc16 (leBytes 10 v)

/-- A frame's bits [79:0] from VER, TIDE, SYNC, HOP and QUAL. -/
def hawserBits (ver tide sync hop qual : Nat) : Nat :=
  0xA5 + 2 ^ 8 * ver + 2 ^ 12 * low 47 tide + 2 ^ 59 * sync + 2 ^ 60 * hop + 2 ^ 65 * qual

/-- SOURCE of HB_TIME_STATUS: the first of HAWSER, PPS and PTP that is enabled and valid, 0 for none. When firmware holds PPS or PTP valid is
not given. -/
def State.showSource (s : State) : State :=
  let en := s.rd R.HB_TIME_CFG_SRC_EN
  let hws := bit en 2 && s.on R.HB_HWS_VALID_VALID && !s.on R.HB_TIME_CFG_HWS_HEAD
  let pps := bit en 1 && (match s.hawser.pps with
    | some t => Config.ppsValid t s.now
    | none => false)
  let ptp := bit en 0 && s.on R.NT_PTP_CFG_EN && Config.ptpValid s.now
  s.wr R.HB_TIME_STATUS_SOURCE (if hws then 3 else if pps then 2 else if ptp then 1 else 0)

/-- A measured value in an int32 field; beyond its range the spec states no value. -/
def State.wrInt32 (s : State) (f : Fld) (v : Int) : State :=
  if -(2 ^ 31 : Int) ≤ v ∧ v < 2 ^ 31 then s.wr f (ofSigned 32 v) else (s.wr f s.freeNow).nextFree

/-- A HAWSER sync event that is accepted, for boundary `b` (R133): it lands there when it comes in time, else as R37 gives, with SYNC_LATE; requests for one
boundary cause one reset. -/
def State.hawserSync (s : State) (b : Nat) : State :=
  let late := decide (b < s.now + 16384)
  let due := if late then landAt s.now else b
  let s1 := if late then s.wr R.RX_SL_STATUS_SYNC_LATE 1 else s
  if s1.landing.any (fun l => l.due == due && decide (l.change = Change.sync)) then s1
  else (s1.wr R.RX_SL_STATUS_SYNC_PENDING 1).acceptAt due .sync

/-- R408 to R410: a received frame is checked, its version settled, its offset reported and its SYNC passed on; a head only reports. A frame
without START is no frame. -/
def execHawserFrameReceive (frame : BitVec 96) (coded : Bool) (at_ : Nat) (s : State) : Res := s.live fun s =>
  let v := frame.toNat
  if bits v 0 8 ≠ 0xA5 then goOn s
  else if !coded ∨ hawserFrame v ≠ v then goOn (s.wr R.HB_HWS_STATUS_CRC_ERR 1)
  else
    let ver := Nat.min (bits v 8 4) (s.rd (R.HB_IF_i_MAX 4))
    if ver < s.rd (R.HB_IF_i_MIN 4) then goOn (s.wr R.HB_HWS_STATUS_INCOMPAT 1)
    else
      let head := s.on R.HB_TIME_CFG_HWS_HEAD
      let hop := if ver = 1 then 0 else bits v 60 5
      let b := 131072 * bits v 12 47
      let s1 := (((s.wr R.HB_HWS_STATUS_INCOMPAT 0).wr R.HB_HWS_STATUS_VER ver).wr R.HB_HWS_STATUS_HOP hop).wr (R.HB_IF_i_CUR 4) ver
      let s2 := (s1.wr R.HB_HWS_VALID_VALID 1).wrInt32 R.HB_HWS_OFS_OFS
        ((at_ : Int) - (s.rd R.HB_HWS_CABLE_DELAY : Nat) - (1600 * hop : Nat) - (16 * b : Nat))
      let s3 := { s2 with hawser := { s2.hawser with good := true, misses := 0, forward := if head then none else some (v, at_ / 16) } }
      let s4 := if bit v 59 then
          let t := s3.wr R.HB_HWS_STATUS_SYNC_RX 1
          if head ∨ ¬ s.on R.RX_SL_CTL_HAWSER_EN then t else t.hawserSync (b + 262144)
        else s3
      goOn s4.showSource

/-- R408, R410: the frame goes out again with HOP + 1, 100 ns after it arrived; in version 1 HOP stays 0, and the spec gives none beyond 31. -/
def execHawserForward (s : State) : Res := s.live fun s =>
  match s.hawser.forward with
  | none => goOn s
  | some (v, t) =>
    let s1 := { s with hawser := { s.hawser with forward := none } }
    if s.on R.HB_TIME_CFG_HWS_HEAD ∨ !s.on R.HB_TIME_CFG_HWS_FWD then goOn s1
    else
      let hop := bits v 60 5
      let s2 := if hop = 31 then s1.nextFree else s1
      let next := if bits v 8 4 < 2 then hop else if hop = 31 then low 5 s1.freeNow else hop + 1
      let w := hawserFrame (low 80 v - 2 ^ 60 * hop + 2 ^ 60 * next)
      goOn { (if s.inTide (t + 100) then s2.advance (t + 100) else s2) with sent := s2.sent ++ [{ kind := .hawser, port := 0, body := leBytes 12 w }] }

/-- R409: after 3 successive boundaries without a good frame VALID clears. -/
def execHawserLost (s : State) : Res := s.live fun s =>
  if 3 ≤ s.hawser.misses then goOn (s.wr R.HB_HWS_VALID_VALID 0).showSource else goOn s

/-- R409 at a boundary: a boundary without a good frame counts. -/
def State.hawserBoundary (s : State) : State :=
  { s with hawser := { s.hawser with good := false, misses := if s.hawser.good then 0 else s.hawser.misses + 1 } }

/-- R407, R410: the head starts its frame at boundary `b`. What makes it set SYNC is not given. -/
def State.hawserSend (s : State) (b : Nat) : State :=
  if s.on R.HB_TIME_CFG_HWS_HEAD then
    let ver := s.rd (R.HB_IF_i_MAX 4)
    let qual := if ver < 2 then 0 else s.rd R.HB_TIME_STATUS_SOURCE
    { s.nextFree with sent := s.sent ++ [{ kind := .hawser, port := 0, body := leBytes 12 (hawserFrame (hawserBits ver (tideOf b) (low 1 s.freeNow) 0 (low 3 qual))) }] }
  else s

/-- R412: device time at the edge minus the nearest whole second, in 1/16 ns. -/
def execPpsInEdge (at_ : Nat) (s : State) : Res := s.live fun s =>
  let sec := (at_ + 8000000000) / 16000000000
  let s1 := s.wrInt32 R.HB_PPS_OFS_OFS ((at_ : Int) - (16000000000 * sec : Nat))
  goOn ({ s1 with hawser := { s1.hawser with pps := some at_ } } : State).showSource

/-- R412: with F10M_EN the rate error over the last second is reported. -/
def execF10mRateUpdate (rate : Word) (s : State) : Res := s.live fun s =>
  if s.on R.HB_TIME_CFG_F10M_EN then goOn (s.wr R.HB_F10M_RATE_RATE rate.toNat) else goOn s

end Sys2Proof.Machine
end

