-- ==== Sys2Proof/Machine/Trim.lean ====
section
/-! DEFINITION. Chapter 16: trim images, factory and user values, backscatter, code density, and the swap of user tables (R414 to R430). -/

namespace Sys2Proof.Machine

/-- TRIM1 and TRIM2 show the slice that SEL names (Table 16.9). -/
def State.showSlice (s : State) (n l : Nat) : State :=
  let t := ((s.quayTrim n).lane l).slice (s.rd (R.CL_QY_n_L_l_SEL_SLICE n l))
  ((s.wr (R.CL_QY_n_L_l_TRIM1_OFFSET n l) (ofSigned 16 t.offset)).wr (R.CL_QY_n_L_l_TRIM1_GAIN n l) (ofSigned 16 t.gain)).wr
    (R.CL_QY_n_L_l_TRIM2_SKEW n l) (ofSigned 16 t.skew)

/-- A two's complement number of two bytes of a table. -/
def int16At (b : List Byte) (o : Nat) : Int := toSigned 16 (bodyNat b o 2)

/-- A two's complement number of four bytes of a table. -/
def int32At (b : List Byte) (o : Nat) : Int := toSigned 32 (bodyNat b o 4)

/-- The trims of lane `l` of quay `n` in Charter table 4 (Table 16.3): 240 bytes a quay, nine slices of three values a lane. -/
def laneTrimOf (b : List Byte) (n l : Nat) : LaneTrim :=
  { trims := (List.range 9).foldl (fun (t : Tab SliceTrim) k =>
      let o := 240 * n + 54 * l + 6 * k
      Tab.put {} t k ⟨int16At b o, int16At b (o + 2), int16At b (o + 4)⟩) [] }

/-- The trims of quay `n` take the values of table 4, or the defaults of Table 16.4 for none. -/
def State.loadQuay (s : State) (b : Option (List Byte)) (n : Nat) : State :=
  let body := b.getD []
  let x : QuayTrim := { lanes := (List.range 4).foldl (fun (t : Tab LaneTrim) l => Tab.put {} t l (laneTrimOf body n l)) [] }
  let o := 240 * n + 216
  let s1 := (s.setQuayTrim n x).resetRegs (0x301000 + 0x100 * n) (0x301100 + 0x100 * n)
  let s2 := (List.range 2).foldl (fun (t : State) q =>
    (t.wr (R.CL_QY_n_IQ_q_AMP n q) (bodyNat body (o + 4 * q) 2)).wr (R.CL_QY_n_IQ_q_PHASE n q) (bodyNat body (o + 4 * q + 2) 2)) s1
  let s3 := (s2.wr (R.CL_QY_n_NOISE_X n) (bodyNat body (o + 8) 2)).wr (R.CL_QY_n_NOISE_Y n) (bodyNat body (o + 10) 2)
  let s4 := (List.range 4).foldl (fun (t : State) l => t.showSlice n l) s3
  if s.on (R.RX_STATUS_NOISE_VALID n) then s4 else s4.restartNoise n

/-- The code density of lane `l`. -/
def State.tapTable (s : State) (l : Nat) : TapTable := Tab.get {} s.taps l

/-- Sets the code density of lane `l`. -/
def State.setTaps (s : State) (l : Nat) (x : TapTable) : State := { s with taps := Tab.put {} s.taps l x }

/-- The user table in use under a bit of the selection record, empty for none. -/
def State.userTable (s : State) (i : Nat) : List Byte := Tab.get [] s.calActive i

/-- The STAMP value number `k`, 0 where no table is in use (Table 16.7). -/
def stampValue (b : List Byte) (k : Nat) : Int := if b.isEmpty then 0 else int32At b (4 * k)

/-- The factory delay of tally lane `l` (Table 16.3). -/
def State.factoryDelay (s : State) (l : Nat) : Int := match s.charterTable 5 with
  | some b => int32At b (20 * l)
  | none => 0

/-- Factory value `k` of Charter table 7: the eight QY_LGT_DLY, the eight BC_m_SHOT_DLY and the two NT_n_TS_ADJ. -/
def State.factoryStamp (s : State) (k : Nat) : Int := match s.charterTable 7 with
  | some b => if k < 16 then (bodyNat b (2 * k) 2 : Nat) else int32At b (32 + 4 * (k - 16))
  | none => 0

/-- TL_LANE_i_DELAY of lane `l`: factory + user (Table 16.1). -/
def State.showDelay (s : State) (l : Nat) : State :=
  s.wr (ln R.TL_LANE_i_DELAY_DELAY l) (ofSigned 32 (s.factoryDelay l + stampValue (s.userTable 0) l))

/-- The delays of the stamps: factory + user (Table 16.1). -/
def State.showStamps (s : State) : State :=
  let v := fun k => s.factoryStamp k + stampValue (s.userTable 0) (128 + k)
  let s1 := (List.range 8).foldl (fun (t : State) n =>
    (t.wr (R.QY_LGT_DLY_DLY n) (ofSigned 16 (v n))).wr (R.BC_m_SHOT_DLY_DLY n) (ofSigned 16 (v (8 + n)))) s
  (List.range 2).foldl (fun (t : State) n => t.wr (R.NT_n_TS_ADJ_ADJ n) (ofSigned 32 (v (16 + n)))) s1

/-- A STAMP body keeps every value in use inside its field (R415). -/
def State.stampFits (s : State) (b : List Byte) : Bool :=
  (List.range 128).all (fun l => let v := s.factoryDelay l + stampValue b l; clampSigned 32 v == v) &&
  (List.range 18).all (fun k =>
    let v := s.factoryStamp k + stampValue b (128 + k)
    if k < 16 then decide (0 ≤ v ∧ v < 65536) else clampSigned 32 v == v)

/-- The delays and tap maps of bank `n` load, and each lane's first code-density pass starts (Table 16.2, R423). -/
def State.loadBank (s : State) (n : Nat) : State :=
  (List.range 16).foldl (fun (t : State) i =>
    let l := 16 * n + i
    let x := t.tapTable l
    let f := match t.charterTable 5 with
      | some b => ((Config.tapList ((b.drop (20 * l + 4)).take 16)).filter (· < 608)).eraseDups.take 8
      | none => []
    let t1 := (t.setTaps l { x with table := [], due := [], factory := f }).wr (R.CL_TL_l_HITS_HITS l) 0
    (t1.wr (R.CL_TL_l_STATUS_MAPPED l) (f.length + x.live.length)).showDelay l) (s.wr (R.TL_BANK_STATUS_CAL_VALID n) 0)

/-- A Charter table that fell back to its defaults: CL_DEGRADED, CAL_DEGRADED, and the event once device time is valid (R418). -/
def State.degrade (s : State) (t : Nat) : State :=
  if s.rdBit R.CL_DEGRADED_TABLE t then s
  else
    let s1 := (s.wrBit R.CL_DEGRADED_TABLE t true).wr R.CL_STATUS_CAL_DEGRADED 1
    if s.on R.HB_TIME_STATUS_VALID then s1.event 0x56 255 [t] else s1

/-- R417 for one table: copy B in use is noted, and a table that fails in both is noted as degraded. -/
def State.checkTable (s : State) (t : Nat) : State :=
  if crcGood (s.charterCopy t 0) then s
  else if crcGood (s.charterCopy t 1) then s.wrBit R.CL_COPY_B_TABLE t true
  else if t < 4 then s.wrBit R.CL_DEGRADED_TABLE t true
  else s.degrade t

/-- The domains a die's image is for. -/
def dieDomains (d : TrimDie) : List Nat := match d with
  | .quays => (List.range 8).map quayDomain
  | .quay n => [quayDomain n]
  | .bank n => [bankDomain n]
  | .sounding => [21]

/-- The Charter table of a die's image. -/
def dieTable (d : TrimDie) : Nat := match d with
  | .quays | .quay _ => 4
  | .bank _ => 5
  | .sounding => 6

/-- The image is on its way to the die. -/
def State.imageDue (s : State) (d : TrimDie) : Bool := (dieDomains d).any (fun k => s.power.image.contains k)

/-- The trims of a die take their values, factory or default, and become valid (R416, R418). -/
def State.dieTrims (s : State) (d : TrimDie) (good : Bool) : State :=
  let ks := (dieDomains d).filter (fun k => s.power.image.contains k)
  let s1 := match d with
    | .quays | .quay _ => ks.foldl (fun (t : State) k => t.loadQuay (if good then t.charterTable 4 else none) (k - 1)) s
    | .bank n => s.loadBank n
    | .sounding => s.endHold 21
  let p := s1.power
  let s2 : State := { s1 with power := { p with image := p.image.filter (fun k => !ks.contains k), failed := p.failed.filter (fun k => !ks.contains k)
                                                trims := (p.trims ++ ks).eraseDups
                                                restore := if s1.on R.CL_STATUS_LOADED then (p.restore ++ ks).eraseDups else p.restore } }
  ks.foldl (fun (t : State) k => if k ≤ 8 then t.armQuay (k - 1) else t) s2

/-- R416: an image whose check fails is sent once more from the other copy; a second failure gives the die the defaults. Loss of trim
validity on the Quay die engages the latch (R440). -/
def execTrimImageArrive (die : TrimDie) (ok : Bool) (s : State) : Res := s.live fun s =>
  if !s.imageDue die then goOn s
  else if ok then goOn (s.dieTrims die true)
  else
    let s1 := match die with
      | .quays | .quay _ => s.engageLatch 4
      | _ => s
    if (dieDomains die).any (fun k => s.power.failed.contains k) then goOn ((s1.degrade (dieTable die)).dieTrims die false)
    else goOn ({ s1 with power := { s1.power with failed := s1.power.failed ++ (dieDomains die) } }.wr R.CL_STATUS_CHECK_RETRY 1)

/-- Where the calibration area's copies lie in the Hold (Table 16.6). -/
def calBase (copy : Nat) : Nat := if copy = 0 then 0x10000 else 0x40000

/-- Offset within a copy and size of the slots of a table, by its bit in the selection record (Table 16.7). -/
def calPlace (i : Nat) : Nat × Nat := if i = 0 then (0x100, 1024) else if i = 1 then (0x900, 2048) else (0x2000 + 4096 * (i - 16), 2048)

/-- KIND and SET of a table, by its bit. -/
def calKind (i : Nat) : Nat × Nat := if i = 0 then (1, 0) else if i = 1 then (2, 0) else (3, i - 16)

/-- Bytes of the body of a table (Table 16.7): 146 values, 128 pairs, or 32 corrections and 8 curves of 132 bytes. -/
def calBody (i : Nat) : Nat := if i = 0 then 584 else if i = 1 then 1024 else 1184

/-- Every body of a FLOW set has at most 16 points a curve, with Re ascending (Table 16.8). -/
def flowSetOk (b : List Byte) : Bool :=
  (List.range 8).all (fun c =>
    let n := bodyNat b (128 + 132 * c) 4
    decide (n ≤ 16) && (List.range (n - 1)).all (fun i => decide ((curvePoint b c i).1 < (curvePoint b c (i + 1)).1)))

/-- The body of a table image, if MAGIC, KIND, SET, LENGTH, TABLE_ID and CRC-32 are good (R425). -/
def calImage (i : Nat) (img : List Byte) : Option (List Byte) :=
  let k := calKind i
  if bodyNat img 0 2 = 0x5443 ∧ bodyNat img 2 1 = k.1 ∧ bodyNat img 3 1 = k.2 ∧ bodyNat img 8 4 = img.length ∧ img.length = 36 + calBody i ∧
      bodyNat img 12 4 ≠ 0 ∧ crcGood img then some ((img.drop 32).take (calBody i))
  else none

/-- The values of a body lie in their ranges (R415, Table 16.8). -/
def State.calValuesOk (s : State) (i : Nat) (b : List Byte) : Bool := if i = 0 then s.stampFits b else if i = 1 then true else flowSetOk b

/-- The image of a table in one copy of its active slot, if it verifies and keeps R415. -/
def State.calStored (s : State) (i slot copy : Nat) : Option (List Byte) :=
  let p := calPlace i
  let img := s.holdBytes (calBase copy + p.1 + p.2 * slot) (36 + calBody i)
  match calImage i img with
  | some b => if s.calValuesOk i b then some img else none
  | none => none

/-- The selection record of a copy: GEN, SEL and PRESENT, if it verifies (Table 16.7; log entry 19 for its layout). -/
def State.calRecord (s : State) (copy : Nat) : Option (Nat × Nat × Nat) :=
  let b := s.holdBytes (calBase copy) 22
  if bodyNat b 0 2 = 0x4C53 ∧ crcGood b then some (bodyNat b 2 8, bodyNat b 10 4, bodyNat b 14 4) else none

/-- The bits of the selection record. -/
def calBits : List Nat := [0, 1] ++ (List.range 16).map (· + 16)

/-- TABLE_ID of the active table shows in its register (Table 16.9). -/
def State.showTableId (s : State) (i id : Nat) : State :=
  if i = 0 then s.wr R.CL_ID_STAMP_TABLE_ID id else if i = 1 then s.wr R.CL_ID_SOUNDING_TABLE_ID id else s.wr (R.CL_ID_FLOW_s_TABLE_ID (i - 16)) id

/-- TABLE_ID of the active table of a bit. -/
def State.tableId (s : State) (i : Nat) : Nat :=
  if i = 0 then s.rd R.CL_ID_STAMP_TABLE_ID else if i = 1 then s.rd R.CL_ID_SOUNDING_TABLE_ID else s.rd (R.CL_ID_FLOW_s_TABLE_ID (i - 16))

/-- R426 for one bit of PRESENT: copy A, else copy B, else the factory values alone or an absent set. -/
def State.loadUser (s : State) (i : Nat) : State :=
  if bit s.calSel.2 i then
    let slot := s.calSel.1 / 2 ^ i % 2
    let img := match s.calStored i slot 0 with
      | some x => some x
      | none => s.calStored i slot 1
    match img with
    | some x => ({ s with calActive := Tab.put [] s.calActive i ((x.drop 32).take (calBody i)) } : State).showTableId i (bodyNat x 12 4)
    | none => if i < 2 then (s.wr R.CL_STATUS_USER_FALLBACK 1).event 0x56 255 [256 + (calKind i).1] else s
  else s

/-- R426: the selection record with the higher GEN of those that verify, and the tables it names. -/
def State.loadUsers (s : State) : State :=
  let r : Option (Nat × Nat × Nat) := match s.calRecord 0, s.calRecord 1 with
    | some a, some b => if a.1 < b.1 then some b else some a
    | some a, none => some a
    | none, b => b
  let x := r.getD (0, 0, 0)
  calBits.foldl State.loadUser (({ s with calSel := (x.2.1, x.2.2), calActive := [] } : State).wrPair R.CL_HOLD_GEN_LO_GEN_LO R.CL_HOLD_GEN_HI_GEN_HI x.1)

/-- R416, Table 16.2: the trim load begins: the Charter tables and the user tables are read and checked, and the images leave for the dies
that are powered. -/
def State.startTrimLoad (s : State) : State :=
  let s1 := ([1, 4, 5, 6, 7].foldl State.checkTable (s.wr R.CL_STATUS_LOADING 1)).loadUsers
  { s1 with power := { s1.power with image := (((List.range 16).map (· + 1)) ++ [21]).filter s1.powered, failed := [], trims := [] } }

/-- The last CAL_SWAP event of the journal for a table: its new TABLE_ID (R429). -/
def State.lastCalSwap (s : State) (i : Nat) : Option Nat :=
  (s.journal.reverse.findSome? (fun e =>
    if bodyNat e.2 3 1 = 2 ∧ bodyNat e.2 64 2 = 0x30 then
      let a := readArgs 0x30 ((e.2.drop 76).take 52)
      if (a.getD 0 0, a.getD 1 0) = calKind i then some (a.getD 3 0) else none
    else none))

/-- R429 at start-up: an active table that the chain does not name gets its CAL_SWAP event. -/
def State.nameTables (s : State) : State :=
  calBits.foldl (fun (t : State) i => match s.lastCalSwap i with
    | some id => if id = t.tableId i then t else t.event 0x30 255 [(calKind i).1, (calKind i).2, id, t.tableId i]
    | none => t) s

/-- The jitter seed and the MAC addresses of Charter table 1 (Tables 16.2 and 17.8). -/
def State.loadIdentity (s : State) : State := match s.charterTable 1 with
  | some b => (List.range 2).foldl (fun (t : State) n =>
      t.wrPair (R.NT_n_MAC_LO_MAC_LO n) (R.NT_n_MAC_HI_MAC_HI n) (Config.macOf b n)) (s.wr R.BC_JIT_SEED_SEED (Config.jitSeed b))
  | none => s

/-- R416, R390: with every image in place the stamp delays, the jitter seed and the MAC addresses load; LOADED and FW_READY set and the
firmware runs. The Sounding trims are valid once the first rotation is complete too (R424). -/
def execTrimLoadDone (s : State) : Res := s.live fun s =>
  if s.on R.CL_STATUS_LOADING ∧ s.power.image.isEmpty then
    let s1 := (((s.showStamps.loadIdentity.nameTables.wr R.CL_STATUS_LOADING 0).wr R.CL_STATUS_LOADED 1).wr R.MB_STATUS_FW_READY 1).wr
      R.MB_BOOT_STATUS_STATE 3
    goOn (if s1.on R.CL_SN_STATUS_ROT_DONE ∧ s1.power.trims.contains 21 then s1.wr R.SN_STATUS_CAL_VALID 1 else s1)
  else goOn s

/-- The slices of a lane that work: the spare takes the place of the one it replaced (R421). -/
def State.activeSlices (s : State) (n l : Nat) : List Nat :=
  if s.on (R.CL_QY_n_L_l_SPARE_IN_USE n l) then
    (List.range 9).filter (fun k => k != s.rd (R.CL_QY_n_L_l_SPARE_REPLACED n l))
  else List.range 8

/-- A quotient; by 0 its value is open (R419 states none), the `i`-th free value from here. -/
def State.quotient (s : State) (i : Nat) (a b : Rat) : Rat :=
  if b = 0 then (toSigned 32 (low 32 (Config.freeValue (s.free + i))) : Rat) / 65536 else a / b

/-- The statistics of slice `k`. -/
def sliceStat (x : LaneStat) (k : Nat) : SliceStat := x.slices.getD k ⟨0, 0, 0, 0⟩

/-- v̄ of R419 over the slices `act`. -/
def meanVar (x : LaneStat) (act : List Nat) : Rat := (act.map (fun k => (sliceStat x k).var)).sum / (act.length : Nat)

/-- The errors of slice `k` against the mean variance of the slices `act` (R419); e_t is taken from the slice before to the slice after. -/
def State.sliceErr (s : State) (x : LaneStat) (act : List Nat) (k : Nat) : SliceErr :=
  let y := sliceStat x k
  { offset := y.mean, gain := sqrtRat (s.quotient 0 y.var (meanVar x act)) - 1, skew := s.quotient 1 (y.before - y.after) x.slope }

/-- The arc sine in degrees. -/
def asinDeg (x : Rat) : Rat := 360 * argTurns (sqrtRat (1 - x * x), x)

/-- The errors of a polarisation (R419). -/
def State.iqErr (s : State) (x : IqStat) : IqErr :=
  { amp := sqrtRat (s.quotient 2 x.ii x.qq) - 1, phase := asinDeg (s.quotient 3 x.iq (sqrtRat (x.ii * x.qq))) }

/-- R419: a lane of a quay that runs completes a pass: its errors are computed and their moves land at the next boundary, and with the last of
the four lanes those of the polarisations. A lane that failed makes no further pass. -/
def execBackscatterPass (n : Fin 8) (l : Fin 4) (stat : LaneStat) (iq : List IqStat) (s : State) : Res := s.live fun s =>
  let x := s.quayTrim n
  if s.on R.CL_CFG_QY_AUTO ∧ s.on (R.QY_STATUS_RUNNING n) ∧ ¬ s.on (R.QY_STATUS_STOPPED n) ∧ s.power.trims.contains (quayDomain n) ∧
      ¬ s.rdBit (R.CL_QY_n_STATUS_FAIL n) l ∧ (x.lane l).due.isEmpty then
    let done := (l.val :: x.done).eraseDups
    let all := (List.range 4).all (fun k => done.contains k || s.rdBit (R.CL_QY_n_STATUS_FAIL n) k)
    let act := s.activeSlices n l
    let errs := (List.range 9).map (s.sliceErr stat act)
    let y := { x with lanes := Tab.put {} x.lanes l { (x.lane l) with due := errs }, done := if all then [] else done }
    let iqErrs := (List.range 2).map (fun p => s.iqErr (iq.getD p ⟨1, 1, 0⟩))
    let t := s.setQuayTrim n (if all then { y with iqDue := iqErrs } else y)
    let open_ := decide (meanVar stat act = 0 ∨ stat.slope = 0) || (all && iq.any (fun x => decide (x.qq = 0 ∨ x.ii = 0)))
    goOn (if open_ then { t with free := t.free + 4 } else t)
  else goOn s

/-- A move that cancels an error of `e` steps, rounded and limited (R420, R476). -/
def trimMove (e : Rat) (limit : Int) : Int := max (-limit) (min (roundHalf (-e)) limit)

/-- The moves of a slice: offset, gain and skew in their steps (Table 16.5). -/
def sliceMoves (e : SliceErr) : Int × Int × Int :=
  (trimMove (16 * e.offset) 16, trimMove (65536 * e.gain) 65, trimMove (64 * e.skew) 32)

/-- The moves stay under a quarter of their step limits (R420). -/
def smallMoves (m : Int × Int × Int) : Bool := decide (4 * m.1.natAbs < 16 ∧ 4000 * m.2.1.natAbs < 65536 ∧ 4 * m.2.2.natAbs < 32)

/-- A slice's trims after a move, inside their ranges. -/
def SliceTrim.move (t : SliceTrim) (m : Int × Int × Int) : SliceTrim :=
  ⟨max (-1024) (min (t.offset + m.1) 1024), max (-4096) (min (t.gain + m.2.1) 4096), max (-1000) (min (t.skew + m.2.2) 1000)⟩

/-- A trim lies within 1/8 of its range end (R421). -/
def SliceTrim.nearEnd (t : SliceTrim) : Bool := decide (8 * t.offset.natAbs ≥ 7 * 1024 ∨ 8 * t.gain.natAbs ≥ 7 * 4096 ∨ 8 * t.skew.natAbs ≥ 7 * 1000)

/-- The offset or gain error exceeds four times its step limit (R421). -/
def largeErr (e : SliceErr) : Bool := decide (4 < absRat e.offset ∨ 4 / 1000 < absRat e.gain)

/-- A slice meets a condition of R421. -/
def LaneTrim.bad (x : LaneTrim) (k : Nat) : Bool := (x.slice k).nearEnd || decide (8 ≤ Tab.get 0 x.high k)

/-- The spare of lane `l` replaces slice `k` (R421). -/
def State.replaceSlice (s : State) (n l k : Nat) : State :=
  (((s.wr (R.CL_QY_n_L_l_SPARE_IN_USE n l) 1).wr (R.CL_QY_n_L_l_SPARE_REPLACED n l) k).wr (R.CL_QY_n_L_l_SPARE_SHADOW n l) k).wr R.CL_STATUS_SPARE_IN 1

/-- Lane `l` of quay `n` fails: it keeps its last trims (R421). -/
def State.failLane (s : State) (n l : Nat) : State :=
  ((s.wrBit (R.CL_QY_n_STATUS_FAIL n) l true).wr R.CL_STATUS_LANE_FAIL 1).event 0x56 255 [512, n, l]

/-- The spare slice after a pass (R421): it replaces the slice that needs it, moves to it for two passes first, or turns to the next slice
every 16 passes; a second slice in need makes the lane fail. -/
def State.spareStep (s : State) (n l : Nat) : State :=
  let x := (s.quayTrim n).lane l
  let put := fun (t : State) (y : LaneTrim) => t.setQuayTrim n { (t.quayTrim n) with lanes := Tab.put {} (t.quayTrim n).lanes l y }
  let bad := (s.activeSlices n l).filter x.bad
  let shadow := s.rd (R.CL_QY_n_L_l_SPARE_SHADOW n l)
  if s.on (R.CL_QY_n_L_l_SPARE_IN_USE n l) then if bad.isEmpty then s else s.failLane n l
  else
    match x.wanted with
    | some w =>
      let s1 := if 1 ≤ x.turn then put (s.replaceSlice n l w) { x with wanted := none, turn := 0 } else put s { x with turn := x.turn + 1 }
      if bad.any (fun k => k != w) then s1.failLane n l else s1
    | none => match bad with
      | [] => if 15 ≤ x.turn then put (s.wr (R.CL_QY_n_L_l_SPARE_SHADOW n l) ((shadow + 1) % 8)) { x with turn := 0 } else put s { x with turn := x.turn + 1 }
      | k :: more =>
        let s1 := if shadow = k then put (s.replaceSlice n l k) { x with turn := 0 }
          else put (s.wr (R.CL_QY_n_L_l_SPARE_SHADOW n l) k) { x with wanted := some k, turn := 0 }
        if more.isEmpty then s1 else s1.failLane n l

/-- R420 for one lane: the moves of its pass land. -/
def State.moveLane (s : State) (n l : Nat) : State :=
  let q := s.quayTrim n
  let x := q.lane l
  if x.due.isEmpty then s
  else
    let act := s.activeSlices n l
    let mv := fun k => sliceMoves (x.due.getD k ⟨0, 0, 0⟩)
    let gone := if s.on (R.CL_QY_n_L_l_SPARE_IN_USE n l) then some (s.rd (R.CL_QY_n_L_l_SPARE_REPLACED n l)) else none
    let y := { x with
      trims := (List.range 9).foldl (fun (t : Tab SliceTrim) k => if gone = some k then t else Tab.put {} t k ((Tab.get {} t k).move (mv k))) x.trims
      high := act.foldl (fun (t : Tab Nat) k => Tab.put 0 t k (if largeErr (x.due.getD k ⟨0, 0, 0⟩) then Tab.get 0 t k + 1 else 0)) x.high
      due := [], calm := act.all (fun k => smallMoves (mv k)) }
    ((s.setQuayTrim n { q with lanes := Tab.put {} q.lanes l y }).spareStep n l).showSlice n l

/-- R420 for the polarisations of quay `n`. -/
def State.movePols (s : State) (n : Nat) : State :=
  let q := s.quayTrim n
  if q.iqDue.isEmpty then s
  else
    let m := fun p => let e := q.iqDue.getD p ⟨0, 0⟩; (trimMove (65536 * e.amp) 65, trimMove (1024 * e.phase) 51)
    let s1 := (List.range 2).foldl (fun (t : State) p =>
      let a := toSigned 16 (t.rd (R.CL_QY_n_IQ_q_AMP n p)) + (m p).1
      let f := toSigned 16 (t.rd (R.CL_QY_n_IQ_q_PHASE n p)) + (m p).2
      (t.wr (R.CL_QY_n_IQ_q_AMP n p) (ofSigned 16 (max (-4096) (min a 4096)))).wr (R.CL_QY_n_IQ_q_PHASE n p)
        (ofSigned 16 (max (-4096) (min f 4096)))) s
    let calm := (List.range 2).filter (fun p => decide (4000 * (m p).1.natAbs < 65536 ∧ 400 * (m p).2.natAbs < 5120))
    (s1.setQuayTrim n { q with iqDue := [], calm := calm }).inc (R.CL_QY_n_UPD_COUNT n)

/-- R420 at a boundary: the moves of quay `n` land, and CONV follows them. -/
def State.trimBoundary (s : State) (n : Nat) : State :=
  let q := s.quayTrim n
  if q.iqDue.isEmpty ∧ (List.range 4).all (fun l => (q.lane l).due.isEmpty) then s
  else
    let s1 := ((List.range 4).foldl (fun (t : State) l => t.moveLane n l) s).movePols n
    let x := s1.quayTrim n
    s1.wr (R.CL_QY_n_STATUS_CONV n) (((List.range 4).map (fun l => flagAt ((x.lane l).calm && x.calm.contains (l / 2)) l)).sum)

/-- The code table of a pass (R422): F(k) = round(8,192 × (Σ below k + n_k / 2) / 2^20). -/
def tapCodes : List Nat → Nat → List Nat
  | [], _ => []
  | n :: ns, below => ((2 * below + n) * 8192 + 2 ^ 20) / 2 ^ 21 :: tapCodes ns (below + n)

/-- R422, R423: the lane has its 2^20 hits. Without TL_AUTO only the first pass after a load counts; hits of the reference oscillator need
MODE OFF. Taps with too many bubbles are mapped out, 16 a lane at most; more, or hits in the last 8 taps, leave the last good table. -/
def execCodeDensityPass (lane : Fin 128) (hits bubbly : List Nat) (s : State) : Res := s.live fun s =>
  let l := lane.val
  let x := s.tapTable l
  let first := x.table.isEmpty && x.due.isEmpty
  let ambient := s.rd (R.CL_TL_l_HITS_HITS l)
  if s.powered (bankDomain (l / 16)) ∧ s.power.trims.contains (bankDomain (l / 16)) ∧ hits.length = 608 ∧ hits.sum = 2 ^ 20 ∧
      (first ∨ (s.on R.CL_CFG_TL_AUTO ∧ (ambient = 2 ^ 20 ∨ s.rd (ln R.TL_LANE_i_CFG_MODE l) = 0))) then
    let mapped := x.factory ++ x.live
    let new := (bubbly.eraseDups.filter (fun k => decide (k < 608) && !mapped.contains k))
    let taken := new.take (16 - mapped.length)
    let fail := decide (taken.length < new.length) || (hits.drop 600).any (· != 0)
    let y := { x with live := x.live ++ taken, due := if fail && !first then [] else tapCodes hits 0 }
    let s1 := ((s.setTaps l y).wr (R.CL_TL_l_STATUS_MAPPED l) (mapped.length + taken.length)).wr (R.CL_TL_l_STATUS_SPAN l)
      (hits.filter (· != 0)).length
    let s2 := ((s1.wr (R.CL_TL_l_STATUS_SRC l) (flag (decide (0 < ambient)) + 2 * flag (decide (ambient < 2 ^ 20)))).wr (R.CL_TL_l_HITS_HITS l) 0).wrB
      (R.CL_TL_l_STATUS_FAIL l) fail
    let s3 := if fail then s2.wr R.CL_STATUS_LANE_FAIL 1 else s2
    let s4 := if taken.isEmpty then s3 else s3.wr R.CL_STATUS_TAP_MAP 1
    let ready := (List.range 16).all (fun i => let z := s4.tapTable (l / 16 * 16 + i); !z.table.isEmpty || !z.due.isEmpty)
    goOn (if ready then s4.wr (R.TL_BANK_STATUS_CAL_VALID (l / 16)) 1 else s4)
  else goOn s

/-- R422 at a boundary: new code tables take effect. -/
def State.tapBoundary (s : State) : State :=
  s.taps.foldl (fun (t : State) e =>
    if e.2.due.isEmpty then t else (t.setTaps e.1 { e.2 with table := e.2.due, due := [] }).inc (R.CL_TL_l_PASSES_COUNT e.1)) s

/-- What becomes of a cal.swap: its refusal, or the bit and the image it installs (R427, Table 16.8). -/
inductive CalVerdict where
  | refuse (status : Nat)
  | take (bit : Nat) (img : List Byte)
  deriving DecidableEq, Repr

/-- A FLOW set would leave an open zone that uses it outside R143 (R161). -/
def State.zonesSuit (s : State) (set : Nat) (b : List Byte) : Bool :=
  s.willBe.all (fun e =>
    let p := flowParams e.2.params
    e.2.kind != 2 || p.calset != set || spacingOk (coilSetOf e.2.params p.nc b).pos)

/-- R427: the verdict on a cal.swap. -/
def State.judgeCal (s : State) (w0 ofs len : Nat) : CalVerdict :=
  let kind := bits w0 8 8
  let set := bits w0 0 8
  let i := if kind = 1 then 0 else if kind = 2 then 1 else 16 + set
  if kind = 3 ∧ s.isSealed then .refuse stLocked
  else if !(onlyBits w0 [(0, 16)] && decide (1 ≤ kind ∧ kind ≤ 3) && (if kind = 3 then decide (set ≤ 15) else set == 0)) ∨ (calPlace i).2 < len ∨
      shedSize < ofs + len then .refuse stRange
  else
    let img := s.shedBytes ofs len
    if s.shedFails ofs len then .refuse stCheck
    else match calImage i img with
      | none => .refuse stCheck
      | some b =>
        if !s.calValuesOk i b ∨ (kind = 3 ∧ !s.zonesSuit set b) then .refuse stRange
        else if !(Tab.get [] s.calWaiting i).isEmpty then .refuse stBusy
        else .take i img

/-- The image as it is stored: CREATED is the instant of acceptance (R425). -/
def createdAt (img : List Byte) (t : Nat) : List Byte :=
  let b := img.take 16 ++ leBytes 8 t ++ (img.drop 24).take (img.length - 28)
  b ++ leBytes 4 (crc32 b)

/-- The slot of a table that is active: that of the selection record, the other one after each landed swap that it does not name yet (R428). -/
def State.activeSlot (s : State) (i : Nat) : Nat := (s.calSel.1 / 2 ^ i + (s.calDone.filter (fun d => d.bit == i)).length) % 2

/-- R428: an accepted table is written into the inactive slot of copies A and B and waits to land. -/
def State.takeCal (s : State) (i : Nat) (img : List Byte) : State :=
  let x := createdAt img s.now
  let p := calPlace i
  let o := p.1 + p.2 * (1 - s.activeSlot i)
  let s1 := ((s.holdWrite (calBase 0 + o) x).holdWrite (calBase 1 + o) x).wr R.CL_STATUS_SWAP_PENDING 1
  ({ s1 with calWaiting := Tab.put [] s1.calWaiting i x } : State).accept (.calSwap i)

/-- A FLOW set lands: every open zone that uses it takes it from boundary `b` on (R159, R428). -/
def State.landFlowSet (s : State) (set b : Nat) (body : List Byte) : State :=
  s.berths.foldl (fun (t : State) e =>
    let p := flowParams e.2.params
    if e.2.isOpen ∧ e.2.kind = 2 ∧ p.calset = set then t.setFlow e.1 { (t.flowOf e.1) with newSet := some (b, coilSetOf e.2.params p.nc body) } else t) s

/-- R428 at the landing boundary `b`. -/
def State.landCal (s : State) (i b : Nat) : State :=
  let x := Tab.get [] s.calWaiting i
  if x.isEmpty then s
  else
    let body := (x.drop 32).take (calBody i)
    let id := bodyNat x 12 4
    let d : CalDone := ⟨i, s.tableId i, id, b⟩
    let w := Tab.put [] s.calWaiting i []
    let s1 := (({ s with calWaiting := w, calActive := Tab.put [] s.calActive i body, calDone := s.calDone ++ [d] } : State).showTableId i id).wrB
      R.CL_STATUS_SWAP_PENDING (!w.isEmpty)
    if i = 0 then ((List.range 128).foldl State.showDelay s1).showStamps else if i = 1 then s1 else s1.landFlowSet (i - 16) b body

/-- A selection record (Table 16.7; log entry 19 for its layout). -/
def calRecordBytes (gen sel present : Nat) : List Byte :=
  let b := leBytes 2 0x4C53 ++ leBytes 8 gen ++ leBytes 4 sel ++ leBytes 4 present
  b ++ leBytes 4 (crc32 b)

/-- An event whose ORIGIN is `t`. -/
def State.eventAt (s : State) (t code point : Nat) (args : List Nat) : State :=
  { ({ s with now := t } : State).event code point args with now := s.now }

/-- R428: the selection record is written with GEN + 1, to copy A and then to copy B, and CAL_SWAP follows with ORIGIN B. -/
def execCalSelectionWrite (s : State) : Res := s.live fun s =>
  match s.calDone with
  | [] => goOn s
  | d :: rest =>
    let gen := s.rdPair R.CL_HOLD_GEN_LO_GEN_LO R.CL_HOLD_GEN_HI_GEN_HI + 1
    let sel := withBit s.calSel.1 d.bit (s.calSel.1 / 2 ^ d.bit % 2 == 0)
    let present := withBit s.calSel.2 d.bit true
    let x := calRecordBytes gen sel present
    let s1 := (({ s with calDone := rest, calSel := (sel, present) } : State).holdWrite (calBase 0) x).holdWrite (calBase 1) x
    goOn ((s1.wrPair R.CL_HOLD_GEN_LO_GEN_LO R.CL_HOLD_GEN_HI_GEN_HI gen).eventAt d.at_ 0x30 255 [(calKind d.bit).1, (calKind d.bit).2, d.old, d.new])

/-- The domain's trims are no longer valid: they are loaded again (R438); an image on its way aborts. -/
def State.loseTrims (s : State) (d : Nat) : State :=
  let p := s.power
  let s1 := if p.image.contains d then s.inc R.RS_BAL_TRIM_ABORT_COUNT else s
  { s1 with power := { p with image := p.image.filter (· != d), failed := p.failed.filter (· != d), trims := p.trims.filter (· != d) } }

end Sys2Proof.Machine
end

