-- ==== Sys2Proof/Machine/Warehouse.lean ====
section
/-! DEFINITION. Chapter 13: the Warehouse controller: initialisation, areas, reads with their check words, writes, and promotion. -/

namespace Sys2Proof.Machine

/-- The fitted capacity in bytes (Table 13.11). -/
def State.whFitted (s : State) : Nat := 2 ^ (30 + s.rd R.WH_CFG_SIZE)

/-- The sizes of the four areas in MiB as SHED_PLAN gives them (Table 13.2). -/
def State.areaSizes (s : State) : List Nat := match s.activeBody 9 with
  | some b => (List.range 4).map (fun a => bodyNat b (32 + 2 * a) 2)
  | none => [0, 0, 0, 0]

/-- R351: the four areas are laid out from address 0. -/
def State.layAreas (s : State) : State :=
  (List.range 4).foldl (fun (t : State) a =>
    (t.wr (R.WH_AREA_a_BASE a) (s.areaSizes.take a).sum).wr (R.WH_AREA_a_SIZE a) (s.areaSizes.getD a 0)) s

/-- R342: INIT starts training, unless the controller trains or is ready. -/
def execWarehouseInit (s : State) : Res := s.live fun s => s.whenOn 24 (fun s =>
  if s.on R.WH_STATUS_TRAINING ∨ s.on R.WH_STATUS_READY then goOn s else goOn (s.wr R.WH_STATUS_TRAINING 1))

/-- R342, R343, R351: READY sets; the usable bytes and the areas are reported. -/
def execWarehouseReady (s : State) : Res := s.live fun s =>
  if s.on R.WH_STATUS_TRAINING then
    goOn ((((s.wr R.WH_STATUS_TRAINING 0).wr R.WH_STATUS_READY 1).wrPair R.WH_USABLE_LO_BYTES_LO R.WH_USABLE_HI_BYTES_HI
      (31 * s.whFitted / 32)).layAreas)
  else goOn s

/-- R343, R346, R347, R349, R350: a read request. -/
def execWarehouseRead (req : WhReq) (addr len : Nat) (luck : WhLuck) (s : State) : Res := s.live fun s =>
  let r := s.whRead req addr len req.retry luck
  goOn { r.1 with whDone := r.2 }

/-- R343, R345, R349, R350: a write request. -/
def execWarehouseWrite (req : WhReq) (addr : Nat) (data : WhData) (s : State) : Res := s.live fun s =>
  let r := (s.spoil data.spoilt).whWrite req addr data.bytes
  goOn { r.1 with whDone := (r.2, []) }

/-- R348: a request that has waited AGE is promoted and counted under its own class; class 0 has no promotion. -/
def execWarehousePromotion (cls : Fin 4) (waited : Nat) (s : State) : Res := s.live fun s =>
  if cls.val = 0 ∨ waited < s.rd R.WH_AGE_AGE then goOn s else goOn (s.inc (R.WH_PROMO_CNT_c_COUNT cls))

/-- The contents of the Warehouse are lost (R342, R442). -/
def State.loseWarehouse (s : State) : State := { s with wh := {} }

end Sys2Proof.Machine
end

