-- ==== Sys2Proof/Machine/Boot.lean ====
section
/-! DEFINITION. Chapter 15: the boot loader: the firmware image in the Shed, its checks, and the start of the firmware. -/

namespace Sys2Proof.Machine

/-- R388: where the host writes the image. -/
def bootBase : Nat := 0x3800000

/-- HB_ID's step as STEP_MIN_REQ numbers it (Tables 2.4 and 15.2). -/
def State.step4 (s : State) : Nat := 16 * s.rd R.HB_ID_STEP_MAJ + s.rd R.HB_ID_STEP_MIN

/-- R388: the step at which the checks of an image stop, 0 for a good image; `bad` says that a word of it could not be read whole. -/
def State.imageStep (s : State) (magic : Nat) (img : List Byte) (bad : Bool) : Nat :=
  let len := img.length
  if ¬ (bodyNat img 0 4 = magic ∧ bodyNat img 12 4 = len ∧ len % 8 = 0 ∧ len ≤ 8388608) then 1
  else if ¬ (bodyNat img 4 2 = s.rd R.HB_ID_PART ∧ bodyNat img 6 1 ≤ s.step4) then 2
  else if bodyNat img 16 4 < s.rd R.CU_ROLLBACK_COUNT then 3
  else if bad ∨ ¬ s.trailerOk .vendorFirmware img then 4
  else 0

/-- MAGIC of a firmware image (Table 15.2). -/
def firmwareMagic : Nat := 0x57464D48

/-- R388 for the image that the host has written. -/
def State.imageError (s : State) (len : Nat) : Nat := s.imageStep firmwareMagic (s.shedBytes bootBase len) (s.shedFails bootBase len)

/-- R388, R389: GO starts the verification of LEN bytes, unless one runs or the firmware starts or runs. -/
def execBootGo (s : State) : Res := s.live fun s =>
  let st := s.rd R.MB_BOOT_STATUS_STATE
  if st = 1 ∨ st = 2 ∨ st = 3 then goOn s
  else goOn { ((s.wr R.MB_BOOT_STATUS_STATE 1).wr R.MB_BOOT_STATUS_ERR 0) with bootLen := s.rd R.MB_BOOT_LEN_LEN }

/-- R390: the Harbourmaster starts, with the PLLs locked and the links up (log entry 126): it trains the Warehouse, starts the trim load and starts the ledger service, whose version the
spec does not give (log entry 2). -/
def State.firmwareStart (s : State) : State :=
  let s0 := s.clocksUp
  let s1 := if s.powered 24 ∧ ¬ s.on R.WH_STATUS_READY then s0.wr R.WH_STATUS_TRAINING 1 else s0
  ({ s1.startTrimLoad with ledgerVer := low 32 s1.freeNow } : State).nextFree.ledgerStart

/-- R388 to R390: the checks end: STATE FAILED with the step, or START with the image's VERSION. -/
def execBootVerifyDone (s : State) : Res := s.live fun s =>
  if s.rd R.MB_BOOT_STATUS_STATE = 1 then
    let e := s.imageError s.bootLen
    let s1 := s.parityScan bootBase s.bootLen
    if e ≠ 0 then goOn ((s1.wr R.MB_BOOT_STATUS_STATE 4).wr R.MB_BOOT_STATUS_ERR e)
    else goOn ((s1.wr R.MB_BOOT_STATUS_STATE 2).wr R.MB_FW_VER_VERSION (s.shedNat (bootBase + 8) 4)).firmwareStart
  else goOn s

end Sys2Proof.Machine
end

