-- ==== Sys2Proof/Machine/Bybovi.lean ====
section
/-! DEFINITION. Chapter 09: the Bybovi ring (R260 to R268). -/

namespace Sys2Proof.Machine

/-- One bit of the CRC-8 of R261, x^8 + x^2 + x + 1. -/
def crc8Step (crc : Nat) (b : Bool) : Nat := low 8 (2 * crc) ^^^ (if bit crc 7 != b then 7 else 0)

/-- The CRC-8 of bits [39:8] of a share, most significant first, from 0 (R261). -/
def shareCrc (share : Nat) : Nat := ((List.range 32).reverse.map (fun i => bit share (8 + i))).foldl crc8Step 0

/-- A share with its CRC from bits [39:8]. -/
def withCrc (v : Nat) : Nat := 256 * v + shareCrc (256 * v)

/-- A command share (Table 9.9). -/
def commandShare (ver op reg data : Nat) : Nat := withCrc (2 ^ 26 * ver + 2 ^ 24 * op + 2 ^ 16 * reg + data)

/-- The END share. -/
def endShare : Nat := withCrc (2 * 2 ^ 30)

/-- A share as 5 bytes, first sent first. -/
def shareBytes (v : Nat) : List Byte := beBytes 5 v

/-- Head positions in use: 0 to HEADS − 1 (R262). -/
def State.heads (s : State) : Nat := s.rd R.BC_BYB_STATUS_HEADS

/-- The ports whose head sits at position `k` (R267). -/
def State.portsOf (s : State) (k : Nat) : List Nat := (List.range 8).filter (fun m => (s.portPlan m).pos == k)

/-- ALARM and LOST of a position show at its ports, and stop those with ALARM_STOP (R245, R267). -/
def State.headToPorts (s : State) (k : Nat) : State :=
  (s.portsOf k).foldl (fun (t : State) m =>
    let t1 := (t.wrB (R.BC_m_STATUS_HEAD_ALARM m) (t.on (R.BC_BYB_k_INFO_ALARM k))).wrB (R.BC_m_STATUS_HEAD_LOST m) (t.on (R.BC_BYB_k_INFO_LOST k))
    if t1.headStops m then t1.haltPort m else t1) s

/-- Position `k` becomes LOST (R266). -/
def State.loseHead (s : State) (k : Nat) : State := ((s.wr (R.BC_BYB_k_INFO_LOST k) 1).wr (R.BC_BYB_k_INFO_VALID k) 0).headToPorts k

/-- The command of position `k` goes out in a frame that starts now: it is pending and at least 16,384 ns old (R268). -/
def State.cmdDue (s : State) (k : Nat) : Bool := s.on (R.BC_BYB_k_CMD_PENDING k) && decide (Tab.get 0 s.byb.cmdAt k + 16384 ≤ s.now)

/-- The command share for position `k` (R262, R265, R268): a NOP with nothing due, a GET at version 1 as a NOP, and only NOP with VER 0 for
a head without a common version. -/
def State.shareFor (s : State) (k : Nat) : Nat :=
  let ver := if s.on (R.BC_BYB_k_INFO_INCOMPAT k) then 0 else s.rd (R.BC_BYB_k_INFO_VER k)
  let op := s.rd (R.BC_BYB_k_CMD_OP k)
  if s.cmdDue k && ver != 0 && !(op == 2 && ver == 1) then commandShare ver op (s.rd (R.BC_BYB_k_CMD_REG k)) (s.rd (R.BC_BYB_k_CMD_DATA k))
  else commandShare ver 0 0 0

/-- R262, R266: the frame that is due starts. A frame whose END is still out breaks the ring: every position becomes LOST. -/
def execByboviFrameStart (s : State) : Res := s.live fun s =>
  let y := s.byb
  if y.run ∧ y.next ≤ s.now then
    let s1 := if y.flying then (List.range s.heads).foldl (fun (t : State) k => t.loseHead k) (s.wr R.BC_BYB_STATUS_RING_BREAK 1) else s
    let ks := if y.discover then [] else List.range s.heads
    let body := ks.flatMap (fun k => shareBytes (s1.shareFor k)) ++ shareBytes endShare
    goOn { s1 with
      byb := { y with next := y.next + 131072 * s.rd R.BC_BYB_CTL_PER, discover := false, flying := true, got := 0, valid := []
                      sentTo := ks.filter s1.cmdDue }
      sent := s1.sent ++ [{ kind := .bybovi, port := 0, body := body }] }
  else goOn s

/-- Versions: the highest within the head's range and the device's, and whether there is one (R265). -/
def State.bybVersion (s : State) (vmin vmax : Nat) : Nat × Bool :=
  let lo := s.rd (R.HB_IF_i_MIN 3)
  let v := min vmax (s.rd (R.HB_IF_i_MAX 3))
  if v ≠ 0 ∧ vmin ≤ v ∧ lo ≤ v then (v, true) else (0, false)

/-- A valid status share of position `k` (Table 9.9, R265, R267, R268). -/
def State.takeStatus (s : State) (k share : Nat) : State :=
  let vmin := bits share 34 4
  let vmax := bits share 30 4
  let known := s.rd (R.BC_BYB_k_INFO_VMAX k) ≠ 0
  let changed := decide known && (s.rd (R.BC_BYB_k_INFO_VMIN k) != vmin || s.rd (R.BC_BYB_k_INFO_VMAX k) != vmax)
  let v := s.bybVersion vmin vmax
  let s1 := ((((((s.wr (R.BC_BYB_k_INFO_VALID k) 1).wr (R.BC_BYB_k_INFO_LOST k) 0).wrB (R.BC_BYB_k_INFO_ALARM k) (bit share 25)).wrB
    (R.BC_BYB_k_INFO_ACK k) (bit share 24)).wr (R.BC_BYB_k_INFO_KIND k) (bits share 26 4)).wr (R.BC_BYB_k_INFO_VMIN k) vmin).wr (R.BC_BYB_k_INFO_VMAX k) vmax
  let s2 := ((s1.wr (R.BC_BYB_k_INFO_VER k) v.1).wrB (R.BC_BYB_k_INFO_INCOMPAT k) (!v.2)).wr (R.BC_BYB_k_DATA_DATA k) (bits share 8 16)
  let s3 := if changed then s2.wr R.BC_BYB_STATUS_VER_CHG 1 else s2
  let s4 := if bit share 25 then s3.wr R.BC_BYB_STATUS_ALARM 1 else s3
  let s5 := if s.byb.sentTo.contains k then s4.wr (R.BC_BYB_k_CMD_PENDING k) 0 else s4
  { s5 with byb := { s5.byb with valid := s5.byb.valid ++ [k], misses := Tab.put 0 s5.byb.misses k 0, sentTo := s5.byb.sentTo.filter (fun x => x != k) } }.headToPorts k

/-- R266: the return holds what a frame may not hold; the next frame is a discovery frame (R262). -/
def State.bybExcess (s : State) : State :=
  { (s.wr R.BC_BYB_STATUS_EXCESS 1) with byb := { s.byb with discover := true } }

/-- R266 to R268: a returned share, taken in ring order. A status share that fails its CRC is discarded and counted; a command share, or a
seventeenth status share, sets EXCESS. -/
def execByboviStatusShare (share : Nat) (symbolError : Bool) (s : State) : Res := s.live fun s =>
  if s.byb.flying then
    let k := s.byb.got
    let bad := symbolError || shareCrc share != bits share 0 8
    let s1 : State := { s with byb := { s.byb with got := k + 1 } }
    if 16 ≤ k then goOn s.bybExcess
    else if bad then goOn ((s1.inc R.BC_BYB_CRC_CNT_COUNT).wr R.BC_BYB_STATUS_CRC_ERR 1)
    else if bits share 38 2 = 1 then goOn (s1.takeStatus k share)
    else if bits share 38 2 = 0 then goOn s.bybExcess
    else goOn s
  else goOn s

/-- R266: END returns; the frame is complete, HEADS takes the number of status shares, and positions without a valid one are counted. -/
def execByboviEnd (s : State) : Res := s.live fun s =>
  let y := s.byb
  if y.flying then
    let n := min y.got 16
    let missing := (List.range 16).filter (fun k => !y.valid.contains k && (decide (k < max s.heads n) || s.rd (R.BC_BYB_k_INFO_VMAX k) != 0))
    let s1 := ((s.wr R.BC_BYB_STATUS_HEADS n).wr R.BC_BYB_STATUS_FRAME_DONE 1).inc R.BC_BYB_FRAMES_COUNT
    let expect := match s.activeBody 4 with
      | some b => bodyNat b 0 1
      | none => 0
    let s2 := if expect ≠ 0 ∧ expect ≠ n then s1.wr R.BC_BYB_STATUS_MISMATCH 1 else s1
    let s3 := missing.foldl (fun (t : State) k => { (t.wr (R.BC_BYB_k_INFO_VALID k) 0) with
      byb := { t.byb with misses := Tab.put 0 t.byb.misses k (Tab.get 0 t.byb.misses k + 1) } }) s2
    goOn { s3 with byb := { s3.byb with flying := false } }
  else goOn s

/-- R266, R267: 3 frames in succession without a valid status share make the position LOST. -/
def execHeadLost (k : Fin 16) (s : State) : Res := s.live fun s => if 3 ≤ Tab.get 0 s.byb.misses k then goOn (s.loseHead k) else goOn s

/-- R268: PENDING sets, and the command replaces one that still waits; the reserved OP is discarded for its field (R8). -/
def execByboviCmdWrite (k : Fin 16) (value : Word) (s : State) : Res := s.live fun s =>
  s.whenOn beaconDomain fun s =>
    let v := value.toNat
    let s1 := if bits v 24 2 = 3 then s else s.wr (R.BC_BYB_k_CMD_OP k) (bits v 24 2)
    let s2 := ((s1.wr (R.BC_BYB_k_CMD_REG k) (bits v 16 8)).wr (R.BC_BYB_k_CMD_DATA k) (bits v 0 16)).wr (R.BC_BYB_k_CMD_PENDING k) 1
    goOn { s2 with byb := { s2.byb with cmdAt := Tab.put 0 s2.byb.cmdAt k s2.now, sentTo := s2.byb.sentTo.filter (fun x => x != k.val) } }

/-- R262: the write waits to land; the frame after it is a discovery frame. -/
def execByboviDiscover (s : State) : Res := s.live fun s => s.whenOn beaconDomain fun s => goOn (s.accept .bybDiscover)

/-- R262 at boundary `b`: EN lands; with EN = 1 a ring that does not run starts with a discovery frame there. -/
def State.landBybEn (s : State) (b : Nat) (en : Bool) : State :=
  if en then
    if s.byb.run then s else { s with byb := { s.byb with run := true, next := b, discover := true, flying := false, misses := [] } }
  else { s with byb := { s.byb with run := false, flying := false } }

end Sys2Proof.Machine
end

