-- ==== Sys2Proof/Machine/Thermo.lean ====
section
/-! DEFINITION. Chapter 10: the platinum and thermocouple curves of R284 and R285. The reference functions of IEC 60584-1 are named by the
spec, which does not print them: their coefficients are PRESUMED, those of the published standard (log entry 125). -/

namespace Sys2Proof.Machine

/-- Σ a_i x^i. -/
def polyAt (x : Rat) : List Rat → Rat
  | [] => 0
  | a :: as => a + x * polyAt x as

/-- A value moved by an open error of at most `b`. -/
def within (b e x : Rat) : Rat := x + max (-b) (min e b)

/-- The Callendar–Van Dusen ratio R/R0 at a temperature in °C (R284). -/
def ptRatio (t : Rat) : Rat :=
  1 + 39083 / 10000000 * t - 5775 / 10000000000 * t * t - (if t < 0 then 4183 / 1000000000000000 * (t - 100) * t * t * t else 0)

/-- The temperature in °C at the ratio R/R0, within 0.1 mK of the exact solution (R285). -/
def ptTemp (q : Rat) : Rat := within (1 / 10000) (Config.ptError q) (bisect (fun x => decide (ptRatio x < q)) 50 (-200) 850)

/-- A piece of a reference function: the temperature up to which it holds, and the coefficients of E in µV at a temperature in °C. -/
structure TcPiece where
  upTo : Rat
  coef : List Rat

/-- Type B (IEC 60584-1). -/
def tcB : List TcPiece :=
    [⟨630615 / 10 ^ 3, [0, -24650818346 / 10 ^ 11, 59040421171 / 10 ^ 13, -13257931636 / 10 ^ 16, 15668291901 / 10 ^ 19, -16944529240 /
      10 ^ 22, 62990347094 / 10 ^ 26]⟩,
        ⟨1820, [-38938168621 / 10 ^ 7, 28571747470 / 10 ^ 9, -84885104785 / 10 ^ 12, 15785280164 / 10 ^ 14, -16835344864 / 10 ^ 17,
      11109794013 / 10 ^ 20, -44515431033 / 10 ^ 24, 98975640821 / 10 ^ 28, -93791330289 / 10 ^ 32]⟩]

/-- Type E (IEC 60584-1). -/
def tcE : List TcPiece :=
    [⟨0, [0, 58665508708 / 10 ^ 9, 45410977124 / 10 ^ 12, -77998048686 / 10 ^ 14, -25800160843 / 10 ^ 15, -59452583057 / 10 ^ 17,
      -93214058667 / 10 ^ 19, -10287605534 / 10 ^ 20, -80370123621 / 10 ^ 23, -43979497391 / 10 ^ 25, -16414776355 / 10 ^ 27,
      -39673619516 / 10 ^ 30, -55827328721 / 10 ^ 33, -34657842013 / 10 ^ 36]⟩,
        ⟨1000, [0, 58665508710 / 10 ^ 9, 45032275582 / 10 ^ 12, 28908407212 / 10 ^ 15, -33056896652 / 10 ^ 17, 65024403270 / 10 ^ 20,
      -19197495504 / 10 ^ 23, -12536600497 / 10 ^ 25, 21489217569 / 10 ^ 28, -14388041782 / 10 ^ 31, 35960899481 / 10 ^ 35]⟩]

/-- Type J (IEC 60584-1). -/
def tcJ : List TcPiece :=
    [⟨760, [0, 50381187815 / 10 ^ 9, 30475836930 / 10 ^ 12, -85681065720 / 10 ^ 15, 13228195295 / 10 ^ 17, -17052958337 / 10 ^ 20,
      20948090697 / 10 ^ 23, -12538395336 / 10 ^ 26, 15631725697 / 10 ^ 30]⟩,
        ⟨1200, [29645625681 / 10 ^ 5, -14976127786 / 10 ^ 7, 31787103924 / 10 ^ 10, -31847686701 / 10 ^ 13, 15720819004 / 10 ^ 16,
      -30691369056 / 10 ^ 20]⟩]

/-- Type K (IEC 60584-1). -/
def tcK : List TcPiece :=
    [⟨0, [0, 39450128025 / 10 ^ 9, 23622373598 / 10 ^ 12, -32858906784 / 10 ^ 14, -49904828777 / 10 ^ 16, -67509059173 / 10 ^ 18,
      -57410327428 / 10 ^ 20, -31088872894 / 10 ^ 22, -10451609365 / 10 ^ 24, -19889266878 / 10 ^ 27, -16322697486 / 10 ^ 30]⟩,
        ⟨1372, [-17600413686 / 10 ^ 9, 38921204975 / 10 ^ 9, 18558770032 / 10 ^ 12, -99457592874 / 10 ^ 15, 31840945719 / 10 ^ 17,
      -56072844889 / 10 ^ 20, 56075059059 / 10 ^ 23, -32020720003 / 10 ^ 26, 97151147152 / 10 ^ 30, -12104721275 / 10 ^ 33]⟩]

/-- Type N (IEC 60584-1). -/
def tcN : List TcPiece :=
    [⟨0, [0, 26159105962 / 10 ^ 9, 10957484228 / 10 ^ 12, -93841111554 / 10 ^ 15, -46412039759 / 10 ^ 18, -26303357716 / 10 ^ 19,
      -22653438003 / 10 ^ 21, -76089300791 / 10 ^ 24, -93419667835 / 10 ^ 27]⟩,
        ⟨1300, [0, 25929394601 / 10 ^ 9, 15710141880 / 10 ^ 12, 43825627237 / 10 ^ 15, -25261169794 / 10 ^ 17, 64311819339 / 10 ^ 20,
      -10063471519 / 10 ^ 22, 99745338992 / 10 ^ 26, -60863245607 / 10 ^ 29, 20849229339 / 10 ^ 32, -30682196151 / 10 ^ 36]⟩]

/-- Type R (IEC 60584-1). -/
def tcR : List TcPiece :=
    [⟨106418 / 10 ^ 2, [0, 528961729765 / 10 ^ 11, 139166589782 / 10 ^ 13, -238855693017 / 10 ^ 16, 356916001063 / 10 ^ 19,
      -462347666298 / 10 ^ 22, 500777441034 / 10 ^ 25, -373105886191 / 10 ^ 28, 157716482367 / 10 ^ 31, -281038625251 / 10 ^ 35]⟩,
        ⟨16645 / 10 ^ 1, [295157925316 / 10 ^ 8, -252061251332 / 10 ^ 11, 159564501865 / 10 ^ 13, -764085947576 / 10 ^ 17, 205305291024
      / 10 ^ 20, -293359668173 / 10 ^ 24]⟩,
        ⟨17681 / 10 ^ 1, [152232118209 / 10 ^ 6, -268819888545 / 10 ^ 9, 171280280471 / 10 ^ 12, -345895706453 / 10 ^ 16, -934633971046
      / 10 ^ 23]⟩]

/-- Type S (IEC 60584-1). -/
def tcS : List TcPiece :=
    [⟨106418 / 10 ^ 2, [0, 540313308631 / 10 ^ 11, 125934289740 / 10 ^ 13, -232477968689 / 10 ^ 16, 322028823036 / 10 ^ 19,
      -331465196389 / 10 ^ 22, 255744251786 / 10 ^ 25, -125068871393 / 10 ^ 28, 271443176145 / 10 ^ 32]⟩,
        ⟨16645 / 10 ^ 1, [132900444085 / 10 ^ 8, 334509311344 / 10 ^ 11, 654805192818 / 10 ^ 14, -164856259209 / 10 ^ 17, 129989605174 /
      10 ^ 22]⟩,
        ⟨17681 / 10 ^ 1, [146628232636 / 10 ^ 6, -258430516752 / 10 ^ 9, 163693574641 / 10 ^ 12, -330439046987 / 10 ^ 16, -943223690612
      / 10 ^ 23]⟩]

/-- Type T (IEC 60584-1). -/
def tcT : List TcPiece :=
    [⟨0, [0, 38748106364 / 10 ^ 9, 44194434347 / 10 ^ 12, 11844323105 / 10 ^ 14, 20032973554 / 10 ^ 15, 90138019559 / 10 ^ 17,
      22651156593 / 10 ^ 18, 36071154205 / 10 ^ 20, 38493939883 / 10 ^ 22, 28213521925 / 10 ^ 24, 14251594779 / 10 ^ 26, 48768662286 /
      10 ^ 29, 10795539270 / 10 ^ 31, 13945027062 / 10 ^ 34, 79795153927 / 10 ^ 38]⟩,
        ⟨400, [0, 38748106364 / 10 ^ 9, 33292227880 / 10 ^ 12, 20618243404 / 10 ^ 14, -21882256846 / 10 ^ 16, 10996880928 / 10 ^ 18,
      -30815758772 / 10 ^ 21, 45479135290 / 10 ^ 24, -27512901673 / 10 ^ 27]⟩]

/-- The reference function of a thermocouple curve (Table 10.4). -/
def tcPieces (k : Nat) : List TcPiece := [tcB, tcE, tcJ, tcK, tcN, tcR, tcS, tcT].getD (k - 32) []

/-- E in µV of curve `k` at a temperature in °C; type K above 0 °C has an exponential term. -/
def tcVoltage (k : Nat) (t : Rat) : Rat :=
  match (tcPieces k).find? (fun p => decide (t ≤ p.upTo)) with
  | none => 0
  | some p =>
    let d := t - 1269686 / 10000
    polyAt t p.coef + (if k = 35 ∧ 0 < t then 1185976 / 10000 * expRat (-(1183432 / 10 ^ 10) * d * d) else 0)

/-- Valid range in °C of a thermocouple curve (Table 10.4). -/
def tcRange (k : Nat) : Int × Int :=
  [(0, 1820), (-270, 1000), (-210, 1200), (-270, 1372), (-270, 1300), (-50, 1768), (-50, 1768), (-270, 400)].getD (k - 32) (0, 0)

/-- What a curve makes of an input: a value, no value (LOST), or a value the spec does not state. -/
inductive Curved where
  | value (y : Rat)
  | lost
  | open_

/-- A PT curve (R285), in mK. -/
def ptValue (x : Rat) (r0 : Nat) : Curved :=
  let q := x / (r0 : Rat)
  if r0 = 0 ∨ q < ptRatio (-200) ∨ ptRatio 850 < q then .lost else .value (1000 * (ptTemp q + 27315 / 100))

/-- The temperature in °C at which type B has its least E, which it takes twice below 42 °C. -/
def tcBLeast : Rat := 21020262 / 10 ^ 6

/-- A thermocouple curve (R285) with its reference junction at `tcj` °C, in mK. A junction outside the reference function, and an E that type B
takes at two temperatures, leave the value open (log entry 125). -/
def tcValue (k : Nat) (v tcj : Rat) : Curved :=
  let lo : Rat := ((tcRange k).1 : Int)
  let hi : Rat := ((tcRange k).2 : Int)
  let e := v + tcVoltage k tcj
  let from_ := if k = 32 then tcBLeast else lo
  if tcj < lo ∨ hi < tcj then .open_
  else if e < tcVoltage k from_ ∨ tcVoltage k hi < e then .lost
  else if k = 32 ∧ e ≤ 0 then .open_
  else .value (1000 * (within (1 / 1000) (Config.tcError k e) (bisect (fun x => decide (tcVoltage k x < e)) 50 from_ hi) + 27315 / 100))

end Sys2Proof.Machine
end

