-- ==== Sys2Proof/Machine/Sounding.lean ====
section
/-! DEFINITION. Chapter 10: the Sounding channels, their conversions and samples, the mains reference, Sounding berths, and the
reference rotation of R424. -/

namespace Sys2Proof.Machine

/-- The channel `c`. -/
def State.chan (s : State) (c : Nat) : Chan := Tab.get {} s.snd.chans c

/-- Replaces the channel `c`. -/
def State.setChan (s : State) (c : Nat) (x : Chan) : State := { s with snd := { s.snd with chans := Tab.put {} s.snd.chans c x } }

/-- Byte address of configuration register `r` of channel `c`, in the order of R296. -/
def chanAddr (c r : Nat) : Nat := 0x801000 + c * 0x100 + 4 * r

/-- The bits of SN_CH_c_CFG but OWNER. -/
def cfgBits : Nat := 0x37FFFFFE

/-- The configuration words the registers of channel `c` hold, in the order of R296, without OWNER. -/
def State.chanWords (s : State) (c : Nat) : List Nat :=
  (List.range 10).map (fun r => if r = 0 then s.liveWord (chanAddr c 0) &&& cfgBits else s.liveWord (chanAddr c r))

/-- Fields of a CFG word (Table 10.12). -/
def cfgEn (w : Nat) : Bool := bit w 29
/-- AUTO. -/
def cfgAuto (w : Nat) : Bool := bit w 28
/-- RANGE. -/
def cfgRange (w : Nat) : Nat := bits w 24 3
/-- UNIT. -/
def cfgUnit (w : Nat) : Nat := bits w 20 4
/-- CJ_CH. -/
def cfgCjCh (w : Nat) : Nat := bits w 16 4
/-- CURVE. -/
def cfgCurve (w : Nat) : Nat := bits w 8 8
/-- NPLC. -/
def cfgNplc (w : Nat) : Nat := bits w 6 2
/-- EXCMODE. -/
def cfgExcMode (w : Nat) : Nat := bits w 4 2
/-- WIRE. -/
def cfgWire (w : Nat) : Nat := bits w 2 2
/-- CJ_EN. -/
def cfgCjEn (w : Nat) : Bool := bit w 1

/-- The mains cycles of an NPLC code (Table 10.3). -/
def nplcCycles (n : Nat) : Nat := [1, 2, 5, 10].getD n 0

/-- The combinations of WIRE and EXCMODE that Table 10.1 lists (R270). -/
def wireOk (w : Nat) : Bool := [(0, 0), (1, 1), (2, 1), (3, 1), (3, 2)].contains (cfgWire w, cfgExcMode w)

/-- A thermocouple curve (Table 10.4). -/
def isTc (k : Nat) : Bool := decide (32 ≤ k ∧ k ≤ 39)

/-- The curve of a CFG word exists and its wiring is one that Table 10.4 allows (R284). -/
def curveFits (w : Nat) : Bool :=
  let k := cfgCurve w
  if k = 16 then decide (1 ≤ cfgWire w) && cfgExcMode w == 1
  else if isTc k then cfgWire w == 0
  else decide (k ≤ 3)

/-- EXC lies in the range of R271 for the EXCMODE of a CFG word. -/
def excOk (w exc : Nat) : Bool :=
  if cfgExcMode w = 1 then decide (50 ≤ exc ∧ exc ≤ 2000) else if cfgExcMode w = 2 then decide (500 ≤ exc ∧ exc ≤ 5000) else true

/-- Replaces `n` bits of `w` from bit `lo` by those of `v`. -/
def takeBits (w v lo n : Nat) : Nat := w - bits w lo n * 2 ^ lo + bits v lo n * 2 ^ lo

/-- Stores a word in the fields of a register, whatever their access. -/
def State.putWord (s : State) (addr v : Nat) : State := match regRow? addr with
  | some r => r.fields.foldl (fun t f => t.wr (f.at addr) (v / 2 ^ f.lo)) s
  | none => s

/-- Stores the ten configuration words and OWNER of a channel. -/
def State.putChan (s : State) (c owner : Nat) (ws : List Nat) : State :=
  (List.range 10).foldl (fun (t : State) r =>
    t.putWord (chanAddr c r) (if r = 0 then ws.getD 0 0 &&& cfgBits + owner * 2 ^ 30 else ws.getD r 0)) s

/-- PENDING of a channel: its registers differ from what is in force (R297); and a channel that is disabled and converts nothing has
no configuration to wait for. -/
def State.chanStatus (s : State) (c : Nat) : State :=
  let x := s.chan c
  let ws := s.chanWords c
  let act := if x.active || cfgEn (ws.getD 0 0) then x.act else x.act.set 0 (takeBits (x.act.getD 0 0) 0 29 1)
  let s1 := s.setChan c { x with act := act }
  ((((s1.wrB (R.SN_CH_c_STATUS_PENDING c) (decide (ws ≠ act))).wrB (R.SN_CH_c_STATUS_ACTIVE c) x.active).wr
    (R.SN_CH_c_STATUS_RANGE c) x.range).wr (R.SN_CH_c_STATUS_SETTLE_LEFT c) x.settle).wrB R.SN_STATUS_RUNNING
      (s1.snd.chans.any (fun e => e.2.active))

/-- The CFG word a write leaves: each reserved field keeps its value (R8), CURVE also where the wiring does not allow it (R284). -/
def cfgAfter (old v : Nat) : Nat :=
  let v1 := if 3 < cfgUnit v then takeBits v old 20 4 else v
  let v2 := if cfgExcMode v1 = 3 then takeBits v1 old 4 2 else v1
  let v3 := if curveFits v2 then v2 else takeBits v2 old 8 8
  v3 &&& cfgBits

/-- The word a write of `v` to configuration register `r` of channel `c` leaves there (R8, R271). -/
def State.cfgValue (s : State) (c r v : Nat) : Nat :=
  let ws := s.chanWords c
  let cfg := ws.getD 0 0
  let old := ws.getD r 0
  if r = 0 then cfgAfter cfg v
  else if r = 1 then (if excOk cfg (low 13 v) then low 13 v else old)
  else if r = 2 then low 24 v
  else if r = 3 then (if 8 ≤ low 16 v then low 16 v else old)
  else if r = 9 then low 4 v
  else v

/-- R297: a write to a configuration register: it waits for the channel's next conversion; in an owned channel it is discarded and sets
WR_OWNED. -/
def State.chanWrite (s : State) (c r v : Nat) : State :=
  if s.rd (R.SN_CH_c_CFG_OWNER c) ≠ 0 then (s.wr (R.SN_CH_c_STATUS_WR_OWNED c) 1).wr R.SN_STATUS_WR_OWNED 1
  else (s.putWord (chanAddr c r) (s.cfgValue c r v)).chanStatus c

/-- R297: a write to configuration register `reg` of channel `c`; nothing where the domain is off (R444). -/
def execSoundingCfgWrite (c : Fin 16) (reg : Fin 10) (value : Word) (s : State) : Res := s.live fun s =>
  if s.powered 21 then goOn ((s.endHold 21).chanWrite c reg value.toNat) else goOn (s.lockAnswer 21)

/-- What a change of configuration is worth in SETTLE conversions (Table 10.6). -/
def settleOf (old new : List Nat) (moved : Bool) : Nat :=
  let o := old.getD 0 0
  let n := new.getD 0 0
  let differ := fun (r : Nat) => old.getD r 0 != new.getD r 0
  if (cfgEn n && !cfgEn o) || moved || cfgExcMode n != cfgExcMode o || differ 1 || cfgCurve n != cfgCurve o || cfgWire n != cfgWire o ||
      cfgUnit n != cfgUnit o || differ 4 || differ 5 || differ 6 || differ 7 || differ 9 then 2
  else if cfgNplc n ≠ cfgNplc o then 1 else 0

/-- R270, R284, R287: the configuration that takes effect at a conversion start: reserved fields keep their values in force, and a
combination that Table 10.1 or Table 10.4 does not list leaves the whole configuration as it was. -/
def configured (old new : List Nat) : List Nat :=
  let n := new.getD 0 0
  let o := old.getD 0 0
  let n1 := if curveFits n then n else takeBits n o 8 8
  if wireOk n1 && curveFits n1 then (new.set 0 n1).set 1 (if excOk n1 (new.getD 1 0) then new.getD 1 0 else old.getD 1 0) else old

/-- The channel as its waiting configuration takes effect (R287): an enabled channel starts anew. -/
def Chan.apply (x : Chan) (ws : List Nat) : Chan :=
  let o := x.act.getD 0 0
  let n := ws.getD 0 0
  let anew := cfgEn n && !cfgEn o
  let settle := max (if anew then 0 else x.settle) (settleOf x.act ws x.moved)
  let range := if anew || x.moved || !cfgAuto o then cfgRange n else x.nextRange
  { x with
    act := ws, settle := settle, novr := if anew then 0 else x.novr, first := x.first || anew, moved := false
    needLead := x.needLead || anew || cfgWire n != cfgWire o
    nextRange := if cfgAuto n then range else cfgRange n }

/-- A conversion is due in the sequencer's mode (R280): continuously, or once for each START in SINGLE mode. -/
def State.chanDue (s : State) (c : Nat) : Bool := (s.rd R.SN_CTL_MODE == 1 && s.snd.going) || (s.chan c).single

/-- The mains period in ns: the last one measured, or the nominal one (R278). -/
def State.mainsPeriod (s : State) : Nat :=
  let m := s.rd R.SN_CTL_MSRC
  let p := s.rd R.SN_MAINS_PERIOD_PERIOD
  if m < 2 ∧ p ≠ 0 then p else if m % 2 = 0 then 20000000 else 16666667

/-- The conversion in progress was abandoned by a RESTART (R281), which takes effect at the first cycle start after its write (R280). -/
def State.abandoned (s : State) (x : Chan) (t : Nat) : Bool := match s.snd.restart with
  | none => false
  | some w => decide (x.started ≤ w ∧ w + s.mainsPeriod < t)

/-- R280 to R282, R287: the channel's waiting configuration takes effect and its conversion starts. -/
def State.startConversion (s : State) (c t : Nat) : State :=
  let x0 := s.chan c
  let ws := configured x0.act (s.chanWords c)
  let x := x0.apply ws
  let s0 := s.putChan c (s.rd (R.SN_CH_c_CFG_OWNER c)) ws
  let s1 := if cfgEn (ws.getD 0 0) && !cfgEn (x0.act.getD 0 0) then s0.wr (R.SN_CH_c_SEQ_SEQ c) 0 else s0
  let moved := !x.first && x.nextRange != x.range
  let s2 := if moved then s1.inc (R.SN_CH_c_RANGE_CNT_COUNT c) else s1
  let y : Chan := { x with
    range := x.nextRange, first := false, settle := if moved then max x.settle 1 else x.settle, single := false
    active := true, started := t, owner := x.berth
    lead := cfgWire (ws.getD 0 0) == 2 && (x.needLead || decide (ws.getD 3 0 ≤ x.mains)) }
  (s2.setChan c y).chanStatus c

/-- The excitation that channel `c` drives: the EXCMODE in force and EXC in µA or mV; none while no trims are valid (R271, R282). -/
def State.excitation (s : State) (c : Nat) : Option (Nat × Nat) :=
  let x := s.chan c
  let w := x.act.getD 0 0
  if s.powered 21 && s.on R.SN_STATUS_CAL_VALID && cfgEn w && cfgExcMode w != 0 then some (cfgExcMode w, x.act.getD 1 0) else none

/-- R280: in CONT mode a channel's next conversion starts at the instant at which the last one ended, but for the first one after the conversions
began, after the channel was enabled, or after a RESTART, which start at a mains cycle start. -/
def State.follows (s : State) (x : Chan) : Option Nat :=
  if s.rd R.SN_CTL_MODE = 1 ∧ s.snd.going ∧ cfgEn (x.act.getD 0 0) then
    x.ended.filter (fun e => decide (s.snd.began < e) && s.snd.restart.all (fun w => decide (w + s.mainsPeriod < e)))
  else none

/-- R280, R282: an enabled channel that is due and converts nothing starts, once the trims are valid, at the mains cycle start `t0` or at the end of its
last conversion. -/
def execConversionStart (c : Fin 16) (t0 : Nat) (s : State) : Res := s.live fun s =>
  let x := s.chan c
  let t := (s.follows x).getD t0
  let idle := (!x.active && x.ended.all (fun e => decide (e ≤ t))) ||
    (match s.snd.restart with | some w => decide (x.started ≤ w ∧ w < t) | none => false)
  if s.powered 21 && s.on R.SN_STATUS_CAL_VALID && s.on (R.SN_CH_c_CFG_EN c) && s.chanDue c && idle then
    goOn (s.startConversion c t)
  else goOn s

/-- The largest code (R274). -/
def codeMax : Int := 8388607

/-- The range decision of R275 on a code at range `r`; the widest range where none keeps 45 %. -/
def rangeAfter (r : Nat) (code : Int) (ovr : Bool) : Nat :=
  let a := code.natAbs
  if ovr then 0
  else if (7549747 ≤ a ∧ 0 < r) ∨ (a < 1677722 ∧ r < 7) then
    (((List.range 8).reverse).find? (fun q => decide (a * 2 ^ q ≤ 3774874 * 2 ^ r))).getD 0
  else r

/-- A neighbour in the group takes NOVR for an overranging conversion that ends at `t` (R277): on the conversion that overlaps it and on
the next. -/
def Chan.disturb (x : Chan) (t : Nat) : Chan :=
  if !cfgEn (x.act.getD 0 0) then x
  else if x.active ∧ x.started < t then { x with novr := 2 }
  else if (x.active ∧ x.started = t) ∨ x.ended = some t then { x with novr := 1 }
  else x

/-- The OVR of channel `c` reaches its group (R277). -/
def State.disturbGroup (s : State) (c t : Nat) : State :=
  ((List.range 4).map (fun i => 4 * (c / 4) + i)).foldl (fun (u : State) k =>
    if k = c then u else u.setChan k ((u.chan k).disturb t)) s

/-- What the end of a conversion finds: the channel after it, its clamped code, OVR and NOVR. -/
structure Ended where
  chan : Chan
  code : Int
  ovr : Bool
  novr : Bool

/-- A conversion ends (R274, R276, R277). -/
def State.endOf (s : State) (c t : Nat) (code : Int) (overload : Bool) (ended : List (Fin 16)) : Ended :=
  let x := s.chan c
  let near := ended.any (fun k => k.val != c && k.val / 4 == c / 4)
  { chan := { x with active := false, ended := some t, novr := if near then 1 else x.novr - 1 }
    code := max (-codeMax) (min code codeMax)
    ovr := overload || decide (codeMax < code ∨ code < -codeMax)
    novr := near || decide (0 < x.novr) }

/-- The value of an IEEE 754 binary64, none for a NaN or an infinity (R296). -/
def doubleOf (n : Nat) : Option Rat :=
  let e := bits n 52 11
  let m := bits n 0 52
  let sgn : Rat := if bit n 63 then -1 else 1
  if e = 2047 then none
  else if e = 0 then some (sgn * (m : Rat) / 2 ^ 1074)
  else some (sgn * ((m + 2 ^ 52 : Nat) : Rat) * 2 ^ e / 2 ^ 1075)

/-- The coefficients of user polynomial set `k` (R296), zeros while no SOUNDING_DEFAULTS is active (R478). -/
def State.polySet (s : State) (k : Nat) : List Rat := match s.activeBody 5 with
  | none => []
  | some b => (List.range 8).map (fun i => (doubleOf (bodyNat b (784 + 64 * k + 8 * i) 8)).getD 0)

/-- The reference junction of a thermocouple sample (R286): its temperature in K, or none where the spec names none, and its tags. -/
def State.junction (s : State) (x : Chan) (t : Nat) : Option Rat × Nat :=
  let cfg := x.act.getD 0 0
  let ice : Option Rat × Nat := (some (27315 / 100), 0)
  if x.owner ≠ 0 then
    let h := (s.berth (bits x.owner 0 12)).params.getD 11 0
    if h = 0 then ice
    else match (Tab.get [] s.samples (bits h 0 12)).find? (fun (p : InSample) => decide (p.stamp ≤ t)) with
      | some p => (some (p.value / 1000), p.tag)
      | none => (none, 0)
  else if !cfgCjEn cfg then ice
  else match (s.chan (cfgCjCh cfg)).past.find? (fun p => decide (p.stamp ≤ t)) with
    | some p => (some (p.value / 1000), p.tag)
    | none => (none, 0)

/-- The input quantity x of Table 10.1, none while a THREE channel has no R_L (R289). -/
def Chan.input (x : Chan) (uv : Rat) (exc : Nat) : Option Rat :=
  let cfg := x.act.getD 0 0
  let ohm := uv * 1000000 / (exc : Rat)
  if cfgWire cfg = 0 then some uv
  else if cfgExcMode cfg = 2 then some (uv * 1000000000 / (exc : Rat))
  else if cfgWire cfg = 1 then some (ohm - ((x.act.getD 2 0 : Nat) : Rat))
  else if cfgWire cfg = 2 then x.rl.map (fun r => ohm - 2 * (r : Rat))
  else some ohm

/-- The curve of a channel on its input (R284, R285), and the tags its reference junction brings (R286). -/
def State.curve (s : State) (x : Chan) (v : Rat) (t : Nat) : Curved × Nat :=
  let w := fun (i : Nat) => (toSigned 32 (x.act.getD i 0) : Rat)
  let k := cfgCurve (x.act.getD 0 0)
  if k = 0 then (.value v, 0)
  else if k = 1 then (.value (w 4 + w 5 * v / 65536), 0)
  else if k = 2 then
    if v - w 6 < w 7 then (.value (w 4), 0)
    else if v < w 6 then (.open_, 0)
    else (.value (w 4 + w 5 * sqrtRat (v - w 6) / 65536), 0)
  else if k = 3 then (.value (polyAt v (s.polySet (x.act.getD 9 0))), 0)
  else if k = 16 then (ptValue v (x.act.getD 8 0), 0)
  else
    let j := s.junction x t
    if hasTag j.2 tagLost then (.lost, j.2)
    else match j.1 with
      | none => (.open_, j.2)
      | some tk => (tcValue k v (tk - 27315 / 100), j.2)

/-- The value of a sample as its register and record hold it, and the state after: a value that leaves int32, or that the spec does not
state, is free. -/
def State.sampleValue (s : State) (y : Curved) : State × Int := match y with
  | .lost => (s, 0)
  | .open_ => (s.nextFree, toSigned 32 s.freeNow)
  | .value r =>
    let i := Config.rnd r
    if clampSigned 32 i = i then (s, i) else (s.nextFree, toSigned 32 s.freeNow)

/-- A finished sample of a channel. -/
structure SoundSample where
  t : Nat
  code : Int
  value : Int
  tag : Nat
  range : Nat
  flags : Nat
  nplc : Nat

/-- The sample reaches the channel registers (R283, R297). -/
def State.showSample (s : State) (c : Nat) (p : SoundSample) : State :=
  let ovr := hasTag p.tag tagOvr
  let novr := hasTag p.tag tagNovr
  let s1 := ((((s.wr (R.SN_CH_c_SEQ_SEQ c) (s.rd (R.SN_CH_c_SEQ_SEQ c) + 1)).wr (R.SN_CH_c_CODE_CODE c) (ofSigned 32 p.code)).wr
    (R.SN_CH_c_VALUE_VALUE c) (ofSigned 32 p.value)).wr (R.SN_CH_c_TAG_RANGE c) p.range).wr (R.SN_CH_c_TAG_TAG c) p.tag
  let s2 := s1.wrPair (R.SN_CH_c_STAMP_LO_TIME_LO c) (R.SN_CH_c_STAMP_HI_TIME_HI c) p.t
  let s3 := if ovr then ((s2.wr (R.SN_CH_c_STATUS_OVR c) 1).inc (R.SN_CH_c_OVR_CNT_COUNT c)).wr R.SN_STATUS_OVR 1 else s2
  let s4 := if novr then (s3.wr (R.SN_CH_c_STATUS_NOVR c) 1).wr R.SN_STATUS_NOVR 1 else s3
  let x := s4.chan c
  (s4.setChan c { x with past := ⟨p.t, (p.value : Rat), p.tag⟩ :: x.past }).feed 3 c (fun _ => some { value := p.value, at_ := 256 * p.t, tag := p.tag, range := p.range })

/-- The record of Table 10.10. -/
def soundRecord (p : SoundSample) (seq handle tag : Nat) : List Byte :=
  leBytes 8 p.t ++ leBytes 8 seq ++ leBytes 4 (ofSigned 32 p.value) ++ leBytes 4 (ofSigned 32 p.code) ++ leBytes 4 handle ++
    leBytes 1 tag ++ leBytes 1 p.range ++ leBytes 1 p.flags ++ leBytes 1 p.nplc

/-- The sample reaches the ring of the berth it was made for (R290, R294). -/
def State.ringSample (s : State) (c handle : Nat) (p : SoundSample) : State :=
  let i := bits handle 0 12
  let b := s.berth i
  if handle = 0 ∨ b.handle ≠ handle ∨ !b.isOpen then s
  else if bit (b.params.getD 0 0) 12 && hasTag p.tag tagSettle then s.inc (R.SN_CH_c_DISC_CNT_COUNT c)
  else
    let x := Tab.get {} s.sounding i
    let w := s.spend 13 i 2
    let lost := hasTag w.2 tagLost
    let tag := p.tag ||| w.2
    let q := { p with value := if lost then 0 else p.value }
    let s1 := w.1.whSlot {} (x.ring + 32 * (x.seq % b.params.getD 12 1)) 32 (soundRecord q x.seq handle tag)
    { s1 with sounding := Tab.put {} s1.sounding i { x with seq := x.seq + 1 }
              samples := Tab.put [] s1.samples i (⟨p.t, (q.value : Rat), tag⟩ :: Tab.get [] s1.samples i) }

/-- The input voltage of a conversion in µV, from its code and range (R274). -/
def codeMicrovolts (r : Nat) (code : Int) : Rat := (code : Rat) * 2500000 / 2 ^ r / 8388608

/-- R272 to R277, R283 to R290: a main conversion ends and its sample is delivered. -/
def State.endConversion (s : State) (c t : Nat) (code : Int) (overload : Bool) (exc : Nat) (ended : List (Fin 16)) : State :=
  let e := s.endOf c t code overload ended
  let x := e.chan
  let cfg := x.act.getD 0 0
  let next := if cfgAuto cfg then rangeAfter x.range e.code e.ovr else x.nextRange
  let changes := cfgAuto cfg && next != x.range
  let y : Chan := { x with mains := x.mains + 1, settle := x.settle - 1, leadNew := false, nextRange := next }
  let cv := match x.input (codeMicrovolts x.range e.code) exc with
    | none => (Curved.lost, 0)
    | some v => s.curve x v t
  let none_ := match cv.1 with | .lost => true | _ => false
  let lost := none_ || s.gapMeets 22 x.started t || hasTag cv.2 tagLost
  let sv := s.sampleValue (if lost then .lost else cv.1)
  let tag := (cv.2 &&& (255 - tagLost)) ||| tagIf lost tagLost ||| tagIf e.ovr tagOvr ||| tagIf e.novr tagNovr ||| tagIf (0 < x.settle) tagSettle
  let p : SoundSample := { t := t, code := e.code, value := sv.2, tag := tag, range := x.range
                           flags := flag changes + 2 * flag x.leadNew, nplc := nplcCycles (cfgNplc cfg) }
  let s1 := (sv.1.setChan c y).inc R.SN_CONV_CNT_COUNT
  let s2 := if changes then s1.wr (R.SN_CH_c_STATUS_RANGE_CHG c) 1 else s1
  let s3 := ((s2.showSample c p).ringSample c x.owner p).chanStatus c
  if e.ovr then s3.disturbGroup c t else s3

/-- A conversion that was abandoned ends without a trace (R281). -/
def State.dropConversion (s : State) (c : Nat) : State := (s.setChan c { s.chan c with active := false }).chanStatus c

/-- R283: the result of the conversion in progress arrives. A result of a channel that makes no such conversion is none; one that was
abandoned yields no sample. -/
def execConversionEnd (c : Fin 16) (t : Nat) (code : Int) (overload : Bool) (exc : Nat) (ended : List (Fin 16)) (s : State) : Res := s.live fun s =>
  let x := s.chan c
  if !s.powered 21 || !x.active || x.lead || decide (t ≤ x.started) then goOn s
  else if s.abandoned x t then goOn (s.dropConversion c)
  else goOn (s.endConversion c t code overload exc ended)

/-- R272: the lead conversion in progress ends: R_L is taken and no sample is made. -/
def State.endLead (s : State) (c t : Nat) (code : Int) (overload : Bool) (exc : Nat) (ended : List (Fin 16)) : State :=
  let e := s.endOf c t code overload ended
  let r := Config.rnd (codeMicrovolts e.chan.range e.code * 1000000 / (exc : Rat))
  let y : Chan := { e.chan with lead := false, needLead := false, mains := 0, leadNew := true, rl := some r }
  let s1 := (((s.setChan c y).inc R.SN_CONV_CNT_COUNT).wr (R.SN_CH_c_LEAD_R_L c) (ofSigned 24 r)).wr (R.SN_CH_c_STATUS_LEAD_VALID c) 1
  let s2 := s1.chanStatus c
  if e.ovr then s2.disturbGroup c t else s2

/-- R272: the result of a lead conversion arrives. -/
def execLeadConversionEnd (c : Fin 16) (t : Nat) (code : Int) (overload : Bool) (exc : Nat) (ended : List (Fin 16)) (s : State) : Res := s.live fun s =>
  let x := s.chan c
  if !s.powered 21 || !x.active || !x.lead || decide (t ≤ x.started) then goOn s
  else if s.abandoned x t then goOn (s.dropConversion c)
  else goOn (s.endLead c t code overload exc ended)

/-- Every enabled channel is to run one conversion (R280). -/
def State.singleAll (s : State) : State :=
  (List.range 16).foldl (fun (t : State) c => if t.on (R.SN_CH_c_CFG_EN c) then t.setChan c { t.chan c with single := true } else t) s

/-- Conversions start as MODE gives: continuously in CONT, once in SINGLE, none in STOP (R280). -/
def State.sndGo (s : State) : State :=
  let m := s.rd R.SN_CTL_MODE
  if m = 1 then { s with snd := { s.snd with going := true, began := if s.snd.going then s.snd.began else s.now } } else if m = 2 then s.singleAll else s

/-- A RESTART (R281): the conversions in progress are abandoned at the next cycle start, from which every enabled channel starts. -/
def State.sndRestart (s : State) : State := ({ s with snd := { s.snd with restart := some s.now } } : State).sndGo

/-- A write of MODE (R280): 3 is reserved (R8); STOP starts no further conversion, and outside CONT none follows another. -/
def State.writeMode (s : State) (m : Nat) : State :=
  if 2 < m then s
  else
    let s1 := s.wr R.SN_CTL_MODE m
    let s2 : State := if m = 1 then s1 else { s1 with snd := { s1.snd with going := false } }
    if m = 0 then s2.snd.chans.foldl (fun (t : State) e => t.setChan e.1 { t.chan e.1 with single := false }) s2 else s2

/-- A write of MSRC (R281, R278): a change acts as a RESTART and counts as an integration-time change of every enabled channel; an
internal reference ends a hold-over. -/
def State.writeMsrc (s : State) (m : Nat) : State :=
  if s.rd R.SN_CTL_MSRC = m then s
  else
    let s1 := ((s.wr R.SN_CTL_MSRC m).wr R.SN_STATUS_HOLDOVER 0).wrB R.SN_STATUS_MAINS_LOCK (decide (2 ≤ m))
    let s2 := (List.range 16).foldl (fun (t : State) c =>
      let x := t.chan c
      if cfgEn (x.act.getD 0 0) then (t.setChan c { x with settle := max x.settle 1 }).chanStatus c else t) s1
    s2.sndRestart

/-- R280: a write of START. -/
def execSoundingStart (s : State) : Res := s.live fun s => if s.powered 21 then goOn (s.endHold 21).sndGo else goOn (s.lockAnswer 21)

/-- R281: a write of RESTART. -/
def execSoundingRestart (s : State) : Res := s.live fun s => if s.powered 21 then goOn (s.endHold 21).sndRestart else goOn (s.lockAnswer 21)

/-- R280: a write of MODE = STOP. -/
def execSoundingStop (s : State) : Res := s.live fun s => if s.powered 21 then goOn ((s.endHold 21).writeMode 0) else goOn (s.lockAnswer 21)

/-- R281: a write of MSRC. -/
def execMsrcWrite (msrc : Fin 4) (s : State) : Res := s.live fun s => if s.powered 21 then goOn ((s.endHold 21).writeMsrc msrc) else goOn (s.lockAnswer 21)

/-- R279: the PLL holds its last frequency. An internal reference is not concerned. -/
def execMainsLost (period : Nat) (s : State) : Res := s.live fun s =>
  if s.powered 21 ∧ s.rd R.SN_CTL_MSRC < 2 ∧ ¬ s.on R.SN_STATUS_HOLDOVER then
    goOn ((((s.wr R.SN_STATUS_HOLDOVER 1).wr R.SN_STATUS_MAINS_LOST 1).wr R.SN_STATUS_MAINS_LOCK 0).wr R.SN_MAINS_PERIOD_PERIOD period)
  else goOn s

/-- R279: the PLL returns to MAINS_SYNC. -/
def execMainsRelock (period : Nat) (s : State) : Res := s.live fun s =>
  if s.powered 21 ∧ s.rd R.SN_CTL_MSRC < 2 ∧ (s.on R.SN_STATUS_HOLDOVER ∨ ¬ s.on R.SN_STATUS_MAINS_LOCK) then
    goOn (((s.wr R.SN_STATUS_HOLDOVER 0).wr R.SN_STATUS_MAINS_LOCK 1).wr R.SN_MAINS_PERIOD_PERIOD period)
  else goOn s

/-- The whole of a write to SN_CTL (R280, R281, R296): MODE and MSRC, then START and RESTART. -/
def State.sndCtl (s : State) (v : Nat) : State :=
  let s1 := (s.writeMode (bits v 0 2)).writeMsrc (bits v 8 2)
  let s2 := if bit v 4 then s1.sndGo else s1
  if bit v 5 then s2.sndRestart else s2

/-- R424: the drift of the buffer `k` from its reading, the zero reading and the factory readings; d_k − 1 in 10⁻⁹. -/
def State.trackReference (s : State) (k : Nat) (reading : Int) : State :=
  match s.charterTable 6 with
  | none => s
  | some b =>
    let den := Config.factoryReading b (2 + k) - Config.factoryReading b 0
    let d : Rat := ((reading - s.snd.zero : Int) : Rat) / ((den : Int) : Rat)
    let beyond := decide (500 / 1000000 < absRat (d - 1))
    let n := Config.rnd ((d - 1) * 1000000000)
    let sv : State × Nat := if den ≠ 0 ∧ clampSigned 32 n = n then (s, ofSigned 32 n) else (s.nextFree, s.freeNow)
    let s1 := (sv.1.wr (R.CL_SN_REF_k_D k) sv.2).wrBit R.CL_SN_STATUS_DRIFT k beyond
    if beyond then s1.wr R.CL_STATUS_REF_DRIFT 1 else s1

/-- R424: the next step of the rotation ends; after the sixth the rotation is complete, and the trims of the Sounding channels are valid
once they are loaded. -/
def execReferenceRotationStep (reading : Int) (s : State) : Res := s.live fun s =>
  if ¬ s.powered 21 then goOn s
  else
    let k := s.snd.step
    let s1 : State := { s with snd := { s.snd with step := (k + 1) % 6, zero := if k = 0 then reading else s.snd.zero } }
    let s2 := if 2 ≤ k ∧ s.on R.CL_CFG_SN_AUTO then s1.trackReference (k - 2) reading else s1
    if k = 5 then
      let s3 := (s2.inc R.CL_SN_ROT_COUNT).wr R.CL_SN_STATUS_ROT_DONE 1
      goOn (if s3.on R.CL_STATUS_LOADED ∧ s3.power.trims.contains 21 then s3.wr R.SN_STATUS_CAL_VALID 1 else s3)
    else goOn s2

/-- The values a berth of kind 5 takes: those of its profile where it names one (R291, R479). -/
def State.soundWords (s : State) (w : List Nat) : List Nat × Bool :=
  let p := bits (w.getD 0 0) 16 8
  if p = 255 then (w, false)
  else match s.profile 5 p with
    | none => (w, true)
    | some v => if v.length < 10 then (w, true) else (replaceWords (w.set 0 (withBit (w.getD 0 0) 12 (v.headD 0 % 2 == 1))) [1, 2, 4, 5, 6, 7, 8, 9, 10] v.tail, false)

/-- Every field of a Sounding parameter block lies in Table 10.8 (condition 2 of Table 10.9). -/
def soundFieldsOk (w : List Nat) : Bool :=
  let cfg := w.getD 1 0
  let recs := w.getD 12 0
  onlyBits (w.getD 0 0) [(16, 8), (12, 1), (8, 1), (0, 4)] && onlyBits cfg [(28, 4), (1, 26)] && decide (cfgUnit cfg ≤ 3) && wireOk cfg && curveFits cfg &&
  decide (w.getD 2 0 < 2 ^ 13) && excOk cfg (w.getD 2 0) && decide (w.getD 3 0 < 2 ^ 24) && decide (8 ≤ w.getD 4 0 ∧ w.getD 4 0 < 2 ^ 16) &&
  decide (w.getD 10 0 < 16) && isPow2 recs && decide (16 ≤ recs ∧ recs ≤ 65536) && (w.getD 11 0 == 0 || !neverIssued (w.getD 11 0))

/-- The cost of a Sounding berth (R295). -/
def soundCost : List Nat := costVec [(13, 1), (14, 1)]

/-- R292: the refusals of Table 10.9. -/
def State.judgeSounding (s : State) (w0 : List Nat) : Verdict :=
  let expert := bit (w0.getD 0 0) 8
  let r := s.soundWords w0
  let w := r.1
  let ch := bits (w.getD 0 0) 0 4
  let h := w.getD 11 0
  let c := s.inputConds h (fun b => b.kind == 5 && cfgCurve (b.params.getD 1 0) == 16 && isTc (cfgCurve (w.getD 1 0)))
  let cj := if h = 0 then [] else c.1 :: c.2
  let declared := declaredCost w 13
  let len := 32 * w.getD 12 0
  s.withBudget (judge
    ([(s.isSealed && (expert || bits (w0.getD 0 0) 16 8 == 255), stLocked), (r.2 || !soundFieldsOk w, stRange),
      (!s.on R.SN_STATUS_CAL_VALID, stCheck),
      (s.willBe.any (fun e => e.2.kind == 5 && bits (e.2.params.getD 0 0) 0 4 == ch), stBusy)] ++ cj ++
     [(!s.ringsFit [(2, len)], stRange), (expert && declaredBelow declared soundCost, stRange)])
    { params := w, cost := if expert then declared else soundCost, inputs := if h = 0 then [] else [h]
      domains := [21], slot := ch, rings := [(2, len)] })

/-- R293 at the landing: the block's values enter the channel registers with EN = 1 and OWNER = 1. -/
def State.landSounding (s : State) (i : Nat) : State :=
  let b := s.berth i
  let c := b.slot
  let w1 := takeBits (takeBits (takeBits (b.params.getD 1 0) (2 ^ 29) 29 1) 0 16 4) 0 1 1
  let s1 := s.putChan c 1 (w1 :: (b.params.drop 2).take 9)
  ({ s1 with sounding := Tab.put {} s1.sounding i { ring := b.keep.headD 0 } }.setChan c { s1.chan c with berth := b.handle, moved := true }).chanStatus c

/-- The values SOUNDING_DEFAULTS gives channel `c`, or the reset values (R296, R478). -/
def State.soundDefaults (s : State) (c : Nat) : List Nat := match s.activeBody 5 with
  | none => ({} : Chan).act
  | some b => (List.range 10).map (fun r => bodyNat b (48 * c + 4 * r) 4)

/-- R293 at the boundary at which the close lands. -/
def State.closeSounding (s : State) (i : Nat) : State :=
  let c := (s.berth i).slot
  let s1 := s.putChan c 0 (s.soundDefaults c)
  ({ s1 with sounding := Tab.put {} s1.sounding i {}, samples := Tab.put [] s1.samples i [] }.setChan c
    { s1.chan c with berth := 0, moved := true }).chanStatus c

/-- R478: every register of channel `c` takes its reset value. A conversion in progress still ends and delivers, under the configuration it
started with (R280, R297). -/
def State.resetChan (s : State) (c : Nat) : State :=
  let x := s.chan c
  let y : Chan := if x.active then
      { act := x.act, range := x.range, first := false, active := true, lead := x.lead, started := x.started, owner := x.owner, moved := true }
    else { ended := x.ended }
  ((s.resetRegs (chanAddr c 0) (chanAddr c 0 + 0x100)).setChan c y).chanStatus c

/-- R296: SOUNDING_DEFAULTS at the activation: the channel registers, with OWNER 0, and SN_CTL as a write; with the section absent, the reset
values (R478). -/
def State.activateSounding (s : State) : State :=
  match s.activeBody 5 with
  | none => ((List.range 16).foldl State.resetChan s).sndCtl 0
  | some b => ((List.range 16).foldl (fun (t : State) c => (t.putChan c 0 (t.soundDefaults c)).chanStatus c) s).sndCtl (bodyNat b 768 4)

end Sys2Proof.Machine
end

