-- ==== Sys2Proof/Machine/Balls.lean ====
section
/-! DEFINITION. Chapter 18: how the balls are driven: while the supplies ramp, out of a cold reset, through an L1 reset, and by their blocks (R437,
R439, R461, R462). -/

namespace Sys2Proof.Machine

/-- The block of a ball, by its power domain; the tally banks share ALERT_N, by 9. -/
def ballBlock : Ball → Nat
  | .dac n _ | .lgateA n | .lgateT n | .sclk n | .mosi n | .cs n _ | .gpio n _ => 1 + n
  | .alert => 9
  | .exc _ => 21
  | .row _ _ | .cen _ | .column _ _ | .bybOut => 22
  | .netTx _ | .txDis _ | .i2c _ | .hawserOut => 23
  | .whReset _ => 24

/-- The safety latch covers the ball (R439). -/
def latched : Ball → Bool
  | .dac _ _ | .lgateA _ | .lgateT _ | .row _ _ | .cen _ | .column _ _ => true
  | _ => false

/-- R462: before power-on reset begins every LV and OD output is high-impedance with its weak pull, and an AO output sources no current. -/
def rampDrive : Ball → Drive
  | .dac _ _ | .column _ _ | .exc _ => .off
  | .lgateA _ | .lgateT _ | .row _ _ | .cen _ | .gpio _ _ => .pulledDown
  | .alert | .i2c _ => .released
  | .netTx _ => .idle
  | _ => .floating

/-- The cold-reset state of a ball (Table 18.3). -/
def coldDrive : Ball → Drive
  | .dac _ _ | .column _ _ => .code 0
  | .lgateA _ | .lgateT _ | .sclk _ | .mosi _ | .row _ _ | .cen _ | .bybOut | .whReset _ => .low
  | .cs _ _ | .txDis _ => .high
  | .gpio _ _ => .pulledDown
  | .alert | .i2c _ => .released
  | .exc _ => .off
  | .netTx _ => .idle
  | .hawserOut => .zero

/-- A level. -/
def levelDrive (b : Bool) : Drive := if b then .high else .low

/-- The code of column `j` of port `m`: 0 while QLINK_C retrains, since the setpoints go over it (R16, R233). -/
def State.columnCode (s : State) (m j : Nat) : Nat := if (s.link 8).retraining then 0 else (s.port m).setpoints.getD j 0

/-- How the blocks drive a ball (R60, R61, R72, R73, R81, R84, R233, R262, R271, R397). Between frames the serial lines idle low and the chip selects
high. -/
def State.blockDrive (s : State) : Ball → Drive
  | .dac n q => let c := s.dacCodes n (2 * s.now); .code (if q then c.2 else c.1)
  | .lgateA n => levelDrive (s.gateA n)
  | .lgateT n => levelDrive (s.gateT n)
  | .sclk n | .mosi n => if (s.quay n).spiFrame.isSome then .frame else .low
  | .cs n k => levelDrive (match (s.quay n).spiFrame with | some f => f.cs != k | none => true)
  | .gpio n i => if s.rd (R.QY_GPIO_CFG_FUNC_i n i) = 1 then levelDrive (pinLevel (bit (s.quay n).gpioOut i) (s.on (R.QY_GPIO_CFG_POL_i n i)))
                 else .pulledDown
  | .alert => if (List.range 8).any (fun n => s.on (R.TL_BANK_STATUS_ALERT n) && s.on (R.TL_ALERT_CFG_PIN_EN n)) then .low else .released
  | .row m r => levelDrive (s.rowLine m r)
  | .cen m => levelDrive (s.columnEnable m)
  | .column m j => .code (s.columnCode m j)
  | .bybOut => if s.byb.flying then .frame else .low
  | .exc c => match s.excitation c with | some e => .code e.2 | none => .off
  | .netTx n => if s.on (R.NT_n_CFG_EN n) then .frame else .idle
  | .txDis n => levelDrive (!s.on (R.NT_n_CFG_EN n))
  | .i2c _ => .released
  | .hawserOut => .zero
  | .whReset _ => levelDrive (s.on R.WH_STATUS_TRAINING || s.on R.WH_STATUS_READY)

/-- How a ball is driven: with its weak pull while the supplies ramp (R462); off where the safety latch covers it (R439); in its cold-reset state
until its block's first register write (R461); as held through an L1 reset, the Sounding excitation until the trim load (R437, R416); otherwise by its
block. -/
def State.ballDrive (s : State) (b : Ball) : Drive :=
  if s.power.ramping then rampDrive b
  else if latched b && (s.power.held.isSome || !s.on R.RS_SAFE_STATUS_RELEASED) then coldDrive b
  else if s.power.cold.contains (ballBlock b) then coldDrive b
  else match (Tab.get [] s.power.holds (ballBlock b)).find? (fun e => e.1 == b) with
    | some e => match b with
      | .exc _ => if s.on R.CL_STATUS_LOADING || s.on R.CL_STATUS_LOADED then s.blockDrive b else e.2
      | _ => e.2
    | none => if s.power.held.isSome || !s.powered (ballBlock b) then coldDrive b else s.blockDrive b

/-- The balls that an L1 reset holds, by block (Table 18.3). -/
def holdBalls : List Ball :=
  (List.range 8).flatMap (fun n => [.sclk n, .mosi n, .cs n 0, .cs n 1, .gpio n 0, .gpio n 1, .gpio n 2, .gpio n 3]) ++ [.alert] ++
  (List.range 16).map .exc ++ [.bybOut] ++ (List.range 2).flatMap (fun n => [.txDis n, .i2c n]) ++ [.hawserOut]

/-- The drives that an L1 reset holds (R437). -/
def State.heldBalls (s : State) : Tab (List (Ball × Drive)) :=
  holdBalls.foldl (fun t b => Tab.put [] t (ballBlock b) (Tab.get [] t (ballBlock b) ++ [(b, s.ballDrive b)])) []

end Sys2Proof.Machine
end

