-- ==== Sys2Proof/Machine/PierOps.lean ====
section
/-! DEFINITION. Chapter 12: what every instruction of a signal core shares: the memory map, the accumulators, circular addressing, the
exposed pipeline, faults, completions and the dispatcher's order (R316 to R335). -/

namespace Sys2Proof.Machine

/-- The core `k` of 0 to 15. -/
def State.core (s : State) (k : Nat) : Core := Tab.get {} s.cores k

/-- Replaces the core `k`. -/
def State.setCore (s : State) (k : Nat) (x : Core) : State := { s with cores := Tab.put {} s.cores k x }

/-- The cluster `n`. -/
def State.cluster (s : State) (n : Nat) : Cluster := Tab.get {} s.clusters n

/-- Replaces the cluster `n`. -/
def State.setCluster (s : State) (n : Nat) (x : Cluster) : State := { s with clusters := Tab.put {} s.clusters n x }

/-- The registers of core `k` show its job, accumulator flags, REPEAT depth, counter and cycles (Table 12.7). -/
def State.showCore (s : State) (k : Nat) : State :=
  let x := s.core k
  let n := k / 4
  let j := k % 4
  let b := match x.job with
    | some w => w.berth.getD 0
    | none => 0
  ((((((((s.wr (R.PI_CORE_k_STATUS_BERTH n j) b).wr (R.PI_CORE_k_STATUS_GOV n j) x.gov).wr (R.PI_CORE_k_STATUS_FRZ n j) x.frz).wr
    (R.PI_CORE_k_STATUS_WRAP n j) x.wrap).wrB (R.PI_CORE_k_STATUS_IRQ_HELD n j) (decide (x.irqs ≠ []))).wr
    (R.PI_CORE_k_STATUS_DEPTH n j) x.loops.length).wrB (R.PI_CORE_k_STATUS_BUSY n j) x.job.isSome).wr (R.PI_CORE_k_PC_PC n j) x.pc).wr
    (R.PI_CORE_k_CYC_CYCLES n j) x.cyc

/-- The queue registers of cluster `n` (Table 12.6). -/
def State.showQueue (s : State) (n : Nat) : State :=
  let l := (s.cluster n).queue.length
  (s.wr (R.PI_CL_QUEUE_LEVEL n) l).wr (R.PI_CL_QUEUE_PEAK n) (max l (s.rd (R.PI_CL_QUEUE_PEAK n)))

/-- A general register; g0 reads as 0 (Table 12.2). -/
def Core.reg (x : Core) (r : Nat) : Nat := if r = 0 then 0 else Tab.get 0 x.g r

/-- Writes a general register; g0 discards writes (Table 12.2). -/
def Core.setReg (x : Core) (r v : Nat) : Core := if r = 0 then x else { x with g := Tab.put 0 x.g r (low 32 v) }

/-- A circular set. -/
def Core.circ (x : Core) (i : Nat) : CircSet := Tab.get {} x.c i

/-- Replaces a circular set; B and P hold 22 bits, L 18 (Table 12.2). -/
def Core.setCirc (x : Core) (i : Nat) (c : CircSet) : Core :=
  { x with c := Tab.put {} x.c i { b := low 22 c.b, l := low 18 c.l, p := low 22 c.p } }

/-- The pointer after its post-modification (R325). -/
def CircSet.step (c : CircSet) (s : Int) : CircSet :=
  let p : Int := if c.l = 0 then c.p + s else c.b + (c.p - c.b + s) % c.l
  { c with p := (p % (2 ^ 22 : Nat)).toNat }

/-- Post-modifies a set of the core. -/
def Core.stepCirc (x : Core) (i : Nat) (s : Int) : Core := x.setCirc i ((x.circ i).step s)

/-- The largest magnitude of an accumulator without WRAP (R323). -/
def accMax : Int := 2 ^ 39 - 1

/-- The accumulator a_k. -/
def Core.acc (x : Core) (k : Nat) : Int := Tab.get 0 x.a k

/-- Adds to an accumulator: modulo 2^40 with WRAP, else saturating and freezing (R323). -/
def Core.addAcc (x : Core) (k : Nat) (v : Int) : Core :=
  let r := x.acc k + v
  if bit x.wrap k then { x with a := Tab.put 0 x.a k (toSigned 40 (ofSigned 40 r)) }
  else if bit x.frz k then x
  else if accMax < r then { x with a := Tab.put 0 x.a k accMax, frz := withBit x.frz k true, gov := withBit x.gov k true }
  else if r < -accMax then { x with a := Tab.put 0 x.a k (-accMax), frz := withBit x.frz k true, gov := withBit x.gov k true }
  else { x with a := Tab.put 0 x.a k r }

/-- Writes an accumulator and unfreezes it (R323). -/
def Core.writeAcc (x : Core) (k : Nat) (v : Int) : Core := { x with a := Tab.put 0 x.a k v, frz := withBit x.frz k false }

/-- The signed low half of a register. -/
def Core.lo16 (x : Core) (r : Nat) : Int := toSigned 16 (x.reg r)

/-- The signed high half of a register. -/
def Core.hi16 (x : Core) (r : Nat) : Int := toSigned 16 (x.reg r / 2 ^ 16)

/-- The places of Table 12.1. -/
inductive PierPlace where
  | data | instr | tap | cluster | none_
  deriving DecidableEq, Repr

/-- Where `n` bytes at a core address lie (R317). -/
def pierPlace (a n : Nat) : PierPlace :=
  if a + n ≤ 0x40000 then .data
  else if 0x80000 ≤ a ∧ a + n ≤ 0x90000 then .instr
  else if 0x90000 ≤ a ∧ a + n ≤ 0x94000 then .tap
  else if 0x100000 ≤ a ∧ a + n ≤ 0x300000 then .cluster
  else .none_

/-- Fault codes of Table 12.6. -/
def faultIllegal : Nat := 1
/-- ADDR. -/
def faultAddr : Nat := 2
/-- DPAR. -/
def faultDpar : Nat := 3
/-- IPAR. -/
def faultIpar : Nat := 4
/-- CPAR. -/
def faultCpar : Nat := 5

/-- The Shed offset of a cluster memory address of core `k` (R316, Table 13.1). -/
def clusterOffset (k a : Nat) : Nat := 0x3000000 + (k / 4) * 0x200000 + (a - 0x100000)

/-- The first word of `n` bytes at core address `a` that fails parity. -/
def Core.failing (x : Core) (a n : Nat) : Option Nat := (wordsOf a n).find? (fun w => Tab.get false x.bad w)

/-- The bytes that a core reads at an address, or the fault of the read and where (R317, R332). -/
def State.coreRead (s : State) (k a n : Nat) : Except (Nat × Nat) (List Byte) :=
  let x := s.core k
  match pierPlace a n with
  | .none_ => .error (faultAddr, a)
  | .cluster =>
    if s.shedFails (clusterOffset k a) n then .error (faultCpar, a) else .ok (s.shedBytes (clusterOffset k a) n)
  | .instr => match x.failing a n with
    | some w => .error (faultIpar, 4 * w)
    | none => .ok (Tab.getList 0 x.mem a n)
  | _ => match x.failing a n with
    | some w => .error (faultDpar, 4 * w)
    | none => .ok (Tab.getList 0 x.mem a n)

/-- A core may store at an address (R317). -/
def storeOk (a n : Nat) : Bool := match pierPlace a n with
  | .none_ => false
  | .instr => false
  | _ => true

/-- A core stores bytes; a word written whole has fresh parity (R316, R340). -/
def State.coreWrite (s : State) (k a : Nat) (bs : List Byte) : State :=
  match pierPlace a bs.length with
  | .cluster => s.shedWrite (clusterOffset k a) bs
  | _ =>
    let x := s.core k
    let whole := (wordsOf a bs.length).filter (fun w => decide (a ≤ 4 * w ∧ 4 * w + 4 ≤ a + bs.length))
    s.setCore k { x with mem := Tab.putList 0 x.mem a bs, bad := whole.foldl (fun t w => Tab.put false t w false) x.bad }

/-- The value of a load's destination as it lands (R319, R323). -/
def Core.land (x : Core) (d : PierDst) (v : Nat) : Core := match d with
  | .g r => x.setReg r v
  | .a k => x.writeAcc k (toSigned 40 v)
  | .base i => x.setCirc i { (x.circ i) with b := v }
  | .len i => x.setCirc i { (x.circ i) with l := v }
  | .ptr i => x.setCirc i { (x.circ i) with p := v }

/-- The loads in flight move on by one instruction, and those due land (R319). -/
def Core.retire (x : Core) : Core :=
  let due := x.loads.filter (fun l => l.left == 0)
  let rest := (x.loads.filter (fun l => l.left != 0)).map (fun l => { l with left := l.left - 1 })
  due.foldl (fun y l => y.land l.dst l.value) { x with loads := rest }

/-- The instruction index that follows `pc`, and the REPEAT levels left, innermost first (R320). -/
def nextIndex (pc : Nat) : List LoopLevel → Nat × List LoopLevel
  | [] => (pc + 1, [])
  | l :: ls =>
    if pc = l.stop then
      if 1 < l.left then (l.start, { l with left := l.left - 1 } :: ls) else nextIndex pc ls
    else (pc + 1, l :: ls)

/-- The levels whose body holds an index; a taken branch out of a body ends that level and every level inside it (R320). -/
def levelsAt (t : Nat) : List LoopLevel → List LoopLevel
  | [] => []
  | l :: ls => if (l :: ls).all (fun m => decide (m.start ≤ t ∧ t ≤ m.stop)) then l :: ls else levelsAt t ls

/-- The control flow after an instruction that was no branch (R319, R320). -/
def Core.advancePc (x : Core) : Core :=
  match x.branch with
  | none => let n := nextIndex x.pc x.loops; { x with pc := low 14 n.1, loops := n.2 }
  | some (slots, target) =>
    if 1 < slots then { x with pc := low 14 (x.pc + 1), branch := some (slots - 1, target) }
    else match target with
      | some t => { x with pc := t, branch := none, loops := levelsAt t x.loops }
      | none => { x with pc := low 14 (x.pc + 1), branch := none }

/-- Cycles pass on a core: CSR_CYC, the held interrupts, and TIMER when CSR_CYC reaches its compare value (R321, R322). -/
def Core.tick (x : Core) (n : Nat) : Core :=
  let irqs := x.irqs.map (fun i => (i.1, i.2 + n))
  let hit := match x.timer with
    | some t => decide (x.cyc < t ∧ t ≤ x.cyc + n) && !irqs.any (fun i => i.1 == 4)
    | none => false
  { x with cyc := x.cyc + n, irqs := if hit then irqs ++ [(4, 0)] else irqs }

/-- An interrupt is asserted; one already pending stays as it is (R321). -/
def Core.assert_ (x : Core) (src : Nat) : Core := if x.irqs.any (fun i => i.1 == src) then x else { x with irqs := x.irqs ++ [(src, 0)] }

/-- Cycles are charged to the job's berth on the cluster's engine; those of INIT, and of a handler on a core without a job, to the reserve
(R330, R455). -/
def State.charge (s : State) (k n : Nat) : State :=
  let c := s.cluster (k / 4)
  let s1 := match (s.core k).job.bind PierJob.berth with
    | none => s.chargeTo (1 + k / 4) 4097 n
    | some b => (s.setCluster (k / 4) { c with used := Tab.put 0 c.used b (Tab.get 0 c.used b + n) }).chargeTo (1 + k / 4) b n
  if (s.core k).job.isSome ∨ (s.core k).saved.isSome then s1.addSat (R.PI_CORE_k_BUSY_CNT_COUNT (k / 4) (k % 4)) n else s

/-- A completion is written for its posting agent. -/
def State.complete (s : State) (n : Nat) (d : JobDone) : State := s.setCluster n { s.cluster n with done := (s.cluster n).done ++ [d] }

/-- Entry fields of an image: first instruction index and RERUN (Table 12.5). -/
def entryOffset (img : List Byte) (e : Nat) : Nat := bodyNat img (64 + 8 * e) 2
/-- RERUN of an entry. -/
def entryRerun (img : List Byte) (e : Nat) : Bool := bit (bodyNat img (66 + 8 * e) 1) 0
/-- NENTRY of an image. -/
def imageEntries (img : List Byte) : Nat := bodyNat img 18 1
/-- LAT of an image. -/
def imageLat (img : List Byte) : Nat := bodyNat img 16 2
/-- SIZE of an image. -/
def imageSize (img : List Byte) : Nat := bodyNat img 12 4
/-- FLOWLIB of an image. -/
def imageFlowlib (img : List Byte) : Bool := bit (bodyNat img 19 1) 0
/-- CODE of an image. -/
def imageCode (img : List Byte) : List Byte := (img.drop (64 + 8 * imageEntries img)).take (imageSize img)

/-- The image in a bank of cluster `n`. -/
def State.progBank (s : State) (n b : Nat) : List Byte := Tab.get [] (s.cluster n).banks b

/-- The first instruction index of an entry in a bank (R333, R335): free for an entry the image does not have. -/
def State.entryPc (s : State) (n b e : Nat) : Nat :=
  let img := s.progBank n b
  low 14 ((if e < imageEntries img then entryOffset img e else s.freeNow) + 8192 * b)

/-- A job starts on a core (R324): accumulators and CSR_ACC are 0, and the 8 dispatch cycles are charged. -/
def State.startJob (s : State) (k : Nat) (j : PierJob) : State :=
  let n := k / 4
  let x := s.core k
  let s0 := if j.entry < imageEntries (s.progBank n j.bank) then s else s.nextFree
  let y : Core := { x with a := [], wrap := 0, frz := 0, gov := 0, pc := s.entryPc n j.bank j.entry, cyc := 8, loops := [], loads := []
                           branch := none, run := 0, job := some j, abandoned := false, saved := none }
  ((s0.setCore k y).charge k 8).showCore k

/-- READY sets when no INIT of the cluster is due or running (Table 12.6). -/
def State.checkReady (s : State) (n : Nat) : State :=
  let busy := (List.range 4).any (fun i => (s.core (4 * n + i)).initDue.isSome || (match (s.core (4 * n + i)).job with
    | some j => j.entry == 1 && j.berth.isNone
    | none => false))
  if busy then s else s.wr (R.PI_CL_STATUS_READY n) 1

/-- The core is free again; a job that ended is counted (Tables 12.6 and 12.7). -/
def State.freeCore (s : State) (k : Nat) : State :=
  let x := s.core k
  let n := k / 4
  let y : Core := { x with job := none, rerun := false, abandoned := false, loops := [], loads := [], branch := none, run := 0, saved := none }
  ((((s.setCore k y).inc (R.PI_CL_JOB_CNT_COUNT n)).inc (R.PI_CORE_k_JOBS_COUNT n (k % 4))).showCore k).checkReady n

/-- A dropped job is counted (Table 12.6). -/
def State.dropJob (s : State) (n : Nat) (c : Bool) : State := if c then (s.wr (R.PI_CL_STATUS_DROP n) 1).inc (R.PI_CL_DROP_CNT_COUNT n) else s

/-- The job of a core ends (R329, R331). -/
def State.endJob (s : State) (k : Nat) : State :=
  let x := s.core k
  let n := k / 4
  match x.job with
  | none => s
  | some j =>
    let d : JobDone := { job := j, tide := decide (j.posted < tideOf s.now), dropped := x.abandoned }
    (((if j.berth.isNone then s else s.complete n d).dropJob n x.abandoned).freeCore k)

/-- A parity error of a core's memories is recorded (Table 12.6). -/
def State.parityFault (s : State) (n code : Nat) : State :=
  if code = faultDpar then (s.wr (R.PI_CL_STATUS_DPAR n) 1).inc (R.PI_CL_PARITY_CNT_DMEM n)
  else if code = faultIpar then (s.wr (R.PI_CL_STATUS_IPAR n) 1).inc (R.PI_CL_PARITY_CNT_IMEM n)
  else if code = faultCpar then (s.wr (R.PI_CL_STATUS_CPAR n) 1).inc (R.PI_CL_PARITY_CNT_CMEM n)
  else s

/-- A failing word of data memory becomes 0 with fresh parity; one of instruction memory is loaded again from the bank's copy (R332). -/
def State.repairWord (s : State) (k code addr : Nat) : State :=
  let x := s.core k
  if code = faultDpar then s.setCore k { x with mem := Tab.putList 0 x.mem addr (leBytes 4 0), bad := Tab.put false x.bad (addr / 4) false }
  else
    let w := (addr - 0x80000) / 4
    let img := s.progBank (k / 4) (w / 8192)
    let bytes := ((imageCode img).drop (4 * (if imageSize img ≤ 32768 then w % 8192 else w))).take 4
    s.setCore k { x with mem := Tab.putList 0 x.mem addr bytes, bad := Tab.put false x.bad (addr / 4) false }

/-- An INIT of an incoming image faults: the cluster returns to the outgoing bank, and the ledger writes PIER_SWAP naming program 0 as the
new program (R455). -/
def State.initFault (s : State) (n arg : Nat) : State :=
  if arg = 1 ∧ s.on (R.PI_CL_STATUS_DUAL n) then
    let act := s.rd (R.PI_CL_STATUS_ACT_BANK n)
    let old := s.rd (R.PI_CL_BANK_b_ID_PROG_ID n (1 - act))
    let s1 := (List.range 4).foldl (fun (t : State) i => t.setCore (4 * n + i) { t.core (4 * n + i) with initDue := none }) s
    ((s1.wr (R.PI_CL_STATUS_ACT_BANK n) (1 - act)).wr (R.PI_CL_STATUS_DUAL n) 0).event 0x32 255 [n, old, 0]
  else s

/-- R332: a fault at the instruction that a core runs: the job runs once more from its start, or ends with FAULT. -/
def State.faultJob (s : State) (k code addr : Nat) : State :=
  let x := s.core k
  let n := k / 4
  let s1 := s.parityFault n code
  match x.job with
  | none => (s1.setCore k { x with saved := none, loops := [], loads := [], branch := none, run := 0 }).showCore k
  | some j =>
    let mend := (code == faultDpar && decide (addr < 0x40000)) || code == faultIpar
    if mend ∧ entryRerun (s.progBank n j.bank) j.entry ∧ ¬ x.rerun ∧ ¬ x.abandoned then
      let s2 := (s1.repairWord k code addr).inc (R.PI_CL_FAULT_CNT_RERUN n)
      let y := s2.core k
      (s2.setCore k { y with a := [], wrap := 0, frz := 0, gov := 0, pc := s2.entryPc n j.bank j.entry, loops := [], loads := [], branch := none
                             run := 0, rerun := true, saved := none }).showCore k
    else
      let d : JobDone := { job := j, tide := decide (j.posted < tideOf s.now), dropped := x.abandoned, fault := code, addr := addr }
      let s2 := if s1.on (R.PI_CL_STATUS_FAULT n) then s1
        else ((s1.wr (R.PI_CL_LASTFAULT_CORE n) (k % 4)).wr (R.PI_CL_LASTFAULT_CODE n) code).wr (R.PI_CL_LASTFAULT_ADDR n) addr
      let s3 := (s2.wr (R.PI_CL_STATUS_FAULT n) 1).inc (R.PI_CL_FAULT_CNT_FAULT n)
      let s4 := if j.berth.isNone then s3.initFault n j.arg else s3.complete n d
      (s4.dropJob n x.abandoned).freeCore k

/-- What an instruction does: the state after it, or a fault code and its address. -/
abbrev PierEffect := State → Except (Nat × Nat) State

/-- The instruction at the program counter of core `k` issues (R319 to R322, R332): nothing where the core runs neither a job nor a handler;
a word that fails parity, the 33rd instruction of one run of slots and shadows, and the last instruction of a body in a delay slot
fault; otherwise its effect, then the loads that land, the next index and the cycles, and last what `fin` adds. -/
def State.issueThen (s : State) (k stall : Nat) (f : PierEffect) (fin : State → State) : State :=
  let x := s.core k
  if x.job.isNone && x.saved.isNone then s
  else
    let inRun := x.branch.isSome || x.loads != []
    let run := if inRun then x.run + 1 else 0
    let last := x.loops.any (fun l => l.stop == x.pc)
    if Tab.get false x.bad (0x20000 + x.pc) then s.faultJob k faultIpar (0x80000 + 4 * x.pc)
    else if 32 < run ∨ (last ∧ x.branch.isSome) then s.faultJob k faultIllegal x.pc
    else match f (s.setCore k { x with loads := [] }) with
      | .error e => s.faultJob k e.1 e.2
      | .ok t =>
        let y := t.core k
        let issued := y.loads
        let z := ({ y with loads := x.loads } : Core).retire
        let w : Core := { z with loads := z.loads ++ issued, run := run }
        let slot := match x.branch with | some _ => true | none => false
        let c := (if slot || y.branch.isNone then w.advancePc else { w with pc := low 14 (w.pc + 1) }).tick (1 + stall)
        let t1 := (t.setCore k c).charge k (1 + stall)
        let t2 := if c.gov ≠ x.gov then t1.wr (R.PI_CL_STATUS_GOV (k / 4)) 1 else t1
        fin (t2.showCore k)

/-- An instruction that does nothing beyond its effect. -/
def State.issue (s : State) (k stall : Nat) (f : PierEffect) : State := s.issueThen k stall f id

/-- An effect on the core alone. -/
def onCore (k : Nat) (f : Core → Core) : PierEffect := fun s => .ok (s.setCore k (f (s.core k)))

/-- The address of an access, and the core after its post-modification (R325). -/
def Core.addr (x : Core) : PierAddr → Nat × Core
  | .set i st => ((x.circ i).p, x.stepCirc i st)
  | .at_ a => (a, x)

/-- The address an access uses. -/
def accessAddr : PierAccess → PierAddr
  | .load _ a _ _ => a
  | .store _ a _ => a

/-- The bytes an access moves. -/
def accessSize : PierAccess → Nat
  | .load _ _ n _ => n
  | .store _ _ n => n

/-- A loaded value: the bytes extended to the width of the destination (R319). -/
def loadValue (bs : List Byte) (n : Nat) (signed : Bool) : Nat := if signed then ofSigned 40 (toSigned (8 * n) (leNat bs)) else leNat bs

/-- The reading part of an access, from the memory before the instruction (R318): a load enters the shadow of two instructions. -/
def State.accessRead (old s : State) (k a : Nat) : PierAccess → Except (Nat × Nat) State
  | .load d _ n sg => match old.coreRead k a n with
    | .error e => .error e
    | .ok bs => let x := s.core k; .ok (s.setCore k { x with loads := x.loads ++ [⟨1, d, loadValue bs n sg⟩] })
  | .store _ _ n => if storeOk a n then .ok s else .error (faultAddr, a)

/-- The writing part of an access: the source as it was before the instruction (R318, R319). -/
def State.accessWrite (old s : State) (k a : Nat) : PierAccess → State
  | .load _ _ _ _ => s
  | .store r _ n => s.coreWrite k a (leBytes n ((old.core k).reg r))

/-- The accesses of one instruction, in operand order: both read before either writes, and the second write wins (R318); then the pointers
move (R325). -/
def accesses (k : Nat) (as_ : List PierAccess) : PierEffect := fun s =>
  let addrs := as_.map (fun a => ((s.core k).addr (accessAddr a)).1)
  let pairs := as_.zip addrs
  match pairs.foldlM (fun (t : State) p => s.accessRead t k p.2 p.1) s with
  | .error e => .error e
  | .ok t =>
    let t1 := pairs.foldl (fun (u : State) p => s.accessWrite u k p.2 p.1) t
    .ok (as_.foldl (fun (u : State) a => u.setCore k ((u.core k).addr (accessAddr a)).2) t1)

/-- The cycles an instruction stalls: only one that reaches cluster memory does (R317, Table 12.1). -/
def State.stallOf (s : State) (k stall : Nat) (as_ : List PierAccess) : Nat :=
  if as_.any (fun a => pierPlace ((s.core k).addr (accessAddr a)).1 (accessSize a) == .cluster) then stall else 0

/-- The accesses of one instruction move 1, 2 or 4 bytes each (Table 12.1). -/
def accessesOk (as_ : List PierAccess) : Bool := as_.all (fun a => accessSize a == 1 || accessSize a == 2 || accessSize a == 4)

/-- A post (R328): it is refused when the queue is full, or the index holds no open berth with a cost entry on the cluster's engine. -/
def State.post (s : State) (n : Nat) (j : PierJob) : State :=
  let c := s.cluster n
  let b := s.berth (j.berth.getD 0)
  if 256 ≤ c.queue.length ∨ !b.isOpen ∨ vecAt b.cost (1 + n) = 0 then
    (s.wr (R.PI_CL_STATUS_REFUSED n) 1).complete n { job := j, refused := true }
  else (s.setCluster n { c with queue := c.queue ++ [j] }).showQueue n

/-- What a berth has left of its allowance on the cluster's engine in this tide (R329). -/
def State.pierLeft (s : State) (n b : Nat) : Nat :=
  let x := s.berth b
  vecAt x.cost (1 + n) + vecAt x.credit (1 + n) - Tab.get 0 (s.cluster n).used b

/-- The job of least berth index, the first posted among equals. -/
def leastBerth : List PierJob → Option PierJob
  | [] => none
  | j :: js => match leastBerth js with
    | none => some j
    | some m => if m.berth.getD 0 < j.berth.getD 0 then some m else some j

/-- The next job in the order of R329. -/
def State.nextJob (s : State) (n : Nat) : Option PierJob :=
  let q := (s.cluster n).queue
  match leastBerth (q.filter (fun j => decide (0 < s.pierLeft n (j.berth.getD 0)))) with
  | some j => some j
  | none => match q.find? (fun j => decide (j.posted < tideOf s.now)) with
    | some j => some j
    | none => leastBerth q

/-- The first boundary that an interrupt may take lies outside delay slots and load shadows (R321, R322). -/
def Core.clear (x : Core) : Bool := x.branch.isNone && x.loads.isEmpty

/-- The bank whose image a core runs: that of its job, else the active one. -/
def State.coreBank (s : State) (k : Nat) : Nat := match (s.core k).job with
  | some j => j.bank
  | none => s.rd (R.PI_CL_STATUS_ACT_BANK (k / 4))

/-- An interrupt is taken (R321): the hold-off is recorded, and entry 0 of the running image handles it. -/
def State.takeInterrupt (s : State) (k src held : Nat) : State :=
  let x := s.core k
  let n := k / 4
  let y : Core := { x with saved := some (x.pc, x.loops), loops := [], pc := s.entryPc n (s.coreBank k) 0, irqs := x.irqs.filter (fun i => i.1 != src) }
  let h := min held 65535
  (((s.setCore k y).wr (R.PI_CL_HOLD_MAX_CYCLES n) (max h (s.rd (R.PI_CL_HOLD_MAX_CYCLES n)))).wr (R.PI_CORE_k_HOLD_MAX_CYCLES n (k % 4))
    (max h (s.rd (R.PI_CORE_k_HOLD_MAX_CYCLES n (k % 4))))).showCore k

/-- A bank of a cluster takes an image: its registers, its copy, and the instruction memories of the four cores (R334 to R336). -/
def State.loadProgBank (s : State) (n b : Nat) (img : List Byte) : State :=
  let c := s.cluster n
  let s1 := s.setCluster n { c with banks := Tab.put [] c.banks b img }
  let part := ((imageCode img).drop (if imageSize img ≤ 32768 then 0 else 32768 * b)).take 32768
  let s2 := (List.range 4).foldl (fun (t : State) i =>
    let x := t.core (4 * n + i)
    let clean := Tab.clear x.mem (0x80000 + 32768 * b) (0x88000 + 32768 * b)
    t.setCore (4 * n + i) { x with mem := Tab.putList 0 clean (0x80000 + 32768 * b) part
                                   bad := Tab.clear x.bad (0x20000 + 8192 * b) (0x22000 + 8192 * b) }) s1
  ((((s2.wr (R.PI_CL_BANK_b_ID_PROG_ID n b) (bodyNat img 4 4)).wrB (R.PI_CL_BANK_b_INFO_VALID n b) (!img.isEmpty)).wrB
    (R.PI_CL_BANK_b_INFO_FLOWLIB n b) (imageFlowlib img)).wr (R.PI_CL_BANK_b_INFO_SIZE n b) (ceilDiv (imageSize img) 1024)).wr
    (R.PI_CL_BANK_b_INFO_LAT n b) (imageLat img)

/-- INIT is due on every core of a cluster (R334, R335, R455). -/
def State.dueInit (s : State) (n b arg : Nat) : State :=
  (List.range 4).foldl (fun (t : State) i => t.setCore (4 * n + i) { t.core (4 * n + i) with initDue := some (b, arg) }) s

/-- R334 for one cluster: the image of the PIER_PLAN body loads, or none; INIT is due. -/
def State.activateCluster (s : State) (body : List Byte) (n : Nat) : State :=
  let img := (body.drop (bodyNat body (16 * n + 4) 4)).take (bodyNat body (16 * n + 8) 4)
  let on_ := bodyNat body (16 * n) 1 ≠ 0
  let s0 := (((s.setCluster n {}).wr (R.PI_CL_STATUS_READY n) 0).wr (R.PI_CL_STATUS_ACT_BANK n) 0).wr (R.PI_CL_STATUS_DUAL n) 0
  let s1 := (s0.wr (R.PI_CL_STATUS_SWAPPING n) 0).showQueue n
  if on_ then
    let s2 := s1.loadProgBank n 0 img
    (if imageSize img ≤ 32768 then s2.loadProgBank n 1 [] else s2.loadProgBank n 1 img).dueInit n 0 0
  else (s1.loadProgBank n 0 []).loadProgBank n 1 []

/-- R335: the cluster's domain is back: banks load from their copies and INIT is due. -/
def State.powerCluster (s : State) (n : Nat) : State :=
  let a := s.rd (R.PI_CL_STATUS_ACT_BANK n)
  let s1 := (s.loadProgBank n 0 (s.progBank n 0)).loadProgBank n 1 (s.progBank n 1)
  if (s.progBank n a).isEmpty then s1 else s1.dueInit n a 0

/-- The cores of a cluster lose their state with its domain; cluster memory stays (R316). -/
def State.clearCores (s : State) (n : Nat) : State :=
  let s1 := (List.range 4).foldl (fun (t : State) i => t.setCore (4 * n + i) {}) s
  s1.setCluster n { (s1.cluster n) with queue := [], used := [] }

/-- R336 step 2 at the boundary: ACT_BANK switches, and INIT of the incoming image is due with ARG = 1 (R455). -/
def State.landPierSwap (s : State) (n : Nat) : State :=
  let c := s.cluster n
  match c.swap with
  | none => s
  | some img =>
    let a := s.rd (R.PI_CL_STATUS_ACT_BANK n)
    let old := s.rd (R.PI_CL_BANK_b_ID_PROG_ID n a)
    let s1 := (s.setCluster n { c with swap := none, swapAt := s.now }).loadProgBank n (1 - a) img
    let s2 := ((s1.wr (R.PI_CL_STATUS_ACT_BANK n) (1 - a)).wr (R.PI_CL_STATUS_DUAL n) 1).wr (R.PI_CL_STATUS_SWAPPING n) 0
    let s3 := (List.range 4).foldl (fun (t : State) i => (t.setCore (4 * n + i) ((t.core (4 * n + i)).assert_ 2)).showCore (4 * n + i)) (s2.dueInit n (1 - a) 1)
    s3.event 0x32 255 [n, old, bodyNat img 4 4]

/-- R331 at a boundary: jobs two tides old are removed or abandoned; each core receives TIDE (R321); the tide's charges start again; and DUAL
clears when no job of the outgoing bank is left and no flow zone still runs in it (R159, R336 steps 3 and 4). -/
def State.pierBoundary (s : State) (n : Nat) : State :=
  let now := tideOf s.now
  let c := s.cluster n
  let old := c.queue.filter (fun j => decide (j.posted + 2 ≤ now))
  let s1 := (s.setCluster n { c with queue := c.queue.filter (fun j => !decide (j.posted + 2 ≤ now)), used := [] }).showQueue n
  let s2 := old.foldl (fun (t : State) j => (t.complete n { job := j, tide := true, dropped := true }).dropJob n true) s1
  let s3 := (List.range 4).foldl (fun (t : State) i =>
    let x := (t.core (4 * n + i)).assert_ 0
    let late := match x.job with
      | some j => j.berth.isSome && decide (j.posted + 2 ≤ now)
      | none => false
    (t.setCore (4 * n + i) (if late then { (x.assert_ 1) with abandoned := true } else x)).showCore (4 * n + i)) s2
  let out := 1 - s3.rd (R.PI_CL_STATUS_ACT_BANK n)
  let left := (s3.cluster n).queue.any (fun j => j.bank == out) || s3.flow.any (fun e => e.2.cluster == n && e.2.bank == out && (s3.berth e.1).isOpen) || (List.range 4).any (fun i => (s3.core (4 * n + i)).initDue.isSome ||
    (match (s3.core (4 * n + i)).job with | some j => j.bank == out | none => false))
  if s3.on (R.PI_CL_STATUS_DUAL n) ∧ ¬ left then s3.wr (R.PI_CL_STATUS_DUAL n) 0 else s3

end Sys2Proof.Machine
end

