-- ==== Sys2Proof/Machine/Pier.lean ====
section
/-! DEFINITION. Chapter 12: the instructions of the signal cores, their interrupts, and the dispatcher. -/

namespace Sys2Proof.Machine

/-- R321: an interrupt is taken at a boundary outside delay slots, load shadows and every REPEAT body; a core in a handler takes none. -/
def execPierInterrupt (core : Fin 16) (src : Fin 5) (s : State) : Res := s.live fun s =>
  let x := s.core core
  match x.irqs.find? (fun i => i.1 == src.val) with
  | none => goOn s
  | some i =>
    if s.powered (17 + core.val / 4) && x.clear && x.loops.isEmpty && x.saved.isNone && !(s.progBank (core.val / 4) (s.coreBank core)).isEmpty then
      goOn (s.takeInterrupt core src i.2)
    else goOn s

/-- R322: an interrupt held for LAT cycles is taken inside a REPEAT body; the loops are saved and the break is counted. -/
def execHoldOffBreak (core : Fin 16) (src : Fin 5) (s : State) : Res := s.live fun s =>
  let x := s.core core
  let n := core.val / 4
  match x.irqs.find? (fun i => i.1 == src.val) with
  | none => goOn s
  | some i =>
    if s.powered (17 + n) && x.clear && !x.loops.isEmpty && x.saved.isNone && decide (imageLat (s.progBank n (s.coreBank core)) ≤ i.2) then
      goOn (((s.takeInterrupt core src i.2).inc (R.PI_CL_HOLD_CNT_COUNT n)).wr (R.PI_CL_STATUS_HOLD_BREAK n) 1)
    else goOn s

/-- R320: the body of `len` instructions runs `n` times; with 0 it is skipped; a count above 1,024 and a third level fault. -/
def execRepeatBody (core : Fin 16) (n : RepeatCount) (len : Nat) (s : State) : Res := s.live fun s =>
  let legal := match n with
    | .imm v => decide (v ≤ 1024)
    | .reg _ => true
  if len = 0 ∨ 256 < len ∨ !legal then .refused .illFormed
  else goOn (s.issue core 0 (fun t =>
    let x := t.core core
    let v := match n with
      | .imm v => v
      | .reg r => x.reg r
    if 1024 < v ∨ 2 ≤ x.loops.length then .error (faultIllegal, x.pc)
    else if v = 0 then .ok (t.setCore core { x with pc := low 14 (x.pc + len) })
    else .ok (t.setCore core { x with loops := ⟨v, x.pc + 1, x.pc + len⟩ :: x.loops })))

/-- R327: one filter tap. -/
def execTapmov (core : Fin 16) (k : Fin 4) (h x : Fin 8) (c : Fin 32) (step : Int) (s : State) : Res := s.live fun s =>
  goOn (s.issue core 0 (fun t =>
    let y := t.core core
    let ph := (y.circ h).p
    let px := (y.circ x).p
    if pierPlace ph 2 ≠ .tap then .error (faultAddr, ph)
    else if pierPlace px 2 ≠ .data then .error (faultAddr, px)
    else match t.coreRead core ph 2, t.coreRead core px 2 with
      | .error e, _ => .error e
      | _, .error e => .error e
      | .ok hb, .ok xb =>
        let t1 := t.coreWrite core px (leBytes 2 (y.reg c))
        let z := (t1.core core).addAcc k (toSigned 16 (leNat hb) * toSigned 16 (leNat xb))
        let z1 := z.setReg c (z.reg c / 65536 * 65536 + leNat xb)
        .ok (t1.setCore core ((z1.stepCirc x step).stepCirc h 2))))

/-- R323: multiply and add. -/
def execMac (core : Fin 16) (k : Fin 4) (ga gb : Fin 32) (s : State) : Res := s.live fun s =>
  goOn (s.issue core 0 (onCore core (fun x => x.addAcc k (x.lo16 ga * x.lo16 gb))))

/-- R323: multiply and subtract. -/
def execMsu (core : Fin 16) (k : Fin 4) (ga gb : Fin 32) (s : State) : Res := s.live fun s =>
  goOn (s.issue core 0 (onCore core (fun x => x.addAcc k (-(x.lo16 ga * x.lo16 gb)))))

/-- R323: the complex product, its real part into the even accumulator and its imaginary part into the next. -/
def execCmac (core : Fin 16) (pair : Fin 2) (ga gb : Fin 32) (s : State) : Res := s.live fun s =>
  goOn (s.issue core 0 (onCore core (fun x =>
    (x.addAcc (2 * pair.val) (x.lo16 ga * x.lo16 gb - x.hi16 ga * x.hi16 gb)).addAcc (2 * pair.val + 1) (x.lo16 ga * x.hi16 gb + x.hi16 ga * x.lo16 gb))))

/-- R323, Table 12.4: an accumulator shifted, rounded to nearest and saturated; the read does not unfreeze it. -/
def execExt (core : Fin 16) (d : Fin 32) (k : Fin 4) (sh : Fin 40) (w32 : Bool) (s : State) : Res := s.live fun s =>
  goOn (s.issue core 0 (onCore core (fun x =>
    x.setReg d (ofSigned 32 (clampSigned (if w32 then 32 else 16) (roundHalf ((x.acc k : Rat) / ((2 ^ sh.val : Nat) : Rat))))))))

/-- R323: an accumulator is cleared and unfrozen. -/
def execClra (core : Fin 16) (k : Fin 4) (s : State) : Res := s.live fun s => goOn (s.issue core 0 (onCore core (fun x => x.writeAcc k 0)))

/-- R323: an accumulator takes a value and is unfrozen. -/
def execMova (core : Fin 16) (k : Fin 4) (value : BitVec 40) (s : State) : Res := s.live fun s =>
  goOn (s.issue core 0 (onCore core (fun x => x.writeAcc k value.toInt)))

/-- R323, R319: an accumulator is loaded; the load lands as every load does and unfreezes it. -/
def execLda (core : Fin 16) (k : Fin 4) (addr : PierAddr) (load : AccLoad) (s : State) : Res := s.live fun s =>
  let as_ := [.load (.a k) addr load.bytes true]
  if load.bytes = 0 ∨ 5 < load.bytes ∨ 40 < load.stall then .refused .illFormed
  else goOn (s.issue core (s.stallOf core load.stall as_) (accesses core as_))

/-- R325: a circular pointer moves alone. -/
def execCmod (core : Fin 16) (i : Fin 8) (step : Int) (s : State) : Res := s.live fun s => goOn (s.issue core 0 (onCore core (fun x => x.stepCirc i step)))

/-- R317 to R319: a load, with the other access of the instruction if it makes one. -/
def execLd (core : Fin 16) (dst : PierDst) (addr : PierAddr) (n : Nat) (signed : Bool) (second : Option PierAccess) (stall : Nat) (s : State) : Res := s.live fun s =>
  let as_ := .load dst addr n signed :: second.toList
  if accessesOk as_ ∧ stall ≤ 40 then goOn (s.issue core (s.stallOf core stall as_) (accesses core as_)) else .refused .illFormed

/-- R317, R318: a store, with the other access of the instruction if it makes one. -/
def execSt (core : Fin 16) (src : Fin 32) (addr : PierAddr) (n : Nat) (second : Option PierAccess) (stall : Nat) (s : State) : Res := s.live fun s =>
  let as_ := .store src addr n :: second.toList
  if accessesOk as_ ∧ stall ≤ 40 then goOn (s.issue core (s.stallOf core stall as_) (accesses core as_)) else .refused .illFormed

/-- R319, R320: three delay slots follow; a branch in a delay slot, and one that ends a body, fault. -/
def execBranch (core : Fin 16) (taken : Bool) (target : Fin 16384) (s : State) : Res := s.live fun s =>
  goOn (s.issue core 0 (fun t =>
    let x := t.core core
    if x.branch.isSome || x.loops.any (fun l => l.stop == x.pc) then .error (faultIllegal, x.pc)
    else .ok (t.setCore core { x with branch := some (3, if taken then some target.val else none) })))

/-- R328: the job that g_e and g_a name is posted on the core's cluster. -/
def execPost (core : Fin 16) (e a : Fin 32) (s : State) : Res := s.live fun s =>
  goOn (s.issue core 0 (fun t =>
    let x := t.core core
    let v := x.reg e
    .ok (t.post (core.val / 4) { entry := bits v 16 5, bank := t.coreBank core, berth := some (bits v 0 12), arg := x.reg a, posted := tideOf t.now })))

/-- R329: the job ends and its completion is written; a core without a job ends nothing. -/
def execEndJob (core : Fin 16) (s : State) : Res := s.live fun s =>
  if (s.core core).job.isNone then goOn s else goOn (s.issueThen core 0 (fun t => .ok t) (fun t => t.endJob core))

/-- R322: the handler ends and the interrupted program goes on, its loops as they were; a core in no handler returns from nothing. -/
def execRti (core : Fin 16) (s : State) : Res := s.live fun s =>
  match (s.core core).saved with
  | none => goOn s
  | some (pc, loops) =>
    goOn (s.issueThen core 0 (fun t => .ok t) (fun t =>
      (t.setCore core { t.core core with pc := pc, loops := loops, saved := none }).showCore core))

/-- R328: a write of PI_CL_POST_1 posts the job that PI_CL_POST_0 names. -/
def execJobPostWrite (cluster : Fin 4) (arg : Word) (s : State) : Res := s.live fun s =>
  let n := cluster.val
  if s.powered (17 + n) then
    goOn (s.post n { entry := s.rd (R.PI_CL_POST_0_ENTRY n), bank := s.rd (R.PI_CL_POST_0_BANK n), berth := some (s.rd (R.PI_CL_POST_0_BERTH n))
                     arg := arg.toNat, posted := tideOf s.now })
  else goOn (s.lockAnswer (17 + n))

/-- R329, R334, R455: a free core first runs an INIT that is due; then, once every core of the cluster has run INIT, the first job in serving
order. -/
def execJobDispatch (core : Fin 16) (s : State) : Res := s.live fun s =>
  let n := core.val / 4
  let x := s.core core
  if ¬ s.powered (17 + n) ∨ x.job.isSome ∨ x.saved.isSome then goOn s
  else match x.initDue with
    | some (b, arg) =>
      goOn ((s.setCore core { x with initDue := none }).startJob core { entry := 1, bank := b, berth := none, arg := arg, posted := tideOf s.now })
    | none =>
      if ¬ s.on (R.PI_CL_STATUS_READY n) ∨ (List.range 4).any (fun i => (s.core (4 * n + i)).initDue.isSome) then goOn s
      else match s.nextJob n with
        | none => goOn s
        | some j =>
          let c := s.cluster n
          goOn (((s.setCluster n { c with queue := c.queue.erase j }).showQueue n).startJob core j)

end Sys2Proof.Machine
end

