-- ==== Sys2Proof/Machine/MfCheck.lean ====
section
/-! DEFINITION. Chapter 02: the manifest image and the checks of Table 2.8 (R51 to R56). -/

namespace Sys2Proof.Machine

/-- A section as the image gives it (Tables 2.5 and R52): its directory index, TYPE, SVER, FLAGS, BCRC and body. -/
structure MfSection where
  idx : Nat
  type : Nat
  sver : Nat
  flags : Nat
  bcrc : Nat
  body : List Byte

/-- Offset and length in directory entry `i` (R52). -/
def mfEntry (img : List Byte) (i : Nat) : Nat × Nat := (bodyNat img (64 + 8 * i) 4, bodyNat img (68 + 8 * i) 4)

/-- Directory entry `i` is in the form of R52 in an image whose directory has `n` entries and whose trailer starts at `stop`. -/
def mfEntryOk (img : List Byte) (n stop i : Nat) : Bool :=
  let e := mfEntry img i
  decide (e.1 % 8 = 0 ∧ 64 + 8 * n ≤ e.1 ∧ 16 ≤ e.2 ∧ e.1 + e.2 ≤ stop ∧ 16 + bodyNat img (e.1 + 8) 4 ≤ e.2) &&
  (List.range i).all (fun j => let f := mfEntry img j; decide (e.1 + e.2 ≤ f.1 ∨ f.1 + f.2 ≤ e.1))

/-- The sections of an image in directory order. -/
def mfSections (img : List Byte) : List MfSection :=
  (List.range (bodyNat img 10 2)).map (fun i =>
    let o := (mfEntry img i).1
    ⟨i, bodyNat img o 2, bodyNat img (o + 2) 2, bodyNat img (o + 4) 4, bodyNat img (o + 12) 4, (img.drop (o + 16)).take (bodyNat img (o + 8) 4)⟩)

/-- The device recognises the section: its TYPE is one of Table 2.6 and its layout version is supported (R53; log entry 21). -/
def MfSection.known (x : MfSection) : Bool := decide (1 ≤ x.type ∧ x.type ≤ 9) && decide (x.sver ≤ 1)

/-- Bytes `o` to `o + n - 1` of a body are 0. -/
def zeroAt (b : List Byte) (o n : Nat) : Bool := bodyNat b o n == 0

/-- A word is one that the register at an address may take: reserved bits 0, and every field in its range (R8). -/
def regWordOk (addr v : Nat) : Bool := match regRow? addr with
  | some r => onlyBits v (r.fields.map (fun f => (f.lo, f.width))) && r.fields.all (fun f => f.accepts (bits v f.lo f.width))
  | none => false

/-- The plan that the plan entry at an offset of a QUAY_PLAN body gives: its words in the order of the QY_PLAN_p registers (R80). -/
def entryPlan (b : List Byte) (o : Nat) : Plan :=
  ((List.range 8).foldl (fun (t : State) i => t.putWord (0x400100 + 4 * i) (bodyNat b (o + 4 * i) 4)) ({} : State)).plan 0 0

/-- The bytes of recompute ring that a DEPTH takes: DEPTH × 96,000 in whole 4 KiB (R103). -/
def ringBytes (depth : Nat) : Nat := ceilDiv (96000 * depth) 4096 * 4096

/-- The receive routing block at an offset of a QUAY_PLAN body is in range (R110, Table 4.5). -/
def routeOk (b : List Byte) (o : Nat) : Bool :=
  let m := bodyNat b o 1
  [0, 1, 2, 3].all (fun k => (List.range 4).any (fun i => bits m (2 * i) 2 == k)) && decide (bodyNat b (o + 1) 1 < 16) &&
  decide (4 ≤ bodyNat b (o + 2) 1 ∧ bodyNat b (o + 2) 1 ≤ 16) && zeroAt b (o + 3) 1 && decide (bodyNat b (o + 4) 4 % 4096 = 0) &&
  regWordOk 0x501000 (bodyNat b (o + 8) 4) && regWordOk 0x501008 (bodyNat b (o + 12) 2) && zeroAt b (o + 15) 1 &&
  regWordOk 0x501010 (bodyNat b (o + 16) 4) && regWordOk 0x501014 (bodyNat b (o + 20) 2) && zeroAt b (o + 22) 10

/-- A QUAY_PLAN body is in range, given RING_SIZE of the SHED_PLAN (R68, R80, R100, R110, R339). -/
def quayPlanOk (b : List Byte) (ringSize : Nat) : Bool :=
  let on_ := (List.range 8).filter (fun n => bit (bodyNat b (164 * n) 4) 0)
  let ring := fun n => (bodyNat b (164 * n + 136) 4, ringBytes (bodyNat b (164 * n + 134) 1))
  decide (b.length = 1312) && (List.range 8).all (fun n =>
    decide (bodyNat b (164 * n) 4 < 8) && routeOk b (164 * n + 132) && (List.range 4).all (fun p =>
      let o := 164 * n + 4 + 32 * p
      (List.range 8).all (fun i => regWordOk (0x400100 + 4 * i) (bodyNat b (o + 4 * i) 4)) && (!(entryPlan b o).valid || (entryPlan b o).wf))) &&
  on_.all (fun n => decide ((ring n).1 + (ring n).2 ≤ ringSize) &&
    on_.all (fun m => decide (n = m ∨ (ring n).1 + (ring n).2 ≤ (ring m).1 ∨ (ring m).1 + (ring m).2 ≤ (ring n).1)))

/-- The lanes that the enabled Raman entries of a TALLY_PLAN body name. -/
def ramanLanes (b : List Byte) : List Nat := ((List.range 8).map (fun q => let e := ramanEntry b q; if e.en then [e.asLane, e.sLane] else [])).flatten

/-- A Raman entry is in range (R220, Table 8.9); one with EN = 0 only in its bytes of 0. -/
def ramanOk (b : List Byte) (q : Nat) : Bool :=
  let e := ramanEntry b q
  let cfg := fun l => bodyNat b (32 * l) 4
  decide (bodyNat b (4096 + 32 * q) 1 ≤ 1) && zeroAt b (4126 + 32 * q) 2 && (!e.en ||
    (decide (e.asLane < 128 ∧ e.sLane < 128 ∧ e.asLane ≠ e.sLane ∧ e.asLane / 16 = e.sLane / 16) && !bit (cfg e.asLane) 3 && !bit (cfg e.sLane) 3 &&
     decide (4 ≤ e.k ∧ e.k ≤ 16 ∧ 1 ≤ e.hframe ∧ 2 ≤ e.log2fr ∧ e.log2fr ≤ 8 ∧ e.tug < 8) && regWordOk 0x601014 e.hofs && regWordOk 0x601008 e.tmo &&
     decide (e.tmo ≤ 4 * e.period ∧ e.tmo ≤ 1048576 ∧ 2500 ≤ e.period ∧ e.period < 2 ^ 18 ∧ 2 ≤ e.width ∧ e.width < 512)))

/-- The class H lanes of a TALLY_PLAN body, each by its PULSE input (R194). -/
def pulseInputs (b : List Byte) : List Nat := ((List.range 128).filter (fun l => bit (bodyNat b (32 * l) 4) 3)).map (· % 16)

/-- A TALLY_PLAN body is in range (R194, R220, R229); OWNER of an entry is ignored. -/
def tallyPlanOk (b : List Byte) : Bool :=
  decide (b.length = 4352) && (List.range 128).all (fun l => (List.range 8).all (fun i =>
    let v := bodyNat b (32 * l + 4 * i) 4
    regWordOk (0x601000 + 4 * i) v && (i != 0 || decide (bits v 8 3 < 5)))) && (List.range 8).all (ramanOk b) &&
  decide (ramanLanes b).Nodup && decide (pulseInputs b).Nodup

/-- An image of the PIER_PLAN keeps Table 12.5, its entries lie in CODE, and MEM fits `room` (R334). -/
def progOk (img : List Byte) (room : Nat) : Bool :=
  let n := imageEntries img
  decide (bodyNat img 0 4 = 0x50524450 ∧ imageSize img ≤ 65536 ∧ 64 ≤ imageLat img ∧ imageLat img ≤ 16384 ∧ 2 ≤ n ∧ n ≤ 32) &&
  decide (bodyNat img 19 1 ≤ 1) && zeroAt img 24 40 && decide (bodyNat img 20 4 ≤ room ∧ img.length = 64 + 8 * n + imageSize img + 72) &&
  (List.range n).all (fun e => decide (4 * entryOffset img e + 4 ≤ imageSize img) && decide (bodyNat img (66 + 8 * e) 1 ≤ 1) && zeroAt img (67 + 8 * e) 1)

/-- The image of cluster `n` in a PIER_PLAN body, none where the cluster is not enabled. -/
def planImage (b : List Byte) (n : Nat) : Option (List Byte) :=
  if bodyNat b (16 * n) 1 = 0 then none else some ((b.drop (bodyNat b (16 * n + 4) 4)).take (bodyNat b (16 * n + 8) 4))

/-- A PIER_PLAN body is in range, given the SHED_PLAN body (R334). -/
def pierPlanOk (b shed : List Byte) : Bool :=
  decide (64 ≤ b.length) && (List.range 4).all (fun n =>
    decide (bodyNat b (16 * n) 1 ≤ 1) && zeroAt b (16 * n + 1) 3 && zeroAt b (16 * n + 12) 4 && (match planImage b n with
      | none => true
      | some img => decide (64 ≤ bodyNat b (16 * n + 4) 4 ∧ bodyNat b (16 * n + 4) 4 + bodyNat b (16 * n + 8) 4 ≤ b.length) &&
          progOk img (2097152 - bodyNat shed (16 + 4 * n) 4)))

/-- PIN_ORDER of a port entry is a permutation of the 40 line codes (R259, Table 9.7). -/
def pinOrderOk (b : List Byte) (o : Nat) : Bool :=
  (List.range 8 ++ (List.range 16).map (· + 16) ++ (List.range 16).map (· + 32)).all (fun c => (List.range 40).any (fun i => bodyNat b (o + 48 + i) 1 == c))

/-- A BEACON_PLAN body is in range, given the lanes that Raman entries name (R258, R259, R264). -/
def beaconPlanOk (b : List Byte) (raman : List Nat) : Bool :=
  let heads := bodyNat b 0 1
  let per := bodyNat b 2 2
  let ps := (List.range 8).map (portPlan b)
  let rings := (ps.filter (fun p => p.en && p.pos != 255)).map (fun p => p.pos)
  decide (b.length = 2064) && decide (heads ≤ 16 ∧ bodyNat b 1 1 ≤ 1) && zeroAt b 8 8 && (bodyNat b 1 1 == 0 || decide (1 ≤ per)) &&
  (heads == 0 || decide (ceilDiv ((83 * heads + 80) * 1000) 131072 ≤ per)) && decide rings.Nodup &&
  (List.range 8).all (fun m =>
    let o := 16 + 128 * m
    let p := portPlan b m
    decide (bodyNat b o 1 ≤ 1) && zeroAt b (o + 13) 1 && zeroAt b (o + 112) 16 && decide ((p.pos ≤ 15 ∨ p.pos = 255) ∧ p.pre ≤ 1023) &&
    p.codes.all (fun c => decide (c ≤ 1023)) && (!p.en || pinOrderOk b o) && (List.range 8).all (fun r =>
      let g := p.groups.getD r []
      decide (bodyNat b (o + 88 + 3 * r) 1 < 8) && (!bit p.rows r || !g.isEmpty) && g.all (fun l => !raman.contains l))) &&
  (List.range 128).all (fun l => (List.range 4).all (fun i =>
    let x := bodyNat b (1040 + 8 * l + i) 1
    x == 255 || decide (x / 16 = l / 16 ∧ x ≠ l)))

/-- A SOUNDING_DEFAULTS body is in range (R296, Tables 10.11 and 10.12); OWNER of an entry is ignored. -/
def soundingOk (b : List Byte) : Bool :=
  decide (b.length = 1808) && (List.range 16).all (fun c =>
    let w := fun r => bodyNat b (48 * c + 4 * r) 4
    (List.range 10).all (fun r => regWordOk (chanAddr 0 r) (w r)) && decide (cfgUnit (w 0) ≤ 3) && excOk (w 0) (w 1) &&
    ([0, 1, 2, 3, 16].contains (cfgCurve (w 0)) || isTc (cfgCurve (w 0))) && decide (8 ≤ w 3) && zeroAt b (48 * c + 40) 8) &&
  regWordOk 0x800000 (bodyNat b 768 4) && zeroAt b 772 12 && (List.range 128).all (fun i => bits (bodyNat b (784 + 8 * i) 8) 52 11 != 2047)

/-- An INTERFACES body is in range (R397, Table 15.9). -/
def interfacesOk (b : List Byte) : Bool :=
  decide (b.length = 16) && [0, 2, 3, 4].zipIdx.all (fun e =>
    let lo := bodyNat b (4 * e.2) 1
    let hi := bodyNat b (4 * e.2 + 1) 1
    zeroAt b (4 * e.2 + 2) 2 && decide (1 ≤ lo ∧ lo ≤ hi ∧ hi ≤ Config.ifMax e.1))

/-- A SHED_PLAN body is in range, given the Warehouse's usable capacity (R339, R343, R351). -/
def shedPlanOk (b : List Byte) (usable : Nat) : Bool :=
  let area := fun a => bodyNat b (32 + 2 * a) 2
  decide (b.length = 64) && [(0, 12582912), (4, 25165824), (8, 8388608)].all (fun e => decide (bodyNat b e.1 4 % 4096 = 0 ∧ bodyNat b e.1 4 ≤ e.2)) &&
  zeroAt b 12 4 && zeroAt b 40 24 && (List.range 4).all (fun n => decide (bodyNat b (16 + 4 * n) 4 ≤ 2097152)) &&
  decide (((List.range 4).map area).sum * 2 ^ 20 ≤ usable) && decide (2 ≤ area 3)

/-- Check 7 on one section that is not skipped; `body` gives the bodies of the image by TYPE, empty for none. -/
def State.sectionOk (s : State) (body : Nat → List Byte) (x : MfSection) : Bool :=
  decide (x.flags ≤ 1) && (match x.type with
    | 1 => quayPlanOk x.body (bodyNat (body 9) 0 4)
    | 2 => tallyPlanOk x.body
    | 3 => pierPlanOk x.body (body 9)
    | 4 => beaconPlanOk x.body (ramanLanes (body 2))
    | 5 => soundingOk x.body
    | 6 => decide (x.body.length = 24) && zeroAt x.body 20 4
    | 7 => interfacesOk x.body
    | 8 => Config.profilesOk x.body
    | _ => shedPlanOk x.body s.whUsable)

/-- The flow programs by cluster and the flow-zone parts of PROFILES of a set of bodies (check 11). -/
def flowParts (body : Nat → List Byte) : List (Nat × List Byte) × List Byte :=
  ((List.range 4).filterMap (fun n => (planImage (body 3) n).bind (fun img => if imageFlowlib img then some (n, img) else none)), Config.flowProfiles (body 8))

/-- The body of the active manifest's section of a TYPE, empty for none. -/
def State.activeOr (s : State) (type : Nat) : List Byte := (s.activeBody type).getD []

/-- The signature of R55 verifies: the vendor manifest key in DRYDOCK, the OEM manifest key in every other state but RETURNED (R448). The rule has
KEY_ID name the OEM key; that it names the slot of the vendor key too is DEDUCED (log entry 34). -/
def State.manifestSigned (s : State) (img : List Byte) : Bool :=
  let st := s.rd R.CU_STATE_STATE
  st != 4 && s.trailerOk (if st = 0 then .vendorManifest else .oemManifest) img

/-- What a manifest image comes to: the ERR code and SECTION of its first failure, or the manifest it makes. -/
inductive MfVerdict where
  | bad (err section_ : Nat)
  | good (m : Manifest)

/-- The first index that fails. -/
def firstBad (n : Nat) (ok : Nat → Bool) : Option Nat := (List.range n).find? (fun i => !ok i)

/-- Checks 8 to 11. -/
def State.judgeParts (s : State) (img : List Byte) (used : List MfSection) (body : Nat → List Byte) : MfVerdict :=
  let at_ := fun (t : Nat) => ((used.find? (fun x => x.type == t)).map (fun x => x.idx)).getD 255
  let share := fun n => bodyNat (body 6) n 1
  let ports := (List.range 8).map (Sys2Proof.Machine.portPlan (body 4))
  if (List.range 20).any (fun n => decide (240 < share n)) ∨ 240 < share 13 + share 14 + share 15 + share 16 then .bad 8 (at_ 6)
  else if ports.any (fun p => decide (s.rd R.CU_ELIM_EMIT_LIM < p.eEmit ∨ s.rd R.CU_ELIM_HEAD_LIM < p.eHead)) then .bad 9 (at_ 4)
  else if s.anyBerth then .bad 10 255
  else
    let mine := flowParts body
    let sealed_ := s.life.parts.getD (flowParts s.activeOr)
    if s.isSealed ∧ mine.1 ≠ sealed_.1 then .bad 11 (at_ 3)
    else if s.isSealed ∧ mine.2 ≠ sealed_.2 then .bad 11 (at_ 8)
    else .good { build := bodyNat img 16 8, schema := bodyNat img 4 2, sections := used.map (fun x => ⟨x.type, x.body⟩) }

/-- Table 2.8 in its order, for the image at Shed offset `off` within `room` bytes (R52 to R56). DESIGN CHOICE (log entry 34): a directory that
reaches beyond the trailer fails check 1 with SECTION 0xFF, no entry being at fault alone; check 7 takes the zero bytes of header and trailer first, then
a TYPE held twice, then a missing BUDGET or SHED_PLAN, then the fields of the sections. -/
def State.judgeManifest (s : State) (off room : Nat) : MfVerdict :=
  let head := s.shedBytes off 64
  let len := bodyNat head 12 4
  if off + 64 > shedSize ∨ bodyNat head 0 4 ≠ 0x464D5244 ∨ room < len ∨ 4194304 < len ∨ shedSize < off + len ∨ len % 8 ≠ 0 ∨ len < 136 ∨
      s.shedFails off len then .bad 1 255
  else
    let img := s.shedBytes off len
    let n := bodyNat img 10 2
    let stop := len - 72
    if ¬ (1 ≤ n ∧ n ≤ 64 ∧ 64 + 8 * n ≤ stop) then .bad 1 255
    else match firstBad n (mfEntryOk img n stop) with
      | some i => .bad 1 i
      | none =>
        let all := mfSections img
        let used := all.filter MfSection.known
        let body := fun (t : Nat) => ((used.find? (fun x => x.type == t)).map (fun x => x.body)).getD []
        if ¬ (bodyNat img 6 2 = s.rd R.HB_ID_PART ∧ bodyNat img 8 1 ≤ s.step4) then .bad 2 255
        else if ¬ (s.rd R.HB_MF_SCHEMA_MIN ≤ bodyNat img 4 2 ∧ bodyNat img 4 2 ≤ s.rd R.HB_MF_SCHEMA_MAX) then .bad 3 255
        else if ¬ s.manifestSigned img then .bad 4 255
        else match all.find? (fun x => crc32 x.body != x.bcrc) with
          | some x => .bad 5 x.idx
          | none => match all.find? (fun x => decide (x.type < 0x8000) && !x.known && bit x.flags 0) with
            | some x => .bad 6 x.idx
            | none =>
              if ¬ (zeroAt img 9 1 ∧ zeroAt img 28 36 ∧ zeroAt img (stop + 4) 4) then .bad 7 255
              else match all.find? (fun x => decide (x.type < 0x8000) && decide (1 ≤ x.type ∧ x.type ≤ 9) &&
                  (all.take x.idx).any (fun y => y.type == x.type)) with
                | some x => .bad 7 x.idx
                | none =>
                  if ¬ (used.any (fun x => x.type == 6) ∧ used.any (fun x => x.type == 9)) then .bad 7 255
                  else match used.find? (fun x => !s.sectionOk body x) with
                    | some x => .bad 7 x.idx
                    | none => s.judgeParts img used body

/-- R56 to R58: the check ends: the image waits to become active, or is REJECTED with its code and section. -/
def execManifestCheckDone (s : State) : Res := s.live fun s =>
  match s.mfCheck with
  | none => goOn s
  | some (off, room) =>
    let len := s.shedNat (off + 12) 4
    let s1 : State := { (s.parityScan off (min len room)) with mfCheck := none }
    match s.judgeManifest off room with
    | .bad e k => goOn (((s1.wr R.HB_MF_STATUS_STATE 4).wr R.HB_MF_STATUS_ERR e).wr R.HB_MF_STATUS_SECTION k)
    | .good m =>
      let s2 := ((s1.wr R.HB_MF_STATUS_STATE 2).wr R.HB_MF_STATUS_ERR 0).wr R.HB_MF_STATUS_SECTION 255
      goOn (({ s2 with mfPending := some m } : State).accept .manifest)

end Sys2Proof.Machine
end

