-- ==== Sys2Proof/Machine/Manifest.lean ====
section
/-! DEFINITION. Chapter 02: the activation of a manifest, section by section (R57, R478, R480). -/

namespace Sys2Proof.Machine

/-- Drops the RUN writes and plan switches of quay `n` that wait to land (R480 step 1). -/
def State.dropQuayChanges (s : State) (n : Nat) : State :=
  (s.dropWaiting (fun c => match c with | .quayRun m _ => m == n | .planSwitch m _ => m == n | _ => false)).wr (R.QY_PLAN_STATUS_STATE n) 0

/-- The plan registers of quay `n` take the entries of the QUAY_PLAN body, or their reset values (R80, R478). -/
def State.loadPlans (s : State) (n : Nat) : State :=
  let a := 0x400100 + 0x10000 * n
  match s.activeBody 1 with
  | some b => (List.range 32).foldl (fun (t : State) i => t.putWord (a + 4 * i) (bodyNat b (164 * n + 4 + 4 * i) 4)) s
  | none => s.resetRegs a (a + 128)

/-- R480 for quay `n` at the activation boundary `b`: its grid ends; with ENABLE = 1 the DEFAULT plan becomes active and RUN = 1 lands at `b`, or,
on a quay that was running, one launch period of the plan it ran later. -/
def State.activateQuay (s : State) (b n : Nat) : State :=
  let q := s.quay n
  let busy := s.on (R.QY_STATUS_RUNNING n) || q.newEpoch.isSome
  let s1 := ((s.dropQuayChanges n).setQuay n { q with run := false, runWaitsArm := false, codeK := [] }).endGrid n
  let s2 := s1.loadPlans n
  if s.quayEnabled n then
    let s3 := (((s2.wr (R.QY_STATUS_ACTIVE n) (bits (bodyNat (s.activeOr 1) (164 * n) 4) 1 2)).wr (R.QY_CTL_RUN n) 1).showNeed n)
    if busy then { s3 with landing := s3.landing ++ [⟨boundaryAt (b + q.ran.launchPeriod), .quayRun n true⟩] } else s3.landRun n b true
  else (s2.wr (R.QY_CTL_RUN n) 0).showNeed n

/-- R110 for quay `n` at the activation boundary `b`: the receive routing block, or the reset values (R478). -/
def State.activateRx (s : State) (b n : Nat) : State :=
  let s1 := s.dropWaiting (fun c => match c with | .rxCfg m _ => m == n | _ => false)
  let before := s.rxActWord n
  let window := (s.rd (R.RX_NOISE_P0_P0 n), s.rd (R.RX_NOISE_LEN_LEN n))
  let s2 := match s.activeBody 1 with
    | some x =>
      let g := fun o k => bodyNat x (164 * n + 132 + o) k
      ((((((s1.storeRxCfg n (g 8 4)).wr (R.RX_CLIP_LEVEL n) (g 12 2)).wr (R.RX_FADE_FLOOR n) (g 14 1)).wr (R.RX_NOISE_P0_P0 n) (g 16 4)).wr
        (R.RX_NOISE_LEN_LEN n) (g 20 2)).wr (R.RX_RING_DEPTH n) (g 2 1)).wr (R.RX_RING_OFS_OFFSET n) (g 4 4)
    | none => s1.resetRegs (0x501000 + 0x100 * n) (0x501060 + 0x100 * n)
  let route := match s.activeBody 1 with
    | some x => (bodyNat x (164 * n + 132) 1, bodyNat x (164 * n + 133) 1)
    | none => (0xE4, 0)
  let s3 := (({ s2 with routes := Tab.put (0xE4, 0) s2.routes n route } : State).wr (R.RX_STATUS_PENDING n) 0).showNeed n
  let s4 := if s3.rxCfgWord n = before then s3 else (s3.landRxCfg n b (s3.rxCfgWord n)).openSettle n b false
  if (s4.rd (R.RX_NOISE_P0_P0 n), s4.rd (R.RX_NOISE_LEN_LEN n)) = window ∧ (s.activeBody 1).isSome then s4 else s4.restartNoise n

/-- R229 for lane `l` at the activation boundary `b`: its entry, with OWNER 0, or the reset values (R478). A configuration that breaks R199
leaves the lane its previous one. -/
def State.activateLane (s : State) (b l : Nat) : State :=
  let a := 0x601000 + 0x10000 * (l / 16) + 0x100 * (l % 16)
  let old := s.liveWord a
  let s1 := s.freeLane l b
  match s.activeBody 2 with
  | some x =>
    let s2 := ((List.range 8).foldl (fun (t : State) i => t.putWord (a + 4 * i) (bodyNat x (32 * l + 4 * i) 4)) s1).wr (ln R.TL_LANE_i_CFG_OWNER l) 0
    ((if s2.laneCfgOk l then s2 else (s2.putWord a old).wr (ln R.TL_LANE_i_CFG_OWNER l) 0)).lanePending l
  | none => ((s1.resetRegs a (a + 0x100)).showDelay l).lanePending l

/-- R258 at the activation boundary `b`: the limits of every port, and the Bybovi ring. -/
def State.activateBeacon (s : State) (b : Nat) : State :=
  let s1 := (List.range 8).foldl (fun (t : State) m =>
    (t.wr (R.BC_m_HEAD_LIM_LIM m) (t.portPlan m).eHead).wr (R.BC_m_EMIT_LIM_LIM m) (t.portPlan m).eEmit) s
  let x := s.activeOr 4
  let en := bodyNat x 1 1 == 1
  let s2 := if bodyNat x 2 2 = 0 then s1 else s1.wr R.BC_BYB_CTL_PER (bodyNat x 2 2)
  (s2.wrB R.BC_BYB_CTL_EN en).landBybEn b en

/-- The part of an activation at boundary `b` that concerns domain `d`. -/
def State.activateDomain (s : State) (b d : Nat) : State :=
  if 1 ≤ d ∧ d ≤ 8 then s.activateQuay b (d - 1)
  else if 9 ≤ d ∧ d ≤ 16 then (List.range 16).foldl (fun (t : State) i => t.activateLane b (16 * (d - 9) + i)) s
  else if 17 ≤ d ∧ d ≤ 20 then s.activateCluster (s.activeOr 3) (d - 17)
  else if d = 21 then s.activateSounding
  else if d = 22 then s.activateBeacon b
  else s

/-- R54: the shares of the engines. -/
def State.activateBudget (s : State) : State :=
  (List.range 20).foldl (fun (t : State) n => t.wr (R.HB_BUDGET_SHARE_n_SHARE n) (bodyNat (t.activeOr 6) n 1)) s

/-- R397, R478: the enabled ranges of the interfaces. -/
def State.activateInterfaces (s : State) : State :=
  [0, 2, 3, 4].zipIdx.foldl (fun (t : State) e => match t.activeBody 7 with
    | some b => (t.wr (R.HB_IF_i_MIN e.1) (bodyNat b (4 * e.2) 1)).wr (R.HB_IF_i_MAX e.1) (bodyNat b (4 * e.2 + 1) 1)
    | none => (t.wr (R.HB_IF_i_MIN e.1) 1).wr (R.HB_IF_i_MAX e.1) (Config.ifMax e.1)) s

/-- LOG2RECS: the largest value from 12 to 20 whose ring fits `n` bytes (Table 13.5). -/
def log2Recs (n : Nat) : Nat := ((List.range 9).map (fun i => 20 - i)).find? (fun k => decide (384 * 2 ^ k ≤ n)) |>.getD 0

/-- R338, R339, R351: the partitions, the areas and the ledger's record ring, which takes the journal while the ledger runs (R184). -/
def State.activateShed (s : State) : State :=
  let b := s.activeOr 9
  let grants := [bodyNat b 0 4 / 1024, bodyNat b 4 4 / 1024, 3072, bodyNat b 8 4 / 1024, 8192, 8192]
  let s1 := grants.zipIdx.foldl (fun (t : State) e => t.wr (R.TG_SHED_PART_p_KIB e.2) e.1)
    ((s.wr R.RX_SL_STAGE_SIZE_BYTES (bodyNat b 4 4)).wr R.RX_SL_STATE_SIZE_BYTES (bodyNat b 8 4))
  let s2 := if s1.powered 24 then s1.layAreas else s1
  let base := (s.areaSizes.take 3).sum * 2 ^ 20
  let s3 := (s2.wrPair R.LG_RING_ADDR_LO_ADDR_LO R.LG_RING_ADDR_HI_ADDR_HI base).wr R.LG_RING_LOG2RECS (log2Recs (s.areaSizes.getD 3 0 * 2 ^ 20))
  if s3.on R.LG_STATUS_READY then s3.journalToRing else s3

/-- R57 at the activation boundary `b`: the pending manifest becomes active. A domain that is off, or in reset, is set up when it is back. -/
def State.landManifest (s : State) (b : Nat) : State :=
  match s.mfPending with
  | none => s
  | some m =>
    let away := ((List.range 22).map (· + 1)).filter (fun d => !s.powered d || s.power.down.contains d)
    let here := ((List.range 22).map (· + 1)).filter (fun d => !away.contains d)
    let s1 : State := { s with mfActive := some m, mfPending := none, power := { s.power with kept := [], fresh := away } }
    let s2 := ((s1.wr R.HB_MF_STATUS_STATE 3).wrPair R.HB_MF_BUILD_LO_BUILD_LO R.HB_MF_BUILD_HI_BUILD_HI m.build).wr (R.HB_IF_i_CUR 1) (m.schema / 256)
    let s3 := s2.activateBudget.activateInterfaces.activateShed
    let s4 := here.foldl (fun (t : State) d => t.activateDomain b d) s3
    ((List.range 8).foldl (fun (t : State) n => t.activateRx b n) s4).event 0x34 255 [m.build]

end Sys2Proof.Machine
end

