-- ==== Sys2Proof/Machine/Tugs.lean ====
section
/-! DEFINITION. Chapter 13: the Tugs: channel queues, the choice of a chain, descriptors and their completion, and the cut at a
boundary. -/

namespace Sys2Proof.Machine

/-- The Tug engine numbered `e`. -/
def State.tug (s : State) (e : Nat) : Tug := Tab.get {} s.tugs e

/-- Sets a Tug engine. -/
def State.setTug (s : State) (e : Nat) (x : Tug) : State := { s with tugs := Tab.put {} s.tugs e x }

/-- The queue of a channel, oldest first. -/
def Tug.queue (x : Tug) (c : Nat) : List TugChain := Tab.get [] x.queues c

/-- The index that counts as the berth of a channel: its owner, or 4,096 for the host (R353, R358). -/
def State.tugOwner (s : State) (e c : Nat) : Nat := if s.on (R.TG_e_CH_c_CFG_HOST e c) then 4096 else s.rd (R.TG_e_CH_c_CFG_OWNER e c)

/-- The owner of a channel is valid (R353). -/
def State.tugOwned (s : State) (e c : Nat) : Bool := s.on (R.TG_e_CH_c_CFG_HOST e c) || (s.berth (s.rd (R.TG_e_CH_c_CFG_OWNER e c))).isOpen

/-- An MSI-X vector is signalled (R360, R385, R392). -/
def State.signal (s : State) (v : Nat) : State := { s with signalled := s.signalled ++ [v] }

/-- R352: a write of HEAD enqueues a chain, or sets OVF when 16 are queued. -/
def execTugEnqueue (e : Fin 8) (c : Fin 32) (value : Word) (s : State) : Res := s.live fun s =>
  let x := s.tug e
  let q := x.queue c
  if 16 ≤ q.length then goOn (s.wr (R.TG_e_CH_c_STATUS_OVF e c) 1)
  else
    let h : TugChain := ⟨32 * bits value.toNat 5 21, tideOf s.now, s.on (R.TG_e_CH_c_CFG_EN e c) && s.tugOwned e c, x.enqueued⟩
    goOn ((s.setTug e { x with queues := Tab.put [] x.queues c (q ++ [h]), enqueued := x.enqueued + 1 }).wr
      (R.TG_e_CH_c_STATUS_QLVL e c) (q.length + 1))

/-- A descriptor (Tables 13.6 and 13.7). -/
structure Desc where
  irq : Bool
  last : Bool
  retry : Bool
  page : Bool
  cls : Fin 4
  swap : Nat
  swrap : Nat
  dwrap : Nat
  sw : Nat
  dw : Nat
  sspace : Nat
  dspace : Nat
  count : Nat
  src : Nat
  dst : Nat
  next : Nat
  deriving DecidableEq, Repr

/-- The descriptor at a Shed offset. -/
def State.desc (s : State) (off : Nat) : Desc :=
  let ctl := s.shedNat off 4
  { irq := bit ctl 31, last := bit ctl 30, retry := bit ctl 29, page := bit ctl 28, cls := Fin.ofNat 4 (bits ctl 26 2), swap := bits ctl 24 2, swrap := bits ctl 16 4, dwrap := bits ctl 12 4
    sw := bits ctl 9 3, dw := bits ctl 6 3, sspace := bits ctl 4 2, dspace := bits ctl 2 2, count := s.shedNat (off + 4) 3
    src := s.shedNat (off + 8) 8, dst := s.shedNat (off + 16) 8, next := s.shedNat (off + 24) 4 % shedSize / 32 * 32 }

/-- Bytes of a source beat and of a destination beat. -/
def Desc.srcBeat (d : Desc) : Nat := 2 ^ d.sw
/-- Bytes of a destination beat. -/
def Desc.dstBeat (d : Desc) : Nat := 2 ^ d.dw
/-- Bytes in which SWAP works. -/
def Desc.swapUnit (d : Desc) : Nat := if d.swap = 0 then 1 else if d.swap = 1 then 2 else 4

/-- A wrap is at least its beat and divides the start address (R356). -/
def wrapOk (wrap beat start : Nat) : Bool := wrap == 0 || (decide (beat ≤ 2 ^ wrap) && start % 2 ^ wrap == 0)

/-- R356: the descriptor is valid. -/
def Desc.valid (d : Desc) : Bool :=
  decide (d.sw ≤ 4 ∧ d.dw ≤ 4 ∧ 0 < d.count) && d.src % d.srcBeat == 0 && d.dst % d.dstBeat == 0 &&
  d.count % d.srcBeat == 0 && d.count % d.dstBeat == 0 && d.count % d.swapUnit == 0 &&
  wrapOk d.swrap d.srcBeat d.src && wrapOk d.dwrap d.dstBeat d.dst &&
  (d.sspace != 2 || d.sw == 2) && (d.dspace != 2 || d.dw == 2)

/-- The power domain that one side of a descriptor addresses (R364). -/
def sideDomain (space addr : Nat) : Nat := if space = 0 then 24 else if space = 2 then domainOf addr else 0

/-- The domains a descriptor addresses. -/
def Desc.domains (d : Desc) : List Nat := [sideDomain d.sspace d.src, sideDomain d.dspace d.dst]

/-- Completion codes of Table 13.8. -/
def tugOk : Nat := 1
/-- BAD. -/
def tugBad : Nat := 2
/-- BAD_TAIL. -/
def tugTail : Nat := 3
/-- DROPPED. -/
def tugDropped : Nat := 4
/-- INVALID. -/
def tugInvalid : Nat := 5

/-- A descriptor's fetch and its status writeback, on the reserve: 32 bytes and 4 bytes (R359, log entry 118). -/
def State.tugOverhead (s : State) (e : Nat) : State := s.chargeTo (5 + e) 4097 (ceilDiv 32 16 + ceilDiv 4 16)

/-- R360: the descriptor at `off` on channel `c` completes: STATUS is written, the counters and the ERR and DONE bits move, and an IRQ
descriptor signals its vector. -/
def State.descDone (s : State) (e c off : Nat) (irq : Bool) (code cause done : Nat) : State :=
  let s1 := ((s.tugOverhead e).shedWrite (off + 28) (leBytes 4 (done + cause * 2 ^ 24 + code * 2 ^ 28))).inc (R.TG_e_DESC_CNT_COUNT e)
  let s2 := if code = tugDropped then s1.inc (R.TG_e_BAD_CNT_DROPPED e) else if code = tugOk then s1 else s1.inc (R.TG_e_BAD_CNT_BAD e)
  let s3 := if code = tugOk then s2 else
    let t := if s2.rd (R.TG_e_ERR_ERR e) = 0 then (((s2.wr (R.TG_e_LASTERR_CODE e) code).wr (R.TG_e_LASTERR_CAUSE e) cause).wr
      (R.TG_e_LASTERR_CH e) c).wr (R.TG_e_LASTERR_DESC_OFFSET e) off else s2
    t.wrBit (R.TG_e_ERR_ERR e) c true
  if irq then (s3.wrBit (R.TG_e_DONE_DONE e) c true).signal (s3.rd (R.TG_e_CH_c_CFG_VEC e c)) else s3

/-- The chain of an engine ends. -/
def State.chainEnd (s : State) (e : Nat) : State :=
  let x := s.tug e
  match x.run with
  | none => s
  | some r => (((s.setTug e { x with run := none }).wr (R.TG_e_STATUS_BUSY e) 0).wr (R.TG_e_CH_c_STATUS_RUNNING e r.ch) 0).inc
      (R.TG_e_CH_c_CHAINS_COUNT e r.ch)

/-- The engine goes on to NEXT, or the chain ends with its LAST descriptor. -/
def State.chainNext (s : State) (e : Nat) (r : TugRun) (d : Desc) : State :=
  if d.last then s.chainEnd e
  else (s.setTug e { s.tug e with run := some { r with desc := d.next, num := r.num + 1, since := s.now, shut := false } }).wr (R.TG_e_CH_c_CUR_CUR e r.ch) (d.next / 32)

/-- The heads of an engine's queues that wait: channel and chain. -/
def State.tugHeads (s : State) (e : Nat) : List (Nat × TugChain) :=
  (s.tug e).queues.filterMap (fun q => q.2.head?.map (fun h => (q.1, h)))

/-- R358: the next chain in the order of R47; an engine's work of one owner is in enqueue order. -/
def State.nextChain (s : State) (e : Nat) : Option (Nat × TugChain) :=
  s.nextWork (5 + e) (Tab.get 0 (s.tug e).used) (fun h => s.tugOwner e h.1) (fun h => h.2.tide) (fun h => h.2.seq) (s.tugHeads e)

/-- A chain leaves its queue. -/
def State.takeChain (s : State) (e c : Nat) : State :=
  let x := s.tug e
  let q := (x.queue c).tail
  (s.setTug e { x with queues := Tab.put [] x.queues c q }).wr (R.TG_e_CH_c_STATUS_QLVL e c) q.length

/-- R352, R358: a free engine takes its next chain; one enqueued on a channel that was not enabled or not owned completes its first
descriptor as INVALID, cause OWNER, and ends. -/
def execTugChainStart (e : Fin 8) (s : State) : Res := s.live fun s =>
  if (s.tug e).run.isSome then goOn s
  else match s.nextChain e with
    | none => goOn s
    | some (c, h) =>
      let s1 := s.takeChain e c
      let r : TugRun := ⟨c, h.tide, h.ok, h.head, 1, s.now, false⟩
      let s2 := ((((s1.setTug e { s1.tug e with run := some r }).wr (R.TG_e_STATUS_CH e) c).wr (R.TG_e_STATUS_BUSY e) 1).wr
        (R.TG_e_CH_c_STATUS_RUNNING e c) 1).wr (R.TG_e_CH_c_CUR_CUR e c) (h.head / 32)
      if h.ok then goOn s2 else goOn ((s2.descDone e c h.head (s2.desc h.head).irq tugInvalid 8 0).chainEnd e)

/-- Every descriptor of a chain from number `k` on completes as DROPPED with DONE 0; the 1,025th is INVALID, cause CHAIN (R356, R363). -/
def State.dropChain (s : State) (e c off : Nat) : Nat → State
  | 0 => s.descDone e c off (s.desc off).irq tugInvalid 7 0
  | k + 1 =>
    let d := s.desc off
    let s1 := s.descDone e c off d.irq tugDropped 0 0
    if d.last then s1 else State.dropChain s1 e c d.next k

/-- R363 for one queued chain that the boundary cuts. -/
def State.cutQueued (s : State) (e c : Nat) (h : TugChain) : State :=
  (if h.ok then s.dropChain e c h.head 1024 else s.descDone e c h.head (s.desc h.head).irq tugInvalid 8 0).inc (R.TG_e_CH_c_CHAINS_COUNT e c)

/-- R363 for one channel's queue: the chains two tides old leave it from the front. -/
def State.cutQueue (s : State) (e c : Nat) : State :=
  let old := ((s.tug e).queue c).filter (fun h => decide (h.tide + 2 ≤ tideOf s.now))
  old.foldl (fun (t : State) h => (t.takeChain e c).cutQueued e c h) s

/-- R363 for the running chain: its running descriptor completes as DROPPED with the bytes that were written, and the rest of the chain
without moving any. -/
def State.cutRunning (s : State) (e done : Nat) : State :=
  match (s.tug e).run with
  | none => s
  | some r =>
    if r.tide + 2 ≤ tideOf s.now then
      let d := s.desc r.desc
      let s1 := s.descDone e r.ch r.desc d.irq tugDropped 0 done
      (if d.last then s1 else s1.dropChain e r.ch d.next (1024 - r.num)).chainEnd e
    else s

/-- The engines' charges of the tide start again, and queued chains two tides old are cut (R359, R363). -/
def State.tugBoundary (s : State) (e : Nat) : State :=
  let s1 := s.setTug e { s.tug e with used := [] }
  (List.range 32).foldl (fun (t : State) c => t.cutQueue e c) s1

/-- The engine-ns a descriptor charges (R359). -/
def Desc.charge (d : Desc) : Nat := ceilDiv d.count 16

/-- Charges an engine's owner (R359). -/
def State.tugCharge (s : State) (e o n : Nat) : State :=
  (s.setTug e { s.tug e with used := Tab.put 0 (s.tug e).used o (Tab.get 0 (s.tug e).used o + n) }).chargeTo (5 + e) o n

/-- The Warehouse's charge of a descriptor: COUNT for each side that lies there (R350). -/
def State.tugWarehouse (s : State) (o n : Nat) (d : Desc) : State :=
  (if d.sspace = 0 then s.chargeTo (13 + d.cls) o (channelNs n) else s) |>.chargeTo (13 + d.cls) o (if d.dspace = 0 then channelNs n else 0)

end Sys2Proof.Machine
end

