-- ==== Sys2Proof/Machine/Power.lean ====
section
/-! DEFINITION. Chapter 17: power domains: an L2 reset, switching on and off, and the restoration of a domain's configuration (R29, R30,
R432, R435, R438, R442). -/

namespace Sys2Proof.Machine

/-- The byte addresses of the registers of a domain other than PD_CORE and PD_BAL (Table 1.9). -/
def domainRegs (d : Nat) : Nat × Nat :=
  if 1 ≤ d ∧ d ≤ 8 then (0x400000 + 0x10000 * (d - 1), 0x400000 + 0x10000 * d)
  else if 9 ≤ d ∧ d ≤ 16 then (0x600000 + 0x10000 * (d - 9), 0x600000 + 0x10000 * (d - 8))
  else if 17 ≤ d ∧ d ≤ 20 then (0xA00000 + 0x40000 * (d - 17), 0xA00000 + 0x40000 * (d - 16))
  else if d = 21 then (0x800000, 0x900000) else if d = 22 then (0x700000, 0x800000) else if d = 23 then (0xE00000, 0xF00000)
  else if d = 24 then (0xB00000, 0xC00000) else (0, 0)

/-- Registers that the host cannot write and that hold configuration from the Harbourmaster's tables: the manifest, the trims or a berth. -/
def tableRows : List String :=
  ["QY_PLAN_p_CFG", "QY_PLAN_p_PERIOD", "QY_PLAN_p_LINT", "QY_PLAN_p_NG", "QY_PLAN_p_WAVE", "QY_PLAN_p_BW", "QY_PLAN_p_AMP", "QY_PLAN_p_ZERO",
   "QY_LGT_DLY", "TL_LANE_i_CFG", "TL_LANE_i_HFRAME", "TL_LANE_i_DELAY", "BC_JIT_SEED", "BC_m_SLOT", "BC_m_PULSE", "BC_m_SHOT_DLY",
   "BC_m_HEAD_LIM", "BC_m_EMIT_LIM", "SN_CH_c_CFG", "NT_n_TS_ADJ"]

/-- The register field at a bit address holds configuration (log entry 22). -/
def isConfig (k : Nat) : Bool :=
  let a := k / 32 * 4
  (match regRow? a with
   | some r => tableRows.contains r.name || r.fields.any (fun f => f.lo == k % 32 && (f.acc == .rw || f.acc == .rwl || f.acc == .own || f.acc == .wo))
   | none => false) ||
  (List.range 8).any (fun n => k == (R.QY_STATUS_ACTIVE n).key) || (List.range 4).any (fun n => k == (R.PI_CL_STATUS_ACT_BANK n).key)

/-- The configuration of domain `d` as it stands, by bit address. -/
def State.configOf (s : State) (d : Nat) : Tab Nat :=
  let r := domainRegs d
  s.regs.filter (fun e => decide (8 * r.1 ≤ e.1 ∧ e.1 < 8 * r.2) && isConfig e.1)

/-- The Harbourmaster's tables keep the configuration of `d`, unless they hold it already. -/
def State.keepConfig (s : State) (d : Nat) : State :=
  if s.power.down.contains d || s.power.restore.contains d || s.power.fresh.contains d || !s.powered d then s
  else { s with power := { s.power with kept := Tab.put [] s.power.kept d (s.configOf d) } }

/-- The launch path of quay `n` is lost. The segments that its launches reach still close, with every echo lost (R92, R134). -/
def State.clearQuay (s : State) (n : Nat) : State :=
  let q := s.quay n
  let x := s.rxOf n
  (s.setRx n { x with tails := x.tails ++ s.segTail n, skipped := 0 }).setQuay n
    { fates := q.fates.map (fun f => { f with lost := true }), ran := q.ran, dacAt := 2 * s.now }

/-- The block's state in domain `d` is lost and its registers take their reset values. -/
def State.clearDomain (s : State) (d : Nat) : State :=
  let r := domainRegs d
  let s1 := (if 1 ≤ d ∧ d ≤ 8 then s.clearQuay (d - 1) else s).resetRegs r.1 r.2
  if 1 ≤ d ∧ d ≤ 8 then s1
  else if 9 ≤ d ∧ d ≤ 16 then
    { (List.range 16).foldl (fun (t : State) i =>
        let l := 16 * (d - 9) + i
        t.setLane l { ({} : Lane) with frame := { ({} : HistFrame) with num := (t.lane l).frame.num } }) s1 with
      fifos := Tab.put [] s1.fifos (d - 9) [] }
  else if 17 ≤ d ∧ d ≤ 20 then s1.clearCores (d - 17)
  else if d = 21 then { s1 with snd := {} }.wr R.CL_SN_STATUS_ROT_DONE 0
  else if d = 22 then
    { (List.range 8).foldl (fun (t : State) m =>
        let p := t.port m
        t.setPort m { ({} : Port) with berth := p.berth, landed := p.landed, info := { ({} : ScanInfo) with num := p.info.num }, ended := p.ended }) s1 with
      byb := {} }
  else if d = 23 then { s1 with stamps := [] }
  else if d = 24 then s1.loseWarehouse
  else s1

/-- R432, R435, R438, R439: an L2 reset of domain `d`, at once: its outputs are latched off, its state is lost, its trims are to be loaded
again, and its configuration will be restored. -/
def State.domainReset (s : State) (d : Nat) : State :=
  if s.powered d then
    let s1 := s.keepConfig d
    let s2 := if 1 ≤ d ∧ d ≤ 8 then s1.latchQuay (d - 1) else if d = 22 then s1.latchBeacon else s1
    let s3 := (s2.clearDomain d).loseTrims d
    { s3 with power := { s3.power with down := (s3.power.down ++ [d]).eraseDups, restore := s3.power.restore.filter (· != d) } }
  else s

/-- The Lock of domain `d` closes on the descriptors that run toward it (R364 step 3). -/
def State.shutTugs (s : State) (d : Nat) : State :=
  (List.range 8).foldl (fun (t : State) e => match (t.tug e).run with
    | some r => if (t.desc r.desc).domains.contains d then t.setTug e { t.tug e with run := some { r with shut := true } } else t
    | none => t) s

/-- Domain `d` is switched off (R364 step 4). -/
def State.powerOff (s : State) (d : Nat) : State :=
  let s1 := (s.shutTugs d).keepConfig d
  let s2 := if 1 ≤ d ∧ d ≤ 8 then s1.latchQuay (d - 1) else if d = 22 then s1.latchBeacon else s1
  let s3 := (s2.clearDomain d).wrBit R.RS_PWR_STATUS_ON d false
  let p := s3.power
  let rm := fun (l : List Nat) => l.filter (· != d)
  { s3 with power := { p with down := rm p.down, image := rm p.image, failed := rm p.failed, trims := rm p.trims, restore := rm p.restore }
            draining := s3.draining.filter (fun e => e.1 != d) }

/-- R29, R442 at the landing boundary `b`: the switches of a domain close, or its Lock starts to drain (R364). -/
def State.landPower (s : State) (d b : Nat) (on : Bool) : State :=
  let s1 := s.wr R.RS_PWR_STATUS_PENDING 0
  if on then
    if s1.powered d then s1
    else
      let s2 := s1.wrBit R.RS_PWR_STATUS_ON d true
      { s2 with power := { s2.power with down := (s2.power.down ++ [d]).eraseDups } }
  else if s1.powered d then { s1 with draining := s1.draining ++ [(d, b)] } else s1

/-- R30: a berth that will be open uses domain `d`, or any berth will be open and `d` is PD_SND or PD_WH. -/
def State.domainUsed (s : State) (d : Nat) : Bool :=
  if d = 21 ∨ d = 24 then !s.willBe.isEmpty else s.willBe.any (fun e => e.2.domains.contains d)

/-- R442: the request is answered in RESULT; an accepted one lands as R37 gives. -/
def execPowerRequest (domain : Fin 32) (on : Bool) (s : State) : Res := s.live fun s =>
  let d := domain.val
  if d = 0 ∨ 25 ≤ d then goOn (s.wr R.RS_PWR_STATUS_RESULT stRange)
  else if s.on R.RS_PWR_STATUS_PENDING ∨ (!on && s.domainUsed d) then goOn (s.wr R.RS_PWR_STATUS_RESULT stBusy)
  else goOn (((s.wr R.RS_PWR_STATUS_RESULT stOk).wr R.RS_PWR_STATUS_PENDING 1).accept (.power d on))

/-- A Tug descriptor that was in progress at boundary `b` addresses domain `d` (R364 step 2). -/
def State.tugUses (s : State) (d b : Nat) : Bool :=
  (List.range 8).any (fun e => match (s.tug e).run with
    | some r => decide (r.since < b) && (s.desc r.desc).domains.contains d
    | none => false)

/-- R364: the Lock closes once no running descriptor addresses the domain, or 10 µs after the boundary, and the domain powers down. -/
def execLockClose (domain : Fin 26) (s : State) : Res := s.live fun s =>
  match s.draining.find? (fun e => e.1 == domain.val) with
  | none => goOn s
  | some (d, b) => if s.tugUses d b then (if s.inTide (b + 10000) then goOn ((s.advance (b + 10000)).powerOff d) else goOn s) else goOn (s.powerOff d)

/-- The domains whose trims load before their configuration is restored (Table 16.2). -/
def hasTrims (d : Nat) : Bool := decide (1 ≤ d ∧ d ≤ 16) || d == 21

/-- R435, R438, R442: the domain is ready: its trim image is sent again, or, where it has none, its configuration is restored at the next
boundary. The Warehouse controller is initialised again. -/
def execDomainReady (domain : Fin 26) (s : State) : Res := s.live fun s =>
  let d := domain.val
  if s.power.down.contains d ∧ s.powered d then
    let p := s.power
    let up := s.on R.CL_STATUS_LOADED || s.on R.CL_STATUS_LOADING
    let s1 : State := { s with power := { p with down := p.down.filter (· != d)
                                                 image := if hasTrims d && up then (p.image ++ [d]).eraseDups else p.image
                                                 restore := if hasTrims d || d == 24 then p.restore else (p.restore ++ [d]).eraseDups } }
    if d = 24 then
      let s2 : State := { s1 with regs := (Tab.get [] p.kept 24).foldl (fun t e => Tab.insert t e.1 e.2) s1.regs
                                  power := { s1.power with kept := Tab.put [] p.kept 24 [] } }
      goOn (if up then s2.wr R.WH_STATUS_TRAINING 1 else s2)
    else if d = 22 then goOn s1.releaseBeacon
    else goOn s1
  else goOn s

/-- Berths of a kind at work, by index. -/
def State.openOf (s : State) (kind : Nat) : List Nat := (s.berths.filter (fun e => e.2.isOpen && e.2.kind == kind)).map Prod.fst

/-- Quay `n` goes on from its restored registers at boundary `b`; its zones act as R134 states. -/
def State.resumeQuay (s : State) (n b : Nat) : State :=
  let s1 := (s.setQuay n ((s.quay n).takeLevels 15 (s.rd (R.QY_GPIO_OUT_OUT n)))).showNeed n
  let s2 := if s1.on (R.QY_LGT_CFG_EN n) then s1.landLgtEn n b true else s1
  let s3 := if s2.on (R.QY_CTL_RUN n) then s2.landRun n b true else s2
  let mine := fun (t : State) i => (t.berth i).params.getD 0 0 % 8 == n
  let s4 := (s3.openOf 1).foldl (fun (t : State) i => if mine t i then t.resyncDas i b else t) s3
  (s4.openOf 2).foldl (fun (t : State) i => if mine t i then t.resyncFlow i b else t) s4

/-- Bank `n` goes on from its restored registers at boundary `b`: each lane starts anew, and a Raman trace starts at `b`. -/
def State.resumeBank (s : State) (n b : Nat) : State :=
  let s1 := (List.range 16).foldl (fun (t : State) i =>
    let l := 16 * n + i
    let num := (t.lane l).frame.num
    let u := t.restartLane l b
    u.setLane l { u.lane l with frame := { ({} : HistFrame) with start := b, num := num } }) s
  (s1.openOf 3).foldl (fun (t : State) i =>
    if (t.berth i).domains.contains (bankDomain n) then
      { t with raman := Tab.put {} t.raman i { (Tab.get {} t.raman i) with half := none, acc := { start := b } } }
    else t) s1

/-- The Beacon goes on from its restored registers at boundary `b`: each ranging berth takes its port and lanes again. -/
def State.resumeBeacon (s : State) (b : Nat) : State :=
  let s1 := if s.on R.BC_BYB_CTL_EN then s.landBybEn b true else s
  (s1.openOf 4).foldl (fun (t : State) i =>
    let old := Tab.get {} t.ranging i
    let m := (rangeParams (t.berth i).params).port
    let num := (t.port m).info.num
    let ended := (t.port m).ended
    let u := t.landRange i b
    { u.setPort m { u.port m with info := { (u.port m).info with num := num }, ended := ended } with
      ranging := Tab.put {} u.ranging i { old with frames := [] } }) s1

/-- The Sounding die goes on from its restored registers: owned channels belong to their berths again, and conversions start as MODE gives. -/
def State.resumeSounding (s : State) : State :=
  let s1 := (List.range 16).foldl (fun (t : State) c => t.chanStatus c) s
  let s2 := (s1.openOf 5).foldl (fun (t : State) i =>
    let c := (t.berth i).slot
    (t.setChan c { t.chan c with berth := (t.berth i).handle, moved := true }).chanStatus c) s1
  if s2.rd R.SN_CTL_MODE = 1 then s2.sndGo else s2

/-- R435 at boundary `b`: the configuration of domain `d` is restored from the Harbourmaster's tables and takes effect; a domain that missed an
activation is set up from the manifest. -/
def State.restoreDomain (s : State) (b d : Nat) : State :=
  if s.power.fresh.contains d then
    let t := s.activateDomain b d
    { t with power := { t.power with fresh := t.power.fresh.filter (· != d), kept := Tab.put [] t.power.kept d [] } }
  else
    let s1 : State := { s with regs := (Tab.get [] s.power.kept d).foldl (fun t e => Tab.insert t e.1 e.2) s.regs
                               power := { s.power with kept := Tab.put [] s.power.kept d [] } }
    if 1 ≤ d ∧ d ≤ 8 then s1.resumeQuay (d - 1) b
    else if 9 ≤ d ∧ d ≤ 16 then s1.resumeBank (d - 9) b
    else if 17 ≤ d ∧ d ≤ 20 then s1.powerCluster (d - 17)
    else if d = 21 then s1.resumeSounding
    else if d = 22 then s1.resumeBeacon b
    else s1

/-- Every domain that waits for it is restored at boundary `b`. -/
def State.restoreAll (s : State) (b : Nat) : State :=
  s.power.restore.foldl (fun (t : State) d => t.restoreDomain b d) { s with power := { s.power with restore := [] } }

end Sys2Proof.Machine
end

