-- ==== Sys2Proof/Machine/Reset.lean ====
section
/-! DEFINITION. Chapter 17: reset sources and levels, the sequence out of a cold or warm reset, pin hold, the watchdog, and the Ballast
(R431 to R437, R447, R451, R452, R466, R483 to R485). -/

namespace Sys2Proof.Machine

/-- The level at which source `src` resets (R431). -/
def State.levelOf (s : State) (src : Nat) : Nat := 3 - s.rd (R.RS_LEVEL_V_s src)

/-- R433, Tables 17.2 and 17.3: an L0 or L1 reset from source `src` begins: everything takes its reset value but what Table 17.2 keeps. A cold reset
puts every output in its cold-reset state; a warm one holds those of R437 as they are (R461). -/
def State.resetNow (s : State) (level src : Nat) : State :=
  let s1 := if s.power.image.isEmpty then s else s.inc R.RS_BAL_TRIM_ABORT_COUNT
  let p := s.power
  let warm := level = 1 ∧ p.held.isNone
  { ({} : State) with
    regs := s1.regs.filter (fun e => decide (8 * 0x200100 ≤ e.1 ∧ e.1 < 8 * 0x200160))
    completion := s.completion
    free := s.free
    hold := s.hold
    charter := s.charter
    life := { s.life with rights := 0, blow := none }
    ledger := { ({} : Ledger) with key := s.ledger.key, keyId := s.ledger.keyId }
    wh := if level = 1 then { s.wh with queue := [] } else {}
    whDone := s.whDone
    sent := s.sent
    toHost := s.toHost
    signalled := s.signalled
    power :=
      { held := some (level, src)
        ilock := p.ilock.map (fun t => t - s.now)
        rtcAt := p.rtcAt - s.now
        vbat := p.vbat
        holds := if level = 0 then [] else if warm then s.heldBalls else p.holds
        cold := if level = 0 then ({} : Power).cold else p.cold
        ramping := p.ramping
        io33 := p.io33 }
    pending := s.pending }

/-- A reset of level `level` from `src` asserts: it begins, restarts the sequence of a lesser one, or is absorbed (R433). -/
def State.beginReset (s : State) (level src : Nat) : State := match s.power.held with
  | some h => if level < h.1 then s.resetNow level src else s
  | none => s.resetNow level src

/-- RS_BAL_CAUSE and RS_BAL_STAMP take the reset's source, level and RTC stamp (Table 17.10, R447). -/
def State.noteReset (s : State) (level src : Nat) : State :=
  ((((s.wr R.RS_LAST_LEVEL level).wr R.RS_LAST_SRC src).wr R.RS_BAL_CAUSE_LEVEL level).wr R.RS_BAL_CAUSE_SRC src).wrPair
    R.RS_BAL_STAMP_LO_RTC_LO R.RS_BAL_STAMP_HI_RTC_HI s.rtc

/-- R431 to R433, R436: source `src` asserts. `domains` are those in which an L2 reset arose, `berth` the one an L3 reset is for; an L2
reset that would reach PD_CORE or PD_BAL, or a source that names neither domain nor berth, acts at L1. -/
def State.assertReset (s : State) (src : Nat) (domains : List Nat) (berth : Nat) : State :=
  let s1 := s.inc (R.RS_BAL_CNT_s_COUNT src)
  let v := s.levelOf src
  let l := if v = 3 ∧ src ≠ 12 then 2 else v
  let level := if l = 2 ∧ (src < 10 ∨ 12 < src ∨ domains.any (fun d => d == 0 || decide (25 ≤ d))) then 1 else l
  if level ≤ 1 then s1.beginReset level src
  else if s.power.held.isSome then s1
  else if level = 2 then (domains.foldl State.domainReset s1).noteReset 2 src
  else
    let s2 := s1.noteReset 3 src
    if (s.berth berth).isOpen then s2.accept (.berthReset berth) else s2

/-- The domains other than PD_CORE that a berth uses (R432). -/
def State.berthDomains (s : State) (i : Nat) : List Nat := if (s.berth i).isOpen then (s.berth i).domains.filter (· != 0) else []

/-- Power-on reset begins with VDD_IO at `mv` mV: the thresholds of the LVCMOS balls are set for 1.8 V below 2,500 mV, for 3.3 V otherwise (R464). -/
def State.powerOn (s : State) (mv : Nat) : State :=
  let s1 := s.assertReset 0 [] 0
  { s1 with power := { s1.power with ramping := false, io33 := decide (2500 ≤ mv) } }

/-- The supplies have gone and ramp again: nothing is driven, and nothing that a cold reset clears is left (R462). -/
def State.rampUp (s : State) : State :=
  let s1 := s.resetNow 0 0
  { s1 with power := { s1.power with ramping := true } }

/-- R433, R462, R464: a source asserts. The debug reset needs boundary scan (Table 17.7); sources 10 to 12 act on the domain or berth last named. -/
def execResetAssert (cause : ResetCause) (s : State) : Res :=
  let src := cause.src
  if src.val = 14 ∧ ¬ s.on R.CU_STATE_JTAG then goOn s
  else if src.val = 0 then goOn (match cause.vddio with
    | some mv => s.powerOn mv
    | none => s.rampUp)
  else if src.val = 10 then goOn (s.assertReset 10 [s.rd R.RS_DOM_RST_DOMAIN] 0)
  else if src.val = 11 then goOn (s.assertReset 11 ((List.range 26).filter (fun d => s.rdBit R.RS_LOCK_TMO_TMO d)) 0)
  else if src.val = 12 then goOn (s.assertReset 12 (s.berthDomains (s.rd R.RS_BERTH_RST_INDEX)) (s.rd R.RS_BERTH_RST_INDEX))
  else goOn (s.assertReset src [] 0)

/-- The blown bits of a word. -/
def popCount (w n : Nat) : Nat := ((List.range w).filter (bit n)).length

/-- The level fuses, energy limits and rollback count that Customs reads, or their fallbacks (R431, R483, Table 17.8). -/
def State.readFuses (s : State) : State := match s.charterTable 3 with
  | some b =>
    let s1 := (List.range 16).foldl (fun (t : State) i => t.wr (R.RS_LEVEL_V_s i) (Config.fuseLevel b i)) s
    let n := popCount 32 (Config.fuseRollback b)
    let s2 := ((s1.wr R.CU_ELIM_EMIT_LIM (Config.fuseLimits b).1).wr R.CU_ELIM_HEAD_LIM (Config.fuseLimits b).2).wr R.CU_ROLLBACK_COUNT n
    { s2 with life := { s2.life with rollback := n } }
  | none =>
    let s1 := (List.range 16).foldl (fun (t : State) i => t.wr (R.RS_LEVEL_V_s i) 3) s
    ((s1.wr R.CU_ELIM_EMIT_LIM 0).wr R.CU_ELIM_HEAD_LIM 0).wr R.CU_ROLLBACK_COUNT s.life.rollback

/-- CU_STATE shows the life-cycle word, the seal, and what Table 17.7 opens. -/
def State.showLife (s : State) : State :=
  let st := if s.life.word = 2 ∧ s.life.sealed then 3 else s.life.word
  let open_ := s.life.word == 0
  ((s.wr R.CU_STATE_STATE st).wrB R.CU_STATE_JTAG (open_ || bit s.life.rights 0)).wrB R.CU_STATE_DEBUG (open_ || bits s.life.rights 1 2 != 0)

/-- R451: the pair of SEALCNT and seal state with the higher SEALCNT stands. -/
def State.matchSeal (s : State) : State :=
  let n := s.rd R.RS_BAL_SEALCNT_COUNT
  let m := s.life.mirror
  let x := if n < m.1 then m else (n, s.life.sealed)
  { (s.wr R.RS_BAL_SEALCNT_COUNT x.1).wr R.CU_SEALCNT_COUNT x.1 with life := { s.life with sealed := x.2, mirror := x } }

/-- R449: CU_NONCE takes a fresh random value. -/
def State.newNonce (s : State) : State :=
  let s1 := s.nextFree
  (s.wrPair R.CU_NONCE_LO_NONCE_LO R.CU_NONCE_HI_NONCE_HI (low 32 s.freeNow + 2 ^ 32 * s1.freeNow)).nextFree.nextFree

/-- R433, R437, R451, R452, Table 17.3: every asserted source is inactive, and the device comes out of its reset with its PLLs locked (log entry
126). While the supplies ramp it stays in power-on reset (R466). -/
def execResetRelease (s : State) : Res := match s.power.held with
  | none => goOn s
  | some (level, src) =>
    if s.power.ramping then goOn s else
    let s1 := s.clocksUp.readFuses.noteReset level src
    let s2 := (([0, 1, 2, 3].foldl State.checkTable s1).matchSeal.showLife).newNonce
    let s3 := (s2.wrB R.RS_PIN_HOLD_HOLDING (!s.power.holds.isEmpty)).wrB R.RS_SAFE_STATUS_ILOCK_LOW s.power.ilock.isSome
    goOn { s3 with power := { s3.power with held := none } }

/-- R433: WARM in RS_CTL raises source 8. -/
def execWarmResetWrite (s : State) : Res := s.live fun s => goOn (s.assertReset 8 [] 0)

/-- R433: COLD in RS_CTL raises source 9. -/
def execColdResetWrite (s : State) : Res := s.live fun s => goOn (s.assertReset 9 [] 0)

/-- R432: a write of RS_DOM_RST raises source 10 for the domain it names; the numbers above 25 name none (R443) and are reserved (R8). -/
def execDomainResetWrite (domain : Fin 32) (s : State) : Res := s.live fun s =>
  if 25 < domain.val then goOn s else goOn ((s.wr R.RS_DOM_RST_DOMAIN domain).assertReset 10 [domain.val] 0)

/-- R432, R436: a write of RS_BERTH_RST raises source 12 for the berth at the index. -/
def execBerthResetWrite (index : Fin 4096) (s : State) : Res := s.live fun s =>
  goOn ((s.wr R.RS_BERTH_RST_INDEX index).assertReset 12 (s.berthDomains index) index)

/-- R445: the Lock answers a transfer that its domain left unanswered for 20 µs, and raises source 11. -/
def execLockTimeout (domain : Fin 26) (s : State) : Res := s.live fun s =>
  if s.powered domain then goOn ((s.wrBit R.RS_LOCK_TMO_TMO domain true).assertReset 11 [domain.val] 0) else goOn s

/-- R433, Table 17.1: Tj stays at or above 125 °C for 10 µs. -/
def execThermalTrip (s : State) : Res := goOn (s.assertReset 6 [] 0)

/-- R466: VDD_CORE or VDD_SRAM falls below its threshold for 1 µs. -/
def execBrownOut (s : State) : Res := goOn (s.assertReset 7 [] 0)

/-- R464, R466: another supply leaves its range for 1 µs: power-on reset, which senses VDD_IO anew. The level it finds is the board's, a free value
(log entry 135). -/
def execSupplyFault (s : State) : Res := goOn (s.nextFree.powerOn s.freeNow)

/-- The corner turn of a DAS zone is cleared: the samples and tiles it was forming are lost (R436). -/
def Das.clearCorner (d : Das) : Das :=
  { d with acc := d.acc.map (fun e => (e.1, { e.2 with sum := 0, tags := e.2.tags ||| tagLost, qual := 0 }))
           sums := d.sums.map (fun e => (e.1, { e.2 with tags := e.2.tags ||| tagLost, qual := 0 })) }

/-- R436 at the boundary `b`: the berth's Sluice, corner-turn and Pier state is cleared; its records across `b` carry LOST. -/
def State.landBerthReset (s : State) (i b : Nat) : State :=
  let t := s.berth i
  if !t.isOpen then s
  else if t.kind = 1 then (s.setDas i (s.dasOf i).clearCorner).resyncDas i b
  else if t.kind = 2 then
    let f := s.flowOf i
    let s1 := (s.setDas i (s.dasOf i).clearCorner).setFlow i { f with acc := f.acc.map (fun e => (e.1, { e.2 with tags := e.2.tags ||| tagLost })) }
    s1.resyncFlow i b
  else if t.kind = 3 then
    let x := Tab.get {} s.raman i
    { s with raman := Tab.put {} s.raman i { x with acc := { x.acc with used := 0, a := [], s := [], sat := [], tags := x.acc.tags ||| tagLost } } }
  else if t.kind = 4 then
    let x := Tab.get {} s.ranging i
    { s with ranging := Tab.put {} s.ranging i { x with frames := x.frames.map (fun f => { f with tag := f.tag ||| tagLost }) } }
  else s

/-- A watchdog period of `us` µs starts; while the watchdog is held for a firmware handover its time stands still (R454, R484). -/
def State.startWatchdog (s : State) (us : Nat) : State :=
  if s.power.wdtLeft.isSome then { s with power := { s.power with wdtLeft := some (1000 * us) } }
  else { s with power := { s.power with wdt := some (s.now + 1000 * us) } }

/-- The watchdog stops. -/
def State.stopWatchdog (s : State) : State := { s with power := { s.power with wdt := none, wdtLeft := s.power.wdtLeft.map (fun _ => 0) } }

/-- R484: a write of RS_WDT_CFG; a PERIOD outside its range is discarded (R8). -/
def execWatchdogCfgWrite (value : Word) (s : State) : Res := s.live fun s =>
  let v := value.toNat
  let per := bits v 0 24
  let s1 := s.wr R.RS_WDT_CFG_EN (bits v 31 1)
  let s2 := if 1000 ≤ per ∧ per ≤ 10000000 then s1.wr R.RS_WDT_CFG_PERIOD per else s1
  goOn (if s2.on R.RS_WDT_CFG_EN then s2.startWatchdog (s2.rd R.RS_WDT_CFG_PERIOD) else s2.stopWatchdog)

/-- R484: KEY 0xA5 restarts the period while EN is 1. -/
def execWatchdogKick (key : Fin 256) (s : State) : Res := s.live fun s =>
  if key.val = 0xA5 ∧ s.on R.RS_WDT_CFG_EN then goOn (s.startWatchdog (s.rd R.RS_WDT_CFG_PERIOD)) else goOn s

/-- R484: the period runs out and source 4 asserts. -/
def execWatchdogExpire (s : State) : Res := s.live fun s => match s.power.wdt with
  | some t =>
    if s.inTide t then
      let s1 := s.advance t
      goOn (({ s1 with power := { s1.power with wdt := none } } : State).assertReset 4 [] 0)
    else goOn s
  | none => goOn s

/-- R437: RELEASE ends the pin hold of every block. -/
def execPinHoldRelease (s : State) : Res := s.live fun s =>
  goOn (({ s with power := { s.power with holds := [] } } : State).wr R.RS_PIN_HOLD_HOLDING 0)

/-- R485: RTC_LO is staged. -/
def execRtcLoWrite (value : Word) (s : State) : Res := s.live fun s => goOn { s with power := { s.power with rtcStaged := value.toNat } }

/-- R485: RTC_HI takes a place in the Ballast queue, joined with the staged word. -/
def execRtcHiWrite (value : BitVec 16) (s : State) : Res := s.live fun s => goOn (s.ballastPush 0x20015C (s.power.rtcStaged + 2 ^ 32 * value.toNat))

/-- The fields the Ballast keeps. -/
def ballastFields : List Fld :=
  (List.range 16).map R.RS_BAL_CNT_s_COUNT ++ [R.RS_BAL_CAUSE_LEVEL, R.RS_BAL_CAUSE_SRC, R.RS_BAL_STAMP_LO_RTC_LO, R.RS_BAL_STAMP_HI_RTC_HI,
    R.RS_BAL_TRIM_ABORT_COUNT, R.RS_BAL_SEALCNT_COUNT]

/-- A field takes a free value. -/
def State.wrFree (s : State) (f : Fld) : State := (s.wr f s.freeNow).nextFree

/-- R447: VBAT is removed: nothing keeps the Ballast's items, and what they hold is not given. -/
def execVbatLoss (s : State) : Res :=
  if s.power.vbat then
    let s1 := ballastFields.foldl State.wrFree s
    let s2 := (s1.setRtc s1.freeNow).nextFree
    goOn { s2 with power := { s2.power with vbat := false } }
  else goOn s

/-- R447: VBAT returns after a loss: every item is 0 but SEALCNT, which the Hold header gives. -/
def execVbatReturn (s : State) : Res :=
  if s.power.vbat then goOn s
  else
    let s1 := (ballastFields.foldl (fun (t : State) f => t.wr f 0) s).setRtc 0
    let s2 := ((s1.wr R.RS_BAL_SEALCNT_COUNT s.life.mirror.1).wr R.RS_BAL_STATUS_VBAT_LOST 1).wr R.RS_BAL_STATUS_RTC_VALID 0
    goOn { s2 with power := { s2.power with vbat := true }, life := { s2.life with sealed := s.life.mirror.2 } }

end Sys2Proof.Machine
end

