-- ==== Sys2Proof/Machine/Customs.lean ====
section
/-! DEFINITION. Chapter 17: the life cycle, tokens and seals, the programming of the Charter, and the swap of firmware (R448 to R454). -/

namespace Sys2Proof.Machine

/-- The 128 bytes of the token in CU_TOKEN. -/
def State.tokenBytes (s : State) : List Byte := (List.range 32).flatMap (fun w => leBytes 4 (s.rd (R.CU_TOKEN_w_DATA w)))

/-- The key of a token kind in a life-cycle state (Table 17.6). -/
def tokenKey (kind st : Nat) : KeyClass :=
  if kind = 1 then (if st = 4 then .vendorDebug else .oemDebug)
  else if kind = 2 then .oemSeal else if kind = 4 then .vendorReturn else .oemOwner

/-- A token kind is accepted in a state (Table 17.6) by the path that carries it (R449 step 4). -/
def kindOk (kind st : Nat) (viaBreak : Bool) : Bool :=
  if viaBreak then kind == 2 && st == 3
  else if kind = 1 then decide (1 ≤ st ∧ st ≤ 4)
  else if kind = 3 then st == 1
  else (kind == 4 || kind == 5) && decide (1 ≤ st ∧ st ≤ 3)

/-- R449: the step at which the check of a token fails, 0 for a token that passes. -/
def State.tokenStep (s : State) (tok : List Byte) (viaBreak : Bool) : Nat :=
  let kind := bodyNat tok 2 1
  let st := s.rd R.CU_STATE_STATE
  let key := s.publicKey (tokenKey kind st) (bodyNat tok 4 4)
  if bodyNat tok 0 2 ≠ 0x4E54 then 1
  else if bodyNat tok 8 8 ≠ s.deviceId then 2
  else if bodyNat tok 16 8 ≠ s.rdPair R.CU_NONCE_LO_NONCE_LO R.CU_NONCE_HI_NONCE_HI then 3
  else if !kindOk kind st viaBreak then 4
  else if (s.charterTable 2).isSome ∧ key.isNone then 5
  else match key with
    | some k => if ecdsaVerify k (sha256 (tok.take 64)) (tok.drop 64) then 0 else 6
    | none => 6

/-- A fused transition lands: the life-cycle word is blown, and source 13 resets the device (Table 17.4). -/
def State.transition (s : State) (word : Nat) : State := ({ s with life := { s.life with word := word } } : State).assertReset 13 [] 0

/-- The OEM owner and manifest keys are programmed (Table 17.4). -/
def State.oemKeysReady (s : State) : Bool :=
  [KeyClass.oemOwner, KeyClass.oemManifest].all (fun c => (Config.keyIds c.num).any (fun id => (s.publicKey c id).isSome))

/-- R448: the ledger key pair is generated on entry to COMMISSIONED. -/
def State.newLedgerKey (s : State) : State :=
  let s1 := s.nextFree
  { s1.nextFree with ledger := { s.ledger with key := s.freeNow % (p256N - 1) + 1, keyId := low 32 s1.freeNow } }

/-- The key slot at offset `o` of Charter table 2 blown to ones in both copies. -/
def slotOnes (t : Tab Byte) (o : Nat) : Tab Byte :=
  let ones := List.replicate 64 (255 : Byte)
  Tab.putList 0 (Tab.putList 0 t ((charterPlace 2).1 + o) ones) (0x2000 + (charterPlace 2).1 + o) ones

/-- R448: what entry to RETURNED wipes: the OEM key slots are blown to ones in both copies, the ledger key and both copies of the
calibration area are erased. -/
def State.wipe (s : State) : State :=
  let slots := [KeyClass.oemManifest, .oemDebug, .oemSeal, .oemOwner].flatMap (fun c => (Config.keyIds c.num).filterMap (Config.keySlot c.num))
  { s with charter := slots.foldl slotOnes s.charter, ledger := { s.ledger with key := 0, keyId := 0 }, hold := Tab.clear s.hold 0x10000 0x70000 }

/-- A change of the seal is accepted and waits to land (R449, R450). -/
def State.acceptSeal (s : State) (made : Bool) : State := (s.wr R.CU_STATUS_SEAL_PENDING 1).accept (.seal made)

/-- R449, Table 17.6: a token of CU_TOKEN that passes takes effect. -/
def State.takeToken (s : State) (tok : List Byte) : State :=
  let kind := bodyNat tok 2 1
  if kind = 1 then
    let s1 : State := { s with life := { s.life with rights := s.life.rights ||| bodyNat tok 24 4 % 8 } }
    if s.isSealed then (if s.on R.CU_STATUS_SEAL_PENDING then s1 else s1.acceptSeal false) else s1.showLife
  else if kind = 3 then (if s.oemKeysReady then s.newLedgerKey.transition 2 else s.wr R.CU_STATUS_ERR 5)
  else if kind = 4 then s.wr R.CU_STATUS_RETURN_OK 1
  else if s.on R.CU_STATUS_RETURN_OK then s.wr R.CU_STATUS_CONSENT_OK 1
  else s

/-- R449, Table 17.4: APPLY: after a RETURN and a CONSENT token the device is returned; otherwise the token in CU_TOKEN is checked. -/
def execTokenApply (s : State) : Res := s.live fun s =>
  if s.on R.CU_STATUS_RETURN_OK ∧ s.on R.CU_STATUS_CONSENT_OK then goOn (s.wipe.transition 4)
  else
    let e := s.tokenStep s.tokenBytes false
    let s1 := s.wr R.CU_STATUS_ERR e
    if e = 0 then goOn (s1.newNonce.takeToken s.tokenBytes) else goOn s1

/-- R448: FIT enters FITTING from DRYDOCK. -/
def execFitWrite (s : State) : Res := s.live fun s => if s.rd R.CU_STATE_STATE = 0 then goOn (s.transition 1) else goOn s

/-- A swap is pending that R450 names: a cal.swap of KIND 3, a pier.swap of a flow-library cluster, or a ledger service swap. -/
def State.sealBlocked (s : State) : Bool :=
  s.calWaiting.any (fun e => decide (16 ≤ e.1) && !e.2.isEmpty) ||
  s.clusters.any (fun e => match e.2.swap with
    | some img => imageFlowlib img || s.flowCluster e.1
    | none => false) ||
  s.ledger.handover.isSome || (match s.fwSwap with | some x => x.target == 1 | none => false)

/-- R450: SEAL is accepted, or discarded with ERR 7. -/
def execSealWrite (s : State) : Res := s.live fun s =>
  if s.rd R.CU_STATE_STATE = 2 ∧ ¬ s.on R.CU_STATUS_SEAL_PENDING ∧ s.on R.HB_TIME_STATUS_VALID ∧ s.on R.LG_STATUS_READY ∧ ¬ s.sealBlocked then
    goOn ((s.wr R.CU_STATUS_ERR 0).acceptSeal true)
  else goOn (s.wr R.CU_STATUS_ERR 7)

/-- SEALCNT increments in the Ballast and then in the Hold header (R449 to R451). -/
def State.countSeal (s : State) (isSealed : Bool) : State :=
  let n := low 32 (s.rd R.RS_BAL_SEALCNT_COUNT + 1)
  { (s.wr R.RS_BAL_SEALCNT_COUNT n).wr R.CU_SEALCNT_COUNT n with life := { s.life with sealed := isSealed, mirror := (n, isSealed) } }

/-- What becomes sealed (R450): the flow programs in force by cluster, and the flow profiles. -/
def State.sealedParts (s : State) : List (Nat × List Byte) × List Byte :=
  let prog := fun n => s.progBank n (s.rd (R.PI_CL_STATUS_ACT_BANK n))
  (((List.range 4).filter (fun n => imageFlowlib (prog n))).map (fun n => (n, prog n)), Config.flowProfiles (s.activeOr 8))

/-- R449, R450 at the landing boundary: the seal is made or broken. -/
def State.landSeal (s : State) (made : Bool) : State :=
  let s0 := s.wr R.CU_STATUS_SEAL_PENDING 0
  let st := s.rd R.CU_STATE_STATE
  if made ∧ st = 2 then
    let s1 := s0.countSeal true
    let s2 : State := ({ s1 with life := { s1.life with parts := some s.sealedParts } } : State).showLife
    s2.event 0x41 255 [s2.rd R.CU_SEALCNT_COUNT]
  else if !made ∧ st = 3 then
    let s1 := s0.countSeal false
    let s2 : State := ({ s1 with life := { s1.life with parts := none } } : State).showLife
    s2.event 0x40 255 [s2.rd R.CU_SEALCNT_COUNT]
  else s0

/-- R448, R483: GO programs the Charter word in both copies; an energy limit is never programmed. -/
def execCharterProgram (s : State) : Res := s.live fun s =>
  let w := s.rd R.CU_PROG_ADDR_WORD
  if s.rd R.CU_STATE_STATE = 1 ∧ ¬ s.on R.CU_PROG_STATUS_BUSY ∧ w < 2048 ∧ ¬ Config.limitWord w then
    goOn (({ s with life := { s.life with blow := some (w, s.rd R.CU_PROG_DATA_DATA) } } : State).wr R.CU_PROG_STATUS_BUSY 1)
  else goOn s

/-- Blows the bits `v` of Charter word `w` in copy `c`. -/
def State.blowWord (s : State) (c w v : Nat) : State :=
  { s with charter := (List.range 4).foldl (fun (t : Tab Byte) i =>
      let a := 0x2000 * c + 4 * w + i
      Tab.put 0 t a (Tab.get 0 t a ||| BitVec.ofNat 8 (bits v (8 * i) 8))) s.charter }

/-- R448: programming ends; FAIL sets if a bit to blow does not read back in either copy. -/
def execCharterProgramDone (a b : Word) (s : State) : Res := s.live fun s => match s.life.blow with
  | none => goOn s
  | some (w, v) =>
    let s1 := (s.blowWord 0 w (a.toNat &&& v)).blowWord 1 w (b.toNat &&& v)
    let good := fun c => leNat (s1.charterBytes (0x2000 * c + 4 * w) 4) &&& v == v
    let s2 := ({ s1 with life := { s1.life with blow := none } } : State).wr R.CU_PROG_STATUS_BUSY 0
    goOn (if good 0 && good 1 then s2 else s2.wr R.CU_PROG_STATUS_FAIL 1)

/-- The mailbox version in force, 0 for none. -/
def State.mailboxVer (s : State) : Nat := if s.on R.MB_STATUS_NEGOTIATED then s.rd R.MB_STATUS_VER else 0

/-- Sets the mailbox version in force (Table 15.9: CUR of HB_IF_0 follows it). -/
def State.setMailboxVer (s : State) (v : Nat) : State :=
  ((s.wrB R.MB_STATUS_NEGOTIATED (v != 0)).wr R.MB_STATUS_VER v).wr (R.HB_IF_i_CUR 0) v

/-- R454: the watchdog is held while the firmware hands over. -/
def State.holdWatchdog (s : State) : State :=
  { s with power := { s.power with wdt := none, wdtLeft := some (match s.power.wdt with | some t => t - s.now | none => 0) } }

/-- The watchdog goes on with what was left of its period. -/
def State.releaseWatchdog (s : State) : State :=
  { s with power := { s.power with wdtLeft := none, wdt := match s.power.wdtLeft with
      | some 0 => none
      | some n => some (s.now + n)
      | none => s.power.wdt } }

/-- R454, R456 at the landing boundary `b`: the outgoing service stops. -/
def State.landFwSwap (s : State) (b : Nat) : State := match s.fwSwap with
  | none => s
  | some x =>
    if x.target = 1 then
      { (s.wrB R.RS_FW_LEDGER_BANK (!s.on R.RS_FW_LEDGER_BANK)).landHandover b x.old x.new with fwSwap := none }
    else
      let v := s.mailboxVer
      let r := Config.fwRange x.new
      let s1 := (s.wrB R.RS_FW_FW_BANK (!s.on R.RS_FW_FW_BANK)).wr R.MB_STATUS_FW_READY 0
      let s2 := if r.1 ≤ v ∧ v ≤ r.2 then s1 else s1.setMailboxVer 0
      { s2.holdWatchdog with fwSwap := some { x with ver := v, landed := some b } }

/-- The device is to return to the outgoing bank at the next tide boundary (R454). -/
def State.revertFw (s : State) (x : FwSwap) : State :=
  { s with fwSwap := some { x with reverting := true }, landing := s.landing ++ [⟨nextBoundary s.now, .fwRevert⟩] }

/-- R454: the incoming firmware has verified the handover block. -/
def execFwSwapReady (ok : Bool) (s : State) : Res := s.live fun s => match s.fwSwap with
  | none => goOn s
  | some x =>
    match x.landed with
    | none => goOn s
    | some b =>
      if x.reverting ∨ b + 20000000 < s.now then goOn s
      else if ok then
        let s1 := ((s.wr R.MB_STATUS_FW_READY 1).wr R.MB_FW_VER_VERSION x.new).releaseWatchdog
        goOn (({ s1 with fwSwap := none } : State).event 0x31 255 [x.old, x.new])
      else goOn (s.revertFw x)

/-- R454: FW_READY is not set by B + 20 ms. -/
def execFwSwapTimeout (s : State) : Res := s.live fun s => match s.fwSwap with
  | none => goOn s
  | some x =>
    match x.landed with
    | none => goOn s
    | some b => if ¬ x.reverting ∧ s.inTide (b + 20000000) then goOn ((s.advance (b + 20000000)).revertFw x) else goOn s

/-- R454 at the boundary at which the outgoing firmware resumes. -/
def State.landFwRevert (s : State) : State := match s.fwSwap with
  | none => s
  | some x =>
    let s1 := ((s.wrB R.RS_FW_FW_BANK (!s.on R.RS_FW_FW_BANK)).wr R.MB_STATUS_FW_READY 1).wr R.RS_FW_FW_REVERT 1
    let s2 := (s1.setMailboxVer x.ver).releaseWatchdog
    ({ s2 with fwSwap := none } : State).event 0x31 255 [x.old, 0]

end Sys2Proof.Machine
end

