-- ==== Sys2Proof/Machine/Deflate.lean ====
section
/-! DEFINITION. Chapter 14: pre-coding (R367), and the DEFLATE format of RFC 1951 as the packing engine writes and reads it (R368, R369,
log entry 18). -/

namespace Sys2Proof.Machine

/-- The first `k` elements of `w` bytes each as numbers. -/
def elements (w : Nat) : Nat → List Byte → List Nat
  | 0, _ => []
  | k + 1, bs => leNat (bs.take w) :: elements w k (bs.drop w)

/-- DELTA over elements (Table 14.1): `older` holds the elements before, the latest first. -/
def deltaFilter (w st : Nat) : List Nat → List Nat → List Nat
  | _, [] => []
  | older, e :: es => (if older.length < st then e else low (8 * w) (e + 2 ^ (8 * w) - older.getD (st - 1) 0)) :: deltaFilter w st (e :: older) es

/-- Undoes DELTA in ascending order; `older` holds the elements restored before, the latest first. -/
def undelta (w st : Nat) : List Nat → List Nat → List Nat
  | _, [] => []
  | older, e :: es =>
    let x := if older.length < st then e else low (8 * w) (e + older.getD (st - 1) 0)
    x :: undelta w st (x :: older) es

/-- SHUFFLE of `n` elements of `w` bytes: byte k of element i moves to k × n + i. -/
def shuffle (w n : Nat) (bs : List Byte) : List Byte := (List.range (w * n)).map (fun j => bs.getD ((j % n) * w + j / n) 0)

/-- Undoes SHUFFLE. -/
def unshuffle (w n : Nat) (bs : List Byte) : List Byte := (List.range (w * n)).map (fun j => bs.getD ((j % w) * n + j / w) 0)

/-- R367: the pre-coded bytes of a crate's input. -/
def precode (pre w st : Nat) (bs : List Byte) : List Byte :=
  let n := bs.length / w
  let d := if pre % 2 = 1 then (deltaFilter w st [] (elements w n bs)).flatMap (leBytes w) else bs.take (w * n)
  (if 2 ≤ pre then shuffle w n d else d) ++ bs.drop (w * n)

/-- R367 undone. -/
def unprecode (pre w st : Nat) (bs : List Byte) : List Byte :=
  let n := bs.length / w
  let d := if 2 ≤ pre then unshuffle w n bs else bs.take (w * n)
  (if pre % 2 = 1 then (undelta w st [] (elements w n d)).flatMap (leBytes w) else d) ++ bs.drop (w * n)

/-- The `k` low bits of a number, lowest first. -/
def lowBits : Nat → Nat → List Bool
  | 0, _ => []
  | k + 1, n => (n % 2 == 1) :: lowBits k (n / 2)

/-- The number whose bits, lowest first, are given. -/
def bitsNat : List Bool → Nat
  | [] => 0
  | b :: bs => flag b + 2 * bitsNat bs

/-- The bits of a list of bytes, lowest of each byte first. -/
def bitsOf (bs : List Byte) : List Bool := bs.flatMap (fun b => lowBits 8 b.toNat)

/-- The first `n` bytes that a list of bits fills, padded with zeros. -/
def bytesOf : Nat → List Bool → List Byte
  | 0, _ => []
  | k + 1, bs => BitVec.ofNat 8 (bitsNat (bs.take 8)) :: bytesOf k (bs.drop 8)

/-- Bases and extra bits of the length codes 257 to 285. -/
def lenCodes : List (Nat × Nat) :=
  [(3, 0), (4, 0), (5, 0), (6, 0), (7, 0), (8, 0), (9, 0), (10, 0), (11, 1), (13, 1), (15, 1), (17, 1), (19, 2), (23, 2), (27, 2),
   (31, 2), (35, 3), (43, 3), (51, 3), (59, 3), (67, 4), (83, 4), (99, 4), (115, 4), (131, 5), (163, 5), (195, 5), (227, 5), (258, 0)]

/-- Bases and extra bits of the distance codes 0 to 29. -/
def distCodes : List (Nat × Nat) :=
  [(1, 0), (2, 0), (3, 0), (4, 0), (5, 1), (7, 1), (9, 2), (13, 2), (17, 3), (25, 3), (33, 4), (49, 4), (65, 5), (97, 5), (129, 6),
   (193, 6), (257, 7), (385, 7), (513, 8), (769, 8), (1025, 9), (1537, 9), (2049, 10), (3073, 10), (4097, 11), (6145, 11),
   (8193, 12), (12289, 12), (16385, 13), (24577, 13)]

/-- The last code of a list whose base does not exceed `v`. -/
def codeFor (codes : List (Nat × Nat)) (v : Nat) : Nat := (codes.filter (fun c => decide (c.1 ≤ v))).length - 1

/-- Code lengths of the fixed tables: literals and lengths, and distances. -/
def fixedLengths : List Nat × List Nat :=
  (List.replicate 144 8 ++ List.replicate 112 9 ++ List.replicate 24 7 ++ List.replicate 8 8, List.replicate 32 5)

/-- How many codes have each length 1 to 15. -/
def lengthCounts (ls : List Nat) : List Nat := (List.range 15).map (fun l => (ls.filter (fun x => x == l + 1)).length)

/-- The symbols in the order of their codes. -/
def codeOrder (ls : List Nat) : List Nat :=
  (List.range 15).flatMap (fun l => (List.range ls.length).filter (fun i => ls.getD i 0 == l + 1))

/-- The codes left over after assigning those of each length; none where a length has too many (R369). -/
def codesLeft : Nat → List Nat → Option Nat
  | left, [] => some left
  | left, c :: cs => if 2 * left < c then none else codesLeft (2 * left - c) cs

/-- A set of code lengths is complete. -/
def completeSet (ls : List Nat) : Bool := codesLeft 1 (lengthCounts ls) == some 0

/-- A set of distance code lengths is complete, or the single-code case of RFC 1951: one code of one bit, or none (R369). -/
def distSet (ls : List Nat) : Bool := completeSet ls || ls.all (· == 0) || (ls.filter (· != 0) == [1])

/-- The first code of length `l`. -/
def firstCode (ls : List Nat) : Nat → Nat
  | 0 => 0
  | l + 1 => 2 * (firstCode ls l + (if l = 0 then 0 else (ls.filter (fun x => x == l)).length))

/-- The bits of a symbol's code, highest first. -/
def codeBits (ls : List Nat) (sym : Nat) : List Bool :=
  let l := ls.getD sym 0
  (lowBits l (firstCode ls l + ((ls.take sym).filter (fun x => x == l)).length)).reverse

/-- Reads one symbol: the bits left and the symbol; `none` in place of the symbol when no code matches, nothing when bits run out. -/
def readSym (order : List Nat) : List Nat → Nat → Nat → Nat → List Bool → Option (Option Nat × List Bool)
  | [], _, _, _, bs => some (none, bs)
  | _ :: _, _, _, _, [] => none
  | c :: cs, code, first, index, b :: bs =>
    let x := code + flag b
    if x < first + c then some (order[index + (x - first)]?, bs)
    else readSym order cs (2 * x) (2 * (first + c)) (index + c) bs

/-- A table ready for reading: codes of each length and symbols in code order. -/
structure Table where
  counts : List Nat
  order : List Nat
  deriving DecidableEq, Repr

/-- The table of a list of code lengths. -/
def tableOf (ls : List Nat) : Table := ⟨lengthCounts ls, codeOrder ls⟩

/-- Reads one symbol with a table. -/
def Table.read (t : Table) (bs : List Bool) : Option (Option Nat × List Bool) := readSym t.order t.counts 0 0 0 bs

/-- Reads `k` bits as a number. -/
def readBits (k : Nat) (bs : List Bool) : Option (Nat × List Bool) := if bs.length < k then none else some (bitsNat (bs.take k), bs.drop k)

/-- The order in which a dynamic header gives the lengths of its own code. -/
def headOrder : List Nat := [16, 17, 18, 0, 8, 7, 9, 6, 10, 5, 11, 4, 12, 3, 13, 2, 14, 1, 15]

/-- What reading a block header found: it needs more bits, it is FORMAT, or the tables and the bits left. -/
inductive Head where
  | more
  | bad
  | huff (lit dist : Table) (rest : List Bool)
  | stored (len : Nat) (rest : List Bool)
  deriving DecidableEq, Repr

/-- The code lengths of a dynamic header up to `n` of them, oldest last; `none` inside for FORMAT. -/
def readLengths (t : Table) (n : Nat) : Nat → List Nat → List Bool → Option (Option (List Nat × List Bool))
  | 0, acc, bs => if acc.length = n then some (some (acc, bs)) else some none
  | fuel + 1, acc, bs =>
    if acc.length = n then some (some (acc, bs))
    else if n < acc.length then some none
    else match t.read bs with
      | none => none
      | some (none, _) => some none
      | some (some sym, r) =>
        if sym < 16 then readLengths t n fuel (sym :: acc) r
        else
          let e := if sym = 16 then (2, 3) else if sym = 17 then (3, 3) else (7, 11)
          match readBits e.1 r with
          | none => none
          | some (k, r2) =>
            if sym = 16 ∧ acc.isEmpty then some none
            else readLengths t n fuel (List.replicate (e.2 + k) (if sym = 16 then acc.headD 0 else 0) ++ acc) r2

/-- Reads a dynamic header after its three first bits. -/
def readDynamic (bs : List Bool) : Head :=
  match readBits 14 bs with
  | none => .more
  | some (v, r) =>
    let hlit := bits v 0 5 + 257
    let hdist := bits v 5 5 + 1
    let hclen := bits v 10 4 + 4
    match readBits (3 * hclen) r with
    | none => .more
    | some (w, r2) =>
      let ls := (List.range 19).map (fun i =>
        let p := headOrder.idxOf i
        if p < hclen then bits w (3 * p) 3 else 0)
      if !completeSet ls then .bad
      else match readLengths (tableOf ls) (hlit + hdist) (hlit + hdist) [] r2 with
        | none => .more
        | some none => .bad
        | some (some (acc, r3)) =>
          let all := acc.reverse
          let lit := all.take hlit
          let dist := all.drop hlit
          if completeSet lit && distSet dist then .huff (tableOf lit) (tableOf dist) r3 else .bad

/-- Reads a block header at bit position `pos`: its BFINAL and what follows (R369). -/
def readHead (pos : Nat) (bs : List Bool) : Bool × Head :=
  match readBits 3 bs with
  | none => (false, .more)
  | some (v, r) =>
    (v % 2 == 1,
      if v / 2 = 3 then .bad
      else if v / 2 = 2 then readDynamic r
      else if v / 2 = 1 then .huff (tableOf fixedLengths.1) (tableOf fixedLengths.2) r
      else match readBits 32 (r.drop ((8 - (pos + 3) % 8) % 8)) with
        | none => .more
        | some (w, r2) => if bits w 0 16 + bits w 16 16 = 65535 then .stored (bits w 0 16) r2 else .bad)

/-- How decoding of a crate stopped: the final block ended, the destination is full, the source is short, or FORMAT. -/
inductive InfEnd where
  | final | full | more | bad
  deriving DecidableEq, Repr

/-- A crate being decoded: the bits left and the position reached, the output (latest byte first) and its length, the room left, the
position of the current block header, the tables of the current block, whether it is the final one, and what is left of a match
(length, distance) or of a stored block. -/
structure Inf where
  bits : List Bool
  pos : Nat := 0
  out : List Byte := []
  n : Nat := 0
  room : Nat
  blk : Nat := 0
  tabs : Option (Table × Table) := none
  last : Bool := false
  mlen : Nat := 0
  mdist : Nat := 0
  stored : Nat := 0
  deriving DecidableEq, Repr

/-- A byte is put out. -/
def Inf.put (x : Inf) (b : Byte) : Inf := { x with out := b :: x.out, n := x.n + 1, room := x.room - 1 }

/-- The bits of `r` are what is left. -/
def Inf.at_ (x : Inf) (r : List Bool) : Inf := { x with bits := r, pos := x.pos + (x.bits.length - r.length) }

/-- Copies what is left of a match, up to the crate's ILEN and the room. -/
def Inf.copy (ilen : Nat) : Nat → Inf → Inf × Option InfEnd
  | 0, x => (x, none)
  | k + 1, x =>
    if x.mlen = 0 then (x, none)
    else if ilen ≤ x.n then (x, some .bad)
    else if x.room = 0 then (x, some .full)
    else Inf.copy ilen k { (x.put (x.out.getD (x.mdist - 1) 0)) with mlen := x.mlen - 1 }

/-- Copies what is left of a stored block. -/
def Inf.copyStored (ilen : Nat) : Nat → Inf → Inf × Option InfEnd
  | 0, x => (x, none)
  | k + 1, x =>
    if x.stored = 0 then (x, none)
    else if ilen ≤ x.n then (x, some .bad)
    else if x.room = 0 then (x, some .full)
    else match readBits 8 x.bits with
      | none => (x, some .more)
      | some (v, r) => Inf.copyStored ilen k { ((x.at_ r).put (BitVec.ofNat 8 v)) with stored := x.stored - 1 }

/-- The block ends: the crate's decoding ends with the final one. -/
def Inf.blockEnd (x : Inf) : Inf × Option InfEnd :=
  if x.last then ({ x with tabs := none }, some .final) else ({ x with tabs := none, blk := x.pos }, none)

/-- Reads the header of the next block. -/
def Inf.head (x : Inf) : Inf × Option InfEnd :=
  match readHead x.pos x.bits with
  | (_, .more) => (x, some .more)
  | (_, .bad) => (x, some .bad)
  | (f, .huff a b r) => ({ (x.at_ r) with blk := x.pos, tabs := some (a, b), last := f }, none)
  | (f, .stored n r) =>
    let y := { (x.at_ r) with blk := x.pos, last := f, stored := n }
    if n = 0 then y.blockEnd else (y, none)

/-- Reads one symbol of a block and does what it says (R369). -/
def Inf.symbol (ilen : Nat) (a b : Table) (x : Inf) : Inf × Option InfEnd :=
  match a.read x.bits with
  | none => (x, some .more)
  | some (none, _) => (x, some .bad)
  | some (some sym, r) =>
    if sym < 256 then
      if ilen ≤ x.n then (x, some .bad)
      else if x.room = 0 then (x, some .full)
      else ((x.at_ r).put (BitVec.ofNat 8 sym), none)
    else if sym = 256 then (x.at_ r).blockEnd
    else match lenCodes[sym - 257]? with
      | none => (x, some .bad)
      | some (lb, le) => match readBits le r with
        | none => (x, some .more)
        | some (lx, r2) => match b.read r2 with
          | none => (x, some .more)
          | some (none, _) => (x, some .bad)
          | some (some ds, r3) => match distCodes[ds]? with
            | none => (x, some .bad)
            | some (db, de) => match readBits de r3 with
              | none => (x, some .more)
              | some (dx, r4) =>
                if x.n < db + dx then (x, some .bad)
                else if x.room = 0 then (x, some (if ilen ≤ x.n then .bad else .full))
                else ({ (x.at_ r4) with mlen := lb + lx, mdist := db + dx }, none)

/-- One step of decoding: the rest of a match, the rest of a stored block, a symbol, or a block header. -/
def Inf.step (ilen : Nat) (x : Inf) : Inf × Option InfEnd :=
  if 0 < x.mlen then x.copy ilen 258
  else if 0 < x.stored then
    match x.copyStored ilen 65535 with
    | (y, none) => y.blockEnd
    | r => r
  else match x.tabs with
    | some (a, b) => x.symbol ilen a b
    | none => x.head

/-- Decodes until the crate ends or decoding stops; each step but a copy uses up bits. -/
def Inf.go (ilen : Nat) : Nat → Inf → Inf × InfEnd
  | 0, x => (x, .bad)
  | k + 1, x => match x.step ilen with
    | (y, some e) => (y, e)
    | (y, none) => Inf.go ilen k y

/-- R369 with a check of the length at the end of the final block. -/
def Inf.run (ilen : Nat) (x : Inf) : Inf × InfEnd :=
  match Inf.go ilen (2 * x.bits.length + 4) x with
  | (y, .final) => (y, if y.n = ilen then .final else .bad)
  | r => r

/-- A symbol of the compressor (R375): its bits and the input bytes it covers. -/
abbrev PackSym := List Bool × Nat

/-- The bits of a literal or a pair under code lengths for literals and lengths, and for distances. -/
def tokBits (lit dist : List Nat) : DeflateTok → PackSym
  | .lit b => (codeBits lit b.toNat, 1)
  | .pair len d =>
    let lc := codeFor lenCodes len
    let dc := codeFor distCodes d
    (codeBits lit (257 + lc) ++ lowBits (lenCodes.getD lc (0, 0)).2 (len - (lenCodes.getD lc (0, 0)).1) ++
      codeBits dist dc ++ lowBits (distCodes.getD dc (0, 0)).2 (d - (distCodes.getD dc (0, 0)).1), len)

/-- What literals and pairs stand for, latest byte first; none for a pair that RFC 1951 or the crate's start does not allow (R368). -/
def expandToks : List DeflateTok → List Byte → Option (List Byte)
  | [], out => some out
  | .lit b :: ts, out => expandToks ts (b :: out)
  | .pair len d :: ts, out =>
    if len < 3 ∨ 258 < len ∨ d = 0 ∨ 32768 < d ∨ out.length < d then none
    else expandToks ts ((List.range len).foldl (fun o _ => o.getD (d - 1) 0 :: o) out)

/-- The literals and pairs of a crate's bytes (R368): what the engine's search finds, which the spec leaves open but for what it must stand
for; a search that stood for other bytes would find literals alone. -/
def matchToks (level : Nat) (bs : List Byte) : List DeflateTok :=
  let ts := Config.findMatches level bs
  if expandToks ts [] = some bs.reverse then ts else bs.map DeflateTok.lit

/-- The symbols that a literal or a pair uses have codes. -/
def tokCoded (lit dist : List Nat) : DeflateTok → Bool
  | .lit b => decide (0 < lit.getD b.toNat 0)
  | .pair len d => decide (0 < lit.getD (257 + codeFor lenCodes len) 0) && decide (0 < dist.getD (codeFor distCodes d) 0)

/-- Code lengths and header bits make a dynamic block that RFC 1951 lets a reader decode, with a code for every symbol used (R368, R369). -/
def dynFits (ts : List DeflateTok) (ls : List Nat × List Nat) (hd : List Bool) : Bool :=
  readDynamic hd == .huff (tableOf ls.1) (tableOf ls.2) [] && ts.all (tokCoded ls.1 ls.2) && decide (0 < ls.1.getD 256 0)

/-- Code lengths that code every symbol: 286 literals and lengths in 8 or 9 bits, 30 distances in 4 or 5. -/
def flatLengths : List Nat × List Nat := (List.replicate 226 8 ++ List.replicate 60 9, List.replicate 2 4 ++ List.replicate 28 5)

/-- The header of those lengths, each in a code of two bits. -/
def flatHeader : List Bool :=
  let own := (List.range 19).map (fun i => if i = 4 ∨ i = 5 ∨ i = 8 ∨ i = 9 then 2 else 0)
  lowBits 5 29 ++ lowBits 5 29 ++ lowBits 4 15 ++ headOrder.flatMap (fun i => lowBits 3 (own.getD i 0)) ++
    (flatLengths.1 ++ flatLengths.2).flatMap (codeBits own)

/-- The code lengths and header of a dynamic block (R368): the engine's tables, which the spec leaves open, where they make a block that can be
decoded, else the flat ones. -/
def dynTables (ts : List DeflateTok) : (List Nat × List Nat) × List Bool :=
  let ls := Config.dynLengths ts
  if dynFits ts ls (Config.dynHeader ls) then (ls, Config.dynHeader ls) else (flatLengths, flatHeader)

/-- The one block of fixed (0) or dynamic (1) codes for a crate's bytes: header, literals and pairs, end of block (R368, R375). -/
def codedSyms (tables level : Nat) (bs : List Byte) : List PackSym :=
  let ts := matchToks level bs
  let t := if tables = 0 then (fixedLengths, [true, true, false]) else let d := dynTables ts; (d.1, [true, false, true] ++ d.2)
  (t.2, 0) :: ts.map (tokBits t.1.1 t.1.2) ++ [(codeBits t.1.1 256, 0)]

/-- Stored blocks for a crate's bytes, each header and each byte a symbol (R368, R375). -/
def storedSyms : Nat → List Byte → List PackSym
  | 0, _ => []
  | k + 1, bs =>
    let part := bs.take 65535
    let rest := bs.drop 65535
    let hd := lowBits 8 (flag rest.isEmpty) ++ lowBits 16 part.length ++ lowBits 16 (65535 - part.length)
    (hd, 0) :: part.map (fun b => (lowBits 8 b.toNat, 1)) ++ (if rest.isEmpty then [] else storedSyms k rest)

/-- The bits of a list of symbols. -/
def symBits (ss : List PackSym) : Nat := (ss.map (fun x => x.1.length)).sum

/-- R368: the symbols of a crate's pre-coded bytes. -/
def crateSyms (tables level : Nat) (bs : List Byte) : List PackSym :=
  let st := storedSyms 3 bs
  if tables = 2 then st
  else
    let cd := codedSyms tables level bs
    if symBits st < symBits cd then st else cd

end Sys2Proof.Machine
end

