-- ==== Sys2Proof/Machine/Packing.lean ====
section
/-! DEFINITION. Chapter 14: the packing engines and their jobs. -/

namespace Sys2Proof.Machine

/-- The packing engine numbered `e`. -/
def State.pack (s : State) (e : Nat) : PackEngine := Tab.get {} s.packs e

/-- Sets a packing engine and shows its queue level. -/
def State.setPack (s : State) (e : Nat) (x : PackEngine) : State :=
  ({ s with packs := Tab.put {} s.packs e x }).wr (R.PK_e_STATUS_QLVL e) x.queue.length

/-- R373: a write of PK_e_JOB enqueues a job, or sets OVF when 16 are queued. -/
def execPackingEnqueue (e : Fin 2) (value : Word) (s : State) : Res := s.live fun s =>
  let x := s.pack e
  if 16 ≤ x.queue.length then goOn (s.wr (R.PK_e_STATUS_OVF e) 1)
  else goOn (s.setPack e { x with queue := x.queue ++ [⟨128 * bits value.toNat 7 19, tideOf s.now⟩] })

/-- The index that counts as the berth of a job (R374). -/
def State.packOwner (s : State) (desc : Nat) : Nat :=
  let w := s.shedNat (desc + 4) 4
  if bit w 12 then 4096 else bits w 0 12

/-- R374: the next job in the order of R47; an engine's queue is in enqueue order. -/
def State.nextPack (s : State) (e : Nat) : Option PackRun :=
  (s.nextWork 17 (Tab.get 0 s.packUsed) (fun j => s.packOwner j.1.desc) (fun j => j.1.tide) Prod.snd (s.pack e).queue.zipIdx).map Prod.fst

/-- R374: a free engine takes its next job. -/
def execPackingJobStart (e : Fin 2) (s : State) : Res := s.live fun s =>
  let x := s.pack e
  if x.run.isSome then goOn s
  else match s.nextPack e with
    | none => goOn s
    | some j => goOn (((s.setPack e { queue := x.queue.erase j, run := some j }).wr (R.PK_e_STATUS_BUSY e) 1).wr (R.PK_e_CUR_CUR e) (j.desc / 128))

/-- A job descriptor (Tables 14.3, 14.4 and 14.6). -/
structure PackJob where
  irq : Bool
  unpack : Bool
  resume : Bool
  idx : Bool
  sspace : Nat
  dspace : Nat
  tables : Nat
  level : Nat
  size : Nat
  pre : Nat
  width : Nat
  src : Nat
  slen : Nat
  dlen : Nat
  dst : Nat
  idxAt : Nat
  idxLen : Nat
  stride : Nat
  cls : Fin 4
  deriving DecidableEq, Repr

/-- The descriptor at a Shed offset. -/
def State.packJob (s : State) (o : Nat) : PackJob :=
  let c := s.shedNat o 4
  { irq := bit c 31, unpack := bit c 30, resume := bit c 29, idx := bit c 28, sspace := bits c 24 2, dspace := bits c 22 2
    tables := bits c 20 2, level := bits c 18 2, size := [4096, 16384, 32768, 65536].getD (bits c 16 2) 0, pre := bits c 14 2, width := bits c 12 2
    src := s.shedNat (o + 8) 8, slen := s.shedNat (o + 16) 4, dlen := s.shedNat (o + 20) 4, dst := s.shedNat (o + 24) 8
    idxAt := s.shedNat (o + 32) 8, idxLen := s.shedNat (o + 40) 4, stride := bits (s.shedNat (o + 60) 4) 0 14
    cls := Fin.ofNat 4 (bits c 26 2) }

/-- The progress of a job, as STATE and the counts hold it (Tables 14.3 and 14.6), with how it ended, what it writes at which destination
offsets and its new index entries. -/
structure PackOut where
  code : Nat := 0
  cause : Nat := 0
  bitofs : Nat := 0
  inDone : Nat := 0
  outDone : Nat := 0
  crates : Nat := 0
  crateIn : Nat := 0
  crateOut : Nat := 0
  blkHdr : Nat := 0
  mlen : Nat := 0
  mdist : Nat := 0
  stored : Nat := 0
  pendBits : Nat := 0
  pendVal : Nat := 0
  symbols : Nat := 0
  writes : List (Nat × List Byte) := []
  index : List Byte := []
  deriving DecidableEq, Repr

/-- The progress that a resumed job's descriptor holds; all 0 for a new job (R378). -/
def State.packStart (s : State) (o : Nat) (resume : Bool) : PackOut :=
  if resume then
    { bitofs := bits (s.shedNat (o + 44) 4) 0 3, inDone := s.shedNat (o + 48) 4, outDone := s.shedNat (o + 52) 4, crates := s.shedNat (o + 56) 4
      crateIn := s.shedNat (o + 64) 4, crateOut := s.shedNat (o + 68) 4, blkHdr := s.shedNat (o + 72) 4, mlen := s.shedNat (o + 76) 2
      mdist := s.shedNat (o + 78) 2, stored := s.shedNat (o + 80) 2, pendBits := s.shedNat (o + 82) 1, pendVal := s.shedNat (o + 83) 1
      symbols := s.shedNat (o + 84) 4 }
  else {}

/-- Completion codes of Table 14.5. -/
def pkOk : Nat := 1
/-- OUT_FULL. -/
def pkFull : Nat := 2
/-- IN_EMPTY. -/
def pkEmpty : Nat := 3
/-- DROPPED. -/
def pkDropped : Nat := 4
/-- CRC. -/
def pkCrc : Nat := 5
/-- FORMAT. -/
def pkFormat : Nat := 6
/-- BAD. -/
def pkBad : Nat := 7
/-- INVALID. -/
def pkInvalid : Nat := 8

/-- The next multiple of 8. -/
def up8 (n : Nat) : Nat := ceilDiv n 8 * 8

/-- A crate of an input (R370): header, payload and padding. -/
def crateBytes (pre width stride : Nat) (input payload : List Byte) : List Byte :=
  leBytes 2 0x5243 ++ leBytes 1 pre ++ leBytes 1 width ++ leBytes 2 stride ++ leBytes 2 0 ++ leBytes 4 input.length ++ leBytes 4 payload.length ++
    leBytes 4 (crc32 input) ++ leBytes 4 0 ++ payload ++ List.replicate (up8 payload.length - payload.length) 0

/-- The number of symbols, from the first, that fit in `room` bits (R375). -/
def symsFit : Nat → List PackSym → Nat
  | _, [] => 0
  | room, x :: xs => if x.1.length ≤ room then symsFit (room - x.1.length) xs + 1 else 0

/-- R375: the compressor crate by crate, over the `src` bytes that can be read; `cause` is the error of the first byte that cannot. -/
def compress (j : PackJob) (src : List Byte) (cause dlen : Nat) : Nat → PackOut → PackOut
  | 0, p => p
  | fuel + 1, p =>
    if j.slen ≤ p.crateIn then { p with code := pkOk, inDone := j.slen, outDone := p.crateOut }
    else if j.idx && decide (j.idxLen < 16 * (p.crates + 1)) then { p with code := pkFull }
    else
      let ilen := min j.size (j.slen - p.crateIn)
      if src.length < p.crateIn + ilen then { p with code := pkBad, cause := cause }
      else
        let input := (src.drop p.crateIn).take ilen
        let w := 2 ^ j.width
        let syms := crateSyms j.tables j.level (precode j.pre w j.stride input)
        let room := 8 * (dlen - (p.crateOut + 24))
        let k := symsFit room syms
        let bs := (syms.take k).flatMap Prod.fst
        let olen := ceilDiv bs.length 8
        if k = 0 then { p with code := pkFull, inDone := p.crateIn, outDone := p.crateOut }
        else if k = syms.length ∧ p.crateOut + 24 + up8 olen ≤ dlen then
          let c := crateBytes j.pre w j.stride input (bytesOf olen bs)
          compress j src cause dlen fuel { p with
            crateIn := p.crateIn + ilen, crateOut := p.crateOut + c.length, crates := p.crates + 1, symbols := 0, pendBits := 0, pendVal := 0
            inDone := p.crateIn + ilen, outDone := p.crateOut + c.length
            writes := p.writes ++ [(p.crateOut, c)]
            index := if j.idx then p.index ++ leBytes 8 p.crateIn ++ leBytes 4 p.crateOut ++ leBytes 4 c.length else [] }
        else
          let whole := bs.length / 8
          { p with
            code := pkFull, inDone := p.crateIn + ((syms.take k).map Prod.snd).sum, outDone := p.crateOut + 24 + whole, symbols := k
            pendBits := bs.length % 8, pendVal := bitsNat (bs.drop (8 * whole)), writes := p.writes ++ [(p.crateOut + 24, bytesOf whole bs)] }

/-- The header fields of a crate: PRE, WIDTH, STRIDE, ILEN, OLEN, CRC; none for a header that ends a job as FORMAT (Table 14.5). -/
def crateHead (h : List Byte) : Option (Nat × Nat × Nat × Nat × Nat × Nat) :=
  let pre := bodyNat h 2 1
  let w := bodyNat h 3 1
  if bodyNat h 0 2 = 0x5243 ∧ pre < 4 ∧ (w = 1 ∨ w = 2 ∨ w = 4) ∧ bodyNat h 8 4 ≤ 65536 ∧ (pre % 2 = 0 ∨ bodyNat h 4 2 ≠ 0) then
    some (pre, w, bodyNat h 4 2, bodyNat h 8 4, bodyNat h 12 4, bodyNat h 16 4)
  else none

/-- The state in which the decoder of a crate starts or goes on (R376, R378): `win` is the part of its output that stands at the
destination. None when the block header to go on from cannot be read again. -/
def resumeInf (p : PackOut) (payload win : List Byte) (room : Nat) : Option Inf :=
  let all := bitsOf payload
  let pos := 8 * (p.inDone - (p.crateIn + 24)) + p.bitofs
  let x : Inf := { bits := all.drop pos, pos := pos, out := win.reverse, n := win.length, room := room, blk := p.blkHdr
                   mlen := p.mlen, mdist := p.mdist, stored := p.stored }
  if pos ≤ p.blkHdr then some x
  else match readHead p.blkHdr (all.drop p.blkHdr) with
    | (f, .huff a b _) => some { x with tabs := some (a, b), last := f }
    | (f, .stored _ _) => some { x with last := f }
    | _ => none

/-- R376 to R379: the decompressor crate by crate, over the `src` bytes that can be read; `win` is what stands at the destination of the
crate in progress. -/
def decompress (j : PackJob) (src : List Byte) (cause dlen : Nat) : Nat → List Byte → PackOut → PackOut
  | 0, _, p => p
  | fuel + 1, win, p =>
    if j.slen ≤ p.crateIn then { p with code := pkOk, inDone := j.slen, bitofs := 0 }
    else if dlen ≤ p.crateOut ∧ p.inDone ≤ p.crateIn then { p with code := pkFull, inDone := p.crateIn, bitofs := 0 }
    else if src.length < min j.slen (p.crateIn + 24) then { p with code := pkBad, cause := cause }
    else if j.slen < p.crateIn + 24 then { p with code := pkEmpty, inDone := p.crateIn, bitofs := 0 }
    else match crateHead ((src.drop p.crateIn).take 24) with
      | none => { p with code := pkFormat }
      | some (pre, w, st, ilen, olen, crc) =>
        let payload := (src.drop (p.crateIn + 24)).take olen
        let p0 := if p.inDone ≤ p.crateIn then { p with inDone := p.crateIn + 24, bitofs := 0, blkHdr := 0, mlen := 0, mdist := 0, stored := 0 } else p
        match resumeInf p0 payload win (dlen - (p.crateOut + win.length)) with
        | none => { p0 with code := pkFormat }
        | some x =>
          let r := x.run ilen
          let y := r.1
          let out := y.out.reverse
          let q : PackOut := { p0 with
            inDone := p.crateIn + 24 + y.pos / 8, bitofs := y.pos % 8, outDone := p.crateOut + y.n, blkHdr := y.blk, mlen := y.mlen
            mdist := y.mdist, stored := y.stored, writes := p.writes ++ [(p.crateOut + win.length, out.drop win.length)] }
          match r.2 with
          | .full => { q with code := pkFull }
          | .bad => { q with code := pkFormat }
          | .more =>
            if payload.length = olen then { q with code := pkFormat }
            else if src.length < min j.slen (p.crateIn + 24 + olen) then { q with code := pkBad, cause := cause }
            else { q with code := pkEmpty }
          | .final =>
            let back := unprecode pre w st out
            let q2 := { q with writes := p.writes ++ [(p.crateOut, back)] }
            if crc32 back ≠ crc then { q2 with code := pkCrc }
            else
              let next := p.crateIn + 24 + up8 olen
              decompress j src cause dlen fuel [] { q2 with
                crates := p.crates + 1, crateIn := next, crateOut := p.crateOut + ilen, inDone := next, bitofs := 0, blkHdr := 0
                mlen := 0, mdist := 0, stored := 0 }

/-- The bytes of a buffer up to the first that cannot be read, and the cause of that one (Table 13.8). -/
def State.packRead (s : State) (req : WhReq) (sp a n : Nat) (luck : WhLuck) : State × List Byte × Nat :=
  if sp = 0 then
    if !s.powered 24 then (s, [], 4)
    else if !s.on R.WH_STATUS_READY then (s, [], 5)
    else
      let len := min n (s.whUsable - a)
      let s0 := s.spoil luck.spoilt
      let r := (blocksOf a len).foldl (fun (t : State × Option Nat) b => match t.2 with
        | some x => (t.1, some x)
        | none =>
          let p := t.1.whReadPart req true luck b
          (p.1, if p.2 then some b else none)) (s0, none)
      let s1 := if (blocksOf a len).any (fun b => !Tab.get false s.wh.written b) then r.1.nextFree else r.1
      match r.2 with
      | some b => (s1, s0.whPeek a (64 * b - a), 2)
      | none => (if len < n then s1.wr R.WH_STATUS_RANGE_ERR 1 else s1, s0.whPeek a len, 5)
  else
    let len := min n (shedSize - a)
    match (wordsOf a len).find? (fun w => Tab.get false s.shedBad w) with
    | some w => (s.parityCheck w, s.shedBytes a (4 * w - a), 3)
    | none => (s, s.shedBytes a len, 5)

/-- A buffer write; the cause of its failure, 0 for none. -/
def State.packWrite (s : State) (req : WhReq) (sp a : Nat) (bs : List Byte) : State × Nat :=
  if bs.isEmpty then (s, 0)
  else if sp = 0 then
    if !s.powered 24 then (s, 4)
    else
      let r := s.whWrite req a bs
      (r.1, match r.2 with
        | .ok => 0
        | .range => 5
        | .check => 2)
  else if shedSize < a + bs.length then (s, 5)
  else (s.shedWrite a bs, 0)

/-- The writes of a job; the first failure ends it as BAD. -/
def State.packWrites (s : State) (o : Nat) (j : PackJob) (p : PackOut) : State × PackOut :=
  let ws := p.writes.map (fun w => (j.dst + w.1, w.2)) ++
    (if p.index.isEmpty then [] else [(j.idxAt + 16 * p.crates - p.index.length, p.index)])
  ws.foldl (fun (t : State × PackOut) w =>
    let r := t.1.packWrite { owner := some o, cls := j.cls } j.dspace w.1 w.2
    (r.1, if r.2 ≠ 0 ∧ t.2.code ≠ pkBad then { t.2 with code := pkBad, cause := r.2 } else t.2)) (s, p)

/-- Table 14.5, INVALID: a reserved encoding, less room than was filled, or an owner that is not valid. -/
def State.packInvalid (s : State) (o : Nat) (j : PackJob) : Bool :=
  let w := s.packOwner o
  decide (2 ≤ j.sspace ∨ 2 ≤ j.dspace ∨ j.tables = 3) || (!j.unpack && (j.width == 3 || (j.pre % 2 == 1 && j.stride == 0))) ||
  (j.resume && decide (j.dlen < (s.packStart o true).outDone)) || (w != 4096 && !(s.berth w).isOpen)

/-- The Warehouse's charge of the source bytes that a job consumed (R350). -/
def State.packCharge (s : State) (o : Nat) (j : PackJob) (n : Nat) : State :=
  if j.sspace = 0 then (s.chargeTo (13 + j.cls) o (channelNs n)).chargeReserve j.cls (2 * ceilDiv n 64) else s

/-- What the job at a descriptor does when it stops at `limit` bytes of destination at the latest: the state after its accesses and its end. -/
def State.packDo (s : State) (o limit : Nat) (luck : WhLuck) : State × PackOut :=
  let j := s.packJob o
  let p := s.packStart o j.resume
  if s.shedFails o 128 then (s.parityScan o 128, { p with code := pkBad, cause := 3 })
  else if s.packInvalid o j then (s, { p with code := pkInvalid })
  else
    let own := s.packOwner o
    let r := s.packRead { cls := j.cls } j.sspace j.src j.slen luck
    let dlen := min j.dlen (max limit (p.outDone + flag (decide (0 < p.pendBits))))
    if j.unpack then
      let win := if p.crateIn < p.inDone then (if j.dspace = 0 then r.1.whPeek (j.dst + p.crateOut) (p.outDone - p.crateOut)
        else r.1.shedBytes (j.dst + p.crateOut) (p.outDone - p.crateOut)) else []
      let q := decompress j r.2.1 r.2.2 dlen (j.slen / 24 + 2) win p
      (r.1.packCharge own j (q.inDone - p.inDone)).packWrites own j q
    else
      let q := compress j r.2.1 r.2.2 dlen (j.slen / 4096 + 2) p
      (r.1.packCharge own j (q.inDone - p.inDone)).packWrites own j q

/-- The write-back of a job (R374, Tables 14.3, 14.6, 14.10 and 14.11); the engine-internal part of STATE takes free bytes. -/
def State.packBack (s : State) (e o : Nat) (p : PackOut) : State :=
  let j := s.packJob o
  let was := s.packStart o j.resume
  let s1 := (s.shedWrite (o + 44) (leBytes 4 (p.bitofs + p.cause * 2 ^ 24 + p.code * 2 ^ 28) ++ leBytes 4 p.inDone ++ leBytes 4 p.outDone ++
    leBytes 4 p.crates)).shedWrite (o + 64) (leBytes 4 p.crateIn ++ leBytes 4 p.crateOut ++ leBytes 4 p.blkHdr ++ leBytes 2 p.mlen ++
    leBytes 2 p.mdist ++ leBytes 2 p.stored ++ leBytes 1 p.pendBits ++ leBytes 1 p.pendVal ++ leBytes 4 p.symbols ++
    (List.range 40).map (fun i => Config.undefByte s.free i))
  let s2 := (((s1.nextFree.inc (R.PK_e_JOBS_COUNT e)).addSat (R.PK_e_IN_BYTES_COUNT e) (p.inDone - was.inDone)).addSat
    (R.PK_e_OUT_BYTES_COUNT e) (p.outDone - was.outDone))
  let s3 := if p.code = pkCrc then (s2.wr R.PK_STATUS_CRC_ERR 1).inc R.PK_CRC_CNT_COUNT
    else if p.code = pkFormat then (s2.wr R.PK_STATUS_FORMAT 1).inc R.PK_FORMAT_CNT_COUNT
    else if p.code = pkBad then s2.wr R.PK_STATUS_BAD 1
    else if p.code = pkDropped then s2.wr R.PK_STATUS_DROPPED 1
    else s2
  let s4 := if p.code ≤ pkEmpty then s3
    else
      let t := if s3.on (R.PK_e_STATUS_ERR e) then s3 else
        (((s3.wr (R.PK_e_LASTERR_CODE e) p.code).wr (R.PK_e_LASTERR_CAUSE e) p.cause).wr (R.PK_e_LASTERR_DESC_DESC e) (o / 128)).wr
          (R.PK_e_LASTERR_CRATE_CRATE_IN e) p.crateIn
      t.wr (R.PK_e_STATUS_ERR e) 1
  if j.irq then (s4.wr (R.PK_e_STATUS_DONE e) 1).signal (s4.rd (R.PK_e_CFG_VEC e)) else s4

/-- The running job of an engine ends. -/
def State.packFree (s : State) (e : Nat) : State := (s.setPack e { s.pack e with run := none }).wr (R.PK_e_STATUS_BUSY e) 0

/-- R374: the running job ends and is written back; its cycles are charged to its owner. -/
def execPackingJobComplete (e : Fin 2) (cycles : Nat) (luck : WhLuck) (s : State) : Res := s.live fun s =>
  match (s.pack e).run with
  | none => goOn s
  | some r =>
    let o := s.packOwner r.desc
    let d := s.packDo r.desc (2 ^ 32) luck
    let s1 := d.1.packBack e r.desc d.2
    goOn ((({ s1 with packUsed := Tab.put 0 s1.packUsed o (Tab.get 0 s1.packUsed o + cycles) } : State).chargeTo 17 o cycles).packFree e)

/-- R377: a job two tides old stops as if its destination ended at `limit`, and completes as DROPPED unless it fails before. -/
def State.dropPack (s : State) (e : Nat) (r : PackRun) (limit : Nat) : State :=
  let d := s.packDo r.desc limit {}
  d.1.packBack e r.desc (if d.2.code ≤ pkEmpty then { d.2 with code := pkDropped } else d.2)

/-- R377 for one engine at a boundary: the running job and the queued ones that are two tides old. -/
def State.packBoundary (s : State) (limit : Nat → Nat) (e : Nat) : State :=
  let x := s.pack e
  let old := fun (j : PackRun) => decide (j.tide + 2 ≤ tideOf s.now)
  let s1 := match x.run with
    | some r => if old r then (s.dropPack e r (limit e)).packFree e else s
    | none => s
  let s2 := s1.setPack e { s1.pack e with queue := x.queue.filter (fun j => !old j) }
  (x.queue.filter old).foldl (fun (t : State) j =>
    t.packBack e j.desc { (t.packStart j.desc (t.packJob j.desc).resume) with code := pkDropped }) s2

end Sys2Proof.Machine
end

