-- ==== Sys2Proof/Machine/Watch.lean ====
section
/-! DEFINITION. Chapter 11: watches, from their opening to their captures. -/

namespace Sys2Proof.Machine

/-- The watch in slot `w`. -/
def State.watch (s : State) (w : Nat) : Watch := Tab.get {} s.watches w

/-- Replaces the watch in slot `w`. -/
def State.setWatch (s : State) (w : Nat) (x : Watch) : State := { s with watches := Tab.put {} s.watches w x }

/-- SLOT_BYTES (R309). -/
def slotBytes (pre post : Nat) : Nat := ceilDiv (64 + 16 * (pre + post)) 64 * 64

/-- SEQ of the next capture of a slot. -/
def State.watchSeq (s : State) (w : Nat) : Nat := s.rdPair (R.WT_w_SEQ_LO_SEQ_LO w) (R.WT_w_SEQ_HI_SEQ_HI w)

/-- The Warehouse address of the slot of the capture being gathered (R309). -/
def State.captureSlot (s : State) (w : Nat) : Nat :=
  let x := s.watch w
  x.ring + slotBytes x.pre x.post * (s.watchSeq w % x.slots)

/-- A watch writes in Warehouse class 0 for its berth (R309). -/
def State.watchReq (s : State) (w : Nat) : WhReq := { owner := some (bits (s.watch w).handle 0 12) }

/-- STATE of Table 11.10: 0 IDLE, 1 FILLING, 2 READY, 3 POST, 4 DONE. -/
def State.watchState (s : State) (w : Nat) : Nat := s.rd (R.WT_w_STATUS_STATE w)

/-- Fill begins (R305): at `t` (1/256 ns), where the slot is marked, or with the next sample; without pre-trigger samples it is complete at once. -/
def State.beginFill (s : State) (w t : Nat) (mark : Bool) : State :=
  let x := s.watch w
  let s1 := (s.setWatch w { x with taken := 0, tags := [], filledAt := if x.pre = 0 ∧ mark then some t else none, cap := none, done := false, mark := !mark }).wr
    (R.WT_w_STATUS_STATE w) (if x.pre = 0 then 2 else 1)
  let s2 := s1.wr (R.WT_w_FILL_TAKEN w) 0
  if mark then s2.whStore (s2.watchReq w) (s2.captureSlot w + 8) (leBytes 8 (2 ^ 64 - 1)) else s2

/-- The bytes of a capture entry (Table 11.5). -/
def captureEntry (p : WatchSample) : List Byte :=
  leBytes 8 (p.at_ / 256) ++ leInt 4 (lostZero p.tag p.value) ++ leBytes 1 (p.at_ % 256) ++ leBytes 1 p.tag ++ leBytes 1 p.range ++ leBytes 1 p.qual

/-- The header of a complete capture but for SEQ, then SEQ (R309, R310): the counters and status bits move (Table 11.10). -/
def State.captureHeader (s : State) (w : Nat) (c : Capture) : State :=
  let x := s.watch w
  let q := s.watchSeq w
  let a := s.captureSlot w
  let rest := leBytes 8 s.deviceId ++ leBytes 4 x.handle ++ leBytes 4 x.source ++ leInt 4 c.level ++ leBytes 4 c.hyst ++ leBytes 4 x.pre ++
    leBytes 4 x.post ++ leBytes 4 c.first ++ leBytes 1 (c.at_ % 256) ++ leBytes 1 c.flags ++ leBytes 2 c.posf ++ leBytes 1 (orTags x.tags) ++
    leBytes 1 x.kind ++ leBytes 1 x.edge ++ leBytes 1 x.mode ++ leBytes 4 0
  let s1 := ((s.whStore (s.watchReq w) a (leBytes 8 (c.at_ / 256))).whStore (s.watchReq w) (a + 16) rest).whStore (s.watchReq w) (a + 8) (leBytes 8 q)
  let s2 := ((s1.wrPair (R.WT_w_SEQ_LO_SEQ_LO w) (R.WT_w_SEQ_HI_SEQ_HI w) (q + 1)).wrBit R.WT_STATUS_CAPTURED w true).wr (R.WT_w_STATUS_CAPTURED w) 1
  let s3 := if bit c.flags 0 then (s2.inc (R.WT_w_FORCE_CNT_COUNT w)).wr (R.WT_w_STATUS_FORCED w) 1 else s2
  s3.setWatch w { (s3.watch w) with cap := none, done := false }

/-- The capture of slot `w` is closed once all its post samples are taken: its header is written, and fill begins with the next sample, or
the watch is DONE in SINGLE mode (R306, R311). -/
def State.finishCapture (s : State) (w : Nat) : State :=
  let x := s.watch w
  match x.cap with
  | none => s
  | some c =>
    if x.done then
      let s1 := s.captureHeader w c
      if x.mode = 1 then s1.wr (R.WT_w_STATUS_STATE w) 4
      else s1.beginFill w c.last false
    else s

/-- R311: the header of a complete capture is written; nothing while none is complete. -/
def execCaptureHeaderWrite (w : Fin 32) (s : State) : Res := s.live fun s => goOn (s.finishCapture w)

/-- Whether a side fires at a sample (R303): it is armed and its pair crosses the level. -/
structure Crossing where
  rise : Bool
  fall : Bool
  armRise : Bool
  armFall : Bool

/-- The arming of both sides by a sample and the crossing of its pair (R303), for the sides that EDGE selects; a sample first arms, then
fires. -/
def Watch.cross (x : Watch) (up down : Bool) (p : WatchSample) : Crossing :=
  if hasTag p.tag tagLost then ⟨false, false, up, down⟩
  else
    let l := x.level
    let h : Int := x.hyst
    let up1 := up || (x.edge != 1 && decide (p.value ≤ l - h))
    let down1 := down || (x.edge != 0 && decide (l + h ≤ p.value))
    let prev := if p.gap then none else x.prev
    let rise := match prev with | some (v, _) => up1 && decide (v < l ∧ l ≤ p.value) | none => false
    let fall := match prev with | some (v, _) => down1 && decide (l < v ∧ p.value ≤ l) | none => false
    ⟨rise, fall, up1 && !rise, down1 && !fall⟩

/-- POSF and the trigger instant of a firing pair (R304). -/
def placeCrossing (level v0 v1 : Int) (t0 t1 : Nat) : Nat × Nat :=
  let f : Rat := ((level - v0 : Int) : Rat) / ((v1 - v0 : Int) : Rat)
  let posf := max 1 (min 256 (roundHalf (256 * f)).toNat)
  (posf, t0 + (roundHalf ((posf : Rat) / 256 * ((t1 : Rat) - t0))).toNat)

/-- A pre-trigger sample enters the slot (R309). -/
def State.preSample (s : State) (w : Nat) (p : WatchSample) : State :=
  let x := s.watch w
  if x.pre = 0 then s
  else
    let s1 := s.whStore (s.watchReq w) (s.captureSlot w + 64 + 16 * (x.taken % x.pre)) (captureEntry p)
    let full := decide (x.pre ≤ x.taken + 1)
    let y : Watch := { x with taken := x.taken + 1, tags := (p.tag :: x.tags).take x.pre
                              filledAt := if full && x.filledAt.isNone then some p.at_ else x.filledAt }
    let s2 := (s1.setWatch w y).wr (R.WT_w_FILL_TAKEN w) (min (x.taken + 1) x.pre)
    if full then s2.wr (R.WT_w_STATUS_STATE w) 2 else s2

/-- A post sample enters the slot; with the last one the capture is complete (R309). -/
def State.postSample (s : State) (w : Nat) (p : WatchSample) (c : Capture) : State :=
  let x := s.watch w
  let s1 := s.whStore (s.watchReq w) (s.captureSlot w + 64 + 16 * (x.pre + c.post)) (captureEntry p)
  (s1.setWatch w { x with tags := p.tag :: x.tags, cap := some { c with post := c.post + 1, last := p.at_ }, done := x.post == c.post + 1 }).wr
    (R.WT_w_FILL_TAKEN w) (c.post + 1)

/-- A capture begins at the trigger sample (R304, R307): the trigger instant shows in the registers. -/
def State.trigger (s : State) (w : Nat) (p : WatchSample) (at_ posf flags : Nat) : State :=
  let x := s.watch w
  let c : Capture := { at_ := at_, posf := posf, flags := flags, level := x.level, hyst := x.hyst, first := if x.pre = 0 then 0 else x.taken % x.pre }
  let s1 := ((s.wrPair (R.WT_w_TRIG_LO_TIME_LO w) (R.WT_w_TRIG_HI_TIME_HI w) (at_ / 256)).wr (R.WT_w_TRIG_FRAC_FRAC w) (at_ % 256)).wr
    (R.WT_w_STATUS_STATE w) 3
  (s1.setWatch w { x with force := false }).postSample w p c

/-- R303 to R309: a watch takes a sample. -/
def State.takeSample (s0 : State) (w : Nat) (p : WatchSample) : State :=
  let s := s0.finishCapture w
  let x0 := s.watch w
  let s1 := if x0.mark ∧ s.watchState w ≠ 4 then (s.setWatch w { x0 with mark := false, filledAt := if x0.pre = 0 then some p.at_ else x0.filledAt }).whStore (s.watchReq w) (s.captureSlot w + 8) (leBytes 8 (2 ^ 64 - 1)) else s
  let x := s1.watch w
  let st := s1.watchState w
  let cr := x.cross (s1.on (R.WT_w_STATUS_ARM_RISE w)) (s1.on (R.WT_w_STATUS_ARM_FALL w)) p
  let y : Watch := { x with prev := if hasTag p.tag tagLost then none else some (p.value, p.at_) }
  let s2 := (((s1.setWatch w y).wrB (R.WT_w_STATUS_ARM_RISE w) cr.armRise).wrB (R.WT_w_STATUS_ARM_FALL w) cr.armFall).wr
    (R.WT_w_VALUE_VALUE w) (ofSigned 32 p.value)
  let fires := cr.rise || cr.fall
  let due := match x.filledAt with
    | some t => x.mode == 2 && decide (t + 256 * 1000000 * x.tmo ≤ p.at_)
    | none => false
  if st = 2 then
    if fires then
      let v := x.prev.getD (0, 0)
      let c := placeCrossing x.level v.1 p.value v.2 p.at_
      s2.trigger w p c.2 c.1 (8 * flag cr.rise + 16 * flag cr.fall)
    else if x.force || due then s2.trigger w p p.at_ 256 (1 + 2 * flag x.force)
    else s2.preSample w p
  else
    let s3 := if fires then (s2.inc (R.WT_w_IGN_CNT_COUNT w)).wr (R.WT_w_STATUS_IGNORED w) 1 else s2
    if st = 1 then s3.preSample w p
    else if st = 3 then (match x.cap with | some c => s3.postSample w p c | none => s3)
    else s3

/-- R302, R303: the next sample that the watch's source gave is taken; nothing while there is none. -/
def execWatchSampleTake (w : Fin 32) (s : State) : Res := s.live fun s =>
  let x := s.watch w
  match x.inbox with
  | [] => goOn s
  | p :: rest => goOn ((s.setWatch w { x with inbox := rest }).takeSample w p)

/-- R307: FORCE waits for a sample; it is discarded in POST and DONE, and by a slot that holds no watch. -/
def execWatchForce (w : Fin 32) (s : State) : Res := s.live fun s =>
  let x := s.watch w
  if x.handle = 0 ∨ 3 ≤ s.watchState w then goOn s else goOn (s.setWatch w { x with force := true })

/-- A write waits to land in the watch of slot `w`. -/
def State.watchWait (s : State) (w : Nat) (c : Change) : State := (s.accept c).wr (R.WT_w_STATUS_PENDING w) 1

/-- R308: REARM waits to land; it is discarded unless the watch is DONE. -/
def execWatchRearm (w : Fin 32) (s : State) : Res := s.live fun s =>
  if (s.watch w).handle ≠ 0 ∧ s.watchState w = 4 then goOn (s.watchWait w (.watchRearm w)) else goOn s

/-- R308: a limit waits to land. -/
def execWatchLimitWrite (w : Fin 32) (hyst : Bool) (value : Word) (s : State) : Res := s.live fun s =>
  if (s.watch w).handle = 0 then goOn s
  else
    let v := if hyst then low 31 value.toNat else value.toNat
    goOn ((s.wr (if hyst then R.WT_w_HYST_HYST w else R.WT_w_LEVEL_LEVEL w) v).watchWait w (.watchLimit w hyst v))

/-- A waiting change is one of watch `w`. -/
def watchChange (w : Nat) : Change → Bool
  | .watchLimit v _ _ => v == w
  | .watchRearm v => v == w
  | _ => false

/-- PENDING clears when no write waits. -/
def State.watchPending (s : State) (w : Nat) : State := s.wrB (R.WT_w_STATUS_PENDING w) (s.waits (watchChange w))

/-- R308: a limit lands. -/
def State.landWatchLimit (s : State) (w : Nat) (hyst : Bool) (v : Nat) : State :=
  let x := s.watch w
  if x.handle = 0 then s
  else (s.setWatch w (if hyst then { x with hyst := v } else { x with level := toSigned 32 v })).watchPending w

/-- R308: a REARM lands at boundary `b`. -/
def State.landWatchRearm (s : State) (w b : Nat) : State :=
  if (s.watch w).handle ≠ 0 ∧ s.watchState w = 4 then (s.beginFill w (256 * b) true).watchPending w else s.watchPending w

/-- A watch's parameter words (Table 11.1). -/
structure WatchParams where
  expert : Bool
  source : Nat
  kind : Nat
  sel : Nat
  edge : Nat
  mode : Nat
  tmo : Nat
  level : Int
  hyst : Nat
  pre : Nat
  post : Nat
  ncap : Nat
  deriving DecidableEq, Repr

/-- Reads the words of Table 11.1. -/
def watchParams (w : List Nat) : WatchParams :=
  let x := fun i => w.getD i 0
  { expert := bit (x 0) 8, source := x 1, kind := bits (x 2) 28 4, sel := bits (x 2) 0 20, edge := bits (x 3) 24 2, mode := bits (x 3) 20 2
    tmo := bits (x 3) 0 16, level := toSigned 32 (x 4), hyst := bits (x 5) 0 31, pre := bits (x 6) 0 20, post := bits (x 7) 0 21, ncap := bits (x 8) 0 11 }

/-- SEL and SOURCE lie in Table 11.2; `count` is the number of berth points of a DAS source. -/
def WatchParams.sourceOk (p : WatchParams) (count : Nat) : Bool :=
  if p.kind = 1 then decide (p.sel < count) && !neverIssued p.source
  else if p.kind = 2 then
    (decide (36 ≤ p.sel ∧ p.sel ≤ 52) || decide (80 ≤ p.sel ∧ p.sel ≤ 108)) && p.sel % 4 == 0 && p.sel != 88 && !neverIssued p.source
  else if p.kind = 3 then p.sel == 0 && decide (p.source < 16)
  else if p.kind = 4 then decide (p.sel ≤ 4) && decide (p.source < 128)
  else false

/-- Condition 1 of Table 11.3. -/
def watchFieldsOk (w : List Nat) (p : WatchParams) (count : Nat) : Bool :=
  onlyBits (w.getD 0 0) [(16, 8), (8, 1)] && onlyBits (w.getD 2 0) [(28, 4), (0, 20)] && onlyBits (w.getD 3 0) [(24, 2), (20, 2), (0, 16)] &&
  onlyBits (w.getD 5 0) [(0, 31)] && onlyBits (w.getD 6 0) [(0, 20)] && onlyBits (w.getD 7 0) [(0, 21)] && onlyBits (w.getD 8 0) [(0, 11)] &&
  p.sourceOk count && decide (p.edge ≤ 2) && decide (p.mode ≤ 2) && decide (1 ≤ p.tmo) && decide (p.pre ≤ 1048560) &&
  decide (1 ≤ p.post ∧ p.post ≤ 1048576) && decide (16 ≤ p.pre + p.post ∧ p.pre + p.post ≤ 1048576) && isPow2 p.ncap && decide (p.ncap ≤ 1024)

/-- f_s as a fraction per ns (R314, Table 11.8a). -/
def State.watchRate (s : State) (p : WatchParams) : Nat × Nat :=
  let i := bits p.source 0 12
  if p.kind = 1 then
    let d := s.dasOf i
    (2 ^ 38, 2 ^ d.h * d.inc * d.tin)
  else if p.kind = 2 then (1, (flowParams (s.berth i).params).blk * 250000000)
  else if p.kind = 3 then
    match s.willBe.find? (fun e => e.2.kind == 5 && bits (e.2.params.getD 0 0) 0 4 == p.source) with
    | some e => (66, [1, 2, 5, 10].getD (bits (e.2.params.getD 1 0) 6 2) 1 * 1000000000)
    | none => (66, 1000000000)
  else if p.sel = 4 then (1, 131072) else (1, 500)

/-- The cost vector of Table 11.8, each entry rounded up. -/
def watchCost (p : WatchParams) (f : Nat × Nat) : List Nat :=
  let l := p.pre + p.post
  let src := if p.kind ≤ 2 then 128 else 0
  costVec [(13, ceilDiv ((16 * l + 64) * 5120 * f.1) (l * f.2)), (14, ceilDiv (((src + 16) * l + 64) * 5120 * f.1) (l * f.2))]

/-- R301: the refusals of Table 11.3. -/
def State.judgeWatch (s : State) (w0 : List Nat) : Verdict :=
  let r := s.withProfile 6 w0 [3, 4, 5, 6, 7, 8]
  let p := watchParams r.1
  let b := s.berth (bits p.source 0 12)
  let known := b.handle == p.source && b.kind == 1
  let f := s.watchRate p
  let cost := watchCost p f
  let declared := declaredCost r.1 9
  let c := s.inputConds p.source (fun b => b.kind == p.kind && !(b.kind == 2 && (flowParams b.params).mode == 1))
  let src := if p.kind ≤ 2 then c.1 :: c.2 else []
  let len := p.ncap * slotBytes p.pre p.post
  s.withBudget (judge
    ([(r.2 || !watchFieldsOk r.1 p (if known then (dasParams b.params).count else 2 ^ 20), stRange)] ++ src ++
     [(p.kind == 1 && decide (f.2 < 500 * f.1), stRange), (decide (32 ≤ (s.willBe.filter (fun e => e.2.kind == 6)).length), stRange),
      (!s.ringFits 2 len, stRange), (p.expert && declaredBelow declared cost, stRange)])
    { params := r.1, cost := if p.expert then declared else cost, inputs := if p.kind ≤ 2 then [p.source] else []
      slot := s.freeSlot 6 32, rings := [(2, len)] })

/-- The opening of a watch lands at boundary `b`: its registers take its values and fill begins (R305, R315). -/
def State.landWatch (s : State) (i b : Nat) : State :=
  let t := s.berth i
  let p := watchParams t.params
  let w := t.slot
  let ring := t.keep.headD 0
  let s1 := s.resetRegs (0x901000 + 0x100 * w) (0x901100 + 0x100 * w)
  let s2 := ((((((s1.wr (R.WT_w_HANDLE_HANDLE w) t.handle).wr (R.WT_w_CFG_SRC_KIND w) p.kind).wr (R.WT_w_CFG_EDGE w) p.edge).wr (R.WT_w_CFG_MODE w) p.mode).wr
    (R.WT_w_CFG_SEL w) p.sel).wr (R.WT_w_SOURCE_SOURCE w) p.source).wr (R.WT_w_LEVEL_LEVEL w) (ofSigned 32 p.level)
  let s3 := (((s2.wr (R.WT_w_HYST_HYST w) p.hyst).wrPair (R.WT_w_RING_LO_ADDR_LO w) (R.WT_w_RING_HI_ADDR_HI w) ring).wr (R.WT_w_SLOTS_NCAP w) p.ncap).wr
    (R.WT_w_SLOT_BYTES_BYTES w) (slotBytes p.pre p.post)
  let x : Watch := { handle := t.handle, kind := p.kind, source := p.source, sel := p.sel, edge := p.edge, mode := p.mode, tmo := p.tmo, pre := p.pre
                     post := p.post, slots := p.ncap, ring := ring, level := p.level, hyst := p.hyst }
  ((s3.setWatch w x).wr R.WT_WATCHES_COUNT (s.rd R.WT_WATCHES_COUNT + 1)).beginFill w (256 * b) true

/-- Post entries that were not taken hold STAMP 0, VALUE 0 and LOST (R312). -/
def State.padCapture (s : State) (w : Nat) (c : Capture) : Nat → State
  | 0 => s
  | n + 1 =>
    let x := s.watch w
    (s.padCapture w c n).whStore (s.watchReq w) (s.captureSlot w + 64 + 16 * (x.pre + c.post + n)) (captureEntry ⟨0, 0, tagLost, 0, 0, false⟩)

/-- The close of a watch lands (R312): a capture in its post part completes with SHORT, and the registers but SEQ and RING read 0. -/
def State.closeWatch (s : State) (i : Nat) : State :=
  let w := (s.berth i).slot
  let x := s.watch w
  let s1 := match x.cap with
    | none => s
    | some c =>
      if x.done then s.captureHeader w c
      else
        let t := s.padCapture w c (x.post - c.post)
        (t.setWatch w { (t.watch w) with tags := tagLost :: x.tags }).captureHeader w { c with flags := c.flags + 4 }
  let q := s1.watchSeq w
  let ring := s1.rdPair (R.WT_w_RING_LO_ADDR_LO w) (R.WT_w_RING_HI_ADDR_HI w)
  let s2 := s1.resetRegs (0x901000 + 0x100 * w) (0x901100 + 0x100 * w)
  let s3 := (s2.wrPair (R.WT_w_SEQ_LO_SEQ_LO w) (R.WT_w_SEQ_HI_SEQ_HI w) q).wrPair (R.WT_w_RING_LO_ADDR_LO w) (R.WT_w_RING_HI_ADDR_HI w) ring
  (((s3.setWatch w {}).wr R.WT_WATCHES_COUNT (s.rd R.WT_WATCHES_COUNT - 1)).dropWaiting (watchChange w)).closeSlot 6 w

end Sys2Proof.Machine
end

