-- ==== Sys2Proof/Machine/Streams.lean ====
section
/-! DEFINITION. Chapter 14: capture streams, from their opening to their crates, and the export of crates (R380 to R383, R400, R401). -/

namespace Sys2Proof.Machine

/-- The capture stream at a berth index. -/
def State.stream (s : State) (b : Nat) : Stream := Tab.get {} s.streams b

/-- Sets a capture stream. -/
def State.setStream (s : State) (b : Nat) (x : Stream) : State := { s with streams := Tab.put {} s.streams b x }

/-- A capture stream's parameter words (Table 14.7). -/
structure StreamParams where
  expert : Bool
  source : Nat
  tables : Nat
  level : Nat
  size : Nat
  pre : Nat
  width : Nat
  stride : Nat
  maxWait : Nat
  recs : Nat
  deriving DecidableEq, Repr

/-- Reads the words of Table 14.7. -/
def streamParams (w : List Nat) : StreamParams :=
  let x := fun i => w.getD i 0
  { expert := bit (x 0) 8, source := x 1, tables := bits (x 2) 30 2, level := bits (x 2) 28 2, size := [4096, 16384, 32768, 65536].getD (bits (x 2) 26 2) 0
    pre := bits (x 2) 24 2, width := bits (x 2) 20 2, stride := bits (x 2) 0 14, maxWait := bits (x 3) 16 16, recs := 2 ^ bits (x 3) 0 5 }

/-- The fields of Table 14.7 lie in their ranges. -/
def streamFieldsOk (w : List Nat) (p : StreamParams) : Bool :=
  onlyBits (w.getD 0 0) [(16, 8), (8, 1)] && onlyBits (w.getD 2 0) [(30, 2), (28, 2), (26, 2), (24, 2), (20, 2), (0, 14)] &&
  onlyBits (w.getD 3 0) [(16, 16), (0, 5)] && p.tables != 3 && p.width != 3 && (p.pre % 2 == 0 || p.stride != 0) && decide (1 ≤ p.maxWait) &&
  decide (2 ^ 4 ≤ p.recs ∧ p.recs ≤ 2 ^ 16) && !neverIssued p.source && decide (bits p.source 28 4 ≤ 6)

/-- The ring of a source (R381, Table 14.8a): address, bytes of a unit and of its slot, slots, and the SEQ of the next unit. -/
structure UnitRing where
  base : Nat
  size : Nat
  depth : Nat
  next : Nat
  deriving DecidableEq, Repr

/-- The ring of the berth at an index. -/
def State.unitRing (s : State) (i : Nat) : UnitRing :=
  let b := s.berth i
  if b.kind = 1 then
    let p := dasParams b.params
    ⟨(s.dasOf i).ring, rowBytes p.count p.fmt, p.outRows, s.rdPair (R.RX_BT_i_SEQ_LO_SEQ_LO i) (R.RX_BT_i_SEQ_HI_SEQ_HI i)⟩
  else if b.kind = 2 then ⟨(s.flowOf i).ring, 128, (flowParams b.params).outRecs, (s.flowOf i).seq⟩
  else if b.kind = 3 then
    let p := ramanParams b.params
    let x := Tab.get {} s.raman i
    ⟨x.ring, p.recb, p.outRecs, x.seq⟩
  else if b.kind = 4 then
    let p := rangeParams b.params
    let q := s.port p.port
    ⟨(Tab.get {} s.ranging i).ring, rangeRecb (rangeNl (s.portPlan p.port) p), p.outRecs, match q.ended with
      | e :: _ => e.num
      | [] => q.info.num⟩
  else if b.kind = 5 then
    let x := Tab.get {} s.sounding i
    ⟨x.ring, 32, b.params.getD 12 1, x.seq⟩
  else
    let x := s.watch b.slot
    ⟨x.ring, slotBytes x.pre x.post, x.slots, s.watchSeq b.slot⟩

/-- U of R383 as a fraction: unit bytes per tide of the berth at an index. -/
def State.unitRate (s : State) (i : Nat) : Nat × Nat :=
  let b := s.berth i
  let u := (s.unitRing i).size
  if b.kind = 1 then
    let d := s.dasOf i
    (u * 131072 * 2 ^ 38, 2 ^ d.h * d.inc * d.tin)
  else if b.kind = 2 then (u * 131072, (flowParams b.params).blk * 250000000)
  else if b.kind = 3 then (u, (ramanParams b.params).frames * (s.ramanOf (bits (b.params.getD 0 0) 0 3)).hframe)
  else if b.kind = 4 then (u, (rangeParams b.params).hframe)
  else if b.kind = 5 then (u * 131072 * 66, nplcCycles (cfgNplc (b.params.getD 1 0)) * 1000000000)
  else
    let p := watchParams b.params
    let f := s.watchRate p
    (u * 131072 * f.1, (p.pre + p.post) * f.2)

/-- C_in (R382): the input bytes of a full crate of units of `u` bytes. -/
def fullCrate (size u : Nat) : Nat := if u = 0 ∨ size < u then size else size / u * u

/-- The cost vector of Table 14.8, each entry rounded up. -/
def streamCost (p : StreamParams) (u : Nat × Nat) (cin : Nat) : List Nat :=
  let x := if p.tables = 1 then 2048 else 0
  let passes := if p.pre = 0 then 0 else if p.pre = 3 then 2 else 1
  costVec [(17, ceilDiv (u.1 * (8 * (1024 + x + cin * (p.level + 1)) + passes * cin)) (8 * cin * u.2)),
    (13, ceilDiv (u.1 * (cin + 72) * 10) (256 * cin * u.2)), (14, ceilDiv (u.1 * (2 * cin + 72) * 10) (256 * cin * u.2))]

/-- R380: the verdict on a berth.open of kind 8. -/
def State.judgeStream (s : State) (w0 : List Nat) : Verdict :=
  let r := s.withProfile 8 w0 [2, 3]
  let p := streamParams r.1
  let i := bits p.source 0 12
  let known := (s.berth i).handle == p.source
  let u := if known then s.unitRate i else (0, 1)
  let cost := streamCost p u (fullCrate p.size (if known then (s.unitRing i).size else 1))
  let declared := declaredCost r.1 4
  let c := s.inputConds p.source (fun _ => true)
  let len := p.recs * (p.size + 128)
  s.withBudget (judge
    ([(r.2 || !streamFieldsOk r.1 p, stRange), c.1] ++ c.2 ++ [(!s.ringFits 2 len, stRange), (p.expert && declaredBelow declared cost, stRange)])
    { params := r.1, cost := if p.expert then declared else cost, inputs := [p.source], rings := [(2, len)] })

/-- The opening of a stream lands: it takes the units that its source writes from here on. -/
def State.landStream (s : State) (i : Nat) : State :=
  let t := s.berth i
  s.setStream i { ring := t.keep.headD 0, next := (s.unitRing (bits (streamParams t.params).source 0 12)).next }

/-- The close of a stream lands: it writes no further crate. -/
def State.closeStream (s : State) (i : Nat) : State := s.setStream i {}

/-- The crate takes the first bytes of what waits; it is due at once when full (R381). -/
def Stream.refill (x : Stream) (size now : Nat) : Stream :=
  let part := x.beyond.take size
  { x with buf := part, beyond := x.beyond.drop size, stamp := x.overStamp, first := x.overSeq, units := 1, gap := x.skipped, skipped := 0, since := now
           due := part.length == size }

/-- A unit joins the crate, or waits for the next one (R381). -/
def Stream.take (x : Stream) (size now stamp seq : Nat) (u : List Byte) : Stream :=
  let y := { x with next := x.next + 1 }
  if x.buf.isEmpty then { y with beyond := u, overStamp := stamp, overSeq := seq }.refill size now
  else if x.buf.length + u.length ≤ size then
    { y with buf := x.buf ++ u, units := x.units + 1, due := x.buf.length + u.length == size }
  else { y with beyond := u, overStamp := stamp, overSeq := seq, due := true }

/-- R381: the stream reads its next unit once the source has written it; one that was overwritten, or whose copy fails its check (R481), is
skipped and counted. Nothing is read while a crate waits to be closed. -/
def execCaptureUnitRead (b : Fin 4096) (luck : WhLuck) (s : State) : Res := s.live fun s =>
  let t := s.berth b
  let x := s.stream b
  let p := streamParams t.params
  let i := bits p.source 0 12
  let r := s.unitRing i
  if !t.isOpen ∨ t.kind ≠ 8 ∨ x.due ∨ (s.berth i).handle ≠ p.source ∨ r.next ≤ x.next then goOn s
  else
    let d := s.whRead { owner := some b, cls := 1 } (r.base + r.size * (x.next % r.depth)) r.size true luck
    let bytes := d.2.2
    if x.next + r.depth < r.next ∨ d.2.1 ≠ .ok ∨ leNat ((bytes.drop 8).take 8) ≠ x.next then
      goOn ((d.1.setStream b { x with next := x.next + 1, skipped := x.skipped + 1 }).inc R.PK_GAP_CNT_COUNT)
    else goOn (d.1.setStream b (x.take p.size s.now (leNat (bytes.take 8)) x.next bytes))

/-- The UDP datagrams of a crate slot (R400): offset order, up to 1,408 bytes each. -/
def exportParts (handle seq : Nat) (slot : List Byte) : Nat → Nat → List (List Byte)
  | 0, _ => []
  | k + 1, off =>
    let part := (slot.drop off).take 1408
    if part.isEmpty then []
    else (leBytes 2 0x5845 ++ leBytes 2 0 ++ leBytes 4 handle ++ leBytes 8 seq ++ leBytes 4 off ++ leBytes 4 part.length ++ part) ::
      exportParts handle seq slot k (off + 1408)

/-- R400: an enabled slot that names the stream sends a completed crate slot. -/
def State.exportCrate (s : State) (handle seq : Nat) (slot : List Byte) (k : Nat) : State :=
  let n := s.rd (R.NT_EXP_k_CFG_PORT k)
  let udp : Udp := { src := s.rd (R.NT_EXP_k_SPORT_SPORT k), dst := s.rd (R.NT_EXP_k_CFG_DPORT k)
                     addr := (List.range 4).map (fun j => s.rd (R.NT_EXP_k_ADDR_j_ADDR k j)) }
  if s.on (R.NT_EXP_k_CFG_EN k) ∧ s.rd (R.NT_EXP_k_HANDLE_HANDLE k) = handle ∧ s.on (R.NT_n_CFG_EN n) ∧ s.powered 23 ∧ s.ipOn n (addrVersion udp.addr) then
    let parts := exportParts handle seq slot (slot.length / 1408 + 1) 0
    -- 90 bytes of framing about an IPv6 datagram with a tag (R401), of which the export header is part of `d`
    let line := (parts.map (fun d => d.length + 90)).sum
    ((parts.foldl (fun (t : State) d => t.netSend .exported n d (some udp)) s).chargeTo 19 (bits handle 0 12) (ceilDiv (100 * line) 125)).inc
      (R.NT_EXP_k_SENT_COUNT k)
  else s

/-- The engine cycles of a crate of `n` input bytes (Table 14.8). -/
def packCycles (p : StreamParams) (n : Nat) : Nat :=
  1024 + (if p.tables = 1 then 2048 else 0) + n * (p.level + 1) + ceilDiv ((p.pre % 2 + p.pre / 2) * n) 8

/-- R381: the crate that is due is packed and written to its slot, SEQ last, exported, and the next one begins. -/
def execCrateClose (b : Fin 4096) (s : State) : Res := s.live fun s =>
  let t := s.berth b
  let x := s.stream b
  let p := streamParams t.params
  if !t.isOpen ∨ t.kind ≠ 8 ∨ !x.due then goOn s
  else
    let w := 2 ^ p.width
    let syms := crateSyms p.tables p.level (precode p.pre w p.stride x.buf)
    let bs := syms.flatMap Prod.fst
    let crate := crateBytes p.pre w p.stride x.buf (bytesOf (ceilDiv bs.length 8) bs)
    let a := x.ring + (p.size + 128) * (x.seq % p.recs)
    let h1 := leBytes 8 x.stamp
    let h2 := leBytes 8 x.first ++ leBytes 2 x.units ++ leBytes 2 x.gap ++ leBytes 4 t.handle
    let req : WhReq := { owner := some b }
    let s0 := s.chargeTo 17 b (packCycles p x.buf.length)
    let s1 := ((s0.whStore req a h1).whStore req (a + 16) (h2 ++ crate)).whStore req (a + 8) (leBytes 8 x.seq)
    let s2 := (List.range 8).foldl (fun (u : State) k => u.exportCrate t.handle x.seq (h1 ++ leBytes 8 x.seq ++ h2 ++ crate) k) s1
    let y := { x with seq := x.seq + 1, buf := [], units := 0, due := false }
    goOn (s2.setStream b (if x.beyond.isEmpty then y else y.refill p.size s.now))

/-- R381 at a boundary: a crate that has held its first unit for MAXWAIT tides is due. -/
def State.streamBoundary (s : State) : State :=
  s.streams.foldl (fun (t : State) e =>
    let p := streamParams (t.berth e.1).params
    if !e.2.buf.isEmpty ∧ e.2.since + 131072 * p.maxWait ≤ t.now then t.setStream e.1 { e.2 with due := true } else t) s

/-- The egress entry of an export of the stream with a handle (R401). -/
def State.exportEntry (s : State) (h : Nat) : Nat :=
  let t := s.berth (bits h 0 12)
  let p := streamParams t.params
  let i := bits p.source 0 12
  let u := s.unitRate i
  let cin := fullCrate p.size (s.unitRing i).size
  let b := cin + 104
  ceilDiv ((b + 114 * ceilDiv b 1408) * u.1 * 100) (125 * cin * u.2)

/-- Adds to entry 19 of a berth's cost vector, or takes from it. -/
def Berth.egress (t : Berth) (add sub : Nat) : Berth := { t with cost := setNth 20 t.cost 19 (vecAt t.cost 19 + add - sub) }

/-- An export slot stops: its entry leaves the stream's cost vector. -/
def State.dropExport (s : State) (k : Nat) : State :=
  let e := Tab.get (0, 0) s.exportCost k
  let i := bits e.1 0 12
  let s1 := if (s.berth i).handle = e.1 ∧ (s.berth i).isOpen then s.setBerth i ((s.berth i).egress 0 e.2) else s
  (({ s1 with exportCost := Tab.put (0, 0) s1.exportCost k (0, 0), exportDue := Tab.put (0, 0) s1.exportDue k (0, 0) } : State).wr (R.NT_EXP_k_CFG_EN k) 0).dropWaiting (fun c => decide (c = Change.exportSlot k))

/-- R401 at the landing: the entry joins the stream's cost vector and EN is 1; when it does not fit beside what is allocated now, after the
changes accepted before it (R38, R43), or the slot names no open stream, EN reads 0 and EXP_REFUSED sets. -/
def State.landExport (s0 : State) (k : Nat) : State :=
  let s : State := { s0 with exportDue := Tab.put (0, 0) s0.exportDue k (0, 0) }
  let h := s.rd (R.NT_EXP_k_HANDLE_HANDLE k)
  let i := bits h 0 12
  let t := s.berth i
  let c := s.exportEntry h
  if t.handle = h ∧ t.kind = 8 ∧ t.isOpen ∧ (s.openBerths.map (fun j => vecAt (s.berth j).cost 19)).sum + c ≤ s.budget 19 then
    ({ (s.setBerth i (t.egress c 0)) with exportCost := Tab.put (0, 0) s.exportCost k (h, c) } : State).wr (R.NT_EXP_k_CFG_EN k) 1
  else (s.wr (R.NT_EXP_k_CFG_EN k) 0).wr (R.NT_EXP_k_CFG_EXP_REFUSED k) 1

/-- A write of NT_EXP_k_CFG: EN = 1 waits to land, EN = 0 stops the slot at once, the other fields take their values (R401). -/
def State.exportCfg (s : State) (k v hw : Nat) : State :=
  let s0 := ((s.wr (R.NT_EXP_k_CFG_PORT k) (bits v 29 1)).wr (R.NT_EXP_k_CFG_DPORT k) (bits v 0 16)).wr (R.NT_EXP_k_CFG_EXP_REFUSED k)
    (if bit v 30 then bits hw 30 1 else s.rd (R.NT_EXP_k_CFG_EXP_REFUSED k))
  if !bit v 31 then s0.dropExport k
  else if s.on (R.NT_EXP_k_CFG_EN k) ∨ s.waits (fun c => decide (c = Change.exportSlot k)) then s0
  else
    let h := s0.rd (R.NT_EXP_k_HANDLE_HANDLE k)
    ({ s0 with exportDue := Tab.put (0, 0) s0.exportDue k (h, s0.exportEntry h) } : State).accept (.exportSlot k)

/-- R401: a write of EN = 1 to an export slot, with the slot's port and destination port. -/
def execExportEnableWrite (k : Fin 8) (port : Fin 2) (dport : BitVec 16) (s : State) : Res := s.live fun s => s.whenOn 23 (fun s =>
  goOn (s.exportCfg k (2 ^ 31 + 2 ^ 29 * port.val + dport.toNat) 0))

end Sys2Proof.Machine
end

