-- ==== Sys2Proof/Machine/Mailbox.lean ====
section
/-! DEFINITION. Chapter 15: the mailbox: entries and replies, and the commands of Table 15.5 (R391 to R395, R482). -/

namespace Sys2Proof.Machine

/-- Where entry `i` of the ring at `base` lies in the Shed (R391). -/
def mailAt (base i : Nat) : Nat := (base + 512 * i) % shedSize

/-- Replies that the host has not read (R392). -/
def State.unread (s : State) : Nat := (s.rd R.MB_RPL_TAIL_TAIL + 64 - s.rd R.MB_RPL_HEAD_HEAD) % 64

/-- The Harbourmaster takes the command at MB_CMD_HEAD (R392). -/
def State.mailReady (s : State) : Bool :=
  s.on R.MB_STATUS_FW_READY && s.rd R.MB_CMD_HEAD_HEAD != s.rd R.MB_CMD_TAIL_TAIL && decide (s.unread < 63)

/-- Where the entry at MB_CMD_HEAD lies. -/
def State.mailEntry (s : State) : Nat := mailAt (s.rd R.MB_CMD_BASE_OFFSET) (s.rd R.MB_CMD_HEAD_HEAD)

/-- A result: status, landing tide, result words. -/
structure MailAnswer where
  status : Nat
  land : Nat := 0
  words : List Nat := []
  deriving DecidableEq, Repr

/-- The reply to the command at MB_CMD_HEAD is written, and the command leaves its ring (R392, Table 15.4). -/
def State.mailReply (s : State) (tag cmd : Nat) (r : MailAnswer) : State :=
  let ws := r.words.take 124
  let body := leBytes 2 tag ++ leBytes 1 cmd ++ leBytes 1 r.status ++ leBytes 2 ws.length ++ leBytes 2 0 ++ leBytes 8 r.land ++ ws.flatMap (leBytes 4)
  let t := s.rd R.MB_RPL_TAIL_TAIL
  let s1 := s.shedWrite (mailAt (s.rd R.MB_RPL_BASE_OFFSET) t) body
  (((s1.wr R.MB_CMD_HEAD_HEAD (s.rd R.MB_CMD_HEAD_HEAD + 1)).wr R.MB_RPL_TAIL_TAIL (t + 1)).wr R.MB_STATUS_RPL 1).signal (s.rd R.MB_CFG_VEC)

/-- The command numbered `code` at MB_CMD_HEAD is taken, judged by version and length, run, and answered. -/
def State.mailTake (s : State) (code need : Nat) (run : State → List Nat → State × MailAnswer) : State :=
  let a := s.mailEntry
  let e := s.shedBytes a 512
  let narg := bodyNat e 4 2
  if !s.mailReady || s.shedFails a 512 || bodyNat e 2 1 != code then s
  else
    let tag := bodyNat e 0 2
    if code ≠ 1 ∧ s.mailboxVer = 0 then s.mailReply tag code { status := stVersion }
    else if narg < need ∨ 124 < narg then s.mailReply tag code { status := stRange }
    else
      let r := run s ((List.range narg).map (fun i => bodyNat e (16 + 4 * i) 4))
      r.1.mailReply tag code r.2

/-- A command that changes nothing. -/
def same (f : State → List Nat → MailAnswer) : State → List Nat → State × MailAnswer := fun s w => (s, f s w)

/-- R394, Table 15.7: hello. -/
def State.hello (s : State) (w : List Nat) : State × MailAnswer :=
  let lo := max (bits (w.getD 0 0) 0 8) (s.rd (R.HB_IF_i_MIN 0))
  let hi := min (bits (w.getD 0 0) 8 8) (s.rd (R.HB_IF_i_MAX 0))
  let v := if lo ≤ hi then hi else 0
  let s1 := s.setMailboxVer v
  (s1, { status := if v = 0 then stVersion else stOk
         words := v :: (List.range 5).map (fun i => s1.liveWord (0x2000 + 4 * i)) ++ [s1.rd R.MB_FW_VER_VERSION, s1.liveWord 0] })

/-- R392: hello. -/
def execHello (s : State) : Res := s.live fun s => goOn (s.mailTake 1 1 State.hello)

/-- Parameter words of a kind's block without and with its declared cost vector. -/
def blockLen (kind : Nat) (expert : Bool) : Nat := [0, 11, 84, 11, 14, 13, 9, 5, 4].getD kind 0 + (if expert then 20 else 0)

/-- EXPERT of a parameter block; a custody point has none. -/
def blockExpert (kind : Nat) (w : List Nat) : Bool := kind != 7 && bit (w.getD 0 0) 8

/-- The verdict of a kind on its parameter block. -/
def State.judgeKind (s : State) (kind : Nat) (w : List Nat) : Verdict :=
  if kind = 1 then s.judgeDas w else if kind = 2 then s.judgeFlow w else if kind = 3 then s.judgeRaman w else if kind = 4 then s.judgeRange w
  else if kind = 5 then s.judgeSounding w else if kind = 6 then s.judgeWatch w else if kind = 7 then s.judgePoint w else s.judgeStream w

/-- The rings as they will be allocated at the landing of a berth at index `i`: the index's old rings are released (R140), and so are the
tile rings of berths that will be closed. -/
def State.ringsLater (s : State) (i : Nat) : List Ring :=
  let will := s.willBe.map (fun e => e.2.handle)
  s.rings.filter (fun r => r.berth != i && (r.area != 1 || will.contains r.handle))

/-- The berth of an accepted open, with its rings placed, joins those that wait to land (R11, R36, R39). -/
def State.grantBerth (s : State) (kind i : Nat) (g : Grant) : State × Nat :=
  let gen := s.nextGen i
  let h := makeHandle kind gen i
  let s1 := if kind = 1 then s.beforeDas g else if kind = 2 then s.beforeFlow g else s
  let p := s1.placeRings i h g.rings
  let b : Berth := { handle := h, kind := kind, state := .pending, land := tideOf (landAt s.now), cost := g.cost, params := g.params
                     inputs := g.inputs.filter (· != 0), domains := g.domains, slot := g.slot, mem := g.mem, keep := p.2 ++ g.extra }
  let s2 : State := { p.1 with
    coming := Tab.put {} p.1.coming i b
    gens := Tab.put 0 p.1.gens i gen
    dasComing := if kind = 1 then Tab.put {} p.1.dasComing i (s.reserveDas g p.2)
                 else if kind = 2 then Tab.put {} p.1.dasComing i (s.reserveFlowDas g p.2) else p.1.dasComing
    flowComing := if kind = 2 then Tab.put {} p.1.flowComing i (s.reserveFlow g p.2) else p.1.flowComing }
  (s2.accept (.berthOpen i), h)

/-- R10, R11, R36 to R44, R57, R116, R393: berth.open. -/
def State.openBerth (s : State) (a : List Nat) : State × MailAnswer :=
  let kind := a.getD 0 0
  let w := a.drop 1
  let expert := blockExpert kind w
  let refuse := fun (st : Nat) (ws : List Nat) => (s, { status := st, words := ws : MailAnswer })
  if kind = 0 ∨ 8 < kind then refuse stRange []
  else if expert ∧ s.mailboxVer = 1 then refuse stVersion []
  else if w.length < blockLen kind expert then refuse stRange []
  else if s.rd R.HB_MF_STATUS_STATE = 1 ∨ s.rd R.HB_MF_STATUS_STATE = 2 then refuse stBusy []
  else match s.freeIndex with
    | none => refuse stRange []
    | some i =>
      let s1 : State := { s with rings := s.ringsLater i }
      match s1.judgeKind kind (w.take (blockLen kind expert)) with
      | .refuse st ws => refuse st ws
      | .grant g =>
        let r := s1.grantBerth kind i g
        (r.1, { status := stOk, land := tideOf (landAt s.now), words := [r.2] })

/-- R392: berth.open. -/
def execBerthOpen (s : State) : Res := s.live fun s => goOn (s.mailTake 0x10 1 State.openBerth)

/-- R10, R19, R39, R45, R477: berth.close. -/
def State.closeBerth (s : State) (a : List Nat) : State × MailAnswer :=
  let h := a.getD 0 0
  let i := bits h 0 12
  match s.judgeHandle h with
  | .never => (s, { status := stRange })
  | .stale => (s, { status := stStale })
  | .pending | .closing => (s, { status := stBusy })
  | .open =>
    if s.willBe.any (fun e => e.2.inputs.contains h) then (s, { status := stBusy })
    else
      let land := tideOf (landAt s.now)
      ((s.setBerth i { s.berth i with state := .closing, closeLand := land }).accept (.berthClose i), { status := stOk, land := land })

/-- R392: berth.close. -/
def execBerthClose (s : State) : Res := s.live fun s => goOn (s.mailTake 0x11 1 State.closeBerth)

/-- The state code of berth.query (Table 15.5). -/
def BerthState.code : BerthState → Nat
  | .pending => 0 | .open => 1 | .closing => 2 | .closed => 3

/-- A 64-bit result in two words. -/
def twoWords (v : Nat) : List Nat := [low 32 v, v / 2 ^ 32]

/-- The results of berth.query for a berth (Table 15.5). -/
def Berth.answer (b : Berth) : List Nat :=
  [b.state.code, b.kind] ++ twoWords b.land ++ (List.range 20).map (vecAt b.cost) ++ twoWords b.closeLand

/-- R10, R477: berth.query answers for the last berth issued at the index, and for one whose close has not landed. -/
def State.queryBerth (s : State) (a : List Nat) : MailAnswer :=
  let h := a.getD 0 0
  let i := bits h 0 12
  let c := Tab.get {} s.coming i
  let b := if c.handle = h then c else if c.handle = 0 ∨ (s.berth i).state = .closing then s.berth i else c
  if neverIssued h then { status := stRange }
  else if b.handle = h then { status := stOk, words := b.answer }
  else { status := stStale }

/-- R392: berth.query. -/
def execBerthQuery (s : State) : Res := s.live fun s => goOn (s.mailTake 0x12 1 (same State.queryBerth))

/-- Table 15.5: tide.query. -/
def State.queryTide (s : State) (_ : List Nat) : MailAnswer :=
  { status := stOk
    words := (List.range 20).map s.remain ++ (List.range 20).map (fun n => s.rd (R.HB_BUDGET_USED_n_USED n)) ++ twoWords (tideOf (landAt s.now)) }

/-- R392: tide.query. -/
def execTideQuery (s : State) : Res := s.live fun s => goOn (s.mailTake 0x20 0 (same State.queryTide))

/-- R425 to R428: cal.swap. -/
def State.swapCal (s : State) (a : List Nat) : State × MailAnswer :=
  match s.judgeCal (a.getD 0 0) (a.getD 1 0) (a.getD 2 0) with
  | .refuse st => (s, { status := st })
  | .take i img =>
    (s.takeCal i img, { status := stOk, land := tideOf (landAt s.now), words := [s.tableId i, bodyNat img 12 4] })

/-- R392: cal.swap; failing words of an image in the Shed are noted (R341). -/
def execCalSwap (s : State) : Res := s.live fun s =>
  goOn (s.mailTake 0x30 3 (fun t a =>
    let r := t.swapCal a
    (if r.2.status = stCheck then r.1.parityScan (a.getD 1 0) (a.getD 2 0) else r.1, r.2)))

/-- The bytes of an image in a space, and whether part of it cannot be read whole. -/
def State.imageAt (s : State) (shed : Bool) (at_ len : Nat) : List Byte × Bool :=
  if shed then (s.shedBytes at_ len, s.shedFails at_ len) else (s.whPeek at_ len, (blocksOf at_ len).any (fun b => !s.whPasses b))

/-- R453: a swap or handover that is under way blocks another. -/
def State.swapBusy (s : State) : Bool :=
  s.fwSwap.isSome || s.ledger.handover.isSome || s.clusters.any (fun e => e.2.swap.isSome) ||
  (List.range 4).any (fun n => s.on (R.PI_CL_STATUS_DUAL n))

/-- R453: fw.swap. -/
def State.swapFw (s : State) (a : List Nat) : State × MailAnswer :=
  let w0 := a.getD 0 0
  let target := bits w0 8 1
  let shed := bits w0 0 2 == 1
  let at_ := a.getD 1 0 + 2 ^ 32 * a.getD 2 0
  let len := a.getD 3 0
  let limit := if shed then shedSize else if s.on R.WH_STATUS_READY then s.whUsable else 0
  let img := s.imageAt shed at_ len
  let step := s.imageStep (if target = 1 then 0x534C474C else firmwareMagic) img.1 img.2
  let new := bodyNat img.1 8 4
  let old := if target = 1 then s.ledgerVer else s.rd R.MB_FW_VER_VERSION
  if target = 1 ∧ s.isSealed then (s, { status := stLocked })
  else if !onlyBits w0 [(0, 2), (8, 1)] ∨ 2 ≤ bits w0 0 2 ∨ 8388608 < len ∨ limit < at_ + len then (s, { status := stRange })
  else if step ≠ 0 then (if shed then s.parityScan at_ len else s, { status := stCheck, words := [step] })
  else if s.swapBusy then (s, { status := stBusy })
  else (({ s with fwSwap := some { target := target, old := old, new := new } } : State).accept .fwSwap,
    { status := stOk, land := tideOf (landAt s.now), words := [old, new] })

/-- R392: fw.swap. -/
def execFwSwap (s : State) : Res := s.live fun s => goOn (s.mailTake 0x31 4 State.swapFw)

/-- An image has every entry that jobs of open berths on the cluster use. -/
def State.entriesOk (s : State) (n : Nat) (img : List Byte) : Bool :=
  let jobs := (s.cluster n).queue ++ (List.range 4).filterMap (fun i => (s.core (4 * n + i)).job)
  jobs.all (fun j => match j.berth with
    | some b => !(s.berth b).isOpen || decide (j.entry < imageEntries img)
    | none => true) &&
  (imageFlowlib img || !s.willBe.any (fun e => e.2.kind == 2 && e.2.mem.1 == n))

/-- R333, R336: pier.swap. The copy into the free bank draws 4,096 cycles of the cluster's engine on the reserve. -/
def State.swapPier (s : State) (a : List Nat) : State × MailAnswer :=
  let n := a.getD 0 0
  let at_ := a.getD 1 0
  let len := a.getD 2 0
  if 4 ≤ n ∨ shedSize < at_ + len then (s, { status := stRange })
  else
    let img := s.shedBytes at_ len
    let run := s.progBank n (s.rd (R.PI_CL_STATUS_ACT_BANK n))
    if s.shedFails at_ len ∨ !progOk img (0x200000 - s.memGrant n) ∨ !s.manifestSigned img then (s.parityScan at_ len, { status := stCheck })
    else if 32768 < imageSize img ∨ 32768 < imageSize run ∨ !s.entriesOk n img then (s, { status := stRange })
    else if s.clusters.any (fun e => e.2.swap.isSome) ∨ (List.range 4).any (fun k => s.on (R.PI_CL_STATUS_DUAL k)) then (s, { status := stBusy })
    else if s.isSealed ∧ imageFlowlib run then (s, { status := stLocked })
    else ((((s.setCluster n { s.cluster n with swap := some img }).wr (R.PI_CL_STATUS_SWAPPING n) 1).chargeTo (1 + n) 4097 4096).accept (.pierSwap n),
      { status := stOk, land := tideOf (landAt s.now) })

/-- R392: pier.swap. -/
def execPierSwap (s : State) : Res := s.live fun s => goOn (s.mailTake 0x32 3 State.swapPier)

/-- The record RECSEQ `r` from the ring or the journal. -/
def State.heldRecord (s : State) (r : Nat) : Option (List Byte) := match s.ringRecord r with
  | some b => some b
  | none => match s.journalRecord (r % 4096) with
    | some e => if e.1 = r then some e.2 else none
    | none => none

/-- Up to `n` records from RECSEQ `r` on, as far as they are held without a gap. -/
def State.heldRecords (s : State) (r : Nat) : Nat → List (List Byte)
  | 0 => []
  | n + 1 => match s.heldRecord r with
    | some b => b :: s.heldRecords (r + 1) n
    | none => []

/-- The words of a list of bytes. -/
def wordsIn (b : List Byte) : List Nat := (List.range (b.length / 4)).map (fun i => bodyNat b (4 * i) 4)

/-- Section ledger.read: the reply that the mode selects. Without a ledger key the words of mode 2 are free values. -/
def State.readLedger (s : State) (a : List Nat) : State × MailAnswer :=
  let mode := a.getD 0 0
  if mode = 0 then
    if a.length < 2 ∨ 64 ≤ a.getD 1 0 then (s, { status := stRange }) else (s, { status := stOk, words := wordsIn (s.commitEntry (a.getD 1 0)) })
  else if mode = 1 then
    let at_ := a.getD 4 0
    if a.length < 5 ∨ 16 < a.getD 3 0 ∨ shedSize < at_ + 6144 then (s, { status := stRange })
    else
      let rs := s.heldRecords (a.getD 1 0 + 2 ^ 32 * a.getD 2 0) (a.getD 3 0)
      ((rs.zipIdx).foldl (fun (t : State) e => t.shedWrite (at_ + 384 * e.2) e.1) s, { status := stOk, words := [rs.length] })
  else if mode = 2 then
    if s.ledger.key = 0 then
      ({ s with free := s.free + 17 }, { status := stOk, words := (List.range 17).map (fun i => low 32 (Config.freeValue (s.free + i))) })
    else (s, { status := stOk, words := s.ledger.keyId :: wordsIn (ecdsaPublic s.ledger.key) })
  else if mode = 3 then (s, { status := stOk, words := (List.range 23).map (fun i => s.liveWord (0xF00000 + 4 * i)) })
  else (s, { status := stRange })

/-- R392: ledger.read. -/
def execLedgerRead (s : State) : Res := s.live fun s => goOn (s.mailTake 0x40 1 State.readLedger)

/-- R449: seal.break: the token is the 32 argument words. -/
def State.breakSeal (s : State) (a : List Nat) : State × MailAnswer :=
  let tok := (a.take 32).flatMap (leBytes 4)
  let e := s.tokenStep tok true
  let s1 := s.wr R.CU_STATUS_ERR e
  if e ≠ 0 then (s1, { status := stCheck, words := [e] })
  else (s1.newNonce.acceptSeal false, { status := stOk, land := tideOf (landAt s.now), words := [low 32 (s.rd R.RS_BAL_SEALCNT_COUNT + 1)] })

/-- R392: seal.break. -/
def execSealBreak (s : State) : Res := s.live fun s => goOn (s.mailTake 0x50 32 State.breakSeal)

/-- The codes of Table 15.5. -/
def mailCodes : List Nat := [0x01, 0x10, 0x11, 0x12, 0x20, 0x30, 0x31, 0x32, 0x40, 0x50]

/-- R392, Table 15.6: a CMD outside Table 15.5 is answered E_RANGE, or E_VERSION while no version is negotiated. -/
def execUnknownCmd (s : State) : Res := s.live fun s =>
  let a := s.mailEntry
  let cmd := s.shedNat (a + 2) 1
  if !s.mailReady || s.shedFails a 512 || mailCodes.contains cmd then goOn s
  else goOn (s.mailReply (s.shedNat a 2) cmd { status := if s.mailboxVer = 0 then stVersion else stRange })

/-- R482: an entry of which a word fails Shed parity is answered E_CHECK. -/
def execCommandParityFail (s : State) : Res := s.live fun s =>
  let a := s.mailEntry
  if s.mailReady && s.shedFails a 512 then
    let named := !s.shedFails a 4
    goOn ((s.parityScan a 512).mailReply (if named then s.shedNat a 2 else 0xFFFF) (if named then s.shedNat (a + 2) 1 else 0) { status := stCheck })
  else goOn s

end Sys2Proof.Machine
end

