-- ==== Sys2Proof/Machine/RegAccess.lean ====
section
/-! DEFINITION. Chapters 00 and 01: the one entry by which a register is written, by the host or by a Tug, and by which a Tug
reads one. A field whose write has a row of its own is given the effect of that row here. -/

namespace Sys2Proof.Machine

/-- The state a meaning goes on in. -/
def after (r : Res) (s : State) : State := match r with
  | .next t => t
  | _ => s

/-- Registers whose write does more than their access codes say. -/
def effectRows : List String :=
  ["HB_MF_OFFSET", "HB_MF_CTL", "HB_TIME_CFG", "HB_TIME_RATE", "HB_TIME_STEP_HI", "HB_TIME_CTL", "QY_CTL", "QY_PLAN_SEL", "QY_LGT_CFG",
   "QY_LGT_PERIOD", "QY_SPI_CMD", "QY_GPIO_CFG", "QY_GPIO_OUT", "RX_CFG", "RX_NOISE_P0", "RX_NOISE_LEN", "RX_SL_CTL", "LG_DAY_OFS"] ++
  ["TL_LANE_i_CFG", "TL_LANE_i_THRESH", "TL_LANE_i_TMO", "TL_LANE_i_HOLDOFF", "TL_LANE_i_HCFG", "TL_LANE_i_HOFS", "TL_LANE_i_STATCFG",
   "TL_LANE_i_FGATE", "TL_LANE_i_HCTL", "TL_LANE_i_STATUS", "TL_LANE_i_HFRAME", "TL_LANE_i_DELAY", "TL_LANE_i_ORPHAN_CNT",
   "TL_LANE_i_DEAD_CNT", "TL_LANE_i_SKIP_CNT", "TL_LANE_i_BOUNCE_CNT", "TL_LANE_i_UO_CNT", "TL_LANE_i_MEAN_LO", "TL_LANE_i_MEAN_HI", "TL_LANE_i_SD",
   "TL_LANE_i_MIN", "TL_LANE_i_MAX", "TL_LANE_i_STAT_MISC", "TL_LANE_i_STAT_SEQ", "TL_LANE_i_FREQ", "TL_LANE_i_FEDGES", "TL_LANE_i_PERIOD_LO",
   "TL_LANE_i_PERIOD_HI", "TL_LANE_i_COUNT_LO", "TL_LANE_i_COUNT_HI", "TL_LANE_i_MEAS_LO", "TL_LANE_i_MEAS_HI", "BC_BYB_CTL", "BC_BYB_k_CMD", "BC_m_CTL"] ++
  ["SN_CTL", "SN_CH_c_CFG", "SN_CH_c_EXC", "SN_CH_c_LEADR", "SN_CH_c_LEADN", "SN_CH_c_A", "SN_CH_c_B", "SN_CH_c_X0", "SN_CH_c_CUT",
   "SN_CH_c_R0", "SN_CH_c_POLY", "WT_w_LEVEL", "WT_w_HYST", "WT_w_CTL", "PI_CL_POST_1", "WH_CTL", "WH_CFG", "WH_AGE"] ++
  ["TG_e_CH_c_CFG", "TG_e_CH_c_HEAD", "PK_e_JOB", "MB_CMD_BASE", "MB_RPL_BASE", "MB_BOOT_CTL", "NT_n_CFG", "NT_EXP_k_CFG", "CL_CFG",
   "CL_QY_n_L_l_SEL"] ++
  ["RS_CTL", "RS_WDT_CFG", "RS_WDT_KICK", "RS_PWR_REQ", "RS_DOM_RST", "RS_BERTH_RST", "RS_SAFE", "RS_PIN_HOLD", "RS_THERM", "CU_CTL", "CU_PROG_CTL"]

/-- The number of the instance that a byte address names, for a row's first dimension, and for its second. -/
def RegRow.inst (r : RegRow) (addr : Nat) : Nat × Nat := match r.dims with
  | [] => (0, 0)
  | [(st, _)] => ((addr - r.base) / st, 0)
  | (st, _) :: (st2, _) :: _ => ((addr - r.base) / st, (addr - r.base) % st / st2)

/-- Writes to the registers of chapters 01 and 02 that do more than store; `w` is the word, `v` its value, `plain` the write under the access codes. -/
def State.writeHarbour (s plain : State) (name : String) (w : Word) : State :=
  let v := w.toNat
  match name with
  | "HB_MF_OFFSET" => s.wr R.HB_MF_OFFSET_OFFSET (low 26 v / 4096 * 4096)
  | "HB_MF_CTL" => if bit v 0 then after (execManifestLoad s) s else s
  | "HB_TIME_CFG" => plain.showSource
  | "HB_TIME_RATE" => after (execTimeRateWrite w s) s
  | "HB_TIME_STEP_HI" => after (execTimeStepRequest w s) s
  | "HB_TIME_CTL" =>
    let s1 := plain.wr R.HB_TIME_STATUS_LOCKED (plain.rd R.HB_TIME_CTL_LOCK)
    if bit v 0 then after (execTimeValidate s1) s1 else s1
  | _ => plain

/-- Writes to quay `n` and the receive pipeline. -/
def State.writeQuay (s plain : State) (name : String) (n : Fin 8) (w : Word) : State :=
  let v := w.toNat
  match name with
  | "QY_CTL" =>
    let s1 := after (execQuayRunWrite n (bit v 0) plain) plain
    if bit v 2 then after (execQuayResumeWrite n s1) s1 else s1
  | "QY_PLAN_SEL" => after (execPlanSelectWrite n (Fin.ofNat 4 (low 2 v)) s) s
  | "QY_LGT_CFG" => after (execLgateTCfgWrite n false w s) s
  | "QY_LGT_PERIOD" => after (execLgateTCfgWrite n true w s) s
  | "QY_SPI_CMD" => after (execSpiCommandWrite n w s) s
  | "QY_GPIO_CFG" => after (execGpioCfgWrite n w s) s
  | "QY_GPIO_OUT" => after (execGpioOutWrite n w s) s
  | "RX_CFG" => after (execRxCfgWrite n w s) s
  | "RX_NOISE_P0" => after (execNoiseWindowWrite n false w s) s
  | "RX_NOISE_LEN" => after (execNoiseWindowWrite n true w s) s
  | _ => plain

/-- Writes to the Sluice's control and the ledger's day offset. -/
def State.writeSluice (s plain : State) (name : String) (w : Word) : State :=
  let v := w.toNat
  match name with
  | "RX_SL_CTL" => if bit v 0 then after (execSyncWrite plain) plain else plain
  -- DAY_OFS takes multiples of 900 below 86,400; once sealed the attempt is counted (R6)
  | "LG_DAY_OFS" => if s.isSealed ∨ (low 17 v < 86400 ∧ low 17 v % 900 = 0) then plain else s
  | _ => plain

/-- Writes to lane `l` of tally bank `n`: any register of an owned lane discards the write, but for the bits that hardware sets in the same cycle, in
`kept` (R4, R230). -/
def State.writeTally (s plain kept : State) (name : String) (n l : Nat) (w : Word) : State :=
  let v := w.toNat
  let lane : Fin 128 := Fin.ofNat 128 (16 * n + l)
  if s.rd (R.TL_LANE_i_CFG_OWNER n l) ≠ 0 then kept.wr (R.TL_BANK_STATUS_WR_OWNED n) 1 else match name with
  | "TL_LANE_i_CFG" => after (execLaneCfgWrite lane 0 w s) s
  | "TL_LANE_i_TMO" => after (execLaneCfgWrite lane 1 w s) s
  | "TL_LANE_i_HCFG" => after (execLaneCfgWrite lane 2 w s) s
  | "TL_LANE_i_HOFS" => after (execLaneCfgWrite lane 3 w s) s
  | "TL_LANE_i_STATCFG" => after (execLaneCfgWrite lane 4 w s) s
  | "TL_LANE_i_FGATE" => after (execLaneCfgWrite lane 5 w s) s
  | "TL_LANE_i_THRESH" => s.wr (R.TL_LANE_i_THRESH_THRESH n l) (bits v 0 10)
  | "TL_LANE_i_HOLDOFF" => s.wr (R.TL_LANE_i_HOLDOFF_HOLDOFF n l) (bits v 0 16)
  | "TL_LANE_i_HCTL" => if bit v 0 then after (execHistogramClearWrite lane s) s else s
  | _ => plain

/-- Writes to the Bybovi ring and the emitter ports. -/
def State.writeBeacon (s plain : State) (name : String) (k : Nat) (w : Word) : State :=
  let v := w.toNat
  match name with
  | "BC_BYB_CTL" =>
    let s1 := plain.accept (.bybEn (bit v 31))
    if bit v 16 then after (execByboviDiscover s1) s1 else s1
  | "BC_BYB_k_CMD" => after (execByboviCmdWrite (Fin.ofNat 16 k) w s) s
  | "BC_m_CTL" =>
    let m : Fin 8 := Fin.ofNat 8 k
    let s1 := if bit v 3 then after (execShortCheckWrite m plain) plain else plain
    if bit v 1 then after (execBeaconResumeWrite m s1) s1 else s1
  | _ => plain

/-- Writes to the Sounding die and the watches. -/
def State.writeSounding (s plain : State) (name : String) (c : Nat) (w : Word) : State :=
  let v := w.toNat
  match name with
  | "SN_CTL" =>
    let s1 := (s.writeMsrc (bits v 8 2)).writeMode (bits v 0 2)
    let s2 := if bit v 5 then s1.sndRestart else s1
    if bit v 4 then s2.sndGo else s2
  | "SN_CH_c_CFG" => s.chanWrite c 0 v
  | "SN_CH_c_EXC" => s.chanWrite c 1 v
  | "SN_CH_c_LEADR" => s.chanWrite c 2 v
  | "SN_CH_c_LEADN" => s.chanWrite c 3 v
  | "SN_CH_c_A" => s.chanWrite c 4 v
  | "SN_CH_c_B" => s.chanWrite c 5 v
  | "SN_CH_c_X0" => s.chanWrite c 6 v
  | "SN_CH_c_CUT" => s.chanWrite c 7 v
  | "SN_CH_c_R0" => s.chanWrite c 8 v
  | "SN_CH_c_POLY" => s.chanWrite c 9 v
  | "WT_w_LEVEL" => after (execWatchLimitWrite (Fin.ofNat 32 c) false w s) s
  | "WT_w_HYST" => after (execWatchLimitWrite (Fin.ofNat 32 c) true w s) s
  | "WT_w_CTL" =>
    let s1 := if bit v 1 then after (execWatchRearm (Fin.ofNat 32 c) s) s else s
    if bit v 0 then after (execWatchForce (Fin.ofNat 32 c) s1) s1 else s1
  | _ => plain

/-- Writes to the Pier, the Warehouse controller, the Tugs, the packing engines, the mailbox, the network ports and the calibration. -/
def State.writeEngines (s plain : State) (name : String) (who : Requester) (i j : Nat) (w : Word) (hw : Nat) : State :=
  let v := w.toNat
  match name with
  | "PI_CL_POST_1" => after (execJobPostWrite (Fin.ofNat 4 i) w s) s
  | "WH_CTL" => if bit v 0 then after (execWarehouseInit s) s else s
  | "WH_CFG" => if s.on R.WH_STATUS_TRAINING ∨ s.on R.WH_STATUS_READY then s else plain
  | "WH_AGE" => if 100 ≤ low 16 v then s.accept (.whAge (low 16 v)) else s
  | "TG_e_CH_c_CFG" => if who = .host ∧ j < 24 then s else plain
  | "TG_e_CH_c_HEAD" => after (execTugEnqueue (Fin.ofNat 8 i) (Fin.ofNat 32 j) w s) s
  | "PK_e_JOB" => after (execPackingEnqueue (Fin.ofNat 2 i) w s) s
  | "MB_CMD_BASE" => if s.rd R.MB_CMD_HEAD_HEAD = s.rd R.MB_CMD_TAIL_TAIL then s.wr R.MB_CMD_BASE_OFFSET (low 26 v / 4096 * 4096) else s
  | "MB_RPL_BASE" => if s.rd R.MB_RPL_HEAD_HEAD = s.rd R.MB_RPL_TAIL_TAIL then s.wr R.MB_RPL_BASE_OFFSET (low 26 v / 4096 * 4096) else s
  | "MB_BOOT_CTL" => if bit v 0 then after (execBootGo s) s else s
  | "NT_n_CFG" => if (s.charterTable 1).isNone then plain.wr (R.NT_n_CFG_EN i) 0 else plain
  | "NT_EXP_k_CFG" => s.exportCfg i v hw
  | "CL_CFG" => s.accept (.calCfg (low 3 v))
  | "CL_QY_n_L_l_SEL" => plain.showSlice i j
  | _ => plain

/-- Writes to the reset, power, safety and life-cycle registers. -/
def State.writeSystem (s plain : State) (name : String) (w : Word) : State :=
  let v := w.toNat
  match name with
  | "RS_CTL" => if bit v 1 then after (execColdResetWrite s) s else if bit v 0 then after (execWarmResetWrite s) s else s
  | "RS_WDT_CFG" => after (execWatchdogCfgWrite w s) s
  | "RS_WDT_KICK" => after (execWatchdogKick (Fin.ofNat 256 (low 8 v)) s) s
  | "RS_PWR_REQ" => after (execPowerRequest (Fin.ofNat 32 (low 5 v)) (bit v 8) s) s
  | "RS_DOM_RST" => after (execDomainResetWrite (Fin.ofNat 32 (low 5 v)) s) s
  | "RS_BERTH_RST" => after (execBerthResetWrite (Fin.ofNat 4096 (low 12 v)) s) s
  | "RS_SAFE" =>
    if low 8 v = 0xA5 then after (execSafeArm (Fin.ofNat 256 (s.rd R.RS_THERM_TEMP)) false s) s
    else if low 8 v = 0x5A then after (execSafeEngage s) s
    else s
  -- R440: Tj may stand at or above the WARN written; TEMP is the Tj the device holds
  | "RS_THERM" => after (execThermalWarn (Fin.ofNat 256 (plain.rd R.RS_THERM_TEMP)) plain) plain
  | "RS_PIN_HOLD" => if bit v 1 then after (execPinHoldRelease s) s else s
  | "CU_CTL" =>
    let s1 := if bit v 2 then after (execFitWrite s) s else s
    let s2 := if bit v 1 then after (execSealWrite s1) s1 else s1
    if bit v 0 then after (execTokenApply s2) s2 else s2
  | "CU_PROG_CTL" => if bit v 0 then after (execCharterProgram s) s else s
  | _ => plain

/-- A write of a word to the register of row `r` at `addr` (R3 to R8): by its access codes, and with the effect of the row that a
field has for itself. A Ballast register's write joins its queue (R22, R485). -/
def State.writeReg (s : State) (who : Requester) (r : RegRow) (addr : Nat) (w : Word) (hw : Nat) : State :=
  let plain := s.writeRow r addr w.toNat hw
  if isBallast addr then
    if addr = 0x200158 then after (execRtcLoWrite w s) s
    else if addr = 0x20015C then after (execRtcHiWrite (BitVec.ofNat 16 w.toNat) s) s
    else s.ballastPush addr w.toNat
  else if effectRows.contains r.name then
    let i := (r.inst addr).1
    let j := (r.inst addr).2
    if addr < 0x100000 then s.writeHarbour plain r.name w
    else if addr < 0x300000 then s.writeSystem plain r.name w
    else if 0x400000 ≤ addr ∧ addr < 0x504000 then s.writeQuay plain r.name (Fin.ofNat 8 i) w
    else if addr < 0x600000 ∧ 0x504000 ≤ addr ∨ addr = 0xF00034 then s.writeSluice plain r.name w
    else if 0x600000 ≤ addr ∧ addr < 0x700000 then s.writeTally plain (if r.name == "TL_LANE_i_STATUS" then s.writeRow r addr 0 hw else s) r.name i j w
    else if 0x700000 ≤ addr ∧ addr < 0x800000 then s.writeBeacon plain r.name i w
    else if 0x800000 ≤ addr ∧ addr < 0xA00000 then s.writeSounding plain r.name i w
    else s.writeEngines plain r.name who i j w hw
  else plain

/-- A write of the register of row `r` goes over QLINK_C to the Quay die: a quay's configuration, or a comparator threshold (Table 1.3). -/
def crossesQlink (r : RegRow) (addr : Nat) : Bool := decide (0x400000 ≤ addr ∧ addr < 0x480000) || r.name == "TL_LANE_i_THRESH"

/-- R3, R31, R32, R22, R16: a write of a word by the host or a Tug. A write that a retrain of QLINK_C holds is made once the link is up again; a
register whose domain is off discards the write. -/
def execRegisterWrite (who : Requester) (addr : Nat) (value : Word) (hwSet : Word) (s : State) : Res := s.live fun s =>
  if addr % 4 ≠ 0 then goOn (if who = .host then s.answer .unsupported [] else s)
  else match regRow? addr with
    | none => if who = .tug then goOn s else execUnmappedAccess true addr s
    | some r =>
      let d := domainOf addr
      if !s.powered d then goOn (if who = .host then (s.lockAnswer d).answer .ok [] else s)
      else
        (if who = .host then s.answer .ok [] else s).blockWrite d (crossesQlink r addr) (.registerWrite who addr value hwSet) fun t =>
          goOn (t.writeReg who r addr value hwSet.toNat)

/-- R16: a held configuration write is resent: it acts as it does on a link that is up. -/
def resend (c : Instr) (s : State) : State := match c with
  | .registerWrite who addr value _ => match regRow? addr with
    | some r => if s.powered (domainOf addr) then (s.endHold (domainOf addr)).writeReg who r addr value 0 else s
    | none => s
  | .quayRunWrite n run => after (execQuayRunWrite n run s) s
  | .quayResumeWrite n => after (execQuayResumeWrite n s) s
  | .planSelectWrite n p => after (execPlanSelectWrite n p s) s
  | .lgateTCfgWrite n period v => after (execLgateTCfgWrite n period v s) s
  | .spiCommandWrite n v => after (execSpiCommandWrite n v s) s
  | .gpioCfgWrite n v => after (execGpioCfgWrite n v s) s
  | .gpioOutWrite n v => after (execGpioOutWrite n v s) s
  | .laneCfgWrite l r v => after (execLaneCfgWrite l r v s) s
  | .histogramClearWrite l => after (execHistogramClearWrite l s) s
  | _ => s

/-- R16: the link is up again; the configuration writes held meanwhile are resent, oldest first. -/
def execLinkRetrainDone (link : Fin 10) (s : State) : Res := s.live fun s =>
  let l := s.link link
  if l.retraining then
    let s1 := if link.val < 8 then s.runDac link (2 * s.now) else s
    goOn (l.held.foldl (fun (t : State) e => resend e.2 t) (((s1.wrBit R.HB_LINK_STATUS_UP link true).setLink link {}).closeGap link))
  else goOn s

/-- GPIO_IN of quay `n` shows the levels at the pins: for an output line the level the quay drives, POL applied (R84). -/
def State.pinWord (s : State) (n : Nat) : Nat :=
  [0, 1, 2, 3].foldl (fun v i =>
    if s.rd (R.QY_GPIO_CFG_FUNC_i n i) = 1 then
      withBit v i (bit (s.quay n).gpioOut i != s.on (R.QY_GPIO_CFG_POL_i n i))
    else v) (s.rd (R.QY_GPIO_IN_IN n))

/-- The word of a register at this instant, with the fields that follow the instant itself: SETTLING (R108), the charge sums (R239) the pin levels (R84) and the
reservations of the staging and the Sluice state (R120, R131). -/
def State.busWord (s : State) (addr : Nat) : Nat :=
  if 0x501000 ≤ addr ∧ addr < 0x501800 ∧ addr % 0x100 = 0x24 then
    let q := s.quay ((addr - 0x501000) / 0x100)
    let v := s.liveWord addr
    v - 256 * (v / 256 % 2) + 256 * flag (decide (q.settleFrom ≤ s.now ∧ s.now < q.settleTo))
  else if 0x701000 ≤ addr ∧ addr < 0x703000 ∧ addr % 0x400 = 0x2C then low 32 ((s.port ((addr - 0x701000) / 0x400)).headSum s.now)
  else if 0x701000 ≤ addr ∧ addr < 0x703000 ∧ 0x100 ≤ addr % 0x400 ∧ addr % 0x400 < 0x300 then
    low 32 ((s.port ((addr - 0x701000) / 0x400)).sumOf s.now ((addr % 0x400 - 0x100) / 4))
  else if 0x400000 ≤ addr ∧ addr < 0x480000 ∧ addr % 0x10000 = 0x68 ∧ s.powered (quayDomain ((addr - 0x400000) / 0x10000)) then
    s.pinWord ((addr - 0x400000) / 0x10000)
  else if addr = 0x504018 then low 25 s.stageUsed
  else if addr = 0x504020 then low 24 s.sluiceUsed
  else s.readWord addr

/-- A read of the register of row `r`: the word it answers and what the read does: a queue gives up its head, the high word of a pair is latched
(R2), an RC field clears but for the bits `hw` that hardware sets in the same cycle (R5, R83, R208, R403). -/
def State.readReg (s : State) (r : RegRow) (addr hw : Nat) : State × Nat :=
  let i := (r.inst addr).1
  if r.name = "TL_FIFO_w" ∧ (r.inst addr).2 = 0 then s.popFifo i
  else if r.name = "NT_TS_FIFO_w" ∧ i = 0 then s.popStamp
  else if r.name = "QY_SPI_RXD" then
    let q := s.quay i
    ((s.setQuay i { q with spiRx := q.spiRx.tail }).spiLevels i, q.spiRx.headD 0)
  else
    let s1 := match pairRow? addr with
      | some p => s.latchHigh addr p
      | none => s
    (r.fields.foldl (fun (t : State) f => t.readClearField addr hw f) s1, s.busWord addr)

/-- A host's read of a register: a domain that is off answers through its Lock (R31). -/
def State.hostRead (s : State) (r : RegRow) (addr hw : Nat) : State :=
  if s.powered (domainOf addr) then
    let x := s.readReg r addr hw
    x.1.answer .ok [x.2]
  else (s.lockAnswer (domainOf addr)).answer .ok [0]

/-- R2: the read of a low word returns it and latches the high word into the pair's shadow. -/
def execLowWordRead (addr : Nat) (s : State) : Res := s.live fun s =>
  match pairRow? addr, regRow? addr with
  | some _, some r => goOn (s.hostRead r addr 0)
  | _, _ => .refused .illFormed

/-- R5: the read returns the register and clears its RC fields, but for the bits hardware sets in the same cycle. -/
def execReadClear (addr : Nat) (hwSet : Word) (s : State) : Res := s.live fun s =>
  match regRow? addr with
  | none => .refused .illFormed
  | some r => goOn (s.hostRead r addr hwSet.toNat)

/-- A Tug's read of a register. Where no register is, the spec gives a Tug no value. -/
def State.tugRead (s : State) (addr : Nat) : State × Nat :=
  match regRow? addr with
  | none => (s.nextFree, low 32 s.freeNow)
  | some r => s.readReg r addr 0

end Sys2Proof.Machine
end

