-- ==== Sys2Proof/Machine/TugMove.lean ====
section
/-! DEFINITION. Chapter 13: a Tug moves the bytes of a descriptor and completes it (R355 to R364). -/

namespace Sys2Proof.Machine

/-- Error causes of Table 13.8. -/
def causeBus : Nat := 1
/-- CHECK. -/
def causeCheck : Nat := 2
/-- PARITY. -/
def causeParity : Nat := 3
/-- LOCK. -/
def causeLock : Nat := 4
/-- RANGE. -/
def causeRange : Nat := 5
/-- FORMAT. -/
def causeFormat : Nat := 6
/-- CHAIN. -/
def causeChain : Nat := 7

/-- The address of byte `i` of a side that starts at `a` (R357). -/
def wrapAddr (a wrap i : Nat) : Nat := if wrap = 0 then a + i else a + i % 2 ^ wrap

/-- SWAP on a run of whole units (Table 13.9). -/
def swapBytes (swap : Nat) : List Byte → List Byte
  | a :: b :: c :: d :: t =>
    if swap = 1 then b :: a :: d :: c :: swapBytes swap t
    else if swap = 2 then c :: d :: a :: b :: swapBytes swap t
    else if swap = 3 then d :: c :: b :: a :: swapBytes swap t
    else a :: b :: c :: d :: swapBytes swap t
  | [a, b] => if swap = 1 then [b, a] else [a, b]
  | l => l

/-- What befell a descriptor from outside: the Warehouse's luck, the bytes that host memory returned, the first beat answered with an
error, and whether the Lock of a domain closed while it ran. -/
structure TugLuck where
  luck : WhLuck
  host : List Byte
  fails : Option TugFail
  shut : Bool
  deriving DecidableEq, Repr

/-- The beat of a side at byte `i` is the one answered with an error: the cause, or none. -/
def TugLuck.error (x : TugLuck) (dst : Bool) (i beat : Nat) : Option Nat := match x.fails with
  | some f => if f.dst = dst ∧ i ≤ f.byte ∧ f.byte < i + beat then some (if f.lock then causeLock else causeBus) else none
  | none => none

/-- A side's domain is off, and the descriptor did not run when its Lock closed (R364). -/
def State.sideOff (s : State) (x : TugLuck) (space addr : Nat) : Bool := !x.shut && !s.powered (sideDomain space addr)

/-- A completion of the Warehouse as a cause. -/
def whCause : WhCause → Option Nat
  | .ok => none
  | .range => some causeRange
  | .check => some causeCheck

/-- How a descriptor asks the Warehouse; its bytes are charged by the descriptor (R350, R359). -/
def Desc.req (d : Desc) : WhReq := { cls := d.cls, page := d.page }

/-- One source beat of `n` bytes at byte `i` of the descriptor: its bytes, or the cause of its failure (R357, R361). -/
def State.srcRead (s : State) (d : Desc) (x : TugLuck) (i n : Nat) : State × Option Nat × List Byte :=
  let a := wrapAddr d.src d.swrap i
  if s.sideOff x d.sspace a then (s, some causeLock, [])
  else match x.error false i n with
    | some c => (s, some c, [])
    | none =>
      if d.sspace = 0 then
        let r := s.whRead d.req a n d.retry x.luck
        (r.1, whCause r.2.1, r.2.2)
      else if d.sspace = 1 then
        if shedSize < a + n then (s, some causeRange, [])
        else if s.shedFails a n then (s.parityScan a n, some causeParity, [])
        else (s, none, s.shedBytes a n)
      else if d.sspace = 2 then
        let r := s.tugRead a
        (r.1, none, leBytes 4 r.2)
      else (s, none, (List.range n).map (fun k => x.host.getD (i + k) 0))

/-- One destination beat at byte `i` of the descriptor: the cause of its failure, or none (R357, R361). -/
def State.dstWrite (s : State) (d : Desc) (x : TugLuck) (i : Nat) (bs : List Byte) : State × Option Nat :=
  let a := wrapAddr d.dst d.dwrap i
  if s.sideOff x d.dspace a then (s, some causeLock)
  else match x.error true i bs.length with
    | some c => (s, some c)
    | none =>
      if d.dspace = 0 then
        let r := s.whWrite d.req a bs
        (r.1, whCause r.2)
      else if d.dspace = 1 then
        if shedSize < a + bs.length then (s, some causeRange) else (s.shedWrite a bs, none)
      else if d.dspace = 2 then
        (after (execRegisterWrite .tug a (BitVec.ofNat 32 (leNat bs)) 0 s) s, none)
      else ({ s with toHost := s.toHost ++ [(a, bs)] }, none)

/-- The progress of a descriptor: the bytes written, and of the first beat that failed whether it is the last of its side, and its cause. -/
structure TugProgress where
  state : State
  done : Nat
  failed : Option (Bool × Nat)
  deriving DecidableEq, Repr

/-- The source beats of the bytes `[i, i + n × k)`. -/
def readBeats (d : Desc) (x : TugLuck) (n i : Nat) : Nat → State → State × Option Nat × List Byte
  | 0, s => (s, none, [])
  | k + 1, s =>
    let r := s.srcRead d x i n
    match r.2.1 with
    | some c => (r.1, some c, [])
    | none =>
      let q := readBeats d x n (i + n) k r.1
      (q.1, q.2.1, r.2.2 ++ q.2.2)

/-- The destination beats of `n` bytes that write `bs` from byte `i` on. -/
def writeBeats (d : Desc) (x : TugLuck) (n i : Nat) : Nat → List Byte → State → TugProgress
  | 0, _, s => ⟨s, i, none⟩
  | k + 1, bs, s =>
    let r := s.dstWrite d x i (bs.take n)
    match r.2 with
    | some c => ⟨r.1, i, some (i + n == d.count, c)⟩
    | none => writeBeats d x n (i + n) k (bs.drop n) r.1

/-- Bytes that the engine takes in and puts out together: a source beat, a destination beat, or a unit of SWAP, whichever is largest. -/
def Desc.unit (d : Desc) : Nat := max d.srcBeat (max d.dstBeat d.swapUnit)

/-- Moves the next `k` units from byte `i` on (R357, R361). -/
def moveUnits (d : Desc) (x : TugLuck) (i : Nat) : Nat → State → TugProgress
  | 0, s => ⟨s, i, none⟩
  | k + 1, s =>
    let r := readBeats d x d.srcBeat i (d.unit / d.srcBeat) s
    match r.2.1 with
    | some c => ⟨r.1, i, some (i + r.2.2.length + d.srcBeat == d.count, c)⟩
    | none =>
      let w := writeBeats d x d.dstBeat i (d.unit / d.dstBeat) (swapBytes d.swap r.2.2) r.1
      if w.failed.isSome then w else moveUnits d x (i + d.unit) k w.state

/-- The whole descriptor. -/
def State.moveAll (s : State) (d : Desc) (x : TugLuck) : TugProgress := moveUnits d x 0 (d.count / d.unit) s

/-- A descriptor that moved bytes is charged to its owner, on its engine and in the Warehouse (R350, R359). -/
def State.chargeMove (s : State) (e o : Nat) (d : Desc) (p : TugProgress) : State :=
  ((s.tugCharge e o d.charge).tugWarehouse o p.done d).addSat (R.TG_e_BYTES_COUNT e) p.done

/-- R360 to R362: the descriptor completes with the code its first failed beat gives. -/
def State.finishMove (s : State) (e : Nat) (r : TugRun) (d : Desc) (p : TugProgress) : State :=
  let s1 := p.state.chargeMove e (s.tugOwner e r.ch) d p
  match p.failed with
  | none => s1.descDone e r.ch r.desc d.irq tugOk 0 p.done
  | some (last, c) => s1.descDone e r.ch r.desc d.irq (if last then tugTail else tugBad) c p.done

/-- R356, R360 to R364: the descriptor in progress on engine `e` completes, and the engine goes on to the next one or ends the chain. A
descriptor that fails parity when fetched is BAD; the 1,025th of a chain and an invalid one are INVALID; one that starts toward a domain
being powered down is BAD, cause LOCK; and that of a chain which a boundary has cut is DROPPED with the rest of its chain. Where no chain of the
Shed's descriptors runs, it is the device's own tile write that is complete (R121). -/
def execTugDescriptorComplete (e : Fin 8) (luck : WhLuck) (host : List Byte) (fails : Option TugFail) (s : State) : Res := s.live fun s =>
  match (s.tug e).run with
  | none => goOn (s.tileWritten e)
  | some r =>
    let d := s.desc r.desc
    let x : TugLuck := ⟨luck, host, fails, r.shut⟩
    let moves := !s.shedFails r.desc 28 && decide (r.num ≤ 1024) && d.valid &&
      !s.draining.any (fun g => d.domains.contains g.1 && decide (g.2 ≤ r.since))
    if r.tide + 2 ≤ tideOf s.now then
      if moves then
        let p := s.moveAll d x
        -- a register written on the way may have reset the engine
        if (p.state.tug e).run.isNone then goOn p.state
        else goOn ((p.state.chargeMove e (s.tugOwner e r.ch) d p).cutRunning e p.done)
      else goOn (s.cutRunning e 0)
    else if s.shedFails r.desc 28 then
      goOn (((s.parityScan r.desc 28).descDone e r.ch r.desc d.irq tugBad causeParity 0).chainNext e r d)
    else if 1024 < r.num then goOn ((s.descDone e r.ch r.desc d.irq tugInvalid causeChain 0).chainEnd e)
    else if !d.valid then goOn ((s.descDone e r.ch r.desc d.irq tugInvalid causeFormat 0).chainNext e r d)
    else if !moves then goOn ((s.descDone e r.ch r.desc d.irq tugBad causeLock 0).chainNext e r d)
    else
      let p := s.moveAll d x
      if (p.state.tug e).run.isNone then goOn p.state else goOn ((s.finishMove e r d p).chainNext e r d)

end Sys2Proof.Machine
end

