-- ==== Sys2Proof/Machine/Tide.lean ====
section
/-! DEFINITION. Chapter 02: the tide boundary: the closing tide is accounted, changes land, and the new tide begins (R36 to R38, Table 2.1). -/

namespace Sys2Proof.Machine

/-- R26: the step in ns that a boundary `b` takes, if one is due. -/
def State.stepDue (s : State) (b : Nat) : Nat :=
  (s.landing.findSome? (fun l => match l.change with
    | .timeStep v => if l.due ≤ b then some v else none
    | _ => none)).getD 0

/-- R26: the receive slice over a step of `v` ns: what is on its way keeps its place against device time (log entry 127). -/
def RxSlice.skip (v : Nat) (x : RxSlice) : RxSlice :=
  let seg := fun (g : Seg) => ((g.1, g.2 + v / 1024) : Seg)
  { x with adc := x.adc.map (fun e => (e.1 + v, e.2)), adcEnd := if x.adcEnd = 0 then 0 else x.adcEnd + v
           outs := x.outs.map (fun c => { c with start := c.start + v })
           code := x.code.map (fun e => (e.1, { e.2 with start := e.2.start.map (· + v) }))
           skipped := x.skipped + v / 1024
           tails := x.tails.map (fun t => (t.1, t.2.1 + v / 1024, t.2.2 + v / 1024))
           waiting := x.waiting.map seg, lost := x.lost.map seg
           held := x.held.map (fun h => (seg h.1, { h.2 with start := h.2.start + v }))
           noiseSums := x.noiseSums.map (fun e => (e.1, { e.2 with start := e.2.start + v })) }

/-- R26 for quay `n`: the launches and pulses that the skipped tides would hold are not scheduled, and what is physically on its way keeps its
duration. The step is `v` ns to boundary `b`. -/
def State.skipQuay (v b : Nat) (s : State) (n : Nat) : State :=
  let q := s.quay n
  let p := s.activePlan n
  let ahead := fun slot =>
    let off := p.group slot * p.launchPeriod * p.div / p.slots
    let k := Tab.get 0 q.nextK slot
    if p.launchPeriod = 0 then k else max k (ceilDiv (b - (s.epoch n + off)) p.launchPeriod)
  let q1 : Quay :=
    { q with flights := q.flights.map (fun f => { f with start := f.start + v, until_ := f.until_ + v })
             fates := q.fates.map (fun f => { f with start := f.start + v })
             leads := [], gateUntil := q.gateUntil + v, dacAt := q.dacAt + 2 * v, lgtEdge := q.lgtEdge + 256 * v, lgtFall := q.lgtFall + 256 * v
             settleFrom := q.settleFrom + v, settleTo := q.settleTo + v, newEpoch := q.newEpoch.map (fun e => max e b) }
  let q2 : Quay := if q.lgtPeriod = 0 then q1 else { q1 with lgtNext := q.lgtNext + ceilDiv (b - q.lgtNext) (4 * q.lgtPeriod) * (4 * q.lgtPeriod) }
  let q3 : Quay :=
    if q.grid then (List.range p.slots).foldl (fun (x : Quay) slot =>
      let d := ahead slot - Tab.get 0 q.nextK slot
      { x with nextK := Tab.put 0 x.nextK slot (ahead slot), codeK := Tab.put 0 x.codeK slot (Tab.get 0 x.codeK slot + d) }) q2
    else q2
  (s.setQuay n q3).setRx n ((s.rxOf n).skip v)

/-- R26: a lane over a step of `v` ns: the skipped tides count in neither its gate nor its frame, and intervals in progress keep their length. -/
def Lane.skip (v : Nat) (x : Lane) : Lane :=
  let r := 256 * v
  { x with conv := x.conv.map (· + r), acc := x.acc.map (· + r), raw := x.raw + r, inst := x.inst + v, stops := x.stops.map (· + r)
           undecided := x.undecided.map (fun e => (e.1 + r, e.2))
           gate := { x.gate with start := x.gate.start + v, first := x.gate.first + r, last := x.gate.last + r }
           frame := { x.frame with skip := x.frame.skip + v }, dumping := x.dumping.map (· + v) }

/-- R26: tides are skipped: jobs, chains and periods that count tides do not count them, schedules go on at `b`, and what runs in real time keeps
its remaining time. -/
def State.skipTides (s : State) (v b : Nat) : State :=
  let k := v / 131072
  let s1 := (List.range 8).foldl (State.skipQuay v b) s
  let tug := fun (x : Tug) => { x with queues := x.queues.map (fun q => (q.1, q.2.map (fun h => { h with tide := h.tide + k })))
                                       run := x.run.map (fun r => { r with tide := r.tide + k, since := r.since + v }) }
  let job := fun (j : PierJob) => { j with posted := j.posted + k }
  let port := fun (q : Port) =>
    let len := b - q.landed
    { q with next := max q.next (256 * b), rows := [], diag := false
             landed := if len ≤ v then q.landed else q.landed + v }
  { s1 with
    gaps := s1.gaps.map (fun e => (e.1, e.2.map (fun g => (g.1 + v, g.2.map (· + v)))))
    lanes := s1.lanes.map (fun e => (e.1, e.2.skip v))
    streams := s1.streams.map (fun e => (e.1, { e.2 with since := e.2.since + v }))
    tugs := s1.tugs.map (fun e => (e.1, tug e.2))
    clusters := s1.clusters.map (fun e => (e.1, { e.2 with queue := e.2.queue.map job }))
    cores := s1.cores.map (fun e => (e.1, { e.2 with job := e.2.job.map job }))
    packs := s1.packs.map (fun e => (e.1, { e.2 with queue := e.2.queue.map (fun j => { j with tide := j.tide + k })
                                                     run := e.2.run.map (fun j => { j with tide := j.tide + k }) }))
    ports := s1.ports.map (fun e => (e.1, port e.2))
    byb := { s1.byb with next := if s1.byb.run then max s1.byb.next b else s1.byb.next }
    power := { s1.power with wdt := s1.power.wdt.map (· + v), ilock := s1.power.ilock.map (· + (v : Int)), rtcAt := s1.power.rtcAt + (v : Int) }
    fwSwap := s1.fwSwap.map (fun x => { x with landed := x.landed.map (· + v) }) }

/-- What the engines still hold of the work of the berth at index `i` is discarded. -/
def State.dropWork (s : State) (i : Nat) : State :=
  let keep := fun (c : Tab (List (Nat × Nat))) => c.foldl (fun r e => Tab.put [] r e.1 (e.2.filter (fun x => x.1 != i))) c
  { s with carried := keep s.carried, late := keep s.late, cutWork := keep s.cutWork }

/-- The berth at index `i` starts work in its engines at boundary `b` (R36). -/
def State.startBerth (s : State) (i b : Nat) (d : Das) (f : Flow) : State :=
  let k := (s.berth i).kind
  if k = 1 then s.landDas i b d
  else if k = 2 then s.landFlow i b d f
  else if k = 3 then s.landRaman i b
  else if k = 4 then s.landRange i b
  else if k = 5 then s.landSounding i
  else if k = 6 then s.landWatch i b
  else if k = 7 then s.landPoint i b
  else s.landStream i

/-- The berth at index `i` stops work in its engines at boundary `b` (R36, R140). -/
def State.stopBerth (s : State) (i b : Nat) : State :=
  let k := (s.berth i).kind
  if k = 1 then s.closeDas i
  else if k = 2 then s.closeFlow i b
  else if k = 3 then s.closeRaman i b
  else if k = 4 then s.closeRange i b
  else if k = 5 then s.closeSounding i
  else if k = 6 then s.closeWatch i
  else if k = 7 then s.closePoint i b
  else s.closeStream i

/-- R36, R39 at boundary `b`: a pending berth becomes open, with no credit (R46); the rings of the index's earlier berth are released (R140). -/
def State.landOpen (s : State) (i b : Nat) : State :=
  let t := Tab.get {} s.coming i
  if t.handle = 0 then s
  else
    let d := Tab.get {} s.dasComing i
    let f := Tab.get {} s.flowComing i
    let s1 : State := { (s.setBerth i { t with state := .open, land := tideOf b, credit := [] }) with
      coming := Tab.put {} s.coming i {}
      dasComing := Tab.put {} s.dasComing i {}
      flowComing := Tab.put {} s.flowComing i {}
      closedOrder := s.closedOrder.filter (· != i)
      rings := s.rings.filter (fun r => r.berth != i || r.handle == t.handle) }
    s1.startBerth i b d f

/-- R36, R45, R140 at boundary `b`: a closing berth stops work and its reservations are released; its output rings stay readable. -/
def State.landClose (s : State) (i b : Nat) : State :=
  let t := s.berth i
  if t.isOpen then
    let s1 := s.stopBerth i b
    ({ (s1.setBerth i { s1.berth i with state := .closed, closeLand := tideOf b }) with
      closedOrder := s1.closedOrder.filter (· != i) ++ [i]
      rings := s1.rings.filter (fun r => r.handle != t.handle || r.area != 1) } : State).dropWork i
  else s

/-- R133, R134 at boundary `b`: one synchronising reset of every open DAS zone and flow zone that is not closed there. -/
def State.landSync (s : State) (b : Nat) : State :=
  let s0 : State := { s with landing := s.landing.filter (fun l => decide (l.change ≠ Change.sync) || decide (b < l.due)) }
  let s1 := s0.openBerths.foldl (fun (t : State) i =>
    let x := t.berth i
    if x.state = .closing ∧ x.closeLand ≤ tideOf b then t
    else if x.kind = 1 then t.resyncDas i b
    else if x.kind = 2 then t.resyncFlow i b
    else t) s0
  let more := s1.waits (fun c => decide (c = Change.sync))
  (((s1.wr R.RX_SL_STATUS_SYNC_DONE 1).wrB R.RX_SL_STATUS_SYNC_PENDING more).wrPair R.RX_SL_SYNC_LO_TIME_LO R.RX_SL_SYNC_HI_TIME_HI b).inc
    R.RX_SL_SYNC_CNT_COUNT

/-- One change lands at boundary `b` (R36, R38). -/
def State.land (s : State) (b : Nat) (c : Change) : State := match c with
  | .rate v => ({ s with rate := v } : State).wrB R.HB_TIME_STATUS_SLEWING (v != 0)
  | .timeStep _ => (s.wr R.HB_TIME_STATUS_STEP_PENDING 0).wr R.HB_TIME_STATUS_STEPPED 1
  | .manifest => s.landManifest b
  | .berthOpen i => s.landOpen i b
  | .berthClose i => s.landClose i b
  | .quayRun n run => s.landRun n b run
  | .quayResume n => s.landResume n
  | .planSwitch n p => s.landPlan n b p
  | .lgtEn n en => s.landLgtEn n b en
  | .lgtWidth n w => s.setQuay n { s.quay n with lgtWidth := w }
  | .lgtPeriod n p => s.setQuay n { s.quay n with lgtPeriod := p }
  | .gpioOut n mask v => s.setQuay n ((s.quay n).takeLevels mask v)
  | .rxCfg n v => s.landRxCfg n b v
  | .sync => s.landSync b
  | .laneCfg l reg v => (s.landLaneCfg l reg v b).lanePending l
  | .histClear l => s.landHistClear l b
  | .shortCheck m => s.startCheck m
  | .portResume m => s.landPortResume m b
  | .bybEn en => s.landBybEn b en
  | .bybDiscover => { s with byb := { s.byb with discover := true } }
  | .watchLimit w hyst v => s.landWatchLimit w hyst v
  | .watchRearm w => s.landWatchRearm w b
  | .pierSwap n => s.landPierSwap n
  | .whAge v => s.wr R.WH_AGE_AGE v
  | .power d on => s.landPower d b on
  | .exportSlot k => s.landExport k
  | .calSwap i => s.landCal i b
  | .calCfg v => ((s.wr R.CL_CFG_QY_AUTO v).wr R.CL_CFG_TL_AUTO (v / 2)).wr R.CL_CFG_SN_AUTO (v / 4)
  | .berthReset i => s.landBerthReset i b
  | .seal made => s.landSeal made
  | .fwSwap => s.landFwSwap b
  | .fwRevert => s.landFwRevert

/-- The oldest accepted change that is due at boundary `b`, and the list without it (R38). -/
def takeDue (b : Nat) : List Landing → Option (Change × List Landing)
  | [] => none
  | l :: ls => if l.due ≤ b then some (l.change, ls) else (takeDue b ls).map (fun r => (r.1, l :: r.2))

/-- Every change due at boundary `b` lands, in acceptance order (R38); `n` bounds their number. -/
def State.landDue (b : Nat) : Nat → State → State
  | 0, s => s
  | n + 1, s => match takeDue b s.landing with
    | none => s
    | some (c, rest) => State.landDue b n (({ s with landing := rest } : State).land b c)

/-- HB_BUDGET_ALLOC_n takes the sum of the open berths' entries (Table 2.1 step 4). -/
def State.showAlloc (s : State) : State :=
  (List.range 20).foldl (fun (t : State) n =>
    t.wr (R.HB_BUDGET_ALLOC_n_ALLOC n) (t.openBerths.map (fun i => vecAt (t.berth i).cost n)).sum) s

/-- HB_LAND reports the boundary at which a skipped landing lands (R26). -/
def State.moveLand (s : State) (b0 b : Nat) : State :=
  let t := s.rdPair R.HB_LAND_LO_TIDE_LO R.HB_LAND_HI_TIDE_HI
  if tideOf b0 ≤ t ∧ t < tideOf b then s.setLand b else s

/-- R36, Table 2.1: device time reaches the next tide boundary, or, where a step is due, the boundary it steps to (R26). The engines latch the
closing tide; what counts tides moves on and cuts what is two tides old; domains are restored; the changes due land; and frames,
grids and streams begin the new tide. -/
def execTideBoundary (loads : List TideLoad) (reserve stops : List Nat) (s : State) : Res := s.live fun s =>
  let b0 := nextBoundary s.now
  let v := s.stepDue b0
  let b := b0 + v
  let s1 : State := { (s.closeTide loads reserve) with now := b }
  let s2 := if v = 0 then s1 else (s1.skipTides v b).moveLand b0 b
  let s3 := (List.range 4).foldl State.pierBoundary s2
  let s4 := (List.range 8).foldl State.tugBoundary s3
  let s5 := [0, 1].foldl (State.packBoundary · (fun e => stops.getD e 0) ·) ({ s4 with packUsed := [] } : State)
  let s6 := ((List.range 8).foldl State.trimBoundary s5).tapBoundary.streamBoundary.hawserBoundary
  let s7 := s6.restoreAll b
  let s8 := State.landDue b (s7.landing.length + 64) s7
  let s9 := (List.range 8).foldl (fun (t : State) n => t.epochDue n b) s8
  goOn ((((s9.lanesAt b).portsAt b).showSource.showAlloc).hawserSend b)

end Sys2Proof.Machine
end

