-- ==== Sys2Proof/Machine/Dispatch.lean ====
section
/-! DEFINITION. One arm per command: the call of its meaning. -/

namespace Sys2Proof.Machine

def exec (i : Instr) (s : State) : Host.Outcome State Fault Refusal :=
  match i with
  | .registerWrite who addr value hwSet => Sys2Proof.Machine.execRegisterWrite who addr value hwSet s
  | .unsupportedAccess write addr size => Sys2Proof.Machine.execUnsupportedAccess write addr size s
  | .unmappedAccess write addr => Sys2Proof.Machine.execUnmappedAccess write addr s
  | .lowWordRead addr => Sys2Proof.Machine.execLowWordRead addr s
  | .readClear addr hwSet => Sys2Proof.Machine.execReadClear addr hwSet s
  | .shedWindowRead off len => Sys2Proof.Machine.execShedWindowRead off len s
  | .shedWindowWrite off bytes => Sys2Proof.Machine.execShedWindowWrite off bytes s
  | .flitCrcMismatch link flit => Sys2Proof.Machine.execFlitCrcMismatch link flit s
  | .linkRetrain link => Sys2Proof.Machine.execLinkRetrain link s
  | .linkRetrainDone link => Sys2Proof.Machine.execLinkRetrainDone link s
  | .pllLockLoss pll => Sys2Proof.Machine.execPllLockLoss pll s
  | .pllLockRegain pll => Sys2Proof.Machine.execPllLockRegain pll s
  | .ballastWrite addr value => Sys2Proof.Machine.execBallastWrite addr value s
  | .ballastWriteApply => Sys2Proof.Machine.execBallastWriteApply s
  | .tideBoundary loads reserve stops => Sys2Proof.Machine.execTideBoundary loads reserve stops s
  | .timeRateWrite value => Sys2Proof.Machine.execTimeRateWrite value s
  | .timeStepRequest hi => Sys2Proof.Machine.execTimeStepRequest hi s
  | .timeValidate => Sys2Proof.Machine.execTimeValidate s
  | .manifestLoad => Sys2Proof.Machine.execManifestLoad s
  | .manifestCheckDone => Sys2Proof.Machine.execManifestCheckDone s
  | .hello => Sys2Proof.Machine.execHello s
  | .berthOpen => Sys2Proof.Machine.execBerthOpen s
  | .berthClose => Sys2Proof.Machine.execBerthClose s
  | .berthQuery => Sys2Proof.Machine.execBerthQuery s
  | .tideQuery => Sys2Proof.Machine.execTideQuery s
  | .calSwap => Sys2Proof.Machine.execCalSwap s
  | .fwSwap => Sys2Proof.Machine.execFwSwap s
  | .pierSwap => Sys2Proof.Machine.execPierSwap s
  | .ledgerRead => Sys2Proof.Machine.execLedgerRead s
  | .sealBreak => Sys2Proof.Machine.execSealBreak s
  | .commandParityFail => Sys2Proof.Machine.execCommandParityFail s
  | .bootGo => Sys2Proof.Machine.execBootGo s
  | .bootVerifyDone => Sys2Proof.Machine.execBootVerifyDone s
  | .trimImageArrive die ok => Sys2Proof.Machine.execTrimImageArrive die ok s
  | .trimLoadDone => Sys2Proof.Machine.execTrimLoadDone s
  | .quayRunWrite n run => Sys2Proof.Machine.execQuayRunWrite n run s
  | .launchStart n slot phase => Sys2Proof.Machine.execLaunchStart n slot phase s
  | .launchEnd n slot => Sys2Proof.Machine.execLaunchEnd n slot s
  | .quayResumeWrite n => Sys2Proof.Machine.execQuayResumeWrite n s
  | .faultInputActive n line => Sys2Proof.Machine.execFaultInputActive n line s
  | .planSelectWrite n p => Sys2Proof.Machine.execPlanSelectWrite n p s
  | .lgateTCfgWrite n period value => Sys2Proof.Machine.execLgateTCfgWrite n period value s
  | .lgateTPulse n => Sys2Proof.Machine.execLgateTPulse n s
  | .spiCommandWrite n value => Sys2Proof.Machine.execSpiCommandWrite n value s
  | .spiFrameStart n => Sys2Proof.Machine.execSpiFrameStart n s
  | .spiFrameDone n miso => Sys2Proof.Machine.execSpiFrameDone n miso s
  | .spiRxdRead n => Sys2Proof.Machine.execSpiRxdRead n s
  | .gpioCfgWrite n value => Sys2Proof.Machine.execGpioCfgWrite n value s
  | .gpioOutWrite n value => Sys2Proof.Machine.execGpioOutWrite n value s
  | .segmentClose n adc residues badPoints badSlots => Sys2Proof.Machine.execSegmentClose n adc residues badPoints badSlots s
  | .replayStart => Sys2Proof.Machine.execReplayStart s
  | .replayDone residues badPoints badOffsets badCode => Sys2Proof.Machine.execReplayDone residues badPoints badOffsets badCode s
  | .noiseEstimateValid n => Sys2Proof.Machine.execNoiseEstimateValid n s
  | .noiseWindowWrite n len value => Sys2Proof.Machine.execNoiseWindowWrite n len value s
  | .rxCfgWrite n value => Sys2Proof.Machine.execRxCfgWrite n value s
  | .tileFlush berth group parityRows => Sys2Proof.Machine.execTileFlush berth group parityRows s
  | .sluiceRowWrite berth queued once spoilt badState => Sys2Proof.Machine.execSluiceRowWrite berth queued once spoilt badState s
  | .syncWrite => Sys2Proof.Machine.execSyncWrite s
  | .flowRecordWrite berth luck => Sys2Proof.Machine.execFlowRecordWrite berth luck s
  | .ledgerSecondClose => Sys2Proof.Machine.execLedgerSecondClose s
  | .commitDone => Sys2Proof.Machine.execCommitDone s
  | .intervalRecord => Sys2Proof.Machine.execIntervalRecord s
  | .recordSign => Sys2Proof.Machine.execRecordSign s
  | .czHello min max resume => Sys2Proof.Machine.execCzHello min max resume s
  | .czNack seq ranges => Sys2Proof.Machine.execCzNack seq ranges s
  | .modbusRequest client fn addr count => Sys2Proof.Machine.execModbusRequest client fn addr count s
  | .ledgerHandoverVerify same => Sys2Proof.Machine.execLedgerHandoverVerify same s
  | .ledgerHandoverTimeout => Sys2Proof.Machine.execLedgerHandoverTimeout s
  | .tallyEdge lane raw => Sys2Proof.Machine.execTallyEdge lane raw s
  | .tallyStart lane raw => Sys2Proof.Machine.execTallyStart lane raw s
  | .tallyTimeout lane => Sys2Proof.Machine.execTallyTimeout lane s
  | .tallyFifoPop bank => Sys2Proof.Machine.execTallyFifoPop bank s
  | .statSetComplete lane => Sys2Proof.Machine.execStatSetComplete lane s
  | .freqGateEnd lane => Sys2Proof.Machine.execFreqGateEnd lane s
  | .histogramDumpDone lane ok => Sys2Proof.Machine.execHistogramDumpDone lane ok s
  | .histogramClearWrite lane => Sys2Proof.Machine.execHistogramClearWrite lane s
  | .laneCfgWrite lane reg value => Sys2Proof.Machine.execLaneCfgWrite lane reg value s
  | .ramanTraceRecord berth => Sys2Proof.Machine.execRamanTraceRecord berth s
  | .scanFrameStart m => Sys2Proof.Machine.execScanFrameStart m s
  | .rowSlot m sense => Sys2Proof.Machine.execRowSlot m sense s
  | .diagnosticSlot m sense => Sys2Proof.Machine.execDiagnosticSlot m sense s
  | .shortCheckWrite m => Sys2Proof.Machine.execShortCheckWrite m s
  | .shortCheckDone m pairs => Sys2Proof.Machine.execShortCheckDone m pairs s
  | .beaconResumeWrite m => Sys2Proof.Machine.execBeaconResumeWrite m s
  | .rangingRecord berth => Sys2Proof.Machine.execRangingRecord berth s
  | .byboviFrameStart => Sys2Proof.Machine.execByboviFrameStart s
  | .byboviStatusShare share symbolError => Sys2Proof.Machine.execByboviStatusShare share symbolError s
  | .byboviEnd => Sys2Proof.Machine.execByboviEnd s
  | .headLost k => Sys2Proof.Machine.execHeadLost k s
  | .byboviCmdWrite k value => Sys2Proof.Machine.execByboviCmdWrite k value s
  | .byboviDiscover => Sys2Proof.Machine.execByboviDiscover s
  | .conversionStart c t => Sys2Proof.Machine.execConversionStart c t s
  | .conversionEnd c t code overload exc ended => Sys2Proof.Machine.execConversionEnd c t code overload exc ended s
  | .leadConversionEnd c t code overload exc ended => Sys2Proof.Machine.execLeadConversionEnd c t code overload exc ended s
  | .soundingStart => Sys2Proof.Machine.execSoundingStart s
  | .soundingRestart => Sys2Proof.Machine.execSoundingRestart s
  | .soundingStop => Sys2Proof.Machine.execSoundingStop s
  | .msrcWrite msrc => Sys2Proof.Machine.execMsrcWrite msrc s
  | .mainsLost period => Sys2Proof.Machine.execMainsLost period s
  | .mainsRelock period => Sys2Proof.Machine.execMainsRelock period s
  | .soundingCfgWrite c reg value => Sys2Proof.Machine.execSoundingCfgWrite c reg value s
  | .referenceRotationStep reading => Sys2Proof.Machine.execReferenceRotationStep reading s
  | .watchSampleTake w => Sys2Proof.Machine.execWatchSampleTake w s
  | .captureHeaderWrite w => Sys2Proof.Machine.execCaptureHeaderWrite w s
  | .watchForce w => Sys2Proof.Machine.execWatchForce w s
  | .watchRearm w => Sys2Proof.Machine.execWatchRearm w s
  | .watchLimitWrite w hyst value => Sys2Proof.Machine.execWatchLimitWrite w hyst value s
  | .pierInterrupt core src => Sys2Proof.Machine.execPierInterrupt core src s
  | .holdOffBreak core src => Sys2Proof.Machine.execHoldOffBreak core src s
  | .repeatBody core n len => Sys2Proof.Machine.execRepeatBody core n len s
  | .tapmov core k h x c step => Sys2Proof.Machine.execTapmov core k h x c step s
  | .mac core k ga gb => Sys2Proof.Machine.execMac core k ga gb s
  | .msu core k ga gb => Sys2Proof.Machine.execMsu core k ga gb s
  | .cmac core pair ga gb => Sys2Proof.Machine.execCmac core pair ga gb s
  | .ext core d k sh w32 => Sys2Proof.Machine.execExt core d k sh w32 s
  | .clra core k => Sys2Proof.Machine.execClra core k s
  | .mova core k value => Sys2Proof.Machine.execMova core k value s
  | .lda core k addr load => Sys2Proof.Machine.execLda core k addr load s
  | .cmod core line step => Sys2Proof.Machine.execCmod core line step s
  | .ld core dst addr n signed second stall => Sys2Proof.Machine.execLd core dst addr n signed second stall s
  | .st core src addr n second stall => Sys2Proof.Machine.execSt core src addr n second stall s
  | .branch core taken target => Sys2Proof.Machine.execBranch core taken target s
  | .post core e a => Sys2Proof.Machine.execPost core e a s
  | .endJob core => Sys2Proof.Machine.execEndJob core s
  | .rti core => Sys2Proof.Machine.execRti core s
  | .jobPostWrite cluster arg => Sys2Proof.Machine.execJobPostWrite cluster arg s
  | .jobDispatch core => Sys2Proof.Machine.execJobDispatch core s
  | .warehouseInit => Sys2Proof.Machine.execWarehouseInit s
  | .warehouseReady => Sys2Proof.Machine.execWarehouseReady s
  | .warehouseRead req addr len luck => Sys2Proof.Machine.execWarehouseRead req addr len luck s
  | .warehouseWrite req addr data => Sys2Proof.Machine.execWarehouseWrite req addr data s
  | .warehousePromotion cls waited => Sys2Proof.Machine.execWarehousePromotion cls waited s
  | .tugEnqueue e c value => Sys2Proof.Machine.execTugEnqueue e c value s
  | .tugChainStart e => Sys2Proof.Machine.execTugChainStart e s
  | .tugDescriptorComplete e luck host fails => Sys2Proof.Machine.execTugDescriptorComplete e luck host fails s
  | .lockClose domain => Sys2Proof.Machine.execLockClose domain s
  | .packingEnqueue e value => Sys2Proof.Machine.execPackingEnqueue e value s
  | .packingJobStart e => Sys2Proof.Machine.execPackingJobStart e s
  | .packingJobComplete e cycles luck => Sys2Proof.Machine.execPackingJobComplete e cycles luck s
  | .captureUnitRead b luck => Sys2Proof.Machine.execCaptureUnitRead b luck s
  | .crateClose b => Sys2Proof.Machine.execCrateClose b s
  | .exportEnableWrite k port dport => Sys2Proof.Machine.execExportEnableWrite k port dport s
  | .networkFrameReceive n f => Sys2Proof.Machine.execNetworkFrameReceive n f s
  | .ptpStampPop => Sys2Proof.Machine.execPtpStampPop s
  | .hawserFrameReceive frame coded at_ => Sys2Proof.Machine.execHawserFrameReceive frame coded at_ s
  | .hawserForward => Sys2Proof.Machine.execHawserForward s
  | .hawserLost => Sys2Proof.Machine.execHawserLost s
  | .ppsInEdge at_ => Sys2Proof.Machine.execPpsInEdge at_ s
  | .f10mRateUpdate rate => Sys2Proof.Machine.execF10mRateUpdate rate s
  | .backscatterPass n l stat iq => Sys2Proof.Machine.execBackscatterPass n l stat iq s
  | .codeDensityPass lane hits bubbly => Sys2Proof.Machine.execCodeDensityPass lane hits bubbly s
  | .calSelectionWrite => Sys2Proof.Machine.execCalSelectionWrite s
  | .resetAssert cause => Sys2Proof.Machine.execResetAssert cause s
  | .resetRelease => Sys2Proof.Machine.execResetRelease s
  | .warmResetWrite => Sys2Proof.Machine.execWarmResetWrite s
  | .coldResetWrite => Sys2Proof.Machine.execColdResetWrite s
  | .domainResetWrite domain => Sys2Proof.Machine.execDomainResetWrite domain s
  | .berthResetWrite index => Sys2Proof.Machine.execBerthResetWrite index s
  | .domainReady domain => Sys2Proof.Machine.execDomainReady domain s
  | .watchdogCfgWrite value => Sys2Proof.Machine.execWatchdogCfgWrite value s
  | .watchdogKick key => Sys2Proof.Machine.execWatchdogKick key s
  | .watchdogExpire => Sys2Proof.Machine.execWatchdogExpire s
  | .lockTimeout domain => Sys2Proof.Machine.execLockTimeout domain s
  | .thermalTrip => Sys2Proof.Machine.execThermalTrip s
  | .brownOut => Sys2Proof.Machine.execBrownOut s
  | .supplyFault => Sys2Proof.Machine.execSupplyFault s
  | .powerRequest domain on => Sys2Proof.Machine.execPowerRequest domain on s
  | .pinHoldRelease => Sys2Proof.Machine.execPinHoldRelease s
  | .rtcLoWrite value => Sys2Proof.Machine.execRtcLoWrite value s
  | .rtcHiWrite value => Sys2Proof.Machine.execRtcHiWrite value s
  | .vbatReturn => Sys2Proof.Machine.execVbatReturn s
  | .safeArm tj rises => Sys2Proof.Machine.execSafeArm tj rises s
  | .safeEngage => Sys2Proof.Machine.execSafeEngage s
  | .ilockNHigh => Sys2Proof.Machine.execIlockNHigh s
  | .thermalWarn tj => Sys2Proof.Machine.execThermalWarn tj s
  | .fitWrite => Sys2Proof.Machine.execFitWrite s
  | .sealWrite => Sys2Proof.Machine.execSealWrite s
  | .tokenApply => Sys2Proof.Machine.execTokenApply s
  | .charterProgram => Sys2Proof.Machine.execCharterProgram s
  | .charterProgramDone a b => Sys2Proof.Machine.execCharterProgramDone a b s
  | .fwSwapReady ok => Sys2Proof.Machine.execFwSwapReady ok s
  | .fwSwapTimeout => Sys2Proof.Machine.execFwSwapTimeout s
  | .ilockNLow => Sys2Proof.Machine.execIlockNLow s
  | .faultInputInactive n line => Sys2Proof.Machine.execFaultInputInactive n line s
  | .vbatLoss => Sys2Proof.Machine.execVbatLoss s
  | .lgateARise n slot => Sys2Proof.Machine.execLgateARise n slot s
  | .unknownCmd => Sys2Proof.Machine.execUnknownCmd s
  | .domainOffRead addr => Sys2Proof.Machine.execDomainOffRead addr s
  | .ptpSend n msg seq at_ => Sys2Proof.Machine.execPtpSend n msg seq at_ s

end Sys2Proof.Machine
end

