-- ==== Sys2Proof/Machine/Step.lean ====
section
/-! DEFINITION. One step: the command at the front of the queue, or a tick of the clock when none waits. -/

namespace Sys2Proof.Machine

/-- With no command waiting, 1 ns passes, up to but not over a tide boundary, which is a command of its own (log entry 1). While a reset
holds the device its time stands still (R433). -/
def State.tick (s : State) : State := if s.power.held.isNone ∧ s.inTide (s.now + 1) then { s with now := s.now + 1 } else s

/-- One step. -/
def step (s : State) : Host.Outcome State Fault Refusal := match s.pending with
  | [] => .next s.tick
  | c :: rest => exec c { s with pending := rest }

/-- `s` with the command that a word spells at the front of its queue; a word that spells none leaves `s` as it is. -/
def State.withFetchWord (s : State) (nbits w : Nat) : State := match decodeTableWord nbits w with
  | none => s
  | some c => { s with pending := c :: s.pending }

end Sys2Proof.Machine
end

