-- ==== Sys2Proof/Safety.lean ====
section
/-! DEFINITION. What counts as a safe run, and the terms in which the statements speak of a state: that no reset holds the device, that a
block takes register writes, and which register fields a command may change. -/

namespace Sys2Proof

/-- The first `n` steps from `s` all answer a next state. -/
def Safe (s : Machine.State) (n : Nat) : Prop := ∃ t, core.run n s = .next t

namespace Machine

/-- No L0 or L1 reset holds the device (R433). -/
def State.runs (s : State) : Prop := s.power.held = none

/-- No reset holds the device, power domain `d` is on, and its outputs have left their cold-reset or held state, as they do at the block's first
register write (R31, R437, R461). -/
def State.takesWrites (s : State) (d : Nat) : Prop := s.power.held = none ∧ s.powered d = true ∧ s.endHold d = s

/-- Quay `n` takes register writes, and QLINK_C, over which they go, is up (R16). -/
def State.quayTakes (s : State) (n : Nat) : Prop := s.takesWrites (quayDomain n) ∧ (s.link 8).retraining = false

/-- The RC fields of a register (R3). -/
def rcFields (r : RegRow) (addr : Nat) : List Fld := (r.fields.filter (fun f => f.acc == .rc)).map (fun f => f.at addr)

/-- A read of the register takes the head of a queue (R83, R208, R403). -/
def popsQueue (r : RegRow) (addr : Nat) : Bool :=
  (r.name == "TL_FIFO_w" && (r.inst addr).2 == 0) || (r.name == "NT_TS_FIFO_w" && (r.inst addr).1 == 0) || r.name == "QY_SPI_RXD"

/-- Every register field whose place is not that of a listed one reads in `t` as it does in `s`. -/
def OnlyRegs (fs : List Fld) (s t : State) : Prop := ∀ g : Fld, (∀ f ∈ fs, f.key ≠ g.key) → t.rd g = s.rd g

/-- The memories keep what they hold: the Shed with its parity, the Hold, the Charter and the Warehouse. -/
def SameMemories (s t : State) : Prop :=
  t.shed = s.shed ∧ t.shedBad = s.shedBad ∧ t.hold = s.hold ∧ t.charter = s.charter ∧ t.wh = s.wh

/-- The memories are in canonical form: keys strictly rising, and no entry equal to what an unlisted key reads as. -/
def State.memoriesWf (s : State) : Bool :=
  Tab.wf 0 s.shed && Tab.wf false s.shedBad && Tab.wf 0 s.hold && Tab.wf 0 s.charter && Tab.wf 0 s.wh.bytes &&
    Tab.wf false s.wh.written && Tab.wf false s.wh.bad && Tab.wf [] s.wh.queue && Tab.wf 0 s.wh.check && Tab.wf none s.wh.rows

/-- Each channel's write queue holds at most 64 blocks, all of them of that channel and written (R347). -/
def State.whQueuesOk (s : State) : Prop :=
  ∀ c, (Tab.get [] s.wh.queue c).length ≤ 64 ∧
    ∀ b ∈ Tab.get [] s.wh.queue c, b / 4 % 2 = c ∧ Tab.get false s.wh.written b = true

/-- The change `c` is accepted in the command that goes from `s` to `t` (R37, Table 2.10): it joins the landing list, last, and HB_LAND
shows its landing tide. -/
def Accepted (c : Change) (s t : State) : Prop :=
  t.landing = s.landing ++ [⟨landAt s.now, c⟩] ∧ t.rd R.HB_LAND_LO_TIDE_LO = low 32 (tideOf (landAt s.now)) ∧
    t.rd R.HB_LAND_HI_TIDE_HI = low 15 (tideOf (landAt s.now) / 2 ^ 32)

/-- The bits that a change accepted for landing moves: HB_LAND. -/
def landFields : List Fld := [R.HB_LAND_LO_TIDE_LO, R.HB_LAND_HI_TIDE_HI]

/-- The fields an event that finds the signing queue full moves (R185). -/
def eventFields : List Fld := [R.LG_STATUS_EVT_OVF, R.LG_EVT_DROP_CNT_COUNT]

/-- The fields a Shed read that meets a failing word moves (R341). -/
def parityFields : List Fld := [R.TG_SHED_STATUS_PARITY, R.TG_SHED_PAR_CNT_COUNT, R.TG_SHED_PAR_ADDR_OFFSET]

/-- The command at MB_CMD_HEAD can be taken, passes parity, and carries this code, tag and these argument words (R391, R392, Table 15.4). -/
def State.mailOffers (s : State) (code tag : Nat) (args : List Nat) : Prop :=
  s.runs ∧ s.mailReady = true ∧ s.shedFails s.mailEntry 512 = false ∧ s.shedNat s.mailEntry 2 = tag ∧
    s.shedNat (s.mailEntry + 2) 1 = code ∧ s.shedNat (s.mailEntry + 4) 2 = args.length ∧ args.length ≤ 124 ∧
    ∀ i, i < args.length → s.shedNat (s.mailEntry + 16 + 4 * i) 4 = args.getD i 0

/-- The bytes of a reply: TAG, CMD, STATUS, NRES, a reserved halfword, LAND, and the result words (Table 15.4). -/
def replyBytes (tag cmd status land : Nat) (words : List Nat) : List Byte :=
  leBytes 2 tag ++ leBytes 1 cmd ++ leBytes 1 status ++ leBytes 2 words.length ++ leBytes 2 0 ++ leBytes 8 land ++ words.flatMap (leBytes 4)

/-- Where the next reply lies in the Shed (R391). -/
def State.replyAt (s : State) : Nat := (s.rd R.MB_RPL_BASE_OFFSET + 512 * s.rd R.MB_RPL_TAIL_TAIL) % 0x4000000

/-- The command that goes from `s` to `t` is answered with this reply and leaves its ring (R392): the reply's bytes are in the next slot,
MB_CMD_HEAD and MB_RPL_TAIL advance modulo 64, RPL sets and vector VEC is signalled. -/
def Replied (tag cmd status land : Nat) (words : List Nat) (s t : State) : Prop :=
  t.rd R.MB_CMD_HEAD_HEAD = (s.rd R.MB_CMD_HEAD_HEAD + 1) % 64 ∧ t.rd R.MB_RPL_TAIL_TAIL = (s.rd R.MB_RPL_TAIL_TAIL + 1) % 64 ∧
    t.rd R.MB_STATUS_RPL = 1 ∧ t.signalled = s.signalled ++ [s.rd R.MB_CFG_VEC] ∧
    (s.rd R.MB_RPL_BASE_OFFSET % 4 = 0 → ∀ i, i < (replyBytes tag cmd status land words).length →
      t.shedByte (s.replyAt + i) = (replyBytes tag cmd status land words).getD i 0)

/-- Outside the bytes of a reply of `n` result words the Shed keeps its content. -/
def ReplyOnly (n : Nat) (s t : State) : Prop :=
  ∀ a, (a < s.replyAt ∨ s.replyAt + 16 + 4 * n ≤ a) → t.shedByte a = s.shedByte a

/-- The fields a reply moves. WRITE_DISC can set only where the host placed the reply ring at no word boundary. -/
def replyFields : List Fld := [R.MB_CMD_HEAD_HEAD, R.MB_RPL_TAIL_TAIL, R.MB_STATUS_RPL, R.TG_SHED_STATUS_WRITE_DISC]

/-- Core `k` issues the instruction at its program counter (R319, R320, R322, R332): a job or a handler runs, the instruction's word passes
parity, the run of delay slots and load shadows is below its limit, no delay slot ends a REPEAT body, and no load lands in it. -/
def State.canIssue (s : State) (k : Nat) : Prop :=
  s.runs ∧ ((s.core k).job ≠ none ∨ (s.core k).saved ≠ none) ∧ Tab.get false (s.core k).bad (0x20000 + (s.core k).pc) = false ∧
    (((s.core k).branch = none ∧ (s.core k).loads = []) ∨ (s.core k).run < 32) ∧
    ((s.core k).branch = none ∨ ∀ l ∈ (s.core k).loops, l.stop ≠ (s.core k).pc) ∧ ∀ l ∈ (s.core k).loads, l.left ≠ 0

/-- The fields that every instruction of core `k` may move: its own registers, and GOV of its cluster. -/
def coreFields (k : Nat) : List Fld :=
  [R.PI_CORE_k_STATUS_BERTH (k / 4) (k % 4), R.PI_CORE_k_STATUS_GOV (k / 4) (k % 4), R.PI_CORE_k_STATUS_FRZ (k / 4) (k % 4),
    R.PI_CORE_k_STATUS_WRAP (k / 4) (k % 4), R.PI_CORE_k_STATUS_IRQ_HELD (k / 4) (k % 4), R.PI_CORE_k_STATUS_DEPTH (k / 4) (k % 4),
    R.PI_CORE_k_STATUS_BUSY (k / 4) (k % 4), R.PI_CORE_k_PC_PC (k / 4) (k % 4), R.PI_CORE_k_CYC_CYCLES (k / 4) (k % 4),
    R.PI_CORE_k_BUSY_CNT_COUNT (k / 4) (k % 4), R.PI_CL_STATUS_GOV (k / 4)]

/-- The index that follows an instruction that is no branch, and the REPEAT levels (R319, R320). -/
def FlowsOn (x y : Core) : Prop :=
  (x.branch = none → (∀ l ∈ x.loops, l.stop ≠ x.pc) → y.pc = low 14 (x.pc + 1) ∧ y.loops = x.loops ∧ y.branch = none) ∧
  (∀ l ls, x.branch = none → x.loops = l :: ls → l.stop = x.pc → 1 < l.left →
    y.pc = low 14 l.start ∧ y.loops = { l with left := l.left - 1 } :: ls) ∧
  (∀ l, x.branch = none → x.loops = [l] → l.stop = x.pc → l.left ≤ 1 → y.pc = low 14 (x.pc + 1) ∧ y.loops = []) ∧
  (∀ n d, x.branch = some (n + 2, d) → y.pc = low 14 (x.pc + 1) ∧ y.branch = some (n + 1, d) ∧ y.loops = x.loops) ∧
  ∀ d, x.branch = some (1, some d) → y.pc = d ∧ y.branch = none

/-- An addition of `v` into accumulator `k` between the cores `x` and `y` (R323). -/
def AccAdds (k : Nat) (v : Int) (x y : Core) : Prop :=
  (bit x.wrap k = true → y.acc k = toSigned 40 (ofSigned 40 (x.acc k + v)) ∧ y.frz = x.frz ∧ y.gov = x.gov) ∧
  (bit x.wrap k = false → bit x.frz k = true → y.acc k = x.acc k ∧ y.frz = x.frz ∧ y.gov = x.gov) ∧
  (bit x.wrap k = false → bit x.frz k = false → -(2 ^ 39 - 1) ≤ x.acc k + v → x.acc k + v ≤ 2 ^ 39 - 1 →
    y.acc k = x.acc k + v ∧ y.frz = x.frz ∧ y.gov = x.gov) ∧
  (bit x.wrap k = false → bit x.frz k = false → 2 ^ 39 - 1 < x.acc k + v →
    y.acc k = 2 ^ 39 - 1 ∧ bit y.frz k = true ∧ bit y.gov k = true) ∧
  (bit x.wrap k = false → bit x.frz k = false → x.acc k + v < -(2 ^ 39 - 1) →
    y.acc k = -(2 ^ 39 - 1) ∧ bit y.frz k = true ∧ bit y.gov k = true) ∧
  (∀ i, i ≠ k → y.acc i = x.acc i ∧ bit y.frz i = bit x.frz i ∧ bit y.gov i = bit x.gov i) ∧ y.wrap = x.wrap

/-- The core `x` with what every instruction may move taken from `y`: the program counter, loops, branch and loads in flight, the run of slots
and shadows, the cycles and how long interrupts have been held. -/
def Core.movedBy (x y : Core) : Core :=
  { x with pc := y.pc, cyc := y.cyc, loops := y.loops, branch := y.branch, loads := y.loads, run := y.run, irqs := y.irqs }

/-- Core `k` issued an instruction of `n` cycles (R319, R330): the cycles are counted and charged to the job's berth, the other cores keep
their state, the clusters keep everything but those charges, and only the core's own registers and GOV move. -/
def Issued (k n : Nat) (s t : State) : Prop :=
  (t.core k).cyc = (s.core k).cyc + n ∧ (∀ i, i ≠ k → t.core i = s.core i) ∧
    (∀ j b, (s.core k).job = some j → j.berth = some b → Tab.get 0 (t.cluster (k / 4)).used b = Tab.get 0 (s.cluster (k / 4)).used b + n) ∧
    OnlyRegs (coreFields k) s t ∧ t.rd (R.PI_CORE_k_PC_PC (k / 4) (k % 4)) = low 14 (t.core k).pc

/-- The clusters keep their queues, images and completions; cycles charged in this tide may grow. -/
def SameClusters (s t : State) : Prop := ∀ n, t.cluster n = { s.cluster n with used := (t.cluster n).used }

/-- The loads in flight of `x` are one instruction nearer, and none landed (R319). -/
def LoadsNearer (x y : Core) : Prop := y.loads = x.loads.map (fun l => { l with left := l.left - 1 })

/-- The job on core `k` ended with a fault (R332): its completion carries the code and address, the core is free, and its registers,
accumulators and memories are as the earlier instructions left them. -/
def FaultEnds (k code addr : Nat) (s t : State) : Prop :=
  ∀ j b, (s.core k).job = some j → j.berth = some b →
    (t.core k).job = none ∧ (t.cluster (k / 4)).done = (s.cluster (k / 4)).done ++
      [{ job := j, tide := decide (j.posted < tideOf s.now), dropped := (s.core k).abandoned, fault := code, addr := addr }] ∧
    (t.core k).g = (s.core k).g ∧ (t.core k).a = (s.core k).a ∧ (t.core k).c = (s.core k).c ∧ (t.core k).mem = (s.core k).mem ∧
    (∀ i, i ≠ k → t.core i = s.core i) ∧ t.rd (R.PI_CL_STATUS_FAULT (k / 4)) = 1 ∧
    t.rd (R.PI_CL_FAULT_CNT_FAULT (k / 4)) = satAdd 16 (s.rd (R.PI_CL_FAULT_CNT_FAULT (k / 4))) 1 ∧
    (s.rd (R.PI_CL_STATUS_FAULT (k / 4)) ≠ 1 → t.rd (R.PI_CL_LASTFAULT_CORE (k / 4)) = k % 4 ∧
      t.rd (R.PI_CL_LASTFAULT_CODE (k / 4)) = low 4 code ∧ t.rd (R.PI_CL_LASTFAULT_ADDR (k / 4)) = low 22 addr) ∧
    t = { s with regs := t.regs, cores := t.cores, clusters := t.clusters }

end Machine

end Sys2Proof
end

