-- ==== Sys2Proof/WellFormed.lean ====
section
/-! DEFINITION. Which terms of Instr stand for a command: the operands that a command can carry. A meaning refuses the other terms as
ill-formed, for no command is written so. -/

namespace Sys2Proof

open Sys2Proof.Machine in
/-- The term stands for a command. -/
def Instr.wellFormed : Instr → Bool
  -- R3, R32: a word written by the host lies in the register window, below the Shed window
  | .registerWrite who addr _ _ => who == .tug || addr % 4 != 0 || decide (addr < 0x4000000)
  -- R1: an aligned 32-bit access is supported
  | .unsupportedAccess _ addr size => !(size == 4 && addr % 4 == 0)
  -- R32: an address of the BAR that no register occupies
  | .unmappedAccess _ addr => decide (addr < 0x4000000) && (regRow? addr).isNone
  -- R2, R5: the register read
  | .lowWordRead addr => (pairRow? addr).isSome
  | .readClear addr _ => (regRow? addr).isSome
  -- R33, R338: the Shed window
  | .shedWindowRead off len => decide (off + len ≤ shedSize)
  | .shedWindowWrite off bytes => decide (off + bytes.length ≤ shedSize)
  -- R22: a Ballast register but for the RTC
  | .ballastWrite addr _ => decide (0x200100 ≤ addr) && decide (addr < 0x200158) && addr % 4 == 0
  -- R320: the length of the body and an immediate count
  | .repeatBody _ n len => decide (1 ≤ len) && decide (len ≤ 256) && (match n with
    | .imm v => decide (v ≤ 1024)
    | .reg _ => true)
  -- R317, R323: the bytes an accumulator is loaded from, and the stall
  | .lda _ _ _ load => decide (1 ≤ load.bytes) && decide (load.bytes ≤ 5) && decide (load.stall ≤ 40)
  -- R317: access sizes and the stall
  | .ld _ dst addr n signed second stall => accessesOk (.load dst addr n signed :: second.toList) && decide (stall ≤ 40)
  | .st _ src addr n second stall => accessesOk (.store src addr n :: second.toList) && decide (stall ≤ 40)
  | _ => true

end Sys2Proof
end

