-- ==== Sys2Proof/Certificates/Slice0/Obligations.lean ====
section
/-! DEFINITION. What is claimed of the model: one statement a definition, each over every state and operand that its hypotheses admit. -/

open Sys2Proof Sys2Proof.Machine

/-- R1: every register row sits at aligned addresses and its fields lie within 32 bits; an access of any other size or alignment is answered
unsupported and changes nothing else. -/
def Obligations.UnsupportedAccessHasNoEffect : Prop :=
  (∀ r ∈ regMap, r.base % 4 = 0 ∧ (∀ d ∈ r.dims, d.1 % 4 = 0) ∧ ∀ f ∈ r.fields, f.lo + f.width ≤ 32) ∧
  ∀ (write : Bool) (addr size : Nat) (s : State), s.runs → ¬(size = 4 ∧ addr % 4 = 0) →
    exec (.unsupportedAccess write addr size) s = .next { s with completion := ⟨.unsupported, []⟩ }

/-- R32: a host access to an address of the BAR that no register occupies, a read or a write, the reserved range included, completes: it reads 0
or discards what is written, sets UNMAPPED, and latches the address if UNMAPPED was 0; nothing else changes. A host's REGISTER_WRITE to such an
address is the same access. -/
def Obligations.UnmappedAccessLatchesFirstAddress : Prop :=
  ∀ (write : Bool) (addr : Nat) (s : State), s.runs → addr < 0x4000000 → regRow? addr = none →
    (∃ t, exec (.unmappedAccess write addr) s = .next t ∧ t.completion = ⟨.ok, if write then [] else [0]⟩ ∧
      t.rd R.HB_ERR_STATUS_UNMAPPED = 1 ∧
      (s.rd R.HB_ERR_STATUS_UNMAPPED = 0 → t.rd R.HB_UNMAPPED_ADDR_ADDR = addr) ∧
      (s.rd R.HB_ERR_STATUS_UNMAPPED = 1 → t.rd R.HB_UNMAPPED_ADDR_ADDR = s.rd R.HB_UNMAPPED_ADDR_ADDR) ∧
      OnlyRegs [R.HB_ERR_STATUS_UNMAPPED, R.HB_UNMAPPED_ADDR_ADDR] s t ∧ t = { s with regs := t.regs, completion := t.completion }) ∧
    ∀ v hw : Word, addr % 4 = 0 → exec (.registerWrite .host addr v hw) s = exec (.unmappedAccess true addr) s

/-- R31: a host read of a register of a domain that is off answers 0, a host write to one is discarded, and either sets the domain's bit in
RS_LOCK_ERR; nothing else changes. A read of a low word and one of a register with RC fields are such reads too, and a Tug's write is discarded. -/
def Obligations.OffDomainAccessSetsLockError : Prop :=
  ∀ (addr : Nat) (value hw : Word) (s : State), s.runs → s.powered (domainOf addr) = false →
    (∃ t, exec (.domainOffRead addr) s = .next t ∧ t.completion = ⟨.ok, [0]⟩ ∧ bit (t.rd R.RS_LOCK_ERR_ERR) (domainOf addr) = true ∧
      (∀ d, d < 26 → d ≠ domainOf addr → bit (t.rd R.RS_LOCK_ERR_ERR) d = bit (s.rd R.RS_LOCK_ERR_ERR) d) ∧
      OnlyRegs [R.RS_LOCK_ERR_ERR] s t ∧ t = { s with regs := t.regs, completion := t.completion }) ∧
    ((regRow? addr).isSome → exec (.readClear addr hw) s = exec (.domainOffRead addr) s ∧
      ((pairRow? addr).isSome → exec (.lowWordRead addr) s = exec (.domainOffRead addr) s)) ∧
    (addr % 4 = 0 → (regRow? addr).isSome →
      (∃ t, exec (.registerWrite .host addr value hw) s = .next t ∧ t.completion = ⟨.ok, []⟩ ∧
        bit (t.rd R.RS_LOCK_ERR_ERR) (domainOf addr) = true ∧
        OnlyRegs [R.RS_LOCK_ERR_ERR] s t ∧ t = { s with regs := t.regs, completion := t.completion }) ∧
      exec (.registerWrite .tug addr value hw) s = .next s)

/-- R2: a read of the low word of a latching pair returns the word that the register holds and latches every high word of the pair into its
shadow; no other shadow and nothing else changes. It stands for every pair of the map: the low word of each is a register that has no RC field and
is the head of no queue. -/
def Obligations.LowWordReadLatchesHighWords : Prop :=
  (∀ p ∈ pairMap, ∃ r, regRow? p.base = some r ∧ rcFields r p.base = [] ∧ popsQueue r p.base = false) ∧
  ∀ (addr : Nat) (p : PairRow) (r : RegRow) (s : State), s.runs → pairRow? addr = some p → regRow? addr = some r → rcFields r addr = [] →
    popsQueue r addr = false → s.powered (domainOf addr) = true →
    ∃ t, exec (.lowWordRead addr) s = .next t ∧ t.completion = ⟨.ok, [s.busWord addr]⟩ ∧
      (∀ h ∈ p.highs, Tab.get none t.shadows (addr + h) = some (s.liveWord (addr + h))) ∧
      (∀ a, (∀ h ∈ p.highs, addr + h ≠ a) → Tab.get none t.shadows a = Tab.get none s.shadows a) ∧
      t = { s with shadows := t.shadows, completion := t.completion }

/-- R2, R3, R5, R83, R208, R403: a read of a register returns the word from before the read (a high word of a pair its shadow, or before any read
of the low word the reset value), and leaves in each RC field only the bits that hardware sets in the same cycle; no other field changes, and no
shadow unless the register is the low word of a pair. A read of TL_FIFO_0, QY_SPI_RXD or NT_TS_FIFO_0 is the pop of its queue. -/
def Obligations.ReadClearKeepsConcurrentSets : Prop :=
  (∀ (addr : Nat) (r : RegRow) (hw : Word) (s : State), s.runs → regRow? addr = some r → popsQueue r addr = false →
    s.powered (domainOf addr) = true →
    ∃ t, exec (.readClear addr hw) s = .next t ∧ t.completion = ⟨.ok, [s.busWord addr]⟩ ∧
      (∀ f ∈ r.fields, f.acc = .rc → t.rd (f.at addr) = bits hw.toNat f.lo f.width) ∧
      OnlyRegs (rcFields r addr) s t ∧ (pairRow? addr = none → t.shadows = s.shadows) ∧
      t = { s with regs := t.regs, shadows := t.shadows, completion := t.completion }) ∧
  (∀ (addr : Nat) (s : State), isHighRow addr = true → ∀ r, regRow? addr = some r →
    s.readWord addr = (Tab.get none s.shadows addr).getD (rowReset r)) ∧
  ∀ (hw : Word) (s : State), s.runs →
    (∀ b : Fin 8, exec (.readClear (0x600100 + 0x10000 * b.val) hw) s = exec (.tallyFifoPop b) s) ∧
    (∀ n : Fin 8, exec (.readClear (0x40004C + 0x10000 * n.val) hw) s = exec (.spiRxdRead n) s) ∧
    exec (.readClear 0xE00010 hw) s = exec .ptpStampPop s

/-- R3, R4, R8, R16, R21, R437: a write to a register without an effect of its own, by the host or a Tug, stores in each RW and WO field the value
written, unless that value is reserved for the field, sets the ones written in a W1S field, clears the ones written in a W1C field but for those
hardware sets in the same cycle, and leaves RO and RC fields as they are; no field outside the register changes. While QLINK_C retrains, a write
that goes over it, or follows one to the same block, is held. A write to a register that has a row of its own acts as that row. The first write of a
block ends the hold of its outputs and otherwise acts as any other. -/
def Obligations.PlainRegisterWriteFollowsAccessCodes : Prop :=
  (∀ (who : Requester) (addr : Nat) (r : RegRow) (v hw : Word) (s : State), s.takesWrites (domainOf addr) → addr % 4 = 0 →
    regRow? addr = some r →
    (isBallast addr = false → effectRows.contains r.name = false →
      ((s.link 8).retraining = false ∨ (crossesQlink r addr = false ∧ ∀ e ∈ (s.link 8).held, e.1 ≠ domainOf addr)) →
      ∃ t, exec (.registerWrite who addr v hw) s = .next t ∧ t.completion = (if who = .host then ⟨.ok, []⟩ else s.completion) ∧
        (∀ f ∈ r.fields, f.acc = .rw ∨ f.acc = .wo → t.rd (f.at addr) =
          if f.accepts (bits v.toNat f.lo f.width) then bits v.toNat f.lo f.width else s.rd (f.at addr)) ∧
        (∀ f ∈ r.fields, f.acc = .ro ∨ f.acc = .rc ∨ f.acc = .own → t.rd (f.at addr) = s.rd (f.at addr)) ∧
        (∀ f ∈ r.fields, f.acc = .w1s → f.width = 1 → bits v.toNat f.lo 1 = 1 → s.rd (f.at addr) < 2 → t.rd (f.at addr) = 1) ∧
        (∀ f ∈ r.fields, f.acc = .w1c → f.width = 1 → s.rd (f.at addr) = 1 → bits v.toNat f.lo 1 = 1 →
          t.rd (f.at addr) = bits hw.toNat f.lo 1) ∧
        (∀ f ∈ r.fields, f.acc = .rwl → s.rd R.CU_STATE_STATE = 3 → t.rd (f.at addr) = s.rd (f.at addr)) ∧
        OnlyRegs ([R.CU_STATUS_RWL_HIT, R.CU_RWL_CNT_COUNT] ++ r.fields.map (fun f => f.at addr)) s t ∧
        t = { s with regs := t.regs, completion := t.completion }) ∧
    ((s.link 8).retraining = true → crossesQlink r addr = true ∨ (∃ e ∈ (s.link 8).held, e.1 = domainOf addr) →
      ∃ t, exec (.registerWrite who addr v hw) s = .next t ∧ t.completion = (if who = .host then ⟨.ok, []⟩ else s.completion) ∧
        (t.link 8).held = (s.link 8).held ++ [(domainOf addr, .registerWrite who addr v hw)] ∧ (∀ k, k ≠ 8 → t.link k = s.link k) ∧
        t = { s with links := t.links, completion := t.completion })) ∧
  (∀ (who : Requester) (v hw : Word) (s : State), (s.link 8).retraining = false →
    let acts : Nat → Instr → Prop := fun a c => s.takesWrites (domainOf a) →
      exec (.registerWrite who a v hw) s = exec c (if who = .host then s.answer .ok [] else s)
    (acts 0x84 (.timeRateWrite v) ∧ acts 0x8C (.timeStepRequest v) ∧ (bit v.toNat 0 = true → acts 0x1808 .manifestLoad)) ∧
    (∀ n : Fin 8, acts (0x400008 + 0x10000 * n) (.planSelectWrite n (Fin.ofNat 4 (bits v.toNat 0 2))) ∧
      acts (0x400034 + 0x10000 * n) (.lgateTCfgWrite n false v) ∧ acts (0x400038 + 0x10000 * n) (.lgateTCfgWrite n true v) ∧
      acts (0x400044 + 0x10000 * n) (.spiCommandWrite n v) ∧ acts (0x400060 + 0x10000 * n) (.gpioCfgWrite n v) ∧
      acts (0x400064 + 0x10000 * n) (.gpioOutWrite n v) ∧ acts (0x501000 + 0x100 * n) (.rxCfgWrite n v) ∧
      acts (0x501010 + 0x100 * n) (.noiseWindowWrite n false v) ∧ acts (0x501014 + 0x100 * n) (.noiseWindowWrite n true v)) ∧
    (∀ l : Fin 128, ∀ a, a = 0x601000 + 0x10000 * (l.val / 16) + 0x100 * (l.val % 16) →
      acts a (.laneCfgWrite l 0 v) ∧ acts (a + 8) (.laneCfgWrite l 1 v) ∧ acts (a + 0x10) (.laneCfgWrite l 2 v) ∧
      acts (a + 0x14) (.laneCfgWrite l 3 v) ∧ acts (a + 0x18) (.laneCfgWrite l 4 v) ∧ acts (a + 0x1C) (.laneCfgWrite l 5 v) ∧
      (bit v.toNat 0 = true → acts (a + 0x20) (.histogramClearWrite l))) ∧
    (∀ k : Fin 16, acts (0x700100 + 0x10 * k) (.byboviCmdWrite k v)) ∧
    (∀ (c : Fin 16) (j : Fin 10), acts (0x801000 + 0x100 * c + 4 * j) (.soundingCfgWrite c j v)) ∧
    (∀ w : Fin 32, acts (0x90100C + 0x100 * w) (.watchLimitWrite w false v) ∧ acts (0x901010 + 0x100 * w) (.watchLimitWrite w true v)) ∧
    (∀ k : Fin 4, acts (0xA00044 + 0x40000 * k) (.jobPostWrite k v)) ∧
    (∀ (e : Fin 8) (c : Fin 32), acts (0xC01104 + 0x1000 * e + 0x20 * c) (.tugEnqueue e c v)) ∧
    (∀ e : Fin 2, acts (0xD01004 + 0x100 * e) (.packingEnqueue e v)) ∧
    (bit v.toNat 0 = true → acts 0xB00000 .warehouseInit ∧ acts 0xF04024 .bootGo ∧ acts 0x100108 .charterProgram) ∧
    (acts 0x200008 (.watchdogCfgWrite v) ∧ acts 0x20000C (.watchdogKick (Fin.ofNat 256 (bits v.toNat 0 8))) ∧
      acts 0x200020 (.powerRequest (Fin.ofNat 32 (bits v.toNat 0 5)) (bit v.toNat 8)) ∧
      acts 0x200030 (.domainResetWrite (Fin.ofNat 32 (bits v.toNat 0 5))) ∧
      acts 0x200034 (.berthResetWrite (Fin.ofNat 4096 (bits v.toNat 0 12))) ∧ (bits v.toNat 0 8 = 0x5A → acts 0x200040 .safeEngage) ∧
      (bit v.toNat 1 = true → acts 0x200004 .coldResetWrite ∧ acts 0x200050 .pinHoldRelease) ∧
      (bits v.toNat 0 2 = 1 → acts 0x200004 .warmResetWrite)) ∧
    (∀ a, 0x200100 ≤ a → a < 0x200158 → (regRow? a).isSome → acts a (.ballastWrite a v)) ∧
    acts 0x200158 (.rtcLoWrite v) ∧ acts 0x20015C (.rtcHiWrite (BitVec.ofNat 16 v.toNat))) ∧
  ∀ (who : Requester) (addr : Nat) (v hw : Word) (s : State), s.runs → (s.link 8).retraining = false → s.powered (domainOf addr) = true →
    addr % 4 = 0 → (regRow? addr).isSome →
    (s.endHold (domainOf addr)).takesWrites (domainOf addr) ∧
      exec (.registerWrite who addr v hw) s = exec (.registerWrite who addr v hw) (s.endHold (domainOf addr))

/-- R33, R341: a read through the Shed window of bytes that pass parity returns them and changes nothing else; a request across 4 KiB has no
effect; a read that meets a failing word is poisoned, sets SHED_POISON and leaves the Shed as it is. -/
def Obligations.ShedWindowReadReturnsBytes : Prop :=
  ∀ (off len : Nat) (s : State), s.runs → off + len ≤ 0x4000000 →
    (crosses4K off len = true → exec (.shedWindowRead off len) s = .next { s with completion := ⟨.malformed, []⟩ }) ∧
    (crosses4K off len = false → s.shedFails off len = false →
      exec (.shedWindowRead off len) s =
        .next { s with completion := ⟨.ok, (List.range len).map (fun i => (s.shedByte (off + i)).toNat)⟩ }) ∧
    (crosses4K off len = false → s.shedFails off len = true →
      ∃ t, exec (.shedWindowRead off len) s = .next t ∧ t.completion = ⟨.poisoned, []⟩ ∧ t.rd R.HB_ERR_STATUS_SHED_POISON = 1 ∧
        OnlyRegs [R.HB_ERR_STATUS_SHED_POISON, R.TG_SHED_STATUS_PARITY, R.TG_SHED_PAR_CNT_COUNT, R.TG_SHED_PAR_ADDR_OFFSET] s t ∧
        t = { s with regs := t.regs, completion := t.completion })

/-- R33, R340: a write through the Shed window that crosses no 4 KiB boundary stores each byte unless it is part of a word of which the write
covers only a part and which fails parity; that word keeps its content and WRITE_DISC sets. A word covered whole has fresh parity; every
other byte and every other parity bit is as before, and no other register field changes. -/
def Obligations.ShedWindowWriteStoresBytes : Prop :=
  ∀ (off : Nat) (bs : List Byte) (s : State), s.runs → off + bs.length ≤ 0x4000000 → crosses4K off bs.length = false →
    ∃ t, exec (.shedWindowWrite off bs) s = .next t ∧ t.completion = ⟨.ok, []⟩ ∧
      (∀ a, t.shedByte a =
        if off ≤ a ∧ a < off + bs.length ∧
            ((off ≤ a / 4 * 4 ∧ a / 4 * 4 + 4 ≤ off + bs.length) ∨ Tab.get false s.shedBad (a / 4) = false)
        then bs.getD (a - off) 0 else s.shedByte a) ∧
      (∀ w, Tab.get false t.shedBad w =
        if off ≤ 4 * w ∧ 4 * w + 4 ≤ off + bs.length then false else Tab.get false s.shedBad w) ∧
      ((∃ a, off ≤ a ∧ a < off + bs.length ∧ ¬(off ≤ a / 4 * 4 ∧ a / 4 * 4 + 4 ≤ off + bs.length) ∧
          Tab.get false s.shedBad (a / 4) = true) → t.rd R.TG_SHED_STATUS_WRITE_DISC = 1) ∧
      OnlyRegs [R.TG_SHED_STATUS_WRITE_DISC] s t ∧
      t = { s with shed := t.shed, shedBad := t.shedBad, regs := t.regs, completion := t.completion }

/-- R15, R16: a CRC mismatch is counted in REPLAYS, and a further mismatch of the same flit counts towards 8; the 8th failure's retrain takes
the link down, sets RETRAINED and is counted, once, and what would pass over it from then on is missing: the launches in flight of a quay are lost.
The end of the retrain brings the link up, and a configuration write that was held takes its effect then. -/
def Obligations.LinkMismatchRetrainAndReturn : Prop :=
  ∀ (link : Fin 10) (flit : Nat) (s : State), s.runs →
    (∃ t, exec (.flitCrcMismatch link flit) s = .next t ∧
      t.rd (R.HB_LINK_CNT_n_REPLAYS link) = satAdd 16 (s.rd (R.HB_LINK_CNT_n_REPLAYS link)) 1 ∧
      (t.link link).flit = flit ∧
      (t.link link).fails = (if (s.link link).flit = flit ∧ 0 < (s.link link).fails then (s.link link).fails + 1 else 1) ∧
      OnlyRegs [R.HB_LINK_CNT_n_REPLAYS link] s t ∧ (∀ k, k ≠ link.val → t.link k = s.link k) ∧
      t = { s with regs := t.regs, links := t.links }) ∧
    (8 ≤ (s.link link).fails → (s.link link).retraining = false →
      ∃ t, exec (.linkRetrain link) s = .next t ∧ bit (t.rd R.HB_LINK_STATUS_UP) link = false ∧
        bit (t.rd R.HB_LINK_STATUS_RETRAINED) link = true ∧
        t.rd (R.HB_LINK_CNT_n_RETRAINS link) = satAdd 16 (s.rd (R.HB_LINK_CNT_n_RETRAINS link)) 1 ∧ (t.link link).retraining = true ∧
        (∀ a b, s.now < b → t.gapMeets link a b = true) ∧ (∀ k, k ≠ link.val → t.link k = s.link k ∧ t.quay k = s.quay k) ∧
        (8 ≤ link.val → t.quays = s.quays) ∧
        (link.val < 8 → (t.quay link).flights = (s.quay link).flights ∧ ∀ f ∈ (t.quay link).fates, ∀ g ∈ (s.quay link).flights,
          g.slot = f.slot → g.start = f.start → f.lost = true) ∧
        OnlyRegs ([R.HB_LINK_STATUS_UP, R.HB_LINK_STATUS_RETRAINED, R.HB_LINK_CNT_n_RETRAINS link] ++
          (if link.val < 8 then [R.QY_STATUS_DAC_CLAMP link, R.QY_CLAMP_CNT_COUNT link] else [])) s t ∧
        t = { s with regs := t.regs, links := t.links, gaps := t.gaps, quays := t.quays }) ∧
    ((s.link link).fails < 8 ∨ (s.link link).retraining = true → exec (.linkRetrain link) s = .next s) ∧
    ((s.link link).retraining = true → (s.link link).held = [] →
      ∃ t, exec (.linkRetrainDone link) s = .next t ∧ bit (t.rd R.HB_LINK_STATUS_UP) link = true ∧ t.link link = {} ∧
        (∀ g ∈ Tab.get [] t.gaps link, g.2 ≠ none) ∧ (∀ k, k ≠ link.val → t.link k = s.link k) ∧ (8 ≤ link.val → t.quays = s.quays) ∧
        OnlyRegs (R.HB_LINK_STATUS_UP ::
          (if link.val < 8 then [R.QY_STATUS_DAC_CLAMP link, R.QY_CLAMP_CNT_COUNT link] else [])) s t ∧
        t = { s with regs := t.regs, links := t.links, gaps := t.gaps, quays := t.quays }) ∧
    (∀ (d : Nat) (c : Instr) (u : State), (s.link link).retraining = true → (s.link link).held = [(d, c)] →
      (∃ (n : Fin 8) (v : Word), c = .spiCommandWrite n v ∨ c = .lgateTCfgWrite n true v ∨ c = .lgateTCfgWrite n false v ∨
        c = .gpioCfgWrite n v ∨ c = .gpioOutWrite n v ∨ c = .quayResumeWrite n ∨ c = .quayRunWrite n true ∨ c = .quayRunWrite n false ∨
        ∃ p, c = .planSelectWrite n p) →
      exec (.linkRetrainDone link) (s.setLink link { s.link link with held := [] }) = .next u →
      exec (.linkRetrainDone link) s = exec c u) ∧
    ((s.link link).retraining = false → exec (.linkRetrainDone link) s = .next s)

/-- R23: a PLL that loses lock reads 0 in LOCK, sets CLK_FAULT and is noted as lost from now on, and CLOCK_LOSS joins the ledger's queue while that
has room; what the lanes gather is lost with the core PLL, and the launches in flight with the core or the sampling PLL. One that is out of lock
already loses none. When it regains lock LOCK reads 1 and it is lost no more. The other PLLs' bits stay. -/
def Obligations.PllLossAndRegain : Prop :=
  ∀ (pll : Fin 7) (s : State), s.runs →
    (bit s.pllLost pll = true → exec (.pllLockLoss pll) s = .next s) ∧
    (bit s.pllLost pll = false → s.signQ.length < 255 → s.evtLost = (0, 0, 0) →
      ∃ t, exec (.pllLockLoss pll) s = .next t ∧ bit (t.rd R.HB_CLK_STATUS_LOCK) pll = false ∧ t.rd R.HB_CLK_STATUS_CLK_FAULT = 1 ∧
        bit t.pllLost pll = true ∧ (∀ k, k < 7 → k ≠ pll.val → bit (t.rd R.HB_CLK_STATUS_LOCK) k = bit (s.rd R.HB_CLK_STATUS_LOCK) k) ∧
        (∃ e : LedgerItem, t.signQ = s.signQ ++ [e] ∧ e.code = 0x54 ∧ e.origin = s.now ∧ e.args = [t.rd R.HB_CLK_STATUS_LOCK]) ∧
        (∀ a b, s.now < b → t.gapMeets (16 + pll) a b = true) ∧
        (pll.val = 0 → ∀ e ∈ t.lanes, e.2.stat.lost = true ∧ e.2.gate.lost = true ∧ e.2.frame.lost = true) ∧
        (pll.val ≠ 0 → t.lanes = s.lanes) ∧
        (pll.val = 0 ∨ pll.val = 5 → ∀ n, n < 8 → ∀ f ∈ (t.quay n).fates, ∀ g ∈ (s.quay n).flights,
          g.slot = f.slot → g.start = f.start → f.lost = true) ∧
        (pll.val ≠ 0 → pll.val ≠ 5 → t.quays = s.quays) ∧
        OnlyRegs [R.HB_CLK_STATUS_LOCK, R.HB_CLK_STATUS_CLK_FAULT] s t ∧
        t = { s with regs := t.regs, pllLost := t.pllLost, gaps := t.gaps, quays := t.quays, lanes := t.lanes, signQ := t.signQ }) ∧
    (∃ t, exec (.pllLockRegain pll) s = .next t ∧ bit (t.rd R.HB_CLK_STATUS_LOCK) pll = true ∧ bit t.pllLost pll = false ∧
      (∀ g ∈ Tab.get [] t.gaps (16 + pll), g.2 ≠ none) ∧
      OnlyRegs [R.HB_CLK_STATUS_LOCK] s t ∧ t = { s with regs := t.regs, pllLost := t.pllLost, gaps := t.gaps })

/-- R22, R485: a Ballast write joins the queue while fewer than 8 wait, and is discarded with BAL_WOVF otherwise; the oldest takes effect first:
applied to a register other than the RTC it is written field by field and leaves the rest of the queue in order; the RTC takes both its words and
RTC_VALID sets. With an empty queue nothing happens. -/
def Obligations.BallastQueueIsFirstInFirstOut : Prop :=
  (∀ (addr : Nat) (v : Word) (s : State), s.runs → 0x200100 ≤ addr → addr < 0x200158 → addr % 4 = 0 →
    (s.ballast.length < 8 → exec (.ballastWrite addr v) s = .next { s with ballast := s.ballast ++ [(addr, v.toNat)] }) ∧
    (8 ≤ s.ballast.length → ∃ t, exec (.ballastWrite addr v) s = .next t ∧ t.rd R.HB_ERR_STATUS_BAL_WOVF = 1 ∧
      OnlyRegs [R.HB_ERR_STATUS_BAL_WOVF] s t ∧ t = { s with regs := t.regs })) ∧
  ∀ (addr v : Nat) (rest : List (Nat × Nat)) (s : State), s.runs →
    (s.ballast = [] → exec .ballastWriteApply s = .next s) ∧
    (s.ballast = (addr, v) :: rest →
      (addr = 0x20015C → ∃ t, exec .ballastWriteApply s = .next t ∧ t.ballast = rest ∧ t.rtc = low 48 v ∧
        t.rd R.RS_BAL_STATUS_RTC_VALID = 1 ∧
        OnlyRegs [R.RS_BAL_RTC_LO_RTC_LO, R.RS_BAL_RTC_HI_RTC_HI, R.RS_BAL_STATUS_RTC_VALID] s t ∧
        t = { s with regs := t.regs, ballast := t.ballast, power := { s.power with rtcAt := s.now } }) ∧
      (addr ≠ 0x20015C → regRow? addr = none → exec .ballastWriteApply s = .next { s with ballast := rest }) ∧
      ∀ r, addr ≠ 0x20015C → regRow? addr = some r → ∃ t, exec .ballastWriteApply s = .next t ∧ t.ballast = rest ∧
        (∀ f ∈ r.fields, f.acc = .rw →
          t.rd (f.at addr) = if f.accepts (bits v f.lo f.width) then bits v f.lo f.width else s.rd (f.at addr)) ∧
        (∀ f ∈ r.fields, f.acc = .ro ∨ f.acc = .rc ∨ f.acc = .own → t.rd (f.at addr) = s.rd (f.at addr)) ∧
        OnlyRegs ([R.CU_STATUS_RWL_HIT, R.CU_RWL_CNT_COUNT] ++ r.fields.map (fun f => f.at addr)) s t ∧
        t = { s with regs := t.regs, ballast := t.ballast })

/-- R25, R404, R405, R406: a rate correction is limited to ±858,993, shows in HB_TIME_RATE, replaces one that still waits and waits to land; a step
request stores STEP_HI and, unless it rounds to 0, device time is valid or another step waits, sets STEP_PENDING and waits to land rounded
down to whole tides; VALIDATE sets VALID unless a step waits or VALID is 1, and then changes nothing. -/
def Obligations.DeviceTimeIsSetUp : Prop :=
  ∀ (v : Word) (s : State), s.runs →
    (∃ t, exec (.timeRateWrite v) s = .next t ∧
      t.rd R.HB_TIME_RATE_RATE = ofSigned 32 (max (-858993) (min v.toInt 858993)) ∧
      Accepted (.rate (max (-858993) (min v.toInt 858993)))
        (s.dropWaiting (fun c => match c with | .rate _ => true | _ => false)) t ∧
      OnlyRegs (R.HB_TIME_RATE_RATE :: landFields) s t ∧ t = { s with regs := t.regs, landing := t.landing }) ∧
    (∃ t, exec (.timeStepRequest v) s = .next t ∧ t.rd R.HB_TIME_STEP_HI_STEP_HI = v.toNat ∧
      (∀ w, w = (s.rd R.HB_TIME_STEP_LO_STEP_LO + 2 ^ 32 * v.toNat) / 131072 * 131072 →
        if w = 0 ∨ s.rd R.HB_TIME_STATUS_VALID = 1 ∨ s.rd R.HB_TIME_STATUS_STEP_PENDING = 1 then
          OnlyRegs [R.HB_TIME_STEP_HI_STEP_HI] s t ∧ t.landing = s.landing
        else t.rd R.HB_TIME_STATUS_STEP_PENDING = 1 ∧ Accepted (.timeStep w) s t ∧
          OnlyRegs (R.HB_TIME_STEP_HI_STEP_HI :: R.HB_TIME_STATUS_STEP_PENDING :: landFields) s t) ∧
      t = { s with regs := t.regs, landing := t.landing }) ∧
    ((s.rd R.HB_TIME_STATUS_STEP_PENDING = 1 ∨ s.rd R.HB_TIME_STATUS_VALID = 1) → exec .timeValidate s = .next s) ∧
    (s.rd R.HB_TIME_STATUS_STEP_PENDING ≠ 1 → s.rd R.HB_TIME_STATUS_VALID ≠ 1 →
      ∃ t, exec .timeValidate s = .next t ∧ t.rd R.HB_TIME_STATUS_VALID = 1 ∧
        (s.rd R.LG_STATUS_READY = 1 → t.ledger.instant = s.now / 1000000000) ∧
        OnlyRegs (R.HB_TIME_STATUS_VALID :: eventFields) s t ∧
        t = { s with regs := t.regs, ledger := t.ledger, signQ := t.signQ, evtLost := t.evtLost })

/-- R52, R56, R57: LOAD takes the place and length of the image and enters CHECKING, unless a check runs or an image waits; the end of the check
enters REJECTED with the code and section of the first failing check of Table 2.8, or PENDING, and then the manifest waits to land. An image
without the magic number is rejected with code 1 and section 255. -/
def Obligations.ManifestIsCheckedThenWaits : Prop :=
  ∀ s : State, s.runs →
    ((s.rd R.HB_MF_STATUS_STATE = 1 ∨ s.rd R.HB_MF_STATUS_STATE = 2) → exec .manifestLoad s = .next s) ∧
    (s.rd R.HB_MF_STATUS_STATE ≠ 1 → s.rd R.HB_MF_STATUS_STATE ≠ 2 →
      ∃ t, exec .manifestLoad s = .next t ∧ t.rd R.HB_MF_STATUS_STATE = 1 ∧ t.rd R.HB_MF_STATUS_ERR = 0 ∧
        t.rd R.HB_MF_STATUS_SECTION = 255 ∧ t.mfCheck = some (s.rd R.HB_MF_OFFSET_OFFSET, s.rd R.HB_MF_LEN_LEN) ∧
        OnlyRegs [R.HB_MF_STATUS_STATE, R.HB_MF_STATUS_ERR, R.HB_MF_STATUS_SECTION] s t ∧
        t = { s with regs := t.regs, mfCheck := t.mfCheck }) ∧
    (∀ off room, s.mfCheck = some (off, room) →
      (s.shedNat off 4 ≠ 0x464D5244 → s.judgeManifest off room = .bad 1 255) ∧
      ∃ t, exec .manifestCheckDone s = .next t ∧ t.mfCheck = none ∧
        (match s.judgeManifest off room with
          | .bad e k => t.rd R.HB_MF_STATUS_STATE = 4 ∧ t.rd R.HB_MF_STATUS_ERR = low 8 e ∧ t.rd R.HB_MF_STATUS_SECTION = low 8 k ∧
              t.mfPending = s.mfPending ∧ t.landing = s.landing
          | .good m => t.rd R.HB_MF_STATUS_STATE = 2 ∧ t.rd R.HB_MF_STATUS_ERR = 0 ∧ t.rd R.HB_MF_STATUS_SECTION = 255 ∧
              t.mfPending = some m ∧ Accepted .manifest s t) ∧
        OnlyRegs (R.HB_MF_STATUS_STATE :: R.HB_MF_STATUS_ERR :: R.HB_MF_STATUS_SECTION :: (landFields ++ parityFields)) s t ∧
        t = { s with regs := t.regs, mfCheck := t.mfCheck, mfPending := t.mfPending, landing := t.landing })

/-- R25, R26, R36: at a tide boundary device time becomes the next multiple of 2^17 ns after it, and where a forward step is due it becomes the
boundary plus the step; with nothing to land, time moves by at most one tide; a rate correction alone lands in the master counter and shows
in SLEWING. The Charter, the links, the PLLs and the queues of the Ballast and of commands are not touched while nothing but a rate lands. -/
def Obligations.TideBoundaryMovesTimeAndLands : Prop :=
  ∀ (loads : List TideLoad) (reserve stops : List Nat) (s : State), s.runs →
    ∃ t, exec (.tideBoundary loads reserve stops) s = .next t ∧
      (s.landing = [] → t.now % 131072 = 0 ∧ s.now < t.now ∧ t.now ≤ s.now + 131072) ∧
      (∀ v, s.landing = [⟨nextBoundary s.now, .timeStep v⟩] → t.now = nextBoundary s.now + v ∧
        t.rd R.HB_TIME_STATUS_STEP_PENDING = 0 ∧ t.rd R.HB_TIME_STATUS_STEPPED = 1) ∧
      (∀ v, s.landing = [⟨nextBoundary s.now, .rate v⟩] → t.now = nextBoundary s.now ∧ t.rate = v ∧
        t.rd R.HB_TIME_STATUS_SLEWING = flag (v != 0)) ∧
      ((∀ l ∈ s.landing, ∃ v, l.change = .rate v) →
        t.charter = s.charter ∧ t.links = s.links ∧ t.pllLost = s.pllLost ∧ t.ballast = s.ballast ∧ t.pending = s.pending)

/-- R10, R392, R394: hello takes the highest version common to both ranges, or none, and answers with it, the interface words, VERSION and HB_ID;
berth.query answers for the last berth issued at the index, and for one whose close has not landed (R477); tide.query answers with the remaining and the used budget of every engine and the
next landing tide. Nothing but the reply, its slot in the Shed and the negotiated version changes. -/
def Obligations.MailboxQueriesAnswer : Prop :=
  ∀ (tag : Nat) (args : List Nat) (s : State),
    (s.mailOffers 0x01 tag args → 1 ≤ args.length →
      ∃ t v, exec .hello s = .next t ∧
        v = (if max (bits (args.getD 0 0) 0 8) (s.rd (R.HB_IF_i_MIN 0)) ≤ min (bits (args.getD 0 0) 8 8) (s.rd (R.HB_IF_i_MAX 0))
          then min (bits (args.getD 0 0) 8 8) (s.rd (R.HB_IF_i_MAX 0)) else 0) ∧
        Replied tag 0x01 (if v = 0 then stVersion else stOk) 0
          (v :: (List.range 5).map (fun i => t.liveWord (0x2000 + 4 * i)) ++ [t.rd R.MB_FW_VER_VERSION, t.liveWord 0]) s t ∧
        t.rd R.MB_STATUS_NEGOTIATED = flag (v != 0) ∧ t.rd R.MB_STATUS_VER = low 4 v ∧ t.rd (R.HB_IF_i_CUR 0) = low 8 v ∧ ReplyOnly 8 s t ∧
        OnlyRegs ([R.MB_STATUS_NEGOTIATED, R.MB_STATUS_VER, R.HB_IF_i_CUR 0] ++ replyFields) s t ∧
        t = { s with shed := t.shed, shedBad := t.shedBad, regs := t.regs, signalled := t.signalled }) ∧
    (s.mailOffers 0x12 tag args → 1 ≤ args.length → s.mailboxVer ≠ 0 →
      ∃ t, exec .berthQuery s = .next t ∧
        (∀ b c, c = Tab.get {} s.coming (bits (args.getD 0 0) 0 12) →
          b = (if c.handle = args.getD 0 0 then c
            else if c.handle = 0 ∨ (s.berth (bits (args.getD 0 0) 0 12)).state = .closing then s.berth (bits (args.getD 0 0) 0 12) else c) →
          (if neverIssued (args.getD 0 0) then Replied tag 0x12 stRange 0 [] s t
          else if b.handle = args.getD 0 0 then Replied tag 0x12 stOk 0
            ([match b.state with | .pending => 0 | .open => 1 | .closing => 2 | .closed => 3, b.kind, low 32 b.land, b.land / 2 ^ 32] ++
              (List.range 20).map (vecAt b.cost) ++ [low 32 b.closeLand, b.closeLand / 2 ^ 32]) s t
          else Replied tag 0x12 stStale 0 [] s t)) ∧
        ReplyOnly 26 s t ∧ OnlyRegs replyFields s t ∧
        t = { s with shed := t.shed, shedBad := t.shedBad, regs := t.regs, signalled := t.signalled }) ∧
    (s.mailOffers 0x20 tag args → s.mailboxVer ≠ 0 →
      ∃ t, exec .tideQuery s = .next t ∧
        Replied tag 0x20 stOk 0 ((List.range 20).map s.remain ++ (List.range 20).map (fun n => s.rd (R.HB_BUDGET_USED_n_USED n)) ++
          [low 32 (tideOf (landAt s.now)), tideOf (landAt s.now) / 2 ^ 32]) s t ∧
        ReplyOnly 42 s t ∧ OnlyRegs replyFields s t ∧
        t = { s with shed := t.shed, shedBad := t.shedBad, regs := t.regs, signalled := t.signalled })

/-- R10, R11, R36, R39, R43, R45, R393: a berth.open that its kind grants becomes a pending berth at a free index with the next generation's handle and
waits to land; one that its kind refuses is answered with the status and words of the refusal, and no berth, ring or change joins. A
berth.close of an open berth that no berth uses as its input makes it closing and waits to land; of a berth that is an input, pending or closing it
is answered E_BUSY, of a stale handle E_STALE, of one never issued E_RANGE. -/
def Obligations.BerthOpenAndCloseAreAccepted : Prop :=
  ∀ (tag : Nat) (args : List Nat) (s : State), s.mailboxVer ≠ 0 → 1 ≤ args.length →
    (∀ i, s.mailOffers 0x10 tag args → 1 ≤ args.getD 0 0 → args.getD 0 0 ≤ 8 →
      ¬(blockExpert (args.getD 0 0) args.tail = true ∧ s.mailboxVer = 1) →
      blockLen (args.getD 0 0) (blockExpert (args.getD 0 0) args.tail) ≤ args.tail.length →
      s.rd R.HB_MF_STATUS_STATE ≠ 1 → s.rd R.HB_MF_STATUS_STATE ≠ 2 → s.freeIndex = some i →
      ∃ t, exec .berthOpen s = .next t ∧
        match ({ s with rings := s.ringsLater i } : State).judgeKind (args.getD 0 0)
            (args.tail.take (blockLen (args.getD 0 0) (blockExpert (args.getD 0 0) args.tail))) with
        | .refuse st ws => Replied tag 0x10 st 0 (ws.take 124) s t ∧ OnlyRegs replyFields s t ∧
            t = { s with shed := t.shed, shedBad := t.shedBad, regs := t.regs, signalled := t.signalled }
        | .grant g =>
            Replied tag 0x10 stOk (tideOf (landAt s.now)) [makeHandle (args.getD 0 0) (s.nextGen i) i] s t ∧
            (Tab.get {} t.coming i).handle = makeHandle (args.getD 0 0) (s.nextGen i) i ∧ (Tab.get {} t.coming i).state = .pending ∧
            (Tab.get {} t.coming i).kind = args.getD 0 0 ∧ (Tab.get {} t.coming i).cost = g.cost ∧
            (Tab.get {} t.coming i).params = g.params ∧ (Tab.get {} t.coming i).land = tideOf (landAt s.now) ∧
            (∀ k, k ≠ i → Tab.get {} t.coming k = Tab.get {} s.coming k) ∧ Tab.get 0 t.gens i = s.nextGen i ∧
            ⟨landAt s.now, .berthOpen i⟩ ∈ t.landing ∧ t.berths = s.berths ∧
            (args.getD 0 0 ≠ 1 → args.getD 0 0 ≠ 2 → Accepted (.berthOpen i) s t ∧ OnlyRegs (landFields ++ replyFields) s t) ∧
            OnlyRegs (landFields ++ replyFields ++ (List.range 8).flatMap (fun n => [R.QY_PLAN_SEL_PLAN n, R.QY_PLAN_STATUS_STATE n,
              R.QY_PLAN_STATUS_ERR n, R.RX_CFG_GAUGE n, R.RX_CFG_POL n, R.RX_CFG_POLW n, R.RX_CFG_OFS_SHIFT n, R.RX_STATUS_PENDING n])) s t ∧ SameMemories { s with shed := t.shed, shedBad := t.shedBad } t ∧
            t = { s with
              shed := t.shed, shedBad := t.shedBad, regs := t.regs, signalled := t.signalled, coming := t.coming,
              gens := t.gens, dasComing := t.dasComing, flowComing := t.flowComing, rings := t.rings, landing := t.landing }) ∧
    (s.mailOffers 0x11 tag args →
      (∀ st, (s.judgeHandle (args.getD 0 0) = .stale ∧ st = stStale) ∨ (s.judgeHandle (args.getD 0 0) = .never ∧ st = stRange) ∨
          (s.judgeHandle (args.getD 0 0) = .pending ∧ st = stBusy) ∨ (s.judgeHandle (args.getD 0 0) = .closing ∧ st = stBusy) ∨
          (s.judgeHandle (args.getD 0 0) = .open ∧ (∃ e ∈ s.willBe, args.getD 0 0 ∈ e.2.inputs) ∧ st = stBusy) →
        ∃ t, exec .berthClose s = .next t ∧ Replied tag 0x11 st 0 [] s t ∧
          OnlyRegs replyFields s t ∧ t = { s with shed := t.shed, shedBad := t.shedBad, regs := t.regs, signalled := t.signalled }) ∧
      (s.judgeHandle (args.getD 0 0) = .open → (∀ e ∈ s.willBe, args.getD 0 0 ∉ e.2.inputs) →
        ∃ t, exec .berthClose s = .next t ∧ Replied tag 0x11 stOk (tideOf (landAt s.now)) [] s t ∧
          t.berth (bits (args.getD 0 0) 0 12) =
            { s.berth (bits (args.getD 0 0) 0 12) with state := .closing, closeLand := tideOf (landAt s.now) } ∧
          (∀ k, k ≠ bits (args.getD 0 0) 0 12 → t.berth k = s.berth k) ∧ Accepted (.berthClose (bits (args.getD 0 0) 0 12)) s t ∧
          OnlyRegs (landFields ++ replyFields) s t ∧
          t = { s with
              shed := t.shed, shedBad := t.shedBad, regs := t.regs, signalled := t.signalled, berths := t.berths,
              landing := t.landing }))

/-- R392, R425, R428, R449, R453, R333: an accepted cal.swap stores the image with its instant of acceptance in the inactive slots of the user NVM
and waits to land; an accepted fw.swap records target and versions; an accepted pier.swap keeps the image for its cluster and sets SWAPPING; an
accepted seal.break sets SEAL_PENDING. Each is answered OK with its landing tide. A token that fails is answered E_CHECK with its step. -/
def Obligations.MailboxSwapsAreAccepted : Prop :=
  ∀ (tag : Nat) (args : List Nat) (s : State), s.mailboxVer ≠ 0 →
    (s.mailOffers 0x30 tag args → 3 ≤ args.length → ∃ t, exec .calSwap s = .next t ∧
      match s.judgeCal (args.getD 0 0) (args.getD 1 0) (args.getD 2 0) with
      | .refuse st => Replied tag 0x30 st 0 [] s t ∧ OnlyRegs (parityFields ++ replyFields) s t ∧
          t = { s with shed := t.shed, shedBad := t.shedBad, regs := t.regs, signalled := t.signalled }
      | .take i img => Replied tag 0x30 stOk (tideOf (landAt s.now)) [s.tableId i, bodyNat img 12 4] s t ∧
          Accepted (.calSwap i) s t ∧ Tab.get [] t.calWaiting i = createdAt img s.now ∧ t.rd R.CL_STATUS_SWAP_PENDING = 1 ∧
          OnlyRegs (R.CL_STATUS_SWAP_PENDING :: (landFields ++ replyFields)) s t ∧
          t = { s with
              shed := t.shed, shedBad := t.shedBad, regs := t.regs, signalled := t.signalled, hold := t.hold,
              landing := t.landing, calWaiting := t.calWaiting }) ∧
    (∀ w0 at_ len img step, s.mailOffers 0x31 tag args → 4 ≤ args.length → w0 = args.getD 0 0 → at_ = args.getD 1 0 + 2 ^ 32 * args.getD 2 0 →
      len = args.getD 3 0 → w0 = 0 ∨ (w0 = 256 ∧ s.rd R.CU_STATE_STATE ≠ 3) → len ≤ 8388608 → s.rd R.WH_STATUS_READY = 1 →
      at_ + len ≤ s.whUsable → img = s.whPeek at_ len →
      step = s.imageStep (if w0 = 256 then 0x534C474C else 0x57464D48) img ((blocksOf at_ len).any (fun b => !s.whPasses b)) →
      s.swapBusy = false →
      ∃ t, exec .fwSwap s = .next t ∧
        (step ≠ 0 → Replied tag 0x31 stCheck 0 [step] s t ∧ OnlyRegs replyFields s t ∧
          t = { s with shed := t.shed, shedBad := t.shedBad, regs := t.regs, signalled := t.signalled }) ∧
        (step = 0 → Accepted .fwSwap s t ∧
          Replied tag 0x31 stOk (tideOf (landAt s.now))
            [if w0 = 256 then s.ledgerVer else s.rd R.MB_FW_VER_VERSION, bodyNat img 8 4] s t ∧
          t.fwSwap = some ⟨w0 / 256, if w0 = 256 then s.ledgerVer else s.rd R.MB_FW_VER_VERSION, bodyNat img 8 4, 0, none, false⟩ ∧
          OnlyRegs (landFields ++ replyFields) s t ∧
          t = { s with
              shed := t.shed, shedBad := t.shedBad, regs := t.regs, signalled := t.signalled, fwSwap := t.fwSwap,
              landing := t.landing })) ∧
    (∀ n at_ len img, s.mailOffers 0x32 tag args → 3 ≤ args.length → n = args.getD 0 0 → at_ = args.getD 1 0 → len = args.getD 2 0 → n < 4 →
      at_ + len ≤ 0x4000000 → img = s.shedBytes at_ len → s.shedFails at_ len = false → imageSize img ≤ 32768 →
      imageSize (s.progBank n (s.rd (R.PI_CL_STATUS_ACT_BANK n))) ≤ 32768 → s.entriesOk n img = true →
      (∀ e ∈ s.clusters, e.2.swap = none) → (∀ k, k < 4 → s.rd (R.PI_CL_STATUS_DUAL k) ≠ 1) → s.rd R.CU_STATE_STATE ≠ 3 →
      ∃ t, exec .pierSwap s = .next t ∧
        (progOk img (0x200000 - s.memGrant n) = false ∨ s.manifestSigned img = false → Replied tag 0x32 stCheck 0 [] s t ∧
          OnlyRegs (parityFields ++ replyFields) s t ∧ t = { s with shed := t.shed, shedBad := t.shedBad, regs := t.regs, signalled := t.signalled }) ∧
        (progOk img (0x200000 - s.memGrant n) = true → s.manifestSigned img = true →
          Replied tag 0x32 stOk (tideOf (landAt s.now)) [] s t ∧ Accepted (.pierSwap n) s t ∧
          (t.cluster n).swap = some img ∧ t.rd (R.PI_CL_STATUS_SWAPPING n) = 1 ∧ (∀ k, k ≠ n → t.cluster k = s.cluster k) ∧
          OnlyRegs (R.PI_CL_STATUS_SWAPPING n :: (landFields ++ replyFields)) s t ∧
          t = { s with
              shed := t.shed, shedBad := t.shedBad, regs := t.regs, signalled := t.signalled, clusters := t.clusters,
              landing := t.landing })) ∧
    (∀ e, s.mailOffers 0x50 tag args → 32 ≤ args.length → e = s.tokenStep ((args.take 32).flatMap (leBytes 4)) true →
      ∃ t, exec .sealBreak s = .next t ∧ t.rd R.CU_STATUS_ERR = e ∧
        (if e = 0 then Replied tag 0x50 stOk (tideOf (landAt s.now)) [low 32 (s.rd R.RS_BAL_SEALCNT_COUNT + 1)] s t ∧
            Accepted (.seal false) s t ∧ t.rd R.CU_STATUS_SEAL_PENDING = 1
          else Replied tag 0x50 stCheck 0 [e] s t ∧ t.landing = s.landing ∧ t.rd R.CU_STATUS_SEAL_PENDING = s.rd R.CU_STATUS_SEAL_PENDING) ∧
        OnlyRegs ([R.CU_STATUS_ERR, R.CU_STATUS_SEAL_PENDING, R.CU_NONCE_LO_NONCE_LO, R.CU_NONCE_HI_NONCE_HI] ++ landFields ++ replyFields) s t ∧
        t = { s with shed := t.shed, shedBad := t.shedBad, regs := t.regs, signalled := t.signalled, landing := t.landing, free := t.free })

/-- R392, R482: ledger.read with mode 0 answers the words of the commit journal entry it names, with mode 3 the 23 words of the ledger's registers; a CMD
outside Table 15.5 is answered E_RANGE, or E_VERSION before a hello; an entry of which a word fails parity is not run and is answered
E_CHECK, with TAG and CMD copied when their word passed and 0xFFFF and 0 otherwise. Mode 3 of ledger.read is laid out as the model's log says. -/
def Obligations.LedgerReadAndBadCommandsAreAnswered : Prop :=
  ∀ (tag cmd : Nat) (args : List Nat) (s : State),
    (s.mailOffers 0x40 tag args → s.mailboxVer ≠ 0 → 2 ≤ args.length → args.getD 0 0 = 0 → args.getD 1 0 < 64 →
      ∃ t, exec .ledgerRead s = .next t ∧ Replied tag 0x40 stOk 0 ((wordsIn (s.commitEntry (args.getD 1 0))).take 124) s t ∧
        OnlyRegs replyFields s t ∧ t = { s with shed := t.shed, shedBad := t.shedBad, regs := t.regs, signalled := t.signalled }) ∧
    (s.mailOffers 0x40 tag args → s.mailboxVer ≠ 0 → 1 ≤ args.length → args.getD 0 0 = 3 →
      ∃ t, exec .ledgerRead s = .next t ∧ Replied tag 0x40 stOk 0 ((List.range 23).map (fun i => s.liveWord (0xF00000 + 4 * i))) s t ∧
        ReplyOnly 23 s t ∧ OnlyRegs replyFields s t ∧
        t = { s with shed := t.shed, shedBad := t.shedBad, regs := t.regs, signalled := t.signalled }) ∧
    (s.runs → s.mailReady = true → s.shedFails s.mailEntry 512 = false → s.shedNat s.mailEntry 2 = tag → s.shedNat (s.mailEntry + 2) 1 = cmd →
      cmd ∉ [0x01, 0x10, 0x11, 0x12, 0x20, 0x30, 0x31, 0x32, 0x40, 0x50] →
      ∃ t, exec .unknownCmd s = .next t ∧ Replied tag cmd (if s.mailboxVer = 0 then stVersion else stRange) 0 [] s t ∧ ReplyOnly 0 s t ∧
        OnlyRegs replyFields s t ∧ t = { s with shed := t.shed, shedBad := t.shedBad, regs := t.regs, signalled := t.signalled }) ∧
    (s.runs → s.mailReady = true → s.shedFails s.mailEntry 512 = true →
      ∃ t, exec .commandParityFail s = .next t ∧
        (if s.shedFails s.mailEntry 4 = true then Replied 0xFFFF 0 stCheck 0 [] s t
          else Replied (s.shedNat s.mailEntry 2) (s.shedNat (s.mailEntry + 2) 1) stCheck 0 [] s t) ∧
        ReplyOnly 0 s t ∧ OnlyRegs (parityFields ++ replyFields) s t ∧
        t = { s with shed := t.shed, shedBad := t.shedBad, regs := t.regs, signalled := t.signalled })

/-- R388, R389, R390, R416, R418, R440: GO takes the length and enters VERIFY unless a check runs or the firmware starts or runs; a check that fails enters FAILED with
its step, one that passes enters START with the image's VERSION and begins the trim load; an image that arrives makes the trims of its domains
valid, and one that fails its check is asked for once more, which for the Quay die engages the latch, and at a second failure gives the die the
defaults; when every image has arrived, LOADED and FW_READY set and the firmware runs. -/
def Obligations.BootAndTrimLoad : Prop :=
  ∀ s : State, s.runs →
    (s.rd R.MB_BOOT_STATUS_STATE ∈ [1, 2, 3] → exec .bootGo s = .next s) ∧
    (s.rd R.MB_BOOT_STATUS_STATE ∉ [1, 2, 3] → ∃ t, exec .bootGo s = .next t ∧ t.rd R.MB_BOOT_STATUS_STATE = 1 ∧
      t.rd R.MB_BOOT_STATUS_ERR = 0 ∧ t.bootLen = s.rd R.MB_BOOT_LEN_LEN ∧
      OnlyRegs [R.MB_BOOT_STATUS_STATE, R.MB_BOOT_STATUS_ERR] s t ∧ t = { s with regs := t.regs, bootLen := t.bootLen }) ∧
    (∀ e, s.rd R.MB_BOOT_STATUS_STATE = 1 → e = s.imageStep 0x57464D48 (s.shedBytes 0x3800000 s.bootLen) (s.shedFails 0x3800000 s.bootLen) →
      ∃ t, exec .bootVerifyDone s = .next t ∧
        (e ≠ 0 → t.rd R.MB_BOOT_STATUS_STATE = 4 ∧ t.rd R.MB_BOOT_STATUS_ERR = e ∧
          OnlyRegs (R.MB_BOOT_STATUS_STATE :: R.MB_BOOT_STATUS_ERR :: parityFields) s t ∧ t = { s with regs := t.regs }) ∧
        (e = 0 → t.rd R.MB_BOOT_STATUS_STATE = 2 ∧ t.rd R.MB_FW_VER_VERSION = s.shedNat 0x3800008 4 ∧ t.rd R.CL_STATUS_LOADING = 1 ∧
          t.power.trims = [] ∧ t.shed = s.shed ∧ t.charter = s.charter ∧ (s.ringDepth = 0 ∨ s.rd R.WH_STATUS_READY ≠ 1 → t.wh = s.wh) ∧
          t.berths = s.berths ∧ t.landing = s.landing)) ∧
    (s.rd R.MB_BOOT_STATUS_STATE ≠ 1 → exec .bootVerifyDone s = .next s) ∧
    (∀ die ok, (∀ k ∈ dieDomains die, k ∉ s.power.image) → exec (.trimImageArrive die ok) s = .next s) ∧
    (∀ die, (∃ k ∈ dieDomains die, k ∈ s.power.image) → ∃ t, exec (.trimImageArrive die true) s = .next t ∧
      (∀ k ∈ dieDomains die, k ∈ s.power.image → k ∈ t.power.trims ∧ k ∉ t.power.image) ∧
      (∀ k, k ∉ dieDomains die → (k ∈ t.power.image ↔ k ∈ s.power.image)) ∧ SameMemories s t ∧ t.berths = s.berths) ∧
    (∀ die, (∃ k ∈ dieDomains die, k ∈ s.power.image) → (∀ k ∈ dieDomains die, k ∉ s.power.failed) → (∀ n, die ≠ .quay n) → die ≠ .quays →
      ∃ t, exec (.trimImageArrive die false) s = .next t ∧ t.rd R.CL_STATUS_CHECK_RETRY = 1 ∧ t.power.image = s.power.image ∧
        t.power.trims = s.power.trims ∧ t.power.failed = s.power.failed ++ dieDomains die ∧
        OnlyRegs [R.CL_STATUS_CHECK_RETRY] s t ∧ t = { s with regs := t.regs, power := t.power }) ∧
    (∀ die, (∃ k ∈ dieDomains die, k ∈ s.power.image) → (∀ k ∈ dieDomains die, k ∉ s.power.failed) → (die = .quays ∨ ∃ n, die = .quay n) →
      ∃ t, exec (.trimImageArrive die false) s = .next t ∧ t.rd R.CL_STATUS_CHECK_RETRY = 1 ∧ t.power.image = s.power.image ∧
        t.power.trims = s.power.trims ∧ t.power.failed = s.power.failed ++ dieDomains die ∧
        (s.rd R.RS_SAFE_STATUS_RELEASED = 1 → t.rd R.RS_SAFE_STATUS_RELEASED = 0) ∧ SameMemories s t ∧ t.berths = s.berths) ∧
    (∀ die, (∃ k ∈ dieDomains die, k ∈ s.power.image) → (∃ k ∈ dieDomains die, k ∈ s.power.failed) →
      ∃ t, exec (.trimImageArrive die false) s = .next t ∧ bit (t.rd R.CL_DEGRADED_TABLE) (dieTable die) = true ∧
        (∀ k ∈ dieDomains die, k ∈ s.power.image → k ∈ t.power.trims ∧ k ∉ t.power.image) ∧ SameMemories s t ∧ t.berths = s.berths) ∧
    (s.rd R.CL_STATUS_LOADING = 1 → s.power.image = [] → ∃ t, exec .trimLoadDone s = .next t ∧ t.rd R.CL_STATUS_LOADING = 0 ∧
      t.rd R.CL_STATUS_LOADED = 1 ∧ t.rd R.MB_STATUS_FW_READY = 1 ∧ t.rd R.MB_BOOT_STATUS_STATE = 3 ∧
      (s.rd R.CL_SN_STATUS_ROT_DONE = 1 → 21 ∈ s.power.trims → t.rd R.SN_STATUS_CAL_VALID = 1) ∧
      OnlyRegs ([R.CL_STATUS_LOADING, R.CL_STATUS_LOADED, R.MB_STATUS_FW_READY, R.MB_BOOT_STATUS_STATE, R.SN_STATUS_CAL_VALID, R.BC_JIT_SEED_SEED] ++
        eventFields ++ (List.range 8).flatMap (fun n => [R.QY_LGT_DLY_DLY n, R.BC_m_SHOT_DLY_DLY n]) ++
        (List.range 2).flatMap (fun n => [R.NT_n_TS_ADJ_ADJ n, R.NT_n_MAC_LO_MAC_LO n, R.NT_n_MAC_HI_MAC_HI n])) s t ∧
      t = { s with regs := t.regs, signQ := t.signQ, evtLost := t.evtLost })

/-- R8, R73, R74, R75, R79, R109: RUN reads the value written and its landing replaces one that waits; PLAN_SEL takes the request unless one is
pending, which sets ERR 3; a resume is accepted only with no FAULT input active and ARMED at 1; RX_CFG sets PENDING and its landing replaces one
that waits; a LGATE_T period below 2,500 is discarded, and one that is not waits to land while EN is 1, and otherwise for the next landing of EN = 1.
While QLINK_C retrains a write to a quay is held (R16). -/
def Obligations.QuayWritesWaitToLand : Prop :=
  (∀ (n : Fin 8) (s : State) (c : Instr), s.runs → s.powered (quayDomain n) = true → (s.link 8).retraining = true →
    (∃ (v : Word) (p : Fin 4), c ∈ [.quayRunWrite n true, .quayRunWrite n false, .quayResumeWrite n, .planSelectWrite n p, .lgateTCfgWrite n true v,
      .lgateTCfgWrite n false v, .spiCommandWrite n v, .gpioCfgWrite n v, .gpioOutWrite n v]) →
    exec c s = .next (s.setLink 8 { s.link 8 with held := (s.link 8).held ++ [(quayDomain n, c)] })) ∧
  ∀ (n : Fin 8) (s : State), s.quayTakes n →
    (∀ run, ∃ t, exec (.quayRunWrite n run) s = .next t ∧ t.rd (R.QY_CTL_RUN n) = flag run ∧
      Accepted (.quayRun n run) (s.dropWaiting (fun c => match c with | .quayRun m _ => m == n.val | _ => false)) t ∧
      t.quay n = { s.quay n with runWaitsArm := false } ∧ (∀ k, k ≠ n.val → t.quay k = s.quay k) ∧
      OnlyRegs (R.QY_CTL_RUN n :: landFields) s t ∧ t = { s with regs := t.regs, quays := t.quays, landing := t.landing }) ∧
    (∀ p : Fin 4, (s.rd (R.QY_PLAN_STATUS_STATE n) = 1 → ∃ t, exec (.planSelectWrite n p) s = .next t ∧
        t.rd (R.QY_PLAN_STATUS_ERR n) = 3 ∧ OnlyRegs [R.QY_PLAN_STATUS_ERR n] s t ∧ t = { s with regs := t.regs }) ∧
      (s.rd (R.QY_PLAN_STATUS_STATE n) ≠ 1 → ∃ t, exec (.planSelectWrite n p) s = .next t ∧ t.rd (R.QY_PLAN_SEL_PLAN n) = p ∧
        t.rd (R.QY_PLAN_STATUS_STATE n) = 1 ∧ t.rd (R.QY_PLAN_STATUS_ERR n) = 0 ∧ Accepted (.planSwitch n p) s t ∧
        OnlyRegs (R.QY_PLAN_SEL_PLAN n :: R.QY_PLAN_STATUS_STATE n :: R.QY_PLAN_STATUS_ERR n :: landFields) s t ∧
        t = { s with regs := t.regs, landing := t.landing })) ∧
    ((s.quay n).faults = 0 → s.rd (R.QY_STATUS_ARMED n) = 1 → ∃ t, exec (.quayResumeWrite n) s = .next t ∧
      Accepted (.quayResume n) s t ∧ OnlyRegs landFields s t ∧ t = { s with regs := t.regs, landing := t.landing }) ∧
    ((s.quay n).faults ≠ 0 ∨ s.rd (R.QY_STATUS_ARMED n) ≠ 1 → exec (.quayResumeWrite n) s = .next s) ∧
    (∀ v : Word, ∃ t w, exec (.rxCfgWrite n v) s = .next t ∧ t.rd (R.RX_STATUS_PENDING n) = 1 ∧
      (1 ≤ bits v.toNat 0 7 → bits v.toNat 0 7 ≤ 64 → t.rd (R.RX_CFG_GAUGE n) = bits v.toNat 0 7) ∧
      (¬(1 ≤ bits v.toNat 0 7 ∧ bits v.toNat 0 7 ≤ 64) → t.rd (R.RX_CFG_GAUGE n) = s.rd (R.RX_CFG_GAUGE n)) ∧
      t.rd (R.RX_CFG_POLW n) = bits v.toNat 8 1 ∧
      w = t.rd (R.RX_CFG_OFS_SHIFT n) * 2 ^ 24 + t.rd (R.RX_CFG_POL n) * 2 ^ 16 + t.rd (R.RX_CFG_POLW n) * 2 ^ 8 + t.rd (R.RX_CFG_GAUGE n) ∧
      Accepted (.rxCfg n w) (s.dropWaiting (fun c => match c with | .rxCfg m _ => m == n.val | _ => false)) t ∧
      OnlyRegs ([R.RX_STATUS_PENDING n, R.RX_CFG_GAUGE n, R.RX_CFG_POLW n, R.RX_CFG_POL n, R.RX_CFG_OFS_SHIFT n] ++ landFields) s t ∧
      t = { s with regs := t.regs, landing := t.landing }) ∧
    (∀ v : Word, bits v.toNat 0 18 < 2500 → exec (.lgateTCfgWrite n true v) s = .next s) ∧
    (∀ v : Word, 2500 ≤ bits v.toNat 0 18 → ∃ t, exec (.lgateTCfgWrite n true v) s = .next t ∧
      t.rd (R.QY_LGT_PERIOD_PERIOD n) = bits v.toNat 0 18 ∧
      (s.rd (R.QY_LGT_CFG_EN n) = 1 → Accepted (.lgtPeriod n (bits v.toNat 0 18)) s t) ∧
      (s.rd (R.QY_LGT_CFG_EN n) = 1 → t.quays = s.quays) ∧
      (s.rd (R.QY_LGT_CFG_EN n) ≠ 1 → t.landing = s.landing ∧
        t.quay n = { s.quay n with lgtStaged := ((s.quay n).lgtStaged.1, some (bits v.toNat 0 18)) }) ∧ (∀ k, k ≠ n.val → t.quay k = s.quay k) ∧
      OnlyRegs (R.QY_LGT_PERIOD_PERIOD n :: landFields) s t ∧ t = { s with regs := t.regs, quays := t.quays, landing := t.landing }) ∧
    (∀ v : Word, ∃ t, exec (.lgateTCfgWrite n false v) s = .next t ∧ t.rd (R.QY_LGT_CFG_EN n) = flag (bit v.toNat 31) ∧
      t.rd (R.QY_LGT_CFG_WIDTH n) = (if bits v.toNat 0 9 < 2 then s.rd (R.QY_LGT_CFG_WIDTH n) else bits v.toNat 0 9) ∧
      (∃ ls, t.landing = s.landing ++ ls ++ [⟨landAt s.now, .lgtEn n (bit v.toNat 31)⟩] ∧
        ls = (if 2 ≤ bits v.toNat 0 9 ∧ s.rd (R.QY_LGT_CFG_EN n) = 1 then [⟨landAt s.now, .lgtWidth n (bits v.toNat 0 9)⟩] else [])) ∧
      (bits v.toNat 0 9 < 2 ∨ s.rd (R.QY_LGT_CFG_EN n) = 1 → t.quays = s.quays) ∧
      (2 ≤ bits v.toNat 0 9 → s.rd (R.QY_LGT_CFG_EN n) ≠ 1 →
        t.quay n = { s.quay n with lgtStaged := (some (bits v.toNat 0 9), (s.quay n).lgtStaged.2) }) ∧ (∀ k, k ≠ n.val → t.quay k = s.quay k) ∧
      OnlyRegs (R.QY_LGT_CFG_EN n :: R.QY_LGT_CFG_WIDTH n :: landFields) s t ∧
      t = { s with regs := t.regs, quays := t.quays, landing := t.landing })

/-- R63, R66, R67, R72, R73, R74, R77: on a running grid the next launch of a slot starts at epoch + k × launch period + group offset: fired, it is
counted in QY_LAUNCH and stays in flight, with code A or B in turn, until its last sample, and the gate stays high until LAG × 4 ns after it; on a
stopped quay it is counted in QY_MISS_CNT and not fired. The DAC samples sent meanwhile that leave ±511 are counted and set DAC_CLAMP. The gate
rises LEAD × 4 ns before a launch that will be fired. The end of the last launch in flight clears RUNNING once the grid has ended. The LGATE_T
grid moves on by 4 × PERIOD ns, and its pulse is WIDTH × 0.5 ns long. -/
def Obligations.LaunchesFollowTheGrid : Prop :=
  ∀ (n : Fin 8) (slot : Fin 16) (phase : Rat) (s : State), s.runs →
    let clamped : Nat → Nat := fun h => ((List.range (h - (s.quay n).dacAt)).filter (fun i =>
      decide (s.dacSum n ((s.quay n).dacAt + i) ≠ s.dacCodes n ((s.quay n).dacAt + i)))).length
    let amps : Nat := ((s.quay n).flights.map (fun f => f.plan.amp)).sum
    let counts : Nat → State → Prop := fun h t =>
      (amps ≤ 65535 ∨ clamped h = 0 → t.rd (R.QY_STATUS_DAC_CLAMP n) = s.rd (R.QY_STATUS_DAC_CLAMP n) ∧
        t.rd (R.QY_CLAMP_CNT_COUNT n) = s.rd (R.QY_CLAMP_CNT_COUNT n)) ∧
      (65535 < amps → 0 < clamped h → t.rd (R.QY_STATUS_DAC_CLAMP n) = 1 ∧
        t.rd (R.QY_CLAMP_CNT_COUNT n) = satAdd (R.QY_CLAMP_CNT_COUNT n).width (s.rd (R.QY_CLAMP_CNT_COUNT n)) (clamped h))
    (∀ (p : Plan) (k t0 : Nat), p = s.activePlan n → k = Tab.get 0 (s.quay n).nextK slot → t0 = p.launchTime (s.epoch n) k slot →
      (s.quay n).grid = true → slot.val < p.slots → t0 < nextBoundary s.now →
      ∃ t, exec (.launchStart n slot phase) s = .next t ∧ t.now = max s.now t0 ∧ Tab.get 0 (t.quay n).nextK slot = k + 1 ∧
        (∀ j, j ≠ slot.val → Tab.get 0 (t.quay n).nextK j = Tab.get 0 (s.quay n).nextK j) ∧ counts (2 * t0) t ∧
        (∃ f, (t.quay n).fates.head? = some f ∧ f.slot = slot ∧ f.start = t0 ∧ f.plan = p ∧
          f.lost = (s.on (R.QY_STATUS_STOPPED n) || (s.link n).retraining || s.quayClockLost)) ∧
        (s.rd (R.QY_STATUS_STOPPED n) = 1 → (t.quay n).flights = (s.quay n).flights ∧ (t.quay n).gateUntil = (s.quay n).gateUntil ∧
          t.rd (R.QY_MISS_CNT_COUNT n) = satAdd (R.QY_MISS_CNT_COUNT n).width (s.rd (R.QY_MISS_CNT_COUNT n)) 1 ∧
          OnlyRegs [R.QY_MISS_CNT_COUNT n, R.QY_STATUS_DAC_CLAMP n, R.QY_CLAMP_CNT_COUNT n] s t) ∧
        (s.rd (R.QY_STATUS_STOPPED n) ≠ 1 →
          (t.quay n).flights = (s.quay n).flights ++ [⟨slot, t0, p, Tab.get 0 (s.quay n).codeK slot % 2 == 1, t0 + p.codeNs, phase⟩] ∧
          (t.quay n).gateUntil = max (s.quay n).gateUntil (t0 + p.codeNs + 4 * s.rd (R.QY_LGA_CFG_LAG n)) ∧
          t.rd (R.QY_LAUNCH_LO_COUNT_LO n) =
            low 32 (s.rd (R.QY_LAUNCH_LO_COUNT_LO n) + 2 ^ 32 * s.rd (R.QY_LAUNCH_HI_COUNT_HI n) + 1) ∧
          OnlyRegs [R.QY_LAUNCH_LO_COUNT_LO n, R.QY_LAUNCH_HI_COUNT_HI n, R.QY_STATUS_DAC_CLAMP n, R.QY_CLAMP_CNT_COUNT n] s t) ∧
        (∀ j, j ≠ n.val → t.quay j = s.quay j) ∧ t = { s with now := t.now, regs := t.regs, quays := t.quays }) ∧
    (∀ f, (s.quay n).flights.find? (fun f => f.slot == slot.val) = some f → f.until_ < nextBoundary s.now →
      ∃ t, exec (.launchEnd n slot) s = .next t ∧ t.now = max s.now f.until_ ∧
        (t.quay n).flights = (s.quay n).flights.filter (fun g => g != f) ∧ counts (2 * f.until_) t ∧
        ((t.quay n).flights = [] → (s.quay n).grid = false → (s.quay n).newEpoch = none → t.rd (R.QY_STATUS_RUNNING n) = 0) ∧
        ((t.quay n).flights ≠ [] ∨ (s.quay n).grid = true ∨ (s.quay n).newEpoch ≠ none →
          t.rd (R.QY_STATUS_RUNNING n) = s.rd (R.QY_STATUS_RUNNING n)) ∧
        OnlyRegs [R.QY_STATUS_RUNNING n, R.QY_STATUS_DAC_CLAMP n, R.QY_CLAMP_CNT_COUNT n] s t ∧
        (∀ j, j ≠ n.val → t.quay j = s.quay j) ∧ t = { s with now := t.now, regs := t.regs, quays := t.quays }) ∧
    ((s.quay n).grid = true → s.rd (R.QY_STATUS_STOPPED n) ≠ 1 → s.nextFired n slot =
      some ((s.activePlan n).launchTime (s.epoch n) (Tab.get 0 (s.quay n).nextK slot) slot, s.activePlan n)) ∧
    ((s.quay n).grid = false → s.startsAhead n = true →
      s.nextFired n slot = some ((s.planAhead n).launchTime (nextBoundary s.now) 0 slot, s.planAhead n)) ∧
    (∀ (t0 : Nat) (p : Plan), s.nextFired n slot = some (t0, p) → slot.val < p.slots →
      t0 - 4 * s.rd (R.QY_LGA_CFG_LEAD n) < nextBoundary s.now → (slot.val, t0) ∉ (s.quay n).leads →
      ∃ t, exec (.lgateARise n slot) s = .next t ∧ t.now = max s.now (t0 - 4 * s.rd (R.QY_LGA_CFG_LEAD n)) ∧
        (slot.val, t0) ∈ (t.quay n).leads ∧
        t.quay n = { s.quay n with leads := (t.quay n).leads, gateUntil := max (s.quay n).gateUntil t0 } ∧
        (∀ j, j ≠ n.val → t.quay j = s.quay j) ∧ t = { s with now := t.now, quays := t.quays }) ∧
    ((s.quay n).lgtEn = true → (s.quay n).lgtNext < nextBoundary s.now →
      ∃ t, exec (.lgateTPulse n) s = .next t ∧ t.now = max s.now (s.quay n).lgtNext ∧
        (t.quay n).lgtNext = (s.quay n).lgtNext + 4 * (s.quay n).lgtPeriod ∧
        (2 ≤ (s.quay n).lgtWidth → s.rd (R.QY_STATUS_ARMED n) = 1 → (t.quay n).lgtPulses = (s.quay n).lgtPulses + 1 ∧
          (t.quay n).lgtEdge = 256 * (s.quay n).lgtNext + s.rd (R.QY_LGT_DLY_DLY n) ∧
          (t.quay n).lgtFall = (t.quay n).lgtEdge + 128 * (s.quay n).lgtWidth) ∧
        ((s.quay n).lgtWidth < 2 ∨ s.rd (R.QY_STATUS_ARMED n) ≠ 1 → (t.quay n).lgtPulses = (s.quay n).lgtPulses) ∧
        (∀ j, j ≠ n.val → t.quay j = s.quay j) ∧ t = { s with now := t.now, quays := t.quays })

/-- R8, R77, R84: a FAULT input that becomes active sets FE_FAULT, and with FAULT_STOP at 1 a quay whose RUNNING is 1 stops; one that returns to inactive
leaves FE_FAULT. QY_GPIO_CFG sets POL, AT_TIDE and FUNC of every line, but for the reserved FUNC 3. QY_GPIO_OUT takes at once for lines without
AT_TIDE, and waits to land for the others. -/
def Obligations.GpioLinesAndFaults : Prop :=
  ∀ (n : Fin 8) (i : Fin 4) (s : State),
    (s.runs → s.rd (R.QY_GPIO_CFG_FUNC_i n i) = 2 → bit (s.quay n).faults i = false ∨ bit (s.quay n).filters i = true →
      ∃ t, exec (.faultInputActive n i) s = .next t ∧ t.rd (R.QY_STATUS_FE_FAULT n) = 1 ∧ bit (t.quay n).faults i = true ∧
        bit (t.quay n).filters i = false ∧ bit (t.rd (R.QY_GPIO_IN_IN n)) i = (s.rd (R.QY_GPIO_CFG_POL_i n i) != 1) ∧
        (s.rd (R.QY_CTL_FAULT_STOP n) = 1 → s.rd (R.QY_STATUS_RUNNING n) = 1 → t.rd (R.QY_STATUS_STOPPED n) = 1) ∧
        (s.rd (R.QY_CTL_FAULT_STOP n) ≠ 1 → t.rd (R.QY_STATUS_STOPPED n) = s.rd (R.QY_STATUS_STOPPED n)) ∧
        OnlyRegs [R.QY_STATUS_FE_FAULT n, R.QY_GPIO_IN_IN n, R.QY_STATUS_STOPPED n] s t ∧ (∀ j, j ≠ n.val → t.quay j = s.quay j) ∧
        t = { s with regs := t.regs, quays := t.quays }) ∧
    (s.runs → s.rd (R.QY_GPIO_CFG_FUNC_i n i) = 2 → bit (s.quay n).faults i = true ∨ bit (s.quay n).filters i = true →
      ∃ t, exec (.faultInputInactive n i) s = .next t ∧ bit (t.quay n).faults i = false ∧
        bit (t.rd (R.QY_GPIO_IN_IN n)) i = (s.rd (R.QY_GPIO_CFG_POL_i n i) == 1) ∧ OnlyRegs [R.QY_GPIO_IN_IN n] s t ∧
        (∀ j, j ≠ n.val → t.quay j = s.quay j) ∧ t = { s with regs := t.regs, quays := t.quays }) ∧
    (s.quayTakes n → ∀ v : Word, ∃ t, exec (.gpioCfgWrite n v) s = .next t ∧
      (∀ k, k < 4 → t.rd (R.QY_GPIO_CFG_AT_TIDE_i n k) = bits v.toNat (4 * k + 3) 1 ∧ t.rd (R.QY_GPIO_CFG_POL_i n k) = bits v.toNat (4 * k + 2) 1 ∧
        t.rd (R.QY_GPIO_CFG_FUNC_i n k) = (if bits v.toNat (4 * k) 2 = 3 then s.rd (R.QY_GPIO_CFG_FUNC_i n k) else bits v.toNat (4 * k) 2)) ∧
      OnlyRegs ((List.range 4).flatMap (fun k => [R.QY_GPIO_CFG_AT_TIDE_i n k, R.QY_GPIO_CFG_POL_i n k, R.QY_GPIO_CFG_FUNC_i n k])) s t ∧
      (∀ j, j ≠ n.val → t.quay j = s.quay j) ∧ t = { s with regs := t.regs, quays := t.quays }) ∧
    (s.quayTakes n → ∀ v : Word, ∃ t, exec (.gpioOutWrite n v) s = .next t ∧ t.rd (R.QY_GPIO_OUT_OUT n) = bits v.toNat 0 4 ∧
      (∀ k, k < 4 → s.rd (R.QY_GPIO_CFG_AT_TIDE_i n k) ≠ 1 → (t.quay n).gpioOut.testBit k = v.toNat.testBit k) ∧
      (∀ k, k < 4 → s.rd (R.QY_GPIO_CFG_AT_TIDE_i n k) = 1 → (t.quay n).gpioOut.testBit k = (s.quay n).gpioOut.testBit k) ∧
      ((∃ k, k < 4 ∧ s.rd (R.QY_GPIO_CFG_AT_TIDE_i n k) = 1) → Accepted (.gpioOut n (s.tideLines n) (bits v.toNat 0 4)) s t) ∧
      ((∀ k, k < 4 → s.rd (R.QY_GPIO_CFG_AT_TIDE_i n k) ≠ 1) → t.landing = s.landing) ∧
      OnlyRegs (R.QY_GPIO_OUT_OUT n :: landFields) s t ∧ (∀ j, j ≠ n.val → t.quay j = s.quay j) ∧
      t = { s with regs := t.regs, quays := t.quays, landing := t.landing })

/-- R81, R82, R83: a command write joins the queue of 16 with the transmit data, or sets SPI_OVF; the head starts its frame when none runs, a boundary has
passed where it asks for one, and the read queue has room where it reads; the end of a read frame appends the right-aligned data; a read of the
receive register takes the oldest. -/
def Obligations.SpiCommandsRunInOrder : Prop :=
  ∀ (n : Fin 8) (s : State),
    (∀ v : Word, s.quayTakes n → (s.quay n).spiQ.length < 16 → ∃ t, exec (.spiCommandWrite n v) s = .next t ∧
      (t.quay n).spiQ = (s.quay n).spiQ ++
        [⟨bits v.toNat 0 2, bits v.toNat 2 1, bit v.toNat 3, bit v.toNat 4, s.rd (R.QY_SPI_TXD_DATA n)⟩] ∧
      t.rd (R.QY_SPI_STATUS_CMD_LVL n) = (s.quay n).spiQ.length + 1 ∧
      OnlyRegs [R.QY_SPI_STATUS_CMD_LVL n, R.QY_SPI_STATUS_RX_LVL n, R.QY_SPI_RXD_DATA n] s t ∧ (∀ j, j ≠ n.val → t.quay j = s.quay j) ∧
      t = { s with regs := t.regs, quays := t.quays }) ∧
    (∀ v : Word, s.quayTakes n → 16 ≤ (s.quay n).spiQ.length → ∃ t, exec (.spiCommandWrite n v) s = .next t ∧
      t.rd (R.QY_STATUS_SPI_OVF n) = 1 ∧ OnlyRegs [R.QY_STATUS_SPI_OVF n] s t ∧ t = { s with regs := t.regs }) ∧
    (∀ c rest, s.runs → (s.quay n).spiQ = c :: rest →
      ((s.quay n).spiFrame.isSome = true ∨ (c.atTide = true ∧ tideOf s.now ≤ (s.quay n).spiHeadTide) ∨
        (c.rd = true ∧ 16 ≤ (s.quay n).spiRx.length) → exec (.spiFrameStart n) s = .next s) ∧
      ((s.quay n).spiFrame = none → (c.atTide = true → (s.quay n).spiHeadTide < tideOf s.now) →
        (c.rd = true → (s.quay n).spiRx.length < 16) →
        ∃ t, exec (.spiFrameStart n) s = .next t ∧ (t.quay n).spiFrame = some c ∧ (t.quay n).spiQ = rest ∧ t.rd (R.QY_SPI_STATUS_BUSY n) = 1 ∧
          OnlyRegs [R.QY_SPI_STATUS_BUSY n, R.QY_SPI_STATUS_CMD_LVL n, R.QY_SPI_STATUS_RX_LVL n, R.QY_SPI_RXD_DATA n] s t ∧
          (∀ j, j ≠ n.val → t.quay j = s.quay j) ∧ t = { s with regs := t.regs, quays := t.quays })) ∧
    (∀ (c : SpiCmd) (miso : Word), s.runs → (s.quay n).spiFrame = some c → ∃ t, exec (.spiFrameDone n miso) s = .next t ∧
      (t.quay n).spiFrame = none ∧ (t.quay n).spiQ = (s.quay n).spiQ ∧ t.rd (R.QY_SPI_STATUS_BUSY n) = 0 ∧
      (t.quay n).spiRx = (if c.rd then (s.quay n).spiRx ++ [low (8 * (c.len + 1)) miso.toNat] else (s.quay n).spiRx) ∧
      OnlyRegs [R.QY_SPI_STATUS_BUSY n, R.QY_SPI_STATUS_CMD_LVL n, R.QY_SPI_STATUS_RX_LVL n, R.QY_SPI_RXD_DATA n] s t ∧
      (∀ j, j ≠ n.val → t.quay j = s.quay j) ∧ t = { s with regs := t.regs, quays := t.quays }) ∧
    (s.runs → s.powered (quayDomain n) = true → ∃ t, exec (.spiRxdRead n) s = .next t ∧
      t.completion = ⟨.ok, [(s.quay n).spiRx.headD 0]⟩ ∧ (t.quay n).spiRx = (s.quay n).spiRx.tail ∧ (t.quay n).spiQ = (s.quay n).spiQ ∧
      OnlyRegs [R.QY_SPI_STATUS_CMD_LVL n, R.QY_SPI_STATUS_RX_LVL n, R.QY_SPI_RXD_DATA n] s t ∧ (∀ j, j ≠ n.val → t.quay j = s.quay j) ∧
      t = { s with regs := t.regs, quays := t.quays, completion := t.completion })

/-- R92, R97, R102, R104, R105, R106: the next segment of a quay closes once its last ADC sample has come, and is counted; residue mismatches
are counted and queue it for replay, or, with 16 queued, drop and lose it; the free replay unit takes the oldest; a replay whose samples are still
in the ring, without a parity error or a mismatch, and in time leaves the segment clean, another loses it. A write of the noise
window takes effect and clears NOISE_VALID, which sets once the estimate has covered 256 slot launches unless NOISE_LEN is 0. -/
def Obligations.SegmentsCloseAndReplay : Prop :=
  ∀ (n : Fin 8) (s : State), s.runs →
    (∀ (adc : List (BitVec 48)) (residues : Nat) (badPoints : List Nat) (badSlots : SlotParity) (g : Seg), s.nextSeg n = some g →
      s.segLast n g < nextBoundary s.now →
      ∃ t, exec (.segmentClose n adc residues badPoints badSlots) s = .next t ∧ t.now = max s.now (s.segLast n g) ∧
        ((s.rxOf n).tails = [] → t.rd (R.RX_SEG_LO_COUNT_LO n) = low 32 (g.2 + 1 - (s.rxOf n).skipped)) ∧
        (∀ x ts, (s.rxOf n).tails = x :: ts → t.rd (R.RX_SEG_LO_COUNT_LO n) = s.rd (R.RX_SEG_LO_COUNT_LO n)) ∧
        (residues = 0 → t.replayQ = s.replayQ ∧ t.rd (R.RX_RESIDUE_CNT_COUNT n) = s.rd (R.RX_RESIDUE_CNT_COUNT n)) ∧
        (residues ≠ 0 → t.rd (R.RX_STATUS_RESIDUE n) = 1 ∧
          t.rd (R.RX_RESIDUE_CNT_COUNT n) = satAdd (R.RX_RESIDUE_CNT_COUNT n).width (s.rd (R.RX_RESIDUE_CNT_COUNT n)) residues) ∧
        (residues ≠ 0 → s.replayQ.length < 16 → t.replayQ = s.replayQ ++ [{ quay := n.val, seg := g }] ∧ g ∈ (t.rxOf n).waiting) ∧
        (residues ≠ 0 → 16 ≤ s.replayQ.length → t.replayQ = s.replayQ ∧ t.rd (R.RX_STATUS_LOST_SEG n) = 1 ∧
          t.rd R.RX_REPLAY_DROP_COUNT = satAdd (R.RX_REPLAY_DROP_COUNT).width (s.rd R.RX_REPLAY_DROP_COUNT) 1 ∧
          t.rd (R.RX_LOST_SEG_CNT_COUNT n) = satAdd 32 (s.rd (R.RX_LOST_SEG_CNT_COUNT n)) 1) ∧
        (∀ k, k ≠ n.val → t.rxOf k = s.rxOf k) ∧
        t = { s with now := t.now, regs := t.regs, rx := t.rx, replayQ := t.replayQ, das := t.das, flow := t.flow, shed := t.shed, shedBad := t.shedBad }) ∧
    (∀ r rest, s.replaying = none → s.replayQ = r :: rest →
      ∃ t, exec .replayStart s = .next t ∧ t.replaying = some { r with at_ := s.now } ∧ t.replayQ = rest ∧
        t.rd R.RX_REPLAY_STATUS_LEVEL = low 5 rest.length ∧ OnlyRegs [R.RX_REPLAY_STATUS_LEVEL, R.RX_REPLAY_STATUS_PEAK] s t ∧
        t = { s with regs := t.regs, replaying := t.replaying, replayQ := t.replayQ }) ∧
    (∀ (residues : Nat) (badPoints badOffsets badCode : List Nat) (r : Replay), s.replaying = some r → r.quay < 8 →
      ∃ t, exec (.replayDone residues badPoints badOffsets badCode) s = .next t ∧ t.replaying = none ∧ r.seg ∉ (t.rxOf r.quay).waiting ∧
        (s.ringHolds r.quay r.seg r.at_ = true → s.ringErrors r.quay r.seg = [] → residues = 0 → s.replayInTime r.quay r.seg = true →
          t.rd R.RX_REPLAY_CNT_COUNT = satAdd 32 (s.rd R.RX_REPLAY_CNT_COUNT) 1 ∧
          t.rd (R.RX_LOST_SEG_CNT_COUNT r.quay) = s.rd (R.RX_LOST_SEG_CNT_COUNT r.quay)) ∧
        (s.ringHolds r.quay r.seg r.at_ = false ∨ s.ringErrors r.quay r.seg ≠ [] ∨ residues ≠ 0 ∨ s.replayInTime r.quay r.seg = false →
          t.rd (R.RX_STATUS_LOST_SEG r.quay) = 1 ∧
          t.rd (R.RX_LOST_SEG_CNT_COUNT r.quay) = satAdd 32 (s.rd (R.RX_LOST_SEG_CNT_COUNT r.quay)) 1) ∧
        (s.ringErrors r.quay r.seg ≠ [] → t.rd (R.RX_STATUS_RING_PARITY r.quay) = 1) ∧
        (∀ k, k ≠ r.quay → t.rxOf k = s.rxOf k) ∧
        t = { s with regs := t.regs, rx := t.rx, replaying := t.replaying, das := t.das, flow := t.flow }) ∧
    (s.rd (R.RX_NOISE_LEN_LEN n) ≠ 0 → 256 ≤ (s.rxOf n).noiseCount → ∃ t, exec (.noiseEstimateValid n) s = .next t ∧
      t.rd (R.RX_STATUS_NOISE_VALID n) = 1 ∧ OnlyRegs [R.RX_STATUS_NOISE_VALID n] s t ∧ t = { s with regs := t.regs }) ∧
    (∀ (len : Bool) (v : Word), ∃ t, exec (.noiseWindowWrite n len v) s = .next t ∧ t.rd (R.RX_STATUS_NOISE_VALID n) = 0 ∧
      t.rd (if len then R.RX_NOISE_LEN_LEN n else R.RX_NOISE_P0_P0 n) = (if len then bits v.toNat 0 10 else bits v.toNat 0 21) ∧
      t.rd (R.RX_NOISE_X n) = low (R.RX_NOISE_X n).width (s.rd (R.CL_QY_n_NOISE_X n)) ∧ (t.rxOf n).noiseCount = 0 ∧
      OnlyRegs [if len then R.RX_NOISE_LEN_LEN n else R.RX_NOISE_P0_P0 n, R.RX_STATUS_NOISE_VALID n, R.RX_NOISE_X n, R.RX_NOISE_Y n] s t ∧
      (∀ k, k ≠ n.val → t.rxOf k = s.rxOf k) ∧ t = { s with regs := t.regs, rx := t.rx })

/-- R121, R122, R123, R133, R135: the flush of a group's oldest full tile stores its bytes at its slot of the tile ring, rows whose buffers fail
parity as 0, and joins the writes of the berth's Tug, with its row buffers held until that write is complete; a row of an open DAS
zone, once the Sluice has what it needs, is written to slot SEQ mod depth, with SEQ and handle in its header, and SEQ advances; a synchronising
reset waits to land unless one waits already, and then the write is discarded. -/
def Obligations.CornerTurnAndSluiceRows : Prop :=
  (∀ (berth group : Nat) (parityRows : List Nat) (d : Das) (w u slot : Nat) (s : State), s.runs → d = s.dasOf berth →
    w = (s.berth berth).width → u = Tab.get 0 d.flushed group → (s.berth berth).isOpen = true → group < groupsOf (s.berth berth).channels →
    d.tileFull (s.berth berth).channels u group = true → slot = s.tileAddr berth group u →
    ∃ t, exec (.tileFlush berth group parityRows) s = .next t ∧ Tab.get 0 (t.dasOf berth).flushed group = u + 1 ∧
      (t.dasOf berth).rows = d.rows ∧ Tab.get [] t.tileWrites d.tug = Tab.get [] s.tileWrites d.tug ++ [(berth, group, u)] ∧
      (s.rd R.WH_STATUS_READY = 1 → slot % 64 = 0 → slot + 32 * w ≤ s.whUsable →
        ∀ i, i < 32 * w → Tab.get 0 t.wh.bytes (slot + i) = (d.tileBytes w u group parityRows).getD i 0) ∧
      (∀ a, a < slot ∨ slot + 32 * w ≤ a → Tab.get false s.wh.written (a / 64) = true → Tab.get 0 t.wh.bytes a = Tab.get 0 s.wh.bytes a) ∧
      ((∃ r ∈ parityRows, r < 16) → t.rd R.RX_SL_STATUS_STAGE_PARITY = 1) ∧
      (∀ k, k ≠ berth → t.dasOf k = s.dasOf k) ∧ (∀ e, e ≠ d.tug → Tab.get [] t.tileWrites e = Tab.get [] s.tileWrites e) ∧
      OnlyRegs [R.RX_SL_STATUS_STAGE_PARITY, R.RX_SL_PARITY_CNT_STAGE, R.WH_STATUS_RMW_ERR, R.WH_STATUS_RANGE_ERR] s t ∧
      t = { s with regs := t.regs, das := t.das, wh := t.wh, free := t.free, work := t.work, tileWrites := t.tileWrites }) ∧
  (∀ (berth q slot : Nat) (queued once spoilt badState : List Nat) (p : DasParams) (s : State),
    s.runs → berth < 4096 → (s.berth berth).isOpen = true → (s.berth berth).kind = 1 → p = dasParams (s.berth berth).params →
    q = s.rd (R.RX_BT_i_SEQ_LO_SEQ_LO berth) + 2 ^ 32 * s.rd (R.RX_BT_i_SEQ_HI_SEQ_HI berth) → s.rowReady berth q (s.rowAt berth q) = true →
    slot = (s.dasOf berth).ring + rowBytes p.count p.fmt * (q % p.outRows) →
    ∃ t, exec (.sluiceRowWrite berth queued once spoilt badState) s = .next t ∧
      t.rd (R.RX_BT_i_SEQ_LO_SEQ_LO berth) = low 32 (q + 1) ∧ t.rd (R.RX_BT_i_SEQ_HI_SEQ_HI berth) = low 32 ((q + 1) / 2 ^ 32) ∧
      t.rd (R.RX_BT_i_STATUS_FILLING berth) = flag (s.rowAt berth q).fill ∧
      (s.rd R.WH_STATUS_READY = 1 → slot % 64 = 0 → slot + rowBytes p.count p.fmt ≤ s.whUsable →
        (∀ i, i < 8 → Tab.get 0 t.wh.bytes (slot + i) = (leBytes 8 ((s.rowAt berth q).tau / 2 ^ 38)).getD i 0) ∧
        (∀ i, i < 8 → Tab.get 0 t.wh.bytes (slot + 8 + i) = (leBytes 8 q).getD i 0) ∧
        ∀ i, i < 4 → Tab.get 0 t.wh.bytes (slot + 16 + i) = (leBytes 4 (s.berth berth).handle).getD i 0) ∧
      (∀ k, k ≠ berth → t.dasOf k = s.dasOf k) ∧
      t = { s with
              regs := t.regs, das := t.das, wh := t.wh, free := t.free, watches := t.watches, work := t.work, late := t.late,
              cutWork := t.cutWork }) ∧
  ∀ s : State, s.runs →
    (s.rd R.RX_SL_STATUS_SYNC_PENDING = 1 → exec .syncWrite s = .next s) ∧
    (s.rd R.RX_SL_STATUS_SYNC_PENDING ≠ 1 → ∃ t, exec .syncWrite s = .next t ∧ t.rd R.RX_SL_STATUS_SYNC_PENDING = 1 ∧ Accepted .sync s t ∧
      OnlyRegs (R.RX_SL_STATUS_SYNC_PENDING :: landFields) s t ∧ t = { s with regs := t.regs, landing := t.landing })

/-- R146, R156, R159: when a block of an open flow zone ends within the tide and its coils' samples are there, device time reaches its end, and
its record takes the zone's next SEQ; where a reset falls inside the block, the block ends at the reset, its record, with SHORT and LOST, also
takes the next SEQ, and the blocks restart from there. -/
def Obligations.FlowBlocksBecomeRecords : Prop :=
  ∀ (berth tau whole step lb slot : Nat) (luck : SluiceLuck) (f : Flow) (d : Das) (s : State), s.runs →
    (s.berth berth).isOpen = true → (s.berth berth).kind = 2 → (s.berth berth).slot < 256 → d = s.dasOf berth →
    lb = (flowParams (s.berth berth).params).lb → f = (s.flowOf berth).settleCut d lb → step = 2 ^ d.h * d.inc * d.tin →
    tau = blockStart f d lb f.next → whole = blockStart f d lb (f.next + 1) →
    slot = f.ring + 128 * (f.seq % (flowParams (s.berth berth).params).outRecs) →
    (f.cuts = [] → whole / 2 ^ 38 < nextBoundary s.now →
      (s.setFlow berth (s.blockSetup f tau).1).coilsReady berth (f.next * lb) lb = true →
      ∃ t, exec (.flowRecordWrite berth luck) s = .next t ∧ t.now = max s.now (whole / 2 ^ 38) ∧
        (t.flowOf berth).next = f.next + 1 ∧ (t.flowOf berth).seq = f.seq + 1 ∧
        (s.rd (R.RX_FZ_z_HANDLE_HANDLE (s.berth berth).slot) = (s.berth berth).handle →
          t.rd (R.RX_FZ_z_SEQ_LO_SEQ_LO (s.berth berth).slot) = low 32 (f.seq + 1)) ∧
        (∀ k, k ≠ berth → t.flowOf k = s.flowOf k ∧ t.dasOf k = s.dasOf k) ∧
        t = { s with
              now := t.now, regs := t.regs, flow := t.flow, das := t.das, wh := t.wh, free := t.free, watches := t.watches,
              ledger := t.ledger, signQ := t.signQ, evtLost := t.evtLost, work := t.work, late := t.late, cutWork := t.cutWork }) ∧
    (∀ c rest n k, f.cuts = c :: rest → c * 2 ^ 38 < whole → n = ceilDiv (c * 2 ^ 38 - tau) step →
      k = min n (ceilDiv ((c - delayTotal false d.h d.tin) * 2 ^ 38 - tau) step) →
      (s.setFlow berth (s.blockSetup f tau).1).coilsReady berth (f.next * lb) k = true →
      ∃ t, exec (.flowRecordWrite berth luck) s = .next t ∧ t.now = s.now ∧ (t.flowOf berth).next = 0 ∧ (t.flowOf berth).anchor = c ∧
        (t.flowOf berth).cuts = rest ∧ (t.flowOf berth).seq = f.seq + 1 ∧
        (s.rd R.WH_STATUS_READY = 1 → slot % 64 = 0 → slot + 128 ≤ s.whUsable →
          ∀ i, i < 8 → Tab.get 0 t.wh.bytes (slot + 8 + i) = (leBytes 8 f.seq).getD i 0) ∧
        (∀ k, k ≠ berth → t.flowOf k = s.flowOf k ∧ t.dasOf k = s.dasOf k) ∧ t.rd R.RX_FZ_STATUS_LOST = 1 ∧
        t = { s with
              regs := t.regs, flow := t.flow, das := t.das, wh := t.wh, free := t.free, watches := t.watches,
              ledger := t.ledger, signQ := t.signQ, evtLost := t.evtLost, work := t.work, late := t.late, cutWork := t.cutWork })

/-- R170, R174, R178, R180, R181, R184, R185: a whole second closes while the ledger runs with valid time, and with no point open its commit starts when the
second has not been committed; a commit's end writes its CRC, shows in LG_GEN and frees the commit; an interval record whose last second is committed
joins the signing queue of 256; the item at the head becomes the record of the next RECSEQ, written to its journal slot and chained by its digest. -/
def Obligations.LedgerClosesCommitsAndSigns : Prop :=
  ∀ s : State, s.runs →
    (∀ k, k = s.ledger.instant + 1 → s.rd R.LG_STATUS_READY = 1 → s.rd R.HB_TIME_STATUS_VALID = 1 → k * 1000000000 < nextBoundary s.now →
      ∃ t, exec .ledgerSecondClose s = .next t ∧ t.now = max s.now (k * 1000000000) ∧ t.ledger.instant = k ∧
        (s.ledger.points = [] → s.ledger.nextCommit < k → t.ledger.nextCommit = k ∧
          ∃ image, t.ledger.commit = some ⟨k - 1, image⟩ ∧ ∀ i, i < image.length → Tab.get 0 t.hold (bankBase (k - 1) + i) = image.getD i 0) ∧
        t = { s with now := t.now, regs := t.regs, ledger := t.ledger, hold := t.hold, signQ := t.signQ, evtLost := t.evtLost, free := t.free }) ∧
    (∀ c, s.ledger.commit = some c → ∃ t, exec .commitDone s = .next t ∧ t.ledger = { s.ledger with commit := none, latest := c.image } ∧
      t.rd R.LG_GEN_LO_GEN_LO = low 32 c.sec ∧ t.rd R.LG_GEN_HI_GEN_HI = low 32 (c.sec / 2 ^ 32) ∧
      (∀ i, i < 4 → Tab.get 0 t.hold (bankBase c.sec + 16512 + i) = (leBytes 4 (crc32 c.image)).getD i 0) ∧
      (∀ a, a < bankBase c.sec + 16512 ∨ bankBase c.sec + 16516 ≤ a → Tab.get 0 t.hold a = Tab.get 0 s.hold a) ∧
      OnlyRegs [R.LG_GEN_LO_GEN_LO, R.LG_GEN_HI_GEN_HI] s t ∧ t = { s with regs := t.regs, ledger := t.ledger, hold := t.hold }) ∧
    (∀ d rest, s.ledger.due = d :: rest → d.afterSec ≤ s.rd R.LG_GEN_LO_GEN_LO + 2 ^ 32 * s.rd R.LG_GEN_HI_GEN_HI → s.signQ.length < 256 →
      exec .intervalRecord s = .next { s with signQ := s.signQ ++ [{ type := 1, body := d.body }], ledger := { s.ledger with due := rest } }) ∧
    (∀ d rest, s.ledger.due = d :: rest → s.rd R.LG_GEN_LO_GEN_LO + 2 ^ 32 * s.rd R.LG_GEN_HI_GEN_HI < d.afterSec ∨ 256 ≤ s.signQ.length →
      exec .intervalRecord s = .next s) ∧
    (∀ e rest r body, s.signQ = e :: rest → s.ledger.key ≠ 0 →
      s.rd R.LG_STATUS_READY = 1 ∨ (s.ledger.handover ≠ none ∧ e.code = 0x33) → r = s.recseq → body = s.recordBytes e →
      ∃ t, exec .recordSign s = .next t ∧ t.signQ = rest ∧ t.ledger.chain = sha256 body ∧
        t.rd R.LG_RECSEQ_LO_SEQ_LO = low 32 (r + 1) ∧ t.rd R.LG_RECSEQ_HI_SEQ_HI = low 32 ((r + 1) / 2 ^ 32) ∧
        (∀ i, i < body.length → Tab.get 0 t.hold (0x80000 + 384 * (r % 4096) + i) = body.getD i 0) ∧
        (∀ a, a < 0x80000 + 384 * (r % 4096) ∨ 0x80000 + 384 * (r % 4096) + body.length + (ecdsaSign s.ledger.key (sha256 body)).length ≤ a →
          Tab.get 0 t.hold a = Tab.get 0 s.hold a) ∧
        (s.ledger.czNext = none → t.sent = s.sent) ∧ (s.ringDepth = 0 → t.wh = s.wh ∧ t.work = s.work) ∧
        t = { s with regs := t.regs, signQ := t.signQ, ledger := t.ledger, hold := t.hold, wh := t.wh, sent := t.sent, free := t.free, work := t.work }) ∧
    (∀ e rest, s.signQ = e :: rest → s.rd R.LG_STATUS_READY = 0 → s.ledger.handover = none → exec .recordSign s = .next s)

/-- R187, R188, R189, R190, R191: HELLO with a version in common sets it and CZ_UP and lets records be sent from then on, one without clears both; a NACK is
counted and never lowers the acknowledged point; a Modbus request of another function than 3 and 4 is answered with exception 1 and one
within the map with its registers, on at most 4 connections; a handover ends with the new version where the digests agree and with the old service otherwise, also when no
verification comes in 100 ms. The limit of 125 registers is the protocol's own (PRESUMED in the log). -/
def Obligations.LedgerStreamsAndHandover : Prop :=
  ∀ s : State, s.runs →
    (∀ (min_ max_ resume v : Nat), s.rd R.LG_CZ_CFG_EN = 1 → v = Nat.min (s.rd (R.HB_IF_i_MAX 2)) max_ →
      ∃ t, exec (.czHello min_ max_ resume) s = .next t ∧
        (v = 0 ∨ v < s.rd (R.HB_IF_i_MIN 2) ∨ v < min_ → t.rd R.LG_CZ_CFG_VER = 0 ∧ t.rd R.LG_STATUS_CZ_UP = 0 ∧ t.ledger.czNext = none) ∧
        (v ≠ 0 → s.rd (R.HB_IF_i_MIN 2) ≤ v → min_ ≤ v → t.rd R.LG_CZ_CFG_VER = low (R.LG_CZ_CFG_VER).width v ∧
          t.rd R.LG_STATUS_CZ_UP = 1 ∧ t.ledger.czNext = some s.recseq) ∧
        t = { s with regs := t.regs, ledger := t.ledger, sent := t.sent }) ∧
    (∀ (seq : Nat) (ranges : List (Nat × Nat)), s.rd R.LG_STATUS_CZ_UP = 1 → ∃ t, exec (.czNack seq ranges) s = .next t ∧
      t.rd R.LG_CZ_CNT_NACK = satAdd (R.LG_CZ_CNT_NACK).width (s.rd R.LG_CZ_CNT_NACK) 1 ∧
      (s.rd R.LG_CZ_ACKED_LO_SEQ_LO + 2 ^ 32 * s.rd R.LG_CZ_ACKED_HI_SEQ_HI < seq → t.rd R.LG_CZ_ACKED_LO_SEQ_LO = low 32 seq) ∧
      (seq ≤ s.rd R.LG_CZ_ACKED_LO_SEQ_LO + 2 ^ 32 * s.rd R.LG_CZ_ACKED_HI_SEQ_HI →
        t.rd R.LG_CZ_ACKED_LO_SEQ_LO = s.rd R.LG_CZ_ACKED_LO_SEQ_LO ∧ t.rd R.LG_CZ_ACKED_HI_SEQ_HI = s.rd R.LG_CZ_ACKED_HI_SEQ_HI) ∧
      t = { s with regs := t.regs, sent := t.sent }) ∧
    (∀ (port : Fin 2) (conn : Nat) (ended : List Nat) (fn addr count : Nat) (others : List (Nat × Nat)), s.rd (R.NT_n_CFG_EN port) = 1 →
      s.powered 23 = true → others = s.ledger.modbus.filter (fun c => !(c.1 == port.val && (c.2 == conn || ended.contains c.2))) →
      (((port.val, conn) ∈ s.ledger.modbus ∧ conn ∉ ended) ∨ others.length < 4 →
        ∃ t bs, exec (.modbusRequest ⟨port, conn, ended⟩ fn addr count) s = .next t ∧
          t.sent = s.sent ++ [{ kind := .modbus, port := port, body := bs, tag := s.sendTag port }] ∧
          t.ledger = { s.ledger with modbus := others ++ [(port.val, conn)] } ∧
          (fn ≠ 3 → fn ≠ 4 → bs = [BitVec.ofNat 8 (128 + fn), 1]) ∧
          (fn = 3 ∨ fn = 4 → 1 ≤ count → count ≤ 125 → (∃ i, i < count ∧ s.modbusReg (addr + i) = none) → bs = [BitVec.ofNat 8 (128 + fn), 2]) ∧
          (fn = 3 ∨ fn = 4 → count = 1 → ∀ r, s.modbusReg addr = some r → bs = [BitVec.ofNat 8 fn, 2] ++ beBytes 2 r) ∧
          OnlyRegs [R.NT_n_TX_CNT_COUNT port] s t ∧ t = { s with regs := t.regs, ledger := t.ledger, sent := t.sent }) ∧
      ((port.val, conn) ∉ s.ledger.modbus ∨ conn ∈ ended → 4 ≤ others.length →
        exec (.modbusRequest ⟨port, conn, ended⟩ fn addr count) s = .next { s with ledger := { s.ledger with modbus := others } })) ∧
    (∀ (same : Bool) (h : Handover), s.ledger.handover = some h → ∃ t, exec (.ledgerHandoverVerify same) s = .next t ∧
      t.rd R.LG_STATUS_READY = 1 ∧ t.ledger.handover = none ∧ (same = true → t.ledgerVer = h.new ∧ t.signQ = s.signQ) ∧
      (same = false → t.ledgerVer = s.ledgerVer ∧ t.rd R.RS_FW_LEDGER_BANK = flag (s.rd R.RS_FW_LEDGER_BANK != 1) ∧
        ∃ e, t.signQ = e :: s.signQ.map (LedgerItem.movedBack s.recseq) ∧ e.code = 0x33 ∧ e.args = [h.old, 0, h.digest]) ∧
      OnlyRegs [R.LG_STATUS_READY, R.RS_FW_LEDGER_BANK] s t ∧
      t = { s with regs := t.regs, ledger := t.ledger, ledgerVer := t.ledgerVer, signQ := t.signQ }) ∧
    (∀ h, s.ledger.handover = some h → h.at_ + 100000000 < nextBoundary s.now → ∃ t, exec .ledgerHandoverTimeout s = .next t ∧
      t.now = max s.now (h.at_ + 100000000) ∧ t.rd R.LG_STATUS_READY = 1 ∧ t.ledger.handover = none ∧
      (∃ e, t.signQ = e :: s.signQ.map (LedgerItem.movedBack s.recseq) ∧ e.code = 0x33 ∧ e.args = [h.old, 0, h.digest]) ∧ OnlyRegs [R.LG_STATUS_READY, R.RS_FW_LEDGER_BANK] s t ∧
      t = { s with now := t.now, regs := t.regs, ledger := t.ledger, signQ := t.signQ })

/-- R196, R197, R198, R203, R206, R213: an edge is ignored while the bank's trims are not valid; on a lane of class H an edge within the hold-off is a
bounce; an edge within 307/256 ns of the last one converted is dead; any other is counted. In mode 1 it makes an entry in the bank's FIFO of 1,024; in
mode 2 an edge after the start and before the timeout is the next stop of the measurement. The dead time in codes is the model's reading. -/
def Obligations.TallyEdgesAreFiled : Prop :=
  ∀ (lane : Fin 128) (raw : Nat) (s : State), s.runs →
    (s.rd (R.TL_BANK_STATUS_CAL_VALID (lane.val / 16)) ≠ 1 → exec (.tallyEdge lane raw) s = .next s) ∧
    (∀ (x : Lane) (mode : Nat) (held : Bool), x = s.lane lane → mode = s.rd (ln R.TL_LANE_i_CFG_MODE lane) →
      s.rd (R.TL_BANK_STATUS_CAL_VALID (lane.val / 16)) = 1 → raw / 256 < nextBoundary s.now → x.undecided = [] → mode < 2 →
      (held = true ↔ s.rd (ln R.TL_LANE_i_CFG_CLASS lane) = 1 ∧
        ∃ a, x.acc = some a ∧ raw < a + 256000 * s.rd (ln R.TL_LANE_i_HOLDOFF_HOLDOFF lane)) →
      ∃ t, exec (.tallyEdge lane raw) s = .next t ∧ t.now = max s.now (raw / 256) ∧ (∀ k, k ≠ lane.val → t.lane k = s.lane k) ∧
        (held = true → t.rd (ln R.TL_LANE_i_BOUNCE_CNT_COUNT lane) =
            satAdd (ln R.TL_LANE_i_BOUNCE_CNT_COUNT lane).width (s.rd (ln R.TL_LANE_i_BOUNCE_CNT_COUNT lane)) 1 ∧
          OnlyRegs [ln R.TL_LANE_i_BOUNCE_CNT_COUNT lane] s t ∧ t.fifos = s.fifos) ∧
        (held = false → mode = 1 → (∃ c, x.conv = some c ∧ raw ≤ c + 307) →
          t.rd (ln R.TL_LANE_i_DEAD_CNT_COUNT lane) =
            satAdd (ln R.TL_LANE_i_DEAD_CNT_COUNT lane).width (s.rd (ln R.TL_LANE_i_DEAD_CNT_COUNT lane)) 1 ∧
          OnlyRegs [ln R.TL_LANE_i_DEAD_CNT_COUNT lane] s t ∧ t.fifos = s.fifos) ∧
        (held = false → (mode = 1 → ∀ c, x.conv = some c → c + 307 < raw) →
          t.rd (ln R.TL_LANE_i_COUNT_LO_COUNT_LO lane) =
            low 32 (s.rd (ln R.TL_LANE_i_COUNT_LO_COUNT_LO lane) + 2 ^ 32 * s.rd (ln R.TL_LANE_i_COUNT_HI_COUNT_HI lane) + 1) ∧
          (t.lane lane).acc = some raw ∧
          (mode = 0 → t.fifos = s.fifos) ∧
          (mode = 1 → s.rd (ln R.TL_LANE_i_CFG_FIFO_EN lane) = 1 → (Tab.get [] s.fifos (lane.val / 16)).length < 1024 →
            (Tab.get [] t.fifos (lane.val / 16)).length = (Tab.get [] s.fifos (lane.val / 16)).length + 1 ∧
            ∃ e ∈ Tab.get [] t.fifos (lane.val / 16), e.lane = lane.val ∧ e.type = 4 ∧ 256 * e.time + e.frac = s.laneStamp lane raw) ∧
          (mode = 1 → s.rd (ln R.TL_LANE_i_CFG_FIFO_EN lane) = 1 → 1024 ≤ (Tab.get [] s.fifos (lane.val / 16)).length →
            t.fifos = s.fifos ∧ t.rd (R.TL_BANK_STATUS_FIFO_OVF (lane.val / 16)) = 1)) ∧
        t = { s with now := t.now, regs := t.regs, lanes := t.lanes, fifos := t.fifos }) ∧
    (∀ (x : Lane) (c : Nat), x = s.lane lane → s.rd (ln R.TL_LANE_i_CFG_MODE lane) = 2 →
      s.rd (R.TL_BANK_STATUS_CAL_VALID (lane.val / 16)) = 1 → raw / 256 < nextBoundary s.now → x.undecided = [] →
      s.rd (ln R.TL_LANE_i_CFG_CLASS lane) ≠ 1 → x.armed = true → raw ≤ s.timeoutEdge lane → x.conv = some c → c + 307 < raw →
      x.raw + 307 < raw → x.stops.length < s.rd (ln R.TL_LANE_i_CFG_MAXSTOP lane) →
      ∃ t, exec (.tallyEdge lane raw) s = .next t ∧ (t.lane lane).stops = x.stops ++ [raw] ∧ (t.lane lane).armed = true ∧
        t.rd (ln R.TL_LANE_i_COUNT_LO_COUNT_LO lane) =
          low 32 (s.rd (ln R.TL_LANE_i_COUNT_LO_COUNT_LO lane) + 2 ^ 32 * s.rd (ln R.TL_LANE_i_COUNT_HI_COUNT_HI lane) + 1) ∧
        (∀ a, a < histBase lane ∨ histBase lane + 24576 ≤ a → t.shedByte a = s.shedByte a) ∧ (∀ k, k ≠ lane.val → t.lane k = s.lane k) ∧
        t = { s with now := t.now, regs := t.regs, lanes := t.lanes, fifos := t.fifos, shed := t.shed, shedBad := t.shedBad })

/-- R200, R201, R207, R208, R217: a start newer than the last one taken arms a measurement with no stop and counts it, but between a frame's end and the
end of its dump it is skipped and counted so; the timeout edge ends the measurement, and where the frame has ended its dump begins and the
next frame starts at its boundary; a read of the FIFO removes its head and returns the low word
of its time, or 0 with an entry of type 15 from an empty FIFO. -/
def Obligations.TallyStartsTimeoutsAndFifo : Prop :=
  ∀ (lane : Fin 128) (bank : Fin 8) (raw : Nat) (s : State), s.runs →
    (∀ t0, t0 = s.startInstant lane → s.rd (R.TL_BANK_STATUS_CAL_VALID (lane.val / 16)) = 1 → s.rd (ln R.TL_LANE_i_CFG_MODE lane) = 2 →
      (s.lane lane).inst < t0 → raw / 256 < nextBoundary s.now →
      ∃ t, exec (.tallyStart lane raw) s = .next t ∧ t.now = max s.now (raw / 256) ∧ (∀ k, k ≠ lane.val → t.lane k = s.lane k) ∧
        ((s.lane lane).ending = none → (s.lane lane).dumping = none →
          (t.lane lane).armed = true ∧ (t.lane lane).raw = raw ∧ (t.lane lane).inst = t0 ∧ (t.lane lane).stops = [] ∧
          t.rd (ln R.TL_LANE_i_STATUS_ARMED lane) = 1 ∧
          t.rd (ln R.TL_LANE_i_MEAS_LO_MEAS_LO lane) =
            low 32 (s.rd (ln R.TL_LANE_i_MEAS_LO_MEAS_LO lane) + 2 ^ 32 * s.rd (ln R.TL_LANE_i_MEAS_HI_MEAS_HI lane) + 1)) ∧
        ((s.lane lane).ending.isSome = true ∨ (s.lane lane).dumping.isSome = true →
          (t.lane lane).armed = false ∧ (t.lane lane).inst = t0 ∧ (t.lane lane).conv = some raw ∧
          t.rd (ln R.TL_LANE_i_SKIP_CNT_COUNT lane) =
            satAdd (ln R.TL_LANE_i_SKIP_CNT_COUNT lane).width (s.rd (ln R.TL_LANE_i_SKIP_CNT_COUNT lane)) 1 ∧
          ((s.lane lane).armed = false → (t.lane lane).frame.skips = (s.lane lane).frame.skips + 1 ∧
            ((s.lane lane).undecided = [] → OnlyRegs [ln R.TL_LANE_i_SKIP_CNT_COUNT lane] s t))) ∧
        t = { s with now := t.now, regs := t.regs, lanes := t.lanes, fifos := t.fifos, shed := t.shed, shedBad := t.shedBad }) ∧
    ((s.lane lane).armed = true → s.timeoutEdge lane / 256 < nextBoundary s.now →
      ∃ t, exec (.tallyTimeout lane) s = .next t ∧ t.now = max s.now (s.timeoutEdge lane / 256) ∧ (t.lane lane).armed = false ∧
        t.rd (ln R.TL_LANE_i_STATUS_ARMED lane) = 0 ∧ ((s.lane lane).ending = none → (t.lane lane).dumping = (s.lane lane).dumping) ∧
        (∀ b dump, (s.lane lane).ending = some (b, dump) → (s.lane lane).dumping = none →
          (t.lane lane).dumping = some (max b (ceilDiv (s.timeoutEdge lane) 256)) ∧ t.rd (ln R.TL_LANE_i_STATUS_DUMPING lane) = 1 ∧
          (t.lane lane).frame.start = b ∧ (t.lane lane).frame.num = (s.lane lane).frame.num + flag dump) ∧
        (∀ k, k ≠ lane.val → t.lane k = s.lane k) ∧
        t = { s with now := t.now, regs := t.regs, lanes := t.lanes, fifos := t.fifos, shed := t.shed, shedBad := t.shedBad }) ∧
    (s.powered (bankDomain bank) = true → ∃ t, exec (.tallyFifoPop bank) s = .next t ∧
      (∀ e q, Tab.get [] s.fifos bank = e :: q → t.completion = ⟨.ok, [low 32 e.time]⟩ ∧ Tab.get [] t.fifos bank = q ∧
        t.rd (R.TL_FIFO_w_DATA bank 3) = low 32 e.value ∧ t.rd (R.TL_BANK_STATUS_FIFO_LVL bank) = low (R.TL_BANK_STATUS_FIFO_LVL bank).width q.length) ∧
      (Tab.get [] s.fifos bank = [] → t.completion = ⟨.ok, [0]⟩ ∧ t.fifos = s.fifos ∧ t.rd (R.TL_FIFO_w_DATA bank 2) = 15 * 65536) ∧
      (∀ k, k ≠ bank.val → Tab.get [] t.fifos k = Tab.get [] s.fifos k) ∧
      OnlyRegs (R.TL_BANK_STATUS_FIFO_LVL bank :: (List.range 4).map (fun w => R.TL_FIFO_w_DATA bank w)) s t ∧
      t = { s with regs := t.regs, fifos := t.fifos, completion := t.completion })

/-- R212, R214, R217, R219, R226, R230: a complete set shows and advances STAT_SEQ; a gate that is over shows its edges, and NOFREQ with fewer than two;
the end of a dump clears the histogram and arms starts again; a configuration or clear write waits to land, and on an owned lane sets WR_OWNED;
the next complete Raman trace becomes a record. -/
def Obligations.TallyResultsAndLaneWrites : Prop :=
  ∀ (lane : Fin 128) (s : State), s.runs →
    (∀ st rest, (s.lane lane).sets = st :: rest → ∃ t, exec (.statSetComplete lane) s = .next t ∧ (t.lane lane).sets = rest ∧
      t.rd (ln R.TL_LANE_i_STAT_SEQ_SEQ lane) = low (ln R.TL_LANE_i_STAT_SEQ_SEQ lane).width (s.rd (ln R.TL_LANE_i_STAT_SEQ_SEQ lane) + 1) ∧
      t.rd (ln R.TL_LANE_i_STATUS_STAT_DONE lane) = 1 ∧ t.rd (ln R.TL_LANE_i_MIN_MIN lane) = ofSigned 32 st.lo ∧
      t.rd (ln R.TL_LANE_i_MAX_MAX lane) = ofSigned 32 st.hi ∧ (∀ k, k ≠ lane.val → t.lane k = s.lane k) ∧
      t = { s with regs := t.regs, lanes := t.lanes, watches := t.watches }) ∧
    (s.rd (ln R.TL_LANE_i_CFG_MODE lane) = 3 → s.gateEnd lane ≤ s.now →
      ∃ t, exec (.freqGateEnd lane) s = .next t ∧ t.rd (ln R.TL_LANE_i_STATUS_FREQ_DONE lane) = 1 ∧ (t.lane lane).gate = { start := s.gateEnd lane, lost := s.tallyLost } ∧
        t.rd (ln R.TL_LANE_i_FEDGES_E lane) = low (ln R.TL_LANE_i_FEDGES_E lane).width (s.lane lane).gate.edges ∧
        ((s.lane lane).gate.edges < 2 → t.rd (ln R.TL_LANE_i_STATUS_NOFREQ lane) = 1 ∧ t.rd (ln R.TL_LANE_i_FREQ_FREQ lane) = 0) ∧
        (∀ k, k ≠ lane.val → t.lane k = s.lane k) ∧
        t = { s with regs := t.regs, lanes := t.lanes, fifos := t.fifos, watches := t.watches }) ∧
    (∀ ok b dump t0, (s.lane lane).ending = some (b, dump) → (s.lane lane).dumping = some t0 → t0 + 16384 < nextBoundary s.now →
      ∃ t, exec (.histogramDumpDone lane ok) s = .next t ∧ t.now = max s.now (t0 + 16384) ∧ (t.lane lane).ending = none ∧
        (t.lane lane).dumping = none ∧ t.rd (ln R.TL_LANE_i_STATUS_DUMPING lane) = 0 ∧ 
        (t.lane lane).frame = (s.lane lane).frame ∧
        (∀ i, i < 24576 → t.shedByte (histBase lane + i) = 0) ∧
        (∀ a, a < histBase lane ∨ histBase lane + 24576 ≤ a → t.shedByte a = s.shedByte a) ∧ (∀ k, k ≠ lane.val → t.lane k = s.lane k) ∧
        t = { s with
              now := t.now, regs := t.regs, lanes := t.lanes, shed := t.shed, shedBad := t.shedBad, wh := t.wh, free := t.free,
              raman := t.raman, ranging := t.ranging, work := t.work, late := t.late, cutWork := t.cutWork }) ∧
    (s.takesWrites (bankDomain (lane.val / 16)) → ((s.link 8).retraining = false ∨ ∀ e ∈ (s.link 8).held, e.1 ≠ bankDomain (lane.val / 16)) →
      (s.rd (ln R.TL_LANE_i_CFG_OWNER lane) ≠ 0 → ∀ reg v,
        (∃ t, exec (.histogramClearWrite lane) s = .next t ∧ exec (.laneCfgWrite lane reg v) s = .next t ∧
          t.rd (R.TL_BANK_STATUS_WR_OWNED (lane.val / 16)) = 1 ∧ OnlyRegs [R.TL_BANK_STATUS_WR_OWNED (lane.val / 16)] s t ∧
          t = { s with regs := t.regs })) ∧
      (s.rd (ln R.TL_LANE_i_CFG_OWNER lane) = 0 → ∃ t, exec (.histogramClearWrite lane) s = .next t ∧ Accepted (.histClear lane) s t ∧
        OnlyRegs landFields s t ∧ t = { s with regs := t.regs, landing := t.landing }) ∧
      (s.rd (ln R.TL_LANE_i_CFG_OWNER lane) = 0 → ∀ reg v, ∃ t, exec (.laneCfgWrite lane reg v) s = .next t ∧
        Accepted (.laneCfg lane reg v.toNat) s t ∧ t.rd (ln R.TL_LANE_i_STATUS_PENDING lane) = 1 ∧
        OnlyRegs (ln R.TL_LANE_i_STATUS_PENDING lane :: landFields) s t ∧ t = { s with regs := t.regs, landing := t.landing })) ∧
    (∀ berth tr rest, (Tab.get {} s.raman berth).ready = tr :: rest → ∃ t, exec (.ramanTraceRecord berth) s = .next t ∧
      (Tab.get {} t.raman berth).ready = rest ∧ (Tab.get {} t.raman berth).seq = (Tab.get {} s.raman berth).seq + 1 ∧
      (∃ x, Tab.get [] t.traces berth = x :: Tab.get [] s.traces berth ∧ x.stamp = tr.start) ∧
      (∀ k, k ≠ berth → Tab.get {} t.raman k = Tab.get {} s.raman k ∧ Tab.get [] t.traces k = Tab.get [] s.traces k) ∧
      t = { s with
              regs := t.regs, wh := t.wh, free := t.free, raman := t.raman, traces := t.traces, work := t.work, late := t.late,
              cutWork := t.cutWork })

/-- R234, R236, R237, R238, R239, R241, R245: a scan frame of a running port starts at its instant if it would end before the next tide boundary, and is
counted; each row slot takes the next row and steps the jitter register; on a stopped port a shot is counted as missed and no column is charged; a fired
shot whose columns the governor withholds all gives no start; the diagnostic slot ends the frame's diagnostic without a start. -/
def Obligations.ScanFramesAndShots : Prop :=
  ∀ (m : Fin 8) (s : State), s.runs →
    (∀ (rows : List Nat) (f len : Nat), rows = maskRows (s.rd (R.BC_m_STEP_ROWS m)) →
      f = s.rd (R.BC_m_SCAN_LO_COUNT_LO m) + 2 ^ 32 * s.rd (R.BC_m_SCAN_HI_COUNT_HI m) →
      len = 640 * (s.rd (R.BC_m_SLOT_SLOT m) * (rows.length +
        if s.rd (R.BC_m_PULSE_PW m) < 16 ∧ s.rd (R.BC_m_CTL_DIAG_EN m) = 1 ∧ f % 64 = 63 then 1 else 0)) →
      s.rd (R.BC_m_STATUS_RUNNING m) = 1 → (s.port m).rows = [] → (s.port m).diag = false →
      ((s.port m).next + len < 256 * nextBoundary s.now →
        ∃ t, exec (.scanFrameStart m) s = .next t ∧ t.now = max s.now ((s.port m).next / 256) ∧ (t.port m).rows = rows ∧
          (t.port m).slotAt = (s.port m).next ∧ (t.port m).next = (s.port m).next + len ∧
          t.rd (R.BC_m_SCAN_LO_COUNT_LO m) = low 32 (f + 1) ∧ (∀ k, k ≠ m.val → t.port k = s.port k) ∧
          t = { s with now := t.now, regs := t.regs, ports := t.ports }) ∧
      (256 * nextBoundary s.now ≤ (s.port m).next + len → exec (.scanFrameStart m) s = .next s)) ∧
    (∀ (sense r : Nat) (rest : List Nat), (s.port m).rows = r :: rest → (s.port m).slotAt / 256 < nextBoundary s.now →
      ∃ t, exec (.rowSlot m sense) s = .next t ∧ t.now = max s.now ((s.port m).slotAt / 256) ∧ (t.port m).rows = rest ∧
        (t.port m).lfsr = lfsrNext (s.port m).lfsr ∧ Tab.get 0 (t.port m).shots r = Tab.get 0 (s.port m).shots r + 1 ∧
        (t.port m).slotAt = (s.port m).slotAt + 640 * s.rd (R.BC_m_SLOT_SLOT m) ∧
        (s.rd (R.BC_m_STATUS_STOPPED m) = 1 → (t.port m).charge = (s.port m).charge ∧ (t.port m).shot = (s.port m).shot ∧
          (t.port m).setpoints = [] ∧
          (shotFires (s.rd (R.BC_m_PULSE_INT m)) (Tab.get 0 (s.port m).shots r) = true → t.rd (R.BC_m_MISS_CNT_COUNT m) =
            satAdd (R.BC_m_MISS_CNT_COUNT m).width (s.rd (R.BC_m_MISS_CNT_COUNT m)) 1)) ∧
        (shotFires (s.rd (R.BC_m_PULSE_INT m)) (Tab.get 0 (s.port m).shots r) = false → t.regs = s.regs ∧ (t.port m).shot = (s.port m).shot) ∧
        (∀ k, k ≠ m.val → t.port k = s.port k) ∧ t = { s with now := t.now, regs := t.regs, ports := t.ports }) ∧
    (∀ sense : Nat, (s.port m).rows = [] → (s.port m).diag = true → (s.port m).slotAt / 256 < nextBoundary s.now →
      ∃ t, exec (.diagnosticSlot m sense) s = .next t ∧ (t.port m).diag = false ∧ (t.port m).diags = (s.port m).diags + 1 ∧
        (t.port m).shot = (s.port m).shot ∧ (s.rd (R.BC_m_STATUS_STOPPED m) = 1 → t.regs = s.regs) ∧
        (∀ k, k ≠ m.val → t.port k = s.port k) ∧ t = { s with now := t.now, regs := t.regs, ports := t.ports })

/-- R242, R243, R245, R246, R252, R255: a short check and a resume wait to land, a resume only while the port is armed and its head is neither in ALARM nor
lost; a check that ends with a pair sets SHORT and stops the port, one without a pair clears SHORT; when every lane of a berth's oldest ended frame is
dumped, its record is written and the frame is done. -/
def Obligations.BeaconChecksAndRecords : Prop :=
  ∀ (m : Fin 8) (s : State),
    (s.takesWrites 22 → ∃ t, exec (.shortCheckWrite m) s = .next t ∧ Accepted (.shortCheck m) s t ∧ OnlyRegs landFields s t ∧
      t = { s with regs := t.regs, landing := t.landing }) ∧
    (s.takesWrites 22 →
      if s.rd (R.BC_m_STATUS_ARMED m) = 1 ∧ s.rd (R.BC_m_STATUS_HEAD_ALARM m) ≠ 1 ∧ s.rd (R.BC_m_STATUS_HEAD_LOST m) ≠ 1 then
        ∃ t, exec (.beaconResumeWrite m) s = .next t ∧ Accepted (.portResume m) s t ∧ OnlyRegs landFields s t ∧
          t = { s with regs := t.regs, landing := t.landing }
      else exec (.beaconResumeWrite m) s = .next s) ∧
    (∀ pairs : List (Nat × Nat), s.runs → s.rd (R.BC_m_STATUS_CHECKING m) = 1 → ∃ t, exec (.shortCheckDone m pairs) s = .next t ∧
      t.rd (R.BC_m_STATUS_CHECKING m) = 0 ∧ t.rd (R.BC_m_STATUS_SHORT m) = flag (!pairs.isEmpty) ∧
      t.rd (R.BC_m_SHORT_NUM_NUM m) = min pairs.length 8 ∧ t.rd (R.BC_m_SHORT_NUM_OVF m) = flag (decide (8 < pairs.length)) ∧
      (pairs ≠ [] → t.rd (R.BC_m_STATUS_ARMED m) = 0 ∧ (s.rd (R.BC_m_STATUS_RUNNING m) = 1 → t.rd (R.BC_m_STATUS_STOPPED m) = 1)) ∧
      (pairs = [] → t.rd (R.BC_m_STATUS_ARMED m) = flag (s.rd R.RS_SAFE_STATUS_RELEASED == 1)) ∧ (t.port m).checkStop = false ∧
      (∀ k, k ≠ m.val → t.port k = s.port k) ∧
      OnlyRegs ([R.BC_m_STATUS_CHECKING m, R.BC_m_STATUS_SHORT m, R.BC_m_STATUS_ARMED m, R.BC_m_STATUS_STOPPED m, R.BC_m_SHORT_NUM_NUM m,
        R.BC_m_SHORT_NUM_OVF m] ++ (List.range 8).flatMap (fun i => [R.BC_m_SHORT_p_LINE_A m i, R.BC_m_SHORT_p_LINE_B m i])) s t ∧
      t = { s with regs := t.regs, ports := t.ports }) ∧
    (∀ (berth : Nat) (p : RangeParams) (i : ScanInfo) (rest : List ScanInfo), s.runs → (s.berth berth).isOpen = true → (s.berth berth).kind = 4 →
      p = rangeParams (s.berth berth).params → (s.port p.port).ended = i :: rest → (s.port p.port).berth = berth →
      (∀ l ∈ (s.portPlan p.port).stepLanes i.rows, ∃ f ∈ (Tab.get {} s.ranging berth).frames, f.lane = l ∧ f.num = i.num) →
      ∃ t, exec (.rangingRecord berth) s = .next t ∧ (t.port p.port).ended = rest ∧
        (∀ f ∈ (Tab.get {} t.ranging berth).frames, i.num < f.num) ∧
        (s.rd R.WH_STATUS_READY ≠ 1 → t.wh = s.wh) ∧
        (∀ k, k ≠ berth → Tab.get {} t.ranging k = Tab.get {} s.ranging k) ∧ (∀ k, k ≠ p.port → t.port k = s.port k) ∧
        t = { s with regs := t.regs, ports := t.ports, ranging := t.ranging, wh := t.wh, free := t.free, work := t.work, late := t.late, cutWork := t.cutWork })

/-- R262, R263, R265, R266, R268: a frame that is due goes out with one share per head and END, and a frame still out breaks the ring; a returned status share with
a good CRC makes its position valid, one with a bad CRC is counted and taken for nothing; a command share or a
seventeenth share sets EXCESS and calls for a discovery frame; END completes the frame and gives HEADS; three misses make a
position lost; a command write replaces a waiting one and sets PENDING, and a discovery waits to land. -/
def Obligations.ByboviRing : Prop :=
  ∀ s : State,
    (s.runs → s.byb.run = true → s.byb.next ≤ s.now → ∃ t body, exec .byboviFrameStart s = .next t ∧
      t.sent = s.sent ++ [{ kind := .bybovi, port := 0, body := body }] ∧ body.length = 5 * (if s.byb.discover then 1 else s.rd R.BC_BYB_STATUS_HEADS + 1) ∧
      t.byb.flying = true ∧ t.byb.got = 0 ∧ t.byb.discover = false ∧ t.byb.next = s.byb.next + 131072 * s.rd R.BC_BYB_CTL_PER ∧
      (s.byb.flying = true → t.rd R.BC_BYB_STATUS_RING_BREAK = 1) ∧ (s.byb.flying = false → t.regs = s.regs ∧ t.ports = s.ports) ∧
      t = { s with regs := t.regs, ports := t.ports, byb := t.byb, sent := t.sent }) ∧
    (∀ (share : Nat) (err : Bool), s.runs → s.byb.flying = true → 16 ≤ s.byb.got ∨ (err = false ∧ shareCrc share = bits share 0 8 ∧ bits share 38 2 = 0) →
      ∃ t, exec (.byboviStatusShare share err) s = .next t ∧ t.rd R.BC_BYB_STATUS_EXCESS = 1 ∧ t.byb = { s.byb with discover := true } ∧
        OnlyRegs [R.BC_BYB_STATUS_EXCESS] s t ∧ t = { s with regs := t.regs, byb := t.byb }) ∧
    (∀ (share : Nat) (err : Bool), s.runs → s.byb.flying = true → s.byb.got < 16 →
      bits share 38 2 ≠ 0 ∨ err = true ∨ shareCrc share ≠ bits share 0 8 → ∃ t, exec (.byboviStatusShare share err) s = .next t ∧
        (err = true ∨ shareCrc share ≠ bits share 0 8 → t.rd R.BC_BYB_STATUS_CRC_ERR = 1 ∧ t.byb.got = s.byb.got + 1 ∧
          t.byb.valid = s.byb.valid ∧ t.rd R.BC_BYB_CRC_CNT_COUNT = satAdd R.BC_BYB_CRC_CNT_COUNT.width (s.rd R.BC_BYB_CRC_CNT_COUNT) 1 ∧
          OnlyRegs [R.BC_BYB_STATUS_CRC_ERR, R.BC_BYB_CRC_CNT_COUNT] s t ∧ t.ports = s.ports) ∧
        (err = false → shareCrc share = bits share 0 8 → bits share 38 2 = 1 → t.byb.got = s.byb.got + 1 ∧
          t.byb.valid = s.byb.valid ++ [s.byb.got] ∧ Tab.get 0 t.byb.misses s.byb.got = 0 ∧ t.rd (R.BC_BYB_k_INFO_VALID s.byb.got) = 1 ∧
          t.rd (R.BC_BYB_k_INFO_LOST s.byb.got) = 0 ∧ t.rd (R.BC_BYB_k_DATA_DATA s.byb.got) = bits share 8 16) ∧
        t = { s with regs := t.regs, ports := t.ports, byb := t.byb }) ∧
    (s.runs → s.byb.flying = true → ∃ t, exec .byboviEnd s = .next t ∧ t.byb.flying = false ∧
      t.rd R.BC_BYB_STATUS_HEADS = low R.BC_BYB_STATUS_HEADS.width (min s.byb.got 16) ∧ t.rd R.BC_BYB_STATUS_FRAME_DONE = 1 ∧
      (∀ k, k ∈ s.byb.valid → Tab.get 0 t.byb.misses k = Tab.get 0 s.byb.misses k) ∧
      (∀ k, k < 16 → k < s.byb.got → k ∉ s.byb.valid → Tab.get 0 t.byb.misses k = Tab.get 0 s.byb.misses k + 1 ∧
        t.rd (R.BC_BYB_k_INFO_VALID k) = 0) ∧ t = { s with regs := t.regs, byb := t.byb }) ∧
    (∀ k : Fin 16, s.runs → (Tab.get 0 s.byb.misses k < 3 → exec (.headLost k) s = .next s) ∧
      (3 ≤ Tab.get 0 s.byb.misses k → ∃ t, exec (.headLost k) s = .next t ∧ t.rd (R.BC_BYB_k_INFO_LOST k) = 1 ∧
        t.rd (R.BC_BYB_k_INFO_VALID k) = 0 ∧ t = { s with regs := t.regs, ports := t.ports })) ∧
    (∀ (k : Fin 16) (v : Word), s.takesWrites 22 → ∃ t, exec (.byboviCmdWrite k v) s = .next t ∧ t.rd (R.BC_BYB_k_CMD_PENDING k) = 1 ∧
      t.rd (R.BC_BYB_k_CMD_REG k) = bits v.toNat 16 8 ∧ t.rd (R.BC_BYB_k_CMD_DATA k) = bits v.toNat 0 16 ∧
      t.rd (R.BC_BYB_k_CMD_OP k) = (if bits v.toNat 24 2 = 3 then s.rd (R.BC_BYB_k_CMD_OP k) else bits v.toNat 24 2) ∧
      Tab.get 0 t.byb.cmdAt k = s.now ∧
      OnlyRegs [R.BC_BYB_k_CMD_PENDING k, R.BC_BYB_k_CMD_REG k, R.BC_BYB_k_CMD_DATA k, R.BC_BYB_k_CMD_OP k] s t ∧
      t = { s with regs := t.regs, byb := t.byb }) ∧
    (s.takesWrites 22 → ∃ t, exec .byboviDiscover s = .next t ∧ Accepted .bybDiscover s t ∧ OnlyRegs landFields s t ∧
      t = { s with regs := t.regs, landing := t.landing })

/-- R272, R274, R280, R283: an enabled, idle channel that is due starts its conversion, not before the end of its last one, once the trims are valid; the end of a main conversion makes a sample: SEQ
advances, CODE is the code clamped to ±8,388,607, the stamp is its end and the channel is idle; the end of a lead conversion is counted, makes the lead
value valid and makes no sample. -/
def Obligations.ConversionsMakeSamples : Prop :=
  ∀ (c : Fin 16) (t0 : Nat) (s : State), s.runs → s.powered 21 = true →
    (s.rd R.SN_STATUS_CAL_VALID = 1 → s.rd (R.SN_CH_c_CFG_EN c) = 1 → (s.chan c).active = false →
      (∀ e, (s.chan c).ended = some e → e ≤ t0) → ((s.rd R.SN_CTL_MODE = 1 ∧ s.snd.going = true) ∨ (s.chan c).single = true) →
      ∃ t, exec (.conversionStart c t0) s = .next t ∧ (t.chan c).active = true ∧ (t.chan c).started = (s.follows (s.chan c)).getD t0 ∧ (t.chan c).single = false ∧
        t.rd (R.SN_CH_c_STATUS_ACTIVE c) = 1 ∧ t.rd R.SN_STATUS_RUNNING = 1 ∧ (∀ k, k ≠ c.val → t.chan k = s.chan k) ∧
        t = { s with regs := t.regs, snd := t.snd }) ∧
    (s.rd R.SN_STATUS_CAL_VALID ≠ 1 ∨ s.rd (R.SN_CH_c_CFG_EN c) ≠ 1 → exec (.conversionStart c t0) s = .next s) ∧
    (∀ (code : Int) (overload : Bool) (exc : Nat) (ended : List (Fin 16)), (s.chan c).active = true → (s.chan c).started < t0 →
      s.snd.restart = none →
      ((s.chan c).lead = false → ∃ t, exec (.conversionEnd c t0 code overload exc ended) s = .next t ∧ (t.chan c).active = false ∧
        t.rd (R.SN_CH_c_SEQ_SEQ c) = low 32 (s.rd (R.SN_CH_c_SEQ_SEQ c) + 1) ∧
        t.rd (R.SN_CH_c_CODE_CODE c) = ofSigned 32 (max (-8388607) (min code 8388607)) ∧
        t.rd (R.SN_CH_c_STAMP_LO_TIME_LO c) = low 32 t0 ∧ t.rd (R.SN_CH_c_STATUS_ACTIVE c) = 0 ∧
        (overload = true ∨ 8388607 < code ∨ code < -8388607 → t.rd (R.SN_CH_c_STATUS_OVR c) = 1 ∧ t.rd R.SN_STATUS_OVR = 1) ∧
        t.rd R.SN_CONV_CNT_COUNT = satAdd 32 (s.rd R.SN_CONV_CNT_COUNT) 1 ∧
        (∀ k, k / 4 ≠ c.val / 4 → t.chan k = s.chan k) ∧
        t = { s with
              regs := t.regs, snd := t.snd, watches := t.watches, wh := t.wh, free := t.free, sounding := t.sounding,
              samples := t.samples, work := t.work, late := t.late, cutWork := t.cutWork }) ∧
      ((s.chan c).lead = true → ∃ t, exec (.leadConversionEnd c t0 code overload exc ended) s = .next t ∧ (t.chan c).active = false ∧
        (t.chan c).lead = false ∧ (t.chan c).rl.isSome = true ∧ t.rd (R.SN_CH_c_STATUS_LEAD_VALID c) = 1 ∧
        t.rd (R.SN_CH_c_SEQ_SEQ c) = s.rd (R.SN_CH_c_SEQ_SEQ c) ∧ t.rd R.SN_CONV_CNT_COUNT = satAdd 32 (s.rd R.SN_CONV_CNT_COUNT) 1 ∧
        (∀ k, k / 4 ≠ c.val / 4 → t.chan k = s.chan k) ∧ t = { s with regs := t.regs, snd := t.snd }))

/-- R279, R280, R281, R297, R424: START makes conversions go on in CONT and marks every enabled channel in SINGLE; RESTART notes its instant; STOP lets none
follow; a new MSRC acts as a restart and ends a hold-over; loss of the mains enters hold-over and relock leaves it; a write to an owned channel is
discarded with WR_OWNED; the rotation goes through six steps and its end sets ROT_DONE. -/
def Obligations.SoundingControlAndRotation : Prop :=
  ∀ s : State,
    (s.takesWrites 21 →
      (s.rd R.SN_CTL_MODE = 1 → exec .soundingStart s = .next { s with snd := { s.snd with going := true } }) ∧
      (s.rd R.SN_CTL_MODE = 2 → ∃ t, exec .soundingStart s = .next t ∧ (∀ c, c < 16 → s.rd (R.SN_CH_c_CFG_EN c) = 1 → (t.chan c).single = true) ∧
        (∀ c, c < 16 → s.rd (R.SN_CH_c_CFG_EN c) ≠ 1 → t.chan c = s.chan c) ∧ t = { s with snd := t.snd }) ∧
      (s.rd R.SN_CTL_MODE ≠ 1 → s.rd R.SN_CTL_MODE ≠ 2 → exec .soundingStart s = .next s) ∧
      (∃ t, exec .soundingRestart s = .next t ∧ t.snd.restart = some s.now ∧ (s.rd R.SN_CTL_MODE = 1 → t.snd.going = true) ∧
        t = { s with snd := t.snd }) ∧
      (∃ t, exec .soundingStop s = .next t ∧ t.rd R.SN_CTL_MODE = 0 ∧ t.snd.going = false ∧ (∀ c, (t.chan c).single = false) ∧
        (∀ c, (t.chan c).active = (s.chan c).active) ∧ OnlyRegs [R.SN_CTL_MODE] s t ∧ t = { s with regs := t.regs, snd := t.snd }) ∧
      (∀ m : Fin 4, (s.rd R.SN_CTL_MSRC = m → exec (.msrcWrite m) s = .next s) ∧
        (s.rd R.SN_CTL_MSRC ≠ m → ∃ t, exec (.msrcWrite m) s = .next t ∧ t.rd R.SN_CTL_MSRC = m ∧ t.rd R.SN_STATUS_HOLDOVER = 0 ∧
          t.rd R.SN_STATUS_MAINS_LOCK = flag (decide (2 ≤ m.val)) ∧ t.snd.restart = some s.now ∧ t = { s with regs := t.regs, snd := t.snd })) ∧
      (∀ (c : Fin 16) (reg : Fin 10) (v : Word),
        (s.rd (R.SN_CH_c_CFG_OWNER c) ≠ 0 → ∃ t, exec (.soundingCfgWrite c reg v) s = .next t ∧ t.rd (R.SN_CH_c_STATUS_WR_OWNED c) = 1 ∧
          t.rd R.SN_STATUS_WR_OWNED = 1 ∧ OnlyRegs [R.SN_CH_c_STATUS_WR_OWNED c, R.SN_STATUS_WR_OWNED] s t ∧ t = { s with regs := t.regs }) ∧
        (s.rd (R.SN_CH_c_CFG_OWNER c) = 0 → ∃ t, exec (.soundingCfgWrite c reg v) s = .next t ∧
          (4 ≤ reg.val → reg.val ≤ 8 → t.liveWord (0x801000 + c.val * 0x100 + 4 * reg.val) = v.toNat) ∧
          (reg.val = 2 → t.liveWord (0x801000 + c.val * 0x100 + 8) = low 24 v.toNat) ∧ (t.chan c).active = (s.chan c).active ∧
          (∀ k, k ≠ c.val → t.chan k = s.chan k) ∧ t = { s with regs := t.regs, snd := t.snd }))) ∧
    (∀ period, s.runs → s.powered 21 = true → s.rd R.SN_CTL_MSRC < 2 →
      (s.rd R.SN_STATUS_HOLDOVER ≠ 1 → ∃ t, exec (.mainsLost period) s = .next t ∧ t.rd R.SN_STATUS_HOLDOVER = 1 ∧ t.rd R.SN_STATUS_MAINS_LOST = 1 ∧
        t.rd R.SN_STATUS_MAINS_LOCK = 0 ∧ t.rd R.SN_MAINS_PERIOD_PERIOD = low 32 period ∧
        OnlyRegs [R.SN_STATUS_HOLDOVER, R.SN_STATUS_MAINS_LOST, R.SN_STATUS_MAINS_LOCK, R.SN_MAINS_PERIOD_PERIOD] s t ∧
        t = { s with regs := t.regs }) ∧
      (s.rd R.SN_STATUS_HOLDOVER = 1 ∨ s.rd R.SN_STATUS_MAINS_LOCK ≠ 1 → ∃ t, exec (.mainsRelock period) s = .next t ∧ t.rd R.SN_STATUS_HOLDOVER = 0 ∧
        t.rd R.SN_STATUS_MAINS_LOCK = 1 ∧ t.rd R.SN_MAINS_PERIOD_PERIOD = low 32 period ∧
        OnlyRegs [R.SN_STATUS_HOLDOVER, R.SN_STATUS_MAINS_LOCK, R.SN_MAINS_PERIOD_PERIOD] s t ∧ t = { s with regs := t.regs })) ∧
    (∀ reading, s.runs → s.powered 21 = true → ∃ t, exec (.referenceRotationStep reading) s = .next t ∧ t.snd.step = (s.snd.step + 1) % 6 ∧
      (s.snd.step = 0 → t.snd.zero = reading ∧ t.regs = s.regs) ∧
      (s.snd.step = 5 → t.rd R.CL_SN_STATUS_ROT_DONE = 1 ∧ t.rd R.CL_SN_ROT_COUNT = satAdd R.CL_SN_ROT_COUNT.width (s.rd R.CL_SN_ROT_COUNT) 1 ∧
        (s.rd R.CL_STATUS_LOADED = 1 → 21 ∈ s.power.trims → t.rd R.SN_STATUS_CAL_VALID = 1)) ∧
      t = { s with regs := t.regs, snd := t.snd, free := t.free })

/-- R302, R305, R306, R307, R308, R309, R311: the oldest sample is taken and shows in VALUE; in FILLING the slot fills until PRE samples, then the watch is READY; a
forced watch that is READY starts its capture at the sample; the header of a complete capture advances SEQ and the watch is DONE in SINGLE mode or fills
again; FORCE is taken in IDLE to READY only; REARM only in DONE, and a limit, wait to land. -/
def Obligations.WatchesFillTriggerAndCapture : Prop :=
  ∀ (w : Fin 32) (s : State), s.runs →
    (∀ p rest, (s.watch w).inbox = p :: rest → ∃ t, exec (.watchSampleTake w) s = .next t ∧ (t.watch w).inbox = rest ∧
      t.rd (R.WT_w_VALUE_VALUE w) = ofSigned 32 p.value ∧ (∀ k, k ≠ w.val → t.watch k = s.watch k) ∧
      ((s.watch w).cap = none → s.rd (R.WT_w_STATUS_STATE w) = 1 → (s.watch w).taken + 1 < (s.watch w).pre →
        (t.watch w).taken = (s.watch w).taken + 1 ∧ t.rd (R.WT_w_STATUS_STATE w) = 1) ∧
      ((s.watch w).cap = none → s.rd (R.WT_w_STATUS_STATE w) = 1 → (s.watch w).taken + 1 = (s.watch w).pre →
        t.rd (R.WT_w_STATUS_STATE w) = 2) ∧
      ((s.watch w).cap = none → s.rd (R.WT_w_STATUS_STATE w) = 2 → (s.watch w).prev = none → (s.watch w).force = true →
        t.rd (R.WT_w_STATUS_STATE w) = 3 ∧ (t.watch w).force = false ∧ t.rd (R.WT_w_TRIG_LO_TIME_LO w) = low 32 (p.at_ / 256) ∧
        ∃ c, (t.watch w).cap = some c ∧ c.at_ = p.at_ ∧ c.post = 1 ∧ bit c.flags 0 = true) ∧
      t = { s with regs := t.regs, watches := t.watches, wh := t.wh, free := t.free, work := t.work }) ∧
    (∀ c, (s.watch w).cap = some c → (s.watch w).done = true → ∃ t, exec (.captureHeaderWrite w) s = .next t ∧ (t.watch w).cap = none ∧
      t.rd (R.WT_w_SEQ_LO_SEQ_LO w) = low 32 (s.rd (R.WT_w_SEQ_LO_SEQ_LO w) + 2 ^ 32 * s.rd (R.WT_w_SEQ_HI_SEQ_HI w) + 1) ∧
      t.rd (R.WT_w_STATUS_CAPTURED w) = 1 ∧
      t.rd (R.WT_w_STATUS_STATE w) = (if (s.watch w).mode = 1 then 4 else if (s.watch w).pre = 0 then 2 else 1) ∧
      (∀ k, k ≠ w.val → t.watch k = s.watch k) ∧ t = { s with regs := t.regs, watches := t.watches, wh := t.wh, free := t.free, work := t.work }) ∧
    ((s.watch w).handle ≠ 0 → s.rd (R.WT_w_STATUS_STATE w) < 3 → ∃ t, exec (.watchForce w) s = .next t ∧
      t.watch w = { s.watch w with force := true } ∧ (∀ k, k ≠ w.val → t.watch k = s.watch k) ∧ t = { s with watches := t.watches }) ∧
    ((s.watch w).handle = 0 ∨ 3 ≤ s.rd (R.WT_w_STATUS_STATE w) → exec (.watchForce w) s = .next s) ∧
    ((s.watch w).handle ≠ 0 → s.rd (R.WT_w_STATUS_STATE w) = 4 → ∃ t, exec (.watchRearm w) s = .next t ∧ Accepted (.watchRearm w) s t ∧
      t.rd (R.WT_w_STATUS_PENDING w) = 1 ∧ OnlyRegs (R.WT_w_STATUS_PENDING w :: landFields) s t ∧
      t = { s with regs := t.regs, landing := t.landing }) ∧
    (s.rd (R.WT_w_STATUS_STATE w) ≠ 4 → exec (.watchRearm w) s = .next s) ∧
    (∀ (hyst : Bool) (v : Word), (s.watch w).handle ≠ 0 → ∃ t, exec (.watchLimitWrite w hyst v) s = .next t ∧
      Accepted (.watchLimit w hyst (if hyst then low 31 v.toNat else v.toNat)) s t ∧ t.rd (R.WT_w_STATUS_PENDING w) = 1 ∧
      t.rd (if hyst then R.WT_w_HYST_HYST w else R.WT_w_LEVEL_LEVEL w) = (if hyst then low 31 v.toNat else v.toNat) ∧ t.watches = s.watches ∧
      OnlyRegs ((if hyst then R.WT_w_HYST_HYST w else R.WT_w_LEVEL_LEVEL w) :: R.WT_w_STATUS_PENDING w :: landFields) s t ∧
      t = { s with regs := t.regs, landing := t.landing })

/-- R319, R323, R325, R330: where the core issues, MAC and MSU add the signed product of the low halves into an accumulator or subtract it, CMAC adds the
complex product into an even and odd pair, EXT reads an accumulator shifted, rounded and saturated, CLRA and MOVA write and unfreeze one, and
CMOD moves a circular pointer. Each takes one cycle and leaves every other register, accumulator and byte of memory alone. -/
def Obligations.PierArithmeticInstructions : Prop :=
  ∀ (core : Fin 16) (s : State) (x : Core), s.canIssue core → x = s.core core →
    (∀ (k : Fin 4) (ga gb : Fin 32), ∃ t y, exec (.mac core k ga gb) s = .next t ∧ y = t.core core ∧
      AccAdds k (toSigned 16 (x.reg ga) * toSigned 16 (x.reg gb)) x y ∧ FlowsOn x y ∧ LoadsNearer x y ∧
      y = { x.movedBy y with a := y.a, frz := y.frz, gov := y.gov } ∧ Issued core 1 s t ∧ SameClusters s t ∧
      t = { s with regs := t.regs, cores := t.cores, clusters := t.clusters, work := t.work }) ∧
    (∀ (k : Fin 4) (ga gb : Fin 32), ∃ t y, exec (.msu core k ga gb) s = .next t ∧ y = t.core core ∧
      AccAdds k (-(toSigned 16 (x.reg ga) * toSigned 16 (x.reg gb))) x y ∧ FlowsOn x y ∧ LoadsNearer x y ∧
      y = { x.movedBy y with a := y.a, frz := y.frz, gov := y.gov } ∧ Issued core 1 s t ∧ SameClusters s t ∧
      t = { s with regs := t.regs, cores := t.cores, clusters := t.clusters, work := t.work }) ∧
    (∀ (pair : Fin 2) (ga gb : Fin 32), ∃ t y z, exec (.cmac core pair ga gb) s = .next t ∧ y = t.core core ∧
      AccAdds (2 * pair.val) (toSigned 16 (x.reg ga) * toSigned 16 (x.reg gb) -
        toSigned 16 (x.reg ga / 2 ^ 16) * toSigned 16 (x.reg gb / 2 ^ 16)) x z ∧
      AccAdds (2 * pair.val + 1) (toSigned 16 (x.reg ga) * toSigned 16 (x.reg gb / 2 ^ 16) +
        toSigned 16 (x.reg ga / 2 ^ 16) * toSigned 16 (x.reg gb)) z y ∧ FlowsOn x y ∧ LoadsNearer x y ∧
      y = { x.movedBy y with a := y.a, frz := y.frz, gov := y.gov } ∧ Issued core 1 s t ∧ SameClusters s t ∧
      t = { s with regs := t.regs, cores := t.cores, clusters := t.clusters, work := t.work }) ∧
    (∀ (d : Fin 32) (k : Fin 4) (sh : Fin 40) (w32 : Bool), ∃ t y, exec (.ext core d k sh w32) s = .next t ∧ y = t.core core ∧
      (d.val ≠ 0 → y.reg d = ofSigned 32 (clampSigned (if w32 then 32 else 16) (roundHalf ((x.acc k : Rat) / ((2 ^ sh.val : Nat) : Rat))))) ∧
      y.reg 0 = 0 ∧ (∀ r, r ≠ d.val → y.reg r = x.reg r) ∧ FlowsOn x y ∧ LoadsNearer x y ∧ y = { x.movedBy y with g := y.g } ∧
      Issued core 1 s t ∧ SameClusters s t ∧ t = { s with regs := t.regs, cores := t.cores, clusters := t.clusters, work := t.work }) ∧
    (∀ k : Fin 4, ∃ t y, exec (.clra core k) s = .next t ∧ y = t.core core ∧ y.acc k = 0 ∧ bit y.frz k = false ∧
      (∀ i, i ≠ k.val → y.acc i = x.acc i ∧ bit y.frz i = bit x.frz i) ∧ FlowsOn x y ∧ LoadsNearer x y ∧
      y = { x.movedBy y with a := y.a, frz := y.frz } ∧ Issued core 1 s t ∧ SameClusters s t ∧
      t = { s with regs := t.regs, cores := t.cores, clusters := t.clusters, work := t.work }) ∧
    (∀ (k : Fin 4) (value : BitVec 40), ∃ t y, exec (.mova core k value) s = .next t ∧ y = t.core core ∧ y.acc k = value.toInt ∧
      bit y.frz k = false ∧ (∀ i, i ≠ k.val → y.acc i = x.acc i ∧ bit y.frz i = bit x.frz i) ∧ FlowsOn x y ∧ LoadsNearer x y ∧
      y = { x.movedBy y with a := y.a, frz := y.frz } ∧ Issued core 1 s t ∧ SameClusters s t ∧
      t = { s with regs := t.regs, cores := t.cores, clusters := t.clusters, work := t.work }) ∧
    ∀ (i : Fin 8) (step : Int), ∃ t y, exec (.cmod core i step) s = .next t ∧ y = t.core core ∧
      ((x.circ i).l = 0 → ((y.circ i).p : Int) = ((x.circ i).p + step) % 2 ^ 22) ∧
      ((x.circ i).l ≠ 0 → ((y.circ i).p : Int) = ((x.circ i).b + ((x.circ i).p - (x.circ i).b + step) % (x.circ i).l) % 2 ^ 22) ∧
      ((x.circ i).b < 2 ^ 22 → (x.circ i).l < 2 ^ 18 → (y.circ i).b = (x.circ i).b ∧ (y.circ i).l = (x.circ i).l) ∧
      (∀ m, m ≠ i.val → y.circ m = x.circ m) ∧ FlowsOn x y ∧ LoadsNearer x y ∧ y = { x.movedBy y with c := y.c } ∧
      Issued core 1 s t ∧ SameClusters s t ∧ t = { s with regs := t.regs, cores := t.cores, clusters := t.clusters, work := t.work }

/-- R316, R317, R318, R319, R323, R325, R327: a load of intact memory, its own or the cluster's, leaves its destination for two instructions, and a load in flight lands at the
end of the second; a store writes its bytes and no others; of two accesses of one instruction both read first and the second write wins;
TAPMOV reads coefficient and sample, writes the low half of g_c, adds the product and moves both pointers. -/
def Obligations.PierMemoryInstructions : Prop :=
  ∀ (core : Fin 16) (s : State) (x : Core), s.canIssue core → x = s.core core →
    (∀ (addr : PierAddr) (a n stall : Nat) (bs : List Byte), a = (x.addr addr).1 → stall ≤ 40 →
      ((pierPlace a n = .data ∨ pierPlace a n = .tap ∨ pierPlace a n = .instr) ∧ x.failing a n = none ∧ bs = Tab.getList 0 x.mem a n) ∨
        (pierPlace a n = .cluster ∧ s.shedFails (clusterOffset core a) n = false ∧ bs = s.shedBytes (clusterOffset core a) n) →
      (∀ (dst : PierDst) (signed : Bool), (n = 1 ∨ n = 2 ∨ n = 4) →
        ∃ t y, exec (.ld core dst addr n signed none stall) s = .next t ∧ y = t.core core ∧
          y.loads = x.loads.map (fun l => { l with left := l.left - 1 }) ++
            [⟨1, dst, if signed then ofSigned 40 (toSigned (8 * n) (leNat bs)) else leNat bs⟩] ∧
          FlowsOn x y ∧ y = { x.movedBy y with c := (x.addr addr).2.c } ∧
          Issued core (if pierPlace a n = .cluster then 1 + stall else 1) s t ∧ SameClusters s t ∧
          t = { s with regs := t.regs, cores := t.cores, clusters := t.clusters, work := t.work }) ∧
      ∀ k : Fin 4, 1 ≤ n → n ≤ 5 →
        ∃ t y, exec (.lda core k addr ⟨n, stall⟩) s = .next t ∧ y = t.core core ∧
          y.loads = x.loads.map (fun l => { l with left := l.left - 1 }) ++ [⟨1, .a k, ofSigned 40 (toSigned (8 * n) (leNat bs))⟩] ∧
          FlowsOn x y ∧ y = { x.movedBy y with c := (x.addr addr).2.c } ∧
          Issued core (if pierPlace a n = .cluster then 1 + stall else 1) s t ∧ SameClusters s t ∧
          t = { s with regs := t.regs, cores := t.cores, clusters := t.clusters, work := t.work }) ∧
    (∀ (src : Fin 32) (addr : PierAddr) (a n stall : Nat), a = (x.addr addr).1 → (n = 1 ∨ n = 2 ∨ n = 4) → stall ≤ 40 →
      pierPlace a n = .data ∨ pierPlace a n = .tap →
      ∃ t y, exec (.st core src addr n none stall) s = .next t ∧ y = t.core core ∧
        (∀ i, i < n → Tab.get 0 y.mem (a + i) = (leBytes n (x.reg src)).getD i 0) ∧
        (∀ m, (m < a ∨ a + n ≤ m) → Tab.get 0 y.mem m = Tab.get 0 x.mem m) ∧ FlowsOn x y ∧ LoadsNearer x y ∧
        y = { x.movedBy y with mem := y.mem, bad := y.bad, c := (x.addr addr).2.c } ∧ Issued core 1 s t ∧ SameClusters s t ∧
        t = { s with regs := t.regs, cores := t.cores, clusters := t.clusters, work := t.work }) ∧
    (∀ (src : Fin 32) (addr : PierAddr) (a stall : Nat), a = (x.addr addr).1 → stall ≤ 40 → pierPlace a 4 = .cluster → a % 4 = 0 →
      ∃ t y, exec (.st core src addr 4 none stall) s = .next t ∧ y = t.core core ∧
        (∀ i, i < 4 → t.shedByte (clusterOffset core a + i) = (leBytes 4 (x.reg src)).getD i 0) ∧
        (∀ m, (m < clusterOffset core a ∨ clusterOffset core a + 4 ≤ m) → t.shedByte m = s.shedByte m) ∧
        FlowsOn x y ∧ LoadsNearer x y ∧ y = { x.movedBy y with c := (x.addr addr).2.c } ∧ Issued core (1 + stall) s t ∧ SameClusters s t ∧
        t = { s with regs := t.regs, cores := t.cores, clusters := t.clusters, shed := t.shed, shedBad := t.shedBad, work := t.work }) ∧
    (∀ (src : Fin 32) (dst : PierDst) (a : Nat), pierPlace a 4 = .data → x.failing a 4 = none →
      ∃ t y, exec (.ld core dst (.at_ a) 4 false (some (.store src (.at_ a) 4)) 0) s = .next t ∧ y = t.core core ∧
        y.loads = x.loads.map (fun l => { l with left := l.left - 1 }) ++ [⟨1, dst, leNat (Tab.getList 0 x.mem a 4)⟩] ∧
        ∀ i, i < 4 → Tab.get 0 y.mem (a + i) = (leBytes 4 (x.reg src)).getD i 0) ∧
    (∀ (p q : Fin 32) (a : Nat), pierPlace a 4 = .data →
      ∃ t y, exec (.st core p (.at_ a) 4 (some (.store q (.at_ a) 4)) 0) s = .next t ∧ y = t.core core ∧
        ∀ i, i < 4 → Tab.get 0 y.mem (a + i) = (leBytes 4 (x.reg q)).getD i 0) ∧
    ∀ (k : Fin 4) (h z : Fin 8) (c : Fin 32) (step : Int) (ch cx : Nat), h ≠ z →
      pierPlace (x.circ h).p 2 = .tap → pierPlace (x.circ z).p 2 = .data → x.failing (x.circ h).p 2 = none → x.failing (x.circ z).p 2 = none →
      ch = leNat (Tab.getList 0 x.mem (x.circ h).p 2) → cx = leNat (Tab.getList 0 x.mem (x.circ z).p 2) →
      ∃ t y, exec (.tapmov core k h z c step) s = .next t ∧ y = t.core core ∧
        AccAdds k (toSigned 16 ch * toSigned 16 cx) x y ∧
        (∀ i, i < 2 → Tab.get 0 y.mem ((x.circ z).p + i) = (leBytes 2 (x.reg c)).getD i 0) ∧
        (∀ m, (m < (x.circ z).p ∨ (x.circ z).p + 2 ≤ m) → Tab.get 0 y.mem m = Tab.get 0 x.mem m) ∧
        (c.val ≠ 0 → y.reg c = low 32 (x.reg c / 65536 * 65536 + cx)) ∧ (∀ r, r ≠ c.val → y.reg r = x.reg r) ∧
        (y.circ z).p = ((x.circ z).step step).p ∧ (y.circ h).p = ((x.circ h).step 2).p ∧
        (∀ m, m ≠ h.val → m ≠ z.val → y.circ m = x.circ m) ∧ FlowsOn x y ∧ LoadsNearer x y ∧
        y = { x.movedBy y with a := y.a, frz := y.frz, gov := y.gov, g := y.g, c := y.c, mem := y.mem, bad := y.bad } ∧
        Issued core 1 s t ∧ SameClusters s t ∧ t = { s with regs := t.regs, cores := t.cores, clusters := t.clusters, work := t.work }

/-- R317, R319, R320, R322, R328, R329, R332: a branch leaves three delay slots and then goes to its target; REPEAT runs a body, or skips it for a count of 0; POST
queues the job that its registers name, or is refused; END completes the job; the return from a handler restores the index and the loops.
A load that is due lands after the instruction. A branch in a delay slot, a count above 1,024, a third level and an access outside the map end the
job with their fault and have no effect. The layout of the job word of POST is the model's (DEDUCED in the log). -/
def Obligations.PierControlInstructions : Prop :=
  ∀ (core : Fin 16) (s : State) (x : Core), x = s.core core →
    (∀ (taken : Bool) (target : Fin 16384), s.canIssue core → x.branch = none → (∀ l ∈ x.loops, l.stop ≠ x.pc) →
      ∃ t y, exec (.branch core taken target) s = .next t ∧ y = t.core core ∧ y.pc = low 14 (x.pc + 1) ∧ y.loops = x.loops ∧
        y.branch = some (3, if taken then some target.val else none) ∧ LoadsNearer x y ∧ y = x.movedBy y ∧ Issued core 1 s t ∧
        SameClusters s t ∧ t = { s with regs := t.regs, cores := t.cores, clusters := t.clusters, work := t.work }) ∧
    (∀ (n len : Nat), s.canIssue core → n ≤ 1024 → 1 ≤ len → len ≤ 256 → x.loops.length < 2 → x.branch = none → (∀ l ∈ x.loops, l.stop ≠ x.pc) →
      x.pc + len < 8192 →
      ∃ t y, exec (.repeatBody core (.imm n) len) s = .next t ∧ y = t.core core ∧
        (n ≠ 0 → y.pc = x.pc + 1 ∧ y.loops = ⟨n, x.pc + 1, x.pc + len⟩ :: x.loops) ∧
        (n = 0 → (∀ l ∈ x.loops, l.stop ≠ x.pc + len) → y.pc = x.pc + len + 1 ∧ y.loops = x.loops) ∧
        y.branch = none ∧ LoadsNearer x y ∧ y = x.movedBy y ∧ Issued core 1 s t ∧ SameClusters s t ∧
        t = { s with regs := t.regs, cores := t.cores, clusters := t.clusters, work := t.work }) ∧
    (∀ (e a : Fin 32) (b : Nat) (j : PierJob), s.canIssue core → b = bits (x.reg e) 0 12 →
      j = { entry := bits (x.reg e) 16 5, bank := s.coreBank core, berth := some b, arg := x.reg a, posted := tideOf s.now } →
      ∃ t, exec (.post core e a) s = .next t ∧
        ((s.cluster (core / 4)).queue.length < 256 → (s.berth b).isOpen = true → vecAt (s.berth b).cost (1 + core / 4) ≠ 0 →
          (t.cluster (core / 4)).queue = (s.cluster (core / 4)).queue ++ [j] ∧
          t.rd (R.PI_CL_QUEUE_LEVEL (core / 4)) = (s.cluster (core / 4)).queue.length + 1) ∧
        (256 ≤ (s.cluster (core / 4)).queue.length ∨ (s.berth b).isOpen = false ∨ vecAt (s.berth b).cost (1 + core / 4) = 0 →
          (t.cluster (core / 4)).queue = (s.cluster (core / 4)).queue ∧ t.rd (R.PI_CL_STATUS_REFUSED (core / 4)) = 1 ∧
          (t.cluster (core / 4)).done = (s.cluster (core / 4)).done ++ [{ job := j, refused := true }]) ∧
        FlowsOn x (t.core core) ∧ t.core core = x.movedBy (t.core core) ∧ (∀ i, i ≠ core.val → t.core i = s.core i) ∧
        t = { s with regs := t.regs, cores := t.cores, clusters := t.clusters, work := t.work }) ∧
    (∀ (j : PierJob) (b : Nat), s.canIssue core → x.job = some j → j.berth = some b → x.abandoned = false →
      ∃ t, exec (.endJob core) s = .next t ∧ (t.core core).job = none ∧ (t.core core).mem = x.mem ∧ (t.core core).g = x.g ∧
        (t.cluster (core / 4)).done = (s.cluster (core / 4)).done ++ [{ job := j, tide := decide (j.posted < tideOf s.now) }] ∧
        t.rd (R.PI_CL_JOB_CNT_COUNT (core / 4)) = satAdd 32 (s.rd (R.PI_CL_JOB_CNT_COUNT (core / 4))) 1 ∧
        t.rd (R.PI_CORE_k_STATUS_BUSY (core / 4) (core % 4)) = 0 ∧ (∀ i, i ≠ core.val → t.core i = s.core i) ∧
        t = { s with regs := t.regs, cores := t.cores, clusters := t.clusters, work := t.work }) ∧
    (∀ (pc : Nat) (loops : List LoopLevel), s.canIssue core → x.saved = some (pc, loops) →
      ∃ t y, exec (.rti core) s = .next t ∧ y = t.core core ∧ y.pc = pc ∧ y.loops = loops ∧ y.saved = none ∧
        y = { x.movedBy y with saved := none } ∧ SameClusters s t ∧ t = { s with regs := t.regs, cores := t.cores, clusters := t.clusters, work := t.work }) ∧
    (∀ (v : Nat) (r : Fin 32) (k : Fin 4), s.runs → (x.job ≠ none ∨ x.saved ≠ none) → Tab.get false x.bad (0x20000 + x.pc) = false → x.run < 32 →
      x.branch = none → x.loads = [⟨0, .g r, v⟩] → r.val ≠ 0 →
      ∃ t, exec (.clra core k) s = .next t ∧ (t.core core).reg r = low 32 v ∧ (t.core core).loads = []) ∧
    (∀ (taken : Bool) (target : Fin 16384), s.canIssue core → x.branch ≠ none →
      ∃ t, exec (.branch core taken target) s = .next t ∧ FaultEnds core 1 x.pc s t) ∧
    (∀ (n : RepeatCount) (len : Nat), s.canIssue core → 1 ≤ len → len ≤ 256 →
      ((∃ r, n = .reg r ∧ 1024 < x.reg r) ∨ (∃ v, n = .imm v ∧ v ≤ 1024 ∧ 2 ≤ x.loops.length)) →
      ∃ t, exec (.repeatBody core n len) s = .next t ∧ FaultEnds core 1 x.pc s t) ∧
    ∀ (dst : PierDst) (src : Fin 32) (a : Nat) (signed : Bool), s.canIssue core →
      (pierPlace a 4 = .none_ → ∃ t, exec (.ld core dst (.at_ a) 4 signed none 0) s = .next t ∧ FaultEnds core 2 a s t) ∧
      (pierPlace a 4 = .none_ ∨ pierPlace a 4 = .instr →
        ∃ t, exec (.st core src (.at_ a) 4 none 0) s = .next t ∧ FaultEnds core 2 a s t)

/-- R321, R322, R324, R328, R329, R334: a write of PI_CL_POST_1 posts the named job or is refused; a free core first runs an INIT that is due and then takes the next
job of a ready cluster, which starts with zero accumulators and flags and eight cycles charged; an interrupt is taken outside every loop, and inside one
only when held for LAT cycles, which is counted as a break. -/
def Obligations.PierJobsAndInterrupts : Prop :=
  (∀ (n : Fin 4) (arg : Word) (b : Nat) (j : PierJob) (s : State), s.runs → s.powered (17 + n) = true → b = s.rd (R.PI_CL_POST_0_BERTH n) →
    j = { entry := s.rd (R.PI_CL_POST_0_ENTRY n), bank := s.rd (R.PI_CL_POST_0_BANK n), berth := some b, arg := arg.toNat, posted := tideOf s.now } →
    ∃ t, exec (.jobPostWrite n arg) s = .next t ∧
      ((s.cluster n).queue.length < 256 → (s.berth b).isOpen = true → vecAt (s.berth b).cost (1 + n) ≠ 0 →
        (t.cluster n).queue = (s.cluster n).queue ++ [j] ∧ t.rd (R.PI_CL_QUEUE_LEVEL n) = (s.cluster n).queue.length + 1 ∧
        OnlyRegs [R.PI_CL_QUEUE_LEVEL n, R.PI_CL_QUEUE_PEAK n] s t) ∧
      (256 ≤ (s.cluster n).queue.length ∨ (s.berth b).isOpen = false ∨ vecAt (s.berth b).cost (1 + n) = 0 →
        (t.cluster n).queue = (s.cluster n).queue ∧ (t.cluster n).done = (s.cluster n).done ++ [{ job := j, refused := true }] ∧
        t.rd (R.PI_CL_STATUS_REFUSED n) = 1 ∧ OnlyRegs [R.PI_CL_STATUS_REFUSED n] s t) ∧
      (∀ k, k ≠ n.val → t.cluster k = s.cluster k) ∧ t = { s with regs := t.regs, clusters := t.clusters }) ∧
  (∀ (core : Fin 16) (x : Core) (s : State), s.runs → x = s.core core → s.powered (17 + core / 4) = true → x.job = none → x.saved = none →
    (∀ b arg, x.initDue = some (b, arg) → ∃ t y, exec (.jobDispatch core) s = .next t ∧ y = t.core core ∧ y.initDue = none ∧
      y.job = some { entry := 1, bank := b, berth := none, arg := arg, posted := tideOf s.now } ∧ (∀ k, y.acc k = 0) ∧ y.wrap = 0 ∧ y.frz = 0 ∧
      y.gov = 0 ∧ y.cyc = 8 ∧ y.loops = [] ∧ y.mem = x.mem ∧ y.g = x.g ∧ (∀ i, i ≠ core.val → t.core i = s.core i) ∧
      t = { s with regs := t.regs, cores := t.cores, free := t.free, work := t.work }) ∧
    (∀ (j : PierJob) (b : Nat), x.initDue = none → s.rd (R.PI_CL_STATUS_READY (core / 4)) = 1 →
      (∀ i, i < 4 → (s.core (4 * (core / 4) + i)).initDue = none) → s.nextJob (core / 4) = some j → j.berth = some b →
      j.entry < imageEntries (s.progBank (core / 4) j.bank) →
      ∃ t y, exec (.jobDispatch core) s = .next t ∧ y = t.core core ∧ y.job = some j ∧
        y.pc = low 14 (entryOffset (s.progBank (core / 4) j.bank) j.entry + 8192 * j.bank) ∧
        (t.cluster (core / 4)).queue = (s.cluster (core / 4)).queue.erase j ∧
        Tab.get 0 (t.cluster (core / 4)).used b = Tab.get 0 (s.cluster (core / 4)).used b + 8 ∧ (∀ k, y.acc k = 0) ∧ y.wrap = 0 ∧ y.frz = 0 ∧
        y.gov = 0 ∧ y.cyc = 8 ∧ y.mem = x.mem ∧ y.g = x.g ∧ t.rd (R.PI_CORE_k_STATUS_BUSY (core / 4) (core % 4)) = 1 ∧
        (∀ i, i ≠ core.val → t.core i = s.core i) ∧ t = { s with regs := t.regs, cores := t.cores, clusters := t.clusters, work := t.work })) ∧
  ∀ (core : Fin 16) (src : Fin 5) (x : Core) (held : Nat) (img : List Byte) (s : State), s.runs → x = s.core core → s.powered (17 + core / 4) = true →
    x.irqs.find? (fun i => i.1 == src.val) = some (src.val, held) → img = s.progBank (core / 4) (s.coreBank core) → img ≠ [] →
    0 < imageEntries img →
    (x.branch = none → x.loads = [] → x.loops = [] → x.saved = none → ∃ t y, exec (.pierInterrupt core src) s = .next t ∧ y = t.core core ∧
      y.saved = some (x.pc, []) ∧ y.pc = low 14 (entryOffset img 0 + 8192 * s.coreBank core) ∧
      y.irqs = x.irqs.filter (fun i => i.1 != src.val) ∧ y = { x with saved := y.saved, pc := y.pc, irqs := y.irqs } ∧
      t.rd (R.PI_CL_HOLD_CNT_COUNT (core / 4)) = s.rd (R.PI_CL_HOLD_CNT_COUNT (core / 4)) ∧
      (∀ i, i ≠ core.val → t.core i = s.core i) ∧ t = { s with regs := t.regs, cores := t.cores }) ∧
    (x.branch ≠ none ∨ x.loads ≠ [] ∨ x.loops ≠ [] ∨ x.saved ≠ none → exec (.pierInterrupt core src) s = .next s) ∧
    (x.branch = none → x.loads = [] → x.loops ≠ [] → x.saved = none → imageLat img ≤ held →
      ∃ t y, exec (.holdOffBreak core src) s = .next t ∧ y = t.core core ∧ y.saved = some (x.pc, x.loops) ∧ y.loops = [] ∧
        y.pc = low 14 (entryOffset img 0 + 8192 * s.coreBank core) ∧ t.rd (R.PI_CL_STATUS_HOLD_BREAK (core / 4)) = 1 ∧
        t.rd (R.PI_CL_HOLD_CNT_COUNT (core / 4)) = satAdd 32 (s.rd (R.PI_CL_HOLD_CNT_COUNT (core / 4))) 1 ∧
        y = { x with saved := y.saved, pc := y.pc, irqs := y.irqs, loops := [] } ∧
        (∀ i, i ≠ core.val → t.core i = s.core i) ∧ t = { s with regs := t.regs, cores := t.cores }) ∧
    (x.branch = none → x.loads = [] → x.loops ≠ [] → x.saved = none → held < imageLat img → exec (.holdOffBreak core src) s = .next s)

/-- R342 to R351: INIT starts training and READY ends it with 31/32 of the fitted bytes usable; before READY and beyond that range a
request completes with RANGE and has no effect; an intact block reads as written; one whose check fails reads with CHECK, or normally when a
re-read with RETRY passes; a whole block is written afresh with its check word, charged to its owner and class, and leaves its row open unless PAGE
closes it (R349, R350); a part is merged, and a part of a failing block is discarded with RMW_ERR. -/
def Obligations.WarehouseRequests : Prop :=
  ∀ (s : State) (req : WhReq), s.runs →
    (s.takesWrites 24 → s.rd R.WH_STATUS_TRAINING ≠ 1 → s.rd R.WH_STATUS_READY ≠ 1 → ∃ t, exec .warehouseInit s = .next t ∧
      t.rd R.WH_STATUS_TRAINING = 1 ∧ OnlyRegs [R.WH_STATUS_TRAINING] s t ∧ t = { s with regs := t.regs }) ∧
    (s.takesWrites 24 → s.rd R.WH_STATUS_TRAINING = 1 ∨ s.rd R.WH_STATUS_READY = 1 → exec .warehouseInit s = .next s) ∧
    (s.rd R.WH_STATUS_TRAINING = 1 → ∃ t, exec .warehouseReady s = .next t ∧ t.rd R.WH_STATUS_READY = 1 ∧ t.rd R.WH_STATUS_TRAINING = 0 ∧
      t.rd R.WH_USABLE_LO_BYTES_LO = low 32 (31 * 2 ^ (30 + s.rd R.WH_CFG_SIZE) / 32) ∧
      t.rd R.WH_USABLE_HI_BYTES_HI = low 3 (31 * 2 ^ (30 + s.rd R.WH_CFG_SIZE) / 32 / 2 ^ 32) ∧
      (∀ a, a < 4 → t.rd (R.WH_AREA_a_BASE a) = low 16 (s.areaSizes.take a).sum ∧ t.rd (R.WH_AREA_a_SIZE a) = low 16 (s.areaSizes.getD a 0)) ∧
      OnlyRegs ([R.WH_STATUS_READY, R.WH_STATUS_TRAINING, R.WH_USABLE_LO_BYTES_LO, R.WH_USABLE_HI_BYTES_HI] ++
        (List.range 4).map R.WH_AREA_a_BASE ++ (List.range 4).map R.WH_AREA_a_SIZE) s t ∧ t = { s with regs := t.regs }) ∧
    (∀ (addr len : Nat) (retry : Bool) (luck : WhLuck) (bytes : List Byte), s.rd R.WH_STATUS_READY ≠ 1 →
      exec (.warehouseRead { req with retry := retry } addr len luck) s = .next { s with whDone := (.range, []) } ∧
      exec (.warehouseWrite req addr { bytes := bytes }) s = .next { s with whDone := (.range, []) }) ∧
    (s.rd R.WH_STATUS_READY = 1 →
      (∀ (addr len : Nat) (retry : Bool), s.whUsable < addr + len → ∃ t, exec (.warehouseRead { req with retry := retry } addr len {}) s = .next t ∧
        t.whDone = (.range, []) ∧ t.rd R.WH_STATUS_RANGE_ERR = 1 ∧ OnlyRegs [R.WH_STATUS_RANGE_ERR] s t ∧
        t = { s with regs := t.regs, whDone := t.whDone }) ∧
      (∀ (addr : Nat) (bytes : List Byte), s.whUsable < addr + bytes.length → ∃ t, exec (.warehouseWrite req addr { bytes := bytes }) s = .next t ∧
        t.whDone = (.range, []) ∧ t.rd R.WH_STATUS_RANGE_ERR = 1 ∧ OnlyRegs [R.WH_STATUS_RANGE_ERR] s t ∧
        t = { s with regs := t.regs, whDone := t.whDone }) ∧
      (∀ (addr len : Nat) (retry : Bool), addr + len ≤ s.whUsable →
        (∀ b, addr < 64 * b + 64 → 64 * b < addr + len → Tab.get false s.wh.written b = true ∧ s.whPasses b = true) →
        ∃ t bs, exec (.warehouseRead { req with retry := retry } addr len {}) s = .next t ∧ t.whDone = (.ok, bs) ∧ bs.length = len ∧
          (∀ i, i < len → bs.getD i 0 = Tab.get 0 s.wh.bytes (addr + i)) ∧ t.wh = { s.wh with rows := t.wh.rows } ∧
          t = { s with wh := t.wh, work := t.work, whDone := t.whDone }) ∧
      (∀ (b : Nat) (retry : Bool), 64 * b + 64 ≤ s.whUsable → Tab.get false s.wh.written b = true → s.whPasses b = false →
        ∃ t, exec (.warehouseRead { req with retry := retry } (64 * b) 64 {}) s = .next t ∧ t.whDone = (.check, Tab.getList 0 s.wh.bytes (64 * b) 64) ∧
          t.rd R.WH_STATUS_CHK_ERR = 1 ∧ t.rd R.WH_CHK_CNT_COUNT = satAdd 32 (s.rd R.WH_CHK_CNT_COUNT) 1 ∧
          (s.rd R.WH_STATUS_CHK_ERR ≠ 1 → t.rd R.WH_CHK_ADDR_LO_ADDR_LO = low 32 (64 * b) ∧ t.rd R.WH_CHK_ADDR_HI_ADDR_HI = low 2 (64 * b / 2 ^ 32)) ∧
          OnlyRegs ([R.WH_STATUS_CHK_ERR, R.WH_CHK_CNT_COUNT] ++
            (if s.rd R.WH_STATUS_CHK_ERR = 1 then [] else [R.WH_CHK_ADDR_LO_ADDR_LO, R.WH_CHK_ADDR_HI_ADDR_HI])) s t ∧ t.wh = { s.wh with rows := t.wh.rows } ∧
          t = { s with regs := t.regs, wh := t.wh, work := t.work, whDone := t.whDone }) ∧
      (∀ b : Nat, 64 * b + 64 ≤ s.whUsable → Tab.get false s.wh.written b = true → s.whPasses b = true →
        (∃ t, exec (.warehouseRead { req with retry := true } (64 * b) 64 { once := [b] }) s = .next t ∧ t.whDone = (.ok, Tab.getList 0 s.wh.bytes (64 * b) 64) ∧
          t.rd R.WH_STATUS_REREAD = 1 ∧ t.rd R.WH_REREAD_CNT_COUNT = satAdd 32 (s.rd R.WH_REREAD_CNT_COUNT) 1 ∧
          OnlyRegs [R.WH_STATUS_REREAD, R.WH_REREAD_CNT_COUNT] s t ∧
          t.wh = { s.wh with rows := t.wh.rows } ∧ t = { s with regs := t.regs, wh := t.wh, work := t.work, whDone := t.whDone }) ∧
        (∃ t, exec (.warehouseRead { req with retry := false } (64 * b) 64 { once := [b] }) s = .next t ∧ t.whDone.1 = .check ∧ t.rd R.WH_STATUS_CHK_ERR = 1)) ∧
      (∀ b : Nat, 64 * b + 64 ≤ s.whUsable → Tab.get false s.wh.written b = true → b ∈ Tab.get [] s.wh.queue (b / 4 % 2) →
        ∃ t, exec (.warehouseRead { req with retry := false } (64 * b) 64 { queued := [b] }) s = .next t ∧ t.whDone = (.ok, Tab.getList 0 s.wh.bytes (64 * b) 64) ∧
          t.rd R.WH_FWD_CNT_COUNT = satAdd 32 (s.rd R.WH_FWD_CNT_COUNT) 1 ∧ OnlyRegs [R.WH_FWD_CNT_COUNT] s t ∧
          t = { s with regs := t.regs, work := t.work, whDone := t.whDone }) ∧
      (∀ (b : Nat) (bytes : List Byte), bytes.length = 64 → 64 * b + 64 ≤ s.whUsable →
        ∃ t, exec (.warehouseWrite req (64 * b) { bytes := bytes }) s = .next t ∧ t.whDone = (.ok, []) ∧ Tab.get false t.wh.written b = true ∧
          Tab.get false t.wh.bad b = false ∧ t.whPasses b = true ∧ (∀ i, i < 64 → Tab.get 0 t.wh.bytes (64 * b + i) = bytes.getD i 0) ∧
          (∀ a, (a < 64 * b ∨ 64 * b + 64 ≤ a) → Tab.get 0 t.wh.bytes a = Tab.get 0 s.wh.bytes a) ∧
          b ∈ Tab.get [] t.wh.queue (b / 4 % 2) ∧
          Tab.get none t.wh.rows (b / 4 % 2 + 2 * Config.dramBank b) = (if req.page then none else some (Config.dramRow b)) ∧
          Tab.get [] t.work (13 + req.cls) = Tab.get [] s.work (13 + req.cls) ++ (match req.owner with
            | some o => [(o, 3)]
            | none => []) ++ [(4097, 1)] ∧
          t = { s with wh := t.wh, work := t.work, whDone := t.whDone }) ∧
      (∀ (b k : Nat) (bytes : List Byte), 0 < bytes.length → k + bytes.length ≤ 64 → bytes.length < 64 → 64 * b + 64 ≤ s.whUsable →
        Tab.get false s.wh.written b = true →
        (s.whPasses b = true → ∃ t, exec (.warehouseWrite req (64 * b + k) { bytes := bytes }) s = .next t ∧ t.whDone = (.ok, []) ∧
          (∀ i, i < bytes.length → Tab.get 0 t.wh.bytes (64 * b + k + i) = bytes.getD i 0) ∧
          (∀ a, (a < 64 * b + k ∨ 64 * b + k + bytes.length ≤ a) → Tab.get 0 t.wh.bytes a = Tab.get 0 s.wh.bytes a) ∧
          t = { s with wh := t.wh, work := t.work, whDone := t.whDone }) ∧
        (s.whPasses b = false → ∃ t, exec (.warehouseWrite req (64 * b + k) { bytes := bytes }) s = .next t ∧ t.whDone = (.check, []) ∧
          t.rd R.WH_STATUS_RMW_ERR = 1 ∧ OnlyRegs [R.WH_STATUS_RMW_ERR] s t ∧ t.wh = { s.wh with rows := t.wh.rows } ∧
          t = { s with regs := t.regs, wh := t.wh, work := t.work, whDone := t.whDone }))) ∧
    ∀ (cls : Fin 4) (waited : Nat),
      (cls.val ≠ 0 → s.rd R.WH_AGE_AGE ≤ waited → ∃ t, exec (.warehousePromotion cls waited) s = .next t ∧
        t.rd (R.WH_PROMO_CNT_c_COUNT cls) = satAdd 32 (s.rd (R.WH_PROMO_CNT_c_COUNT cls)) 1 ∧ OnlyRegs [R.WH_PROMO_CNT_c_COUNT cls] s t ∧
        t = { s with regs := t.regs }) ∧
      (cls.val = 0 ∨ waited < s.rd R.WH_AGE_AGE → exec (.warehousePromotion cls waited) s = .next s)

/-- R121, R352, R355, R356, R358, R359, R360, R364: a channel queues 16 chains; a free engine takes the next chain, and one of an invalid owner completes INVALID, cause
OWNER; a plain copy within the Shed moves all its bytes, writes OK and the count to STATUS, charges the owner and goes on or ends; an invalid
descriptor and the 1,025th move nothing; where no such chain runs, the device's own tile write is complete and its row buffers are free again (R121); a domain whose Lock closes is off. -/
def Obligations.TugChainsMoveBytes : Prop :=
  ∀ (e : Fin 8) (s : State) (x : Tug), s.runs → x = s.tug e →
    (∀ (c : Fin 32) (value : Word), 16 ≤ (x.queue c).length → ∃ t, exec (.tugEnqueue e c value) s = .next t ∧
      t.rd (R.TG_e_CH_c_STATUS_OVF e c) = 1 ∧ OnlyRegs [R.TG_e_CH_c_STATUS_OVF e c] s t ∧ t = { s with regs := t.regs }) ∧
    (∀ (c : Fin 32) (value : Word), (x.queue c).length < 16 → ∃ t, exec (.tugEnqueue e c value) s = .next t ∧
      (t.tug e).queue c = x.queue c ++
        [⟨32 * bits value.toNat 5 21, tideOf s.now, s.rd (R.TG_e_CH_c_CFG_EN e c) == 1 && s.tugOwned e c, x.enqueued⟩] ∧
      (∀ k, k ≠ c.val → (t.tug e).queue k = x.queue k) ∧ (t.tug e).run = x.run ∧
      t.rd (R.TG_e_CH_c_STATUS_QLVL e c) = (x.queue c).length + 1 ∧ OnlyRegs [R.TG_e_CH_c_STATUS_QLVL e c] s t ∧
      (∀ k, k ≠ e.val → t.tug k = s.tug k) ∧ t = { s with regs := t.regs, tugs := t.tugs }) ∧
    (∀ (c : Fin 32) (h : TugChain), x.run = none → s.nextChain e = some (c.val, h) →
      (h.ok = true → ∃ t, exec (.tugChainStart e) s = .next t ∧ (t.tug e).run = some ⟨c, h.tide, true, h.head, 1, s.now, false⟩ ∧
        (t.tug e).queue c = (x.queue c).tail ∧ t.rd (R.TG_e_STATUS_BUSY e) = 1 ∧ t.rd (R.TG_e_STATUS_CH e) = c.val ∧
        t.rd (R.TG_e_CH_c_STATUS_RUNNING e c) = 1 ∧ t.rd (R.TG_e_CH_c_CUR_CUR e c) = low 21 (h.head / 32) ∧
        OnlyRegs [R.TG_e_STATUS_BUSY e, R.TG_e_STATUS_CH e, R.TG_e_CH_c_STATUS_RUNNING e c, R.TG_e_CH_c_CUR_CUR e c,
          R.TG_e_CH_c_STATUS_QLVL e c] s t ∧ (∀ k, k ≠ e.val → t.tug k = s.tug k) ∧ t = { s with regs := t.regs, tugs := t.tugs }) ∧
      (h.ok = false → h.head % 32 = 0 → ∃ t, exec (.tugChainStart e) s = .next t ∧ (t.tug e).run = none ∧ (t.tug e).queue c = (x.queue c).tail ∧
        t.shedNat (h.head + 28) 4 = 8 * 2 ^ 24 + 5 * 2 ^ 28 ∧ (∀ a, (a < h.head + 28 ∨ h.head + 32 ≤ a) → t.shedByte a = s.shedByte a) ∧
        bit (t.rd (R.TG_e_ERR_ERR e)) c = true ∧ t.rd (R.TG_e_STATUS_BUSY e) = 0 ∧ (∀ k, k ≠ e.val → t.tug k = s.tug k) ∧
        t = { s with regs := t.regs, tugs := t.tugs, shed := t.shed, shedBad := t.shedBad, signalled := t.signalled, work := t.work })) ∧
    (∀ (r : TugRun) (d : Desc) (o : Nat), x.run = some r → d = s.desc r.desc → o = s.tugOwner e r.ch → tideOf s.now < r.tide + 2 → r.ch < 32 →
      r.desc % 32 = 0 → s.draining = [] →
      (s.shedFails r.desc 28 = false → r.num ≤ 1024 → d.valid = true → d.sspace = 1 → d.dspace = 1 → d.swap = 0 → d.swrap = 0 → d.dwrap = 0 →
        s.powered 0 = true → d.src + d.count ≤ shedSize → d.dst + d.count ≤ shedSize → s.shedFails d.src d.count = false →
        s.shedFails d.dst d.count = false → d.src + d.count ≤ d.dst ∨ d.dst + d.count ≤ d.src → d.dst + d.count ≤ r.desc ∨ r.desc + 32 ≤ d.dst →
        ∃ t, exec (.tugDescriptorComplete e {} [] none) s = .next t ∧ (∀ i, i < d.count → t.shedByte (d.dst + i) = s.shedByte (d.src + i)) ∧
          t.shedNat (r.desc + 28) 4 = low 32 (d.count + 2 ^ 28) ∧
          (∀ a, (a < d.dst ∨ d.dst + d.count ≤ a) → (a < r.desc + 28 ∨ r.desc + 32 ≤ a) → t.shedByte a = s.shedByte a) ∧
          t.rd (R.TG_e_BYTES_COUNT e) = satAdd 32 (s.rd (R.TG_e_BYTES_COUNT e)) d.count ∧
          Tab.get 0 (t.tug e).used o = Tab.get 0 x.used o + ceilDiv d.count 16 ∧
          (d.last = true → (t.tug e).run = none ∧
            t.rd (R.TG_e_CH_c_CHAINS_COUNT e r.ch) = satAdd 32 (s.rd (R.TG_e_CH_c_CHAINS_COUNT e r.ch)) 1) ∧
          (d.last = false → (t.tug e).run = some { r with desc := d.next, num := r.num + 1, since := s.now, shut := false }) ∧
          (d.irq = true → t.signalled = s.signalled ++ [s.rd (R.TG_e_CH_c_CFG_VEC e r.ch)] ∧ bit (t.rd (R.TG_e_DONE_DONE e)) r.ch = true) ∧
          (d.irq = false → t.signalled = s.signalled) ∧ t.rd (R.TG_e_ERR_ERR e) = s.rd (R.TG_e_ERR_ERR e) ∧
          (∀ k, k ≠ e.val → t.tug k = s.tug k) ∧
          t = { s with regs := t.regs, tugs := t.tugs, shed := t.shed, shedBad := t.shedBad, signalled := t.signalled, work := t.work }) ∧
      (s.shedFails r.desc 28 = false → r.num ≤ 1024 → d.valid = false → ∃ t, exec (.tugDescriptorComplete e {} [] none) s = .next t ∧
        t.shedNat (r.desc + 28) 4 = 6 * 2 ^ 24 + 5 * 2 ^ 28 ∧ bit (t.rd (R.TG_e_ERR_ERR e)) r.ch = true ∧
        (∀ a, (a < r.desc + 28 ∨ r.desc + 32 ≤ a) → t.shedByte a = s.shedByte a) ∧
        (d.last = false → (t.tug e).run = some { r with desc := d.next, num := r.num + 1, since := s.now, shut := false })) ∧
      (s.shedFails r.desc 28 = false → 1024 < r.num → ∃ t, exec (.tugDescriptorComplete e {} [] none) s = .next t ∧ (t.tug e).run = none ∧
        t.shedNat (r.desc + 28) 4 = 7 * 2 ^ 24 + 5 * 2 ^ 28 ∧ bit (t.rd (R.TG_e_ERR_ERR e)) r.ch = true ∧
        (∀ a, (a < r.desc + 28 ∨ r.desc + 32 ≤ a) → t.shedByte a = s.shedByte a)) ∧
      (s.memoriesWf = true → s.shedFails r.desc 28 = true → ∃ t, exec (.tugDescriptorComplete e {} [] none) s = .next t ∧ t.rd R.TG_SHED_STATUS_PARITY = 1 ∧
        t.shedNat (r.desc + 28) 4 = 3 * 2 ^ 24 + 2 * 2 ^ 28 ∧ bit (t.rd (R.TG_e_ERR_ERR e)) r.ch = true)) ∧
    (x.run = none → ∀ (luck : WhLuck) (host : List Byte) (fails : Option TugFail),
      (Tab.get [] s.tileWrites e = [] → exec (.tugDescriptorComplete e luck host fails) s = .next s) ∧
      (∀ (b g u : Nat) (rest : List (Nat × Nat × Nat)), Tab.get [] s.tileWrites e = (b, g, u) :: rest →
        ∃ t, exec (.tugDescriptorComplete e luck host fails) s = .next t ∧ Tab.get [] t.tileWrites e = rest ∧
          (∀ r, r < 16 → rowKey u g r ∉ (t.dasOf b).rows) ∧
          (∀ k, k ∈ (s.dasOf b).rows → (∀ r, r < 16 → k ≠ rowKey u g r) → k ∈ (t.dasOf b).rows) ∧
          (∀ i, i ≠ b → t.dasOf i = s.dasOf i) ∧
          t = { s with das := t.das, tileWrites := t.tileWrites, work := t.work, late := t.late, cutWork := t.cutWork })) ∧
    ∀ (domain : Fin 26),
      ((∀ b, (domain.val, b) ∉ s.draining) → exec (.lockClose domain) s = .next s) ∧
      (∀ b, s.draining.find? (fun g => g.1 == domain.val) = some (domain.val, b) →
        (s.tugUses domain b = false → ∃ t, exec (.lockClose domain) s = .next t ∧ t.powered domain = false ∧ t.now = s.now ∧
          (∀ k, k < 26 → k ≠ domain.val → t.powered k = s.powered k) ∧ t.draining = s.draining.filter (fun g => g.1 != domain.val)) ∧
        (s.tugUses domain b = true → b + 10000 < nextBoundary s.now → ∃ t, exec (.lockClose domain) s = .next t ∧ t.powered domain = false ∧
          t.now = max s.now (b + 10000)) ∧
        (s.tugUses domain b = true → nextBoundary s.now ≤ b + 10000 → exec (.lockClose domain) s = .next s))

/-- R373, R374, R381, R400, R401: a packing engine queues 16 jobs; a free one takes the next; its end frees the engine, charges the owner and counts the
job, and an empty job completes OK with nothing moved; a stream takes each unit that its source has written, skips and counts an overwritten one,
and a crate that is due is written with its stamp, SEQ and handle; EN = 1 of an export slot waits to land. -/
def Obligations.PackingAndStreams : Prop :=
  (∀ (e : Fin 2) (s : State) (x : PackEngine), s.runs → x = s.pack e →
    (∀ value : Word, 16 ≤ x.queue.length → ∃ t, exec (.packingEnqueue e value) s = .next t ∧ t.rd (R.PK_e_STATUS_OVF e) = 1 ∧
      OnlyRegs [R.PK_e_STATUS_OVF e] s t ∧ t = { s with regs := t.regs }) ∧
    (∀ value : Word, x.queue.length < 16 → ∃ t, exec (.packingEnqueue e value) s = .next t ∧
      t.pack e = { x with queue := x.queue ++ [⟨128 * bits value.toNat 7 19, tideOf s.now⟩] } ∧
      t.rd (R.PK_e_STATUS_QLVL e) = x.queue.length + 1 ∧ OnlyRegs [R.PK_e_STATUS_QLVL e] s t ∧ (∀ k, k ≠ e.val → t.pack k = s.pack k) ∧
      t = { s with regs := t.regs, packs := t.packs }) ∧
    (∀ j, x.run = none → s.nextPack e = some j → ∃ t, exec (.packingJobStart e) s = .next t ∧
      t.pack e = { queue := x.queue.erase j, run := some j } ∧ t.rd (R.PK_e_STATUS_BUSY e) = 1 ∧ t.rd (R.PK_e_CUR_CUR e) = low 19 (j.desc / 128) ∧
      OnlyRegs [R.PK_e_STATUS_QLVL e, R.PK_e_STATUS_BUSY e, R.PK_e_CUR_CUR e] s t ∧ (∀ k, k ≠ e.val → t.pack k = s.pack k) ∧
      t = { s with regs := t.regs, packs := t.packs }) ∧
    (∀ (r : PackRun) (cycles o : Nat) (luck : WhLuck), x.run = some r → o = s.packOwner r.desc → r.desc % 128 = 0 →
      ∃ t, exec (.packingJobComplete e cycles luck) s = .next t ∧ t.pack e = { x with run := none } ∧ t.rd (R.PK_e_STATUS_BUSY e) = 0 ∧
        Tab.get 0 t.packUsed o = Tab.get 0 s.packUsed o + cycles ∧
        t.rd (R.PK_e_JOBS_COUNT e) = satAdd 32 (s.rd (R.PK_e_JOBS_COUNT e)) 1 ∧ (∀ k, k ≠ e.val → t.pack k = s.pack k) ∧
        (s.shedFails r.desc 128 = true → t.rd R.PK_STATUS_BAD = 1 ∧ t.rd (R.PK_e_STATUS_ERR e) = 1) ∧
        (s.shedFails r.desc 128 = false → s.packInvalid r.desc (s.packJob r.desc) = true → t.rd (R.PK_e_STATUS_ERR e) = 1 ∧
          bits (t.shedNat (r.desc + 44) 4) 28 4 = 8 ∧ ∀ a, (a < r.desc + 44 ∨ r.desc + 128 ≤ a) → t.shedByte a = s.shedByte a) ∧
        (s.shedFails r.desc 128 = false → s.packInvalid r.desc (s.packJob r.desc) = false → (s.packJob r.desc).resume = false →
          (s.packJob r.desc).slen = 0 → (s.packJob r.desc).sspace = 1 → t.shedNat (r.desc + 44) 4 = 2 ^ 28 ∧ t.shedNat (r.desc + 48) 4 = 0 ∧
          t.shedNat (r.desc + 52) 4 = 0 ∧ t.rd (R.PK_e_IN_BYTES_COUNT e) = satAdd 32 (s.rd (R.PK_e_IN_BYTES_COUNT e)) 0) ∧
        t = { s with
              regs := t.regs, packs := t.packs, packUsed := t.packUsed, shed := t.shed, shedBad := t.shedBad, wh := t.wh,
              signalled := t.signalled, free := t.free, work := t.work })) ∧
  (∀ (b : Fin 4096) (x : Stream) (p : StreamParams) (r : UnitRing) (s : State), s.runs → x = s.stream b → (s.berth b).isOpen = true →
    (s.berth b).kind = 8 → p = streamParams (s.berth b).params → r = s.unitRing (bits p.source 0 12) →
    (x.due = true → exec (.captureUnitRead b {}) s = .next s) ∧
    (x.due = false → (s.berth (bits p.source 0 12)).handle = p.source → x.next < r.next → r.next ≤ x.next + r.depth →
      s.rd R.WH_STATUS_READY = 1 → r.base + r.size * (x.next % r.depth) + r.size ≤ s.whUsable →
      (∀ k, r.base + r.size * (x.next % r.depth) < 64 * k + 64 → 64 * k < r.base + r.size * (x.next % r.depth) + r.size →
        Tab.get false s.wh.written k = true ∧ s.whPasses k = true) →
      leNat (Tab.getList 0 s.wh.bytes (r.base + r.size * (x.next % r.depth) + 8) 8) = x.next → 16 ≤ r.size →
      ∃ t bs, exec (.captureUnitRead b {}) s = .next t ∧ bs = Tab.getList 0 s.wh.bytes (r.base + r.size * (x.next % r.depth)) r.size ∧
        (t.stream b).next = x.next + 1 ∧ (t.stream b).skipped = (if x.buf.isEmpty then 0 else x.skipped) ∧
        (x.buf ≠ [] → x.buf.length + r.size ≤ p.size → (t.stream b).buf = x.buf ++ bs ∧ (t.stream b).units = x.units + 1) ∧
        (x.buf ≠ [] → p.size < x.buf.length + r.size → (t.stream b).buf = x.buf ∧ (t.stream b).beyond = bs ∧ (t.stream b).due = true) ∧
        (x.buf = [] → (t.stream b).buf = bs.take p.size ∧ (t.stream b).first = x.next ∧ (t.stream b).gap = x.skipped) ∧
        (∀ k, k ≠ b.val → t.stream k = s.stream k) ∧ t.wh = { s.wh with rows := t.wh.rows } ∧
        t = { s with streams := t.streams, wh := t.wh, work := t.work }) ∧
    (x.due = false → (s.berth (bits p.source 0 12)).handle = p.source → x.next + r.depth < r.next →
      ∃ t, exec (.captureUnitRead b {}) s = .next t ∧ t.stream b = { x with next := x.next + 1, skipped := x.skipped + 1 } ∧
        t.rd R.PK_GAP_CNT_COUNT = satAdd 32 (s.rd R.PK_GAP_CNT_COUNT) 1 ∧ (∀ k, k ≠ b.val → t.stream k = s.stream k) ∧
        t = { s with regs := t.regs, streams := t.streams, wh := t.wh, work := t.work, free := t.free }) ∧
    (x.due = false → exec (.crateClose b) s = .next s) ∧
    (∀ a, x.due = true → a = x.ring + (p.size + 128) * (x.seq % p.recs) → ∃ t, exec (.crateClose b) s = .next t ∧ (t.stream b).seq = x.seq + 1 ∧
      (x.beyond = [] → (t.stream b).buf = [] ∧ (t.stream b).due = false) ∧ (x.beyond ≠ [] → (t.stream b).buf = x.beyond.take p.size) ∧
      (s.rd R.WH_STATUS_READY = 1 → a % 64 = 0 → a + 16 ≤ s.whUsable → Tab.get false s.wh.written (a / 64) = true →
        s.whPasses (a / 64) = true → ∀ i, i < 8 → Tab.get 0 t.wh.bytes (a + i) = (leBytes 8 x.stamp).getD i 0 ∧
          Tab.get 0 t.wh.bytes (a + 8 + i) = (leBytes 8 x.seq).getD i 0) ∧
      (∀ k, k ≠ b.val → t.stream k = s.stream k) ∧
      t = { s with regs := t.regs, streams := t.streams, wh := t.wh, sent := t.sent, work := t.work, free := t.free })) ∧
  ∀ (k : Fin 8) (port : Fin 2) (dport : BitVec 16) (s : State), s.takesWrites 23 → s.rd (R.NT_EXP_k_CFG_EN k) ≠ 1 →
    s.waits (fun c => decide (c = Change.exportSlot k)) = false →
    ∃ t, exec (.exportEnableWrite k port dport) s = .next t ∧ Accepted (.exportSlot k) s t ∧ t.rd (R.NT_EXP_k_CFG_PORT k) = port ∧
      t.rd (R.NT_EXP_k_CFG_DPORT k) = dport.toNat ∧ t.rd (R.NT_EXP_k_CFG_EN k) = s.rd (R.NT_EXP_k_CFG_EN k) ∧
      OnlyRegs ([R.NT_EXP_k_CFG_PORT k, R.NT_EXP_k_CFG_DPORT k, R.NT_EXP_k_CFG_EXP_REFUSED k] ++ landFields) s t ∧
      t = { s with regs := t.regs, landing := t.landing, exportDue := t.exportDue }

/-- R398, R399, R402, R403: a port that is on counts a frame with a bad FCS, drops one that is too long and one with another tag, drops and
counts a PAUSE frame and what else it does not answer, and answers ARP, NDP and echo requests; a PTP event is stamped at the balls, and a full FIFO of 64 discards the
stamp and sets TS_OVF; reading the FIFO takes its head, and an empty one reads as DIR 15. A frame leaves with the port's tag (R398). -/
def Obligations.NetworkFramesAndStamps : Prop :=
  (∀ (n : Fin 2) (f : NetFrame) (s : State), s.runs →
    (s.powered 23 = false ∨ s.rd (R.NT_n_CFG_EN n) ≠ 1 → exec (.networkFrameReceive n f) s = .next s) ∧
    (s.powered 23 = true → s.rd (R.NT_n_CFG_EN n) = 1 →
      (f.fcsOk = false → ∃ t, exec (.networkFrameReceive n f) s = .next t ∧
        t.rd (R.NT_n_FCS_CNT_COUNT n) = satAdd 32 (s.rd (R.NT_n_FCS_CNT_COUNT n)) 1 ∧ OnlyRegs [R.NT_n_FCS_CNT_COUNT n] s t ∧
        t = { s with regs := t.regs }) ∧
      (f.fcsOk = true → 1522 < f.len ∨ (f.kind ≠ .pause ∧
        f.vlan ≠ (if s.rd (R.NT_n_CFG_VLAN_EN n) = 1 then some (s.rd (R.NT_n_CFG_VID n)) else none)) →
        exec (.networkFrameReceive n f) s = .next s) ∧
      (f.fcsOk = true → f.len ≤ 1522 → f.kind = .pause ∨ s.tagOk n f = true →
        (f.kind = .pause ∨ s.protocolOk n f = false ∨ f.forUs = false ∨ f.options = true → ∃ t, exec (.networkFrameReceive n f) s = .next t ∧
          t.rd (R.NT_n_DROP_CNT_COUNT n) = satAdd 32 (s.rd (R.NT_n_DROP_CNT_COUNT n)) 1 ∧ OnlyRegs [R.NT_n_DROP_CNT_COUNT n] s t ∧
          t = { s with regs := t.regs }) ∧
        (s.protocolOk n f = true → f.forUs = true → f.options = false → ∃ t, exec (.networkFrameReceive n f) s = .next t ∧
          t.rd (R.NT_n_RX_CNT_COUNT n) = satAdd 32 (s.rd (R.NT_n_RX_CNT_COUNT n)) 1 ∧
          (f.kind = .arp true ∨ f.kind = .ndp true → t.sent = s.sent ++ [{ kind := .answer, port := n, body := s.mac n, tag := s.sendTag n }]) ∧
          (f.kind = .echo true → t.sent = s.sent ++ [{ kind := .answer, port := n, body := f.body, tag := s.sendTag n }]) ∧
          (∀ msg seq, f.kind = .ptpEvent msg seq → t.sent = s.sent ∧
            (s.stamps.length < 64 → t.stamps = s.stamps ++ [⟨((f.at_ : Int) + toSigned 32 (s.rd (R.NT_n_TS_ADJ_ADJ n))).toNat, 0, msg, n, seq⟩]) ∧
            (64 ≤ s.stamps.length → t.stamps = s.stamps ∧ t.rd R.NT_PTP_CFG_TS_OVF = 1)) ∧
          ((∀ msg seq, f.kind ≠ .ptpEvent msg seq) → t.stamps = s.stamps) ∧
          OnlyRegs [R.NT_n_RX_CNT_COUNT n, R.NT_n_TX_CNT_COUNT n, R.NT_PTP_CFG_TS_OVF] s t ∧
          t = { s with regs := t.regs, sent := t.sent, stamps := t.stamps })))) ∧
  (∀ s : State, s.runs → s.powered 23 = true →
    (s.stamps = [] → ∃ t, exec .ptpStampPop s = .next t ∧ t.rd (R.NT_TS_FIFO_w_DATA 2) = 15 * 256 ∧ t.completion = ⟨.ok, [0]⟩ ∧
      OnlyRegs ((List.range 4).map R.NT_TS_FIFO_w_DATA) s t ∧ t = { s with regs := t.regs, completion := t.completion }) ∧
    ∀ x q, s.stamps = x :: q → ∃ t, exec .ptpStampPop s = .next t ∧ t.stamps = q ∧ t.completion = ⟨.ok, [low 32 (x.at_ / 256)]⟩ ∧
      t.rd (R.NT_TS_FIFO_w_DATA 0) = low 32 (x.at_ / 256) ∧ t.rd (R.NT_TS_FIFO_w_DATA 1) = low 32 (x.at_ / 2 ^ 40) ∧
      t.rd (R.NT_TS_FIFO_w_DATA 2) = low 32 (x.at_ % 256 + 256 * x.dir + 65536 * x.msg + 16777216 * x.port) ∧
      t.rd (R.NT_TS_FIFO_w_DATA 3) = low 32 x.seq ∧ OnlyRegs ((List.range 4).map R.NT_TS_FIFO_w_DATA) s t ∧
      t = { s with regs := t.regs, stamps := t.stamps, completion := t.completion }) ∧
  ∀ (n : Fin 2) (msg : Fin 4) (seq : BitVec 16) (at_ v : Nat) (s : State), s.runs → s.powered 23 = true → s.rd (R.NT_n_CFG_EN n) = 1 →
    v = (if s.rd R.NT_PTP_CFG_IPVER = 1 then 6 else 4) → s.ipOn n v = true → s.rd R.NT_PTP_CFG_EN = 1 → s.rd R.NT_PTP_CFG_PORT = n.val →
    ((s.rd R.NT_PTP_CFG_MODE ≠ 1 ∧ msg.val = 1) ∨ (s.rd R.NT_PTP_CFG_MODE = 1 ∧ (msg.val = 2 ∨ msg.val = 3)) →
      ∃ t, exec (.ptpSend n msg seq at_) s = .next t ∧
        t.sent = s.sent ++ [{ kind := .ptp, port := n, body := leBytes 1 msg ++ leBytes 1 (s.rd R.NT_PTP_CFG_DOMAIN) ++ beBytes 2 seq.toNat, tag := s.sendTag n }] ∧
        (s.stamps.length < 64 → t.stamps = s.stamps ++ [⟨((at_ : Int) + toSigned 32 (s.rd (R.NT_n_TS_ADJ_ADJ n))).toNat, 1, msg, n, seq.toNat⟩]) ∧
        (64 ≤ s.stamps.length → t.stamps = s.stamps ∧ t.rd R.NT_PTP_CFG_TS_OVF = 1) ∧
        OnlyRegs [R.NT_n_TX_CNT_COUNT n, R.NT_PTP_CFG_TS_OVF] s t ∧ t = { s with regs := t.regs, sent := t.sent, stamps := t.stamps }) ∧
    (msg.val = 0 → exec (.ptpSend n msg seq at_) s = .next s)

/-- R133, R407, R408, R409, R410, R412: a frame whose coding or CRC is bad sets CRC_ERR and nothing else; one whose version is below the range sets INCOMPAT; a good
frame settles its version, sets VALID and reports its offset, and one with SYNC received in time requests a reset two tides after its boundary;
a repeater sends it on with HOP + 1, which in version 1 stays 0; while HAWSER_EN is 0 no sync event is accepted (Table 5.8); after three boundaries without a good frame VALID clears; PPS_IN and F10M_IN are measured. -/
def Obligations.HawserAndTimeInputs : Prop :=
  ∀ s : State, s.runs →
    (∀ (frame : BitVec 96) (coded : Bool) (at_ ver hop b : Nat) (ofs : Int),
      ver = Nat.min (bits frame.toNat 8 4) (s.rd (R.HB_IF_i_MAX 4)) → hop = (if ver = 1 then 0 else bits frame.toNat 60 5) →
      b = 131072 * bits frame.toNat 12 47 →
      ofs = (at_ : Int) - (s.rd R.HB_HWS_CABLE_DELAY : Nat) - (1600 * hop : Nat) - (16 * b : Nat) →
      (bits frame.toNat 0 8 ≠ 0xA5 → exec (.hawserFrameReceive frame coded at_) s = .next s) ∧
      (bits frame.toNat 0 8 = 0xA5 → coded = false ∨ bits frame.toNat 80 16 ≠ crc16 (leBytes 10 frame.toNat) →
        ∃ t, exec (.hawserFrameReceive frame coded at_) s = .next t ∧ t.rd R.HB_HWS_STATUS_CRC_ERR = 1 ∧
          OnlyRegs [R.HB_HWS_STATUS_CRC_ERR] s t ∧ t = { s with regs := t.regs }) ∧
      (bits frame.toNat 0 8 = 0xA5 → coded = true → bits frame.toNat 80 16 = crc16 (leBytes 10 frame.toNat) →
        (ver < s.rd (R.HB_IF_i_MIN 4) → ∃ t, exec (.hawserFrameReceive frame coded at_) s = .next t ∧ t.rd R.HB_HWS_STATUS_INCOMPAT = 1 ∧
          OnlyRegs [R.HB_HWS_STATUS_INCOMPAT] s t ∧ t = { s with regs := t.regs }) ∧
        (s.rd (R.HB_IF_i_MIN 4) ≤ ver → ∃ t, exec (.hawserFrameReceive frame coded at_) s = .next t ∧ t.rd R.HB_HWS_STATUS_INCOMPAT = 0 ∧
          t.rd R.HB_HWS_STATUS_VER = low 4 ver ∧ t.rd R.HB_HWS_STATUS_HOP = low 5 hop ∧ t.rd R.HB_HWS_VALID_VALID = 1 ∧
          (-(2 ^ 31) ≤ ofs → ofs < 2 ^ 31 → toSigned 32 (t.rd R.HB_HWS_OFS_OFS) = ofs) ∧ t.hawser.good = true ∧
          (s.rd R.HB_TIME_CFG_HWS_HEAD = 1 → t.hawser.forward = none ∧ t.landing = s.landing) ∧
          (s.rd R.HB_TIME_CFG_HWS_HEAD ≠ 1 → t.hawser.forward = some (frame.toNat, at_ / 16)) ∧
          (bit frame.toNat 59 = false → t.landing = s.landing) ∧ (bit frame.toNat 59 = true → t.rd R.HB_HWS_STATUS_SYNC_RX = 1) ∧
          (s.rd R.RX_SL_CTL_HAWSER_EN ≠ 1 → t.landing = s.landing) ∧
          (s.rd R.HB_TIME_CFG_HWS_HEAD ≠ 1 → s.rd R.RX_SL_CTL_HAWSER_EN = 1 → bit frame.toNat 59 = true → s.now + 16384 ≤ b + 262144 →
            s.landing.any (fun l => l.due == b + 262144 && decide (l.change = Change.sync)) = false →
            t.landing = s.landing ++ [⟨b + 262144, .sync⟩] ∧ t.rd R.RX_SL_STATUS_SYNC_PENDING = 1) ∧
          t.hawser.misses = s.hawser.misses ∧ t.hawser.pps = s.hawser.pps ∧
          OnlyRegs ([R.HB_HWS_STATUS_INCOMPAT, R.HB_HWS_STATUS_VER, R.HB_HWS_STATUS_HOP, R.HB_IF_i_CUR 4, R.HB_HWS_VALID_VALID, R.HB_HWS_OFS_OFS,
            R.HB_HWS_STATUS_SYNC_RX, R.RX_SL_STATUS_SYNC_LATE, R.RX_SL_STATUS_SYNC_PENDING, R.HB_TIME_STATUS_SOURCE] ++ landFields) s t ∧
          t = { s with regs := t.regs, hawser := t.hawser, landing := t.landing, free := t.free }))) ∧
    (s.hawser.forward = none → exec .hawserForward s = .next s) ∧
    (∀ v at_, s.hawser.forward = some (v, at_) →
      (s.rd R.HB_TIME_CFG_HWS_HEAD = 1 ∨ s.rd R.HB_TIME_CFG_HWS_FWD ≠ 1 →
        exec .hawserForward s = .next { s with hawser := { s.hawser with forward := none } }) ∧
      (s.rd R.HB_TIME_CFG_HWS_HEAD ≠ 1 → s.rd R.HB_TIME_CFG_HWS_FWD = 1 → 2 ≤ bits v 8 4 → bits v 60 5 < 31 →
        ∃ t w, exec .hawserForward s = .next t ∧ t.sent = s.sent ++ [{ kind := .hawser, port := 0, body := leBytes 12 w }] ∧ bits w 60 5 = bits v 60 5 + 1 ∧
          bits w 0 60 = bits v 0 60 ∧ bits w 65 15 = bits v 65 15 ∧ bits w 80 16 = low 16 (crc16 (leBytes 10 w)) ∧
          t.now = (if at_ + 100 < nextBoundary s.now then max s.now (at_ + 100) else s.now) ∧ t.hawser = { s.hawser with forward := none } ∧
          t = { s with now := t.now, sent := t.sent, hawser := t.hawser }) ∧
      (s.rd R.HB_TIME_CFG_HWS_HEAD ≠ 1 → s.rd R.HB_TIME_CFG_HWS_FWD = 1 → bits v 8 4 < 2 → bits v 60 5 < 31 →
        ∃ t w, exec .hawserForward s = .next t ∧ t.sent = s.sent ++ [{ kind := .hawser, port := 0, body := leBytes 12 w }] ∧
          bits w 0 80 = bits v 0 80 ∧ bits w 80 16 = low 16 (crc16 (leBytes 10 w)))) ∧
    (s.hawser.misses < 3 → exec .hawserLost s = .next s) ∧
    (3 ≤ s.hawser.misses → ∃ t, exec .hawserLost s = .next t ∧ t.rd R.HB_HWS_VALID_VALID = 0 ∧ t.rd R.HB_TIME_STATUS_SOURCE ≠ 3 ∧
      OnlyRegs [R.HB_HWS_VALID_VALID, R.HB_TIME_STATUS_SOURCE] s t ∧ t = { s with regs := t.regs }) ∧
    (∀ at_ sec : Nat, sec = (at_ + 8000000000) / 16000000000 → -(2 ^ 31 : Int) ≤ (at_ : Int) - 16000000000 * (sec : Int) →
      (at_ : Int) - 16000000000 * (sec : Int) < 2 ^ 31 → ∃ t, exec (.ppsInEdge at_) s = .next t ∧
        toSigned 32 (t.rd R.HB_PPS_OFS_OFS) = (at_ : Int) - 16000000000 * (sec : Int) ∧ t.hawser = { s.hawser with pps := some at_ } ∧
        OnlyRegs [R.HB_PPS_OFS_OFS, R.HB_TIME_STATUS_SOURCE] s t ∧ t = { s with regs := t.regs, hawser := t.hawser }) ∧
    ∀ rate : Word, (s.rd R.HB_TIME_CFG_F10M_EN = 1 → ∃ t, exec (.f10mRateUpdate rate) s = .next t ∧ t.rd R.HB_F10M_RATE_RATE = rate.toNat ∧
        OnlyRegs [R.HB_F10M_RATE_RATE] s t ∧ t = { s with regs := t.regs }) ∧
      (s.rd R.HB_TIME_CFG_F10M_EN ≠ 1 → exec (.f10mRateUpdate rate) s = .next s)

/-- R419, R422, R423, R428: a pass of a lane of a running quay computes its errors from what it accumulated and keeps them for the next boundary, with those of the polarisations
once all lanes have passed; 2^20 hits give the code table F whose entries are the midpoints of the taps, unless the last eight taps were hit or no tap can be mapped
out, which leaves the last table and sets FAIL; the selection record of a swap is written to both copies of the Hold with the next generation. -/
def Obligations.TrimPassesAndSelection : Prop :=
  (∀ (n : Fin 8) (l : Fin 4) (stat : LaneStat) (iq : List IqStat) (x : QuayTrim) (s : State), s.runs → x = s.quayTrim n →
    (s.rd R.CL_CFG_QY_AUTO ≠ 1 ∨ s.rd (R.QY_STATUS_RUNNING n) ≠ 1 ∨ s.rd (R.QY_STATUS_STOPPED n) = 1 ∨ (1 + n.val) ∉ s.power.trims ∨
      bit (s.rd (R.CL_QY_n_STATUS_FAIL n)) l = true → exec (.backscatterPass n l stat iq) s = .next s) ∧
    (s.rd R.CL_CFG_QY_AUTO = 1 → s.rd (R.QY_STATUS_RUNNING n) = 1 → s.rd (R.QY_STATUS_STOPPED n) ≠ 1 → (1 + n.val) ∈ s.power.trims →
      bit (s.rd (R.CL_QY_n_STATUS_FAIL n)) l = false → (x.lane l).due = [] →
      ∃ t, exec (.backscatterPass n l stat iq) s = .next t ∧ ((t.quayTrim n).lane l).due.length = 9 ∧
        (∀ k y e, k < 9 → stat.slices[k]? = some y → ((t.quayTrim n).lane l).due[k]? = some e → e.offset = y.mean ∧
          (s.rd (R.CL_QY_n_L_l_SPARE_IN_USE n l) ≠ 1 → ∀ v : Rat, v = ((stat.slices.take 8).map SliceStat.var).sum / 8 → stat.slices.length = 9 → v ≠ 0 →
            e.gain = sqrtRat (y.var / v) - 1) ∧
          (stat.slope ≠ 0 → e.skew = (y.before - y.after) / stat.slope)) ∧
        (∀ k, k ≠ l.val → (t.quayTrim n).lane k = x.lane k) ∧
        ((∀ k, k < 4 → k ≠ l.val → k ∈ x.done) → (t.quayTrim n).done = [] ∧ (t.quayTrim n).iqDue.length = 2 ∧
          ∀ p z e, p < 2 → iq[p]? = some z → (t.quayTrim n).iqDue[p]? = some e → z.ii ≠ 0 → z.qq ≠ 0 → sqrtRat (z.ii * z.qq) ≠ 0 →
            e.amp = sqrtRat (z.ii / z.qq) - 1 ∧ e.phase = asinDeg (z.iq / sqrtRat (z.ii * z.qq))) ∧
        ((∃ k, k < 4 ∧ k ≠ l.val ∧ k ∉ x.done ∧ bit (s.rd (R.CL_QY_n_STATUS_FAIL n)) k = false) →
          (t.quayTrim n).iqDue = x.iqDue ∧ l.val ∈ (t.quayTrim n).done) ∧
        (∀ k, k ≠ n.val → t.quayTrim k = s.quayTrim k) ∧ t = { s with quayTrims := t.quayTrims, free := t.free })) ∧
  (∀ (lane : Fin 128) (hits : List Nat) (x : TapTable) (first : Bool) (s : State), s.runs → x = s.tapTable lane →
    first = (x.table.isEmpty && x.due.isEmpty) →
    (hits.sum ≠ 2 ^ 20 → ∀ bubbly, exec (.codeDensityPass lane hits bubbly) s = .next s) ∧
    (hits.length = 608 → hits.sum = 2 ^ 20 → s.powered (9 + lane / 16) = true → (9 + lane.val / 16) ∈ s.power.trims →
      first = true ∨ (s.rd R.CL_CFG_TL_AUTO = 1 ∧ (s.rd (R.CL_TL_l_HITS_HITS lane) = 2 ^ 20 ∨ s.rd (ln R.TL_LANE_i_CFG_MODE lane) = 0)) →
      (∀ k, 600 ≤ k → k < 608 → hits.getD k 0 = 0) →
        (∃ t, exec (.codeDensityPass lane hits []) s = .next t ∧ (t.tapTable lane).due.length = 608 ∧
          (∀ k, k < 608 → (t.tapTable lane).due.getD k 0 = ((2 * (hits.take k).sum + hits.getD k 0) * 8192 + 2 ^ 20) / 2 ^ 21) ∧
          (t.tapTable lane).table = x.table ∧ (t.tapTable lane).live = x.live ∧ t.rd (R.CL_TL_l_STATUS_FAIL lane) = 0 ∧
          t.rd (R.CL_TL_l_HITS_HITS lane) = 0 ∧
          ((∀ i, i < 16 → i ≠ lane.val % 16 → (s.tapTable (lane.val / 16 * 16 + i)).table ≠ []) →
            t.rd (R.TL_BANK_STATUS_CAL_VALID (lane.val / 16)) = 1) ∧
          (∀ k, k ≠ lane.val → t.tapTable k = s.tapTable k) ∧ t = { s with regs := t.regs, taps := t.taps }) ∧
        (∀ k, k < 608 → k ∉ x.factory ++ x.live → (x.factory ++ x.live).length < 16 →
          ∃ t, exec (.codeDensityPass lane hits [k]) s = .next t ∧ (t.tapTable lane).live = x.live ++ [k] ∧ t.rd R.CL_STATUS_TAP_MAP = 1 ∧
            t.rd (R.CL_TL_l_STATUS_MAPPED lane) = (x.factory ++ x.live).length + 1)) ∧
    (hits.length = 608 → hits.sum = 2 ^ 20 → s.powered (9 + lane / 16) = true → (9 + lane.val / 16) ∈ s.power.trims → first = false →
      s.rd R.CL_CFG_TL_AUTO = 1 → s.rd (ln R.TL_LANE_i_CFG_MODE lane) = 0 → (∃ k, 600 ≤ k ∧ k < 608 ∧ hits.getD k 0 ≠ 0) →
      ∃ t, exec (.codeDensityPass lane hits []) s = .next t ∧ (t.tapTable lane).due = [] ∧ (t.tapTable lane).table = x.table ∧
        t.rd (R.CL_TL_l_STATUS_FAIL lane) = 1 ∧ t.rd R.CL_STATUS_LANE_FAIL = 1)) ∧
  ∀ s : State, s.runs → (s.calDone = [] → exec .calSelectionWrite s = .next s) ∧
    ∀ d rest gen x, s.calDone = d :: rest → gen = s.rd R.CL_HOLD_GEN_LO_GEN_LO + 2 ^ 32 * s.rd R.CL_HOLD_GEN_HI_GEN_HI + 1 →
      x = calRecordBytes gen (withBit s.calSel.1 d.bit (!bit s.calSel.1 d.bit)) (withBit s.calSel.2 d.bit true) →
      ∃ t, exec .calSelectionWrite s = .next t ∧ t.calDone = rest ∧ bit t.calSel.1 d.bit = !bit s.calSel.1 d.bit ∧ bit t.calSel.2 d.bit = true ∧
        t.rd R.CL_HOLD_GEN_LO_GEN_LO = low 32 gen ∧ t.rd R.CL_HOLD_GEN_HI_GEN_HI = low 32 (gen / 2 ^ 32) ∧ x.length = 22 ∧
        (∀ i, i < 22 → Tab.get 0 t.hold (0x10000 + i) = x.getD i 0 ∧ Tab.get 0 t.hold (0x40000 + i) = x.getD i 0) ∧
        (∀ a, (a < 0x10000 ∨ (0x10016 ≤ a ∧ a < 0x40000) ∨ 0x40016 ≤ a) → Tab.get 0 t.hold a = Tab.get 0 s.hold a) ∧
        (s.evtLost.1 = 0 → s.signQ.length < 256 → ∃ e, t.signQ = s.signQ ++ [e] ∧ e.code = 0x30 ∧ e.origin = d.at_ ∧
          e.args = [(calKind d.bit).1, (calKind d.bit).2, d.old, d.new]) ∧
        OnlyRegs ([R.CL_HOLD_GEN_LO_GEN_LO, R.CL_HOLD_GEN_HI_GEN_HI] ++ eventFields) s t ∧
        t = { s with regs := t.regs, calDone := t.calDone, calSel := t.calSel, hold := t.hold, signQ := t.signQ, evtLost := t.evtLost }

/-- R34, R431, R432, R433, R435, R436, R437, R438, R445, R447, R462, R464, R466: a source that asserts is counted; at L0 or L1 every register outside the Ballast takes its
reset value and the device is held, unless a reset of the same or a greater reach holds it already; an L0 reset puts every output in its cold-reset state, an L1 one
holds those of R437; power-on reset senses VDD_IO; while the supplies ramp, outputs have their weak pulls alone and no release is heard; warm and cold reset, thermal
trip, brown-out and a supply fault are sources 8, 9, 6, 7 and 0; the release records level, source and RTC, with every link up (the model's choice, log entry 126); a
domain reset clears the domain alone, a berth reset waits to land, and a ready domain loads its trims. -/
def Obligations.ResetsBeginAndEnd : Prop :=
  (∀ (src : Fin 16) (vddio : Option Nat) (lev : Nat) (s : State), src.val ≠ 10 → src.val ≠ 11 → src.val ≠ 12 →
    (src.val = 14 → s.rd R.CU_STATE_JTAG = 1) → (src.val = 0 → vddio ≠ none) → lev = min 1 (3 - s.rd (R.RS_LEVEL_V_s src)) →
    (s.power.held = none ∨ (∃ h, s.power.held = some h ∧ lev < h.1) → ∃ t, exec (.resetAssert ⟨src, vddio⟩) s = .next t ∧
      t.power.held = some (lev, src.val) ∧ t.rd (R.RS_BAL_CNT_s_COUNT src) = satAdd 16 (s.rd (R.RS_BAL_CNT_s_COUNT src)) 1 ∧
      (∀ f : Fld, f.key < 8 * 0x200100 ∨ 8 * 0x200160 ≤ f.key → t.rd f = f.reset) ∧
      (∀ f : Fld, 8 * 0x200100 ≤ f.key → f.key < 8 * 0x200160 → f.key ≠ (R.RS_BAL_CNT_s_COUNT src).key →
        f.key ≠ R.RS_BAL_TRIM_ABORT_COUNT.key → t.rd f = s.rd f) ∧
      t.now = 0 ∧ t.landing = [] ∧ t.berths = [] ∧ t.shed = [] ∧ t.signQ = [] ∧ t.power.trims = [] ∧ t.hold = s.hold ∧ t.charter = s.charter ∧
      t.life.word = s.life.word ∧ t.life.sealed = s.life.sealed ∧ t.ledger.key = s.ledger.key ∧ (lev = 1 → t.wh.bytes = s.wh.bytes) ∧
      (lev = 0 → t.wh = {}) ∧ t.power.vbat = s.power.vbat ∧ t.pending = s.pending ∧
      (lev = 0 → t.power.holds = [] ∧ t.power.cold = State.reset.power.cold) ∧
      (lev = 1 → s.power.held = none → t.power.holds = (s.inc (R.RS_BAL_CNT_s_COUNT src)).heldBalls ∧ t.power.cold = s.power.cold) ∧
      (src.val ≠ 0 → t.power.ramping = s.power.ramping ∧ t.power.io33 = s.power.io33) ∧
      (∀ mv, src.val = 0 → vddio = some mv → t.power.ramping = false ∧ t.power.io33 = decide (2500 ≤ mv))) ∧
    (∀ h, s.power.held = some h → h.1 ≤ lev → ∃ t, exec (.resetAssert ⟨src, vddio⟩) s = .next t ∧
      t.rd (R.RS_BAL_CNT_s_COUNT src) = satAdd 16 (s.rd (R.RS_BAL_CNT_s_COUNT src)) 1 ∧ OnlyRegs [R.RS_BAL_CNT_s_COUNT src] s t ∧
      (src.val ≠ 0 → t.power = s.power) ∧
      (∀ mv, src.val = 0 → vddio = some mv → t.power = { s.power with ramping := false, io33 := decide (2500 ≤ mv) }) ∧
      t = { s with regs := t.regs, power := t.power })) ∧
  (∀ s : State, ∃ t, exec (.resetAssert ⟨0, none⟩) s = .next t ∧ t.power.held = some (0, 0) ∧ t.power.ramping = true ∧ t.wh = {} ∧ t.hold = s.hold ∧
    (∀ f : Fld, f.key < 8 * 0x200100 ∨ 8 * 0x200160 ≤ f.key → t.rd f = f.reset) ∧ (∀ b, t.ballDrive b = rampDrive b) ∧
    exec .resetRelease t = .next t) ∧
  (∀ (v : Option Nat) (s : State), s.rd R.CU_STATE_JTAG ≠ 1 → exec (.resetAssert ⟨14, v⟩) s = .next s) ∧
  (∀ (v : Option Nat) (s : State), exec .thermalTrip s = exec (.resetAssert ⟨6, v⟩) s ∧ exec .brownOut s = exec (.resetAssert ⟨7, v⟩) s ∧
    exec .supplyFault s = exec (.resetAssert ⟨0, some s.freeNow⟩) s.nextFree ∧
    (s.runs → exec .warmResetWrite s = exec (.resetAssert ⟨8, v⟩) s ∧ exec .coldResetWrite s = exec (.resetAssert ⟨9, v⟩) s) ∧
    (s.runs → ∀ lev : Nat → Nat, (∀ k, lev k = min 1 (3 - s.rd (R.RS_LEVEL_V_s k))) →
      (∃ t, exec .thermalTrip s = .next t ∧ t.power.held = some (lev 6, 6) ∧ t.rd (R.RS_BAL_CNT_s_COUNT 6) = satAdd 16 (s.rd (R.RS_BAL_CNT_s_COUNT 6)) 1) ∧
      (∃ t, exec .brownOut s = .next t ∧ t.power.held = some (lev 7, 7) ∧ t.rd (R.RS_BAL_CNT_s_COUNT 7) = satAdd 16 (s.rd (R.RS_BAL_CNT_s_COUNT 7)) 1) ∧
      (∃ t, exec .warmResetWrite s = .next t ∧ t.power.held = some (lev 8, 8) ∧ t.rd (R.RS_BAL_CNT_s_COUNT 8) = satAdd 16 (s.rd (R.RS_BAL_CNT_s_COUNT 8)) 1) ∧
      (∃ t, exec .coldResetWrite s = .next t ∧ t.power.held = some (lev 9, 9) ∧ t.rd (R.RS_BAL_CNT_s_COUNT 9) = satAdd 16 (s.rd (R.RS_BAL_CNT_s_COUNT 9)) 1) ∧
      ∃ t, exec .supplyFault s = .next t ∧ t.power.held = some (lev 0, 0) ∧ t.rd (R.RS_BAL_CNT_s_COUNT 0) = satAdd 16 (s.rd (R.RS_BAL_CNT_s_COUNT 0)) 1)) ∧
  (∀ s : State, (s.power.held = none → exec .resetRelease s = .next s) ∧
    ∀ lev src, s.power.held = some (lev, src) → s.power.ramping = false → ∃ t, exec .resetRelease s = .next t ∧ t.power.held = none ∧ t.now = s.now ∧
      t.rd R.RS_LAST_LEVEL = low 2 lev ∧ t.rd R.RS_LAST_SRC = low 4 src ∧ t.rd R.RS_BAL_CAUSE_LEVEL = low 2 lev ∧ t.rd R.RS_BAL_CAUSE_SRC = low 4 src ∧
      t.rd R.RS_BAL_STAMP_LO_RTC_LO = low 32 s.rtc ∧ t.rd R.RS_BAL_STAMP_HI_RTC_HI = low 16 (s.rtc / 2 ^ 32) ∧
      t.rd R.RS_PIN_HOLD_HOLDING = (if s.power.holds.isEmpty then 0 else 1) ∧ t.rd R.RS_SAFE_STATUS_ILOCK_LOW = (if s.power.ilock.isSome then 1 else 0) ∧
      t.rd R.HB_LINK_STATUS_UP = 0x3FF ∧ t.rd R.HB_CLK_STATUS_LOCK = 0x7F ∧
      t.hold = s.hold ∧ t.charter = s.charter ∧ t.wh = s.wh ∧ t.pending = s.pending) ∧
  (∀ (domain : Fin 32) (s : State), s.runs →
    (1 ≤ domain.val → domain.val < 25 → s.rd (R.RS_LEVEL_V_s 10) = 1 → s.powered domain = true → ∃ t, exec (.domainResetWrite domain) s = .next t ∧
      t.power.held = none ∧ domain.val ∈ t.power.down ∧ domain.val ∉ t.power.trims ∧ t.rd R.RS_DOM_RST_DOMAIN = domain.val ∧
      t.rd (R.RS_BAL_CNT_s_COUNT 10) = satAdd 16 (s.rd (R.RS_BAL_CNT_s_COUNT 10)) 1 ∧ t.rd R.RS_LAST_LEVEL = 2 ∧ t.rd R.RS_LAST_SRC = 10 ∧
      (∀ f : Fld, 8 * (domainRegs domain).1 ≤ f.key → f.key < 8 * (domainRegs domain).2 → t.rd f = f.reset) ∧ t.now = s.now ∧
      t.landing = s.landing ∧ t.shed = s.shed ∧ t.hold = s.hold ∧ t.berths = s.berths) ∧
    (25 < domain.val → exec (.domainResetWrite domain) s = .next s) ∧
    (domain.val = 0 ∨ domain.val = 25 → s.rd (R.RS_LEVEL_V_s 10) = 1 → ∃ t, exec (.domainResetWrite domain) s = .next t ∧
      t.power.held = some (1, 10))) ∧
  (∀ (index : Fin 4096) (s : State), s.runs → s.rd (R.RS_LEVEL_V_s 12) = 0 → ∃ t, exec (.berthResetWrite index) s = .next t ∧
    t.rd (R.RS_BAL_CNT_s_COUNT 12) = satAdd 16 (s.rd (R.RS_BAL_CNT_s_COUNT 12)) 1 ∧ t.rd R.RS_BERTH_RST_INDEX = index.val ∧
    t.rd R.RS_LAST_LEVEL = 3 ∧ t.rd R.RS_LAST_SRC = 12 ∧ ((s.berth index).isOpen = true → Accepted (.berthReset index) s t) ∧
    ((s.berth index).isOpen = false → t.landing = s.landing) ∧ t = { s with regs := t.regs, landing := t.landing }) ∧
  (∀ (domain : Fin 26) (s : State), s.runs →
    (s.powered domain = false → exec (.lockTimeout domain) s = .next s) ∧
    (1 ≤ domain.val → domain.val < 25 → s.rd (R.RS_LEVEL_V_s 11) = 1 → s.powered domain = true → ∃ t, exec (.lockTimeout domain) s = .next t ∧
      bit (t.rd R.RS_LOCK_TMO_TMO) domain = true ∧ t.rd (R.RS_BAL_CNT_s_COUNT 11) = satAdd 16 (s.rd (R.RS_BAL_CNT_s_COUNT 11)) 1 ∧
      domain.val ∈ t.power.down ∧ t.power.held = none)) ∧
  ∀ (d : Fin 26) (s : State), s.runs →
    (d.val ∉ s.power.down ∨ s.powered d = false → exec (.domainReady d) s = .next s) ∧
    (d.val ∈ s.power.down → s.powered d = true →
      ((1 ≤ d.val ∧ d.val ≤ 16) ∨ d.val = 21 → s.rd R.CL_STATUS_LOADED = 1 → ∃ t, exec (.domainReady d) s = .next t ∧ d.val ∉ t.power.down ∧ d.val ∈ t.power.image ∧
        t = { s with power := t.power }) ∧
      ((17 ≤ d.val ∧ d.val ≤ 20) ∨ d.val = 23 → ∃ t, exec (.domainReady d) s = .next t ∧ d.val ∉ t.power.down ∧ d.val ∈ t.power.restore ∧
        t = { s with power := t.power }) ∧
      (d.val = 24 → s.rd R.CL_STATUS_LOADED = 1 → ∃ t, exec (.domainReady d) s = .next t ∧ d.val ∉ t.power.down ∧ t.rd R.WH_STATUS_TRAINING = 1))

/-- R22, R29, R30, R437, R442, R447, R484, R485: a watchdog write with EN starts its period, without it stops it, and a PERIOD outside its range is discarded; the right
key restarts it and its end is source 4; a power request is answered RANGE, BUSY or OK, and an accepted one waits to land; RELEASE ends every hold;
the RTC is staged low word first and written through the Ballast queue; when VBAT returns the Ballast's items are 0 but SEALCNT. -/
def Obligations.WatchdogPowerAndBallast : Prop :=
  ∀ s : State,
    (s.runs → s.power.wdtLeft = none → ∀ (v : Word) (per : Nat), per = bits v.toNat 0 24 →
      (bits v.toNat 31 1 = 1 → 1000 ≤ per → per ≤ 10000000 → ∃ t, exec (.watchdogCfgWrite v) s = .next t ∧
        t.power = { s.power with wdt := some (s.now + 1000 * per) } ∧ t.rd R.RS_WDT_CFG_EN = 1 ∧ t.rd R.RS_WDT_CFG_PERIOD = per ∧
        OnlyRegs [R.RS_WDT_CFG_EN, R.RS_WDT_CFG_PERIOD] s t ∧ t = { s with regs := t.regs, power := t.power }) ∧
      (bits v.toNat 31 1 = 0 → ∃ t, exec (.watchdogCfgWrite v) s = .next t ∧ t.power = { s.power with wdt := none } ∧ t.rd R.RS_WDT_CFG_EN = 0 ∧
        OnlyRegs [R.RS_WDT_CFG_EN, R.RS_WDT_CFG_PERIOD] s t ∧ t = { s with regs := t.regs, power := t.power }) ∧
      (per < 1000 ∨ 10000000 < per → ∃ t, exec (.watchdogCfgWrite v) s = .next t ∧ t.rd R.RS_WDT_CFG_PERIOD = s.rd R.RS_WDT_CFG_PERIOD)) ∧
    (s.runs → s.power.wdtLeft = none → ∀ key : Fin 256,
      (key.val = 0xA5 → s.rd R.RS_WDT_CFG_EN = 1 → exec (.watchdogKick key) s =
        .next { s with power := { s.power with wdt := some (s.now + 1000 * s.rd R.RS_WDT_CFG_PERIOD) } }) ∧
      (key.val ≠ 0xA5 ∨ s.rd R.RS_WDT_CFG_EN ≠ 1 → exec (.watchdogKick key) s = .next s)) ∧
    (s.runs → ∀ w, s.power.wdt = some w → (w < nextBoundary s.now → ∃ t, exec .watchdogExpire s = .next t ∧
        t.power.held = some (min 1 (3 - s.rd (R.RS_LEVEL_V_s 4)), 4) ∧ t.rd (R.RS_BAL_CNT_s_COUNT 4) = satAdd 16 (s.rd (R.RS_BAL_CNT_s_COUNT 4)) 1) ∧
      (nextBoundary s.now ≤ w → exec .watchdogExpire s = .next s)) ∧
    (s.runs → ∀ (d : Fin 32) (on : Bool),
      (d.val = 0 ∨ 25 ≤ d.val → ∃ t, exec (.powerRequest d on) s = .next t ∧ t.rd R.RS_PWR_STATUS_RESULT = stRange ∧
        OnlyRegs [R.RS_PWR_STATUS_RESULT] s t ∧ t = { s with regs := t.regs }) ∧
      (1 ≤ d.val → d.val < 25 → s.rd R.RS_PWR_STATUS_PENDING = 1 ∨ (on = false ∧ s.domainUsed d = true) →
        ∃ t, exec (.powerRequest d on) s = .next t ∧ t.rd R.RS_PWR_STATUS_RESULT = stBusy ∧ OnlyRegs [R.RS_PWR_STATUS_RESULT] s t ∧
          t = { s with regs := t.regs }) ∧
      (1 ≤ d.val → d.val < 25 → s.rd R.RS_PWR_STATUS_PENDING ≠ 1 → on = true ∨ s.domainUsed d = false →
        ∃ t, exec (.powerRequest d on) s = .next t ∧ t.rd R.RS_PWR_STATUS_RESULT = stOk ∧ t.rd R.RS_PWR_STATUS_PENDING = 1 ∧
          Accepted (.power d on) s t ∧ OnlyRegs ([R.RS_PWR_STATUS_RESULT, R.RS_PWR_STATUS_PENDING] ++ landFields) s t ∧
          t = { s with regs := t.regs, landing := t.landing })) ∧
    (s.runs → ∃ t, exec .pinHoldRelease s = .next t ∧ t.power = { s.power with holds := [] } ∧ t.rd R.RS_PIN_HOLD_HOLDING = 0 ∧
      OnlyRegs [R.RS_PIN_HOLD_HOLDING] s t ∧ t = { s with regs := t.regs, power := t.power }) ∧
    (s.runs → ∀ v : Word, exec (.rtcLoWrite v) s = .next { s with power := { s.power with rtcStaged := v.toNat } }) ∧
    (s.runs → ∀ v : BitVec 16,
      (s.ballast.length < 8 → exec (.rtcHiWrite v) s =
        .next { s with ballast := s.ballast ++ [(0x20015C, s.power.rtcStaged + 2 ^ 32 * v.toNat)] }) ∧
      (8 ≤ s.ballast.length → ∃ t, exec (.rtcHiWrite v) s = .next t ∧ t.rd R.HB_ERR_STATUS_BAL_WOVF = 1 ∧
        OnlyRegs [R.HB_ERR_STATUS_BAL_WOVF] s t ∧ t = { s with regs := t.regs })) ∧
    (s.power.vbat = true → exec .vbatReturn s = .next s ∧ ∃ t, exec .vbatLoss s = .next t ∧ t.power.vbat = false ∧ t.hold = s.hold ∧
      (∀ f : Fld, f.key < 8 * 0x200100 ∨ 8 * 0x200160 ≤ f.key → t.rd f = s.rd f) ∧ t = { s with regs := t.regs, power := t.power, free := t.free }) ∧
    (s.power.vbat = false → exec .vbatLoss s = .next s ∧ ∃ t, exec .vbatReturn s = .next t ∧ t.power.vbat = true ∧
      (∀ k, k < 16 → t.rd (R.RS_BAL_CNT_s_COUNT k) = 0) ∧ t.rd R.RS_BAL_CAUSE_LEVEL = 0 ∧ t.rd R.RS_BAL_CAUSE_SRC = 0 ∧
      t.rd R.RS_BAL_TRIM_ABORT_COUNT = 0 ∧ t.rd R.RS_BAL_SEALCNT_COUNT = low 32 s.life.mirror.1 ∧ t.life.sealed = s.life.mirror.2 ∧
      t.rd R.RS_BAL_STATUS_VBAT_LOST = 1 ∧ t.rd R.RS_BAL_STATUS_RTC_VALID = 0 ∧ t.rtc = 0 ∧
      (∀ f : Fld, f.key < 8 * 0x200100 ∨ 8 * 0x200160 ≤ f.key → t.rd f = s.rd f) ∧ t = { s with regs := t.regs, power := t.power, life := t.life })

/-- R439, R440, R441: KEY 0x5A, a high ILOCK_N and Tj at WARN engage a released latch, record their cause and take ARMED from every quay and port; a
latch that is engaged keeps its cause; SAFE_ARM releases it only with the trims valid, the manifest active, ILOCK_N low for 1 ms and not
rising, and Tj below WARN, and is otherwise refused with ARM_REFUSED. -/
def Obligations.SafetyLatchEngagesAndReleases : Prop :=
  ∀ s : State,
    (s.runs → s.rd R.RS_SAFE_STATUS_RELEASED = 1 → ∃ t, exec .safeEngage s = .next t ∧ t.rd R.RS_SAFE_STATUS_RELEASED = 0 ∧
      t.rd R.RS_SAFE_STATUS_CAUSE = 2 ∧ (∀ n, n < 8 → t.rd (R.QY_STATUS_ARMED n) = 0 ∧ t.rd (R.BC_m_STATUS_ARMED n) = 0) ∧ t.now = s.now) ∧
    (s.runs → s.rd R.RS_SAFE_STATUS_RELEASED ≠ 1 → exec .safeEngage s = .next s) ∧
    (s.rd R.RS_SAFE_STATUS_RELEASED = 1 → ∃ t, exec .ilockNHigh s = .next t ∧ t.rd R.RS_SAFE_STATUS_RELEASED = 0 ∧
      t.rd R.RS_SAFE_STATUS_CAUSE = 1 ∧ t.rd R.RS_SAFE_STATUS_ILOCK_LOW = 0 ∧ t.power.ilock = none ∧
      ∀ n, n < 8 → t.rd (R.QY_STATUS_ARMED n) = 0 ∧ t.rd (R.BC_m_STATUS_ARMED n) = 0) ∧
    (s.rd R.RS_SAFE_STATUS_RELEASED ≠ 1 → ∃ t, exec .ilockNHigh s = .next t ∧ t.power = { s.power with ilock := none } ∧
      OnlyRegs [R.RS_SAFE_STATUS_ILOCK_LOW] s t ∧ t = { s with regs := t.regs, power := t.power }) ∧
    (s.power.ilock.isSome = true → exec .ilockNLow s = .next s) ∧
    (s.power.ilock = none → ∃ t, exec .ilockNLow s = .next t ∧ t.power = { s.power with ilock := some s.now } ∧ t.rd R.RS_SAFE_STATUS_ILOCK_LOW = 1 ∧
      OnlyRegs [R.RS_SAFE_STATUS_ILOCK_LOW] s t ∧ t = { s with regs := t.regs, power := t.power }) ∧
    (s.runs → ∀ tj : Fin 256,
      (s.rd R.RS_THERM_WARN ≤ tj.val → s.rd R.RS_SAFE_STATUS_RELEASED = 1 → ∃ t, exec (.thermalWarn tj) s = .next t ∧
        t.rd R.RS_THERM_WARN_HIT = 1 ∧ t.rd R.RS_THERM_TEMP = tj.val ∧ t.rd R.RS_SAFE_STATUS_RELEASED = 0 ∧ t.rd R.RS_SAFE_STATUS_CAUSE = 3 ∧
        ∀ n, n < 8 → t.rd (R.QY_STATUS_ARMED n) = 0 ∧ t.rd (R.BC_m_STATUS_ARMED n) = 0) ∧
      (tj.val < s.rd R.RS_THERM_WARN → ∃ t, exec (.thermalWarn tj) s = .next t ∧ t.rd R.RS_THERM_TEMP = tj.val ∧
        OnlyRegs [R.RS_THERM_TEMP] s t ∧ t = { s with regs := t.regs })) ∧
    (s.runs → ∀ (tj : Fin 256) (rises : Bool),
      (s.rd R.CL_STATUS_LOADED ≠ 1 ∨ (∃ n, n < 8 ∧ s.powered (1 + n) = true ∧ (1 + n) ∉ s.power.trims) ∨ s.rd R.HB_MF_STATUS_STATE ≠ 3 ∨
          s.power.ilock = none ∨ (∃ i, s.power.ilock = some i ∧ (s.now : Int) < i + 1000000) ∨ rises = true ∨ s.rd R.RS_THERM_WARN ≤ tj.val →
        ∃ t, exec (.safeArm tj rises) s = .next t ∧ t.rd R.RS_SAFE_STATUS_ARM_REFUSED = 1 ∧ t.rd R.RS_THERM_TEMP = tj.val ∧
          t.rd R.RS_SAFE_STATUS_RELEASED = s.rd R.RS_SAFE_STATUS_RELEASED ∧ OnlyRegs [R.RS_SAFE_STATUS_ARM_REFUSED, R.RS_THERM_TEMP] s t ∧
          t = { s with regs := t.regs }) ∧
      (s.rd R.CL_STATUS_LOADED = 1 → (∀ n, n < 8 → s.powered (1 + n) = true → (1 + n) ∈ s.power.trims) → s.rd R.HB_MF_STATUS_STATE = 3 →
        (∃ i, s.power.ilock = some i ∧ i + 1000000 ≤ (s.now : Int)) → rises = false → tj.val < s.rd R.RS_THERM_WARN →
        s.rd R.RS_SAFE_STATUS_RELEASED ≠ 1 → ∃ t, exec (.safeArm tj rises) s = .next t ∧ t.rd R.RS_SAFE_STATUS_RELEASED = 1 ∧
          t.rd R.RS_SAFE_STATUS_ARM_REFUSED = s.rd R.RS_SAFE_STATUS_ARM_REFUSED ∧
          (∀ n, n < 8 → s.powered (1 + n) = true → t.rd (R.QY_STATUS_ARMED n) = 1 ∧
            t.rd (R.QY_STATUS_RUNNING n) = s.rd (R.QY_STATUS_RUNNING n)) ∧ t.now = s.now))

/-- R448, R449, R450, R454: FIT leaves DRYDOCK through a fused transition; SEAL is accepted only from the right state, with time and ledger ready and no such swap
pending, and otherwise sets ERR 7; a token that fails a step shows that step and has no effect; after RETURN and CONSENT, APPLY wipes the keys
and returns the device; GO blows a word in FITTING and FAIL shows a bit that stayed; a swap's firmware that is ready takes over, and one that is not
by 20 ms reverts at the next boundary. -/
def Obligations.LifeCycleAndFirmware : Prop :=
  ∀ s : State, s.runs →
    (s.rd R.CU_STATE_STATE = 0 → ∃ t, exec .fitWrite s = .next t ∧ t.life.word = 1 ∧
      t.power.held = some (min 1 (3 - s.rd (R.RS_LEVEL_V_s 13)), 13) ∧ t.hold = s.hold) ∧
    (s.rd R.CU_STATE_STATE ≠ 0 → exec .fitWrite s = .next s) ∧
    (s.rd R.CU_STATE_STATE = 2 → s.rd R.CU_STATUS_SEAL_PENDING ≠ 1 → s.rd R.HB_TIME_STATUS_VALID = 1 → s.rd R.LG_STATUS_READY = 1 →
      s.sealBlocked = false → ∃ t, exec .sealWrite s = .next t ∧ t.rd R.CU_STATUS_ERR = 0 ∧ t.rd R.CU_STATUS_SEAL_PENDING = 1 ∧
        Accepted (.seal true) s t ∧ OnlyRegs ([R.CU_STATUS_ERR, R.CU_STATUS_SEAL_PENDING] ++ landFields) s t ∧
        t = { s with regs := t.regs, landing := t.landing }) ∧
    (s.rd R.CU_STATE_STATE ≠ 2 ∨ s.rd R.CU_STATUS_SEAL_PENDING = 1 ∨ s.rd R.HB_TIME_STATUS_VALID ≠ 1 ∨ s.rd R.LG_STATUS_READY ≠ 1 ∨
      s.sealBlocked = true → ∃ t, exec .sealWrite s = .next t ∧ t.rd R.CU_STATUS_ERR = 7 ∧ OnlyRegs [R.CU_STATUS_ERR] s t ∧
        t = { s with regs := t.regs }) ∧
    (s.rd R.CU_STATUS_RETURN_OK ≠ 1 ∨ s.rd R.CU_STATUS_CONSENT_OK ≠ 1 →
      (bodyNat s.tokenBytes 0 2 ≠ 0x4E54 → ∃ t, exec .tokenApply s = .next t ∧ t.rd R.CU_STATUS_ERR = 1 ∧ OnlyRegs [R.CU_STATUS_ERR] s t ∧
        t = { s with regs := t.regs }) ∧
      (bodyNat s.tokenBytes 2 1 = 4 → ∃ t, exec .tokenApply s = .next t ∧ t.rd R.CU_STATUS_ERR = low 4 (s.tokenStep s.tokenBytes false) ∧
        (s.tokenStep s.tokenBytes false = 0 → t.rd R.CU_STATUS_RETURN_OK = 1) ∧
        (s.tokenStep s.tokenBytes false ≠ 0 → OnlyRegs [R.CU_STATUS_ERR] s t ∧ t = { s with regs := t.regs }) ∧
        OnlyRegs [R.CU_STATUS_ERR, R.CU_STATUS_RETURN_OK, R.CU_NONCE_LO_NONCE_LO, R.CU_NONCE_HI_NONCE_HI] s t ∧
        t = { s with regs := t.regs, free := t.free })) ∧
    (s.rd R.CU_STATUS_RETURN_OK = 1 → s.rd R.CU_STATUS_CONSENT_OK = 1 → ∃ t, exec .tokenApply s = .next t ∧ t.life.word = 4 ∧ t.ledger.key = 0 ∧
      t.power.held = some (min 1 (3 - s.rd (R.RS_LEVEL_V_s 13)), 13) ∧
      (∀ a, 0x10000 ≤ a → a < 0x70000 → Tab.get 0 t.hold a = 0) ∧
      ∀ a, (a < 0x10000 ∨ 0x70000 ≤ a) → Tab.get 0 t.hold a = Tab.get 0 s.hold a) ∧
    (∀ w, w = s.rd R.CU_PROG_ADDR_WORD →
      (s.rd R.CU_STATE_STATE = 1 → s.rd R.CU_PROG_STATUS_BUSY ≠ 1 → w < 2048 → ∃ t, exec .charterProgram s = .next t ∧
        (if Config.limitWord w then t = s else t.rd R.CU_PROG_STATUS_BUSY = 1 ∧
          t.life = { s.life with blow := some (w, s.rd R.CU_PROG_DATA_DATA) } ∧ OnlyRegs [R.CU_PROG_STATUS_BUSY] s t ∧
          t = { s with regs := t.regs, life := t.life })) ∧
      (s.rd R.CU_STATE_STATE ≠ 1 ∨ s.rd R.CU_PROG_STATUS_BUSY = 1 ∨ 2048 ≤ w → exec .charterProgram s = .next s)) ∧
    (∀ (a b : Word), (s.life.blow = none → exec (.charterProgramDone a b) s = .next s) ∧
      ∀ w v, s.life.blow = some (w, v) → w < 2048 → v < 2 ^ 32 → ∃ t, exec (.charterProgramDone a b) s = .next t ∧ t.life = { s.life with blow := none } ∧
        t.rd R.CU_PROG_STATUS_BUSY = 0 ∧ (a.toNat &&& v = v → b.toNat &&& v = v → t.rd R.CU_PROG_STATUS_FAIL = s.rd R.CU_PROG_STATUS_FAIL) ∧
        (leNat (t.charterBytes (4 * w) 4) &&& v ≠ v ∨ leNat (t.charterBytes (0x2000 + 4 * w) 4) &&& v ≠ v → t.rd R.CU_PROG_STATUS_FAIL = 1) ∧
        (∀ k, (k < 4 * w ∨ (4 * w + 4 ≤ k ∧ k < 0x2000 + 4 * w) ∨ 0x2000 + 4 * w + 4 ≤ k) → Tab.get 0 t.charter k = Tab.get 0 s.charter k) ∧
        (∀ k i : Nat, (Tab.get 0 s.charter k).getLsbD i = true → (Tab.get 0 t.charter k).getLsbD i = true) ∧
        OnlyRegs [R.CU_PROG_STATUS_BUSY, R.CU_PROG_STATUS_FAIL] s t ∧ t = { s with regs := t.regs, life := t.life, charter := t.charter }) ∧
    (s.fwSwap = none → (∀ ok, exec (.fwSwapReady ok) s = .next s) ∧ exec .fwSwapTimeout s = .next s) ∧
    ∀ (x : FwSwap) (b : Nat), s.fwSwap = some x → x.landed = some b → x.reverting = false →
      (s.now ≤ b + 20000000 → ∃ t, exec (.fwSwapReady true) s = .next t ∧ t.fwSwap = none ∧ t.rd R.MB_STATUS_FW_READY = 1 ∧
        t.rd R.MB_FW_VER_VERSION = low 32 x.new ∧ t.power.wdtLeft = none ∧
        (∀ k, s.power.wdtLeft = some (k + 1) → t.power.wdt = some (s.now + (k + 1))) ∧ t.landing = s.landing ∧
        (s.evtLost.1 = 0 → s.signQ.length < 256 → ∃ e, t.signQ = s.signQ ++ [e] ∧ e.code = 0x31 ∧ e.args = [x.old, x.new])) ∧
      (s.now ≤ b + 20000000 → exec (.fwSwapReady false) s =
        .next { s with fwSwap := some { x with reverting := true }, landing := s.landing ++ [⟨nextBoundary s.now, .fwRevert⟩] }) ∧
      (b + 20000000 < nextBoundary s.now → ∃ t, exec .fwSwapTimeout s = .next t ∧ t.now = max s.now (b + 20000000) ∧
        t.fwSwap = some { x with reverting := true } ∧ t.landing = s.landing ++ [⟨nextBoundary t.now, .fwRevert⟩] ∧
        t = { s with now := t.now, fwSwap := t.fwSwap, landing := t.landing })

/-- R36: a step takes the command at the front of the queue and answers what exec answers on the state with the rest of the queue; with an
empty queue the clock ticks by 1 ns unless a reset holds the device or a tide boundary is reached (the model's choice, log entry 1). -/
def Obligations.StepRunsFrontCommand : Prop :=
  (∀ (c : Instr) (rest : List Instr) (s : State), s.pending = c :: rest → step s = exec c { s with pending := rest }) ∧
  ∀ s : State, s.pending = [] →
    (s.runs → (s.now + 1) % 131072 ≠ 0 → step s = .next { s with now := s.now + 1 }) ∧
    (s.runs → (s.now + 1) % 131072 = 0 → step s = .next s) ∧ (¬s.runs → step s = .next s)

/-- R8, R24, R38: right after reset every register field reads the reset value of its table, device time is 0, no change waits to land, no
berth is open, no command waits, and the memories are in canonical form. -/
def Obligations.ResetState : Prop :=
  (∀ f : Fld, State.reset.rd f = f.reset) ∧ State.reset.now = 0 ∧ State.reset.landing = [] ∧ State.reset.berths = [] ∧
    State.reset.pending = [] ∧ State.reset.memoriesWf = true

/-- R37: the boundary at which a change accepted at t lands is a multiple of 2^17 ns, lies at least 16,384 ns after t, and no earlier
boundary does; an accepted change joins the landing list, last, with that boundary. -/
def Obligations.ChangesLandAtTheFirstBoundaryWithLead : Prop :=
  (∀ t : Nat, landAt t % 131072 = 0 ∧ t + 16384 ≤ landAt t ∧ ∀ b, b % 131072 = 0 → t + 16384 ≤ b → landAt t ≤ b) ∧
  ∀ (c : Change) (s : State), (s.accept c).landing = s.landing ++ [⟨landAt s.now, c⟩] ∧
    OnlyRegs [R.HB_LAND_LO_TIDE_LO, R.HB_LAND_HI_TIDE_HI] s (s.accept c) ∧
    s.accept c = { s with regs := (s.accept c).regs, landing := (s.accept c).landing }

/-- R338, R342, R446: from every state whose memories (the Shed with its parity record, the user NVM, the Charter and the Warehouse with its
records) are in canonical form, whatever commands wait, a step that answers a next state leaves them in canonical form. The form is the
model's own (no entry equal to what an unlisted address reads as), and it makes equal contents equal data. -/
def Obligations.EveryStepKeepsMemoriesCanonical : Prop :=
  ∀ s t : State, s.memoriesWf = true → step s = .next t → t.memoriesWf = true

/-- R448, R458: the Charter is one-time programmable: whatever command runs, from whatever state, a bit of the Charter that is 1 before a
step is 1 after it. -/
def Obligations.CharterBitsNeverClear : Prop :=
  ∀ s t : State, step s = .next t → ∀ a i : Nat, (Tab.get 0 s.charter a).getLsbD i = true → (Tab.get 0 t.charter a).getLsbD i = true

/-- R1, R8: no command that the spec lets be sent ends a run: exec of a well-formed command answers a next state from every state (the
faults of the spec are error answers, status bits and events of the next state). -/
def Obligations.WellFormedCommandsComplete : Prop :=
  ∀ (c : Instr) (s : State), c.wellFormed = true → ∃ t, exec c s = .next t

/-- R36: a command's effect leaves the queue of waiting commands as it is, so that commands run in the order in which they were sent (the
queue is the model's own field). -/
def Obligations.CommandsLeaveTheQueue : Prop :=
  ∀ (c : Instr) (s t : State), exec c s = .next t → t.pending = s.pending

/-- R433: while a reset of level L0 or L1 holds the device no block runs: every command but an assertion or release of a reset, a supply,
temperature or interlock event and the loss or return of VBAT leaves the state exactly as it is. -/
def Obligations.HeldDeviceIgnoresCommands : Prop :=
  ∀ (c : Instr) (s : State), ¬s.runs → c.wellFormed = true →
    (∀ x, c ≠ .resetAssert x) → c ≠ .resetRelease → c ≠ .thermalTrip → c ≠ .brownOut → c ≠ .supplyFault →
    c ≠ .ilockNHigh → c ≠ .ilockNLow → c ≠ .vbatLoss → c ≠ .vbatReturn → exec c s = .next s

/-- R345, R347: if each channel's write queue holds at most 64 blocks, all of them of that channel and written, then the same holds after
every step; and it holds right after reset. -/
def Obligations.WarehouseQueuesStayBounded : Prop :=
  (∀ s t : State, s.whQueuesOk → step s = .next t → t.whQueuesOk) ∧ State.reset.whQueuesOk
end

