-- ==== Sys2Proof/Laws/Tab.lean ====
section
/-! SUPPORT. The laws of sparse tables: read after write, and the canonical form that every operation keeps. -/

namespace Sys2Proof.Machine

variable {α : Type}

@[simp] theorem Tab.get_nil (d : α) (k : Nat) : Tab.get d [] k = d := rfl

theorem Tab.get_cons (d : α) (e : Nat × α) (t : Tab α) (k : Nat) : Tab.get d (e :: t) k = if e.1 = k then e.2 else Tab.get d t k := by
  cases e; rfl

theorem Tab.get_filter_key (d : α) (p : Nat → Bool) (t : Tab α) (k : Nat) :
    Tab.get d (t.filter (fun e => p e.1)) k = if p k then Tab.get d t k else d := by
  induction t with
  | nil => simp
  | cons e t ih =>
    by_cases hp : p e.1 <;> by_cases he : e.1 = k <;> simp_all [Tab.get_cons]

theorem Tab.get_erase_same (d : α) (t : Tab α) (k : Nat) : Tab.get d (Tab.erase t k) k = d := by
  simpa [Tab.erase] using Tab.get_filter_key d (fun i => i != k) t k

theorem Tab.get_erase_other (d : α) (t : Tab α) {k j : Nat} (h : k ≠ j) : Tab.get d (Tab.erase t k) j = Tab.get d t j := by
  have := Tab.get_filter_key d (fun i => i != k) t j
  simp_all [Tab.erase, Ne.symm h]

theorem Tab.get_insert_same (d : α) (t : Tab α) (k : Nat) (v : α) : Tab.get d (Tab.insert t k v) k = v := by
  induction t with
  | nil => simp [Tab.insert, Tab.get_cons]
  | cons e t ih =>
    obtain ⟨i, w⟩ := e
    simp only [Tab.insert]
    split_ifs <;> simp_all [Tab.get_cons]

theorem Tab.get_insert_other (d : α) (t : Tab α) {k j : Nat} (v : α) (h : k ≠ j) : Tab.get d (Tab.insert t k v) j = Tab.get d t j := by
  induction t with
  | nil => simp [Tab.insert, Tab.get_cons, h]
  | cons e t ih =>
    obtain ⟨i, w⟩ := e
    simp only [Tab.insert]
    split_ifs <;> simp_all [Tab.get_cons]

@[simp] theorem Tab.get_put_same [DecidableEq α] (d : α) (t : Tab α) (k : Nat) (v : α) : Tab.get d (Tab.put d t k v) k = v := by
  unfold Tab.put
  split_ifs with h
  · rw [Tab.get_erase_same, h]
  · exact Tab.get_insert_same ..

theorem Tab.get_put_other [DecidableEq α] (d e : α) (t : Tab α) {k j : Nat} (v : α) (h : k ≠ j) :
    Tab.get e (Tab.put d t k v) j = Tab.get e t j := by
  unfold Tab.put
  split_ifs
  · exact Tab.get_erase_other _ _ h
  · exact Tab.get_insert_other _ _ _ h

theorem Tab.get_put [DecidableEq α] (d : α) (t : Tab α) (k j : Nat) (v : α) :
    Tab.get d (Tab.put d t k v) j = if k = j then v else Tab.get d t j := by
  split_ifs with h
  · subst h; simp
  · exact Tab.get_put_other _ _ _ _ h

theorem Tab.get_clear (d : α) (t : Tab α) (a b k : Nat) :
    Tab.get d (Tab.clear t a b) k = if a ≤ k ∧ k < b then d else Tab.get d t k := by
  have h := Tab.get_filter_key d (fun i => i < a || b ≤ i) t k
  simp only [Tab.clear]
  rw [h]
  by_cases h1 : a ≤ k <;> by_cases h2 : k < b <;> simp [h1, h2]

theorem Tab.get_putList [DecidableEq α] (d : α) (vs : List α) : ∀ (t : Tab α) (k j : Nat),
    Tab.get d (Tab.putList d t k vs) j = if k ≤ j ∧ j < k + vs.length then vs.getD (j - k) d else Tab.get d t j := by
  induction vs with
  | nil =>
    intro t k j
    simp [Tab.putList]
  | cons v vs ih =>
    intro t k j
    simp only [Tab.putList, ih, List.length_cons, Tab.get_put]
    by_cases h1 : k = j
    · subst h1
      simp
    · by_cases h2 : k + 1 ≤ j ∧ j < k + 1 + vs.length
      · have h3 : k ≤ j ∧ j < k + (vs.length + 1) := by omega
        have e : j - k = (j - (k + 1)) + 1 := by omega
        rw [if_pos h2, if_pos h3, e, List.getD_cons_succ]
      · have h3 : ¬(k ≤ j ∧ j < k + (vs.length + 1)) := by omega
        rw [if_neg h2, if_neg h3, if_neg h1]

@[simp] theorem Tab.length_getList (d : α) (t : Tab α) (k n : Nat) : (Tab.getList d t k n).length = n := by
  induction n generalizing k with
  | zero => rfl
  | succ n ih => simp [Tab.getList, ih]

/-! The canonical form. -/

/-- The keys of a table all lie above `k`. -/
theorem Tab.sorted_cons (e : Nat × α) (t : Tab α) : Tab.sorted (e :: t) = true ↔ (∀ x ∈ t, e.1 < x.1) ∧ Tab.sorted t = true := by
  induction t generalizing e with
  | nil => simp [Tab.sorted]
  | cons b t ih =>
    simp only [Tab.sorted, Bool.and_eq_true, decide_eq_true_eq, List.mem_cons, forall_eq_or_imp]
    constructor
    · rintro ⟨h1, h2⟩
      exact ⟨⟨h1, fun x hx => lt_trans h1 (((ih b).mp h2).1 x hx)⟩, h2⟩
    · rintro ⟨⟨h1, _⟩, h2⟩
      exact ⟨h1, h2⟩

theorem Tab.sorted_filter (p : Nat × α → Bool) (t : Tab α) (h : Tab.sorted t = true) : Tab.sorted (t.filter p) = true := by
  induction t with
  | nil => rfl
  | cons e t ih =>
    rw [Tab.sorted_cons] at h
    simp only [List.filter_cons]
    split
    · rw [Tab.sorted_cons]
      exact ⟨fun x hx => h.1 x ((List.mem_filter.mp hx).1), ih h.2⟩
    · exact ih h.2

theorem Tab.mem_insert (t : Tab α) (k : Nat) (v : α) (x : Nat × α) (h : x ∈ Tab.insert t k v) : x = (k, v) ∨ x ∈ t := by
  induction t with
  | nil => simpa [Tab.insert] using h
  | cons e t ih =>
    obtain ⟨i, w⟩ := e
    simp only [Tab.insert] at h
    split_ifs at h <;> simp_all <;> tauto

theorem Tab.sorted_insert (t : Tab α) (k : Nat) (v : α) (h : Tab.sorted t = true) : Tab.sorted (Tab.insert t k v) = true := by
  induction t with
  | nil => rfl
  | cons e t ih =>
    obtain ⟨i, w⟩ := e
    have h' := (Tab.sorted_cons _ _).mp h
    simp only [Tab.insert]
    split_ifs with h1 h2
    · subst h1; exact (Tab.sorted_cons _ _).mpr h'
    · refine (Tab.sorted_cons _ _).mpr ⟨?_, h⟩
      intro x hx
      rcases List.mem_cons.mp hx with rfl | hx
      · exact h2
      · exact lt_trans h2 (h'.1 x hx)
    · refine (Tab.sorted_cons _ _).mpr ⟨?_, ih h'.2⟩
      intro x hx
      rcases Tab.mem_insert t k v x hx with rfl | hx
      · simp only; omega
      · exact h'.1 x hx

theorem Tab.wf_iff [DecidableEq α] (d : α) (t : Tab α) : Tab.wf d t = true ↔ Tab.sorted t = true ∧ ∀ e ∈ t, e.2 ≠ d := by
  simp [Tab.wf, bne_iff_ne]

@[simp] theorem Tab.wf_nil [DecidableEq α] (d : α) : Tab.wf d ([] : Tab α) = true := rfl

theorem Tab.wf_filter [DecidableEq α] (d : α) (p : Nat × α → Bool) (t : Tab α) (h : Tab.wf d t = true) : Tab.wf d (t.filter p) = true := by
  rw [Tab.wf_iff] at h ⊢
  exact ⟨Tab.sorted_filter p t h.1, fun e he => h.2 e ((List.mem_filter.mp he).1)⟩

theorem Tab.wf_put [DecidableEq α] (d : α) (t : Tab α) (k : Nat) (v : α) (h : Tab.wf d t = true) : Tab.wf d (Tab.put d t k v) = true := by
  unfold Tab.put
  split_ifs with hv
  · exact Tab.wf_filter d _ t h
  · rw [Tab.wf_iff] at h ⊢
    refine ⟨Tab.sorted_insert t k v h.1, fun e he => ?_⟩
    rcases Tab.mem_insert t k v e he with rfl | he
    · exact hv
    · exact h.2 e he

theorem Tab.wf_putList [DecidableEq α] (d : α) (vs : List α) : ∀ (t : Tab α) (k : Nat), Tab.wf d t = true → Tab.wf d (Tab.putList d t k vs) = true := by
  induction vs with
  | nil => intro t k h; exact h
  | cons v vs ih => intro t k h; exact ih _ _ (Tab.wf_put d t k v h)

theorem Tab.wf_clear [DecidableEq α] (d : α) (t : Tab α) (a b : Nat) (h : Tab.wf d t = true) : Tab.wf d (Tab.clear t a b) = true :=
  Tab.wf_filter d _ t h

end Sys2Proof.Machine
end

