-- ==== Sys2Proof/Laws/Reach.lean ====
section
/-! SUPPORT. The memories of the device and its command queue, and the only ways in which a meaning changes them. -/

namespace Sys2Proof.Machine

/-- The device's memories and its queue: the Shed with its parity, the Hold, the Charter, the Warehouse, the waiting commands. -/
structure Store where
  shed : Tab Byte
  shedBad : Tab Bool
  hold : Tab Byte
  charter : Tab Byte
  wh : Warehouse
  pending : List Instr

/-- The memories of a state. -/
def store (s : State) : Store := ⟨s.shed, s.shedBad, s.hold, s.charter, s.wh, s.pending⟩

/-- One memory operation after another leads from `a` to `b`: whole ranges of the Shed and the Hold are written or cleared, Charter
bits are blown, Warehouse blocks are written, touched or spoilt, and the Shed or the Warehouse loses all it holds. -/
inductive Reach (a : Store) : Store → Prop
  | refl : Reach a a
  | shedPut {b} (k : Nat) (bs : List Byte) : Reach a b → Reach a { b with shed := Tab.putList 0 b.shed k bs }
  | badPut {b} (k : Nat) (v : Bool) : Reach a b → Reach a { b with shedBad := Tab.put false b.shedBad k v }
  | shedClear {b} (i j k l : Nat) : Reach a b → Reach a { b with shed := Tab.clear b.shed i j, shedBad := Tab.clear b.shedBad k l }
  | shedLose {b} : Reach a b → Reach a { b with shed := [], shedBad := [] }
  | holdPut {b} (k : Nat) (bs : List Byte) : Reach a b → Reach a { b with hold := Tab.putList 0 b.hold k bs }
  | holdClear {b} (i j : Nat) : Reach a b → Reach a { b with hold := Tab.clear b.hold i j }
  | blow {b} (k : Nat) (v : Byte) : Reach a b → Reach a { b with charter := Tab.put 0 b.charter k (Tab.get 0 b.charter k ||| v) }
  | whPut {b} (k : Nat) (bs : List Byte) : Reach a b → Reach a { b with wh := b.wh.putBlock k bs }
  | whTouch {b} (page : Bool) (k : Nat) : Reach a b → Reach a { b with wh := b.wh.touch page k }
  | whBad {b} (k : Nat) : Reach a b → Reach a { b with wh := { b.wh with bad := Tab.put false b.wh.bad k true } }
  | whQueue {b} : Reach a b → Reach a { b with wh := { b.wh with queue := [] } }
  | whLose {b} : Reach a b → Reach a { b with wh := {} }

/-- What is reached from `a` in a meaning's answer: a next state whose memories are reached from `a`. -/
structure ReachRes (a : Store) (r : Res) : Prop where
  reach : ∀ t, r = .next t → Reach a (store t)

/-- An access that does not fault reaches its state's memories from `a`. -/
structure ReachEx (a : Store) (r : Except (Nat × Nat) State) : Prop where
  reach : ∀ t, r = .ok t → Reach a (store t)

theorem reach_eta {a : Store} {s : State} (h : Reach a (store s)) : Reach a ⟨s.shed, s.shedBad, s.hold, s.charter, s.wh, s.pending⟩ := h

theorem reach_of_eq {a : Store} {s t : State} (e : store t = store s) (h : Reach a (store s)) : Reach a (store t) := e ▸ h

theorem goOn_reach {a : Store} {s : State} (h : Reach a (store s)) : ReachRes a (goOn s) :=
  ⟨by rintro t ht; cases ht; exact h⟩

theorem next_reach {a : Store} {s : State} (h : Reach a (store s)) : ReachRes a (.next s) := goOn_reach h

theorem ok_reach {a : Store} {s : State} (h : Reach a (store s)) : ReachEx a (.ok s) :=
  ⟨by rintro t ht; cases ht; exact h⟩

theorem error_reach {a : Store} (x) : ReachEx a (.error x) := ⟨by rintro t ⟨⟩⟩

theorem ite_ex_reach {a : Store} {c : Prop} [Decidable c] {r u : Except (Nat × Nat) State} (hs : ReachEx a r) (ht : ReachEx a u) :
    ReachEx a (if c then r else u) := by split <;> assumption

theorem refused_reach {a : Store} (x : Refusal) : ReachRes a (.refused x) := ⟨by rintro t ⟨⟩⟩

theorem fault_reach {a : Store} (x : Fault) : ReachRes a (.fault x) := ⟨by rintro t ⟨⟩⟩

theorem State.live_reach {a : Store} {s : State} {f : State → Res} (h : Reach a (store s)) (hf : ∀ t, Reach a (store t) → ReachRes a (f t)) :
    ReachRes a (s.live f) := by
  unfold State.live
  split
  · exact goOn_reach h
  · exact hf s h

/-- A fold reaches what each of its steps reaches. -/
theorem foldl_reach {a : Store} {β : Type} {f : State → β → State} {l : List β} {s : State} (h : Reach a (store s))
    (hf : ∀ t x, Reach a (store t) → Reach a (store (f t x))) : Reach a (store (l.foldl f s)) := by
  induction l generalizing s with
  | nil => exact h
  | cons x l ih => exact ih (hf s x h)

/-- A fold over a state and a second part. -/
theorem foldl_fst_reach {a : Store} {β γ : Type} {f : State × γ → β → State × γ} {l : List β} {p : State × γ} (h : Reach a (store p.1))
    (hf : ∀ q x, Reach a (store q.1) → Reach a (store (f q x).1)) : Reach a (store (l.foldl f p).1) := by
  induction l generalizing p with
  | nil => exact h
  | cons x l ih => exact ih (hf p x h)

theorem ite_reach {a : Store} {c : Prop} [Decidable c] {s t : State} (hs : Reach a (store s)) (ht : Reach a (store t)) :
    Reach a (store (if c then s else t)) := by split <;> assumption

theorem ite_fst_reach {a : Store} {γ : Type} {c : Prop} [Decidable c] {p q : State × γ} (hs : Reach a (store p.1)) (ht : Reach a (store q.1)) :
    Reach a (store (if c then p else q).1) := by split <;> assumption

theorem ite_res_reach {a : Store} {c : Prop} [Decidable c] {r u : Res} (hs : ReachRes a r) (ht : ReachRes a u) :
    ReachRes a (if c then r else u) := by split <;> assumption

/-! The operations on the memories themselves. -/

theorem State.holdWrite_reach {a : Store} {s : State} (h : Reach a (store s)) (k bs) : Reach a (store (s.holdWrite k bs)) := h.holdPut k bs

theorem State.shedWritePart_reach {a : Store} {s : State} (h : Reach a (store s)) (k bs w) : Reach a (store (s.shedWritePart k bs w)) := by
  unfold State.shedWritePart
  dsimp only
  split
  · exact (h.shedPut _ _).badPut w false
  · split
    · exact h
    · exact h.shedPut _ _

theorem State.shedWrite_reach {a : Store} {s : State} (h : Reach a (store s)) (k bs) : Reach a (store (s.shedWrite k bs)) :=
  foldl_reach h (fun _ _ ht => State.shedWritePart_reach ht _ _ _)

theorem State.clearHist_reach {a : Store} {s : State} (h : Reach a (store s)) (l) : Reach a (store (s.clearHist l)) := h.shedClear _ _ _ _

theorem State.loseWarehouse_reach {a : Store} {s : State} (h : Reach a (store s)) : Reach a (store s.loseWarehouse) := h.whLose

theorem State.spoil_reach {a : Store} {s : State} (h : Reach a (store s)) (bs) : Reach a (store (s.spoil bs)) := by
  suffices H : ∀ (l : List Nat) (t : State), Reach a (store t) → Reach a (store { t with wh := { t.wh with bad :=
      (l.foldl (fun u b => if Tab.get false s.wh.written b then Tab.put false u b true else u) t.wh.bad) } }) from H bs s h
  intro l
  induction l with
  | nil => intro t ht; exact ht
  | cons x l ih =>
    intro t ht
    rw [List.foldl_cons]
    by_cases c : Tab.get false s.wh.written x = true
    · rw [if_pos c]
      exact ih { t with wh := { t.wh with bad := Tab.put false t.wh.bad x true } } (ht.whBad x)
    · rw [if_neg c]
      exact ih t ht

theorem State.nextFree_reach {a : Store} {s : State} (h : Reach a (store s)) : Reach a (store s.nextFree) := h

theorem State.wr_reach {a : Store} {s : State} (h : Reach a (store s)) (f v) : Reach a (store (s.wr f v)) := h

/-- Charges leave the memories as they are. -/
theorem State.chargeTo_store (s : State) (n o k) : store (s.chargeTo n o k) = store s := by
  unfold State.chargeTo
  split <;> rfl

theorem State.whCharge_store (s : State) (req n k) : store (s.whCharge req n k) = store s := by
  unfold State.whCharge State.chargeReserve
  rw [State.chargeTo_store]
  split <;> simp only [State.chargeTo_store]

theorem State.whWritePart_reach {a : Store} {s : State} (h : Reach a (store s)) (req k bs b) :
    Reach a (store (s.whWritePart req k bs b).1) := by
  unfold State.whWritePart
  dsimp only
  split
  · exact (h.whPut _ _).whTouch _ _
  · have hc : Reach a (store (s.chargeReserve req.cls 64)) := reach_of_eq (State.chargeTo_store ..) h
    split
    · split
      · exact (hc.whPut _ _).whTouch _ _
      · exact ((State.nextFree_reach hc).whPut _ _).whTouch _ _
    · exact hc.whTouch _ _

/-- Charter bits blown along a list of bytes. -/
theorem blow_ones {a : Store} : ∀ (bs : List Byte) (b : Store) (k : Nat), (∀ x ∈ bs, x = 255) → Reach a b →
    Reach a { b with charter := Tab.putList 0 b.charter k bs } := by
  intro bs
  induction bs with
  | nil => intro b k _ h; exact h
  | cons x bs ih =>
    intro b k hx h
    have h1 := h.blow k 255
    have e : ∀ x : Byte, x ||| 255 = 255 := by decide
    rw [e] at h1
    rw [hx x (by simp)]
    exact ih _ (k + 1) (fun y hy => hx y (by simp [hy])) h1

/-- A fold over the Charter reaches what each of its steps reaches. -/
theorem charter_foldl {a : Store} {f : Tab Byte → Nat → Tab Byte}
    (hf : ∀ (b : Store) (o : Nat), Reach a b → Reach a { b with charter := f b.charter o }) :
    ∀ (l : List Nat) (b : Store), Reach a b → Reach a { b with charter := l.foldl f b.charter } := by
  intro l
  induction l with
  | nil => intro b hb; exact hb
  | cons o l ih => intro b hb; exact ih _ (hf b o hb)

theorem slotOnes_reach {a : Store} (b : Store) (o : Nat) (h : Reach a b) : Reach a { b with charter := slotOnes b.charter o } := by
  unfold slotOnes
  generalize (charterPlace 2).1 + o = p
  generalize 0x2000 + (charterPlace 2).1 + o = q
  have hx : ∀ x ∈ List.replicate 64 (255 : Byte), x = 255 := fun x hx => List.eq_of_mem_replicate hx
  generalize List.replicate 64 (255 : Byte) = ones at hx
  exact blow_ones ones _ q hx (blow_ones ones b p hx h)

theorem State.wipe_reach {a : Store} {s : State} (h : Reach a (store s)) : Reach a (store s.wipe) :=
  (charter_foldl slotOnes_reach _ (store s) h).holdClear 0x10000 0x70000

theorem State.blowWord_reach {a : Store} {s : State} (h : Reach a (store s)) (c w v) : Reach a (store (s.blowWord c w v)) := by
  unfold State.blowWord
  exact charter_foldl (f := fun (t : Tab Byte) i => Tab.put 0 t (0x2000 * c + 4 * w + i)
    (Tab.get 0 t (0x2000 * c + 4 * w + i) ||| BitVec.ofNat 8 (bits v (8 * i) 8))) (fun _ _ hb => hb.blow _ _) (List.range 4) (store s) h

end Sys2Proof.Machine
end

