-- ==== Sys2Proof/Laws/Memory.lean ====
section
/-! SUPPORT. Every operation on the memories keeps their canonical form, and the memories of the state after reset have it. -/

namespace Sys2Proof.Machine

/-- The canonical form of the memories of a store: keys strictly rising, and no entry equal to what an unlisted key reads as. -/
def Store.wf (a : Store) : Bool :=
  Tab.wf 0 a.shed && Tab.wf false a.shedBad && Tab.wf 0 a.hold && Tab.wf 0 a.charter && Tab.wf 0 a.wh.bytes &&
    Tab.wf false a.wh.written && Tab.wf false a.wh.bad && Tab.wf [] a.wh.queue && Tab.wf 0 a.wh.check && Tab.wf none a.wh.rows

theorem State.memoriesWf_store (s : State) : s.memoriesWf = (store s).wf := rfl

theorem Store.wf_iff (a : Store) : a.wf = true ↔ Tab.wf 0 a.shed = true ∧ Tab.wf false a.shedBad = true ∧ Tab.wf 0 a.hold = true ∧
    Tab.wf 0 a.charter = true ∧ Tab.wf 0 a.wh.bytes = true ∧ Tab.wf false a.wh.written = true ∧ Tab.wf false a.wh.bad = true ∧
    Tab.wf [] a.wh.queue = true ∧ Tab.wf 0 a.wh.check = true ∧ Tab.wf none a.wh.rows = true := by simp [Store.wf, and_assoc]

/-- Each memory operation keeps the canonical form. -/
theorem Reach.wf {a b : Store} (h : Reach a b) (ha : a.wf = true) : b.wf = true := by
  induction h with
  | refl => exact ha
  | shedPut k bs _ ih => simp only [Store.wf_iff] at ih ⊢; exact ⟨Tab.wf_putList _ _ _ _ ih.1, ih.2⟩
  | badPut k v _ ih => simp only [Store.wf_iff] at ih ⊢; exact ⟨ih.1, Tab.wf_put _ _ _ _ ih.2.1, ih.2.2⟩
  | shedClear i j k l _ ih => simp only [Store.wf_iff] at ih ⊢; exact ⟨Tab.wf_clear _ _ _ _ ih.1, Tab.wf_clear _ _ _ _ ih.2.1, ih.2.2⟩
  | shedLose _ ih => simp only [Store.wf_iff] at ih ⊢; exact ⟨rfl, rfl, ih.2.2⟩
  | holdPut k bs _ ih => simp only [Store.wf_iff] at ih ⊢; exact ⟨ih.1, ih.2.1, Tab.wf_putList _ _ _ _ ih.2.2.1, ih.2.2.2⟩
  | holdClear i j _ ih => simp only [Store.wf_iff] at ih ⊢; exact ⟨ih.1, ih.2.1, Tab.wf_clear _ _ _ _ ih.2.2.1, ih.2.2.2⟩
  | blow k v _ ih => simp only [Store.wf_iff] at ih ⊢; exact ⟨ih.1, ih.2.1, ih.2.2.1, Tab.wf_put _ _ _ _ ih.2.2.2.1, ih.2.2.2.2⟩
  | whPut k bs _ ih =>
    obtain ⟨h1, h2, h3, h4, h5, h6, h7, h8, h9, h10⟩ := (Store.wf_iff _).1 ih
    simp only [Store.wf_iff, Warehouse.putBlock]
    exact ⟨h1, h2, h3, h4, Tab.wf_putList _ _ _ _ h5, Tab.wf_put _ _ _ _ h6, Tab.wf_put _ _ _ _ h7, Tab.wf_put _ _ _ _ h8,
      Tab.wf_put _ _ _ _ h9, h10⟩
  | whTouch page k _ ih =>
    obtain ⟨h1, h2, h3, h4, h5, h6, h7, h8, h9, h10⟩ := (Store.wf_iff _).1 ih
    simp only [Store.wf_iff, Warehouse.touch]
    exact ⟨h1, h2, h3, h4, h5, h6, h7, h8, h9, Tab.wf_put _ _ _ _ h10⟩
  | whBad k _ ih =>
    obtain ⟨h1, h2, h3, h4, h5, h6, h7, h8⟩ := (Store.wf_iff _).1 ih
    simp only [Store.wf_iff]
    exact ⟨h1, h2, h3, h4, h5, h6, Tab.wf_put _ _ _ _ h7, h8⟩
  | whQueue _ ih =>
    obtain ⟨h1, h2, h3, h4, h5, h6, h7, _, h9⟩ := (Store.wf_iff _).1 ih
    exact (Store.wf_iff _).2 ⟨h1, h2, h3, h4, h5, h6, h7, rfl, h9⟩
  | whLose _ ih =>
    obtain ⟨h1, h2, h3, h4, _⟩ := (Store.wf_iff _).1 ih
    exact (Store.wf_iff _).2 ⟨h1, h2, h3, h4, rfl, rfl, rfl, rfl, rfl, rfl⟩

/-- What follows, for every state, from a state whose memories are reached from those of another. -/
theorem memoriesWf_of_reach {s t : State} (h : Reach (store s) (store t)) (hs : s.memoriesWf = true) : t.memoriesWf = true := h.wf hs

end Sys2Proof.Machine
end

