-- ==== Sys2Proof/Laws/State.lean ====
section
/-! SUPPORT. For each update of the state, what it leaves in each field: one lemma per field and update. -/

namespace Sys2Proof.Machine

variable (s : State)

@[simp] theorem State.wr_now (f : Fld) (v : Nat) : (s.wr f v).now = s.now := rfl
@[simp] theorem State.wr_shadows (f : Fld) (v : Nat) : (s.wr f v).shadows = s.shadows := rfl
@[simp] theorem State.wr_completion (f : Fld) (v : Nat) : (s.wr f v).completion = s.completion := rfl
@[simp] theorem State.wr_free (f : Fld) (v : Nat) : (s.wr f v).free = s.free := rfl
@[simp] theorem State.wr_shed (f : Fld) (v : Nat) : (s.wr f v).shed = s.shed := rfl
@[simp] theorem State.wr_shedBad (f : Fld) (v : Nat) : (s.wr f v).shedBad = s.shedBad := rfl
@[simp] theorem State.wr_links (f : Fld) (v : Nat) : (s.wr f v).links = s.links := rfl
@[simp] theorem State.wr_pllLost (f : Fld) (v : Nat) : (s.wr f v).pllLost = s.pllLost := rfl
@[simp] theorem State.wr_gaps (f : Fld) (v : Nat) : (s.wr f v).gaps = s.gaps := rfl
@[simp] theorem State.wr_ballast (f : Fld) (v : Nat) : (s.wr f v).ballast = s.ballast := rfl
@[simp] theorem State.wr_landing (f : Fld) (v : Nat) : (s.wr f v).landing = s.landing := rfl
@[simp] theorem State.wr_rate (f : Fld) (v : Nat) : (s.wr f v).rate = s.rate := rfl
@[simp] theorem State.wr_berths (f : Fld) (v : Nat) : (s.wr f v).berths = s.berths := rfl
@[simp] theorem State.wr_coming (f : Fld) (v : Nat) : (s.wr f v).coming = s.coming := rfl
@[simp] theorem State.wr_gens (f : Fld) (v : Nat) : (s.wr f v).gens = s.gens := rfl
@[simp] theorem State.wr_closedOrder (f : Fld) (v : Nat) : (s.wr f v).closedOrder = s.closedOrder := rfl
@[simp] theorem State.wr_carried (f : Fld) (v : Nat) : (s.wr f v).carried = s.carried := rfl
@[simp] theorem State.wr_work (f : Fld) (v : Nat) : (s.wr f v).work = s.work := rfl
@[simp] theorem State.wr_late (f : Fld) (v : Nat) : (s.wr f v).late = s.late := rfl
@[simp] theorem State.wr_cutWork (f : Fld) (v : Nat) : (s.wr f v).cutWork = s.cutWork := rfl
@[simp] theorem State.wr_mfCheck (f : Fld) (v : Nat) : (s.wr f v).mfCheck = s.mfCheck := rfl
@[simp] theorem State.wr_mfPending (f : Fld) (v : Nat) : (s.wr f v).mfPending = s.mfPending := rfl
@[simp] theorem State.wr_mfActive (f : Fld) (v : Nat) : (s.wr f v).mfActive = s.mfActive := rfl
@[simp] theorem State.wr_slotOrder (f : Fld) (v : Nat) : (s.wr f v).slotOrder = s.slotOrder := rfl
@[simp] theorem State.wr_rings (f : Fld) (v : Nat) : (s.wr f v).rings = s.rings := rfl
@[simp] theorem State.wr_quays (f : Fld) (v : Nat) : (s.wr f v).quays = s.quays := rfl
@[simp] theorem State.wr_rx (f : Fld) (v : Nat) : (s.wr f v).rx = s.rx := rfl
@[simp] theorem State.wr_routes (f : Fld) (v : Nat) : (s.wr f v).routes = s.routes := rfl
@[simp] theorem State.wr_replayQ (f : Fld) (v : Nat) : (s.wr f v).replayQ = s.replayQ := rfl
@[simp] theorem State.wr_replaying (f : Fld) (v : Nat) : (s.wr f v).replaying = s.replaying := rfl
@[simp] theorem State.wr_das (f : Fld) (v : Nat) : (s.wr f v).das = s.das := rfl
@[simp] theorem State.wr_tileWrites (f : Fld) (v : Nat) : (s.wr f v).tileWrites = s.tileWrites := rfl
@[simp] theorem State.wr_dasComing (f : Fld) (v : Nat) : (s.wr f v).dasComing = s.dasComing := rfl
@[simp] theorem State.wr_flow (f : Fld) (v : Nat) : (s.wr f v).flow = s.flow := rfl
@[simp] theorem State.wr_flowComing (f : Fld) (v : Nat) : (s.wr f v).flowComing = s.flowComing := rfl
@[simp] theorem State.wr_samples (f : Fld) (v : Nat) : (s.wr f v).samples = s.samples := rfl
@[simp] theorem State.wr_traces (f : Fld) (v : Nat) : (s.wr f v).traces = s.traces := rfl
@[simp] theorem State.wr_hold (f : Fld) (v : Nat) : (s.wr f v).hold = s.hold := rfl
@[simp] theorem State.wr_ledger (f : Fld) (v : Nat) : (s.wr f v).ledger = s.ledger := rfl
@[simp] theorem State.wr_sent (f : Fld) (v : Nat) : (s.wr f v).sent = s.sent := rfl
@[simp] theorem State.wr_signQ (f : Fld) (v : Nat) : (s.wr f v).signQ = s.signQ := rfl
@[simp] theorem State.wr_evtLost (f : Fld) (v : Nat) : (s.wr f v).evtLost = s.evtLost := rfl
@[simp] theorem State.wr_lanes (f : Fld) (v : Nat) : (s.wr f v).lanes = s.lanes := rfl
@[simp] theorem State.wr_fifos (f : Fld) (v : Nat) : (s.wr f v).fifos = s.fifos := rfl
@[simp] theorem State.wr_raman (f : Fld) (v : Nat) : (s.wr f v).raman = s.raman := rfl
@[simp] theorem State.wr_ports (f : Fld) (v : Nat) : (s.wr f v).ports = s.ports := rfl
@[simp] theorem State.wr_ranging (f : Fld) (v : Nat) : (s.wr f v).ranging = s.ranging := rfl
@[simp] theorem State.wr_byb (f : Fld) (v : Nat) : (s.wr f v).byb = s.byb := rfl
@[simp] theorem State.wr_snd (f : Fld) (v : Nat) : (s.wr f v).snd = s.snd := rfl
@[simp] theorem State.wr_sounding (f : Fld) (v : Nat) : (s.wr f v).sounding = s.sounding := rfl
@[simp] theorem State.wr_watches (f : Fld) (v : Nat) : (s.wr f v).watches = s.watches := rfl
@[simp] theorem State.wr_cores (f : Fld) (v : Nat) : (s.wr f v).cores = s.cores := rfl
@[simp] theorem State.wr_clusters (f : Fld) (v : Nat) : (s.wr f v).clusters = s.clusters := rfl
@[simp] theorem State.wr_wh (f : Fld) (v : Nat) : (s.wr f v).wh = s.wh := rfl
@[simp] theorem State.wr_whDone (f : Fld) (v : Nat) : (s.wr f v).whDone = s.whDone := rfl
@[simp] theorem State.wr_tugs (f : Fld) (v : Nat) : (s.wr f v).tugs = s.tugs := rfl
@[simp] theorem State.wr_draining (f : Fld) (v : Nat) : (s.wr f v).draining = s.draining := rfl
@[simp] theorem State.wr_toHost (f : Fld) (v : Nat) : (s.wr f v).toHost = s.toHost := rfl
@[simp] theorem State.wr_signalled (f : Fld) (v : Nat) : (s.wr f v).signalled = s.signalled := rfl
@[simp] theorem State.wr_packs (f : Fld) (v : Nat) : (s.wr f v).packs = s.packs := rfl
@[simp] theorem State.wr_packUsed (f : Fld) (v : Nat) : (s.wr f v).packUsed = s.packUsed := rfl
@[simp] theorem State.wr_streams (f : Fld) (v : Nat) : (s.wr f v).streams = s.streams := rfl
@[simp] theorem State.wr_exportCost (f : Fld) (v : Nat) : (s.wr f v).exportCost = s.exportCost := rfl
@[simp] theorem State.wr_exportDue (f : Fld) (v : Nat) : (s.wr f v).exportDue = s.exportDue := rfl
@[simp] theorem State.wr_stamps (f : Fld) (v : Nat) : (s.wr f v).stamps = s.stamps := rfl
@[simp] theorem State.wr_hawser (f : Fld) (v : Nat) : (s.wr f v).hawser = s.hawser := rfl
@[simp] theorem State.wr_calActive (f : Fld) (v : Nat) : (s.wr f v).calActive = s.calActive := rfl
@[simp] theorem State.wr_quayTrims (f : Fld) (v : Nat) : (s.wr f v).quayTrims = s.quayTrims := rfl
@[simp] theorem State.wr_taps (f : Fld) (v : Nat) : (s.wr f v).taps = s.taps := rfl
@[simp] theorem State.wr_calSel (f : Fld) (v : Nat) : (s.wr f v).calSel = s.calSel := rfl
@[simp] theorem State.wr_calWaiting (f : Fld) (v : Nat) : (s.wr f v).calWaiting = s.calWaiting := rfl
@[simp] theorem State.wr_calDone (f : Fld) (v : Nat) : (s.wr f v).calDone = s.calDone := rfl
@[simp] theorem State.wr_charter (f : Fld) (v : Nat) : (s.wr f v).charter = s.charter := rfl
@[simp] theorem State.wr_power (f : Fld) (v : Nat) : (s.wr f v).power = s.power := rfl
@[simp] theorem State.wr_life (f : Fld) (v : Nat) : (s.wr f v).life = s.life := rfl
@[simp] theorem State.wr_fwSwap (f : Fld) (v : Nat) : (s.wr f v).fwSwap = s.fwSwap := rfl
@[simp] theorem State.wr_ledgerVer (f : Fld) (v : Nat) : (s.wr f v).ledgerVer = s.ledgerVer := rfl
@[simp] theorem State.wr_bootLen (f : Fld) (v : Nat) : (s.wr f v).bootLen = s.bootLen := rfl
@[simp] theorem State.wr_pending (f : Fld) (v : Nat) : (s.wr f v).pending = s.pending := rfl

@[simp] theorem State.wrB_now (f : Fld) (b : Bool) : (s.wrB f b).now = s.now := rfl
@[simp] theorem State.wrB_shadows (f : Fld) (b : Bool) : (s.wrB f b).shadows = s.shadows := rfl
@[simp] theorem State.wrB_completion (f : Fld) (b : Bool) : (s.wrB f b).completion = s.completion := rfl
@[simp] theorem State.wrB_free (f : Fld) (b : Bool) : (s.wrB f b).free = s.free := rfl
@[simp] theorem State.wrB_shed (f : Fld) (b : Bool) : (s.wrB f b).shed = s.shed := rfl
@[simp] theorem State.wrB_shedBad (f : Fld) (b : Bool) : (s.wrB f b).shedBad = s.shedBad := rfl
@[simp] theorem State.wrB_links (f : Fld) (b : Bool) : (s.wrB f b).links = s.links := rfl
@[simp] theorem State.wrB_pllLost (f : Fld) (b : Bool) : (s.wrB f b).pllLost = s.pllLost := rfl
@[simp] theorem State.wrB_gaps (f : Fld) (b : Bool) : (s.wrB f b).gaps = s.gaps := rfl
@[simp] theorem State.wrB_ballast (f : Fld) (b : Bool) : (s.wrB f b).ballast = s.ballast := rfl
@[simp] theorem State.wrB_landing (f : Fld) (b : Bool) : (s.wrB f b).landing = s.landing := rfl
@[simp] theorem State.wrB_rate (f : Fld) (b : Bool) : (s.wrB f b).rate = s.rate := rfl
@[simp] theorem State.wrB_berths (f : Fld) (b : Bool) : (s.wrB f b).berths = s.berths := rfl
@[simp] theorem State.wrB_coming (f : Fld) (b : Bool) : (s.wrB f b).coming = s.coming := rfl
@[simp] theorem State.wrB_gens (f : Fld) (b : Bool) : (s.wrB f b).gens = s.gens := rfl
@[simp] theorem State.wrB_closedOrder (f : Fld) (b : Bool) : (s.wrB f b).closedOrder = s.closedOrder := rfl
@[simp] theorem State.wrB_carried (f : Fld) (b : Bool) : (s.wrB f b).carried = s.carried := rfl
@[simp] theorem State.wrB_work (f : Fld) (b : Bool) : (s.wrB f b).work = s.work := rfl
@[simp] theorem State.wrB_late (f : Fld) (b : Bool) : (s.wrB f b).late = s.late := rfl
@[simp] theorem State.wrB_cutWork (f : Fld) (b : Bool) : (s.wrB f b).cutWork = s.cutWork := rfl
@[simp] theorem State.wrB_mfCheck (f : Fld) (b : Bool) : (s.wrB f b).mfCheck = s.mfCheck := rfl
@[simp] theorem State.wrB_mfPending (f : Fld) (b : Bool) : (s.wrB f b).mfPending = s.mfPending := rfl
@[simp] theorem State.wrB_mfActive (f : Fld) (b : Bool) : (s.wrB f b).mfActive = s.mfActive := rfl
@[simp] theorem State.wrB_slotOrder (f : Fld) (b : Bool) : (s.wrB f b).slotOrder = s.slotOrder := rfl
@[simp] theorem State.wrB_rings (f : Fld) (b : Bool) : (s.wrB f b).rings = s.rings := rfl
@[simp] theorem State.wrB_quays (f : Fld) (b : Bool) : (s.wrB f b).quays = s.quays := rfl
@[simp] theorem State.wrB_rx (f : Fld) (b : Bool) : (s.wrB f b).rx = s.rx := rfl
@[simp] theorem State.wrB_routes (f : Fld) (b : Bool) : (s.wrB f b).routes = s.routes := rfl
@[simp] theorem State.wrB_replayQ (f : Fld) (b : Bool) : (s.wrB f b).replayQ = s.replayQ := rfl
@[simp] theorem State.wrB_replaying (f : Fld) (b : Bool) : (s.wrB f b).replaying = s.replaying := rfl
@[simp] theorem State.wrB_das (f : Fld) (b : Bool) : (s.wrB f b).das = s.das := rfl
@[simp] theorem State.wrB_tileWrites (f : Fld) (b : Bool) : (s.wrB f b).tileWrites = s.tileWrites := rfl
@[simp] theorem State.wrB_dasComing (f : Fld) (b : Bool) : (s.wrB f b).dasComing = s.dasComing := rfl
@[simp] theorem State.wrB_flow (f : Fld) (b : Bool) : (s.wrB f b).flow = s.flow := rfl
@[simp] theorem State.wrB_flowComing (f : Fld) (b : Bool) : (s.wrB f b).flowComing = s.flowComing := rfl
@[simp] theorem State.wrB_samples (f : Fld) (b : Bool) : (s.wrB f b).samples = s.samples := rfl
@[simp] theorem State.wrB_traces (f : Fld) (b : Bool) : (s.wrB f b).traces = s.traces := rfl
@[simp] theorem State.wrB_hold (f : Fld) (b : Bool) : (s.wrB f b).hold = s.hold := rfl
@[simp] theorem State.wrB_ledger (f : Fld) (b : Bool) : (s.wrB f b).ledger = s.ledger := rfl
@[simp] theorem State.wrB_sent (f : Fld) (b : Bool) : (s.wrB f b).sent = s.sent := rfl
@[simp] theorem State.wrB_signQ (f : Fld) (b : Bool) : (s.wrB f b).signQ = s.signQ := rfl
@[simp] theorem State.wrB_evtLost (f : Fld) (b : Bool) : (s.wrB f b).evtLost = s.evtLost := rfl
@[simp] theorem State.wrB_lanes (f : Fld) (b : Bool) : (s.wrB f b).lanes = s.lanes := rfl
@[simp] theorem State.wrB_fifos (f : Fld) (b : Bool) : (s.wrB f b).fifos = s.fifos := rfl
@[simp] theorem State.wrB_raman (f : Fld) (b : Bool) : (s.wrB f b).raman = s.raman := rfl
@[simp] theorem State.wrB_ports (f : Fld) (b : Bool) : (s.wrB f b).ports = s.ports := rfl
@[simp] theorem State.wrB_ranging (f : Fld) (b : Bool) : (s.wrB f b).ranging = s.ranging := rfl
@[simp] theorem State.wrB_byb (f : Fld) (b : Bool) : (s.wrB f b).byb = s.byb := rfl
@[simp] theorem State.wrB_snd (f : Fld) (b : Bool) : (s.wrB f b).snd = s.snd := rfl
@[simp] theorem State.wrB_sounding (f : Fld) (b : Bool) : (s.wrB f b).sounding = s.sounding := rfl
@[simp] theorem State.wrB_watches (f : Fld) (b : Bool) : (s.wrB f b).watches = s.watches := rfl
@[simp] theorem State.wrB_cores (f : Fld) (b : Bool) : (s.wrB f b).cores = s.cores := rfl
@[simp] theorem State.wrB_clusters (f : Fld) (b : Bool) : (s.wrB f b).clusters = s.clusters := rfl
@[simp] theorem State.wrB_wh (f : Fld) (b : Bool) : (s.wrB f b).wh = s.wh := rfl
@[simp] theorem State.wrB_whDone (f : Fld) (b : Bool) : (s.wrB f b).whDone = s.whDone := rfl
@[simp] theorem State.wrB_tugs (f : Fld) (b : Bool) : (s.wrB f b).tugs = s.tugs := rfl
@[simp] theorem State.wrB_draining (f : Fld) (b : Bool) : (s.wrB f b).draining = s.draining := rfl
@[simp] theorem State.wrB_toHost (f : Fld) (b : Bool) : (s.wrB f b).toHost = s.toHost := rfl
@[simp] theorem State.wrB_signalled (f : Fld) (b : Bool) : (s.wrB f b).signalled = s.signalled := rfl
@[simp] theorem State.wrB_packs (f : Fld) (b : Bool) : (s.wrB f b).packs = s.packs := rfl
@[simp] theorem State.wrB_packUsed (f : Fld) (b : Bool) : (s.wrB f b).packUsed = s.packUsed := rfl
@[simp] theorem State.wrB_streams (f : Fld) (b : Bool) : (s.wrB f b).streams = s.streams := rfl
@[simp] theorem State.wrB_exportCost (f : Fld) (b : Bool) : (s.wrB f b).exportCost = s.exportCost := rfl
@[simp] theorem State.wrB_exportDue (f : Fld) (b : Bool) : (s.wrB f b).exportDue = s.exportDue := rfl
@[simp] theorem State.wrB_stamps (f : Fld) (b : Bool) : (s.wrB f b).stamps = s.stamps := rfl
@[simp] theorem State.wrB_hawser (f : Fld) (b : Bool) : (s.wrB f b).hawser = s.hawser := rfl
@[simp] theorem State.wrB_calActive (f : Fld) (b : Bool) : (s.wrB f b).calActive = s.calActive := rfl
@[simp] theorem State.wrB_quayTrims (f : Fld) (b : Bool) : (s.wrB f b).quayTrims = s.quayTrims := rfl
@[simp] theorem State.wrB_taps (f : Fld) (b : Bool) : (s.wrB f b).taps = s.taps := rfl
@[simp] theorem State.wrB_calSel (f : Fld) (b : Bool) : (s.wrB f b).calSel = s.calSel := rfl
@[simp] theorem State.wrB_calWaiting (f : Fld) (b : Bool) : (s.wrB f b).calWaiting = s.calWaiting := rfl
@[simp] theorem State.wrB_calDone (f : Fld) (b : Bool) : (s.wrB f b).calDone = s.calDone := rfl
@[simp] theorem State.wrB_charter (f : Fld) (b : Bool) : (s.wrB f b).charter = s.charter := rfl
@[simp] theorem State.wrB_power (f : Fld) (b : Bool) : (s.wrB f b).power = s.power := rfl
@[simp] theorem State.wrB_life (f : Fld) (b : Bool) : (s.wrB f b).life = s.life := rfl
@[simp] theorem State.wrB_fwSwap (f : Fld) (b : Bool) : (s.wrB f b).fwSwap = s.fwSwap := rfl
@[simp] theorem State.wrB_ledgerVer (f : Fld) (b : Bool) : (s.wrB f b).ledgerVer = s.ledgerVer := rfl
@[simp] theorem State.wrB_bootLen (f : Fld) (b : Bool) : (s.wrB f b).bootLen = s.bootLen := rfl
@[simp] theorem State.wrB_pending (f : Fld) (b : Bool) : (s.wrB f b).pending = s.pending := rfl

@[simp] theorem State.wrBit_now (f : Fld) (i : Nat) (b : Bool) : (s.wrBit f i b).now = s.now := rfl
@[simp] theorem State.wrBit_shadows (f : Fld) (i : Nat) (b : Bool) : (s.wrBit f i b).shadows = s.shadows := rfl
@[simp] theorem State.wrBit_completion (f : Fld) (i : Nat) (b : Bool) : (s.wrBit f i b).completion = s.completion := rfl
@[simp] theorem State.wrBit_free (f : Fld) (i : Nat) (b : Bool) : (s.wrBit f i b).free = s.free := rfl
@[simp] theorem State.wrBit_shed (f : Fld) (i : Nat) (b : Bool) : (s.wrBit f i b).shed = s.shed := rfl
@[simp] theorem State.wrBit_shedBad (f : Fld) (i : Nat) (b : Bool) : (s.wrBit f i b).shedBad = s.shedBad := rfl
@[simp] theorem State.wrBit_links (f : Fld) (i : Nat) (b : Bool) : (s.wrBit f i b).links = s.links := rfl
@[simp] theorem State.wrBit_pllLost (f : Fld) (i : Nat) (b : Bool) : (s.wrBit f i b).pllLost = s.pllLost := rfl
@[simp] theorem State.wrBit_gaps (f : Fld) (i : Nat) (b : Bool) : (s.wrBit f i b).gaps = s.gaps := rfl
@[simp] theorem State.wrBit_ballast (f : Fld) (i : Nat) (b : Bool) : (s.wrBit f i b).ballast = s.ballast := rfl
@[simp] theorem State.wrBit_landing (f : Fld) (i : Nat) (b : Bool) : (s.wrBit f i b).landing = s.landing := rfl
@[simp] theorem State.wrBit_rate (f : Fld) (i : Nat) (b : Bool) : (s.wrBit f i b).rate = s.rate := rfl
@[simp] theorem State.wrBit_berths (f : Fld) (i : Nat) (b : Bool) : (s.wrBit f i b).berths = s.berths := rfl
@[simp] theorem State.wrBit_coming (f : Fld) (i : Nat) (b : Bool) : (s.wrBit f i b).coming = s.coming := rfl
@[simp] theorem State.wrBit_gens (f : Fld) (i : Nat) (b : Bool) : (s.wrBit f i b).gens = s.gens := rfl
@[simp] theorem State.wrBit_closedOrder (f : Fld) (i : Nat) (b : Bool) : (s.wrBit f i b).closedOrder = s.closedOrder := rfl
@[simp] theorem State.wrBit_carried (f : Fld) (i : Nat) (b : Bool) : (s.wrBit f i b).carried = s.carried := rfl
@[simp] theorem State.wrBit_work (f : Fld) (i : Nat) (b : Bool) : (s.wrBit f i b).work = s.work := rfl
@[simp] theorem State.wrBit_late (f : Fld) (i : Nat) (b : Bool) : (s.wrBit f i b).late = s.late := rfl
@[simp] theorem State.wrBit_cutWork (f : Fld) (i : Nat) (b : Bool) : (s.wrBit f i b).cutWork = s.cutWork := rfl
@[simp] theorem State.wrBit_mfCheck (f : Fld) (i : Nat) (b : Bool) : (s.wrBit f i b).mfCheck = s.mfCheck := rfl
@[simp] theorem State.wrBit_mfPending (f : Fld) (i : Nat) (b : Bool) : (s.wrBit f i b).mfPending = s.mfPending := rfl
@[simp] theorem State.wrBit_mfActive (f : Fld) (i : Nat) (b : Bool) : (s.wrBit f i b).mfActive = s.mfActive := rfl
@[simp] theorem State.wrBit_slotOrder (f : Fld) (i : Nat) (b : Bool) : (s.wrBit f i b).slotOrder = s.slotOrder := rfl
@[simp] theorem State.wrBit_rings (f : Fld) (i : Nat) (b : Bool) : (s.wrBit f i b).rings = s.rings := rfl
@[simp] theorem State.wrBit_quays (f : Fld) (i : Nat) (b : Bool) : (s.wrBit f i b).quays = s.quays := rfl
@[simp] theorem State.wrBit_rx (f : Fld) (i : Nat) (b : Bool) : (s.wrBit f i b).rx = s.rx := rfl
@[simp] theorem State.wrBit_routes (f : Fld) (i : Nat) (b : Bool) : (s.wrBit f i b).routes = s.routes := rfl
@[simp] theorem State.wrBit_replayQ (f : Fld) (i : Nat) (b : Bool) : (s.wrBit f i b).replayQ = s.replayQ := rfl
@[simp] theorem State.wrBit_replaying (f : Fld) (i : Nat) (b : Bool) : (s.wrBit f i b).replaying = s.replaying := rfl
@[simp] theorem State.wrBit_das (f : Fld) (i : Nat) (b : Bool) : (s.wrBit f i b).das = s.das := rfl
@[simp] theorem State.wrBit_tileWrites (f : Fld) (i : Nat) (b : Bool) : (s.wrBit f i b).tileWrites = s.tileWrites := rfl
@[simp] theorem State.wrBit_dasComing (f : Fld) (i : Nat) (b : Bool) : (s.wrBit f i b).dasComing = s.dasComing := rfl
@[simp] theorem State.wrBit_flow (f : Fld) (i : Nat) (b : Bool) : (s.wrBit f i b).flow = s.flow := rfl
@[simp] theorem State.wrBit_flowComing (f : Fld) (i : Nat) (b : Bool) : (s.wrBit f i b).flowComing = s.flowComing := rfl
@[simp] theorem State.wrBit_samples (f : Fld) (i : Nat) (b : Bool) : (s.wrBit f i b).samples = s.samples := rfl
@[simp] theorem State.wrBit_traces (f : Fld) (i : Nat) (b : Bool) : (s.wrBit f i b).traces = s.traces := rfl
@[simp] theorem State.wrBit_hold (f : Fld) (i : Nat) (b : Bool) : (s.wrBit f i b).hold = s.hold := rfl
@[simp] theorem State.wrBit_ledger (f : Fld) (i : Nat) (b : Bool) : (s.wrBit f i b).ledger = s.ledger := rfl
@[simp] theorem State.wrBit_sent (f : Fld) (i : Nat) (b : Bool) : (s.wrBit f i b).sent = s.sent := rfl
@[simp] theorem State.wrBit_signQ (f : Fld) (i : Nat) (b : Bool) : (s.wrBit f i b).signQ = s.signQ := rfl
@[simp] theorem State.wrBit_evtLost (f : Fld) (i : Nat) (b : Bool) : (s.wrBit f i b).evtLost = s.evtLost := rfl
@[simp] theorem State.wrBit_lanes (f : Fld) (i : Nat) (b : Bool) : (s.wrBit f i b).lanes = s.lanes := rfl
@[simp] theorem State.wrBit_fifos (f : Fld) (i : Nat) (b : Bool) : (s.wrBit f i b).fifos = s.fifos := rfl
@[simp] theorem State.wrBit_raman (f : Fld) (i : Nat) (b : Bool) : (s.wrBit f i b).raman = s.raman := rfl
@[simp] theorem State.wrBit_ports (f : Fld) (i : Nat) (b : Bool) : (s.wrBit f i b).ports = s.ports := rfl
@[simp] theorem State.wrBit_ranging (f : Fld) (i : Nat) (b : Bool) : (s.wrBit f i b).ranging = s.ranging := rfl
@[simp] theorem State.wrBit_byb (f : Fld) (i : Nat) (b : Bool) : (s.wrBit f i b).byb = s.byb := rfl
@[simp] theorem State.wrBit_snd (f : Fld) (i : Nat) (b : Bool) : (s.wrBit f i b).snd = s.snd := rfl
@[simp] theorem State.wrBit_sounding (f : Fld) (i : Nat) (b : Bool) : (s.wrBit f i b).sounding = s.sounding := rfl
@[simp] theorem State.wrBit_watches (f : Fld) (i : Nat) (b : Bool) : (s.wrBit f i b).watches = s.watches := rfl
@[simp] theorem State.wrBit_cores (f : Fld) (i : Nat) (b : Bool) : (s.wrBit f i b).cores = s.cores := rfl
@[simp] theorem State.wrBit_clusters (f : Fld) (i : Nat) (b : Bool) : (s.wrBit f i b).clusters = s.clusters := rfl
@[simp] theorem State.wrBit_wh (f : Fld) (i : Nat) (b : Bool) : (s.wrBit f i b).wh = s.wh := rfl
@[simp] theorem State.wrBit_whDone (f : Fld) (i : Nat) (b : Bool) : (s.wrBit f i b).whDone = s.whDone := rfl
@[simp] theorem State.wrBit_tugs (f : Fld) (i : Nat) (b : Bool) : (s.wrBit f i b).tugs = s.tugs := rfl
@[simp] theorem State.wrBit_draining (f : Fld) (i : Nat) (b : Bool) : (s.wrBit f i b).draining = s.draining := rfl
@[simp] theorem State.wrBit_toHost (f : Fld) (i : Nat) (b : Bool) : (s.wrBit f i b).toHost = s.toHost := rfl
@[simp] theorem State.wrBit_signalled (f : Fld) (i : Nat) (b : Bool) : (s.wrBit f i b).signalled = s.signalled := rfl
@[simp] theorem State.wrBit_packs (f : Fld) (i : Nat) (b : Bool) : (s.wrBit f i b).packs = s.packs := rfl
@[simp] theorem State.wrBit_packUsed (f : Fld) (i : Nat) (b : Bool) : (s.wrBit f i b).packUsed = s.packUsed := rfl
@[simp] theorem State.wrBit_streams (f : Fld) (i : Nat) (b : Bool) : (s.wrBit f i b).streams = s.streams := rfl
@[simp] theorem State.wrBit_exportCost (f : Fld) (i : Nat) (b : Bool) : (s.wrBit f i b).exportCost = s.exportCost := rfl
@[simp] theorem State.wrBit_exportDue (f : Fld) (i : Nat) (b : Bool) : (s.wrBit f i b).exportDue = s.exportDue := rfl
@[simp] theorem State.wrBit_stamps (f : Fld) (i : Nat) (b : Bool) : (s.wrBit f i b).stamps = s.stamps := rfl
@[simp] theorem State.wrBit_hawser (f : Fld) (i : Nat) (b : Bool) : (s.wrBit f i b).hawser = s.hawser := rfl
@[simp] theorem State.wrBit_calActive (f : Fld) (i : Nat) (b : Bool) : (s.wrBit f i b).calActive = s.calActive := rfl
@[simp] theorem State.wrBit_quayTrims (f : Fld) (i : Nat) (b : Bool) : (s.wrBit f i b).quayTrims = s.quayTrims := rfl
@[simp] theorem State.wrBit_taps (f : Fld) (i : Nat) (b : Bool) : (s.wrBit f i b).taps = s.taps := rfl
@[simp] theorem State.wrBit_calSel (f : Fld) (i : Nat) (b : Bool) : (s.wrBit f i b).calSel = s.calSel := rfl
@[simp] theorem State.wrBit_calWaiting (f : Fld) (i : Nat) (b : Bool) : (s.wrBit f i b).calWaiting = s.calWaiting := rfl
@[simp] theorem State.wrBit_calDone (f : Fld) (i : Nat) (b : Bool) : (s.wrBit f i b).calDone = s.calDone := rfl
@[simp] theorem State.wrBit_charter (f : Fld) (i : Nat) (b : Bool) : (s.wrBit f i b).charter = s.charter := rfl
@[simp] theorem State.wrBit_power (f : Fld) (i : Nat) (b : Bool) : (s.wrBit f i b).power = s.power := rfl
@[simp] theorem State.wrBit_life (f : Fld) (i : Nat) (b : Bool) : (s.wrBit f i b).life = s.life := rfl
@[simp] theorem State.wrBit_fwSwap (f : Fld) (i : Nat) (b : Bool) : (s.wrBit f i b).fwSwap = s.fwSwap := rfl
@[simp] theorem State.wrBit_ledgerVer (f : Fld) (i : Nat) (b : Bool) : (s.wrBit f i b).ledgerVer = s.ledgerVer := rfl
@[simp] theorem State.wrBit_bootLen (f : Fld) (i : Nat) (b : Bool) : (s.wrBit f i b).bootLen = s.bootLen := rfl
@[simp] theorem State.wrBit_pending (f : Fld) (i : Nat) (b : Bool) : (s.wrBit f i b).pending = s.pending := rfl

@[simp] theorem State.addSat_now (f : Fld) (n : Nat) : (s.addSat f n).now = s.now := rfl
@[simp] theorem State.addSat_shadows (f : Fld) (n : Nat) : (s.addSat f n).shadows = s.shadows := rfl
@[simp] theorem State.addSat_completion (f : Fld) (n : Nat) : (s.addSat f n).completion = s.completion := rfl
@[simp] theorem State.addSat_free (f : Fld) (n : Nat) : (s.addSat f n).free = s.free := rfl
@[simp] theorem State.addSat_shed (f : Fld) (n : Nat) : (s.addSat f n).shed = s.shed := rfl
@[simp] theorem State.addSat_shedBad (f : Fld) (n : Nat) : (s.addSat f n).shedBad = s.shedBad := rfl
@[simp] theorem State.addSat_links (f : Fld) (n : Nat) : (s.addSat f n).links = s.links := rfl
@[simp] theorem State.addSat_pllLost (f : Fld) (n : Nat) : (s.addSat f n).pllLost = s.pllLost := rfl
@[simp] theorem State.addSat_gaps (f : Fld) (n : Nat) : (s.addSat f n).gaps = s.gaps := rfl
@[simp] theorem State.addSat_ballast (f : Fld) (n : Nat) : (s.addSat f n).ballast = s.ballast := rfl
@[simp] theorem State.addSat_landing (f : Fld) (n : Nat) : (s.addSat f n).landing = s.landing := rfl
@[simp] theorem State.addSat_rate (f : Fld) (n : Nat) : (s.addSat f n).rate = s.rate := rfl
@[simp] theorem State.addSat_berths (f : Fld) (n : Nat) : (s.addSat f n).berths = s.berths := rfl
@[simp] theorem State.addSat_coming (f : Fld) (n : Nat) : (s.addSat f n).coming = s.coming := rfl
@[simp] theorem State.addSat_gens (f : Fld) (n : Nat) : (s.addSat f n).gens = s.gens := rfl
@[simp] theorem State.addSat_closedOrder (f : Fld) (n : Nat) : (s.addSat f n).closedOrder = s.closedOrder := rfl
@[simp] theorem State.addSat_carried (f : Fld) (n : Nat) : (s.addSat f n).carried = s.carried := rfl
@[simp] theorem State.addSat_work (f : Fld) (n : Nat) : (s.addSat f n).work = s.work := rfl
@[simp] theorem State.addSat_late (f : Fld) (n : Nat) : (s.addSat f n).late = s.late := rfl
@[simp] theorem State.addSat_cutWork (f : Fld) (n : Nat) : (s.addSat f n).cutWork = s.cutWork := rfl
@[simp] theorem State.addSat_mfCheck (f : Fld) (n : Nat) : (s.addSat f n).mfCheck = s.mfCheck := rfl
@[simp] theorem State.addSat_mfPending (f : Fld) (n : Nat) : (s.addSat f n).mfPending = s.mfPending := rfl
@[simp] theorem State.addSat_mfActive (f : Fld) (n : Nat) : (s.addSat f n).mfActive = s.mfActive := rfl
@[simp] theorem State.addSat_slotOrder (f : Fld) (n : Nat) : (s.addSat f n).slotOrder = s.slotOrder := rfl
@[simp] theorem State.addSat_rings (f : Fld) (n : Nat) : (s.addSat f n).rings = s.rings := rfl
@[simp] theorem State.addSat_quays (f : Fld) (n : Nat) : (s.addSat f n).quays = s.quays := rfl
@[simp] theorem State.addSat_rx (f : Fld) (n : Nat) : (s.addSat f n).rx = s.rx := rfl
@[simp] theorem State.addSat_routes (f : Fld) (n : Nat) : (s.addSat f n).routes = s.routes := rfl
@[simp] theorem State.addSat_replayQ (f : Fld) (n : Nat) : (s.addSat f n).replayQ = s.replayQ := rfl
@[simp] theorem State.addSat_replaying (f : Fld) (n : Nat) : (s.addSat f n).replaying = s.replaying := rfl
@[simp] theorem State.addSat_das (f : Fld) (n : Nat) : (s.addSat f n).das = s.das := rfl
@[simp] theorem State.addSat_tileWrites (f : Fld) (n : Nat) : (s.addSat f n).tileWrites = s.tileWrites := rfl
@[simp] theorem State.addSat_dasComing (f : Fld) (n : Nat) : (s.addSat f n).dasComing = s.dasComing := rfl
@[simp] theorem State.addSat_flow (f : Fld) (n : Nat) : (s.addSat f n).flow = s.flow := rfl
@[simp] theorem State.addSat_flowComing (f : Fld) (n : Nat) : (s.addSat f n).flowComing = s.flowComing := rfl
@[simp] theorem State.addSat_samples (f : Fld) (n : Nat) : (s.addSat f n).samples = s.samples := rfl
@[simp] theorem State.addSat_traces (f : Fld) (n : Nat) : (s.addSat f n).traces = s.traces := rfl
@[simp] theorem State.addSat_hold (f : Fld) (n : Nat) : (s.addSat f n).hold = s.hold := rfl
@[simp] theorem State.addSat_ledger (f : Fld) (n : Nat) : (s.addSat f n).ledger = s.ledger := rfl
@[simp] theorem State.addSat_sent (f : Fld) (n : Nat) : (s.addSat f n).sent = s.sent := rfl
@[simp] theorem State.addSat_signQ (f : Fld) (n : Nat) : (s.addSat f n).signQ = s.signQ := rfl
@[simp] theorem State.addSat_evtLost (f : Fld) (n : Nat) : (s.addSat f n).evtLost = s.evtLost := rfl
@[simp] theorem State.addSat_lanes (f : Fld) (n : Nat) : (s.addSat f n).lanes = s.lanes := rfl
@[simp] theorem State.addSat_fifos (f : Fld) (n : Nat) : (s.addSat f n).fifos = s.fifos := rfl
@[simp] theorem State.addSat_raman (f : Fld) (n : Nat) : (s.addSat f n).raman = s.raman := rfl
@[simp] theorem State.addSat_ports (f : Fld) (n : Nat) : (s.addSat f n).ports = s.ports := rfl
@[simp] theorem State.addSat_ranging (f : Fld) (n : Nat) : (s.addSat f n).ranging = s.ranging := rfl
@[simp] theorem State.addSat_byb (f : Fld) (n : Nat) : (s.addSat f n).byb = s.byb := rfl
@[simp] theorem State.addSat_snd (f : Fld) (n : Nat) : (s.addSat f n).snd = s.snd := rfl
@[simp] theorem State.addSat_sounding (f : Fld) (n : Nat) : (s.addSat f n).sounding = s.sounding := rfl
@[simp] theorem State.addSat_watches (f : Fld) (n : Nat) : (s.addSat f n).watches = s.watches := rfl
@[simp] theorem State.addSat_cores (f : Fld) (n : Nat) : (s.addSat f n).cores = s.cores := rfl
@[simp] theorem State.addSat_clusters (f : Fld) (n : Nat) : (s.addSat f n).clusters = s.clusters := rfl
@[simp] theorem State.addSat_wh (f : Fld) (n : Nat) : (s.addSat f n).wh = s.wh := rfl
@[simp] theorem State.addSat_whDone (f : Fld) (n : Nat) : (s.addSat f n).whDone = s.whDone := rfl
@[simp] theorem State.addSat_tugs (f : Fld) (n : Nat) : (s.addSat f n).tugs = s.tugs := rfl
@[simp] theorem State.addSat_draining (f : Fld) (n : Nat) : (s.addSat f n).draining = s.draining := rfl
@[simp] theorem State.addSat_toHost (f : Fld) (n : Nat) : (s.addSat f n).toHost = s.toHost := rfl
@[simp] theorem State.addSat_signalled (f : Fld) (n : Nat) : (s.addSat f n).signalled = s.signalled := rfl
@[simp] theorem State.addSat_packs (f : Fld) (n : Nat) : (s.addSat f n).packs = s.packs := rfl
@[simp] theorem State.addSat_packUsed (f : Fld) (n : Nat) : (s.addSat f n).packUsed = s.packUsed := rfl
@[simp] theorem State.addSat_streams (f : Fld) (n : Nat) : (s.addSat f n).streams = s.streams := rfl
@[simp] theorem State.addSat_exportCost (f : Fld) (n : Nat) : (s.addSat f n).exportCost = s.exportCost := rfl
@[simp] theorem State.addSat_exportDue (f : Fld) (n : Nat) : (s.addSat f n).exportDue = s.exportDue := rfl
@[simp] theorem State.addSat_stamps (f : Fld) (n : Nat) : (s.addSat f n).stamps = s.stamps := rfl
@[simp] theorem State.addSat_hawser (f : Fld) (n : Nat) : (s.addSat f n).hawser = s.hawser := rfl
@[simp] theorem State.addSat_calActive (f : Fld) (n : Nat) : (s.addSat f n).calActive = s.calActive := rfl
@[simp] theorem State.addSat_quayTrims (f : Fld) (n : Nat) : (s.addSat f n).quayTrims = s.quayTrims := rfl
@[simp] theorem State.addSat_taps (f : Fld) (n : Nat) : (s.addSat f n).taps = s.taps := rfl
@[simp] theorem State.addSat_calSel (f : Fld) (n : Nat) : (s.addSat f n).calSel = s.calSel := rfl
@[simp] theorem State.addSat_calWaiting (f : Fld) (n : Nat) : (s.addSat f n).calWaiting = s.calWaiting := rfl
@[simp] theorem State.addSat_calDone (f : Fld) (n : Nat) : (s.addSat f n).calDone = s.calDone := rfl
@[simp] theorem State.addSat_charter (f : Fld) (n : Nat) : (s.addSat f n).charter = s.charter := rfl
@[simp] theorem State.addSat_power (f : Fld) (n : Nat) : (s.addSat f n).power = s.power := rfl
@[simp] theorem State.addSat_life (f : Fld) (n : Nat) : (s.addSat f n).life = s.life := rfl
@[simp] theorem State.addSat_fwSwap (f : Fld) (n : Nat) : (s.addSat f n).fwSwap = s.fwSwap := rfl
@[simp] theorem State.addSat_ledgerVer (f : Fld) (n : Nat) : (s.addSat f n).ledgerVer = s.ledgerVer := rfl
@[simp] theorem State.addSat_bootLen (f : Fld) (n : Nat) : (s.addSat f n).bootLen = s.bootLen := rfl
@[simp] theorem State.addSat_pending (f : Fld) (n : Nat) : (s.addSat f n).pending = s.pending := rfl

@[simp] theorem State.inc_now (f : Fld) : (s.inc f).now = s.now := rfl
@[simp] theorem State.inc_shadows (f : Fld) : (s.inc f).shadows = s.shadows := rfl
@[simp] theorem State.inc_completion (f : Fld) : (s.inc f).completion = s.completion := rfl
@[simp] theorem State.inc_free (f : Fld) : (s.inc f).free = s.free := rfl
@[simp] theorem State.inc_shed (f : Fld) : (s.inc f).shed = s.shed := rfl
@[simp] theorem State.inc_shedBad (f : Fld) : (s.inc f).shedBad = s.shedBad := rfl
@[simp] theorem State.inc_links (f : Fld) : (s.inc f).links = s.links := rfl
@[simp] theorem State.inc_pllLost (f : Fld) : (s.inc f).pllLost = s.pllLost := rfl
@[simp] theorem State.inc_gaps (f : Fld) : (s.inc f).gaps = s.gaps := rfl
@[simp] theorem State.inc_ballast (f : Fld) : (s.inc f).ballast = s.ballast := rfl
@[simp] theorem State.inc_landing (f : Fld) : (s.inc f).landing = s.landing := rfl
@[simp] theorem State.inc_rate (f : Fld) : (s.inc f).rate = s.rate := rfl
@[simp] theorem State.inc_berths (f : Fld) : (s.inc f).berths = s.berths := rfl
@[simp] theorem State.inc_coming (f : Fld) : (s.inc f).coming = s.coming := rfl
@[simp] theorem State.inc_gens (f : Fld) : (s.inc f).gens = s.gens := rfl
@[simp] theorem State.inc_closedOrder (f : Fld) : (s.inc f).closedOrder = s.closedOrder := rfl
@[simp] theorem State.inc_carried (f : Fld) : (s.inc f).carried = s.carried := rfl
@[simp] theorem State.inc_work (f : Fld) : (s.inc f).work = s.work := rfl
@[simp] theorem State.inc_late (f : Fld) : (s.inc f).late = s.late := rfl
@[simp] theorem State.inc_cutWork (f : Fld) : (s.inc f).cutWork = s.cutWork := rfl
@[simp] theorem State.inc_mfCheck (f : Fld) : (s.inc f).mfCheck = s.mfCheck := rfl
@[simp] theorem State.inc_mfPending (f : Fld) : (s.inc f).mfPending = s.mfPending := rfl
@[simp] theorem State.inc_mfActive (f : Fld) : (s.inc f).mfActive = s.mfActive := rfl
@[simp] theorem State.inc_slotOrder (f : Fld) : (s.inc f).slotOrder = s.slotOrder := rfl
@[simp] theorem State.inc_rings (f : Fld) : (s.inc f).rings = s.rings := rfl
@[simp] theorem State.inc_quays (f : Fld) : (s.inc f).quays = s.quays := rfl
@[simp] theorem State.inc_rx (f : Fld) : (s.inc f).rx = s.rx := rfl
@[simp] theorem State.inc_routes (f : Fld) : (s.inc f).routes = s.routes := rfl
@[simp] theorem State.inc_replayQ (f : Fld) : (s.inc f).replayQ = s.replayQ := rfl
@[simp] theorem State.inc_replaying (f : Fld) : (s.inc f).replaying = s.replaying := rfl
@[simp] theorem State.inc_das (f : Fld) : (s.inc f).das = s.das := rfl
@[simp] theorem State.inc_tileWrites (f : Fld) : (s.inc f).tileWrites = s.tileWrites := rfl
@[simp] theorem State.inc_dasComing (f : Fld) : (s.inc f).dasComing = s.dasComing := rfl
@[simp] theorem State.inc_flow (f : Fld) : (s.inc f).flow = s.flow := rfl
@[simp] theorem State.inc_flowComing (f : Fld) : (s.inc f).flowComing = s.flowComing := rfl
@[simp] theorem State.inc_samples (f : Fld) : (s.inc f).samples = s.samples := rfl
@[simp] theorem State.inc_traces (f : Fld) : (s.inc f).traces = s.traces := rfl
@[simp] theorem State.inc_hold (f : Fld) : (s.inc f).hold = s.hold := rfl
@[simp] theorem State.inc_ledger (f : Fld) : (s.inc f).ledger = s.ledger := rfl
@[simp] theorem State.inc_sent (f : Fld) : (s.inc f).sent = s.sent := rfl
@[simp] theorem State.inc_signQ (f : Fld) : (s.inc f).signQ = s.signQ := rfl
@[simp] theorem State.inc_evtLost (f : Fld) : (s.inc f).evtLost = s.evtLost := rfl
@[simp] theorem State.inc_lanes (f : Fld) : (s.inc f).lanes = s.lanes := rfl
@[simp] theorem State.inc_fifos (f : Fld) : (s.inc f).fifos = s.fifos := rfl
@[simp] theorem State.inc_raman (f : Fld) : (s.inc f).raman = s.raman := rfl
@[simp] theorem State.inc_ports (f : Fld) : (s.inc f).ports = s.ports := rfl
@[simp] theorem State.inc_ranging (f : Fld) : (s.inc f).ranging = s.ranging := rfl
@[simp] theorem State.inc_byb (f : Fld) : (s.inc f).byb = s.byb := rfl
@[simp] theorem State.inc_snd (f : Fld) : (s.inc f).snd = s.snd := rfl
@[simp] theorem State.inc_sounding (f : Fld) : (s.inc f).sounding = s.sounding := rfl
@[simp] theorem State.inc_watches (f : Fld) : (s.inc f).watches = s.watches := rfl
@[simp] theorem State.inc_cores (f : Fld) : (s.inc f).cores = s.cores := rfl
@[simp] theorem State.inc_clusters (f : Fld) : (s.inc f).clusters = s.clusters := rfl
@[simp] theorem State.inc_wh (f : Fld) : (s.inc f).wh = s.wh := rfl
@[simp] theorem State.inc_whDone (f : Fld) : (s.inc f).whDone = s.whDone := rfl
@[simp] theorem State.inc_tugs (f : Fld) : (s.inc f).tugs = s.tugs := rfl
@[simp] theorem State.inc_draining (f : Fld) : (s.inc f).draining = s.draining := rfl
@[simp] theorem State.inc_toHost (f : Fld) : (s.inc f).toHost = s.toHost := rfl
@[simp] theorem State.inc_signalled (f : Fld) : (s.inc f).signalled = s.signalled := rfl
@[simp] theorem State.inc_packs (f : Fld) : (s.inc f).packs = s.packs := rfl
@[simp] theorem State.inc_packUsed (f : Fld) : (s.inc f).packUsed = s.packUsed := rfl
@[simp] theorem State.inc_streams (f : Fld) : (s.inc f).streams = s.streams := rfl
@[simp] theorem State.inc_exportCost (f : Fld) : (s.inc f).exportCost = s.exportCost := rfl
@[simp] theorem State.inc_exportDue (f : Fld) : (s.inc f).exportDue = s.exportDue := rfl
@[simp] theorem State.inc_stamps (f : Fld) : (s.inc f).stamps = s.stamps := rfl
@[simp] theorem State.inc_hawser (f : Fld) : (s.inc f).hawser = s.hawser := rfl
@[simp] theorem State.inc_calActive (f : Fld) : (s.inc f).calActive = s.calActive := rfl
@[simp] theorem State.inc_quayTrims (f : Fld) : (s.inc f).quayTrims = s.quayTrims := rfl
@[simp] theorem State.inc_taps (f : Fld) : (s.inc f).taps = s.taps := rfl
@[simp] theorem State.inc_calSel (f : Fld) : (s.inc f).calSel = s.calSel := rfl
@[simp] theorem State.inc_calWaiting (f : Fld) : (s.inc f).calWaiting = s.calWaiting := rfl
@[simp] theorem State.inc_calDone (f : Fld) : (s.inc f).calDone = s.calDone := rfl
@[simp] theorem State.inc_charter (f : Fld) : (s.inc f).charter = s.charter := rfl
@[simp] theorem State.inc_power (f : Fld) : (s.inc f).power = s.power := rfl
@[simp] theorem State.inc_life (f : Fld) : (s.inc f).life = s.life := rfl
@[simp] theorem State.inc_fwSwap (f : Fld) : (s.inc f).fwSwap = s.fwSwap := rfl
@[simp] theorem State.inc_ledgerVer (f : Fld) : (s.inc f).ledgerVer = s.ledgerVer := rfl
@[simp] theorem State.inc_bootLen (f : Fld) : (s.inc f).bootLen = s.bootLen := rfl
@[simp] theorem State.inc_pending (f : Fld) : (s.inc f).pending = s.pending := rfl

@[simp] theorem State.wrPair_now (lo hi : Fld) (v : Nat) : (s.wrPair lo hi v).now = s.now := rfl
@[simp] theorem State.wrPair_shadows (lo hi : Fld) (v : Nat) : (s.wrPair lo hi v).shadows = s.shadows := rfl
@[simp] theorem State.wrPair_completion (lo hi : Fld) (v : Nat) : (s.wrPair lo hi v).completion = s.completion := rfl
@[simp] theorem State.wrPair_free (lo hi : Fld) (v : Nat) : (s.wrPair lo hi v).free = s.free := rfl
@[simp] theorem State.wrPair_shed (lo hi : Fld) (v : Nat) : (s.wrPair lo hi v).shed = s.shed := rfl
@[simp] theorem State.wrPair_shedBad (lo hi : Fld) (v : Nat) : (s.wrPair lo hi v).shedBad = s.shedBad := rfl
@[simp] theorem State.wrPair_links (lo hi : Fld) (v : Nat) : (s.wrPair lo hi v).links = s.links := rfl
@[simp] theorem State.wrPair_pllLost (lo hi : Fld) (v : Nat) : (s.wrPair lo hi v).pllLost = s.pllLost := rfl
@[simp] theorem State.wrPair_gaps (lo hi : Fld) (v : Nat) : (s.wrPair lo hi v).gaps = s.gaps := rfl
@[simp] theorem State.wrPair_ballast (lo hi : Fld) (v : Nat) : (s.wrPair lo hi v).ballast = s.ballast := rfl
@[simp] theorem State.wrPair_landing (lo hi : Fld) (v : Nat) : (s.wrPair lo hi v).landing = s.landing := rfl
@[simp] theorem State.wrPair_rate (lo hi : Fld) (v : Nat) : (s.wrPair lo hi v).rate = s.rate := rfl
@[simp] theorem State.wrPair_berths (lo hi : Fld) (v : Nat) : (s.wrPair lo hi v).berths = s.berths := rfl
@[simp] theorem State.wrPair_coming (lo hi : Fld) (v : Nat) : (s.wrPair lo hi v).coming = s.coming := rfl
@[simp] theorem State.wrPair_gens (lo hi : Fld) (v : Nat) : (s.wrPair lo hi v).gens = s.gens := rfl
@[simp] theorem State.wrPair_closedOrder (lo hi : Fld) (v : Nat) : (s.wrPair lo hi v).closedOrder = s.closedOrder := rfl
@[simp] theorem State.wrPair_carried (lo hi : Fld) (v : Nat) : (s.wrPair lo hi v).carried = s.carried := rfl
@[simp] theorem State.wrPair_work (lo hi : Fld) (v : Nat) : (s.wrPair lo hi v).work = s.work := rfl
@[simp] theorem State.wrPair_late (lo hi : Fld) (v : Nat) : (s.wrPair lo hi v).late = s.late := rfl
@[simp] theorem State.wrPair_cutWork (lo hi : Fld) (v : Nat) : (s.wrPair lo hi v).cutWork = s.cutWork := rfl
@[simp] theorem State.wrPair_mfCheck (lo hi : Fld) (v : Nat) : (s.wrPair lo hi v).mfCheck = s.mfCheck := rfl
@[simp] theorem State.wrPair_mfPending (lo hi : Fld) (v : Nat) : (s.wrPair lo hi v).mfPending = s.mfPending := rfl
@[simp] theorem State.wrPair_mfActive (lo hi : Fld) (v : Nat) : (s.wrPair lo hi v).mfActive = s.mfActive := rfl
@[simp] theorem State.wrPair_slotOrder (lo hi : Fld) (v : Nat) : (s.wrPair lo hi v).slotOrder = s.slotOrder := rfl
@[simp] theorem State.wrPair_rings (lo hi : Fld) (v : Nat) : (s.wrPair lo hi v).rings = s.rings := rfl
@[simp] theorem State.wrPair_quays (lo hi : Fld) (v : Nat) : (s.wrPair lo hi v).quays = s.quays := rfl
@[simp] theorem State.wrPair_rx (lo hi : Fld) (v : Nat) : (s.wrPair lo hi v).rx = s.rx := rfl
@[simp] theorem State.wrPair_routes (lo hi : Fld) (v : Nat) : (s.wrPair lo hi v).routes = s.routes := rfl
@[simp] theorem State.wrPair_replayQ (lo hi : Fld) (v : Nat) : (s.wrPair lo hi v).replayQ = s.replayQ := rfl
@[simp] theorem State.wrPair_replaying (lo hi : Fld) (v : Nat) : (s.wrPair lo hi v).replaying = s.replaying := rfl
@[simp] theorem State.wrPair_das (lo hi : Fld) (v : Nat) : (s.wrPair lo hi v).das = s.das := rfl
@[simp] theorem State.wrPair_tileWrites (lo hi : Fld) (v : Nat) : (s.wrPair lo hi v).tileWrites = s.tileWrites := rfl
@[simp] theorem State.wrPair_dasComing (lo hi : Fld) (v : Nat) : (s.wrPair lo hi v).dasComing = s.dasComing := rfl
@[simp] theorem State.wrPair_flow (lo hi : Fld) (v : Nat) : (s.wrPair lo hi v).flow = s.flow := rfl
@[simp] theorem State.wrPair_flowComing (lo hi : Fld) (v : Nat) : (s.wrPair lo hi v).flowComing = s.flowComing := rfl
@[simp] theorem State.wrPair_samples (lo hi : Fld) (v : Nat) : (s.wrPair lo hi v).samples = s.samples := rfl
@[simp] theorem State.wrPair_traces (lo hi : Fld) (v : Nat) : (s.wrPair lo hi v).traces = s.traces := rfl
@[simp] theorem State.wrPair_hold (lo hi : Fld) (v : Nat) : (s.wrPair lo hi v).hold = s.hold := rfl
@[simp] theorem State.wrPair_ledger (lo hi : Fld) (v : Nat) : (s.wrPair lo hi v).ledger = s.ledger := rfl
@[simp] theorem State.wrPair_sent (lo hi : Fld) (v : Nat) : (s.wrPair lo hi v).sent = s.sent := rfl
@[simp] theorem State.wrPair_signQ (lo hi : Fld) (v : Nat) : (s.wrPair lo hi v).signQ = s.signQ := rfl
@[simp] theorem State.wrPair_evtLost (lo hi : Fld) (v : Nat) : (s.wrPair lo hi v).evtLost = s.evtLost := rfl
@[simp] theorem State.wrPair_lanes (lo hi : Fld) (v : Nat) : (s.wrPair lo hi v).lanes = s.lanes := rfl
@[simp] theorem State.wrPair_fifos (lo hi : Fld) (v : Nat) : (s.wrPair lo hi v).fifos = s.fifos := rfl
@[simp] theorem State.wrPair_raman (lo hi : Fld) (v : Nat) : (s.wrPair lo hi v).raman = s.raman := rfl
@[simp] theorem State.wrPair_ports (lo hi : Fld) (v : Nat) : (s.wrPair lo hi v).ports = s.ports := rfl
@[simp] theorem State.wrPair_ranging (lo hi : Fld) (v : Nat) : (s.wrPair lo hi v).ranging = s.ranging := rfl
@[simp] theorem State.wrPair_byb (lo hi : Fld) (v : Nat) : (s.wrPair lo hi v).byb = s.byb := rfl
@[simp] theorem State.wrPair_snd (lo hi : Fld) (v : Nat) : (s.wrPair lo hi v).snd = s.snd := rfl
@[simp] theorem State.wrPair_sounding (lo hi : Fld) (v : Nat) : (s.wrPair lo hi v).sounding = s.sounding := rfl
@[simp] theorem State.wrPair_watches (lo hi : Fld) (v : Nat) : (s.wrPair lo hi v).watches = s.watches := rfl
@[simp] theorem State.wrPair_cores (lo hi : Fld) (v : Nat) : (s.wrPair lo hi v).cores = s.cores := rfl
@[simp] theorem State.wrPair_clusters (lo hi : Fld) (v : Nat) : (s.wrPair lo hi v).clusters = s.clusters := rfl
@[simp] theorem State.wrPair_wh (lo hi : Fld) (v : Nat) : (s.wrPair lo hi v).wh = s.wh := rfl
@[simp] theorem State.wrPair_whDone (lo hi : Fld) (v : Nat) : (s.wrPair lo hi v).whDone = s.whDone := rfl
@[simp] theorem State.wrPair_tugs (lo hi : Fld) (v : Nat) : (s.wrPair lo hi v).tugs = s.tugs := rfl
@[simp] theorem State.wrPair_draining (lo hi : Fld) (v : Nat) : (s.wrPair lo hi v).draining = s.draining := rfl
@[simp] theorem State.wrPair_toHost (lo hi : Fld) (v : Nat) : (s.wrPair lo hi v).toHost = s.toHost := rfl
@[simp] theorem State.wrPair_signalled (lo hi : Fld) (v : Nat) : (s.wrPair lo hi v).signalled = s.signalled := rfl
@[simp] theorem State.wrPair_packs (lo hi : Fld) (v : Nat) : (s.wrPair lo hi v).packs = s.packs := rfl
@[simp] theorem State.wrPair_packUsed (lo hi : Fld) (v : Nat) : (s.wrPair lo hi v).packUsed = s.packUsed := rfl
@[simp] theorem State.wrPair_streams (lo hi : Fld) (v : Nat) : (s.wrPair lo hi v).streams = s.streams := rfl
@[simp] theorem State.wrPair_exportCost (lo hi : Fld) (v : Nat) : (s.wrPair lo hi v).exportCost = s.exportCost := rfl
@[simp] theorem State.wrPair_exportDue (lo hi : Fld) (v : Nat) : (s.wrPair lo hi v).exportDue = s.exportDue := rfl
@[simp] theorem State.wrPair_stamps (lo hi : Fld) (v : Nat) : (s.wrPair lo hi v).stamps = s.stamps := rfl
@[simp] theorem State.wrPair_hawser (lo hi : Fld) (v : Nat) : (s.wrPair lo hi v).hawser = s.hawser := rfl
@[simp] theorem State.wrPair_calActive (lo hi : Fld) (v : Nat) : (s.wrPair lo hi v).calActive = s.calActive := rfl
@[simp] theorem State.wrPair_quayTrims (lo hi : Fld) (v : Nat) : (s.wrPair lo hi v).quayTrims = s.quayTrims := rfl
@[simp] theorem State.wrPair_taps (lo hi : Fld) (v : Nat) : (s.wrPair lo hi v).taps = s.taps := rfl
@[simp] theorem State.wrPair_calSel (lo hi : Fld) (v : Nat) : (s.wrPair lo hi v).calSel = s.calSel := rfl
@[simp] theorem State.wrPair_calWaiting (lo hi : Fld) (v : Nat) : (s.wrPair lo hi v).calWaiting = s.calWaiting := rfl
@[simp] theorem State.wrPair_calDone (lo hi : Fld) (v : Nat) : (s.wrPair lo hi v).calDone = s.calDone := rfl
@[simp] theorem State.wrPair_charter (lo hi : Fld) (v : Nat) : (s.wrPair lo hi v).charter = s.charter := rfl
@[simp] theorem State.wrPair_power (lo hi : Fld) (v : Nat) : (s.wrPair lo hi v).power = s.power := rfl
@[simp] theorem State.wrPair_life (lo hi : Fld) (v : Nat) : (s.wrPair lo hi v).life = s.life := rfl
@[simp] theorem State.wrPair_fwSwap (lo hi : Fld) (v : Nat) : (s.wrPair lo hi v).fwSwap = s.fwSwap := rfl
@[simp] theorem State.wrPair_ledgerVer (lo hi : Fld) (v : Nat) : (s.wrPair lo hi v).ledgerVer = s.ledgerVer := rfl
@[simp] theorem State.wrPair_bootLen (lo hi : Fld) (v : Nat) : (s.wrPair lo hi v).bootLen = s.bootLen := rfl
@[simp] theorem State.wrPair_pending (lo hi : Fld) (v : Nat) : (s.wrPair lo hi v).pending = s.pending := rfl

@[simp] theorem State.resetRegs_now (a b : Nat) : (s.resetRegs a b).now = s.now := rfl
@[simp] theorem State.resetRegs_completion (a b : Nat) : (s.resetRegs a b).completion = s.completion := rfl
@[simp] theorem State.resetRegs_free (a b : Nat) : (s.resetRegs a b).free = s.free := rfl
@[simp] theorem State.resetRegs_shed (a b : Nat) : (s.resetRegs a b).shed = s.shed := rfl
@[simp] theorem State.resetRegs_shedBad (a b : Nat) : (s.resetRegs a b).shedBad = s.shedBad := rfl
@[simp] theorem State.resetRegs_links (a b : Nat) : (s.resetRegs a b).links = s.links := rfl
@[simp] theorem State.resetRegs_pllLost (a b : Nat) : (s.resetRegs a b).pllLost = s.pllLost := rfl
@[simp] theorem State.resetRegs_gaps (a b : Nat) : (s.resetRegs a b).gaps = s.gaps := rfl
@[simp] theorem State.resetRegs_ballast (a b : Nat) : (s.resetRegs a b).ballast = s.ballast := rfl
@[simp] theorem State.resetRegs_landing (a b : Nat) : (s.resetRegs a b).landing = s.landing := rfl
@[simp] theorem State.resetRegs_rate (a b : Nat) : (s.resetRegs a b).rate = s.rate := rfl
@[simp] theorem State.resetRegs_berths (a b : Nat) : (s.resetRegs a b).berths = s.berths := rfl
@[simp] theorem State.resetRegs_coming (a b : Nat) : (s.resetRegs a b).coming = s.coming := rfl
@[simp] theorem State.resetRegs_gens (a b : Nat) : (s.resetRegs a b).gens = s.gens := rfl
@[simp] theorem State.resetRegs_closedOrder (a b : Nat) : (s.resetRegs a b).closedOrder = s.closedOrder := rfl
@[simp] theorem State.resetRegs_carried (a b : Nat) : (s.resetRegs a b).carried = s.carried := rfl
@[simp] theorem State.resetRegs_work (a b : Nat) : (s.resetRegs a b).work = s.work := rfl
@[simp] theorem State.resetRegs_late (a b : Nat) : (s.resetRegs a b).late = s.late := rfl
@[simp] theorem State.resetRegs_cutWork (a b : Nat) : (s.resetRegs a b).cutWork = s.cutWork := rfl
@[simp] theorem State.resetRegs_mfCheck (a b : Nat) : (s.resetRegs a b).mfCheck = s.mfCheck := rfl
@[simp] theorem State.resetRegs_mfPending (a b : Nat) : (s.resetRegs a b).mfPending = s.mfPending := rfl
@[simp] theorem State.resetRegs_mfActive (a b : Nat) : (s.resetRegs a b).mfActive = s.mfActive := rfl
@[simp] theorem State.resetRegs_slotOrder (a b : Nat) : (s.resetRegs a b).slotOrder = s.slotOrder := rfl
@[simp] theorem State.resetRegs_rings (a b : Nat) : (s.resetRegs a b).rings = s.rings := rfl
@[simp] theorem State.resetRegs_quays (a b : Nat) : (s.resetRegs a b).quays = s.quays := rfl
@[simp] theorem State.resetRegs_rx (a b : Nat) : (s.resetRegs a b).rx = s.rx := rfl
@[simp] theorem State.resetRegs_routes (a b : Nat) : (s.resetRegs a b).routes = s.routes := rfl
@[simp] theorem State.resetRegs_replayQ (a b : Nat) : (s.resetRegs a b).replayQ = s.replayQ := rfl
@[simp] theorem State.resetRegs_replaying (a b : Nat) : (s.resetRegs a b).replaying = s.replaying := rfl
@[simp] theorem State.resetRegs_das (a b : Nat) : (s.resetRegs a b).das = s.das := rfl
@[simp] theorem State.resetRegs_tileWrites (a b : Nat) : (s.resetRegs a b).tileWrites = s.tileWrites := rfl
@[simp] theorem State.resetRegs_dasComing (a b : Nat) : (s.resetRegs a b).dasComing = s.dasComing := rfl
@[simp] theorem State.resetRegs_flow (a b : Nat) : (s.resetRegs a b).flow = s.flow := rfl
@[simp] theorem State.resetRegs_flowComing (a b : Nat) : (s.resetRegs a b).flowComing = s.flowComing := rfl
@[simp] theorem State.resetRegs_samples (a b : Nat) : (s.resetRegs a b).samples = s.samples := rfl
@[simp] theorem State.resetRegs_traces (a b : Nat) : (s.resetRegs a b).traces = s.traces := rfl
@[simp] theorem State.resetRegs_hold (a b : Nat) : (s.resetRegs a b).hold = s.hold := rfl
@[simp] theorem State.resetRegs_ledger (a b : Nat) : (s.resetRegs a b).ledger = s.ledger := rfl
@[simp] theorem State.resetRegs_sent (a b : Nat) : (s.resetRegs a b).sent = s.sent := rfl
@[simp] theorem State.resetRegs_signQ (a b : Nat) : (s.resetRegs a b).signQ = s.signQ := rfl
@[simp] theorem State.resetRegs_evtLost (a b : Nat) : (s.resetRegs a b).evtLost = s.evtLost := rfl
@[simp] theorem State.resetRegs_lanes (a b : Nat) : (s.resetRegs a b).lanes = s.lanes := rfl
@[simp] theorem State.resetRegs_fifos (a b : Nat) : (s.resetRegs a b).fifos = s.fifos := rfl
@[simp] theorem State.resetRegs_raman (a b : Nat) : (s.resetRegs a b).raman = s.raman := rfl
@[simp] theorem State.resetRegs_ports (a b : Nat) : (s.resetRegs a b).ports = s.ports := rfl
@[simp] theorem State.resetRegs_ranging (a b : Nat) : (s.resetRegs a b).ranging = s.ranging := rfl
@[simp] theorem State.resetRegs_byb (a b : Nat) : (s.resetRegs a b).byb = s.byb := rfl
@[simp] theorem State.resetRegs_snd (a b : Nat) : (s.resetRegs a b).snd = s.snd := rfl
@[simp] theorem State.resetRegs_sounding (a b : Nat) : (s.resetRegs a b).sounding = s.sounding := rfl
@[simp] theorem State.resetRegs_watches (a b : Nat) : (s.resetRegs a b).watches = s.watches := rfl
@[simp] theorem State.resetRegs_cores (a b : Nat) : (s.resetRegs a b).cores = s.cores := rfl
@[simp] theorem State.resetRegs_clusters (a b : Nat) : (s.resetRegs a b).clusters = s.clusters := rfl
@[simp] theorem State.resetRegs_wh (a b : Nat) : (s.resetRegs a b).wh = s.wh := rfl
@[simp] theorem State.resetRegs_whDone (a b : Nat) : (s.resetRegs a b).whDone = s.whDone := rfl
@[simp] theorem State.resetRegs_tugs (a b : Nat) : (s.resetRegs a b).tugs = s.tugs := rfl
@[simp] theorem State.resetRegs_draining (a b : Nat) : (s.resetRegs a b).draining = s.draining := rfl
@[simp] theorem State.resetRegs_toHost (a b : Nat) : (s.resetRegs a b).toHost = s.toHost := rfl
@[simp] theorem State.resetRegs_signalled (a b : Nat) : (s.resetRegs a b).signalled = s.signalled := rfl
@[simp] theorem State.resetRegs_packs (a b : Nat) : (s.resetRegs a b).packs = s.packs := rfl
@[simp] theorem State.resetRegs_packUsed (a b : Nat) : (s.resetRegs a b).packUsed = s.packUsed := rfl
@[simp] theorem State.resetRegs_streams (a b : Nat) : (s.resetRegs a b).streams = s.streams := rfl
@[simp] theorem State.resetRegs_exportCost (a b : Nat) : (s.resetRegs a b).exportCost = s.exportCost := rfl
@[simp] theorem State.resetRegs_exportDue (a b : Nat) : (s.resetRegs a b).exportDue = s.exportDue := rfl
@[simp] theorem State.resetRegs_stamps (a b : Nat) : (s.resetRegs a b).stamps = s.stamps := rfl
@[simp] theorem State.resetRegs_hawser (a b : Nat) : (s.resetRegs a b).hawser = s.hawser := rfl
@[simp] theorem State.resetRegs_calActive (a b : Nat) : (s.resetRegs a b).calActive = s.calActive := rfl
@[simp] theorem State.resetRegs_quayTrims (a b : Nat) : (s.resetRegs a b).quayTrims = s.quayTrims := rfl
@[simp] theorem State.resetRegs_taps (a b : Nat) : (s.resetRegs a b).taps = s.taps := rfl
@[simp] theorem State.resetRegs_calSel (a b : Nat) : (s.resetRegs a b).calSel = s.calSel := rfl
@[simp] theorem State.resetRegs_calWaiting (a b : Nat) : (s.resetRegs a b).calWaiting = s.calWaiting := rfl
@[simp] theorem State.resetRegs_calDone (a b : Nat) : (s.resetRegs a b).calDone = s.calDone := rfl
@[simp] theorem State.resetRegs_charter (a b : Nat) : (s.resetRegs a b).charter = s.charter := rfl
@[simp] theorem State.resetRegs_power (a b : Nat) : (s.resetRegs a b).power = s.power := rfl
@[simp] theorem State.resetRegs_life (a b : Nat) : (s.resetRegs a b).life = s.life := rfl
@[simp] theorem State.resetRegs_fwSwap (a b : Nat) : (s.resetRegs a b).fwSwap = s.fwSwap := rfl
@[simp] theorem State.resetRegs_ledgerVer (a b : Nat) : (s.resetRegs a b).ledgerVer = s.ledgerVer := rfl
@[simp] theorem State.resetRegs_bootLen (a b : Nat) : (s.resetRegs a b).bootLen = s.bootLen := rfl
@[simp] theorem State.resetRegs_pending (a b : Nat) : (s.resetRegs a b).pending = s.pending := rfl

@[simp] theorem State.nextFree_now : (s.nextFree).now = s.now := rfl
@[simp] theorem State.nextFree_regs : (s.nextFree).regs = s.regs := rfl
@[simp] theorem State.nextFree_shadows : (s.nextFree).shadows = s.shadows := rfl
@[simp] theorem State.nextFree_completion : (s.nextFree).completion = s.completion := rfl
@[simp] theorem State.nextFree_shed : (s.nextFree).shed = s.shed := rfl
@[simp] theorem State.nextFree_shedBad : (s.nextFree).shedBad = s.shedBad := rfl
@[simp] theorem State.nextFree_links : (s.nextFree).links = s.links := rfl
@[simp] theorem State.nextFree_pllLost : (s.nextFree).pllLost = s.pllLost := rfl
@[simp] theorem State.nextFree_gaps : (s.nextFree).gaps = s.gaps := rfl
@[simp] theorem State.nextFree_ballast : (s.nextFree).ballast = s.ballast := rfl
@[simp] theorem State.nextFree_landing : (s.nextFree).landing = s.landing := rfl
@[simp] theorem State.nextFree_rate : (s.nextFree).rate = s.rate := rfl
@[simp] theorem State.nextFree_berths : (s.nextFree).berths = s.berths := rfl
@[simp] theorem State.nextFree_coming : (s.nextFree).coming = s.coming := rfl
@[simp] theorem State.nextFree_gens : (s.nextFree).gens = s.gens := rfl
@[simp] theorem State.nextFree_closedOrder : (s.nextFree).closedOrder = s.closedOrder := rfl
@[simp] theorem State.nextFree_carried : (s.nextFree).carried = s.carried := rfl
@[simp] theorem State.nextFree_work : (s.nextFree).work = s.work := rfl
@[simp] theorem State.nextFree_late : (s.nextFree).late = s.late := rfl
@[simp] theorem State.nextFree_cutWork : (s.nextFree).cutWork = s.cutWork := rfl
@[simp] theorem State.nextFree_mfCheck : (s.nextFree).mfCheck = s.mfCheck := rfl
@[simp] theorem State.nextFree_mfPending : (s.nextFree).mfPending = s.mfPending := rfl
@[simp] theorem State.nextFree_mfActive : (s.nextFree).mfActive = s.mfActive := rfl
@[simp] theorem State.nextFree_slotOrder : (s.nextFree).slotOrder = s.slotOrder := rfl
@[simp] theorem State.nextFree_rings : (s.nextFree).rings = s.rings := rfl
@[simp] theorem State.nextFree_quays : (s.nextFree).quays = s.quays := rfl
@[simp] theorem State.nextFree_rx : (s.nextFree).rx = s.rx := rfl
@[simp] theorem State.nextFree_routes : (s.nextFree).routes = s.routes := rfl
@[simp] theorem State.nextFree_replayQ : (s.nextFree).replayQ = s.replayQ := rfl
@[simp] theorem State.nextFree_replaying : (s.nextFree).replaying = s.replaying := rfl
@[simp] theorem State.nextFree_das : (s.nextFree).das = s.das := rfl
@[simp] theorem State.nextFree_tileWrites : (s.nextFree).tileWrites = s.tileWrites := rfl
@[simp] theorem State.nextFree_dasComing : (s.nextFree).dasComing = s.dasComing := rfl
@[simp] theorem State.nextFree_flow : (s.nextFree).flow = s.flow := rfl
@[simp] theorem State.nextFree_flowComing : (s.nextFree).flowComing = s.flowComing := rfl
@[simp] theorem State.nextFree_samples : (s.nextFree).samples = s.samples := rfl
@[simp] theorem State.nextFree_traces : (s.nextFree).traces = s.traces := rfl
@[simp] theorem State.nextFree_hold : (s.nextFree).hold = s.hold := rfl
@[simp] theorem State.nextFree_ledger : (s.nextFree).ledger = s.ledger := rfl
@[simp] theorem State.nextFree_sent : (s.nextFree).sent = s.sent := rfl
@[simp] theorem State.nextFree_signQ : (s.nextFree).signQ = s.signQ := rfl
@[simp] theorem State.nextFree_evtLost : (s.nextFree).evtLost = s.evtLost := rfl
@[simp] theorem State.nextFree_lanes : (s.nextFree).lanes = s.lanes := rfl
@[simp] theorem State.nextFree_fifos : (s.nextFree).fifos = s.fifos := rfl
@[simp] theorem State.nextFree_raman : (s.nextFree).raman = s.raman := rfl
@[simp] theorem State.nextFree_ports : (s.nextFree).ports = s.ports := rfl
@[simp] theorem State.nextFree_ranging : (s.nextFree).ranging = s.ranging := rfl
@[simp] theorem State.nextFree_byb : (s.nextFree).byb = s.byb := rfl
@[simp] theorem State.nextFree_snd : (s.nextFree).snd = s.snd := rfl
@[simp] theorem State.nextFree_sounding : (s.nextFree).sounding = s.sounding := rfl
@[simp] theorem State.nextFree_watches : (s.nextFree).watches = s.watches := rfl
@[simp] theorem State.nextFree_cores : (s.nextFree).cores = s.cores := rfl
@[simp] theorem State.nextFree_clusters : (s.nextFree).clusters = s.clusters := rfl
@[simp] theorem State.nextFree_wh : (s.nextFree).wh = s.wh := rfl
@[simp] theorem State.nextFree_whDone : (s.nextFree).whDone = s.whDone := rfl
@[simp] theorem State.nextFree_tugs : (s.nextFree).tugs = s.tugs := rfl
@[simp] theorem State.nextFree_draining : (s.nextFree).draining = s.draining := rfl
@[simp] theorem State.nextFree_toHost : (s.nextFree).toHost = s.toHost := rfl
@[simp] theorem State.nextFree_signalled : (s.nextFree).signalled = s.signalled := rfl
@[simp] theorem State.nextFree_packs : (s.nextFree).packs = s.packs := rfl
@[simp] theorem State.nextFree_packUsed : (s.nextFree).packUsed = s.packUsed := rfl
@[simp] theorem State.nextFree_streams : (s.nextFree).streams = s.streams := rfl
@[simp] theorem State.nextFree_exportCost : (s.nextFree).exportCost = s.exportCost := rfl
@[simp] theorem State.nextFree_exportDue : (s.nextFree).exportDue = s.exportDue := rfl
@[simp] theorem State.nextFree_stamps : (s.nextFree).stamps = s.stamps := rfl
@[simp] theorem State.nextFree_hawser : (s.nextFree).hawser = s.hawser := rfl
@[simp] theorem State.nextFree_calActive : (s.nextFree).calActive = s.calActive := rfl
@[simp] theorem State.nextFree_quayTrims : (s.nextFree).quayTrims = s.quayTrims := rfl
@[simp] theorem State.nextFree_taps : (s.nextFree).taps = s.taps := rfl
@[simp] theorem State.nextFree_calSel : (s.nextFree).calSel = s.calSel := rfl
@[simp] theorem State.nextFree_calWaiting : (s.nextFree).calWaiting = s.calWaiting := rfl
@[simp] theorem State.nextFree_calDone : (s.nextFree).calDone = s.calDone := rfl
@[simp] theorem State.nextFree_charter : (s.nextFree).charter = s.charter := rfl
@[simp] theorem State.nextFree_power : (s.nextFree).power = s.power := rfl
@[simp] theorem State.nextFree_life : (s.nextFree).life = s.life := rfl
@[simp] theorem State.nextFree_fwSwap : (s.nextFree).fwSwap = s.fwSwap := rfl
@[simp] theorem State.nextFree_ledgerVer : (s.nextFree).ledgerVer = s.ledgerVer := rfl
@[simp] theorem State.nextFree_bootLen : (s.nextFree).bootLen = s.bootLen := rfl
@[simp] theorem State.nextFree_pending : (s.nextFree).pending = s.pending := rfl

@[simp] theorem State.setLand_now (due : Nat) : (s.setLand due).now = s.now := rfl
@[simp] theorem State.setLand_shadows (due : Nat) : (s.setLand due).shadows = s.shadows := rfl
@[simp] theorem State.setLand_completion (due : Nat) : (s.setLand due).completion = s.completion := rfl
@[simp] theorem State.setLand_free (due : Nat) : (s.setLand due).free = s.free := rfl
@[simp] theorem State.setLand_shed (due : Nat) : (s.setLand due).shed = s.shed := rfl
@[simp] theorem State.setLand_shedBad (due : Nat) : (s.setLand due).shedBad = s.shedBad := rfl
@[simp] theorem State.setLand_links (due : Nat) : (s.setLand due).links = s.links := rfl
@[simp] theorem State.setLand_pllLost (due : Nat) : (s.setLand due).pllLost = s.pllLost := rfl
@[simp] theorem State.setLand_gaps (due : Nat) : (s.setLand due).gaps = s.gaps := rfl
@[simp] theorem State.setLand_ballast (due : Nat) : (s.setLand due).ballast = s.ballast := rfl
@[simp] theorem State.setLand_landing (due : Nat) : (s.setLand due).landing = s.landing := rfl
@[simp] theorem State.setLand_rate (due : Nat) : (s.setLand due).rate = s.rate := rfl
@[simp] theorem State.setLand_berths (due : Nat) : (s.setLand due).berths = s.berths := rfl
@[simp] theorem State.setLand_coming (due : Nat) : (s.setLand due).coming = s.coming := rfl
@[simp] theorem State.setLand_gens (due : Nat) : (s.setLand due).gens = s.gens := rfl
@[simp] theorem State.setLand_closedOrder (due : Nat) : (s.setLand due).closedOrder = s.closedOrder := rfl
@[simp] theorem State.setLand_carried (due : Nat) : (s.setLand due).carried = s.carried := rfl
@[simp] theorem State.setLand_work (due : Nat) : (s.setLand due).work = s.work := rfl
@[simp] theorem State.setLand_late (due : Nat) : (s.setLand due).late = s.late := rfl
@[simp] theorem State.setLand_cutWork (due : Nat) : (s.setLand due).cutWork = s.cutWork := rfl
@[simp] theorem State.setLand_mfCheck (due : Nat) : (s.setLand due).mfCheck = s.mfCheck := rfl
@[simp] theorem State.setLand_mfPending (due : Nat) : (s.setLand due).mfPending = s.mfPending := rfl
@[simp] theorem State.setLand_mfActive (due : Nat) : (s.setLand due).mfActive = s.mfActive := rfl
@[simp] theorem State.setLand_slotOrder (due : Nat) : (s.setLand due).slotOrder = s.slotOrder := rfl
@[simp] theorem State.setLand_rings (due : Nat) : (s.setLand due).rings = s.rings := rfl
@[simp] theorem State.setLand_quays (due : Nat) : (s.setLand due).quays = s.quays := rfl
@[simp] theorem State.setLand_rx (due : Nat) : (s.setLand due).rx = s.rx := rfl
@[simp] theorem State.setLand_routes (due : Nat) : (s.setLand due).routes = s.routes := rfl
@[simp] theorem State.setLand_replayQ (due : Nat) : (s.setLand due).replayQ = s.replayQ := rfl
@[simp] theorem State.setLand_replaying (due : Nat) : (s.setLand due).replaying = s.replaying := rfl
@[simp] theorem State.setLand_das (due : Nat) : (s.setLand due).das = s.das := rfl
@[simp] theorem State.setLand_tileWrites (due : Nat) : (s.setLand due).tileWrites = s.tileWrites := rfl
@[simp] theorem State.setLand_dasComing (due : Nat) : (s.setLand due).dasComing = s.dasComing := rfl
@[simp] theorem State.setLand_flow (due : Nat) : (s.setLand due).flow = s.flow := rfl
@[simp] theorem State.setLand_flowComing (due : Nat) : (s.setLand due).flowComing = s.flowComing := rfl
@[simp] theorem State.setLand_samples (due : Nat) : (s.setLand due).samples = s.samples := rfl
@[simp] theorem State.setLand_traces (due : Nat) : (s.setLand due).traces = s.traces := rfl
@[simp] theorem State.setLand_hold (due : Nat) : (s.setLand due).hold = s.hold := rfl
@[simp] theorem State.setLand_ledger (due : Nat) : (s.setLand due).ledger = s.ledger := rfl
@[simp] theorem State.setLand_sent (due : Nat) : (s.setLand due).sent = s.sent := rfl
@[simp] theorem State.setLand_signQ (due : Nat) : (s.setLand due).signQ = s.signQ := rfl
@[simp] theorem State.setLand_evtLost (due : Nat) : (s.setLand due).evtLost = s.evtLost := rfl
@[simp] theorem State.setLand_lanes (due : Nat) : (s.setLand due).lanes = s.lanes := rfl
@[simp] theorem State.setLand_fifos (due : Nat) : (s.setLand due).fifos = s.fifos := rfl
@[simp] theorem State.setLand_raman (due : Nat) : (s.setLand due).raman = s.raman := rfl
@[simp] theorem State.setLand_ports (due : Nat) : (s.setLand due).ports = s.ports := rfl
@[simp] theorem State.setLand_ranging (due : Nat) : (s.setLand due).ranging = s.ranging := rfl
@[simp] theorem State.setLand_byb (due : Nat) : (s.setLand due).byb = s.byb := rfl
@[simp] theorem State.setLand_snd (due : Nat) : (s.setLand due).snd = s.snd := rfl
@[simp] theorem State.setLand_sounding (due : Nat) : (s.setLand due).sounding = s.sounding := rfl
@[simp] theorem State.setLand_watches (due : Nat) : (s.setLand due).watches = s.watches := rfl
@[simp] theorem State.setLand_cores (due : Nat) : (s.setLand due).cores = s.cores := rfl
@[simp] theorem State.setLand_clusters (due : Nat) : (s.setLand due).clusters = s.clusters := rfl
@[simp] theorem State.setLand_wh (due : Nat) : (s.setLand due).wh = s.wh := rfl
@[simp] theorem State.setLand_whDone (due : Nat) : (s.setLand due).whDone = s.whDone := rfl
@[simp] theorem State.setLand_tugs (due : Nat) : (s.setLand due).tugs = s.tugs := rfl
@[simp] theorem State.setLand_draining (due : Nat) : (s.setLand due).draining = s.draining := rfl
@[simp] theorem State.setLand_toHost (due : Nat) : (s.setLand due).toHost = s.toHost := rfl
@[simp] theorem State.setLand_signalled (due : Nat) : (s.setLand due).signalled = s.signalled := rfl
@[simp] theorem State.setLand_packs (due : Nat) : (s.setLand due).packs = s.packs := rfl
@[simp] theorem State.setLand_packUsed (due : Nat) : (s.setLand due).packUsed = s.packUsed := rfl
@[simp] theorem State.setLand_streams (due : Nat) : (s.setLand due).streams = s.streams := rfl
@[simp] theorem State.setLand_exportCost (due : Nat) : (s.setLand due).exportCost = s.exportCost := rfl
@[simp] theorem State.setLand_exportDue (due : Nat) : (s.setLand due).exportDue = s.exportDue := rfl
@[simp] theorem State.setLand_stamps (due : Nat) : (s.setLand due).stamps = s.stamps := rfl
@[simp] theorem State.setLand_hawser (due : Nat) : (s.setLand due).hawser = s.hawser := rfl
@[simp] theorem State.setLand_calActive (due : Nat) : (s.setLand due).calActive = s.calActive := rfl
@[simp] theorem State.setLand_quayTrims (due : Nat) : (s.setLand due).quayTrims = s.quayTrims := rfl
@[simp] theorem State.setLand_taps (due : Nat) : (s.setLand due).taps = s.taps := rfl
@[simp] theorem State.setLand_calSel (due : Nat) : (s.setLand due).calSel = s.calSel := rfl
@[simp] theorem State.setLand_calWaiting (due : Nat) : (s.setLand due).calWaiting = s.calWaiting := rfl
@[simp] theorem State.setLand_calDone (due : Nat) : (s.setLand due).calDone = s.calDone := rfl
@[simp] theorem State.setLand_charter (due : Nat) : (s.setLand due).charter = s.charter := rfl
@[simp] theorem State.setLand_power (due : Nat) : (s.setLand due).power = s.power := rfl
@[simp] theorem State.setLand_life (due : Nat) : (s.setLand due).life = s.life := rfl
@[simp] theorem State.setLand_fwSwap (due : Nat) : (s.setLand due).fwSwap = s.fwSwap := rfl
@[simp] theorem State.setLand_ledgerVer (due : Nat) : (s.setLand due).ledgerVer = s.ledgerVer := rfl
@[simp] theorem State.setLand_bootLen (due : Nat) : (s.setLand due).bootLen = s.bootLen := rfl
@[simp] theorem State.setLand_pending (due : Nat) : (s.setLand due).pending = s.pending := rfl

@[simp] theorem State.acceptAt_now (due : Nat) (c : Change) : (s.acceptAt due c).now = s.now := rfl
@[simp] theorem State.acceptAt_shadows (due : Nat) (c : Change) : (s.acceptAt due c).shadows = s.shadows := rfl
@[simp] theorem State.acceptAt_completion (due : Nat) (c : Change) : (s.acceptAt due c).completion = s.completion := rfl
@[simp] theorem State.acceptAt_free (due : Nat) (c : Change) : (s.acceptAt due c).free = s.free := rfl
@[simp] theorem State.acceptAt_shed (due : Nat) (c : Change) : (s.acceptAt due c).shed = s.shed := rfl
@[simp] theorem State.acceptAt_shedBad (due : Nat) (c : Change) : (s.acceptAt due c).shedBad = s.shedBad := rfl
@[simp] theorem State.acceptAt_links (due : Nat) (c : Change) : (s.acceptAt due c).links = s.links := rfl
@[simp] theorem State.acceptAt_pllLost (due : Nat) (c : Change) : (s.acceptAt due c).pllLost = s.pllLost := rfl
@[simp] theorem State.acceptAt_gaps (due : Nat) (c : Change) : (s.acceptAt due c).gaps = s.gaps := rfl
@[simp] theorem State.acceptAt_ballast (due : Nat) (c : Change) : (s.acceptAt due c).ballast = s.ballast := rfl
@[simp] theorem State.acceptAt_rate (due : Nat) (c : Change) : (s.acceptAt due c).rate = s.rate := rfl
@[simp] theorem State.acceptAt_berths (due : Nat) (c : Change) : (s.acceptAt due c).berths = s.berths := rfl
@[simp] theorem State.acceptAt_coming (due : Nat) (c : Change) : (s.acceptAt due c).coming = s.coming := rfl
@[simp] theorem State.acceptAt_gens (due : Nat) (c : Change) : (s.acceptAt due c).gens = s.gens := rfl
@[simp] theorem State.acceptAt_closedOrder (due : Nat) (c : Change) : (s.acceptAt due c).closedOrder = s.closedOrder := rfl
@[simp] theorem State.acceptAt_carried (due : Nat) (c : Change) : (s.acceptAt due c).carried = s.carried := rfl
@[simp] theorem State.acceptAt_work (due : Nat) (c : Change) : (s.acceptAt due c).work = s.work := rfl
@[simp] theorem State.acceptAt_late (due : Nat) (c : Change) : (s.acceptAt due c).late = s.late := rfl
@[simp] theorem State.acceptAt_cutWork (due : Nat) (c : Change) : (s.acceptAt due c).cutWork = s.cutWork := rfl
@[simp] theorem State.acceptAt_mfCheck (due : Nat) (c : Change) : (s.acceptAt due c).mfCheck = s.mfCheck := rfl
@[simp] theorem State.acceptAt_mfPending (due : Nat) (c : Change) : (s.acceptAt due c).mfPending = s.mfPending := rfl
@[simp] theorem State.acceptAt_mfActive (due : Nat) (c : Change) : (s.acceptAt due c).mfActive = s.mfActive := rfl
@[simp] theorem State.acceptAt_slotOrder (due : Nat) (c : Change) : (s.acceptAt due c).slotOrder = s.slotOrder := rfl
@[simp] theorem State.acceptAt_rings (due : Nat) (c : Change) : (s.acceptAt due c).rings = s.rings := rfl
@[simp] theorem State.acceptAt_quays (due : Nat) (c : Change) : (s.acceptAt due c).quays = s.quays := rfl
@[simp] theorem State.acceptAt_rx (due : Nat) (c : Change) : (s.acceptAt due c).rx = s.rx := rfl
@[simp] theorem State.acceptAt_routes (due : Nat) (c : Change) : (s.acceptAt due c).routes = s.routes := rfl
@[simp] theorem State.acceptAt_replayQ (due : Nat) (c : Change) : (s.acceptAt due c).replayQ = s.replayQ := rfl
@[simp] theorem State.acceptAt_replaying (due : Nat) (c : Change) : (s.acceptAt due c).replaying = s.replaying := rfl
@[simp] theorem State.acceptAt_das (due : Nat) (c : Change) : (s.acceptAt due c).das = s.das := rfl
@[simp] theorem State.acceptAt_tileWrites (due : Nat) (c : Change) : (s.acceptAt due c).tileWrites = s.tileWrites := rfl
@[simp] theorem State.acceptAt_dasComing (due : Nat) (c : Change) : (s.acceptAt due c).dasComing = s.dasComing := rfl
@[simp] theorem State.acceptAt_flow (due : Nat) (c : Change) : (s.acceptAt due c).flow = s.flow := rfl
@[simp] theorem State.acceptAt_flowComing (due : Nat) (c : Change) : (s.acceptAt due c).flowComing = s.flowComing := rfl
@[simp] theorem State.acceptAt_samples (due : Nat) (c : Change) : (s.acceptAt due c).samples = s.samples := rfl
@[simp] theorem State.acceptAt_traces (due : Nat) (c : Change) : (s.acceptAt due c).traces = s.traces := rfl
@[simp] theorem State.acceptAt_hold (due : Nat) (c : Change) : (s.acceptAt due c).hold = s.hold := rfl
@[simp] theorem State.acceptAt_ledger (due : Nat) (c : Change) : (s.acceptAt due c).ledger = s.ledger := rfl
@[simp] theorem State.acceptAt_sent (due : Nat) (c : Change) : (s.acceptAt due c).sent = s.sent := rfl
@[simp] theorem State.acceptAt_signQ (due : Nat) (c : Change) : (s.acceptAt due c).signQ = s.signQ := rfl
@[simp] theorem State.acceptAt_evtLost (due : Nat) (c : Change) : (s.acceptAt due c).evtLost = s.evtLost := rfl
@[simp] theorem State.acceptAt_lanes (due : Nat) (c : Change) : (s.acceptAt due c).lanes = s.lanes := rfl
@[simp] theorem State.acceptAt_fifos (due : Nat) (c : Change) : (s.acceptAt due c).fifos = s.fifos := rfl
@[simp] theorem State.acceptAt_raman (due : Nat) (c : Change) : (s.acceptAt due c).raman = s.raman := rfl
@[simp] theorem State.acceptAt_ports (due : Nat) (c : Change) : (s.acceptAt due c).ports = s.ports := rfl
@[simp] theorem State.acceptAt_ranging (due : Nat) (c : Change) : (s.acceptAt due c).ranging = s.ranging := rfl
@[simp] theorem State.acceptAt_byb (due : Nat) (c : Change) : (s.acceptAt due c).byb = s.byb := rfl
@[simp] theorem State.acceptAt_snd (due : Nat) (c : Change) : (s.acceptAt due c).snd = s.snd := rfl
@[simp] theorem State.acceptAt_sounding (due : Nat) (c : Change) : (s.acceptAt due c).sounding = s.sounding := rfl
@[simp] theorem State.acceptAt_watches (due : Nat) (c : Change) : (s.acceptAt due c).watches = s.watches := rfl
@[simp] theorem State.acceptAt_cores (due : Nat) (c : Change) : (s.acceptAt due c).cores = s.cores := rfl
@[simp] theorem State.acceptAt_clusters (due : Nat) (c : Change) : (s.acceptAt due c).clusters = s.clusters := rfl
@[simp] theorem State.acceptAt_wh (due : Nat) (c : Change) : (s.acceptAt due c).wh = s.wh := rfl
@[simp] theorem State.acceptAt_whDone (due : Nat) (c : Change) : (s.acceptAt due c).whDone = s.whDone := rfl
@[simp] theorem State.acceptAt_tugs (due : Nat) (c : Change) : (s.acceptAt due c).tugs = s.tugs := rfl
@[simp] theorem State.acceptAt_draining (due : Nat) (c : Change) : (s.acceptAt due c).draining = s.draining := rfl
@[simp] theorem State.acceptAt_toHost (due : Nat) (c : Change) : (s.acceptAt due c).toHost = s.toHost := rfl
@[simp] theorem State.acceptAt_signalled (due : Nat) (c : Change) : (s.acceptAt due c).signalled = s.signalled := rfl
@[simp] theorem State.acceptAt_packs (due : Nat) (c : Change) : (s.acceptAt due c).packs = s.packs := rfl
@[simp] theorem State.acceptAt_packUsed (due : Nat) (c : Change) : (s.acceptAt due c).packUsed = s.packUsed := rfl
@[simp] theorem State.acceptAt_streams (due : Nat) (c : Change) : (s.acceptAt due c).streams = s.streams := rfl
@[simp] theorem State.acceptAt_exportCost (due : Nat) (c : Change) : (s.acceptAt due c).exportCost = s.exportCost := rfl
@[simp] theorem State.acceptAt_exportDue (due : Nat) (c : Change) : (s.acceptAt due c).exportDue = s.exportDue := rfl
@[simp] theorem State.acceptAt_stamps (due : Nat) (c : Change) : (s.acceptAt due c).stamps = s.stamps := rfl
@[simp] theorem State.acceptAt_hawser (due : Nat) (c : Change) : (s.acceptAt due c).hawser = s.hawser := rfl
@[simp] theorem State.acceptAt_calActive (due : Nat) (c : Change) : (s.acceptAt due c).calActive = s.calActive := rfl
@[simp] theorem State.acceptAt_quayTrims (due : Nat) (c : Change) : (s.acceptAt due c).quayTrims = s.quayTrims := rfl
@[simp] theorem State.acceptAt_taps (due : Nat) (c : Change) : (s.acceptAt due c).taps = s.taps := rfl
@[simp] theorem State.acceptAt_calSel (due : Nat) (c : Change) : (s.acceptAt due c).calSel = s.calSel := rfl
@[simp] theorem State.acceptAt_calWaiting (due : Nat) (c : Change) : (s.acceptAt due c).calWaiting = s.calWaiting := rfl
@[simp] theorem State.acceptAt_calDone (due : Nat) (c : Change) : (s.acceptAt due c).calDone = s.calDone := rfl
@[simp] theorem State.acceptAt_charter (due : Nat) (c : Change) : (s.acceptAt due c).charter = s.charter := rfl
@[simp] theorem State.acceptAt_power (due : Nat) (c : Change) : (s.acceptAt due c).power = s.power := rfl
@[simp] theorem State.acceptAt_life (due : Nat) (c : Change) : (s.acceptAt due c).life = s.life := rfl
@[simp] theorem State.acceptAt_fwSwap (due : Nat) (c : Change) : (s.acceptAt due c).fwSwap = s.fwSwap := rfl
@[simp] theorem State.acceptAt_ledgerVer (due : Nat) (c : Change) : (s.acceptAt due c).ledgerVer = s.ledgerVer := rfl
@[simp] theorem State.acceptAt_bootLen (due : Nat) (c : Change) : (s.acceptAt due c).bootLen = s.bootLen := rfl
@[simp] theorem State.acceptAt_pending (due : Nat) (c : Change) : (s.acceptAt due c).pending = s.pending := rfl

@[simp] theorem State.accept_now (c : Change) : (s.accept c).now = s.now := State.acceptAt_now ..
@[simp] theorem State.accept_shadows (c : Change) : (s.accept c).shadows = s.shadows := State.acceptAt_shadows ..
@[simp] theorem State.accept_completion (c : Change) : (s.accept c).completion = s.completion := State.acceptAt_completion ..
@[simp] theorem State.accept_free (c : Change) : (s.accept c).free = s.free := State.acceptAt_free ..
@[simp] theorem State.accept_shed (c : Change) : (s.accept c).shed = s.shed := State.acceptAt_shed ..
@[simp] theorem State.accept_shedBad (c : Change) : (s.accept c).shedBad = s.shedBad := State.acceptAt_shedBad ..
@[simp] theorem State.accept_links (c : Change) : (s.accept c).links = s.links := State.acceptAt_links ..
@[simp] theorem State.accept_pllLost (c : Change) : (s.accept c).pllLost = s.pllLost := State.acceptAt_pllLost ..
@[simp] theorem State.accept_gaps (c : Change) : (s.accept c).gaps = s.gaps := State.acceptAt_gaps ..
@[simp] theorem State.accept_ballast (c : Change) : (s.accept c).ballast = s.ballast := State.acceptAt_ballast ..
@[simp] theorem State.accept_rate (c : Change) : (s.accept c).rate = s.rate := State.acceptAt_rate ..
@[simp] theorem State.accept_berths (c : Change) : (s.accept c).berths = s.berths := State.acceptAt_berths ..
@[simp] theorem State.accept_coming (c : Change) : (s.accept c).coming = s.coming := State.acceptAt_coming ..
@[simp] theorem State.accept_gens (c : Change) : (s.accept c).gens = s.gens := State.acceptAt_gens ..
@[simp] theorem State.accept_closedOrder (c : Change) : (s.accept c).closedOrder = s.closedOrder := State.acceptAt_closedOrder ..
@[simp] theorem State.accept_carried (c : Change) : (s.accept c).carried = s.carried := State.acceptAt_carried ..
@[simp] theorem State.accept_work (c : Change) : (s.accept c).work = s.work := State.acceptAt_work ..
@[simp] theorem State.accept_late (c : Change) : (s.accept c).late = s.late := State.acceptAt_late ..
@[simp] theorem State.accept_cutWork (c : Change) : (s.accept c).cutWork = s.cutWork := State.acceptAt_cutWork ..
@[simp] theorem State.accept_mfCheck (c : Change) : (s.accept c).mfCheck = s.mfCheck := State.acceptAt_mfCheck ..
@[simp] theorem State.accept_mfPending (c : Change) : (s.accept c).mfPending = s.mfPending := State.acceptAt_mfPending ..
@[simp] theorem State.accept_mfActive (c : Change) : (s.accept c).mfActive = s.mfActive := State.acceptAt_mfActive ..
@[simp] theorem State.accept_slotOrder (c : Change) : (s.accept c).slotOrder = s.slotOrder := State.acceptAt_slotOrder ..
@[simp] theorem State.accept_rings (c : Change) : (s.accept c).rings = s.rings := State.acceptAt_rings ..
@[simp] theorem State.accept_quays (c : Change) : (s.accept c).quays = s.quays := State.acceptAt_quays ..
@[simp] theorem State.accept_rx (c : Change) : (s.accept c).rx = s.rx := State.acceptAt_rx ..
@[simp] theorem State.accept_routes (c : Change) : (s.accept c).routes = s.routes := State.acceptAt_routes ..
@[simp] theorem State.accept_replayQ (c : Change) : (s.accept c).replayQ = s.replayQ := State.acceptAt_replayQ ..
@[simp] theorem State.accept_replaying (c : Change) : (s.accept c).replaying = s.replaying := State.acceptAt_replaying ..
@[simp] theorem State.accept_das (c : Change) : (s.accept c).das = s.das := State.acceptAt_das ..
@[simp] theorem State.accept_tileWrites (c : Change) : (s.accept c).tileWrites = s.tileWrites := State.acceptAt_tileWrites ..
@[simp] theorem State.accept_dasComing (c : Change) : (s.accept c).dasComing = s.dasComing := State.acceptAt_dasComing ..
@[simp] theorem State.accept_flow (c : Change) : (s.accept c).flow = s.flow := State.acceptAt_flow ..
@[simp] theorem State.accept_flowComing (c : Change) : (s.accept c).flowComing = s.flowComing := State.acceptAt_flowComing ..
@[simp] theorem State.accept_samples (c : Change) : (s.accept c).samples = s.samples := State.acceptAt_samples ..
@[simp] theorem State.accept_traces (c : Change) : (s.accept c).traces = s.traces := State.acceptAt_traces ..
@[simp] theorem State.accept_hold (c : Change) : (s.accept c).hold = s.hold := State.acceptAt_hold ..
@[simp] theorem State.accept_ledger (c : Change) : (s.accept c).ledger = s.ledger := State.acceptAt_ledger ..
@[simp] theorem State.accept_sent (c : Change) : (s.accept c).sent = s.sent := State.acceptAt_sent ..
@[simp] theorem State.accept_signQ (c : Change) : (s.accept c).signQ = s.signQ := State.acceptAt_signQ ..
@[simp] theorem State.accept_evtLost (c : Change) : (s.accept c).evtLost = s.evtLost := State.acceptAt_evtLost ..
@[simp] theorem State.accept_lanes (c : Change) : (s.accept c).lanes = s.lanes := State.acceptAt_lanes ..
@[simp] theorem State.accept_fifos (c : Change) : (s.accept c).fifos = s.fifos := State.acceptAt_fifos ..
@[simp] theorem State.accept_raman (c : Change) : (s.accept c).raman = s.raman := State.acceptAt_raman ..
@[simp] theorem State.accept_ports (c : Change) : (s.accept c).ports = s.ports := State.acceptAt_ports ..
@[simp] theorem State.accept_ranging (c : Change) : (s.accept c).ranging = s.ranging := State.acceptAt_ranging ..
@[simp] theorem State.accept_byb (c : Change) : (s.accept c).byb = s.byb := State.acceptAt_byb ..
@[simp] theorem State.accept_snd (c : Change) : (s.accept c).snd = s.snd := State.acceptAt_snd ..
@[simp] theorem State.accept_sounding (c : Change) : (s.accept c).sounding = s.sounding := State.acceptAt_sounding ..
@[simp] theorem State.accept_watches (c : Change) : (s.accept c).watches = s.watches := State.acceptAt_watches ..
@[simp] theorem State.accept_cores (c : Change) : (s.accept c).cores = s.cores := State.acceptAt_cores ..
@[simp] theorem State.accept_clusters (c : Change) : (s.accept c).clusters = s.clusters := State.acceptAt_clusters ..
@[simp] theorem State.accept_wh (c : Change) : (s.accept c).wh = s.wh := State.acceptAt_wh ..
@[simp] theorem State.accept_whDone (c : Change) : (s.accept c).whDone = s.whDone := State.acceptAt_whDone ..
@[simp] theorem State.accept_tugs (c : Change) : (s.accept c).tugs = s.tugs := State.acceptAt_tugs ..
@[simp] theorem State.accept_draining (c : Change) : (s.accept c).draining = s.draining := State.acceptAt_draining ..
@[simp] theorem State.accept_toHost (c : Change) : (s.accept c).toHost = s.toHost := State.acceptAt_toHost ..
@[simp] theorem State.accept_signalled (c : Change) : (s.accept c).signalled = s.signalled := State.acceptAt_signalled ..
@[simp] theorem State.accept_packs (c : Change) : (s.accept c).packs = s.packs := State.acceptAt_packs ..
@[simp] theorem State.accept_packUsed (c : Change) : (s.accept c).packUsed = s.packUsed := State.acceptAt_packUsed ..
@[simp] theorem State.accept_streams (c : Change) : (s.accept c).streams = s.streams := State.acceptAt_streams ..
@[simp] theorem State.accept_exportCost (c : Change) : (s.accept c).exportCost = s.exportCost := State.acceptAt_exportCost ..
@[simp] theorem State.accept_exportDue (c : Change) : (s.accept c).exportDue = s.exportDue := State.acceptAt_exportDue ..
@[simp] theorem State.accept_stamps (c : Change) : (s.accept c).stamps = s.stamps := State.acceptAt_stamps ..
@[simp] theorem State.accept_hawser (c : Change) : (s.accept c).hawser = s.hawser := State.acceptAt_hawser ..
@[simp] theorem State.accept_calActive (c : Change) : (s.accept c).calActive = s.calActive := State.acceptAt_calActive ..
@[simp] theorem State.accept_quayTrims (c : Change) : (s.accept c).quayTrims = s.quayTrims := State.acceptAt_quayTrims ..
@[simp] theorem State.accept_taps (c : Change) : (s.accept c).taps = s.taps := State.acceptAt_taps ..
@[simp] theorem State.accept_calSel (c : Change) : (s.accept c).calSel = s.calSel := State.acceptAt_calSel ..
@[simp] theorem State.accept_calWaiting (c : Change) : (s.accept c).calWaiting = s.calWaiting := State.acceptAt_calWaiting ..
@[simp] theorem State.accept_calDone (c : Change) : (s.accept c).calDone = s.calDone := State.acceptAt_calDone ..
@[simp] theorem State.accept_charter (c : Change) : (s.accept c).charter = s.charter := State.acceptAt_charter ..
@[simp] theorem State.accept_power (c : Change) : (s.accept c).power = s.power := State.acceptAt_power ..
@[simp] theorem State.accept_life (c : Change) : (s.accept c).life = s.life := State.acceptAt_life ..
@[simp] theorem State.accept_fwSwap (c : Change) : (s.accept c).fwSwap = s.fwSwap := State.acceptAt_fwSwap ..
@[simp] theorem State.accept_ledgerVer (c : Change) : (s.accept c).ledgerVer = s.ledgerVer := State.acceptAt_ledgerVer ..
@[simp] theorem State.accept_bootLen (c : Change) : (s.accept c).bootLen = s.bootLen := State.acceptAt_bootLen ..
@[simp] theorem State.accept_pending (c : Change) : (s.accept c).pending = s.pending := State.acceptAt_pending ..

@[simp] theorem State.dropWaiting_now (p : Change → Bool) : (s.dropWaiting p).now = s.now := rfl
@[simp] theorem State.dropWaiting_regs (p : Change → Bool) : (s.dropWaiting p).regs = s.regs := rfl
@[simp] theorem State.dropWaiting_shadows (p : Change → Bool) : (s.dropWaiting p).shadows = s.shadows := rfl
@[simp] theorem State.dropWaiting_completion (p : Change → Bool) : (s.dropWaiting p).completion = s.completion := rfl
@[simp] theorem State.dropWaiting_free (p : Change → Bool) : (s.dropWaiting p).free = s.free := rfl
@[simp] theorem State.dropWaiting_shed (p : Change → Bool) : (s.dropWaiting p).shed = s.shed := rfl
@[simp] theorem State.dropWaiting_shedBad (p : Change → Bool) : (s.dropWaiting p).shedBad = s.shedBad := rfl
@[simp] theorem State.dropWaiting_links (p : Change → Bool) : (s.dropWaiting p).links = s.links := rfl
@[simp] theorem State.dropWaiting_pllLost (p : Change → Bool) : (s.dropWaiting p).pllLost = s.pllLost := rfl
@[simp] theorem State.dropWaiting_gaps (p : Change → Bool) : (s.dropWaiting p).gaps = s.gaps := rfl
@[simp] theorem State.dropWaiting_ballast (p : Change → Bool) : (s.dropWaiting p).ballast = s.ballast := rfl
@[simp] theorem State.dropWaiting_rate (p : Change → Bool) : (s.dropWaiting p).rate = s.rate := rfl
@[simp] theorem State.dropWaiting_berths (p : Change → Bool) : (s.dropWaiting p).berths = s.berths := rfl
@[simp] theorem State.dropWaiting_coming (p : Change → Bool) : (s.dropWaiting p).coming = s.coming := rfl
@[simp] theorem State.dropWaiting_gens (p : Change → Bool) : (s.dropWaiting p).gens = s.gens := rfl
@[simp] theorem State.dropWaiting_closedOrder (p : Change → Bool) : (s.dropWaiting p).closedOrder = s.closedOrder := rfl
@[simp] theorem State.dropWaiting_carried (p : Change → Bool) : (s.dropWaiting p).carried = s.carried := rfl
@[simp] theorem State.dropWaiting_work (p : Change → Bool) : (s.dropWaiting p).work = s.work := rfl
@[simp] theorem State.dropWaiting_late (p : Change → Bool) : (s.dropWaiting p).late = s.late := rfl
@[simp] theorem State.dropWaiting_cutWork (p : Change → Bool) : (s.dropWaiting p).cutWork = s.cutWork := rfl
@[simp] theorem State.dropWaiting_mfCheck (p : Change → Bool) : (s.dropWaiting p).mfCheck = s.mfCheck := rfl
@[simp] theorem State.dropWaiting_mfPending (p : Change → Bool) : (s.dropWaiting p).mfPending = s.mfPending := rfl
@[simp] theorem State.dropWaiting_mfActive (p : Change → Bool) : (s.dropWaiting p).mfActive = s.mfActive := rfl
@[simp] theorem State.dropWaiting_slotOrder (p : Change → Bool) : (s.dropWaiting p).slotOrder = s.slotOrder := rfl
@[simp] theorem State.dropWaiting_rings (p : Change → Bool) : (s.dropWaiting p).rings = s.rings := rfl
@[simp] theorem State.dropWaiting_quays (p : Change → Bool) : (s.dropWaiting p).quays = s.quays := rfl
@[simp] theorem State.dropWaiting_rx (p : Change → Bool) : (s.dropWaiting p).rx = s.rx := rfl
@[simp] theorem State.dropWaiting_routes (p : Change → Bool) : (s.dropWaiting p).routes = s.routes := rfl
@[simp] theorem State.dropWaiting_replayQ (p : Change → Bool) : (s.dropWaiting p).replayQ = s.replayQ := rfl
@[simp] theorem State.dropWaiting_replaying (p : Change → Bool) : (s.dropWaiting p).replaying = s.replaying := rfl
@[simp] theorem State.dropWaiting_das (p : Change → Bool) : (s.dropWaiting p).das = s.das := rfl
@[simp] theorem State.dropWaiting_tileWrites (p : Change → Bool) : (s.dropWaiting p).tileWrites = s.tileWrites := rfl
@[simp] theorem State.dropWaiting_dasComing (p : Change → Bool) : (s.dropWaiting p).dasComing = s.dasComing := rfl
@[simp] theorem State.dropWaiting_flow (p : Change → Bool) : (s.dropWaiting p).flow = s.flow := rfl
@[simp] theorem State.dropWaiting_flowComing (p : Change → Bool) : (s.dropWaiting p).flowComing = s.flowComing := rfl
@[simp] theorem State.dropWaiting_samples (p : Change → Bool) : (s.dropWaiting p).samples = s.samples := rfl
@[simp] theorem State.dropWaiting_traces (p : Change → Bool) : (s.dropWaiting p).traces = s.traces := rfl
@[simp] theorem State.dropWaiting_hold (p : Change → Bool) : (s.dropWaiting p).hold = s.hold := rfl
@[simp] theorem State.dropWaiting_ledger (p : Change → Bool) : (s.dropWaiting p).ledger = s.ledger := rfl
@[simp] theorem State.dropWaiting_sent (p : Change → Bool) : (s.dropWaiting p).sent = s.sent := rfl
@[simp] theorem State.dropWaiting_signQ (p : Change → Bool) : (s.dropWaiting p).signQ = s.signQ := rfl
@[simp] theorem State.dropWaiting_evtLost (p : Change → Bool) : (s.dropWaiting p).evtLost = s.evtLost := rfl
@[simp] theorem State.dropWaiting_lanes (p : Change → Bool) : (s.dropWaiting p).lanes = s.lanes := rfl
@[simp] theorem State.dropWaiting_fifos (p : Change → Bool) : (s.dropWaiting p).fifos = s.fifos := rfl
@[simp] theorem State.dropWaiting_raman (p : Change → Bool) : (s.dropWaiting p).raman = s.raman := rfl
@[simp] theorem State.dropWaiting_ports (p : Change → Bool) : (s.dropWaiting p).ports = s.ports := rfl
@[simp] theorem State.dropWaiting_ranging (p : Change → Bool) : (s.dropWaiting p).ranging = s.ranging := rfl
@[simp] theorem State.dropWaiting_byb (p : Change → Bool) : (s.dropWaiting p).byb = s.byb := rfl
@[simp] theorem State.dropWaiting_snd (p : Change → Bool) : (s.dropWaiting p).snd = s.snd := rfl
@[simp] theorem State.dropWaiting_sounding (p : Change → Bool) : (s.dropWaiting p).sounding = s.sounding := rfl
@[simp] theorem State.dropWaiting_watches (p : Change → Bool) : (s.dropWaiting p).watches = s.watches := rfl
@[simp] theorem State.dropWaiting_cores (p : Change → Bool) : (s.dropWaiting p).cores = s.cores := rfl
@[simp] theorem State.dropWaiting_clusters (p : Change → Bool) : (s.dropWaiting p).clusters = s.clusters := rfl
@[simp] theorem State.dropWaiting_wh (p : Change → Bool) : (s.dropWaiting p).wh = s.wh := rfl
@[simp] theorem State.dropWaiting_whDone (p : Change → Bool) : (s.dropWaiting p).whDone = s.whDone := rfl
@[simp] theorem State.dropWaiting_tugs (p : Change → Bool) : (s.dropWaiting p).tugs = s.tugs := rfl
@[simp] theorem State.dropWaiting_draining (p : Change → Bool) : (s.dropWaiting p).draining = s.draining := rfl
@[simp] theorem State.dropWaiting_toHost (p : Change → Bool) : (s.dropWaiting p).toHost = s.toHost := rfl
@[simp] theorem State.dropWaiting_signalled (p : Change → Bool) : (s.dropWaiting p).signalled = s.signalled := rfl
@[simp] theorem State.dropWaiting_packs (p : Change → Bool) : (s.dropWaiting p).packs = s.packs := rfl
@[simp] theorem State.dropWaiting_packUsed (p : Change → Bool) : (s.dropWaiting p).packUsed = s.packUsed := rfl
@[simp] theorem State.dropWaiting_streams (p : Change → Bool) : (s.dropWaiting p).streams = s.streams := rfl
@[simp] theorem State.dropWaiting_exportCost (p : Change → Bool) : (s.dropWaiting p).exportCost = s.exportCost := rfl
@[simp] theorem State.dropWaiting_exportDue (p : Change → Bool) : (s.dropWaiting p).exportDue = s.exportDue := rfl
@[simp] theorem State.dropWaiting_stamps (p : Change → Bool) : (s.dropWaiting p).stamps = s.stamps := rfl
@[simp] theorem State.dropWaiting_hawser (p : Change → Bool) : (s.dropWaiting p).hawser = s.hawser := rfl
@[simp] theorem State.dropWaiting_calActive (p : Change → Bool) : (s.dropWaiting p).calActive = s.calActive := rfl
@[simp] theorem State.dropWaiting_quayTrims (p : Change → Bool) : (s.dropWaiting p).quayTrims = s.quayTrims := rfl
@[simp] theorem State.dropWaiting_taps (p : Change → Bool) : (s.dropWaiting p).taps = s.taps := rfl
@[simp] theorem State.dropWaiting_calSel (p : Change → Bool) : (s.dropWaiting p).calSel = s.calSel := rfl
@[simp] theorem State.dropWaiting_calWaiting (p : Change → Bool) : (s.dropWaiting p).calWaiting = s.calWaiting := rfl
@[simp] theorem State.dropWaiting_calDone (p : Change → Bool) : (s.dropWaiting p).calDone = s.calDone := rfl
@[simp] theorem State.dropWaiting_charter (p : Change → Bool) : (s.dropWaiting p).charter = s.charter := rfl
@[simp] theorem State.dropWaiting_power (p : Change → Bool) : (s.dropWaiting p).power = s.power := rfl
@[simp] theorem State.dropWaiting_life (p : Change → Bool) : (s.dropWaiting p).life = s.life := rfl
@[simp] theorem State.dropWaiting_fwSwap (p : Change → Bool) : (s.dropWaiting p).fwSwap = s.fwSwap := rfl
@[simp] theorem State.dropWaiting_ledgerVer (p : Change → Bool) : (s.dropWaiting p).ledgerVer = s.ledgerVer := rfl
@[simp] theorem State.dropWaiting_bootLen (p : Change → Bool) : (s.dropWaiting p).bootLen = s.bootLen := rfl
@[simp] theorem State.dropWaiting_pending (p : Change → Bool) : (s.dropWaiting p).pending = s.pending := rfl

@[simp] theorem State.lockAnswer_now (d : Nat) : (s.lockAnswer d).now = s.now := rfl
@[simp] theorem State.lockAnswer_shadows (d : Nat) : (s.lockAnswer d).shadows = s.shadows := rfl
@[simp] theorem State.lockAnswer_completion (d : Nat) : (s.lockAnswer d).completion = s.completion := rfl
@[simp] theorem State.lockAnswer_free (d : Nat) : (s.lockAnswer d).free = s.free := rfl
@[simp] theorem State.lockAnswer_shed (d : Nat) : (s.lockAnswer d).shed = s.shed := rfl
@[simp] theorem State.lockAnswer_shedBad (d : Nat) : (s.lockAnswer d).shedBad = s.shedBad := rfl
@[simp] theorem State.lockAnswer_links (d : Nat) : (s.lockAnswer d).links = s.links := rfl
@[simp] theorem State.lockAnswer_pllLost (d : Nat) : (s.lockAnswer d).pllLost = s.pllLost := rfl
@[simp] theorem State.lockAnswer_gaps (d : Nat) : (s.lockAnswer d).gaps = s.gaps := rfl
@[simp] theorem State.lockAnswer_ballast (d : Nat) : (s.lockAnswer d).ballast = s.ballast := rfl
@[simp] theorem State.lockAnswer_landing (d : Nat) : (s.lockAnswer d).landing = s.landing := rfl
@[simp] theorem State.lockAnswer_rate (d : Nat) : (s.lockAnswer d).rate = s.rate := rfl
@[simp] theorem State.lockAnswer_berths (d : Nat) : (s.lockAnswer d).berths = s.berths := rfl
@[simp] theorem State.lockAnswer_coming (d : Nat) : (s.lockAnswer d).coming = s.coming := rfl
@[simp] theorem State.lockAnswer_gens (d : Nat) : (s.lockAnswer d).gens = s.gens := rfl
@[simp] theorem State.lockAnswer_closedOrder (d : Nat) : (s.lockAnswer d).closedOrder = s.closedOrder := rfl
@[simp] theorem State.lockAnswer_carried (d : Nat) : (s.lockAnswer d).carried = s.carried := rfl
@[simp] theorem State.lockAnswer_work (d : Nat) : (s.lockAnswer d).work = s.work := rfl
@[simp] theorem State.lockAnswer_late (d : Nat) : (s.lockAnswer d).late = s.late := rfl
@[simp] theorem State.lockAnswer_cutWork (d : Nat) : (s.lockAnswer d).cutWork = s.cutWork := rfl
@[simp] theorem State.lockAnswer_mfCheck (d : Nat) : (s.lockAnswer d).mfCheck = s.mfCheck := rfl
@[simp] theorem State.lockAnswer_mfPending (d : Nat) : (s.lockAnswer d).mfPending = s.mfPending := rfl
@[simp] theorem State.lockAnswer_mfActive (d : Nat) : (s.lockAnswer d).mfActive = s.mfActive := rfl
@[simp] theorem State.lockAnswer_slotOrder (d : Nat) : (s.lockAnswer d).slotOrder = s.slotOrder := rfl
@[simp] theorem State.lockAnswer_rings (d : Nat) : (s.lockAnswer d).rings = s.rings := rfl
@[simp] theorem State.lockAnswer_quays (d : Nat) : (s.lockAnswer d).quays = s.quays := rfl
@[simp] theorem State.lockAnswer_rx (d : Nat) : (s.lockAnswer d).rx = s.rx := rfl
@[simp] theorem State.lockAnswer_routes (d : Nat) : (s.lockAnswer d).routes = s.routes := rfl
@[simp] theorem State.lockAnswer_replayQ (d : Nat) : (s.lockAnswer d).replayQ = s.replayQ := rfl
@[simp] theorem State.lockAnswer_replaying (d : Nat) : (s.lockAnswer d).replaying = s.replaying := rfl
@[simp] theorem State.lockAnswer_das (d : Nat) : (s.lockAnswer d).das = s.das := rfl
@[simp] theorem State.lockAnswer_tileWrites (d : Nat) : (s.lockAnswer d).tileWrites = s.tileWrites := rfl
@[simp] theorem State.lockAnswer_dasComing (d : Nat) : (s.lockAnswer d).dasComing = s.dasComing := rfl
@[simp] theorem State.lockAnswer_flow (d : Nat) : (s.lockAnswer d).flow = s.flow := rfl
@[simp] theorem State.lockAnswer_flowComing (d : Nat) : (s.lockAnswer d).flowComing = s.flowComing := rfl
@[simp] theorem State.lockAnswer_samples (d : Nat) : (s.lockAnswer d).samples = s.samples := rfl
@[simp] theorem State.lockAnswer_traces (d : Nat) : (s.lockAnswer d).traces = s.traces := rfl
@[simp] theorem State.lockAnswer_hold (d : Nat) : (s.lockAnswer d).hold = s.hold := rfl
@[simp] theorem State.lockAnswer_ledger (d : Nat) : (s.lockAnswer d).ledger = s.ledger := rfl
@[simp] theorem State.lockAnswer_sent (d : Nat) : (s.lockAnswer d).sent = s.sent := rfl
@[simp] theorem State.lockAnswer_signQ (d : Nat) : (s.lockAnswer d).signQ = s.signQ := rfl
@[simp] theorem State.lockAnswer_evtLost (d : Nat) : (s.lockAnswer d).evtLost = s.evtLost := rfl
@[simp] theorem State.lockAnswer_lanes (d : Nat) : (s.lockAnswer d).lanes = s.lanes := rfl
@[simp] theorem State.lockAnswer_fifos (d : Nat) : (s.lockAnswer d).fifos = s.fifos := rfl
@[simp] theorem State.lockAnswer_raman (d : Nat) : (s.lockAnswer d).raman = s.raman := rfl
@[simp] theorem State.lockAnswer_ports (d : Nat) : (s.lockAnswer d).ports = s.ports := rfl
@[simp] theorem State.lockAnswer_ranging (d : Nat) : (s.lockAnswer d).ranging = s.ranging := rfl
@[simp] theorem State.lockAnswer_byb (d : Nat) : (s.lockAnswer d).byb = s.byb := rfl
@[simp] theorem State.lockAnswer_snd (d : Nat) : (s.lockAnswer d).snd = s.snd := rfl
@[simp] theorem State.lockAnswer_sounding (d : Nat) : (s.lockAnswer d).sounding = s.sounding := rfl
@[simp] theorem State.lockAnswer_watches (d : Nat) : (s.lockAnswer d).watches = s.watches := rfl
@[simp] theorem State.lockAnswer_cores (d : Nat) : (s.lockAnswer d).cores = s.cores := rfl
@[simp] theorem State.lockAnswer_clusters (d : Nat) : (s.lockAnswer d).clusters = s.clusters := rfl
@[simp] theorem State.lockAnswer_wh (d : Nat) : (s.lockAnswer d).wh = s.wh := rfl
@[simp] theorem State.lockAnswer_whDone (d : Nat) : (s.lockAnswer d).whDone = s.whDone := rfl
@[simp] theorem State.lockAnswer_tugs (d : Nat) : (s.lockAnswer d).tugs = s.tugs := rfl
@[simp] theorem State.lockAnswer_draining (d : Nat) : (s.lockAnswer d).draining = s.draining := rfl
@[simp] theorem State.lockAnswer_toHost (d : Nat) : (s.lockAnswer d).toHost = s.toHost := rfl
@[simp] theorem State.lockAnswer_signalled (d : Nat) : (s.lockAnswer d).signalled = s.signalled := rfl
@[simp] theorem State.lockAnswer_packs (d : Nat) : (s.lockAnswer d).packs = s.packs := rfl
@[simp] theorem State.lockAnswer_packUsed (d : Nat) : (s.lockAnswer d).packUsed = s.packUsed := rfl
@[simp] theorem State.lockAnswer_streams (d : Nat) : (s.lockAnswer d).streams = s.streams := rfl
@[simp] theorem State.lockAnswer_exportCost (d : Nat) : (s.lockAnswer d).exportCost = s.exportCost := rfl
@[simp] theorem State.lockAnswer_exportDue (d : Nat) : (s.lockAnswer d).exportDue = s.exportDue := rfl
@[simp] theorem State.lockAnswer_stamps (d : Nat) : (s.lockAnswer d).stamps = s.stamps := rfl
@[simp] theorem State.lockAnswer_hawser (d : Nat) : (s.lockAnswer d).hawser = s.hawser := rfl
@[simp] theorem State.lockAnswer_calActive (d : Nat) : (s.lockAnswer d).calActive = s.calActive := rfl
@[simp] theorem State.lockAnswer_quayTrims (d : Nat) : (s.lockAnswer d).quayTrims = s.quayTrims := rfl
@[simp] theorem State.lockAnswer_taps (d : Nat) : (s.lockAnswer d).taps = s.taps := rfl
@[simp] theorem State.lockAnswer_calSel (d : Nat) : (s.lockAnswer d).calSel = s.calSel := rfl
@[simp] theorem State.lockAnswer_calWaiting (d : Nat) : (s.lockAnswer d).calWaiting = s.calWaiting := rfl
@[simp] theorem State.lockAnswer_calDone (d : Nat) : (s.lockAnswer d).calDone = s.calDone := rfl
@[simp] theorem State.lockAnswer_charter (d : Nat) : (s.lockAnswer d).charter = s.charter := rfl
@[simp] theorem State.lockAnswer_power (d : Nat) : (s.lockAnswer d).power = s.power := rfl
@[simp] theorem State.lockAnswer_life (d : Nat) : (s.lockAnswer d).life = s.life := rfl
@[simp] theorem State.lockAnswer_fwSwap (d : Nat) : (s.lockAnswer d).fwSwap = s.fwSwap := rfl
@[simp] theorem State.lockAnswer_ledgerVer (d : Nat) : (s.lockAnswer d).ledgerVer = s.ledgerVer := rfl
@[simp] theorem State.lockAnswer_bootLen (d : Nat) : (s.lockAnswer d).bootLen = s.bootLen := rfl
@[simp] theorem State.lockAnswer_pending (d : Nat) : (s.lockAnswer d).pending = s.pending := rfl

@[simp] theorem State.answer_now (c : BusStatus) (data : List Nat) : (s.answer c data).now = s.now := rfl
@[simp] theorem State.answer_regs (c : BusStatus) (data : List Nat) : (s.answer c data).regs = s.regs := rfl
@[simp] theorem State.answer_shadows (c : BusStatus) (data : List Nat) : (s.answer c data).shadows = s.shadows := rfl
@[simp] theorem State.answer_free (c : BusStatus) (data : List Nat) : (s.answer c data).free = s.free := rfl
@[simp] theorem State.answer_shed (c : BusStatus) (data : List Nat) : (s.answer c data).shed = s.shed := rfl
@[simp] theorem State.answer_shedBad (c : BusStatus) (data : List Nat) : (s.answer c data).shedBad = s.shedBad := rfl
@[simp] theorem State.answer_links (c : BusStatus) (data : List Nat) : (s.answer c data).links = s.links := rfl
@[simp] theorem State.answer_pllLost (c : BusStatus) (data : List Nat) : (s.answer c data).pllLost = s.pllLost := rfl
@[simp] theorem State.answer_gaps (c : BusStatus) (data : List Nat) : (s.answer c data).gaps = s.gaps := rfl
@[simp] theorem State.answer_ballast (c : BusStatus) (data : List Nat) : (s.answer c data).ballast = s.ballast := rfl
@[simp] theorem State.answer_landing (c : BusStatus) (data : List Nat) : (s.answer c data).landing = s.landing := rfl
@[simp] theorem State.answer_rate (c : BusStatus) (data : List Nat) : (s.answer c data).rate = s.rate := rfl
@[simp] theorem State.answer_berths (c : BusStatus) (data : List Nat) : (s.answer c data).berths = s.berths := rfl
@[simp] theorem State.answer_coming (c : BusStatus) (data : List Nat) : (s.answer c data).coming = s.coming := rfl
@[simp] theorem State.answer_gens (c : BusStatus) (data : List Nat) : (s.answer c data).gens = s.gens := rfl
@[simp] theorem State.answer_closedOrder (c : BusStatus) (data : List Nat) : (s.answer c data).closedOrder = s.closedOrder := rfl
@[simp] theorem State.answer_carried (c : BusStatus) (data : List Nat) : (s.answer c data).carried = s.carried := rfl
@[simp] theorem State.answer_work (c : BusStatus) (data : List Nat) : (s.answer c data).work = s.work := rfl
@[simp] theorem State.answer_late (c : BusStatus) (data : List Nat) : (s.answer c data).late = s.late := rfl
@[simp] theorem State.answer_cutWork (c : BusStatus) (data : List Nat) : (s.answer c data).cutWork = s.cutWork := rfl
@[simp] theorem State.answer_mfCheck (c : BusStatus) (data : List Nat) : (s.answer c data).mfCheck = s.mfCheck := rfl
@[simp] theorem State.answer_mfPending (c : BusStatus) (data : List Nat) : (s.answer c data).mfPending = s.mfPending := rfl
@[simp] theorem State.answer_mfActive (c : BusStatus) (data : List Nat) : (s.answer c data).mfActive = s.mfActive := rfl
@[simp] theorem State.answer_slotOrder (c : BusStatus) (data : List Nat) : (s.answer c data).slotOrder = s.slotOrder := rfl
@[simp] theorem State.answer_rings (c : BusStatus) (data : List Nat) : (s.answer c data).rings = s.rings := rfl
@[simp] theorem State.answer_quays (c : BusStatus) (data : List Nat) : (s.answer c data).quays = s.quays := rfl
@[simp] theorem State.answer_rx (c : BusStatus) (data : List Nat) : (s.answer c data).rx = s.rx := rfl
@[simp] theorem State.answer_routes (c : BusStatus) (data : List Nat) : (s.answer c data).routes = s.routes := rfl
@[simp] theorem State.answer_replayQ (c : BusStatus) (data : List Nat) : (s.answer c data).replayQ = s.replayQ := rfl
@[simp] theorem State.answer_replaying (c : BusStatus) (data : List Nat) : (s.answer c data).replaying = s.replaying := rfl
@[simp] theorem State.answer_das (c : BusStatus) (data : List Nat) : (s.answer c data).das = s.das := rfl
@[simp] theorem State.answer_tileWrites (c : BusStatus) (data : List Nat) : (s.answer c data).tileWrites = s.tileWrites := rfl
@[simp] theorem State.answer_dasComing (c : BusStatus) (data : List Nat) : (s.answer c data).dasComing = s.dasComing := rfl
@[simp] theorem State.answer_flow (c : BusStatus) (data : List Nat) : (s.answer c data).flow = s.flow := rfl
@[simp] theorem State.answer_flowComing (c : BusStatus) (data : List Nat) : (s.answer c data).flowComing = s.flowComing := rfl
@[simp] theorem State.answer_samples (c : BusStatus) (data : List Nat) : (s.answer c data).samples = s.samples := rfl
@[simp] theorem State.answer_traces (c : BusStatus) (data : List Nat) : (s.answer c data).traces = s.traces := rfl
@[simp] theorem State.answer_hold (c : BusStatus) (data : List Nat) : (s.answer c data).hold = s.hold := rfl
@[simp] theorem State.answer_ledger (c : BusStatus) (data : List Nat) : (s.answer c data).ledger = s.ledger := rfl
@[simp] theorem State.answer_sent (c : BusStatus) (data : List Nat) : (s.answer c data).sent = s.sent := rfl
@[simp] theorem State.answer_signQ (c : BusStatus) (data : List Nat) : (s.answer c data).signQ = s.signQ := rfl
@[simp] theorem State.answer_evtLost (c : BusStatus) (data : List Nat) : (s.answer c data).evtLost = s.evtLost := rfl
@[simp] theorem State.answer_lanes (c : BusStatus) (data : List Nat) : (s.answer c data).lanes = s.lanes := rfl
@[simp] theorem State.answer_fifos (c : BusStatus) (data : List Nat) : (s.answer c data).fifos = s.fifos := rfl
@[simp] theorem State.answer_raman (c : BusStatus) (data : List Nat) : (s.answer c data).raman = s.raman := rfl
@[simp] theorem State.answer_ports (c : BusStatus) (data : List Nat) : (s.answer c data).ports = s.ports := rfl
@[simp] theorem State.answer_ranging (c : BusStatus) (data : List Nat) : (s.answer c data).ranging = s.ranging := rfl
@[simp] theorem State.answer_byb (c : BusStatus) (data : List Nat) : (s.answer c data).byb = s.byb := rfl
@[simp] theorem State.answer_snd (c : BusStatus) (data : List Nat) : (s.answer c data).snd = s.snd := rfl
@[simp] theorem State.answer_sounding (c : BusStatus) (data : List Nat) : (s.answer c data).sounding = s.sounding := rfl
@[simp] theorem State.answer_watches (c : BusStatus) (data : List Nat) : (s.answer c data).watches = s.watches := rfl
@[simp] theorem State.answer_cores (c : BusStatus) (data : List Nat) : (s.answer c data).cores = s.cores := rfl
@[simp] theorem State.answer_clusters (c : BusStatus) (data : List Nat) : (s.answer c data).clusters = s.clusters := rfl
@[simp] theorem State.answer_wh (c : BusStatus) (data : List Nat) : (s.answer c data).wh = s.wh := rfl
@[simp] theorem State.answer_whDone (c : BusStatus) (data : List Nat) : (s.answer c data).whDone = s.whDone := rfl
@[simp] theorem State.answer_tugs (c : BusStatus) (data : List Nat) : (s.answer c data).tugs = s.tugs := rfl
@[simp] theorem State.answer_draining (c : BusStatus) (data : List Nat) : (s.answer c data).draining = s.draining := rfl
@[simp] theorem State.answer_toHost (c : BusStatus) (data : List Nat) : (s.answer c data).toHost = s.toHost := rfl
@[simp] theorem State.answer_signalled (c : BusStatus) (data : List Nat) : (s.answer c data).signalled = s.signalled := rfl
@[simp] theorem State.answer_packs (c : BusStatus) (data : List Nat) : (s.answer c data).packs = s.packs := rfl
@[simp] theorem State.answer_packUsed (c : BusStatus) (data : List Nat) : (s.answer c data).packUsed = s.packUsed := rfl
@[simp] theorem State.answer_streams (c : BusStatus) (data : List Nat) : (s.answer c data).streams = s.streams := rfl
@[simp] theorem State.answer_exportCost (c : BusStatus) (data : List Nat) : (s.answer c data).exportCost = s.exportCost := rfl
@[simp] theorem State.answer_exportDue (c : BusStatus) (data : List Nat) : (s.answer c data).exportDue = s.exportDue := rfl
@[simp] theorem State.answer_stamps (c : BusStatus) (data : List Nat) : (s.answer c data).stamps = s.stamps := rfl
@[simp] theorem State.answer_hawser (c : BusStatus) (data : List Nat) : (s.answer c data).hawser = s.hawser := rfl
@[simp] theorem State.answer_calActive (c : BusStatus) (data : List Nat) : (s.answer c data).calActive = s.calActive := rfl
@[simp] theorem State.answer_quayTrims (c : BusStatus) (data : List Nat) : (s.answer c data).quayTrims = s.quayTrims := rfl
@[simp] theorem State.answer_taps (c : BusStatus) (data : List Nat) : (s.answer c data).taps = s.taps := rfl
@[simp] theorem State.answer_calSel (c : BusStatus) (data : List Nat) : (s.answer c data).calSel = s.calSel := rfl
@[simp] theorem State.answer_calWaiting (c : BusStatus) (data : List Nat) : (s.answer c data).calWaiting = s.calWaiting := rfl
@[simp] theorem State.answer_calDone (c : BusStatus) (data : List Nat) : (s.answer c data).calDone = s.calDone := rfl
@[simp] theorem State.answer_charter (c : BusStatus) (data : List Nat) : (s.answer c data).charter = s.charter := rfl
@[simp] theorem State.answer_power (c : BusStatus) (data : List Nat) : (s.answer c data).power = s.power := rfl
@[simp] theorem State.answer_life (c : BusStatus) (data : List Nat) : (s.answer c data).life = s.life := rfl
@[simp] theorem State.answer_fwSwap (c : BusStatus) (data : List Nat) : (s.answer c data).fwSwap = s.fwSwap := rfl
@[simp] theorem State.answer_ledgerVer (c : BusStatus) (data : List Nat) : (s.answer c data).ledgerVer = s.ledgerVer := rfl
@[simp] theorem State.answer_bootLen (c : BusStatus) (data : List Nat) : (s.answer c data).bootLen = s.bootLen := rfl
@[simp] theorem State.answer_pending (c : BusStatus) (data : List Nat) : (s.answer c data).pending = s.pending := rfl

@[simp] theorem State.advance_regs (t : Nat) : (s.advance t).regs = s.regs := rfl
@[simp] theorem State.advance_shadows (t : Nat) : (s.advance t).shadows = s.shadows := rfl
@[simp] theorem State.advance_completion (t : Nat) : (s.advance t).completion = s.completion := rfl
@[simp] theorem State.advance_free (t : Nat) : (s.advance t).free = s.free := rfl
@[simp] theorem State.advance_shed (t : Nat) : (s.advance t).shed = s.shed := rfl
@[simp] theorem State.advance_shedBad (t : Nat) : (s.advance t).shedBad = s.shedBad := rfl
@[simp] theorem State.advance_links (t : Nat) : (s.advance t).links = s.links := rfl
@[simp] theorem State.advance_pllLost (t : Nat) : (s.advance t).pllLost = s.pllLost := rfl
@[simp] theorem State.advance_gaps (t : Nat) : (s.advance t).gaps = s.gaps := rfl
@[simp] theorem State.advance_ballast (t : Nat) : (s.advance t).ballast = s.ballast := rfl
@[simp] theorem State.advance_landing (t : Nat) : (s.advance t).landing = s.landing := rfl
@[simp] theorem State.advance_rate (t : Nat) : (s.advance t).rate = s.rate := rfl
@[simp] theorem State.advance_berths (t : Nat) : (s.advance t).berths = s.berths := rfl
@[simp] theorem State.advance_coming (t : Nat) : (s.advance t).coming = s.coming := rfl
@[simp] theorem State.advance_gens (t : Nat) : (s.advance t).gens = s.gens := rfl
@[simp] theorem State.advance_closedOrder (t : Nat) : (s.advance t).closedOrder = s.closedOrder := rfl
@[simp] theorem State.advance_carried (t : Nat) : (s.advance t).carried = s.carried := rfl
@[simp] theorem State.advance_work (t : Nat) : (s.advance t).work = s.work := rfl
@[simp] theorem State.advance_late (t : Nat) : (s.advance t).late = s.late := rfl
@[simp] theorem State.advance_cutWork (t : Nat) : (s.advance t).cutWork = s.cutWork := rfl
@[simp] theorem State.advance_mfCheck (t : Nat) : (s.advance t).mfCheck = s.mfCheck := rfl
@[simp] theorem State.advance_mfPending (t : Nat) : (s.advance t).mfPending = s.mfPending := rfl
@[simp] theorem State.advance_mfActive (t : Nat) : (s.advance t).mfActive = s.mfActive := rfl
@[simp] theorem State.advance_slotOrder (t : Nat) : (s.advance t).slotOrder = s.slotOrder := rfl
@[simp] theorem State.advance_rings (t : Nat) : (s.advance t).rings = s.rings := rfl
@[simp] theorem State.advance_quays (t : Nat) : (s.advance t).quays = s.quays := rfl
@[simp] theorem State.advance_rx (t : Nat) : (s.advance t).rx = s.rx := rfl
@[simp] theorem State.advance_routes (t : Nat) : (s.advance t).routes = s.routes := rfl
@[simp] theorem State.advance_replayQ (t : Nat) : (s.advance t).replayQ = s.replayQ := rfl
@[simp] theorem State.advance_replaying (t : Nat) : (s.advance t).replaying = s.replaying := rfl
@[simp] theorem State.advance_das (t : Nat) : (s.advance t).das = s.das := rfl
@[simp] theorem State.advance_tileWrites (t : Nat) : (s.advance t).tileWrites = s.tileWrites := rfl
@[simp] theorem State.advance_dasComing (t : Nat) : (s.advance t).dasComing = s.dasComing := rfl
@[simp] theorem State.advance_flow (t : Nat) : (s.advance t).flow = s.flow := rfl
@[simp] theorem State.advance_flowComing (t : Nat) : (s.advance t).flowComing = s.flowComing := rfl
@[simp] theorem State.advance_samples (t : Nat) : (s.advance t).samples = s.samples := rfl
@[simp] theorem State.advance_traces (t : Nat) : (s.advance t).traces = s.traces := rfl
@[simp] theorem State.advance_hold (t : Nat) : (s.advance t).hold = s.hold := rfl
@[simp] theorem State.advance_ledger (t : Nat) : (s.advance t).ledger = s.ledger := rfl
@[simp] theorem State.advance_sent (t : Nat) : (s.advance t).sent = s.sent := rfl
@[simp] theorem State.advance_signQ (t : Nat) : (s.advance t).signQ = s.signQ := rfl
@[simp] theorem State.advance_evtLost (t : Nat) : (s.advance t).evtLost = s.evtLost := rfl
@[simp] theorem State.advance_lanes (t : Nat) : (s.advance t).lanes = s.lanes := rfl
@[simp] theorem State.advance_fifos (t : Nat) : (s.advance t).fifos = s.fifos := rfl
@[simp] theorem State.advance_raman (t : Nat) : (s.advance t).raman = s.raman := rfl
@[simp] theorem State.advance_ports (t : Nat) : (s.advance t).ports = s.ports := rfl
@[simp] theorem State.advance_ranging (t : Nat) : (s.advance t).ranging = s.ranging := rfl
@[simp] theorem State.advance_byb (t : Nat) : (s.advance t).byb = s.byb := rfl
@[simp] theorem State.advance_snd (t : Nat) : (s.advance t).snd = s.snd := rfl
@[simp] theorem State.advance_sounding (t : Nat) : (s.advance t).sounding = s.sounding := rfl
@[simp] theorem State.advance_watches (t : Nat) : (s.advance t).watches = s.watches := rfl
@[simp] theorem State.advance_cores (t : Nat) : (s.advance t).cores = s.cores := rfl
@[simp] theorem State.advance_clusters (t : Nat) : (s.advance t).clusters = s.clusters := rfl
@[simp] theorem State.advance_wh (t : Nat) : (s.advance t).wh = s.wh := rfl
@[simp] theorem State.advance_whDone (t : Nat) : (s.advance t).whDone = s.whDone := rfl
@[simp] theorem State.advance_tugs (t : Nat) : (s.advance t).tugs = s.tugs := rfl
@[simp] theorem State.advance_draining (t : Nat) : (s.advance t).draining = s.draining := rfl
@[simp] theorem State.advance_toHost (t : Nat) : (s.advance t).toHost = s.toHost := rfl
@[simp] theorem State.advance_signalled (t : Nat) : (s.advance t).signalled = s.signalled := rfl
@[simp] theorem State.advance_packs (t : Nat) : (s.advance t).packs = s.packs := rfl
@[simp] theorem State.advance_packUsed (t : Nat) : (s.advance t).packUsed = s.packUsed := rfl
@[simp] theorem State.advance_streams (t : Nat) : (s.advance t).streams = s.streams := rfl
@[simp] theorem State.advance_exportCost (t : Nat) : (s.advance t).exportCost = s.exportCost := rfl
@[simp] theorem State.advance_exportDue (t : Nat) : (s.advance t).exportDue = s.exportDue := rfl
@[simp] theorem State.advance_stamps (t : Nat) : (s.advance t).stamps = s.stamps := rfl
@[simp] theorem State.advance_hawser (t : Nat) : (s.advance t).hawser = s.hawser := rfl
@[simp] theorem State.advance_calActive (t : Nat) : (s.advance t).calActive = s.calActive := rfl
@[simp] theorem State.advance_quayTrims (t : Nat) : (s.advance t).quayTrims = s.quayTrims := rfl
@[simp] theorem State.advance_taps (t : Nat) : (s.advance t).taps = s.taps := rfl
@[simp] theorem State.advance_calSel (t : Nat) : (s.advance t).calSel = s.calSel := rfl
@[simp] theorem State.advance_calWaiting (t : Nat) : (s.advance t).calWaiting = s.calWaiting := rfl
@[simp] theorem State.advance_calDone (t : Nat) : (s.advance t).calDone = s.calDone := rfl
@[simp] theorem State.advance_charter (t : Nat) : (s.advance t).charter = s.charter := rfl
@[simp] theorem State.advance_power (t : Nat) : (s.advance t).power = s.power := rfl
@[simp] theorem State.advance_life (t : Nat) : (s.advance t).life = s.life := rfl
@[simp] theorem State.advance_fwSwap (t : Nat) : (s.advance t).fwSwap = s.fwSwap := rfl
@[simp] theorem State.advance_ledgerVer (t : Nat) : (s.advance t).ledgerVer = s.ledgerVer := rfl
@[simp] theorem State.advance_bootLen (t : Nat) : (s.advance t).bootLen = s.bootLen := rfl
@[simp] theorem State.advance_pending (t : Nat) : (s.advance t).pending = s.pending := rfl

@[simp] theorem State.setLink_now (n : Nat) (x : Link) : (s.setLink n x).now = s.now := rfl
@[simp] theorem State.setLink_regs (n : Nat) (x : Link) : (s.setLink n x).regs = s.regs := rfl
@[simp] theorem State.setLink_shadows (n : Nat) (x : Link) : (s.setLink n x).shadows = s.shadows := rfl
@[simp] theorem State.setLink_completion (n : Nat) (x : Link) : (s.setLink n x).completion = s.completion := rfl
@[simp] theorem State.setLink_free (n : Nat) (x : Link) : (s.setLink n x).free = s.free := rfl
@[simp] theorem State.setLink_shed (n : Nat) (x : Link) : (s.setLink n x).shed = s.shed := rfl
@[simp] theorem State.setLink_shedBad (n : Nat) (x : Link) : (s.setLink n x).shedBad = s.shedBad := rfl
@[simp] theorem State.setLink_pllLost (n : Nat) (x : Link) : (s.setLink n x).pllLost = s.pllLost := rfl
@[simp] theorem State.setLink_gaps (n : Nat) (x : Link) : (s.setLink n x).gaps = s.gaps := rfl
@[simp] theorem State.setLink_ballast (n : Nat) (x : Link) : (s.setLink n x).ballast = s.ballast := rfl
@[simp] theorem State.setLink_landing (n : Nat) (x : Link) : (s.setLink n x).landing = s.landing := rfl
@[simp] theorem State.setLink_rate (n : Nat) (x : Link) : (s.setLink n x).rate = s.rate := rfl
@[simp] theorem State.setLink_berths (n : Nat) (x : Link) : (s.setLink n x).berths = s.berths := rfl
@[simp] theorem State.setLink_coming (n : Nat) (x : Link) : (s.setLink n x).coming = s.coming := rfl
@[simp] theorem State.setLink_gens (n : Nat) (x : Link) : (s.setLink n x).gens = s.gens := rfl
@[simp] theorem State.setLink_closedOrder (n : Nat) (x : Link) : (s.setLink n x).closedOrder = s.closedOrder := rfl
@[simp] theorem State.setLink_carried (n : Nat) (x : Link) : (s.setLink n x).carried = s.carried := rfl
@[simp] theorem State.setLink_work (n : Nat) (x : Link) : (s.setLink n x).work = s.work := rfl
@[simp] theorem State.setLink_late (n : Nat) (x : Link) : (s.setLink n x).late = s.late := rfl
@[simp] theorem State.setLink_cutWork (n : Nat) (x : Link) : (s.setLink n x).cutWork = s.cutWork := rfl
@[simp] theorem State.setLink_mfCheck (n : Nat) (x : Link) : (s.setLink n x).mfCheck = s.mfCheck := rfl
@[simp] theorem State.setLink_mfPending (n : Nat) (x : Link) : (s.setLink n x).mfPending = s.mfPending := rfl
@[simp] theorem State.setLink_mfActive (n : Nat) (x : Link) : (s.setLink n x).mfActive = s.mfActive := rfl
@[simp] theorem State.setLink_slotOrder (n : Nat) (x : Link) : (s.setLink n x).slotOrder = s.slotOrder := rfl
@[simp] theorem State.setLink_rings (n : Nat) (x : Link) : (s.setLink n x).rings = s.rings := rfl
@[simp] theorem State.setLink_quays (n : Nat) (x : Link) : (s.setLink n x).quays = s.quays := rfl
@[simp] theorem State.setLink_rx (n : Nat) (x : Link) : (s.setLink n x).rx = s.rx := rfl
@[simp] theorem State.setLink_routes (n : Nat) (x : Link) : (s.setLink n x).routes = s.routes := rfl
@[simp] theorem State.setLink_replayQ (n : Nat) (x : Link) : (s.setLink n x).replayQ = s.replayQ := rfl
@[simp] theorem State.setLink_replaying (n : Nat) (x : Link) : (s.setLink n x).replaying = s.replaying := rfl
@[simp] theorem State.setLink_das (n : Nat) (x : Link) : (s.setLink n x).das = s.das := rfl
@[simp] theorem State.setLink_tileWrites (n : Nat) (x : Link) : (s.setLink n x).tileWrites = s.tileWrites := rfl
@[simp] theorem State.setLink_dasComing (n : Nat) (x : Link) : (s.setLink n x).dasComing = s.dasComing := rfl
@[simp] theorem State.setLink_flow (n : Nat) (x : Link) : (s.setLink n x).flow = s.flow := rfl
@[simp] theorem State.setLink_flowComing (n : Nat) (x : Link) : (s.setLink n x).flowComing = s.flowComing := rfl
@[simp] theorem State.setLink_samples (n : Nat) (x : Link) : (s.setLink n x).samples = s.samples := rfl
@[simp] theorem State.setLink_traces (n : Nat) (x : Link) : (s.setLink n x).traces = s.traces := rfl
@[simp] theorem State.setLink_hold (n : Nat) (x : Link) : (s.setLink n x).hold = s.hold := rfl
@[simp] theorem State.setLink_ledger (n : Nat) (x : Link) : (s.setLink n x).ledger = s.ledger := rfl
@[simp] theorem State.setLink_sent (n : Nat) (x : Link) : (s.setLink n x).sent = s.sent := rfl
@[simp] theorem State.setLink_signQ (n : Nat) (x : Link) : (s.setLink n x).signQ = s.signQ := rfl
@[simp] theorem State.setLink_evtLost (n : Nat) (x : Link) : (s.setLink n x).evtLost = s.evtLost := rfl
@[simp] theorem State.setLink_lanes (n : Nat) (x : Link) : (s.setLink n x).lanes = s.lanes := rfl
@[simp] theorem State.setLink_fifos (n : Nat) (x : Link) : (s.setLink n x).fifos = s.fifos := rfl
@[simp] theorem State.setLink_raman (n : Nat) (x : Link) : (s.setLink n x).raman = s.raman := rfl
@[simp] theorem State.setLink_ports (n : Nat) (x : Link) : (s.setLink n x).ports = s.ports := rfl
@[simp] theorem State.setLink_ranging (n : Nat) (x : Link) : (s.setLink n x).ranging = s.ranging := rfl
@[simp] theorem State.setLink_byb (n : Nat) (x : Link) : (s.setLink n x).byb = s.byb := rfl
@[simp] theorem State.setLink_snd (n : Nat) (x : Link) : (s.setLink n x).snd = s.snd := rfl
@[simp] theorem State.setLink_sounding (n : Nat) (x : Link) : (s.setLink n x).sounding = s.sounding := rfl
@[simp] theorem State.setLink_watches (n : Nat) (x : Link) : (s.setLink n x).watches = s.watches := rfl
@[simp] theorem State.setLink_cores (n : Nat) (x : Link) : (s.setLink n x).cores = s.cores := rfl
@[simp] theorem State.setLink_clusters (n : Nat) (x : Link) : (s.setLink n x).clusters = s.clusters := rfl
@[simp] theorem State.setLink_wh (n : Nat) (x : Link) : (s.setLink n x).wh = s.wh := rfl
@[simp] theorem State.setLink_whDone (n : Nat) (x : Link) : (s.setLink n x).whDone = s.whDone := rfl
@[simp] theorem State.setLink_tugs (n : Nat) (x : Link) : (s.setLink n x).tugs = s.tugs := rfl
@[simp] theorem State.setLink_draining (n : Nat) (x : Link) : (s.setLink n x).draining = s.draining := rfl
@[simp] theorem State.setLink_toHost (n : Nat) (x : Link) : (s.setLink n x).toHost = s.toHost := rfl
@[simp] theorem State.setLink_signalled (n : Nat) (x : Link) : (s.setLink n x).signalled = s.signalled := rfl
@[simp] theorem State.setLink_packs (n : Nat) (x : Link) : (s.setLink n x).packs = s.packs := rfl
@[simp] theorem State.setLink_packUsed (n : Nat) (x : Link) : (s.setLink n x).packUsed = s.packUsed := rfl
@[simp] theorem State.setLink_streams (n : Nat) (x : Link) : (s.setLink n x).streams = s.streams := rfl
@[simp] theorem State.setLink_exportCost (n : Nat) (x : Link) : (s.setLink n x).exportCost = s.exportCost := rfl
@[simp] theorem State.setLink_exportDue (n : Nat) (x : Link) : (s.setLink n x).exportDue = s.exportDue := rfl
@[simp] theorem State.setLink_stamps (n : Nat) (x : Link) : (s.setLink n x).stamps = s.stamps := rfl
@[simp] theorem State.setLink_hawser (n : Nat) (x : Link) : (s.setLink n x).hawser = s.hawser := rfl
@[simp] theorem State.setLink_calActive (n : Nat) (x : Link) : (s.setLink n x).calActive = s.calActive := rfl
@[simp] theorem State.setLink_quayTrims (n : Nat) (x : Link) : (s.setLink n x).quayTrims = s.quayTrims := rfl
@[simp] theorem State.setLink_taps (n : Nat) (x : Link) : (s.setLink n x).taps = s.taps := rfl
@[simp] theorem State.setLink_calSel (n : Nat) (x : Link) : (s.setLink n x).calSel = s.calSel := rfl
@[simp] theorem State.setLink_calWaiting (n : Nat) (x : Link) : (s.setLink n x).calWaiting = s.calWaiting := rfl
@[simp] theorem State.setLink_calDone (n : Nat) (x : Link) : (s.setLink n x).calDone = s.calDone := rfl
@[simp] theorem State.setLink_charter (n : Nat) (x : Link) : (s.setLink n x).charter = s.charter := rfl
@[simp] theorem State.setLink_power (n : Nat) (x : Link) : (s.setLink n x).power = s.power := rfl
@[simp] theorem State.setLink_life (n : Nat) (x : Link) : (s.setLink n x).life = s.life := rfl
@[simp] theorem State.setLink_fwSwap (n : Nat) (x : Link) : (s.setLink n x).fwSwap = s.fwSwap := rfl
@[simp] theorem State.setLink_ledgerVer (n : Nat) (x : Link) : (s.setLink n x).ledgerVer = s.ledgerVer := rfl
@[simp] theorem State.setLink_bootLen (n : Nat) (x : Link) : (s.setLink n x).bootLen = s.bootLen := rfl
@[simp] theorem State.setLink_pending (n : Nat) (x : Link) : (s.setLink n x).pending = s.pending := rfl

@[simp] theorem State.setBerth_now (n : Nat) (x : Berth) : (s.setBerth n x).now = s.now := rfl
@[simp] theorem State.setBerth_regs (n : Nat) (x : Berth) : (s.setBerth n x).regs = s.regs := rfl
@[simp] theorem State.setBerth_shadows (n : Nat) (x : Berth) : (s.setBerth n x).shadows = s.shadows := rfl
@[simp] theorem State.setBerth_completion (n : Nat) (x : Berth) : (s.setBerth n x).completion = s.completion := rfl
@[simp] theorem State.setBerth_free (n : Nat) (x : Berth) : (s.setBerth n x).free = s.free := rfl
@[simp] theorem State.setBerth_shed (n : Nat) (x : Berth) : (s.setBerth n x).shed = s.shed := rfl
@[simp] theorem State.setBerth_shedBad (n : Nat) (x : Berth) : (s.setBerth n x).shedBad = s.shedBad := rfl
@[simp] theorem State.setBerth_links (n : Nat) (x : Berth) : (s.setBerth n x).links = s.links := rfl
@[simp] theorem State.setBerth_pllLost (n : Nat) (x : Berth) : (s.setBerth n x).pllLost = s.pllLost := rfl
@[simp] theorem State.setBerth_gaps (n : Nat) (x : Berth) : (s.setBerth n x).gaps = s.gaps := rfl
@[simp] theorem State.setBerth_ballast (n : Nat) (x : Berth) : (s.setBerth n x).ballast = s.ballast := rfl
@[simp] theorem State.setBerth_landing (n : Nat) (x : Berth) : (s.setBerth n x).landing = s.landing := rfl
@[simp] theorem State.setBerth_rate (n : Nat) (x : Berth) : (s.setBerth n x).rate = s.rate := rfl
@[simp] theorem State.setBerth_coming (n : Nat) (x : Berth) : (s.setBerth n x).coming = s.coming := rfl
@[simp] theorem State.setBerth_gens (n : Nat) (x : Berth) : (s.setBerth n x).gens = s.gens := rfl
@[simp] theorem State.setBerth_closedOrder (n : Nat) (x : Berth) : (s.setBerth n x).closedOrder = s.closedOrder := rfl
@[simp] theorem State.setBerth_carried (n : Nat) (x : Berth) : (s.setBerth n x).carried = s.carried := rfl
@[simp] theorem State.setBerth_work (n : Nat) (x : Berth) : (s.setBerth n x).work = s.work := rfl
@[simp] theorem State.setBerth_late (n : Nat) (x : Berth) : (s.setBerth n x).late = s.late := rfl
@[simp] theorem State.setBerth_cutWork (n : Nat) (x : Berth) : (s.setBerth n x).cutWork = s.cutWork := rfl
@[simp] theorem State.setBerth_mfCheck (n : Nat) (x : Berth) : (s.setBerth n x).mfCheck = s.mfCheck := rfl
@[simp] theorem State.setBerth_mfPending (n : Nat) (x : Berth) : (s.setBerth n x).mfPending = s.mfPending := rfl
@[simp] theorem State.setBerth_mfActive (n : Nat) (x : Berth) : (s.setBerth n x).mfActive = s.mfActive := rfl
@[simp] theorem State.setBerth_slotOrder (n : Nat) (x : Berth) : (s.setBerth n x).slotOrder = s.slotOrder := rfl
@[simp] theorem State.setBerth_rings (n : Nat) (x : Berth) : (s.setBerth n x).rings = s.rings := rfl
@[simp] theorem State.setBerth_quays (n : Nat) (x : Berth) : (s.setBerth n x).quays = s.quays := rfl
@[simp] theorem State.setBerth_rx (n : Nat) (x : Berth) : (s.setBerth n x).rx = s.rx := rfl
@[simp] theorem State.setBerth_routes (n : Nat) (x : Berth) : (s.setBerth n x).routes = s.routes := rfl
@[simp] theorem State.setBerth_replayQ (n : Nat) (x : Berth) : (s.setBerth n x).replayQ = s.replayQ := rfl
@[simp] theorem State.setBerth_replaying (n : Nat) (x : Berth) : (s.setBerth n x).replaying = s.replaying := rfl
@[simp] theorem State.setBerth_das (n : Nat) (x : Berth) : (s.setBerth n x).das = s.das := rfl
@[simp] theorem State.setBerth_tileWrites (n : Nat) (x : Berth) : (s.setBerth n x).tileWrites = s.tileWrites := rfl
@[simp] theorem State.setBerth_dasComing (n : Nat) (x : Berth) : (s.setBerth n x).dasComing = s.dasComing := rfl
@[simp] theorem State.setBerth_flow (n : Nat) (x : Berth) : (s.setBerth n x).flow = s.flow := rfl
@[simp] theorem State.setBerth_flowComing (n : Nat) (x : Berth) : (s.setBerth n x).flowComing = s.flowComing := rfl
@[simp] theorem State.setBerth_samples (n : Nat) (x : Berth) : (s.setBerth n x).samples = s.samples := rfl
@[simp] theorem State.setBerth_traces (n : Nat) (x : Berth) : (s.setBerth n x).traces = s.traces := rfl
@[simp] theorem State.setBerth_hold (n : Nat) (x : Berth) : (s.setBerth n x).hold = s.hold := rfl
@[simp] theorem State.setBerth_ledger (n : Nat) (x : Berth) : (s.setBerth n x).ledger = s.ledger := rfl
@[simp] theorem State.setBerth_sent (n : Nat) (x : Berth) : (s.setBerth n x).sent = s.sent := rfl
@[simp] theorem State.setBerth_signQ (n : Nat) (x : Berth) : (s.setBerth n x).signQ = s.signQ := rfl
@[simp] theorem State.setBerth_evtLost (n : Nat) (x : Berth) : (s.setBerth n x).evtLost = s.evtLost := rfl
@[simp] theorem State.setBerth_lanes (n : Nat) (x : Berth) : (s.setBerth n x).lanes = s.lanes := rfl
@[simp] theorem State.setBerth_fifos (n : Nat) (x : Berth) : (s.setBerth n x).fifos = s.fifos := rfl
@[simp] theorem State.setBerth_raman (n : Nat) (x : Berth) : (s.setBerth n x).raman = s.raman := rfl
@[simp] theorem State.setBerth_ports (n : Nat) (x : Berth) : (s.setBerth n x).ports = s.ports := rfl
@[simp] theorem State.setBerth_ranging (n : Nat) (x : Berth) : (s.setBerth n x).ranging = s.ranging := rfl
@[simp] theorem State.setBerth_byb (n : Nat) (x : Berth) : (s.setBerth n x).byb = s.byb := rfl
@[simp] theorem State.setBerth_snd (n : Nat) (x : Berth) : (s.setBerth n x).snd = s.snd := rfl
@[simp] theorem State.setBerth_sounding (n : Nat) (x : Berth) : (s.setBerth n x).sounding = s.sounding := rfl
@[simp] theorem State.setBerth_watches (n : Nat) (x : Berth) : (s.setBerth n x).watches = s.watches := rfl
@[simp] theorem State.setBerth_cores (n : Nat) (x : Berth) : (s.setBerth n x).cores = s.cores := rfl
@[simp] theorem State.setBerth_clusters (n : Nat) (x : Berth) : (s.setBerth n x).clusters = s.clusters := rfl
@[simp] theorem State.setBerth_wh (n : Nat) (x : Berth) : (s.setBerth n x).wh = s.wh := rfl
@[simp] theorem State.setBerth_whDone (n : Nat) (x : Berth) : (s.setBerth n x).whDone = s.whDone := rfl
@[simp] theorem State.setBerth_tugs (n : Nat) (x : Berth) : (s.setBerth n x).tugs = s.tugs := rfl
@[simp] theorem State.setBerth_draining (n : Nat) (x : Berth) : (s.setBerth n x).draining = s.draining := rfl
@[simp] theorem State.setBerth_toHost (n : Nat) (x : Berth) : (s.setBerth n x).toHost = s.toHost := rfl
@[simp] theorem State.setBerth_signalled (n : Nat) (x : Berth) : (s.setBerth n x).signalled = s.signalled := rfl
@[simp] theorem State.setBerth_packs (n : Nat) (x : Berth) : (s.setBerth n x).packs = s.packs := rfl
@[simp] theorem State.setBerth_packUsed (n : Nat) (x : Berth) : (s.setBerth n x).packUsed = s.packUsed := rfl
@[simp] theorem State.setBerth_streams (n : Nat) (x : Berth) : (s.setBerth n x).streams = s.streams := rfl
@[simp] theorem State.setBerth_exportCost (n : Nat) (x : Berth) : (s.setBerth n x).exportCost = s.exportCost := rfl
@[simp] theorem State.setBerth_exportDue (n : Nat) (x : Berth) : (s.setBerth n x).exportDue = s.exportDue := rfl
@[simp] theorem State.setBerth_stamps (n : Nat) (x : Berth) : (s.setBerth n x).stamps = s.stamps := rfl
@[simp] theorem State.setBerth_hawser (n : Nat) (x : Berth) : (s.setBerth n x).hawser = s.hawser := rfl
@[simp] theorem State.setBerth_calActive (n : Nat) (x : Berth) : (s.setBerth n x).calActive = s.calActive := rfl
@[simp] theorem State.setBerth_quayTrims (n : Nat) (x : Berth) : (s.setBerth n x).quayTrims = s.quayTrims := rfl
@[simp] theorem State.setBerth_taps (n : Nat) (x : Berth) : (s.setBerth n x).taps = s.taps := rfl
@[simp] theorem State.setBerth_calSel (n : Nat) (x : Berth) : (s.setBerth n x).calSel = s.calSel := rfl
@[simp] theorem State.setBerth_calWaiting (n : Nat) (x : Berth) : (s.setBerth n x).calWaiting = s.calWaiting := rfl
@[simp] theorem State.setBerth_calDone (n : Nat) (x : Berth) : (s.setBerth n x).calDone = s.calDone := rfl
@[simp] theorem State.setBerth_charter (n : Nat) (x : Berth) : (s.setBerth n x).charter = s.charter := rfl
@[simp] theorem State.setBerth_power (n : Nat) (x : Berth) : (s.setBerth n x).power = s.power := rfl
@[simp] theorem State.setBerth_life (n : Nat) (x : Berth) : (s.setBerth n x).life = s.life := rfl
@[simp] theorem State.setBerth_fwSwap (n : Nat) (x : Berth) : (s.setBerth n x).fwSwap = s.fwSwap := rfl
@[simp] theorem State.setBerth_ledgerVer (n : Nat) (x : Berth) : (s.setBerth n x).ledgerVer = s.ledgerVer := rfl
@[simp] theorem State.setBerth_bootLen (n : Nat) (x : Berth) : (s.setBerth n x).bootLen = s.bootLen := rfl
@[simp] theorem State.setBerth_pending (n : Nat) (x : Berth) : (s.setBerth n x).pending = s.pending := rfl

@[simp] theorem State.setQuay_now (n : Nat) (x : Quay) : (s.setQuay n x).now = s.now := rfl
@[simp] theorem State.setQuay_regs (n : Nat) (x : Quay) : (s.setQuay n x).regs = s.regs := rfl
@[simp] theorem State.setQuay_shadows (n : Nat) (x : Quay) : (s.setQuay n x).shadows = s.shadows := rfl
@[simp] theorem State.setQuay_completion (n : Nat) (x : Quay) : (s.setQuay n x).completion = s.completion := rfl
@[simp] theorem State.setQuay_free (n : Nat) (x : Quay) : (s.setQuay n x).free = s.free := rfl
@[simp] theorem State.setQuay_shed (n : Nat) (x : Quay) : (s.setQuay n x).shed = s.shed := rfl
@[simp] theorem State.setQuay_shedBad (n : Nat) (x : Quay) : (s.setQuay n x).shedBad = s.shedBad := rfl
@[simp] theorem State.setQuay_links (n : Nat) (x : Quay) : (s.setQuay n x).links = s.links := rfl
@[simp] theorem State.setQuay_pllLost (n : Nat) (x : Quay) : (s.setQuay n x).pllLost = s.pllLost := rfl
@[simp] theorem State.setQuay_gaps (n : Nat) (x : Quay) : (s.setQuay n x).gaps = s.gaps := rfl
@[simp] theorem State.setQuay_ballast (n : Nat) (x : Quay) : (s.setQuay n x).ballast = s.ballast := rfl
@[simp] theorem State.setQuay_landing (n : Nat) (x : Quay) : (s.setQuay n x).landing = s.landing := rfl
@[simp] theorem State.setQuay_rate (n : Nat) (x : Quay) : (s.setQuay n x).rate = s.rate := rfl
@[simp] theorem State.setQuay_berths (n : Nat) (x : Quay) : (s.setQuay n x).berths = s.berths := rfl
@[simp] theorem State.setQuay_coming (n : Nat) (x : Quay) : (s.setQuay n x).coming = s.coming := rfl
@[simp] theorem State.setQuay_gens (n : Nat) (x : Quay) : (s.setQuay n x).gens = s.gens := rfl
@[simp] theorem State.setQuay_closedOrder (n : Nat) (x : Quay) : (s.setQuay n x).closedOrder = s.closedOrder := rfl
@[simp] theorem State.setQuay_carried (n : Nat) (x : Quay) : (s.setQuay n x).carried = s.carried := rfl
@[simp] theorem State.setQuay_work (n : Nat) (x : Quay) : (s.setQuay n x).work = s.work := rfl
@[simp] theorem State.setQuay_late (n : Nat) (x : Quay) : (s.setQuay n x).late = s.late := rfl
@[simp] theorem State.setQuay_cutWork (n : Nat) (x : Quay) : (s.setQuay n x).cutWork = s.cutWork := rfl
@[simp] theorem State.setQuay_mfCheck (n : Nat) (x : Quay) : (s.setQuay n x).mfCheck = s.mfCheck := rfl
@[simp] theorem State.setQuay_mfPending (n : Nat) (x : Quay) : (s.setQuay n x).mfPending = s.mfPending := rfl
@[simp] theorem State.setQuay_mfActive (n : Nat) (x : Quay) : (s.setQuay n x).mfActive = s.mfActive := rfl
@[simp] theorem State.setQuay_slotOrder (n : Nat) (x : Quay) : (s.setQuay n x).slotOrder = s.slotOrder := rfl
@[simp] theorem State.setQuay_rings (n : Nat) (x : Quay) : (s.setQuay n x).rings = s.rings := rfl
@[simp] theorem State.setQuay_rx (n : Nat) (x : Quay) : (s.setQuay n x).rx = s.rx := rfl
@[simp] theorem State.setQuay_routes (n : Nat) (x : Quay) : (s.setQuay n x).routes = s.routes := rfl
@[simp] theorem State.setQuay_replayQ (n : Nat) (x : Quay) : (s.setQuay n x).replayQ = s.replayQ := rfl
@[simp] theorem State.setQuay_replaying (n : Nat) (x : Quay) : (s.setQuay n x).replaying = s.replaying := rfl
@[simp] theorem State.setQuay_das (n : Nat) (x : Quay) : (s.setQuay n x).das = s.das := rfl
@[simp] theorem State.setQuay_tileWrites (n : Nat) (x : Quay) : (s.setQuay n x).tileWrites = s.tileWrites := rfl
@[simp] theorem State.setQuay_dasComing (n : Nat) (x : Quay) : (s.setQuay n x).dasComing = s.dasComing := rfl
@[simp] theorem State.setQuay_flow (n : Nat) (x : Quay) : (s.setQuay n x).flow = s.flow := rfl
@[simp] theorem State.setQuay_flowComing (n : Nat) (x : Quay) : (s.setQuay n x).flowComing = s.flowComing := rfl
@[simp] theorem State.setQuay_samples (n : Nat) (x : Quay) : (s.setQuay n x).samples = s.samples := rfl
@[simp] theorem State.setQuay_traces (n : Nat) (x : Quay) : (s.setQuay n x).traces = s.traces := rfl
@[simp] theorem State.setQuay_hold (n : Nat) (x : Quay) : (s.setQuay n x).hold = s.hold := rfl
@[simp] theorem State.setQuay_ledger (n : Nat) (x : Quay) : (s.setQuay n x).ledger = s.ledger := rfl
@[simp] theorem State.setQuay_sent (n : Nat) (x : Quay) : (s.setQuay n x).sent = s.sent := rfl
@[simp] theorem State.setQuay_signQ (n : Nat) (x : Quay) : (s.setQuay n x).signQ = s.signQ := rfl
@[simp] theorem State.setQuay_evtLost (n : Nat) (x : Quay) : (s.setQuay n x).evtLost = s.evtLost := rfl
@[simp] theorem State.setQuay_lanes (n : Nat) (x : Quay) : (s.setQuay n x).lanes = s.lanes := rfl
@[simp] theorem State.setQuay_fifos (n : Nat) (x : Quay) : (s.setQuay n x).fifos = s.fifos := rfl
@[simp] theorem State.setQuay_raman (n : Nat) (x : Quay) : (s.setQuay n x).raman = s.raman := rfl
@[simp] theorem State.setQuay_ports (n : Nat) (x : Quay) : (s.setQuay n x).ports = s.ports := rfl
@[simp] theorem State.setQuay_ranging (n : Nat) (x : Quay) : (s.setQuay n x).ranging = s.ranging := rfl
@[simp] theorem State.setQuay_byb (n : Nat) (x : Quay) : (s.setQuay n x).byb = s.byb := rfl
@[simp] theorem State.setQuay_snd (n : Nat) (x : Quay) : (s.setQuay n x).snd = s.snd := rfl
@[simp] theorem State.setQuay_sounding (n : Nat) (x : Quay) : (s.setQuay n x).sounding = s.sounding := rfl
@[simp] theorem State.setQuay_watches (n : Nat) (x : Quay) : (s.setQuay n x).watches = s.watches := rfl
@[simp] theorem State.setQuay_cores (n : Nat) (x : Quay) : (s.setQuay n x).cores = s.cores := rfl
@[simp] theorem State.setQuay_clusters (n : Nat) (x : Quay) : (s.setQuay n x).clusters = s.clusters := rfl
@[simp] theorem State.setQuay_wh (n : Nat) (x : Quay) : (s.setQuay n x).wh = s.wh := rfl
@[simp] theorem State.setQuay_whDone (n : Nat) (x : Quay) : (s.setQuay n x).whDone = s.whDone := rfl
@[simp] theorem State.setQuay_tugs (n : Nat) (x : Quay) : (s.setQuay n x).tugs = s.tugs := rfl
@[simp] theorem State.setQuay_draining (n : Nat) (x : Quay) : (s.setQuay n x).draining = s.draining := rfl
@[simp] theorem State.setQuay_toHost (n : Nat) (x : Quay) : (s.setQuay n x).toHost = s.toHost := rfl
@[simp] theorem State.setQuay_signalled (n : Nat) (x : Quay) : (s.setQuay n x).signalled = s.signalled := rfl
@[simp] theorem State.setQuay_packs (n : Nat) (x : Quay) : (s.setQuay n x).packs = s.packs := rfl
@[simp] theorem State.setQuay_packUsed (n : Nat) (x : Quay) : (s.setQuay n x).packUsed = s.packUsed := rfl
@[simp] theorem State.setQuay_streams (n : Nat) (x : Quay) : (s.setQuay n x).streams = s.streams := rfl
@[simp] theorem State.setQuay_exportCost (n : Nat) (x : Quay) : (s.setQuay n x).exportCost = s.exportCost := rfl
@[simp] theorem State.setQuay_exportDue (n : Nat) (x : Quay) : (s.setQuay n x).exportDue = s.exportDue := rfl
@[simp] theorem State.setQuay_stamps (n : Nat) (x : Quay) : (s.setQuay n x).stamps = s.stamps := rfl
@[simp] theorem State.setQuay_hawser (n : Nat) (x : Quay) : (s.setQuay n x).hawser = s.hawser := rfl
@[simp] theorem State.setQuay_calActive (n : Nat) (x : Quay) : (s.setQuay n x).calActive = s.calActive := rfl
@[simp] theorem State.setQuay_quayTrims (n : Nat) (x : Quay) : (s.setQuay n x).quayTrims = s.quayTrims := rfl
@[simp] theorem State.setQuay_taps (n : Nat) (x : Quay) : (s.setQuay n x).taps = s.taps := rfl
@[simp] theorem State.setQuay_calSel (n : Nat) (x : Quay) : (s.setQuay n x).calSel = s.calSel := rfl
@[simp] theorem State.setQuay_calWaiting (n : Nat) (x : Quay) : (s.setQuay n x).calWaiting = s.calWaiting := rfl
@[simp] theorem State.setQuay_calDone (n : Nat) (x : Quay) : (s.setQuay n x).calDone = s.calDone := rfl
@[simp] theorem State.setQuay_charter (n : Nat) (x : Quay) : (s.setQuay n x).charter = s.charter := rfl
@[simp] theorem State.setQuay_power (n : Nat) (x : Quay) : (s.setQuay n x).power = s.power := rfl
@[simp] theorem State.setQuay_life (n : Nat) (x : Quay) : (s.setQuay n x).life = s.life := rfl
@[simp] theorem State.setQuay_fwSwap (n : Nat) (x : Quay) : (s.setQuay n x).fwSwap = s.fwSwap := rfl
@[simp] theorem State.setQuay_ledgerVer (n : Nat) (x : Quay) : (s.setQuay n x).ledgerVer = s.ledgerVer := rfl
@[simp] theorem State.setQuay_bootLen (n : Nat) (x : Quay) : (s.setQuay n x).bootLen = s.bootLen := rfl
@[simp] theorem State.setQuay_pending (n : Nat) (x : Quay) : (s.setQuay n x).pending = s.pending := rfl

@[simp] theorem State.setRx_now (n : Nat) (x : RxSlice) : (s.setRx n x).now = s.now := rfl
@[simp] theorem State.setRx_regs (n : Nat) (x : RxSlice) : (s.setRx n x).regs = s.regs := rfl
@[simp] theorem State.setRx_shadows (n : Nat) (x : RxSlice) : (s.setRx n x).shadows = s.shadows := rfl
@[simp] theorem State.setRx_completion (n : Nat) (x : RxSlice) : (s.setRx n x).completion = s.completion := rfl
@[simp] theorem State.setRx_free (n : Nat) (x : RxSlice) : (s.setRx n x).free = s.free := rfl
@[simp] theorem State.setRx_shed (n : Nat) (x : RxSlice) : (s.setRx n x).shed = s.shed := rfl
@[simp] theorem State.setRx_shedBad (n : Nat) (x : RxSlice) : (s.setRx n x).shedBad = s.shedBad := rfl
@[simp] theorem State.setRx_links (n : Nat) (x : RxSlice) : (s.setRx n x).links = s.links := rfl
@[simp] theorem State.setRx_pllLost (n : Nat) (x : RxSlice) : (s.setRx n x).pllLost = s.pllLost := rfl
@[simp] theorem State.setRx_gaps (n : Nat) (x : RxSlice) : (s.setRx n x).gaps = s.gaps := rfl
@[simp] theorem State.setRx_ballast (n : Nat) (x : RxSlice) : (s.setRx n x).ballast = s.ballast := rfl
@[simp] theorem State.setRx_landing (n : Nat) (x : RxSlice) : (s.setRx n x).landing = s.landing := rfl
@[simp] theorem State.setRx_rate (n : Nat) (x : RxSlice) : (s.setRx n x).rate = s.rate := rfl
@[simp] theorem State.setRx_berths (n : Nat) (x : RxSlice) : (s.setRx n x).berths = s.berths := rfl
@[simp] theorem State.setRx_coming (n : Nat) (x : RxSlice) : (s.setRx n x).coming = s.coming := rfl
@[simp] theorem State.setRx_gens (n : Nat) (x : RxSlice) : (s.setRx n x).gens = s.gens := rfl
@[simp] theorem State.setRx_closedOrder (n : Nat) (x : RxSlice) : (s.setRx n x).closedOrder = s.closedOrder := rfl
@[simp] theorem State.setRx_carried (n : Nat) (x : RxSlice) : (s.setRx n x).carried = s.carried := rfl
@[simp] theorem State.setRx_work (n : Nat) (x : RxSlice) : (s.setRx n x).work = s.work := rfl
@[simp] theorem State.setRx_late (n : Nat) (x : RxSlice) : (s.setRx n x).late = s.late := rfl
@[simp] theorem State.setRx_cutWork (n : Nat) (x : RxSlice) : (s.setRx n x).cutWork = s.cutWork := rfl
@[simp] theorem State.setRx_mfCheck (n : Nat) (x : RxSlice) : (s.setRx n x).mfCheck = s.mfCheck := rfl
@[simp] theorem State.setRx_mfPending (n : Nat) (x : RxSlice) : (s.setRx n x).mfPending = s.mfPending := rfl
@[simp] theorem State.setRx_mfActive (n : Nat) (x : RxSlice) : (s.setRx n x).mfActive = s.mfActive := rfl
@[simp] theorem State.setRx_slotOrder (n : Nat) (x : RxSlice) : (s.setRx n x).slotOrder = s.slotOrder := rfl
@[simp] theorem State.setRx_rings (n : Nat) (x : RxSlice) : (s.setRx n x).rings = s.rings := rfl
@[simp] theorem State.setRx_quays (n : Nat) (x : RxSlice) : (s.setRx n x).quays = s.quays := rfl
@[simp] theorem State.setRx_routes (n : Nat) (x : RxSlice) : (s.setRx n x).routes = s.routes := rfl
@[simp] theorem State.setRx_replayQ (n : Nat) (x : RxSlice) : (s.setRx n x).replayQ = s.replayQ := rfl
@[simp] theorem State.setRx_replaying (n : Nat) (x : RxSlice) : (s.setRx n x).replaying = s.replaying := rfl
@[simp] theorem State.setRx_das (n : Nat) (x : RxSlice) : (s.setRx n x).das = s.das := rfl
@[simp] theorem State.setRx_tileWrites (n : Nat) (x : RxSlice) : (s.setRx n x).tileWrites = s.tileWrites := rfl
@[simp] theorem State.setRx_dasComing (n : Nat) (x : RxSlice) : (s.setRx n x).dasComing = s.dasComing := rfl
@[simp] theorem State.setRx_flow (n : Nat) (x : RxSlice) : (s.setRx n x).flow = s.flow := rfl
@[simp] theorem State.setRx_flowComing (n : Nat) (x : RxSlice) : (s.setRx n x).flowComing = s.flowComing := rfl
@[simp] theorem State.setRx_samples (n : Nat) (x : RxSlice) : (s.setRx n x).samples = s.samples := rfl
@[simp] theorem State.setRx_traces (n : Nat) (x : RxSlice) : (s.setRx n x).traces = s.traces := rfl
@[simp] theorem State.setRx_hold (n : Nat) (x : RxSlice) : (s.setRx n x).hold = s.hold := rfl
@[simp] theorem State.setRx_ledger (n : Nat) (x : RxSlice) : (s.setRx n x).ledger = s.ledger := rfl
@[simp] theorem State.setRx_sent (n : Nat) (x : RxSlice) : (s.setRx n x).sent = s.sent := rfl
@[simp] theorem State.setRx_signQ (n : Nat) (x : RxSlice) : (s.setRx n x).signQ = s.signQ := rfl
@[simp] theorem State.setRx_evtLost (n : Nat) (x : RxSlice) : (s.setRx n x).evtLost = s.evtLost := rfl
@[simp] theorem State.setRx_lanes (n : Nat) (x : RxSlice) : (s.setRx n x).lanes = s.lanes := rfl
@[simp] theorem State.setRx_fifos (n : Nat) (x : RxSlice) : (s.setRx n x).fifos = s.fifos := rfl
@[simp] theorem State.setRx_raman (n : Nat) (x : RxSlice) : (s.setRx n x).raman = s.raman := rfl
@[simp] theorem State.setRx_ports (n : Nat) (x : RxSlice) : (s.setRx n x).ports = s.ports := rfl
@[simp] theorem State.setRx_ranging (n : Nat) (x : RxSlice) : (s.setRx n x).ranging = s.ranging := rfl
@[simp] theorem State.setRx_byb (n : Nat) (x : RxSlice) : (s.setRx n x).byb = s.byb := rfl
@[simp] theorem State.setRx_snd (n : Nat) (x : RxSlice) : (s.setRx n x).snd = s.snd := rfl
@[simp] theorem State.setRx_sounding (n : Nat) (x : RxSlice) : (s.setRx n x).sounding = s.sounding := rfl
@[simp] theorem State.setRx_watches (n : Nat) (x : RxSlice) : (s.setRx n x).watches = s.watches := rfl
@[simp] theorem State.setRx_cores (n : Nat) (x : RxSlice) : (s.setRx n x).cores = s.cores := rfl
@[simp] theorem State.setRx_clusters (n : Nat) (x : RxSlice) : (s.setRx n x).clusters = s.clusters := rfl
@[simp] theorem State.setRx_wh (n : Nat) (x : RxSlice) : (s.setRx n x).wh = s.wh := rfl
@[simp] theorem State.setRx_whDone (n : Nat) (x : RxSlice) : (s.setRx n x).whDone = s.whDone := rfl
@[simp] theorem State.setRx_tugs (n : Nat) (x : RxSlice) : (s.setRx n x).tugs = s.tugs := rfl
@[simp] theorem State.setRx_draining (n : Nat) (x : RxSlice) : (s.setRx n x).draining = s.draining := rfl
@[simp] theorem State.setRx_toHost (n : Nat) (x : RxSlice) : (s.setRx n x).toHost = s.toHost := rfl
@[simp] theorem State.setRx_signalled (n : Nat) (x : RxSlice) : (s.setRx n x).signalled = s.signalled := rfl
@[simp] theorem State.setRx_packs (n : Nat) (x : RxSlice) : (s.setRx n x).packs = s.packs := rfl
@[simp] theorem State.setRx_packUsed (n : Nat) (x : RxSlice) : (s.setRx n x).packUsed = s.packUsed := rfl
@[simp] theorem State.setRx_streams (n : Nat) (x : RxSlice) : (s.setRx n x).streams = s.streams := rfl
@[simp] theorem State.setRx_exportCost (n : Nat) (x : RxSlice) : (s.setRx n x).exportCost = s.exportCost := rfl
@[simp] theorem State.setRx_exportDue (n : Nat) (x : RxSlice) : (s.setRx n x).exportDue = s.exportDue := rfl
@[simp] theorem State.setRx_stamps (n : Nat) (x : RxSlice) : (s.setRx n x).stamps = s.stamps := rfl
@[simp] theorem State.setRx_hawser (n : Nat) (x : RxSlice) : (s.setRx n x).hawser = s.hawser := rfl
@[simp] theorem State.setRx_calActive (n : Nat) (x : RxSlice) : (s.setRx n x).calActive = s.calActive := rfl
@[simp] theorem State.setRx_quayTrims (n : Nat) (x : RxSlice) : (s.setRx n x).quayTrims = s.quayTrims := rfl
@[simp] theorem State.setRx_taps (n : Nat) (x : RxSlice) : (s.setRx n x).taps = s.taps := rfl
@[simp] theorem State.setRx_calSel (n : Nat) (x : RxSlice) : (s.setRx n x).calSel = s.calSel := rfl
@[simp] theorem State.setRx_calWaiting (n : Nat) (x : RxSlice) : (s.setRx n x).calWaiting = s.calWaiting := rfl
@[simp] theorem State.setRx_calDone (n : Nat) (x : RxSlice) : (s.setRx n x).calDone = s.calDone := rfl
@[simp] theorem State.setRx_charter (n : Nat) (x : RxSlice) : (s.setRx n x).charter = s.charter := rfl
@[simp] theorem State.setRx_power (n : Nat) (x : RxSlice) : (s.setRx n x).power = s.power := rfl
@[simp] theorem State.setRx_life (n : Nat) (x : RxSlice) : (s.setRx n x).life = s.life := rfl
@[simp] theorem State.setRx_fwSwap (n : Nat) (x : RxSlice) : (s.setRx n x).fwSwap = s.fwSwap := rfl
@[simp] theorem State.setRx_ledgerVer (n : Nat) (x : RxSlice) : (s.setRx n x).ledgerVer = s.ledgerVer := rfl
@[simp] theorem State.setRx_bootLen (n : Nat) (x : RxSlice) : (s.setRx n x).bootLen = s.bootLen := rfl
@[simp] theorem State.setRx_pending (n : Nat) (x : RxSlice) : (s.setRx n x).pending = s.pending := rfl

@[simp] theorem State.setDas_now (n : Nat) (x : Das) : (s.setDas n x).now = s.now := rfl
@[simp] theorem State.setDas_regs (n : Nat) (x : Das) : (s.setDas n x).regs = s.regs := rfl
@[simp] theorem State.setDas_shadows (n : Nat) (x : Das) : (s.setDas n x).shadows = s.shadows := rfl
@[simp] theorem State.setDas_completion (n : Nat) (x : Das) : (s.setDas n x).completion = s.completion := rfl
@[simp] theorem State.setDas_free (n : Nat) (x : Das) : (s.setDas n x).free = s.free := rfl
@[simp] theorem State.setDas_shed (n : Nat) (x : Das) : (s.setDas n x).shed = s.shed := rfl
@[simp] theorem State.setDas_shedBad (n : Nat) (x : Das) : (s.setDas n x).shedBad = s.shedBad := rfl
@[simp] theorem State.setDas_links (n : Nat) (x : Das) : (s.setDas n x).links = s.links := rfl
@[simp] theorem State.setDas_pllLost (n : Nat) (x : Das) : (s.setDas n x).pllLost = s.pllLost := rfl
@[simp] theorem State.setDas_gaps (n : Nat) (x : Das) : (s.setDas n x).gaps = s.gaps := rfl
@[simp] theorem State.setDas_ballast (n : Nat) (x : Das) : (s.setDas n x).ballast = s.ballast := rfl
@[simp] theorem State.setDas_landing (n : Nat) (x : Das) : (s.setDas n x).landing = s.landing := rfl
@[simp] theorem State.setDas_rate (n : Nat) (x : Das) : (s.setDas n x).rate = s.rate := rfl
@[simp] theorem State.setDas_berths (n : Nat) (x : Das) : (s.setDas n x).berths = s.berths := rfl
@[simp] theorem State.setDas_coming (n : Nat) (x : Das) : (s.setDas n x).coming = s.coming := rfl
@[simp] theorem State.setDas_gens (n : Nat) (x : Das) : (s.setDas n x).gens = s.gens := rfl
@[simp] theorem State.setDas_closedOrder (n : Nat) (x : Das) : (s.setDas n x).closedOrder = s.closedOrder := rfl
@[simp] theorem State.setDas_carried (n : Nat) (x : Das) : (s.setDas n x).carried = s.carried := rfl
@[simp] theorem State.setDas_work (n : Nat) (x : Das) : (s.setDas n x).work = s.work := rfl
@[simp] theorem State.setDas_late (n : Nat) (x : Das) : (s.setDas n x).late = s.late := rfl
@[simp] theorem State.setDas_cutWork (n : Nat) (x : Das) : (s.setDas n x).cutWork = s.cutWork := rfl
@[simp] theorem State.setDas_mfCheck (n : Nat) (x : Das) : (s.setDas n x).mfCheck = s.mfCheck := rfl
@[simp] theorem State.setDas_mfPending (n : Nat) (x : Das) : (s.setDas n x).mfPending = s.mfPending := rfl
@[simp] theorem State.setDas_mfActive (n : Nat) (x : Das) : (s.setDas n x).mfActive = s.mfActive := rfl
@[simp] theorem State.setDas_slotOrder (n : Nat) (x : Das) : (s.setDas n x).slotOrder = s.slotOrder := rfl
@[simp] theorem State.setDas_rings (n : Nat) (x : Das) : (s.setDas n x).rings = s.rings := rfl
@[simp] theorem State.setDas_quays (n : Nat) (x : Das) : (s.setDas n x).quays = s.quays := rfl
@[simp] theorem State.setDas_rx (n : Nat) (x : Das) : (s.setDas n x).rx = s.rx := rfl
@[simp] theorem State.setDas_routes (n : Nat) (x : Das) : (s.setDas n x).routes = s.routes := rfl
@[simp] theorem State.setDas_replayQ (n : Nat) (x : Das) : (s.setDas n x).replayQ = s.replayQ := rfl
@[simp] theorem State.setDas_replaying (n : Nat) (x : Das) : (s.setDas n x).replaying = s.replaying := rfl
@[simp] theorem State.setDas_tileWrites (n : Nat) (x : Das) : (s.setDas n x).tileWrites = s.tileWrites := rfl
@[simp] theorem State.setDas_dasComing (n : Nat) (x : Das) : (s.setDas n x).dasComing = s.dasComing := rfl
@[simp] theorem State.setDas_flow (n : Nat) (x : Das) : (s.setDas n x).flow = s.flow := rfl
@[simp] theorem State.setDas_flowComing (n : Nat) (x : Das) : (s.setDas n x).flowComing = s.flowComing := rfl
@[simp] theorem State.setDas_samples (n : Nat) (x : Das) : (s.setDas n x).samples = s.samples := rfl
@[simp] theorem State.setDas_traces (n : Nat) (x : Das) : (s.setDas n x).traces = s.traces := rfl
@[simp] theorem State.setDas_hold (n : Nat) (x : Das) : (s.setDas n x).hold = s.hold := rfl
@[simp] theorem State.setDas_ledger (n : Nat) (x : Das) : (s.setDas n x).ledger = s.ledger := rfl
@[simp] theorem State.setDas_sent (n : Nat) (x : Das) : (s.setDas n x).sent = s.sent := rfl
@[simp] theorem State.setDas_signQ (n : Nat) (x : Das) : (s.setDas n x).signQ = s.signQ := rfl
@[simp] theorem State.setDas_evtLost (n : Nat) (x : Das) : (s.setDas n x).evtLost = s.evtLost := rfl
@[simp] theorem State.setDas_lanes (n : Nat) (x : Das) : (s.setDas n x).lanes = s.lanes := rfl
@[simp] theorem State.setDas_fifos (n : Nat) (x : Das) : (s.setDas n x).fifos = s.fifos := rfl
@[simp] theorem State.setDas_raman (n : Nat) (x : Das) : (s.setDas n x).raman = s.raman := rfl
@[simp] theorem State.setDas_ports (n : Nat) (x : Das) : (s.setDas n x).ports = s.ports := rfl
@[simp] theorem State.setDas_ranging (n : Nat) (x : Das) : (s.setDas n x).ranging = s.ranging := rfl
@[simp] theorem State.setDas_byb (n : Nat) (x : Das) : (s.setDas n x).byb = s.byb := rfl
@[simp] theorem State.setDas_snd (n : Nat) (x : Das) : (s.setDas n x).snd = s.snd := rfl
@[simp] theorem State.setDas_sounding (n : Nat) (x : Das) : (s.setDas n x).sounding = s.sounding := rfl
@[simp] theorem State.setDas_watches (n : Nat) (x : Das) : (s.setDas n x).watches = s.watches := rfl
@[simp] theorem State.setDas_cores (n : Nat) (x : Das) : (s.setDas n x).cores = s.cores := rfl
@[simp] theorem State.setDas_clusters (n : Nat) (x : Das) : (s.setDas n x).clusters = s.clusters := rfl
@[simp] theorem State.setDas_wh (n : Nat) (x : Das) : (s.setDas n x).wh = s.wh := rfl
@[simp] theorem State.setDas_whDone (n : Nat) (x : Das) : (s.setDas n x).whDone = s.whDone := rfl
@[simp] theorem State.setDas_tugs (n : Nat) (x : Das) : (s.setDas n x).tugs = s.tugs := rfl
@[simp] theorem State.setDas_draining (n : Nat) (x : Das) : (s.setDas n x).draining = s.draining := rfl
@[simp] theorem State.setDas_toHost (n : Nat) (x : Das) : (s.setDas n x).toHost = s.toHost := rfl
@[simp] theorem State.setDas_signalled (n : Nat) (x : Das) : (s.setDas n x).signalled = s.signalled := rfl
@[simp] theorem State.setDas_packs (n : Nat) (x : Das) : (s.setDas n x).packs = s.packs := rfl
@[simp] theorem State.setDas_packUsed (n : Nat) (x : Das) : (s.setDas n x).packUsed = s.packUsed := rfl
@[simp] theorem State.setDas_streams (n : Nat) (x : Das) : (s.setDas n x).streams = s.streams := rfl
@[simp] theorem State.setDas_exportCost (n : Nat) (x : Das) : (s.setDas n x).exportCost = s.exportCost := rfl
@[simp] theorem State.setDas_exportDue (n : Nat) (x : Das) : (s.setDas n x).exportDue = s.exportDue := rfl
@[simp] theorem State.setDas_stamps (n : Nat) (x : Das) : (s.setDas n x).stamps = s.stamps := rfl
@[simp] theorem State.setDas_hawser (n : Nat) (x : Das) : (s.setDas n x).hawser = s.hawser := rfl
@[simp] theorem State.setDas_calActive (n : Nat) (x : Das) : (s.setDas n x).calActive = s.calActive := rfl
@[simp] theorem State.setDas_quayTrims (n : Nat) (x : Das) : (s.setDas n x).quayTrims = s.quayTrims := rfl
@[simp] theorem State.setDas_taps (n : Nat) (x : Das) : (s.setDas n x).taps = s.taps := rfl
@[simp] theorem State.setDas_calSel (n : Nat) (x : Das) : (s.setDas n x).calSel = s.calSel := rfl
@[simp] theorem State.setDas_calWaiting (n : Nat) (x : Das) : (s.setDas n x).calWaiting = s.calWaiting := rfl
@[simp] theorem State.setDas_calDone (n : Nat) (x : Das) : (s.setDas n x).calDone = s.calDone := rfl
@[simp] theorem State.setDas_charter (n : Nat) (x : Das) : (s.setDas n x).charter = s.charter := rfl
@[simp] theorem State.setDas_power (n : Nat) (x : Das) : (s.setDas n x).power = s.power := rfl
@[simp] theorem State.setDas_life (n : Nat) (x : Das) : (s.setDas n x).life = s.life := rfl
@[simp] theorem State.setDas_fwSwap (n : Nat) (x : Das) : (s.setDas n x).fwSwap = s.fwSwap := rfl
@[simp] theorem State.setDas_ledgerVer (n : Nat) (x : Das) : (s.setDas n x).ledgerVer = s.ledgerVer := rfl
@[simp] theorem State.setDas_bootLen (n : Nat) (x : Das) : (s.setDas n x).bootLen = s.bootLen := rfl
@[simp] theorem State.setDas_pending (n : Nat) (x : Das) : (s.setDas n x).pending = s.pending := rfl

@[simp] theorem State.setFlow_now (n : Nat) (x : Flow) : (s.setFlow n x).now = s.now := rfl
@[simp] theorem State.setFlow_regs (n : Nat) (x : Flow) : (s.setFlow n x).regs = s.regs := rfl
@[simp] theorem State.setFlow_shadows (n : Nat) (x : Flow) : (s.setFlow n x).shadows = s.shadows := rfl
@[simp] theorem State.setFlow_completion (n : Nat) (x : Flow) : (s.setFlow n x).completion = s.completion := rfl
@[simp] theorem State.setFlow_free (n : Nat) (x : Flow) : (s.setFlow n x).free = s.free := rfl
@[simp] theorem State.setFlow_shed (n : Nat) (x : Flow) : (s.setFlow n x).shed = s.shed := rfl
@[simp] theorem State.setFlow_shedBad (n : Nat) (x : Flow) : (s.setFlow n x).shedBad = s.shedBad := rfl
@[simp] theorem State.setFlow_links (n : Nat) (x : Flow) : (s.setFlow n x).links = s.links := rfl
@[simp] theorem State.setFlow_pllLost (n : Nat) (x : Flow) : (s.setFlow n x).pllLost = s.pllLost := rfl
@[simp] theorem State.setFlow_gaps (n : Nat) (x : Flow) : (s.setFlow n x).gaps = s.gaps := rfl
@[simp] theorem State.setFlow_ballast (n : Nat) (x : Flow) : (s.setFlow n x).ballast = s.ballast := rfl
@[simp] theorem State.setFlow_landing (n : Nat) (x : Flow) : (s.setFlow n x).landing = s.landing := rfl
@[simp] theorem State.setFlow_rate (n : Nat) (x : Flow) : (s.setFlow n x).rate = s.rate := rfl
@[simp] theorem State.setFlow_berths (n : Nat) (x : Flow) : (s.setFlow n x).berths = s.berths := rfl
@[simp] theorem State.setFlow_coming (n : Nat) (x : Flow) : (s.setFlow n x).coming = s.coming := rfl
@[simp] theorem State.setFlow_gens (n : Nat) (x : Flow) : (s.setFlow n x).gens = s.gens := rfl
@[simp] theorem State.setFlow_closedOrder (n : Nat) (x : Flow) : (s.setFlow n x).closedOrder = s.closedOrder := rfl
@[simp] theorem State.setFlow_carried (n : Nat) (x : Flow) : (s.setFlow n x).carried = s.carried := rfl
@[simp] theorem State.setFlow_work (n : Nat) (x : Flow) : (s.setFlow n x).work = s.work := rfl
@[simp] theorem State.setFlow_late (n : Nat) (x : Flow) : (s.setFlow n x).late = s.late := rfl
@[simp] theorem State.setFlow_cutWork (n : Nat) (x : Flow) : (s.setFlow n x).cutWork = s.cutWork := rfl
@[simp] theorem State.setFlow_mfCheck (n : Nat) (x : Flow) : (s.setFlow n x).mfCheck = s.mfCheck := rfl
@[simp] theorem State.setFlow_mfPending (n : Nat) (x : Flow) : (s.setFlow n x).mfPending = s.mfPending := rfl
@[simp] theorem State.setFlow_mfActive (n : Nat) (x : Flow) : (s.setFlow n x).mfActive = s.mfActive := rfl
@[simp] theorem State.setFlow_slotOrder (n : Nat) (x : Flow) : (s.setFlow n x).slotOrder = s.slotOrder := rfl
@[simp] theorem State.setFlow_rings (n : Nat) (x : Flow) : (s.setFlow n x).rings = s.rings := rfl
@[simp] theorem State.setFlow_quays (n : Nat) (x : Flow) : (s.setFlow n x).quays = s.quays := rfl
@[simp] theorem State.setFlow_rx (n : Nat) (x : Flow) : (s.setFlow n x).rx = s.rx := rfl
@[simp] theorem State.setFlow_routes (n : Nat) (x : Flow) : (s.setFlow n x).routes = s.routes := rfl
@[simp] theorem State.setFlow_replayQ (n : Nat) (x : Flow) : (s.setFlow n x).replayQ = s.replayQ := rfl
@[simp] theorem State.setFlow_replaying (n : Nat) (x : Flow) : (s.setFlow n x).replaying = s.replaying := rfl
@[simp] theorem State.setFlow_das (n : Nat) (x : Flow) : (s.setFlow n x).das = s.das := rfl
@[simp] theorem State.setFlow_tileWrites (n : Nat) (x : Flow) : (s.setFlow n x).tileWrites = s.tileWrites := rfl
@[simp] theorem State.setFlow_dasComing (n : Nat) (x : Flow) : (s.setFlow n x).dasComing = s.dasComing := rfl
@[simp] theorem State.setFlow_flowComing (n : Nat) (x : Flow) : (s.setFlow n x).flowComing = s.flowComing := rfl
@[simp] theorem State.setFlow_samples (n : Nat) (x : Flow) : (s.setFlow n x).samples = s.samples := rfl
@[simp] theorem State.setFlow_traces (n : Nat) (x : Flow) : (s.setFlow n x).traces = s.traces := rfl
@[simp] theorem State.setFlow_hold (n : Nat) (x : Flow) : (s.setFlow n x).hold = s.hold := rfl
@[simp] theorem State.setFlow_ledger (n : Nat) (x : Flow) : (s.setFlow n x).ledger = s.ledger := rfl
@[simp] theorem State.setFlow_sent (n : Nat) (x : Flow) : (s.setFlow n x).sent = s.sent := rfl
@[simp] theorem State.setFlow_signQ (n : Nat) (x : Flow) : (s.setFlow n x).signQ = s.signQ := rfl
@[simp] theorem State.setFlow_evtLost (n : Nat) (x : Flow) : (s.setFlow n x).evtLost = s.evtLost := rfl
@[simp] theorem State.setFlow_lanes (n : Nat) (x : Flow) : (s.setFlow n x).lanes = s.lanes := rfl
@[simp] theorem State.setFlow_fifos (n : Nat) (x : Flow) : (s.setFlow n x).fifos = s.fifos := rfl
@[simp] theorem State.setFlow_raman (n : Nat) (x : Flow) : (s.setFlow n x).raman = s.raman := rfl
@[simp] theorem State.setFlow_ports (n : Nat) (x : Flow) : (s.setFlow n x).ports = s.ports := rfl
@[simp] theorem State.setFlow_ranging (n : Nat) (x : Flow) : (s.setFlow n x).ranging = s.ranging := rfl
@[simp] theorem State.setFlow_byb (n : Nat) (x : Flow) : (s.setFlow n x).byb = s.byb := rfl
@[simp] theorem State.setFlow_snd (n : Nat) (x : Flow) : (s.setFlow n x).snd = s.snd := rfl
@[simp] theorem State.setFlow_sounding (n : Nat) (x : Flow) : (s.setFlow n x).sounding = s.sounding := rfl
@[simp] theorem State.setFlow_watches (n : Nat) (x : Flow) : (s.setFlow n x).watches = s.watches := rfl
@[simp] theorem State.setFlow_cores (n : Nat) (x : Flow) : (s.setFlow n x).cores = s.cores := rfl
@[simp] theorem State.setFlow_clusters (n : Nat) (x : Flow) : (s.setFlow n x).clusters = s.clusters := rfl
@[simp] theorem State.setFlow_wh (n : Nat) (x : Flow) : (s.setFlow n x).wh = s.wh := rfl
@[simp] theorem State.setFlow_whDone (n : Nat) (x : Flow) : (s.setFlow n x).whDone = s.whDone := rfl
@[simp] theorem State.setFlow_tugs (n : Nat) (x : Flow) : (s.setFlow n x).tugs = s.tugs := rfl
@[simp] theorem State.setFlow_draining (n : Nat) (x : Flow) : (s.setFlow n x).draining = s.draining := rfl
@[simp] theorem State.setFlow_toHost (n : Nat) (x : Flow) : (s.setFlow n x).toHost = s.toHost := rfl
@[simp] theorem State.setFlow_signalled (n : Nat) (x : Flow) : (s.setFlow n x).signalled = s.signalled := rfl
@[simp] theorem State.setFlow_packs (n : Nat) (x : Flow) : (s.setFlow n x).packs = s.packs := rfl
@[simp] theorem State.setFlow_packUsed (n : Nat) (x : Flow) : (s.setFlow n x).packUsed = s.packUsed := rfl
@[simp] theorem State.setFlow_streams (n : Nat) (x : Flow) : (s.setFlow n x).streams = s.streams := rfl
@[simp] theorem State.setFlow_exportCost (n : Nat) (x : Flow) : (s.setFlow n x).exportCost = s.exportCost := rfl
@[simp] theorem State.setFlow_exportDue (n : Nat) (x : Flow) : (s.setFlow n x).exportDue = s.exportDue := rfl
@[simp] theorem State.setFlow_stamps (n : Nat) (x : Flow) : (s.setFlow n x).stamps = s.stamps := rfl
@[simp] theorem State.setFlow_hawser (n : Nat) (x : Flow) : (s.setFlow n x).hawser = s.hawser := rfl
@[simp] theorem State.setFlow_calActive (n : Nat) (x : Flow) : (s.setFlow n x).calActive = s.calActive := rfl
@[simp] theorem State.setFlow_quayTrims (n : Nat) (x : Flow) : (s.setFlow n x).quayTrims = s.quayTrims := rfl
@[simp] theorem State.setFlow_taps (n : Nat) (x : Flow) : (s.setFlow n x).taps = s.taps := rfl
@[simp] theorem State.setFlow_calSel (n : Nat) (x : Flow) : (s.setFlow n x).calSel = s.calSel := rfl
@[simp] theorem State.setFlow_calWaiting (n : Nat) (x : Flow) : (s.setFlow n x).calWaiting = s.calWaiting := rfl
@[simp] theorem State.setFlow_calDone (n : Nat) (x : Flow) : (s.setFlow n x).calDone = s.calDone := rfl
@[simp] theorem State.setFlow_charter (n : Nat) (x : Flow) : (s.setFlow n x).charter = s.charter := rfl
@[simp] theorem State.setFlow_power (n : Nat) (x : Flow) : (s.setFlow n x).power = s.power := rfl
@[simp] theorem State.setFlow_life (n : Nat) (x : Flow) : (s.setFlow n x).life = s.life := rfl
@[simp] theorem State.setFlow_fwSwap (n : Nat) (x : Flow) : (s.setFlow n x).fwSwap = s.fwSwap := rfl
@[simp] theorem State.setFlow_ledgerVer (n : Nat) (x : Flow) : (s.setFlow n x).ledgerVer = s.ledgerVer := rfl
@[simp] theorem State.setFlow_bootLen (n : Nat) (x : Flow) : (s.setFlow n x).bootLen = s.bootLen := rfl
@[simp] theorem State.setFlow_pending (n : Nat) (x : Flow) : (s.setFlow n x).pending = s.pending := rfl

@[simp] theorem State.setPoint_now (n : Nat) (x : Point) : (s.setPoint n x).now = s.now := rfl
@[simp] theorem State.setPoint_regs (n : Nat) (x : Point) : (s.setPoint n x).regs = s.regs := rfl
@[simp] theorem State.setPoint_shadows (n : Nat) (x : Point) : (s.setPoint n x).shadows = s.shadows := rfl
@[simp] theorem State.setPoint_completion (n : Nat) (x : Point) : (s.setPoint n x).completion = s.completion := rfl
@[simp] theorem State.setPoint_free (n : Nat) (x : Point) : (s.setPoint n x).free = s.free := rfl
@[simp] theorem State.setPoint_shed (n : Nat) (x : Point) : (s.setPoint n x).shed = s.shed := rfl
@[simp] theorem State.setPoint_shedBad (n : Nat) (x : Point) : (s.setPoint n x).shedBad = s.shedBad := rfl
@[simp] theorem State.setPoint_links (n : Nat) (x : Point) : (s.setPoint n x).links = s.links := rfl
@[simp] theorem State.setPoint_pllLost (n : Nat) (x : Point) : (s.setPoint n x).pllLost = s.pllLost := rfl
@[simp] theorem State.setPoint_gaps (n : Nat) (x : Point) : (s.setPoint n x).gaps = s.gaps := rfl
@[simp] theorem State.setPoint_ballast (n : Nat) (x : Point) : (s.setPoint n x).ballast = s.ballast := rfl
@[simp] theorem State.setPoint_landing (n : Nat) (x : Point) : (s.setPoint n x).landing = s.landing := rfl
@[simp] theorem State.setPoint_rate (n : Nat) (x : Point) : (s.setPoint n x).rate = s.rate := rfl
@[simp] theorem State.setPoint_berths (n : Nat) (x : Point) : (s.setPoint n x).berths = s.berths := rfl
@[simp] theorem State.setPoint_coming (n : Nat) (x : Point) : (s.setPoint n x).coming = s.coming := rfl
@[simp] theorem State.setPoint_gens (n : Nat) (x : Point) : (s.setPoint n x).gens = s.gens := rfl
@[simp] theorem State.setPoint_closedOrder (n : Nat) (x : Point) : (s.setPoint n x).closedOrder = s.closedOrder := rfl
@[simp] theorem State.setPoint_carried (n : Nat) (x : Point) : (s.setPoint n x).carried = s.carried := rfl
@[simp] theorem State.setPoint_work (n : Nat) (x : Point) : (s.setPoint n x).work = s.work := rfl
@[simp] theorem State.setPoint_late (n : Nat) (x : Point) : (s.setPoint n x).late = s.late := rfl
@[simp] theorem State.setPoint_cutWork (n : Nat) (x : Point) : (s.setPoint n x).cutWork = s.cutWork := rfl
@[simp] theorem State.setPoint_mfCheck (n : Nat) (x : Point) : (s.setPoint n x).mfCheck = s.mfCheck := rfl
@[simp] theorem State.setPoint_mfPending (n : Nat) (x : Point) : (s.setPoint n x).mfPending = s.mfPending := rfl
@[simp] theorem State.setPoint_mfActive (n : Nat) (x : Point) : (s.setPoint n x).mfActive = s.mfActive := rfl
@[simp] theorem State.setPoint_slotOrder (n : Nat) (x : Point) : (s.setPoint n x).slotOrder = s.slotOrder := rfl
@[simp] theorem State.setPoint_rings (n : Nat) (x : Point) : (s.setPoint n x).rings = s.rings := rfl
@[simp] theorem State.setPoint_quays (n : Nat) (x : Point) : (s.setPoint n x).quays = s.quays := rfl
@[simp] theorem State.setPoint_rx (n : Nat) (x : Point) : (s.setPoint n x).rx = s.rx := rfl
@[simp] theorem State.setPoint_routes (n : Nat) (x : Point) : (s.setPoint n x).routes = s.routes := rfl
@[simp] theorem State.setPoint_replayQ (n : Nat) (x : Point) : (s.setPoint n x).replayQ = s.replayQ := rfl
@[simp] theorem State.setPoint_replaying (n : Nat) (x : Point) : (s.setPoint n x).replaying = s.replaying := rfl
@[simp] theorem State.setPoint_das (n : Nat) (x : Point) : (s.setPoint n x).das = s.das := rfl
@[simp] theorem State.setPoint_tileWrites (n : Nat) (x : Point) : (s.setPoint n x).tileWrites = s.tileWrites := rfl
@[simp] theorem State.setPoint_dasComing (n : Nat) (x : Point) : (s.setPoint n x).dasComing = s.dasComing := rfl
@[simp] theorem State.setPoint_flow (n : Nat) (x : Point) : (s.setPoint n x).flow = s.flow := rfl
@[simp] theorem State.setPoint_flowComing (n : Nat) (x : Point) : (s.setPoint n x).flowComing = s.flowComing := rfl
@[simp] theorem State.setPoint_samples (n : Nat) (x : Point) : (s.setPoint n x).samples = s.samples := rfl
@[simp] theorem State.setPoint_traces (n : Nat) (x : Point) : (s.setPoint n x).traces = s.traces := rfl
@[simp] theorem State.setPoint_hold (n : Nat) (x : Point) : (s.setPoint n x).hold = s.hold := rfl
@[simp] theorem State.setPoint_sent (n : Nat) (x : Point) : (s.setPoint n x).sent = s.sent := rfl
@[simp] theorem State.setPoint_signQ (n : Nat) (x : Point) : (s.setPoint n x).signQ = s.signQ := rfl
@[simp] theorem State.setPoint_evtLost (n : Nat) (x : Point) : (s.setPoint n x).evtLost = s.evtLost := rfl
@[simp] theorem State.setPoint_lanes (n : Nat) (x : Point) : (s.setPoint n x).lanes = s.lanes := rfl
@[simp] theorem State.setPoint_fifos (n : Nat) (x : Point) : (s.setPoint n x).fifos = s.fifos := rfl
@[simp] theorem State.setPoint_raman (n : Nat) (x : Point) : (s.setPoint n x).raman = s.raman := rfl
@[simp] theorem State.setPoint_ports (n : Nat) (x : Point) : (s.setPoint n x).ports = s.ports := rfl
@[simp] theorem State.setPoint_ranging (n : Nat) (x : Point) : (s.setPoint n x).ranging = s.ranging := rfl
@[simp] theorem State.setPoint_byb (n : Nat) (x : Point) : (s.setPoint n x).byb = s.byb := rfl
@[simp] theorem State.setPoint_snd (n : Nat) (x : Point) : (s.setPoint n x).snd = s.snd := rfl
@[simp] theorem State.setPoint_sounding (n : Nat) (x : Point) : (s.setPoint n x).sounding = s.sounding := rfl
@[simp] theorem State.setPoint_watches (n : Nat) (x : Point) : (s.setPoint n x).watches = s.watches := rfl
@[simp] theorem State.setPoint_cores (n : Nat) (x : Point) : (s.setPoint n x).cores = s.cores := rfl
@[simp] theorem State.setPoint_clusters (n : Nat) (x : Point) : (s.setPoint n x).clusters = s.clusters := rfl
@[simp] theorem State.setPoint_wh (n : Nat) (x : Point) : (s.setPoint n x).wh = s.wh := rfl
@[simp] theorem State.setPoint_whDone (n : Nat) (x : Point) : (s.setPoint n x).whDone = s.whDone := rfl
@[simp] theorem State.setPoint_tugs (n : Nat) (x : Point) : (s.setPoint n x).tugs = s.tugs := rfl
@[simp] theorem State.setPoint_draining (n : Nat) (x : Point) : (s.setPoint n x).draining = s.draining := rfl
@[simp] theorem State.setPoint_toHost (n : Nat) (x : Point) : (s.setPoint n x).toHost = s.toHost := rfl
@[simp] theorem State.setPoint_signalled (n : Nat) (x : Point) : (s.setPoint n x).signalled = s.signalled := rfl
@[simp] theorem State.setPoint_packs (n : Nat) (x : Point) : (s.setPoint n x).packs = s.packs := rfl
@[simp] theorem State.setPoint_packUsed (n : Nat) (x : Point) : (s.setPoint n x).packUsed = s.packUsed := rfl
@[simp] theorem State.setPoint_streams (n : Nat) (x : Point) : (s.setPoint n x).streams = s.streams := rfl
@[simp] theorem State.setPoint_exportCost (n : Nat) (x : Point) : (s.setPoint n x).exportCost = s.exportCost := rfl
@[simp] theorem State.setPoint_exportDue (n : Nat) (x : Point) : (s.setPoint n x).exportDue = s.exportDue := rfl
@[simp] theorem State.setPoint_stamps (n : Nat) (x : Point) : (s.setPoint n x).stamps = s.stamps := rfl
@[simp] theorem State.setPoint_hawser (n : Nat) (x : Point) : (s.setPoint n x).hawser = s.hawser := rfl
@[simp] theorem State.setPoint_calActive (n : Nat) (x : Point) : (s.setPoint n x).calActive = s.calActive := rfl
@[simp] theorem State.setPoint_quayTrims (n : Nat) (x : Point) : (s.setPoint n x).quayTrims = s.quayTrims := rfl
@[simp] theorem State.setPoint_taps (n : Nat) (x : Point) : (s.setPoint n x).taps = s.taps := rfl
@[simp] theorem State.setPoint_calSel (n : Nat) (x : Point) : (s.setPoint n x).calSel = s.calSel := rfl
@[simp] theorem State.setPoint_calWaiting (n : Nat) (x : Point) : (s.setPoint n x).calWaiting = s.calWaiting := rfl
@[simp] theorem State.setPoint_calDone (n : Nat) (x : Point) : (s.setPoint n x).calDone = s.calDone := rfl
@[simp] theorem State.setPoint_charter (n : Nat) (x : Point) : (s.setPoint n x).charter = s.charter := rfl
@[simp] theorem State.setPoint_power (n : Nat) (x : Point) : (s.setPoint n x).power = s.power := rfl
@[simp] theorem State.setPoint_life (n : Nat) (x : Point) : (s.setPoint n x).life = s.life := rfl
@[simp] theorem State.setPoint_fwSwap (n : Nat) (x : Point) : (s.setPoint n x).fwSwap = s.fwSwap := rfl
@[simp] theorem State.setPoint_ledgerVer (n : Nat) (x : Point) : (s.setPoint n x).ledgerVer = s.ledgerVer := rfl
@[simp] theorem State.setPoint_bootLen (n : Nat) (x : Point) : (s.setPoint n x).bootLen = s.bootLen := rfl
@[simp] theorem State.setPoint_pending (n : Nat) (x : Point) : (s.setPoint n x).pending = s.pending := rfl

@[simp] theorem State.holdWrite_now (a : Nat) (bs : List Byte) : (s.holdWrite a bs).now = s.now := rfl
@[simp] theorem State.holdWrite_regs (a : Nat) (bs : List Byte) : (s.holdWrite a bs).regs = s.regs := rfl
@[simp] theorem State.holdWrite_shadows (a : Nat) (bs : List Byte) : (s.holdWrite a bs).shadows = s.shadows := rfl
@[simp] theorem State.holdWrite_completion (a : Nat) (bs : List Byte) : (s.holdWrite a bs).completion = s.completion := rfl
@[simp] theorem State.holdWrite_free (a : Nat) (bs : List Byte) : (s.holdWrite a bs).free = s.free := rfl
@[simp] theorem State.holdWrite_shed (a : Nat) (bs : List Byte) : (s.holdWrite a bs).shed = s.shed := rfl
@[simp] theorem State.holdWrite_shedBad (a : Nat) (bs : List Byte) : (s.holdWrite a bs).shedBad = s.shedBad := rfl
@[simp] theorem State.holdWrite_links (a : Nat) (bs : List Byte) : (s.holdWrite a bs).links = s.links := rfl
@[simp] theorem State.holdWrite_pllLost (a : Nat) (bs : List Byte) : (s.holdWrite a bs).pllLost = s.pllLost := rfl
@[simp] theorem State.holdWrite_gaps (a : Nat) (bs : List Byte) : (s.holdWrite a bs).gaps = s.gaps := rfl
@[simp] theorem State.holdWrite_ballast (a : Nat) (bs : List Byte) : (s.holdWrite a bs).ballast = s.ballast := rfl
@[simp] theorem State.holdWrite_landing (a : Nat) (bs : List Byte) : (s.holdWrite a bs).landing = s.landing := rfl
@[simp] theorem State.holdWrite_rate (a : Nat) (bs : List Byte) : (s.holdWrite a bs).rate = s.rate := rfl
@[simp] theorem State.holdWrite_berths (a : Nat) (bs : List Byte) : (s.holdWrite a bs).berths = s.berths := rfl
@[simp] theorem State.holdWrite_coming (a : Nat) (bs : List Byte) : (s.holdWrite a bs).coming = s.coming := rfl
@[simp] theorem State.holdWrite_gens (a : Nat) (bs : List Byte) : (s.holdWrite a bs).gens = s.gens := rfl
@[simp] theorem State.holdWrite_closedOrder (a : Nat) (bs : List Byte) : (s.holdWrite a bs).closedOrder = s.closedOrder := rfl
@[simp] theorem State.holdWrite_carried (a : Nat) (bs : List Byte) : (s.holdWrite a bs).carried = s.carried := rfl
@[simp] theorem State.holdWrite_work (a : Nat) (bs : List Byte) : (s.holdWrite a bs).work = s.work := rfl
@[simp] theorem State.holdWrite_late (a : Nat) (bs : List Byte) : (s.holdWrite a bs).late = s.late := rfl
@[simp] theorem State.holdWrite_cutWork (a : Nat) (bs : List Byte) : (s.holdWrite a bs).cutWork = s.cutWork := rfl
@[simp] theorem State.holdWrite_mfCheck (a : Nat) (bs : List Byte) : (s.holdWrite a bs).mfCheck = s.mfCheck := rfl
@[simp] theorem State.holdWrite_mfPending (a : Nat) (bs : List Byte) : (s.holdWrite a bs).mfPending = s.mfPending := rfl
@[simp] theorem State.holdWrite_mfActive (a : Nat) (bs : List Byte) : (s.holdWrite a bs).mfActive = s.mfActive := rfl
@[simp] theorem State.holdWrite_slotOrder (a : Nat) (bs : List Byte) : (s.holdWrite a bs).slotOrder = s.slotOrder := rfl
@[simp] theorem State.holdWrite_rings (a : Nat) (bs : List Byte) : (s.holdWrite a bs).rings = s.rings := rfl
@[simp] theorem State.holdWrite_quays (a : Nat) (bs : List Byte) : (s.holdWrite a bs).quays = s.quays := rfl
@[simp] theorem State.holdWrite_rx (a : Nat) (bs : List Byte) : (s.holdWrite a bs).rx = s.rx := rfl
@[simp] theorem State.holdWrite_routes (a : Nat) (bs : List Byte) : (s.holdWrite a bs).routes = s.routes := rfl
@[simp] theorem State.holdWrite_replayQ (a : Nat) (bs : List Byte) : (s.holdWrite a bs).replayQ = s.replayQ := rfl
@[simp] theorem State.holdWrite_replaying (a : Nat) (bs : List Byte) : (s.holdWrite a bs).replaying = s.replaying := rfl
@[simp] theorem State.holdWrite_das (a : Nat) (bs : List Byte) : (s.holdWrite a bs).das = s.das := rfl
@[simp] theorem State.holdWrite_tileWrites (a : Nat) (bs : List Byte) : (s.holdWrite a bs).tileWrites = s.tileWrites := rfl
@[simp] theorem State.holdWrite_dasComing (a : Nat) (bs : List Byte) : (s.holdWrite a bs).dasComing = s.dasComing := rfl
@[simp] theorem State.holdWrite_flow (a : Nat) (bs : List Byte) : (s.holdWrite a bs).flow = s.flow := rfl
@[simp] theorem State.holdWrite_flowComing (a : Nat) (bs : List Byte) : (s.holdWrite a bs).flowComing = s.flowComing := rfl
@[simp] theorem State.holdWrite_samples (a : Nat) (bs : List Byte) : (s.holdWrite a bs).samples = s.samples := rfl
@[simp] theorem State.holdWrite_traces (a : Nat) (bs : List Byte) : (s.holdWrite a bs).traces = s.traces := rfl
@[simp] theorem State.holdWrite_ledger (a : Nat) (bs : List Byte) : (s.holdWrite a bs).ledger = s.ledger := rfl
@[simp] theorem State.holdWrite_sent (a : Nat) (bs : List Byte) : (s.holdWrite a bs).sent = s.sent := rfl
@[simp] theorem State.holdWrite_signQ (a : Nat) (bs : List Byte) : (s.holdWrite a bs).signQ = s.signQ := rfl
@[simp] theorem State.holdWrite_evtLost (a : Nat) (bs : List Byte) : (s.holdWrite a bs).evtLost = s.evtLost := rfl
@[simp] theorem State.holdWrite_lanes (a : Nat) (bs : List Byte) : (s.holdWrite a bs).lanes = s.lanes := rfl
@[simp] theorem State.holdWrite_fifos (a : Nat) (bs : List Byte) : (s.holdWrite a bs).fifos = s.fifos := rfl
@[simp] theorem State.holdWrite_raman (a : Nat) (bs : List Byte) : (s.holdWrite a bs).raman = s.raman := rfl
@[simp] theorem State.holdWrite_ports (a : Nat) (bs : List Byte) : (s.holdWrite a bs).ports = s.ports := rfl
@[simp] theorem State.holdWrite_ranging (a : Nat) (bs : List Byte) : (s.holdWrite a bs).ranging = s.ranging := rfl
@[simp] theorem State.holdWrite_byb (a : Nat) (bs : List Byte) : (s.holdWrite a bs).byb = s.byb := rfl
@[simp] theorem State.holdWrite_snd (a : Nat) (bs : List Byte) : (s.holdWrite a bs).snd = s.snd := rfl
@[simp] theorem State.holdWrite_sounding (a : Nat) (bs : List Byte) : (s.holdWrite a bs).sounding = s.sounding := rfl
@[simp] theorem State.holdWrite_watches (a : Nat) (bs : List Byte) : (s.holdWrite a bs).watches = s.watches := rfl
@[simp] theorem State.holdWrite_cores (a : Nat) (bs : List Byte) : (s.holdWrite a bs).cores = s.cores := rfl
@[simp] theorem State.holdWrite_clusters (a : Nat) (bs : List Byte) : (s.holdWrite a bs).clusters = s.clusters := rfl
@[simp] theorem State.holdWrite_wh (a : Nat) (bs : List Byte) : (s.holdWrite a bs).wh = s.wh := rfl
@[simp] theorem State.holdWrite_whDone (a : Nat) (bs : List Byte) : (s.holdWrite a bs).whDone = s.whDone := rfl
@[simp] theorem State.holdWrite_tugs (a : Nat) (bs : List Byte) : (s.holdWrite a bs).tugs = s.tugs := rfl
@[simp] theorem State.holdWrite_draining (a : Nat) (bs : List Byte) : (s.holdWrite a bs).draining = s.draining := rfl
@[simp] theorem State.holdWrite_toHost (a : Nat) (bs : List Byte) : (s.holdWrite a bs).toHost = s.toHost := rfl
@[simp] theorem State.holdWrite_signalled (a : Nat) (bs : List Byte) : (s.holdWrite a bs).signalled = s.signalled := rfl
@[simp] theorem State.holdWrite_packs (a : Nat) (bs : List Byte) : (s.holdWrite a bs).packs = s.packs := rfl
@[simp] theorem State.holdWrite_packUsed (a : Nat) (bs : List Byte) : (s.holdWrite a bs).packUsed = s.packUsed := rfl
@[simp] theorem State.holdWrite_streams (a : Nat) (bs : List Byte) : (s.holdWrite a bs).streams = s.streams := rfl
@[simp] theorem State.holdWrite_exportCost (a : Nat) (bs : List Byte) : (s.holdWrite a bs).exportCost = s.exportCost := rfl
@[simp] theorem State.holdWrite_exportDue (a : Nat) (bs : List Byte) : (s.holdWrite a bs).exportDue = s.exportDue := rfl
@[simp] theorem State.holdWrite_stamps (a : Nat) (bs : List Byte) : (s.holdWrite a bs).stamps = s.stamps := rfl
@[simp] theorem State.holdWrite_hawser (a : Nat) (bs : List Byte) : (s.holdWrite a bs).hawser = s.hawser := rfl
@[simp] theorem State.holdWrite_calActive (a : Nat) (bs : List Byte) : (s.holdWrite a bs).calActive = s.calActive := rfl
@[simp] theorem State.holdWrite_quayTrims (a : Nat) (bs : List Byte) : (s.holdWrite a bs).quayTrims = s.quayTrims := rfl
@[simp] theorem State.holdWrite_taps (a : Nat) (bs : List Byte) : (s.holdWrite a bs).taps = s.taps := rfl
@[simp] theorem State.holdWrite_calSel (a : Nat) (bs : List Byte) : (s.holdWrite a bs).calSel = s.calSel := rfl
@[simp] theorem State.holdWrite_calWaiting (a : Nat) (bs : List Byte) : (s.holdWrite a bs).calWaiting = s.calWaiting := rfl
@[simp] theorem State.holdWrite_calDone (a : Nat) (bs : List Byte) : (s.holdWrite a bs).calDone = s.calDone := rfl
@[simp] theorem State.holdWrite_charter (a : Nat) (bs : List Byte) : (s.holdWrite a bs).charter = s.charter := rfl
@[simp] theorem State.holdWrite_power (a : Nat) (bs : List Byte) : (s.holdWrite a bs).power = s.power := rfl
@[simp] theorem State.holdWrite_life (a : Nat) (bs : List Byte) : (s.holdWrite a bs).life = s.life := rfl
@[simp] theorem State.holdWrite_fwSwap (a : Nat) (bs : List Byte) : (s.holdWrite a bs).fwSwap = s.fwSwap := rfl
@[simp] theorem State.holdWrite_ledgerVer (a : Nat) (bs : List Byte) : (s.holdWrite a bs).ledgerVer = s.ledgerVer := rfl
@[simp] theorem State.holdWrite_bootLen (a : Nat) (bs : List Byte) : (s.holdWrite a bs).bootLen = s.bootLen := rfl
@[simp] theorem State.holdWrite_pending (a : Nat) (bs : List Byte) : (s.holdWrite a bs).pending = s.pending := rfl

@[simp] theorem State.setLane_now (n : Nat) (x : Lane) : (s.setLane n x).now = s.now := rfl
@[simp] theorem State.setLane_regs (n : Nat) (x : Lane) : (s.setLane n x).regs = s.regs := rfl
@[simp] theorem State.setLane_shadows (n : Nat) (x : Lane) : (s.setLane n x).shadows = s.shadows := rfl
@[simp] theorem State.setLane_completion (n : Nat) (x : Lane) : (s.setLane n x).completion = s.completion := rfl
@[simp] theorem State.setLane_free (n : Nat) (x : Lane) : (s.setLane n x).free = s.free := rfl
@[simp] theorem State.setLane_shed (n : Nat) (x : Lane) : (s.setLane n x).shed = s.shed := rfl
@[simp] theorem State.setLane_shedBad (n : Nat) (x : Lane) : (s.setLane n x).shedBad = s.shedBad := rfl
@[simp] theorem State.setLane_links (n : Nat) (x : Lane) : (s.setLane n x).links = s.links := rfl
@[simp] theorem State.setLane_pllLost (n : Nat) (x : Lane) : (s.setLane n x).pllLost = s.pllLost := rfl
@[simp] theorem State.setLane_gaps (n : Nat) (x : Lane) : (s.setLane n x).gaps = s.gaps := rfl
@[simp] theorem State.setLane_ballast (n : Nat) (x : Lane) : (s.setLane n x).ballast = s.ballast := rfl
@[simp] theorem State.setLane_landing (n : Nat) (x : Lane) : (s.setLane n x).landing = s.landing := rfl
@[simp] theorem State.setLane_rate (n : Nat) (x : Lane) : (s.setLane n x).rate = s.rate := rfl
@[simp] theorem State.setLane_berths (n : Nat) (x : Lane) : (s.setLane n x).berths = s.berths := rfl
@[simp] theorem State.setLane_coming (n : Nat) (x : Lane) : (s.setLane n x).coming = s.coming := rfl
@[simp] theorem State.setLane_gens (n : Nat) (x : Lane) : (s.setLane n x).gens = s.gens := rfl
@[simp] theorem State.setLane_closedOrder (n : Nat) (x : Lane) : (s.setLane n x).closedOrder = s.closedOrder := rfl
@[simp] theorem State.setLane_carried (n : Nat) (x : Lane) : (s.setLane n x).carried = s.carried := rfl
@[simp] theorem State.setLane_work (n : Nat) (x : Lane) : (s.setLane n x).work = s.work := rfl
@[simp] theorem State.setLane_late (n : Nat) (x : Lane) : (s.setLane n x).late = s.late := rfl
@[simp] theorem State.setLane_cutWork (n : Nat) (x : Lane) : (s.setLane n x).cutWork = s.cutWork := rfl
@[simp] theorem State.setLane_mfCheck (n : Nat) (x : Lane) : (s.setLane n x).mfCheck = s.mfCheck := rfl
@[simp] theorem State.setLane_mfPending (n : Nat) (x : Lane) : (s.setLane n x).mfPending = s.mfPending := rfl
@[simp] theorem State.setLane_mfActive (n : Nat) (x : Lane) : (s.setLane n x).mfActive = s.mfActive := rfl
@[simp] theorem State.setLane_slotOrder (n : Nat) (x : Lane) : (s.setLane n x).slotOrder = s.slotOrder := rfl
@[simp] theorem State.setLane_rings (n : Nat) (x : Lane) : (s.setLane n x).rings = s.rings := rfl
@[simp] theorem State.setLane_quays (n : Nat) (x : Lane) : (s.setLane n x).quays = s.quays := rfl
@[simp] theorem State.setLane_rx (n : Nat) (x : Lane) : (s.setLane n x).rx = s.rx := rfl
@[simp] theorem State.setLane_routes (n : Nat) (x : Lane) : (s.setLane n x).routes = s.routes := rfl
@[simp] theorem State.setLane_replayQ (n : Nat) (x : Lane) : (s.setLane n x).replayQ = s.replayQ := rfl
@[simp] theorem State.setLane_replaying (n : Nat) (x : Lane) : (s.setLane n x).replaying = s.replaying := rfl
@[simp] theorem State.setLane_das (n : Nat) (x : Lane) : (s.setLane n x).das = s.das := rfl
@[simp] theorem State.setLane_tileWrites (n : Nat) (x : Lane) : (s.setLane n x).tileWrites = s.tileWrites := rfl
@[simp] theorem State.setLane_dasComing (n : Nat) (x : Lane) : (s.setLane n x).dasComing = s.dasComing := rfl
@[simp] theorem State.setLane_flow (n : Nat) (x : Lane) : (s.setLane n x).flow = s.flow := rfl
@[simp] theorem State.setLane_flowComing (n : Nat) (x : Lane) : (s.setLane n x).flowComing = s.flowComing := rfl
@[simp] theorem State.setLane_samples (n : Nat) (x : Lane) : (s.setLane n x).samples = s.samples := rfl
@[simp] theorem State.setLane_traces (n : Nat) (x : Lane) : (s.setLane n x).traces = s.traces := rfl
@[simp] theorem State.setLane_hold (n : Nat) (x : Lane) : (s.setLane n x).hold = s.hold := rfl
@[simp] theorem State.setLane_ledger (n : Nat) (x : Lane) : (s.setLane n x).ledger = s.ledger := rfl
@[simp] theorem State.setLane_sent (n : Nat) (x : Lane) : (s.setLane n x).sent = s.sent := rfl
@[simp] theorem State.setLane_signQ (n : Nat) (x : Lane) : (s.setLane n x).signQ = s.signQ := rfl
@[simp] theorem State.setLane_evtLost (n : Nat) (x : Lane) : (s.setLane n x).evtLost = s.evtLost := rfl
@[simp] theorem State.setLane_fifos (n : Nat) (x : Lane) : (s.setLane n x).fifos = s.fifos := rfl
@[simp] theorem State.setLane_raman (n : Nat) (x : Lane) : (s.setLane n x).raman = s.raman := rfl
@[simp] theorem State.setLane_ports (n : Nat) (x : Lane) : (s.setLane n x).ports = s.ports := rfl
@[simp] theorem State.setLane_ranging (n : Nat) (x : Lane) : (s.setLane n x).ranging = s.ranging := rfl
@[simp] theorem State.setLane_byb (n : Nat) (x : Lane) : (s.setLane n x).byb = s.byb := rfl
@[simp] theorem State.setLane_snd (n : Nat) (x : Lane) : (s.setLane n x).snd = s.snd := rfl
@[simp] theorem State.setLane_sounding (n : Nat) (x : Lane) : (s.setLane n x).sounding = s.sounding := rfl
@[simp] theorem State.setLane_watches (n : Nat) (x : Lane) : (s.setLane n x).watches = s.watches := rfl
@[simp] theorem State.setLane_cores (n : Nat) (x : Lane) : (s.setLane n x).cores = s.cores := rfl
@[simp] theorem State.setLane_clusters (n : Nat) (x : Lane) : (s.setLane n x).clusters = s.clusters := rfl
@[simp] theorem State.setLane_wh (n : Nat) (x : Lane) : (s.setLane n x).wh = s.wh := rfl
@[simp] theorem State.setLane_whDone (n : Nat) (x : Lane) : (s.setLane n x).whDone = s.whDone := rfl
@[simp] theorem State.setLane_tugs (n : Nat) (x : Lane) : (s.setLane n x).tugs = s.tugs := rfl
@[simp] theorem State.setLane_draining (n : Nat) (x : Lane) : (s.setLane n x).draining = s.draining := rfl
@[simp] theorem State.setLane_toHost (n : Nat) (x : Lane) : (s.setLane n x).toHost = s.toHost := rfl
@[simp] theorem State.setLane_signalled (n : Nat) (x : Lane) : (s.setLane n x).signalled = s.signalled := rfl
@[simp] theorem State.setLane_packs (n : Nat) (x : Lane) : (s.setLane n x).packs = s.packs := rfl
@[simp] theorem State.setLane_packUsed (n : Nat) (x : Lane) : (s.setLane n x).packUsed = s.packUsed := rfl
@[simp] theorem State.setLane_streams (n : Nat) (x : Lane) : (s.setLane n x).streams = s.streams := rfl
@[simp] theorem State.setLane_exportCost (n : Nat) (x : Lane) : (s.setLane n x).exportCost = s.exportCost := rfl
@[simp] theorem State.setLane_exportDue (n : Nat) (x : Lane) : (s.setLane n x).exportDue = s.exportDue := rfl
@[simp] theorem State.setLane_stamps (n : Nat) (x : Lane) : (s.setLane n x).stamps = s.stamps := rfl
@[simp] theorem State.setLane_hawser (n : Nat) (x : Lane) : (s.setLane n x).hawser = s.hawser := rfl
@[simp] theorem State.setLane_calActive (n : Nat) (x : Lane) : (s.setLane n x).calActive = s.calActive := rfl
@[simp] theorem State.setLane_quayTrims (n : Nat) (x : Lane) : (s.setLane n x).quayTrims = s.quayTrims := rfl
@[simp] theorem State.setLane_taps (n : Nat) (x : Lane) : (s.setLane n x).taps = s.taps := rfl
@[simp] theorem State.setLane_calSel (n : Nat) (x : Lane) : (s.setLane n x).calSel = s.calSel := rfl
@[simp] theorem State.setLane_calWaiting (n : Nat) (x : Lane) : (s.setLane n x).calWaiting = s.calWaiting := rfl
@[simp] theorem State.setLane_calDone (n : Nat) (x : Lane) : (s.setLane n x).calDone = s.calDone := rfl
@[simp] theorem State.setLane_charter (n : Nat) (x : Lane) : (s.setLane n x).charter = s.charter := rfl
@[simp] theorem State.setLane_power (n : Nat) (x : Lane) : (s.setLane n x).power = s.power := rfl
@[simp] theorem State.setLane_life (n : Nat) (x : Lane) : (s.setLane n x).life = s.life := rfl
@[simp] theorem State.setLane_fwSwap (n : Nat) (x : Lane) : (s.setLane n x).fwSwap = s.fwSwap := rfl
@[simp] theorem State.setLane_ledgerVer (n : Nat) (x : Lane) : (s.setLane n x).ledgerVer = s.ledgerVer := rfl
@[simp] theorem State.setLane_bootLen (n : Nat) (x : Lane) : (s.setLane n x).bootLen = s.bootLen := rfl
@[simp] theorem State.setLane_pending (n : Nat) (x : Lane) : (s.setLane n x).pending = s.pending := rfl

@[simp] theorem State.setPort_now (n : Nat) (x : Port) : (s.setPort n x).now = s.now := rfl
@[simp] theorem State.setPort_regs (n : Nat) (x : Port) : (s.setPort n x).regs = s.regs := rfl
@[simp] theorem State.setPort_shadows (n : Nat) (x : Port) : (s.setPort n x).shadows = s.shadows := rfl
@[simp] theorem State.setPort_completion (n : Nat) (x : Port) : (s.setPort n x).completion = s.completion := rfl
@[simp] theorem State.setPort_free (n : Nat) (x : Port) : (s.setPort n x).free = s.free := rfl
@[simp] theorem State.setPort_shed (n : Nat) (x : Port) : (s.setPort n x).shed = s.shed := rfl
@[simp] theorem State.setPort_shedBad (n : Nat) (x : Port) : (s.setPort n x).shedBad = s.shedBad := rfl
@[simp] theorem State.setPort_links (n : Nat) (x : Port) : (s.setPort n x).links = s.links := rfl
@[simp] theorem State.setPort_pllLost (n : Nat) (x : Port) : (s.setPort n x).pllLost = s.pllLost := rfl
@[simp] theorem State.setPort_gaps (n : Nat) (x : Port) : (s.setPort n x).gaps = s.gaps := rfl
@[simp] theorem State.setPort_ballast (n : Nat) (x : Port) : (s.setPort n x).ballast = s.ballast := rfl
@[simp] theorem State.setPort_landing (n : Nat) (x : Port) : (s.setPort n x).landing = s.landing := rfl
@[simp] theorem State.setPort_rate (n : Nat) (x : Port) : (s.setPort n x).rate = s.rate := rfl
@[simp] theorem State.setPort_berths (n : Nat) (x : Port) : (s.setPort n x).berths = s.berths := rfl
@[simp] theorem State.setPort_coming (n : Nat) (x : Port) : (s.setPort n x).coming = s.coming := rfl
@[simp] theorem State.setPort_gens (n : Nat) (x : Port) : (s.setPort n x).gens = s.gens := rfl
@[simp] theorem State.setPort_closedOrder (n : Nat) (x : Port) : (s.setPort n x).closedOrder = s.closedOrder := rfl
@[simp] theorem State.setPort_carried (n : Nat) (x : Port) : (s.setPort n x).carried = s.carried := rfl
@[simp] theorem State.setPort_work (n : Nat) (x : Port) : (s.setPort n x).work = s.work := rfl
@[simp] theorem State.setPort_late (n : Nat) (x : Port) : (s.setPort n x).late = s.late := rfl
@[simp] theorem State.setPort_cutWork (n : Nat) (x : Port) : (s.setPort n x).cutWork = s.cutWork := rfl
@[simp] theorem State.setPort_mfCheck (n : Nat) (x : Port) : (s.setPort n x).mfCheck = s.mfCheck := rfl
@[simp] theorem State.setPort_mfPending (n : Nat) (x : Port) : (s.setPort n x).mfPending = s.mfPending := rfl
@[simp] theorem State.setPort_mfActive (n : Nat) (x : Port) : (s.setPort n x).mfActive = s.mfActive := rfl
@[simp] theorem State.setPort_slotOrder (n : Nat) (x : Port) : (s.setPort n x).slotOrder = s.slotOrder := rfl
@[simp] theorem State.setPort_rings (n : Nat) (x : Port) : (s.setPort n x).rings = s.rings := rfl
@[simp] theorem State.setPort_quays (n : Nat) (x : Port) : (s.setPort n x).quays = s.quays := rfl
@[simp] theorem State.setPort_rx (n : Nat) (x : Port) : (s.setPort n x).rx = s.rx := rfl
@[simp] theorem State.setPort_routes (n : Nat) (x : Port) : (s.setPort n x).routes = s.routes := rfl
@[simp] theorem State.setPort_replayQ (n : Nat) (x : Port) : (s.setPort n x).replayQ = s.replayQ := rfl
@[simp] theorem State.setPort_replaying (n : Nat) (x : Port) : (s.setPort n x).replaying = s.replaying := rfl
@[simp] theorem State.setPort_das (n : Nat) (x : Port) : (s.setPort n x).das = s.das := rfl
@[simp] theorem State.setPort_tileWrites (n : Nat) (x : Port) : (s.setPort n x).tileWrites = s.tileWrites := rfl
@[simp] theorem State.setPort_dasComing (n : Nat) (x : Port) : (s.setPort n x).dasComing = s.dasComing := rfl
@[simp] theorem State.setPort_flow (n : Nat) (x : Port) : (s.setPort n x).flow = s.flow := rfl
@[simp] theorem State.setPort_flowComing (n : Nat) (x : Port) : (s.setPort n x).flowComing = s.flowComing := rfl
@[simp] theorem State.setPort_samples (n : Nat) (x : Port) : (s.setPort n x).samples = s.samples := rfl
@[simp] theorem State.setPort_traces (n : Nat) (x : Port) : (s.setPort n x).traces = s.traces := rfl
@[simp] theorem State.setPort_hold (n : Nat) (x : Port) : (s.setPort n x).hold = s.hold := rfl
@[simp] theorem State.setPort_ledger (n : Nat) (x : Port) : (s.setPort n x).ledger = s.ledger := rfl
@[simp] theorem State.setPort_sent (n : Nat) (x : Port) : (s.setPort n x).sent = s.sent := rfl
@[simp] theorem State.setPort_signQ (n : Nat) (x : Port) : (s.setPort n x).signQ = s.signQ := rfl
@[simp] theorem State.setPort_evtLost (n : Nat) (x : Port) : (s.setPort n x).evtLost = s.evtLost := rfl
@[simp] theorem State.setPort_lanes (n : Nat) (x : Port) : (s.setPort n x).lanes = s.lanes := rfl
@[simp] theorem State.setPort_fifos (n : Nat) (x : Port) : (s.setPort n x).fifos = s.fifos := rfl
@[simp] theorem State.setPort_raman (n : Nat) (x : Port) : (s.setPort n x).raman = s.raman := rfl
@[simp] theorem State.setPort_ranging (n : Nat) (x : Port) : (s.setPort n x).ranging = s.ranging := rfl
@[simp] theorem State.setPort_byb (n : Nat) (x : Port) : (s.setPort n x).byb = s.byb := rfl
@[simp] theorem State.setPort_snd (n : Nat) (x : Port) : (s.setPort n x).snd = s.snd := rfl
@[simp] theorem State.setPort_sounding (n : Nat) (x : Port) : (s.setPort n x).sounding = s.sounding := rfl
@[simp] theorem State.setPort_watches (n : Nat) (x : Port) : (s.setPort n x).watches = s.watches := rfl
@[simp] theorem State.setPort_cores (n : Nat) (x : Port) : (s.setPort n x).cores = s.cores := rfl
@[simp] theorem State.setPort_clusters (n : Nat) (x : Port) : (s.setPort n x).clusters = s.clusters := rfl
@[simp] theorem State.setPort_wh (n : Nat) (x : Port) : (s.setPort n x).wh = s.wh := rfl
@[simp] theorem State.setPort_whDone (n : Nat) (x : Port) : (s.setPort n x).whDone = s.whDone := rfl
@[simp] theorem State.setPort_tugs (n : Nat) (x : Port) : (s.setPort n x).tugs = s.tugs := rfl
@[simp] theorem State.setPort_draining (n : Nat) (x : Port) : (s.setPort n x).draining = s.draining := rfl
@[simp] theorem State.setPort_toHost (n : Nat) (x : Port) : (s.setPort n x).toHost = s.toHost := rfl
@[simp] theorem State.setPort_signalled (n : Nat) (x : Port) : (s.setPort n x).signalled = s.signalled := rfl
@[simp] theorem State.setPort_packs (n : Nat) (x : Port) : (s.setPort n x).packs = s.packs := rfl
@[simp] theorem State.setPort_packUsed (n : Nat) (x : Port) : (s.setPort n x).packUsed = s.packUsed := rfl
@[simp] theorem State.setPort_streams (n : Nat) (x : Port) : (s.setPort n x).streams = s.streams := rfl
@[simp] theorem State.setPort_exportCost (n : Nat) (x : Port) : (s.setPort n x).exportCost = s.exportCost := rfl
@[simp] theorem State.setPort_exportDue (n : Nat) (x : Port) : (s.setPort n x).exportDue = s.exportDue := rfl
@[simp] theorem State.setPort_stamps (n : Nat) (x : Port) : (s.setPort n x).stamps = s.stamps := rfl
@[simp] theorem State.setPort_hawser (n : Nat) (x : Port) : (s.setPort n x).hawser = s.hawser := rfl
@[simp] theorem State.setPort_calActive (n : Nat) (x : Port) : (s.setPort n x).calActive = s.calActive := rfl
@[simp] theorem State.setPort_quayTrims (n : Nat) (x : Port) : (s.setPort n x).quayTrims = s.quayTrims := rfl
@[simp] theorem State.setPort_taps (n : Nat) (x : Port) : (s.setPort n x).taps = s.taps := rfl
@[simp] theorem State.setPort_calSel (n : Nat) (x : Port) : (s.setPort n x).calSel = s.calSel := rfl
@[simp] theorem State.setPort_calWaiting (n : Nat) (x : Port) : (s.setPort n x).calWaiting = s.calWaiting := rfl
@[simp] theorem State.setPort_calDone (n : Nat) (x : Port) : (s.setPort n x).calDone = s.calDone := rfl
@[simp] theorem State.setPort_charter (n : Nat) (x : Port) : (s.setPort n x).charter = s.charter := rfl
@[simp] theorem State.setPort_power (n : Nat) (x : Port) : (s.setPort n x).power = s.power := rfl
@[simp] theorem State.setPort_life (n : Nat) (x : Port) : (s.setPort n x).life = s.life := rfl
@[simp] theorem State.setPort_fwSwap (n : Nat) (x : Port) : (s.setPort n x).fwSwap = s.fwSwap := rfl
@[simp] theorem State.setPort_ledgerVer (n : Nat) (x : Port) : (s.setPort n x).ledgerVer = s.ledgerVer := rfl
@[simp] theorem State.setPort_bootLen (n : Nat) (x : Port) : (s.setPort n x).bootLen = s.bootLen := rfl
@[simp] theorem State.setPort_pending (n : Nat) (x : Port) : (s.setPort n x).pending = s.pending := rfl

@[simp] theorem State.setChan_now (n : Nat) (x : Chan) : (s.setChan n x).now = s.now := rfl
@[simp] theorem State.setChan_regs (n : Nat) (x : Chan) : (s.setChan n x).regs = s.regs := rfl
@[simp] theorem State.setChan_shadows (n : Nat) (x : Chan) : (s.setChan n x).shadows = s.shadows := rfl
@[simp] theorem State.setChan_completion (n : Nat) (x : Chan) : (s.setChan n x).completion = s.completion := rfl
@[simp] theorem State.setChan_free (n : Nat) (x : Chan) : (s.setChan n x).free = s.free := rfl
@[simp] theorem State.setChan_shed (n : Nat) (x : Chan) : (s.setChan n x).shed = s.shed := rfl
@[simp] theorem State.setChan_shedBad (n : Nat) (x : Chan) : (s.setChan n x).shedBad = s.shedBad := rfl
@[simp] theorem State.setChan_links (n : Nat) (x : Chan) : (s.setChan n x).links = s.links := rfl
@[simp] theorem State.setChan_pllLost (n : Nat) (x : Chan) : (s.setChan n x).pllLost = s.pllLost := rfl
@[simp] theorem State.setChan_gaps (n : Nat) (x : Chan) : (s.setChan n x).gaps = s.gaps := rfl
@[simp] theorem State.setChan_ballast (n : Nat) (x : Chan) : (s.setChan n x).ballast = s.ballast := rfl
@[simp] theorem State.setChan_landing (n : Nat) (x : Chan) : (s.setChan n x).landing = s.landing := rfl
@[simp] theorem State.setChan_rate (n : Nat) (x : Chan) : (s.setChan n x).rate = s.rate := rfl
@[simp] theorem State.setChan_berths (n : Nat) (x : Chan) : (s.setChan n x).berths = s.berths := rfl
@[simp] theorem State.setChan_coming (n : Nat) (x : Chan) : (s.setChan n x).coming = s.coming := rfl
@[simp] theorem State.setChan_gens (n : Nat) (x : Chan) : (s.setChan n x).gens = s.gens := rfl
@[simp] theorem State.setChan_closedOrder (n : Nat) (x : Chan) : (s.setChan n x).closedOrder = s.closedOrder := rfl
@[simp] theorem State.setChan_carried (n : Nat) (x : Chan) : (s.setChan n x).carried = s.carried := rfl
@[simp] theorem State.setChan_work (n : Nat) (x : Chan) : (s.setChan n x).work = s.work := rfl
@[simp] theorem State.setChan_late (n : Nat) (x : Chan) : (s.setChan n x).late = s.late := rfl
@[simp] theorem State.setChan_cutWork (n : Nat) (x : Chan) : (s.setChan n x).cutWork = s.cutWork := rfl
@[simp] theorem State.setChan_mfCheck (n : Nat) (x : Chan) : (s.setChan n x).mfCheck = s.mfCheck := rfl
@[simp] theorem State.setChan_mfPending (n : Nat) (x : Chan) : (s.setChan n x).mfPending = s.mfPending := rfl
@[simp] theorem State.setChan_mfActive (n : Nat) (x : Chan) : (s.setChan n x).mfActive = s.mfActive := rfl
@[simp] theorem State.setChan_slotOrder (n : Nat) (x : Chan) : (s.setChan n x).slotOrder = s.slotOrder := rfl
@[simp] theorem State.setChan_rings (n : Nat) (x : Chan) : (s.setChan n x).rings = s.rings := rfl
@[simp] theorem State.setChan_quays (n : Nat) (x : Chan) : (s.setChan n x).quays = s.quays := rfl
@[simp] theorem State.setChan_rx (n : Nat) (x : Chan) : (s.setChan n x).rx = s.rx := rfl
@[simp] theorem State.setChan_routes (n : Nat) (x : Chan) : (s.setChan n x).routes = s.routes := rfl
@[simp] theorem State.setChan_replayQ (n : Nat) (x : Chan) : (s.setChan n x).replayQ = s.replayQ := rfl
@[simp] theorem State.setChan_replaying (n : Nat) (x : Chan) : (s.setChan n x).replaying = s.replaying := rfl
@[simp] theorem State.setChan_das (n : Nat) (x : Chan) : (s.setChan n x).das = s.das := rfl
@[simp] theorem State.setChan_tileWrites (n : Nat) (x : Chan) : (s.setChan n x).tileWrites = s.tileWrites := rfl
@[simp] theorem State.setChan_dasComing (n : Nat) (x : Chan) : (s.setChan n x).dasComing = s.dasComing := rfl
@[simp] theorem State.setChan_flow (n : Nat) (x : Chan) : (s.setChan n x).flow = s.flow := rfl
@[simp] theorem State.setChan_flowComing (n : Nat) (x : Chan) : (s.setChan n x).flowComing = s.flowComing := rfl
@[simp] theorem State.setChan_samples (n : Nat) (x : Chan) : (s.setChan n x).samples = s.samples := rfl
@[simp] theorem State.setChan_traces (n : Nat) (x : Chan) : (s.setChan n x).traces = s.traces := rfl
@[simp] theorem State.setChan_hold (n : Nat) (x : Chan) : (s.setChan n x).hold = s.hold := rfl
@[simp] theorem State.setChan_ledger (n : Nat) (x : Chan) : (s.setChan n x).ledger = s.ledger := rfl
@[simp] theorem State.setChan_sent (n : Nat) (x : Chan) : (s.setChan n x).sent = s.sent := rfl
@[simp] theorem State.setChan_signQ (n : Nat) (x : Chan) : (s.setChan n x).signQ = s.signQ := rfl
@[simp] theorem State.setChan_evtLost (n : Nat) (x : Chan) : (s.setChan n x).evtLost = s.evtLost := rfl
@[simp] theorem State.setChan_lanes (n : Nat) (x : Chan) : (s.setChan n x).lanes = s.lanes := rfl
@[simp] theorem State.setChan_fifos (n : Nat) (x : Chan) : (s.setChan n x).fifos = s.fifos := rfl
@[simp] theorem State.setChan_raman (n : Nat) (x : Chan) : (s.setChan n x).raman = s.raman := rfl
@[simp] theorem State.setChan_ports (n : Nat) (x : Chan) : (s.setChan n x).ports = s.ports := rfl
@[simp] theorem State.setChan_ranging (n : Nat) (x : Chan) : (s.setChan n x).ranging = s.ranging := rfl
@[simp] theorem State.setChan_byb (n : Nat) (x : Chan) : (s.setChan n x).byb = s.byb := rfl
@[simp] theorem State.setChan_sounding (n : Nat) (x : Chan) : (s.setChan n x).sounding = s.sounding := rfl
@[simp] theorem State.setChan_watches (n : Nat) (x : Chan) : (s.setChan n x).watches = s.watches := rfl
@[simp] theorem State.setChan_cores (n : Nat) (x : Chan) : (s.setChan n x).cores = s.cores := rfl
@[simp] theorem State.setChan_clusters (n : Nat) (x : Chan) : (s.setChan n x).clusters = s.clusters := rfl
@[simp] theorem State.setChan_wh (n : Nat) (x : Chan) : (s.setChan n x).wh = s.wh := rfl
@[simp] theorem State.setChan_whDone (n : Nat) (x : Chan) : (s.setChan n x).whDone = s.whDone := rfl
@[simp] theorem State.setChan_tugs (n : Nat) (x : Chan) : (s.setChan n x).tugs = s.tugs := rfl
@[simp] theorem State.setChan_draining (n : Nat) (x : Chan) : (s.setChan n x).draining = s.draining := rfl
@[simp] theorem State.setChan_toHost (n : Nat) (x : Chan) : (s.setChan n x).toHost = s.toHost := rfl
@[simp] theorem State.setChan_signalled (n : Nat) (x : Chan) : (s.setChan n x).signalled = s.signalled := rfl
@[simp] theorem State.setChan_packs (n : Nat) (x : Chan) : (s.setChan n x).packs = s.packs := rfl
@[simp] theorem State.setChan_packUsed (n : Nat) (x : Chan) : (s.setChan n x).packUsed = s.packUsed := rfl
@[simp] theorem State.setChan_streams (n : Nat) (x : Chan) : (s.setChan n x).streams = s.streams := rfl
@[simp] theorem State.setChan_exportCost (n : Nat) (x : Chan) : (s.setChan n x).exportCost = s.exportCost := rfl
@[simp] theorem State.setChan_exportDue (n : Nat) (x : Chan) : (s.setChan n x).exportDue = s.exportDue := rfl
@[simp] theorem State.setChan_stamps (n : Nat) (x : Chan) : (s.setChan n x).stamps = s.stamps := rfl
@[simp] theorem State.setChan_hawser (n : Nat) (x : Chan) : (s.setChan n x).hawser = s.hawser := rfl
@[simp] theorem State.setChan_calActive (n : Nat) (x : Chan) : (s.setChan n x).calActive = s.calActive := rfl
@[simp] theorem State.setChan_quayTrims (n : Nat) (x : Chan) : (s.setChan n x).quayTrims = s.quayTrims := rfl
@[simp] theorem State.setChan_taps (n : Nat) (x : Chan) : (s.setChan n x).taps = s.taps := rfl
@[simp] theorem State.setChan_calSel (n : Nat) (x : Chan) : (s.setChan n x).calSel = s.calSel := rfl
@[simp] theorem State.setChan_calWaiting (n : Nat) (x : Chan) : (s.setChan n x).calWaiting = s.calWaiting := rfl
@[simp] theorem State.setChan_calDone (n : Nat) (x : Chan) : (s.setChan n x).calDone = s.calDone := rfl
@[simp] theorem State.setChan_charter (n : Nat) (x : Chan) : (s.setChan n x).charter = s.charter := rfl
@[simp] theorem State.setChan_power (n : Nat) (x : Chan) : (s.setChan n x).power = s.power := rfl
@[simp] theorem State.setChan_life (n : Nat) (x : Chan) : (s.setChan n x).life = s.life := rfl
@[simp] theorem State.setChan_fwSwap (n : Nat) (x : Chan) : (s.setChan n x).fwSwap = s.fwSwap := rfl
@[simp] theorem State.setChan_ledgerVer (n : Nat) (x : Chan) : (s.setChan n x).ledgerVer = s.ledgerVer := rfl
@[simp] theorem State.setChan_bootLen (n : Nat) (x : Chan) : (s.setChan n x).bootLen = s.bootLen := rfl
@[simp] theorem State.setChan_pending (n : Nat) (x : Chan) : (s.setChan n x).pending = s.pending := rfl

@[simp] theorem State.setWatch_now (n : Nat) (x : Watch) : (s.setWatch n x).now = s.now := rfl
@[simp] theorem State.setWatch_regs (n : Nat) (x : Watch) : (s.setWatch n x).regs = s.regs := rfl
@[simp] theorem State.setWatch_shadows (n : Nat) (x : Watch) : (s.setWatch n x).shadows = s.shadows := rfl
@[simp] theorem State.setWatch_completion (n : Nat) (x : Watch) : (s.setWatch n x).completion = s.completion := rfl
@[simp] theorem State.setWatch_free (n : Nat) (x : Watch) : (s.setWatch n x).free = s.free := rfl
@[simp] theorem State.setWatch_shed (n : Nat) (x : Watch) : (s.setWatch n x).shed = s.shed := rfl
@[simp] theorem State.setWatch_shedBad (n : Nat) (x : Watch) : (s.setWatch n x).shedBad = s.shedBad := rfl
@[simp] theorem State.setWatch_links (n : Nat) (x : Watch) : (s.setWatch n x).links = s.links := rfl
@[simp] theorem State.setWatch_pllLost (n : Nat) (x : Watch) : (s.setWatch n x).pllLost = s.pllLost := rfl
@[simp] theorem State.setWatch_gaps (n : Nat) (x : Watch) : (s.setWatch n x).gaps = s.gaps := rfl
@[simp] theorem State.setWatch_ballast (n : Nat) (x : Watch) : (s.setWatch n x).ballast = s.ballast := rfl
@[simp] theorem State.setWatch_landing (n : Nat) (x : Watch) : (s.setWatch n x).landing = s.landing := rfl
@[simp] theorem State.setWatch_rate (n : Nat) (x : Watch) : (s.setWatch n x).rate = s.rate := rfl
@[simp] theorem State.setWatch_berths (n : Nat) (x : Watch) : (s.setWatch n x).berths = s.berths := rfl
@[simp] theorem State.setWatch_coming (n : Nat) (x : Watch) : (s.setWatch n x).coming = s.coming := rfl
@[simp] theorem State.setWatch_gens (n : Nat) (x : Watch) : (s.setWatch n x).gens = s.gens := rfl
@[simp] theorem State.setWatch_closedOrder (n : Nat) (x : Watch) : (s.setWatch n x).closedOrder = s.closedOrder := rfl
@[simp] theorem State.setWatch_carried (n : Nat) (x : Watch) : (s.setWatch n x).carried = s.carried := rfl
@[simp] theorem State.setWatch_work (n : Nat) (x : Watch) : (s.setWatch n x).work = s.work := rfl
@[simp] theorem State.setWatch_late (n : Nat) (x : Watch) : (s.setWatch n x).late = s.late := rfl
@[simp] theorem State.setWatch_cutWork (n : Nat) (x : Watch) : (s.setWatch n x).cutWork = s.cutWork := rfl
@[simp] theorem State.setWatch_mfCheck (n : Nat) (x : Watch) : (s.setWatch n x).mfCheck = s.mfCheck := rfl
@[simp] theorem State.setWatch_mfPending (n : Nat) (x : Watch) : (s.setWatch n x).mfPending = s.mfPending := rfl
@[simp] theorem State.setWatch_mfActive (n : Nat) (x : Watch) : (s.setWatch n x).mfActive = s.mfActive := rfl
@[simp] theorem State.setWatch_slotOrder (n : Nat) (x : Watch) : (s.setWatch n x).slotOrder = s.slotOrder := rfl
@[simp] theorem State.setWatch_rings (n : Nat) (x : Watch) : (s.setWatch n x).rings = s.rings := rfl
@[simp] theorem State.setWatch_quays (n : Nat) (x : Watch) : (s.setWatch n x).quays = s.quays := rfl
@[simp] theorem State.setWatch_rx (n : Nat) (x : Watch) : (s.setWatch n x).rx = s.rx := rfl
@[simp] theorem State.setWatch_routes (n : Nat) (x : Watch) : (s.setWatch n x).routes = s.routes := rfl
@[simp] theorem State.setWatch_replayQ (n : Nat) (x : Watch) : (s.setWatch n x).replayQ = s.replayQ := rfl
@[simp] theorem State.setWatch_replaying (n : Nat) (x : Watch) : (s.setWatch n x).replaying = s.replaying := rfl
@[simp] theorem State.setWatch_das (n : Nat) (x : Watch) : (s.setWatch n x).das = s.das := rfl
@[simp] theorem State.setWatch_tileWrites (n : Nat) (x : Watch) : (s.setWatch n x).tileWrites = s.tileWrites := rfl
@[simp] theorem State.setWatch_dasComing (n : Nat) (x : Watch) : (s.setWatch n x).dasComing = s.dasComing := rfl
@[simp] theorem State.setWatch_flow (n : Nat) (x : Watch) : (s.setWatch n x).flow = s.flow := rfl
@[simp] theorem State.setWatch_flowComing (n : Nat) (x : Watch) : (s.setWatch n x).flowComing = s.flowComing := rfl
@[simp] theorem State.setWatch_samples (n : Nat) (x : Watch) : (s.setWatch n x).samples = s.samples := rfl
@[simp] theorem State.setWatch_traces (n : Nat) (x : Watch) : (s.setWatch n x).traces = s.traces := rfl
@[simp] theorem State.setWatch_hold (n : Nat) (x : Watch) : (s.setWatch n x).hold = s.hold := rfl
@[simp] theorem State.setWatch_ledger (n : Nat) (x : Watch) : (s.setWatch n x).ledger = s.ledger := rfl
@[simp] theorem State.setWatch_sent (n : Nat) (x : Watch) : (s.setWatch n x).sent = s.sent := rfl
@[simp] theorem State.setWatch_signQ (n : Nat) (x : Watch) : (s.setWatch n x).signQ = s.signQ := rfl
@[simp] theorem State.setWatch_evtLost (n : Nat) (x : Watch) : (s.setWatch n x).evtLost = s.evtLost := rfl
@[simp] theorem State.setWatch_lanes (n : Nat) (x : Watch) : (s.setWatch n x).lanes = s.lanes := rfl
@[simp] theorem State.setWatch_fifos (n : Nat) (x : Watch) : (s.setWatch n x).fifos = s.fifos := rfl
@[simp] theorem State.setWatch_raman (n : Nat) (x : Watch) : (s.setWatch n x).raman = s.raman := rfl
@[simp] theorem State.setWatch_ports (n : Nat) (x : Watch) : (s.setWatch n x).ports = s.ports := rfl
@[simp] theorem State.setWatch_ranging (n : Nat) (x : Watch) : (s.setWatch n x).ranging = s.ranging := rfl
@[simp] theorem State.setWatch_byb (n : Nat) (x : Watch) : (s.setWatch n x).byb = s.byb := rfl
@[simp] theorem State.setWatch_snd (n : Nat) (x : Watch) : (s.setWatch n x).snd = s.snd := rfl
@[simp] theorem State.setWatch_sounding (n : Nat) (x : Watch) : (s.setWatch n x).sounding = s.sounding := rfl
@[simp] theorem State.setWatch_cores (n : Nat) (x : Watch) : (s.setWatch n x).cores = s.cores := rfl
@[simp] theorem State.setWatch_clusters (n : Nat) (x : Watch) : (s.setWatch n x).clusters = s.clusters := rfl
@[simp] theorem State.setWatch_wh (n : Nat) (x : Watch) : (s.setWatch n x).wh = s.wh := rfl
@[simp] theorem State.setWatch_whDone (n : Nat) (x : Watch) : (s.setWatch n x).whDone = s.whDone := rfl
@[simp] theorem State.setWatch_tugs (n : Nat) (x : Watch) : (s.setWatch n x).tugs = s.tugs := rfl
@[simp] theorem State.setWatch_draining (n : Nat) (x : Watch) : (s.setWatch n x).draining = s.draining := rfl
@[simp] theorem State.setWatch_toHost (n : Nat) (x : Watch) : (s.setWatch n x).toHost = s.toHost := rfl
@[simp] theorem State.setWatch_signalled (n : Nat) (x : Watch) : (s.setWatch n x).signalled = s.signalled := rfl
@[simp] theorem State.setWatch_packs (n : Nat) (x : Watch) : (s.setWatch n x).packs = s.packs := rfl
@[simp] theorem State.setWatch_packUsed (n : Nat) (x : Watch) : (s.setWatch n x).packUsed = s.packUsed := rfl
@[simp] theorem State.setWatch_streams (n : Nat) (x : Watch) : (s.setWatch n x).streams = s.streams := rfl
@[simp] theorem State.setWatch_exportCost (n : Nat) (x : Watch) : (s.setWatch n x).exportCost = s.exportCost := rfl
@[simp] theorem State.setWatch_exportDue (n : Nat) (x : Watch) : (s.setWatch n x).exportDue = s.exportDue := rfl
@[simp] theorem State.setWatch_stamps (n : Nat) (x : Watch) : (s.setWatch n x).stamps = s.stamps := rfl
@[simp] theorem State.setWatch_hawser (n : Nat) (x : Watch) : (s.setWatch n x).hawser = s.hawser := rfl
@[simp] theorem State.setWatch_calActive (n : Nat) (x : Watch) : (s.setWatch n x).calActive = s.calActive := rfl
@[simp] theorem State.setWatch_quayTrims (n : Nat) (x : Watch) : (s.setWatch n x).quayTrims = s.quayTrims := rfl
@[simp] theorem State.setWatch_taps (n : Nat) (x : Watch) : (s.setWatch n x).taps = s.taps := rfl
@[simp] theorem State.setWatch_calSel (n : Nat) (x : Watch) : (s.setWatch n x).calSel = s.calSel := rfl
@[simp] theorem State.setWatch_calWaiting (n : Nat) (x : Watch) : (s.setWatch n x).calWaiting = s.calWaiting := rfl
@[simp] theorem State.setWatch_calDone (n : Nat) (x : Watch) : (s.setWatch n x).calDone = s.calDone := rfl
@[simp] theorem State.setWatch_charter (n : Nat) (x : Watch) : (s.setWatch n x).charter = s.charter := rfl
@[simp] theorem State.setWatch_power (n : Nat) (x : Watch) : (s.setWatch n x).power = s.power := rfl
@[simp] theorem State.setWatch_life (n : Nat) (x : Watch) : (s.setWatch n x).life = s.life := rfl
@[simp] theorem State.setWatch_fwSwap (n : Nat) (x : Watch) : (s.setWatch n x).fwSwap = s.fwSwap := rfl
@[simp] theorem State.setWatch_ledgerVer (n : Nat) (x : Watch) : (s.setWatch n x).ledgerVer = s.ledgerVer := rfl
@[simp] theorem State.setWatch_bootLen (n : Nat) (x : Watch) : (s.setWatch n x).bootLen = s.bootLen := rfl
@[simp] theorem State.setWatch_pending (n : Nat) (x : Watch) : (s.setWatch n x).pending = s.pending := rfl

@[simp] theorem State.setCore_now (n : Nat) (x : Core) : (s.setCore n x).now = s.now := rfl
@[simp] theorem State.setCore_regs (n : Nat) (x : Core) : (s.setCore n x).regs = s.regs := rfl
@[simp] theorem State.setCore_shadows (n : Nat) (x : Core) : (s.setCore n x).shadows = s.shadows := rfl
@[simp] theorem State.setCore_completion (n : Nat) (x : Core) : (s.setCore n x).completion = s.completion := rfl
@[simp] theorem State.setCore_free (n : Nat) (x : Core) : (s.setCore n x).free = s.free := rfl
@[simp] theorem State.setCore_shed (n : Nat) (x : Core) : (s.setCore n x).shed = s.shed := rfl
@[simp] theorem State.setCore_shedBad (n : Nat) (x : Core) : (s.setCore n x).shedBad = s.shedBad := rfl
@[simp] theorem State.setCore_links (n : Nat) (x : Core) : (s.setCore n x).links = s.links := rfl
@[simp] theorem State.setCore_pllLost (n : Nat) (x : Core) : (s.setCore n x).pllLost = s.pllLost := rfl
@[simp] theorem State.setCore_gaps (n : Nat) (x : Core) : (s.setCore n x).gaps = s.gaps := rfl
@[simp] theorem State.setCore_ballast (n : Nat) (x : Core) : (s.setCore n x).ballast = s.ballast := rfl
@[simp] theorem State.setCore_landing (n : Nat) (x : Core) : (s.setCore n x).landing = s.landing := rfl
@[simp] theorem State.setCore_rate (n : Nat) (x : Core) : (s.setCore n x).rate = s.rate := rfl
@[simp] theorem State.setCore_berths (n : Nat) (x : Core) : (s.setCore n x).berths = s.berths := rfl
@[simp] theorem State.setCore_coming (n : Nat) (x : Core) : (s.setCore n x).coming = s.coming := rfl
@[simp] theorem State.setCore_gens (n : Nat) (x : Core) : (s.setCore n x).gens = s.gens := rfl
@[simp] theorem State.setCore_closedOrder (n : Nat) (x : Core) : (s.setCore n x).closedOrder = s.closedOrder := rfl
@[simp] theorem State.setCore_carried (n : Nat) (x : Core) : (s.setCore n x).carried = s.carried := rfl
@[simp] theorem State.setCore_work (n : Nat) (x : Core) : (s.setCore n x).work = s.work := rfl
@[simp] theorem State.setCore_late (n : Nat) (x : Core) : (s.setCore n x).late = s.late := rfl
@[simp] theorem State.setCore_cutWork (n : Nat) (x : Core) : (s.setCore n x).cutWork = s.cutWork := rfl
@[simp] theorem State.setCore_mfCheck (n : Nat) (x : Core) : (s.setCore n x).mfCheck = s.mfCheck := rfl
@[simp] theorem State.setCore_mfPending (n : Nat) (x : Core) : (s.setCore n x).mfPending = s.mfPending := rfl
@[simp] theorem State.setCore_mfActive (n : Nat) (x : Core) : (s.setCore n x).mfActive = s.mfActive := rfl
@[simp] theorem State.setCore_slotOrder (n : Nat) (x : Core) : (s.setCore n x).slotOrder = s.slotOrder := rfl
@[simp] theorem State.setCore_rings (n : Nat) (x : Core) : (s.setCore n x).rings = s.rings := rfl
@[simp] theorem State.setCore_quays (n : Nat) (x : Core) : (s.setCore n x).quays = s.quays := rfl
@[simp] theorem State.setCore_rx (n : Nat) (x : Core) : (s.setCore n x).rx = s.rx := rfl
@[simp] theorem State.setCore_routes (n : Nat) (x : Core) : (s.setCore n x).routes = s.routes := rfl
@[simp] theorem State.setCore_replayQ (n : Nat) (x : Core) : (s.setCore n x).replayQ = s.replayQ := rfl
@[simp] theorem State.setCore_replaying (n : Nat) (x : Core) : (s.setCore n x).replaying = s.replaying := rfl
@[simp] theorem State.setCore_das (n : Nat) (x : Core) : (s.setCore n x).das = s.das := rfl
@[simp] theorem State.setCore_tileWrites (n : Nat) (x : Core) : (s.setCore n x).tileWrites = s.tileWrites := rfl
@[simp] theorem State.setCore_dasComing (n : Nat) (x : Core) : (s.setCore n x).dasComing = s.dasComing := rfl
@[simp] theorem State.setCore_flow (n : Nat) (x : Core) : (s.setCore n x).flow = s.flow := rfl
@[simp] theorem State.setCore_flowComing (n : Nat) (x : Core) : (s.setCore n x).flowComing = s.flowComing := rfl
@[simp] theorem State.setCore_samples (n : Nat) (x : Core) : (s.setCore n x).samples = s.samples := rfl
@[simp] theorem State.setCore_traces (n : Nat) (x : Core) : (s.setCore n x).traces = s.traces := rfl
@[simp] theorem State.setCore_hold (n : Nat) (x : Core) : (s.setCore n x).hold = s.hold := rfl
@[simp] theorem State.setCore_ledger (n : Nat) (x : Core) : (s.setCore n x).ledger = s.ledger := rfl
@[simp] theorem State.setCore_sent (n : Nat) (x : Core) : (s.setCore n x).sent = s.sent := rfl
@[simp] theorem State.setCore_signQ (n : Nat) (x : Core) : (s.setCore n x).signQ = s.signQ := rfl
@[simp] theorem State.setCore_evtLost (n : Nat) (x : Core) : (s.setCore n x).evtLost = s.evtLost := rfl
@[simp] theorem State.setCore_lanes (n : Nat) (x : Core) : (s.setCore n x).lanes = s.lanes := rfl
@[simp] theorem State.setCore_fifos (n : Nat) (x : Core) : (s.setCore n x).fifos = s.fifos := rfl
@[simp] theorem State.setCore_raman (n : Nat) (x : Core) : (s.setCore n x).raman = s.raman := rfl
@[simp] theorem State.setCore_ports (n : Nat) (x : Core) : (s.setCore n x).ports = s.ports := rfl
@[simp] theorem State.setCore_ranging (n : Nat) (x : Core) : (s.setCore n x).ranging = s.ranging := rfl
@[simp] theorem State.setCore_byb (n : Nat) (x : Core) : (s.setCore n x).byb = s.byb := rfl
@[simp] theorem State.setCore_snd (n : Nat) (x : Core) : (s.setCore n x).snd = s.snd := rfl
@[simp] theorem State.setCore_sounding (n : Nat) (x : Core) : (s.setCore n x).sounding = s.sounding := rfl
@[simp] theorem State.setCore_watches (n : Nat) (x : Core) : (s.setCore n x).watches = s.watches := rfl
@[simp] theorem State.setCore_clusters (n : Nat) (x : Core) : (s.setCore n x).clusters = s.clusters := rfl
@[simp] theorem State.setCore_wh (n : Nat) (x : Core) : (s.setCore n x).wh = s.wh := rfl
@[simp] theorem State.setCore_whDone (n : Nat) (x : Core) : (s.setCore n x).whDone = s.whDone := rfl
@[simp] theorem State.setCore_tugs (n : Nat) (x : Core) : (s.setCore n x).tugs = s.tugs := rfl
@[simp] theorem State.setCore_draining (n : Nat) (x : Core) : (s.setCore n x).draining = s.draining := rfl
@[simp] theorem State.setCore_toHost (n : Nat) (x : Core) : (s.setCore n x).toHost = s.toHost := rfl
@[simp] theorem State.setCore_signalled (n : Nat) (x : Core) : (s.setCore n x).signalled = s.signalled := rfl
@[simp] theorem State.setCore_packs (n : Nat) (x : Core) : (s.setCore n x).packs = s.packs := rfl
@[simp] theorem State.setCore_packUsed (n : Nat) (x : Core) : (s.setCore n x).packUsed = s.packUsed := rfl
@[simp] theorem State.setCore_streams (n : Nat) (x : Core) : (s.setCore n x).streams = s.streams := rfl
@[simp] theorem State.setCore_exportCost (n : Nat) (x : Core) : (s.setCore n x).exportCost = s.exportCost := rfl
@[simp] theorem State.setCore_exportDue (n : Nat) (x : Core) : (s.setCore n x).exportDue = s.exportDue := rfl
@[simp] theorem State.setCore_stamps (n : Nat) (x : Core) : (s.setCore n x).stamps = s.stamps := rfl
@[simp] theorem State.setCore_hawser (n : Nat) (x : Core) : (s.setCore n x).hawser = s.hawser := rfl
@[simp] theorem State.setCore_calActive (n : Nat) (x : Core) : (s.setCore n x).calActive = s.calActive := rfl
@[simp] theorem State.setCore_quayTrims (n : Nat) (x : Core) : (s.setCore n x).quayTrims = s.quayTrims := rfl
@[simp] theorem State.setCore_taps (n : Nat) (x : Core) : (s.setCore n x).taps = s.taps := rfl
@[simp] theorem State.setCore_calSel (n : Nat) (x : Core) : (s.setCore n x).calSel = s.calSel := rfl
@[simp] theorem State.setCore_calWaiting (n : Nat) (x : Core) : (s.setCore n x).calWaiting = s.calWaiting := rfl
@[simp] theorem State.setCore_calDone (n : Nat) (x : Core) : (s.setCore n x).calDone = s.calDone := rfl
@[simp] theorem State.setCore_charter (n : Nat) (x : Core) : (s.setCore n x).charter = s.charter := rfl
@[simp] theorem State.setCore_power (n : Nat) (x : Core) : (s.setCore n x).power = s.power := rfl
@[simp] theorem State.setCore_life (n : Nat) (x : Core) : (s.setCore n x).life = s.life := rfl
@[simp] theorem State.setCore_fwSwap (n : Nat) (x : Core) : (s.setCore n x).fwSwap = s.fwSwap := rfl
@[simp] theorem State.setCore_ledgerVer (n : Nat) (x : Core) : (s.setCore n x).ledgerVer = s.ledgerVer := rfl
@[simp] theorem State.setCore_bootLen (n : Nat) (x : Core) : (s.setCore n x).bootLen = s.bootLen := rfl
@[simp] theorem State.setCore_pending (n : Nat) (x : Core) : (s.setCore n x).pending = s.pending := rfl

@[simp] theorem State.setCluster_now (n : Nat) (x : Cluster) : (s.setCluster n x).now = s.now := rfl
@[simp] theorem State.setCluster_regs (n : Nat) (x : Cluster) : (s.setCluster n x).regs = s.regs := rfl
@[simp] theorem State.setCluster_shadows (n : Nat) (x : Cluster) : (s.setCluster n x).shadows = s.shadows := rfl
@[simp] theorem State.setCluster_completion (n : Nat) (x : Cluster) : (s.setCluster n x).completion = s.completion := rfl
@[simp] theorem State.setCluster_free (n : Nat) (x : Cluster) : (s.setCluster n x).free = s.free := rfl
@[simp] theorem State.setCluster_shed (n : Nat) (x : Cluster) : (s.setCluster n x).shed = s.shed := rfl
@[simp] theorem State.setCluster_shedBad (n : Nat) (x : Cluster) : (s.setCluster n x).shedBad = s.shedBad := rfl
@[simp] theorem State.setCluster_links (n : Nat) (x : Cluster) : (s.setCluster n x).links = s.links := rfl
@[simp] theorem State.setCluster_pllLost (n : Nat) (x : Cluster) : (s.setCluster n x).pllLost = s.pllLost := rfl
@[simp] theorem State.setCluster_gaps (n : Nat) (x : Cluster) : (s.setCluster n x).gaps = s.gaps := rfl
@[simp] theorem State.setCluster_ballast (n : Nat) (x : Cluster) : (s.setCluster n x).ballast = s.ballast := rfl
@[simp] theorem State.setCluster_landing (n : Nat) (x : Cluster) : (s.setCluster n x).landing = s.landing := rfl
@[simp] theorem State.setCluster_rate (n : Nat) (x : Cluster) : (s.setCluster n x).rate = s.rate := rfl
@[simp] theorem State.setCluster_berths (n : Nat) (x : Cluster) : (s.setCluster n x).berths = s.berths := rfl
@[simp] theorem State.setCluster_coming (n : Nat) (x : Cluster) : (s.setCluster n x).coming = s.coming := rfl
@[simp] theorem State.setCluster_gens (n : Nat) (x : Cluster) : (s.setCluster n x).gens = s.gens := rfl
@[simp] theorem State.setCluster_closedOrder (n : Nat) (x : Cluster) : (s.setCluster n x).closedOrder = s.closedOrder := rfl
@[simp] theorem State.setCluster_carried (n : Nat) (x : Cluster) : (s.setCluster n x).carried = s.carried := rfl
@[simp] theorem State.setCluster_work (n : Nat) (x : Cluster) : (s.setCluster n x).work = s.work := rfl
@[simp] theorem State.setCluster_late (n : Nat) (x : Cluster) : (s.setCluster n x).late = s.late := rfl
@[simp] theorem State.setCluster_cutWork (n : Nat) (x : Cluster) : (s.setCluster n x).cutWork = s.cutWork := rfl
@[simp] theorem State.setCluster_mfCheck (n : Nat) (x : Cluster) : (s.setCluster n x).mfCheck = s.mfCheck := rfl
@[simp] theorem State.setCluster_mfPending (n : Nat) (x : Cluster) : (s.setCluster n x).mfPending = s.mfPending := rfl
@[simp] theorem State.setCluster_mfActive (n : Nat) (x : Cluster) : (s.setCluster n x).mfActive = s.mfActive := rfl
@[simp] theorem State.setCluster_slotOrder (n : Nat) (x : Cluster) : (s.setCluster n x).slotOrder = s.slotOrder := rfl
@[simp] theorem State.setCluster_rings (n : Nat) (x : Cluster) : (s.setCluster n x).rings = s.rings := rfl
@[simp] theorem State.setCluster_quays (n : Nat) (x : Cluster) : (s.setCluster n x).quays = s.quays := rfl
@[simp] theorem State.setCluster_rx (n : Nat) (x : Cluster) : (s.setCluster n x).rx = s.rx := rfl
@[simp] theorem State.setCluster_routes (n : Nat) (x : Cluster) : (s.setCluster n x).routes = s.routes := rfl
@[simp] theorem State.setCluster_replayQ (n : Nat) (x : Cluster) : (s.setCluster n x).replayQ = s.replayQ := rfl
@[simp] theorem State.setCluster_replaying (n : Nat) (x : Cluster) : (s.setCluster n x).replaying = s.replaying := rfl
@[simp] theorem State.setCluster_das (n : Nat) (x : Cluster) : (s.setCluster n x).das = s.das := rfl
@[simp] theorem State.setCluster_tileWrites (n : Nat) (x : Cluster) : (s.setCluster n x).tileWrites = s.tileWrites := rfl
@[simp] theorem State.setCluster_dasComing (n : Nat) (x : Cluster) : (s.setCluster n x).dasComing = s.dasComing := rfl
@[simp] theorem State.setCluster_flow (n : Nat) (x : Cluster) : (s.setCluster n x).flow = s.flow := rfl
@[simp] theorem State.setCluster_flowComing (n : Nat) (x : Cluster) : (s.setCluster n x).flowComing = s.flowComing := rfl
@[simp] theorem State.setCluster_samples (n : Nat) (x : Cluster) : (s.setCluster n x).samples = s.samples := rfl
@[simp] theorem State.setCluster_traces (n : Nat) (x : Cluster) : (s.setCluster n x).traces = s.traces := rfl
@[simp] theorem State.setCluster_hold (n : Nat) (x : Cluster) : (s.setCluster n x).hold = s.hold := rfl
@[simp] theorem State.setCluster_ledger (n : Nat) (x : Cluster) : (s.setCluster n x).ledger = s.ledger := rfl
@[simp] theorem State.setCluster_sent (n : Nat) (x : Cluster) : (s.setCluster n x).sent = s.sent := rfl
@[simp] theorem State.setCluster_signQ (n : Nat) (x : Cluster) : (s.setCluster n x).signQ = s.signQ := rfl
@[simp] theorem State.setCluster_evtLost (n : Nat) (x : Cluster) : (s.setCluster n x).evtLost = s.evtLost := rfl
@[simp] theorem State.setCluster_lanes (n : Nat) (x : Cluster) : (s.setCluster n x).lanes = s.lanes := rfl
@[simp] theorem State.setCluster_fifos (n : Nat) (x : Cluster) : (s.setCluster n x).fifos = s.fifos := rfl
@[simp] theorem State.setCluster_raman (n : Nat) (x : Cluster) : (s.setCluster n x).raman = s.raman := rfl
@[simp] theorem State.setCluster_ports (n : Nat) (x : Cluster) : (s.setCluster n x).ports = s.ports := rfl
@[simp] theorem State.setCluster_ranging (n : Nat) (x : Cluster) : (s.setCluster n x).ranging = s.ranging := rfl
@[simp] theorem State.setCluster_byb (n : Nat) (x : Cluster) : (s.setCluster n x).byb = s.byb := rfl
@[simp] theorem State.setCluster_snd (n : Nat) (x : Cluster) : (s.setCluster n x).snd = s.snd := rfl
@[simp] theorem State.setCluster_sounding (n : Nat) (x : Cluster) : (s.setCluster n x).sounding = s.sounding := rfl
@[simp] theorem State.setCluster_watches (n : Nat) (x : Cluster) : (s.setCluster n x).watches = s.watches := rfl
@[simp] theorem State.setCluster_cores (n : Nat) (x : Cluster) : (s.setCluster n x).cores = s.cores := rfl
@[simp] theorem State.setCluster_wh (n : Nat) (x : Cluster) : (s.setCluster n x).wh = s.wh := rfl
@[simp] theorem State.setCluster_whDone (n : Nat) (x : Cluster) : (s.setCluster n x).whDone = s.whDone := rfl
@[simp] theorem State.setCluster_tugs (n : Nat) (x : Cluster) : (s.setCluster n x).tugs = s.tugs := rfl
@[simp] theorem State.setCluster_draining (n : Nat) (x : Cluster) : (s.setCluster n x).draining = s.draining := rfl
@[simp] theorem State.setCluster_toHost (n : Nat) (x : Cluster) : (s.setCluster n x).toHost = s.toHost := rfl
@[simp] theorem State.setCluster_signalled (n : Nat) (x : Cluster) : (s.setCluster n x).signalled = s.signalled := rfl
@[simp] theorem State.setCluster_packs (n : Nat) (x : Cluster) : (s.setCluster n x).packs = s.packs := rfl
@[simp] theorem State.setCluster_packUsed (n : Nat) (x : Cluster) : (s.setCluster n x).packUsed = s.packUsed := rfl
@[simp] theorem State.setCluster_streams (n : Nat) (x : Cluster) : (s.setCluster n x).streams = s.streams := rfl
@[simp] theorem State.setCluster_exportCost (n : Nat) (x : Cluster) : (s.setCluster n x).exportCost = s.exportCost := rfl
@[simp] theorem State.setCluster_exportDue (n : Nat) (x : Cluster) : (s.setCluster n x).exportDue = s.exportDue := rfl
@[simp] theorem State.setCluster_stamps (n : Nat) (x : Cluster) : (s.setCluster n x).stamps = s.stamps := rfl
@[simp] theorem State.setCluster_hawser (n : Nat) (x : Cluster) : (s.setCluster n x).hawser = s.hawser := rfl
@[simp] theorem State.setCluster_calActive (n : Nat) (x : Cluster) : (s.setCluster n x).calActive = s.calActive := rfl
@[simp] theorem State.setCluster_quayTrims (n : Nat) (x : Cluster) : (s.setCluster n x).quayTrims = s.quayTrims := rfl
@[simp] theorem State.setCluster_taps (n : Nat) (x : Cluster) : (s.setCluster n x).taps = s.taps := rfl
@[simp] theorem State.setCluster_calSel (n : Nat) (x : Cluster) : (s.setCluster n x).calSel = s.calSel := rfl
@[simp] theorem State.setCluster_calWaiting (n : Nat) (x : Cluster) : (s.setCluster n x).calWaiting = s.calWaiting := rfl
@[simp] theorem State.setCluster_calDone (n : Nat) (x : Cluster) : (s.setCluster n x).calDone = s.calDone := rfl
@[simp] theorem State.setCluster_charter (n : Nat) (x : Cluster) : (s.setCluster n x).charter = s.charter := rfl
@[simp] theorem State.setCluster_power (n : Nat) (x : Cluster) : (s.setCluster n x).power = s.power := rfl
@[simp] theorem State.setCluster_life (n : Nat) (x : Cluster) : (s.setCluster n x).life = s.life := rfl
@[simp] theorem State.setCluster_fwSwap (n : Nat) (x : Cluster) : (s.setCluster n x).fwSwap = s.fwSwap := rfl
@[simp] theorem State.setCluster_ledgerVer (n : Nat) (x : Cluster) : (s.setCluster n x).ledgerVer = s.ledgerVer := rfl
@[simp] theorem State.setCluster_bootLen (n : Nat) (x : Cluster) : (s.setCluster n x).bootLen = s.bootLen := rfl
@[simp] theorem State.setCluster_pending (n : Nat) (x : Cluster) : (s.setCluster n x).pending = s.pending := rfl

@[simp] theorem State.setTug_now (n : Nat) (x : Tug) : (s.setTug n x).now = s.now := rfl
@[simp] theorem State.setTug_regs (n : Nat) (x : Tug) : (s.setTug n x).regs = s.regs := rfl
@[simp] theorem State.setTug_shadows (n : Nat) (x : Tug) : (s.setTug n x).shadows = s.shadows := rfl
@[simp] theorem State.setTug_completion (n : Nat) (x : Tug) : (s.setTug n x).completion = s.completion := rfl
@[simp] theorem State.setTug_free (n : Nat) (x : Tug) : (s.setTug n x).free = s.free := rfl
@[simp] theorem State.setTug_shed (n : Nat) (x : Tug) : (s.setTug n x).shed = s.shed := rfl
@[simp] theorem State.setTug_shedBad (n : Nat) (x : Tug) : (s.setTug n x).shedBad = s.shedBad := rfl
@[simp] theorem State.setTug_links (n : Nat) (x : Tug) : (s.setTug n x).links = s.links := rfl
@[simp] theorem State.setTug_pllLost (n : Nat) (x : Tug) : (s.setTug n x).pllLost = s.pllLost := rfl
@[simp] theorem State.setTug_gaps (n : Nat) (x : Tug) : (s.setTug n x).gaps = s.gaps := rfl
@[simp] theorem State.setTug_ballast (n : Nat) (x : Tug) : (s.setTug n x).ballast = s.ballast := rfl
@[simp] theorem State.setTug_landing (n : Nat) (x : Tug) : (s.setTug n x).landing = s.landing := rfl
@[simp] theorem State.setTug_rate (n : Nat) (x : Tug) : (s.setTug n x).rate = s.rate := rfl
@[simp] theorem State.setTug_berths (n : Nat) (x : Tug) : (s.setTug n x).berths = s.berths := rfl
@[simp] theorem State.setTug_coming (n : Nat) (x : Tug) : (s.setTug n x).coming = s.coming := rfl
@[simp] theorem State.setTug_gens (n : Nat) (x : Tug) : (s.setTug n x).gens = s.gens := rfl
@[simp] theorem State.setTug_closedOrder (n : Nat) (x : Tug) : (s.setTug n x).closedOrder = s.closedOrder := rfl
@[simp] theorem State.setTug_carried (n : Nat) (x : Tug) : (s.setTug n x).carried = s.carried := rfl
@[simp] theorem State.setTug_work (n : Nat) (x : Tug) : (s.setTug n x).work = s.work := rfl
@[simp] theorem State.setTug_late (n : Nat) (x : Tug) : (s.setTug n x).late = s.late := rfl
@[simp] theorem State.setTug_cutWork (n : Nat) (x : Tug) : (s.setTug n x).cutWork = s.cutWork := rfl
@[simp] theorem State.setTug_mfCheck (n : Nat) (x : Tug) : (s.setTug n x).mfCheck = s.mfCheck := rfl
@[simp] theorem State.setTug_mfPending (n : Nat) (x : Tug) : (s.setTug n x).mfPending = s.mfPending := rfl
@[simp] theorem State.setTug_mfActive (n : Nat) (x : Tug) : (s.setTug n x).mfActive = s.mfActive := rfl
@[simp] theorem State.setTug_slotOrder (n : Nat) (x : Tug) : (s.setTug n x).slotOrder = s.slotOrder := rfl
@[simp] theorem State.setTug_rings (n : Nat) (x : Tug) : (s.setTug n x).rings = s.rings := rfl
@[simp] theorem State.setTug_quays (n : Nat) (x : Tug) : (s.setTug n x).quays = s.quays := rfl
@[simp] theorem State.setTug_rx (n : Nat) (x : Tug) : (s.setTug n x).rx = s.rx := rfl
@[simp] theorem State.setTug_routes (n : Nat) (x : Tug) : (s.setTug n x).routes = s.routes := rfl
@[simp] theorem State.setTug_replayQ (n : Nat) (x : Tug) : (s.setTug n x).replayQ = s.replayQ := rfl
@[simp] theorem State.setTug_replaying (n : Nat) (x : Tug) : (s.setTug n x).replaying = s.replaying := rfl
@[simp] theorem State.setTug_das (n : Nat) (x : Tug) : (s.setTug n x).das = s.das := rfl
@[simp] theorem State.setTug_tileWrites (n : Nat) (x : Tug) : (s.setTug n x).tileWrites = s.tileWrites := rfl
@[simp] theorem State.setTug_dasComing (n : Nat) (x : Tug) : (s.setTug n x).dasComing = s.dasComing := rfl
@[simp] theorem State.setTug_flow (n : Nat) (x : Tug) : (s.setTug n x).flow = s.flow := rfl
@[simp] theorem State.setTug_flowComing (n : Nat) (x : Tug) : (s.setTug n x).flowComing = s.flowComing := rfl
@[simp] theorem State.setTug_samples (n : Nat) (x : Tug) : (s.setTug n x).samples = s.samples := rfl
@[simp] theorem State.setTug_traces (n : Nat) (x : Tug) : (s.setTug n x).traces = s.traces := rfl
@[simp] theorem State.setTug_hold (n : Nat) (x : Tug) : (s.setTug n x).hold = s.hold := rfl
@[simp] theorem State.setTug_ledger (n : Nat) (x : Tug) : (s.setTug n x).ledger = s.ledger := rfl
@[simp] theorem State.setTug_sent (n : Nat) (x : Tug) : (s.setTug n x).sent = s.sent := rfl
@[simp] theorem State.setTug_signQ (n : Nat) (x : Tug) : (s.setTug n x).signQ = s.signQ := rfl
@[simp] theorem State.setTug_evtLost (n : Nat) (x : Tug) : (s.setTug n x).evtLost = s.evtLost := rfl
@[simp] theorem State.setTug_lanes (n : Nat) (x : Tug) : (s.setTug n x).lanes = s.lanes := rfl
@[simp] theorem State.setTug_fifos (n : Nat) (x : Tug) : (s.setTug n x).fifos = s.fifos := rfl
@[simp] theorem State.setTug_raman (n : Nat) (x : Tug) : (s.setTug n x).raman = s.raman := rfl
@[simp] theorem State.setTug_ports (n : Nat) (x : Tug) : (s.setTug n x).ports = s.ports := rfl
@[simp] theorem State.setTug_ranging (n : Nat) (x : Tug) : (s.setTug n x).ranging = s.ranging := rfl
@[simp] theorem State.setTug_byb (n : Nat) (x : Tug) : (s.setTug n x).byb = s.byb := rfl
@[simp] theorem State.setTug_snd (n : Nat) (x : Tug) : (s.setTug n x).snd = s.snd := rfl
@[simp] theorem State.setTug_sounding (n : Nat) (x : Tug) : (s.setTug n x).sounding = s.sounding := rfl
@[simp] theorem State.setTug_watches (n : Nat) (x : Tug) : (s.setTug n x).watches = s.watches := rfl
@[simp] theorem State.setTug_cores (n : Nat) (x : Tug) : (s.setTug n x).cores = s.cores := rfl
@[simp] theorem State.setTug_clusters (n : Nat) (x : Tug) : (s.setTug n x).clusters = s.clusters := rfl
@[simp] theorem State.setTug_wh (n : Nat) (x : Tug) : (s.setTug n x).wh = s.wh := rfl
@[simp] theorem State.setTug_whDone (n : Nat) (x : Tug) : (s.setTug n x).whDone = s.whDone := rfl
@[simp] theorem State.setTug_draining (n : Nat) (x : Tug) : (s.setTug n x).draining = s.draining := rfl
@[simp] theorem State.setTug_toHost (n : Nat) (x : Tug) : (s.setTug n x).toHost = s.toHost := rfl
@[simp] theorem State.setTug_signalled (n : Nat) (x : Tug) : (s.setTug n x).signalled = s.signalled := rfl
@[simp] theorem State.setTug_packs (n : Nat) (x : Tug) : (s.setTug n x).packs = s.packs := rfl
@[simp] theorem State.setTug_packUsed (n : Nat) (x : Tug) : (s.setTug n x).packUsed = s.packUsed := rfl
@[simp] theorem State.setTug_streams (n : Nat) (x : Tug) : (s.setTug n x).streams = s.streams := rfl
@[simp] theorem State.setTug_exportCost (n : Nat) (x : Tug) : (s.setTug n x).exportCost = s.exportCost := rfl
@[simp] theorem State.setTug_exportDue (n : Nat) (x : Tug) : (s.setTug n x).exportDue = s.exportDue := rfl
@[simp] theorem State.setTug_stamps (n : Nat) (x : Tug) : (s.setTug n x).stamps = s.stamps := rfl
@[simp] theorem State.setTug_hawser (n : Nat) (x : Tug) : (s.setTug n x).hawser = s.hawser := rfl
@[simp] theorem State.setTug_calActive (n : Nat) (x : Tug) : (s.setTug n x).calActive = s.calActive := rfl
@[simp] theorem State.setTug_quayTrims (n : Nat) (x : Tug) : (s.setTug n x).quayTrims = s.quayTrims := rfl
@[simp] theorem State.setTug_taps (n : Nat) (x : Tug) : (s.setTug n x).taps = s.taps := rfl
@[simp] theorem State.setTug_calSel (n : Nat) (x : Tug) : (s.setTug n x).calSel = s.calSel := rfl
@[simp] theorem State.setTug_calWaiting (n : Nat) (x : Tug) : (s.setTug n x).calWaiting = s.calWaiting := rfl
@[simp] theorem State.setTug_calDone (n : Nat) (x : Tug) : (s.setTug n x).calDone = s.calDone := rfl
@[simp] theorem State.setTug_charter (n : Nat) (x : Tug) : (s.setTug n x).charter = s.charter := rfl
@[simp] theorem State.setTug_power (n : Nat) (x : Tug) : (s.setTug n x).power = s.power := rfl
@[simp] theorem State.setTug_life (n : Nat) (x : Tug) : (s.setTug n x).life = s.life := rfl
@[simp] theorem State.setTug_fwSwap (n : Nat) (x : Tug) : (s.setTug n x).fwSwap = s.fwSwap := rfl
@[simp] theorem State.setTug_ledgerVer (n : Nat) (x : Tug) : (s.setTug n x).ledgerVer = s.ledgerVer := rfl
@[simp] theorem State.setTug_bootLen (n : Nat) (x : Tug) : (s.setTug n x).bootLen = s.bootLen := rfl
@[simp] theorem State.setTug_pending (n : Nat) (x : Tug) : (s.setTug n x).pending = s.pending := rfl

@[simp] theorem State.signal_now (v : Nat) : (s.signal v).now = s.now := rfl
@[simp] theorem State.signal_regs (v : Nat) : (s.signal v).regs = s.regs := rfl
@[simp] theorem State.signal_shadows (v : Nat) : (s.signal v).shadows = s.shadows := rfl
@[simp] theorem State.signal_completion (v : Nat) : (s.signal v).completion = s.completion := rfl
@[simp] theorem State.signal_free (v : Nat) : (s.signal v).free = s.free := rfl
@[simp] theorem State.signal_shed (v : Nat) : (s.signal v).shed = s.shed := rfl
@[simp] theorem State.signal_shedBad (v : Nat) : (s.signal v).shedBad = s.shedBad := rfl
@[simp] theorem State.signal_links (v : Nat) : (s.signal v).links = s.links := rfl
@[simp] theorem State.signal_pllLost (v : Nat) : (s.signal v).pllLost = s.pllLost := rfl
@[simp] theorem State.signal_gaps (v : Nat) : (s.signal v).gaps = s.gaps := rfl
@[simp] theorem State.signal_ballast (v : Nat) : (s.signal v).ballast = s.ballast := rfl
@[simp] theorem State.signal_landing (v : Nat) : (s.signal v).landing = s.landing := rfl
@[simp] theorem State.signal_rate (v : Nat) : (s.signal v).rate = s.rate := rfl
@[simp] theorem State.signal_berths (v : Nat) : (s.signal v).berths = s.berths := rfl
@[simp] theorem State.signal_coming (v : Nat) : (s.signal v).coming = s.coming := rfl
@[simp] theorem State.signal_gens (v : Nat) : (s.signal v).gens = s.gens := rfl
@[simp] theorem State.signal_closedOrder (v : Nat) : (s.signal v).closedOrder = s.closedOrder := rfl
@[simp] theorem State.signal_carried (v : Nat) : (s.signal v).carried = s.carried := rfl
@[simp] theorem State.signal_work (v : Nat) : (s.signal v).work = s.work := rfl
@[simp] theorem State.signal_late (v : Nat) : (s.signal v).late = s.late := rfl
@[simp] theorem State.signal_cutWork (v : Nat) : (s.signal v).cutWork = s.cutWork := rfl
@[simp] theorem State.signal_mfCheck (v : Nat) : (s.signal v).mfCheck = s.mfCheck := rfl
@[simp] theorem State.signal_mfPending (v : Nat) : (s.signal v).mfPending = s.mfPending := rfl
@[simp] theorem State.signal_mfActive (v : Nat) : (s.signal v).mfActive = s.mfActive := rfl
@[simp] theorem State.signal_slotOrder (v : Nat) : (s.signal v).slotOrder = s.slotOrder := rfl
@[simp] theorem State.signal_rings (v : Nat) : (s.signal v).rings = s.rings := rfl
@[simp] theorem State.signal_quays (v : Nat) : (s.signal v).quays = s.quays := rfl
@[simp] theorem State.signal_rx (v : Nat) : (s.signal v).rx = s.rx := rfl
@[simp] theorem State.signal_routes (v : Nat) : (s.signal v).routes = s.routes := rfl
@[simp] theorem State.signal_replayQ (v : Nat) : (s.signal v).replayQ = s.replayQ := rfl
@[simp] theorem State.signal_replaying (v : Nat) : (s.signal v).replaying = s.replaying := rfl
@[simp] theorem State.signal_das (v : Nat) : (s.signal v).das = s.das := rfl
@[simp] theorem State.signal_tileWrites (v : Nat) : (s.signal v).tileWrites = s.tileWrites := rfl
@[simp] theorem State.signal_dasComing (v : Nat) : (s.signal v).dasComing = s.dasComing := rfl
@[simp] theorem State.signal_flow (v : Nat) : (s.signal v).flow = s.flow := rfl
@[simp] theorem State.signal_flowComing (v : Nat) : (s.signal v).flowComing = s.flowComing := rfl
@[simp] theorem State.signal_samples (v : Nat) : (s.signal v).samples = s.samples := rfl
@[simp] theorem State.signal_traces (v : Nat) : (s.signal v).traces = s.traces := rfl
@[simp] theorem State.signal_hold (v : Nat) : (s.signal v).hold = s.hold := rfl
@[simp] theorem State.signal_ledger (v : Nat) : (s.signal v).ledger = s.ledger := rfl
@[simp] theorem State.signal_sent (v : Nat) : (s.signal v).sent = s.sent := rfl
@[simp] theorem State.signal_signQ (v : Nat) : (s.signal v).signQ = s.signQ := rfl
@[simp] theorem State.signal_evtLost (v : Nat) : (s.signal v).evtLost = s.evtLost := rfl
@[simp] theorem State.signal_lanes (v : Nat) : (s.signal v).lanes = s.lanes := rfl
@[simp] theorem State.signal_fifos (v : Nat) : (s.signal v).fifos = s.fifos := rfl
@[simp] theorem State.signal_raman (v : Nat) : (s.signal v).raman = s.raman := rfl
@[simp] theorem State.signal_ports (v : Nat) : (s.signal v).ports = s.ports := rfl
@[simp] theorem State.signal_ranging (v : Nat) : (s.signal v).ranging = s.ranging := rfl
@[simp] theorem State.signal_byb (v : Nat) : (s.signal v).byb = s.byb := rfl
@[simp] theorem State.signal_snd (v : Nat) : (s.signal v).snd = s.snd := rfl
@[simp] theorem State.signal_sounding (v : Nat) : (s.signal v).sounding = s.sounding := rfl
@[simp] theorem State.signal_watches (v : Nat) : (s.signal v).watches = s.watches := rfl
@[simp] theorem State.signal_cores (v : Nat) : (s.signal v).cores = s.cores := rfl
@[simp] theorem State.signal_clusters (v : Nat) : (s.signal v).clusters = s.clusters := rfl
@[simp] theorem State.signal_wh (v : Nat) : (s.signal v).wh = s.wh := rfl
@[simp] theorem State.signal_whDone (v : Nat) : (s.signal v).whDone = s.whDone := rfl
@[simp] theorem State.signal_tugs (v : Nat) : (s.signal v).tugs = s.tugs := rfl
@[simp] theorem State.signal_draining (v : Nat) : (s.signal v).draining = s.draining := rfl
@[simp] theorem State.signal_toHost (v : Nat) : (s.signal v).toHost = s.toHost := rfl
@[simp] theorem State.signal_packs (v : Nat) : (s.signal v).packs = s.packs := rfl
@[simp] theorem State.signal_packUsed (v : Nat) : (s.signal v).packUsed = s.packUsed := rfl
@[simp] theorem State.signal_streams (v : Nat) : (s.signal v).streams = s.streams := rfl
@[simp] theorem State.signal_exportCost (v : Nat) : (s.signal v).exportCost = s.exportCost := rfl
@[simp] theorem State.signal_exportDue (v : Nat) : (s.signal v).exportDue = s.exportDue := rfl
@[simp] theorem State.signal_stamps (v : Nat) : (s.signal v).stamps = s.stamps := rfl
@[simp] theorem State.signal_hawser (v : Nat) : (s.signal v).hawser = s.hawser := rfl
@[simp] theorem State.signal_calActive (v : Nat) : (s.signal v).calActive = s.calActive := rfl
@[simp] theorem State.signal_quayTrims (v : Nat) : (s.signal v).quayTrims = s.quayTrims := rfl
@[simp] theorem State.signal_taps (v : Nat) : (s.signal v).taps = s.taps := rfl
@[simp] theorem State.signal_calSel (v : Nat) : (s.signal v).calSel = s.calSel := rfl
@[simp] theorem State.signal_calWaiting (v : Nat) : (s.signal v).calWaiting = s.calWaiting := rfl
@[simp] theorem State.signal_calDone (v : Nat) : (s.signal v).calDone = s.calDone := rfl
@[simp] theorem State.signal_charter (v : Nat) : (s.signal v).charter = s.charter := rfl
@[simp] theorem State.signal_power (v : Nat) : (s.signal v).power = s.power := rfl
@[simp] theorem State.signal_life (v : Nat) : (s.signal v).life = s.life := rfl
@[simp] theorem State.signal_fwSwap (v : Nat) : (s.signal v).fwSwap = s.fwSwap := rfl
@[simp] theorem State.signal_ledgerVer (v : Nat) : (s.signal v).ledgerVer = s.ledgerVer := rfl
@[simp] theorem State.signal_bootLen (v : Nat) : (s.signal v).bootLen = s.bootLen := rfl
@[simp] theorem State.signal_pending (v : Nat) : (s.signal v).pending = s.pending := rfl

@[simp] theorem State.setStream_now (n : Nat) (x : Stream) : (s.setStream n x).now = s.now := rfl
@[simp] theorem State.setStream_regs (n : Nat) (x : Stream) : (s.setStream n x).regs = s.regs := rfl
@[simp] theorem State.setStream_shadows (n : Nat) (x : Stream) : (s.setStream n x).shadows = s.shadows := rfl
@[simp] theorem State.setStream_completion (n : Nat) (x : Stream) : (s.setStream n x).completion = s.completion := rfl
@[simp] theorem State.setStream_free (n : Nat) (x : Stream) : (s.setStream n x).free = s.free := rfl
@[simp] theorem State.setStream_shed (n : Nat) (x : Stream) : (s.setStream n x).shed = s.shed := rfl
@[simp] theorem State.setStream_shedBad (n : Nat) (x : Stream) : (s.setStream n x).shedBad = s.shedBad := rfl
@[simp] theorem State.setStream_links (n : Nat) (x : Stream) : (s.setStream n x).links = s.links := rfl
@[simp] theorem State.setStream_pllLost (n : Nat) (x : Stream) : (s.setStream n x).pllLost = s.pllLost := rfl
@[simp] theorem State.setStream_gaps (n : Nat) (x : Stream) : (s.setStream n x).gaps = s.gaps := rfl
@[simp] theorem State.setStream_ballast (n : Nat) (x : Stream) : (s.setStream n x).ballast = s.ballast := rfl
@[simp] theorem State.setStream_landing (n : Nat) (x : Stream) : (s.setStream n x).landing = s.landing := rfl
@[simp] theorem State.setStream_rate (n : Nat) (x : Stream) : (s.setStream n x).rate = s.rate := rfl
@[simp] theorem State.setStream_berths (n : Nat) (x : Stream) : (s.setStream n x).berths = s.berths := rfl
@[simp] theorem State.setStream_coming (n : Nat) (x : Stream) : (s.setStream n x).coming = s.coming := rfl
@[simp] theorem State.setStream_gens (n : Nat) (x : Stream) : (s.setStream n x).gens = s.gens := rfl
@[simp] theorem State.setStream_closedOrder (n : Nat) (x : Stream) : (s.setStream n x).closedOrder = s.closedOrder := rfl
@[simp] theorem State.setStream_carried (n : Nat) (x : Stream) : (s.setStream n x).carried = s.carried := rfl
@[simp] theorem State.setStream_work (n : Nat) (x : Stream) : (s.setStream n x).work = s.work := rfl
@[simp] theorem State.setStream_late (n : Nat) (x : Stream) : (s.setStream n x).late = s.late := rfl
@[simp] theorem State.setStream_cutWork (n : Nat) (x : Stream) : (s.setStream n x).cutWork = s.cutWork := rfl
@[simp] theorem State.setStream_mfCheck (n : Nat) (x : Stream) : (s.setStream n x).mfCheck = s.mfCheck := rfl
@[simp] theorem State.setStream_mfPending (n : Nat) (x : Stream) : (s.setStream n x).mfPending = s.mfPending := rfl
@[simp] theorem State.setStream_mfActive (n : Nat) (x : Stream) : (s.setStream n x).mfActive = s.mfActive := rfl
@[simp] theorem State.setStream_slotOrder (n : Nat) (x : Stream) : (s.setStream n x).slotOrder = s.slotOrder := rfl
@[simp] theorem State.setStream_rings (n : Nat) (x : Stream) : (s.setStream n x).rings = s.rings := rfl
@[simp] theorem State.setStream_quays (n : Nat) (x : Stream) : (s.setStream n x).quays = s.quays := rfl
@[simp] theorem State.setStream_rx (n : Nat) (x : Stream) : (s.setStream n x).rx = s.rx := rfl
@[simp] theorem State.setStream_routes (n : Nat) (x : Stream) : (s.setStream n x).routes = s.routes := rfl
@[simp] theorem State.setStream_replayQ (n : Nat) (x : Stream) : (s.setStream n x).replayQ = s.replayQ := rfl
@[simp] theorem State.setStream_replaying (n : Nat) (x : Stream) : (s.setStream n x).replaying = s.replaying := rfl
@[simp] theorem State.setStream_das (n : Nat) (x : Stream) : (s.setStream n x).das = s.das := rfl
@[simp] theorem State.setStream_tileWrites (n : Nat) (x : Stream) : (s.setStream n x).tileWrites = s.tileWrites := rfl
@[simp] theorem State.setStream_dasComing (n : Nat) (x : Stream) : (s.setStream n x).dasComing = s.dasComing := rfl
@[simp] theorem State.setStream_flow (n : Nat) (x : Stream) : (s.setStream n x).flow = s.flow := rfl
@[simp] theorem State.setStream_flowComing (n : Nat) (x : Stream) : (s.setStream n x).flowComing = s.flowComing := rfl
@[simp] theorem State.setStream_samples (n : Nat) (x : Stream) : (s.setStream n x).samples = s.samples := rfl
@[simp] theorem State.setStream_traces (n : Nat) (x : Stream) : (s.setStream n x).traces = s.traces := rfl
@[simp] theorem State.setStream_hold (n : Nat) (x : Stream) : (s.setStream n x).hold = s.hold := rfl
@[simp] theorem State.setStream_ledger (n : Nat) (x : Stream) : (s.setStream n x).ledger = s.ledger := rfl
@[simp] theorem State.setStream_sent (n : Nat) (x : Stream) : (s.setStream n x).sent = s.sent := rfl
@[simp] theorem State.setStream_signQ (n : Nat) (x : Stream) : (s.setStream n x).signQ = s.signQ := rfl
@[simp] theorem State.setStream_evtLost (n : Nat) (x : Stream) : (s.setStream n x).evtLost = s.evtLost := rfl
@[simp] theorem State.setStream_lanes (n : Nat) (x : Stream) : (s.setStream n x).lanes = s.lanes := rfl
@[simp] theorem State.setStream_fifos (n : Nat) (x : Stream) : (s.setStream n x).fifos = s.fifos := rfl
@[simp] theorem State.setStream_raman (n : Nat) (x : Stream) : (s.setStream n x).raman = s.raman := rfl
@[simp] theorem State.setStream_ports (n : Nat) (x : Stream) : (s.setStream n x).ports = s.ports := rfl
@[simp] theorem State.setStream_ranging (n : Nat) (x : Stream) : (s.setStream n x).ranging = s.ranging := rfl
@[simp] theorem State.setStream_byb (n : Nat) (x : Stream) : (s.setStream n x).byb = s.byb := rfl
@[simp] theorem State.setStream_snd (n : Nat) (x : Stream) : (s.setStream n x).snd = s.snd := rfl
@[simp] theorem State.setStream_sounding (n : Nat) (x : Stream) : (s.setStream n x).sounding = s.sounding := rfl
@[simp] theorem State.setStream_watches (n : Nat) (x : Stream) : (s.setStream n x).watches = s.watches := rfl
@[simp] theorem State.setStream_cores (n : Nat) (x : Stream) : (s.setStream n x).cores = s.cores := rfl
@[simp] theorem State.setStream_clusters (n : Nat) (x : Stream) : (s.setStream n x).clusters = s.clusters := rfl
@[simp] theorem State.setStream_wh (n : Nat) (x : Stream) : (s.setStream n x).wh = s.wh := rfl
@[simp] theorem State.setStream_whDone (n : Nat) (x : Stream) : (s.setStream n x).whDone = s.whDone := rfl
@[simp] theorem State.setStream_tugs (n : Nat) (x : Stream) : (s.setStream n x).tugs = s.tugs := rfl
@[simp] theorem State.setStream_draining (n : Nat) (x : Stream) : (s.setStream n x).draining = s.draining := rfl
@[simp] theorem State.setStream_toHost (n : Nat) (x : Stream) : (s.setStream n x).toHost = s.toHost := rfl
@[simp] theorem State.setStream_signalled (n : Nat) (x : Stream) : (s.setStream n x).signalled = s.signalled := rfl
@[simp] theorem State.setStream_packs (n : Nat) (x : Stream) : (s.setStream n x).packs = s.packs := rfl
@[simp] theorem State.setStream_packUsed (n : Nat) (x : Stream) : (s.setStream n x).packUsed = s.packUsed := rfl
@[simp] theorem State.setStream_exportCost (n : Nat) (x : Stream) : (s.setStream n x).exportCost = s.exportCost := rfl
@[simp] theorem State.setStream_exportDue (n : Nat) (x : Stream) : (s.setStream n x).exportDue = s.exportDue := rfl
@[simp] theorem State.setStream_stamps (n : Nat) (x : Stream) : (s.setStream n x).stamps = s.stamps := rfl
@[simp] theorem State.setStream_hawser (n : Nat) (x : Stream) : (s.setStream n x).hawser = s.hawser := rfl
@[simp] theorem State.setStream_calActive (n : Nat) (x : Stream) : (s.setStream n x).calActive = s.calActive := rfl
@[simp] theorem State.setStream_quayTrims (n : Nat) (x : Stream) : (s.setStream n x).quayTrims = s.quayTrims := rfl
@[simp] theorem State.setStream_taps (n : Nat) (x : Stream) : (s.setStream n x).taps = s.taps := rfl
@[simp] theorem State.setStream_calSel (n : Nat) (x : Stream) : (s.setStream n x).calSel = s.calSel := rfl
@[simp] theorem State.setStream_calWaiting (n : Nat) (x : Stream) : (s.setStream n x).calWaiting = s.calWaiting := rfl
@[simp] theorem State.setStream_calDone (n : Nat) (x : Stream) : (s.setStream n x).calDone = s.calDone := rfl
@[simp] theorem State.setStream_charter (n : Nat) (x : Stream) : (s.setStream n x).charter = s.charter := rfl
@[simp] theorem State.setStream_power (n : Nat) (x : Stream) : (s.setStream n x).power = s.power := rfl
@[simp] theorem State.setStream_life (n : Nat) (x : Stream) : (s.setStream n x).life = s.life := rfl
@[simp] theorem State.setStream_fwSwap (n : Nat) (x : Stream) : (s.setStream n x).fwSwap = s.fwSwap := rfl
@[simp] theorem State.setStream_ledgerVer (n : Nat) (x : Stream) : (s.setStream n x).ledgerVer = s.ledgerVer := rfl
@[simp] theorem State.setStream_bootLen (n : Nat) (x : Stream) : (s.setStream n x).bootLen = s.bootLen := rfl
@[simp] theorem State.setStream_pending (n : Nat) (x : Stream) : (s.setStream n x).pending = s.pending := rfl

@[simp] theorem State.setQuayTrim_now (n : Nat) (x : QuayTrim) : (s.setQuayTrim n x).now = s.now := rfl
@[simp] theorem State.setQuayTrim_regs (n : Nat) (x : QuayTrim) : (s.setQuayTrim n x).regs = s.regs := rfl
@[simp] theorem State.setQuayTrim_shadows (n : Nat) (x : QuayTrim) : (s.setQuayTrim n x).shadows = s.shadows := rfl
@[simp] theorem State.setQuayTrim_completion (n : Nat) (x : QuayTrim) : (s.setQuayTrim n x).completion = s.completion := rfl
@[simp] theorem State.setQuayTrim_free (n : Nat) (x : QuayTrim) : (s.setQuayTrim n x).free = s.free := rfl
@[simp] theorem State.setQuayTrim_shed (n : Nat) (x : QuayTrim) : (s.setQuayTrim n x).shed = s.shed := rfl
@[simp] theorem State.setQuayTrim_shedBad (n : Nat) (x : QuayTrim) : (s.setQuayTrim n x).shedBad = s.shedBad := rfl
@[simp] theorem State.setQuayTrim_links (n : Nat) (x : QuayTrim) : (s.setQuayTrim n x).links = s.links := rfl
@[simp] theorem State.setQuayTrim_pllLost (n : Nat) (x : QuayTrim) : (s.setQuayTrim n x).pllLost = s.pllLost := rfl
@[simp] theorem State.setQuayTrim_gaps (n : Nat) (x : QuayTrim) : (s.setQuayTrim n x).gaps = s.gaps := rfl
@[simp] theorem State.setQuayTrim_ballast (n : Nat) (x : QuayTrim) : (s.setQuayTrim n x).ballast = s.ballast := rfl
@[simp] theorem State.setQuayTrim_landing (n : Nat) (x : QuayTrim) : (s.setQuayTrim n x).landing = s.landing := rfl
@[simp] theorem State.setQuayTrim_rate (n : Nat) (x : QuayTrim) : (s.setQuayTrim n x).rate = s.rate := rfl
@[simp] theorem State.setQuayTrim_berths (n : Nat) (x : QuayTrim) : (s.setQuayTrim n x).berths = s.berths := rfl
@[simp] theorem State.setQuayTrim_coming (n : Nat) (x : QuayTrim) : (s.setQuayTrim n x).coming = s.coming := rfl
@[simp] theorem State.setQuayTrim_gens (n : Nat) (x : QuayTrim) : (s.setQuayTrim n x).gens = s.gens := rfl
@[simp] theorem State.setQuayTrim_closedOrder (n : Nat) (x : QuayTrim) : (s.setQuayTrim n x).closedOrder = s.closedOrder := rfl
@[simp] theorem State.setQuayTrim_carried (n : Nat) (x : QuayTrim) : (s.setQuayTrim n x).carried = s.carried := rfl
@[simp] theorem State.setQuayTrim_work (n : Nat) (x : QuayTrim) : (s.setQuayTrim n x).work = s.work := rfl
@[simp] theorem State.setQuayTrim_late (n : Nat) (x : QuayTrim) : (s.setQuayTrim n x).late = s.late := rfl
@[simp] theorem State.setQuayTrim_cutWork (n : Nat) (x : QuayTrim) : (s.setQuayTrim n x).cutWork = s.cutWork := rfl
@[simp] theorem State.setQuayTrim_mfCheck (n : Nat) (x : QuayTrim) : (s.setQuayTrim n x).mfCheck = s.mfCheck := rfl
@[simp] theorem State.setQuayTrim_mfPending (n : Nat) (x : QuayTrim) : (s.setQuayTrim n x).mfPending = s.mfPending := rfl
@[simp] theorem State.setQuayTrim_mfActive (n : Nat) (x : QuayTrim) : (s.setQuayTrim n x).mfActive = s.mfActive := rfl
@[simp] theorem State.setQuayTrim_slotOrder (n : Nat) (x : QuayTrim) : (s.setQuayTrim n x).slotOrder = s.slotOrder := rfl
@[simp] theorem State.setQuayTrim_rings (n : Nat) (x : QuayTrim) : (s.setQuayTrim n x).rings = s.rings := rfl
@[simp] theorem State.setQuayTrim_quays (n : Nat) (x : QuayTrim) : (s.setQuayTrim n x).quays = s.quays := rfl
@[simp] theorem State.setQuayTrim_rx (n : Nat) (x : QuayTrim) : (s.setQuayTrim n x).rx = s.rx := rfl
@[simp] theorem State.setQuayTrim_routes (n : Nat) (x : QuayTrim) : (s.setQuayTrim n x).routes = s.routes := rfl
@[simp] theorem State.setQuayTrim_replayQ (n : Nat) (x : QuayTrim) : (s.setQuayTrim n x).replayQ = s.replayQ := rfl
@[simp] theorem State.setQuayTrim_replaying (n : Nat) (x : QuayTrim) : (s.setQuayTrim n x).replaying = s.replaying := rfl
@[simp] theorem State.setQuayTrim_das (n : Nat) (x : QuayTrim) : (s.setQuayTrim n x).das = s.das := rfl
@[simp] theorem State.setQuayTrim_tileWrites (n : Nat) (x : QuayTrim) : (s.setQuayTrim n x).tileWrites = s.tileWrites := rfl
@[simp] theorem State.setQuayTrim_dasComing (n : Nat) (x : QuayTrim) : (s.setQuayTrim n x).dasComing = s.dasComing := rfl
@[simp] theorem State.setQuayTrim_flow (n : Nat) (x : QuayTrim) : (s.setQuayTrim n x).flow = s.flow := rfl
@[simp] theorem State.setQuayTrim_flowComing (n : Nat) (x : QuayTrim) : (s.setQuayTrim n x).flowComing = s.flowComing := rfl
@[simp] theorem State.setQuayTrim_samples (n : Nat) (x : QuayTrim) : (s.setQuayTrim n x).samples = s.samples := rfl
@[simp] theorem State.setQuayTrim_traces (n : Nat) (x : QuayTrim) : (s.setQuayTrim n x).traces = s.traces := rfl
@[simp] theorem State.setQuayTrim_hold (n : Nat) (x : QuayTrim) : (s.setQuayTrim n x).hold = s.hold := rfl
@[simp] theorem State.setQuayTrim_ledger (n : Nat) (x : QuayTrim) : (s.setQuayTrim n x).ledger = s.ledger := rfl
@[simp] theorem State.setQuayTrim_sent (n : Nat) (x : QuayTrim) : (s.setQuayTrim n x).sent = s.sent := rfl
@[simp] theorem State.setQuayTrim_signQ (n : Nat) (x : QuayTrim) : (s.setQuayTrim n x).signQ = s.signQ := rfl
@[simp] theorem State.setQuayTrim_evtLost (n : Nat) (x : QuayTrim) : (s.setQuayTrim n x).evtLost = s.evtLost := rfl
@[simp] theorem State.setQuayTrim_lanes (n : Nat) (x : QuayTrim) : (s.setQuayTrim n x).lanes = s.lanes := rfl
@[simp] theorem State.setQuayTrim_fifos (n : Nat) (x : QuayTrim) : (s.setQuayTrim n x).fifos = s.fifos := rfl
@[simp] theorem State.setQuayTrim_raman (n : Nat) (x : QuayTrim) : (s.setQuayTrim n x).raman = s.raman := rfl
@[simp] theorem State.setQuayTrim_ports (n : Nat) (x : QuayTrim) : (s.setQuayTrim n x).ports = s.ports := rfl
@[simp] theorem State.setQuayTrim_ranging (n : Nat) (x : QuayTrim) : (s.setQuayTrim n x).ranging = s.ranging := rfl
@[simp] theorem State.setQuayTrim_byb (n : Nat) (x : QuayTrim) : (s.setQuayTrim n x).byb = s.byb := rfl
@[simp] theorem State.setQuayTrim_snd (n : Nat) (x : QuayTrim) : (s.setQuayTrim n x).snd = s.snd := rfl
@[simp] theorem State.setQuayTrim_sounding (n : Nat) (x : QuayTrim) : (s.setQuayTrim n x).sounding = s.sounding := rfl
@[simp] theorem State.setQuayTrim_watches (n : Nat) (x : QuayTrim) : (s.setQuayTrim n x).watches = s.watches := rfl
@[simp] theorem State.setQuayTrim_cores (n : Nat) (x : QuayTrim) : (s.setQuayTrim n x).cores = s.cores := rfl
@[simp] theorem State.setQuayTrim_clusters (n : Nat) (x : QuayTrim) : (s.setQuayTrim n x).clusters = s.clusters := rfl
@[simp] theorem State.setQuayTrim_wh (n : Nat) (x : QuayTrim) : (s.setQuayTrim n x).wh = s.wh := rfl
@[simp] theorem State.setQuayTrim_whDone (n : Nat) (x : QuayTrim) : (s.setQuayTrim n x).whDone = s.whDone := rfl
@[simp] theorem State.setQuayTrim_tugs (n : Nat) (x : QuayTrim) : (s.setQuayTrim n x).tugs = s.tugs := rfl
@[simp] theorem State.setQuayTrim_draining (n : Nat) (x : QuayTrim) : (s.setQuayTrim n x).draining = s.draining := rfl
@[simp] theorem State.setQuayTrim_toHost (n : Nat) (x : QuayTrim) : (s.setQuayTrim n x).toHost = s.toHost := rfl
@[simp] theorem State.setQuayTrim_signalled (n : Nat) (x : QuayTrim) : (s.setQuayTrim n x).signalled = s.signalled := rfl
@[simp] theorem State.setQuayTrim_packs (n : Nat) (x : QuayTrim) : (s.setQuayTrim n x).packs = s.packs := rfl
@[simp] theorem State.setQuayTrim_packUsed (n : Nat) (x : QuayTrim) : (s.setQuayTrim n x).packUsed = s.packUsed := rfl
@[simp] theorem State.setQuayTrim_streams (n : Nat) (x : QuayTrim) : (s.setQuayTrim n x).streams = s.streams := rfl
@[simp] theorem State.setQuayTrim_exportCost (n : Nat) (x : QuayTrim) : (s.setQuayTrim n x).exportCost = s.exportCost := rfl
@[simp] theorem State.setQuayTrim_exportDue (n : Nat) (x : QuayTrim) : (s.setQuayTrim n x).exportDue = s.exportDue := rfl
@[simp] theorem State.setQuayTrim_stamps (n : Nat) (x : QuayTrim) : (s.setQuayTrim n x).stamps = s.stamps := rfl
@[simp] theorem State.setQuayTrim_hawser (n : Nat) (x : QuayTrim) : (s.setQuayTrim n x).hawser = s.hawser := rfl
@[simp] theorem State.setQuayTrim_calActive (n : Nat) (x : QuayTrim) : (s.setQuayTrim n x).calActive = s.calActive := rfl
@[simp] theorem State.setQuayTrim_taps (n : Nat) (x : QuayTrim) : (s.setQuayTrim n x).taps = s.taps := rfl
@[simp] theorem State.setQuayTrim_calSel (n : Nat) (x : QuayTrim) : (s.setQuayTrim n x).calSel = s.calSel := rfl
@[simp] theorem State.setQuayTrim_calWaiting (n : Nat) (x : QuayTrim) : (s.setQuayTrim n x).calWaiting = s.calWaiting := rfl
@[simp] theorem State.setQuayTrim_calDone (n : Nat) (x : QuayTrim) : (s.setQuayTrim n x).calDone = s.calDone := rfl
@[simp] theorem State.setQuayTrim_charter (n : Nat) (x : QuayTrim) : (s.setQuayTrim n x).charter = s.charter := rfl
@[simp] theorem State.setQuayTrim_power (n : Nat) (x : QuayTrim) : (s.setQuayTrim n x).power = s.power := rfl
@[simp] theorem State.setQuayTrim_life (n : Nat) (x : QuayTrim) : (s.setQuayTrim n x).life = s.life := rfl
@[simp] theorem State.setQuayTrim_fwSwap (n : Nat) (x : QuayTrim) : (s.setQuayTrim n x).fwSwap = s.fwSwap := rfl
@[simp] theorem State.setQuayTrim_ledgerVer (n : Nat) (x : QuayTrim) : (s.setQuayTrim n x).ledgerVer = s.ledgerVer := rfl
@[simp] theorem State.setQuayTrim_bootLen (n : Nat) (x : QuayTrim) : (s.setQuayTrim n x).bootLen = s.bootLen := rfl
@[simp] theorem State.setQuayTrim_pending (n : Nat) (x : QuayTrim) : (s.setQuayTrim n x).pending = s.pending := rfl

@[simp] theorem State.setTaps_now (n : Nat) (x : TapTable) : (s.setTaps n x).now = s.now := rfl
@[simp] theorem State.setTaps_regs (n : Nat) (x : TapTable) : (s.setTaps n x).regs = s.regs := rfl
@[simp] theorem State.setTaps_shadows (n : Nat) (x : TapTable) : (s.setTaps n x).shadows = s.shadows := rfl
@[simp] theorem State.setTaps_completion (n : Nat) (x : TapTable) : (s.setTaps n x).completion = s.completion := rfl
@[simp] theorem State.setTaps_free (n : Nat) (x : TapTable) : (s.setTaps n x).free = s.free := rfl
@[simp] theorem State.setTaps_shed (n : Nat) (x : TapTable) : (s.setTaps n x).shed = s.shed := rfl
@[simp] theorem State.setTaps_shedBad (n : Nat) (x : TapTable) : (s.setTaps n x).shedBad = s.shedBad := rfl
@[simp] theorem State.setTaps_links (n : Nat) (x : TapTable) : (s.setTaps n x).links = s.links := rfl
@[simp] theorem State.setTaps_pllLost (n : Nat) (x : TapTable) : (s.setTaps n x).pllLost = s.pllLost := rfl
@[simp] theorem State.setTaps_gaps (n : Nat) (x : TapTable) : (s.setTaps n x).gaps = s.gaps := rfl
@[simp] theorem State.setTaps_ballast (n : Nat) (x : TapTable) : (s.setTaps n x).ballast = s.ballast := rfl
@[simp] theorem State.setTaps_landing (n : Nat) (x : TapTable) : (s.setTaps n x).landing = s.landing := rfl
@[simp] theorem State.setTaps_rate (n : Nat) (x : TapTable) : (s.setTaps n x).rate = s.rate := rfl
@[simp] theorem State.setTaps_berths (n : Nat) (x : TapTable) : (s.setTaps n x).berths = s.berths := rfl
@[simp] theorem State.setTaps_coming (n : Nat) (x : TapTable) : (s.setTaps n x).coming = s.coming := rfl
@[simp] theorem State.setTaps_gens (n : Nat) (x : TapTable) : (s.setTaps n x).gens = s.gens := rfl
@[simp] theorem State.setTaps_closedOrder (n : Nat) (x : TapTable) : (s.setTaps n x).closedOrder = s.closedOrder := rfl
@[simp] theorem State.setTaps_carried (n : Nat) (x : TapTable) : (s.setTaps n x).carried = s.carried := rfl
@[simp] theorem State.setTaps_work (n : Nat) (x : TapTable) : (s.setTaps n x).work = s.work := rfl
@[simp] theorem State.setTaps_late (n : Nat) (x : TapTable) : (s.setTaps n x).late = s.late := rfl
@[simp] theorem State.setTaps_cutWork (n : Nat) (x : TapTable) : (s.setTaps n x).cutWork = s.cutWork := rfl
@[simp] theorem State.setTaps_mfCheck (n : Nat) (x : TapTable) : (s.setTaps n x).mfCheck = s.mfCheck := rfl
@[simp] theorem State.setTaps_mfPending (n : Nat) (x : TapTable) : (s.setTaps n x).mfPending = s.mfPending := rfl
@[simp] theorem State.setTaps_mfActive (n : Nat) (x : TapTable) : (s.setTaps n x).mfActive = s.mfActive := rfl
@[simp] theorem State.setTaps_slotOrder (n : Nat) (x : TapTable) : (s.setTaps n x).slotOrder = s.slotOrder := rfl
@[simp] theorem State.setTaps_rings (n : Nat) (x : TapTable) : (s.setTaps n x).rings = s.rings := rfl
@[simp] theorem State.setTaps_quays (n : Nat) (x : TapTable) : (s.setTaps n x).quays = s.quays := rfl
@[simp] theorem State.setTaps_rx (n : Nat) (x : TapTable) : (s.setTaps n x).rx = s.rx := rfl
@[simp] theorem State.setTaps_routes (n : Nat) (x : TapTable) : (s.setTaps n x).routes = s.routes := rfl
@[simp] theorem State.setTaps_replayQ (n : Nat) (x : TapTable) : (s.setTaps n x).replayQ = s.replayQ := rfl
@[simp] theorem State.setTaps_replaying (n : Nat) (x : TapTable) : (s.setTaps n x).replaying = s.replaying := rfl
@[simp] theorem State.setTaps_das (n : Nat) (x : TapTable) : (s.setTaps n x).das = s.das := rfl
@[simp] theorem State.setTaps_tileWrites (n : Nat) (x : TapTable) : (s.setTaps n x).tileWrites = s.tileWrites := rfl
@[simp] theorem State.setTaps_dasComing (n : Nat) (x : TapTable) : (s.setTaps n x).dasComing = s.dasComing := rfl
@[simp] theorem State.setTaps_flow (n : Nat) (x : TapTable) : (s.setTaps n x).flow = s.flow := rfl
@[simp] theorem State.setTaps_flowComing (n : Nat) (x : TapTable) : (s.setTaps n x).flowComing = s.flowComing := rfl
@[simp] theorem State.setTaps_samples (n : Nat) (x : TapTable) : (s.setTaps n x).samples = s.samples := rfl
@[simp] theorem State.setTaps_traces (n : Nat) (x : TapTable) : (s.setTaps n x).traces = s.traces := rfl
@[simp] theorem State.setTaps_hold (n : Nat) (x : TapTable) : (s.setTaps n x).hold = s.hold := rfl
@[simp] theorem State.setTaps_ledger (n : Nat) (x : TapTable) : (s.setTaps n x).ledger = s.ledger := rfl
@[simp] theorem State.setTaps_sent (n : Nat) (x : TapTable) : (s.setTaps n x).sent = s.sent := rfl
@[simp] theorem State.setTaps_signQ (n : Nat) (x : TapTable) : (s.setTaps n x).signQ = s.signQ := rfl
@[simp] theorem State.setTaps_evtLost (n : Nat) (x : TapTable) : (s.setTaps n x).evtLost = s.evtLost := rfl
@[simp] theorem State.setTaps_lanes (n : Nat) (x : TapTable) : (s.setTaps n x).lanes = s.lanes := rfl
@[simp] theorem State.setTaps_fifos (n : Nat) (x : TapTable) : (s.setTaps n x).fifos = s.fifos := rfl
@[simp] theorem State.setTaps_raman (n : Nat) (x : TapTable) : (s.setTaps n x).raman = s.raman := rfl
@[simp] theorem State.setTaps_ports (n : Nat) (x : TapTable) : (s.setTaps n x).ports = s.ports := rfl
@[simp] theorem State.setTaps_ranging (n : Nat) (x : TapTable) : (s.setTaps n x).ranging = s.ranging := rfl
@[simp] theorem State.setTaps_byb (n : Nat) (x : TapTable) : (s.setTaps n x).byb = s.byb := rfl
@[simp] theorem State.setTaps_snd (n : Nat) (x : TapTable) : (s.setTaps n x).snd = s.snd := rfl
@[simp] theorem State.setTaps_sounding (n : Nat) (x : TapTable) : (s.setTaps n x).sounding = s.sounding := rfl
@[simp] theorem State.setTaps_watches (n : Nat) (x : TapTable) : (s.setTaps n x).watches = s.watches := rfl
@[simp] theorem State.setTaps_cores (n : Nat) (x : TapTable) : (s.setTaps n x).cores = s.cores := rfl
@[simp] theorem State.setTaps_clusters (n : Nat) (x : TapTable) : (s.setTaps n x).clusters = s.clusters := rfl
@[simp] theorem State.setTaps_wh (n : Nat) (x : TapTable) : (s.setTaps n x).wh = s.wh := rfl
@[simp] theorem State.setTaps_whDone (n : Nat) (x : TapTable) : (s.setTaps n x).whDone = s.whDone := rfl
@[simp] theorem State.setTaps_tugs (n : Nat) (x : TapTable) : (s.setTaps n x).tugs = s.tugs := rfl
@[simp] theorem State.setTaps_draining (n : Nat) (x : TapTable) : (s.setTaps n x).draining = s.draining := rfl
@[simp] theorem State.setTaps_toHost (n : Nat) (x : TapTable) : (s.setTaps n x).toHost = s.toHost := rfl
@[simp] theorem State.setTaps_signalled (n : Nat) (x : TapTable) : (s.setTaps n x).signalled = s.signalled := rfl
@[simp] theorem State.setTaps_packs (n : Nat) (x : TapTable) : (s.setTaps n x).packs = s.packs := rfl
@[simp] theorem State.setTaps_packUsed (n : Nat) (x : TapTable) : (s.setTaps n x).packUsed = s.packUsed := rfl
@[simp] theorem State.setTaps_streams (n : Nat) (x : TapTable) : (s.setTaps n x).streams = s.streams := rfl
@[simp] theorem State.setTaps_exportCost (n : Nat) (x : TapTable) : (s.setTaps n x).exportCost = s.exportCost := rfl
@[simp] theorem State.setTaps_exportDue (n : Nat) (x : TapTable) : (s.setTaps n x).exportDue = s.exportDue := rfl
@[simp] theorem State.setTaps_stamps (n : Nat) (x : TapTable) : (s.setTaps n x).stamps = s.stamps := rfl
@[simp] theorem State.setTaps_hawser (n : Nat) (x : TapTable) : (s.setTaps n x).hawser = s.hawser := rfl
@[simp] theorem State.setTaps_calActive (n : Nat) (x : TapTable) : (s.setTaps n x).calActive = s.calActive := rfl
@[simp] theorem State.setTaps_quayTrims (n : Nat) (x : TapTable) : (s.setTaps n x).quayTrims = s.quayTrims := rfl
@[simp] theorem State.setTaps_calSel (n : Nat) (x : TapTable) : (s.setTaps n x).calSel = s.calSel := rfl
@[simp] theorem State.setTaps_calWaiting (n : Nat) (x : TapTable) : (s.setTaps n x).calWaiting = s.calWaiting := rfl
@[simp] theorem State.setTaps_calDone (n : Nat) (x : TapTable) : (s.setTaps n x).calDone = s.calDone := rfl
@[simp] theorem State.setTaps_charter (n : Nat) (x : TapTable) : (s.setTaps n x).charter = s.charter := rfl
@[simp] theorem State.setTaps_power (n : Nat) (x : TapTable) : (s.setTaps n x).power = s.power := rfl
@[simp] theorem State.setTaps_life (n : Nat) (x : TapTable) : (s.setTaps n x).life = s.life := rfl
@[simp] theorem State.setTaps_fwSwap (n : Nat) (x : TapTable) : (s.setTaps n x).fwSwap = s.fwSwap := rfl
@[simp] theorem State.setTaps_ledgerVer (n : Nat) (x : TapTable) : (s.setTaps n x).ledgerVer = s.ledgerVer := rfl
@[simp] theorem State.setTaps_bootLen (n : Nat) (x : TapTable) : (s.setTaps n x).bootLen = s.bootLen := rfl
@[simp] theorem State.setTaps_pending (n : Nat) (x : TapTable) : (s.setTaps n x).pending = s.pending := rfl

end Sys2Proof.Machine
end

