-- ==== Sys2Proof/Laws/Ops.lean ====
section
/-! SUPPORT. What the shared operations do: one lemma for reading a field after each way of writing one, and the gates of the meanings. -/

namespace Sys2Proof.Machine

variable (s : State)

@[simp] theorem State.rd_wr_same (f : Fld) (v : Nat) : (s.wr f v).rd f = low f.width v := Tab.get_put_same ..

theorem State.rd_wr_other {f g : Fld} (v : Nat) (h : f.key ≠ g.key) : (s.wr f v).rd g = s.rd g := Tab.get_put_other _ _ _ _ h

@[simp] theorem State.rd_wrB_same (f : Fld) (b : Bool) : (s.wrB f b).rd f = low f.width (flag b) := s.rd_wr_same ..

theorem State.rd_wrB_other {f g : Fld} (b : Bool) (h : f.key ≠ g.key) : (s.wrB f b).rd g = s.rd g := s.rd_wr_other _ h

theorem State.rd_wrBit_other {f g : Fld} (i : Nat) (b : Bool) (h : f.key ≠ g.key) : (s.wrBit f i b).rd g = s.rd g := s.rd_wr_other _ h

theorem State.rd_inc_same (f : Fld) : (s.inc f).rd f = low f.width (satAdd f.width (s.rd f) 1) := s.rd_wr_same ..

theorem State.rd_inc_other {f g : Fld} (h : f.key ≠ g.key) : (s.inc f).rd g = s.rd g := s.rd_wr_other _ h

theorem State.rd_addSat_same (f : Fld) (n : Nat) : (s.addSat f n).rd f = low f.width (satAdd f.width (s.rd f) n) := s.rd_wr_same ..

theorem State.rd_addSat_other {f g : Fld} (n : Nat) (h : f.key ≠ g.key) : (s.addSat f n).rd g = s.rd g := s.rd_wr_other _ h

theorem State.rd_wrPair_other {f g k : Fld} (v : Nat) (hf : f.key ≠ k.key) (hg : g.key ≠ k.key) : (s.wrPair f g v).rd k = s.rd k := by
  rw [State.wrPair, State.rd_wr_other _ _ hg, State.rd_wr_other _ _ hf]

/-- A state that agrees in its registers reads the same. -/
theorem State.rd_congr {s t : State} (h : t.regs = s.regs) (f : Fld) : t.rd f = s.rd f := by rw [State.rd, State.rd, h]

@[simp] theorem low_one_flag (b : Bool) : low 1 (flag b) = flag b := by cases b <;> rfl

theorem low_of_lt {w n : Nat} (h : n < 2 ^ w) : low w n = n := Nat.mod_eq_of_lt h

@[simp] theorem low_low (w n : Nat) : low w (low w n) = low w n := Nat.mod_mod ..

/-- A counter that is in range stays in range when it is incremented, and stops at its largest value. -/
theorem low_satAdd {w a b : Nat} : low w (satAdd w a b) = satAdd w a b := by
  refine low_of_lt ?_
  have : 0 < 2 ^ w := Nat.two_pow_pos w
  unfold satAdd
  omega

/-- Outside a reset a meaning runs. -/
theorem State.live_runs {s : State} (h : s.runs) (f : State → Res) : s.live f = f s := by
  unfold State.live
  rw [h]
  rfl

/-- While a reset holds the device a gated meaning changes nothing. -/
theorem State.live_held {s : State} (h : s.power.held.isSome) (f : State → Res) : s.live f = .next s := by
  unfold State.live
  rw [if_pos h]
  rfl

/-- A block that takes writes runs the effect of one. -/
theorem State.whenOn_takes {s : State} {d : Nat} (h : s.takesWrites d) (f : State → Res) : s.whenOn d f = f s := by
  rw [State.whenOn, if_pos h.2.1, h.2.2]

theorem State.takesWrites.runs {s : State} {d : Nat} (h : s.takesWrites d) : s.runs := h.1

theorem OnlyRegs.refl (fs : List Fld) : OnlyRegs fs s s := fun _ _ => rfl

theorem OnlyRegs.wr {fs : List Fld} {s t : State} (h : OnlyRegs fs s t) {f : Fld} (hf : f ∈ fs) (v : Nat) : OnlyRegs fs s (t.wr f v) :=
  fun g hg => (t.rd_wr_other v (hg f hf)).trans (h g hg)

theorem OnlyRegs.of_regs {fs : List Fld} {s t u : State} (h : OnlyRegs fs s t) (e : u.regs = t.regs) : OnlyRegs fs s u :=
  fun g hg => (State.rd_congr e g).trans (h g hg)

end Sys2Proof.Machine
end

