-- ==== Sys2Proof/Tests/Slice0.lean ====
section
/-! SUPPORT. Tests. The first part checks single operations against the spec's own numbers; the second shows, for every statement with
hypotheses, concrete states and operands that meet the hypotheses of each of its clauses together. -/

namespace Sys2Proof.Tests

-- One theorem after another: as tasks of their own they would all wait, each on a thread, for the kernel to finish the laws before them.
set_option Elab.async false

open Sys2Proof.Machine

/-- The state after reset with these register fields written and every block's first write made, so that no output is in its cold-reset state. -/
def st (l : List (Fld × Nat)) : State :=
  l.foldl (fun s p => s.wr p.1 p.2) { State.reset with power := { State.reset.power with cold := [] } }

/-- The state after reset with every block's first write made. -/
def ready : State := st []

/-- `s` with firmware ready, a mailbox version in force and one command of this code and these argument words in slot 0 (Table 15.4). -/
def mail (code tag : Nat) (args : List Nat) (s : State) : State :=
  { ((((s.wr R.MB_STATUS_FW_READY 1).wr R.MB_STATUS_NEGOTIATED 1).wr R.MB_STATUS_VER 1).wr R.MB_CMD_TAIL_TAIL 1) with
    shed := Tab.putList 0 s.shed 0
      (leBytes 2 tag ++ leBytes 1 code ++ leBytes 1 0 ++ leBytes 2 args.length ++ leBytes 10 0 ++ args.flatMap (leBytes 4)) }

/-- An open berth of this kind at index `i`, of generation 1. -/
def withBerth (i kind : Nat) (params : List Nat) (s : State) : State :=
  { s with berths := Tab.put {} s.berths i { handle := makeHandle kind 1 i, kind, state := .open, params } }

/-- The latch released and `n` a quay or port armed and running. -/
def armed (n : Nat) (s : State) : State :=
  (((s.wr R.RS_SAFE_STATUS_RELEASED 1).wr (R.QY_STATUS_ARMED n) 1).wr (R.BC_m_STATUS_ARMED n) 1).wr (R.QY_STATUS_RUNNING n) 1

/-! Terms that stand for no command (WellFormed.lean), one for each check. -/

theorem test_wf_host_write_lies_below_the_shed_window : (Instr.registerWrite .host 0x4000000 0 0).wellFormed = false := by decide
theorem test_wf_unsupported_access_is_not_a_word : (Instr.unsupportedAccess false 4 4).wellFormed = false := by decide
theorem test_wf_unmapped_access_names_no_register : (Instr.unmappedAccess false 0).wellFormed = false := by decide +kernel
theorem test_wf_unmapped_access_lies_in_the_bar : (Instr.unmappedAccess false 0x4000000).wellFormed = false := by decide +kernel
theorem test_wf_low_word_names_a_pair : (Instr.lowWordRead 0).wellFormed = false := by decide +kernel
theorem test_wf_read_clear_names_a_register : (Instr.readClear 2 0).wellFormed = false := by decide +kernel
theorem test_wf_shed_read_ends_in_the_window : (Instr.shedWindowRead 0x3FFFFFF 2).wellFormed = false := by decide
theorem test_wf_shed_write_ends_in_the_window : (Instr.shedWindowWrite 0x4000000 [0]).wellFormed = false := by decide
theorem test_wf_ballast_write_is_below_the_rtc : (Instr.ballastWrite 0x200158 0).wellFormed = false := by decide
theorem test_wf_ballast_write_is_aligned : (Instr.ballastWrite 0x200102 0).wellFormed = false := by decide
theorem test_wf_repeat_body_is_at_most_256 : (Instr.repeatBody 0 (.imm 1) 257).wellFormed = false := by decide
theorem test_wf_repeat_count_is_at_most_1024 : (Instr.repeatBody 0 (.imm 1025) 1).wellFormed = false := by decide
theorem test_wf_load_sizes : (Instr.ld 0 (.g 0) (.at_ 0) 3 false none 0).wellFormed = false := by decide
theorem test_wf_load_stall : (Instr.ld 0 (.g 0) (.at_ 0) 4 false none 41).wellFormed = false := by decide
theorem test_wf_store_sizes : (Instr.st 0 0 (.at_ 0) 4 (some (.store 1 (.at_ 8) 8)) 0).wellFormed = false := by decide
theorem test_wf_accumulator_load_size : (Instr.lda 0 0 (.at_ 0) ⟨6, 0⟩).wellFormed = false := by decide
theorem test_wf_body_of_256_is_a_command : (Instr.repeatBody 0 (.imm 1024) 256).wellFormed = true := by decide

/-! Statements about the register map and the Shed window. -/

theorem witness_UnsupportedAccessHasNoEffect : State.reset.runs ∧ ¬((4 : Nat) = 4 ∧ 2 % 4 = 0) ∧ ¬((8 : Nat) = 4 ∧ 8 % 4 = 0) := by
  unfold State.runs; decide +kernel

theorem witness_UnmappedAccessLatchesFirstAddress :
    State.reset.runs ∧ 0x3FFFFFC < 0x4000000 ∧ regRow? 0x3FFFFFC = none ∧ State.reset.rd R.HB_ERR_STATUS_UNMAPPED = 0 ∧
      (st [(R.HB_ERR_STATUS_UNMAPPED, 1)]).runs ∧ (st [(R.HB_ERR_STATUS_UNMAPPED, 1)]).rd R.HB_ERR_STATUS_UNMAPPED = 1 := by
  unfold State.runs; decide +kernel

/-- Quay 0 (domain 1) is off. -/
theorem witness_OffDomainAccessSetsLockError :
    (st [(R.RS_PWR_STATUS_ON, 0x3FFFFFD)]).runs ∧ (st [(R.RS_PWR_STATUS_ON, 0x3FFFFFD)]).powered (domainOf 0x400030) = false ∧
      0x400030 % 4 = 0 ∧ (regRow? 0x400030).isSome = true := by unfold State.runs; decide +kernel

/-- The first and the last pair of the map. -/
theorem witness_LowWordReadLatchesHighWords :
    State.reset.runs ∧ (pairRow? 8).isSome = true ∧ State.reset.powered (domainOf 8) = true ∧ (pairRow? 1048592).isSome = true ∧
      State.reset.powered (domainOf 1048592) = true := by unfold State.runs; decide +kernel

theorem witness_ReadClearKeepsConcurrentSets :
    State.reset.runs ∧ ((regRow? 0x1004).map (fun r => r.fields.any (fun f => f.acc == .rc))) = some true ∧
      State.reset.powered (domainOf 0x1004) = true := by unfold State.runs; decide +kernel

/-- A register with RW fields, and one with W1C bits. -/
theorem witness_PlainRegisterWriteFollowsAccessCodes :
    (∀ addr ∈ [6148, 28], State.reset.takesWrites (domainOf addr) ∧ addr % 4 = 0 ∧ (regRow? addr).isSome = true ∧ isBallast addr = false ∧
      ((regRow? addr).map (fun r => effectRows.contains r.name)) = some false) ∧ (State.reset.link 8).retraining = false ∧
    ((regRow? 28).map (fun r => r.fields.any (fun f => f.acc == .w1c && f.width == 1))) = some true ∧
    (st [(R.HB_CLK_STATUS_CLK_FAULT, 1)]).rd R.HB_CLK_STATUS_CLK_FAULT = 1 ∧
    (let s : State := { ready with links := [(8, { retraining := true })] }
     s.takesWrites (domainOf 0x400030) ∧ (s.link 8).retraining = true ∧
       ((regRow? 0x400030).map (fun r => crossesQlink r 0x400030 && !effectRows.contains r.name)) = some true) ∧
    (ready.link 8).retraining = false ∧ ready.takesWrites (domainOf 0x400008) := by unfold State.takesWrites; decide +kernel

/-- A read across 4 KiB, one up to the end of the Shed, and one of a word that fails. -/
theorem witness_ShedWindowReadReturnsBytes :
    State.reset.runs ∧ crosses4K 0xFFE 4 = true ∧ crosses4K 0x3FFFFFC 4 = false ∧ State.reset.shedFails 0x3FFFFFC 4 = false ∧
      0x3FFFFFC + 4 ≤ 0x4000000 ∧ ({ State.reset with shedBad := [(0, true)] } : State).runs ∧
      ({ State.reset with shedBad := [(0, true)] } : State).shedFails 0 1 = true ∧ crosses4K 0 1 = false := by
  unfold State.runs; decide +kernel

/-- A whole word at the end of the Shed, and one byte of a word that fails. -/
theorem witness_ShedWindowWriteStoresBytes :
    State.reset.runs ∧ 0x3FFFFFC + [(1 : Byte), 2, 3, 4].length ≤ 0x4000000 ∧ crosses4K 0x3FFFFFC 4 = false ∧
      ({ State.reset with shedBad := [(0, true)] } : State).runs ∧ crosses4K 1 1 = false ∧
      Tab.get false ({ State.reset with shedBad := [(0, true)] } : State).shedBad (1 / 4) = true := by unfold State.runs; decide +kernel

/-! Statements about the platform: links, clocks, the Ballast, device time, the manifest, the tide. -/

theorem witness_LinkMismatchRetrainAndReturn :
    State.reset.runs ∧ ({ State.reset with links := [(9, { flit := 3, fails := 8 })] } : State).runs ∧
      8 ≤ (({ State.reset with links := [(9, { flit := 3, fails := 8 })] } : State).link 9).fails ∧
      (({ State.reset with links := [(9, { flit := 3, fails := 8 })] } : State).link 9).retraining = false ∧
      (({ State.reset with links := [(9, { retraining := true })] } : State).link 9).retraining = true ∧
      (({ State.reset with links := [(9, { retraining := true })] } : State).link 9).held = [] ∧
      (let s : State := { ready with links := [(8, { retraining := true, held := [(1, .quayResumeWrite 0)] })] }
       s.runs ∧ (s.link 8).retraining = true ∧ (s.link 8).held = [(1, .quayResumeWrite 0)] ∧
         (match exec (.linkRetrainDone 8) (s.setLink 8 { s.link 8 with held := [] }) with | .next _ => true | _ => false) = true) := by
  unfold State.runs; decide +kernel

theorem witness_PllLossAndRegain : State.reset.runs ∧ bit State.reset.pllLost 6 = false ∧
    bit ({ State.reset with pllLost := 64 } : State).pllLost 6 = true ∧ State.reset.signQ.length < 255 ∧ State.reset.evtLost = (0, 0, 0) := by
  unfold State.runs; decide +kernel

/-- A queue of 8, and one entry that waits. -/
theorem witness_BallastQueueIsFirstInFirstOut :
    State.reset.runs ∧ isBallast 0x200154 = true ∧ 0x200154 < 0x200158 ∧ State.reset.ballast.length < 8 ∧
      8 ≤ ({ State.reset with ballast := List.replicate 8 (0x200100, 0) } : State).ballast.length ∧
      ({ State.reset with ballast := [(0x200100, 1)] } : State).ballast = (0x200100, 1) :: [] ∧ 0x200100 ≠ 0x20015C ∧
      (regRow? 0x200100).isSome = true := by unfold State.runs; decide +kernel

theorem witness_DeviceTimeIsSetUp :
    State.reset.runs ∧ (st [(R.HB_TIME_STATUS_STEP_PENDING, 1)]).runs ∧
      (st [(R.HB_TIME_STATUS_STEP_PENDING, 1)]).rd R.HB_TIME_STATUS_STEP_PENDING = 1 ∧
      State.reset.rd R.HB_TIME_STATUS_STEP_PENDING ≠ 1 ∧ State.reset.rd R.HB_TIME_STATUS_VALID ≠ 1 ∧
      (st [(R.LG_STATUS_READY, 1)]).rd R.LG_STATUS_READY = 1 := by unfold State.runs; decide +kernel

/-- An idle manifest unit, one that checks, one whose image waits; and an image of zeros under check. -/
theorem witness_ManifestIsCheckedThenWaits :
    State.reset.runs ∧ State.reset.rd R.HB_MF_STATUS_STATE ≠ 1 ∧ State.reset.rd R.HB_MF_STATUS_STATE ≠ 2 ∧
      (st [(R.HB_MF_STATUS_STATE, 2)]).rd R.HB_MF_STATUS_STATE = 2 ∧
      ({ State.reset with mfCheck := some (0, 136) } : State).mfCheck = some (0, 136) ∧
      ({ State.reset with mfCheck := some (0, 136) } : State).shedNat 0 4 ≠ 0x464D5244 := by unfold State.runs; decide +kernel

/-- Nothing to land, a step and a rate correction due at the first boundary. -/
theorem witness_TideBoundaryMovesTimeAndLands :
    State.reset.runs ∧ State.reset.landing = [] ∧ nextBoundary State.reset.now = 131072 ∧
      ({ State.reset with landing := [⟨131072, .timeStep 262144⟩] } : State).landing = [⟨nextBoundary 0, .timeStep 262144⟩] ∧
      ({ State.reset with landing := [⟨131072, .rate 858993⟩] } : State).landing = [⟨nextBoundary 0, .rate 858993⟩] := by
  unfold State.runs; decide +kernel

/-! Statements about the mailbox. -/

theorem witness_MailboxQueriesAnswer :
    (mail 0x01 7 [0x0101] State.reset).mailOffers 0x01 7 [0x0101] ∧ (mail 0x12 7 [0] State.reset).mailOffers 0x12 7 [0] ∧
      (mail 0x12 7 [0] State.reset).mailboxVer ≠ 0 ∧ (mail 0x20 7 [] State.reset).mailOffers 0x20 7 [] ∧
      (mail 0x20 7 [] State.reset).mailboxVer ≠ 0 := by unfold State.mailOffers State.runs; decide +kernel

/-- An open of a custody point with five parameter words; a close of a handle that is stale, and of one that is open. -/
theorem witness_BerthOpenAndCloseAreAccepted :
    let s := mail 0x10 7 [7, 0, 0, 0, 0, 0] State.reset
    let u := mail 0x11 8 [0x70010000] State.reset
    let v := withBerth 0 7 [] u
    (s.mailboxVer ≠ 0 ∧ s.mailOffers 0x10 7 [7, 0, 0, 0, 0, 0] ∧ blockExpert 7 [0, 0, 0, 0, 0] = false ∧ blockLen 7 false ≤ 5 ∧
      s.rd R.HB_MF_STATUS_STATE ≠ 1 ∧ s.rd R.HB_MF_STATUS_STATE ≠ 2 ∧ s.freeIndex = some 0) ∧
    (u.mailboxVer ≠ 0 ∧ u.mailOffers 0x11 8 [0x70010000] ∧ u.judgeHandle 0x70010000 = .stale) ∧
    (v.mailboxVer ≠ 0 ∧ v.mailOffers 0x11 8 [0x70010000] ∧ v.judgeHandle 0x70010000 = .open ∧
      ∀ e ∈ v.willBe, 0x70010000 ∉ e.2.inputs) := by unfold State.mailOffers State.runs; decide +kernel

theorem witness_MailboxSwapsAreAccepted :
    let s := mail 0x30 1 [256, 0, 0] State.reset
    let u := (mail 0x31 1 [0, 0, 0, 64] State.reset).wr R.WH_STATUS_READY 1 |>.wr R.WH_USABLE_LO_BYTES_LO 4096
    let v := mail 0x32 1 [3, 0, 64] State.reset
    let w := mail 0x50 1 (List.replicate 32 0) State.reset
    (s.mailboxVer ≠ 0 ∧ s.mailOffers 0x30 1 [256, 0, 0]) ∧
    (u.mailboxVer ≠ 0 ∧ u.mailOffers 0x31 1 [0, 0, 0, 64] ∧ u.rd R.WH_STATUS_READY = 1 ∧ 64 ≤ u.whUsable ∧ u.swapBusy = false) ∧
    (v.mailboxVer ≠ 0 ∧ v.mailOffers 0x32 1 [3, 0, 64] ∧ v.shedFails 0 64 = false ∧ imageSize (v.shedBytes 0 64) ≤ 32768 ∧
      imageSize (v.progBank 3 (v.rd (R.PI_CL_STATUS_ACT_BANK 3))) ≤ 32768 ∧ v.entriesOk 3 (v.shedBytes 0 64) = true ∧ v.clusters = [] ∧
      (∀ k, k < 4 → v.rd (R.PI_CL_STATUS_DUAL k) ≠ 1) ∧ v.rd R.CU_STATE_STATE ≠ 3) ∧
    (w.mailboxVer ≠ 0 ∧ w.mailOffers 0x50 1 (List.replicate 32 0)) := by unfold State.mailOffers State.runs; decide +kernel

theorem witness_LedgerReadAndBadCommandsAreAnswered :
    let s := mail 0x40 1 [0, 63] State.reset
    let u := mail 0x40 1 [3] State.reset
    let v := mail 0x77 1 [] State.reset
    let w : State := { v with shedBad := [(127, true)] }
    let x : State := { v with shedBad := [(0, true)] }
    (s.mailOffers 0x40 1 [0, 63] ∧ s.mailboxVer ≠ 0) ∧ (u.mailOffers 0x40 1 [3] ∧ u.mailboxVer ≠ 0) ∧
    (v.runs ∧ v.mailReady = true ∧ v.shedFails v.mailEntry 512 = false ∧ v.shedNat v.mailEntry 2 = 1 ∧ v.shedNat (v.mailEntry + 2) 1 = 0x77) ∧
    (w.runs ∧ w.mailReady = true ∧ w.shedFails w.mailEntry 512 = true ∧ w.shedFails w.mailEntry 4 = false) ∧
    (x.runs ∧ x.mailReady = true ∧ x.shedFails x.mailEntry 4 = true) := by unfold State.mailOffers State.runs; decide +kernel

/-! Statements about boot, the quays, the receive pipeline. -/

theorem witness_BootAndTrimLoad :
    State.reset.runs ∧ (st [(R.MB_BOOT_STATUS_STATE, 3)]).rd R.MB_BOOT_STATUS_STATE ∈ [1, 2, 3] ∧
      State.reset.rd R.MB_BOOT_STATUS_STATE ∉ [1, 2, 3] ∧ (st [(R.MB_BOOT_STATUS_STATE, 1)]).rd R.MB_BOOT_STATUS_STATE = 1 ∧
      (∀ k ∈ dieDomains .sounding, k ∉ State.reset.power.image) ∧ (∃ k ∈ dieDomains .sounding, k ∈ [21]) ∧
      (∀ k ∈ dieDomains .sounding, k ∉ State.reset.power.failed) ∧
      (st [(R.CL_STATUS_LOADING, 1)]).rd R.CL_STATUS_LOADING = 1 ∧ (st [(R.CL_STATUS_LOADING, 1)]).power.image = [] := by
  unfold State.runs; decide +kernel

theorem witness_QuayWritesWaitToLand :
    ready.takesWrites (quayDomain 7) ∧ ready.rd (R.QY_PLAN_STATUS_STATE 7) ≠ 1 ∧
      (st [(R.QY_PLAN_STATUS_STATE 7, 1)]).rd (R.QY_PLAN_STATUS_STATE 7) = 1 ∧ (ready.quay 7).faults = 0 ∧
      (armed 7 ready).takesWrites (quayDomain 7) ∧ (armed 7 ready).rd (R.QY_STATUS_ARMED 7) = 1 ∧
      ready.rd (R.QY_STATUS_ARMED 7) ≠ 1 ∧ bits (2499 : Word).toNat 0 18 < 2500 ∧ 2500 ≤ bits (2500 : Word).toNat 0 18 ∧
      (st [(R.QY_LGT_CFG_EN 7, 1)]).rd (R.QY_LGT_CFG_EN 7) = 1 := by unfold State.takesWrites; decide +kernel

/-- Quay 7 running with one launch in flight, on a plan of one slot; the stopped quay besides. -/
theorem witness_LaunchesFollowTheGrid :
    let s : State := { armed 7 ready with
      quays := [(7, { run := true, grid := true, flights := [⟨0, 0, ready.activePlan 7, false, 900, 0⟩], lgtEn := true, lgtWidth := 2, lgtNext := 1000 })] }
    let u := s.wr (R.QY_STATUS_STOPPED 7) 1
    let w : State := { (armed 7 ready).wr (R.QY_PLAN_p_CFG_VALID 7 0) 1 with landing := [⟨131072, .quayRun 7 true⟩] }
    (s.runs ∧ (s.quay 7).grid = true ∧ (0 : Nat) < (s.activePlan 7).slots ∧ (s.activePlan 7).launchTime (s.epoch 7) 0 0 < nextBoundary s.now ∧
      s.rd (R.QY_STATUS_STOPPED 7) ≠ 1 ∧ (0, 0) ∉ (s.quay 7).leads) ∧
    (u.runs ∧ u.rd (R.QY_STATUS_STOPPED 7) = 1) ∧
    ((s.quay 7).flights.find? (fun f => f.slot == 0) = some ⟨0, 0, ready.activePlan 7, false, 900, 0⟩ ∧ 900 < nextBoundary s.now ∧
      (s.activePlan 7).launchTime (s.epoch 7) 0 0 - 4 * s.rd (R.QY_LGA_CFG_LEAD 7) < nextBoundary s.now) ∧
    (w.runs ∧ (w.quay 7).grid = false ∧ w.startsAhead 7 = true) ∧
    ((s.quay 7).lgtEn = true ∧ (s.quay 7).lgtNext < nextBoundary s.now ∧ 2 ≤ (s.quay 7).lgtWidth ∧ s.rd (R.QY_STATUS_ARMED 7) = 1) := by
  unfold State.runs; decide +kernel

theorem witness_GpioLinesAndFaults :
    let s := st [(R.QY_GPIO_CFG_FUNC_i 7 3, 2), (R.QY_CTL_FAULT_STOP 7, 1), (R.QY_STATUS_RUNNING 7, 1), (R.QY_GPIO_CFG_AT_TIDE_i 7 0, 1)]
    let u : State := { s with quays := [(7, { faults := 8 })] }
    (s.runs ∧ s.rd (R.QY_GPIO_CFG_FUNC_i 7 3) = 2 ∧ bit (s.quay 7).faults 3 = false ∧ s.rd (R.QY_CTL_FAULT_STOP 7) = 1 ∧
      s.rd (R.QY_STATUS_RUNNING 7) = 1) ∧
    (u.runs ∧ u.rd (R.QY_GPIO_CFG_FUNC_i 7 3) = 2 ∧ bit (u.quay 7).faults 3 = true) ∧
    (s.takesWrites (quayDomain 7) ∧ s.rd (R.QY_GPIO_CFG_AT_TIDE_i 7 0) = 1 ∧ s.rd (R.QY_GPIO_CFG_AT_TIDE_i 7 1) ≠ 1 ∧
      ∀ k, k < 4 → ready.rd (R.QY_GPIO_CFG_AT_TIDE_i 7 k) ≠ 1) := by unfold State.takesWrites State.runs; decide +kernel

theorem witness_SpiCommandsRunInOrder :
    let c : SpiCmd := ⟨0, 0, true, false, 5⟩
    let s : State := { ready with quays := [(7, { spiQ := [c] })] }
    let u : State := { ready with quays := [(7, { spiQ := List.replicate 16 c, spiFrame := some c })] }
    (s.takesWrites (quayDomain 7) ∧ (s.quay 7).spiQ.length < 16 ∧ u.takesWrites (quayDomain 7) ∧ 16 ≤ (u.quay 7).spiQ.length) ∧
    (s.runs ∧ (s.quay 7).spiQ = c :: [] ∧ (s.quay 7).spiFrame = none ∧ c.atTide ≠ true ∧ (s.quay 7).spiRx.length < 16) ∧
    (u.runs ∧ (u.quay 7).spiFrame = some c ∧ (u.quay 7).spiFrame.isSome = true) ∧ s.powered (quayDomain 7) = true := by
  unfold State.takesWrites State.runs; decide +kernel

theorem witness_SegmentsCloseAndReplay :
    let s : State := { st [(R.RX_NOISE_LEN_LEN 7, 1)] with quays := [(7, { grid := true })], rx := [(7, { noiseCount := 256 })] }
    let u : State := { s with replayQ := [{ quay := 7, seg := (0, 0) }] }
    let v : State := { s with replaying := some { quay := 7, seg := (0, 0) } }
    let w : State := { s with replayQ := List.replicate 16 { quay := 7, seg := (0, 0) } }
    (s.runs ∧ s.nextSeg 7 = some (0, 0) ∧ s.segLast 7 (0, 0) < nextBoundary s.now ∧ (s.rxOf 7).tails = [] ∧ s.replayQ.length < 16 ∧
      w.runs ∧ w.nextSeg 7 = some (0, 0) ∧ 16 ≤ w.replayQ.length) ∧
    (u.replaying = none ∧ u.replayQ = { quay := 7, seg := (0, 0) } :: []) ∧ (v.runs ∧ v.replaying = some { quay := 7, seg := (0, 0) } ∧ 7 < 8) ∧
    (s.rd (R.RX_NOISE_LEN_LEN 7) ≠ 0 ∧ 256 ≤ (s.rxOf 7).noiseCount) := by unfold State.runs; decide +kernel

/-! Statements about the DAS, flow and ledger parts. -/

/-- A DAS zone of one berth point at index 5 whose first tile is full, with the Warehouse ready. -/
theorem witness_CornerTurnAndSluiceRows :
    let s : State := { withBerth 5 1 [0, 0, 1, 0, 0, 0, 0, 0, 16] ((ready.wr R.WH_STATUS_READY 1).wr R.WH_USABLE_LO_BYTES_LO 0x80000000) with
      das := [(5, { tin := 16, nextJ := [(0, 16)] })] }
    let v : State := { withBerth 5 1 [0, 0, 1, 2048, 0, 0, 0, 0, 16] ready with das := [(5, { tin := 16, flushed := [(0, 1)] })] }
    (s.runs ∧ (s.berth 5).isOpen = true ∧ 0 < groupsOf (s.berth 5).channels ∧ (s.dasOf 5).tileFull (s.berth 5).channels 0 0 = true ∧
      Tab.get 0 (s.dasOf 5).flushed 0 = 0 ∧ s.rd R.WH_STATUS_READY = 1 ∧
      ((s.dasOf 5).tiles + 32 * (s.berth 5).width * (0 * tileRingLen 16 + 0 % tileRingLen 16)) % 64 = 0 ∧
      (s.dasOf 5).tiles + 32 * (s.berth 5).width ≤ s.whUsable) ∧
    ((s.berth 5).kind = 1 ∧ (s.dasOf 5).ring % 64 = 0 ∧ rowBytes 1 0 ≤ s.whUsable) ∧
    (v.runs ∧ (v.berth 5).isOpen = true ∧ (v.berth 5).kind = 1 ∧ v.rowReady 5 0 (v.rowAt 5 0) = true) ∧
    (ready.rd R.RX_SL_STATUS_SYNC_PENDING ≠ 1 ∧ (st [(R.RX_SL_STATUS_SYNC_PENDING, 1)]).rd R.RX_SL_STATUS_SYNC_PENDING = 1) := by
  unfold State.runs; decide +kernel

/-- A flow zone of 256-tide blocks; the same with a reset inside the block. -/
theorem witness_FlowBlocksBecomeRecords :
    let s : State := { withBerth 5 2 [0, 0, 0x100] ready with flow := [(5, {})], das := [(5, { inc := 2 ^ 20, tin := 1 })] }
    let u : State := { withBerth 5 2 [0, 0, 0x100] ready with flow := [(5, { cuts := [1] })], das := [(5, { inc := 2 ^ 40, tin := 1 })] }
    (s.runs ∧ (s.berth 5).isOpen = true ∧ (s.berth 5).kind = 2 ∧ (s.berth 5).slot < 256 ∧ (s.flowOf 5).cuts = [] ∧
      blockStart (s.flowOf 5) (s.dasOf 5) (flowParams (s.berth 5).params).lb 1 / 2 ^ 38 < nextBoundary s.now ∧
      (s.setFlow 5 (s.blockSetup (s.flowOf 5) 0).1).coilsReady 5 0 (flowParams (s.berth 5).params).lb = true) ∧
    (u.runs ∧ (u.berth 5).isOpen = true ∧ (u.flowOf 5).cuts = 1 :: [] ∧
      blockStart (u.flowOf 5) (u.dasOf 5) (flowParams (u.berth 5).params).lb 0 < 1 * 2 ^ 38 ∧
      1 * 2 ^ 38 < blockStart (u.flowOf 5) (u.dasOf 5) (flowParams (u.berth 5).params).lb 1 ∧
      (u.setFlow 5 (u.blockSetup (u.flowOf 5) 0).1).coilsReady 5 0 (flowParams (u.berth 5).params).lb = true) := by unfold State.runs; decide +kernel

/-- The ledger at the end of its first second, with a commit at work, a record due, and a record to sign. -/
theorem witness_LedgerClosesCommitsAndSigns :
    let s : State := { st [(R.LG_STATUS_READY, 1), (R.HB_TIME_STATUS_VALID, 1)] with now := 999999990 }
    let u : State := { ready with ledger := { commit := some ⟨3, [1]⟩, due := [⟨0, []⟩], key := 1 }, signQ := [{ type := 2 }] }
    let v : State := { ready with ledger := { due := [⟨1, []⟩] } }
    (s.runs ∧ s.rd R.LG_STATUS_READY = 1 ∧ s.rd R.HB_TIME_STATUS_VALID = 1 ∧ (s.ledger.instant + 1) * 1000000000 < nextBoundary s.now ∧
      s.ledger.points = [] ∧ s.ledger.nextCommit < 1) ∧
    (u.runs ∧ u.ledger.commit = some ⟨3, [1]⟩ ∧ u.ledger.due = ⟨0, []⟩ :: [] ∧
      0 ≤ u.rd R.LG_GEN_LO_GEN_LO + 2 ^ 32 * u.rd R.LG_GEN_HI_GEN_HI ∧ u.signQ.length < 256 ∧ u.signQ = { type := 2 } :: [] ∧
      u.ledger.key ≠ 0 ∧ u.ledger.handover = none) ∧
    (v.runs ∧ v.ledger.due = ⟨1, []⟩ :: [] ∧ v.rd R.LG_GEN_LO_GEN_LO + 2 ^ 32 * v.rd R.LG_GEN_HI_GEN_HI < 1) := by
  unfold State.runs; decide +kernel

/-- Two versions in common and none; a NACK; Modbus requests of another function, beyond the map, and of one register; a handover. -/
theorem witness_LedgerStreamsAndHandover :
    let s := st [(R.LG_CZ_CFG_EN, 1), (R.LG_STATUS_CZ_UP, 1), (R.NT_n_CFG_EN 1, 1)]
    let u : State := { ready with ledger := { handover := some ⟨1, 2, 7, 0⟩ } }
    (s.runs ∧ s.rd R.LG_CZ_CFG_EN = 1 ∧ Nat.min (s.rd (R.HB_IF_i_MAX 2)) 15 ≠ 0 ∧
      s.rd (R.HB_IF_i_MIN 2) ≤ Nat.min (s.rd (R.HB_IF_i_MAX 2)) 15 ∧ 0 ≤ Nat.min (s.rd (R.HB_IF_i_MAX 2)) 15 ∧
      Nat.min (s.rd (R.HB_IF_i_MAX 2)) 0 = 0) ∧ s.rd R.LG_STATUS_CZ_UP = 1 ∧
    (s.rd (R.NT_n_CFG_EN 1) = 1 ∧ s.powered 23 = true ∧ (s.modbusReg 5).isSome = true ∧ s.modbusReg 65535 = none) ∧
    (u.runs ∧ u.ledger.handover = some ⟨1, 2, 7, 0⟩ ∧ 0 + 100000000 < nextBoundary ({ u with now := 100000000 } : State).now) := by
  unfold State.runs; decide +kernel

/-! Statements about the tally lanes. -/

/-- Lane 127 in class H within its hold-off, in mode 1 within the dead time and after it, and in mode 2 with a start. -/
theorem witness_TallyEdgesAreFiled :
    let f := fun (l : List (Fld × Nat)) => st ((R.TL_BANK_STATUS_CAL_VALID 7, 1) :: l)
    let s : State := { f [(ln R.TL_LANE_i_CFG_CLASS 127, 1), (ln R.TL_LANE_i_HOLDOFF_HOLDOFF 127, 1)] with lanes := [(127, { acc := some 0 })] }
    let u : State := { f [(ln R.TL_LANE_i_CFG_MODE 127, 1), (ln R.TL_LANE_i_CFG_FIFO_EN 127, 1)] with lanes := [(127, { conv := some 0 })] }
    let v : State := { f [(ln R.TL_LANE_i_CFG_MODE 127, 2), (ln R.TL_LANE_i_CFG_MAXSTOP 127, 1), (ln R.TL_LANE_i_TMO_TMO 127, 100)] with
      lanes := [(127, { armed := true, conv := some 0 })] }
    (ready.runs ∧ ready.rd (R.TL_BANK_STATUS_CAL_VALID 7) ≠ 1) ∧
    (s.runs ∧ s.rd (R.TL_BANK_STATUS_CAL_VALID 7) = 1 ∧ 255999 / 256 < nextBoundary s.now ∧ (s.lane 127).undecided = [] ∧
      s.rd (ln R.TL_LANE_i_CFG_MODE 127) < 2 ∧ s.rd (ln R.TL_LANE_i_CFG_CLASS 127) = 1 ∧ (s.lane 127).acc = some 0 ∧
      255999 < 0 + 256000 * s.rd (ln R.TL_LANE_i_HOLDOFF_HOLDOFF 127) ∧ ¬(256000 < 0 + 256000 * s.rd (ln R.TL_LANE_i_HOLDOFF_HOLDOFF 127))) ∧
    (u.runs ∧ u.rd (R.TL_BANK_STATUS_CAL_VALID 7) = 1 ∧ u.rd (ln R.TL_LANE_i_CFG_MODE 127) = 1 ∧ (u.lane 127).conv = some 0 ∧ 307 ≤ 0 + 307 ∧
      0 + 307 < 308 ∧ u.rd (ln R.TL_LANE_i_CFG_FIFO_EN 127) = 1 ∧ (Tab.get [] u.fifos 7).length < 1024 ∧ u.rd (ln R.TL_LANE_i_CFG_CLASS 127) ≠ 1 ∧
      1024 ≤ (Tab.get [] ({ u with fifos := [(7, List.replicate 1024 {})] } : State).fifos 7).length) ∧
    (v.runs ∧ v.rd (ln R.TL_LANE_i_CFG_MODE 127) = 2 ∧ v.rd (R.TL_BANK_STATUS_CAL_VALID 7) = 1 ∧ 308 / 256 < nextBoundary v.now ∧
      (v.lane 127).undecided = [] ∧ v.rd (ln R.TL_LANE_i_CFG_CLASS 127) ≠ 1 ∧ (v.lane 127).armed = true ∧ 308 ≤ v.timeoutEdge 127 ∧
      (v.lane 127).conv = some 0 ∧ (v.lane 127).raw + 307 < 308 ∧ (v.lane 127).stops.length < v.rd (ln R.TL_LANE_i_CFG_MAXSTOP 127)) := by
  unfold State.runs; decide +kernel

/-- A start from port 0 on lane 127, the same lane dumping its histogram, a measurement that times out, and FIFOs with one entry and none. -/
theorem witness_TallyStartsTimeoutsAndFifo :
    let b := st [(R.TL_BANK_STATUS_CAL_VALID 7, 1), (ln R.TL_LANE_i_CFG_MODE 127, 2), (ln R.TL_LANE_i_CFG_START_SEL 127, 2)]
    let s : State := { b with ports := [(0, { group := [127], shot := 50 })] }
    let u : State := { s with lanes := [(127, { ending := some (0, true), dumping := some 0 })] }
    let v : State := { b with lanes := [(127, { armed := true })], fifos := [(7, [{ time := 9 }])] }
    (s.runs ∧ s.startInstant 127 = 50 ∧ s.rd (R.TL_BANK_STATUS_CAL_VALID 7) = 1 ∧ s.rd (ln R.TL_LANE_i_CFG_MODE 127) = 2 ∧
      (s.lane 127).inst < 50 ∧ 60 / 256 < nextBoundary s.now ∧ (s.lane 127).ending = none ∧ (s.lane 127).dumping = none) ∧
    (u.runs ∧ u.startInstant 127 = 50 ∧ (u.lane 127).inst < 50 ∧ (u.lane 127).ending.isSome = true ∧ (u.lane 127).armed = false) ∧
    (v.runs ∧ (v.lane 127).armed = true ∧ v.timeoutEdge 127 / 256 < nextBoundary v.now ∧ v.powered (bankDomain 7) = true ∧
      Tab.get [] v.fifos 7 = { time := 9 } :: [] ∧ Tab.get [] v.fifos 6 = []) := by unfold State.runs; decide +kernel

theorem witness_TallyResultsAndLaneWrites :
    let s : State := { st [(ln R.TL_LANE_i_CFG_MODE 127, 3), (R.TL_BANK_STATUS_CAL_VALID 7, 1), (ln R.TL_LANE_i_FGATE_FGATE 127, 1)] with
      now := 300000, lanes := [(127, { sets := [{ n := 1 }] })], raman := [(9, { ready := [{ start := 5 }] })] }
    let u : State := { ready with lanes := [(127, { ending := some (131072, true), dumping := some 0 })] }
    let v := st [(ln R.TL_LANE_i_CFG_OWNER 127, 1)]
    (s.runs ∧ (s.lane 127).sets = { n := 1 } :: [] ∧ s.rd (ln R.TL_LANE_i_CFG_MODE 127) = 3 ∧ s.rd (R.TL_BANK_STATUS_CAL_VALID 7) = 1 ∧
      s.gateEnd 127 ≤ s.now ∧ (s.lane 127).gate.edges < 2 ∧ (Tab.get {} s.raman 9).ready = { start := 5 } :: []) ∧
    (u.runs ∧ (u.lane 127).ending = some (131072, true) ∧ (u.lane 127).dumping = some 0 ∧ 0 + 16384 < nextBoundary u.now) ∧
    (v.takesWrites (bankDomain 7) ∧ v.rd (ln R.TL_LANE_i_CFG_OWNER 127) ≠ 0 ∧ ready.takesWrites (bankDomain 7) ∧
      ready.rd (ln R.TL_LANE_i_CFG_OWNER 127) = 0) := by unfold State.takesWrites State.runs; decide +kernel

/-! Statements about the emitter ports and the Bybovi ring. -/

/-- Port 7 running and idle, the same at the end of its tide, a port at a row slot, running and stopped, and one at its diagnostic slot. -/
theorem witness_ScanFramesAndShots :
    let s := st [(R.BC_m_STATUS_RUNNING 7, 1), (R.BC_m_STEP_ROWS 7, 1), (R.BC_m_SLOT_SLOT 7, 100)]
    let u : State := { s with ports := [(7, { next := 256 * 131000 })] }
    let v : State := { s with ports := [(7, { rows := [0] })] }
    let w : State := { v.wr (R.BC_m_STATUS_STOPPED 7) 1 with ports := [(7, { rows := [0], diag := true })] }
    let x : State := { w with ports := [(7, { diag := true })] }
    (s.runs ∧ maskRows (s.rd (R.BC_m_STEP_ROWS 7)) = [0] ∧ s.rd (R.BC_m_STATUS_RUNNING 7) = 1 ∧ (s.port 7).rows = [] ∧ (s.port 7).diag = false ∧
      (s.port 7).next + 640 * (100 * 1) < 256 * nextBoundary s.now ∧ 256 * nextBoundary u.now ≤ (u.port 7).next + 640 * (100 * 1)) ∧
    (v.runs ∧ (v.port 7).rows = 0 :: [] ∧ (v.port 7).slotAt / 256 < nextBoundary v.now ∧ w.rd (R.BC_m_STATUS_STOPPED 7) = 1 ∧
      shotFires 32 0 = true ∧ shotFires 4 0 = false) ∧
    (x.runs ∧ (x.port 7).rows = [] ∧ (x.port 7).diag = true ∧ (x.port 7).slotAt / 256 < nextBoundary x.now ∧
      x.rd (R.BC_m_STATUS_STOPPED 7) = 1) := by unfold State.runs; decide +kernel

/-- Port 7 armed and disarmed, a check that runs on it, and a ranging berth on port 0 whose oldest frame has no lanes left to dump. -/
theorem witness_BeaconChecksAndRecords :
    let s := armed 7 ready
    let u := st [(R.BC_m_STATUS_CHECKING 7, 1)]
    let v : State := { withBerth 5 4 [] ready with ports := [(0, { berth := 5, ended := [{ num := 3 }] })] }
    (s.takesWrites 22 ∧ s.rd (R.BC_m_STATUS_ARMED 7) = 1 ∧ s.rd (R.BC_m_STATUS_HEAD_ALARM 7) ≠ 1 ∧ s.rd (R.BC_m_STATUS_HEAD_LOST 7) ≠ 1 ∧
      ready.takesWrites 22 ∧ ready.rd (R.BC_m_STATUS_ARMED 7) ≠ 1) ∧
    (u.runs ∧ u.rd (R.BC_m_STATUS_CHECKING 7) = 1) ∧
    (v.runs ∧ (v.berth 5).isOpen = true ∧ (v.berth 5).kind = 4 ∧ (rangeParams (v.berth 5).params).port = 0 ∧
      (v.port 0).ended = { num := 3 } :: [] ∧ (v.port 0).berth = 5 ∧ ((maskRows 0).flatMap (fun r => (v.portPlan 0).groups.getD r [])) = []) := by
  unfold State.takesWrites State.runs; decide +kernel

/-- A ring with a frame due, one out that returns its first share, a good share and a bad one, and a head with three misses. -/
theorem witness_ByboviRing :
    let s : State := { ready with byb := { run := true } }
    let u : State := { ready with byb := { flying := true } }
    let v : State := { ready with byb := { flying := true, got := 15, misses := [(15, 3)] } }
    (s.runs ∧ s.byb.run = true ∧ s.byb.next ≤ s.now ∧ s.byb.flying = false) ∧ (u.runs ∧ u.byb.flying = true ∧ u.byb.got < 16) ∧
    (shareCrc (2 ^ 38 + shareCrc (2 ^ 38)) = bits (2 ^ 38 + shareCrc (2 ^ 38)) 0 8 ∧ bits (2 ^ 38 + shareCrc (2 ^ 38)) 38 2 = 1 ∧
      shareCrc (2 ^ 38 + (255 - shareCrc (2 ^ 38))) ≠ bits (2 ^ 38 + (255 - shareCrc (2 ^ 38))) 0 8) ∧
    (v.runs ∧ v.byb.flying = true ∧ v.byb.got < 16 ∧ 3 ≤ Tab.get 0 v.byb.misses 15 ∧ Tab.get 0 v.byb.misses 14 < 3 ∧ v.takesWrites 22) := by
  unfold State.takesWrites State.runs; decide +kernel

/-! Statements about the Sounding die and the watches. -/

theorem witness_ConversionsMakeSamples :
    let s : State := { st [(R.SN_STATUS_CAL_VALID, 1), (R.SN_CH_c_CFG_EN 15, 1), (R.SN_CTL_MODE, 1)] with snd := { going := true } }
    let u : State := { ready with snd := { chans := [(15, { active := true })] } }
    let v : State := { ready with snd := { chans := [(15, { active := true, lead := true })] } }
    (s.runs ∧ s.powered 21 = true ∧ s.rd R.SN_STATUS_CAL_VALID = 1 ∧ s.rd (R.SN_CH_c_CFG_EN 15) = 1 ∧ (s.chan 15).active = false ∧
      s.rd R.SN_CTL_MODE = 1 ∧ s.snd.going = true) ∧ ready.rd R.SN_STATUS_CAL_VALID ≠ 1 ∧
    (u.runs ∧ u.powered 21 = true ∧ (u.chan 15).active = true ∧ (u.chan 15).started < 1 ∧ u.snd.restart = none ∧ (u.chan 15).lead = false) ∧
    (v.runs ∧ (v.chan 15).active = true ∧ (v.chan 15).lead = true ∧ v.snd.restart = none) := by unfold State.runs; decide +kernel

theorem witness_SoundingControlAndRotation :
    let s := st [(R.SN_CTL_MODE, 1)]
    let u := st [(R.SN_CTL_MODE, 2), (R.SN_CH_c_CFG_EN 15, 1), (R.SN_CH_c_CFG_OWNER 15, 1), (R.SN_STATUS_HOLDOVER, 1)]
    let v : State := { ready with snd := { step := 5 } }
    (s.takesWrites 21 ∧ s.rd R.SN_CTL_MODE = 1 ∧ s.rd R.SN_CTL_MSRC ≠ 3 ∧ s.rd (R.SN_CH_c_CFG_OWNER 15) = 0) ∧
    (u.takesWrites 21 ∧ u.rd R.SN_CTL_MODE = 2 ∧ u.rd (R.SN_CH_c_CFG_EN 15) = 1 ∧ u.rd (R.SN_CH_c_CFG_EN 0) ≠ 1 ∧
      u.rd (R.SN_CH_c_CFG_OWNER 15) ≠ 0) ∧
    (ready.rd R.SN_CTL_MODE ≠ 1 ∧ ready.rd R.SN_CTL_MODE ≠ 2 ∧ ready.runs ∧ ready.powered 21 = true ∧
      ready.rd R.SN_CTL_MSRC < 2 ∧ ready.rd R.SN_STATUS_HOLDOVER ≠ 1 ∧ u.rd R.SN_STATUS_HOLDOVER = 1 ∧ u.rd R.SN_CTL_MSRC < 2) ∧
    (v.runs ∧ v.powered 21 = true ∧ v.snd.step = 5 ∧ ready.snd.step = 0) := by unfold State.takesWrites State.runs; decide +kernel

/-- Watch 31 filling with one sample missing and with two, ready and forced, with a complete capture, and done. -/
theorem witness_WatchesFillTriggerAndCapture :
    let f := fun (state : Nat) (x : Watch) => ({ st [(R.WT_w_STATUS_STATE 31, state)] with watches := [(31, x)] } : State)
    let p : WatchSample := { value := 5, at_ := 1, tag := 0 }
    let c : Capture := { at_ := 0, posf := 0, flags := 0, level := 0, hyst := 0, first := 0 }
    (∀ pre ∈ [1, 2], (f 1 { handle := 1, pre, inbox := [p] }).runs ∧ ((f 1 { handle := 1, pre, inbox := [p] }).watch 31).inbox = p :: [] ∧
      ((f 1 { handle := 1, pre, inbox := [p] }).watch 31).cap = none ∧ (f 1 { handle := 1, pre, inbox := [p] }).rd (R.WT_w_STATUS_STATE 31) = 1) ∧
    ((f 2 { inbox := [p], force := true }).runs ∧ (f 2 { inbox := [p], force := true }).rd (R.WT_w_STATUS_STATE 31) = 2 ∧
      ((f 2 { inbox := [p], force := true }).watch 31).prev = none ∧ ((f 2 { inbox := [p], force := true }).watch 31).force = true) ∧
    (((f 3 { cap := some c, done := true }).watch 31).cap = some c ∧ ((f 3 { cap := some c, done := true }).watch 31).done = true) ∧
    (((f 2 { handle := 1 }).watch 31).handle ≠ 0 ∧ (f 2 { handle := 1 }).rd (R.WT_w_STATUS_STATE 31) < 3 ∧
      3 ≤ (f 3 { handle := 1 }).rd (R.WT_w_STATUS_STATE 31) ∧ (f 4 { handle := 1 }).rd (R.WT_w_STATUS_STATE 31) = 4 ∧
      (f 4 { handle := 1 }).runs) := by unfold State.runs; decide +kernel

/-! Statements about the signal cores. -/

/-- A state in which core 13 runs a job of berth 2 with the given core fields. -/
def withCore (x : Core) : State :=
  { ready with cores := [(13, { x with job := some ⟨1, 0, some 2, 0, 0⟩ })] }

/-- A program image of `n` entries with latency `lat`. -/
def image (n lat : Nat) : List Byte := leBytes 16 0 ++ leBytes 2 lat ++ leBytes 1 n ++ leBytes 45 0 ++ leBytes 256 0

theorem witness_PierArithmeticInstructions :
    (withCore {}).canIssue 13 ∧ (withCore { frz := 15, wrap := 1, c := [(7, { l := 5, b := 3 })] }).canIssue 13 ∧
      (((withCore { c := [(7, { l := 5, b := 3 })] }).core 13).circ 7).l ≠ 0 ∧ ((withCore {}).core 13).branch = none := by
  unfold State.canIssue State.runs; decide +kernel

/-- The edges of data, tap and cluster memory, and TAPMOV's two pointers. -/
theorem witness_PierMemoryInstructions :
    let x := (withCore { c := [(7, { p := 0x90000 })] }).core 13
    (withCore { c := [(7, { p := 0x90000 })] }).canIssue 13 ∧ pierPlace 0x3FFFC 4 = .data ∧ pierPlace 0x93FFC 4 = .tap ∧
      pierPlace 0x80000 4 = .instr ∧ x.failing 0x3FFFC 4 = none ∧ x.failing 0x93FFC 4 = none ∧ x.failing 0x80000 4 = none ∧
      pierPlace (x.circ 0).p 5 = .data ∧ x.failing (x.circ 0).p 5 = none ∧ pierPlace 0x2FFFFC 4 = .cluster ∧ 0x2FFFFC % 4 = 0 ∧
      pierPlace (x.circ 7).p 2 = .tap ∧ pierPlace (x.circ 0).p 2 = .data ∧ x.failing (x.circ 7).p 2 = none ∧ x.failing (x.circ 0).p 2 = none := by
  unfold State.canIssue State.runs; decide +kernel

/-- A core with two REPEAT levels, in a delay slot, in a handler, with a load that lands, and with a count above 1,024. -/
theorem witness_PierControlInstructions :
    let l : LoopLevel := ⟨2, 40, 50⟩
    ((withCore { pc := 9 }).canIssue 13 ∧ ((withCore { pc := 9 }).core 13).branch = none ∧ ((withCore { pc := 9 }).core 13).loops = [] ∧
      9 + 256 < 8192 ∧ ((withCore {}).core 13).job = some ⟨1, 0, some 2, 0, 0⟩ ∧ ((withCore {}).core 13).abandoned = false) ∧
    ((withBerth 0 1 [] (withCore {})).canIssue 13 ∧ ((withBerth 0 1 [] (withCore {})).cluster 3).queue.length < 256 ∧
      ((withBerth 0 1 [] (withCore {})).berth 0).isOpen = true ∧ ((withCore {}).berth 0).isOpen = false) ∧
    ((withCore { saved := some (7, []) }).canIssue 13 ∧ ((withCore { saved := some (7, []) }).core 13).saved = some (7, [])) ∧
    ((withCore { loads := [⟨0, .g 31, 5⟩] }).runs ∧ ((withCore { loads := [⟨0, .g 31, 5⟩] }).core 13).job ≠ none ∧
      ((withCore { loads := [⟨0, .g 31, 5⟩] }).core 13).loads = [⟨0, .g 31, 5⟩] ∧ ((withCore { loads := [⟨0, .g 31, 5⟩] }).core 13).run < 32 ∧
      ((withCore { loads := [⟨0, .g 31, 5⟩] }).core 13).branch = none ∧ Tab.get false ((withCore {}).core 13).bad 0x20000 = false) ∧
    ((withCore { branch := some (3, none) }).canIssue 13 ∧ ((withCore { branch := some (3, none) }).core 13).branch ≠ none) ∧
    ((withCore { loops := [l, l] }).canIssue 13 ∧ 2 ≤ ((withCore { loops := [l, l] }).core 13).loops.length) ∧
    ((withCore { g := [(31, 1025)] }).canIssue 13 ∧ 1024 < ((withCore { g := [(31, 1025)] }).core 13).reg 31) ∧
    (pierPlace 0x3FFFE 4 = .none_ ∧ pierPlace 0x300000 4 = .none_ ∧ pierPlace 0x80000 4 = .instr) := by
  unfold State.canIssue State.runs
  refine ⟨?_, ?_, ?_, ?_, ?_, ?_, ?_, ?_⟩ <;> decide +kernel

/-- A post to cluster 3, an INIT that is due, a job to dispatch, and an interrupt that is pending outside and inside a loop. -/
theorem witness_PierJobsAndInterrupts :
    let j : PierJob := ⟨0, 0, some 2, 0, 0⟩
    let s : State := { ready with cores := [(13, { initDue := some (1, 5) })] }
    let u : State := { st [(R.PI_CL_STATUS_READY 3, 1)] with clusters := [(3, { queue := [j], banks := [(0, image 1 0)] })] }
    let v : State := { ready with cores := [(13, { irqs := [(4, 40)] })], clusters := [(3, { banks := [(0, image 1 40)] })] }
    let w : State := { v with cores := [(13, { irqs := [(4, 40)], loops := [⟨1, 2, 3⟩] })] }
    let x : State := { w with clusters := [(3, { banks := [(0, image 1 41)] })] }
    (ready.runs ∧ ready.powered (17 + 3) = true ∧ (ready.cluster 3).queue.length < 256) ∧
    (s.runs ∧ s.powered (17 + 13 / 4) = true ∧ (s.core 13).job = none ∧ (s.core 13).saved = none ∧ (s.core 13).initDue = some (1, 5)) ∧
    (u.runs ∧ (u.core 13).job = none ∧ (u.core 13).saved = none ∧ (u.core 13).initDue = none ∧ u.rd (R.PI_CL_STATUS_READY 3) = 1 ∧
      (∀ i, i < 4 → (u.core (4 * 3 + i)).initDue = none) ∧ u.nextJob 3 = some j ∧ j.entry < imageEntries (u.progBank 3 0)) ∧
    (v.runs ∧ (v.core 13).irqs.find? (fun i => i.1 == 4) = some (4, 40) ∧ v.progBank 3 (v.coreBank 13) ≠ [] ∧
      0 < imageEntries (v.progBank 3 (v.coreBank 13)) ∧ (v.core 13).branch = none ∧ (v.core 13).loads = [] ∧ (v.core 13).loops = [] ∧
      (v.core 13).saved = none) ∧
    (w.runs ∧ (w.core 13).irqs.find? (fun i => i.1 == 4) = some (4, 40) ∧ (w.core 13).loops ≠ [] ∧ imageLat (w.progBank 3 (w.coreBank 13)) ≤ 40 ∧
      40 < imageLat (x.progBank 3 (x.coreBank 13)) ∧ (x.core 13).loops ≠ []) := by unfold State.runs; decide +kernel

/-! Statements about the Warehouse, the Tugs, packing and the streams. -/

/-- A Warehouse of 1 GiB that is ready, with an intact block 1, a failing block 2, and block 1 in the write queue of its channel. -/
theorem witness_WarehouseRequests :
    let s : State := { st [(R.WH_STATUS_READY, 1), (R.WH_USABLE_LO_BYTES_LO, 0x1000)] with
      wh := { written := [(1, true), (2, true)], bad := [(2, true)], check := [(1, checkWord 1 (List.replicate 64 0))], queue := [(0, [1])] } }
    (ready.runs ∧ ready.takesWrites 24 ∧ ready.rd R.WH_STATUS_TRAINING ≠ 1 ∧ ready.rd R.WH_STATUS_READY ≠ 1 ∧
      (st [(R.WH_STATUS_TRAINING, 1)]).rd R.WH_STATUS_TRAINING = 1) ∧
    (s.runs ∧ s.rd R.WH_STATUS_READY = 1 ∧ s.whUsable < 0xFFF + 2 ∧ 0xFC0 + 64 ≤ s.whUsable ∧ 64 * 1 + 64 ≤ s.whUsable ∧
      Tab.get false s.wh.written 1 = true ∧ s.whPasses 1 = true ∧ Tab.get false s.wh.written 2 = true ∧
      s.whPasses 2 = false ∧ 1 ∈ Tab.get [] s.wh.queue (1 / 4 % 2)) ∧ s.rd R.WH_AGE_AGE ≤ s.rd R.WH_AGE_AGE ∧
      0 < (st [(R.WH_AGE_AGE, 1)]).rd R.WH_AGE_AGE := by unfold State.takesWrites State.runs; decide +kernel

/-- The Shed with one descriptor at 0: these control bits and this count, from 256 to 512. -/
def descriptor (ctl count : Nat) (run : TugRun) : State :=
  { ready with
    shed := Tab.putList 0 [] 0 (leBytes 4 ctl ++ leBytes 4 count ++ leBytes 8 256 ++ leBytes 8 512),
    tugs := [(7, { run := some run })] }

theorem witness_TugChainsMoveBytes :
    let r : TugRun := ⟨31, 0, true, 0, 1, 0, false⟩
    let s := descriptor 0xC0000014 64 r
    let u := descriptor 0x00000014 0 r
    let q : State := { ready with tugs := [(7, { queues := [(31, [⟨64, 0, true, 0⟩])] })] }
    let v : State := { ready with tugs := [(7, { queues := [(31, [⟨64, 0, false, 0⟩])] })] }
    let w : State := { ready with tugs := [(7, { queues := [(31, List.replicate 16 ⟨64, 0, false, 0⟩)] })] }
    (w.runs ∧ 16 ≤ ((w.tug 7).queue 31).length ∧ ((q.tug 7).queue 31).length < 16) ∧
    (q.runs ∧ (q.tug 7).run = none ∧ q.nextChain 7 = some (31, ⟨64, 0, true, 0⟩) ∧ v.runs ∧ v.nextChain 7 = some (31, ⟨64, 0, false, 0⟩) ∧ 64 % 32 = 0) ∧
    (s.runs ∧ (s.tug 7).run = some r ∧ tideOf s.now < r.tide + 2 ∧ r.ch < 32 ∧ r.desc % 32 = 0 ∧ s.draining = [] ∧ s.shedFails r.desc 28 = false ∧
      r.num ≤ 1024 ∧ (s.desc 0).valid = true ∧ (s.desc 0).sspace = 1 ∧ (s.desc 0).dspace = 1 ∧ (s.desc 0).swap = 0 ∧ (s.desc 0).swrap = 0 ∧
      (s.desc 0).dwrap = 0 ∧ s.powered 0 = true ∧ (s.desc 0).src = 256 ∧ (s.desc 0).dst = 512 ∧ (s.desc 0).count = 64 ∧
      s.shedFails 256 64 = false ∧ s.shedFails 512 64 = false ∧ 256 + 64 ≤ 512 ∧ 0 + 32 ≤ 512 ∧ (s.desc 0).last = true ∧ (s.desc 0).irq = true) ∧
    ((u.tug 7).run = some r ∧ u.shedFails 0 28 = false ∧ (u.desc 0).valid = false ∧ (u.desc 0).last = false) ∧
    (((descriptor 20 64 { r with num := 1025 }).tug 7).run = some { r with num := 1025 } ∧ 1024 < 1025) ∧
    (({ s with shedBad := [(0, true)] } : State).memoriesWf = true ∧ ({ s with shedBad := [(0, true)] } : State).shedFails 0 28 = true) ∧
    (let g : State := { ready with draining := [(1, 0)] }
     let h : State := { ready with draining := [(0, 0)], tugs := [(7, { run := some r })] }
     g.draining.find? (fun e => e.1 == 1) = some (1, 0) ∧ g.tugUses 1 0 = false ∧ h.draining.find? (fun e => e.1 == 0) = some (0, 0) ∧
       ({ s with draining := [(0, 1)] } : State).tugUses 0 1 = true) ∧
    ((ready.tug 7).run = none ∧ Tab.get [] ready.tileWrites 7 = [] ∧
      Tab.get [] ({ ready with tileWrites := [(7, [(5, 0, 0)])] } : State).tileWrites 7 = (5, 0, 0) :: []) := by
  unfold State.runs; decide +kernel

theorem witness_PackingAndStreams :
    let s : State := { ready with packs := [(1, { queue := [⟨128, 0⟩] })] }
    let u : State := { ready with packs := [(1, { queue := List.replicate 16 ⟨128, 0⟩, run := some ⟨128, 0⟩ })] }
    let b (x : Stream) (seq : Nat) : State := { withBerth 1 2 (List.replicate 17 0 ++ [4])
        (withBerth 4095 8 [0, makeHandle 2 1 1, 0, 4] (st [(R.WH_STATUS_READY, 1), (R.WH_USABLE_LO_BYTES_LO, 0x100000)])) with
      streams := [(4095, x)], flow := [(1, { seq })], wh := { written := [(0, true), (1, true)], check := (List.range 2).map (fun k => (k, checkWord k (List.replicate 64 0))) } }
    (s.runs ∧ (s.pack 1).queue.length < 16 ∧ (s.pack 1).run = none ∧ s.nextPack 1 = some ⟨128, 0⟩ ∧ u.runs ∧ 16 ≤ (u.pack 1).queue.length ∧
      (u.pack 1).run = some ⟨128, 0⟩ ∧ 128 % 128 = 0 ∧ u.shedFails 128 128 = false ∧
      ({ u with shedBad := [(63, true)] } : State).shedFails 128 128 = true) ∧
    ((b {} 1).runs ∧ ((b {} 1).berth 4095).isOpen = true ∧ ((b {} 1).berth 4095).kind = 8 ∧ ((b {} 1).stream 4095).due = false ∧
      ((b {} 1).berth 1).handle = makeHandle 2 1 1 ∧ ((b {} 1).unitRing 1).next = 1 ∧ ((b {} 1).unitRing 1).depth = 4 ∧
      ((b {} 1).unitRing 1).size = 128 ∧ (b {} 1).rd R.WH_STATUS_READY = 1 ∧ ((b {} 1).unitRing 1).base + 128 ≤ (b {} 1).whUsable ∧
      leNat (Tab.getList 0 (b {} 1).wh.bytes (((b {} 1).unitRing 1).base + 8) 8) = 0 ∧
      (∀ k, k < 2 → Tab.get false (b {} 1).wh.written k = true ∧ (b {} 1).whPasses k = true)) ∧
    (((b {} 5).stream 4095).next + ((b {} 5).unitRing 1).depth < ((b {} 5).unitRing 1).next ∧ ((b { due := true } 1).stream 4095).due = true) ∧
    (ready.takesWrites 23 ∧ ready.rd (R.NT_EXP_k_CFG_EN 7) ≠ 1 ∧
      ready.waits (fun c => decide (c = Change.exportSlot 7)) = false) := by unfold State.takesWrites State.runs; decide +kernel

/-! Statements about the network, the Hawser and the trims. -/

theorem witness_NetworkFramesAndStamps :
    let s := st [(R.NT_n_CFG_EN 1, 1), (R.NT_n_IP4_ADDR 1, 5), (R.NT_PTP_CFG_EN, 1), (R.NT_PTP_CFG_PORT, 1)]
    (ready.runs ∧ ready.rd (R.NT_n_CFG_EN 1) ≠ 1 ∧ s.runs ∧ s.powered 23 = true ∧ s.rd (R.NT_n_CFG_EN 1) = 1) ∧
    (s.tagOk 1 { kind := .other } = true ∧ s.protocolOk 1 { kind := .other } = false ∧ s.protocolOk 1 { kind := .arp true } = true ∧
      s.protocolOk 1 { kind := .ptpEvent 0 0, ip := 4 } = true ∧ s.tagOk 1 { kind := .ptpEvent 0 0, ip := 4 } = true) ∧
    (s.stamps = [] ∧ s.rd R.NT_PTP_CFG_IPVER ≠ 1 ∧ s.ipOn 1 4 = true ∧ s.rd R.NT_PTP_CFG_EN = 1 ∧ s.rd R.NT_PTP_CFG_PORT = 1 ∧
      s.rd R.NT_PTP_CFG_MODE ≠ 1 ∧ (st [(R.NT_PTP_CFG_MODE, 1)]).rd R.NT_PTP_CFG_MODE = 1) := by unfold State.runs; decide +kernel

/-- The body of a Hawser frame of version 2 for tide 8 with SYNC and START, and the frame. -/
def hawserBody : Nat := 0xA5 + 2 * 256 + 8 * 4096 + 2 ^ 59
def hawserFrame : Nat := hawserBody + crc16 (leBytes 10 hawserBody) * 2 ^ 80

/-- The frame is good from a repeater, in time, and 16 boundaries of 2^17 ns old at most; a bad frame differs in its CRC. -/
theorem witness_HawserAndTimeInputs :
    let s := st [(R.HB_TIME_CFG_HWS_FWD, 1), (R.RX_SL_CTL_HAWSER_EN, 1)]
    let u : State := { s with hawser := { forward := some (hawserFrame, 0) } }
    let ver := Nat.min (bits hawserFrame 8 4) (s.rd (R.HB_IF_i_MAX 4))
    (s.runs ∧ bits hawserFrame 0 8 = 0xA5 ∧ bits hawserFrame 80 16 = crc16 (leBytes 10 hawserFrame) ∧ s.rd (R.HB_IF_i_MIN 4) ≤ ver ∧
      (BitVec.ofNat 96 hawserFrame).toNat = hawserFrame ∧ bit hawserFrame 59 = true ∧ s.rd R.HB_TIME_CFG_HWS_HEAD ≠ 1 ∧ s.rd R.RX_SL_CTL_HAWSER_EN = 1 ∧ ready.rd R.RX_SL_CTL_HAWSER_EN ≠ 1 ∧
      s.now + 16384 ≤ 131072 * bits hawserFrame 12 47 + 262144 ∧ s.landing = []) ∧
    (bits (hawserFrame - 2 ^ 80) 80 16 ≠ crc16 (leBytes 10 (hawserFrame - 2 ^ 80)) ∧
      Nat.min (bits (hawserFrame) 8 4) 1 < (st [(R.HB_IF_i_MIN 4, 3)]).rd (R.HB_IF_i_MIN 4)) ∧
    (u.runs ∧ u.hawser.forward = some (hawserFrame, 0) ∧ u.rd R.HB_TIME_CFG_HWS_HEAD ≠ 1 ∧ u.rd R.HB_TIME_CFG_HWS_FWD = 1 ∧
      2 ≤ bits hawserFrame 8 4 ∧ bits hawserFrame 60 5 < 31 ∧ bits (hawserFrame - 256) 8 4 < 2) ∧
    (s.hawser.misses < 3 ∧ 3 ≤ ({ s with hawser := { misses := 3 } } : State).hawser.misses ∧ (0 + 8000000000) / 16000000000 = 0 ∧
      s.rd R.HB_TIME_CFG_F10M_EN ≠ 1 ∧ (st [(R.HB_TIME_CFG_F10M_EN, 1)]).rd R.HB_TIME_CFG_F10M_EN = 1) := by unfold State.runs; decide +kernel

theorem witness_TrimPassesAndSelection :
    let s : State := { st [(R.CL_CFG_QY_AUTO, 1), (R.QY_STATUS_RUNNING 7, 1), (R.CL_CFG_TL_AUTO, 1)] with
      power := { trims := [8, 16] }, taps := [(127, { table := [0] })], calDone := [⟨0, 1, 2, 3⟩] }
    let z : State := { s with quayTrims := [(7, { done := [0, 1, 2] })] }
    let h := 2 ^ 20 :: List.replicate 607 0
    let g := List.replicate 607 0 ++ [2 ^ 20]
    let a : LaneStat := { slices := List.replicate 9 ⟨0, 1000, 2, 1⟩, slope := 1 }
    let q : IqStat := ⟨4, 4, 1⟩
    (ready.runs ∧ ready.rd (R.QY_STATUS_RUNNING 7) ≠ 1) ∧
    (s.runs ∧ s.rd R.CL_CFG_QY_AUTO = 1 ∧ s.rd (R.QY_STATUS_RUNNING 7) = 1 ∧ s.rd (R.QY_STATUS_STOPPED 7) ≠ 1 ∧ (1 + 7) ∈ s.power.trims ∧
      bit (s.rd (R.CL_QY_n_STATUS_FAIL 7)) 3 = false ∧ ((s.quayTrim 7).lane 3).due = [] ∧ (∀ k, k < 4 → k ≠ 3 → k ∈ (z.quayTrim 7).done) ∧
      s.rd (R.CL_QY_n_L_l_SPARE_IN_USE 7 3) ≠ 1 ∧ ((a.slices.take 8).map SliceStat.var).sum / 8 ≠ 0 ∧ a.slices.length = 9 ∧ a.slope ≠ 0 ∧
      q.ii ≠ 0 ∧ q.qq ≠ 0 ∧ sqrtRat (q.ii * q.qq) ≠ 0) ∧
    (h.length = 608 ∧ h.sum = 2 ^ 20 ∧ s.powered (9 + 127 / 16) = true ∧ (9 + 127 / 16) ∈ s.power.trims ∧
      (∀ k, k < 608 → 600 ≤ k → h.getD k 0 = 0) ∧ ((ready.tapTable 127).table.isEmpty && (ready.tapTable 127).due.isEmpty) = true ∧
      ((s.tapTable 127).factory ++ (s.tapTable 127).live).length < 16) ∧
    (g.length = 608 ∧ g.sum = 2 ^ 20 ∧ g.getD 607 0 ≠ 0 ∧ ((s.tapTable 127).table.isEmpty && (s.tapTable 127).due.isEmpty) = false ∧
      s.rd R.CL_CFG_TL_AUTO = 1 ∧ s.rd (ln R.TL_LANE_i_CFG_MODE 127) = 0) ∧
    (ready.calDone = [] ∧ s.calDone = ⟨0, 1, 2, 3⟩ :: []) := by unfold State.runs; decide +kernel

/-! Statements about reset, power, the latch and the life cycle. -/

theorem witness_ResetsBeginAndEnd :
    let held : State := { ready with power := { held := some (0, 7) } }
    let down : State := { st [(R.CL_STATUS_LOADED, 1)] with power := { down := [1, 16, 17, 20, 21, 23, 24] } }
    let ramp : State := { ready with power := { held := some (0, 0), ramping := true } }
    (ready.power.held = none ∧ min 1 (3 - ready.rd (R.RS_LEVEL_V_s 8)) = 1 ∧ min 1 (3 - ready.rd (R.RS_LEVEL_V_s 9)) = 0 ∧
      held.power.held = some (0, 7) ∧ ready.rd R.CU_STATE_JTAG ≠ 1 ∧ (st [(R.CU_STATE_JTAG, 1)]).rd R.CU_STATE_JTAG = 1) ∧
    (ready.runs ∧ ready.rd (R.RS_LEVEL_V_s 10) = 1 ∧ ready.rd (R.RS_LEVEL_V_s 11) = 1 ∧
      ready.rd (R.RS_LEVEL_V_s 12) = 0 ∧ ready.powered 1 = true ∧ ready.powered 24 = true ∧
      ((withBerth 4095 1 [] ready).berth 4095).isOpen = true ∧ (st [(R.RS_PWR_STATUS_ON, 1)]).powered 1 = false) ∧
    (held.power.ramping = false ∧ ramp.power.ramping = true) ∧
    (down.runs ∧ (∀ d ∈ [1, 16, 17, 20, 21, 23, 24], d ∈ down.power.down ∧ down.powered d = true) ∧ down.rd R.CL_STATUS_LOADED = 1) := by
  unfold State.runs; decide +kernel

theorem witness_WatchdogPowerAndBallast :
    let s : State := { st [(R.RS_WDT_CFG_EN, 1), (R.RS_PWR_STATUS_PENDING, 1)] with power := { wdt := some 1000 } }
    (ready.runs ∧ ready.power.wdtLeft = none ∧ bits (0x80000000 + 1000 : Word).toNat 31 1 = 1 ∧
      bits (0x80000000 + 1000 : Word).toNat 0 24 = 1000 ∧ bits (10000000 : Word).toNat 0 24 = 10000000 ∧ bits (999 : Word).toNat 0 24 < 1000) ∧
    (s.runs ∧ s.rd R.RS_WDT_CFG_EN = 1 ∧ s.power.wdt = some 1000 ∧ 1000 < nextBoundary s.now ∧ s.rd R.RS_PWR_STATUS_PENDING = 1 ∧
      nextBoundary ({ s with power := { wdt := some 131072 } } : State).now ≤ 131072) ∧
    (ready.rd R.RS_PWR_STATUS_PENDING ≠ 1 ∧ ready.domainUsed 24 = false ∧ ready.ballast.length < 8 ∧
      8 ≤ ({ s with ballast := List.replicate 8 (0, 0) } : State).ballast.length ∧ ready.power.vbat = true ∧
      ({ s with power := { vbat := false } } : State).power.vbat = false) := by unfold State.runs; decide +kernel

theorem witness_SafetyLatchEngagesAndReleases :
    let s : State := { st [(R.CL_STATUS_LOADED, 1), (R.HB_MF_STATUS_STATE, 3)] with
      now := 1000000, power := { ilock := some 0, trims := [1, 2, 3, 4, 5, 6, 7, 8] } }
    let u : State := { s with now := 999999 }
    ((armed 7 ready).runs ∧ (armed 7 ready).rd R.RS_SAFE_STATUS_RELEASED = 1 ∧ ready.runs ∧
      ready.rd R.RS_SAFE_STATUS_RELEASED ≠ 1 ∧ ready.power.ilock = none ∧ s.power.ilock.isSome = true) ∧
    (ready.rd R.RS_THERM_WARN ≤ 255 ∧ 0 < ready.rd R.RS_THERM_WARN) ∧
    (s.runs ∧ s.rd R.CL_STATUS_LOADED = 1 ∧ (∀ n, n < 8 → s.powered (1 + n) = true → (1 + n) ∈ s.power.trims) ∧ s.rd R.HB_MF_STATUS_STATE = 3 ∧
      s.power.ilock = some 0 ∧ 0 + 1000000 ≤ (s.now : Int) ∧ s.rd R.RS_SAFE_STATUS_RELEASED ≠ 1 ∧ (u.now : Int) < 0 + 1000000) := by
  unfold State.runs; decide +kernel

theorem witness_LifeCycleAndFirmware :
    let s := st [(R.CU_STATE_STATE, 2), (R.HB_TIME_STATUS_VALID, 1), (R.LG_STATUS_READY, 1)]
    let u : State := { st [(R.CU_STATE_STATE, 1), (R.CU_STATUS_RETURN_OK, 1), (R.CU_STATUS_CONSENT_OK, 1)] with life := { blow := some (2047, 1) } }
    let v : State := { ready with fwSwap := some ⟨0, 1, 2, 0, some 0, false⟩ }
    let w := st [(R.CU_TOKEN_w_DATA 0, 0x44E54)]
    (ready.runs ∧ ready.rd R.CU_STATE_STATE = 0 ∧ s.runs ∧ s.rd R.CU_STATE_STATE ≠ 0 ∧ s.rd R.CU_STATE_STATE = 2 ∧
      s.rd R.CU_STATUS_SEAL_PENDING ≠ 1 ∧ s.rd R.HB_TIME_STATUS_VALID = 1 ∧ s.rd R.LG_STATUS_READY = 1 ∧ s.sealBlocked = false) ∧
    (ready.rd R.CU_STATUS_RETURN_OK ≠ 1 ∧ bodyNat ready.tokenBytes 0 2 ≠ 0x4E54 ∧ bodyNat w.tokenBytes 2 1 = 4 ∧
      w.rd R.CU_STATUS_RETURN_OK ≠ 1) ∧
    (u.runs ∧ u.rd R.CU_STATUS_RETURN_OK = 1 ∧ u.rd R.CU_STATUS_CONSENT_OK = 1 ∧ u.rd R.CU_STATE_STATE = 1 ∧
      u.rd R.CU_PROG_STATUS_BUSY ≠ 1 ∧ u.rd R.CU_PROG_ADDR_WORD < 2048 ∧ u.life.blow = some (2047, 1)) ∧
    (v.runs ∧ v.fwSwap = some ⟨0, 1, 2, 0, some 0, false⟩ ∧ v.now ≤ 0 + 20000000 ∧
      0 + 20000000 < nextBoundary ({ v with now := 20000000 } : State).now ∧ v.signQ.length < 256 ∧ v.evtLost.1 = 0) := by
  unfold State.runs; decide +kernel

/-! Statements about every command. -/

theorem witness_StepRunsFrontCommand :
    ({ ready with pending := [.safeEngage] } : State).pending = .safeEngage :: [] ∧ ready.pending = [] ∧ ready.runs ∧
      (ready.now + 1) % 131072 ≠ 0 ∧ (({ ready with now := 131071 } : State).now + 1) % 131072 = 0 ∧
      ¬({ ready with power := { held := some (1, 8) } } : State).runs := by unfold State.runs; decide +kernel

/-- A state from which a step answers a next state, with canonical memories that hold something. -/
theorem witness_EveryStepKeepsMemoriesCanonical :
    let s : State := { ready with shed := [(0, 1)], pending := [.shedWindowWrite 0 [0, 2]] }
    s.memoriesWf = true ∧ (match step s with | .next t => decide (t.shed = [(1, 2)]) | _ => false) = true := by decide +kernel

/-- A Charter with a bit set, and a step that answers a next state. -/
theorem witness_CharterBitsNeverClear :
    let s : State := { ready with charter := [(5, 1)], pending := [.shedWindowRead 0 4] }
    (Tab.get 0 s.charter 5).getLsbD 0 = true ∧ (match step s with | .next t => decide (t.charter = s.charter) | _ => false) = true := by
  decide +kernel

theorem witness_WellFormedCommandsComplete : (Instr.domainOffRead 0x400030).wellFormed = true ∧ (Instr.lowWordRead 8).wellFormed = true := by
  decide +kernel

theorem witness_CommandsLeaveTheQueue :
    (match exec (.shedWindowRead 0 4) ready with | .next t => decide (t.pending = []) | _ => false) = true := by decide +kernel

theorem witness_HeldDeviceIgnoresCommands :
    let s : State := { ready with power := { held := some (1, 8) } }
    ¬s.runs ∧ (Instr.shedWindowWrite 0 [1]).wellFormed = true := by unfold State.runs; decide +kernel

/-- A queue of 64 written blocks of channel 0. -/
theorem witness_WarehouseQueuesStayBounded :
    let bs := (List.range 64).map (fun i => 8 * i)
    let s : State := { ready with
      wh := { written := bs.map (fun b => (b, true)), queue := [(0, bs)] }, pending := [.shedWindowRead 0 4] }
    s.whQueuesOk ∧ (match step s with | .next _ => true | _ => false) = true := by
  refine ⟨fun c => ?_, by decide +kernel⟩
  by_cases h : c = 0
  · subst h; decide +kernel
  · simp [Tab.get, Ne.symm h]

theorem witness_ChangesLandAtTheFirstBoundaryWithLead : 131072 % 131072 = 0 ∧ 114688 + 16384 ≤ 131072 := by decide

/-! Numbers of the spec's worked examples. -/

/-- Chapter 02, "a worked landing", and Table 5.7. -/
theorem test_landing_skips_a_boundary_that_is_too_near :
    landAt 1000000050000 = 1000000192512 ∧ tideOf 1000000050000 = 7629394 ∧ tideOf (landAt 1000000050000) = 7629396 ∧
      landAt 1000100060000 = 1000100200448 ∧ nextBoundary 1000000000000 = 1000000061440 := by decide +kernel

/-- R37: the last instant whose change lands at the next boundary, and the first that lands one later. -/
theorem test_landing_lead_is_16384 : landAt (131072 - 16384) = 131072 ∧ landAt (131072 - 16383) = 262144 := by decide +kernel

/-- Chapter 05, "A berth from span to rows": H, INC, staging, row bytes and the cost vector. -/
theorem test_das_berth_of_chapter_5 :
    cascadeFor 61220 1000000 = some (4, 280625109180) ∧ stageNeed 6144 61220 = 158720 ∧ rowBytes 6144 0 = 24640 ∧
      dasCost (dasParams [2, 7346, 6144, 1, 1000000]) 61220 4 280625109180 0 =
        [13943, 0, 0, 0, 0, 1645, 0, 0, 0, 0, 0, 0, 0, 2182, 127, 0, 0, 0, 0, 0] := by decide +kernel

/-- Chapter 06, "A steam zone worked through": block cycles, cluster memory and the cost vector. -/
theorem test_steam_zone_of_chapter_6 :
    let p := flowParams [2, 16, 4 * 256 + 65536 + 1, 48 * 65536 + 16, 688 * 65536 + 96]
    p.bins = 41 ∧ p.nseg = 7 ∧ p.cycles = 13582976 ∧ p.memory = 133120 ∧
      flowCost p 61220 3 0 0 = [35, 1781, 0, 0, 0, 9, 0, 0, 0, 0, 0, 0, 0, 11, 1, 0, 0, 0, 0, 0] := by decide +kernel

/-- Chapter 09, "A flume head worked through": the timeout, the least slot, the column code and the shots that fire. -/
theorem test_flume_head_of_chapter_9 :
    rangeTmo ((100027 * 2 ^ 22 + 50000) / 100000) 10000 = 83 ∧
      (rangeParams [3, 763 * 65536 + 1, 0x24, 0, 16 * 65536 + 2 * 256 + 40, 160 * 65536 + 6 * 4096 + 2 * 256 + 4]).slotMin 83 = 147 ∧
      shotCodes [800] 16 = [100] ∧ (List.range 8).map (shotFires 16) = [false, true, false, true, false, true, false, true] := by
  decide +kernel

/-- Chapter 12, "Length change": set c5 after its length is written. -/
theorem test_circular_step_of_chapter_12 : ((⟨0x8000, 64, 0x8068⟩ : CircSet).step 4).p = 0x802C := by decide +kernel

/-- Chapter 12, "Guard bits": tap 512 of full scale saturates a0 and sets FRZ_0. -/
theorem test_accumulator_saturates_at_tap_512 :
    (match exec (.mac 13 0 1 1) (withCore { a := [(0, 549722259968)], g := [(1, 32767)] }) with
      | .next t => decide ((t.core 13).acc 0 = 549755813887 ∧ bit (t.core 13).frz 0 = true ∧ bit (t.core 13).gov 0 = true)
      | _ => false) = true := by decide +kernel

/-- Chapter 16: the offset of +0.40 codes moves by −6 steps, the gain that is 0.1994 % low by the limit of 65 steps. -/
theorem test_slice_moves_of_chapter_16 : sliceMoves ⟨2 / 5, -1994 / 1000000, 0⟩ = (-6, 65, 0) := by decide +kernel

/-- Chapter 16, R422: F(200) of a pass with 2,150 hits in tap 200 and 409,600 below it. -/
theorem test_code_table_of_chapter_16 : (tapCodes ([409600] ++ List.replicate 199 0 ++ [2150]) 0).getD 200 0 = 3208 := by decide +kernel

/-- The check values of the CRCs over "123456789" (the catalogue's, for the CRC parameters that the spec names). -/
theorem test_crc_check_values :
    crc16 ((List.range 9).map (fun i => BitVec.ofNat 8 (49 + i))) = 0x29B1 ∧
      crc32 ((List.range 9).map (fun i => BitVec.ofNat 8 (49 + i))) = 0xCBF43926 := by decide +kernel

/-- FIPS 180-4's example: the first four bytes of the SHA-256 of "abc". -/
theorem test_sha256_of_abc : (sha256 [0x61, 0x62, 0x63]).take 4 = [0xBA, 0x78, 0x16, 0xBF] := by decide +kernel

/-- R2: the high word of the time pair reads as it was when the low word was read. -/
theorem test_shadow_holds_the_high_word :
    (match exec (.lowWordRead 8) { State.reset with now := 2 ^ 32 + 5 } with
      | .next t => decide (t.completion.data = [5]) && decide (Tab.get none t.shadows 12 = some 1)
      | _ => false) = true := by decide +kernel

/-- The verification values that IAPWS-IF97 gives for its regions 1, 2 and 4, and IAPWS 2008 for the viscosity. -/
theorem test_if97_verification_values :
    roundHalf (10 ^ 12 / (waterAt 3000000 300).rho) = 1002151680 ∧ roundHalf (10 ^ 7 / (steamAt 3500 300).rho) = 394913866 ∧
      roundHalf (10 ^ 6 * satTempAt 1000000) = 453035632 ∧ roundHalf (10 ^ 10 * viscosity (29815 / 100) 998) = 8897351 := by decide +kernel

/-- Chapter 06, "A steam zone worked through": the enthalpy, and the area of the pipe. -/
theorem test_steam_state_of_chapter_6 :
    roundHalf ((steamAt 1000000 (47315 / 100)).h / 100) = 28283 ∧ roundHalf (10 ^ 7 * (piRat * (295 / 1000) ^ 2 / 4)) = 683493 := by
  decide +kernel

/-- R461, Table 18.3: right after a cold reset the chip selects are high, the DACs at code 0 and ALERT_N released. -/
theorem test_balls_after_cold_reset :
    State.reset.ballDrive (.cs 7 1) = .high ∧ State.reset.ballDrive (.dac 0 true) = .code 0 ∧ State.reset.ballDrive .alert = .released := by
  decide +kernel

/-- Chapter 16, the worked lane: a mean of +0.40 codes moves the offset by −6 steps, and a variance of 1,000.0 against 1,004.0 the gain by the limit of
65 steps. -/
theorem test_trim_moves_of_chapter_16 :
    let x : LaneStat := { slices := (List.range 9).map (fun k => if k = 3 then ⟨2 / 5, 1000, 0, 0⟩ else ⟨0, 7032 / 7, 0, 0⟩), slope := 1 }
    sliceMoves (State.reset.sliceErr x (List.range 8) 3) = (-6, 65, 0) := by decide +kernel

end Sys2Proof.Tests
end

section
/-! SUPPORT. Which answers are a next state: the rules of the gates that the meanings share, and statement O57. -/

namespace Sys2Proof.Machine

/-- The meaning answers a next state. -/
def Completes (r : Res) : Prop := ∃ t, r = .next t

theorem completes_goOn (s : State) : Completes (goOn s) := ⟨s, rfl⟩

theorem completes_ite {c : Prop} [Decidable c] {r u : Res} (hr : c → Completes r) (hu : ¬c → Completes u) :
    Completes (if c then r else u) := by
  split
  case isTrue h => exact hr h
  case isFalse h => exact hu h

/-- A refusal whose condition does not hold is none. -/
theorem completes_unless_refused {c : Prop} [Decidable c] {x : Refusal} {u : Res} (hc : ¬c) (hu : Completes u) :
    Completes (if c then .refused x else u) :=
  completes_ite (fun h => absurd h hc) (fun _ => hu)

theorem State.live_completes {s : State} {f : State → Res} (h : ∀ t, Completes (f t)) : Completes (s.live f) :=
  completes_ite (fun _ => completes_goOn _) (fun _ => h _)

theorem State.whenOn_completes {s : State} {d : Nat} {f : State → Res} (h : ∀ t, Completes (f t)) : Completes (s.whenOn d f) :=
  completes_ite (fun _ => h _) (fun _ => completes_goOn _)

theorem State.blockWrite_completes {s : State} {d : Nat} {crosses : Bool} {c : Instr} {f : State → Res} (h : ∀ t, Completes (f t)) :
    Completes (s.blockWrite d crosses c f) :=
  completes_ite (fun _ => completes_ite (fun _ => completes_goOn _) (fun _ => h _)) (fun _ => completes_goOn _)

theorem State.quayWrite_completes {s : State} {n : Nat} {c : Instr} {f : State → Res} (h : ∀ t, Completes (f t)) :
    Completes (s.quayWrite n c f) :=
  State.blockWrite_completes h

/-- To go on in the state of an answer that is a next state is to give that answer. -/
theorem goOn_after {r : Res} (h : Completes r) (s : State) : goOn (after r s) = r := by
  obtain ⟨t, rfl⟩ := h
  rfl

/-! The commands whose meanings refuse a term that stands for no command. -/

theorem execUnsupportedAccess_completes (write : Bool) {addr size : Nat} (h : ¬(size = 4 ∧ addr % 4 = 0)) (s : State) :
    Completes (execUnsupportedAccess write addr size s) :=
  State.live_completes fun _ => completes_unless_refused h (completes_goOn _)

theorem execUnmappedAccess_completes (write : Bool) {addr : Nat} (hlt : addr < 0x4000000) (hrow : regRow? addr = none) (s : State) :
    Completes (execUnmappedAccess write addr s) :=
  State.live_completes fun _ => completes_unless_refused (by simp [hrow, hlt]) (completes_goOn _)

theorem execRegisterWrite_completes {who : Requester} {addr : Nat} (h : who = .tug ∨ addr % 4 ≠ 0 ∨ addr < 0x4000000) (v hw : Word) (s : State) :
    Completes (execRegisterWrite who addr v hw s) := by
  refine State.live_completes fun t => completes_ite (fun _ => completes_goOn _) fun haligned => ?_
  split
  case h_1 hrow =>
    exact completes_ite (fun _ => completes_goOn _) fun hwho =>
      execUnmappedAccess_completes true ((h.resolve_left hwho).resolve_left haligned) hrow t
  case h_2 => exact completes_ite (fun _ => completes_goOn _) fun _ => State.blockWrite_completes fun _ => completes_goOn _

theorem execReadClear_completes {addr : Nat} (h : (regRow? addr).isSome) (hw : Word) (s : State) : Completes (execReadClear addr hw s) := by
  obtain ⟨r, hr⟩ := Option.isSome_iff_exists.mp h
  unfold execReadClear
  exact State.live_completes fun t => by simp only [hr]; exact completes_goOn _

theorem execShedWindowRead_completes {off len : Nat} (h : off + len ≤ shedSize) (s : State) : Completes (execShedWindowRead off len s) :=
  State.live_completes fun _ => completes_unless_refused (by omega) <|
    completes_ite (fun _ => completes_goOn _) fun _ => completes_ite (fun _ => completes_goOn _) (fun _ => completes_goOn _)

theorem execShedWindowWrite_completes {off : Nat} {bs : List Byte} (h : off + bs.length ≤ shedSize) (s : State) :
    Completes (execShedWindowWrite off bs s) :=
  State.live_completes fun _ => completes_unless_refused (by omega) <| completes_ite (fun _ => completes_goOn _) (fun _ => completes_goOn _)

theorem execBallastWrite_completes {addr : Nat} (h : isBallast addr = true ∧ addr < 0x200158) (v : Word) (s : State) :
    Completes (execBallastWrite addr v s) :=
  State.live_completes fun _ => completes_ite (fun _ => completes_goOn _) (fun hn => absurd h hn)

theorem execRepeatBody_completes (core : Fin 16) {n : RepeatCount} {len : Nat} (hlen : 1 ≤ len ∧ len ≤ 256)
    (hn : ∀ v, n = .imm v → v ≤ 1024) (s : State) : Completes (execRepeatBody core n len s) := by
  refine State.live_completes fun _ => completes_unless_refused ?_ (completes_goOn _)
  cases n with
  | imm v => have := hn v rfl; simp; omega
  | reg r => simp; omega

theorem execLda_completes (core : Fin 16) (k : Fin 4) (addr : PierAddr) {load : AccLoad}
    (h : 1 ≤ load.bytes ∧ load.bytes ≤ 5 ∧ load.stall ≤ 40) (s : State) : Completes (execLda core k addr load s) :=
  State.live_completes fun _ => completes_unless_refused (by omega) (completes_goOn _)

theorem execLd_completes (core : Fin 16) {dst : PierDst} {addr : PierAddr} {n : Nat} {signed : Bool} {second : Option PierAccess} {stall : Nat}
    (h : accessesOk (.load dst addr n signed :: second.toList) = true ∧ stall ≤ 40) (s : State) :
    Completes (execLd core dst addr n signed second stall s) :=
  State.live_completes fun _ => completes_ite (fun _ => completes_goOn _) (fun hn => absurd h hn)

theorem execSt_completes (core : Fin 16) {src : Fin 32} {addr : PierAddr} {n : Nat} {second : Option PierAccess} {stall : Nat}
    (h : accessesOk (.store src addr n :: second.toList) = true ∧ stall ≤ 40) (s : State) : Completes (execSt core src addr n second stall s) :=
  State.live_completes fun _ => completes_ite (fun _ => completes_goOn _) (fun hn => absurd h hn)

theorem execResetAssert_completes (cause : ResetCause) (s : State) : Completes (execResetAssert cause s) := by
  unfold execResetAssert
  extract_lets
  iterate 5 refine completes_ite (fun _ => completes_goOn _) (fun _ => ?_)
  exact completes_goOn _

theorem execResetRelease_completes (s : State) : Completes (execResetRelease s) := by
  unfold execResetRelease
  split
  · exact completes_goOn _
  · exact completes_ite (fun _ => completes_goOn _) (fun _ => completes_goOn _)

/-- The low row of a pair is a register: each pair of the map names one at every instance. -/
theorem execLowWordRead_completes {addr : Nat} {p : PairRow} {r : RegRow} (hp : pairRow? addr = some p) (hr : regRow? addr = some r) (s : State) :
    Completes (execLowWordRead addr s) := by
  unfold execLowWordRead
  exact State.live_completes fun t => by simp only [hp, hr]; exact completes_goOn _

end Sys2Proof.Machine
end

section
/-! SUPPORT. Facts about the register map, each checked row by row, and statement O1. -/

namespace Sys2Proof.Machine

/-- A row, or a pair, that lies at `base` with these instances occupies the byte address. -/
def occupies (base : Nat) (dims : List (Nat × Nat)) (addr : Nat) : Bool := decide (base ≤ addr) && dimsHit dims (addr - base)

theorem mem_regMap_of_regRow? {addr : Nat} {r : RegRow} (h : regRow? addr = some r) : r ∈ regMap := List.mem_of_find?_eq_some h

theorem occupies_of_regRow? {addr : Nat} {r : RegRow} (h : regRow? addr = some r) : occupies r.base r.dims addr = true :=
  List.find?_some (p := fun r : RegRow => occupies r.base r.dims addr) h

theorem occupies_of_pairRow? {addr : Nat} {p : PairRow} (h : pairRow? addr = some p) : occupies p.base p.dims addr = true :=
  List.find?_some (p := fun r : PairRow => occupies r.base r.dims addr) h

theorem regRow?_isSome {addr : Nat} {r : RegRow} (hr : r ∈ regMap) (h : occupies r.base r.dims addr = true) : (regRow? addr).isSome := by
  rw [regRow?, List.find?_isSome]
  exact ⟨r, hr, h⟩

/-- Each pair of the map lies where a register row lies, with the same instances. -/
theorem pairMap_on_regMap : ∀ p ∈ pairMap, ∃ r ∈ regMap, r.base = p.base ∧ r.dims = p.dims := by decide +kernel

theorem regRow?_isSome_of_pairRow? {addr : Nat} (h : (pairRow? addr).isSome) : (regRow? addr).isSome := by
  obtain ⟨p, hp⟩ := Option.isSome_iff_exists.mp h
  obtain ⟨r, hr, hbase, hdims⟩ := pairMap_on_regMap p (List.mem_of_find?_eq_some hp)
  exact regRow?_isSome hr (by rw [hbase, hdims]; exact occupies_of_pairRow? hp)

/-- R1: rows and their instances are aligned, and no field leaves its word. -/
theorem regMap_aligned : ∀ r ∈ regMap, r.base % 4 = 0 ∧ (∀ d ∈ r.dims, d.1 % 4 = 0) ∧ ∀ f ∈ r.fields, f.lo + f.width ≤ 32 := by decide +kernel

/-- Settles O1: the map is aligned row by row, and the meaning of an unsupported access only answers it. -/
theorem unsupportedAccessHasNoEffect : Obligations.UnsupportedAccessHasNoEffect := by
  refine ⟨regMap_aligned, fun write addr size s hs h => ?_⟩
  show execUnsupportedAccess write addr size s = _
  rw [execUnsupportedAccess, State.live_runs hs, if_neg h]
  rfl

/-- Settles O53: right after reset no field is listed in `State.regs`, and every table is empty. -/
theorem resetState : Obligations.ResetState :=
  ⟨fun _ => rfl, rfl, rfl, rfl, rfl, rfl⟩

/-- Settles O57: the commands of which a meaning can refuse a term, one by one, and the others by the gates their meanings are made of. -/
theorem wellFormedCommandsComplete : Obligations.WellFormedCommandsComplete := by
  intro c s h
  change Completes (exec c s)
  cases c
  case registerWrite => exact execRegisterWrite_completes (by simpa [Instr.wellFormed, or_assoc] using h) ..
  case unsupportedAccess write addr size => exact execUnsupportedAccess_completes write (not_and_or.mpr (by simpa [Instr.wellFormed] using h)) _
  case unmappedAccess =>
    obtain ⟨hlt, hrow⟩ : _ ∧ _ := by simpa [Instr.wellFormed] using h
    exact execUnmappedAccess_completes _ hlt hrow _
  case lowWordRead addr =>
    obtain ⟨p, hp⟩ := Option.isSome_iff_exists.mp h
    obtain ⟨r, hr⟩ := Option.isSome_iff_exists.mp (regRow?_isSome_of_pairRow? h)
    exact execLowWordRead_completes hp hr _
  case readClear => exact execReadClear_completes h ..
  case shedWindowRead => exact execShedWindowRead_completes (by simpa [Instr.wellFormed] using h) _
  case shedWindowWrite => exact execShedWindowWrite_completes (by simpa [Instr.wellFormed] using h) _
  case ballastWrite =>
    obtain ⟨⟨hlo, hhi⟩, hal⟩ : (_ ∧ _) ∧ _ := by simpa [Instr.wellFormed] using h
    exact execBallastWrite_completes ⟨by simp [isBallast]; omega, hhi⟩ ..
  case repeatBody core n len =>
    obtain ⟨⟨hlo, hhi⟩, hn⟩ : (_ ∧ _) ∧ _ := by simpa [Instr.wellFormed] using h
    exact execRepeatBody_completes core ⟨hlo, hhi⟩ (by rintro v rfl; simpa using hn) _
  case lda => exact execLda_completes _ _ _ (by simpa [Instr.wellFormed, and_assoc] using h) _
  case ld => exact execLd_completes _ (by simpa [Instr.wellFormed] using h) _
  case st => exact execSt_completes _ (by simpa [Instr.wellFormed] using h) _
  -- these act while a reset holds the device, so their meanings stand behind no gate
  case resetAssert => exact execResetAssert_completes ..
  case resetRelease => exact execResetRelease_completes _
  case ilockNLow => exact completes_ite (fun _ => completes_goOn _) (fun _ => completes_goOn _)
  case vbatLoss => exact completes_ite (fun _ => completes_goOn _) (fun _ => completes_goOn _)
  case vbatReturn => exact completes_ite (fun _ => completes_goOn _) (fun _ => completes_goOn _)
  case thermalTrip | brownOut | supplyFault | ilockNHigh => exact completes_goOn _
  all_goals
    dsimp only [exec]
    repeat' (first
      | with_reducible exact completes_goOn _
      | with_reducible refine completes_ite (fun _ => ?_) (fun _ => ?_)
      | with_reducible refine State.whenOn_completes fun _ => ?_
      | with_reducible refine State.quayWrite_completes fun _ => ?_
      | with_reducible refine State.blockWrite_completes fun _ => ?_
      | apply State.live_completes; intro _
      | extract_lets
      | split)

end Sys2Proof.Machine
end

section
/-! SUPPORT. Reads of registers (R2, R3, R5): statements O4 and O5. -/

namespace Sys2Proof.Machine

theorem OnlyRegs.mono {fs gs : List Fld} {s t : State} (h : OnlyRegs fs s t) (hsub : ∀ f ∈ fs, f ∈ gs) : OnlyRegs gs s t :=
  fun g hg => h g fun f hf => hg f (hsub f hf)

theorem OnlyRegs.trans {fs : List Fld} {s t u : State} (h : OnlyRegs fs s t) (h' : OnlyRegs fs t u) : OnlyRegs fs s u :=
  fun g hg => (h' g hg).trans (h g hg)

/-- Nothing but register fields differs. -/
def SameButRegs (s t : State) : Prop := t = { s with regs := t.regs }

theorem SameButRegs.refl (s : State) : SameButRegs s s := rfl

theorem SameButRegs.trans {s t u : State} (h : SameButRegs s t) (h' : SameButRegs t u) : SameButRegs s u := by
  unfold SameButRegs at *
  rw [h', h]

theorem SameButRegs.wr {s t : State} (h : SameButRegs s t) (f : Fld) (v : Nat) : SameButRegs s (t.wr f v) := h.trans rfl

theorem SameButRegs.ite {s t u : State} {c : Prop} [Decidable c] (ht : SameButRegs s t) (hu : SameButRegs s u) :
    SameButRegs s (if c then t else u) := by
  split <;> assumption

theorem OnlyRegs.ite {fs : List Fld} {s t u : State} {c : Prop} [Decidable c] (ht : OnlyRegs fs s t) (hu : OnlyRegs fs s u) :
    OnlyRegs fs s (if c then t else u) := by
  split <;> assumption

theorem State.rd_ite {c : Prop} [Decidable c] (t u : State) (f : Fld) : (if c then t else u : State).rd f = if c then t.rd f else u.rd f :=
  apply_ite (fun x : State => x.rd f) ..

theorem sameButRegs_foldl {β : Type} {step : State → β → State} (hstep : ∀ t x, SameButRegs t (step t x)) :
    ∀ (l : List β) (s : State), SameButRegs s (l.foldl step s)
  | [], s => .refl s
  | x :: l, s => (hstep s x).trans (sameButRegs_foldl hstep l (step s x))

theorem FRow.at_key (f : FRow) (addr : Nat) : (f.at addr).key = 8 * addr + f.lo := rfl

theorem FRow.at_key_ne {f g : FRow} (addr : Nat) (h : f.lo ≠ g.lo) : (f.at addr).key ≠ (g.at addr).key := by
  simpa [FRow.at_key] using h

/-- A pass over the fields of a register, each step of which moves its own field and `extra` only, moves those fields only. -/
theorem onlyRegs_foldl_fields {addr : Nat} {extra : List Fld} {step : State → FRow → State} :
    ∀ (fs : List FRow) (_ : ∀ t, ∀ f ∈ fs, OnlyRegs (extra ++ [f.at addr]) t (step t f)) (s : State),
      OnlyRegs (extra ++ fs.map (·.at addr)) s (fs.foldl step s)
  | [], _, s => .refl s _
  | f :: fs, hstep, s =>
    ((hstep s f List.mem_cons_self).mono (by simp; tauto)).trans
      ((onlyRegs_foldl_fields fs (fun t g hg => hstep t g (List.mem_cons_of_mem _ hg)) (step s f)).mono (by simp; tauto))

/-- In such a pass over fields at different places, a field reads as its own step leaves it, and that step finds it as it was. -/
theorem rd_foldl_fields {addr : Nat} {extra : List Fld} {step : State → FRow → State} {f : FRow} (hextra : ∀ e ∈ extra, e.key ≠ (f.at addr).key) :
    ∀ (fs : List FRow) (_ : ∀ t, ∀ g ∈ fs, OnlyRegs (extra ++ [g.at addr]) t (step t g)) (s : State), f ∈ fs → (fs.map FRow.lo).Nodup →
      ∃ u, OnlyRegs (extra ++ fs.map (·.at addr)) s u ∧ u.rd (f.at addr) = s.rd (f.at addr) ∧
        (fs.foldl step s).rd (f.at addr) = (step u f).rd (f.at addr)
  | [], _, _, hf, _ => absurd hf (List.not_mem_nil)
  | g :: fs, hstep, s, hf, hnodup => by
    rw [List.map_cons, List.nodup_cons] at hnodup
    obtain ⟨hg, hfs⟩ := hnodup
    have hrest : ∀ t, ∀ k ∈ fs, OnlyRegs (extra ++ [k.at addr]) t (step t k) := fun t k hk => hstep t k (List.mem_cons_of_mem _ hk)
    rcases List.mem_cons.mp hf with rfl | hf
    · refine ⟨s, .refl s _, rfl, onlyRegs_foldl_fields fs hrest (step s f) _ fun k hk => ?_⟩
      rcases List.mem_append.mp hk with hk | hk
      · exact hextra k hk
      · obtain ⟨g, hgfs, rfl⟩ := List.mem_map.mp hk
        exact FRow.at_key_ne addr fun h => hg (h ▸ List.mem_map_of_mem hgfs)
    · have hne : g.lo ≠ f.lo := fun h => hg (h ▸ List.mem_map_of_mem hf)
      have hmoved := hstep s g List.mem_cons_self
      obtain ⟨u, hu, hsame, hlast⟩ := rd_foldl_fields hextra fs hrest (step s g) hf hfs
      refine ⟨u, (hmoved.mono (by simp; tauto)).trans (hu.mono (by simp; tauto)), hsame.trans (hmoved _ fun k hk => ?_), hlast⟩
      rcases List.mem_append.mp hk with hk | hk
      · exact hextra k hk
      · rw [List.mem_singleton.mp hk]
        exact FRow.at_key_ne addr hne

/-- The fields of a register lie at different places. -/
theorem regMap_fields_nodup : ∀ r ∈ regMap, (r.fields.map FRow.lo).Nodup := by decide +kernel

@[simp] theorem low_bits (v lo w : Nat) : low w (bits v lo w) = bits v lo w := Nat.mod_mod ..

theorem State.readClearField_onlyRegs (s : State) (addr hw : Nat) (f : FRow) : OnlyRegs [f.at addr] s (s.readClearField addr hw f) := by
  unfold State.readClearField
  split
  · exact (OnlyRegs.refl s _).wr (List.mem_singleton_self _) _
  · exact .refl s _

theorem State.readClearField_sameButRegs (s : State) (addr hw : Nat) (f : FRow) : SameButRegs s (s.readClearField addr hw f) := by
  unfold State.readClearField
  split
  · exact (SameButRegs.refl s).wr _ _
  · exact .refl s

theorem State.readClearField_of_rc (s : State) (addr hw : Nat) {f : FRow} (h : f.acc = .rc) :
    (s.readClearField addr hw f).rd (f.at addr) = bits hw f.lo f.width := by
  rw [State.readClearField, if_pos h, State.rd_wr_same]
  exact low_bits ..

/-- The RC fields of a register cleared but for the bits that `hw` sets (R5). -/
def State.clearOnRead (s : State) (r : RegRow) (addr hw : Nat) : State := r.fields.foldl (fun (t : State) f => t.readClearField addr hw f) s

theorem State.clearOnRead_sameButRegs (s : State) (r : RegRow) (addr hw : Nat) : SameButRegs s (s.clearOnRead r addr hw) :=
  sameButRegs_foldl (fun t f => t.readClearField_sameButRegs addr hw f) _ _

/-- Only the fields with code RC take part in the pass. -/
theorem State.clearOnRead_eq_rc (s : State) (r : RegRow) (addr hw : Nat) :
    s.clearOnRead r addr hw = (r.fields.filter (fun f => f.acc == .rc)).foldl (fun (t : State) f => t.readClearField addr hw f) s := by
  unfold State.clearOnRead
  induction r.fields generalizing s with
  | nil => rfl
  | cons f fs ih =>
    by_cases h : f.acc = .rc
    · simp only [List.foldl_cons, List.filter_cons, h, beq_self_eq_true, if_true, ih]
    · simp only [List.foldl_cons, List.filter_cons, beq_eq_false_iff_ne.mpr h, ih]
      rw [State.readClearField, if_neg h]
      rfl

theorem State.clearOnRead_onlyRegs (s : State) (r : RegRow) (addr hw : Nat) : OnlyRegs (rcFields r addr) s (s.clearOnRead r addr hw) := by
  rw [State.clearOnRead_eq_rc]
  exact onlyRegs_foldl_fields (extra := []) _ (fun t f _ => t.readClearField_onlyRegs addr hw f) s

theorem State.clearOnRead_rc (s : State) {r : RegRow} (hr : r ∈ regMap) (addr hw : Nat) {f : FRow} (hf : f ∈ r.fields) (h : f.acc = .rc) :
    (s.clearOnRead r addr hw).rd (f.at addr) = bits hw f.lo f.width := by
  obtain ⟨u, -, -, hu⟩ := rd_foldl_fields (extra := []) (by simp) r.fields (fun t f _ => t.readClearField_onlyRegs addr hw f) s hf
    (regMap_fields_nodup r hr)
  exact hu.trans (u.readClearField_of_rc addr hw h)

/-- The state in which a read has latched the high words, if the address is the low word of a pair (R2). -/
def State.latched (s : State) (addr : Nat) : State := match pairRow? addr with
  | some p => s.latchHigh addr p
  | none => s

theorem State.latched_of_pair {s : State} {addr : Nat} {p : PairRow} (h : pairRow? addr = some p) : s.latched addr = s.latchHigh addr p := by
  rw [State.latched, h]

theorem State.latched_of_none {s : State} {addr : Nat} (h : pairRow? addr = none) : s.latched addr = s := by
  rw [State.latched, h]

theorem State.latched_frame (s : State) (addr : Nat) : s.latched addr = { s with shadows := (s.latched addr).shadows } := by
  unfold State.latched
  split <;> rfl

/-- A read that is the pop of no queue latches the high words and clears what clears on read. -/
theorem State.readReg_of_no_pop {s : State} {r : RegRow} {addr : Nat} (h : popsQueue r addr = false) (hw : Nat) :
    s.readReg r addr hw = ((s.latched addr).clearOnRead r addr hw, s.busWord addr) := by
  simp only [popsQueue, Bool.or_eq_false_iff, Bool.and_eq_false_imp, beq_iff_eq, beq_eq_false_iff_ne] at h
  obtain ⟨⟨htl, hnt⟩, hqy⟩ := h
  unfold State.readReg
  rw [if_neg (fun c => htl c.1 c.2), if_neg (fun c => hnt c.1 c.2), if_neg hqy]
  rfl

/-- A host's read of a register of a domain that is on. -/
theorem State.hostRead_of_powered {s : State} {addr : Nat} (h : s.powered (domainOf addr) = true) (r : RegRow) (hw : Nat) :
    s.hostRead r addr hw = (s.readReg r addr hw).1.answer .ok [(s.readReg r addr hw).2] := if_pos h

theorem execReadClear_of_row {s : State} {addr : Nat} {r : RegRow} (hs : s.runs) (hr : regRow? addr = some r) (hw : Word) :
    execReadClear addr hw s = .next (s.hostRead r addr hw.toNat) := by
  unfold execReadClear
  simp only [State.live_runs hs, hr]
  rfl

/-- What the latch of a pair leaves in the shadows: each listed place holds the value latched there, the others what they held. -/
theorem Tab.get_foldl_put {α : Type} [DecidableEq α] (d : α) (k : Nat → Nat) (v : Nat → α) (hkv : ∀ i j, k i = k j → v i = v j) (l : List Nat) (t : Tab α) :
    (∀ i ∈ l, Tab.get d (l.foldl (fun t i => Tab.put d t (k i) (v i)) t) (k i) = v i) ∧
      ∀ a, (∀ i ∈ l, k i ≠ a) → Tab.get d (l.foldl (fun t i => Tab.put d t (k i) (v i)) t) a = Tab.get d t a := by
  induction l generalizing t with
  | nil => simp
  | cons x l ih =>
    obtain ⟨hin, hout⟩ := ih (Tab.put d t (k x) (v x))
    refine ⟨fun i hi => ?_, fun a ha => ?_⟩
    · by_cases hx : ∃ j ∈ l, k j = k i
      · obtain ⟨j, hj, hji⟩ := hx
        rw [List.foldl_cons, ← hji, hin j hj, hkv j i hji]
      · rcases List.mem_cons.mp hi with rfl | hi
        · rw [List.foldl_cons, hout _ (by simpa using hx), Tab.get_put_same]
        · exact absurd ⟨i, hi, rfl⟩ hx
    · rw [List.foldl_cons, hout a fun i hi => ha i (List.mem_cons_of_mem _ hi), Tab.get_put_other _ _ _ _ (ha x List.mem_cons_self)]

/-- Settles O4: a read of a low word pops nothing and clears nothing, so it only latches and answers. -/
theorem lowWordReadLatchesHighWords : Obligations.LowWordReadLatchesHighWords := by
  refine ⟨by decide +kernel, fun addr p r s hs hp hr hrc hpop hon => ?_⟩
  have hread : s.hostRead r addr 0 = (s.latchHigh addr p).answer .ok [s.busWord addr] := by
    have hclear : (s.latched addr).clearOnRead r addr 0 = s.latched addr := by
      rw [State.clearOnRead_eq_rc, List.map_eq_nil_iff.mp hrc]
      rfl
    rw [State.hostRead_of_powered hon, State.readReg_of_no_pop hpop, hclear, State.latched_of_pair hp]
  obtain ⟨hin, hout⟩ := Tab.get_foldl_put none (addr + ·) (fun h => some (s.liveWord (addr + h))) (fun i j h => by simp only [h]) p.highs s.shadows
  refine ⟨(s.latchHigh addr p).answer .ok [s.busWord addr], ?_, rfl, hin, hout, rfl⟩
  show execLowWordRead addr s = _
  unfold execLowWordRead
  simp only [State.live_runs hs, hp, hr]
  rw [hread]
  rfl

/-- The name of the register at an address and the number of its instance. -/
def rowAt (addr : Nat) : Option (String × Nat × Nat) := (regRow? addr).map (fun r => (r.name, r.inst addr))

theorem rowAt_eq_some {addr : Nat} {n : String} {i j : Nat} (h : rowAt addr = some (n, i, j)) :
    ∃ r, regRow? addr = some r ∧ r.name = n ∧ r.inst addr = (i, j) := by
  obtain ⟨r, hr, he⟩ := Option.map_eq_some_iff.mp h
  exact ⟨r, hr, congrArg Prod.fst he, congrArg Prod.snd he⟩

/-- R208: TL_FIFO_0 of each bank is the head of its FIFO. -/
theorem tallyFifo_rows : ∀ b : Fin 8, rowAt (0x600100 + 0x10000 * b.val) = some ("TL_FIFO_w", b.val, 0) ∧
    domainOf (0x600100 + 0x10000 * b.val) = bankDomain b.val := by decide +kernel

/-- R83: QY_SPI_RXD of each quay is the head of its read queue. -/
theorem spiRxd_rows : ∀ n : Fin 8, rowAt (0x40004C + 0x10000 * n.val) = some ("QY_SPI_RXD", n.val, 0) ∧
    domainOf (0x40004C + 0x10000 * n.val) = quayDomain n.val := by decide +kernel

/-- R403: NT_TS_FIFO_0 is the head of the stamp FIFO. -/
theorem stampFifo_row : rowAt 0xE00010 = some ("NT_TS_FIFO_w", 0, 0) ∧ domainOf 0xE00010 = netDomain := by decide +kernel

/-- A read that is a pop is answered with what the pop gives, or by the Lock of a domain that is off (R31). -/
theorem execReadClear_of_pop {s : State} {addr : Nat} {r : RegRow} (hs : s.runs) (hr : regRow? addr = some r) (hw : Word) {pop : State × Nat}
    (hpop : s.readReg r addr hw.toNat = pop) :
    execReadClear addr hw s =
      if s.powered (domainOf addr) then goOn (pop.1.answer .ok [pop.2]) else goOn ((s.lockAnswer (domainOf addr)).answer .ok [0]) := by
  rw [execReadClear_of_row hs hr, State.hostRead, hpop]
  split <;> rfl

theorem exec_readClear_tallyFifo {s : State} (hs : s.runs) (hw : Word) (b : Fin 8) :
    exec (.readClear (0x600100 + 0x10000 * b.val) hw) s = exec (.tallyFifoPop b) s := by
  obtain ⟨hrow, hdom⟩ := tallyFifo_rows b
  obtain ⟨r, hr, hname, hinst⟩ := rowAt_eq_some hrow
  have hpop : s.readReg r (0x600100 + 0x10000 * b.val) hw.toNat = s.popFifo b := by
    simp [State.readReg, hname, hinst]
  show execReadClear _ hw s = execTallyFifoPop b s
  rw [execReadClear_of_pop hs hr hw hpop, hdom, execTallyFifoPop, State.live_runs hs]

theorem exec_readClear_spiRxd {s : State} (hs : s.runs) (hw : Word) (n : Fin 8) :
    exec (.readClear (0x40004C + 0x10000 * n.val) hw) s = exec (.spiRxdRead n) s := by
  obtain ⟨hrow, hdom⟩ := spiRxd_rows n
  obtain ⟨r, hr, hname, hinst⟩ := rowAt_eq_some hrow
  have hpop : s.readReg r (0x40004C + 0x10000 * n.val) hw.toNat =
      ((s.setQuay n { s.quay n with spiRx := (s.quay n).spiRx.tail }).spiLevels n, (s.quay n).spiRx.headD 0) := by
    simp [State.readReg, hname, hinst]
  show execReadClear _ hw s = execSpiRxdRead n s
  rw [execReadClear_of_pop hs hr hw hpop, hdom, execSpiRxdRead, State.live_runs hs]

theorem exec_readClear_stampFifo {s : State} (hs : s.runs) (hw : Word) : exec (.readClear 0xE00010 hw) s = exec .ptpStampPop s := by
  obtain ⟨hrow, hdom⟩ := stampFifo_row
  obtain ⟨r, hr, hname, hinst⟩ := rowAt_eq_some hrow
  have hpop : s.readReg r 0xE00010 hw.toNat = s.popStamp := by
    simp [State.readReg, hname, hinst]
  show execReadClear 0xE00010 hw s = execPtpStampPop s
  rw [execReadClear_of_pop hs hr hw hpop, hdom, execPtpStampPop, State.live_runs hs]

/-- R2: the high row of a pair reads its shadow, or its reset value before any read of the low row. -/
theorem State.readWord_of_highRow {addr : Nat} {r : RegRow} (h : isHighRow addr = true) (hr : regRow? addr = some r) (s : State) :
    s.readWord addr = (Tab.get none s.shadows addr).getD (rowReset r) := by
  rw [State.readWord, if_pos h]
  simp only [hr]
  cases Tab.get none s.shadows addr <;> rfl

/-- Settles O5: a read that pops nothing latches and clears, field by field; the three that pop are the pops of their queues. -/
theorem readClearKeepsConcurrentSets : Obligations.ReadClearKeepsConcurrentSets := by
  refine ⟨fun addr r hw s hs hr hpop hon => ?_, fun addr s h r hr => s.readWord_of_highRow h hr,
    fun hw s hs => ⟨exec_readClear_tallyFifo hs hw, exec_readClear_spiRxd hs hw, exec_readClear_stampFifo hs hw⟩⟩
  let u := (s.latched addr).clearOnRead r addr hw.toNat
  have hu : SameButRegs (s.latched addr) u := State.clearOnRead_sameButRegs ..
  have hframe : u = { s with regs := u.regs, shadows := u.shadows } := by
    rw [hu, State.latched_frame]
  have hlatch : OnlyRegs (rcFields r addr) s (s.latched addr) := (OnlyRegs.refl s _).of_regs (by rw [State.latched_frame])
  refine ⟨u.answer .ok [s.busWord addr], ?_, rfl, fun f hf hrc => ?_, ?_, fun hp => ?_, ?_⟩
  · show execReadClear addr hw s = _
    rw [execReadClear_of_row hs hr, State.hostRead_of_powered hon, State.readReg_of_no_pop hpop]
  · exact State.clearOnRead_rc _ (mem_regMap_of_regRow? hr) addr _ hf hrc
  · exact hlatch.trans ((State.clearOnRead_onlyRegs _ r addr hw.toNat).of_regs rfl)
  · show u.shadows = s.shadows
    rw [hu, State.latched_of_none hp]
  · exact congrArg (·.answer .ok [s.busWord addr]) hframe

end Sys2Proof.Machine
end

section
/-! SUPPORT. Which row of the register map occupies an address: a row whose instances no other row can meet is found at each of them. -/

namespace Sys2Proof.Machine

/-- How far the instances of a row reach, seen modulo `m`: strides that are multiples of `m` do not count. -/
def dimsSpan (m : Nat) (dims : List (Nat × Nat)) : Nat := ((dims.filter (fun d => d.1 % m != 0)).map (fun d => d.1 * (d.2 - 1))).sum

theorem dimsSpan_cons (m : Nat) (d : Nat × Nat) (dims : List (Nat × Nat)) :
    dimsSpan m (d :: dims) = (if d.1 % m = 0 then 0 else d.1 * (d.2 - 1)) + dimsSpan m dims := by
  by_cases h : d.1 % m = 0 <;> simp [dimsSpan, h]

/-- The distance of an instance is, modulo `m`, at most the span. -/
theorem modEq_le_dimsSpan_of_hit (m : Nat) :
    ∀ {dims : List (Nat × Nat)} {o : Nat}, dimsHit dims o = true → ∃ b, b ≤ dimsSpan m dims ∧ o ≡ b [MOD m]
  | [], o, h => ⟨0, Nat.zero_le _, by simp_all [dimsHit, Nat.ModEq]⟩
  | (st, n) :: dims, o, h => by
    simp only [dimsHit, Bool.and_eq_true, decide_eq_true_eq] at h
    obtain ⟨hlt, hrest⟩ := h
    obtain ⟨b, hb, hob⟩ := modEq_le_dimsSpan_of_hit m hrest
    rw [dimsSpan_cons]
    have hsplit : o = st * (o / st) + o % st := (Nat.div_add_mod o st).symm
    by_cases hst : st % m = 0
    · refine ⟨b, by omega, ?_⟩
      have hzero : st * (o / st) ≡ 0 [MOD m] := (Nat.modEq_zero_iff_dvd.mpr ((Nat.dvd_of_mod_eq_zero hst).mul_right _))
      calc o = st * (o / st) + o % st := hsplit
        _ ≡ 0 + b [MOD m] := hzero.add hob
        _ = b := Nat.zero_add b
    · refine ⟨st * (o / st) + b, ?_, ?_⟩
      · have hmul : st * (o / st) ≤ st * (n - 1) := Nat.mul_le_mul_left st (by omega)
        simp only [hst, if_false]
        omega
      · calc o = st * (o / st) + o % st := hsplit
          _ ≡ st * (o / st) + b [MOD m] := Nat.ModEq.rfl.add hob

/-- Where a row's addresses lie modulo `m`, if the window that its instances make does not wrap round. -/
theorem window_of_occupies {base addr m : Nat} {dims : List (Nat × Nat)} (h : occupies base dims addr = true)
    (hm : m = 0 ∨ base % m + dimsSpan m dims < m) : base % m ≤ addr % m ∧ addr % m ≤ base % m + dimsSpan m dims := by
  simp only [occupies, Bool.and_eq_true, decide_eq_true_eq] at h
  obtain ⟨hle, hhit⟩ := h
  obtain ⟨b, hb, hob⟩ := modEq_le_dimsSpan_of_hit m hhit
  have haddr : addr ≡ base % m + b [MOD m] := by
    calc addr = base + (addr - base) := by omega
      _ ≡ base % m + b [MOD m] := (Nat.mod_modEq base m).symm.add hob
  have hmod : (base % m + b) % m = base % m + b := by
    rcases hm with rfl | hm
    · exact Nat.mod_zero _
    · exact Nat.mod_eq_of_lt (by omega)
  rw [Nat.ModEq, hmod] at haddr
  omega

/-- The windows of two rows modulo `m` do not wrap round, and the first ends before the second begins. -/
def RegRow.below (m : Nat) (r q : RegRow) : Bool :=
  decide (m = 0 ∨ r.base % m + dimsSpan m r.dims < m) && decide (m = 0 ∨ q.base % m + dimsSpan m q.dims < m) &&
    decide (r.base % m + dimsSpan m r.dims < q.base % m)

/-- Two rows meet at no address, since their windows do not meet: as they stand (modulo 0), or modulo a stride of one of them. -/
def RegRow.apart (r q : RegRow) : Bool :=
  (0 :: (r.dims ++ q.dims).map Prod.fst).any (fun m => RegRow.below m r q || RegRow.below m q r)

theorem RegRow.not_both_occupy_of_below {m : Nat} {r q : RegRow} (h : RegRow.below m r q = true) {addr : Nat}
    (hr : occupies r.base r.dims addr = true) (hq : occupies q.base q.dims addr = true) : False := by
  simp only [RegRow.below, Bool.and_eq_true, decide_eq_true_eq] at h
  obtain ⟨⟨hmr, hmq⟩, hlt⟩ := h
  have := window_of_occupies hr hmr
  have := window_of_occupies hq hmq
  omega

theorem RegRow.not_both_occupy {r q : RegRow} (h : r.apart q = true) {addr : Nat} (hr : occupies r.base r.dims addr = true)
    (hq : occupies q.base q.dims addr = true) : False := by
  obtain ⟨m, -, hm⟩ := List.any_eq_true.mp h
  rcases Bool.or_eq_true _ _ ▸ hm with hm | hm
  · exact RegRow.not_both_occupy_of_below hm hr hq
  · exact RegRow.not_both_occupy_of_below hm hq hr

/-- A row of this name lies there, and no other row meets it. -/
def StandsAlone (name : String) (base : Nat) (dims : List (Nat × Nat)) : Prop :=
  ∃ r ∈ regMap, (r.base = base ∧ r.name = name ∧ r.dims = dims) ∧ ∀ q ∈ regMap, r.apart q = true ∨ q = r

theorem StandsAlone.regRow? {name : String} {base addr : Nat} {dims : List (Nat × Nat)} (h : StandsAlone name base dims)
    (hocc : occupies base dims addr = true) : ∃ r, regRow? addr = some r ∧ r.name = name ∧ r.base = base ∧ r.dims = dims := by
  obtain ⟨r, hr, ⟨rfl, rfl, rfl⟩, halone⟩ := h
  obtain ⟨q, hq⟩ := Option.isSome_iff_exists.mp (regRow?_isSome hr hocc)
  rcases halone q (mem_regMap_of_regRow? hq) with hap | rfl
  · exact (RegRow.not_both_occupy hap hocc (occupies_of_regRow? hq)).elim
  · exact ⟨q, hq, rfl, rfl, rfl⟩

/-- A row without instances. -/
theorem StandsAlone.rowAt_none {name : String} {base : Nat} (h : StandsAlone name base []) : rowAt base = some (name, 0, 0) := by
  obtain ⟨r, hr, hname, -, hdims⟩ := h.regRow? (addr := base) (by simp [occupies, dimsHit])
  simp [rowAt, hr, hname, RegRow.inst, hdims]

/-- The instances of a row with one dimension. -/
theorem StandsAlone.rowAt_one {name : String} {base st n : Nat} (h : StandsAlone name base [(st, n)]) (hst : 0 < st) {i : Nat} (hi : i < n) :
    rowAt (base + st * i) = some (name, i, 0) := by
  have hocc : occupies base [(st, n)] (base + st * i) = true := by
    simp [occupies, dimsHit, Nat.mul_div_cancel_left i hst, hi]
  obtain ⟨r, hr, hname, hbase, hdims⟩ := h.regRow? hocc
  simp [rowAt, hr, hname, RegRow.inst, hdims, hbase, Nat.mul_div_cancel_left i hst]

/-- The instances of a row with two dimensions, the second of which fits into a stride of the first. -/
theorem StandsAlone.rowAt_two {name : String} {base st n st2 n2 : Nat} (h : StandsAlone name base [(st, n), (st2, n2)]) (hst2 : 0 < st2)
    (hfit : st2 * n2 ≤ st) {i j : Nat} (hi : i < n) (hj : j < n2) : rowAt (base + st * i + st2 * j) = some (name, i, j) := by
  have hlt : st2 * j < st := lt_of_lt_of_le ((Nat.mul_lt_mul_left hst2).mpr hj) hfit
  have hsub : base + st * i + st2 * j - base = st * i + st2 * j := by omega
  have hdiv : (st * i + st2 * j) / st = i := by
    rw [Nat.mul_add_div (by omega), Nat.div_eq_of_lt hlt, Nat.add_zero]
  have hmod : (st * i + st2 * j) % st = st2 * j := by
    rw [Nat.mul_add_mod, Nat.mod_eq_of_lt hlt]
  have hocc : occupies base [(st, n), (st2, n2)] (base + st * i + st2 * j) = true := by
    simp [occupies, dimsHit, hdiv, hmod, hi, hj, Nat.mul_div_cancel_left j hst2, Nat.add_assoc]
  obtain ⟨r, hr, hname, hbase, hdims⟩ := h.regRow? hocc
  simp [rowAt, hr, hname, RegRow.inst, hdims, hbase, hsub, hdiv, hmod, Nat.mul_div_cancel_left j hst2]

/-- R1: a register's address is aligned. -/
theorem aligned_of_regRow? {addr : Nat} {r : RegRow} (h : regRow? addr = some r) : addr % 4 = 0 := by
  obtain ⟨hbase, hdims, -⟩ := regMap_aligned r (mem_regMap_of_regRow? h)
  have hspan : dimsSpan 4 r.dims = 0 := by
    rw [dimsSpan, List.filter_eq_nil_iff.mpr (by simpa using fun a b hd => hdims (a, b) hd)]
    rfl
  have := window_of_occupies (occupies_of_regRow? h) (m := 4) (by omega)
  omega

/-- The registers whose writes have rows of their own, as O6 lists them: name, base, strides and counts. -/
def actingRows : List (String × Nat × List (Nat × Nat)) :=
  [("HB_TIME_RATE", 0x84, []), ("HB_TIME_STEP_HI", 0x8C, []), ("HB_MF_CTL", 0x1808, []), ("WH_CTL", 0xB00000, []), ("MB_BOOT_CTL", 0xF04024, []),
   ("CU_PROG_CTL", 0x100108, []), ("RS_CTL", 0x200004, []), ("RS_WDT_CFG", 0x200008, []), ("RS_WDT_KICK", 0x20000C, []),
   ("RS_PWR_REQ", 0x200020, []), ("RS_DOM_RST", 0x200030, []), ("RS_BERTH_RST", 0x200034, []), ("RS_SAFE", 0x200040, []),
   ("RS_PIN_HOLD", 0x200050, []), ("QY_PLAN_SEL", 0x400008, [(0x10000, 8)]), ("QY_LGT_CFG", 0x400034, [(0x10000, 8)]), ("QY_LGT_PERIOD", 0x400038, [(0x10000, 8)]),
   ("QY_SPI_CMD", 0x400044, [(0x10000, 8)]), ("QY_GPIO_CFG", 0x400060, [(0x10000, 8)]), ("QY_GPIO_OUT", 0x400064, [(0x10000, 8)]),
   ("RX_CFG", 0x501000, [(0x100, 8)]), ("RX_NOISE_P0", 0x501010, [(0x100, 8)]), ("RX_NOISE_LEN", 0x501014, [(0x100, 8)]),
   ("TL_LANE_i_CFG", 0x601000, [(0x10000, 8), (0x100, 16)]), ("TL_LANE_i_TMO", 0x601008, [(0x10000, 8), (0x100, 16)]),
   ("TL_LANE_i_HCFG", 0x601010, [(0x10000, 8), (0x100, 16)]), ("TL_LANE_i_HOFS", 0x601014, [(0x10000, 8), (0x100, 16)]),
   ("TL_LANE_i_STATCFG", 0x601018, [(0x10000, 8), (0x100, 16)]), ("TL_LANE_i_FGATE", 0x60101C, [(0x10000, 8), (0x100, 16)]),
   ("TL_LANE_i_HCTL", 0x601020, [(0x10000, 8), (0x100, 16)]), ("BC_BYB_k_CMD", 0x700100, [(0x10, 16)]),
   ("SN_CH_c_CFG", 0x801000, [(0x100, 16)]), ("SN_CH_c_EXC", 0x801004, [(0x100, 16)]), ("SN_CH_c_LEADR", 0x801008, [(0x100, 16)]),
   ("SN_CH_c_LEADN", 0x80100C, [(0x100, 16)]), ("SN_CH_c_A", 0x801010, [(0x100, 16)]), ("SN_CH_c_B", 0x801014, [(0x100, 16)]),
   ("SN_CH_c_X0", 0x801018, [(0x100, 16)]), ("SN_CH_c_CUT", 0x80101C, [(0x100, 16)]), ("SN_CH_c_R0", 0x801020, [(0x100, 16)]),
   ("SN_CH_c_POLY", 0x801024, [(0x100, 16)]), ("WT_w_LEVEL", 0x90100C, [(0x100, 32)]), ("WT_w_HYST", 0x901010, [(0x100, 32)]),
   ("PI_CL_POST_1", 0xA00044, [(0x40000, 4)]), ("TG_e_CH_c_HEAD", 0xC01104, [(0x1000, 8), (0x20, 32)]), ("PK_e_JOB", 0xD01004, [(0x100, 2)])]

theorem actingRows_act : ∀ p ∈ actingRows, effectRows.contains p.1 = true := by decide +kernel

theorem actingRows_standAlone : ∀ p ∈ actingRows, StandsAlone p.1 p.2.1 p.2.2 := by
  unfold StandsAlone
  decide +kernel

end Sys2Proof.Machine
end

section
/-! SUPPORT. Writes of registers by their access codes (R3, R4, R8), and the gates that every write passes (R16, R31, R437). -/

namespace Sys2Proof.Machine

/-! One field of a write. -/

theorem State.rd_writeField_stores (s : State) (addr : Nat) {f : FRow} (v hw : Nat) (h : f.acc = .rw ∨ f.acc = .wo) :
    (s.writeField addr f (bits v f.lo f.width) hw).rd (f.at addr) =
      if f.accepts (bits v f.lo f.width) then bits v f.lo f.width else s.rd (f.at addr) := by
  have hw : s.writeField addr f (bits v f.lo f.width) hw =
      if f.accepts (bits v f.lo f.width) then s.wr (f.at addr) (bits v f.lo f.width) else s := by
    rcases h with h | h <;> simp only [State.writeField, h]
  rw [hw]
  split
  · rw [State.rd_wr_same]
    exact low_bits ..
  · rfl

theorem State.writeField_keeps (s : State) (addr : Nat) {f : FRow} (v hw : Nat) (h : f.acc = .ro ∨ f.acc = .rc ∨ f.acc = .own) :
    s.writeField addr f v hw = s := by
  rcases h with h | h | h <;> simp only [State.writeField, h]

theorem State.rd_writeField_w1s (s : State) (addr : Nat) {f : FRow} (hw : Nat) (h : f.acc = .w1s) (hwidth : f.width = 1)
    (hs : s.rd (f.at addr) < 2) : (s.writeField addr f 1 hw).rd (f.at addr) = 1 := by
  have hor : s.rd (f.at addr) ||| 1 = 1 := by
    rcases Nat.lt_succ_iff_lt_or_eq.mp hs with h0 | h1
    · rw [Nat.lt_one_iff.mp h0]; rfl
    · rw [h1]; rfl
  simp only [State.writeField, h, State.rd_wr_same, hor]
  simp [FRow.at, hwidth, low]

theorem State.rd_writeField_w1c (s : State) (addr : Nat) {f : FRow} (v : Nat) (h : f.acc = .w1c) (hwidth : f.width = 1)
    (hs : s.rd (f.at addr) = 1) : (s.writeField addr f 1 (bits v f.lo 1)).rd (f.at addr) = bits v f.lo 1 := by
  have hclear : (1 - (1 &&& 1) ||| bits v f.lo 1) = bits v f.lo 1 := Nat.zero_or _
  simp only [State.writeField, h, State.rd_wr_same, hs, hclear]
  simp [FRow.at, hwidth]

/-- The fields that count an attempt to write a sealed register (R6). -/
def rwlMarks : List Fld := [R.CU_STATUS_RWL_HIT, R.CU_RWL_CNT_COUNT]

theorem rwlMarks_key_ne_state : ∀ e ∈ rwlMarks, e.key ≠ R.CU_STATE_STATE.key := by decide

/-- Those of them that a write of the row may move. -/
def RegRow.marks (r : RegRow) : List Fld := if r.fields.any (fun f => f.acc == .rwl) then rwlMarks else []

theorem RegRow.marks_subset (r : RegRow) : ∀ f ∈ r.marks, f ∈ rwlMarks := by
  unfold RegRow.marks
  split <;> simp

theorem RegRow.marks_of_rwl {r : RegRow} {f : FRow} (hf : f ∈ r.fields) (h : f.acc = .rwl) : r.marks = rwlMarks :=
  if_pos (List.any_eq_true.mpr ⟨f, hf, by simp [h]⟩)

theorem State.writeField_sameButRegs (s : State) (addr : Nat) (f : FRow) (v hw : Nat) : SameButRegs s (s.writeField addr f v hw) := by
  unfold State.writeField
  split
  case h_1 | h_2 | h_3 => exact .refl s
  case h_4 | h_5 => split; exacts [rfl, rfl]
  case h_6 | h_7 => rfl
  case h_8 => split; exacts [rfl, by split; exacts [rfl, rfl]]

theorem State.writeField_onlyRegs (s : State) (addr : Nat) {r : RegRow} {f : FRow} (hf : f ∈ r.fields) (v hw : Nat) :
    OnlyRegs (r.marks ++ [f.at addr]) s (s.writeField addr f v hw) := by
  have hself : f.at addr ∈ r.marks ++ [f.at addr] := by simp
  cases hacc : f.acc
  case ro | rc | own => rw [State.writeField_keeps s addr v hw (by simp [hacc])]; exact .refl s _
  case rw | wo =>
    simp only [State.writeField, hacc]
    split
    · exact (OnlyRegs.refl s _).wr hself _
    · exact .refl s _
  case w1s | w1c => simp only [State.writeField, hacc]; exact (OnlyRegs.refl s _).wr hself _
  case rwl =>
    have hhit : R.CU_STATUS_RWL_HIT ∈ r.marks ++ [f.at addr] := by simp [RegRow.marks_of_rwl hf hacc, rwlMarks]
    have hcnt : R.CU_RWL_CNT_COUNT ∈ r.marks ++ [f.at addr] := by simp [RegRow.marks_of_rwl hf hacc, rwlMarks]
    simp only [State.writeField, hacc]
    split
    · exact ((OnlyRegs.refl s _).wr hhit _).wr hcnt _
    · split
      · exact (OnlyRegs.refl s _).wr hself _
      · exact .refl s _

/-! A register, field by field. -/

theorem regMap_lo_lt : ∀ r ∈ regMap, ∀ f ∈ r.fields, f.lo < 32 := by decide +kernel

/-- A register that a seal locks is none of the life cycle's own. -/
theorem rwl_rows_elsewhere : ∀ r ∈ regMap, (r.fields.any (fun f => f.acc == .rwl)) = true →
    ∀ a ∈ [0x100000, 0x100008, 0x10000C], occupies r.base r.dims a = false := by decide +kernel

theorem field_key_ne {r : RegRow} {addr : Nat} (hr : regRow? addr = some r) {f : FRow} (hf : f ∈ r.fields) {a lo : Nat} (ha : a % 4 = 0)
    (hlo : lo < 32) (hne : addr ≠ a) : 8 * a + lo ≠ (f.at addr).key := by
  have := regMap_lo_lt r (mem_regMap_of_regRow? hr) f hf
  have := aligned_of_regRow? hr
  rw [FRow.at_key]
  omega

theorem ne_of_rwl {r : RegRow} {addr : Nat} (hr : regRow? addr = some r) (h : r.fields.any (fun f => f.acc == .rwl) = true) :
    ∀ a ∈ [0x100000, 0x100008, 0x10000C], addr ≠ a := by
  rintro a ha rfl
  have := rwl_rows_elsewhere r (mem_regMap_of_regRow? hr) h addr ha
  simp [occupies_of_regRow? hr] at this

theorem marks_key_ne {r : RegRow} {addr : Nat} (hr : regRow? addr = some r) {f : FRow} (hf : f ∈ r.fields) :
    ∀ e ∈ r.marks, e.key ≠ (f.at addr).key := by
  unfold RegRow.marks
  split
  case isFalse => simp
  case isTrue h =>
    have hne := ne_of_rwl hr h
    intro e he
    rcases List.mem_cons.mp he with rfl | he
    · exact field_key_ne hr hf (a := 0x100008) (lo := 3) (by decide) (by decide) (hne _ (by simp))
    · rw [List.mem_singleton.mp he]
      exact field_key_ne hr hf (a := 0x10000C) (lo := 0) (by decide) (by decide) (hne _ (by simp))

/-- The write of a register moves its fields, and the marks of R6. -/
theorem State.writeRow_onlyRegs (s : State) (r : RegRow) (addr value hw : Nat) :
    OnlyRegs (rwlMarks ++ r.fields.map (fun f => f.at addr)) s (s.writeRow r addr value hw) := by
  have hmoved := onlyRegs_foldl_fields (addr := addr) (extra := r.marks) r.fields (fun t f hf => t.writeField_onlyRegs addr hf
    (bits value f.lo f.width) (bits hw f.lo f.width)) s
  exact hmoved.mono fun f hf => List.mem_append.mpr ((List.mem_append.mp hf).imp_left (r.marks_subset f))

theorem State.writeRow_sameButRegs (s : State) (r : RegRow) (addr value hw : Nat) : SameButRegs s (s.writeRow r addr value hw) :=
  sameButRegs_foldl (fun t f => t.writeField_sameButRegs addr f _ _) _ _

/-- A field of a written register reads as the write of that field leaves it. -/
theorem State.rd_writeRow (s : State) {r : RegRow} {addr : Nat} (hr : regRow? addr = some r) (value hw : Nat) {f : FRow} (hf : f ∈ r.fields) :
    ∃ u, OnlyRegs (r.marks ++ r.fields.map (·.at addr)) s u ∧ u.rd (f.at addr) = s.rd (f.at addr) ∧
      (s.writeRow r addr value hw).rd (f.at addr) =
        (u.writeField addr f (bits value f.lo f.width) (bits hw f.lo f.width)).rd (f.at addr) :=
  rd_foldl_fields (extra := r.marks) (marks_key_ne hr hf) r.fields (fun t _ hg => t.writeField_onlyRegs addr hg _ _) s hf
    (regMap_fields_nodup r (mem_regMap_of_regRow? hr))

section Fields
variable (s : State) {r : RegRow} {addr : Nat} (hr : regRow? addr = some r) (v hw : Nat) {f : FRow} (hf : f ∈ r.fields)
include hr hf

theorem State.rd_writeRow_stores (h : f.acc = .rw ∨ f.acc = .wo) :
    (s.writeRow r addr v hw).rd (f.at addr) =
      if f.accepts (bits v f.lo f.width) then bits v f.lo f.width else s.rd (f.at addr) := by
  obtain ⟨u, -, hu, hlast⟩ := s.rd_writeRow hr v hw hf
  rw [hlast, State.rd_writeField_stores u addr v _ h, hu]

theorem State.rd_writeRow_keeps (h : f.acc = .ro ∨ f.acc = .rc ∨ f.acc = .own) : (s.writeRow r addr v hw).rd (f.at addr) = s.rd (f.at addr) := by
  obtain ⟨u, -, hu, hlast⟩ := s.rd_writeRow hr v hw hf
  rw [hlast, State.writeField_keeps u addr _ _ h, hu]

theorem State.rd_writeRow_w1s (h : f.acc = .w1s) (hwidth : f.width = 1) (hv : bits v f.lo 1 = 1) (hs : s.rd (f.at addr) < 2) :
    (s.writeRow r addr v hw).rd (f.at addr) = 1 := by
  obtain ⟨u, -, hu, hlast⟩ := s.rd_writeRow hr v hw hf
  rw [hlast, hwidth, hv]
  exact u.rd_writeField_w1s addr _ h hwidth (hu ▸ hs)

theorem State.rd_writeRow_w1c (h : f.acc = .w1c) (hwidth : f.width = 1) (hv : bits v f.lo 1 = 1) (hs : s.rd (f.at addr) = 1) :
    (s.writeRow r addr v hw).rd (f.at addr) = bits hw f.lo 1 := by
  obtain ⟨u, -, hu, hlast⟩ := s.rd_writeRow hr v hw hf
  rw [hlast, hwidth, hv]
  exact u.rd_writeField_w1c addr hw h hwidth (hu.trans hs)

/-- R6: once sealed, a write leaves the field; the seal stands through the write, whose register is none of the life cycle's. -/
theorem State.rd_writeRow_rwl (h : f.acc = .rwl) (hs : s.rd R.CU_STATE_STATE = 3) : (s.writeRow r addr v hw).rd (f.at addr) = s.rd (f.at addr) := by
  obtain ⟨u, hmoved, hu, hlast⟩ := s.rd_writeRow hr v hw hf
  have hmarks := RegRow.marks_of_rwl hf h
  have hstate : u.rd R.CU_STATE_STATE = s.rd R.CU_STATE_STATE := hmoved _ fun e he => by
    rcases List.mem_append.mp he with he | he
    · exact rwlMarks_key_ne_state e (hmarks ▸ he)
    · obtain ⟨g, hg, rfl⟩ := List.mem_map.mp he
      exact (field_key_ne hr hg (a := 0x100000) (lo := 0) (by decide) (by decide)
        (ne_of_rwl hr (List.any_eq_true.mpr ⟨f, hf, by simp [h]⟩) _ (by simp))).symm
  have hsealed : u.isSealed = true := by simp [State.isSealed, hstate, hs]
  have hne := marks_key_ne hr hf
  rw [hmarks] at hne
  rw [hlast]
  simp only [State.writeField, h, hsealed, if_true]
  rw [State.rd_inc_other _ (hne _ (by simp [rwlMarks])), State.rd_wr_other _ _ (hne _ (by simp [rwlMarks])), hu]

end Fields

end Sys2Proof.Machine
end

section
/-! SUPPORT. What a register write does once it is through its gates: the write under the access codes, the row of its own that a register has,
or the place behind a retrain (R16, R21, R437): statement O6. -/

namespace Sys2Proof.Machine

/-! The first write of a block (R437). -/

theorem Tab.put_put_same {α : Type} [DecidableEq α] (d : α) (t : Tab α) (k : Nat) (v : α) : Tab.put d (Tab.put d t k v) k v = Tab.put d t k v := by
  unfold Tab.put
  split
  · simp [Tab.erase]
  · induction t with
    | nil => simp [Tab.insert]
    | cons e t ih =>
      obtain ⟨i, w⟩ := e
      simp only [Tab.insert]
      split_ifs <;> simp_all [Tab.insert]

theorem State.wr_wr_same (s : State) (f : Fld) (v : Nat) : (s.wr f v).wr f v = s.wr f v := by
  simp only [State.wr, Tab.put_put_same]

/-- The outputs that wait for a block's first write, without those of domain `d`. -/
def Power.released (p : Power) (d : Nat) : Power :=
  { p with holds := Tab.put [] p.holds (if 9 ≤ d ∧ d ≤ 16 then 9 else d) [], cold := p.cold.filter (· != if 9 ≤ d ∧ d ≤ 16 then 9 else d) }

theorem Power.released_released (p : Power) (d : Nat) : (p.released d).released d = p.released d := by
  simp [Power.released, Tab.put_put_same]

theorem State.endHold_eq (s : State) (d : Nat) :
    s.endHold d = if s.power.holds.isEmpty then { s with power := s.power.released d }
      else ({ s with power := s.power.released d } : State).wrB R.RS_PIN_HOLD_HOLDING (!(s.power.released d).holds.isEmpty) := rfl

theorem State.endHold_power (s : State) (d : Nat) : (s.endHold d).power = s.power.released d := by
  rw [State.endHold_eq]
  split <;> rfl

theorem State.endHold_links (s : State) (d : Nat) : (s.endHold d).links = s.links := by
  rw [State.endHold_eq]
  split <;> rfl

theorem State.endHold_powered (s : State) (d e : Nat) : (s.endHold d).powered e = s.powered e := by
  rw [State.endHold_eq, State.powered, State.rdBit]
  split
  · rfl
  · rw [State.rd_wrB_other _ _ (by decide)]
    rfl

theorem State.endHold_answer (s : State) (d : Nat) (st : BusStatus) (l : List Nat) : (s.answer st l).endHold d = (s.endHold d).answer st l := by
  rw [State.endHold_eq, State.endHold_eq]
  show (if s.power.holds.isEmpty then _ else _) = _
  split <;> rfl

/-- A second write finds nothing to release. -/
theorem State.endHold_endHold (s : State) (d : Nat) : (s.endHold d).endHold d = s.endHold d := by
  rw [State.endHold_eq (s.endHold d), State.endHold_power, Power.released_released]
  have hself : ({ s.endHold d with power := s.power.released d } : State) = s.endHold d := by rw [← State.endHold_power]
  rw [hself]
  split
  · rfl
  · next h =>
    rw [State.endHold_eq]
    split
    · next he =>
      have : (s.power.released d).holds.isEmpty = true := by
        rw [List.isEmpty_iff] at he
        simp [Power.released, he, Tab.put, Tab.erase]
      exact absurd this h
    · exact State.wr_wr_same ..

theorem State.takesWrites_endHold {s : State} {d : Nat} (hs : s.runs) (hon : s.powered d = true) : (s.endHold d).takesWrites d :=
  ⟨by rw [State.endHold_power]; exact hs, by rw [State.endHold_powered]; exact hon, s.endHold_endHold d⟩

/-! The gates. -/

/-- The state in which the host has its completion; a Tug waits for none. -/
def State.acked (s : State) (who : Requester) : State := if who = .host then s.answer .ok [] else s

theorem State.acked_eq (s : State) (who : Requester) : s.acked who = { s with completion := (s.acked who).completion } := by
  unfold State.acked
  split <;> rfl

theorem State.acked_completion (s : State) (who : Requester) : (s.acked who).completion = if who = .host then ⟨.ok, []⟩ else s.completion := by
  unfold State.acked
  split <;> rfl

theorem State.acked_endHold (s : State) (who : Requester) (d : Nat) : (s.acked who).endHold d = (s.endHold d).acked who := by
  unfold State.acked
  split
  · exact s.endHold_answer d _ _
  · rfl

theorem State.acked_powered (s : State) (who : Requester) (d : Nat) : (s.acked who).powered d = s.powered d := by rw [State.acked_eq]; rfl

theorem State.acked_link (s : State) (who : Requester) (k : Nat) : (s.acked who).link k = s.link k := by rw [State.acked_eq]; rfl

theorem State.acked_rd (s : State) (who : Requester) (f : Fld) : (s.acked who).rd f = s.rd f := by rw [State.acked_eq]; rfl

theorem State.acked_takesWrites {s : State} {d : Nat} (h : s.takesWrites d) (who : Requester) : (s.acked who).takesWrites d := by
  obtain ⟨hheld, hon, hhold⟩ := h
  refine ⟨?_, (s.acked_powered who d).trans hon, by rw [State.acked_endHold, hhold]⟩
  rw [State.acked_eq]
  exact hheld

/-- Nothing that QLINK_C holds back keeps a write to domain `d` from its block. -/
def State.passesQlink (s : State) (d : Nat) (crosses : Bool) : Prop :=
  (s.link 8).retraining = false ∨ (crosses = false ∧ ∀ e ∈ (s.link 8).held, e.1 ≠ d)

theorem State.overQlink_passes {s : State} {d : Nat} {crosses : Bool} (h : s.passesQlink d crosses) (c : Instr) (f : State → Res) :
    s.overQlink d crosses c f = f s := by
  refine if_neg ?_
  rcases h with h | ⟨hc, hheld⟩
  · simp [h]
  · simpa [hc] using fun _ x hx => hheld (d, x) hx rfl

theorem State.overQlink_holds {s : State} {d : Nat} {crosses : Bool} (hre : (s.link 8).retraining = true)
    (h : crosses = true ∨ ∃ e ∈ (s.link 8).held, e.1 = d) (c : Instr) (f : State → Res) :
    s.overQlink d crosses c f = goOn (s.setLink 8 { s.link 8 with held := (s.link 8).held ++ [(d, c)] }) := by
  refine if_pos ?_
  rcases h with h | h
  · simp [hre, h]
  · simpa [hre] using Or.inr h

theorem State.blockWrite_passes {s : State} {d : Nat} (hs : s.takesWrites d) {crosses : Bool} (h : s.passesQlink d crosses) (c : Instr) (f : State → Res) :
    s.blockWrite d crosses c f = f s := by
  obtain ⟨-, hon, hhold⟩ := hs
  rw [State.blockWrite, if_pos hon, State.overQlink_passes h, hhold]

theorem execRegisterWrite_of_row {who : Requester} {addr : Nat} {r : RegRow} {s : State} (hs : s.runs) (hr : regRow? addr = some r)
    (hon : s.powered (domainOf addr) = true) (v hw : Word) :
    execRegisterWrite who addr v hw s =
      (s.acked who).blockWrite (domainOf addr) (crossesQlink r addr) (.registerWrite who addr v hw) fun t =>
        goOn (t.writeReg who r addr v hw.toNat) := by
  unfold execRegisterWrite
  rw [State.live_runs hs, if_neg (not_not.mpr (aligned_of_regRow? hr))]
  simp only [hr, hon, Bool.not_true, Bool.false_eq_true, if_false]
  rfl

theorem exec_registerWrite_passes {who : Requester} {addr : Nat} {r : RegRow} {s : State} (hs : s.takesWrites (domainOf addr))
    (hr : regRow? addr = some r) (h : s.passesQlink (domainOf addr) (crossesQlink r addr)) (v hw : Word) :
    exec (.registerWrite who addr v hw) s = goOn ((s.acked who).writeReg who r addr v hw.toNat) := by
  show execRegisterWrite who addr v hw s = _
  rw [execRegisterWrite_of_row hs.runs hr hs.2.1]
  refine State.blockWrite_passes (State.acked_takesWrites hs who) ?_ _ _
  rwa [State.passesQlink, State.acked_link]

/-! A register whose write does what its access codes say. -/

theorem State.writeReg_plain (s : State) (who : Requester) {r : RegRow} {addr : Nat} (hb : isBallast addr = false)
    (he : effectRows.contains r.name = false) (w : Word) (hw : Nat) : s.writeReg who r addr w hw = s.writeRow r addr w.toNat hw := by
  simp only [State.writeReg, hb, he, Bool.false_eq_true, if_false]

/-! Registers whose write is a row of its own. -/

/-- A write of `v` to the register at `a` acts as the command `c`. -/
def ActsAs (who : Requester) (v hw : Word) (s : State) (a : Nat) (c : Instr) : Prop :=
  s.takesWrites (domainOf a) → exec (.registerWrite who a v hw) s = exec c (if who = .host then s.answer .ok [] else s)

section Acts
variable {who : Requester} {v hw : Word} {s : State} (hlink : (s.link 8).retraining = false)
include hlink

/-- It does if, behind the gates, the write goes on as the command does. -/
theorem actsAs_of_writeReg {a : Nat} {r : RegRow} {c : Instr} (hr : regRow? a = some r)
    (h : ∀ u : State, u.takesWrites (domainOf a) → (u.link 8).retraining = false → goOn (u.writeReg who r a v hw.toNat) = exec c u) :
    ActsAs who v hw s a c := by
  intro hs
  rw [exec_registerWrite_passes hs hr (.inl hlink)]
  exact h (s.acked who) (State.acked_takesWrites hs who) (by rw [State.acked_link]; exact hlink)

/-- It does if the write is made by carrying the command out. -/
theorem actsAs_of_after {a : Nat} {r : RegRow} {c : Instr} (hc : c.wellFormed = true) (hr : regRow? a = some r)
    (h : ∀ u : State, u.writeReg who r a v hw.toNat = after (exec c u) u) : ActsAs who v hw s a c :=
  actsAs_of_writeReg hlink hr fun u _ _ => by rw [h u, goOn_after (wellFormedCommandsComplete c u hc)]

end Acts

/-! The part of `writeReg` that writes the registers of one block. -/

section Blocks
variable (u : State) (who : Requester) {r : RegRow} {a : Nat} (v : Word) (hw : Nat) (he : effectRows.contains r.name = true)
include he

theorem State.writeReg_harbour (ha : a < 0x100000) : u.writeReg who r a v hw = u.writeHarbour (u.writeRow r a v.toNat hw) r.name v := by
  have hb : isBallast a = false := by simp [isBallast]; omega
  simp only [State.writeReg, hb, he, ha, Bool.false_eq_true, if_false, if_true]

theorem State.writeReg_system (hlo : 0x100000 ≤ a) (hhi : a < 0x300000) (hb : isBallast a = false) :
    u.writeReg who r a v hw = u.writeSystem (u.writeRow r a v.toNat hw) r.name v := by
  simp only [State.writeReg, hb, he, hhi, Nat.not_lt.mpr hlo, Bool.false_eq_true, if_false, if_true]

theorem State.writeReg_quay (hlo : 0x400000 ≤ a) (hhi : a < 0x504000) :
    u.writeReg who r a v hw = u.writeQuay (u.writeRow r a v.toNat hw) r.name (Fin.ofNat 8 (r.inst a).1) v := by
  have hb : isBallast a = false := by simp [isBallast]; omega
  have h1 : ¬a < 0x100000 := by omega
  have h3 : ¬a < 0x300000 := by omega
  simp only [State.writeReg, hb, he, h1, h3, hlo, hhi, and_self, Bool.false_eq_true, if_false, if_true]

theorem State.writeReg_beacon (hlo : 0x700000 ≤ a) (hhi : a < 0x800000) :
    u.writeReg who r a v hw = u.writeBeacon (u.writeRow r a v.toNat hw) r.name (r.inst a).1 v := by
  have hb : isBallast a = false := by simp [isBallast]; omega
  have hne : a ≠ 0xF00034 := by omega
  simp only [State.writeReg, hb, he, hlo, hhi, show ¬a < 0x100000 by omega, show ¬a < 0x300000 by omega, show ¬a < 0x504000 by omega,
    show ¬a < 0x600000 by omega, show ¬a < 0x700000 by omega, hne, and_self, and_false, false_and, or_self, Bool.false_eq_true, if_false, if_true]

theorem State.writeReg_sounding (hlo : 0x800000 ≤ a) (hhi : a < 0xA00000) :
    u.writeReg who r a v hw = u.writeSounding (u.writeRow r a v.toNat hw) r.name (r.inst a).1 v := by
  have hb : isBallast a = false := by simp [isBallast]; omega
  have hne : a ≠ 0xF00034 := by omega
  simp only [State.writeReg, hb, he, hlo, hhi, show ¬a < 0x100000 by omega, show ¬a < 0x300000 by omega, show ¬a < 0x504000 by omega,
    show ¬a < 0x600000 by omega, show ¬a < 0x700000 by omega, show ¬a < 0x800000 by omega, hne, and_self, and_false, false_and, or_self,
    Bool.false_eq_true, if_false, if_true]

theorem State.writeReg_engines (hlo : 0xA00000 ≤ a) (hne : a ≠ 0xF00034) :
    u.writeReg who r a v hw = u.writeEngines (u.writeRow r a v.toNat hw) r.name who (r.inst a).1 (r.inst a).2 v hw := by
  have hb : isBallast a = false := by simp [isBallast]; omega
  simp only [State.writeReg, hb, he, show ¬a < 0x100000 by omega, show ¬a < 0x300000 by omega, show ¬a < 0x504000 by omega,
    show ¬a < 0x600000 by omega, show ¬a < 0x700000 by omega, show ¬a < 0x800000 by omega, show ¬a < 0xA00000 by omega, hne,
    and_false, false_and, or_self, Bool.false_eq_true, if_false, if_true]

theorem State.writeReg_tally (hlo : 0x600000 ≤ a) (hhi : a < 0x700000) (hname : r.name ≠ "TL_LANE_i_STATUS") :
    u.writeReg who r a v hw = u.writeTally (u.writeRow r a v.toNat hw) u r.name (r.inst a).1 (r.inst a).2 v := by
  have hb : isBallast a = false := by simp [isBallast]; omega
  have hne : a ≠ 0xF00034 := by omega
  simp only [State.writeReg, hb, he, hlo, hhi, show ¬a < 0x100000 by omega, show ¬a < 0x300000 by omega, show ¬a < 0x504000 by omega,
    show ¬a < 0x600000 by omega, hne, beq_eq_false_iff_ne.mpr hname, and_self, and_false, false_and, or_self, Bool.false_eq_true, if_false, if_true]

end Blocks

end Sys2Proof.Machine
end

section
/-! SUPPORT. Statement O6, register by register: which command each write acts as. -/

namespace Sys2Proof.Machine

@[simp] theorem bits_zero (v w : Nat) : bits v 0 w = low w v := by simp [bits, low]

section Acts
variable {who : Requester} {v hw : Word} {s : State} (hlink : (s.link 8).retraining = false)
include hlink

/-! One lemma for each block's registers. -/

theorem actsAs_harbour (name : String) {a : Nat} {c : Instr} (hmem : (name, a, []) ∈ actingRows) (ha : a < 0x100000) (hc : c.wellFormed = true)
    (h : ∀ u plain : State, u.writeHarbour plain name v = after (exec c u) u) : ActsAs who v hw s a c := by
  obtain ⟨r, hr, rfl, -⟩ := rowAt_eq_some (actingRows_standAlone _ hmem).rowAt_none
  refine actsAs_of_after hlink hc hr fun u => ?_
  rw [State.writeReg_harbour u who v hw.toNat (actingRows_act _ hmem) ha, h]

theorem actsAs_system (name : String) {a : Nat} {c : Instr} (hmem : (name, a, []) ∈ actingRows) (hlo : 0x100000 ≤ a) (hhi : a < 0x300000)
    (hb : isBallast a = false) (hc : c.wellFormed = true) (h : ∀ u plain : State, u.writeSystem plain name v = after (exec c u) u) :
    ActsAs who v hw s a c := by
  obtain ⟨r, hr, rfl, -⟩ := rowAt_eq_some (actingRows_standAlone _ hmem).rowAt_none
  refine actsAs_of_after hlink hc hr fun u => ?_
  rw [State.writeReg_system u who v hw.toNat (actingRows_act _ hmem) hlo hhi hb, h]

theorem actsAs_quay (name : String) {base st : Nat} (n : Fin 8) {c : Instr} (hmem : (name, base, [(st, 8)]) ∈ actingRows) (hst : 0 < st)
    (hlo : 0x400000 ≤ base) (hhi : base + st * 8 ≤ 0x504000) (hc : c.wellFormed = true)
    (h : ∀ u plain : State, u.writeQuay plain name n v = after (exec c u) u) : ActsAs who v hw s (base + st * n) c := by
  obtain ⟨r, hr, rfl, hinst⟩ := rowAt_eq_some ((actingRows_standAlone _ hmem).rowAt_one hst n.isLt)
  have hn : st * n < st * 8 := (Nat.mul_lt_mul_left hst).mpr n.isLt
  refine actsAs_of_after hlink hc hr fun u => ?_
  rw [State.writeReg_quay u who v hw.toNat (actingRows_act _ hmem) (by omega) (by omega), hinst, Fin.ofNat_val_eq_self, h]

theorem actsAs_byboviCmd (k : Fin 16) : ActsAs who v hw s (0x700100 + 0x10 * k) (.byboviCmdWrite k v) := by
  have hmem : ("BC_BYB_k_CMD", 0x700100, [(0x10, 16)]) ∈ actingRows := by simp [actingRows]
  obtain ⟨r, hr, hname, hinst⟩ := rowAt_eq_some ((actingRows_standAlone _ hmem).rowAt_one (by decide) k.isLt)
  refine actsAs_of_after hlink rfl hr fun u => ?_
  rw [State.writeReg_beacon u who v hw.toNat (hname ▸ actingRows_act _ hmem) (by omega) (by omega), hinst, hname]
  show after (exec (.byboviCmdWrite (Fin.ofNat 16 k) v) u) u = _
  rw [Fin.ofNat_val_eq_self]

theorem actsAs_watchLimit (name : String) {base : Nat} (k : Fin 32) (hyst : Bool) (hmem : (name, base, [(0x100, 32)]) ∈ actingRows)
    (hlo : 0x900000 ≤ base) (hhi : base + 0x100 * 32 ≤ 0xA00000)
    (h : ∀ u plain : State, u.writeSounding plain name k v = after (exec (.watchLimitWrite (Fin.ofNat 32 k) hyst v) u) u) :
    ActsAs who v hw s (base + 0x100 * k) (.watchLimitWrite k hyst v) := by
  obtain ⟨r, hr, rfl, hinst⟩ := rowAt_eq_some ((actingRows_standAlone _ hmem).rowAt_one (by decide) k.isLt)
  refine actsAs_of_after hlink rfl hr fun u => ?_
  rw [State.writeReg_sounding u who v hw.toNat (actingRows_act _ hmem) (by omega) (by omega), hinst, h, Fin.ofNat_val_eq_self]

theorem actsAs_engine (name : String) {a : Nat} {c : Instr} (hmem : (name, a, []) ∈ actingRows) (hlo : 0xA00000 ≤ a) (hne : a ≠ 0xF00034)
    (hc : c.wellFormed = true) (h : ∀ u plain : State, u.writeEngines plain name who 0 0 v hw.toNat = after (exec c u) u) :
    ActsAs who v hw s a c := by
  obtain ⟨r, hr, rfl, hinst⟩ := rowAt_eq_some (actingRows_standAlone _ hmem).rowAt_none
  refine actsAs_of_after hlink hc hr fun u => ?_
  rw [State.writeReg_engines u who v hw.toNat (actingRows_act _ hmem) hlo hne, hinst, h]

theorem actsAs_jobPost (k : Fin 4) : ActsAs who v hw s (0xA00044 + 0x40000 * k) (.jobPostWrite k v) := by
  have hmem : ("PI_CL_POST_1", 0xA00044, [(0x40000, 4)]) ∈ actingRows := by simp [actingRows]
  obtain ⟨r, hr, hname, hinst⟩ := rowAt_eq_some ((actingRows_standAlone _ hmem).rowAt_one (by decide) k.isLt)
  refine actsAs_of_after hlink rfl hr fun u => ?_
  rw [State.writeReg_engines u who v hw.toNat (hname ▸ actingRows_act _ hmem) (by omega) (by omega), hinst, hname]
  show after (exec (.jobPostWrite (Fin.ofNat 4 k) v) u) u = _
  rw [Fin.ofNat_val_eq_self]

theorem actsAs_packingEnqueue (e : Fin 2) : ActsAs who v hw s (0xD01004 + 0x100 * e) (.packingEnqueue e v) := by
  have hmem : ("PK_e_JOB", 0xD01004, [(0x100, 2)]) ∈ actingRows := by simp [actingRows]
  obtain ⟨r, hr, hname, hinst⟩ := rowAt_eq_some ((actingRows_standAlone _ hmem).rowAt_one (by decide) e.isLt)
  refine actsAs_of_after hlink rfl hr fun u => ?_
  rw [State.writeReg_engines u who v hw.toNat (hname ▸ actingRows_act _ hmem) (by omega) (by omega), hinst, hname]
  show after (exec (.packingEnqueue (Fin.ofNat 2 e) v) u) u = _
  rw [Fin.ofNat_val_eq_self]

theorem actsAs_tugEnqueue (e : Fin 8) (c : Fin 32) : ActsAs who v hw s (0xC01104 + 0x1000 * e + 0x20 * c) (.tugEnqueue e c v) := by
  have hmem : ("TG_e_CH_c_HEAD", 0xC01104, [(0x1000, 8), (0x20, 32)]) ∈ actingRows := by simp [actingRows]
  obtain ⟨r, hr, hname, hinst⟩ := rowAt_eq_some ((actingRows_standAlone _ hmem).rowAt_two (by decide) (by decide) e.isLt c.isLt)
  refine actsAs_of_after hlink rfl hr fun u => ?_
  rw [State.writeReg_engines u who v hw.toNat (hname ▸ actingRows_act _ hmem) (by omega) (by omega), hinst, hname]
  show after (exec (.tugEnqueue (Fin.ofNat 8 e) (Fin.ofNat 32 c) v) u) u = _
  rw [Fin.ofNat_val_eq_self, Fin.ofNat_val_eq_self]

/-! The configuration registers of a Sounding channel, in the order of Table 10.12. -/

/-- The name of configuration register `j`. -/
def soundingCfgName (j : Fin 10) : String :=
  ["SN_CH_c_CFG", "SN_CH_c_EXC", "SN_CH_c_LEADR", "SN_CH_c_LEADN", "SN_CH_c_A", "SN_CH_c_B", "SN_CH_c_X0", "SN_CH_c_CUT", "SN_CH_c_R0",
    "SN_CH_c_POLY"].get j

omit hlink in
theorem soundingCfg_mem : ∀ j : Fin 10, (soundingCfgName j, 0x801000 + 4 * j.val, [(0x100, 16)]) ∈ actingRows := by decide +kernel

omit hlink in
theorem State.writeSounding_cfg (u plain : State) (c : Nat) (w : Word) :
    ∀ j : Fin 10, u.writeSounding plain (soundingCfgName j) c w = u.chanWrite c j w.toNat
  | 0 | 1 | 2 | 3 | 4 | 5 | 6 | 7 | 8 | 9 => rfl

omit hlink in
theorem exec_soundingCfgWrite {u : State} (hu : u.takesWrites 21) (c : Fin 16) (j : Fin 10) (w : Word) :
    exec (.soundingCfgWrite c j w) u = goOn (u.chanWrite c j w.toNat) := by
  obtain ⟨hruns, hon, hhold⟩ := hu
  show execSoundingCfgWrite c j w u = _
  rw [execSoundingCfgWrite, State.live_runs hruns, if_pos hon, hhold]

theorem actsAs_soundingCfg (c : Fin 16) (j : Fin 10) : ActsAs who v hw s (0x801000 + 0x100 * c + 4 * j) (.soundingCfgWrite c j v) := by
  rw [Nat.add_right_comm]
  have hmem := soundingCfg_mem j
  obtain ⟨r, hr, hname, hinst⟩ := rowAt_eq_some ((actingRows_standAlone _ hmem).rowAt_one (by decide) c.isLt)
  have hdom : domainOf (0x801000 + 4 * j + 0x100 * c) = 21 := by
    rw [domainOf, if_neg (by omega), if_neg (by omega), if_neg (by omega), if_pos (by omega)]
  refine actsAs_of_writeReg hlink hr fun u hu _ => ?_
  rw [State.writeReg_sounding u who v hw.toNat (hname ▸ actingRows_act _ hmem) (by omega) (by omega), hinst, hname, State.writeSounding_cfg,
    exec_soundingCfgWrite (hdom ▸ hu)]

/-! The registers of a tally lane. -/

omit hlink in
theorem exec_laneCfgWrite_of_owned {u : State} {l : Fin 128} (hu : u.takesWrites (bankDomain (l / 16))) (hlink : (u.link 8).retraining = false)
    (ho : u.rd (R.TL_LANE_i_CFG_OWNER (l / 16) (l % 16)) ≠ 0) (reg : Fin 6) (w : Word) :
    exec (.laneCfgWrite l reg w) u = goOn (u.wr (R.TL_BANK_STATUS_WR_OWNED (l / 16)) 1) := by
  show execLaneCfgWrite l reg w u = _
  rw [execLaneCfgWrite, State.live_runs hu.runs, State.blockWrite_passes hu (.inl hlink)]
  exact if_pos ho

omit hlink in
theorem exec_histogramClearWrite_of_owned {u : State} {l : Fin 128} (hu : u.takesWrites (bankDomain (l / 16)))
    (hlink : (u.link 8).retraining = false) (ho : u.rd (R.TL_LANE_i_CFG_OWNER (l / 16) (l % 16)) ≠ 0) :
    exec (.histogramClearWrite l) u = goOn (u.wr (R.TL_BANK_STATUS_WR_OWNED (l / 16)) 1) := by
  show execHistogramClearWrite l u = _
  rw [execHistogramClearWrite, State.live_runs hu.runs, State.blockWrite_passes hu (.inl hlink)]
  exact if_pos ho

omit hlink in
theorem State.writeTally_of_owned (u : State) {n l : Nat} (ho : u.rd (R.TL_LANE_i_CFG_OWNER n l) ≠ 0) (plain kept : State) (name : String) (w : Word) :
    u.writeTally plain kept name n l w = kept.wr (R.TL_BANK_STATUS_WR_OWNED n) 1 := if_pos ho

/-- A register of a lane whose write acts as `c` on a free lane; on an owned lane both only set WR_OWNED (R230). -/
theorem actsAs_lane (name : String) {base : Nat} (l : Fin 128) {c : Instr} (hmem : (name, base, [(0x10000, 8), (0x100, 16)]) ∈ actingRows)
    (hlo : 0x600000 ≤ base) (hhi : base < 0x602000) (hne : name ≠ "TL_LANE_i_STATUS") (hc : c.wellFormed = true)
    (howned : ∀ u : State, u.takesWrites (bankDomain (l / 16)) → (u.link 8).retraining = false →
      u.rd (R.TL_LANE_i_CFG_OWNER (l / 16) (l % 16)) ≠ 0 → exec c u = goOn (u.wr (R.TL_BANK_STATUS_WR_OWNED (l / 16)) 1))
    (hfree : ∀ u plain : State, u.rd (R.TL_LANE_i_CFG_OWNER (l / 16) (l % 16)) = 0 →
      u.writeTally plain u name (l / 16) (l % 16) v = after (exec c u) u) :
    ActsAs who v hw s (base + 0x10000 * (l.val / 16) + 0x100 * (l.val % 16)) c := by
  obtain ⟨r, hr, rfl, hinst⟩ := rowAt_eq_some ((actingRows_standAlone _ hmem).rowAt_two (i := l / 16) (j := l % 16) (by decide) (by decide)
    (by omega) (by omega))
  have hdom : domainOf (base + 0x10000 * (l.val / 16) + 0x100 * (l.val % 16)) = bankDomain (l / 16) := by
    simp only [domainOf, bankDomain]
    rw [if_neg (by omega), if_pos (by omega)]
    omega
  refine actsAs_of_writeReg hlink hr fun u hu hul => ?_
  rw [State.writeReg_tally u who v hw.toNat (actingRows_act _ hmem) (by omega) (by omega) hne, hinst]
  by_cases ho : u.rd (R.TL_LANE_i_CFG_OWNER (l / 16) (l % 16)) = 0
  · rw [hfree u _ ho, goOn_after (wellFormedCommandsComplete c u hc)]
  · rw [howned u (hdom ▸ hu) hul ho, State.writeTally_of_owned u ho]

omit hlink in
theorem laneNumber (l : Fin 128) : Fin.ofNat 128 (16 * (l.val / 16) + l.val % 16) = l := by
  rw [Nat.div_add_mod, Fin.ofNat_val_eq_self]

theorem actsAs_laneCfg (name : String) {base : Nat} (l : Fin 128) (reg : Fin 6) (hmem : (name, base, [(0x10000, 8), (0x100, 16)]) ∈ actingRows)
    (hlo : 0x600000 ≤ base) (hhi : base < 0x602000) (hne : name ≠ "TL_LANE_i_STATUS")
    (h : ∀ u plain : State, u.rd (R.TL_LANE_i_CFG_OWNER (l / 16) (l % 16)) = 0 → u.writeTally plain u name (l / 16) (l % 16) v =
      after (exec (.laneCfgWrite (Fin.ofNat 128 (16 * (l.val / 16) + l.val % 16)) reg v) u) u) :
    ActsAs who v hw s (base + 0x10000 * (l.val / 16) + 0x100 * (l.val % 16)) (.laneCfgWrite l reg v) := by
  rw [laneNumber] at h
  exact actsAs_lane hlink name l hmem hlo hhi hne rfl (fun u hu hul ho => exec_laneCfgWrite_of_owned hu hul ho reg v) h

theorem actsAs_histogramClear (l : Fin 128) (hv : bit v.toNat 0 = true) :
    ActsAs who v hw s (0x601020 + 0x10000 * (l.val / 16) + 0x100 * (l.val % 16)) (.histogramClearWrite l) := by
  refine actsAs_lane hlink "TL_LANE_i_HCTL" l (by simp [actingRows]) (by decide) (by decide) (by decide) rfl
    (fun u hu hul ho => exec_histogramClearWrite_of_owned hu hul ho) fun u plain ho => ?_
  have hclear : u.writeTally plain u "TL_LANE_i_HCTL" (l / 16) (l % 16) v =
      if bit v.toNat 0 then after (exec (.histogramClearWrite (Fin.ofNat 128 (16 * (l.val / 16) + l.val % 16))) u) u else u :=
    if_neg (not_not.mpr ho)
  rw [hclear, laneNumber, if_pos hv]

/-! The Ballast registers. -/

theorem actsAs_ballast {a : Nat} (hlo : 0x200100 ≤ a) (hhi : a < 0x200158) (hrow : (regRow? a).isSome) : ActsAs who v hw s a (.ballastWrite a v) := by
  obtain ⟨r, hr⟩ := Option.isSome_iff_exists.mp hrow
  have hal := aligned_of_regRow? hr
  have hb : isBallast a = true := by simp [isBallast]; omega
  refine actsAs_of_writeReg hlink hr fun u hu _ => ?_
  show _ = execBallastWrite a v u
  rw [execBallastWrite, State.live_runs hu.runs, if_pos ⟨hb, hhi⟩, State.writeReg]
  simp only [hb, if_true]
  rw [if_neg (by omega), if_neg (by omega)]

theorem actsAs_rtcLo : ActsAs who v hw s 0x200158 (.rtcLoWrite v) := by
  obtain ⟨r, hr⟩ := Option.isSome_iff_exists.mp (show (regRow? 0x200158).isSome by decide +kernel)
  exact actsAs_of_after hlink rfl hr fun u => rfl

theorem actsAs_rtcHi : ActsAs who v hw s 0x20015C (.rtcHiWrite (BitVec.ofNat 16 v.toNat)) := by
  obtain ⟨r, hr⟩ := Option.isSome_iff_exists.mp (show (regRow? 0x20015C).isSome by decide +kernel)
  exact actsAs_of_after hlink rfl hr fun u => rfl

end Acts

/-! The clauses of O6. -/

theorem writeSystem_safeEngage (u plain : State) {v : Word} (hv : low 8 v.toNat = 0x5A) :
    u.writeSystem plain "RS_SAFE" v = after (exec .safeEngage u) u := by
  show (if low 8 v.toNat = 0xA5 then _ else if low 8 v.toNat = 0x5A then _ else _) = _
  rw [if_neg (by omega), if_pos hv]
  rfl

/-- COLD and WARM are bits 1 and 0 of RS_CTL, and COLD comes first. -/
theorem writeSystem_warmReset (u plain : State) {v : Word} (hv : low 2 v.toNat = 1) :
    u.writeSystem plain "RS_CTL" v = after (exec .warmResetWrite u) u := by
  have hcold : bit v.toNat 1 = false := by simp [bit, low] at *; omega
  have hwarm : bit v.toNat 0 = true := by simp [bit, low] at *; omega
  show (if bit v.toNat 1 = true then _ else if bit v.toNat 0 = true then _ else _) = _
  rw [if_neg (by simp [hcold]), if_pos hwarm]
  rfl

/-- A register without an effect of its own takes the write field by field. -/
theorem registerWrite_plain {who : Requester} {addr : Nat} {r : RegRow} {s : State} (hs : s.takesWrites (domainOf addr)) (hr : regRow? addr = some r)
    (hb : isBallast addr = false) (he : effectRows.contains r.name = false) (h : s.passesQlink (domainOf addr) (crossesQlink r addr)) (v hw : Word) :
    ∃ t, exec (.registerWrite who addr v hw) s = .next t ∧ t.completion = (if who = .host then ⟨.ok, []⟩ else s.completion) ∧
      (∀ f ∈ r.fields, f.acc = .rw ∨ f.acc = .wo → t.rd (f.at addr) =
        if f.accepts (bits v.toNat f.lo f.width) then bits v.toNat f.lo f.width else s.rd (f.at addr)) ∧
      (∀ f ∈ r.fields, f.acc = .ro ∨ f.acc = .rc ∨ f.acc = .own → t.rd (f.at addr) = s.rd (f.at addr)) ∧
      (∀ f ∈ r.fields, f.acc = .w1s → f.width = 1 → bits v.toNat f.lo 1 = 1 → s.rd (f.at addr) < 2 → t.rd (f.at addr) = 1) ∧
      (∀ f ∈ r.fields, f.acc = .w1c → f.width = 1 → s.rd (f.at addr) = 1 → bits v.toNat f.lo 1 = 1 →
        t.rd (f.at addr) = bits hw.toNat f.lo 1) ∧
      (∀ f ∈ r.fields, f.acc = .rwl → s.rd R.CU_STATE_STATE = 3 → t.rd (f.at addr) = s.rd (f.at addr)) ∧
      OnlyRegs ([R.CU_STATUS_RWL_HIT, R.CU_RWL_CNT_COUNT] ++ r.fields.map (fun f => f.at addr)) s t ∧
      t = { s with regs := t.regs, completion := t.completion } := by
  let u := s.acked who
  have hrd : ∀ f, u.rd f = s.rd f := s.acked_rd who
  have hsame : SameButRegs u (u.writeRow r addr v.toNat hw.toNat) := u.writeRow_sameButRegs ..
  refine ⟨u.writeRow r addr v.toNat hw.toNat, ?_, ?_, fun f hf h => ?_, fun f hf h => ?_, fun f hf h hwidth hv hold => ?_,
    fun f hf h hwidth hold hv => ?_, fun f hf h hsealed => ?_, ?_, ?_⟩
  · rw [exec_registerWrite_passes hs hr h, State.writeReg_plain _ who hb he]
    rfl
  · rw [hsame]
    exact s.acked_completion who
  · rw [u.rd_writeRow_stores hr _ _ hf h, hrd]
  · rw [u.rd_writeRow_keeps hr _ _ hf h, hrd]
  · exact u.rd_writeRow_w1s hr _ _ hf h hwidth hv ((hrd _).symm ▸ hold)
  · exact u.rd_writeRow_w1c hr _ _ hf h hwidth hv ((hrd _).trans hold)
  · rw [u.rd_writeRow_rwl hr _ _ hf h ((hrd _).trans hsealed), hrd]
  · exact fun g hg => (u.writeRow_onlyRegs r addr v.toNat hw.toNat g hg).trans (hrd g)
  · rw [hsame]
    show _ = ({ s with regs := _, completion := u.completion } : State)
    rw [show u = _ from s.acked_eq who]

/-- R16: behind a retrain of QLINK_C the write waits. -/
theorem registerWrite_held {who : Requester} {addr : Nat} {r : RegRow} {s : State} (hs : s.takesWrites (domainOf addr)) (hr : regRow? addr = some r)
    (hre : (s.link 8).retraining = true) (h : crossesQlink r addr = true ∨ ∃ e ∈ (s.link 8).held, e.1 = domainOf addr) (v hw : Word) :
    ∃ t, exec (.registerWrite who addr v hw) s = .next t ∧ t.completion = (if who = .host then ⟨.ok, []⟩ else s.completion) ∧
      (t.link 8).held = (s.link 8).held ++ [(domainOf addr, .registerWrite who addr v hw)] ∧ (∀ k, k ≠ 8 → t.link k = s.link k) ∧
      t = { s with links := t.links, completion := t.completion } := by
  have hlink : ∀ k, (s.acked who).link k = s.link k := s.acked_link who
  refine ⟨(s.acked who).setLink 8 { s.link 8 with held := (s.link 8).held ++ [(domainOf addr, .registerWrite who addr v hw)] }, ?_, ?_, ?_,
    fun k hk => ?_, ?_⟩
  · show execRegisterWrite who addr v hw s = _
    rw [execRegisterWrite_of_row hs.runs hr hs.2.1, State.blockWrite, if_pos ((s.acked_powered who _).trans hs.2.1),
      State.overQlink_holds (by rw [hlink]; exact hre) (by rw [hlink]; exact h), hlink]
    rfl
  · exact s.acked_completion who
  · exact congrArg Link.held (Tab.get_put_same ..)
  · exact (Tab.get_put_other _ _ _ _ (Ne.symm hk)).trans (hlink k)
  · show State.setLink (s.acked who) _ _ = ({ s with links := _, completion := (s.acked who).completion } : State)
    rw [s.acked_eq who]
    rfl

/-- R437: the first write of a block ends the hold of its outputs, and otherwise acts as any other. -/
theorem registerWrite_first {who : Requester} {addr : Nat} {s : State} (hs : s.runs) (hlink : (s.link 8).retraining = false)
    (hon : s.powered (domainOf addr) = true) (hrow : (regRow? addr).isSome) (v hw : Word) :
    exec (.registerWrite who addr v hw) s = exec (.registerWrite who addr v hw) (s.endHold (domainOf addr)) := by
  obtain ⟨r, hr⟩ := Option.isSome_iff_exists.mp hrow
  have hlink' : ((s.endHold (domainOf addr)).link 8).retraining = false := by
    rw [State.link, State.endHold_links]
    exact hlink
  rw [exec_registerWrite_passes (State.takesWrites_endHold hs hon) hr (.inl hlink')]
  show execRegisterWrite who addr v hw s = _
  rw [execRegisterWrite_of_row hs hr hon, State.blockWrite, if_pos ((s.acked_powered who _).trans hon),
    State.overQlink_passes (.inl (by rw [State.acked_link]; exact hlink)), State.acked_endHold]

/-- Settles O6: the write of a register without an effect goes field by field, each of the listed registers acts as its command, and a retrain or
a first write only stands before that. -/
theorem plainRegisterWriteFollowsAccessCodes : Obligations.PlainRegisterWriteFollowsAccessCodes := by
  refine ⟨fun who addr r v hw s hs _ hr => ⟨fun hb he h => registerWrite_plain hs hr hb he h v hw, fun hre h => registerWrite_held hs hr hre h v hw⟩,
    fun who v hw s hl => ?_, fun who addr v hw s hs hl hon _ hrow => ⟨State.takesWrites_endHold hs hon, registerWrite_first hs hl hon hrow v hw⟩⟩
  refine ⟨⟨?_, ?_, fun hv => ?_⟩, fun n => ⟨?_, ?_, ?_, ?_, ?_, ?_, ?_, ?_, ?_⟩, fun l a ha => ?_, actsAs_byboviCmd hl, actsAs_soundingCfg hl,
    fun w => ⟨?_, ?_⟩, actsAs_jobPost hl, actsAs_tugEnqueue hl, actsAs_packingEnqueue hl, fun hv => ⟨?_, ?_, ?_⟩,
    ⟨?_, ?_, ?_, ?_, ?_, fun hv => ?_, fun hv => ⟨?_, ?_⟩, fun hv => ?_⟩, fun a hlo hhi hrow => actsAs_ballast hl hlo hhi hrow,
    actsAs_rtcLo hl, actsAs_rtcHi hl⟩
  · exact actsAs_harbour hl "HB_TIME_RATE" (by simp [actingRows]) (by decide) rfl fun _ _ => rfl
  · exact actsAs_harbour hl "HB_TIME_STEP_HI" (by simp [actingRows]) (by decide) rfl fun _ _ => rfl
  · exact actsAs_harbour hl "HB_MF_CTL" (by simp [actingRows]) (by decide) rfl fun _ _ => if_pos hv
  · rw [bits_zero]
    exact actsAs_quay hl "QY_PLAN_SEL" n (by simp [actingRows]) (by decide) (by decide) (by decide) rfl fun _ _ => rfl
  · exact actsAs_quay hl "QY_LGT_CFG" n (by simp [actingRows]) (by decide) (by decide) (by decide) rfl fun _ _ => rfl
  · exact actsAs_quay hl "QY_LGT_PERIOD" n (by simp [actingRows]) (by decide) (by decide) (by decide) rfl fun _ _ => rfl
  · exact actsAs_quay hl "QY_SPI_CMD" n (by simp [actingRows]) (by decide) (by decide) (by decide) rfl fun _ _ => rfl
  · exact actsAs_quay hl "QY_GPIO_CFG" n (by simp [actingRows]) (by decide) (by decide) (by decide) rfl fun _ _ => rfl
  · exact actsAs_quay hl "QY_GPIO_OUT" n (by simp [actingRows]) (by decide) (by decide) (by decide) rfl fun _ _ => rfl
  · exact actsAs_quay hl "RX_CFG" n (by simp [actingRows]) (by decide) (by decide) (by decide) rfl fun _ _ => rfl
  · exact actsAs_quay hl "RX_NOISE_P0" n (by simp [actingRows]) (by decide) (by decide) (by decide) rfl fun _ _ => rfl
  · exact actsAs_quay hl "RX_NOISE_LEN" n (by simp [actingRows]) (by decide) (by decide) (by decide) rfl fun _ _ => rfl
  · have hat : ∀ k, a + k = 0x601000 + k + 0x10000 * (l.val / 16) + 0x100 * (l.val % 16) := fun k => by omega
    rw [hat 8, hat 0x10, hat 0x14, hat 0x18, hat 0x1C, hat 0x20, ha]
    refine ⟨?_, ?_, ?_, ?_, ?_, ?_, actsAs_histogramClear hl l⟩
    · exact actsAs_laneCfg hl "TL_LANE_i_CFG" l 0 (by simp [actingRows]) (by decide) (by decide) (by decide) fun _ _ ho => if_neg (not_not.mpr ho)
    · exact actsAs_laneCfg hl "TL_LANE_i_TMO" l 1 (by simp [actingRows]) (by decide) (by decide) (by decide) fun _ _ ho => if_neg (not_not.mpr ho)
    · exact actsAs_laneCfg hl "TL_LANE_i_HCFG" l 2 (by simp [actingRows]) (by decide) (by decide) (by decide) fun _ _ ho => if_neg (not_not.mpr ho)
    · exact actsAs_laneCfg hl "TL_LANE_i_HOFS" l 3 (by simp [actingRows]) (by decide) (by decide) (by decide) fun _ _ ho => if_neg (not_not.mpr ho)
    · exact actsAs_laneCfg hl "TL_LANE_i_STATCFG" l 4 (by simp [actingRows]) (by decide) (by decide) (by decide) fun _ _ ho => if_neg (not_not.mpr ho)
    · exact actsAs_laneCfg hl "TL_LANE_i_FGATE" l 5 (by simp [actingRows]) (by decide) (by decide) (by decide) fun _ _ ho => if_neg (not_not.mpr ho)
  · exact actsAs_watchLimit hl "WT_w_LEVEL" w false (by simp [actingRows]) (by decide) (by decide) fun _ _ => rfl
  · exact actsAs_watchLimit hl "WT_w_HYST" w true (by simp [actingRows]) (by decide) (by decide) fun _ _ => rfl
  · exact actsAs_engine hl "WH_CTL" (by simp [actingRows]) (by decide) (by decide) rfl fun _ _ => if_pos hv
  · exact actsAs_engine hl "MB_BOOT_CTL" (by simp [actingRows]) (by decide) (by decide) rfl fun _ _ => if_pos hv
  · exact actsAs_system hl "CU_PROG_CTL" (by simp [actingRows]) (by decide) (by decide) rfl rfl fun _ _ => if_pos hv
  · exact actsAs_system hl "RS_WDT_CFG" (by simp [actingRows]) (by decide) (by decide) rfl rfl fun _ _ => rfl
  · rw [bits_zero]
    exact actsAs_system hl "RS_WDT_KICK" (by simp [actingRows]) (by decide) (by decide) rfl rfl fun _ _ => rfl
  · rw [bits_zero]
    exact actsAs_system hl "RS_PWR_REQ" (by simp [actingRows]) (by decide) (by decide) rfl rfl fun _ _ => rfl
  · rw [bits_zero]
    exact actsAs_system hl "RS_DOM_RST" (by simp [actingRows]) (by decide) (by decide) rfl rfl fun _ _ => rfl
  · rw [bits_zero]
    exact actsAs_system hl "RS_BERTH_RST" (by simp [actingRows]) (by decide) (by decide) rfl rfl fun _ _ => rfl
  · rw [bits_zero] at hv
    exact actsAs_system hl "RS_SAFE" (by simp [actingRows]) (by decide) (by decide) rfl rfl fun u plain => writeSystem_safeEngage u plain hv
  · exact actsAs_system hl "RS_CTL" (by simp [actingRows]) (by decide) (by decide) rfl rfl fun _ _ => if_pos hv
  · exact actsAs_system hl "RS_PIN_HOLD" (by simp [actingRows]) (by decide) (by decide) rfl rfl fun _ _ => if_pos hv
  · rw [bits_zero] at hv
    exact actsAs_system hl "RS_CTL" (by simp [actingRows]) (by decide) (by decide) rfl rfl fun u plain => writeSystem_warmReset u plain hv

end Sys2Proof.Machine
end

section
/-! SUPPORT. The writes to a quay and to its receive settings (R73 to R75, R79, R84, R109): statements O20 and O22. -/

namespace Sys2Proof.Machine

/-! A change accepted for landing (R37, Table 2.10). -/

section Accept
variable {s u : State} {fs : List Fld}

@[simp] theorem State.rd_setQuay (s : State) (n : Nat) (q : Quay) (f : Fld) : (s.setQuay n q).rd f = s.rd f := State.rd_congr rfl f

@[simp] theorem State.rd_dropWaiting (s : State) (p : Change → Bool) (f : Fld) : (s.dropWaiting p).rd f = s.rd f := State.rd_congr rfl f

theorem State.rd_accept_other (s : State) (c : Change) {g : Fld} (h : ∀ f ∈ landFields, f.key ≠ g.key) : (s.accept c).rd g = s.rd g := by
  have hregs : (s.accept c).regs = (s.setLand (landAt s.now)).regs := rfl
  rw [State.rd_congr hregs, State.setLand, State.rd_wrPair_other _ _ (h _ (by simp [landFields])) (h _ (by simp [landFields]))]

theorem State.accepted_accept (c : Change) (hl : u.landing = s.landing) (hn : u.now = s.now) : Accepted c s (u.accept c) := by
  have hregs : (u.accept c).regs = (u.setLand (landAt u.now)).regs := rfl
  refine ⟨?_, ?_, ?_⟩
  · show u.landing ++ [⟨landAt u.now, c⟩] = _
    rw [hl, hn]
  · rw [State.rd_congr hregs, State.setLand, State.wrPair, State.rd_wr_other _ _ (by decide), State.rd_wr_same, hn]
    rfl
  · rw [State.rd_congr hregs, State.setLand, State.wrPair, State.rd_wr_same, hn]
    rfl

theorem State.accept_landing (s : State) (c : Change) : (s.accept c).landing = s.landing ++ [⟨landAt s.now, c⟩] := rfl

theorem OnlyRegs.accept (h : OnlyRegs fs s u) (hl : ∀ f ∈ landFields, f ∈ fs) (c : Change) : OnlyRegs fs s (u.accept c) :=
  ((h.wr (hl _ (by simp [landFields])) _).wr (hl _ (by simp [landFields])) _).of_regs rfl

theorem OnlyRegs.setQuay (h : OnlyRegs fs s u) (n : Nat) (q : Quay) : OnlyRegs fs s (u.setQuay n q) := h.of_regs rfl

/-- A register field of the quays or the receive pipeline is none of HB_LAND. -/
theorem landFields_key_ne {g : Fld} (h : 8 * 0x2000 ≤ g.key) : ∀ f ∈ landFields, f.key ≠ g.key := by
  intro f hf
  have : f.key < 8 * 0x2000 := by revert f; decide
  omega

end Accept

@[simp] theorem State.quay_setQuay_same (s : State) (n : Nat) (q : Quay) : (s.setQuay n q).quay n = q := Tab.get_put_same ..

theorem State.quay_setQuay_other (s : State) {n k : Nat} (q : Quay) (h : k ≠ n) : (s.setQuay n q).quay k = s.quay k :=
  Tab.get_put_other _ _ _ _ (Ne.symm h)

/-- Nothing but register fields, quays and the landing list differs. -/
def SameButQuays (s t : State) : Prop := t = { s with regs := t.regs, quays := t.quays, landing := t.landing }

section Frame
variable {s t u : State}

theorem SameButQuays.trans (h : SameButQuays s t) (h' : SameButQuays t u) : SameButQuays s u := by
  unfold SameButQuays at *
  rw [h', h]

theorem SameButRegs.sameButQuays (h : SameButRegs s t) : SameButQuays s t := by
  unfold SameButRegs SameButQuays at *
  rw [h]

theorem SameButQuays.wr (h : SameButQuays s t) (f : Fld) (v : Nat) : SameButQuays s (t.wr f v) := h.trans rfl

theorem SameButQuays.setQuay (h : SameButQuays s t) (n : Nat) (q : Quay) : SameButQuays s (t.setQuay n q) := h.trans rfl

theorem SameButQuays.dropWaiting (h : SameButQuays s t) (p : Change → Bool) : SameButQuays s (t.dropWaiting p) := h.trans rfl

theorem State.acceptAt_sameButQuays (s : State) (due : Nat) (c : Change) : SameButQuays s (s.acceptAt due c) := rfl

theorem SameButQuays.accept (h : SameButQuays s t) (c : Change) : SameButQuays s (t.accept c) := h.trans (t.acceptAt_sameButQuays _ c)

/-- With the quays as they were, register fields and the landing list are all that differs. -/
theorem SameButQuays.of_quays (h : SameButQuays s t) (hq : t.quays = s.quays) : t = { s with regs := t.regs, landing := t.landing } := by
  rw [SameButQuays, hq] at h
  exact h

end Frame

theorem State.quay_accept (s : State) (c : Change) (k : Nat) : (s.accept c).quay k = s.quay k := by
  rw [State.quay, State.accept_quays]
  rfl

/-! The gate of a quay's registers. -/

theorem State.quayWrite_takes {s : State} {n : Nat} (hs : s.quayTakes n) (c : Instr) (f : State → Res) : s.quayWrite n c f = f s :=
  State.blockWrite_passes hs.1 (.inl hs.2) c f

theorem State.quayWrite_holds {s : State} {n : Nat} (hon : s.powered (quayDomain n) = true) (hre : (s.link 8).retraining = true) (c : Instr)
    (f : State → Res) :
    s.quayWrite n c f = .next (s.setLink 8 { s.link 8 with held := (s.link 8).held ++ [(quayDomain n, c)] }) := by
  rw [State.quayWrite, State.blockWrite, if_pos hon, State.overQlink_holds hre (.inl rfl)]
  rfl

theorem State.quayTakes.live {s : State} {n : Nat} (hs : s.quayTakes n) (f : State → Res) : s.live f = f s := State.live_runs hs.1.runs f

/-- R16: each configuration write to a quay waits behind a retrain. -/
theorem exec_quay_held {s : State} {n : Fin 8} (hs : s.runs) (hon : s.powered (quayDomain n) = true) (hre : (s.link 8).retraining = true) {c : Instr}
    (hc : ∃ (v : Word) (p : Fin 4), c ∈ [.quayRunWrite n true, .quayRunWrite n false, .quayResumeWrite n, .planSelectWrite n p, .lgateTCfgWrite n true v,
      .lgateTCfgWrite n false v, .spiCommandWrite n v, .gpioCfgWrite n v, .gpioOutWrite n v]) :
    exec c s = .next (s.setLink 8 { s.link 8 with held := (s.link 8).held ++ [(quayDomain n, c)] }) := by
  have hgate : ∀ f : State → Res, s.live (fun s => s.quayWrite n c f) =
      .next (s.setLink 8 { s.link 8 with held := (s.link 8).held ++ [(quayDomain n, c)] }) := fun f => by
    rw [State.live_runs hs, State.quayWrite_holds hon hre]
  obtain ⟨v, p, hc⟩ := hc
  simp only [List.mem_cons, List.not_mem_nil, or_false] at hc
  rcases hc with rfl | rfl | rfl | rfl | rfl | rfl | rfl | rfl | rfl <;> exact hgate _

/-! The shape of the LGATE_T grid (R73). -/

/-- A value of the grid's shape is stored; it waits to land while EN is 1, and is staged for the next landing of EN = 1 otherwise. -/
def State.lgateStore (s : State) (n : Nat) (f : Fld) (v : Nat) (c : Change) (staged : Option Nat × Option Nat) : State :=
  if s.on (R.QY_LGT_CFG_EN n) then (s.wr f v).accept c else (s.wr f v).setQuay n { s.quay n with lgtStaged := staged }

/-- The WIDTH half of a write of QY_LGT_CFG; a reserved width is discarded (R8). -/
def State.lgateWidth (s : State) (n w : Nat) : State :=
  if w < 2 then s else s.lgateStore n (R.QY_LGT_CFG_WIDTH n) w (.lgtWidth n w) (some w, (s.quay n).lgtStaged.2)

section Store
variable (s : State) (n : Nat) (f : Fld) (v : Nat) (c : Change) (staged : Option Nat × Option Nat)

theorem State.lgateStore_of_on (h : s.rd (R.QY_LGT_CFG_EN n) = 1) : s.lgateStore n f v c staged = (s.wr f v).accept c :=
  if_pos (by simp [State.on, h])

theorem State.lgateStore_of_off (h : s.rd (R.QY_LGT_CFG_EN n) ≠ 1) :
    s.lgateStore n f v c staged = (s.wr f v).setQuay n { s.quay n with lgtStaged := staged } :=
  if_neg (by simp [State.on, h])

theorem State.rd_lgateStore (hland : ∀ g ∈ landFields, g.key ≠ f.key) : (s.lgateStore n f v c staged).rd f = low f.width v := by
  rw [State.lgateStore]
  split
  · rw [State.rd_accept_other _ _ hland, State.rd_wr_same]
  · rw [State.rd_setQuay, State.rd_wr_same]

theorem State.lgateStore_onlyRegs : OnlyRegs (f :: landFields) s (s.lgateStore n f v c staged) := by
  have hwr : OnlyRegs (f :: landFields) s (s.wr f v) := (OnlyRegs.refl s _).wr List.mem_cons_self v
  rw [State.lgateStore]
  split
  · exact hwr.accept (fun _ hg => List.mem_cons_of_mem _ hg) c
  · exact hwr.setQuay n _

theorem State.lgateStore_frame : SameButQuays s (s.lgateStore n f v c staged) := by
  have hwr : SameButQuays s (s.wr f v) := rfl
  rw [State.lgateStore]
  split
  · exact hwr.accept c
  · exact hwr.setQuay n _

theorem State.quay_lgateStore_other {k : Nat} (h : k ≠ n) : (s.lgateStore n f v c staged).quay k = s.quay k := by
  rw [State.lgateStore]
  split
  · exact State.quay_accept ..
  · exact State.quay_setQuay_other _ _ h

end Store

section Width
variable (s : State) (n w : Nat)

theorem State.lgateWidth_frame : SameButQuays s (s.lgateWidth n w) := by
  rw [State.lgateWidth]
  split
  · rfl
  · exact State.lgateStore_frame ..

theorem State.lgateWidth_onlyRegs : OnlyRegs (R.QY_LGT_CFG_WIDTH n :: landFields) s (s.lgateWidth n w) := by
  rw [State.lgateWidth]
  split
  · exact .refl s _
  · exact State.lgateStore_onlyRegs _ _ _ _ _ _

theorem State.rd_lgateWidth (h : low 9 w = w) :
    (s.lgateWidth n w).rd (R.QY_LGT_CFG_WIDTH n) = if w < 2 then s.rd (R.QY_LGT_CFG_WIDTH n) else w := by
  rw [State.lgateWidth, State.rd_ite, State.rd_lgateStore _ _ _ _ _ _ (landFields_key_ne (by simp only [R.QY_LGT_CFG_WIDTH]; omega)),
    show low (R.QY_LGT_CFG_WIDTH n).width w = w from h]

theorem State.lgateWidth_quays (h : w < 2 ∨ s.rd (R.QY_LGT_CFG_EN n) = 1) : (s.lgateWidth n w).quays = s.quays := by
  rw [State.lgateWidth]
  split
  · rfl
  · next hge =>
    rw [State.lgateStore_of_on _ _ _ _ _ _ (h.resolve_left hge), State.accept_quays]
    rfl

theorem State.quay_lgateWidth_staged (hge : 2 ≤ w) (hen : s.rd (R.QY_LGT_CFG_EN n) ≠ 1) :
    (s.lgateWidth n w).quay n = { s.quay n with lgtStaged := (some w, (s.quay n).lgtStaged.2) } := by
  rw [State.lgateWidth, if_neg (by omega), State.lgateStore_of_off _ _ _ _ _ _ hen, State.quay_setQuay_same]

theorem State.quay_lgateWidth_other {k : Nat} (hk : k ≠ n) : (s.lgateWidth n w).quay k = s.quay k := by
  rw [State.lgateWidth]
  split
  · rfl
  · exact State.quay_lgateStore_other _ _ _ _ _ _ hk

/-- What the WIDTH half adds to the landing list. -/
theorem State.lgateWidth_landing : (s.lgateWidth n w).landing = s.landing ++
    (if 2 ≤ w ∧ s.rd (R.QY_LGT_CFG_EN n) = 1 then [⟨landAt s.now, .lgtWidth n w⟩] else []) := by
  rw [State.lgateWidth]
  by_cases hw : w < 2
  · rw [if_pos hw, if_neg (fun h => by omega), List.append_nil]
  · rw [if_neg hw]
    by_cases hen : s.rd (R.QY_LGT_CFG_EN n) = 1
    · rw [State.lgateStore_of_on _ _ _ _ _ _ hen, if_pos ⟨by omega, hen⟩]
      exact State.accept_landing ..
    · rw [State.lgateStore_of_off _ _ _ _ _ _ hen, if_neg (fun h => hen h.2), List.append_nil]
      rfl

end Width

/-! What each write leaves, once it reaches its block. -/

section Writes
variable {s : State} {n : Fin 8} (hs : s.quayTakes n)
include hs

theorem exec_quayRunWrite (run : Bool) :
    exec (.quayRunWrite n run) s =
      let s1 := s.dropWaiting (fun c => match c with | .quayRun m _ => m == n.val | _ => false)
      .next (((s1.wrB (R.QY_CTL_RUN n) run).setQuay n { s.quay n with runWaitsArm := false }).accept (.quayRun n run)) := by
  show execQuayRunWrite n run s = _
  rw [execQuayRunWrite, hs.live, State.quayWrite_takes hs]
  rfl

theorem exec_planSelectWrite_of_pending (p : Fin 4) (h : s.rd (R.QY_PLAN_STATUS_STATE n) = 1) :
    exec (.planSelectWrite n p) s = .next (s.wr (R.QY_PLAN_STATUS_ERR n) 3) := by
  show execPlanSelectWrite n p s = _
  rw [execPlanSelectWrite, hs.live, State.quayWrite_takes hs, if_pos h]
  rfl

theorem exec_planSelectWrite_of_not_pending (p : Fin 4) (h : s.rd (R.QY_PLAN_STATUS_STATE n) ≠ 1) :
    exec (.planSelectWrite n p) s =
      .next ((((s.wr (R.QY_PLAN_SEL_PLAN n) p).wr (R.QY_PLAN_STATUS_STATE n) 1).wr (R.QY_PLAN_STATUS_ERR n) 0).accept (.planSwitch n p)) := by
  show execPlanSelectWrite n p s = _
  rw [execPlanSelectWrite, hs.live, State.quayWrite_takes hs, if_neg h]
  rfl

theorem exec_quayResumeWrite_of_armed (hf : (s.quay n).faults = 0) (ha : s.rd (R.QY_STATUS_ARMED n) = 1) :
    exec (.quayResumeWrite n) s = .next (s.accept (.quayResume n)) := by
  show execQuayResumeWrite n s = _
  rw [execQuayResumeWrite, hs.live, State.quayWrite_takes hs, if_pos ⟨hf, by simp [State.on, ha]⟩]
  rfl

theorem exec_quayResumeWrite_of_not_armed (h : (s.quay n).faults ≠ 0 ∨ s.rd (R.QY_STATUS_ARMED n) ≠ 1) :
    exec (.quayResumeWrite n) s = .next s := by
  show execQuayResumeWrite n s = _
  have hnot : ¬((s.quay n).faults = 0 ∧ s.on (R.QY_STATUS_ARMED n) = true) := by
    rintro ⟨hf, ha⟩
    exact h.elim (· hf) (· (by simpa [State.on] using ha))
  rw [execQuayResumeWrite, hs.live, State.quayWrite_takes hs, if_neg hnot]
  rfl

theorem exec_lgatePeriod_of_reserved (v : Word) (h : bits v.toNat 0 18 < 2500) : exec (.lgateTCfgWrite n true v) s = .next s := by
  show execLgateTCfgWrite n true v s = _
  rw [execLgateTCfgWrite, hs.live, State.quayWrite_takes hs]
  exact if_pos h

theorem exec_lgatePeriod (v : Word) (h : 2500 ≤ bits v.toNat 0 18) :
    exec (.lgateTCfgWrite n true v) s = .next (s.lgateStore n (R.QY_LGT_PERIOD_PERIOD n) (bits v.toNat 0 18) (.lgtPeriod n (bits v.toNat 0 18))
      ((s.quay n).lgtStaged.1, some (bits v.toNat 0 18))) := by
  show execLgateTCfgWrite n true v s = _
  rw [execLgateTCfgWrite, hs.live, State.quayWrite_takes hs]
  exact if_neg (Nat.not_lt.mpr h)

theorem exec_lgateCfg (v : Word) :
    exec (.lgateTCfgWrite n false v) s =
      .next (((s.lgateWidth n (bits v.toNat 0 9)).wrB (R.QY_LGT_CFG_EN n) (bit v.toNat 31)).accept (.lgtEn n (bit v.toNat 31))) := by
  show execLgateTCfgWrite n false v s = _
  rw [execLgateTCfgWrite, hs.live, State.quayWrite_takes hs]
  rfl

end Writes

/-! RX_CFG (R109), which goes over no link. -/

/-- The fields of RX_CFG of quay `n`. -/
def rxCfgFields (n : Nat) : List Fld := [R.RX_CFG_GAUGE n, R.RX_CFG_POLW n, R.RX_CFG_POL n, R.RX_CFG_OFS_SHIFT n]

theorem State.storeRxCfg_sameButRegs (s : State) (n v : Nat) : SameButRegs s (s.storeRxCfg n v) := by
  unfold State.storeRxCfg
  extract_lets s1 s2 s3
  have h1 : SameButRegs s s1 := .ite (.wr (.refl s) _ _) (.refl s)
  have h2 : SameButRegs s s2 := .ite (h1.wr _ _) h1
  exact .ite ((h2.wr _ _).wr _ _) (h2.wr _ _)

theorem State.storeRxCfg_onlyRegs (s : State) (n v : Nat) : OnlyRegs (rxCfgFields n) s (s.storeRxCfg n v) := by
  unfold State.storeRxCfg
  extract_lets s1 s2 s3
  have h1 : OnlyRegs (rxCfgFields n) s s1 := .ite ((OnlyRegs.refl s _).wr (by simp [rxCfgFields]) _) (.refl s _)
  have h2 : OnlyRegs (rxCfgFields n) s s2 := .ite (h1.wr (by simp [rxCfgFields]) _) h1
  have h3 : OnlyRegs (rxCfgFields n) s s3 := h2.wr (by simp [rxCfgFields]) _
  exact .ite (h3.wr (by simp [rxCfgFields]) _) h3

theorem State.rd_storeRxCfg_polw (s : State) (n v : Nat) : (s.storeRxCfg n v).rd (R.RX_CFG_POLW n) = bits v 8 1 := by
  unfold State.storeRxCfg
  extract_lets s1 s2 s3
  have h3 : s3.rd (R.RX_CFG_POLW n) = bits v 8 1 := (State.rd_wr_same ..).trans (low_bits ..)
  rw [State.rd_ite, State.rd_wr_other _ _ (by simp [R.RX_CFG_GAUGE, R.RX_CFG_POLW]), h3, ite_self]

theorem State.rd_storeRxCfg_gauge (s : State) (n v : Nat) : (s.storeRxCfg n v).rd (R.RX_CFG_GAUGE n) =
    if 1 ≤ bits v 0 7 ∧ bits v 0 7 ≤ 64 then bits v 0 7 else s.rd (R.RX_CFG_GAUGE n) := by
  unfold State.storeRxCfg
  extract_lets s1 s2 s3
  have h1 : s1.rd (R.RX_CFG_GAUGE n) = s.rd (R.RX_CFG_GAUGE n) := by
    rw [State.rd_ite, State.rd_wr_other _ _ (by simp [R.RX_CFG_GAUGE, R.RX_CFG_OFS_SHIFT]), ite_self]
  have h2 : s2.rd (R.RX_CFG_GAUGE n) = s.rd (R.RX_CFG_GAUGE n) := by
    rw [State.rd_ite, State.rd_wr_other _ _ (by simp [R.RX_CFG_GAUGE, R.RX_CFG_POL]), ite_self, h1]
  have h3 : s3.rd (R.RX_CFG_GAUGE n) = s.rd (R.RX_CFG_GAUGE n) := by
    rw [State.rd_wr_other _ _ (by simp [R.RX_CFG_GAUGE, R.RX_CFG_POLW]), h2]
  rw [State.rd_ite, State.rd_wr_same, h3, show low (R.RX_CFG_GAUGE n).width (bits v 0 7) = bits v 0 7 from low_bits ..]

theorem rxCfgFields_key {n : Nat} {f : Fld} (hf : f ∈ rxCfgFields n) :
    8 * (0x501000 + n * 0x100) ≤ f.key ∧ f.key < 8 * (0x501000 + n * 0x100) + 32 := by
  simp only [rxCfgFields, List.mem_cons, List.not_mem_nil, or_false] at hf
  rcases hf with rfl | rfl | rfl | rfl <;> simp only [R.RX_CFG_GAUGE, R.RX_CFG_POLW, R.RX_CFG_POL, R.RX_CFG_OFS_SHIFT] <;> omega

/-- The state in which a write of RX_CFG, stored in `u`, waits to land. -/
def State.rxCfgWaiting (u : State) (n : Nat) : State := (u.wr (R.RX_STATUS_PENDING n) 1).accept (.rxCfg n (u.rxCfgWord n))

theorem State.rd_rxCfgWaiting (u : State) {n : Nat} {f : Fld} (hf : f ∈ rxCfgFields n) : (u.rxCfgWaiting n).rd f = u.rd f := by
  have := rxCfgFields_key hf
  rw [State.rxCfgWaiting, State.rd_accept_other _ _ (landFields_key_ne (by omega)), State.rd_wr_other _ _ (by simp only [R.RX_STATUS_PENDING]; omega)]

theorem State.rd_rxCfgWaiting_pending (u : State) (n : Nat) : (u.rxCfgWaiting n).rd (R.RX_STATUS_PENDING n) = 1 := by
  rw [State.rxCfgWaiting, State.rd_accept_other _ _ (landFields_key_ne (by simp only [R.RX_STATUS_PENDING]; omega)), State.rd_wr_same]
  rfl

theorem State.rxCfgWord_rxCfgWaiting (u : State) (n : Nat) : (u.rxCfgWaiting n).rxCfgWord n = u.rxCfgWord n := by
  simp only [State.rxCfgWord]
  iterate 4 rw [State.rd_rxCfgWaiting u (by simp [rxCfgFields])]

theorem State.rxCfgWaiting_accepted {s u : State} (h : SameButRegs s u) (n : Nat) : Accepted (.rxCfg n (u.rxCfgWord n)) s (u.rxCfgWaiting n) :=
  State.accepted_accept _ (by rw [State.wr_landing, h]) (by rw [State.wr_now, h])

theorem State.rxCfgWaiting_frame {s u : State} (h : SameButQuays s u) (hq : u.quays = s.quays) (n : Nat) :
    u.rxCfgWaiting n = { s with regs := (u.rxCfgWaiting n).regs, landing := (u.rxCfgWaiting n).landing } :=
  ((h.wr _ _).accept _).of_quays ((State.accept_quays ..).trans hq)

theorem exec_rxCfgWrite {s : State} (hs : s.runs) (n : Fin 8) (v : Word) :
    exec (.rxCfgWrite n v) s =
      .next (((s.dropWaiting (fun c => match c with | .rxCfg m _ => m == n.val | _ => false)).storeRxCfg n v.toNat).rxCfgWaiting n) := by
  show execRxCfgWrite n v s = _
  rw [execRxCfgWrite, State.live_runs hs]
  rfl

/-! The clauses of O20. -/

section Clauses
variable {s : State} {n : Fin 8} (hs : s.quayTakes n)
include hs

theorem quayRunWrite_waits (run : Bool) : ∃ t, exec (.quayRunWrite n run) s = .next t ∧ t.rd (R.QY_CTL_RUN n) = flag run ∧
    Accepted (.quayRun n run) (s.dropWaiting (fun c => match c with | .quayRun m _ => m == n.val | _ => false)) t ∧
    t.quay n = { s.quay n with runWaitsArm := false } ∧ (∀ k, k ≠ n.val → t.quay k = s.quay k) ∧
    OnlyRegs (R.QY_CTL_RUN n :: landFields) s t ∧ t = { s with regs := t.regs, quays := t.quays, landing := t.landing } := by
  refine ⟨_, exec_quayRunWrite hs run, ?_, State.accepted_accept _ rfl rfl, (State.quay_accept ..).trans (State.quay_setQuay_same ..),
    fun k hk => (State.quay_accept ..).trans (State.quay_setQuay_other _ _ hk), ?_,
    (((SameButRegs.refl s).sameButQuays.dropWaiting _).wr _ _).setQuay _ _ |>.accept _⟩
  · rw [State.rd_accept_other _ _ (landFields_key_ne (by simp only [R.QY_CTL_RUN]; omega)), State.rd_setQuay, State.rd_wrB_same]
    exact low_one_flag run
  · have hdrop : OnlyRegs (R.QY_CTL_RUN n :: landFields) s (s.dropWaiting (fun c => match c with | .quayRun m _ => m == n.val | _ => false)) :=
      (OnlyRegs.refl s _).of_regs rfl
    exact ((hdrop.wr List.mem_cons_self _).setQuay _ _).accept (fun _ hf => List.mem_cons_of_mem _ hf) _

theorem planSelect_refused (p : Fin 4) (h : s.rd (R.QY_PLAN_STATUS_STATE n) = 1) : ∃ t, exec (.planSelectWrite n p) s = .next t ∧
    t.rd (R.QY_PLAN_STATUS_ERR n) = 3 ∧ OnlyRegs [R.QY_PLAN_STATUS_ERR n] s t ∧ t = { s with regs := t.regs } :=
  ⟨_, exec_planSelectWrite_of_pending hs p h, (State.rd_wr_same ..).trans (low_of_lt (by simp [R.QY_PLAN_STATUS_ERR])),
    (OnlyRegs.refl s _).wr (List.mem_singleton_self _) _, rfl⟩

theorem planSelect_waits (p : Fin 4) (h : s.rd (R.QY_PLAN_STATUS_STATE n) ≠ 1) : ∃ t, exec (.planSelectWrite n p) s = .next t ∧
    t.rd (R.QY_PLAN_SEL_PLAN n) = p ∧ t.rd (R.QY_PLAN_STATUS_STATE n) = 1 ∧ t.rd (R.QY_PLAN_STATUS_ERR n) = 0 ∧
    Accepted (.planSwitch n p) s t ∧
    OnlyRegs (R.QY_PLAN_SEL_PLAN n :: R.QY_PLAN_STATUS_STATE n :: R.QY_PLAN_STATUS_ERR n :: landFields) s t ∧
    t = { s with regs := t.regs, landing := t.landing } := by
  have hland : ∀ {g : Fld}, 8 * 0x400000 ≤ g.key → ∀ f ∈ landFields, f.key ≠ g.key := fun h => landFields_key_ne (by omega)
  refine ⟨_, exec_planSelectWrite_of_not_pending hs p h, ?_, ?_, ?_, State.accepted_accept _ rfl rfl, ?_,
    ((((SameButRegs.refl s).wr _ _).wr _ _).wr _ _).sameButQuays.accept _ |>.of_quays (State.accept_quays ..)⟩
  · rw [State.rd_accept_other _ _ (hland (by simp only [R.QY_PLAN_SEL_PLAN]; omega)),
      State.rd_wr_other _ _ (by simp only [R.QY_PLAN_STATUS_ERR, R.QY_PLAN_SEL_PLAN]; omega),
      State.rd_wr_other _ _ (by simp only [R.QY_PLAN_STATUS_STATE, R.QY_PLAN_SEL_PLAN]; omega), State.rd_wr_same]
    exact low_of_lt p.isLt
  · rw [State.rd_accept_other _ _ (hland (by simp only [R.QY_PLAN_STATUS_STATE]; omega)),
      State.rd_wr_other _ _ (by simp only [R.QY_PLAN_STATUS_ERR, R.QY_PLAN_STATUS_STATE]; omega), State.rd_wr_same]
    rfl
  · rw [State.rd_accept_other _ _ (hland (by simp only [R.QY_PLAN_STATUS_ERR]; omega)), State.rd_wr_same]
    rfl
  · exact ((((OnlyRegs.refl s _).wr (by simp) _).wr (by simp) _).wr (by simp) _).accept (fun _ hf => by simp [hf]) _

theorem rxCfg_waits (v : Word) : ∃ t w, exec (.rxCfgWrite n v) s = .next t ∧ t.rd (R.RX_STATUS_PENDING n) = 1 ∧
    (1 ≤ bits v.toNat 0 7 → bits v.toNat 0 7 ≤ 64 → t.rd (R.RX_CFG_GAUGE n) = bits v.toNat 0 7) ∧
    (¬(1 ≤ bits v.toNat 0 7 ∧ bits v.toNat 0 7 ≤ 64) → t.rd (R.RX_CFG_GAUGE n) = s.rd (R.RX_CFG_GAUGE n)) ∧
    t.rd (R.RX_CFG_POLW n) = bits v.toNat 8 1 ∧
    w = t.rd (R.RX_CFG_OFS_SHIFT n) * 2 ^ 24 + t.rd (R.RX_CFG_POL n) * 2 ^ 16 + t.rd (R.RX_CFG_POLW n) * 2 ^ 8 + t.rd (R.RX_CFG_GAUGE n) ∧
    Accepted (.rxCfg n w) (s.dropWaiting (fun c => match c with | .rxCfg m _ => m == n.val | _ => false)) t ∧
    OnlyRegs ([R.RX_STATUS_PENDING n, R.RX_CFG_GAUGE n, R.RX_CFG_POLW n, R.RX_CFG_POL n, R.RX_CFG_OFS_SHIFT n] ++ landFields) s t ∧
    t = { s with regs := t.regs, landing := t.landing } := by
  obtain ⟨s0, hs0⟩ : ∃ s0, s0 = s.dropWaiting (fun c => match c with | .rxCfg m _ => m == n.val | _ => false) := ⟨_, rfl⟩
  obtain ⟨u, hu⟩ : ∃ u, u = s0.storeRxCfg n v.toNat := ⟨_, rfl⟩
  have hsame : SameButRegs s0 u := hu ▸ s0.storeRxCfg_sameButRegs ..
  have hframe : SameButQuays s u := (hs0 ▸ (SameButRegs.refl s).sameButQuays.dropWaiting _).trans hsame.sameButQuays
  have hquays : u.quays = s.quays := by rw [hsame, hs0]; rfl
  have hrd : ∀ {f}, f ∈ rxCfgFields n → (u.rxCfgWaiting n).rd f = u.rd f := u.rd_rxCfgWaiting
  have hgauge : u.rd (R.RX_CFG_GAUGE n) = if 1 ≤ bits v.toNat 0 7 ∧ bits v.toNat 0 7 ≤ 64 then bits v.toNat 0 7 else s.rd (R.RX_CFG_GAUGE n) := by
    rw [hu, State.rd_storeRxCfg_gauge, hs0, State.rd_dropWaiting]
  have hexec := exec_rxCfgWrite hs.1.runs n v
  rw [← hs0, ← hu] at hexec
  rw [← hs0]
  refine ⟨_, u.rxCfgWord n, hexec, u.rd_rxCfgWaiting_pending n, fun hlo hhi => ?_, fun h => ?_, ?_, (u.rxCfgWord_rxCfgWaiting n).symm,
    State.rxCfgWaiting_accepted hsame n, ?_, State.rxCfgWaiting_frame hframe hquays n⟩
  · rw [hrd (by simp [rxCfgFields]), hgauge, if_pos ⟨hlo, hhi⟩]
  · rw [hrd (by simp [rxCfgFields]), hgauge, if_neg h]
  · rw [hrd (by simp [rxCfgFields]), hu, State.rd_storeRxCfg_polw]
  · have h0 : OnlyRegs (rxCfgFields n) s s0 := hs0 ▸ (OnlyRegs.refl s _).of_regs rfl
    have hstore := (h0.trans (hu ▸ s0.storeRxCfg_onlyRegs n v.toNat)).mono (gs := [R.RX_STATUS_PENDING n, R.RX_CFG_GAUGE n, R.RX_CFG_POLW n,
      R.RX_CFG_POL n, R.RX_CFG_OFS_SHIFT n] ++ landFields) (fun f hf => by simp [rxCfgFields] at hf ⊢; tauto)
    exact (hstore.wr (by simp) _).accept (fun f hf => by simp [hf]) _

theorem lgatePeriod_waits (v : Word) (h : 2500 ≤ bits v.toNat 0 18) : ∃ t, exec (.lgateTCfgWrite n true v) s = .next t ∧
    t.rd (R.QY_LGT_PERIOD_PERIOD n) = bits v.toNat 0 18 ∧
    (s.rd (R.QY_LGT_CFG_EN n) = 1 → Accepted (.lgtPeriod n (bits v.toNat 0 18)) s t) ∧
    (s.rd (R.QY_LGT_CFG_EN n) = 1 → t.quays = s.quays) ∧
    (s.rd (R.QY_LGT_CFG_EN n) ≠ 1 → t.landing = s.landing ∧
      t.quay n = { s.quay n with lgtStaged := ((s.quay n).lgtStaged.1, some (bits v.toNat 0 18)) }) ∧ (∀ k, k ≠ n.val → t.quay k = s.quay k) ∧
    OnlyRegs (R.QY_LGT_PERIOD_PERIOD n :: landFields) s t ∧ t = { s with regs := t.regs, quays := t.quays, landing := t.landing } := by
  obtain ⟨t, ht⟩ : ∃ t, t = s.lgateStore n (R.QY_LGT_PERIOD_PERIOD n) (bits v.toNat 0 18) (.lgtPeriod n (bits v.toNat 0 18))
    ((s.quay n).lgtStaged.1, some (bits v.toNat 0 18)) := ⟨_, rfl⟩
  refine ⟨t, by rw [exec_lgatePeriod hs v h, ht], ?_, fun hen => ?_, fun hen => ?_, fun hen => ⟨?_, ?_⟩, fun k hk => ?_, ?_, ?_⟩
  · rw [ht, State.rd_lgateStore _ _ _ _ _ _ (landFields_key_ne (by simp only [R.QY_LGT_PERIOD_PERIOD]; omega))]
    exact low_bits ..
  · rw [ht, State.lgateStore_of_on _ _ _ _ _ _ hen]
    exact State.accepted_accept _ rfl rfl
  · rw [ht, State.lgateStore_of_on _ _ _ _ _ _ hen, State.accept_quays]
    rfl
  · rw [ht, State.lgateStore_of_off _ _ _ _ _ _ hen]
    rfl
  · rw [ht, State.lgateStore_of_off _ _ _ _ _ _ hen, State.quay_setQuay_same]
  · rw [ht, State.quay_lgateStore_other _ _ _ _ _ _ hk]
  · exact ht ▸ State.lgateStore_onlyRegs _ _ _ _ _ _
  · exact ht ▸ State.lgateStore_frame ..

theorem lgateCfg_waits (v : Word) : ∃ t, exec (.lgateTCfgWrite n false v) s = .next t ∧ t.rd (R.QY_LGT_CFG_EN n) = flag (bit v.toNat 31) ∧
    t.rd (R.QY_LGT_CFG_WIDTH n) = (if bits v.toNat 0 9 < 2 then s.rd (R.QY_LGT_CFG_WIDTH n) else bits v.toNat 0 9) ∧
    (∃ ls, t.landing = s.landing ++ ls ++ [⟨landAt s.now, .lgtEn n (bit v.toNat 31)⟩] ∧
      ls = (if 2 ≤ bits v.toNat 0 9 ∧ s.rd (R.QY_LGT_CFG_EN n) = 1 then [⟨landAt s.now, .lgtWidth n (bits v.toNat 0 9)⟩] else [])) ∧
    (bits v.toNat 0 9 < 2 ∨ s.rd (R.QY_LGT_CFG_EN n) = 1 → t.quays = s.quays) ∧
    (2 ≤ bits v.toNat 0 9 → s.rd (R.QY_LGT_CFG_EN n) ≠ 1 →
      t.quay n = { s.quay n with lgtStaged := (some (bits v.toNat 0 9), (s.quay n).lgtStaged.2) }) ∧ (∀ k, k ≠ n.val → t.quay k = s.quay k) ∧
    OnlyRegs (R.QY_LGT_CFG_EN n :: R.QY_LGT_CFG_WIDTH n :: landFields) s t ∧
    t = { s with regs := t.regs, quays := t.quays, landing := t.landing } := by
  obtain ⟨w, hw⟩ : ∃ w, w = bits v.toNat 0 9 := ⟨_, rfl⟩
  have hframe := s.lgateWidth_frame n w
  have honly := s.lgateWidth_onlyRegs n w
  have hnow : (s.lgateWidth n w).now = s.now := by rw [hframe]
  have hexec := exec_lgateCfg hs v
  rw [← hw] at hexec ⊢
  refine ⟨_, hexec, ?_, ?_, ⟨_, ?_, rfl⟩, fun h => ?_, fun hge hen => ?_, fun k hk => ?_, ?_, (hframe.wr _ _).accept _⟩
  · rw [State.rd_accept_other _ _ (landFields_key_ne (by simp only [R.QY_LGT_CFG_EN]; omega)), State.rd_wrB_same]
    exact low_one_flag _
  · rw [State.rd_accept_other _ _ (landFields_key_ne (by simp only [R.QY_LGT_CFG_WIDTH]; omega)),
      State.rd_wrB_other _ _ (by simp only [R.QY_LGT_CFG_EN, R.QY_LGT_CFG_WIDTH]; omega), s.rd_lgateWidth n w (hw ▸ low_bits ..)]
  · rw [State.accept_landing, State.wrB_landing, State.wrB_now, hnow, State.lgateWidth_landing]
  · rw [State.accept_quays]
    exact s.lgateWidth_quays n w h
  · rw [State.quay_accept]
    exact s.quay_lgateWidth_staged n w hge hen
  · rw [State.quay_accept]
    exact s.quay_lgateWidth_other n w hk
  · exact ((honly.mono fun _ hf => List.mem_cons_of_mem _ hf).wr List.mem_cons_self _).accept
      (fun _ hf => List.mem_cons_of_mem _ (List.mem_cons_of_mem _ hf)) _

end Clauses

/-- Settles O20: behind the gate of the quay's block each write leaves what it stores and the change that waits to land. -/
theorem quayWritesWaitToLand : Obligations.QuayWritesWaitToLand :=
  ⟨fun _ _ _ hs hon hre hc => exec_quay_held hs hon hre hc, fun _ s hs =>
    ⟨quayRunWrite_waits hs, fun p => ⟨planSelect_refused hs p, planSelect_waits hs p⟩,
      fun hf ha => ⟨_, exec_quayResumeWrite_of_armed hs hf ha, State.accepted_accept _ rfl rfl,
        (OnlyRegs.refl s _).accept (fun _ hf => hf) _, (SameButRegs.refl s).sameButQuays.accept _ |>.of_quays (State.accept_quays ..)⟩,
      exec_quayResumeWrite_of_not_armed hs, rxCfg_waits hs, exec_lgatePeriod_of_reserved hs, lgatePeriod_waits hs, lgateCfg_waits hs⟩⟩

/-! QY_GPIO_CFG (R84). -/

/-- A state in which FUNC of line 0 of quay 0, a field of 2 bits, holds 7. -/
def wideFunc : State := { State.reset with power := { State.reset.power with cold := [] }, regs := [((R.QY_GPIO_CFG_FUNC_i 0 0).key, 7)] }

/-- Refutes O22: its clause on QY_GPIO_CFG speaks of every state, also of one in which FUNC of a line holds a value wider than its 2 bits. There a write
of the reserved FUNC 3 does not leave the field as the clause has it: the model writes back the value held, 7, and the field keeps its 2 low bits. -/
theorem not_gpioLinesAndFaults : ¬ Obligations.GpioLinesAndFaults := by
  intro h
  have htakes : wideFunc.quayTakes (0 : Fin 8) := by unfold State.quayTakes State.takesWrites; decide +kernel
  obtain ⟨-, -, hcfg, -⟩ := h 0 0 wideFunc
  obtain ⟨t, hexec, hlines, -⟩ := hcfg htakes 3
  obtain ⟨-, -, hfunc⟩ := hlines 0 (by decide)
  have hold : wideFunc.rd (R.QY_GPIO_CFG_FUNC_i (0 : Fin 8) 0) = 7 := by decide
  have hnew : (match exec (.gpioCfgWrite 0 3) wideFunc with
    | .next u => u.rd (R.QY_GPIO_CFG_FUNC_i (0 : Fin 8) 0)
    | _ => 7) = 3 := by decide +kernel
  rw [hexec] at hnew
  rw [if_pos (by decide), hold] at hfunc
  exact absurd (hfunc.symm.trans hnew) (by decide)

end Sys2Proof.Machine
end

section
/-! SUPPORT. What a write of the Shed stores (R33, R340), and the mailbox: how a command is taken and what its reply leaves (R391, R392,
Table 15.4). -/

namespace Sys2Proof.Machine

/-! A write of the Shed, word by word. -/

/-- The write of `n` bytes at `a` covers the whole of word `w`. -/
def coversWord (a n w : Nat) : Prop := a ≤ 4 * w ∧ 4 * w + 4 ≤ a + n

/-- Byte `j` is one of the `n` bytes at `a`, and word `j / 4` takes it. -/
def takesByte (bad : Tab Bool) (a n j : Nat) : Prop :=
  (a ≤ j ∧ j < a + n) ∧ (coversWord a n (j / 4) ∨ Tab.get false bad (j / 4) = false)

theorem coversWord_iff (a n w : Nat) : coversWord a n w ↔ min (a + n) (4 * w + 4) - max a (4 * w) = 4 := by
  unfold coversWord
  omega

/-- The part of a list of bytes that starts at byte `lo - a` holds, at the place of byte `j`, the byte of the list at that place. -/
theorem getD_part {bs : List Byte} {a lo n j : Nat} (hlo : a ≤ lo) (hj : lo ≤ j) (hn : j < lo + n) :
    ((bs.drop (lo - a)).take n).getD (j - lo) 0 = bs.getD (j - a) 0 := by
  have hplace : lo - a + (j - lo) = j - a := by omega
  have hlt : j - lo < n := by omega
  simp only [List.getD_eq_getElem?_getD, List.getElem?_take, hlt, if_true, List.getElem?_drop, hplace]

theorem State.shedByte_putPart (s : State) (a : Nat) (bs : List Byte) (w j : Nat) :
    Tab.get 0 (Tab.putList 0 s.shed (max a (4 * w))
        ((bs.drop (max a (4 * w) - a)).take (min (a + bs.length) (4 * w + 4) - max a (4 * w)))) j =
      if j / 4 = w ∧ a ≤ j ∧ j < a + bs.length then bs.getD (j - a) 0 else s.shedByte j := by
  rw [Tab.get_putList]
  have hin : (max a (4 * w) ≤ j ∧ j < max a (4 * w) +
      ((bs.drop (max a (4 * w) - a)).take (min (a + bs.length) (4 * w + 4) - max a (4 * w))).length) ↔
      (j / 4 = w ∧ a ≤ j ∧ j < a + bs.length) := by
    rw [List.length_take, List.length_drop]
    omega
  simp only [hin]
  split
  · next h => exact getD_part (by omega) (by omega) (by omega)
  · rfl

theorem State.shedByte_shedWritePart (s : State) (a : Nat) (bs : List Byte) (w j : Nat) [Decidable (takesByte s.shedBad a bs.length j)] :
    (s.shedWritePart a bs w).shedByte j = if j / 4 = w ∧ takesByte s.shedBad a bs.length j then bs.getD (j - a) 0 else s.shedByte j := by
  have hput := s.shedByte_putPart a bs w j
  unfold State.shedWritePart
  extract_lets lo hi part
  split
  · next hwhole =>
    have hcov := (coversWord_iff a bs.length w).mpr hwhole
    refine hput.trans (if_congr ⟨fun h => ⟨h.1, h.2, .inl (h.1 ▸ hcov)⟩, fun h => ⟨h.1, h.2.1⟩⟩ rfl rfl)
  · next hpart =>
    have hcov : ¬coversWord a bs.length w := fun h => hpart ((coversWord_iff ..).mp h)
    split
    · next hbad =>
      rw [if_neg]
      · exact congrArg (Tab.get 0 · j) (State.wr_shed ..)
      · rintro ⟨rfl, -, h⟩
        rcases h with h | h
        · exact hcov h
        · simp [h] at hbad
    · next hbad =>
      refine hput.trans (if_congr ⟨fun h => ⟨h.1, h.2, .inr ?_⟩, fun h => ⟨h.1, h.2.1⟩⟩ rfl rfl)
      rw [h.1]
      simpa using hbad

theorem State.shedBad_shedWritePart (s : State) (a : Nat) (bs : List Byte) (w k : Nat) [Decidable (coversWord a bs.length w)] :
    Tab.get false (s.shedWritePart a bs w).shedBad k =
      if w = k ∧ coversWord a bs.length w then false else Tab.get false s.shedBad k := by
  unfold State.shedWritePart
  extract_lets lo hi part
  have hwhole : hi - lo = 4 ↔ coversWord a bs.length w := (coversWord_iff ..).symm
  simp only [hwhole]
  by_cases hcov : coversWord a bs.length w
  · simp only [hcov, if_true, and_true, Tab.get_put]
  · simp only [hcov, if_false, and_false]
    split <;> rfl

open Classical in
/-- A pass over words writes the bytes that their words take. -/
theorem State.shedByte_foldl_shedWritePart (a : Nat) (bs : List Byte) (j : Nat) : ∀ (ws : List Nat) (s : State),
    (ws.foldl (fun (t : State) w => t.shedWritePart a bs w) s).shedByte j =
      if j / 4 ∈ ws ∧ takesByte s.shedBad a bs.length j then bs.getD (j - a) 0 else s.shedByte j
  | [], s => by simp
  | w :: ws, s => by
    have hbad := s.shedBad_shedWritePart a bs w (j / 4)
    have htakes : takesByte (s.shedWritePart a bs w).shedBad a bs.length j ↔ takesByte s.shedBad a bs.length j := by
      unfold takesByte
      rw [hbad]
      by_cases hw : w = j / 4 ∧ coversWord a bs.length w
      · simp [hw.1 ▸ hw.2]
      · rw [if_neg hw]
    rw [List.foldl_cons, State.shedByte_foldl_shedWritePart a bs j ws, State.shedByte_shedWritePart]
    simp only [List.mem_cons, htakes]
    by_cases ht : takesByte s.shedBad a bs.length j <;> by_cases hw : j / 4 = w <;> simp [ht, hw]

theorem mem_wordsOf {a n j : Nat} (h : a ≤ j ∧ j < a + n) : j / 4 ∈ wordsOf a n := by
  rw [wordsOf, if_neg (by omega), List.mem_map]
  exact ⟨j / 4 - a / 4, List.mem_range.mpr (by omega), by omega⟩

open Classical in
/-- R33, R340: what a byte of the Shed holds after a write. -/
theorem State.shedByte_shedWrite (s : State) (a : Nat) (bs : List Byte) (j : Nat) :
    (s.shedWrite a bs).shedByte j = if takesByte s.shedBad a bs.length j then bs.getD (j - a) 0 else s.shedByte j := by
  rw [State.shedWrite, State.shedByte_foldl_shedWritePart]
  exact if_congr ⟨And.right, fun h => ⟨mem_wordsOf h.1, h⟩⟩ rfl rfl

/-- Nothing but the Shed, its parity and register fields differs. -/
def SameButShed (s t : State) : Prop := t = { s with shed := t.shed, shedBad := t.shedBad, regs := t.regs }

theorem SameButShed.trans {s t u : State} (h : SameButShed s t) (h' : SameButShed t u) : SameButShed s u := by
  unfold SameButShed at *
  rw [h', h]

theorem State.shedWritePart_sameButShed (s : State) (a : Nat) (bs : List Byte) (w : Nat) : SameButShed s (s.shedWritePart a bs w) := by
  unfold State.shedWritePart
  extract_lets
  split
  · rfl
  · split <;> rfl

theorem State.shedWritePart_onlyRegs (s : State) (a : Nat) (bs : List Byte) (w : Nat) :
    OnlyRegs [R.TG_SHED_STATUS_WRITE_DISC] s (s.shedWritePart a bs w) := by
  unfold State.shedWritePart
  extract_lets
  split
  · exact (OnlyRegs.refl s _).of_regs rfl
  · split
    · exact (OnlyRegs.refl s _).wr (List.mem_singleton_self _) _
    · exact (OnlyRegs.refl s _).of_regs rfl

theorem State.shedWrite_frame (s : State) (a : Nat) (bs : List Byte) :
    SameButShed s (s.shedWrite a bs) ∧ OnlyRegs [R.TG_SHED_STATUS_WRITE_DISC] s (s.shedWrite a bs) := by
  unfold State.shedWrite
  induction wordsOf a bs.length generalizing s with
  | nil => exact ⟨rfl, .refl s _⟩
  | cons w ws ih =>
    obtain ⟨hsame, honly⟩ := ih (s.shedWritePart a bs w)
    exact ⟨(s.shedWritePart_sameButShed a bs w).trans hsame, (s.shedWritePart_onlyRegs a bs w).trans honly⟩

/-! A reply (Table 15.4). -/

theorem leBytes_length : ∀ k n : Nat, (leBytes k n).length = k
  | 0, _ => rfl
  | k + 1, n => by rw [leBytes, List.length_cons, leBytes_length k]

theorem length_flatMap_leBytes (ws : List Nat) : (ws.flatMap (leBytes 4)).length = 4 * ws.length := by
  rw [List.length_flatMap]
  simp [leBytes_length, Nat.mul_comm]

theorem replyBytes_length (tag cmd status land : Nat) (words : List Nat) : (replyBytes tag cmd status land words).length = 16 + 4 * words.length := by
  simp only [replyBytes, List.length_append, leBytes_length, length_flatMap_leBytes]

theorem State.mailReply_eq (s : State) (tag cmd : Nat) (r : MailAnswer) :
    s.mailReply tag cmd r =
      (((((s.shedWrite s.replyAt (replyBytes tag cmd r.status r.land (r.words.take 124))).wr R.MB_CMD_HEAD_HEAD (s.rd R.MB_CMD_HEAD_HEAD + 1)).wr
        R.MB_RPL_TAIL_TAIL (s.rd R.MB_RPL_TAIL_TAIL + 1)).wr R.MB_STATUS_RPL 1).signal (s.rd R.MB_CFG_VEC)) := rfl

@[simp] theorem State.rd_signal (s : State) (v : Nat) (f : Fld) : (s.signal v).rd f = s.rd f := State.rd_congr rfl f

section Reply
variable (s : State) (tag cmd : Nat) (r : MailAnswer)

theorem State.mailReply_onlyRegs : OnlyRegs replyFields s (s.mailReply tag cmd r) := by
  have hshed : OnlyRegs replyFields s (s.shedWrite s.replyAt (replyBytes tag cmd r.status r.land (r.words.take 124))) :=
    (s.shedWrite_frame ..).2.mono (by simp [replyFields])
  rw [State.mailReply_eq]
  refine OnlyRegs.of_regs ?_ (State.signal_regs ..)
  refine OnlyRegs.wr (OnlyRegs.wr (OnlyRegs.wr hshed ?_ _) ?_ _) ?_ _ <;> simp [replyFields]

theorem State.mailReply_frame :
    s.mailReply tag cmd r = { s with
      shed := (s.mailReply tag cmd r).shed, shedBad := (s.mailReply tag cmd r).shedBad, regs := (s.mailReply tag cmd r).regs,
      signalled := (s.mailReply tag cmd r).signalled } := by
  have hshed := (s.shedWrite_frame s.replyAt (replyBytes tag cmd r.status r.land (r.words.take 124))).1
  rw [SameButShed] at hshed
  rw [State.mailReply_eq, hshed]
  rfl

theorem State.mailReply_shedByte (j : Nat) : (s.mailReply tag cmd r).shedByte j =
    (s.shedWrite s.replyAt (replyBytes tag cmd r.status r.land (r.words.take 124))).shedByte j := rfl

theorem State.mailReply_replyOnly : ReplyOnly (r.words.take 124).length s (s.mailReply tag cmd r) := by
  intro a ha
  rw [State.mailReply_shedByte, State.shedByte_shedWrite, if_neg]
  rintro ⟨hin, -⟩
  rw [replyBytes_length] at hin
  omega

theorem State.mailReply_replied : Replied tag cmd r.status r.land (r.words.take 124) s (s.mailReply tag cmd r) := by
  refine ⟨?_, ?_, ?_, ?_, fun hbase i hi => ?_⟩
  · rw [State.mailReply_eq, State.rd_signal, State.rd_wr_other _ _ (by decide), State.rd_wr_other _ _ (by decide), State.rd_wr_same]
    rfl
  · rw [State.mailReply_eq, State.rd_signal, State.rd_wr_other _ _ (by decide), State.rd_wr_same]
    rfl
  · rw [State.mailReply_eq, State.rd_signal, State.rd_wr_same]
    rfl
  · have hshed := (s.shedWrite_frame s.replyAt (replyBytes tag cmd r.status r.land (r.words.take 124))).1
    rw [SameButShed] at hshed
    rw [State.mailReply_eq, hshed]
    rfl
  · have hat : s.replyAt % 4 = 0 := by
      unfold State.replyAt
      omega
    rw [State.mailReply_shedByte, State.shedByte_shedWrite, if_pos, Nat.add_sub_cancel_left]
    rw [replyBytes_length] at hi
    rw [takesByte, replyBytes_length, coversWord]
    exact ⟨by omega, .inl (by omega)⟩

end Reply

/-! A command (R392). -/

theorem Tab.drop_getList {α : Type} (d : α) (t : Tab α) : ∀ (i k n : Nat), (Tab.getList d t k n).drop i = Tab.getList d t (k + i) (n - i)
  | 0, k, n => by simp
  | i + 1, k, 0 => by simp [Tab.getList]
  | i + 1, k, n + 1 => by
    rw [Tab.getList, List.drop_succ_cons, Tab.drop_getList d t i (k + 1) n, Nat.add_sub_add_right]
    congr 1
    omega

theorem Tab.take_getList {α : Type} (d : α) (t : Tab α) : ∀ (m k n : Nat), m ≤ n → (Tab.getList d t k n).take m = Tab.getList d t k m
  | 0, _, _, _ => by simp [Tab.getList]
  | m + 1, k, n + 1, h => by
    rw [Tab.getList, List.take_succ_cons, Tab.take_getList d t m (k + 1) n (by omega), Tab.getList]

/-- A number in a block of the Shed is the number at its place. -/
theorem State.bodyNat_shedBytes (s : State) {a n off k : Nat} (h : off + k ≤ n) : bodyNat (s.shedBytes a n) off k = s.shedNat (a + off) k := by
  rw [bodyNat, State.shedBytes, Tab.drop_getList, Tab.take_getList _ _ _ _ _ (by omega)]
  rfl

/-- A command that is offered and needs no more words than it has is run and answered. -/
theorem State.mailTake_of_offers {s : State} {code tag need : Nat} {args : List Nat} (h : s.mailOffers code tag args) (hneed : need ≤ args.length)
    (hver : code = 1 ∨ s.mailboxVer ≠ 0) (run : State → List Nat → State × MailAnswer) :
    s.mailTake code need run = (run s args).1.mailReply tag code (run s args).2 := by
  obtain ⟨-, hready, hparity, htag, hcode, hlen, hmax, hargs⟩ := h
  have htag' : bodyNat (s.shedBytes s.mailEntry 512) 0 2 = tag := by rw [State.bodyNat_shedBytes s (by decide)]; exact htag
  have hcode' : bodyNat (s.shedBytes s.mailEntry 512) 2 1 = code := by rw [State.bodyNat_shedBytes s (by decide)]; exact hcode
  have hlen' : bodyNat (s.shedBytes s.mailEntry 512) 4 2 = args.length := by rw [State.bodyNat_shedBytes s (by decide)]; exact hlen
  have hwords : (List.range args.length).map (fun i => bodyNat (s.shedBytes s.mailEntry 512) (16 + 4 * i) 4) = args := by
    refine List.ext_getElem (by simp) fun i hi hi' => ?_
    rw [List.getElem_map, List.getElem_range, State.bodyNat_shedBytes s (by omega), ← Nat.add_assoc, hargs i hi', List.getD_eq_getElem _ _ hi']
  unfold State.mailTake
  simp only [hready, hparity, hcode', htag', hlen', hwords]
  rw [if_neg (by simp), if_neg (fun hv => hver.elim hv.1 (· hv.2)), if_neg (by omega)]

/-- The fields that say where a reply goes and how it is signalled. -/
def replyPlace : List Fld := [R.MB_CMD_HEAD_HEAD, R.MB_RPL_TAIL_TAIL, R.MB_RPL_BASE_OFFSET, R.MB_CFG_VEC]

/-- What a command does before it is answered leaves the place of the reply, the Shed and what has been signalled. -/
structure BeforeReply (s u : State) : Prop where
  place : ∀ f ∈ replyPlace, u.rd f = s.rd f
  shed : u.shed = s.shed
  signalled : u.signalled = s.signalled

theorem BeforeReply.refl (s : State) : BeforeReply s s := ⟨fun _ _ => rfl, rfl, rfl⟩

theorem BeforeReply.replyAt {s u : State} (h : BeforeReply s u) : u.replyAt = s.replyAt := by
  rw [State.replyAt, h.place _ (by simp [replyPlace]), h.place _ (by simp [replyPlace])]
  rfl

theorem BeforeReply.replied {s u t : State} (h : BeforeReply s u) {tag cmd status land : Nat} {words : List Nat}
    (ht : Replied tag cmd status land words u t) : Replied tag cmd status land words s t := by
  obtain ⟨hhead, htail, hrpl, hsig, hbytes⟩ := ht
  have hplace := h.place
  refine ⟨?_, ?_, hrpl, ?_, fun hb => ?_⟩
  · rw [hhead, hplace _ (by simp [replyPlace])]
  · rw [htail, hplace _ (by simp [replyPlace])]
  · rw [hsig, h.signalled, hplace _ (by simp [replyPlace])]
  · rw [← h.replyAt]
    exact hbytes (by rw [hplace R.MB_RPL_BASE_OFFSET (by simp [replyPlace])]; exact hb)

theorem BeforeReply.replyOnly {s u t : State} (h : BeforeReply s u) {n : Nat} (ht : ReplyOnly n u t) : ReplyOnly n s t := by
  intro a ha
  rw [← h.replyAt] at ha
  rw [ht a ha, State.shedByte, h.shed]
  rfl

/-- A reply of fewer words lies within the place of one of more. -/
theorem ReplyOnly.mono {s t : State} {m n : Nat} (h : ReplyOnly m s t) (hmn : m ≤ n) : ReplyOnly n s t :=
  fun a ha => h a (ha.imp_right fun _ => by omega)

end Sys2Proof.Machine
end

section
/-! SUPPORT. Statement O15: the queries of the mailbox (R10, R392, R394). -/

namespace Sys2Proof.Machine

/-- The registers whose word follows more than their stored fields. -/
def liveAddrs : List Nat := [0x8, 0xC, 0x10, 0x14, 0x200044, 0x200158, 0x20015C]

/-- The word of a register without a live part is the one its fields make. -/
theorem State.liveWord_congr {s t : State} {addr : Nat} (hplain : addr ∉ liveAddrs)
    (h : ∀ f : Fld, 8 * addr ≤ f.key → f.key < 8 * addr + 32 → t.rd f = s.rd f) : t.liveWord addr = s.liveWord addr := by
  simp only [liveAddrs, List.mem_cons, List.not_mem_nil, or_false, not_or] at hplain
  obtain ⟨h1, h2, h3, h4, h5, h6, h7⟩ := hplain
  simp only [State.liveWord, h1, h2, h3, h4, h5, h6, h7, if_false]
  cases hr : regRow? addr with
  | none => rfl
  | some r =>
    refine congrArg List.sum (List.map_congr_left fun f hf => ?_)
    have hlt := regMap_lo_lt r (mem_regMap_of_regRow? hr) f hf
    rw [h (f.at addr) (Nat.le_add_right ..) (Nat.add_lt_add_left hlt _)]

/-- A reply leaves the word of a register that lies outside the mailbox and the Shed's status. -/
theorem State.mailReply_liveWord (s : State) (tag cmd : Nat) (r : MailAnswer) {addr : Nat} (hplain : addr ∉ liveAddrs)
    (hout : ∀ f ∈ replyFields, f.key < 8 * addr ∨ 8 * addr + 32 ≤ f.key) : (s.mailReply tag cmd r).liveWord addr = s.liveWord addr :=
  State.liveWord_congr hplain fun f hlo hhi => s.mailReply_onlyRegs tag cmd r f fun g hg => by
    rcases hout g hg with h | h <;> omega

/-- The registers whose words hello answers with. -/
theorem helloAddrs_plain : ∀ a ∈ 0 :: (List.range 5).map (fun i => 0x2000 + 4 * i), a ∉ liveAddrs ∧
    ∀ f ∈ replyFields, f.key < 8 * a ∨ 8 * a + 32 ≤ f.key := by decide

theorem State.mailReply_helloWords (s : State) (tag cmd : Nat) (r : MailAnswer) :
    (List.range 5).map (fun i => (s.mailReply tag cmd r).liveWord (0x2000 + 4 * i)) ++
        [(s.mailReply tag cmd r).rd R.MB_FW_VER_VERSION, (s.mailReply tag cmd r).liveWord 0] =
      (List.range 5).map (fun i => s.liveWord (0x2000 + 4 * i)) ++ [s.rd R.MB_FW_VER_VERSION, s.liveWord 0] := by
  have hword : ∀ a ∈ 0 :: (List.range 5).map (fun i => 0x2000 + 4 * i), (s.mailReply tag cmd r).liveWord a = s.liveWord a := fun a ha =>
    s.mailReply_liveWord tag cmd r (helloAddrs_plain a ha).1 (helloAddrs_plain a ha).2
  rw [hword 0 List.mem_cons_self, s.mailReply_onlyRegs tag cmd r R.MB_FW_VER_VERSION (by decide),
    List.map_congr_left fun i hi => hword _ (List.mem_cons_of_mem _ (List.mem_map_of_mem hi))]

/-- The fields that hold the mailbox version in force. -/
def versionFields : List Fld := [R.MB_STATUS_NEGOTIATED, R.MB_STATUS_VER, R.HB_IF_i_CUR 0]

theorem State.setMailboxVer_onlyRegs (s : State) (v : Nat) : OnlyRegs versionFields s (s.setMailboxVer v) := by
  refine OnlyRegs.wr (OnlyRegs.wr (OnlyRegs.wr (.refl s _) ?_ _) ?_ _) ?_ _ <;> simp [versionFields]

theorem State.setMailboxVer_sameButRegs (s : State) (v : Nat) : SameButRegs s (s.setMailboxVer v) := rfl

theorem State.setMailboxVer_rd (s : State) (v : Nat) : (s.setMailboxVer v).rd R.MB_STATUS_NEGOTIATED = flag (v != 0) ∧
    (s.setMailboxVer v).rd R.MB_STATUS_VER = low 4 v ∧ (s.setMailboxVer v).rd (R.HB_IF_i_CUR 0) = low 8 v := by
  refine ⟨?_, ?_, State.rd_wr_same ..⟩
  · rw [State.setMailboxVer, State.rd_wr_other _ _ (by decide), State.rd_wr_other _ _ (by decide)]
    exact (State.rd_wr_same ..).trans (low_one_flag _)
  · rw [State.setMailboxVer, State.rd_wr_other _ _ (by decide), State.rd_wr_same]
    rfl

theorem State.setMailboxVer_beforeReply (s : State) (v : Nat) : BeforeReply s (s.setMailboxVer v) :=
  ⟨fun f hf => s.setMailboxVer_onlyRegs v f (by revert f; decide), rfl, rfl⟩

section Answer
variable (s : State) (tag cmd : Nat) (r : MailAnswer)

/-- An answer of at most 124 words goes into the reply whole. -/
theorem State.mailReply_replied_of_le (h : r.words.length ≤ 124) : Replied tag cmd r.status r.land r.words s (s.mailReply tag cmd r) := by
  have := s.mailReply_replied tag cmd r
  rwa [List.take_of_length_le h] at this

theorem State.mailReply_replyOnly_of_le {n : Nat} (hn : r.words.length ≤ n) : ReplyOnly n s (s.mailReply tag cmd r) :=
  (s.mailReply_replyOnly tag cmd r).mono ((List.length_take_le' ..).trans hn)

/-- A reply to a command that moved register fields only. -/
theorem SameButRegs.mailReply_frame {s u : State} (h : SameButRegs s u) (tag cmd : Nat) (r : MailAnswer) :
    u.mailReply tag cmd r = { s with
      shed := (u.mailReply tag cmd r).shed, shedBad := (u.mailReply tag cmd r).shedBad, regs := (u.mailReply tag cmd r).regs,
      signalled := (u.mailReply tag cmd r).signalled } := by
  have hframe := u.mailReply_frame tag cmd r
  obtain ⟨t, ht⟩ : ∃ t, t = u.mailReply tag cmd r := ⟨_, rfl⟩
  rw [← ht] at hframe ⊢
  rw [SameButRegs] at h
  rw [h] at hframe
  exact hframe

end Answer

theorem Berth.answer_eq (b : Berth) : b.answer =
    [match b.state with | .pending => 0 | .open => 1 | .closing => 2 | .closed => 3, b.kind, low 32 b.land, b.land / 2 ^ 32] ++
      (List.range 20).map (vecAt b.cost) ++ [low 32 b.closeLand, b.closeLand / 2 ^ 32] := by
  rw [Berth.answer, twoWords, twoWords]
  cases b.state <;> rfl

theorem Berth.answer_length (b : Berth) : b.answer.length = 26 := by simp [Berth.answer, twoWords]

theorem State.queryBerth_words_le (s : State) (args : List Nat) : (s.queryBerth args).words.length ≤ 26 := by
  unfold State.queryBerth
  extract_lets
  split
  · exact Nat.zero_le _
  · split
    · exact (Berth.answer_length _).le
    · exact Nat.zero_le _

theorem State.queryTide_words (s : State) (args : List Nat) : (s.queryTide args).words.length = 42 := by simp [State.queryTide, twoWords]

/-- Settles O15: each query is answered by one reply, which hello gives after it sets the version in force. -/
theorem mailboxQueriesAnswer : Obligations.MailboxQueriesAnswer := by
  intro tag args s
  refine ⟨fun hoff hlen => ?_, fun hoff hlen hver => ?_, fun hoff hver => ?_⟩
  case refine_1 =>
    obtain ⟨v, hv⟩ : ∃ v, v = if max (bits (args.getD 0 0) 0 8) (s.rd (R.HB_IF_i_MIN 0)) ≤ min (bits (args.getD 0 0) 8 8) (s.rd (R.HB_IF_i_MAX 0))
      then min (bits (args.getD 0 0) 8 8) (s.rd (R.HB_IF_i_MAX 0)) else 0 := ⟨_, rfl⟩
    obtain ⟨u, hu⟩ : ∃ u, u = s.setMailboxVer v := ⟨_, rfl⟩
    obtain ⟨r, hr⟩ : ∃ r : MailAnswer, r = { status := if v = 0 then stVersion else stOk, words := v :: (List.range 5).map (fun i =>
      u.liveWord (0x2000 + 4 * i)) ++ [u.rd R.MB_FW_VER_VERSION, u.liveWord 0] } := ⟨_, rfl⟩
    have hrun : s.hello args = (u, r) := by
      rw [hr, hu, hv]
      rfl
    have hwords : r.words.length = 8 := by rw [hr]; rfl
    have hbefore : BeforeReply s u := hu ▸ s.setMailboxVer_beforeReply v
    have honly := u.mailReply_onlyRegs tag 1 r
    have hrd := s.setMailboxVer_rd v
    rw [← hu] at hrd
    obtain ⟨hneg, hver, hcur⟩ := hrd
    refine ⟨u.mailReply tag 1 r, v, ?_, hv, ?_, ?_, ?_, ?_, ?_, ?_, ?_⟩
    · show execHello s = _
      rw [execHello, State.live_runs hoff.1, State.mailTake_of_offers hoff hlen (.inl rfl), hrun]
      rfl
    · have := hbefore.replied (u.mailReply_replied_of_le tag 1 r (by omega))
      rw [List.cons_append, State.mailReply_helloWords]
      rw [hr] at this ⊢
      exact this
    · rw [honly _ (by decide), hneg]
    · rw [honly _ (by decide), hver]
    · rw [honly _ (by decide), hcur]
    · exact hbefore.replyOnly (u.mailReply_replyOnly_of_le tag 1 r hwords.le)
    · exact ((hu ▸ s.setMailboxVer_onlyRegs v).mono (fun _ => List.mem_append_left _)).trans (honly.mono fun _ => List.mem_append_right _)
    · exact SameButRegs.mailReply_frame (hu ▸ s.setMailboxVer_sameButRegs v) tag 1 r
  case refine_2 =>
    refine ⟨s.mailReply tag 0x12 (s.queryBerth args), ?_, ?_, s.mailReply_replyOnly_of_le _ _ _ (s.queryBerth_words_le args),
      s.mailReply_onlyRegs _ _ _, s.mailReply_frame _ _ _⟩
    · show execBerthQuery s = _
      rw [execBerthQuery, State.live_runs hoff.1, State.mailTake_of_offers hoff hlen (.inr hver)]
      rfl
    · rintro b c rfl hb
      have hreplied := s.mailReply_replied_of_le tag 0x12 _ ((s.queryBerth_words_le args).trans (by decide))
      have hq : s.queryBerth args = if neverIssued (args.getD 0 0) then { status := stRange }
        else if b.handle = args.getD 0 0 then { status := stOk, words := b.answer } else { status := stStale } := by rw [hb]; rfl
      split
      · next h =>
        rw [hq, if_pos h] at hreplied ⊢
        exact hreplied
      · next h =>
        rw [if_neg h] at hq
        split
        · next h' =>
          rw [hq, if_pos h', Berth.answer_eq] at hreplied
          rw [hq, if_pos h', Berth.answer_eq]
          exact hreplied
        · next h' =>
          rw [hq, if_neg h'] at hreplied ⊢
          exact hreplied
  case refine_3 =>
    have hwords := s.queryTide_words args
    refine ⟨s.mailReply tag 0x20 (s.queryTide args), ?_, s.mailReply_replied_of_le _ _ _ (by omega), s.mailReply_replyOnly_of_le _ _ _ hwords.le,
      s.mailReply_onlyRegs _ _ _, s.mailReply_frame _ _ _⟩
    show execTideQuery s = _
    rw [execTideQuery, State.live_runs hoff.1, State.mailTake_of_offers hoff (Nat.zero_le _) (.inr hver)]
    rfl

end Sys2Proof.Machine
end

section
/-! SUPPORT. Statement O16: berth.open and berth.close (R10, R36, R39, R393). -/

namespace Sys2Proof.Machine

/-! A command that accepts a change and is answered. -/

/-- Nothing but register fields and the landing list differs. -/
def SameButLanding (s t : State) : Prop := t = { s with regs := t.regs, landing := t.landing }

/-- Nothing but register fields, the landing list and what an accepted open takes for its berth differs. -/
def SameButOpening (s t : State) : Prop :=
  t = { s with
    regs := t.regs, landing := t.landing, rings := t.rings, coming := t.coming, gens := t.gens, dasComing := t.dasComing, flowComing := t.flowComing }

section Opening
variable {s t u : State}

theorem SameButLanding.refl (s : State) : SameButLanding s s := rfl

theorem SameButLanding.trans (h : SameButLanding s t) (h' : SameButLanding t u) : SameButLanding s u := by
  unfold SameButLanding at *
  rw [h', h]

theorem SameButRegs.sameButLanding (h : SameButRegs s t) : SameButLanding s t := by
  unfold SameButRegs SameButLanding at *
  rw [h]

theorem SameButLanding.wr (h : SameButLanding s t) (f : Fld) (v : Nat) : SameButLanding s (t.wr f v) := h.trans rfl

theorem State.acceptAt_sameButLanding (s : State) (due : Nat) (c : Change) : SameButLanding s (s.acceptAt due c) := rfl

theorem SameButLanding.accept (h : SameButLanding s t) (c : Change) : SameButLanding s (t.accept c) := h.trans (t.acceptAt_sameButLanding _ c)

theorem SameButOpening.trans (h : SameButOpening s t) (h' : SameButOpening t u) : SameButOpening s u := by
  unfold SameButOpening at *
  rw [h', h]

theorem SameButLanding.sameButOpening (h : SameButLanding s t) : SameButOpening s t := by
  unfold SameButLanding SameButOpening at *
  rw [h]

/-- The reply to an open moves the Shed and the signalled vectors besides. -/
theorem SameButOpening.mailReply_frame (h : SameButOpening s u) (tag cmd : Nat) (r : MailAnswer) :
    u.mailReply tag cmd r = { s with
      shed := (u.mailReply tag cmd r).shed, shedBad := (u.mailReply tag cmd r).shedBad, regs := (u.mailReply tag cmd r).regs,
      signalled := (u.mailReply tag cmd r).signalled, coming := (u.mailReply tag cmd r).coming, gens := (u.mailReply tag cmd r).gens,
      dasComing := (u.mailReply tag cmd r).dasComing, flowComing := (u.mailReply tag cmd r).flowComing, rings := (u.mailReply tag cmd r).rings,
      landing := (u.mailReply tag cmd r).landing } := by
  have hframe := u.mailReply_frame tag cmd r
  obtain ⟨t, ht⟩ : ∃ t, t = u.mailReply tag cmd r := ⟨_, rfl⟩
  rw [← ht] at hframe ⊢
  rw [SameButOpening] at h
  rw [hframe, h]

/-- A reply leaves the landing list and HB_LAND. -/
theorem Accepted.mailReply {c : Change} (h : Accepted c s u) (tag cmd : Nat) (r : MailAnswer) : Accepted c s (u.mailReply tag cmd r) := by
  obtain ⟨hlist, hlo, hhi⟩ := h
  have honly := u.mailReply_onlyRegs tag cmd r
  refine ⟨?_, ?_, ?_⟩
  · rw [u.mailReply_frame tag cmd r]
    exact hlist
  · rw [honly _ (by decide), hlo]
  · rw [honly _ (by decide), hhi]

theorem OnlyRegs.mailReply {fs : List Fld} (h : OnlyRegs fs s u) (tag cmd : Nat) (r : MailAnswer) :
    OnlyRegs (fs ++ replyFields) s (u.mailReply tag cmd r) :=
  (h.mono fun _ => List.mem_append_left _).trans ((u.mailReply_onlyRegs tag cmd r).mono fun _ => List.mem_append_right _)

end Opening

/-! What an accepted open sets in motion before its berth. -/

/-- The plan and receive settings of quay `n` that an accepted zone requests. -/
def requestFields (n : Nat) : List Fld :=
  [R.QY_PLAN_SEL_PLAN n, R.QY_PLAN_STATUS_STATE n, R.QY_PLAN_STATUS_ERR n, R.RX_CFG_GAUGE n, R.RX_CFG_POL n, R.RX_CFG_POLW n, R.RX_CFG_OFS_SHIFT n,
    R.RX_STATUS_PENDING n]

/-- The fields that an accepted open moves. -/
def openFields : List Fld := landFields ++ (List.range 8).flatMap requestFields

theorem openFields_key_ne : ∀ g ∈ replyPlace, ∀ f ∈ openFields, f.key ≠ g.key := by decide

theorem mem_openFields_of_land {f : Fld} (hf : f ∈ landFields) : f ∈ openFields := List.mem_append_left _ hf

theorem mem_openFields {n : Nat} (hn : n < 8) {f : Fld} (hf : f ∈ requestFields n) : f ∈ openFields :=
  List.mem_append_right _ (List.mem_flatMap.mpr ⟨n, List.mem_range.mpr hn, hf⟩)

theorem rxCfgFields_subset {n : Nat} (hn : n < 8) : ∀ f ∈ rxCfgFields n, f ∈ openFields := fun f hf =>
  mem_openFields hn (by simp [rxCfgFields] at hf; simp [requestFields]; tauto)

theorem State.requestRxCfg_eq (s : State) (n v : Nat) : s.requestRxCfg n v =
    ((s.dropWaiting (fun c => match c with | .rxCfg m _ => m == n | _ => false)).storeRxCfg n v).rxCfgWaiting n := rfl

section Before
variable {s u : State}

theorem SameButLanding.requestRxCfg (h : SameButLanding s u) (n v : Nat) : SameButLanding s (u.requestRxCfg n v) := by
  have hdrop : SameButLanding u (u.dropWaiting (fun c => match c with | .rxCfg m _ => m == n | _ => false)) := rfl
  rw [State.requestRxCfg_eq, State.rxCfgWaiting]
  exact (((h.trans hdrop).trans (State.storeRxCfg_sameButRegs ..).sameButLanding).wr _ _).accept _

theorem OnlyRegs.requestRxCfg (h : OnlyRegs openFields s u) {n : Nat} (hn : n < 8) (v : Nat) : OnlyRegs openFields s (u.requestRxCfg n v) := by
  have hdrop : OnlyRegs openFields s (u.dropWaiting (fun c => match c with | .rxCfg m _ => m == n | _ => false)) := h.of_regs rfl
  rw [State.requestRxCfg_eq, State.rxCfgWaiting]
  exact ((hdrop.trans ((State.storeRxCfg_onlyRegs _ n v).mono (rxCfgFields_subset hn))).wr
    (mem_openFields hn (by simp [requestFields])) _).accept (fun _ => mem_openFields_of_land) _

theorem bits_three_lt (v : Nat) : bits v 0 3 < 8 := Nat.mod_lt _ (by decide)

theorem State.beforeDas_frame (s : State) (g : Grant) : SameButLanding s (s.beforeDas g) ∧ OnlyRegs openFields s (s.beforeDas g) := by
  have hn : (dasParams g.params).quay < 8 := bits_three_lt _
  unfold State.beforeDas
  extract_lets p s1 others
  have hplan : SameButLanding s s1 ∧ OnlyRegs openFields s s1 := by
    unfold s1
    split
    · exact ⟨((((SameButRegs.refl s).wr _ _).wr _ _).wr _ _).sameButLanding.accept _,
        ((((OnlyRegs.refl s _).wr (mem_openFields hn (by simp [requestFields, p])) _).wr (mem_openFields hn (by simp [requestFields, p])) _).wr
          (mem_openFields hn (by simp [requestFields, p])) _).accept (fun _ => mem_openFields_of_land) _⟩
    · exact ⟨rfl, .refl s _⟩
  split
  · exact ⟨hplan.1.requestRxCfg _ _, hplan.2.requestRxCfg hn _⟩
  · exact hplan

theorem State.beforeFlow_frame (s : State) (g : Grant) : SameButLanding s (s.beforeFlow g) ∧ OnlyRegs openFields s (s.beforeFlow g) := by
  have hn : (flowParams g.params).quay < 8 := bits_three_lt _
  have hself : SameButLanding s s := rfl
  unfold State.beforeFlow
  extract_lets p
  split
  · exact ⟨hself.requestRxCfg _ _, (OnlyRegs.refl s _).requestRxCfg hn _⟩
  · exact ⟨hself, .refl s _⟩

/-- What a kind sets in motion before its berth: a DAS zone and a flow zone request the settings of their quay. -/
def State.beforeOpen (s : State) (kind : Nat) (g : Grant) : State :=
  if kind = 1 then s.beforeDas g else if kind = 2 then s.beforeFlow g else s

theorem State.beforeOpen_frame (s : State) (kind : Nat) (g : Grant) :
    SameButLanding s (s.beforeOpen kind g) ∧ OnlyRegs openFields s (s.beforeOpen kind g) := by
  unfold State.beforeOpen
  split
  · exact s.beforeDas_frame g
  · split
    · exact s.beforeFlow_frame g
    · exact ⟨rfl, .refl s _⟩

end Before

/-- The placing of rings changes the rings only. -/
theorem State.placeRings_frame (b h : Nat) : ∀ (rs : List (Nat × Nat)) (s : State),
    (s.placeRings b h rs).1 = { s with rings := (s.placeRings b h rs).1.rings }
  | [], _ => rfl
  | (a, len) :: rest, s => by
    rw [State.placeRings]
    dsimp only
    rw [State.placeRings_frame b h rest]

/-! The berth of an accepted open. -/

/-- The berth that a grant makes at index `i`, with the addresses of its rings. -/
def State.grantedBerth (s : State) (kind i : Nat) (g : Grant) (places : List Nat) : Berth :=
  { handle := makeHandle kind (s.nextGen i) i, kind := kind, state := .pending, land := tideOf (landAt s.now), cost := g.cost, params := g.params
    inputs := g.inputs.filter (· != 0), domains := g.domains, slot := g.slot, mem := g.mem, keep := places ++ g.extra }

/-- The state in which the berth of a grant is among those that come, before the change is accepted. -/
structure Granting (s : State) (kind i : Nat) (g : Grant) (u : State) : Prop where
  frame : SameButOpening s u
  onlyRegs : OnlyRegs openFields s u
  coming : ∃ places, u.coming = Tab.put {} s.coming i (s.grantedBerth kind i g places)
  gens : u.gens = Tab.put 0 s.gens i (s.nextGen i)
  quiet : kind ≠ 1 → kind ≠ 2 → u.landing = s.landing ∧ u.regs = s.regs

theorem State.grantBerth_granting (s : State) (kind i : Nat) (g : Grant) :
    ∃ u, Granting s kind i g u ∧ s.grantBerth kind i g = (u.accept (.berthOpen i), makeHandle kind (s.nextGen i) i) := by
  obtain ⟨s1, hs1⟩ : ∃ s1, s1 = s.beforeOpen kind g := ⟨_, rfl⟩
  obtain ⟨p, hp⟩ : ∃ p, p = s1.placeRings i (makeHandle kind (s.nextGen i) i) g.rings := ⟨_, rfl⟩
  obtain ⟨u, hu⟩ : ∃ u : State, u = { p.1 with
    coming := Tab.put {} p.1.coming i (s.grantedBerth kind i g p.2)
    gens := Tab.put 0 p.1.gens i (s.nextGen i)
    dasComing := if kind = 1 then Tab.put {} p.1.dasComing i (s.reserveDas g p.2)
                 else if kind = 2 then Tab.put {} p.1.dasComing i (s.reserveFlowDas g p.2) else p.1.dasComing
    flowComing := if kind = 2 then Tab.put {} p.1.flowComing i (s.reserveFlow g p.2) else p.1.flowComing } := ⟨_, rfl⟩
  have hbefore : SameButLanding s s1 ∧ OnlyRegs openFields s s1 := hs1 ▸ s.beforeOpen_frame kind g
  obtain ⟨hframe, honly⟩ := hbefore
  have hplaced : p.1 = { s1 with rings := p.1.rings } := by
    rw [hp]
    exact State.placeRings_frame ..
  rw [SameButLanding] at hframe
  have hregs : u.regs = s1.regs := by rw [hu, hplaced]
  refine ⟨u, ⟨?_, honly.of_regs hregs, ⟨p.2, ?_⟩, ?_, fun h1 h2 => ?_⟩, ?_⟩
  · rw [SameButOpening, hu, hplaced, hframe]
  · rw [hu, hplaced, hframe]
  · rw [hu, hplaced, hframe]
  · have hsame : s1 = s := by rw [hs1, State.beforeOpen, if_neg h1, if_neg h2]
    refine ⟨?_, hregs.trans (by rw [hsame])⟩
    rw [hu, hplaced, hsame]
  · rw [hu, hp, hs1]
    rfl

/-- What the grant of an open at index `i` of the state `s` leaves, and the handle it answers with. -/
structure Granted (s : State) (kind i : Nat) (g : Grant) (u : State) : Prop where
  frame : SameButOpening s u
  onlyRegs : OnlyRegs openFields s u
  coming : ∃ places, u.coming = Tab.put {} s.coming i (s.grantedBerth kind i g places)
  gens : u.gens = Tab.put 0 s.gens i (s.nextGen i)
  waits : ⟨landAt s.now, .berthOpen i⟩ ∈ u.landing
  quiet : kind ≠ 1 → kind ≠ 2 → Accepted (.berthOpen i) s u ∧ OnlyRegs landFields s u

theorem Granting.accept {s u : State} {kind i : Nat} {g : Grant} (h : Granting s kind i g u) : Granted s kind i g (u.accept (.berthOpen i)) := by
  have hnow : u.now = s.now := by rw [h.frame]
  have hsame : SameButLanding u (u.accept (.berthOpen i)) := (SameButLanding.refl u).accept _
  refine ⟨h.frame.trans hsame.sameButOpening, h.onlyRegs.accept (fun _ => mem_openFields_of_land) _, ?_, ?_, ?_, fun h1 h2 => ?_⟩
  · rw [State.accept_coming]
    exact h.coming
  · rw [State.accept_gens]
    exact h.gens
  · rw [State.accept_landing, hnow]
    exact List.mem_append_right _ (List.mem_singleton_self _)
  · obtain ⟨hlist, hregs⟩ := h.quiet h1 h2
    exact ⟨State.accepted_accept _ hlist hnow, ((OnlyRegs.refl s _).of_regs hregs).accept (fun _ hf => hf) _⟩

/-- Nothing that a granted open changes is where its reply goes. -/
theorem Granted.beforeReply {s u : State} {kind i : Nat} {g : Grant} (h : Granted s kind i g u) : BeforeReply s u :=
  ⟨fun f hf => h.onlyRegs f (openFields_key_ne f hf), by rw [h.frame], by rw [h.frame]⟩

/-- The state in which a kind judges: the rings as they will be at the landing (R140). -/
def State.judging (s : State) (i : Nat) : State := { s with rings := s.ringsLater i }

theorem State.grantedBerth_judging (s : State) (j kind i : Nat) (g : Grant) (places : List Nat) :
    (s.judging j).grantedBerth kind i g places = s.grantedBerth kind i g places := rfl

/-- The rings released at the landing are not seen in what the grant leaves besides. -/
theorem Granted.of_judging {s u : State} {j kind i : Nat} {g : Grant} (h : Granted (s.judging j) kind i g u) : Granted s kind i g u := by
  obtain ⟨hframe, honly, hcoming, hgens, hwaits, hquiet⟩ := h
  have hrings : SameButOpening s (s.judging j) := rfl
  have hregs : ∀ fs, OnlyRegs fs s (s.judging j) := fun fs => (OnlyRegs.refl s fs).of_regs rfl
  simp only [State.grantedBerth_judging] at hcoming
  exact ⟨hrings.trans hframe, (hregs _).trans honly, hcoming, hgens, hwaits, fun h1 h2 => ⟨(hquiet h1 h2).1, (hregs _).trans (hquiet h1 h2).2⟩⟩

/-! berth.open, judged (R36, R393). -/

/-- The block of a berth.open, cut to the words of its kind. -/
def openBlock (args : List Nat) : List Nat := args.tail.take (blockLen (args.getD 0 0) (blockExpert (args.getD 0 0) args.tail))

/-- A berth.open that reaches the verdict of its kind, for the free index `i`. -/
structure ReachesKind (s : State) (args : List Nat) (i : Nat) : Prop where
  kind_pos : 1 ≤ args.getD 0 0
  kind_le : args.getD 0 0 ≤ 8
  version : ¬(blockExpert (args.getD 0 0) args.tail = true ∧ s.mailboxVer = 1)
  whole : blockLen (args.getD 0 0) (blockExpert (args.getD 0 0) args.tail) ≤ args.tail.length
  manifest : ¬(s.rd R.HB_MF_STATUS_STATE = 1 ∨ s.rd R.HB_MF_STATUS_STATE = 2)
  index : s.freeIndex = some i

/-- What berth.open leaves and answers on the verdict of its kind. -/
def State.onVerdict (s : State) (kind i : Nat) : Verdict → State × MailAnswer
  | .refuse st ws => (s, { status := st, words := ws })
  | .grant g =>
    (((s.judging i).grantBerth kind i g).1,
      { status := stOk, land := tideOf (landAt s.now), words := [((s.judging i).grantBerth kind i g).2] })

section Judged
variable {s : State} {args : List Nat} {i : Nat} (h : ReachesKind s args i)
include h

theorem State.openBerth_eq :
    s.openBerth args = s.onVerdict (args.getD 0 0) i ((s.judging i).judgeKind (args.getD 0 0) (openBlock args)) := by
  unfold State.openBerth
  dsimp only
  rw [List.drop_one, if_neg (by have := h.kind_pos; have := h.kind_le; omega), if_neg h.version, if_neg (by have := h.whole; omega),
    if_neg h.manifest, h.index]
  rfl

theorem State.openBerth_refused {st : Nat} {ws : List Nat} (hv : (s.judging i).judgeKind (args.getD 0 0) (openBlock args) = .refuse st ws) :
    s.openBerth args = (s, { status := st, words := ws }) := by
  rw [State.openBerth_eq h, hv, State.onVerdict]

theorem State.openBerth_granted {g : Grant} (hv : (s.judging i).judgeKind (args.getD 0 0) (openBlock args) = .grant g) :
    ∃ u, Granted s (args.getD 0 0) i g u ∧
      s.openBerth args = (u, { status := stOk, land := tideOf (landAt s.now), words := [makeHandle (args.getD 0 0) (s.nextGen i) i] }) := by
  obtain ⟨u, hu, hgrant⟩ := (s.judging i).grantBerth_granting (args.getD 0 0) i g
  refine ⟨_, hu.accept.of_judging, ?_⟩
  rw [State.openBerth_eq h, hv, State.onVerdict, hgrant]
  rfl

end Judged

section Answered
variable {s : State} {tag : Nat} {args : List Nat} {i : Nat} (hver : s.mailboxVer ≠ 0) (hlen : 1 ≤ args.length)
include hver hlen

theorem exec_berthOpen (hoff : s.mailOffers 0x10 tag args) :
    exec .berthOpen s = .next ((s.openBerth args).1.mailReply tag 0x10 (s.openBerth args).2) := by
  show execBerthOpen s = _
  rw [execBerthOpen, State.live_runs hoff.1, State.mailTake_of_offers hoff hlen (.inr hver)]
  rfl

theorem exec_berthClose (hoff : s.mailOffers 0x11 tag args) :
    exec .berthClose s = .next ((s.closeBerth args).1.mailReply tag 0x11 (s.closeBerth args).2) := by
  show execBerthClose s = _
  rw [execBerthClose, State.live_runs hoff.1, State.mailTake_of_offers hoff hlen (.inr hver)]
  rfl

theorem berthOpen_refused (hoff : s.mailOffers 0x10 tag args) (h : ReachesKind s args i) {st : Nat} {ws : List Nat}
    (hv : (s.judging i).judgeKind (args.getD 0 0) (openBlock args) = .refuse st ws) :
    ∃ t, exec .berthOpen s = .next t ∧ Replied tag 0x10 st 0 (ws.take 124) s t ∧ OnlyRegs replyFields s t ∧
      t = { s with shed := t.shed, shedBad := t.shedBad, regs := t.regs, signalled := t.signalled } := by
  have hexec := exec_berthOpen hver hlen hoff
  rw [State.openBerth_refused h hv] at hexec
  exact ⟨_, hexec, State.mailReply_replied .., State.mailReply_onlyRegs _ _ _ _, State.mailReply_frame _ _ _ _⟩

theorem berthOpen_granted (hoff : s.mailOffers 0x10 tag args) (h : ReachesKind s args i) {g : Grant}
    (hv : (s.judging i).judgeKind (args.getD 0 0) (openBlock args) = .grant g) :
    ∃ t, exec .berthOpen s = .next t ∧
      Replied tag 0x10 stOk (tideOf (landAt s.now)) [makeHandle (args.getD 0 0) (s.nextGen i) i] s t ∧
      (Tab.get {} t.coming i).handle = makeHandle (args.getD 0 0) (s.nextGen i) i ∧ (Tab.get {} t.coming i).state = .pending ∧
      (Tab.get {} t.coming i).kind = args.getD 0 0 ∧ (Tab.get {} t.coming i).cost = g.cost ∧
      (Tab.get {} t.coming i).params = g.params ∧ (Tab.get {} t.coming i).land = tideOf (landAt s.now) ∧
      (∀ k, k ≠ i → Tab.get {} t.coming k = Tab.get {} s.coming k) ∧ Tab.get 0 t.gens i = s.nextGen i ∧
      ⟨landAt s.now, .berthOpen i⟩ ∈ t.landing ∧ t.berths = s.berths ∧
      (args.getD 0 0 ≠ 1 → args.getD 0 0 ≠ 2 → Accepted (.berthOpen i) s t ∧ OnlyRegs (landFields ++ replyFields) s t) ∧
      OnlyRegs (landFields ++ replyFields ++ (List.range 8).flatMap requestFields) s t ∧
      SameMemories { s with shed := t.shed, shedBad := t.shedBad } t ∧
      t = { s with
        shed := t.shed, shedBad := t.shedBad, regs := t.regs, signalled := t.signalled, coming := t.coming,
        gens := t.gens, dasComing := t.dasComing, flowComing := t.flowComing, rings := t.rings, landing := t.landing } := by
  obtain ⟨u, hu, hopen⟩ := State.openBerth_granted h hv
  have hexec := exec_berthOpen hver hlen hoff
  rw [hopen] at hexec
  obtain ⟨r, hr⟩ : ∃ r : MailAnswer, r = { status := stOk, land := tideOf (landAt s.now), words := [makeHandle (args.getD 0 0) (s.nextGen i) i] } :=
    ⟨_, rfl⟩
  rw [← hr] at hexec
  dsimp only at hexec
  have hreplied := hu.beforeReply.replied (u.mailReply_replied_of_le tag 0x10 r (by simp [hr]))
  have hframe := hu.frame.mailReply_frame tag 0x10 r
  have hreply := u.mailReply_frame tag 0x10 r
  have honly := hu.onlyRegs.mailReply tag 0x10 r
  have hquiet := fun h1 h2 => (hu.quiet h1 h2).imp (·.mailReply tag 0x10 r) (fun ho => OnlyRegs.mailReply ho tag 0x10 r)
  obtain ⟨places, hcoming⟩ := hu.coming
  obtain ⟨t, ht⟩ : ∃ t, t = u.mailReply tag 0x10 r := ⟨_, rfl⟩
  rw [← ht] at hexec hreplied hframe hreply honly hquiet
  have htc : t.coming = Tab.put {} s.coming i (s.grantedBerth (args.getD 0 0) i g places) := by rw [hreply, ← hcoming]
  have hget : Tab.get {} t.coming i = s.grantedBerth (args.getD 0 0) i g places := by rw [htc, Tab.get_put_same]
  refine ⟨t, hexec, ?_⟩
  rw [hr] at hreplied
  rw [hget]
  refine ⟨hreplied, rfl, rfl, rfl, rfl, rfl, rfl, fun k hk => ?_, ?_, ?_, ?_, hquiet, honly.mono fun f hf => ?_, ?_, hframe⟩
  · rw [htc, Tab.get_put_other _ _ _ _ (Ne.symm hk)]
  · rw [hreply, hu.gens, Tab.get_put_same]
  · rw [hreply]
    exact hu.waits
  · rw [hframe]
  · simp only [openFields, List.mem_append] at hf ⊢
    tauto
  · rw [SameMemories, hframe]
    exact ⟨rfl, rfl, rfl, rfl, rfl⟩

end Answered

/-! berth.close (R39, R393). -/

/-- Nothing but register fields, the landing list and the berths differs. -/
def SameButClosing (s t : State) : Prop := t = { s with regs := t.regs, landing := t.landing, berths := t.berths }

theorem SameButClosing.mailReply_frame {s u : State} (h : SameButClosing s u) (tag cmd : Nat) (r : MailAnswer) :
    u.mailReply tag cmd r = { s with
      shed := (u.mailReply tag cmd r).shed, shedBad := (u.mailReply tag cmd r).shedBad, regs := (u.mailReply tag cmd r).regs,
      signalled := (u.mailReply tag cmd r).signalled, berths := (u.mailReply tag cmd r).berths, landing := (u.mailReply tag cmd r).landing } := by
  have hframe := u.mailReply_frame tag cmd r
  obtain ⟨t, ht⟩ : ∃ t, t = u.mailReply tag cmd r := ⟨_, rfl⟩
  rw [← ht] at hframe ⊢
  rw [SameButClosing] at h
  rw [hframe, h]

/-- The state in which the close of the berth at index `i` waits to land. -/
def State.closingBerth (s : State) (i : Nat) : State :=
  (s.setBerth i { s.berth i with state := .closing, closeLand := tideOf (landAt s.now) }).accept (.berthClose i)

section Closing
variable (s : State) (i : Nat)

theorem State.closingBerth_frame : SameButClosing s (s.closingBerth i) := by
  have hset : SameButClosing s (s.setBerth i { s.berth i with state := .closing, closeLand := tideOf (landAt s.now) }) := rfl
  have hsame : SameButLanding _ (s.closingBerth i) := (SameButLanding.refl _).accept _
  unfold SameButClosing SameButLanding at *
  rw [hsame, hset]

theorem State.closingBerth_onlyRegs : OnlyRegs landFields s (s.closingBerth i) := by
  have hset : OnlyRegs landFields s (s.setBerth i { s.berth i with state := .closing, closeLand := tideOf (landAt s.now) }) :=
    (OnlyRegs.refl s _).of_regs rfl
  exact hset.accept (fun _ hf => hf) _

theorem State.closingBerth_accepted : Accepted (.berthClose i) s (s.closingBerth i) := State.accepted_accept _ rfl rfl

theorem State.closingBerth_berths :
    (s.closingBerth i).berths = Tab.put {} s.berths i { s.berth i with state := .closing, closeLand := tideOf (landAt s.now) } := by
  rw [State.closingBerth, State.accept_berths]
  rfl

theorem State.closingBerth_beforeReply : BeforeReply s (s.closingBerth i) :=
  ⟨fun f hf => s.closingBerth_onlyRegs i f fun g hg => openFields_key_ne f hf g (mem_openFields_of_land hg), by rw [s.closingBerth_frame i],
    by rw [s.closingBerth_frame i]⟩

/-- The closing berth with its reply. -/
theorem State.closingBerth_answered (tag : Nat) : ∀ t, t = (s.closingBerth i).mailReply tag 0x11 { status := stOk, land := tideOf (landAt s.now) } →
    Replied tag 0x11 stOk (tideOf (landAt s.now)) [] s t ∧
      t.berth i = { s.berth i with state := .closing, closeLand := tideOf (landAt s.now) } ∧ (∀ k, k ≠ i → t.berth k = s.berth k) ∧
      Accepted (.berthClose i) s t ∧ OnlyRegs (landFields ++ replyFields) s t ∧
      t = { s with
        shed := t.shed, shedBad := t.shedBad, regs := t.regs, signalled := t.signalled, berths := t.berths, landing := t.landing } := by
  rintro t ht
  have hreplied := (s.closingBerth_beforeReply i).replied ((s.closingBerth i).mailReply_replied_of_le tag 0x11
    { status := stOk, land := tideOf (landAt s.now) } (Nat.zero_le _))
  have hframe := (s.closingBerth_frame i).mailReply_frame tag 0x11 { status := stOk, land := tideOf (landAt s.now) }
  have hberths : t.berths = Tab.put {} s.berths i { s.berth i with state := .closing, closeLand := tideOf (landAt s.now) } := by
    rw [← s.closingBerth_berths, ht, State.mailReply_frame]
  rw [← ht] at hreplied hframe
  refine ⟨hreplied, ?_, fun k hk => ?_, ht ▸ (s.closingBerth_accepted i).mailReply .., ht ▸ (s.closingBerth_onlyRegs i).mailReply _ _ _, hframe⟩
  · rw [State.berth, hberths, Tab.get_put_same]
  · rw [State.berth, hberths, Tab.get_put_other _ _ _ _ (Ne.symm hk)]
    rfl

end Closing

section Judgement
variable {s : State} {args : List Nat}

/-- The status of a berth.close that is refused. -/
theorem State.closeBerth_refused {st : Nat} (h : (s.judgeHandle (args.getD 0 0) = .stale ∧ st = stStale) ∨
      (s.judgeHandle (args.getD 0 0) = .never ∧ st = stRange) ∨ (s.judgeHandle (args.getD 0 0) = .pending ∧ st = stBusy) ∨
      (s.judgeHandle (args.getD 0 0) = .closing ∧ st = stBusy) ∨
      (s.judgeHandle (args.getD 0 0) = .open ∧ (∃ e ∈ s.willBe, args.getD 0 0 ∈ e.2.inputs) ∧ st = stBusy)) :
    s.closeBerth args = (s, { status := st }) := by
  unfold State.closeBerth
  dsimp only
  rcases h with ⟨h, rfl⟩ | ⟨h, rfl⟩ | ⟨h, rfl⟩ | ⟨h, rfl⟩ | ⟨h, hinput, rfl⟩ <;> rw [h]
  exact if_pos (List.any_eq_true.mpr (by simpa using hinput))

theorem State.closeBerth_accepted (h : s.judgeHandle (args.getD 0 0) = .open) (hinput : ∀ e ∈ s.willBe, args.getD 0 0 ∉ e.2.inputs) :
    s.closeBerth args = (s.closingBerth (bits (args.getD 0 0) 0 12), { status := stOk, land := tideOf (landAt s.now) }) := by
  have hnone : ¬(s.willBe.any (fun e => e.2.inputs.contains (args.getD 0 0)) = true) := by simpa [List.any_eq_true] using hinput
  unfold State.closeBerth
  dsimp only
  rw [h]
  exact if_neg hnone

end Judgement

/-- Settles O16: an open reaches the verdict of its kind, and a close the judgement of its handle; each is then answered by one reply. -/
theorem berthOpenAndCloseAreAccepted : Obligations.BerthOpenAndCloseAreAccepted := by
  intro tag args s hver hlen
  refine ⟨fun i hoff hpos hle hversion hwhole hmf1 hmf2 hidx => ?_, fun hoff => ⟨fun st hst => ?_, fun hopen hinput => ?_⟩⟩
  case refine_1 =>
    have hreach : ReachesKind s args i := ⟨hpos, hle, hversion, hwhole, not_or.mpr ⟨hmf1, hmf2⟩, hidx⟩
    cases hv : (s.judging i).judgeKind (args.getD 0 0) (openBlock args) with
    | refuse st ws =>
      obtain ⟨t, hexec, ht⟩ := berthOpen_refused hver hlen hoff hreach hv
      refine ⟨t, hexec, ?_⟩
      rw [State.judging, openBlock] at hv
      rw [hv]
      exact ht
    | grant g =>
      obtain ⟨t, hexec, ht⟩ := berthOpen_granted hver hlen hoff hreach hv
      refine ⟨t, hexec, ?_⟩
      rw [State.judging, openBlock] at hv
      rw [hv]
      exact ht
  case refine_2 =>
    have hexec := exec_berthClose hver hlen hoff
    rw [State.closeBerth_refused hst] at hexec
    exact ⟨_, hexec, State.mailReply_replied_of_le _ _ _ _ (Nat.zero_le _), State.mailReply_onlyRegs _ _ _ _, State.mailReply_frame _ _ _ _⟩
  case refine_3 =>
    have hexec := exec_berthClose hver hlen hoff
    rw [State.closeBerth_accepted hopen hinput] at hexec
    exact ⟨_, hexec, s.closingBerth_answered (bits (args.getD 0 0) 0 12) tag _ rfl⟩

end Sys2Proof.Machine
end

section
/-! SUPPORT. Accesses where no register answers (R31, R32): statements O2 and O3. -/

namespace Sys2Proof.Machine

/-! One bit of a number, and of a register field. -/

theorem bit_eq_testBit (n i : Nat) : bit n i = n.testBit i := by
  rw [bit, Nat.testBit_eq_decide_div_mod_eq]
  rfl

/-- Without its bit `i` a number is its part above it and its part below it. -/
theorem withBit_split (n i : Nat) (b : Bool) : withBit n i b = 2 ^ i * (2 * (n / 2 ^ i / 2) + flag b) + n % 2 ^ i := by
  have h1 := Nat.div_add_mod n (2 ^ i)
  have h2 := Nat.div_add_mod (n / 2 ^ i) 2
  have h3 : 2 ^ i * (n / 2 ^ i) = 2 ^ i * (2 * (n / 2 ^ i / 2)) + 2 ^ i * (n / 2 ^ i % 2) := by rw [← Nat.mul_add, h2]
  rw [withBit, Nat.mul_add, Nat.mul_comm (n / 2 ^ i % 2), Nat.mul_comm (flag b)]
  omega

theorem bit_withBit_same (n i : Nat) (b : Bool) : bit (withBit n i b) i = b := by
  have hlt : n % 2 ^ i < 2 ^ i := Nat.mod_lt _ (Nat.two_pow_pos i)
  rw [bit, withBit_split, Nat.mul_add_div (Nat.two_pow_pos i), Nat.div_eq_of_lt hlt]
  cases b <;> simp [flag, Nat.add_mod]

theorem bit_withBit_other (n : Nat) {i k : Nat} (b : Bool) (h : k ≠ i) : bit (withBit n i b) k = bit n k := by
  have hn : n = 2 ^ i * (n / 2 ^ i) + n % 2 ^ i := (Nat.div_add_mod ..).symm
  have hlt : n % 2 ^ i < 2 ^ i := Nat.mod_lt _ (Nat.two_pow_pos i)
  rw [bit_eq_testBit, bit_eq_testBit, withBit_split]
  conv_rhs => rw [hn]
  rw [Nat.testBit_two_pow_mul_add _ hlt, Nat.testBit_two_pow_mul_add _ hlt]
  rcases Nat.lt_or_gt_of_ne h with hk | hk
  · rw [if_pos hk, if_pos hk]
  · obtain ⟨j, hj⟩ : ∃ j, k - i = j + 1 := ⟨k - i - 1, by omega⟩
    have hflag : flag b < 2 := by cases b <;> decide
    rw [if_neg (by omega), if_neg (by omega), hj, Nat.testBit_succ, Nat.testBit_succ]
    congr 1
    omega

theorem bit_low {w i : Nat} (n : Nat) (h : i < w) : bit (low w n) i = bit n i := by
  rw [bit_eq_testBit, bit_eq_testBit, low, Nat.testBit_mod_two_pow]
  simp [h]

section Bits
variable (s : State) {f : Fld} {i k : Nat} (b : Bool)

theorem State.bit_wrBit_same (h : i < f.width) : bit ((s.wrBit f i b).rd f) i = b := by
  rw [State.wrBit, State.rd_wr_same, bit_low _ h, bit_withBit_same]

theorem State.bit_wrBit_other (h : k < f.width) (hne : k ≠ i) : bit ((s.wrBit f i b).rd f) k = bit (s.rd f) k := by
  rw [State.wrBit, State.rd_wr_same, bit_low _ h, bit_withBit_other _ _ hne]

end Bits

theorem OnlyRegs.wrBit {fs : List Fld} {s t : State} (h : OnlyRegs fs s t) {f : Fld} (hf : f ∈ fs) (i : Nat) (b : Bool) :
    OnlyRegs fs s (t.wrBit f i b) := h.wr hf _

theorem OnlyRegs.answer {fs : List Fld} {s t : State} (h : OnlyRegs fs s t) (st : BusStatus) (l : List Nat) : OnlyRegs fs s (t.answer st l) :=
  h.of_regs rfl

@[simp] theorem State.rd_answer (s : State) (st : BusStatus) (l : List Nat) (f : Fld) : (s.answer st l).rd f = s.rd f := State.rd_congr rfl f

theorem State.rd_wr_of_lt (s : State) {f : Fld} {v : Nat} (h : v < 2 ^ f.width) : (s.wr f v).rd f = v := (s.rd_wr_same f v).trans (low_of_lt h)

/-! An address that no register occupies (R32). -/

/-- The state in which an access to an unmapped address is noted: the first address since UNMAPPED was 0 stands. -/
def State.noteUnmapped (s : State) (addr : Nat) : State :=
  (if s.on R.HB_ERR_STATUS_UNMAPPED then s else s.wr R.HB_UNMAPPED_ADDR_ADDR addr).wr R.HB_ERR_STATUS_UNMAPPED 1

section Unmapped
variable (s : State) (addr : Nat)

theorem State.rd_noteUnmapped : (s.noteUnmapped addr).rd R.HB_ERR_STATUS_UNMAPPED = 1 := State.rd_wr_same ..

theorem State.rd_noteUnmapped_addr (h : addr < 2 ^ 27) : (s.noteUnmapped addr).rd R.HB_UNMAPPED_ADDR_ADDR =
    if s.rd R.HB_ERR_STATUS_UNMAPPED = 1 then s.rd R.HB_UNMAPPED_ADDR_ADDR else addr := by
  have hlatch : (s.wr R.HB_UNMAPPED_ADDR_ADDR addr).rd R.HB_UNMAPPED_ADDR_ADDR = addr := s.rd_wr_of_lt h
  rw [State.noteUnmapped, State.rd_wr_other _ _ (by decide), State.rd_ite, hlatch]
  simp only [State.on, beq_iff_eq]

theorem State.noteUnmapped_onlyRegs : OnlyRegs [R.HB_ERR_STATUS_UNMAPPED, R.HB_UNMAPPED_ADDR_ADDR] s (s.noteUnmapped addr) :=
  (OnlyRegs.ite (.refl s _) ((OnlyRegs.refl s _).wr (by simp) _)).wr (by simp) _

theorem State.noteUnmapped_sameButRegs : SameButRegs s (s.noteUnmapped addr) := (SameButRegs.ite (.refl s) ((SameButRegs.refl s).wr _ _)).wr _ _

end Unmapped

/-- What differs in register fields only, and is then answered. -/
theorem SameButRegs.answer {s u : State} (h : SameButRegs s u) (st : BusStatus) (l : List Nat) :
    u.answer st l = { s with regs := (u.answer st l).regs, completion := (u.answer st l).completion } := by
  rw [SameButRegs] at h
  rw [h]
  rfl

theorem exec_unmappedAccess (write : Bool) {addr : Nat} {s : State} (hs : s.runs) (hlt : addr < 0x4000000) (hrow : regRow? addr = none) :
    exec (.unmappedAccess write addr) s = .next ((s.noteUnmapped addr).answer .ok (if write then [] else [0])) := by
  show execUnmappedAccess write addr s = _
  rw [execUnmappedAccess, State.live_runs hs, if_neg (by simp [hrow, hlt])]
  rfl

/-- A host's write where no register is, at an aligned address. -/
theorem exec_registerWrite_unmapped {addr : Nat} {s : State} (hs : s.runs) (hal : addr % 4 = 0) (hrow : regRow? addr = none) (v hw : Word) :
    exec (.registerWrite .host addr v hw) s = exec (.unmappedAccess true addr) s := by
  show execRegisterWrite .host addr v hw s = execUnmappedAccess true addr s
  unfold execRegisterWrite
  rw [State.live_runs hs, if_neg (not_not.mpr hal)]
  simp only [hrow]
  exact if_neg (by decide)

/-- Settles O2: the access is noted, which keeps an address noted before, and answered; a host's write there is the same access. -/
theorem unmappedAccessLatchesFirstAddress : Obligations.UnmappedAccessLatchesFirstAddress := by
  intro write addr s hs hlt hrow
  have haddr := s.rd_noteUnmapped_addr addr (by omega)
  refine ⟨⟨_, exec_unmappedAccess write hs hlt hrow, rfl, ?_, fun h => ?_, fun h => ?_, (s.noteUnmapped_onlyRegs addr).answer _ _,
    (s.noteUnmapped_sameButRegs addr).answer _ _⟩, fun v hw hal => exec_registerWrite_unmapped hs hal hrow v hw⟩
  · rw [State.rd_answer, State.rd_noteUnmapped]
  · rw [State.rd_answer, haddr, if_neg (by omega)]
  · rw [State.rd_answer, haddr, if_pos h]

/-! A register of a domain that is off (R31). -/

theorem domainOf_lt (addr : Nat) : domainOf addr < 26 := by
  unfold domainOf
  split_ifs <;> omega

section Lock
variable (s : State) (addr : Nat)

theorem State.lockAnswer_sameButRegs (d : Nat) : SameButRegs s (s.lockAnswer d) := rfl

theorem State.lockAnswer_onlyRegs (d : Nat) : OnlyRegs [R.RS_LOCK_ERR_ERR] s (s.lockAnswer d) := (OnlyRegs.refl s _).wrBit (by simp) _ _

theorem State.bit_lockAnswer_same : bit ((s.lockAnswer (domainOf addr)).rd R.RS_LOCK_ERR_ERR) (domainOf addr) = true :=
  s.bit_wrBit_same true (domainOf_lt addr)

theorem State.bit_lockAnswer_other {d k : Nat} (hk : k < 26) (h : k ≠ d) :
    bit ((s.lockAnswer d).rd R.RS_LOCK_ERR_ERR) k = bit (s.rd R.RS_LOCK_ERR_ERR) k :=
  s.bit_wrBit_other true hk h

end Lock

section Off
variable {addr : Nat} {s : State} (hs : s.runs) (hoff : s.powered (domainOf addr) = false)
include hs hoff

theorem exec_domainOffRead : exec (.domainOffRead addr) s = .next ((s.lockAnswer (domainOf addr)).answer .ok [0]) := by
  show execDomainOffRead addr s = _
  rw [execDomainOffRead, State.live_runs hs, if_neg (by simp [hoff])]
  rfl

omit hs in
theorem State.hostRead_of_off (r : RegRow) (hw : Nat) : s.hostRead r addr hw = (s.lockAnswer (domainOf addr)).answer .ok [0] :=
  if_neg (by simp [hoff])

theorem exec_readClear_of_off (hrow : (regRow? addr).isSome) (hw : Word) : exec (.readClear addr hw) s = exec (.domainOffRead addr) s := by
  obtain ⟨r, hr⟩ := Option.isSome_iff_exists.mp hrow
  rw [exec_domainOffRead hs hoff]
  show execReadClear addr hw s = _
  rw [execReadClear_of_row hs hr, State.hostRead_of_off hoff]

theorem exec_lowWordRead_of_off (hrow : (regRow? addr).isSome) (hpair : (pairRow? addr).isSome) :
    exec (.lowWordRead addr) s = exec (.domainOffRead addr) s := by
  obtain ⟨r, hr⟩ := Option.isSome_iff_exists.mp hrow
  obtain ⟨p, hp⟩ := Option.isSome_iff_exists.mp hpair
  rw [exec_domainOffRead hs hoff]
  show execLowWordRead addr s = _
  unfold execLowWordRead
  simp only [State.live_runs hs, hp, hr]
  rw [State.hostRead_of_off hoff]
  rfl

/-- A write to the register is discarded; a host's one is answered by the Lock. -/
theorem exec_registerWrite_of_off (who : Requester) (hal : addr % 4 = 0) (hrow : (regRow? addr).isSome) (v hw : Word) :
    exec (.registerWrite who addr v hw) s = .next (if who = .host then (s.lockAnswer (domainOf addr)).answer .ok [] else s) := by
  obtain ⟨r, hr⟩ := Option.isSome_iff_exists.mp hrow
  show execRegisterWrite who addr v hw s = _
  unfold execRegisterWrite
  rw [State.live_runs hs, if_neg (not_not.mpr hal)]
  simp only [hr, hoff, Bool.not_false, if_true]
  rfl

end Off

/-- Settles O3: every access is answered by the Lock of the domain, and a Tug's write is discarded. -/
theorem offDomainAccessSetsLockError : Obligations.OffDomainAccessSetsLockError := by
  intro addr value hw s hs hoff
  refine ⟨⟨_, exec_domainOffRead hs hoff, rfl, ?_, fun d hd hne => ?_, (s.lockAnswer_onlyRegs _).answer _ _,
    (s.lockAnswer_sameButRegs _).answer _ _⟩,
    fun hrow => ⟨exec_readClear_of_off hs hoff hrow hw, exec_lowWordRead_of_off hs hoff hrow⟩,
    fun hal hrow => ⟨⟨_, exec_registerWrite_of_off hs hoff .host hal hrow value hw, rfl, ?_, (s.lockAnswer_onlyRegs _).answer _ _,
      (s.lockAnswer_sameButRegs _).answer _ _⟩, exec_registerWrite_of_off hs hoff .tug hal hrow value hw⟩⟩
  · rw [State.rd_answer, State.bit_lockAnswer_same]
  · rw [State.rd_answer, State.bit_lockAnswer_other _ hd hne]
  · exact (congrArg (bit · _) (State.rd_answer ..)).trans (s.bit_lockAnswer_same addr)

end Sys2Proof.Machine
end

section
/-! SUPPORT. The Shed window (R33, R340, R341): statements O7 and O8. -/

namespace Sys2Proof.Machine

/-! The parity record of a read (R341). -/

theorem State.parityCheck_onlyRegs (s : State) (w : Nat) : OnlyRegs parityFields s (s.parityCheck w) := by
  unfold State.parityCheck
  split
  · exact ((OnlyRegs.ite (.refl s _) ((OnlyRegs.refl s _).wr (by simp [parityFields]) _)).wr (by simp [parityFields]) _).wr (by simp [parityFields]) _
  · exact .refl s _

theorem State.parityCheck_sameButRegs (s : State) (w : Nat) : SameButRegs s (s.parityCheck w) := by
  unfold State.parityCheck
  split
  · exact ((SameButRegs.ite (.refl s) ((SameButRegs.refl s).wr _ _)).wr _ _).wr _ _
  · exact .refl s

theorem onlyRegs_foldl {β : Type} {fs : List Fld} {step : State → β → State} (hstep : ∀ t x, OnlyRegs fs t (step t x)) :
    ∀ (l : List β) (s : State), OnlyRegs fs s (l.foldl step s)
  | [], s => .refl s _
  | x :: l, s => (hstep s x).trans (onlyRegs_foldl hstep l (step s x))

theorem State.parityScan_onlyRegs (s : State) (a n : Nat) : OnlyRegs parityFields s (s.parityScan a n) :=
  onlyRegs_foldl State.parityCheck_onlyRegs _ s

theorem State.parityScan_sameButRegs (s : State) (a n : Nat) : SameButRegs s (s.parityScan a n) :=
  sameButRegs_foldl State.parityCheck_sameButRegs _ s

/-! A read through the window. -/

/-- The bytes of a range are those at its places, one after the other. -/
theorem Tab.getList_eq_map {α : Type} (d : α) (t : Tab α) : ∀ a n : Nat, Tab.getList d t a n = (List.range n).map (fun i => Tab.get d t (a + i))
  | _, 0 => rfl
  | a, n + 1 => by
    rw [Tab.getList, Tab.getList_eq_map d t (a + 1) n, List.range_succ_eq_map, List.map_cons, List.map_map]
    simp [Function.comp_def, Nat.add_assoc, Nat.add_comm 1]

theorem State.shedBytes_eq_map (s : State) (a n : Nat) : s.shedBytes a n = (List.range n).map (fun i => s.shedByte (a + i)) :=
  Tab.getList_eq_map ..

section Read
variable {off len : Nat} {s : State} (hs : s.runs) (hroom : off + len ≤ shedSize)
include hs hroom

theorem exec_shedWindowRead_of_crossing (h : crosses4K off len = true) : exec (.shedWindowRead off len) s = .next (s.answer .malformed []) := by
  show execShedWindowRead off len s = _
  rw [execShedWindowRead, State.live_runs hs, if_neg (Nat.not_lt.mpr hroom), if_pos h]
  rfl

theorem exec_shedWindowRead_of_sound (h : crosses4K off len = false) (hsound : s.shedFails off len = false) :
    exec (.shedWindowRead off len) s = .next (s.answer .ok ((s.shedBytes off len).map BitVec.toNat)) := by
  show execShedWindowRead off len s = _
  rw [execShedWindowRead, State.live_runs hs, if_neg (Nat.not_lt.mpr hroom), if_neg (by simp [h]), if_neg (by simp [hsound])]
  rfl

theorem exec_shedWindowRead_of_failing (h : crosses4K off len = false) (hfails : s.shedFails off len = true) :
    exec (.shedWindowRead off len) s = .next (((s.parityScan off len).wr R.HB_ERR_STATUS_SHED_POISON 1).answer .poisoned []) := by
  show execShedWindowRead off len s = _
  rw [execShedWindowRead, State.live_runs hs, if_neg (Nat.not_lt.mpr hroom), if_neg (by simp [h]), if_pos hfails]
  rfl

end Read

/-- Settles O7: the request is malformed, or sound and answered with its bytes, or poisoned, and then only the parity record moves. -/
theorem shedWindowReadReturnsBytes : Obligations.ShedWindowReadReturnsBytes := by
  intro off len s hs hroom
  refine ⟨exec_shedWindowRead_of_crossing hs hroom, fun h hsound => ?_, fun h hfails => ?_⟩
  · rw [exec_shedWindowRead_of_sound hs hroom h hsound, State.shedBytes_eq_map, List.map_map]
    rfl
  · have hscan : OnlyRegs (R.HB_ERR_STATUS_SHED_POISON :: parityFields) s (s.parityScan off len) :=
      (s.parityScan_onlyRegs off len).mono fun _ hf => List.mem_cons_of_mem _ hf
    exact ⟨_, exec_shedWindowRead_of_failing hs hroom h hfails, rfl, (State.rd_answer ..).trans (State.rd_wr_same ..),
      (hscan.wr List.mem_cons_self _).answer _ _, ((s.parityScan_sameButRegs off len).wr _ _).answer _ _⟩

/-! A write through the window. -/

/-- A pass over words gives fresh parity to those that the write covers whole. -/
theorem State.shedBad_foldl_shedWritePart (a : Nat) (bs : List Byte) (k : Nat) [Decidable (coversWord a bs.length k)] :
    ∀ (ws : List Nat) (s : State), Tab.get false (ws.foldl (fun (t : State) w => t.shedWritePart a bs w) s).shedBad k =
      if k ∈ ws ∧ coversWord a bs.length k then false else Tab.get false s.shedBad k
  | [], s => by simp
  | w :: ws, s => by
    have hw : Decidable (coversWord a bs.length w) := Classical.dec _
    rw [List.foldl_cons, State.shedBad_foldl_shedWritePart a bs k ws, State.shedBad_shedWritePart]
    by_cases hk : w = k
    · subst hk
      by_cases hc : coversWord a bs.length w <;> simp [hc]
    · simp [hk, Ne.symm hk]

theorem mem_wordsOf_of_coversWord {a n w : Nat} (h : coversWord a n w) : w ∈ wordsOf a n := by
  obtain ⟨hlo, hhi⟩ := h
  have hmem := mem_wordsOf (a := a) (n := n) (j := 4 * w) ⟨hlo, by omega⟩
  rwa [Nat.mul_div_cancel_left w (by decide)] at hmem

/-- R340: the parity of a word after a write. -/
theorem State.shedBad_shedWrite (s : State) (a : Nat) (bs : List Byte) (w : Nat) [Decidable (coversWord a bs.length w)] :
    Tab.get false (s.shedWrite a bs).shedBad w = if coversWord a bs.length w then false else Tab.get false s.shedBad w := by
  rw [State.shedWrite, State.shedBad_foldl_shedWritePart]
  exact if_congr ⟨And.right, fun h => ⟨mem_wordsOf_of_coversWord h, h⟩⟩ rfl rfl

/-- WRITE_DISC stands through the rest of a write. -/
theorem State.shedWritePart_keeps_disc {s : State} (h : s.rd R.TG_SHED_STATUS_WRITE_DISC = 1) (a : Nat) (bs : List Byte) (w : Nat) :
    (s.shedWritePart a bs w).rd R.TG_SHED_STATUS_WRITE_DISC = 1 := by
  unfold State.shedWritePart
  extract_lets
  split
  · exact h
  · split
    · exact State.rd_wr_same ..
    · exact h

theorem State.foldl_shedWritePart_keeps_disc (a : Nat) (bs : List Byte) : ∀ (ws : List Nat) (s : State), s.rd R.TG_SHED_STATUS_WRITE_DISC = 1 →
    (ws.foldl (fun (t : State) w => t.shedWritePart a bs w) s).rd R.TG_SHED_STATUS_WRITE_DISC = 1
  | [], _, h => h
  | w :: ws, _, h => State.foldl_shedWritePart_keeps_disc a bs ws _ (State.shedWritePart_keeps_disc h a bs w)

/-- R340: a part of a failing word that is discarded sets WRITE_DISC. -/
theorem State.foldl_shedWritePart_discards (a : Nat) (bs : List Byte) {k : Nat} (hk : ¬coversWord a bs.length k) :
    ∀ (ws : List Nat) (s : State), k ∈ ws → Tab.get false s.shedBad k = true →
      (ws.foldl (fun (t : State) w => t.shedWritePart a bs w) s).rd R.TG_SHED_STATUS_WRITE_DISC = 1
  | [], _, hmem, _ => absurd hmem List.not_mem_nil
  | w :: ws, s, hmem, hbad => by
    rw [List.foldl_cons]
    by_cases hw : k = w
    · subst hw
      refine State.foldl_shedWritePart_keeps_disc a bs ws _ ?_
      unfold State.shedWritePart
      extract_lets
      rw [if_neg (fun h => hk ((coversWord_iff ..).mpr h)), if_pos hbad]
      exact State.rd_wr_same ..
    · have hw' : Decidable (coversWord a bs.length w) := Classical.dec _
      refine State.foldl_shedWritePart_discards a bs hk ws _ ((List.mem_cons.mp hmem).resolve_left hw) ?_
      rw [State.shedBad_shedWritePart, if_neg (fun h => hw h.1.symm), hbad]

theorem exec_shedWindowWrite {off : Nat} {bs : List Byte} {s : State} (hs : s.runs) (hroom : off + bs.length ≤ shedSize)
    (h : crosses4K off bs.length = false) : exec (.shedWindowWrite off bs) s = .next ((s.shedWrite off bs).answer .ok []) := by
  show execShedWindowWrite off bs s = _
  rw [execShedWindowWrite, State.live_runs hs, if_neg (Nat.not_lt.mpr hroom), if_neg (by simp [h])]
  rfl

/-- Settles O8: the words of the write, one by one, take their bytes and their parity, and a failing word of which it covers a part takes none. -/
theorem shedWindowWriteStoresBytes : Obligations.ShedWindowWriteStoresBytes := by
  classical
  intro off bs s hs hroom h
  have hcov : ∀ w, coversWord off bs.length w ↔ off ≤ 4 * w ∧ 4 * w + 4 ≤ off + bs.length := fun _ => Iff.rfl
  obtain ⟨hframe, honly⟩ := s.shedWrite_frame off bs
  refine ⟨_, exec_shedWindowWrite hs hroom h, rfl, fun a => ?_, fun w => ?_, fun ⟨a, hlo, hhi, hpart, hbad⟩ => ?_, honly.answer _ _, ?_⟩
  · refine (State.shedByte_shedWrite s off bs a).trans (if_congr ?_ rfl rfl)
    rw [takesByte, hcov, and_assoc, Nat.mul_comm 4]
  · exact (s.shedBad_shedWrite off bs w).trans (if_congr (hcov w) rfl rfl)
  · rw [Nat.mul_comm] at hpart
    rw [State.rd_answer]
    exact State.foldl_shedWritePart_discards off bs hpart _ s (mem_wordsOf ⟨hlo, hhi⟩) hbad
  · rw [SameButShed] at hframe
    rw [hframe]
    rfl

end Sys2Proof.Machine
end

section
/-! SUPPORT. Device time is set up (R25, R404 to R406), and the Ballast's queue (R22, R485): statements O11 and O12. -/

namespace Sys2Proof.Machine

theorem State.on_iff (s : State) (f : Fld) : s.on f = true ↔ s.rd f = 1 := beq_iff_eq

/-- Nothing but register fields and the landing list differs. -/
def SameButWaiting (s t : State) : Prop := t = { s with regs := t.regs, landing := t.landing }

section Waiting
variable {s t u : State}

theorem SameButRegs.sameButWaiting (h : SameButRegs s t) : SameButWaiting s t := by
  unfold SameButRegs SameButWaiting at *
  rw [h]

theorem SameButWaiting.trans (h : SameButWaiting s t) (h' : SameButWaiting t u) : SameButWaiting s u := by
  unfold SameButWaiting at *
  rw [h', h]

theorem SameButWaiting.wr (h : SameButWaiting s t) (f : Fld) (v : Nat) : SameButWaiting s (t.wr f v) := h.trans rfl

theorem State.acceptAt_sameButWaiting (s : State) (due : Nat) (c : Change) : SameButWaiting s (s.acceptAt due c) := rfl

theorem SameButWaiting.accept (h : SameButWaiting s t) (c : Change) : SameButWaiting s (t.accept c) := h.trans (t.acceptAt_sameButWaiting _ c)

end Waiting

/-! The rate correction (R25, R404). -/

/-- The value within ±200 ppm of a rate correction. -/
def rateLimited (v : Word) : Int := max (-858993) (min v.toInt 858993)

/-- The state in which no rate correction waits. -/
def State.rateDropped (s : State) : State := s.dropWaiting (fun c => match c with | .rate _ => true | _ => false)

theorem exec_timeRateWrite {s : State} (hs : s.runs) (v : Word) :
    exec (.timeRateWrite v) s = .next ((s.rateDropped.wr R.HB_TIME_RATE_RATE (ofSigned 32 (rateLimited v))).accept (.rate (rateLimited v))) := by
  show execTimeRateWrite v s = _
  rw [execTimeRateWrite, State.live_runs hs]
  rfl

theorem ofSigned_lt (w : Nat) (i : Int) : ofSigned w i < 2 ^ w := by
  have h : (2 ^ w : Int) ≠ 0 := by positivity
  have hnonneg := Int.emod_nonneg i h
  have hlt := Int.emod_lt_of_pos i (b := (2 ^ w : Int)) (by positivity)
  unfold ofSigned
  push_cast
  zify
  rw [Int.toNat_of_nonneg hnonneg]
  exact hlt

theorem timeRate_waits {s : State} (hs : s.runs) (v : Word) : ∃ t, exec (.timeRateWrite v) s = .next t ∧
    t.rd R.HB_TIME_RATE_RATE = ofSigned 32 (rateLimited v) ∧ Accepted (.rate (rateLimited v)) s.rateDropped t ∧
    OnlyRegs (R.HB_TIME_RATE_RATE :: landFields) s t ∧ t = { s with regs := t.regs, landing := t.landing } := by
  have hdrop : SameButWaiting s s.rateDropped := rfl
  have honly : OnlyRegs (R.HB_TIME_RATE_RATE :: landFields) s s.rateDropped := (OnlyRegs.refl s _).of_regs rfl
  refine ⟨_, exec_timeRateWrite hs v, ?_, State.accepted_accept _ rfl rfl, (honly.wr List.mem_cons_self _).accept
    (fun _ hf => List.mem_cons_of_mem _ hf) _, (hdrop.wr _ _).accept _⟩
  rw [State.rd_accept_other _ _ (by decide)]
  exact State.rd_wr_of_lt _ (ofSigned_lt ..)

/-! A forward step (R405). -/

/-- The step that a write of STEP_HI requests, rounded down to whole tides. -/
def State.stepAsked (s : State) (hi : Word) : Nat := (s.rd R.HB_TIME_STEP_LO_STEP_LO + 2 ^ 32 * hi.toNat) / 131072 * 131072

/-- No step is accepted: it is none, device time is valid, or another waits. -/
def State.stepRefused (s : State) (hi : Word) : Prop :=
  s.stepAsked hi = 0 ∨ s.rd R.HB_TIME_STATUS_VALID = 1 ∨ s.rd R.HB_TIME_STATUS_STEP_PENDING = 1

theorem State.rd_stepHi (s : State) (hi : Word) : (s.wr R.HB_TIME_STEP_HI_STEP_HI hi.toNat).rd R.HB_TIME_STEP_HI_STEP_HI = hi.toNat :=
  s.rd_wr_of_lt hi.isLt

open Classical in
theorem exec_timeStepRequest {s : State} (hs : s.runs) (hi : Word) :
    exec (.timeStepRequest hi) s = .next (if s.stepRefused hi then s.wr R.HB_TIME_STEP_HI_STEP_HI hi.toNat
      else ((s.wr R.HB_TIME_STEP_HI_STEP_HI hi.toNat).wr R.HB_TIME_STATUS_STEP_PENDING 1).accept (.timeStep (s.stepAsked hi))) := by
  have hasked : (s.wr R.HB_TIME_STEP_HI_STEP_HI hi.toNat).rdPair R.HB_TIME_STEP_LO_STEP_LO R.HB_TIME_STEP_HI_STEP_HI / 131072 * 131072 =
      s.stepAsked hi := by
    rw [State.rdPair, State.rd_stepHi, State.rd_wr_other _ _ (by decide), State.stepAsked]
  show execTimeStepRequest hi s = _
  rw [execTimeStepRequest, State.live_runs hs]
  by_cases h : s.stepRefused hi
  · rw [if_pos h]
    exact if_pos (by rwa [hasked, State.on_iff, State.on_iff])
  · rw [if_neg h, ← hasked]
    exact if_neg (by rwa [hasked, State.on_iff, State.on_iff])

theorem timeStep_answered {s : State} (hs : s.runs) (v : Word) : ∃ t, exec (.timeStepRequest v) s = .next t ∧
    t.rd R.HB_TIME_STEP_HI_STEP_HI = v.toNat ∧
    (s.stepRefused v → OnlyRegs [R.HB_TIME_STEP_HI_STEP_HI] s t ∧ t.landing = s.landing) ∧
    (¬s.stepRefused v → t.rd R.HB_TIME_STATUS_STEP_PENDING = 1 ∧ Accepted (.timeStep (s.stepAsked v)) s t ∧
      OnlyRegs (R.HB_TIME_STEP_HI_STEP_HI :: R.HB_TIME_STATUS_STEP_PENDING :: landFields) s t) ∧
    t = { s with regs := t.regs, landing := t.landing } := by
  have hexec := exec_timeStepRequest hs v
  have honly : OnlyRegs [R.HB_TIME_STEP_HI_STEP_HI] s (s.wr R.HB_TIME_STEP_HI_STEP_HI v.toNat) := (OnlyRegs.refl s _).wr (by simp) _
  by_cases h : s.stepRefused v
  · rw [if_pos h] at hexec
    exact ⟨_, hexec, s.rd_stepHi v, fun _ => ⟨honly, rfl⟩, fun hn => absurd h hn, rfl⟩
  · rw [if_neg h] at hexec
    refine ⟨_, hexec, ?_, fun hr => absurd hr h, fun _ => ⟨?_, State.accepted_accept _ rfl rfl, ?_⟩,
      (((SameButRegs.refl s).wr _ _).wr _ _).sameButWaiting.accept _⟩
    · rw [State.rd_accept_other _ _ (by decide), State.rd_wr_other _ _ (by decide), State.rd_stepHi]
    · rw [State.rd_accept_other _ _ (by decide)]
      exact State.rd_wr_same ..
    · exact ((honly.mono (by simp)).wr (by simp) _).accept (fun _ hf => by simp [hf]) _

/-! VALIDATE (R406). -/

/-- Nothing but register fields, the ledger and its queue of events differs. -/
def SameButLedger (s t : State) : Prop := t = { s with regs := t.regs, ledger := t.ledger, signQ := t.signQ, evtLost := t.evtLost }

theorem SameButLedger.trans {s t u : State} (h : SameButLedger s t) (h' : SameButLedger t u) : SameButLedger s u := by
  unfold SameButLedger at *
  rw [h', h]

theorem State.event_sameButLedger (s : State) (code point : Nat) (args : List Nat) : SameButLedger s (s.event code point args) := by
  unfold State.event
  extract_lets
  split <;> rfl

theorem State.event_onlyRegs (s : State) (code point : Nat) (args : List Nat) : OnlyRegs eventFields s (s.event code point args) := by
  unfold State.event
  extract_lets
  split
  · exact (OnlyRegs.refl s _).of_regs rfl
  · exact (((OnlyRegs.refl s _).wr (by simp [eventFields]) _).wr (by simp [eventFields]) _).of_regs rfl

/-- The events that waited for device time to be valid, without the ledger's seconds. -/
theorem State.foldl_event_frame (code point : Nat) : ∀ (ks : List Nat) (s : State),
    SameButLedger s (ks.foldl (fun (t : State) k => t.event code point [k]) s) ∧
      OnlyRegs eventFields s (ks.foldl (fun (t : State) k => t.event code point [k]) s)
  | [], s => ⟨rfl, .refl s _⟩
  | k :: ks, s => by
    obtain ⟨hframe, honly⟩ := State.foldl_event_frame code point ks (s.event code point [k])
    exact ⟨(s.event_sameButLedger ..).trans hframe, OnlyRegs.trans (s.event_onlyRegs code point [k]) honly⟩

theorem State.timeValid_frame (s : State) : SameButLedger s s.timeValid ∧ OnlyRegs eventFields s s.timeValid := by
  unfold State.timeValid
  extract_lets _ s1 s2
  have h1 : SameButLedger s s1 ∧ OnlyRegs eventFields s s1 := by
    unfold s1
    cases s.ledger.powerLoss with
    | none => exact ⟨rfl, .refl s _⟩
    | some g =>
      have hcleared : SameButLedger s { s with ledger := { s.ledger with powerLoss := none } } := rfl
      have honly : OnlyRegs eventFields s { s with ledger := { s.ledger with powerLoss := none } } := (OnlyRegs.refl s _).of_regs rfl
      exact ⟨hcleared.trans (State.event_sameButLedger _ _ _ _), honly.trans (State.event_onlyRegs _ _ _ _)⟩
  have h2 := State.foldl_event_frame 0x56 255 ([1, 3, 4, 5, 6, 7].filter (fun t => s.rdBit R.CL_DEGRADED_TABLE t)) s1
  exact ⟨(h1.1.trans h2.1).trans rfl, (h1.2.trans h2.2).of_regs rfl⟩

theorem State.timeValid_instant (s : State) : s.timeValid.ledger.instant = s.now / 1000000000 := rfl

theorem exec_timeValidate_of_set {s : State} (hs : s.runs) (h : s.rd R.HB_TIME_STATUS_STEP_PENDING = 1 ∨ s.rd R.HB_TIME_STATUS_VALID = 1) :
    exec .timeValidate s = .next s := by
  show execTimeValidate s = _
  rw [execTimeValidate, State.live_runs hs, if_pos (by rwa [State.on_iff, State.on_iff])]
  rfl

theorem exec_timeValidate {s : State} (hs : s.runs) (hp : s.rd R.HB_TIME_STATUS_STEP_PENDING ≠ 1) (hv : s.rd R.HB_TIME_STATUS_VALID ≠ 1) :
    exec .timeValidate s = .next (if s.on R.LG_STATUS_READY then (s.wr R.HB_TIME_STATUS_VALID 1).timeValid else s.wr R.HB_TIME_STATUS_VALID 1) := by
  show execTimeValidate s = _
  rw [execTimeValidate, State.live_runs hs, if_neg (by rw [State.on_iff, State.on_iff]; exact not_or.mpr ⟨hp, hv⟩)]
  rfl

theorem timeValidate_sets {s : State} (hs : s.runs) (hp : s.rd R.HB_TIME_STATUS_STEP_PENDING ≠ 1) (hv : s.rd R.HB_TIME_STATUS_VALID ≠ 1) :
    ∃ t, exec .timeValidate s = .next t ∧ t.rd R.HB_TIME_STATUS_VALID = 1 ∧
      (s.rd R.LG_STATUS_READY = 1 → t.ledger.instant = s.now / 1000000000) ∧ OnlyRegs (R.HB_TIME_STATUS_VALID :: eventFields) s t ∧
      t = { s with regs := t.regs, ledger := t.ledger, signQ := t.signQ, evtLost := t.evtLost } := by
  have hexec := exec_timeValidate hs hp hv
  have hset : (s.wr R.HB_TIME_STATUS_VALID 1).rd R.HB_TIME_STATUS_VALID = 1 := State.rd_wr_same ..
  have honly : OnlyRegs (R.HB_TIME_STATUS_VALID :: eventFields) s (s.wr R.HB_TIME_STATUS_VALID 1) := (OnlyRegs.refl s _).wr (by simp) _
  by_cases hready : s.rd R.LG_STATUS_READY = 1
  · obtain ⟨hframe, hevents⟩ := (s.wr R.HB_TIME_STATUS_VALID 1).timeValid_frame
    rw [if_pos ((s.on_iff _).mpr hready)] at hexec
    have hself : SameButLedger s (s.wr R.HB_TIME_STATUS_VALID 1) := rfl
    exact ⟨_, hexec, (hevents _ (by decide)).trans hset, fun _ => State.timeValid_instant _,
      honly.trans (hevents.mono fun _ hf => List.mem_cons_of_mem _ hf), hself.trans hframe⟩
  · rw [if_neg (by rwa [State.on_iff])] at hexec
    exact ⟨_, hexec, hset, fun h => absurd h hready, honly, rfl⟩

/-- Settles O12: the rate correction waits, the step is discarded or waits, and VALIDATE changes nothing or sets VALID. -/
theorem deviceTimeIsSetUp : Obligations.DeviceTimeIsSetUp := by
  intro v s hs
  refine ⟨timeRate_waits hs v, ?_, exec_timeValidate_of_set hs, timeValidate_sets hs⟩
  obtain ⟨t, hexec, hhi, hrefused, haccepted, hframe⟩ := timeStep_answered hs v
  refine ⟨t, hexec, hhi, ?_, hframe⟩
  rintro _ rfl
  split
  · next h => exact hrefused h
  · next h => exact haccepted h

/-! The Ballast's queue (R22, R485). -/

/-- A write that joins the queue, or finds it full. -/
theorem State.ballastPush_of_room {s : State} (h : s.ballast.length < 8) (addr v : Nat) :
    s.ballastPush addr v = { s with ballast := s.ballast ++ [(addr, v)] } := if_pos h

theorem State.ballastPush_of_full {s : State} (h : 8 ≤ s.ballast.length) (addr v : Nat) :
    s.ballastPush addr v = s.wr R.HB_ERR_STATUS_BAL_WOVF 1 := if_neg (Nat.not_lt.mpr h)

/-- A full queue discards the write. -/
theorem ballastPush_discards {s : State} {r : Res} {addr v : Nat} (hr : r = .next (s.ballastPush addr v)) (h : 8 ≤ s.ballast.length) :
    ∃ t, r = .next t ∧ t.rd R.HB_ERR_STATUS_BAL_WOVF = 1 ∧ OnlyRegs [R.HB_ERR_STATUS_BAL_WOVF] s t ∧ t = { s with regs := t.regs } := by
  rw [State.ballastPush_of_full h] at hr
  exact ⟨_, hr, State.rd_wr_same .., (OnlyRegs.refl s _).wr (by simp) _, rfl⟩

theorem exec_ballastWrite {s : State} (hs : s.runs) {addr : Nat} (hlo : 0x200100 ≤ addr) (hhi : addr < 0x200158) (hal : addr % 4 = 0) (v : Word) :
    exec (.ballastWrite addr v) s = .next (s.ballastPush addr v.toNat) := by
  show execBallastWrite addr v s = _
  rw [execBallastWrite, State.live_runs hs, if_pos ⟨by simp [isBallast]; omega, hhi⟩]
  rfl

section Apply
variable {s : State} (hs : s.runs)
include hs

theorem exec_ballastWriteApply_of_empty (h : s.ballast = []) : exec .ballastWriteApply s = .next s := by
  show execBallastWriteApply s = _
  unfold execBallastWriteApply
  simp only [State.live_runs hs, h]
  rfl

variable {addr v : Nat} {rest : List (Nat × Nat)} (h : s.ballast = (addr, v) :: rest)
include h

theorem exec_ballastWriteApply_of_rtc (ha : addr = 0x20015C) :
    exec .ballastWriteApply s = .next ((({ s with ballast := rest } : State).setRtc v).wr R.RS_BAL_STATUS_RTC_VALID 1) := by
  show execBallastWriteApply s = _
  unfold execBallastWriteApply
  simp only [State.live_runs hs, h, ha, if_true]
  rfl

theorem exec_ballastWriteApply_of_none (ha : addr ≠ 0x20015C) (hrow : regRow? addr = none) :
    exec .ballastWriteApply s = .next { s with ballast := rest } := by
  show execBallastWriteApply s = _
  unfold execBallastWriteApply
  simp only [State.live_runs hs, h, ha, hrow, if_false]
  rfl

theorem exec_ballastWriteApply_of_row (ha : addr ≠ 0x20015C) {r : RegRow} (hrow : regRow? addr = some r) :
    exec .ballastWriteApply s = .next (({ s with ballast := rest } : State).writeRow r addr v 0) := by
  show execBallastWriteApply s = _
  unfold execBallastWriteApply
  simp only [State.live_runs hs, h, ha, hrow, if_false]
  rfl

end Apply

/-! The RTC (R447). -/

theorem low_pair (v : Nat) : low 32 v + 2 ^ 32 * low 16 (v / 2 ^ 32) = low 48 v := by
  simp only [low]
  omega

/-- The fields of the RTC. -/
def rtcFields : List Fld := [R.RS_BAL_RTC_LO_RTC_LO, R.RS_BAL_RTC_HI_RTC_HI]

theorem State.setRtc_onlyRegs (s : State) (v : Nat) : OnlyRegs rtcFields s (s.setRtc v) :=
  (((OnlyRegs.refl s _).wr (by simp [rtcFields]) _).wr (by simp [rtcFields]) _).of_regs rfl

/-- A state whose RTC was set at this instant, and none of whose later writes moved it, reads the value set. -/
theorem State.rtc_of_set {s t : State} {v : Nat} (hregs : ∀ f ∈ rtcFields, t.rd f = (s.setRtc v).rd f) (hnow : t.now = s.now)
    (hat : t.power.rtcAt = s.now) : t.rtc = low 48 v := by
  have hlo : t.rd R.RS_BAL_RTC_LO_RTC_LO = low 32 v := by
    rw [hregs _ (by simp [rtcFields])]
    exact (State.rd_wr_other _ _ (by decide)).trans (State.rd_wr_same ..)
  have hhi : t.rd R.RS_BAL_RTC_HI_RTC_HI = low 16 (v / 2 ^ 32) := by
    rw [hregs _ (by simp [rtcFields])]
    exact State.rd_wr_same ..
  rw [State.rtc, State.rdPair, hlo, hhi, hnow, hat, Int.sub_self, low_pair]
  simp

/-- The RTC takes both its words. -/
theorem ballastWriteApply_rtc {s : State} (hs : s.runs) {addr v : Nat} {rest : List (Nat × Nat)} (h : s.ballast = (addr, v) :: rest)
    (ha : addr = 0x20015C) : ∃ t, exec .ballastWriteApply s = .next t ∧ t.ballast = rest ∧ t.rtc = low 48 v ∧
      t.rd R.RS_BAL_STATUS_RTC_VALID = 1 ∧ OnlyRegs [R.RS_BAL_RTC_LO_RTC_LO, R.RS_BAL_RTC_HI_RTC_HI, R.RS_BAL_STATUS_RTC_VALID] s t ∧
      t = { s with regs := t.regs, ballast := t.ballast, power := { s.power with rtcAt := s.now } } := by
  have hset := ({ s with ballast := rest } : State).setRtc_onlyRegs v
  have hkeys : ∀ f ∈ rtcFields, R.RS_BAL_STATUS_RTC_VALID.key ≠ f.key := by decide
  have hrest : OnlyRegs [R.RS_BAL_RTC_LO_RTC_LO, R.RS_BAL_RTC_HI_RTC_HI, R.RS_BAL_STATUS_RTC_VALID] s { s with ballast := rest } :=
    (OnlyRegs.refl s _).of_regs rfl
  exact ⟨_, exec_ballastWriteApply_of_rtc hs h ha, rfl, State.rtc_of_set (fun f hf => State.rd_wr_other _ _ (hkeys f hf)) rfl rfl,
    State.rd_wr_same .., (hrest.trans (hset.mono (by simp [rtcFields]))).wr (by simp) _, rfl⟩

/-- Any other register takes the write field by field. -/
theorem ballastWriteApply_row {s : State} (hs : s.runs) {addr v : Nat} {rest : List (Nat × Nat)} (h : s.ballast = (addr, v) :: rest)
    (ha : addr ≠ 0x20015C) {r : RegRow} (hr : regRow? addr = some r) : ∃ t, exec .ballastWriteApply s = .next t ∧ t.ballast = rest ∧
      (∀ f ∈ r.fields, f.acc = .rw →
        t.rd (f.at addr) = if f.accepts (bits v f.lo f.width) then bits v f.lo f.width else s.rd (f.at addr)) ∧
      (∀ f ∈ r.fields, f.acc = .ro ∨ f.acc = .rc ∨ f.acc = .own → t.rd (f.at addr) = s.rd (f.at addr)) ∧
      OnlyRegs ([R.CU_STATUS_RWL_HIT, R.CU_RWL_CNT_COUNT] ++ r.fields.map (fun f => f.at addr)) s t ∧
      t = { s with regs := t.regs, ballast := t.ballast } := by
  let u : State := { s with ballast := rest }
  have hsame : SameButRegs u (u.writeRow r addr v 0) := u.writeRow_sameButRegs ..
  refine ⟨_, exec_ballastWriteApply_of_row hs h ha hr, ?_, fun f hf hacc => u.rd_writeRow_stores hr v 0 hf (.inl hacc),
    fun f hf hacc => u.rd_writeRow_keeps hr v 0 hf hacc, fun g hg => u.writeRow_onlyRegs r addr v 0 g hg, ?_⟩
  · rw [hsame]
  · rw [hsame]

/-- Settles O11: a write joins the queue's end or is discarded, and the queue's head takes effect. -/
theorem ballastQueueIsFirstInFirstOut : Obligations.BallastQueueIsFirstInFirstOut := by
  refine ⟨fun addr v s hs hlo hhi hal => ?_, fun addr v rest s hs => ⟨exec_ballastWriteApply_of_empty hs, fun h =>
    ⟨ballastWriteApply_rtc hs h, exec_ballastWriteApply_of_none hs h, fun r ha hr => ballastWriteApply_row hs h ha hr⟩⟩⟩
  have hexec := exec_ballastWrite hs hlo hhi hal v
  exact ⟨fun hroom => by rw [hexec, State.ballastPush_of_room hroom], ballastPush_discards hexec⟩

end Sys2Proof.Machine
end

section
/-! SUPPORT. What the assertion of a reset source does (R431 to R433), and the watchdog, power requests, the pin hold, the RTC and VBAT (R22, R29, R30,
R437, R442, R447, R484, R485): statement O49. -/

namespace Sys2Proof.Machine

/-! The registers that an L0 or L1 reset leaves (Table 17.2). -/

/-- The field lies in the Ballast. -/
def Fld.inBallast (f : Fld) : Prop := 8 * 0x200100 ≤ f.key ∧ f.key < 8 * 0x200160

theorem Fld.not_inBallast {f : Fld} (h : f.key < 8 * 0x200100 ∨ 8 * 0x200160 ≤ f.key) : ¬f.inBallast := by
  unfold Fld.inBallast
  omega

/-- The count of source `src` is one of the Ballast's items, and no other that a reset moves. -/
theorem resetCount_key {src : Nat} (h : src < 16) :
    (R.RS_BAL_CNT_s_COUNT src).inBallast ∧ R.RS_BAL_TRIM_ABORT_COUNT.key ≠ (R.RS_BAL_CNT_s_COUNT src).key := by
  unfold Fld.inBallast
  simp only [R.RS_BAL_CNT_s_COUNT, R.RS_BAL_TRIM_ABORT_COUNT]
  omega

section Now
variable (s : State) (level src : Nat)

/-- What the registers hold once a trim load that was on its way has been counted as aborted. -/
def State.abortCounted : State := if s.power.image.isEmpty then s else s.inc R.RS_BAL_TRIM_ABORT_COUNT

theorem State.resetNow_regs : (s.resetNow level src).regs =
    s.abortCounted.regs.filter (fun e => decide (8 * 0x200100 ≤ e.1 ∧ e.1 < 8 * 0x200160)) := rfl

theorem State.rd_resetNow (f : Fld) : (s.resetNow level src).rd f =
    if 8 * 0x200100 ≤ f.key ∧ f.key < 8 * 0x200160 then s.abortCounted.rd f else f.reset := by
  rw [State.rd, State.resetNow_regs, Tab.get_filter_key _ (fun k => decide (8 * 0x200100 ≤ k ∧ k < 8 * 0x200160))]
  simp only [decide_eq_true_eq]
  rfl

theorem State.rd_resetNow_outside {f : Fld} (h : f.key < 8 * 0x200100 ∨ 8 * 0x200160 ≤ f.key) : (s.resetNow level src).rd f = f.reset :=
  (s.rd_resetNow level src f).trans (if_neg (Fld.not_inBallast h))

theorem State.rd_resetNow_ballast {f : Fld} (h : f.inBallast) (hne : R.RS_BAL_TRIM_ABORT_COUNT.key ≠ f.key) :
    (s.resetNow level src).rd f = s.rd f := by
  refine (s.rd_resetNow level src f).trans ((if_pos h).trans ?_)
  rw [State.abortCounted, State.rd_ite, State.rd_inc_other _ hne, ite_self]

end Now

/-! Which reset a source makes. -/

/-- The level of a source that names no domain and no berth: its fuse, at most L1 (R431). -/
def State.wholeLevel (s : State) (src : Nat) : Nat := min 1 (3 - s.rd (R.RS_LEVEL_V_s src))

/-- The state in which source `src` is counted. -/
def State.counted (s : State) (src : Nat) : State := s.inc (R.RS_BAL_CNT_s_COUNT src)

section Counted
variable (s : State) (src : Nat)

theorem State.rd_counted : (s.counted src).rd (R.RS_BAL_CNT_s_COUNT src) = satAdd 16 (s.rd (R.RS_BAL_CNT_s_COUNT src)) 1 :=
  (s.rd_inc_same _).trans low_satAdd

theorem State.counted_onlyRegs : OnlyRegs [R.RS_BAL_CNT_s_COUNT src] s (s.counted src) := (OnlyRegs.refl s _).wr (by simp) _

end Counted

/-- A source that resets the whole device, or that resets the domains of a list with one that no L2 reset may reach. -/
def wholeSource (src : Nat) (domains : List Nat) : Prop :=
  src < 10 ∨ 12 < src ∨ domains.any (fun d => d == 0 || decide (25 ≤ d)) = true

theorem State.assertReset_whole (s : State) {src : Nat} {domains : List Nat} (h : wholeSource src domains) (h12 : src ≠ 12) (berth : Nat) :
    s.assertReset src domains berth = (s.counted src).beginReset (s.wholeLevel src) src := by
  unfold State.assertReset State.levelOf
  extract_lets s1 v l level
  have hlevel : level = s.wholeLevel src := by
    have hl : l = if v = 3 then 2 else v := if_congr (and_iff_left h12) rfl rfl
    have hlevel : level = if l = 2 then 1 else l := if_congr (and_iff_left h) rfl rfl
    have hv : v = 3 - s.rd (R.RS_LEVEL_V_s src) := rfl
    rw [State.wholeLevel, hlevel, hl]
    split_ifs <;> omega
  rw [if_pos (by rw [hlevel, State.wholeLevel]; omega), hlevel]
  rfl

/-- The reset of the device begins, unless one of the same or a greater reach holds it. -/
theorem State.beginReset_of_free {s : State} (h : s.power.held = none ∨ ∃ k, s.power.held = some k ∧ lev < k.1) (src : Nat) :
    s.beginReset lev src = s.resetNow lev src := by
  unfold State.beginReset
  rcases h with h | ⟨k, h, hlt⟩
  · simp only [h]
  · simp only [h, hlt, if_true]

theorem State.beginReset_of_absorbed {s : State} {k : Nat × Nat} (h : s.power.held = some k) (hle : k.1 ≤ lev) (src : Nat) :
    s.beginReset lev src = s := by
  unfold State.beginReset
  simp only [h, Nat.not_lt.mpr hle, if_false]

/-- Source `src` of the whole device asserts while none of its reach holds the device. -/
theorem State.assertReset_begins (s : State) {src : Nat} {domains : List Nat} (h : wholeSource src domains) (h12 : src ≠ 12) (berth : Nat)
    (hfree : s.power.held = none ∨ ∃ k, s.power.held = some k ∧ s.wholeLevel src < k.1) :
    s.assertReset src domains berth = (s.counted src).resetNow (s.wholeLevel src) src := by
  rw [State.assertReset_whole s h h12, State.beginReset_of_free]
  exact hfree

theorem State.rd_resetNow_count (s : State) {src : Nat} (hlt : src < 16) (level : Nat) :
    ((s.counted src).resetNow level src).rd (R.RS_BAL_CNT_s_COUNT src) = satAdd 16 (s.rd (R.RS_BAL_CNT_s_COUNT src)) 1 := by
  obtain ⟨hin, hne⟩ := resetCount_key hlt
  rw [State.rd_resetNow_ballast _ _ _ hin hne, State.rd_counted]

/-- Outside a reset, source `src` of the whole device holds it and is counted. -/
theorem State.assertReset_holds {s : State} (hs : s.runs) {src : Nat} (h : src < 10 ∨ 12 < src) (hlt : src < 16) (domains : List Nat) (berth : Nat) :
    (s.assertReset src domains berth).power.held = some (s.wholeLevel src, src) ∧
      (s.assertReset src domains berth).rd (R.RS_BAL_CNT_s_COUNT src) = satAdd 16 (s.rd (R.RS_BAL_CNT_s_COUNT src)) 1 := by
  rw [State.assertReset_begins s (by unfold wholeSource; tauto) (by omega) berth (.inl hs)]
  exact ⟨rfl, s.rd_resetNow_count hlt _⟩

/-! The watchdog (R484). -/

/-- The fields of RS_WDT_CFG. -/
def watchdogFields : List Fld := [R.RS_WDT_CFG_EN, R.RS_WDT_CFG_PERIOD]

/-- The state in which a write of RS_WDT_CFG is stored; a PERIOD outside its range is not. -/
def State.watchdogStored (s : State) (v : Nat) : State :=
  if 1000 ≤ bits v 0 24 ∧ bits v 0 24 ≤ 10000000 then (s.wr R.RS_WDT_CFG_EN (bits v 31 1)).wr R.RS_WDT_CFG_PERIOD (bits v 0 24)
  else s.wr R.RS_WDT_CFG_EN (bits v 31 1)

section Stored
variable (s : State) (v : Nat)

theorem State.watchdogStored_sameButRegs : SameButRegs s (s.watchdogStored v) :=
  .ite (((SameButRegs.refl s).wr _ _).wr _ _) ((SameButRegs.refl s).wr _ _)

theorem State.watchdogStored_onlyRegs : OnlyRegs watchdogFields s (s.watchdogStored v) := by
  have hen : OnlyRegs watchdogFields s (s.wr R.RS_WDT_CFG_EN (bits v 31 1)) := (OnlyRegs.refl s _).wr (by simp [watchdogFields]) _
  exact .ite (hen.wr (by simp [watchdogFields]) _) hen

theorem State.rd_watchdogStored_en : (s.watchdogStored v).rd R.RS_WDT_CFG_EN = bits v 31 1 := by
  have hen : (s.wr R.RS_WDT_CFG_EN (bits v 31 1)).rd R.RS_WDT_CFG_EN = bits v 31 1 := (State.rd_wr_same ..).trans (low_bits ..)
  rw [State.watchdogStored, State.rd_ite, State.rd_wr_other _ _ (by decide), hen, ite_self]

theorem State.rd_watchdogStored_period : (s.watchdogStored v).rd R.RS_WDT_CFG_PERIOD =
    if 1000 ≤ bits v 0 24 ∧ bits v 0 24 ≤ 10000000 then bits v 0 24 else s.rd R.RS_WDT_CFG_PERIOD := by
  rw [State.watchdogStored, State.rd_ite, State.rd_wr_same, State.rd_wr_other _ _ (by decide)]
  exact if_congr Iff.rfl (low_bits ..) rfl

end Stored

theorem State.startWatchdog_of_free {s : State} (h : s.power.wdtLeft = none) (us : Nat) :
    s.startWatchdog us = { s with power := { s.power with wdt := some (s.now + 1000 * us) } } := if_neg (by simp [h])

theorem State.stopWatchdog_of_free {s : State} (h : s.power.wdtLeft = none) :
    s.stopWatchdog = { s with power := { s.power with wdt := none } } := by
  unfold State.stopWatchdog
  rw [h]
  exact congrArg (fun l => ({ s with power := { s.power with wdt := none, wdtLeft := l } } : State)) h.symm

section Watchdog
variable {s : State} (hs : s.runs)
include hs

theorem exec_watchdogCfgWrite (v : Word) : exec (.watchdogCfgWrite v) s = .next (if (s.watchdogStored v.toNat).on R.RS_WDT_CFG_EN
    then (s.watchdogStored v.toNat).startWatchdog ((s.watchdogStored v.toNat).rd R.RS_WDT_CFG_PERIOD)
    else (s.watchdogStored v.toNat).stopWatchdog) := by
  show execWatchdogCfgWrite v s = _
  rw [execWatchdogCfgWrite, State.live_runs hs]
  rfl

variable (hfree : s.power.wdtLeft = none)
include hfree

theorem watchdogCfgWrite_starts (v : Word) (hen : bits v.toNat 31 1 = 1) (hlo : 1000 ≤ bits v.toNat 0 24) (hhi : bits v.toNat 0 24 ≤ 10000000) :
    ∃ t, exec (.watchdogCfgWrite v) s = .next t ∧ t.power = { s.power with wdt := some (s.now + 1000 * bits v.toNat 0 24) } ∧
      t.rd R.RS_WDT_CFG_EN = 1 ∧ t.rd R.RS_WDT_CFG_PERIOD = bits v.toNat 0 24 ∧ OnlyRegs [R.RS_WDT_CFG_EN, R.RS_WDT_CFG_PERIOD] s t ∧
      t = { s with regs := t.regs, power := t.power } := by
  have hexec := exec_watchdogCfgWrite hs v
  have hrden := (s.rd_watchdogStored_en v.toNat).trans hen
  have hper := (s.rd_watchdogStored_period v.toNat).trans (if_pos ⟨hlo, hhi⟩)
  have hsame := s.watchdogStored_sameButRegs v.toNat
  have honly := s.watchdogStored_onlyRegs v.toNat
  obtain ⟨u, hu⟩ : ∃ u, u = s.watchdogStored v.toNat := ⟨_, rfl⟩
  rw [← hu] at hexec hrden hper hsame honly
  rw [SameButRegs] at hsame
  rw [if_pos ((State.on_iff ..).mpr hrden), State.startWatchdog_of_free (by rw [hsame]; exact hfree), hper] at hexec
  refine ⟨_, hexec, ?_, hrden, hper, honly.of_regs rfl, ?_⟩ <;> rw [hsame]

theorem watchdogCfgWrite_stops (v : Word) (hen : bits v.toNat 31 1 = 0) : ∃ t, exec (.watchdogCfgWrite v) s = .next t ∧
    t.power = { s.power with wdt := none } ∧ t.rd R.RS_WDT_CFG_EN = 0 ∧ OnlyRegs [R.RS_WDT_CFG_EN, R.RS_WDT_CFG_PERIOD] s t ∧
    t = { s with regs := t.regs, power := t.power } := by
  have hexec := exec_watchdogCfgWrite hs v
  have hrden := (s.rd_watchdogStored_en v.toNat).trans hen
  have hsame := s.watchdogStored_sameButRegs v.toNat
  have honly := s.watchdogStored_onlyRegs v.toNat
  obtain ⟨u, hu⟩ : ∃ u, u = s.watchdogStored v.toNat := ⟨_, rfl⟩
  rw [← hu] at hexec hrden hsame honly
  rw [SameButRegs] at hsame
  rw [if_neg (by rw [State.on_iff, hrden]; decide), State.stopWatchdog_of_free (by rw [hsame]; exact hfree)] at hexec
  refine ⟨_, hexec, ?_, hrden, honly.of_regs rfl, ?_⟩ <;> rw [hsame]

/-- A PERIOD outside its range is not stored. -/
theorem watchdogCfgWrite_keeps_period (v : Word) (hout : bits v.toNat 0 24 < 1000 ∨ 10000000 < bits v.toNat 0 24) :
    ∃ t, exec (.watchdogCfgWrite v) s = .next t ∧ t.rd R.RS_WDT_CFG_PERIOD = s.rd R.RS_WDT_CFG_PERIOD := by
  have hper := (s.rd_watchdogStored_period v.toNat).trans (if_neg (by omega))
  have hleft : (s.watchdogStored v.toNat).power.wdtLeft = none := by
    rw [s.watchdogStored_sameButRegs v.toNat]
    exact hfree
  refine ⟨_, exec_watchdogCfgWrite hs v, ?_⟩
  rw [State.startWatchdog_of_free hleft, State.stopWatchdog_of_free hleft, State.rd_ite]
  exact (ite_self _).trans hper

theorem exec_watchdogKick {key : Fin 256} (hkey : key.val = 0xA5) (hen : s.rd R.RS_WDT_CFG_EN = 1) : exec (.watchdogKick key) s =
    .next { s with power := { s.power with wdt := some (s.now + 1000 * s.rd R.RS_WDT_CFG_PERIOD) } } := by
  show execWatchdogKick key s = _
  rw [execWatchdogKick, State.live_runs hs, if_pos ⟨hkey, (s.on_iff _).mpr hen⟩, State.startWatchdog_of_free hfree]
  rfl

omit hfree in
theorem exec_watchdogKick_of_wrong {key : Fin 256} (h : key.val ≠ 0xA5 ∨ s.rd R.RS_WDT_CFG_EN ≠ 1) : exec (.watchdogKick key) s = .next s := by
  show execWatchdogKick key s = _
  rw [execWatchdogKick, State.live_runs hs, if_neg (by rw [State.on_iff]; tauto)]
  rfl

end Watchdog

/-- The state at the instant `w` of this tide, with the watchdog stopped. -/
def State.watchdogOut (s : State) (w : Nat) : State := { s.advance w with power := { (s.advance w).power with wdt := none } }

theorem exec_watchdogExpire {s : State} (hs : s.runs) {w : Nat} (hw : s.power.wdt = some w) :
    exec .watchdogExpire s = .next (if w < nextBoundary s.now then (s.watchdogOut w).assertReset 4 [] 0 else s) := by
  show execWatchdogExpire s = _
  unfold execWatchdogExpire
  simp only [State.live_runs hs, hw, State.inTide, decide_eq_true_eq]
  split <;> rfl

theorem watchdogExpire_resets {s : State} (hs : s.runs) {w : Nat} (hw : s.power.wdt = some w) (hin : w < nextBoundary s.now) :
    ∃ t, exec .watchdogExpire s = .next t ∧ t.power.held = some (s.wholeLevel 4, 4) ∧
      t.rd (R.RS_BAL_CNT_s_COUNT 4) = satAdd 16 (s.rd (R.RS_BAL_CNT_s_COUNT 4)) 1 := by
  have hexec := exec_watchdogExpire hs hw
  have hout : (s.watchdogOut w).runs := hs
  rw [if_pos hin] at hexec
  exact ⟨_, hexec, State.assertReset_holds hout (by decide) (by decide) [] 0⟩

/-! Power requests (R29, R30, R442). -/

/-- A request that is not accepted is answered in RESULT. -/
theorem powerRequest_refused {s : State} (d : Fin 32) (on : Bool) {st : Nat} (hst : st < 16) (h : exec (.powerRequest d on) s = .next (s.wr R.RS_PWR_STATUS_RESULT st)) :
    ∃ t, exec (.powerRequest d on) s = .next t ∧ t.rd R.RS_PWR_STATUS_RESULT = st ∧ OnlyRegs [R.RS_PWR_STATUS_RESULT] s t ∧
      t = { s with regs := t.regs } :=
  ⟨_, h, s.rd_wr_of_lt hst, (OnlyRegs.refl s _).wr (by simp) _, rfl⟩

section Request
variable {s : State} (hs : s.runs) (d : Fin 32) (on : Bool)
include hs

theorem exec_powerRequest_of_range (h : d.val = 0 ∨ 25 ≤ d.val) : exec (.powerRequest d on) s = .next (s.wr R.RS_PWR_STATUS_RESULT stRange) := by
  show execPowerRequest d on s = _
  rw [execPowerRequest, State.live_runs hs]
  exact if_pos h

variable (hlo : 1 ≤ d.val) (hhi : d.val < 25)
include hlo hhi

theorem exec_powerRequest_of_busy (h : s.rd R.RS_PWR_STATUS_PENDING = 1 ∨ (on = false ∧ s.domainUsed d = true)) :
    exec (.powerRequest d on) s = .next (s.wr R.RS_PWR_STATUS_RESULT stBusy) := by
  show execPowerRequest d on s = _
  rw [execPowerRequest, State.live_runs hs]
  dsimp only
  rw [if_neg (by omega), if_pos (by rw [State.on_iff]; simpa using h)]
  rfl

theorem exec_powerRequest (hp : s.rd R.RS_PWR_STATUS_PENDING ≠ 1) (h : on = true ∨ s.domainUsed d = false) :
    exec (.powerRequest d on) s =
      .next (((s.wr R.RS_PWR_STATUS_RESULT stOk).wr R.RS_PWR_STATUS_PENDING 1).accept (.power d on)) := by
  show execPowerRequest d on s = _
  rw [execPowerRequest, State.live_runs hs]
  dsimp only
  rw [if_neg (by omega), if_neg]
  · rfl
  · rw [State.on_iff]
    rcases h with rfl | h <;> simp_all

theorem powerRequest_waits (hp : s.rd R.RS_PWR_STATUS_PENDING ≠ 1) (h : on = true ∨ s.domainUsed d = false) :
    ∃ t, exec (.powerRequest d on) s = .next t ∧ t.rd R.RS_PWR_STATUS_RESULT = stOk ∧ t.rd R.RS_PWR_STATUS_PENDING = 1 ∧
      Accepted (.power d on) s t ∧ OnlyRegs ([R.RS_PWR_STATUS_RESULT, R.RS_PWR_STATUS_PENDING] ++ landFields) s t ∧
      t = { s with regs := t.regs, landing := t.landing } := by
  refine ⟨_, exec_powerRequest hs d on hlo hhi hp h, ?_, ?_, State.accepted_accept _ rfl rfl, ?_,
    (((SameButRegs.refl s).wr _ _).wr _ _).sameButWaiting.accept _⟩
  · rw [State.rd_accept_other _ _ (by decide), State.rd_wr_other _ _ (by decide), State.rd_wr_same]
    rfl
  · rw [State.rd_accept_other _ _ (by decide)]
    exact State.rd_wr_same ..
  · exact (((OnlyRegs.refl s _).wr (by simp) _).wr (by simp) _).accept (fun _ hf => by simp [hf]) _

end Request

/-! RELEASE of the pin hold (R437), and the RTC (R485). -/

theorem exec_pinHoldRelease {s : State} (hs : s.runs) : exec .pinHoldRelease s =
    .next (({ s with power := { s.power with holds := [] } } : State).wr R.RS_PIN_HOLD_HOLDING 0) := by
  show execPinHoldRelease s = _
  rw [execPinHoldRelease, State.live_runs hs]
  rfl

theorem pinHoldRelease_ends {s : State} (hs : s.runs) : ∃ t, exec .pinHoldRelease s = .next t ∧ t.power = { s.power with holds := [] } ∧
    t.rd R.RS_PIN_HOLD_HOLDING = 0 ∧ OnlyRegs [R.RS_PIN_HOLD_HOLDING] s t ∧ t = { s with regs := t.regs, power := t.power } := by
  have hopen : OnlyRegs [R.RS_PIN_HOLD_HOLDING] s { s with power := { s.power with holds := [] } } := (OnlyRegs.refl s _).of_regs rfl
  exact ⟨_, exec_pinHoldRelease hs, rfl, State.rd_wr_same .., hopen.wr (by simp) _, rfl⟩

theorem exec_rtcLoWrite {s : State} (hs : s.runs) (v : Word) :
    exec (.rtcLoWrite v) s = .next { s with power := { s.power with rtcStaged := v.toNat } } := by
  show execRtcLoWrite v s = _
  rw [execRtcLoWrite, State.live_runs hs]
  rfl

theorem exec_rtcHiWrite {s : State} (hs : s.runs) (v : BitVec 16) :
    exec (.rtcHiWrite v) s = .next (s.ballastPush 0x20015C (s.power.rtcStaged + 2 ^ 32 * v.toNat)) := by
  show execRtcHiWrite v s = _
  rw [execRtcHiWrite, State.live_runs hs]
  rfl

/-! VBAT (R447). -/

/-- Nothing but register fields, the power state and the free values used differs. -/
def SameButBallast (s t : State) : Prop := t = { s with regs := t.regs, power := t.power, free := t.free }

theorem SameButBallast.trans {s t u : State} (h : SameButBallast s t) (h' : SameButBallast t u) : SameButBallast s u := by
  unfold SameButBallast at *
  rw [h', h]

theorem ballastFields_inBallast : ∀ f ∈ ballastFields ++ rtcFields ++ [R.RS_BAL_STATUS_VBAT_LOST, R.RS_BAL_STATUS_RTC_VALID],
    8 * 0x200100 ≤ f.key ∧ f.key < 8 * 0x200160 := by decide

/-- What moves items of the Ballast only leaves every field outside it. -/
theorem OnlyRegs.outside_ballast {fs : List Fld} {s t : State} (h : OnlyRegs fs s t)
    (hfs : ∀ f ∈ fs, f ∈ ballastFields ++ rtcFields ++ [R.RS_BAL_STATUS_VBAT_LOST, R.RS_BAL_STATUS_RTC_VALID]) (f : Fld)
    (hf : f.key < 8 * 0x200100 ∨ 8 * 0x200160 ≤ f.key) : t.rd f = s.rd f :=
  h f fun g hg => by have := ballastFields_inBallast g (hfs g hg); omega

theorem State.foldl_wrFree_frame : ∀ (fs : List Fld) (s : State), SameButBallast s (fs.foldl State.wrFree s) ∧
    (fs.foldl State.wrFree s).power = s.power ∧ OnlyRegs fs s (fs.foldl State.wrFree s)
  | [], s => ⟨rfl, rfl, .refl s _⟩
  | f :: fs, s => by
    obtain ⟨hframe, hpower, honly⟩ := State.foldl_wrFree_frame fs (s.wrFree f)
    have hself : SameButBallast s (s.wrFree f) := rfl
    have hf : OnlyRegs (f :: fs) s (s.wrFree f) := ((OnlyRegs.refl s _).wr (by simp) _).of_regs rfl
    exact ⟨hself.trans hframe, hpower, hf.trans (honly.mono fun _ h => List.mem_cons_of_mem _ h)⟩

/-- The state in which nothing keeps the items `fs`, nor the RTC. -/
def State.itemsLost (s : State) (fs : List Fld) : State :=
  { ((fs.foldl State.wrFree s).setRtc (fs.foldl State.wrFree s).freeNow).nextFree with
    power := { ((fs.foldl State.wrFree s).setRtc (fs.foldl State.wrFree s).freeNow).nextFree.power with vbat := false } }

theorem State.itemsLost_frame (s : State) (fs : List Fld) : SameButBallast s (s.itemsLost fs) ∧ OnlyRegs (fs ++ rtcFields) s (s.itemsLost fs) := by
  obtain ⟨hframe, -, honly⟩ := State.foldl_wrFree_frame fs s
  have hset := (fs.foldl State.wrFree s).setRtc_onlyRegs (fs.foldl State.wrFree s).freeNow
  exact ⟨hframe.trans rfl, ((honly.mono fun _ hf => List.mem_append_left _ hf).trans
    (hset.mono fun _ hf => List.mem_append_right _ hf)).of_regs rfl⟩

theorem exec_vbatLoss {s : State} (h : s.power.vbat = true) : exec .vbatLoss s = .next (s.itemsLost ballastFields) := if_pos h

theorem vbatLoss_loses {s : State} (h : s.power.vbat = true) : ∃ t, exec .vbatLoss s = .next t ∧ t.power.vbat = false ∧ t.hold = s.hold ∧
    (∀ f : Fld, f.key < 8 * 0x200100 ∨ 8 * 0x200160 ≤ f.key → t.rd f = s.rd f) ∧ t = { s with regs := t.regs, power := t.power, free := t.free } := by
  obtain ⟨hframe, honly⟩ := s.itemsLost_frame ballastFields
  refine ⟨_, exec_vbatLoss h, rfl, ?_, fun f hf => honly.outside_ballast (fun _ hf => List.mem_append_left _ hf) f hf, hframe⟩
  rw [hframe]

theorem State.foldl_clear_frame : ∀ (fs : List Fld) (s : State), SameButRegs s (fs.foldl (fun (t : State) f => t.wr f 0) s) ∧
    OnlyRegs fs s (fs.foldl (fun (t : State) f => t.wr f 0) s)
  | [], s => ⟨rfl, .refl s _⟩
  | f :: fs, s => by
    obtain ⟨hframe, honly⟩ := State.foldl_clear_frame fs (s.wr f 0)
    have hf : OnlyRegs (f :: fs) s (s.wr f 0) := (OnlyRegs.refl s _).wr (by simp) _
    exact ⟨((SameButRegs.refl s).wr _ _).trans hframe, hf.trans (honly.mono fun _ h => List.mem_cons_of_mem _ h)⟩

/-- A field that a pass clears reads 0, though others of the pass lie at other places. -/
theorem State.rd_foldl_clear {f : Fld} : ∀ (fs : List Fld) (s : State), f ∈ fs → (∀ g ∈ fs, g.key = f.key → g = f) →
    (fs.foldl (fun (t : State) f => t.wr f 0) s).rd f = 0
  | [], _, h, _ => absurd h List.not_mem_nil
  | g :: fs, s, h, hkey => by
    by_cases hin : f ∈ fs
    · exact State.rd_foldl_clear fs _ hin fun k hk => hkey k (List.mem_cons_of_mem _ hk)
    · obtain rfl : f = g := (List.mem_cons.mp h).resolve_right hin
      have hother : ∀ k ∈ fs, k.key ≠ f.key := fun k hk he => hin (hkey k (List.mem_cons_of_mem _ hk) he ▸ hk)
      rw [List.foldl_cons, (State.foldl_clear_frame fs _).2 f hother, State.rd_wr_same]
      exact Nat.zero_mod _

theorem ballastFields_key : ∀ f ∈ ballastFields, ∀ g ∈ ballastFields, g.key = f.key → g = f := by decide

/-- The state in which the items `fs` and the RTC are 0. -/
def State.itemsCleared (s : State) (fs : List Fld) : State := (fs.foldl (fun (t : State) f => t.wr f 0) s).setRtc 0

/-- The fields of the Ballast's items that VBAT's return sets to what is known. -/
def returnFields : List Fld := [R.RS_BAL_SEALCNT_COUNT, R.RS_BAL_STATUS_VBAT_LOST, R.RS_BAL_STATUS_RTC_VALID]

/-- The state in which SEALCNT, the loss of VBAT and the RTC's validity are set too. -/
def State.itemsReturned (s : State) (fs : List Fld) : State :=
  (((s.itemsCleared fs).wr R.RS_BAL_SEALCNT_COUNT s.life.mirror.1).wr R.RS_BAL_STATUS_VBAT_LOST 1).wr R.RS_BAL_STATUS_RTC_VALID 0

/-- VBAT is back, in the state that the items `fs` then have. -/
def State.vbatBack (s : State) (fs : List Fld) : State :=
  { s.itemsReturned fs with
    power := { (s.itemsReturned fs).power with vbat := true }, life := { (s.itemsReturned fs).life with sealed := s.life.mirror.2 } }

section Return
variable (s : State) (fs : List Fld)

theorem State.rd_vbatBack (f : Fld) : (s.vbatBack fs).rd f = (s.itemsReturned fs).rd f := rfl

theorem State.itemsReturned_of_cleared : OnlyRegs returnFields (s.itemsCleared fs) (s.itemsReturned fs) :=
  (((OnlyRegs.refl _ _).wr (by simp [returnFields]) _).wr (by simp [returnFields]) _).wr (by simp [returnFields]) _

theorem State.itemsCleared_onlyRegs : OnlyRegs (fs ++ rtcFields) s (s.itemsCleared fs) := by
  have hclear := (State.foldl_clear_frame fs s).2
  exact (hclear.mono fun _ hf => List.mem_append_left _ hf).trans ((State.setRtc_onlyRegs _ 0).mono fun _ hf => List.mem_append_right _ hf)

theorem State.vbatBack_onlyRegs : OnlyRegs (fs ++ rtcFields ++ returnFields) s (s.vbatBack fs) :=
  (((s.itemsCleared_onlyRegs fs).mono fun _ h => List.mem_append_left _ h).trans
    ((s.itemsReturned_of_cleared fs).mono fun _ h => List.mem_append_right _ h)).of_regs rfl

theorem State.rd_vbatBack_zero {f : Fld} (hf : f ∈ fs) (hkey : ∀ g ∈ fs, g.key = f.key → g = f)
    (hne : ∀ g ∈ rtcFields ++ returnFields, g.key ≠ f.key) : (s.vbatBack fs).rd f = 0 := by
  rw [State.rd_vbatBack, s.itemsReturned_of_cleared fs f fun g hg => hne g (List.mem_append_right _ hg), State.itemsCleared,
    State.setRtc_onlyRegs _ 0 f fun g hg => hne g (List.mem_append_left _ hg)]
  exact State.rd_foldl_clear fs s hf hkey

theorem State.rd_vbatBack_sealcnt : (s.vbatBack fs).rd R.RS_BAL_SEALCNT_COUNT = low 32 s.life.mirror.1 := by
  rw [State.rd_vbatBack, State.itemsReturned, State.rd_wr_other _ _ (by decide), State.rd_wr_other _ _ (by decide), State.rd_wr_same]
  rfl

theorem State.rd_vbatBack_lost : (s.vbatBack fs).rd R.RS_BAL_STATUS_VBAT_LOST = 1 := by
  rw [State.rd_vbatBack, State.itemsReturned, State.rd_wr_other _ _ (by decide), State.rd_wr_same]
  rfl

theorem State.rd_vbatBack_valid : (s.vbatBack fs).rd R.RS_BAL_STATUS_RTC_VALID = 0 :=
  (s.rd_vbatBack fs _).trans (State.rd_wr_same ..)

theorem State.itemsReturned_frame :
    s.itemsReturned fs = { s with regs := (s.itemsReturned fs).regs, power := { s.power with rtcAt := s.now } } := by
  have hclear := (State.foldl_clear_frame fs s).1
  rw [SameButRegs] at hclear
  rw [State.itemsReturned, State.itemsCleared, hclear]
  rfl

theorem State.vbatBack_frame : s.vbatBack fs = { s with regs := (s.vbatBack fs).regs, power := (s.vbatBack fs).power, life := (s.vbatBack fs).life } := by
  rw [State.vbatBack, s.itemsReturned_frame fs]

theorem State.vbatBack_rtc : (s.vbatBack fs).rtc = 0 := by
  have hframe := s.itemsReturned_frame fs
  have hclear := (State.foldl_clear_frame fs s).1
  rw [SameButRegs] at hclear
  refine State.rtc_of_set (s := fs.foldl (fun (t : State) f => t.wr f 0) s) (v := 0) (fun f hf => ?_) ?_ ?_
  · exact s.itemsReturned_of_cleared fs f (by revert f; decide)
  · show (s.itemsReturned fs).now = _
    rw [hframe, hclear]
  · show (s.itemsReturned fs).power.rtcAt = _
    rw [hframe, hclear]

end Return

theorem exec_vbatReturn {s : State} (h : s.power.vbat = false) : exec .vbatReturn s = .next (s.vbatBack ballastFields) := if_neg (by simp [h])

theorem vbatFields_inBallast : ∀ f ∈ ballastFields ++ rtcFields ++ returnFields,
    f ∈ ballastFields ++ rtcFields ++ [R.RS_BAL_STATUS_VBAT_LOST, R.RS_BAL_STATUS_RTC_VALID] := by decide

theorem resetCounts_mem : ∀ k < 16, R.RS_BAL_CNT_s_COUNT k ∈ ballastFields ∧ ∀ g ∈ rtcFields ++ returnFields, g.key ≠ (R.RS_BAL_CNT_s_COUNT k).key := by
  decide

theorem vbatReturn_restores {s : State} (h : s.power.vbat = false) : ∃ t, exec .vbatReturn s = .next t ∧ t.power.vbat = true ∧
    (∀ k, k < 16 → t.rd (R.RS_BAL_CNT_s_COUNT k) = 0) ∧ t.rd R.RS_BAL_CAUSE_LEVEL = 0 ∧ t.rd R.RS_BAL_CAUSE_SRC = 0 ∧
    t.rd R.RS_BAL_TRIM_ABORT_COUNT = 0 ∧ t.rd R.RS_BAL_SEALCNT_COUNT = low 32 s.life.mirror.1 ∧ t.life.sealed = s.life.mirror.2 ∧
    t.rd R.RS_BAL_STATUS_VBAT_LOST = 1 ∧ t.rd R.RS_BAL_STATUS_RTC_VALID = 0 ∧ t.rtc = 0 ∧
    (∀ f : Fld, f.key < 8 * 0x200100 ∨ 8 * 0x200160 ≤ f.key → t.rd f = s.rd f) ∧ t = { s with regs := t.regs, power := t.power, life := t.life } := by
  have hzero : ∀ f ∈ ballastFields, (∀ g ∈ rtcFields ++ returnFields, g.key ≠ f.key) → (s.vbatBack ballastFields).rd f = 0 := fun f hf hne =>
    s.rd_vbatBack_zero ballastFields hf (ballastFields_key f hf) hne
  exact ⟨_, exec_vbatReturn h, rfl, fun k hk => hzero _ (resetCounts_mem k hk).1 (resetCounts_mem k hk).2, hzero _ (by decide) (by decide),
    hzero _ (by decide) (by decide), hzero _ (by decide) (by decide), s.rd_vbatBack_sealcnt _, rfl, s.rd_vbatBack_lost _,
    s.rd_vbatBack_valid _, s.vbatBack_rtc _, (s.vbatBack_onlyRegs _).outside_ballast vbatFields_inBallast, s.vbatBack_frame _⟩

/-- Settles O49, command by command. -/
theorem watchdogPowerAndBallast : Obligations.WatchdogPowerAndBallast := by
  intro s
  refine ⟨fun hs hfree v per hper => ?_, fun hs hfree key => ⟨fun hk hen => exec_watchdogKick hs hfree hk hen, exec_watchdogKick_of_wrong hs⟩,
    fun hs w hw => ⟨watchdogExpire_resets hs hw, fun hout => by rw [exec_watchdogExpire hs hw, if_neg (Nat.not_lt.mpr hout)]⟩,
    fun hs d on => ⟨fun h => ?_, fun hlo hhi h => ?_, powerRequest_waits hs d on⟩, pinHoldRelease_ends, exec_rtcLoWrite,
    fun hs v => ⟨fun hroom => ?_, ballastPush_discards (exec_rtcHiWrite hs v)⟩, fun h => ⟨?_, vbatLoss_loses h⟩,
    fun h => ⟨?_, vbatReturn_restores h⟩⟩
  · subst hper
    exact ⟨watchdogCfgWrite_starts hs hfree v, watchdogCfgWrite_stops hs hfree v, watchdogCfgWrite_keeps_period hs hfree v⟩
  · exact powerRequest_refused d on (by decide) (exec_powerRequest_of_range hs d on h)
  · exact powerRequest_refused d on (by decide) (exec_powerRequest_of_busy hs d on hlo hhi h)
  · rw [exec_rtcHiWrite hs v, State.ballastPush_of_room hroom]
  · show execVbatReturn s = _
    exact if_pos h
  · show execVbatLoss s = _
    exact if_neg (by simp [h])

end Sys2Proof.Machine
end

section
/-! SUPPORT. Links that retrain and PLLs that lose lock (R15, R16, R23): statements O9 and O10. -/

namespace Sys2Proof.Machine

/-! The time a source was down. -/

theorem State.gapMeets_openGap (s : State) (src a : Nat) {b : Nat} (h : s.now < b) : (s.openGap src).gapMeets src a b = true := by
  rw [State.gapMeets, State.openGap]
  simp [h]

theorem State.closeGap_closes (s : State) (src : Nat) : ∀ g ∈ Tab.get [] (s.closeGap src).gaps src, g.2 ≠ none := by
  intro g hg
  rw [State.closeGap, Tab.get_put_same] at hg
  obtain ⟨g', -, rfl⟩ := List.mem_map.mp hg
  exact Option.some_ne_none _

/-! The launches in flight on a quay are lost. -/

/-- The quay whose launches in flight are lost. -/
def Quay.flightsLost (q : Quay) : Quay :=
  { q with fates := q.fates.map (fun f => if q.flights.any (fun g => g.slot == f.slot && g.start == f.start) then { f with lost := true } else f) }

/-- Of the launches in flight on `q`, every fate that quay `p` notes is lost. -/
def Quay.loses (p q : Quay) : Prop := ∀ f ∈ p.fates, ∀ g ∈ q.flights, g.slot = f.slot → g.start = f.start → f.lost = true

theorem Quay.flightsLost_loses (q : Quay) : q.flightsLost.loses q := by
  intro f hf g hg hslot hstart
  obtain ⟨f', -, rfl⟩ := List.mem_map.mp hf
  split at hslot
  · next h => rw [if_pos h]
  · next h =>
    rw [if_neg h] at hstart
    exact absurd (List.any_eq_true.mpr ⟨g, hg, by simp [hslot, hstart]⟩) h

theorem State.loseFlights_eq (s : State) (n : Nat) : s.loseFlights n = s.setQuay n (s.quay n).flightsLost := rfl

/-- Nothing but the quays differs. -/
def SameButFlights (s t : State) : Prop := t = { s with quays := t.quays }

theorem SameButFlights.trans {s t u : State} (h : SameButFlights s t) (h' : SameButFlights t u) : SameButFlights s u := by
  unfold SameButFlights at *
  rw [h', h]

theorem State.loseFlights_below (s : State) : ∀ m : Nat, SameButFlights s ((List.range m).foldl State.loseFlights s) ∧
    ∀ n, ((List.range m).foldl State.loseFlights s).quay n = if n < m then (s.quay n).flightsLost else s.quay n
  | 0 => ⟨rfl, fun _ => rfl⟩
  | m + 1 => by
    obtain ⟨hframe, hquay⟩ := s.loseFlights_below m
    rw [List.range_succ, List.foldl_append, List.foldl_cons, List.foldl_nil]
    obtain ⟨u, hu⟩ : ∃ u, u = (List.range m).foldl State.loseFlights s := ⟨_, rfl⟩
    rw [← hu] at hframe hquay ⊢
    have hself : SameButFlights u (u.loseFlights m) := rfl
    refine ⟨hframe.trans hself, fun n => ?_⟩
    rw [State.loseFlights_eq]
    by_cases hn : n = m
    · rw [hn, State.quay_setQuay_same, hquay, if_neg (Nat.lt_irrefl m), if_pos (Nat.lt_succ_self m)]
    · rw [State.quay_setQuay_other _ _ hn, hquay]
      exact if_congr (by omega) rfl rfl

/-! A PLL loses lock (R23). -/

/-- The state in which PLL `pll` is out of lock and noted as lost. -/
def State.pllNoted (s : State) (pll : Nat) : State :=
  ({ (s.wrBit R.HB_CLK_STATUS_LOCK pll false).wr R.HB_CLK_STATUS_CLK_FAULT 1 with pllLost := withBit s.pllLost pll true } : State).openGap (16 + pll)

/-- The launches in flight are lost with the core or the sampling PLL. -/
def State.launchesWithPll (s : State) (pll : Nat) : State := if pll = 0 ∨ pll = 5 then s.loseAllFlights else s

/-- What the lanes gather is lost with the core PLL. -/
def State.tallyWithPll (s : State) (pll : Nat) : State := if pll = 0 then s.loseTally else s

/-- The state in which PLL `pll` has lost lock, before the event is recorded. -/
def State.pllOut (s : State) (pll : Nat) : State := ((s.pllNoted pll).launchesWithPll pll).tallyWithPll pll

section PllOut
variable (s : State) (pll : Nat)

theorem State.launchesWithPll_frame : SameButFlights s (s.launchesWithPll pll) := by
  unfold State.launchesWithPll
  split
  · exact (s.loseFlights_below 8).1
  · rfl

theorem State.launchesWithPll_loses (h : pll = 0 ∨ pll = 5) {n : Nat} (hn : n < 8) : ((s.launchesWithPll pll).quay n).loses (s.quay n) := by
  have hquay := (s.loseFlights_below 8).2 n
  rw [if_pos hn] at hquay
  rw [State.launchesWithPll, if_pos h, State.loseAllFlights, hquay]
  exact Quay.flightsLost_loses _

theorem State.tallyWithPll_frame : s.tallyWithPll pll = { s with lanes := (s.tallyWithPll pll).lanes } := by
  unfold State.tallyWithPll
  split <;> rfl

theorem State.loseTally_loses : ∀ e ∈ s.loseTally.lanes, e.2.stat.lost = true ∧ e.2.gate.lost = true ∧ e.2.frame.lost = true := by
  intro e he
  obtain ⟨e', -, rfl⟩ := List.mem_map.mp he
  exact ⟨rfl, rfl, rfl⟩

/-- The loss leaves what neither the quays nor the lanes hold as it was noted. -/
theorem State.pllOut_noted : s.pllOut pll = { s.pllNoted pll with quays := (s.pllOut pll).quays, lanes := (s.pllOut pll).lanes } := by
  have hl := (s.pllNoted pll).launchesWithPll_frame pll
  have ht := ((s.pllNoted pll).launchesWithPll pll).tallyWithPll_frame pll
  obtain ⟨u, hu⟩ : ∃ u, u = (s.pllNoted pll).launchesWithPll pll := ⟨_, rfl⟩
  rw [SameButFlights, ← hu] at hl
  rw [← hu] at ht
  rw [State.pllOut, ← hu, ht, hl]

theorem State.pllOut_lanes : (s.pllOut pll).lanes = if pll = 0 then s.loseTally.lanes else s.lanes := by
  have hl := (s.pllNoted pll).launchesWithPll_frame pll
  rw [SameButFlights] at hl
  rw [State.pllOut, hl, State.tallyWithPll]
  split <;> rfl

theorem State.pllOut_quays : (s.pllOut pll).quays = ((s.pllNoted pll).launchesWithPll pll).quays := by
  rw [State.pllOut, State.tallyWithPll_frame]

theorem State.pllOut_loses (h : pll = 0 ∨ pll = 5) {n : Nat} (hn : n < 8) : ((s.pllOut pll).quay n).loses (s.quay n) := by
  have hloses := (s.pllNoted pll).launchesWithPll_loses pll h hn
  rwa [State.quay, ← s.pllOut_quays pll] at hloses

theorem State.pllOut_rd (f : Fld) : (s.pllOut pll).rd f = ((s.wrBit R.HB_CLK_STATUS_LOCK pll false).wr R.HB_CLK_STATUS_CLK_FAULT 1).rd f := by
  rw [State.pllOut_noted]
  rfl

theorem State.pllOut_onlyRegs : OnlyRegs [R.HB_CLK_STATUS_LOCK, R.HB_CLK_STATUS_CLK_FAULT] s (s.pllOut pll) := fun f hf =>
  (s.pllOut_rd pll f).trans ((((OnlyRegs.refl s _).wrBit (by simp) _ _).wr (by simp) _) f hf)

theorem State.pllOut_rd_lock : (s.pllOut pll).rd R.HB_CLK_STATUS_LOCK = (s.wrBit R.HB_CLK_STATUS_LOCK pll false).rd R.HB_CLK_STATUS_LOCK :=
  (s.pllOut_rd pll _).trans (State.rd_wr_other _ _ (by decide))

end PllOut

/-- While the queue has room and none was dropped, an event joins its end. -/
theorem State.event_of_room {s : State} (hroom : s.signQ.length < 255) (hlost : s.evtLost = (0, 0, 0)) (code point : Nat) (args : List Nat) :
    s.event code point args = { s with signQ := s.signQ ++ [{ type := 2, code := code, point := point, origin := s.now, args := args }] } := by
  unfold State.event
  simp only [hlost, if_true]
  rw [if_pos (by omega)]

section Pll
variable {s : State} (hs : s.runs) (pll : Fin 7)
include hs

theorem exec_pllLockLoss_of_lost (h : bit s.pllLost pll = true) : exec (.pllLockLoss pll) s = .next s := by
  show execPllLockLoss pll s = _
  rw [execPllLockLoss, State.live_runs hs, if_pos h]
  rfl

theorem exec_pllLockLoss (h : bit s.pllLost pll = false) :
    exec (.pllLockLoss pll) s = .next ((s.pllOut pll).event 0x54 255 [(s.pllOut pll).rd R.HB_CLK_STATUS_LOCK]) := by
  show execPllLockLoss pll s = _
  rw [execPllLockLoss, State.live_runs hs, if_neg (by simp [h])]
  rfl

theorem exec_pllLockRegain : exec (.pllLockRegain pll) s =
    .next (({ (s.wrBit R.HB_CLK_STATUS_LOCK pll true) with pllLost := withBit s.pllLost pll false } : State).closeGap (16 + pll)) := by
  show execPllLockRegain pll s = _
  rw [execPllLockRegain, State.live_runs hs]
  rfl

end Pll

/-- Settles O10: the loss is noted in the clock status and the gaps, takes the launches and lanes of its domain with it, and is recorded. -/
theorem pllLossAndRegain : Obligations.PllLossAndRegain := by
  intro pll s hs
  refine ⟨exec_pllLockLoss_of_lost hs pll, fun hbit hroom hlost => ?_,
    ⟨_, exec_pllLockRegain hs pll, s.bit_wrBit_same _ pll.isLt, bit_withBit_same .., State.closeGap_closes _ _,
      ((OnlyRegs.refl s _).wrBit (by simp) _ _).of_regs rfl, rfl⟩⟩
  have hexec := exec_pllLockLoss hs pll hbit
  have hnoted := s.pllOut_noted pll
  have hlock := s.pllOut_rd_lock pll
  have hfault : (s.pllOut pll).rd R.HB_CLK_STATUS_CLK_FAULT = 1 := (s.pllOut_rd pll _).trans (State.rd_wr_same ..)
  have honly := s.pllOut_onlyRegs pll
  have hlanes := s.pllOut_lanes pll
  have hquays := s.pllOut_quays pll
  have hloses := fun h n (hn : n < 8) => s.pllOut_loses pll h hn
  obtain ⟨u, hu⟩ : ∃ u, u = s.pllOut pll := ⟨_, rfl⟩
  rw [← hu] at hexec hnoted hlock hfault honly hlanes hquays hloses
  have hsignQ : u.signQ = s.signQ := by rw [hnoted]; rfl
  rw [State.event_of_room (by rwa [hsignQ]) (by rw [hnoted]; exact hlost)] at hexec
  refine ⟨_, hexec, ?_, hfault, ?_, fun k hk hne => ?_, ⟨_, congrArg (· ++ _) hsignQ, rfl, by rw [hnoted]; rfl, rfl⟩, fun a b hb => ?_,
    fun h0 => ?_, fun h0 => ?_, hloses, fun h0 h5 => ?_, honly.of_regs rfl, ?_⟩
  · exact hlock ▸ s.bit_wrBit_same false pll.isLt
  · rw [hnoted]
    exact bit_withBit_same ..
  · exact hlock ▸ s.bit_wrBit_other false hk hne
  · rw [hnoted]
    exact State.gapMeets_openGap _ _ a hb
  · rw [if_pos h0] at hlanes
    exact hlanes ▸ s.loseTally_loses
  · exact hlanes.trans (if_neg h0)
  · refine hquays.trans ?_
    rw [State.launchesWithPll, if_neg (by omega)]
    rfl
  · rw [hnoted]
    rfl

end Sys2Proof.Machine
end

section
/-! SUPPORT. A link's mismatches, its retrain and its return (R15, R16): statement O9. -/

namespace Sys2Proof.Machine

@[simp] theorem State.link_setLink_same (s : State) (n : Nat) (l : Link) : (s.setLink n l).link n = l := Tab.get_put_same ..

theorem State.link_setLink_other (s : State) {n k : Nat} (l : Link) (h : k ≠ n) : (s.setLink n l).link k = s.link k :=
  Tab.get_put_other _ _ _ _ (Ne.symm h)

/-! What was written at a key is gone once the key is cleared. -/

theorem Tab.erase_insert {α : Type} (k : Nat) (v : α) : ∀ t : Tab α, Tab.erase (Tab.insert t k v) k = Tab.erase t k
  | [] => by simp [Tab.insert, Tab.erase]
  | (i, w) :: t => by
    have ih := Tab.erase_insert k v t
    unfold Tab.erase at ih ⊢
    unfold Tab.insert
    by_cases h : i = k
    · simp [h]
    · by_cases hlt : k < i <;> simp [h, hlt, ih]

theorem Tab.put_put_default {α : Type} [DecidableEq α] (d : α) (t : Tab α) (k : Nat) (v : α) : Tab.put d (Tab.put d t k v) k d = Tab.put d t k d := by
  rw [Tab.put, if_pos rfl, Tab.put, Tab.put, if_pos rfl]
  split
  · simp [Tab.erase]
  · exact Tab.erase_insert k v t

/-! The samples that a quay has sent (R67). -/

/-- The fields that record a DAC code that clamps. -/
def clampFields (n : Nat) : List Fld := [R.QY_STATUS_DAC_CLAMP n, R.QY_CLAMP_CNT_COUNT n]

/-- Nothing but register fields and quays differs. -/
def SameButQuayFlights (s t : State) : Prop := t = { s with regs := t.regs, quays := t.quays }

/-- Nothing but register fields, links, their gaps and quays differs. -/
def SameButLinks (s t : State) : Prop := t = { s with regs := t.regs, links := t.links, gaps := t.gaps, quays := t.quays }

section Frames
variable {s t u : State}

theorem SameButQuayFlights.trans (h : SameButQuayFlights s t) (h' : SameButQuayFlights t u) : SameButQuayFlights s u := by
  unfold SameButQuayFlights at *
  rw [h', h]

theorem State.setQuay_sameButQuayFlights (s : State) (n : Nat) (q : Quay) : SameButQuayFlights s (s.setQuay n q) := rfl

theorem SameButLinks.trans (h : SameButLinks s t) (h' : SameButLinks t u) : SameButLinks s u := by
  unfold SameButLinks at *
  rw [h', h]

theorem SameButQuayFlights.sameButLinks (h : SameButQuayFlights s t) : SameButLinks s t := by
  unfold SameButQuayFlights SameButLinks at *
  rw [h]

theorem SameButRegs.sameButLinks (h : SameButRegs s t) : SameButLinks s t := by
  unfold SameButRegs SameButLinks at *
  rw [h]

theorem State.setLink_sameButLinks (s : State) (n : Nat) (l : Link) : SameButLinks s (s.setLink n l) := rfl

theorem State.openGap_sameButLinks (s : State) (n : Nat) : SameButLinks s (s.openGap n) := rfl

theorem State.closeGap_sameButLinks (s : State) (n : Nat) : SameButLinks s (s.closeGap n) := rfl

end Frames

section RunDac
variable (s : State) (n h : Nat)

theorem State.runDac_frame : SameButQuayFlights s (s.runDac n h) := by
  unfold State.runDac
  extract_lets q s1 c
  split
  · rfl
  · split <;> rfl

theorem State.runDac_onlyRegs : OnlyRegs (clampFields n) s (s.runDac n h) := by
  unfold State.runDac
  extract_lets q s1 c
  have h1 : OnlyRegs (clampFields n) s s1 := (OnlyRegs.refl s _).of_regs rfl
  exact .ite h1 (.ite h1 ((h1.wr (by simp [clampFields]) _).wr (by simp [clampFields]) _))

theorem State.runDac_quays : (s.runDac n h).quays = (s.setQuay n { s.quay n with dacAt := max (s.quay n).dacAt h }).quays := by
  unfold State.runDac
  extract_lets q s1 c
  split
  · rfl
  · split <;> rfl

theorem State.quay_runDac_same : (s.runDac n h).quay n = { s.quay n with dacAt := max (s.quay n).dacAt h } := by
  rw [State.quay, State.runDac_quays]
  exact s.quay_setQuay_same n _

theorem State.quay_runDac_other {k : Nat} (hk : k ≠ n) : (s.runDac n h).quay k = s.quay k := by
  rw [State.quay, State.runDac_quays]
  exact s.quay_setQuay_other _ hk

/-- What a quay has sent does not depend on the state of a link. -/
theorem State.runDac_setLink (link : Nat) (l : Link) : (s.setLink link l).runDac n h = (s.runDac n h).setLink link l := by
  unfold State.runDac
  extract_lets q s1 c q' s1' c'
  have hc : c = c' := rfl
  have hq : q = q' := rfl
  rw [hc, hq]
  split
  · rfl
  · split <;> rfl

end RunDac

/-! A mismatch. -/

/-- How often in succession a flit has failed, with this mismatch. -/
def Link.failed (l : Link) (flit : Nat) : Nat := if l.flit = flit ∧ 0 < l.fails then l.fails + 1 else 1

theorem exec_flitCrcMismatch {s : State} (hs : s.runs) (link : Fin 10) (flit : Nat) : exec (.flitCrcMismatch link flit) s =
    .next ((s.inc (R.HB_LINK_CNT_n_REPLAYS link)).setLink link { s.link link with flit := flit, fails := (s.link link).failed flit }) := by
  show execFlitCrcMismatch link flit s = _
  rw [execFlitCrcMismatch, State.live_runs hs]
  rfl

/-! A retrain begins. -/

/-- The launches in flight on the quay behind `link` are cut short; a link to no quay carries none. -/
def State.linkCut (s : State) (link : Nat) : State := if link < 8 then (s.runDac link (2 * s.now)).loseFlights link else s

/-- The fields of the clamp of the quay behind `link`. -/
def linkClampFields (link : Nat) : List Fld := if link < 8 then clampFields link else []

section Cut
variable (s : State) (link : Nat)

theorem State.linkCut_frame : SameButQuayFlights s (s.linkCut link) := by
  unfold State.linkCut
  split
  · exact (s.runDac_frame ..).trans (State.setQuay_sameButQuayFlights _ _ _)
  · rfl

theorem State.linkCut_onlyRegs : OnlyRegs (linkClampFields link) s (s.linkCut link) := by
  unfold State.linkCut linkClampFields
  split
  · exact (s.runDac_onlyRegs link _).of_regs rfl
  · exact .refl s _

theorem State.quay_linkCut_other {k : Nat} (hk : k ≠ link) : (s.linkCut link).quay k = s.quay k := by
  unfold State.linkCut
  split
  · rw [State.loseFlights_eq, State.quay_setQuay_other _ _ hk, State.quay_runDac_other _ _ _ hk]
  · rfl

theorem State.quay_linkCut_same (h : link < 8) :
    (s.linkCut link).quay link = { s.quay link with dacAt := max (s.quay link).dacAt (2 * s.now) }.flightsLost := by
  rw [State.linkCut, if_pos h, State.loseFlights_eq, State.quay_setQuay_same, State.quay_runDac_same]

/-- The link is down and its retrain is counted. -/
def State.linkDown (s : State) (link : Nat) (l : Link) : State :=
  ((((s.wrBit R.HB_LINK_STATUS_UP link false).wrBit R.HB_LINK_STATUS_RETRAINED link true).inc
    (R.HB_LINK_CNT_n_RETRAINS link)).setLink link l).openGap link

end Cut

theorem exec_linkRetrain {s : State} (hs : s.runs) {link : Fin 10} (h8 : 8 ≤ (s.link link).fails) (hre : (s.link link).retraining = false) :
    exec (.linkRetrain link) s = .next ((s.linkCut link).linkDown link { s.link link with retraining := true }) := by
  show execLinkRetrain link s = _
  rw [execLinkRetrain, State.live_runs hs]
  dsimp only
  rw [if_neg (by simp [hre, h8])]
  rfl

theorem exec_linkRetrain_of_no {s : State} (hs : s.runs) {link : Fin 10} (h : (s.link link).fails < 8 ∨ (s.link link).retraining = true) :
    exec (.linkRetrain link) s = .next s := by
  show execLinkRetrain link s = _
  rw [execLinkRetrain, State.live_runs hs]
  exact if_pos h

/-- The fields of a link's status and its count of retrains. -/
def downFields (link : Nat) : List Fld := [R.HB_LINK_STATUS_UP, R.HB_LINK_STATUS_RETRAINED, R.HB_LINK_CNT_n_RETRAINS link]

/-- The links' counts lie below the quays' registers. -/
theorem clampFields_key {n : Nat} {f : Fld} (hf : f.key < 8 * 0x400000) : ∀ g ∈ linkClampFields n, g.key ≠ f.key := by
  intro g hg
  unfold linkClampFields at hg
  split at hg
  · simp only [clampFields, R.QY_STATUS_DAC_CLAMP, R.QY_CLAMP_CNT_COUNT, List.mem_cons, List.not_mem_nil, or_false] at hg
    rcases hg with rfl | rfl <;> dsimp only <;> omega
  · simp at hg

section Down
variable (s : State) (link : Fin 10)

theorem retrains_key : (R.HB_LINK_STATUS_UP.key ≠ (R.HB_LINK_CNT_n_RETRAINS link).key ∧
    R.HB_LINK_STATUS_RETRAINED.key ≠ (R.HB_LINK_CNT_n_RETRAINS link).key) ∧ (R.HB_LINK_CNT_n_RETRAINS link).key < 8 * 0x400000 := by
  simp only [R.HB_LINK_STATUS_UP, R.HB_LINK_STATUS_RETRAINED, R.HB_LINK_CNT_n_RETRAINS]
  omega

theorem State.rd_linkDown (l : Link) (f : Fld) : (s.linkDown link l).rd f =
    (((s.wrBit R.HB_LINK_STATUS_UP link false).wrBit R.HB_LINK_STATUS_RETRAINED link true).inc (R.HB_LINK_CNT_n_RETRAINS link)).rd f :=
  State.rd_congr rfl f

theorem State.rd_linkDown_up (l : Link) : bit ((s.linkDown link l).rd R.HB_LINK_STATUS_UP) link = false := by
  rw [State.rd_linkDown, State.rd_inc_other _ (Ne.symm (retrains_key link).1.1), State.rd_wrBit_other _ _ _ (by decide)]
  exact s.bit_wrBit_same false link.isLt

theorem State.rd_linkDown_retrained (l : Link) : bit ((s.linkDown link l).rd R.HB_LINK_STATUS_RETRAINED) link = true := by
  rw [State.rd_linkDown, State.rd_inc_other _ (Ne.symm (retrains_key link).1.2)]
  exact State.bit_wrBit_same _ true link.isLt

theorem State.rd_linkDown_retrains (l : Link) :
    (s.linkDown link l).rd (R.HB_LINK_CNT_n_RETRAINS link) = satAdd 16 (s.rd (R.HB_LINK_CNT_n_RETRAINS link)) 1 := by
  obtain ⟨⟨hup, hre⟩, -⟩ := retrains_key link
  rw [State.rd_linkDown, State.rd_inc_same, State.rd_wrBit_other _ _ _ hre, State.rd_wrBit_other _ _ _ hup]
  exact low_satAdd

theorem State.linkDown_onlyRegs (l : Link) : OnlyRegs (downFields link) s (s.linkDown link l) := by
  have hup : OnlyRegs (downFields link) s (s.wrBit R.HB_LINK_STATUS_UP link false) := (OnlyRegs.refl s _).wrBit (by simp [downFields]) _ _
  have hre := hup.wrBit (f := R.HB_LINK_STATUS_RETRAINED) (by simp [downFields]) link true
  exact (hre.wr (f := R.HB_LINK_CNT_n_RETRAINS link) (by simp [downFields]) _).of_regs rfl

theorem State.linkDown_frame (l : Link) : SameButLinks s (s.linkDown link l) :=
  ((((((SameButRegs.refl s).wr _ _).wr _ _).wr _ _).sameButLinks).trans (State.setLink_sameButLinks _ _ _)).trans (State.openGap_sameButLinks _ _)

end Down

/-! The link is back. -/

/-- What the quay behind `link` has sent, before the link is up again. -/
def State.linkSent (s : State) (link : Nat) : State := if link < 8 then s.runDac link (2 * s.now) else s

/-- The link is up again, and its held writes are still to be resent. -/
def State.linkBack (s : State) (link : Nat) : State :=
  (((s.linkSent link).wrBit R.HB_LINK_STATUS_UP link true).setLink link {}).closeGap link

theorem exec_linkRetrainDone {s : State} (hs : s.runs) {link : Fin 10} (hre : (s.link link).retraining = true) :
    exec (.linkRetrainDone link) s = goOn ((s.link link).held.foldl (fun (t : State) e => resend e.2 t) (s.linkBack link)) := by
  show execLinkRetrainDone link s = _
  rw [execLinkRetrainDone, State.live_runs hs]
  exact if_pos hre

theorem exec_linkRetrainDone_of_no {s : State} (hs : s.runs) {link : Fin 10} (hre : (s.link link).retraining = false) :
    exec (.linkRetrainDone link) s = .next s := by
  show execLinkRetrainDone link s = _
  rw [execLinkRetrainDone, State.live_runs hs]
  exact if_neg (by simp [hre])

section Back
variable (s : State) (link : Nat)

theorem State.linkSent_frame : SameButQuayFlights s (s.linkSent link) := by
  unfold State.linkSent
  split
  · exact s.runDac_frame ..
  · rfl

theorem State.linkSent_onlyRegs : OnlyRegs (linkClampFields link) s (s.linkSent link) := by
  unfold State.linkSent linkClampFields
  split
  · exact s.runDac_onlyRegs link _
  · exact .refl s _

/-- The link comes back as it does whatever it held. -/
theorem State.linkBack_setLink (l : Link) : (s.setLink link l).linkBack link = s.linkBack link := by
  have hsent : (s.setLink link l).linkSent link = (s.linkSent link).setLink link l := by
    unfold State.linkSent
    split
    · exact s.runDac_setLink ..
    · rfl
  rw [State.linkBack, State.linkBack, hsent]
  exact congrArg (fun ls => (({ (s.linkSent link).wrBit R.HB_LINK_STATUS_UP link true with links := ls } : State).closeGap link))
    (Tab.put_put_default ({} : Link) _ link l)

theorem State.linkBack_frame : SameButLinks s (s.linkBack link) :=
  (((s.linkSent_frame link).sameButLinks.trans ((SameButRegs.refl _).wr _ _).sameButLinks).trans
    (State.setLink_sameButLinks _ link {})).trans (State.closeGap_sameButLinks _ link)

theorem State.linkBack_onlyRegs : OnlyRegs (R.HB_LINK_STATUS_UP :: linkClampFields link) s (s.linkBack link) :=
  (((s.linkSent_onlyRegs link).mono fun _ hf => List.mem_cons_of_mem _ hf).wrBit List.mem_cons_self _ _).of_regs rfl

theorem State.linkBack_links : (s.linkBack link).links = (s.setLink link {}).links := by
  have hlinks : (s.linkSent link).links = s.links := by rw [s.linkSent_frame link]
  exact congrArg (fun ls => Tab.put ({} : Link) ls link {}) hlinks

end Back

/-- A held write of one of these commands takes its effect as it does on a link that is up. -/
theorem resend_exec {c : Instr} {n : Fin 8} {v : Word} (h : c = .spiCommandWrite n v ∨ c = .lgateTCfgWrite n true v ∨ c = .lgateTCfgWrite n false v ∨
    c = .gpioCfgWrite n v ∨ c = .gpioOutWrite n v ∨ c = .quayResumeWrite n ∨ c = .quayRunWrite n true ∨ c = .quayRunWrite n false ∨
    ∃ p, c = .planSelectWrite n p) (u : State) : goOn (resend c u) = exec c u := by
  have hresent : resend c u = after (exec c u) u ∧ c.wellFormed = true := by
    rcases h with rfl | rfl | rfl | rfl | rfl | rfl | rfl | rfl | ⟨p, rfl⟩ <;> exact ⟨rfl, rfl⟩
  rw [hresent.1, goOn_after (wellFormedCommandsComplete c u hresent.2)]

/-! The parts of the statement. -/

theorem flitCrcMismatch_counts {s : State} (hs : s.runs) (link : Fin 10) (flit : Nat) : ∃ t, exec (.flitCrcMismatch link flit) s = .next t ∧
    t.rd (R.HB_LINK_CNT_n_REPLAYS link) = satAdd 16 (s.rd (R.HB_LINK_CNT_n_REPLAYS link)) 1 ∧ (t.link link).flit = flit ∧
    (t.link link).fails = (s.link link).failed flit ∧ OnlyRegs [R.HB_LINK_CNT_n_REPLAYS link] s t ∧
    (∀ k, k ≠ link.val → t.link k = s.link k) ∧ t = { s with regs := t.regs, links := t.links } := by
  refine ⟨_, exec_flitCrcMismatch hs link flit, (State.rd_inc_same ..).trans low_satAdd, ?_, ?_, ((OnlyRegs.refl s _).wr (by simp) _).of_regs rfl,
    fun k hk => State.link_setLink_other _ _ hk, rfl⟩ <;> rw [State.link_setLink_same]

theorem linkRetrain_goes_down {s : State} (hs : s.runs) {link : Fin 10} (h8 : 8 ≤ (s.link link).fails) (hre : (s.link link).retraining = false) :
    ∃ t, exec (.linkRetrain link) s = .next t ∧ bit (t.rd R.HB_LINK_STATUS_UP) link = false ∧ bit (t.rd R.HB_LINK_STATUS_RETRAINED) link = true ∧
      t.rd (R.HB_LINK_CNT_n_RETRAINS link) = satAdd 16 (s.rd (R.HB_LINK_CNT_n_RETRAINS link)) 1 ∧ (t.link link).retraining = true ∧
      (∀ a b, s.now < b → t.gapMeets link a b = true) ∧ (∀ k, k ≠ link.val → t.link k = s.link k ∧ t.quay k = s.quay k) ∧
      (8 ≤ link.val → t.quays = s.quays) ∧
      (link.val < 8 → (t.quay link).flights = (s.quay link).flights ∧ (t.quay link).loses (s.quay link)) ∧
      OnlyRegs (downFields link ++ linkClampFields link) s t ∧
      t = { s with regs := t.regs, links := t.links, gaps := t.gaps, quays := t.quays } := by
  have hexec := exec_linkRetrain hs h8 hre
  have hframe := s.linkCut_frame link
  have hcut := s.linkCut_onlyRegs link
  have hother := fun k hk => s.quay_linkCut_other (k := k) link hk
  have hsame := s.quay_linkCut_same link
  have hnone : 8 ≤ link.val → s.linkCut link = s := fun h => if_neg (Nat.not_lt.mpr h)
  obtain ⟨u, hu⟩ : ∃ u, u = s.linkCut link := ⟨_, rfl⟩
  rw [← hu] at hexec hframe hcut hother hsame hnone
  have hnow : u.now = s.now := by rw [hframe]
  have hlinks : u.links = s.links := by rw [hframe]
  refine ⟨_, hexec, State.rd_linkDown_up .., State.rd_linkDown_retrained .., ?_, ?_, fun a b hb => State.gapMeets_openGap _ _ a (by simpa [hnow] using hb),
    fun k hk => ⟨?_, hother k hk⟩, fun h => ?_, fun h => ?_, ?_, ?_⟩
  · rw [State.rd_linkDown_retrains, hcut _ (clampFields_key (retrains_key link).2)]
  · exact congrArg Link.retraining (State.link_setLink_same _ link _)
  · exact (State.link_setLink_other _ _ hk).trans (congrArg (fun ls => Tab.get ({} : Link) ls k) hlinks)
  · exact (congrArg State.quays (hnone h) :)
  · have hquay : (u.linkDown link { s.link link with retraining := true }).quay link = u.quay link := rfl
    rw [hquay, hsame h]
    exact ⟨rfl, Quay.flightsLost_loses _⟩
  · exact (hcut.mono fun _ hf => List.mem_append_right _ hf).trans ((u.linkDown_onlyRegs link _).mono fun _ hf => List.mem_append_left _ hf)
  · exact hframe.sameButLinks.trans (u.linkDown_frame ..)

theorem linkRetrainDone_comes_up {s : State} (hs : s.runs) {link : Fin 10} (hre : (s.link link).retraining = true) (hheld : (s.link link).held = []) :
    ∃ t, exec (.linkRetrainDone link) s = .next t ∧ bit (t.rd R.HB_LINK_STATUS_UP) link = true ∧ t.link link = {} ∧
      (∀ g ∈ Tab.get [] t.gaps link, g.2 ≠ none) ∧ (∀ k, k ≠ link.val → t.link k = s.link k) ∧ (8 ≤ link.val → t.quays = s.quays) ∧
      OnlyRegs (R.HB_LINK_STATUS_UP :: linkClampFields link) s t ∧
      t = { s with regs := t.regs, links := t.links, gaps := t.gaps, quays := t.quays } := by
  have hexec := exec_linkRetrainDone hs hre
  rw [hheld] at hexec
  refine ⟨_, hexec, State.bit_wrBit_same _ true link.isLt, State.link_setLink_same _ link {}, State.closeGap_closes _ _, fun k hk => ?_,
    fun h => ?_, s.linkBack_onlyRegs link, s.linkBack_frame link⟩
  · rw [State.link, List.foldl_nil, State.linkBack_links]
    exact s.link_setLink_other _ hk
  · have hsent : s.linkSent link = s := if_neg (Nat.not_lt.mpr h)
    rw [List.foldl_nil, State.linkBack, hsent]
    rfl

theorem linkRetrainDone_resends {s u : State} (hs : s.runs) {link : Fin 10} {d : Nat} {c : Instr} (hre : (s.link link).retraining = true)
    (hheld : (s.link link).held = [(d, c)]) (hc : ∀ t, goOn (resend c t) = exec c t)
    (hu : exec (.linkRetrainDone link) (s.setLink link { s.link link with held := [] }) = .next u) :
    exec (.linkRetrainDone link) s = exec c u := by
  have hempty : (s.setLink link { s.link link with held := [] }).link link = { s.link link with held := [] } := State.link_setLink_same ..
  rw [exec_linkRetrainDone (s := s.setLink link _) hs (by rw [hempty]; exact hre), hempty, State.linkBack_setLink] at hu
  obtain rfl : s.linkBack link = u := by injection hu
  rw [exec_linkRetrainDone hs hre, hheld, List.foldl_cons, List.foldl_nil, hc]

/-- Settles O9: a mismatch, the retrain it may lead to, and the end of the retrain with what was held. -/
theorem linkMismatchRetrainAndReturn : Obligations.LinkMismatchRetrainAndReturn := by
  intro link flit s hs
  refine ⟨flitCrcMismatch_counts hs link flit, linkRetrain_goes_down hs, exec_linkRetrain_of_no hs, linkRetrainDone_comes_up hs, ?_,
    exec_linkRetrainDone_of_no hs⟩
  rintro d c u hre hheld ⟨n, v, hc⟩ hu
  exact linkRetrainDone_resends hs hre hheld (resend_exec hc) hu

end Sys2Proof.Machine
end

section
/-! SUPPORT. A reset of the device asserts and is released (R433, R437, R447, R462, R464, R466): statement O48. -/

namespace Sys2Proof.Machine

/-! Power-on reset senses VDD_IO (R464). -/

/-- What power-on reset senses: source 0 with VDD_IO at the millivolts `v`. -/
def Power.sensed (p : Power) (src : Nat) (v : Option Nat) : Power :=
  if src = 0 then match v with
    | some mv => { p with ramping := false, io33 := decide (2500 ≤ mv) }
    | none => p
  else p

/-- The state in which source `src` has sensed VDD_IO. -/
def State.sensed (t : State) (src : Nat) (v : Option Nat) : State := { t with power := t.power.sensed src v }

theorem Power.sensed_frame (p : Power) (src : Nat) (v : Option Nat) :
    p.sensed src v = { p with ramping := (p.sensed src v).ramping, io33 := (p.sensed src v).io33 } := by
  unfold Power.sensed
  split
  · cases v <;> rfl
  · rfl

theorem Power.sensed_of_ne (p : Power) {src : Nat} (h : src ≠ 0) (v : Option Nat) : p.sensed src v = p := if_neg h

theorem Power.sensed_zero (p : Power) {src : Nat} (h : src = 0) (mv : Nat) :
    p.sensed src (some mv) = { p with ramping := false, io33 := decide (2500 ≤ mv) } := if_pos h

section Sensed
variable (p : Power) (src : Nat) (v : Option Nat)

@[simp] theorem Power.sensed_held : (p.sensed src v).held = p.held := by rw [Power.sensed_frame]
@[simp] theorem Power.sensed_trims : (p.sensed src v).trims = p.trims := by rw [Power.sensed_frame]
@[simp] theorem Power.sensed_vbat : (p.sensed src v).vbat = p.vbat := by rw [Power.sensed_frame]
@[simp] theorem Power.sensed_holds : (p.sensed src v).holds = p.holds := by rw [Power.sensed_frame]
@[simp] theorem Power.sensed_cold : (p.sensed src v).cold = p.cold := by rw [Power.sensed_frame]

end Sensed

/-! A source asserts. -/

/-- The source acts on the whole device, and is heard: the debug reset needs boundary scan, and power-on reset finds VDD_IO. -/
structure State.hearsWhole (s : State) (src : Nat) (v : Option Nat) : Prop where
  ne10 : src ≠ 10
  ne11 : src ≠ 11
  ne12 : src ≠ 12
  debug : src = 14 → s.rd R.CU_STATE_JTAG = 1
  vdd : src = 0 → v ≠ none

theorem exec_resetAssert {s : State} {src : Fin 16} {v : Option Nat} (h : s.hearsWhole src v) :
    exec (.resetAssert ⟨src, v⟩) s = .next ((s.assertReset src [] 0).sensed src v) := by
  show execResetAssert ⟨src, v⟩ s = _
  unfold execResetAssert
  dsimp only
  rw [if_neg (by rw [State.on_iff]; exact fun hd => hd.2 (h.debug hd.1))]
  by_cases h0 : src.val = 0
  · obtain ⟨mv, rfl⟩ := Option.ne_none_iff_exists'.mp (h.vdd h0)
    rw [if_pos h0, State.sensed, Power.sensed_zero _ h0, h0]
    rfl
  · rw [if_neg h0, if_neg h.ne10, if_neg h.ne11, if_neg h.ne12, State.sensed, Power.sensed_of_ne _ h0]
    rfl

theorem exec_resetAssert_of_debug {s : State} (h : s.rd R.CU_STATE_JTAG ≠ 1) (v : Option Nat) : exec (.resetAssert ⟨14, v⟩) s = .next s := by
  show execResetAssert ⟨14, v⟩ s = _
  unfold execResetAssert
  exact if_pos ⟨rfl, by rwa [State.on_iff]⟩

theorem wholeSource_of_ne {src : Nat} (h10 : src ≠ 10) (h11 : src ≠ 11) (h12 : src ≠ 12) : wholeSource src [] := by
  unfold wholeSource
  omega

section Now
variable (s : State) (level src : Nat)

theorem State.resetNow_wh_warm (h : level = 1) : (s.resetNow level src).wh.bytes = s.wh.bytes := by
  subst h
  rfl

theorem State.resetNow_wh_cold (h : level = 0) : (s.resetNow level src).wh = {} := by
  subst h
  rfl

theorem State.resetNow_pins_cold (h : level = 0) :
    (s.resetNow level src).power.holds = [] ∧ (s.resetNow level src).power.cold = State.reset.power.cold := by
  subst h
  exact ⟨rfl, rfl⟩

theorem State.resetNow_pins_warm (h : level = 1) (hfree : s.power.held = none) :
    (s.resetNow level src).power.holds = s.heldBalls ∧ (s.resetNow level src).power.cold = s.power.cold := by
  subst h
  exact ⟨if_pos ⟨rfl, by rw [hfree]; rfl⟩, rfl⟩

end Now

/-- No reset of the same or a greater reach holds the device. -/
theorem resetAssert_begins {s : State} {src : Fin 16} {v : Option Nat} {lev : Nat} (h : s.hearsWhole src v) (hlev : lev = s.wholeLevel src)
    (hfree : s.power.held = none ∨ ∃ k, s.power.held = some k ∧ lev < k.1) :
    exec (.resetAssert ⟨src, v⟩) s = .next (((s.counted src).resetNow lev src).sensed src v) := by
  subst hlev
  rw [exec_resetAssert h, State.assertReset_begins s (wholeSource_of_ne h.ne10 h.ne11 h.ne12) h.ne12 0 hfree]

theorem resetAssert_is_absorbed {s : State} {src : Fin 16} {v : Option Nat} {k : Nat × Nat} (h : s.hearsWhole src v)
    (hheld : s.power.held = some k) (hle : k.1 ≤ s.wholeLevel src) :
    exec (.resetAssert ⟨src, v⟩) s = .next ((s.counted src).sensed src v) := by
  rw [exec_resetAssert h, State.assertReset_whole s (wholeSource_of_ne h.ne10 h.ne11 h.ne12) h.ne12,
    State.beginReset_of_absorbed (s := s.counted src) hheld hle]

theorem resetAssert_takes {s : State} {src : Fin 16} {v : Option Nat} {lev : Nat} (h : s.hearsWhole src v) (hlev : lev = s.wholeLevel src)
    (hfree : s.power.held = none ∨ ∃ k, s.power.held = some k ∧ lev < k.1) : ∃ t, exec (.resetAssert ⟨src, v⟩) s = .next t ∧
      t.power.held = some (lev, src.val) ∧ t.rd (R.RS_BAL_CNT_s_COUNT src) = satAdd 16 (s.rd (R.RS_BAL_CNT_s_COUNT src)) 1 ∧
      (∀ f : Fld, f.key < 8 * 0x200100 ∨ 8 * 0x200160 ≤ f.key → t.rd f = f.reset) ∧
      (∀ f : Fld, 8 * 0x200100 ≤ f.key → f.key < 8 * 0x200160 → f.key ≠ (R.RS_BAL_CNT_s_COUNT src).key →
        f.key ≠ R.RS_BAL_TRIM_ABORT_COUNT.key → t.rd f = s.rd f) ∧
      t.now = 0 ∧ t.landing = [] ∧ t.berths = [] ∧ t.shed = [] ∧ t.signQ = [] ∧ t.power.trims = [] ∧ t.hold = s.hold ∧ t.charter = s.charter ∧
      t.life.word = s.life.word ∧ t.life.sealed = s.life.sealed ∧ t.ledger.key = s.ledger.key ∧ (lev = 1 → t.wh.bytes = s.wh.bytes) ∧
      (lev = 0 → t.wh = {}) ∧ t.power.vbat = s.power.vbat ∧ t.pending = s.pending ∧
      (lev = 0 → t.power.holds = [] ∧ t.power.cold = State.reset.power.cold) ∧
      (lev = 1 → s.power.held = none → t.power.holds = (s.inc (R.RS_BAL_CNT_s_COUNT src)).heldBalls ∧ t.power.cold = s.power.cold) ∧
      (src.val ≠ 0 → t.power.ramping = s.power.ramping ∧ t.power.io33 = s.power.io33) ∧
      (∀ mv, src.val = 0 → v = some mv → t.power.ramping = false ∧ t.power.io33 = decide (2500 ≤ mv)) := by
  refine ⟨_, resetAssert_begins h hlev hfree, Power.sensed_held .., s.rd_resetNow_count src.isLt lev,
    fun f hf => (s.counted src).rd_resetNow_outside lev src hf, fun f hlo hhi hcnt habort => ?_, rfl, rfl, rfl, rfl, rfl, Power.sensed_trims .., rfl, rfl, rfl, rfl,
    rfl, (s.counted src).resetNow_wh_warm lev src, (s.counted src).resetNow_wh_cold lev src, Power.sensed_vbat .., rfl, fun hl => ?_, fun hl hn => ?_, fun hne => ?_,
    fun mv h0 hv => ?_⟩
  · exact ((s.counted src).rd_resetNow_ballast lev src ⟨hlo, hhi⟩ (Ne.symm habort)).trans (State.rd_inc_other _ (Ne.symm hcnt))
  · obtain ⟨hholds, hcold⟩ := (s.counted src).resetNow_pins_cold lev src hl
    exact ⟨(Power.sensed_holds ..).trans hholds, (Power.sensed_cold ..).trans hcold⟩
  · obtain ⟨hholds, hcold⟩ := State.resetNow_pins_warm (s.counted src) lev src hl hn
    exact ⟨(Power.sensed_holds ..).trans hholds, (Power.sensed_cold ..).trans hcold⟩
  · rw [State.sensed, Power.sensed_of_ne _ hne]
    exact ⟨rfl, rfl⟩
  · subst hv
    rw [State.sensed, Power.sensed_zero _ h0]
    exact ⟨rfl, rfl⟩

theorem resetAssert_absorbs {s : State} {src : Fin 16} {v : Option Nat} {k : Nat × Nat} (h : s.hearsWhole src v)
    (hheld : s.power.held = some k) (hle : k.1 ≤ s.wholeLevel src) : ∃ t, exec (.resetAssert ⟨src, v⟩) s = .next t ∧
      t.rd (R.RS_BAL_CNT_s_COUNT src) = satAdd 16 (s.rd (R.RS_BAL_CNT_s_COUNT src)) 1 ∧ OnlyRegs [R.RS_BAL_CNT_s_COUNT src] s t ∧
      (src.val ≠ 0 → t.power = s.power) ∧
      (∀ mv, src.val = 0 → v = some mv → t.power = { s.power with ramping := false, io33 := decide (2500 ≤ mv) }) ∧
      t = { s with regs := t.regs, power := t.power } := by
  refine ⟨_, resetAssert_is_absorbed h hheld hle, s.rd_counted src, (s.counted_onlyRegs src).of_regs rfl, fun hne => Power.sensed_of_ne _ hne _,
    fun mv h0 hv => ?_, rfl⟩
  subst hv
  exact Power.sensed_zero _ h0 mv

/-! The supplies ramp (R462). -/

theorem rampUp_leaves_nothing (s : State) : ∃ t, exec (.resetAssert ⟨0, none⟩) s = .next t ∧ t.power.held = some (0, 0) ∧ t.power.ramping = true ∧
    t.wh = {} ∧ t.hold = s.hold ∧ (∀ f : Fld, f.key < 8 * 0x200100 ∨ 8 * 0x200160 ≤ f.key → t.rd f = f.reset) ∧
    (∀ b, t.ballDrive b = rampDrive b) ∧ exec .resetRelease t = .next t :=
  ⟨s.rampUp, rfl, rfl, rfl, rfl, rfl, fun _ hf => s.rd_resetNow_outside 0 0 hf, fun _ => rfl, rfl⟩

/-! The device comes out of a reset (Table 17.3). -/

/-- Nothing but register fields, the life-cycle state and the free values used differs. -/
def SameButLife (s t : State) : Prop := t = { s with regs := t.regs, life := t.life, free := t.free }

theorem SameButLife.trans {s t u : State} (h : SameButLife s t) (h' : SameButLife t u) : SameButLife s u := by
  unfold SameButLife at *
  rw [h', h]

theorem SameButRegs.sameButLife {s t : State} (h : SameButRegs s t) : SameButLife s t := by
  unfold SameButRegs SameButLife at *
  rw [h]

/-- A fold writes what its steps write. -/
theorem onlyRegs_foldl_mem {β : Type} {fs : List Fld} {step : State → β → State} : ∀ (l : List β) (s : State),
    (∀ t, ∀ x ∈ l, OnlyRegs fs t (step t x)) → OnlyRegs fs s (l.foldl step s)
  | [], s, _ => .refl s _
  | x :: l, s, h => OnlyRegs.trans (h s x List.mem_cons_self) (onlyRegs_foldl_mem l (step s x) fun t y hy => h t y (List.mem_cons_of_mem _ hy))

/-- The fields that Customs reads from the fuses. -/
def fuseFields : List Fld :=
  (List.range 16).map R.RS_LEVEL_V_s ++ [R.CU_ELIM_EMIT_LIM, R.CU_ELIM_HEAD_LIM, R.CU_ROLLBACK_COUNT]

/-- The level fuses read as the table's body `v` gives them. -/
theorem State.levelFuses_frame (s : State) (v : Nat → Nat) :
    SameButRegs s ((List.range 16).foldl (fun (t : State) i => t.wr (R.RS_LEVEL_V_s i) (v i)) s) ∧
      OnlyRegs fuseFields s ((List.range 16).foldl (fun (t : State) i => t.wr (R.RS_LEVEL_V_s i) (v i)) s) := by
  refine ⟨sameButRegs_foldl (fun t i => (SameButRegs.refl t).wr (R.RS_LEVEL_V_s i) (v i)) _ s, onlyRegs_foldl_mem _ s fun t i hi => ?_⟩
  exact (OnlyRegs.refl t _).wr (List.mem_append_left _ (List.mem_map_of_mem hi)) _

/-- The energy limits and the rollback count. -/
theorem State.limitFuses_frame (s : State) (a b c : Nat) :
    SameButRegs s (((s.wr R.CU_ELIM_EMIT_LIM a).wr R.CU_ELIM_HEAD_LIM b).wr R.CU_ROLLBACK_COUNT c) ∧
      OnlyRegs fuseFields s (((s.wr R.CU_ELIM_EMIT_LIM a).wr R.CU_ELIM_HEAD_LIM b).wr R.CU_ROLLBACK_COUNT c) :=
  ⟨rfl, (((OnlyRegs.refl s _).wr (by simp [fuseFields]) _).wr (by simp [fuseFields]) _).wr (by simp [fuseFields]) _⟩

theorem State.readFuses_frame (s : State) : SameButLife s s.readFuses ∧ OnlyRegs fuseFields s s.readFuses := by
  unfold State.readFuses
  split
  · next b _ =>
    obtain ⟨hl, hlr⟩ := s.levelFuses_frame (Config.fuseLevel b)
    obtain ⟨hm, hmr⟩ := State.limitFuses_frame ((List.range 16).foldl (fun (t : State) i => t.wr (R.RS_LEVEL_V_s i) (Config.fuseLevel b i)) s)
      (Config.fuseLimits b).1 (Config.fuseLimits b).2 (popCount 32 (Config.fuseRollback b))
    exact ⟨(hl.trans hm).sameButLife.trans rfl, (hlr.trans hmr).of_regs rfl⟩
  · obtain ⟨hl, hlr⟩ := s.levelFuses_frame (fun _ => 3)
    obtain ⟨hm, hmr⟩ := State.limitFuses_frame ((List.range 16).foldl (fun (t : State) i => t.wr (R.RS_LEVEL_V_s i) 3) s) 0 0 s.life.rollback
    exact ⟨(hl.trans hm).sameButLife, hlr.trans hmr⟩

/-- The fields in which a reset is recorded. -/
def noteFields : List Fld :=
  [R.RS_LAST_LEVEL, R.RS_LAST_SRC, R.RS_BAL_CAUSE_LEVEL, R.RS_BAL_CAUSE_SRC, R.RS_BAL_STAMP_LO_RTC_LO, R.RS_BAL_STAMP_HI_RTC_HI]

section Note
variable (s : State) (level src : Nat)

theorem State.noteReset_sameButRegs : SameButRegs s (s.noteReset level src) :=
  ((((((SameButRegs.refl s).wr _ _).wr _ _).wr _ _).wr _ _).wr _ _).wr _ _

theorem State.noteReset_onlyRegs : OnlyRegs noteFields s (s.noteReset level src) :=
  ((((((OnlyRegs.refl s _).wr (by simp [noteFields]) _).wr (by simp [noteFields]) _).wr (by simp [noteFields]) _).wr (by simp [noteFields]) _).wr
    (by simp [noteFields]) _).wr (by simp [noteFields]) _

/-- What a reset's record reads. -/
theorem State.rd_noteReset :
    (s.noteReset level src).rd R.RS_LAST_LEVEL = low 2 level ∧ (s.noteReset level src).rd R.RS_LAST_SRC = low 4 src ∧
      (s.noteReset level src).rd R.RS_BAL_CAUSE_LEVEL = low 2 level ∧ (s.noteReset level src).rd R.RS_BAL_CAUSE_SRC = low 4 src ∧
      (s.noteReset level src).rd R.RS_BAL_STAMP_LO_RTC_LO = low 32 s.rtc ∧
      (s.noteReset level src).rd R.RS_BAL_STAMP_HI_RTC_HI = low 16 (s.rtc / 2 ^ 32) := by
  rw [State.noteReset, State.wrPair]
  refine ⟨?_, ?_, ?_, ?_, ?_, State.rd_wr_same ..⟩
  · rw [State.rd_wr_other _ _ (by decide), State.rd_wr_other _ _ (by decide), State.rd_wr_other _ _ (by decide), State.rd_wr_other _ _ (by decide),
      State.rd_wr_other _ _ (by decide), State.rd_wr_same]
    rfl
  · rw [State.rd_wr_other _ _ (by decide), State.rd_wr_other _ _ (by decide), State.rd_wr_other _ _ (by decide), State.rd_wr_other _ _ (by decide),
      State.rd_wr_same]
    rfl
  · rw [State.rd_wr_other _ _ (by decide), State.rd_wr_other _ _ (by decide), State.rd_wr_other _ _ (by decide), State.rd_wr_same]
    rfl
  · rw [State.rd_wr_other _ _ (by decide), State.rd_wr_other _ _ (by decide), State.rd_wr_same]
    rfl
  · rw [State.rd_wr_other _ _ (by decide), State.rd_wr_same]
    rfl

end Note

/-- The fields of the Charter's tables 0 to 3, the seal, the life cycle and the nonce. -/
def bootFields : List Fld :=
  [R.CL_COPY_B_TABLE, R.CL_DEGRADED_TABLE, R.RS_BAL_SEALCNT_COUNT, R.CU_SEALCNT_COUNT, R.CU_STATE_STATE, R.CU_STATE_JTAG, R.CU_STATE_DEBUG,
   R.CU_NONCE_LO_NONCE_LO, R.CU_NONCE_HI_NONCE_HI]

theorem State.checkTable_frame (s : State) {k : Nat} (h : k < 4) : SameButRegs s (s.checkTable k) ∧ OnlyRegs bootFields s (s.checkTable k) := by
  unfold State.checkTable
  rw [if_pos h]
  exact ⟨.ite (.refl s) (.ite ((SameButRegs.refl s).wr _ _) ((SameButRegs.refl s).wr _ _)),
    .ite (.refl s _) (.ite ((OnlyRegs.refl s _).wrBit (by simp [bootFields]) _ _) ((OnlyRegs.refl s _).wrBit (by simp [bootFields]) _ _))⟩

/-- The seal, the life cycle and the nonce as they stand after a reset. -/
theorem State.customsOut_frame (s : State) : SameButLife s (s.matchSeal.showLife).newNonce ∧ OnlyRegs bootFields s (s.matchSeal.showLife).newNonce := by
  have hseal : SameButLife s s.matchSeal ∧ OnlyRegs bootFields s s.matchSeal :=
    ⟨rfl, (((OnlyRegs.refl s _).wr (by simp [bootFields]) _).wr (by simp [bootFields]) _).of_regs rfl⟩
  have hlife : ∀ u : State, SameButRegs u u.showLife ∧ OnlyRegs bootFields u u.showLife := fun u =>
    ⟨rfl, (((OnlyRegs.refl u _).wr (by simp [bootFields]) _).wr (by simp [bootFields]) _).wr (by simp [bootFields]) _⟩
  have hnonce : ∀ u : State, SameButLife u u.newNonce ∧ OnlyRegs bootFields u u.newNonce := fun u =>
    ⟨rfl, (((OnlyRegs.refl u _).wr (by simp [bootFields]) _).wr (by simp [bootFields]) _).of_regs rfl⟩
  exact ⟨(hseal.1.trans (hlife _).1.sameButLife).trans (hnonce _).1, (hseal.2.trans (hlife _).2).trans (hnonce _).2⟩

/-- The state at the end of the reset sequence, before the pins' registers are set. -/
def State.booted (s : State) (level src : Nat) : State :=
  ((([0, 1, 2, 3].foldl State.checkTable (s.clocksUp.readFuses.noteReset level src)).matchSeal.showLife).newNonce)

/-- The state in which a reset has been released. -/
def State.released (s : State) (holding ilock : Bool) : State :=
  { ((s.wrB R.RS_PIN_HOLD_HOLDING holding).wrB R.RS_SAFE_STATUS_ILOCK_LOW ilock) with
    power := { ((s.wrB R.RS_PIN_HOLD_HOLDING holding).wrB R.RS_SAFE_STATUS_ILOCK_LOW ilock).power with held := none } }

theorem exec_resetRelease_of_none {s : State} (h : s.power.held = none) : exec .resetRelease s = .next s := by
  show execResetRelease s = _
  unfold execResetRelease
  simp only [h]
  rfl

theorem exec_resetRelease {s : State} {level src : Nat} (h : s.power.held = some (level, src)) (hr : s.power.ramping = false) :
    exec .resetRelease s = .next ((s.booted level src).released (!s.power.holds.isEmpty) s.power.ilock.isSome) := by
  show execResetRelease s = _
  unfold execResetRelease
  simp only [h, hr]
  rfl

section Booted
variable (s : State) (level src : Nat)

theorem State.clocksUp_frame : SameButRegs s s.clocksUp ∧ OnlyRegs [R.HB_LINK_STATUS_UP, R.HB_CLK_STATUS_LOCK] s s.clocksUp :=
  ⟨rfl, ((OnlyRegs.refl s _).wr (by simp) _).wr (by simp) _⟩

theorem State.rd_clocksUp : s.clocksUp.rd R.HB_LINK_STATUS_UP = 0x3FF ∧ s.clocksUp.rd R.HB_CLK_STATUS_LOCK = 0x7F :=
  ⟨(State.rd_wr_other _ _ (by decide)).trans (State.rd_wr_same ..), State.rd_wr_same ..⟩

/-- The tables of the Charter are checked, and Customs comes up. -/
theorem State.tables_frame (u : State) : SameButLife u ((([0, 1, 2, 3].foldl State.checkTable u).matchSeal.showLife).newNonce) ∧
    OnlyRegs bootFields u ((([0, 1, 2, 3].foldl State.checkTable u).matchSeal.showLife).newNonce) := by
  obtain ⟨h0, h0r⟩ := u.checkTable_frame (k := 0) (by decide)
  obtain ⟨h1, h1r⟩ := (u.checkTable 0).checkTable_frame (k := 1) (by decide)
  obtain ⟨h2, h2r⟩ := ((u.checkTable 0).checkTable 1).checkTable_frame (k := 2) (by decide)
  obtain ⟨h3, h3r⟩ := (((u.checkTable 0).checkTable 1).checkTable 2).checkTable_frame (k := 3) (by decide)
  simp only [List.foldl_cons, List.foldl_nil]
  obtain ⟨hc, hcr⟩ := ((((u.checkTable 0).checkTable 1).checkTable 2).checkTable 3).customsOut_frame
  exact ⟨(((h0.trans h1).trans h2).trans h3).sameButLife.trans hc, (((h0r.trans h1r).trans h2r).trans h3r).trans hcr⟩

theorem State.booted_frame : SameButLife s (s.booted level src) :=
  (((s.clocksUp_frame.1.sameButLife).trans s.clocksUp.readFuses_frame.1).trans (State.noteReset_sameButRegs _ level src).sameButLife).trans
    (State.tables_frame _).1

/-- A field that neither the Charter's tables nor Customs show reads as it was recorded. -/
theorem State.rd_booted {f : Fld} (h : ∀ g ∈ bootFields, g.key ≠ f.key) :
    (s.booted level src).rd f = (s.clocksUp.readFuses.noteReset level src).rd f := (State.tables_frame _).2 f h

theorem State.rd_booted_clocks {f : Fld} (h : ∀ g ∈ bootFields ++ noteFields ++ fuseFields, g.key ≠ f.key) :
    (s.booted level src).rd f = s.clocksUp.rd f := by
  simp only [List.mem_append] at h
  rw [s.rd_booted level src fun g hg => h g (.inl (.inl hg)), State.noteReset_onlyRegs _ _ _ f fun g hg => h g (.inl (.inr hg)),
    s.clocksUp.readFuses_frame.2 f fun g hg => h g (.inr hg)]

/-- The RTC runs on through the start of the release. -/
theorem State.rtc_readFuses : s.clocksUp.readFuses.rtc = s.rtc := by
  obtain ⟨hframe, honly⟩ := s.clocksUp.readFuses_frame
  have hlo := honly R.RS_BAL_RTC_LO_RTC_LO (by decide)
  have hhi := honly R.RS_BAL_RTC_HI_RTC_HI (by decide)
  rw [s.clocksUp_frame.2 _ (by decide)] at hlo hhi
  rw [State.rtc, State.rdPair, hlo, hhi, hframe]
  rfl

end Booted

theorem noteFields_below_boot : ∀ f ∈ noteFields, ∀ g ∈ bootFields, g.key ≠ f.key := by decide

theorem clockFields_apart : ∀ f ∈ [R.HB_LINK_STATUS_UP, R.HB_CLK_STATUS_LOCK], ∀ g ∈ bootFields ++ noteFields ++ fuseFields, g.key ≠ f.key := by decide

theorem State.rd_released (s : State) (a b : Bool) {f : Fld} (h : ∀ g ∈ [R.RS_PIN_HOLD_HOLDING, R.RS_SAFE_STATUS_ILOCK_LOW], g.key ≠ f.key) :
    (s.released a b).rd f = s.rd f :=
  ((((OnlyRegs.refl s [R.RS_PIN_HOLD_HOLDING, R.RS_SAFE_STATUS_ILOCK_LOW]).wr (by simp) (flag a)).wr (by simp) (flag b)).of_regs rfl) f h

theorem State.rd_released_pins (s : State) (a b : Bool) : (s.released a b).rd R.RS_PIN_HOLD_HOLDING = flag a ∧
    (s.released a b).rd R.RS_SAFE_STATUS_ILOCK_LOW = flag b := by
  have hflag : ∀ c : Bool, low 1 (flag c) = flag c := by decide
  exact ⟨((State.rd_wr_other _ _ (by decide)).trans (State.rd_wr_same ..)).trans (hflag a), (State.rd_wr_same ..).trans (hflag b)⟩

theorem pinFields_apart : ∀ f ∈ noteFields ++ [R.HB_LINK_STATUS_UP, R.HB_CLK_STATUS_LOCK],
    ∀ g ∈ [R.RS_PIN_HOLD_HOLDING, R.RS_SAFE_STATUS_ILOCK_LOW], g.key ≠ f.key := by decide

theorem resetRelease_records {s : State} {lev src : Nat} (h : s.power.held = some (lev, src)) (hr : s.power.ramping = false) :
    ∃ t, exec .resetRelease s = .next t ∧ t.power.held = none ∧ t.now = s.now ∧
      t.rd R.RS_LAST_LEVEL = low 2 lev ∧ t.rd R.RS_LAST_SRC = low 4 src ∧ t.rd R.RS_BAL_CAUSE_LEVEL = low 2 lev ∧ t.rd R.RS_BAL_CAUSE_SRC = low 4 src ∧
      t.rd R.RS_BAL_STAMP_LO_RTC_LO = low 32 s.rtc ∧ t.rd R.RS_BAL_STAMP_HI_RTC_HI = low 16 (s.rtc / 2 ^ 32) ∧
      t.rd R.RS_PIN_HOLD_HOLDING = (if s.power.holds.isEmpty then 0 else 1) ∧ t.rd R.RS_SAFE_STATUS_ILOCK_LOW = (if s.power.ilock.isSome then 1 else 0) ∧
      t.rd R.HB_LINK_STATUS_UP = 0x3FF ∧ t.rd R.HB_CLK_STATUS_LOCK = 0x7F ∧
      t.hold = s.hold ∧ t.charter = s.charter ∧ t.wh = s.wh ∧ t.pending = s.pending := by
  have hexec := exec_resetRelease h hr
  have hframe := s.booted_frame lev src
  obtain ⟨hlevel, hsrc, hclevel, hcsrc, hlo, hhi⟩ := s.clocksUp.readFuses.rd_noteReset lev src
  rw [s.rtc_readFuses] at hlo hhi
  have hnote : ∀ f ∈ noteFields, ∀ a b, ((s.booted lev src).released a b).rd f = (s.clocksUp.readFuses.noteReset lev src).rd f := fun f hf a b => by
    rw [State.rd_released _ a b (pinFields_apart f (List.mem_append_left _ hf)), s.rd_booted lev src (noteFields_below_boot f hf)]
  have hclock : ∀ f ∈ [R.HB_LINK_STATUS_UP, R.HB_CLK_STATUS_LOCK], ∀ a b, ((s.booted lev src).released a b).rd f = s.clocksUp.rd f := fun f hf a b => by
    rw [State.rd_released _ a b (pinFields_apart f (List.mem_append_right _ hf)), s.rd_booted_clocks lev src (clockFields_apart f hf)]
  obtain ⟨hpin, hilock⟩ := (s.booted lev src).rd_released_pins (!s.power.holds.isEmpty) s.power.ilock.isSome
  obtain ⟨u, hu⟩ : ∃ u, u = s.booted lev src := ⟨_, rfl⟩
  rw [← hu] at hexec hframe hnote hclock hpin hilock
  refine ⟨_, hexec, rfl, ?_, (hnote _ (by simp [noteFields]) _ _).trans hlevel, (hnote _ (by simp [noteFields]) _ _).trans hsrc,
    (hnote _ (by simp [noteFields]) _ _).trans hclevel, (hnote _ (by simp [noteFields]) _ _).trans hcsrc,
    (hnote _ (by simp [noteFields]) _ _).trans hlo, (hnote _ (by simp [noteFields]) _ _).trans hhi, hpin.trans ?_, hilock.trans ?_,
    (hclock _ (by simp) _ _).trans s.rd_clocksUp.1, (hclock _ (by simp) _ _).trans s.rd_clocksUp.2, ?_, ?_, ?_, ?_⟩
  · exact (congrArg State.now hframe :)
  · cases s.power.holds.isEmpty <;> rfl
  · cases s.power.ilock.isSome <;> rfl
  · exact (congrArg State.hold hframe :)
  · exact (congrArg State.charter hframe :)
  · exact (congrArg State.wh hframe :)
  · exact (congrArg State.pending hframe :)

end Sys2Proof.Machine
end

section
/-! SUPPORT. Resets of a domain and of a berth, and a domain that is ready again (R432, R435, R436, R438, R445): statement O48. -/

namespace Sys2Proof.Machine

/-! What the reset of a domain spares. -/

/-- The field is one of the blocks', or one of the two others that the loss of a block moves. -/
def Fld.ofBlocks (f : Fld) : Prop := 8 * 0x400000 ≤ f.key ∨ f.key = R.RS_BAL_TRIM_ABORT_COUNT.key ∨ f.key = R.CL_SN_STATUS_ROT_DONE.key

/-- What lies outside the blocks is as before. -/
structure State.Spares (s t : State) : Prop where
  now : t.now = s.now
  landing : t.landing = s.landing
  shed : t.shed = s.shed
  hold : t.hold = s.hold
  berths : t.berths = s.berths
  held : t.power.held = s.power.held
  rd : ∀ f : Fld, ¬f.ofBlocks → t.rd f = s.rd f

namespace State.Spares
variable {s t u : State}

theorem refl (s : State) : s.Spares s := ⟨rfl, rfl, rfl, rfl, rfl, rfl, fun _ _ => rfl⟩

theorem trans (h : s.Spares t) (h' : t.Spares u) : s.Spares u :=
  ⟨h'.now.trans h.now, h'.landing.trans h.landing, h'.shed.trans h.shed, h'.hold.trans h.hold, h'.berths.trans h.berths, h'.held.trans h.held,
    fun f hf => (h'.rd f hf).trans (h.rd f hf)⟩

/-- What the registers and the spared parts are equal to is spared too. -/
theorem same (h : s.Spares t) (hregs : u.regs = t.regs)
    (hrest : (u.now, u.landing, u.shed, u.hold, u.berths, u.power.held) = (t.now, t.landing, t.shed, t.hold, t.berths, t.power.held)) : s.Spares u := by
  simp only [Prod.mk.injEq] at hrest
  obtain ⟨hnow, hlanding, hshed, hhold, hberths, hheld⟩ := hrest
  exact h.trans ⟨hnow, hlanding, hshed, hhold, hberths, hheld, fun f _ => State.rd_congr hregs f⟩

theorem wr (h : s.Spares t) {f : Fld} (hf : f.ofBlocks) (v : Nat) : s.Spares (t.wr f v) := by
  refine h.trans ⟨rfl, rfl, rfl, rfl, rfl, rfl, fun g hg => State.rd_wr_other _ _ fun he => hg ?_⟩
  rwa [Fld.ofBlocks, ← he]

theorem setQuay (h : s.Spares t) (n : Nat) (q : Quay) : s.Spares (t.setQuay n q) := h.same rfl rfl

theorem setPort (h : s.Spares t) (m : Nat) (p : Port) : s.Spares (t.setPort m p) := h.same rfl rfl

theorem ite {c : Prop} [Decidable c] (ht : s.Spares t) (hu : s.Spares u) : s.Spares (if c then t else u) := by
  split
  · exact ht
  · exact hu

theorem foldl {β : Type} {step : State → β → State} (hstep : ∀ t x, State.Spares t (step t x)) : ∀ (l : List β) (s : State), s.Spares (l.foldl step s)
  | [], s => refl s
  | x :: l, s => (hstep s x).trans (foldl hstep l (step s x))

end State.Spares

/-! A quay and the Beacon are latched off. -/

theorem quayField_ofBlocks (n : Nat) : ∀ f ∈ [R.QY_STATUS_STOPPED n, R.QY_STATUS_RUNNING n, R.QY_STATUS_ARMED n] ++ clampFields n, f.ofBlocks := by
  intro f hf
  simp only [clampFields, List.cons_append, List.nil_append, List.mem_cons, List.not_mem_nil, or_false] at hf
  refine .inl ?_
  rcases hf with rfl | rfl | rfl | rfl | rfl
  · dsimp only [R.QY_STATUS_STOPPED]; omega
  · dsimp only [R.QY_STATUS_RUNNING]; omega
  · dsimp only [R.QY_STATUS_ARMED]; omega
  · dsimp only [R.QY_STATUS_DAC_CLAMP]; omega
  · dsimp only [R.QY_CLAMP_CNT_COUNT]; omega

section Quay
variable (s : State) (n : Nat)

theorem State.runDac_spares (h : Nat) : s.Spares (s.runDac n h) := by
  have hframe := s.runDac_frame n h
  have honly := s.runDac_onlyRegs n h
  rw [SameButQuayFlights] at hframe
  refine ⟨by rw [hframe], by rw [hframe], by rw [hframe], by rw [hframe], by rw [hframe], by rw [hframe],
    fun f hf => honly f fun g hg he => hf ?_⟩
  have hblocks := quayField_ofBlocks n g (List.mem_append_right _ hg)
  rwa [Fld.ofBlocks, he] at hblocks

theorem State.quayStop_spares : s.Spares (s.quayStop n) := by
  unfold State.quayStop
  exact .ite (((State.Spares.refl s).wr (f := R.QY_STATUS_STOPPED n) (quayField_ofBlocks n _ (by simp)) _).setQuay n _) (.refl s)

theorem State.cutQuay_spares : s.Spares (s.cutQuay n) := by
  unfold State.cutQuay
  extract_lets s1 q s2
  have h2 : s.Spares s2 := ((s.runDac_spares n (2 * s.now)).setQuay n _).setQuay n _
  exact .ite (h2.wr (f := R.QY_STATUS_RUNNING n) (quayField_ofBlocks n _ (by simp)) _) h2

theorem State.latchQuay_spares : s.Spares (s.latchQuay n) :=
  ((s.quayStop_spares n).trans ((s.quayStop n).cutQuay_spares n)).wr (f := R.QY_STATUS_ARMED n) (quayField_ofBlocks n _ (by simp)) _

end Quay

theorem portField_ofBlocks (m : Nat) :
    ∀ f ∈ [R.BC_m_STATUS_ARMED m, R.BC_m_STATUS_CHECKING m, R.BC_m_STATUS_CHECK_ABORT m, R.BC_m_STATUS_STOPPED m], f.ofBlocks := by
  intro f hf
  simp only [List.mem_cons, List.not_mem_nil, or_false] at hf
  refine .inl ?_
  rcases hf with rfl | rfl | rfl | rfl
  · dsimp only [R.BC_m_STATUS_ARMED]; omega
  · dsimp only [R.BC_m_STATUS_CHECKING]; omega
  · dsimp only [R.BC_m_STATUS_CHECK_ABORT]; omega
  · dsimp only [R.BC_m_STATUS_STOPPED]; omega

theorem State.haltPort_spares (s : State) (m : Nat) : s.Spares (s.haltPort m) := by
  unfold State.haltPort
  exact .ite (((State.Spares.refl s).setPort m _).wr (f := R.BC_m_STATUS_STOPPED m) (portField_ofBlocks m _ (by simp)) _) (.refl s)

theorem State.latchPort_spares (s : State) (m : Nat) : s.Spares (s.latchPort m) := by
  unfold State.latchPort
  extract_lets q p s1 s2
  have h1 : s.Spares s1 := ((State.Spares.refl s).setPort m _).wr (portField_ofBlocks m (R.BC_m_STATUS_ARMED m) (by simp)) _
  have hcheck := h1.wr (portField_ofBlocks m (R.BC_m_STATUS_CHECKING m) (by simp)) 0
  have h2 : s.Spares s2 := .ite (hcheck.wr (portField_ofBlocks m (R.BC_m_STATUS_CHECK_ABORT m) (by simp)) 1) h1
  exact h2.trans (s2.haltPort_spares m)

/-- The outputs of domain `d` are latched off. -/
def State.domainLatched (s : State) (d : Nat) : State :=
  if 1 ≤ d ∧ d ≤ 8 then s.latchQuay (d - 1) else if d = 22 then s.latchBeacon else s

theorem State.domainLatched_spares (s : State) (d : Nat) : s.Spares (s.domainLatched d) :=
  .ite (s.latchQuay_spares _) (.ite (.foldl State.latchPort_spares _ s) (.refl s))

/-! The block's state is lost. -/

/-- The launch path of the domain, if it is a quay's, is lost. -/
def State.quayCleared (s : State) (d : Nat) : State := if 1 ≤ d ∧ d ≤ 8 then s.clearQuay (d - 1) else s

theorem State.quayCleared_spares (s : State) (d : Nat) : s.Spares (s.quayCleared d) := .ite ((State.Spares.refl s).same rfl rfl) (.refl s)

theorem domainRegs_above {d : Nat} (hlo : 1 ≤ d) (hhi : d < 25) : 0x400000 ≤ (domainRegs d).1 := by
  revert d
  decide

theorem State.rd_resetRegs (s : State) (a b : Nat) (f : Fld) :
    (s.resetRegs a b).rd f = if 8 * a ≤ f.key ∧ f.key < 8 * b then f.reset else s.rd f := Tab.get_clear ..

theorem State.resetRegs_spares (s : State) {d : Nat} (hlo : 1 ≤ d) (hhi : d < 25) : s.Spares (s.resetRegs (domainRegs d).1 (domainRegs d).2) := by
  have habove := domainRegs_above hlo hhi
  refine ⟨rfl, rfl, rfl, rfl, rfl, rfl, fun f hf => ?_⟩
  unfold Fld.ofBlocks at hf
  rw [State.rd_resetRegs, if_neg (by omega)]

section Clear
variable (s : State) (d : Nat)

/-- What is lost beside the registers: nothing that is spared, and no register but the one of the Sounding die's rotation. -/
def State.LosesBlock (s t : State) : Prop := s.Spares t ∧ OnlyRegs [R.CL_SN_STATUS_ROT_DONE] s t

theorem State.LosesBlock.refl : s.LosesBlock s := ⟨.refl s, .refl s _⟩

theorem State.LosesBlock.same {s t u : State} (h : s.LosesBlock t) (hregs : u.regs = t.regs)
    (hrest : (u.now, u.landing, u.shed, u.hold, u.berths, u.power.held) = (t.now, t.landing, t.shed, t.hold, t.berths, t.power.held)) : s.LosesBlock u :=
  ⟨h.1.same hregs hrest, h.2.of_regs hregs⟩

theorem State.LosesBlock.fifos {s t : State} (h : s.LosesBlock t) (x : Tab (List TallyEntry)) : s.LosesBlock { t with fifos := x } := h.same rfl rfl

theorem State.LosesBlock.byb {s t : State} (h : s.LosesBlock t) (x : Bybovi) : s.LosesBlock { t with byb := x } := h.same rfl rfl

theorem State.LosesBlock.foldl {β : Type} {step : State → β → State} (hstep : ∀ t x, State.LosesBlock t (step t x)) (l : List β) (s : State) :
    s.LosesBlock (l.foldl step s) :=
  ⟨.foldl (fun t x => (hstep t x).1) l s, onlyRegs_foldl (fun t x => (hstep t x).2) l s⟩

theorem State.setCore_losesBlock (n : Nat) (c : Core) : s.LosesBlock (s.setCore n c) := (State.LosesBlock.refl s).same rfl rfl

theorem State.setLane_losesBlock (n : Nat) (l : Lane) : s.LosesBlock (s.setLane n l) := (State.LosesBlock.refl s).same rfl rfl

theorem State.setPort_losesBlock (n : Nat) (p : Port) : s.LosesBlock (s.setPort n p) := (State.LosesBlock.refl s).same rfl rfl

theorem State.clearCores_losesBlock (n : Nat) : s.LosesBlock (s.clearCores n) := by
  unfold State.clearCores
  extract_lets s1
  have hcores : s.LosesBlock s1 := .foldl (fun t i => t.setCore_losesBlock (4 * n + i) {}) _ s
  exact hcores.same rfl rfl

/-- The lanes of bank `n` are lost. -/
def State.lanesLost (s : State) (n : Nat) : State :=
  (List.range 16).foldl (fun (t : State) i =>
    t.setLane (16 * n + i) { ({} : Lane) with frame := { ({} : HistFrame) with num := (t.lane (16 * n + i)).frame.num } }) s

theorem State.lanesLost_losesBlock (n : Nat) : s.LosesBlock (s.lanesLost n) := .foldl (fun t _ => t.setLane_losesBlock _ _) _ s

/-- The ports of the Beacon are lost. -/
def State.portsLost (s : State) : State :=
  (List.range 8).foldl (fun (t : State) m =>
    t.setPort m { ({} : Port) with berth := (t.port m).berth, landed := (t.port m).landed, info := { ({} : ScanInfo) with num := (t.port m).info.num },
                                   ended := (t.port m).ended }) s

theorem State.portsLost_losesBlock : s.LosesBlock s.portsLost := .foldl (fun t _ => t.setPort_losesBlock _ _) _ s

theorem State.clearDomain_losesBlock : ((s.quayCleared d).resetRegs (domainRegs d).1 (domainRegs d).2).LosesBlock (s.clearDomain d) := by
  unfold State.clearDomain
  extract_lets r s1
  have hs1 : s1 = (s.quayCleared d).resetRegs (domainRegs d).1 (domainRegs d).2 := rfl
  rw [← hs1]
  clear_value s1
  have hrefl := State.LosesBlock.refl s1
  split
  · exact hrefl
  split
  · have hlanes := s1.lanesLost_losesBlock (d - 9)
    unfold State.lanesLost at hlanes
    exact hlanes.fifos _
  split
  · exact s1.clearCores_losesBlock (d - 17)
  split
  · have hsnd : s1.LosesBlock { s1 with snd := {} } := hrefl.same rfl rfl
    exact ⟨hsnd.1.wr (.inr (.inr rfl)) 0, hsnd.2.wr (by simp) 0⟩
  split
  · have hports := s1.portsLost_losesBlock
    unfold State.portsLost at hports
    exact hports.byb {}
  split
  · exact hrefl.same rfl rfl
  split
  · exact hrefl.same rfl rfl
  · exact hrefl

variable {d}

theorem State.clearDomain_spares (hlo : 1 ≤ d) (hhi : d < 25) : s.Spares (s.clearDomain d) :=
  ((s.quayCleared_spares d).trans ((s.quayCleared d).resetRegs_spares hlo hhi)).trans (s.clearDomain_losesBlock d).1

theorem State.rd_clearDomain (hlo : 1 ≤ d) (hhi : d < 25) {f : Fld} (h1 : 8 * (domainRegs d).1 ≤ f.key) (h2 : f.key < 8 * (domainRegs d).2) :
    (s.clearDomain d).rd f = f.reset := by
  have habove := domainRegs_above hlo hhi
  have hrot : R.CL_SN_STATUS_ROT_DONE.key ≠ f.key := by
    dsimp only [R.CL_SN_STATUS_ROT_DONE]
    omega
  rw [(s.clearDomain_losesBlock d).2 f (by simpa using hrot), State.rd_resetRegs, if_pos ⟨h1, h2⟩]

end Clear

/-! The reset of a domain (R432). -/

section Lost
variable (s : State) (d : Nat)

theorem State.keepConfig_spares : s.Spares (s.keepConfig d) := by
  unfold State.keepConfig
  exact .ite (.refl s) ((State.Spares.refl s).same rfl rfl)

/-- The domain's state is lost, its trims are to be loaded again, and it is down. -/
def State.domainLost (s : State) (d : Nat) : State :=
  { ((s.clearDomain d).loseTrims d) with power := { ((s.clearDomain d).loseTrims d).power with
      down := (((s.clearDomain d).loseTrims d).power.down ++ [d]).eraseDups
      restore := ((s.clearDomain d).loseTrims d).power.restore.filter (· != d) } }

theorem State.domainReset_of_on (h : s.powered d = true) : s.domainReset d = ((s.keepConfig d).domainLatched d).domainLost d := if_pos h

theorem State.loseTrims_spares : s.Spares (s.loseTrims d) := by
  unfold State.loseTrims
  extract_lets p s1
  have h1 : s.Spares s1 := .ite ((State.Spares.refl s).wr (.inr (.inl rfl)) _) (.refl s)
  refine h1.same rfl ?_
  have hheld : s1.power.held = p.held := h1.held
  rw [hheld]

theorem State.loseTrims_onlyRegs : OnlyRegs [R.RS_BAL_TRIM_ABORT_COUNT] s (s.loseTrims d) := by
  unfold State.loseTrims
  extract_lets p s1
  have h1 : OnlyRegs [R.RS_BAL_TRIM_ABORT_COUNT] s s1 := .ite ((OnlyRegs.refl s _).wr (by simp) _) (.refl s _)
  exact h1.of_regs rfl

theorem State.domainLost_down : d ∈ (s.domainLost d).power.down :=
  List.mem_eraseDups.mpr (List.mem_append_right _ (List.mem_singleton_self d))

theorem State.domainLost_trims : d ∉ (s.domainLost d).power.trims := by
  have htrims : (s.domainLost d).power.trims = (s.clearDomain d).power.trims.filter (· != d) := rfl
  rw [htrims]
  simp

variable {d}

theorem State.domainLost_spares (hlo : 1 ≤ d) (hhi : d < 25) : s.Spares (s.domainLost d) :=
  ((s.clearDomain_spares hlo hhi).trans ((s.clearDomain d).loseTrims_spares d)).same rfl rfl

theorem State.rd_domainLost (hlo : 1 ≤ d) (hhi : d < 25) {f : Fld} (h1 : 8 * (domainRegs d).1 ≤ f.key) (h2 : f.key < 8 * (domainRegs d).2) :
    (s.domainLost d).rd f = f.reset := by
  have habove := domainRegs_above hlo hhi
  have habort : R.RS_BAL_TRIM_ABORT_COUNT.key ≠ f.key := by
    dsimp only [R.RS_BAL_TRIM_ABORT_COUNT]
    omega
  have hrd : (s.domainLost d).rd f = ((s.clearDomain d).loseTrims d).rd f := State.rd_congr rfl f
  rw [hrd, (s.clearDomain d).loseTrims_onlyRegs d f (by simpa using habort), s.rd_clearDomain hlo hhi h1 h2]

theorem State.domainReset_spares (hlo : 1 ≤ d) (hhi : d < 25) (h : s.powered d = true) : s.Spares (s.domainReset d) := by
  rw [s.domainReset_of_on d h]
  exact ((s.keepConfig_spares d).trans (State.domainLatched_spares _ d)).trans (State.domainLost_spares _ hlo hhi)

end Lost

/-! Sources 10 and 11 act on a domain. -/

/-- Source `src` of a domain or a berth asserts while the device runs, at the level its fuse gives. -/
theorem State.assertReset_domain {s : State} {src d : Nat} (hs : s.runs) (hsrc : src = 10 ∨ src = 11) (hlo : 1 ≤ d) (hhi : d < 25)
    (hl : s.rd (R.RS_LEVEL_V_s src) = 1) : s.assertReset src [d] 0 = ((s.counted src).domainReset d).noteReset 2 src := by
  unfold State.assertReset State.levelOf
  extract_lets s1 v l level
  have hv : v = 2 := by simp only [v, hl]
  have hl2 : l = 2 := (if_neg (by omega)).trans hv
  have hlevel : level = 2 := (if_neg (by simp; omega)).trans hl2
  rw [hlevel, if_neg (by decide), if_neg (by rw [hs]; decide), if_pos rfl]
  rfl

theorem State.powered_congr {s t : State} (h : t.rd R.RS_PWR_STATUS_ON = s.rd R.RS_PWR_STATUS_ON) (d : Nat) : t.powered d = s.powered d :=
  congrArg (bit · d) h

theorem noteFields_not_ofBlocks : ∀ f ∈ noteFields, f.key < 8 * 0x400000 := by decide

theorem resetCount_apart {src : Nat} (h : src < 16) : R.RS_PWR_STATUS_ON.key ≠ (R.RS_BAL_CNT_s_COUNT src).key ∧
    ¬(R.RS_BAL_CNT_s_COUNT src).ofBlocks ∧ ∀ g ∈ noteFields, g.key ≠ (R.RS_BAL_CNT_s_COUNT src).key := by
  revert src
  unfold Fld.ofBlocks
  decide

theorem State.rd_counted_other (s : State) (src : Nat) {f : Fld} (h : (R.RS_BAL_CNT_s_COUNT src).key ≠ f.key) : (s.counted src).rd f = s.rd f :=
  State.rd_inc_other _ h

section Domain
variable {s : State} {src d : Nat} (hs : s.runs) (hsrc : src = 10 ∨ src = 11) (hlo : 1 ≤ d) (hhi : d < 25)
  (hl : s.rd (R.RS_LEVEL_V_s src) = 1) (hon : s.powered d = true)

include hsrc hon in
theorem State.counted_powered : (s.counted src).powered d = true := by
  rw [State.powered_congr (s.rd_counted_other src (Ne.symm (resetCount_apart (by omega)).1)), hon]

include hsrc hlo hhi hon in
/-- What a domain's reset spares, its count and its record set aside. -/
theorem State.assertReset_domain_spares : (s.counted src).Spares ((s.counted src).domainReset d) :=
  State.domainReset_spares _ hlo hhi (State.counted_powered hsrc hon)

include hs hsrc hlo hhi hl hon

theorem State.assertReset_domain_record : (s.assertReset src [d] 0).power.held = none ∧ d ∈ (s.assertReset src [d] 0).power.down ∧
    d ∉ (s.assertReset src [d] 0).power.trims ∧ (s.assertReset src [d] 0).rd R.RS_LAST_LEVEL = 2 ∧ (s.assertReset src [d] 0).rd R.RS_LAST_SRC = src := by
  have hspares := State.assertReset_domain_spares hsrc hlo hhi hon
  rw [State.assertReset_domain hs hsrc hlo hhi hl]
  obtain ⟨hlevel, hsrcr, -⟩ := ((s.counted src).domainReset d).rd_noteReset 2 src
  have hdown := ((((s.counted src).keepConfig d).domainLatched d)).domainLost_down d
  have htrims := ((((s.counted src).keepConfig d).domainLatched d)).domainLost_trims d
  rw [← State.domainReset_of_on _ d (State.counted_powered hsrc hon)] at hdown htrims
  exact ⟨hspares.held.trans hs, hdown, htrims, hlevel, hsrcr.trans (by rcases hsrc with rfl | rfl <;> rfl)⟩

theorem State.assertReset_domain_frame : (s.assertReset src [d] 0).now = s.now ∧ (s.assertReset src [d] 0).landing = s.landing ∧
    (s.assertReset src [d] 0).shed = s.shed ∧ (s.assertReset src [d] 0).hold = s.hold ∧ (s.assertReset src [d] 0).berths = s.berths := by
  have hspares := State.assertReset_domain_spares hsrc hlo hhi hon
  rw [State.assertReset_domain hs hsrc hlo hhi hl]
  obtain ⟨u, hu⟩ : ∃ u, u = (s.counted src).domainReset d := ⟨_, rfl⟩
  rw [← hu] at hspares ⊢
  exact ⟨hspares.now, hspares.landing, hspares.shed, hspares.hold, hspares.berths⟩

theorem State.rd_assertReset_domain {f : Fld} (hf : ¬f.ofBlocks) (hnote : ∀ g ∈ noteFields, g.key ≠ f.key) :
    (s.assertReset src [d] 0).rd f = (s.counted src).rd f := by
  rw [State.assertReset_domain hs hsrc hlo hhi hl, State.noteReset_onlyRegs _ 2 src f hnote,
    (State.assertReset_domain_spares hsrc hlo hhi hon).rd f hf]

theorem State.rd_assertReset_domain_count :
    (s.assertReset src [d] 0).rd (R.RS_BAL_CNT_s_COUNT src) = satAdd 16 (s.rd (R.RS_BAL_CNT_s_COUNT src)) 1 := by
  obtain ⟨-, hblocks, hnote⟩ := resetCount_apart (src := src) (by omega)
  rw [State.rd_assertReset_domain hs hsrc hlo hhi hl hon hblocks hnote, State.rd_counted]

theorem State.rd_assertReset_domain_block {f : Fld} (h1 : 8 * (domainRegs d).1 ≤ f.key) (h2 : f.key < 8 * (domainRegs d).2) :
    (s.assertReset src [d] 0).rd f = f.reset := by
  have habove := domainRegs_above hlo hhi
  rw [State.assertReset_domain hs hsrc hlo hhi hl, State.noteReset_onlyRegs _ 2 src f fun g hg => by have := noteFields_not_ofBlocks g hg; omega,
    State.domainReset_of_on _ d (State.counted_powered hsrc hon), State.rd_domainLost _ hlo hhi h1 h2]

end Domain

/-! A write of RS_DOM_RST. -/

section DomainWrite
variable {s : State} (hs : s.runs) (d : Fin 32)
include hs

theorem exec_domainResetWrite (h : d.val ≤ 25) :
    exec (.domainResetWrite d) s = .next ((s.wr R.RS_DOM_RST_DOMAIN d).assertReset 10 [d.val] 0) := by
  show execDomainResetWrite d s = _
  rw [execDomainResetWrite, State.live_runs hs, if_neg (by omega)]
  rfl

theorem exec_domainResetWrite_of_none (h : 25 < d.val) : exec (.domainResetWrite d) s = .next s := by
  show execDomainResetWrite d s = _
  rw [execDomainResetWrite, State.live_runs hs, if_pos h]
  rfl

theorem domainResetWrite_resets (hlo : 1 ≤ d.val) (hhi : d.val < 25) (hl : s.rd (R.RS_LEVEL_V_s 10) = 1) (hon : s.powered d = true) :
    ∃ t, exec (.domainResetWrite d) s = .next t ∧ t.power.held = none ∧ d.val ∈ t.power.down ∧ d.val ∉ t.power.trims ∧
      t.rd R.RS_DOM_RST_DOMAIN = d.val ∧ t.rd (R.RS_BAL_CNT_s_COUNT 10) = satAdd 16 (s.rd (R.RS_BAL_CNT_s_COUNT 10)) 1 ∧
      t.rd R.RS_LAST_LEVEL = 2 ∧ t.rd R.RS_LAST_SRC = 10 ∧
      (∀ f : Fld, 8 * (domainRegs d).1 ≤ f.key → f.key < 8 * (domainRegs d).2 → t.rd f = f.reset) ∧ t.now = s.now ∧
      t.landing = s.landing ∧ t.shed = s.shed ∧ t.hold = s.hold ∧ t.berths = s.berths := by
  have hexec := exec_domainResetWrite hs d (by omega)
  obtain ⟨u, hu⟩ : ∃ u, u = s.wr R.RS_DOM_RST_DOMAIN d := ⟨_, rfl⟩
  have hrd : ∀ f : Fld, R.RS_DOM_RST_DOMAIN.key ≠ f.key → u.rd f = s.rd f := fun f hf => hu ▸ s.rd_wr_other _ hf
  have hus : u.runs := by rw [hu]; exact hs
  have hul : u.rd (R.RS_LEVEL_V_s 10) = 1 := (hrd _ (by decide)).trans hl
  have huon : u.powered d = true := (State.powered_congr (hrd _ (by decide)) d).trans hon
  have hname : u.rd R.RS_DOM_RST_DOMAIN = d.val := by rw [hu]; exact s.rd_wr_of_lt d.isLt
  rw [← hu] at hexec
  obtain ⟨hheld, hdown, htrims, hlevel, hsrc⟩ := State.assertReset_domain_record hus (.inl rfl) hlo hhi hul huon
  obtain ⟨hnow, hlanding, hshed, hhold, hberths⟩ := State.assertReset_domain_frame hus (.inl rfl) hlo hhi hul huon
  refine ⟨_, hexec, hheld, hdown, htrims, ?_, ?_, hlevel, hsrc, fun f h1 h2 => State.rd_assertReset_domain_block hus (.inl rfl) hlo hhi hul huon h1 h2,
    ?_, ?_, ?_, ?_, ?_⟩
  · rw [State.rd_assertReset_domain hus (.inl rfl) hlo hhi hul huon (by unfold Fld.ofBlocks; decide) (by decide),
      u.rd_counted_other 10 (by decide), hname]
  · rw [State.rd_assertReset_domain_count hus (.inl rfl) hlo hhi hul huon, hrd _ (by decide)]
  · rw [hnow, hu, State.wr_now]
  · rw [hlanding, hu, State.wr_landing]
  · rw [hshed, hu, State.wr_shed]
  · rw [hhold, hu, State.wr_hold]
  · rw [hberths, hu, State.wr_berths]

/-- PD_CORE and PD_BAL are out of reach of an L2 reset: the device is reset at L1. -/
theorem domainResetWrite_of_core (h : d.val = 0 ∨ d.val = 25) (hl : s.rd (R.RS_LEVEL_V_s 10) = 1) :
    ∃ t, exec (.domainResetWrite d) s = .next t ∧ t.power.held = some (1, 10) := by
  have hus : (s.wr R.RS_DOM_RST_DOMAIN d).runs := hs
  have hwhole : wholeSource 10 [d.val] := .inr (.inr (by rcases h with h | h <;> simp [h]))
  have hlevel : (s.wr R.RS_DOM_RST_DOMAIN d).wholeLevel 10 = 1 := by
    rw [State.wholeLevel, State.rd_wr_other _ _ (by decide), hl]
    rfl
  refine ⟨_, exec_domainResetWrite hs d (by omega), ?_⟩
  rw [State.assertReset_begins _ hwhole (by decide) 0 (.inl hus), hlevel]
  rfl

end DomainWrite

/-! A Lock's timeout (R445). -/

theorem exec_lockTimeout {s : State} (hs : s.runs) (d : Fin 26) : exec (.lockTimeout d) s =
    .next (if s.powered d then (s.wrBit R.RS_LOCK_TMO_TMO d true).assertReset 11 [d.val] 0 else s) := by
  show execLockTimeout d s = _
  rw [execLockTimeout, State.live_runs hs]
  split <;> rfl

theorem lockTimeout_resets {s : State} (hs : s.runs) (d : Fin 26) (hlo : 1 ≤ d.val) (hhi : d.val < 25) (hl : s.rd (R.RS_LEVEL_V_s 11) = 1)
    (hon : s.powered d = true) : ∃ t, exec (.lockTimeout d) s = .next t ∧ bit (t.rd R.RS_LOCK_TMO_TMO) d = true ∧
      t.rd (R.RS_BAL_CNT_s_COUNT 11) = satAdd 16 (s.rd (R.RS_BAL_CNT_s_COUNT 11)) 1 ∧ d.val ∈ t.power.down ∧ t.power.held = none := by
  have hexec := exec_lockTimeout hs d
  rw [if_pos hon] at hexec
  have htmo := s.bit_wrBit_same (f := R.RS_LOCK_TMO_TMO) true d.isLt
  obtain ⟨u, hu⟩ : ∃ u, u = s.wrBit R.RS_LOCK_TMO_TMO d true := ⟨_, rfl⟩
  have hrd : ∀ f : Fld, R.RS_LOCK_TMO_TMO.key ≠ f.key → u.rd f = s.rd f := fun f hf => hu ▸ s.rd_wrBit_other _ _ hf
  have hus : u.runs := by rw [hu]; exact hs
  have hul : u.rd (R.RS_LEVEL_V_s 11) = 1 := (hrd _ (by decide)).trans hl
  have huon : u.powered d = true := (State.powered_congr (hrd _ (by decide)) d).trans hon
  rw [← hu] at hexec htmo
  obtain ⟨hheld, hdown, -, -, -⟩ := State.assertReset_domain_record hus (.inr rfl) hlo hhi hul huon
  refine ⟨_, hexec, ?_, ?_, hdown, hheld⟩
  · rw [State.rd_assertReset_domain hus (.inr rfl) hlo hhi hul huon (by unfold Fld.ofBlocks; decide) (by decide),
      u.rd_counted_other 11 (by decide), htmo]
  · rw [State.rd_assertReset_domain_count hus (.inr rfl) hlo hhi hul huon, hrd _ (by decide)]

/-! The reset of a berth (R436). -/

/-- The state in which the reset of a berth is counted and recorded. -/
def State.berthNoted (s : State) (index : Nat) : State := ((s.wr R.RS_BERTH_RST_INDEX index).counted 12).noteReset 3 12

theorem State.assertReset_berth {s : State} (hs : s.runs) (hl : s.rd (R.RS_LEVEL_V_s 12) = 0) (domains : List Nat) (berth : Nat) :
    s.assertReset 12 domains berth =
      if (s.berth berth).isOpen then ((s.counted 12).noteReset 3 12).accept (.berthReset berth) else (s.counted 12).noteReset 3 12 := by
  unfold State.assertReset State.levelOf
  extract_lets s1 v l level
  have hv : v = 3 := by simp only [v, hl]
  have hl3 : l = 3 := (if_neg (by omega)).trans hv
  have hlevel : level = 3 := (if_neg (by omega)).trans hl3
  rw [hlevel, if_neg (by decide), if_neg (by rw [hs]; decide), if_neg (by decide)]
  rfl

theorem exec_berthResetWrite {s : State} (hs : s.runs) (index : Fin 4096) (hl : s.rd (R.RS_LEVEL_V_s 12) = 0) : exec (.berthResetWrite index) s =
    .next (if (s.berth index).isOpen then (s.berthNoted index).accept (.berthReset index) else s.berthNoted index) := by
  have hus : (s.wr R.RS_BERTH_RST_INDEX index).runs := hs
  have hul : (s.wr R.RS_BERTH_RST_INDEX index).rd (R.RS_LEVEL_V_s 12) = 0 := (State.rd_wr_other _ _ (by decide)).trans hl
  show execBerthResetWrite index s = _
  rw [execBerthResetWrite, State.live_runs hs, State.assertReset_berth hus hul]
  rfl

theorem State.rd_berthNoted (s : State) (index : Fin 4096) : (s.berthNoted index).rd R.RS_BERTH_RST_INDEX = index.val ∧
    (s.berthNoted index).rd (R.RS_BAL_CNT_s_COUNT 12) = satAdd 16 (s.rd (R.RS_BAL_CNT_s_COUNT 12)) 1 ∧
    (s.berthNoted index).rd R.RS_LAST_LEVEL = 3 ∧ (s.berthNoted index).rd R.RS_LAST_SRC = 12 := by
  obtain ⟨hlevel, hsrc, -⟩ := ((s.wr R.RS_BERTH_RST_INDEX index).counted 12).rd_noteReset 3 12
  refine ⟨?_, ?_, hlevel, hsrc⟩
  · rw [State.berthNoted, State.noteReset_onlyRegs _ 3 12 _ (by decide), State.rd_counted_other _ 12 (by decide)]
    exact s.rd_wr_of_lt index.isLt
  · rw [State.berthNoted, State.noteReset_onlyRegs _ 3 12 _ (by decide), State.rd_counted, State.rd_wr_other _ _ (by decide)]

theorem State.berthNoted_sameButRegs (s : State) (index : Nat) : SameButRegs s (s.berthNoted index) :=
  (((SameButRegs.refl s).wr _ _).wr _ _).trans (State.noteReset_sameButRegs _ 3 12)

theorem berthReset_fields : ∀ f ∈ [R.RS_BERTH_RST_INDEX, R.RS_BAL_CNT_s_COUNT 12, R.RS_LAST_LEVEL, R.RS_LAST_SRC],
    ∀ g ∈ landFields, g.key ≠ f.key := by decide

theorem berthResetWrite_waits {s : State} (hs : s.runs) (index : Fin 4096) (hl : s.rd (R.RS_LEVEL_V_s 12) = 0) :
    ∃ t, exec (.berthResetWrite index) s = .next t ∧ t.rd (R.RS_BAL_CNT_s_COUNT 12) = satAdd 16 (s.rd (R.RS_BAL_CNT_s_COUNT 12)) 1 ∧
      t.rd R.RS_BERTH_RST_INDEX = index.val ∧ t.rd R.RS_LAST_LEVEL = 3 ∧ t.rd R.RS_LAST_SRC = 12 ∧
      ((s.berth index).isOpen = true → Accepted (.berthReset index) s t) ∧ ((s.berth index).isOpen = false → t.landing = s.landing) ∧
      t = { s with regs := t.regs, landing := t.landing } := by
  have hexec := exec_berthResetWrite hs index hl
  obtain ⟨hindex, hcount, hlevel, hsrc⟩ := s.rd_berthNoted index
  have hsame := s.berthNoted_sameButRegs index
  obtain ⟨u, hu⟩ : ∃ u, u = s.berthNoted index := ⟨_, rfl⟩
  rw [← hu] at hexec hindex hcount hlevel hsrc hsame
  have hframe := hsame.sameButWaiting
  rw [SameButRegs] at hsame
  cases hopen : (s.berth index).isOpen with
  | true =>
    rw [if_pos hopen] at hexec
    have hrd : ∀ f ∈ [R.RS_BERTH_RST_INDEX, R.RS_BAL_CNT_s_COUNT 12, R.RS_LAST_LEVEL, R.RS_LAST_SRC],
        (u.accept (.berthReset index)).rd f = u.rd f := fun f hf => State.rd_accept_other _ _ (berthReset_fields f hf)
    exact ⟨_, hexec, (hrd _ (by simp)).trans hcount, (hrd _ (by simp)).trans hindex, (hrd _ (by simp)).trans hlevel, (hrd _ (by simp)).trans hsrc,
      fun _ => State.accepted_accept _ (by rw [hsame]) (by rw [hsame]), nofun, hframe.accept _⟩
  | false =>
    rw [if_neg (by simp [hopen])] at hexec
    exact ⟨_, hexec, hcount, hindex, hlevel, hsrc, nofun, fun _ => by rw [hsame], hframe⟩

/-! A domain is ready again (R435, R438, R442). -/

/-- The power state once domain `d` is ready, trims being loaded or on their way if `up`. -/
def Power.ready (p : Power) (d : Nat) (up : Bool) : Power :=
  { p with down := p.down.filter (· != d)
           image := if hasTrims d && up then (p.image ++ [d]).eraseDups else p.image
           restore := if hasTrims d || d == 24 then p.restore else (p.restore ++ [d]).eraseDups }

theorem Power.ready_down (p : Power) (d : Nat) (up : Bool) : d ∉ (p.ready d up).down := by
  rw [Power.ready]
  simp

theorem mem_eraseDups_concat (l : List Nat) (d : Nat) : d ∈ (l ++ [d]).eraseDups :=
  List.mem_eraseDups.mpr (List.mem_append_right _ (List.mem_singleton_self d))

theorem Power.ready_image (p : Power) {d : Nat} (h : hasTrims d = true) : d ∈ (p.ready d true).image := by
  have himage : (p.ready d true).image = (p.image ++ [d]).eraseDups := if_pos (by rw [h]; rfl)
  exact himage ▸ mem_eraseDups_concat ..

theorem Power.ready_restore (p : Power) {d : Nat} (h : hasTrims d = false) (h24 : d ≠ 24) (up : Bool) : d ∈ (p.ready d up).restore := by
  have hrestore : (p.ready d up).restore = (p.restore ++ [d]).eraseDups := if_neg (by simp [h, h24])
  exact hrestore ▸ mem_eraseDups_concat ..

/-- The trims are loaded, or load. -/
def State.trimsUp (s : State) : Bool := s.on R.CL_STATUS_LOADED || s.on R.CL_STATUS_LOADING

theorem State.trimsUp_of_loaded {s : State} (h : s.rd R.CL_STATUS_LOADED = 1) : s.trimsUp = true := by
  rw [State.trimsUp, (s.on_iff _).mpr h, Bool.true_or]

/-- The state in which PD_WH is ready, its registers restored from what was kept. -/
def State.warehouseReady (s : State) : State :=
  { s with regs := (Tab.get [] s.power.kept 24).foldl (fun t e => Tab.insert t e.1 e.2) s.regs
           power := { s.power.ready 24 s.trimsUp with kept := Tab.put [] s.power.kept 24 [] } }

section Ready
variable {s : State} (hs : s.runs) (d : Fin 26)
include hs

theorem exec_domainReady_of_no (h : d.val ∉ s.power.down ∨ s.powered d = false) : exec (.domainReady d) s = .next s := by
  show execDomainReady d s = _
  rw [execDomainReady, State.live_runs hs]
  refine if_neg fun hc => ?_
  obtain ⟨hdown, hon⟩ := hc
  rcases h with h | h
  · exact h (List.contains_iff_mem.mp hdown)
  · exact absurd hon (by simp [h])

variable (hdown : d.val ∈ s.power.down) (hon : s.powered d = true)
include hdown hon

theorem exec_domainReady (h22 : d.val ≠ 22) (h24 : d.val ≠ 24) :
    exec (.domainReady d) s = .next { s with power := s.power.ready d s.trimsUp } := by
  show execDomainReady d s = _
  rw [execDomainReady, State.live_runs hs]
  dsimp only
  rw [if_pos ⟨List.contains_iff_mem.mpr hdown, hon⟩, if_neg h24, if_neg h22]
  rfl

theorem exec_domainReady_warehouse (h24 : d.val = 24) (hup : s.trimsUp = true) :
    exec (.domainReady d) s = .next (s.warehouseReady.wr R.WH_STATUS_TRAINING 1) := by
  show execDomainReady d s = _
  rw [execDomainReady, State.live_runs hs]
  dsimp only
  rw [if_pos ⟨List.contains_iff_mem.mpr hdown, hon⟩, if_pos h24, if_pos (by exact hup), h24]
  rfl

end Ready

theorem hasTrims_iff (d : Nat) : hasTrims d = true ↔ (1 ≤ d ∧ d ≤ 16) ∨ d = 21 := by
  unfold hasTrims
  simp

/-- The sources that are always heard reach the whole device. -/
theorem hearsWhole_of_lt {s : State} {src : Nat} (h : src < 10) (h0 : src ≠ 0) (v : Option Nat) : s.hearsWhole src v :=
  ⟨by omega, by omega, by omega, fun h14 => by omega, fun he => absurd he h0⟩

theorem exec_resetAssert_of_lt {s : State} {src : Fin 16} {n : Nat} (hn : src.val = n) (h : n < 10) (h0 : n ≠ 0) (v : Option Nat) :
    exec (.resetAssert ⟨src, v⟩) s = .next (s.assertReset n [] 0) := by
  subst hn
  rw [exec_resetAssert (hearsWhole_of_lt h h0 v), State.sensed, Power.sensed_of_ne _ h0]

theorem exec_thermalTrip (s : State) : exec .thermalTrip s = .next (s.assertReset 6 [] 0) := rfl

theorem exec_brownOut (s : State) : exec .brownOut s = .next (s.assertReset 7 [] 0) := rfl

theorem exec_warmResetWrite {s : State} (hs : s.runs) : exec .warmResetWrite s = .next (s.assertReset 8 [] 0) := by
  show execWarmResetWrite s = _
  rw [execWarmResetWrite, State.live_runs hs, goOn]

theorem exec_coldResetWrite {s : State} (hs : s.runs) : exec .coldResetWrite s = .next (s.assertReset 9 [] 0) := by
  show execColdResetWrite s = _
  rw [execColdResetWrite, State.live_runs hs, goOn]

theorem exec_supplyFault (s : State) : exec .supplyFault s = .next ((s.nextFree.assertReset 0 [] 0).sensed 0 (some s.freeNow)) := rfl

/-- Outside a reset, each of these commands holds the device from its source and is counted. -/
theorem sources_hold {s : State} (hs : s.runs) (lev : Nat → Nat) (hlev : ∀ k, lev k = s.wholeLevel k) :
    (∃ t, exec .thermalTrip s = .next t ∧ t.power.held = some (lev 6, 6) ∧ t.rd (R.RS_BAL_CNT_s_COUNT 6) = satAdd 16 (s.rd (R.RS_BAL_CNT_s_COUNT 6)) 1) ∧
    (∃ t, exec .brownOut s = .next t ∧ t.power.held = some (lev 7, 7) ∧ t.rd (R.RS_BAL_CNT_s_COUNT 7) = satAdd 16 (s.rd (R.RS_BAL_CNT_s_COUNT 7)) 1) ∧
    (∃ t, exec .warmResetWrite s = .next t ∧ t.power.held = some (lev 8, 8) ∧ t.rd (R.RS_BAL_CNT_s_COUNT 8) = satAdd 16 (s.rd (R.RS_BAL_CNT_s_COUNT 8)) 1) ∧
    (∃ t, exec .coldResetWrite s = .next t ∧ t.power.held = some (lev 9, 9) ∧ t.rd (R.RS_BAL_CNT_s_COUNT 9) = satAdd 16 (s.rd (R.RS_BAL_CNT_s_COUNT 9)) 1) ∧
    ∃ t, exec .supplyFault s = .next t ∧ t.power.held = some (lev 0, 0) ∧ t.rd (R.RS_BAL_CNT_s_COUNT 0) = satAdd 16 (s.rd (R.RS_BAL_CNT_s_COUNT 0)) 1 := by
  have hholds := fun k (hk : k < 10) => State.assertReset_holds hs (src := k) (.inl hk) (by omega) [] 0
  simp only [hlev]
  refine ⟨⟨_, exec_thermalTrip s, hholds 6 (by decide)⟩, ⟨_, exec_brownOut s, hholds 7 (by decide)⟩, ⟨_, exec_warmResetWrite hs, hholds 8 (by decide)⟩,
    ⟨_, exec_coldResetWrite hs, hholds 9 (by decide)⟩, ⟨_, exec_supplyFault s, ?_⟩⟩
  have hfree : s.nextFree.runs := hs
  obtain ⟨hheld, hcount⟩ := State.assertReset_holds hfree (src := 0) (.inl (by decide)) (by decide) [] 0
  exact ⟨(Power.sensed_held ..).trans hheld, hcount⟩

/-- Settles O48, source by source: the device's resets and their release, those of a domain and a berth, and a domain that is ready. -/
theorem resetsBeginAndEnd : Obligations.ResetsBeginAndEnd := by
  refine ⟨fun src v lev s h10 h11 h12 h14 h0 hlev => ?_, rampUp_leaves_nothing, fun v s h => exec_resetAssert_of_debug h v, fun v s => ?_,
    fun s => ⟨exec_resetRelease_of_none, fun lev src => resetRelease_records⟩, fun d s hs => ?_, fun index s hs => berthResetWrite_waits hs index,
    fun d s hs => ⟨fun hoff => ?_, lockTimeout_resets hs d⟩, fun d s hs => ⟨exec_domainReady_of_no hs d, fun hdown hon => ⟨fun ht hl => ?_, fun ht => ?_,
      fun ht hl => ?_⟩⟩⟩
  · have hears : s.hearsWhole src v := ⟨h10, h11, h12, h14, h0⟩
    exact ⟨resetAssert_takes hears hlev, fun k hk hle => resetAssert_absorbs hears hk (hle.trans hlev.le)⟩
  · refine ⟨?_, ?_, ?_, fun hs => ⟨?_, ?_⟩, sources_hold⟩
    · rw [exec_resetAssert_of_lt (n := 6) rfl (by decide) (by decide), exec_thermalTrip]
    · rw [exec_resetAssert_of_lt (n := 7) rfl (by decide) (by decide), exec_brownOut]
    · rfl
    · rw [exec_resetAssert_of_lt (n := 8) rfl (by decide) (by decide), exec_warmResetWrite hs]
    · rw [exec_resetAssert_of_lt (n := 9) rfl (by decide) (by decide), exec_coldResetWrite hs]
  · exact ⟨domainResetWrite_resets hs d, exec_domainResetWrite_of_none hs d, domainResetWrite_of_core hs d⟩
  · rw [exec_lockTimeout hs d, if_neg (by simp [hoff])]
  · have hup := State.trimsUp_of_loaded hl
    exact ⟨_, exec_domainReady hs d hdown hon (by omega) (by omega), s.power.ready_down d _, hup ▸ s.power.ready_image ((hasTrims_iff d).mpr ht), rfl⟩
  · have hnone : hasTrims d = false := Bool.eq_false_iff.mpr fun h => by have := (hasTrims_iff d).mp h; omega
    exact ⟨_, exec_domainReady hs d hdown hon (by omega) (by omega), s.power.ready_down d _, s.power.ready_restore hnone (by omega) _, rfl⟩
  · refine ⟨_, exec_domainReady_warehouse hs d hdown hon ht (State.trimsUp_of_loaded hl), ?_, State.rd_wr_same ..⟩
    rw [ht]
    exact s.power.ready_down 24 s.trimsUp

end Sys2Proof.Machine
end

section
/-! SUPPORT. What the parts of a tide boundary leave alone: device time, the rate, the Charter, the links, the PLLs, the Ballast's queue, the waiting
commands and the changes that wait to land (R25, R26, R36): statement O14. -/

namespace Sys2Proof.Machine

/-- The changes of a quay's run and plan, which a quay's restoration may drop or accept anew (R435). -/
def ownPlan : Change → Bool
  | .quayRun _ _ => true
  | .planSwitch _ _ => true
  | _ => false

/-- The waiting changes other than those of a quay's run and plan. -/
def State.others (s : State) : List Landing := s.landing.filter (fun l => !ownPlan l.change)

/-- What a tide boundary moves through device time and the landings alone. -/
structure Clock where
  now : Nat
  rate : Int
  charter : Tab Byte
  links : Tab Link
  pllLost : Nat
  ballast : List (Nat × Nat)
  pending : List Instr
  others : List Landing

def State.clock (s : State) : Clock := ⟨s.now, s.rate, s.charter, s.links, s.pllLost, s.ballast, s.pending, s.others⟩

/-- The fields of HB_TIME_STATUS that a step and a rate correction move. -/
def timeFields : List Fld := [R.HB_TIME_STATUS_STEP_PENDING, R.HB_TIME_STATUS_STEPPED, R.HB_TIME_STATUS_SLEWING]

/-- The clock with every waiting change and the fields that show it. -/
def State.time (s : State) : Clock × List Landing × List Nat := (s.clock, s.landing, timeFields.map s.rd)

/-! What two states may agree in. -/

section Views
variable {α β γ : Type} (v : State → α)

theorem view_ite {c : Prop} [Decidable c] {s t u : State} (ht : v t = v s) (hu : v u = v s) : v (if c then t else u) = v s := by
  split
  · exact ht
  · exact hu

theorem view_foldl {step : State → β → State} (h : ∀ t x, v (step t x) = v t) : ∀ (l : List β) (s : State), v (l.foldl step s) = v s
  | [], _ => rfl
  | x :: l, s => (view_foldl h l (step s x)).trans (h s x)

theorem view_foldl_fst {step : State × γ → β → State × γ} (h : ∀ p x, v (step p x).1 = v p.1) :
    ∀ (l : List β) (p : State × γ), v (l.foldl step p).1 = v p.1
  | [], _ => rfl
  | x :: l, p => (view_foldl_fst h l (step p x)).trans (h p x)

end Views

theorem State.clock_of_time {s t : State} (h : t.time = s.time) : t.clock = s.clock := congrArg Prod.fst h

theorem State.rd_of_time {s t : State} (h : t.time = s.time) {f : Fld} (hf : f ∈ timeFields) : t.rd f = s.rd f :=
  List.map_inj_left.mp (congrArg (fun x => x.2.2) h) f hf

theorem State.landing_of_time {s t : State} (h : t.time = s.time) : t.landing = s.landing := congrArg (fun x => x.2.1) h

theorem State.time_of_onlyRegs {fs : List Fld} {s t : State} (hc : t.clock = s.clock) (hl : t.landing = s.landing) (h : OnlyRegs fs s t)
    (hfs : ∀ f ∈ timeFields, ∀ g ∈ fs, g.key ≠ f.key) : t.time = s.time := by
  rw [State.time, State.time, hc, hl, List.map_congr_left fun f hf => h f (hfs f hf)]

theorem State.time_of_regs {s t : State} (hc : t.clock = s.clock) (hl : t.landing = s.landing) (h : t.regs = s.regs) : t.time = s.time :=
  State.time_of_onlyRegs (fs := []) hc hl (fun f _ => State.rd_congr h f) (by simp)

/-- The field lies above HB_TIME_STATUS. -/
def Fld.afterTime (f : Fld) : Prop := 8 * 0x20 ≤ f.key

theorem Fld.afterTime.ne {f : Fld} (h : f.afterTime) : ∀ g ∈ timeFields, f.key ≠ g.key := by
  intro g hg
  have hlt : g.key < 8 * 0x20 := by
    revert g
    decide
  unfold Fld.afterTime at h
  omega

@[simp] theorem State.time_wr (s : State) {f : Fld} (h : f.afterTime) (v : Nat) : (s.wr f v).time = s.time :=
  State.time_of_onlyRegs (fs := [f]) rfl rfl ((OnlyRegs.refl s _).wr (by simp) v) fun g hg k hk => by
    obtain rfl := List.mem_singleton.mp hk
    exact h.ne g hg

@[simp] theorem State.clock_wr (s : State) (f : Fld) (v : Nat) : (s.wr f v).clock = s.clock := (rfl)

@[simp] theorem State.clock_wrB (s : State) (f : Fld) (b : Bool) : (s.wrB f b).clock = s.clock := (rfl)

@[simp] theorem State.clock_wrBit (s : State) (f : Fld) (i : Nat) (b : Bool) : (s.wrBit f i b).clock = s.clock := (rfl)

@[simp] theorem State.clock_wrPair (s : State) (f g : Fld) (v : Nat) : (s.wrPair f g v).clock = s.clock := (rfl)

@[simp] theorem State.clock_inc (s : State) (f : Fld) : (s.inc f).clock = s.clock := (rfl)

@[simp] theorem State.clock_setBerth (s : State) (n : Nat) (x : Berth) : (s.setBerth n x).clock = s.clock := (rfl)

@[simp] theorem State.clock_setQuay (s : State) (n : Nat) (x : Quay) : (s.setQuay n x).clock = s.clock := (rfl)

@[simp] theorem State.clock_setDas (s : State) (n : Nat) (x : Das) : (s.setDas n x).clock = s.clock := (rfl)

@[simp] theorem State.clock_setFlow (s : State) (n : Nat) (x : Flow) : (s.setFlow n x).clock = s.clock := (rfl)

@[simp] theorem State.clock_setQuayTrim (s : State) (n : Nat) (x : QuayTrim) : (s.setQuayTrim n x).clock = s.clock := (rfl)

@[simp] theorem State.clock_setLane (s : State) (n : Nat) (x : Lane) : (s.setLane n x).clock = s.clock := (rfl)

@[simp] theorem State.clock_setPort (s : State) (n : Nat) (x : Port) : (s.setPort n x).clock = s.clock := (rfl)

@[simp] theorem State.clock_setTaps (s : State) (n : Nat) (x : TapTable) : (s.setTaps n x).clock = s.clock := (rfl)

@[simp] theorem State.clock_setChan (s : State) (n : Nat) (x : Chan) : (s.setChan n x).clock = s.clock := (rfl)

@[simp] theorem State.clock_setCore (s : State) (n : Nat) (x : Core) : (s.setCore n x).clock = s.clock := (rfl)

@[simp] theorem State.clock_setCluster (s : State) (n : Nat) (x : Cluster) : (s.setCluster n x).clock = s.clock := (rfl)

@[simp] theorem State.clock_setStream (s : State) (n : Nat) (x : Stream) : (s.setStream n x).clock = s.clock := (rfl)

@[simp] theorem State.clock_signal (s : State) (v : Nat) : (s.signal v).clock = s.clock := (rfl)

@[simp] theorem State.clock_resetRegs (s : State) (a b : Nat) : (s.resetRegs a b).clock = s.clock := (rfl)

theorem SameButRegs.clock {s t : State} (h : SameButRegs s t) : t.clock = s.clock := by
  rw [SameButRegs] at h
  rw [h]
  rfl

theorem SameButShed.clock {s t : State} (h : SameButShed s t) : t.clock = s.clock := by
  rw [SameButShed] at h
  rw [h]
  rfl

theorem SameButLedger.clock {s t : State} (h : SameButLedger s t) : t.clock = s.clock := by
  rw [SameButLedger] at h
  rw [h]
  rfl

theorem State.shedWrite_time (s : State) (a : Nat) (bs : List Byte) : (s.shedWrite a bs).time = s.time :=
  State.time_of_onlyRegs (s.shedWrite_frame a bs).1.clock (by rw [(s.shedWrite_frame a bs).1]) (s.shedWrite_frame a bs).2 (by decide)

@[simp] theorem State.clock_event (s : State) (code point : Nat) (args : List Nat) : (s.event code point args).clock = s.clock :=
  (s.event_sameButLedger code point args).clock

/-! The closing tide is accounted (Table 2.1). -/

@[simp] theorem State.clock_overrun (s : State) (n : Nat) (e : EngineTide) : (s.overrun n e).clock = s.clock := by
  unfold State.overrun
  extract_lets s1
  have h1 : s1.clock = s.clock := by
    unfold s1
    split
    · exact view_ite State.clock (s.clock_wr _ _) rfl
    · rfl
  simp [h1]

@[simp] theorem State.clock_closeEngine (loads : List TideLoad) (reserve : List Nat) (s : State) (n : Nat) :
    (s.closeEngine loads reserve n).clock = s.clock := by
  unfold State.closeEngine
  extract_lets k bs w own e s1 s2 lost s3 c s4
  have h1 : s1.clock = s.clock := by simp [s1]
  clear_value s1
  have h2 : s2.clock = s1.clock := view_ite State.clock (s1.clock_overrun n e) rfl
  clear_value s2
  have h3 : s3.clock = s2.clock := view_ite State.clock (s2.clock_inc _) rfl
  clear_value s3
  have h4 : s4.clock = s3.clock := rfl
  clear_value s4
  exact (view_foldl State.clock (fun _ _ => by simp) _ s4).trans (h4.trans (h3.trans (h2.trans h1)))

@[simp] theorem State.clock_closeTide (s : State) (loads : List TideLoad) (reserve : List Nat) : (s.closeTide loads reserve).clock = s.clock :=
  view_foldl State.clock (fun t n => State.clock_closeEngine loads reserve t n) _ s

/-! A forward step (R26). -/

@[simp] theorem State.clock_skipQuay (v b : Nat) (s : State) (n : Nat) : (State.skipQuay v b s n).clock = s.clock := (rfl)

@[simp] theorem State.clock_skipTides (s : State) (v b : Nat) : (s.skipTides v b).clock = s.clock := by
  unfold State.skipTides
  extract_lets k s1 tug job port
  have h1 : s1.clock = s.clock := view_foldl State.clock (State.clock_skipQuay v b) _ s
  exact h1

@[simp] theorem State.clock_moveLand (s : State) (b0 b : Nat) : (s.moveLand b0 b).clock = s.clock := by
  unfold State.moveLand
  exact view_ite State.clock rfl rfl

/-! The Pier (R331). -/

@[simp] theorem State.clock_showCore (s : State) (k : Nat) : (s.showCore k).clock = s.clock := by
  unfold State.showCore
  simp

@[simp] theorem State.clock_dropJob (s : State) (n : Nat) (c : Bool) : (s.dropJob n c).clock = s.clock := view_ite State.clock rfl rfl

@[simp] theorem State.clock_showQueue (s : State) (n : Nat) : (s.showQueue n).clock = s.clock := (rfl)

@[simp] theorem State.clock_complete (s : State) (n : Nat) (d : JobDone) : (s.complete n d).clock = s.clock := (rfl)

@[simp] theorem State.clock_pierBoundary (s : State) (n : Nat) : (s.pierBoundary n).clock = s.clock := by
  unfold State.pierBoundary
  extract_lets now c old s1 s2 s3 out left
  have h1 : s1.clock = s.clock := by simp [s1]
  clear_value s1
  have h2 : s2.clock = s1.clock := view_foldl State.clock (fun _ _ => by simp) _ s1
  clear_value s2
  have h3 : s3.clock = s2.clock := view_foldl State.clock (fun _ _ => by simp) _ s2
  have hall := h3.trans (h2.trans h1)
  exact view_ite State.clock ((s3.clock_wr _ _).trans hall) hall

/-! The Tugs (R359, R363). -/

@[simp] theorem State.clock_chargeTo (s : State) (n o k : Nat) : (s.chargeTo n o k).clock = s.clock := view_ite State.clock rfl rfl

@[simp] theorem State.clock_shedWrite (s : State) (a : Nat) (bs : List Byte) : (s.shedWrite a bs).clock = s.clock := State.clock_of_time (s.shedWrite_time a bs)

@[simp] theorem State.clock_descDone (s : State) (e c off : Nat) (irq : Bool) (code cause done : Nat) :
    (s.descDone e c off irq code cause done).clock = s.clock := by
  unfold State.descDone
  extract_lets s1 s2 t s3
  have h1 : s1.clock = s.clock := (State.clock_inc _ _).trans ((State.clock_shedWrite _ _ _).trans (s.clock_chargeTo _ _ _))
  clear_value s1
  have h2 : s2.clock = s1.clock := view_ite State.clock (s1.clock_inc _) (view_ite State.clock rfl (s1.clock_inc _))
  clear_value s2
  have ht : t.clock = s2.clock := view_ite State.clock rfl rfl
  clear_value t
  have h3 : s3.clock = s2.clock := view_ite State.clock rfl ((t.clock_wrBit _ _ _).trans ht)
  clear_value s3
  have hall := h3.trans (h2.trans h1)
  exact view_ite State.clock (by simp [hall]) hall

@[simp] theorem State.clock_dropChain (e c : Nat) : ∀ (k : Nat) (s : State) (off : Nat), (s.dropChain e c off k).clock = s.clock
  | 0, s, off => s.clock_descDone ..
  | k + 1, s, off => by
    have hdone := s.clock_descDone e c off (s.desc off).irq tugDropped 0 0
    unfold State.dropChain
    exact view_ite State.clock hdone ((State.clock_dropChain e c k _ _).trans hdone)

@[simp] theorem State.clock_cutQueued (s : State) (e c : Nat) (h : TugChain) : (s.cutQueued e c h).clock = s.clock :=
  view_ite State.clock (State.clock_dropChain e c 1024 s h.head) (s.clock_descDone ..)

@[simp] theorem State.clock_takeChain (s : State) (e c : Nat) : (s.takeChain e c).clock = s.clock := (rfl)

@[simp] theorem State.clock_cutQueue (s : State) (e c : Nat) : (s.cutQueue e c).clock = s.clock :=
  view_foldl State.clock (fun t h => ((t.takeChain e c).clock_cutQueued e c h).trans (t.clock_takeChain e c)) _ s

@[simp] theorem State.clock_tugBoundary (s : State) (e : Nat) : (s.tugBoundary e).clock = s.clock :=
  view_foldl State.clock (fun t c => t.clock_cutQueue e c) _ (s.setTug e { s.tug e with used := [] })

/-! The packing engines (R369, R371). -/

@[simp] theorem State.clock_whCharge (s : State) (req : WhReq) (n k : Nat) : (s.whCharge req n k).clock = s.clock := by
  unfold State.whCharge
  extract_lets s1
  have h1 : s1.clock = s.clock := by
    unfold s1
    split
    · exact s.clock_chargeTo _ _ _
    · rfl
  exact (s1.clock_chargeTo _ _ _).trans h1

@[simp] theorem State.clock_whWritePart (s : State) (req : WhReq) (a : Nat) (bs : List Byte) (b : Nat) : (s.whWritePart req a bs b).1.clock = s.clock := by
  unfold State.whWritePart
  extract_lets lo hi part s0 old s1
  have h0 : s0.clock = s.clock := s.clock_chargeTo _ _ _
  have h1 : s1.clock = s.clock := view_ite State.clock h0 h0
  split
  · rfl
  · split
    · exact h1
    · exact h0

@[simp] theorem State.clock_whWrite (s : State) (req : WhReq) (a : Nat) (bs : List Byte) : (s.whWrite req a bs).1.clock = s.clock := by
  unfold State.whWrite
  split
  · rfl
  · split
    · rfl
    · extract_lets r
      have hr : r.1.clock = (s.whCharge req bs.length (blocksOf a bs.length).length).clock :=
        view_foldl_fst State.clock (fun p b => by simp) _ (s.whCharge req bs.length (blocksOf a bs.length).length, false)
      exact hr.trans (s.clock_whCharge ..)

@[simp] theorem State.clock_spoil (s : State) (bs : List Nat) : (s.spoil bs).clock = s.clock := (rfl)

@[simp] theorem State.clock_whReadPart (s : State) (req : WhReq) (retry : Bool) (luck : WhLuck) (b : Nat) : (s.whReadPart req retry luck b).1.clock = s.clock := by
  unfold State.whReadPart
  extract_lets s0 good t s1
  have h0 : s0.clock = s.clock := rfl
  have ht : t.clock = s.clock := view_ite State.clock ((s0.clock_chargeTo _ _ _).trans h0) h0
  have h1 : s1.clock = s.clock := view_ite State.clock ht ht
  split
  · rfl
  · split
    · exact h0
    · split
      · exact ht
      · exact h1

@[simp] theorem State.clock_parityCheck (s : State) (w : Nat) : (s.parityCheck w).clock = s.clock := (s.parityCheck_sameButRegs w).clock

@[simp] theorem State.clock_packRead (s : State) (req : WhReq) (sp a n : Nat) (luck : WhLuck) : (s.packRead req sp a n luck).1.clock = s.clock := by
  have hpart : ∀ (p : State × Option Nat) (b : Nat), (match p.2 with
      | some x => (p.1, some x)
      | none => ((p.1.whReadPart req true luck b).1, if (p.1.whReadPart req true luck b).2 then some b else none)).1.clock = p.1.clock := fun p b => by
    split
    · rfl
    · exact p.1.clock_whReadPart ..
  unfold State.packRead
  split
  · split
    · rfl
    · split
      · rfl
      · extract_lets len s0 r s1
        have hr : r.1.clock = s.clock := (view_foldl_fst State.clock hpart _ (s0, none)).trans (s.clock_spoil _)
        have h1 : s1.clock = s.clock := view_ite State.clock hr hr
        split
        · exact h1
        · exact view_ite State.clock h1 h1
  · extract_lets len
    split
    · exact s.clock_parityCheck _
    · rfl

@[simp] theorem State.clock_packWrite (s : State) (req : WhReq) (sp a : Nat) (bs : List Byte) : (s.packWrite req sp a bs).1.clock = s.clock := by
  unfold State.packWrite
  split
  · rfl
  · split
    · split
      · rfl
      · exact s.clock_whWrite ..
    · split
      · rfl
      · exact s.clock_shedWrite ..

@[simp] theorem State.clock_packWrites (s : State) (o : Nat) (j : PackJob) (p : PackOut) : (s.packWrites o j p).1.clock = s.clock :=
  view_foldl_fst State.clock (fun (q : State × PackOut) (w : Nat × List Byte) =>
    q.1.clock_packWrite { owner := some o, cls := j.cls } j.dspace w.1 w.2) _ (s, p)

@[simp] theorem State.clock_packCharge (s : State) (o : Nat) (j : PackJob) (n : Nat) : (s.packCharge o j n).clock = s.clock :=
  view_ite State.clock ((State.clock_chargeTo _ _ _ _).trans (s.clock_chargeTo _ _ _)) rfl

@[simp] theorem State.clock_packDo (s : State) (o limit : Nat) (luck : WhLuck) : (s.packDo o limit luck).1.clock = s.clock := by
  unfold State.packDo
  extract_lets j p own r dlen win q q'
  have hr : r.1.clock = s.clock := s.clock_packRead ..
  split
  · exact (s.parityScan_sameButRegs o 128).clock
  · split
    · rfl
    · split
      · exact (State.clock_packWrites _ _ _ _).trans ((r.1.clock_packCharge ..).trans hr)
      · exact (State.clock_packWrites _ _ _ _).trans ((r.1.clock_packCharge ..).trans hr)

@[simp] theorem State.clock_packBack (s : State) (e o : Nat) (p : PackOut) : (s.packBack e o p).clock = s.clock := by
  unfold State.packBack
  extract_lets j was s1 s2 s3 t s4
  have h1 : s1.clock = s.clock := (State.clock_shedWrite _ _ _).trans (s.clock_shedWrite _ _)
  clear_value s1
  have h2 : s2.clock = s1.clock := rfl
  clear_value s2
  have h3 : s3.clock = s2.clock := view_ite State.clock rfl (view_ite State.clock rfl (view_ite State.clock rfl (view_ite State.clock rfl rfl)))
  clear_value s3
  have ht : t.clock = s3.clock := view_ite State.clock rfl rfl
  clear_value t
  have h4 : s4.clock = s3.clock := view_ite State.clock rfl ((t.clock_wr _ _).trans ht)
  clear_value s4
  have hall := h4.trans (h3.trans (h2.trans h1))
  exact view_ite State.clock (by simp [hall]) hall

@[simp] theorem State.clock_packFree (s : State) (e : Nat) : (s.packFree e).clock = s.clock := (rfl)

@[simp] theorem State.clock_dropPack (s : State) (e : Nat) (r : PackRun) (limit : Nat) : (s.dropPack e r limit).clock = s.clock :=
  (State.clock_packBack _ e r.desc _).trans (s.clock_packDo r.desc limit {})

@[simp] theorem State.clock_packBoundary (s : State) (limit : Nat → Nat) (e : Nat) : (s.packBoundary limit e).clock = s.clock := by
  unfold State.packBoundary
  extract_lets x old s1 y s2
  have h1 : s1.clock = s.clock := by
    unfold s1
    split
    · exact view_ite State.clock ((State.clock_packFree _ e).trans (s.clock_dropPack e _ _)) rfl
    · rfl
  clear_value s1
  have h2 : s2.clock = s1.clock := rfl
  clear_value s2
  exact (view_foldl State.clock (fun t _ => State.clock_packBack t e _ _) _ s2).trans (h2.trans h1)

/-! Trims, taps, streams and the Hawser (R420, R423, R143, R401). -/

@[simp] theorem State.clock_showSlice (s : State) (n l : Nat) : (s.showSlice n l).clock = s.clock := (rfl)

@[simp] theorem State.clock_replaceSlice (s : State) (n l k : Nat) : (s.replaceSlice n l k).clock = s.clock := (rfl)

@[simp] theorem State.clock_failLane (s : State) (n l : Nat) : (s.failLane n l).clock = s.clock := State.clock_event _ _ _ _

@[simp] theorem State.clock_spareStep (s : State) (n l : Nat) : (s.spareStep n l).clock = s.clock := by
  unfold State.spareStep
  extract_lets x put bad shadow
  have hput : ∀ (t : State) (y : LaneTrim), (put t y).clock = t.clock := fun _ _ => rfl
  clear_value put bad
  split
  · exact view_ite State.clock rfl (s.clock_failLane n l)
  · split
    · next w _ =>
      extract_lets s1
      have h1 : s1.clock = s.clock := view_ite State.clock ((hput _ _).trans (s.clock_replaceSlice n l w)) (hput s _)
      exact view_ite State.clock ((s1.clock_failLane n l).trans h1) h1
    · split
      · exact view_ite State.clock (hput _ _) (hput s _)
      · next k more =>
        extract_lets s1
        have h1 : s1.clock = s.clock := view_ite State.clock ((hput _ _).trans (s.clock_replaceSlice n l k)) (hput _ _)
        exact view_ite State.clock h1 ((s1.clock_failLane n l).trans h1)

@[simp] theorem State.clock_moveLane (s : State) (n l : Nat) : (s.moveLane n l).clock = s.clock := by
  unfold State.moveLane
  extract_lets q x act mv gone y
  exact view_ite State.clock rfl ((State.clock_showSlice _ n l).trans (State.clock_spareStep _ n l))

@[simp] theorem State.clock_movePols (s : State) (n : Nat) : (s.movePols n).clock = s.clock := by
  unfold State.movePols
  extract_lets q m s1 calm
  have h1 : s1.clock = s.clock := view_foldl State.clock (fun _ _ => by rfl) _ s
  exact view_ite State.clock rfl ((State.clock_inc _ _).trans ((s1.clock_setQuayTrim _ _).trans h1))

@[simp] theorem State.clock_trimBoundary (s : State) (n : Nat) : (s.trimBoundary n).clock = s.clock := by
  unfold State.trimBoundary
  extract_lets q s1 x
  have h1 : s1.clock = s.clock := (State.clock_movePols _ n).trans (view_foldl State.clock (fun t l => t.clock_moveLane n l) _ s)
  exact view_ite State.clock rfl ((s1.clock_wr _ _).trans h1)

@[simp] theorem State.clock_tapBoundary (s : State) : s.tapBoundary.clock = s.clock := by
  unfold State.tapBoundary
  exact view_foldl State.clock (fun t e => view_ite State.clock rfl ((State.clock_inc _ _).trans (t.clock_setTaps _ _))) s.taps s

@[simp] theorem State.clock_streamBoundary (s : State) : s.streamBoundary.clock = s.clock := by
  unfold State.streamBoundary
  exact view_foldl State.clock (fun t e => view_ite State.clock (t.clock_setStream _ _) rfl) s.streams s

@[simp] theorem State.clock_hawserBoundary (s : State) : s.hawserBoundary.clock = s.clock := (rfl)

end Sys2Proof.Machine
end

section
/-! SUPPORT. What the grids, the lanes' frames and the ports' scans leave alone at a tide boundary, the shown time included (R74 to R76, R92, R108, R217,
R237): statement O14. -/

namespace Sys2Proof.Machine

/-! The fields that these parts write lie above HB_TIME_STATUS. -/

@[simp] theorem quayFields_afterTime (n : Nat) : (R.QY_EPOCH_LO_EPOCH_LO n).afterTime ∧ (R.QY_EPOCH_HI_EPOCH_HI n).afterTime ∧
    (R.QY_STATUS_RUNNING n).afterTime ∧ (R.QY_STATUS_STOPPED n).afterTime ∧ (R.QY_STATUS_ACTIVE n).afterTime ∧
    (R.QY_PLAN_STATUS_STATE n).afterTime ∧ (R.QY_PLAN_STATUS_ERR n).afterTime := by
  simp only [Fld.afterTime, R.QY_EPOCH_LO_EPOCH_LO, R.QY_EPOCH_HI_EPOCH_HI, R.QY_STATUS_RUNNING, R.QY_STATUS_STOPPED, R.QY_STATUS_ACTIVE,
    R.QY_PLAN_STATUS_STATE, R.QY_PLAN_STATUS_ERR]
  omega

@[simp] theorem sliceFields_afterTime (n : Nat) : (R.RX_SEG_LO_COUNT_LO n).afterTime ∧ (R.RX_SEG_HI_COUNT_HI n).afterTime ∧
    (R.RX_STATUS_NOISE_VALID n).afterTime ∧ (R.RX_NOISE_X n).afterTime ∧ (R.RX_NOISE_Y n).afterTime ∧ (R.RX_PSM_NEED_BYTES n).afterTime := by
  simp only [Fld.afterTime, R.RX_SEG_LO_COUNT_LO, R.RX_SEG_HI_COUNT_HI, R.RX_STATUS_NOISE_VALID, R.RX_NOISE_X, R.RX_NOISE_Y, R.RX_PSM_NEED_BYTES]
  omega

@[simp] theorem laneFields_afterTime (l : Nat) : (ln R.TL_LANE_i_UO_CNT_UNDER l).afterTime ∧ (ln R.TL_LANE_i_UO_CNT_OVER l).afterTime ∧
    (ln R.TL_LANE_i_STATUS_SAT l).afterTime ∧ (ln R.TL_LANE_i_STATUS_DUMPING l).afterTime := by
  simp only [Fld.afterTime, ln, R.TL_LANE_i_UO_CNT_UNDER, R.TL_LANE_i_UO_CNT_OVER, R.TL_LANE_i_STATUS_SAT, R.TL_LANE_i_STATUS_DUMPING]
  omega

@[simp] theorem portFields_afterTime (m : Nat) : (R.BC_m_COIN_REJ_CNT_COUNT m).afterTime ∧ (R.BC_m_STEP_STEP m).afterTime ∧
    (R.BC_m_STEP_ROWS m).afterTime := by
  simp only [Fld.afterTime, R.BC_m_COIN_REJ_CNT_COUNT, R.BC_m_STEP_STEP, R.BC_m_STEP_ROWS]
  omega

@[simp] theorem allocField_afterTime (n : Nat) : (R.HB_BUDGET_ALLOC_n_ALLOC n).afterTime := by
  simp only [Fld.afterTime, R.HB_BUDGET_ALLOC_n_ALLOC]
  omega

section Ops
variable (s : State) {f g : Fld}

@[simp] theorem State.time_inc (h : f.afterTime) : (s.inc f).time = s.time := s.time_wr h _

@[simp] theorem State.time_wrPair (hf : f.afterTime) (hg : g.afterTime) (v : Nat) : (s.wrPair f g v).time = s.time :=
  (State.time_wr _ hg _).trans (s.time_wr hf _)

@[simp] theorem State.time_setQuay (n : Nat) (q : Quay) : (s.setQuay n q).time = s.time := State.time_of_regs rfl rfl rfl

@[simp] theorem State.time_setRx (n : Nat) (x : RxSlice) : (s.setRx n x).time = s.time := State.time_of_regs rfl rfl rfl

@[simp] theorem State.time_setLane (l : Nat) (x : Lane) : (s.setLane l x).time = s.time := State.time_of_regs rfl rfl rfl

@[simp] theorem State.time_setPort (m : Nat) (p : Port) : (s.setPort m p).time = s.time := State.time_of_regs rfl rfl rfl

end Ops

/-! A quay's grid and plan. -/

section Quay
variable (s : State) (n : Nat)

@[simp] theorem State.time_openSettle (b : Nat) (newEpoch : Bool) : (s.openSettle n b newEpoch).time = s.time :=
  (State.time_setRx _ n _).trans (s.time_setQuay n _)

@[simp] theorem State.time_restartNoise : (s.restartNoise n).time = s.time := by
  unfold State.restartNoise
  simp

@[simp] theorem State.time_quayStop : (s.quayStop n).time = s.time := by
  unfold State.quayStop
  exact view_ite State.time (by simp) rfl

@[simp] theorem State.time_startGrid (b : Nat) : (s.startGrid n b).time = s.time := by
  unfold State.startGrid
  extract_lets q x s1 s2 s3
  have h2 : s2.time = s.time := by simp [s2, s1]
  clear_value s2
  have h3 : s3.time = s.time := by simp [s3, h2]
  clear_value s3
  exact view_ite State.time (view_ite State.time (by simp [h3]) h3) rfl

@[simp] theorem State.time_endGrid : (s.endGrid n).time = s.time := by
  unfold State.endGrid
  exact view_ite State.time (by simp) (by simp)

@[simp] theorem State.time_landRun (b : Nat) (run : Bool) : (s.landRun n b run).time = s.time := by
  unfold State.landRun
  exact view_ite State.time (view_ite State.time (by simp) (view_ite State.time rfl (by simp))) (by simp)

@[simp] theorem State.time_showNeed : (s.showNeed n).time = s.time := s.time_wr (by simp) _

@[simp] theorem State.time_landPlan (b p : Nat) : (s.landPlan n b p).time = s.time := by
  unfold State.landPlan
  extract_lets e old q s1 same
  have h1 : s1.time = s.time := by simp [s1]
  clear_value s1
  split
  · simp
  · split
    · exact h1
    · split
      · exact view_ite State.time (by simp [h1]) (by simp [h1])
      · split
        · exact view_ite State.time h1 (by simp [h1])
        · simp [h1]

@[simp] theorem State.time_epochDue (b : Nat) : (s.epochDue n b).time = s.time := by
  unfold State.epochDue
  split
  · exact view_ite State.time (by simp) rfl
  · rfl

end Quay

/-! The lanes' frames. -/

section Lanes
variable (s : State) (l : Nat)

@[simp] theorem State.time_binInterval (i : Int) : (s.binInterval l i).time = s.time := by
  unfold State.binInterval
  extract_lets x b f c c1 s1
  have h1 : s1.time = s.time := s.shedWrite_time _ _
  clear_value s1
  refine view_ite State.time ?_ rfl
  split
  · simp
  · split
    · simp
    · exact view_ite State.time (by simp [h1]) h1

@[simp] theorem State.time_decideStops (t : Nat) : (s.decideStops l t).time = s.time := by
  unfold State.decideStops
  extract_lets m kc due x s1
  have h1 : s1.time = s.time := by simp [s1]
  exact (view_foldl State.time (fun _ _ => view_ite State.time (by simp) (by simp)) _ s1).trans h1

@[simp] theorem State.time_decideAll : (s.decideAll l).time = s.time := s.time_decideStops l _

@[simp] theorem State.time_beginDump (t : Nat) : (s.beginDump l t).time = s.time := by
  unfold State.beginDump
  extract_lets x s1 y
  have h1 : s1.time = s.time := s.time_decideAll l
  split
  · exact view_ite State.time rfl (by simp [h1])
  · rfl

@[simp] theorem State.time_endFrame (b : Nat) (dump : Bool) : (s.endFrame l b dump).time = s.time := by
  unfold State.endFrame
  exact view_ite State.time rfl (by simp)

theorem State.time_lanesAt (b : Nat) : (s.lanesAt b).time = s.time := by
  unfold State.lanesAt
  exact view_foldl State.time (fun _ _ => view_ite State.time (by simp) rfl) _ s

end Lanes

/-! The ports' scans, the time source, the budget and the Hawser. -/

section Ends
variable (s : State)

@[simp] theorem State.time_showStep (m h : Nat) (p : RangeParams) : (s.showStep m h p).time = s.time := by
  unfold State.showStep
  simp

theorem State.time_portsAt (b : Nat) : (s.portsAt b).time = s.time := by
  unfold State.portsAt
  refine view_foldl State.time (fun t m => view_ite State.time ?_ rfl) _ s
  exact view_ite State.time (by simp) (by simp)

/-- The source that HB_TIME_STATUS shows is a field of its own. -/
theorem State.time_showSource : s.showSource.time = s.time := by
  unfold State.showSource
  extract_lets en hws pps ptp
  exact State.time_of_onlyRegs (fs := [R.HB_TIME_STATUS_SOURCE]) rfl rfl ((OnlyRegs.refl s _).wr (by simp) _) (by decide)

theorem State.time_showAlloc : s.showAlloc.time = s.time :=
  view_foldl State.time (fun t n => t.time_wr (allocField_afterTime n) _) _ s

theorem State.time_hawserSend (b : Nat) : (s.hawserSend b).time = s.time := by
  unfold State.hawserSend
  exact view_ite State.time (State.time_of_regs rfl rfl rfl) rfl

end Ends

end Sys2Proof.Machine
end

section
/-! SUPPORT. What the restoration of domains at a tide boundary leaves alone (R435): statement O14. -/

namespace Sys2Proof.Machine

/-! Parts of the state that the clock does not show. -/

section Parts
variable (s : State)

theorem State.clock_ranging (x : Tab Ranging) : ({ s with ranging := x } : State).clock = s.clock := rfl

theorem State.clock_raman (x : Tab Raman) : ({ s with raman := x } : State).clock = s.clock := rfl

theorem State.clock_fifos (x : Tab (List TallyEntry)) : ({ s with fifos := x } : State).clock = s.clock := rfl

theorem State.clock_snd (x : Sounding) : ({ s with snd := x } : State).clock = s.clock := rfl

theorem State.clock_power (x : Power) : ({ s with power := x } : State).clock = s.clock := rfl

theorem State.clock_kept (r : Tab Nat) (x : Power) : ({ s with regs := r, power := x } : State).clock = s.clock := rfl

end Parts

/-! Quays. -/

section Quay
variable (s : State) (n : Nat)

@[simp] theorem State.clock_endGrid : (s.endGrid n).clock = s.clock := State.clock_of_time (s.time_endGrid n)

@[simp] theorem State.clock_landRun (b : Nat) (run : Bool) : (s.landRun n b run).clock = s.clock := State.clock_of_time (s.time_landRun n b run)

@[simp] theorem State.clock_showNeed : (s.showNeed n).clock = s.clock := State.clock_of_time (s.time_showNeed n)

@[simp] theorem State.clock_landLgtEn (b : Nat) (en : Bool) : (s.landLgtEn n b en).clock = s.clock := by
  unfold State.landLgtEn
  exact view_ite State.clock (by simp) (by simp)

@[simp] theorem State.clock_resyncDas (i b : Nat) : (s.resyncDas i b).clock = s.clock := by
  unfold State.resyncDas
  simp

@[simp] theorem State.clock_resyncFlow (i b : Nat) : (s.resyncFlow i b).clock = s.clock := by
  unfold State.resyncFlow
  simp

@[simp] theorem State.clock_putWord (addr v : Nat) : (s.putWord addr v).clock = s.clock := by
  unfold State.putWord
  split
  · exact view_foldl State.clock (fun _ _ => by simp) _ s
  · rfl

/-- The changes dropped are those of the quay's run and plan. -/
@[simp] theorem State.clock_dropQuayChanges : (s.dropQuayChanges n).clock = s.clock := by
  have hothers : (s.dropQuayChanges n).others = s.others := by
    refine (List.filter_filter ..).trans (List.filter_congr fun l _ => ?_)
    cases l.change <;> simp [ownPlan]
  exact congrArg (fun l => ({ s.clock with others := l } : Clock)) hothers

@[simp] theorem State.clock_loadPlans : (s.loadPlans n).clock = s.clock := by
  unfold State.loadPlans
  extract_lets a
  split
  · exact view_foldl State.clock (fun _ _ => by simp) _ s
  · simp

/-- A change of a quay's run joins no other. -/
theorem State.clock_runWaits (due : Nat) (run : Bool) : ({ s with landing := s.landing ++ [⟨due, .quayRun n run⟩] } : State).clock = s.clock := by
  have hothers : (s.landing ++ [Landing.mk due (.quayRun n run)]).filter (fun l => !ownPlan l.change) = s.others := by
    rw [List.filter_append, State.others]
    simp [ownPlan]
  exact congrArg (fun l => ({ s.clock with others := l } : Clock)) hothers

@[simp] theorem State.clock_activateQuay (b : Nat) : (s.activateQuay b n).clock = s.clock := by
  unfold State.activateQuay
  extract_lets q busy s1 s2 s3
  have h2 : s2.clock = s.clock := by simp [s2, s1]
  clear_value s2
  have h3 : s3.clock = s.clock := by simp [s3, h2]
  clear_value s3
  exact view_ite State.clock (view_ite State.clock ((s3.clock_runWaits n _ true).trans h3) (by simp [h3])) (by simp [h2])

@[simp] theorem State.clock_resumeQuay (b : Nat) : (s.resumeQuay n b).clock = s.clock := by
  unfold State.resumeQuay
  extract_lets s1 s2 s3 mine s4
  have h1 : s1.clock = s.clock := by simp [s1]
  clear_value s1
  have h2 : s2.clock = s.clock := view_ite State.clock (by simp [h1]) h1
  clear_value s2
  have h3 : s3.clock = s.clock := view_ite State.clock (by simp [h2]) h2
  clear_value s3
  have h4 : s4.clock = s3.clock := view_foldl State.clock (fun _ _ => view_ite State.clock (by simp) rfl) _ s3
  clear_value s4
  exact (view_foldl State.clock (fun _ _ => view_ite State.clock (by simp) rfl) _ s4).trans (h4.trans h3)

end Quay

/-! Tally banks. -/

section Lanes
variable (s : State) (l : Nat)

@[simp] theorem State.clock_fifoEntry (raw : Nat) (e : TallyEntry) : (s.fifoEntry l raw e).clock = s.clock := by
  unfold State.fifoEntry
  extract_lets n q x e1 q1
  have hq := s.clock_fifos (Tab.put [] s.fifos n q1)
  exact view_ite State.clock (view_ite State.clock (by simp [hq]) (by simp)) rfl

@[simp] theorem State.clock_beginDump (t : Nat) : (s.beginDump l t).clock = s.clock := State.clock_of_time (s.time_beginDump l t)

@[simp] theorem State.clock_endMeasurement (t flags : Nat) : (s.endMeasurement l t flags).clock = s.clock := by
  unfold State.endMeasurement
  extract_lets x s1 x1 missed x2
  have h1 : s1.clock = s.clock := view_ite State.clock (by simp) rfl
  clear_value s1
  exact view_ite State.clock (by simp [h1]) rfl

@[simp] theorem State.clock_ambientBins (k : Nat) (hofs : Int) (first count : Nat) : (s.ambientBins l k hofs first count).clock = s.clock := by
  unfold State.ambientBins
  simp

@[simp] theorem State.clock_restartLane (b : Nat) : (s.restartLane l b).clock = s.clock := by
  unfold State.restartLane
  simp

@[simp] theorem State.clock_lanePending : (s.lanePending l).clock = s.clock := s.clock_wrB _ _

@[simp] theorem State.clock_clearHist : (s.clearHist l).clock = s.clock := (rfl)

@[simp] theorem State.clock_ownLane (b owner sel src tmo k hofs hframe : Nat) :
    (s.ownLane l b owner sel src tmo k hofs hframe).clock = s.clock := by
  unfold State.ownLane
  extract_lets s1 x s2 s3 s4
  have h1 : s1.clock = s.clock := by simp [s1]
  clear_value s1
  have h2 : s2.clock = s.clock := (s1.clock_setLane _ _).trans h1
  clear_value s2
  have h3 : s3.clock = s.clock := by simp [s3, h2]
  clear_value s3
  have h4 : s4.clock = s.clock := by simp [s4, h3]
  clear_value s4
  exact (s4.clock_wr _ _).trans h4

@[simp] theorem State.clock_freeLane (b : Nat) : (s.freeLane l b).clock = s.clock := by
  unfold State.freeLane
  simp

@[simp] theorem State.clock_showDelay : (s.showDelay l).clock = s.clock := s.clock_wr _ _

@[simp] theorem State.clock_activateLane (b : Nat) : (s.activateLane b l).clock = s.clock := by
  unfold State.activateLane
  extract_lets a old s1
  have h1 : s1.clock = s.clock := s.clock_freeLane l b
  clear_value s1
  split
  · next x _ =>
    extract_lets s2
    have h2 : s2.clock = s1.clock := (State.clock_wr _ _ _).trans (view_foldl State.clock (fun _ _ => by simp) _ s1)
    clear_value s2
    refine (State.clock_lanePending _ l).trans (view_ite State.clock (h2.trans h1) ?_)
    simp [h2, h1]
  · simp [h1]

@[simp] theorem State.clock_resumeBank (n b : Nat) : (s.resumeBank n b).clock = s.clock := by
  unfold State.resumeBank
  extract_lets f s1
  have h1 : s1.clock = s.clock := view_foldl State.clock (fun _ _ => by simp) _ s
  clear_value s1
  exact (view_foldl State.clock (fun t _ => view_ite State.clock (t.clock_raman _) rfl) _ s1).trans h1

end Lanes

/-! The Beacon. -/

section Beacon
variable (s : State) (m : Nat)

@[simp] theorem State.clock_showStep (h : Nat) (p : RangeParams) : (s.showStep m h p).clock = s.clock := State.clock_of_time (s.time_showStep m h p)

@[simp] theorem State.clock_setEmitters (rows cols st : Nat) : (s.setEmitters m rows cols st).clock = s.clock := by
  unfold State.setEmitters
  exact view_foldl State.clock (fun t _ => view_foldl State.clock (fun _ _ => by simp) _ t) _ s

@[simp] theorem State.clock_showEmitters : (s.showEmitters m).clock = s.clock := by
  unfold State.showEmitters
  simp

@[simp] theorem State.clock_landRange (i b : Nat) : (s.landRange i b).clock = s.clock := by
  unfold State.landRange
  extract_lets t p m pl lanes s1 s2 s3 halted checking x s4 u
  have h1 : s1.clock = s.clock := view_foldl State.clock (fun _ _ => by simp) _ s
  clear_value s1
  have h2 : s2.clock = s.clock := by simp [s2, h1]
  clear_value s2
  have h3 : s3.clock = s.clock := by simp [s3, h2]
  clear_value s3
  have h4 : s4.clock = s.clock := by simp [s4, h3]
  clear_value s4
  have hu : u.clock = s.clock := by simp [u, h4]
  clear_value u
  exact (u.clock_ranging _).trans hu

@[simp] theorem State.clock_landBybEn (b : Nat) (en : Bool) : (s.landBybEn b en).clock = s.clock := by
  unfold State.landBybEn
  exact view_ite State.clock (view_ite State.clock rfl rfl) rfl

@[simp] theorem State.clock_activateBeacon (b : Nat) : (s.activateBeacon b).clock = s.clock := by
  unfold State.activateBeacon
  extract_lets s1 x en s2
  have h1 : s1.clock = s.clock := view_foldl State.clock (fun _ _ => by simp) _ s
  clear_value s1
  have h2 : s2.clock = s.clock := view_ite State.clock h1 (by simp [h1])
  clear_value s2
  simp [h2]

@[simp] theorem State.clock_resumeBeacon (b : Nat) : (s.resumeBeacon b).clock = s.clock := by
  unfold State.resumeBeacon
  extract_lets s1
  have h1 : s1.clock = s.clock := view_ite State.clock (by simp) rfl
  clear_value s1
  refine (view_foldl State.clock (fun t i => ?_) _ s1).trans h1
  extract_lets old m num ended u p info w
  have hu : u.clock = t.clock := t.clock_landRange i b
  clear_value u
  have hw : w.clock = u.clock := u.clock_setPort _ _
  clear_value w
  exact (w.clock_ranging _).trans (hw.trans hu)

end Beacon

/-! The Sounding die. -/

section Sounding
variable (s : State) (c : Nat)

@[simp] theorem State.clock_putChan (owner : Nat) (ws : List Nat) : (s.putChan c owner ws).clock = s.clock := by
  unfold State.putChan
  exact view_foldl State.clock (fun _ _ => by simp) _ s

@[simp] theorem State.clock_chanStatus : (s.chanStatus c).clock = s.clock := by
  unfold State.chanStatus
  simp

theorem State.clock_singleAll : s.singleAll.clock = s.clock := by
  unfold State.singleAll
  exact view_foldl State.clock (fun _ _ => view_ite State.clock (by simp) rfl) _ s

@[simp] theorem State.clock_sndGo : s.sndGo.clock = s.clock := by
  unfold State.sndGo
  exact view_ite State.clock rfl (view_ite State.clock s.clock_singleAll rfl)

@[simp] theorem State.clock_sndRestart : s.sndRestart.clock = s.clock := State.clock_sndGo _

@[simp] theorem State.clock_writeMode (m : Nat) : (s.writeMode m).clock = s.clock := by
  unfold State.writeMode
  extract_lets s1 x s2
  have h1 : s1.clock = s.clock := rfl
  clear_value s1
  have h2 : s2.clock = s.clock := view_ite State.clock h1 ((s1.clock_snd x).trans h1)
  clear_value s2
  exact view_ite State.clock rfl (view_ite State.clock ((view_foldl State.clock (fun _ _ => by simp) _ s2).trans h2) h2)

@[simp] theorem State.clock_writeMsrc (m : Nat) : (s.writeMsrc m).clock = s.clock := by
  unfold State.writeMsrc
  extract_lets s1 s2
  have h1 : s1.clock = s.clock := by simp [s1]
  clear_value s1
  have h2 : s2.clock = s1.clock := view_foldl State.clock (fun _ _ => view_ite State.clock (by simp) rfl) _ s1
  clear_value s2
  exact view_ite State.clock rfl (by simp [h2, h1])

@[simp] theorem State.clock_sndCtl (v : Nat) : (s.sndCtl v).clock = s.clock := by
  unfold State.sndCtl
  extract_lets s1 s2
  have h1 : s1.clock = s.clock := by simp [s1]
  clear_value s1
  have h2 : s2.clock = s.clock := view_ite State.clock (by simp [h1]) h1
  clear_value s2
  exact view_ite State.clock (by simp [h2]) h2

@[simp] theorem State.clock_resetChan : (s.resetChan c).clock = s.clock := by
  unfold State.resetChan
  simp

@[simp] theorem State.clock_activateSounding : s.activateSounding.clock = s.clock := by
  unfold State.activateSounding
  split
  · exact (State.clock_sndCtl _ 0).trans (view_foldl State.clock State.clock_resetChan _ s)
  · exact (State.clock_sndCtl _ _).trans (view_foldl State.clock (fun _ _ => by simp) _ s)

@[simp] theorem State.clock_resumeSounding : s.resumeSounding.clock = s.clock := by
  unfold State.resumeSounding
  extract_lets s1 s2
  have h1 : s1.clock = s.clock := view_foldl State.clock (fun _ _ => by simp) _ s
  clear_value s1
  have h2 : s2.clock = s1.clock := view_foldl State.clock (fun _ _ => by simp) _ s1
  clear_value s2
  exact view_ite State.clock (by simp [h2, h1]) (h2.trans h1)

end Sounding

/-! The Pier. -/

section Pier
variable (s : State) (n : Nat)

@[simp] theorem State.clock_loadProgBank (b : Nat) (img : List Byte) : (s.loadProgBank n b img).clock = s.clock := by
  unfold State.loadProgBank
  extract_lets c s1 part s2
  have h1 : s1.clock = s.clock := by simp [s1]
  clear_value s1
  have h2 : s2.clock = s1.clock := view_foldl State.clock (fun _ _ => by simp) _ s1
  clear_value s2
  simp [h2, h1]

@[simp] theorem State.clock_dueInit (b arg : Nat) : (s.dueInit n b arg).clock = s.clock := by
  unfold State.dueInit
  exact view_foldl State.clock (fun _ _ => by simp) _ s

@[simp] theorem State.clock_activateCluster (body : List Byte) : (s.activateCluster body n).clock = s.clock := by
  unfold State.activateCluster
  extract_lets img on_ s0 s1 s2
  have h1 : s1.clock = s.clock := by simp [s1, s0]
  clear_value s1
  have h2 : s2.clock = s.clock := by simp [s2, h1]
  clear_value s2
  refine view_ite State.clock ((State.clock_dueInit _ n 0 0).trans (view_ite State.clock ?_ ?_)) ?_ <;> simp [h1, h2]

@[simp] theorem State.clock_powerCluster : (s.powerCluster n).clock = s.clock := by
  unfold State.powerCluster
  extract_lets a s1
  have h1 : s1.clock = s.clock := by simp [s1]
  clear_value s1
  exact view_ite State.clock h1 (by simp [h1])

end Pier

/-! Every domain. -/

section Domains
variable (s : State) (b d : Nat)

theorem State.clock_activateDomain : (s.activateDomain b d).clock = s.clock := by
  unfold State.activateDomain
  exact view_ite State.clock (by simp) (view_ite State.clock (view_foldl State.clock (fun _ _ => by simp) _ s) (view_ite State.clock (by simp)
    (view_ite State.clock (by simp) (view_ite State.clock (by simp) rfl))))

theorem State.clock_restoreDomain : (s.restoreDomain b d).clock = s.clock := by
  unfold State.restoreDomain
  extract_lets t x y s1
  have ht : t.clock = s.clock := s.clock_activateDomain b d
  clear_value t
  have h1 : s1.clock = s.clock := s.clock_kept _ _
  clear_value s1
  refine view_ite State.clock ((t.clock_power _).trans ht) (view_ite State.clock ?_ (view_ite State.clock ?_ (view_ite State.clock ?_ (view_ite State.clock ?_
    (view_ite State.clock ?_ h1)))))
  · exact (s1.clock_resumeQuay _ _).trans h1
  · exact (s1.clock_resumeBank _ _).trans h1
  · exact (s1.clock_powerCluster _).trans h1
  · exact s1.clock_resumeSounding.trans h1
  · exact (s1.clock_resumeBeacon _).trans h1

theorem State.clock_restoreAll : (s.restoreAll b).clock = s.clock := by
  unfold State.restoreAll
  exact view_foldl State.clock (fun t d => t.clock_restoreDomain b d) _ { s with power := { s.power with restore := [] } }

end Domains

end Sys2Proof.Machine
end

section
/-! SUPPORT. A tide boundary from its parts: time moves, the domains are restored, the changes due land, and the new tide begins (R25, R26, R36, Table
2.1): statement O14. -/

namespace Sys2Proof.Machine

/-! The change that is due first. -/

theorem takeDue_none {b : Nat} : ∀ {ls : List Landing}, takeDue b ls = none → ∀ l ∈ ls, b < l.due
  | [], _, _, hl => absurd hl List.not_mem_nil
  | k :: ls, h, l, hl => by
    unfold takeDue at h
    split at h
    · simp at h
    · next hk =>
      rcases List.mem_cons.mp hl with rfl | hl
      · omega
      · exact takeDue_none (Option.map_eq_none_iff.mp h) l hl

theorem takeDue_some {b : Nat} {c : Change} {rest : List Landing} : ∀ {ls : List Landing}, takeDue b ls = some (c, rest) →
    ∃ pre l post, ls = pre ++ l :: post ∧ rest = pre ++ post ∧ l.change = c
  | [], h => by simp [takeDue] at h
  | k :: ls, h => by
    unfold takeDue at h
    split at h
    · obtain ⟨rfl, rfl⟩ : k.change = c ∧ ls = rest := by simpa using h
      exact ⟨[], k, ls, rfl, rfl, rfl⟩
    · obtain ⟨⟨c', rest'⟩, htake, heq⟩ := Option.map_eq_some_iff.mp h
      obtain ⟨rfl, rfl⟩ : c' = c ∧ k :: rest' = rest := by simpa using heq
      obtain ⟨pre, l, post, rfl, rfl, hc⟩ := takeDue_some htake
      exact ⟨k :: pre, l, post, rfl, rfl, hc⟩

/-! One change lands. -/

/-- A rate correction or a forward step. -/
def Change.ofClock : Change → Bool
  | .rate _ => true
  | .timeStep _ => true
  | _ => false

/-- The change shows in the clock of `t`. -/
def Change.showsIn (t : State) : Change → Prop
  | .rate v => t.rate = v ∧ t.rd R.HB_TIME_STATUS_SLEWING = flag (v != 0)
  | .timeStep _ => t.rd R.HB_TIME_STATUS_STEP_PENDING = 0 ∧ t.rd R.HB_TIME_STATUS_STEPPED = 1
  | _ => True

theorem Change.showsIn_of_shown {s t : State} (hrate : t.rate = s.rate) (hrd : ∀ f ∈ timeFields, t.rd f = s.rd f) {c : Change}
    (hc : c.showsIn s) : c.showsIn t := by
  unfold Change.showsIn at hc ⊢
  split at hc
  · rwa [hrate, hrd _ (by simp [timeFields])]
  · rwa [hrd _ (by simp [timeFields]), hrd _ (by simp [timeFields])]
  · trivial

theorem Change.showsIn_of_time {s t : State} (h : t.time = s.time) {c : Change} (hc : c.showsIn s) : c.showsIn t :=
  Change.showsIn_of_shown (congrArg Clock.rate (State.clock_of_time h)) (fun _ hf => State.rd_of_time h hf) hc

/-- What neither a rate correction nor a quay's own changes move. -/
def State.fixed (s : State) : Nat × Tab Byte × Tab Link × Nat × List (Nat × Nat) × List Instr :=
  (s.now, s.charter, s.links, s.pllLost, s.ballast, s.pending)

theorem State.now_of_fixed {s t : State} (h : t.fixed = s.fixed) : t.now = s.now := congrArg Prod.fst h

theorem State.others_of_clockEq {s : State} {c : Clock} (h : s.clock = c) : s.others = c.others := congrArg Clock.others h

theorem State.fixed_of_clock {s t : State} (h : t.clock = s.clock) : t.fixed = s.fixed :=
  congrArg (fun c : Clock => (c.now, c.charter, c.links, c.pllLost, c.ballast, c.pending)) h

section Land
variable (s : State) (b : Nat) {c : Change}

theorem State.time_land (h : ownPlan c = true) : (s.land b c).time = s.time := by
  unfold ownPlan at h
  split at h
  · exact s.time_landRun ..
  · exact s.time_landPlan ..
  · simp at h

/-- A clock change leaves what is fixed, and the list of what waits. -/
theorem State.land_ofClock (h : c.ofClock = true) : (s.land b c).fixed = s.fixed ∧ (s.land b c).landing = s.landing ∧ c.showsIn (s.land b c) := by
  unfold Change.ofClock at h
  split at h
  · next v => exact ⟨rfl, rfl, rfl, (State.rd_wrB_same ..).trans (low_of_lt (by cases (v != 0) <;> decide))⟩
  · exact ⟨rfl, rfl, (State.rd_wr_other _ _ (by decide)).trans (State.rd_wr_same ..), State.rd_wr_same ..⟩
  · simp at h

end Land

/-! Every change that is due lands. -/

/-- The waiting changes once the first due one is taken: it was one of a quay's own, or it was among the others. -/
theorem others_of_taken {pre post : List Landing} {l : Landing} {s : State} (h : s.landing = pre ++ l :: post) :
    s.others = ({ s with landing := pre ++ post } : State).others ∧ ownPlan l.change = true ∨
      ∃ p q, s.others = p ++ l :: q ∧ ({ s with landing := pre ++ post } : State).others = p ++ q ∧ ownPlan l.change = false := by
  unfold State.others
  rw [h]
  cases hl : ownPlan l.change with
  | true => exact .inl (by simp [hl])
  | false => exact .inr ⟨pre.filter fun k => !ownPlan k.change, post.filter fun k => !ownPlan k.change, by simp [hl], by simp, rfl⟩

theorem State.landDue_none {s : State} {b : Nat} (h : takeDue b s.landing = none) : ∀ n, State.landDue b n s = s
  | 0 => rfl
  | n + 1 => by
    unfold State.landDue
    simp only [h]

theorem State.landDue_some {s : State} {b n : Nat} {c : Change} {rest : List Landing} (h : takeDue b s.landing = some (c, rest)) :
    State.landDue b (n + 1) s = State.landDue b n (({ s with landing := rest } : State).land b c) := by
  rw [State.landDue]
  simp only [h]

/-- What is fixed stays while only clock changes and a quay's own land. -/
theorem State.landDue_fixed (b : Nat) : ∀ (n : Nat) (s : State), (∀ l ∈ s.others, l.change.ofClock = true) →
    (State.landDue b n s).fixed = s.fixed
  | 0, _, _ => rfl
  | n + 1, s, h => by
    cases htake : takeDue b s.landing with
    | none => rw [State.landDue_none htake]
    | some r =>
      obtain ⟨pre, l, post, hls, hrest, hc⟩ := takeDue_some (c := r.1) (rest := r.2) htake
      rw [State.landDue_some (c := r.1) (rest := r.2) htake, ← hc, hrest]
      have hu : ({ s with landing := pre ++ post } : State).fixed = s.fixed := rfl
      rcases others_of_taken hls with ⟨hothers, hown⟩ | ⟨p, q, hs, hothers, hown⟩
      all_goals obtain ⟨u, hu'⟩ : ∃ u, u = ({ s with landing := pre ++ post } : State) := ⟨_, rfl⟩
      all_goals rw [← hu'] at hu hothers ⊢
      · have hland := State.clock_of_time (u.time_land b hown)
        have hmore : (u.land b l.change).others = s.others := (congrArg Clock.others hland).trans hothers.symm
        exact (State.landDue_fixed b n _ (hmore ▸ h)).trans ((State.fixed_of_clock hland).trans hu)
      · obtain ⟨hfixed, hlanding, -⟩ := u.land_ofClock b (h l (by simp [hs]))
        have hmore : (u.land b l.change).others = p ++ q := by rw [State.others, hlanding]; exact hothers
        refine (State.landDue_fixed b n _ fun k hk => h k ?_).trans (hfixed.trans hu)
        rw [hmore] at hk
        simp only [hs, List.mem_append, List.mem_cons] at hk ⊢
        tauto

/-- While only a quay's own changes land, the shown time stays. -/
theorem State.landDue_own (b : Nat) : ∀ (n : Nat) (s : State), s.others = [] →
    (State.landDue b n s).clock = s.clock ∧ ∀ f ∈ timeFields, (State.landDue b n s).rd f = s.rd f
  | 0, _, _ => ⟨rfl, fun _ _ => rfl⟩
  | n + 1, s, h => by
    cases htake : takeDue b s.landing with
    | none => rw [State.landDue_none htake]; exact ⟨rfl, fun _ _ => rfl⟩
    | some r =>
      obtain ⟨pre, l, post, hls, hrest, hc⟩ := takeDue_some (c := r.1) (rest := r.2) htake
      rw [State.landDue_some (c := r.1) (rest := r.2) htake, ← hc, hrest]
      rcases others_of_taken hls with ⟨hothers, hown⟩ | ⟨p, q, hs, -, -⟩
      · have hu : ({ s with landing := pre ++ post } : State).clock = s.clock :=
          congrArg (fun o => ({ s.clock with others := o } : Clock)) hothers.symm
        have hrdu : ∀ f, ({ s with landing := pre ++ post } : State).rd f = s.rd f := fun _ => rfl
        obtain ⟨u, hu'⟩ : ∃ u, u = ({ s with landing := pre ++ post } : State) := ⟨_, rfl⟩
        rw [← hu'] at hu hrdu hothers ⊢
        have hland := u.time_land b hown
        have hnone : (u.land b l.change).others = [] := (congrArg Clock.others (State.clock_of_time hland)).trans (hothers.symm.trans h)
        obtain ⟨hclock, hrd⟩ := State.landDue_own b n _ hnone
        exact ⟨hclock.trans ((State.clock_of_time hland).trans hu), fun f hf => (hrd f hf).trans ((State.rd_of_time hland hf).trans (hrdu f))⟩
      · simp [hs] at h

/-- A clock change that is due, the only one beside a quay's own, lands and shows. -/
theorem State.landDue_shows (b : Nat) {m : Landing} (hdue : m.due ≤ b) (hm : m.change.ofClock = true) :
    ∀ (n : Nat) (s : State), s.others = [m] → s.landing.length ≤ n → m.change.showsIn (State.landDue b n s)
  | n, s, h, hn => by
    have hmem : m ∈ s.landing := (List.mem_filter.mp (h ▸ List.mem_singleton_self m : m ∈ s.others)).1
    cases htake : takeDue b s.landing with
    | none => exact absurd (takeDue_none htake m hmem) (by omega)
    | some r =>
      obtain ⟨pre, l, post, hls, hrest, hc⟩ := takeDue_some (c := r.1) (rest := r.2) htake
      have hlen : s.landing.length = (pre ++ post).length + 1 := by rw [hls]; simp; omega
      obtain ⟨k, rfl⟩ : ∃ k, n = k + 1 := ⟨n - 1, by omega⟩
      rw [State.landDue_some (c := r.1) (rest := r.2) htake, ← hc, hrest]
      rcases others_of_taken hls with ⟨hothers, hown⟩ | ⟨p, q, hs, hothers, -⟩
      all_goals obtain ⟨u, hu⟩ : ∃ u, u = ({ s with landing := pre ++ post } : State) := ⟨_, rfl⟩
      all_goals have hlu : u.landing = pre ++ post := congrArg State.landing hu
      all_goals rw [← hu] at hothers ⊢
      · have hland := u.time_land b hown
        refine State.landDue_shows b hdue hm k _ ((congrArg Clock.others (State.clock_of_time hland)).trans (hothers.symm.trans h)) ?_
        rw [State.landing_of_time hland, hlu]
        omega
      · obtain ⟨rfl, rfl, rfl⟩ : p = [] ∧ l = m ∧ q = [] := by
          rw [h] at hs
          cases p with
          | nil => simpa [eq_comm] using hs
          | cons x xs => simp at hs
        obtain ⟨-, hlanding, hshows⟩ := u.land_ofClock b hm
        have hnone : (u.land b l.change).others = [] := by rw [State.others, hlanding]; exact hothers
        obtain ⟨hclock, hrd⟩ := State.landDue_own b k _ hnone
        exact Change.showsIn_of_shown (congrArg Clock.rate hclock) hrd hshows

/-! The boundary. -/

/-- The boundary that ends the tide, a step that is due added. -/
def State.tideStart (s : State) : Nat := nextBoundary s.now + s.stepDue (nextBoundary s.now)

/-- Time stands at `b`. -/
def State.atTime (s : State) (b : Nat) : State := { s with now := b }

theorem State.clock_atTime (s : State) (b : Nat) : (s.atTime b).clock = { s.clock with now := b } := (rfl)

/-- The tide has closed and time stands at the new tide's start. -/
def State.tideClosed (s : State) (loads : List TideLoad) (reserve : List Nat) : State :=
  let s1 := (s.closeTide loads reserve).atTime s.tideStart
  if s.stepDue (nextBoundary s.now) = 0 then s1
  else (s1.skipTides (s.stepDue (nextBoundary s.now)) s.tideStart).moveLand (nextBoundary s.now) s.tideStart

/-- What counts tides has moved on. -/
def State.tideCounted (s : State) (stops : List Nat) : State :=
  let s4 := (List.range 8).foldl State.tugBoundary ((List.range 4).foldl State.pierBoundary s)
  let s5 := [0, 1].foldl (State.packBoundary · (fun e => stops.getD e 0) ·) ({ s4 with packUsed := [] } : State)
  ((List.range 8).foldl State.trimBoundary s5).tapBoundary.streamBoundary.hawserBoundary

/-- The state in which the changes due land. -/
def State.beforeLanding (s : State) (loads : List TideLoad) (reserve stops : List Nat) : State :=
  ((s.tideClosed loads reserve).tideCounted stops).restoreAll s.tideStart

/-- Frames, grids and streams begin the new tide. -/
def State.tideBegun (s : State) (b : Nat) : State :=
  ((((((List.range 8).foldl (fun (t : State) n => t.epochDue n b) s).lanesAt b).portsAt b).showSource.showAlloc).hawserSend b)

/-- The state at the end of a boundary. -/
def State.atTideStart (s : State) (loads : List TideLoad) (reserve stops : List Nat) : State :=
  (State.landDue s.tideStart ((s.beforeLanding loads reserve stops).landing.length + 64) (s.beforeLanding loads reserve stops)).tideBegun s.tideStart

theorem exec_tideBoundary {s : State} (hs : s.runs) (loads : List TideLoad) (reserve stops : List Nat) :
    exec (.tideBoundary loads reserve stops) s = .next (s.atTideStart loads reserve stops) := by
  show execTideBoundary loads reserve stops s = _
  rw [execTideBoundary, State.live_runs hs]
  rfl

theorem State.clock_tideClosed (s : State) (loads : List TideLoad) (reserve : List Nat) :
    (s.tideClosed loads reserve).clock = { s.clock with now := s.tideStart } := by
  unfold State.tideClosed
  extract_lets s1
  have h1 : s1.clock = { s.clock with now := s.tideStart } := by
    rw [State.clock_atTime, State.clock_closeTide]
  clear_value s1
  split
  · exact h1
  · rw [State.clock_moveLand, State.clock_skipTides, h1]

theorem State.clock_tideCounted (s : State) (stops : List Nat) : (s.tideCounted stops).clock = s.clock := by
  unfold State.tideCounted
  extract_lets s4 s5
  have h4 : s4.clock = s.clock := (view_foldl State.clock State.clock_tugBoundary _ _).trans (view_foldl State.clock State.clock_pierBoundary _ s)
  clear_value s4
  have hused : ({ s4 with packUsed := [] } : State).clock = s4.clock := rfl
  have h5 : s5.clock = s4.clock := (view_foldl State.clock (fun t e => t.clock_packBoundary _ e) _ _).trans hused
  clear_value s5
  have h6 := view_foldl State.clock State.clock_trimBoundary (List.range 8) s5
  simp [h6, h5, h4]

theorem State.clock_beforeLanding (s : State) (loads : List TideLoad) (reserve stops : List Nat) :
    (s.beforeLanding loads reserve stops).clock = { s.clock with now := s.tideStart } :=
  (State.clock_restoreAll _ _).trans ((State.clock_tideCounted _ stops).trans (s.clock_tideClosed loads reserve))

theorem State.time_tideBegun (s : State) (b : Nat) : (s.tideBegun b).time = s.time :=
  (State.time_hawserSend _ b).trans ((State.time_showAlloc _).trans ((State.time_showSource _).trans ((State.time_portsAt _ b).trans
    ((State.time_lanesAt _ b).trans (view_foldl State.time (fun t n => t.time_epochDue n b) _ s)))))

/-! The step that a boundary takes. -/

theorem State.stepDue_of_rates {s : State} (h : ∀ l ∈ s.landing, ∃ v, l.change = .rate v) (b : Nat) : s.stepDue b = 0 := by
  unfold State.stepDue
  rw [List.findSome?_eq_none_iff.mpr]
  · rfl
  · intro l hl
    obtain ⟨v, hv⟩ := h l hl
    simp only [hv]

theorem State.stepDue_of_step {s : State} {b v : Nat} (h : s.landing = [⟨b, .timeStep v⟩]) : s.stepDue b = v := by
  unfold State.stepDue
  rw [h]
  simp

theorem nextBoundary_after (t : Nat) : nextBoundary t % 131072 = 0 ∧ t < nextBoundary t ∧ nextBoundary t ≤ t + 131072 := by
  unfold nextBoundary
  omega

/-- While nothing but clock changes waits, none of it is a quay's own. -/
theorem State.others_of_clock {s : State} (h : ∀ l ∈ s.landing, l.change.ofClock = true) : s.others = s.landing := by
  refine List.filter_eq_self.mpr fun l hl => ?_
  have hc := h l hl
  revert hc
  unfold Change.ofClock ownPlan
  cases l.change <;> simp

section Boundary
variable {s : State} (h : ∀ l ∈ s.landing, l.change.ofClock = true) (loads : List TideLoad) (reserve stops : List Nat)

include h

theorem State.others_beforeLanding : (s.beforeLanding loads reserve stops).others = s.landing :=
  (State.others_of_clockEq (s.clock_beforeLanding loads reserve stops)).trans (State.others_of_clock h)

theorem State.fixed_atTideStart : (s.atTideStart loads reserve stops).fixed = (s.atTime s.tideStart).fixed := by
  have hbefore : (s.beforeLanding loads reserve stops).clock = (s.atTime s.tideStart).clock := s.clock_beforeLanding loads reserve stops
  refine (State.fixed_of_clock (State.clock_of_time (State.time_tideBegun _ _))).trans ((State.landDue_fixed _ _ _ ?_).trans (State.fixed_of_clock hbefore))
  rw [State.others_beforeLanding h]
  exact h

theorem State.shows_atTideStart {m : Landing} (hm : s.landing = [m]) (hdue : m.due ≤ s.tideStart) : m.change.showsIn (s.atTideStart loads reserve stops) := by
  refine Change.showsIn_of_time (State.time_tideBegun _ _) (State.landDue_shows _ hdue (h m (by simp [hm])) _ _ ?_ (by omega))
  rw [State.others_beforeLanding h, hm]

end Boundary

/-- Settles O14: the parts before and after the landing leave the clock to the step and to what lands, and only what is due lands. -/
theorem tideBoundaryMovesTimeAndLands : Obligations.TideBoundaryMovesTimeAndLands := by
  intro loads reserve stops s hs
  have hrates : (∀ l ∈ s.landing, ∃ v, l.change = .rate v) → ∀ l ∈ s.landing, l.change.ofClock = true := fun h l hl => by
    obtain ⟨v, hv⟩ := h l hl
    rw [hv]
    rfl
  have hstart : (∀ l ∈ s.landing, ∃ v, l.change = .rate v) → s.tideStart = nextBoundary s.now := fun h => by
    rw [State.tideStart, State.stepDue_of_rates h, Nat.add_zero]
  refine ⟨s.atTideStart loads reserve stops, exec_tideBoundary hs loads reserve stops, fun h => ?_, fun v h => ?_, fun v h => ?_, fun h => ?_⟩
  · have hall : ∀ l ∈ s.landing, ∃ v, l.change = Change.rate v := by simp [h]
    have hnow : (s.atTideStart loads reserve stops).now = s.tideStart := State.now_of_fixed (State.fixed_atTideStart (hrates hall) loads reserve stops)
    rw [hnow, hstart hall]
    exact nextBoundary_after s.now
  · have hall : ∀ l ∈ s.landing, l.change.ofClock = true := by simp [h, Change.ofClock]
    have htide : s.tideStart = nextBoundary s.now + v := by rw [State.tideStart, State.stepDue_of_step h]
    have hnow : (s.atTideStart loads reserve stops).now = s.tideStart := State.now_of_fixed (State.fixed_atTideStart hall loads reserve stops)
    exact ⟨hnow.trans htide, State.shows_atTideStart hall loads reserve stops h (htide ▸ Nat.le_add_right _ v)⟩
  · have hall : ∀ l ∈ s.landing, ∃ v, l.change = Change.rate v := by simp [h]
    have hnow : (s.atTideStart loads reserve stops).now = s.tideStart := State.now_of_fixed (State.fixed_atTideStart (hrates hall) loads reserve stops)
    exact ⟨hnow.trans (hstart hall), State.shows_atTideStart (hrates hall) loads reserve stops h (hstart hall).ge⟩
  · have hfixed := State.fixed_atTideStart (hrates h) loads reserve stops
    simp only [State.fixed, Prod.mk.injEq] at hfixed
    obtain ⟨-, hcharter, hlinks, hpll, hballast, hpending⟩ := hfixed
    exact ⟨hcharter, hlinks, hpll, hballast, hpending⟩

end Sys2Proof.Machine
end

section
/-! SUPPORT. One step of the machine (R36), and when an accepted change lands (R37): statements O52 and O54. -/

namespace Sys2Proof.Machine

theorem step_cons {s : State} {c : Instr} {rest : List Instr} (h : s.pending = c :: rest) : step s = exec c { s with pending := rest } := by
  unfold step
  rw [h]

theorem step_nil {s : State} (h : s.pending = []) : step s = .next s.tick := by
  unfold step
  rw [h]

/-- The next nanosecond lies in this tide exactly when it is no tide boundary. -/
theorem State.inTide_succ_now (s : State) : s.inTide (s.now + 1) = true ↔ (s.now + 1) % 131072 ≠ 0 := by
  rw [State.inTide, decide_eq_true_eq, nextBoundary]
  omega

theorem State.tick_in_tide {s : State} (hs : s.runs) (h : (s.now + 1) % 131072 ≠ 0) : s.tick = { s with now := s.now + 1 } :=
  if_pos ⟨by rw [hs]; rfl, s.inTide_succ_now.mpr h⟩

theorem State.tick_before_boundary {s : State} (h : (s.now + 1) % 131072 = 0) : s.tick = s :=
  if_neg fun hc => s.inTide_succ_now.mp hc.2 h

theorem State.tick_held {s : State} (hs : ¬s.runs) : s.tick = s := if_neg fun hc => hs (Option.isNone_iff_eq_none.mp hc.1)

/-- Settles O52: the two cases of a step, the empty queue by the three cases of a tick. -/
theorem stepRunsFrontCommand : Obligations.StepRunsFrontCommand := by
  refine ⟨fun c rest s h => step_cons h, fun s h => ⟨fun hs hin => ?_, fun _ hat => ?_, fun hs => ?_⟩⟩
  · rw [step_nil h, State.tick_in_tide hs hin]
  · rw [step_nil h, State.tick_before_boundary hat]
  · rw [step_nil h, State.tick_held hs]

theorem landAt_boundary (t : Nat) : landAt t % 131072 = 0 := Nat.mul_mod_left ..

theorem landAt_lead (t : Nat) : t + 16384 ≤ landAt t := by
  unfold landAt
  omega

theorem landAt_first {t b : Nat} (hb : b % 131072 = 0) (h : t + 16384 ≤ b) : landAt t ≤ b := by
  unfold landAt
  omega

/-- Settles O54: a change is accepted for the boundary that `landAt` gives. -/
theorem changesLandAtTheFirstBoundaryWithLead : Obligations.ChangesLandAtTheFirstBoundaryWithLead :=
  ⟨fun t => ⟨landAt_boundary t, landAt_lead t, fun _ => landAt_first⟩,
    fun c s => ⟨s.accept_landing c, (OnlyRegs.refl s _).accept (fun _ hf => hf) c, s.acceptAt_sameButWaiting _ c⟩⟩

end Sys2Proof.Machine
end

section
/-! SUPPORT. The load of a manifest and the end of its check (R52, R56, R57): statement O13. -/

namespace Sys2Proof.Machine

/-- The fields of HB_MF_STATUS. -/
def mfFields : List Fld := [R.HB_MF_STATUS_STATE, R.HB_MF_STATUS_ERR, R.HB_MF_STATUS_SECTION]

/-- HB_MF_STATUS is written whole. -/
def State.showManifest (s : State) (state err part : Nat) : State :=
  ((s.wr R.HB_MF_STATUS_STATE state).wr R.HB_MF_STATUS_ERR err).wr R.HB_MF_STATUS_SECTION part

theorem State.rd_showManifest (s : State) (state err part : Nat) :
    (s.showManifest state err part).rd R.HB_MF_STATUS_STATE = low 3 state ∧ (s.showManifest state err part).rd R.HB_MF_STATUS_ERR = low 8 err ∧
      (s.showManifest state err part).rd R.HB_MF_STATUS_SECTION = low 8 part := by
  refine ⟨?_, ?_, State.rd_wr_same ..⟩
  · rw [State.showManifest, State.rd_wr_other _ _ (by decide), State.rd_wr_other _ _ (by decide), State.rd_wr_same]
    rfl
  · rw [State.showManifest, State.rd_wr_other _ _ (by decide), State.rd_wr_same]
    rfl

theorem OnlyRegs.showManifest {fs : List Fld} {s t : State} (h : OnlyRegs fs s t) (hfs : ∀ f ∈ mfFields, f ∈ fs) (state err part : Nat) :
    OnlyRegs fs s (t.showManifest state err part) :=
  ((h.wr (hfs _ (by simp [mfFields])) _).wr (hfs _ (by simp [mfFields])) _).wr (hfs _ (by simp [mfFields])) _

theorem exec_manifestLoad_busy {s : State} (hs : s.runs) (h : s.rd R.HB_MF_STATUS_STATE = 1 ∨ s.rd R.HB_MF_STATUS_STATE = 2) :
    exec .manifestLoad s = .next s := by
  show execManifestLoad s = _
  rw [execManifestLoad, State.live_runs hs, if_pos h]
  rfl

theorem exec_manifestLoad {s : State} (hs : s.runs) (h1 : s.rd R.HB_MF_STATUS_STATE ≠ 1) (h2 : s.rd R.HB_MF_STATUS_STATE ≠ 2) :
    exec .manifestLoad s =
      .next { s.showManifest 1 0 255 with mfCheck := some (s.rd R.HB_MF_OFFSET_OFFSET, s.rd R.HB_MF_LEN_LEN) } := by
  show execManifestLoad s = _
  rw [execManifestLoad, State.live_runs hs, if_neg (not_or.mpr ⟨h1, h2⟩)]
  rfl

/-- The magic number is the first word of the header (R52, check 1 of Table 2.8). -/
theorem State.judgeManifest_no_magic {s : State} {off : Nat} (room : Nat) (h : s.shedNat off 4 ≠ 0x464D5244) :
    s.judgeManifest off room = .bad 1 255 := by
  have hmagic : bodyNat (s.shedBytes off 64) 0 4 ≠ 0x464D5244 := by
    rwa [State.bodyNat_shedBytes s (by decide)]
  exact if_pos (.inr (.inl hmagic))

/-- The state in which the image that was under check has been read (R341). -/
def State.mfRead (s : State) (off room : Nat) : State :=
  { s.parityScan off (min (s.shedNat (off + 12) 4) room) with mfCheck := none }

/-- The state in which a manifest waits to land. -/
def State.mfAccepted (s : State) (m : Manifest) : State :=
  State.accept { s.showManifest 2 0 255 with mfPending := some m } .manifest

/-- What the verdict on the image under check leaves. -/
def State.mfJudged (s : State) (off room : Nat) : State := match s.judgeManifest off room with
  | .bad e k => (s.mfRead off room).showManifest 4 e k
  | .good m => (s.mfRead off room).mfAccepted m

theorem exec_manifestCheckDone {s : State} (hs : s.runs) {off room : Nat} (h : s.mfCheck = some (off, room)) :
    exec .manifestCheckDone s = .next (s.mfJudged off room) := by
  show execManifestCheckDone s = _
  rw [execManifestCheckDone, State.live_runs hs, h, State.mfJudged]
  dsimp only
  cases s.judgeManifest off room <;> rfl

/-- Nothing but register fields, the manifest unit and the landing list differs. -/
def SameButManifest (s t : State) : Prop := t = { s with regs := t.regs, mfCheck := t.mfCheck, mfPending := t.mfPending, landing := t.landing }

theorem SameButManifest.trans {s t u : State} (h : SameButManifest s t) (h' : SameButManifest t u) : SameButManifest s u := by
  unfold SameButManifest at *
  rw [h', h]

theorem SameButWaiting.sameButManifest {s t : State} (h : SameButWaiting s t) : SameButManifest s t := by
  unfold SameButWaiting SameButManifest at *
  rw [h]

theorem SameButRegs.sameButManifest {s t : State} (h : SameButRegs s t) : SameButManifest s t := h.sameButWaiting.sameButManifest

theorem State.mfAccepted_accepted {s t : State} (hlanding : t.landing = s.landing) (hnow : t.now = s.now) (m : Manifest) :
    Accepted .manifest s (t.mfAccepted m) := State.accepted_accept _ hlanding hnow

theorem State.rd_mfAccepted (t : State) (m : Manifest) : (t.mfAccepted m).rd R.HB_MF_STATUS_STATE = 2 ∧
    (t.mfAccepted m).rd R.HB_MF_STATUS_ERR = 0 ∧ (t.mfAccepted m).rd R.HB_MF_STATUS_SECTION = 255 := by
  have hrd : ∀ f ∈ mfFields, (t.mfAccepted m).rd f = (t.showManifest 2 0 255).rd f := fun f hf =>
    State.rd_accept_other _ _ (by revert f; decide)
  rw [hrd _ (by simp [mfFields]), hrd _ (by simp [mfFields]), hrd _ (by simp [mfFields])]
  exact t.rd_showManifest 2 0 255

theorem State.showManifest_sameButManifest (t : State) (state err part : Nat) : SameButManifest t (t.showManifest state err part) := rfl

theorem State.mfAccepted_sameButManifest (t : State) (m : Manifest) : SameButManifest t (t.mfAccepted m) := by
  have hmade : SameButManifest t { t.showManifest 2 0 255 with mfPending := some m } := rfl
  exact hmade.trans (State.acceptAt_sameButWaiting _ _ _).sameButManifest

section Judged
variable (s : State) (off room : Nat)

theorem State.mfRead_sameButManifest : SameButManifest s (s.mfRead off room) := by
  have h := (s.parityScan_sameButRegs off (min (s.shedNat (off + 12) 4) room)).sameButManifest
  unfold State.mfRead
  generalize s.parityScan off _ = t at h ⊢
  exact h.trans rfl

theorem State.mfRead_onlyRegs : OnlyRegs parityFields s (s.mfRead off room) := by
  have h := s.parityScan_onlyRegs off (min (s.shedNat (off + 12) 4) room)
  unfold State.mfRead
  generalize s.parityScan off _ = t at h ⊢
  exact h.of_regs rfl

theorem State.mfRead_unlanded : (s.mfRead off room).now = s.now ∧ (s.mfRead off room).landing = s.landing ∧
    (s.mfRead off room).mfPending = s.mfPending := by
  have h := s.parityScan_sameButRegs off (min (s.shedNat (off + 12) 4) room)
  rw [SameButRegs] at h
  rw [State.mfRead, h]
  exact ⟨rfl, rfl, rfl⟩

theorem State.mfJudged_mfCheck : (s.mfJudged off room).mfCheck = none := by
  have hread : (s.mfRead off room).mfCheck = none := rfl
  unfold State.mfJudged
  generalize s.mfRead off room = t at hread
  split <;> exact hread

theorem State.mfJudged_sameButManifest : SameButManifest s (s.mfJudged off room) := by
  have hread := s.mfRead_sameButManifest off room
  unfold State.mfJudged
  generalize s.mfRead off room = t at hread
  split
  · exact hread.trans (t.showManifest_sameButManifest 4 _ _)
  · exact hread.trans (t.mfAccepted_sameButManifest _)

theorem State.mfJudged_onlyRegs :
    OnlyRegs (R.HB_MF_STATUS_STATE :: R.HB_MF_STATUS_ERR :: R.HB_MF_STATUS_SECTION :: (landFields ++ parityFields)) s (s.mfJudged off room) := by
  have hread := (s.mfRead_onlyRegs off room).mono (gs := mfFields ++ (landFields ++ parityFields)) fun _ hf => by simp [hf]
  have hshow := hread.showManifest (fun _ hf => List.mem_append_left _ hf)
  unfold State.mfJudged
  generalize s.mfRead off room = t at hshow
  split
  · exact hshow 4 _ _
  · exact ((hshow 2 0 255).of_regs rfl).accept (fun _ hf => by simp [hf]) .manifest

end Judged

/-- Settles O13: LOAD is discarded or begins the check; the check's end answers for each of the two verdicts. -/
theorem manifestIsCheckedThenWaits : Obligations.ManifestIsCheckedThenWaits := by
  intro s hs
  refine ⟨exec_manifestLoad_busy hs, fun h1 h2 => ?_, fun off room hcheck => ⟨State.judgeManifest_no_magic room, ?_⟩⟩
  · obtain ⟨hstate, herr, hsection⟩ := s.rd_showManifest 1 0 255
    exact ⟨_, exec_manifestLoad hs h1 h2, hstate, herr, hsection, rfl,
      ((OnlyRegs.refl s _).showManifest (fun _ hf => hf) 1 0 255).of_regs rfl, rfl⟩
  · refine ⟨_, exec_manifestCheckDone hs hcheck, s.mfJudged_mfCheck off room, ?_, s.mfJudged_onlyRegs off room,
      s.mfJudged_sameButManifest off room⟩
    obtain ⟨hnow, hlanding, hpending⟩ := s.mfRead_unlanded off room
    unfold State.mfJudged
    generalize s.mfRead off room = t at hnow hlanding hpending
    cases s.judgeManifest off room with
    | bad e k =>
      obtain ⟨hstate, herr, hsection⟩ := t.rd_showManifest 4 e k
      exact ⟨hstate, herr, hsection, hpending, hlanding⟩
    | good m =>
      obtain ⟨hstate, herr, hsection⟩ := t.rd_mfAccepted m
      exact ⟨hstate, herr, hsection, rfl, State.mfAccepted_accepted hlanding hnow m⟩

end Sys2Proof.Machine
end

section
/-! SUPPORT. Every function of the model that answers a state does to the memories and to the queue of waiting commands one memory operation after
another (`Reach`). One lemma for each function, named after it and shaped like it: a case for each branch, and the lemma of each function
it calls. Here: registers, the landing list, events, the ledger's points and the accounts. -/

namespace Sys2Proof.Machine
open State
variable {a : Store} {s : State}

/-- Whatever becomes of the fields other than the memories and the queue, the memories are reached as before. Stated once over
variables, so that a use of it compares field with field and never one whole state with another. -/
theorem update_reach {now regs shadows completion free links pllLost gaps ballast landing rate berths coming gens closedOrder carried work late cutWork
    mfCheck mfPending mfActive slotOrder rings quays rx routes replayQ replaying das tileWrites dasComing flow flowComing samples traces ledger sent
    signQ evtLost lanes fifos raman ports ranging byb snd sounding watches cores clusters whDone tugs draining toHost signalled packs packUsed
    streams exportCost exportDue stamps hawser calActive quayTrims taps calSel calWaiting calDone power life fwSwap ledgerVer bootLen}
    (h : Reach a (store s)) :
    Reach a (store { s with
      now := now, regs := regs, shadows := shadows, completion := completion, free := free, links := links, pllLost := pllLost, gaps := gaps,
      ballast := ballast, landing := landing, rate := rate, berths := berths, coming := coming, gens := gens, closedOrder := closedOrder,
      carried := carried, work := work, late := late, cutWork := cutWork, mfCheck := mfCheck, mfPending := mfPending, mfActive := mfActive,
      slotOrder := slotOrder, rings := rings, quays := quays, rx := rx, routes := routes, replayQ := replayQ, replaying := replaying, das := das,
      tileWrites := tileWrites, dasComing := dasComing, flow := flow, flowComing := flowComing, samples := samples, traces := traces,
      ledger := ledger, sent := sent, signQ := signQ, evtLost := evtLost, lanes := lanes, fifos := fifos, raman := raman, ports := ports,
      ranging := ranging, byb := byb, snd := snd, sounding := sounding, watches := watches, cores := cores, clusters := clusters,
      whDone := whDone, tugs := tugs, draining := draining, toHost := toHost, signalled := signalled, packs := packs, packUsed := packUsed,
      streams := streams, exportCost := exportCost, exportDue := exportDue, stamps := stamps, hawser := hawser, calActive := calActive,
      quayTrims := quayTrims, taps := taps, calSel := calSel, calWaiting := calWaiting, calDone := calDone, power := power, life := life,
      fwSwap := fwSwap, ledgerVer := ledgerVer, bootLen := bootLen }) := h

/-- `State.wr_reach` with its field and value left to unification. -/
theorem State.set_reach {f v} (h : Reach a (store s)) : Reach a (store (s.wr f v)) := s.wr_reach h f v

theorem State.wrBit_reach {f i b} (h : Reach a (store s)) : Reach a (store (s.wrBit f i b)) :=
  set_reach h

theorem State.wrB_reach {f b} (h : Reach a (store s)) : Reach a (store (s.wrB f b)) :=
  set_reach h

theorem State.addSat_reach {f n} (h : Reach a (store s)) : Reach a (store (s.addSat f n)) :=
  set_reach h

theorem State.inc_reach {f} (h : Reach a (store s)) : Reach a (store (s.inc f)) :=
  addSat_reach h

theorem State.wrPair_reach {lo hi v} (h : Reach a (store s)) : Reach a (store (s.wrPair lo hi v)) :=
  set_reach (set_reach h)

theorem State.resetRegs_reach {at_ b} (h : Reach a (store s)) : Reach a (store (s.resetRegs at_ b)) :=
  update_reach h

theorem State.setLand_reach {due} (h : Reach a (store s)) : Reach a (store (s.setLand due)) :=
  wrPair_reach h

theorem State.acceptAt_reach {due c} (h : Reach a (store s)) : Reach a (store (s.acceptAt due c)) :=
  update_reach (setLand_reach h)

theorem State.accept_reach {c} (h : Reach a (store s)) : Reach a (store (s.accept c)) :=
  acceptAt_reach h

theorem State.dropWaiting_reach {p : Change → Bool} (h : Reach a (store s)) : Reach a (store (s.dropWaiting p)) :=
  update_reach h

theorem State.lockAnswer_reach {d} (h : Reach a (store s)) : Reach a (store (s.lockAnswer d)) :=
  wrBit_reach h

theorem State.event_reach {code point args} (h : Reach a (store s)) : Reach a (store (s.event code point args)) :=
  ite_reach (update_reach h) (update_reach (inc_reach (set_reach h)))

theorem State.netSend_reach {kind n body udp} (h : Reach a (store s)) : Reach a (store (s.netSend kind n body udp)) :=
  ite_reach (inc_reach (update_reach h)) h

theorem State.parityCheck_reach {w} (h : Reach a (store s)) : Reach a (store (s.parityCheck w)) :=
  ite_reach (inc_reach (set_reach (ite_reach h (set_reach h)))) h

theorem State.parityScan_reach {at_ n} (h : Reach a (store s)) : Reach a (store (s.parityScan at_ n)) :=
  foldl_reach h fun _ _ => parityCheck_reach

theorem State.setLink_reach {n l} (h : Reach a (store s)) : Reach a (store (s.setLink n l)) :=
  update_reach h

theorem State.openGap_reach {src} (h : Reach a (store s)) : Reach a (store (s.openGap src)) :=
  update_reach h

theorem State.closeGap_reach {src} (h : Reach a (store s)) : Reach a (store (s.closeGap src)) :=
  update_reach h

theorem State.setRtc_reach {v} (h : Reach a (store s)) : Reach a (store (s.setRtc v)) :=
  update_reach (wrPair_reach h)

theorem State.setPoint_reach {i p} (h : Reach a (store s)) : Reach a (store (s.setPoint i p)) :=
  update_reach h

theorem State.countUp_reach {i k x} (h : Reach a (store s)) : Reach a (store (s.countUp i k x)) := by
  unfold State.countUp
  extract_lets p t c s1
  have h1 : Reach a (store s1) := setPoint_reach h
  exact ite_reach (event_reach h1) h1

theorem State.countNet_reach {i q n m} (h : Reach a (store s)) : Reach a (store (s.countNet i q n m)) :=
  ite_reach (countUp_reach (countUp_reach h)) (ite_reach (countUp_reach (countUp_reach h)) h)

theorem State.intervalDue_reach {n body} (h : Reach a (store s)) : Reach a (store (s.intervalDue n body)) :=
  update_reach h

theorem State.flushIntervals_reach {i n} (h : Reach a (store s)) : Reach a (store (s.flushIntervals i n)) := by
  unfold State.flushIntervals
  extract_lets p e s1
  have h1 : Reach a (store s1) := ite_reach (setPoint_reach (intervalDue_reach h)) h
  exact ite_reach (setPoint_reach (intervalDue_reach h1)) h1

theorem State.closeSecond_reach {i x n} (h : Reach a (store s)) : Reach a (store (s.closeSecond i x n)) := by
  unfold State.closeSecond
  extract_lets _ b rs xs lost marked s1 p later p1 s2 s3
  have h2 : Reach a (store s2) := wrPair_reach (setPoint_reach (foldl_reach (flushIntervals_reach h) fun _ _ => countNet_reach))
  have h3 : Reach a (store s3) := ite_reach (set_reach h2) h2
  exact flushIntervals_reach (ite_reach (set_reach h3) h3)

theorem State.recordOrWait_reach {body} (h : Reach a (store s)) : Reach a (store (s.recordOrWait body)) :=
  ite_reach (update_reach h) (update_reach h)

theorem State.clearTotals_reach {i x} (h : Reach a (store s)) : Reach a (store (s.clearTotals i x)) :=
  setPoint_reach (event_reach (recordOrWait_reach (update_reach h)))

theorem State.settleClear_reach {i y} (h : Reach a (store s)) : Reach a (store (s.settleClear i y)) := by
  unfold State.settleClear
  extract_lets
  split
  · exact h
  · exact ite_reach (clearTotals_reach h) h

theorem State.closeDue_reach {k i y n} (h : Reach a (store s)) : Reach a (store (s.closeDue k i y n)) := by
  induction n generalizing s with
  | zero => exact h
  | succ n ih =>
    unfold State.closeDue
    split
    · exact h
    · exact ite_reach (ih (closeSecond_reach h)) h

theorem State.pointInstant_reach {k i} (h : Reach a (store s)) : Reach a (store (s.pointInstant k i)) :=
  foldl_reach h fun _ _ ht => closeDue_reach (settleClear_reach ht)

theorem State.pointIntervals_reach {c i} (h : Reach a (store s)) : Reach a (store (s.pointIntervals c i)) :=
  flushIntervals_reach h

theorem State.startCommit_reach {n} (h : Reach a (store s)) : Reach a (store (s.startCommit n)) := by
  unfold State.startCommit
  refine update_reach (holdWrite_reach ?_ _ _)
  split
  · exact event_reach (inc_reach (set_reach h))
  · exact h

theorem State.alarmStep_reach {pid r e} (h : Reach a (store s)) : Reach a (store (s.alarmStep pid r e)) := by
  unfold State.alarmStep
  refine ite_reach ?_ (ite_reach (ite_reach (event_reach (update_reach h)) (update_reach h)) h)
  extract_lets s1
  have h1 : Reach a (store s1) := update_reach h
  exact ite_reach h1 (event_reach h1)

theorem State.pruneAlarms_reach (h : Reach a (store s)) : Reach a (store s.pruneAlarms) :=
  update_reach h

theorem State.ledgerTake_reach {r} (h : Reach a (store s)) : Reach a (store (s.ledgerTake r)) := by
  unfold State.ledgerTake
  refine ite_reach h ?_
  extract_lets +onlyGivenNames late s1 s2
  have h1 : Reach a (store s1) := foldl_reach h fun _ _ => setPoint_reach
  have h2 : Reach a (store s2) := by
    clear_value s1 late
    unfold s2
    split
    · exact h1
    · exact event_reach (inc_reach (set_reach h1))
  refine update_reach ?_
  split
  · exact h2
  · exact foldl_reach h2 fun _ _ => alarmStep_reach

theorem State.pruneRecs_reach (h : Reach a (store s)) : Reach a (store s.pruneRecs) :=
  update_reach h

theorem State.setBerth_reach {i b} (h : Reach a (store s)) : Reach a (store (s.setBerth i b)) :=
  update_reach h

theorem State.overrun_reach {n e} (h : Reach a (store s)) : Reach a (store (s.overrun n e)) := by
  unfold State.overrun
  refine inc_reach (inc_reach (set_reach (wrBit_reach ?_)))
  split
  · exact ite_reach (set_reach h) h
  · exact h

theorem State.closeEngine_reach {loads reserve n} (h : Reach a (store s)) : Reach a (store (State.closeEngine loads reserve s n)) := by
  unfold State.closeEngine
  extract_lets k bs w own e s1 s2
  have h1 : Reach a (store s1) := set_reach (set_reach h)
  have h2 : Reach a (store s2) := ite_reach (overrun_reach h1) h1
  exact foldl_reach (update_reach (ite_reach (inc_reach h2) h2)) fun _ _ => setBerth_reach

theorem State.closeTide_reach {loads reserve} (h : Reach a (store s)) : Reach a (store (s.closeTide loads reserve)) :=
  foldl_reach h fun _ _ => closeEngine_reach

theorem State.chargeTo_reach {n owner amount} (h : Reach a (store s)) : Reach a (store (s.chargeTo n owner amount)) :=
  ite_reach h (update_reach h)

theorem State.spend_reach {n b amount} (h : Reach a (store s)) : Reach a (store (s.spend n b amount).1) :=
  chargeTo_reach (update_reach h)

theorem execTimeRateWrite_reach {value} (h : Reach a (store s)) : ReachRes a (execTimeRateWrite value s) :=
  live_reach h fun _ h => goOn_reach (accept_reach (set_reach (dropWaiting_reach h)))

theorem execTimeStepRequest_reach {hi} (h : Reach a (store s)) : ReachRes a (execTimeStepRequest hi s) := by
  unfold execTimeStepRequest
  refine live_reach h fun _ h => ?_
  extract_lets s0
  have h0 : Reach a (store s0) := set_reach h
  exact ite_res_reach (goOn_reach h0) (goOn_reach (accept_reach (set_reach h0)))

theorem execManifestLoad_reach (h : Reach a (store s)) : ReachRes a (execManifestLoad s) :=
  live_reach h fun _ h => ite_res_reach (goOn_reach h) (goOn_reach (update_reach (set_reach (set_reach (set_reach h)))))

theorem State.latchHigh_reach {addr p} (h : Reach a (store s)) : Reach a (store (s.latchHigh addr p)) :=
  update_reach h

theorem State.answer_reach {st data} (h : Reach a (store s)) : Reach a (store (s.answer st data)) :=
  update_reach h

theorem State.writeField_reach {addr f v hw} (h : Reach a (store s)) : Reach a (store (s.writeField addr f v hw)) := by
  unfold State.writeField
  split
  iterate 3 · exact h
  · exact ite_reach (set_reach h) h
  · exact ite_reach (set_reach h) h
  · exact set_reach h
  · exact set_reach h
  · exact ite_reach (inc_reach (set_reach h)) (ite_reach (set_reach h) h)

theorem State.writeRow_reach {r addr value hw} (h : Reach a (store s)) : Reach a (store (s.writeRow r addr value hw)) :=
  foldl_reach h fun _ _ => writeField_reach

theorem State.readClearField_reach {addr hw f} (h : Reach a (store s)) : Reach a (store (s.readClearField addr hw f)) :=
  ite_reach (set_reach h) h

end Sys2Proof.Machine
end

section
/-! SUPPORT. The memories under the Quay's launches, the berths' rings, the watches' feed and the Warehouse's accesses. -/

namespace Sys2Proof.Machine
open State
variable {a : Store} {s : State}

theorem State.setQuay_reach {n q} (h : Reach a (store s)) : Reach a (store (s.setQuay n q)) :=
  update_reach h

theorem State.setRx_reach {n x} (h : Reach a (store s)) : Reach a (store (s.setRx n x)) :=
  update_reach h

theorem State.endHold_reach {d} (h : Reach a (store s)) : Reach a (store (s.endHold d)) := by
  unfold State.endHold
  extract_lets k _ _ s1
  have h1 : Reach a (store s1) := update_reach h
  exact ite_reach h1 (wrB_reach h1)

theorem State.whenOn_reach {f : State → Res} {d} (h : Reach a (store s)) (hf : ∀ t, Reach a (store t) → ReachRes a (f t)) :
    ReachRes a (s.whenOn d f) :=
  ite_res_reach (hf _ (endHold_reach h)) (goOn_reach (lockAnswer_reach h))

theorem State.overQlink_reach {f : State → Res} {d crosses c} (h : Reach a (store s)) (hf : ∀ t, Reach a (store t) → ReachRes a (f t)) :
    ReachRes a (s.overQlink d crosses c f) :=
  ite_res_reach (goOn_reach (setLink_reach h)) (hf _ h)

theorem State.blockWrite_reach {f : State → Res} {d crosses c} (h : Reach a (store s)) (hf : ∀ t, Reach a (store t) → ReachRes a (f t)) :
    ReachRes a (s.blockWrite d crosses c f) :=
  ite_res_reach (overQlink_reach h fun _ ht => hf _ (endHold_reach ht)) (goOn_reach (lockAnswer_reach h))

theorem State.quayWrite_reach {f : State → Res} {n c} (h : Reach a (store s)) (hf : ∀ t, Reach a (store t) → ReachRes a (f t)) :
    ReachRes a (s.quayWrite n c f) :=
  blockWrite_reach h fun _ ht => hf _ ht

theorem State.runDac_reach {n y} (h : Reach a (store s)) : Reach a (store (s.runDac n y)) := by
  unfold State.runDac
  extract_lets q s1
  have h1 : Reach a (store s1) := setQuay_reach h
  exact ite_reach h1 (ite_reach h1 (addSat_reach (set_reach h1)))

theorem State.advance_reach {t} (h : Reach a (store s)) : Reach a (store (s.advance t)) :=
  update_reach h

theorem State.openSettle_reach {n b newEpoch} (h : Reach a (store s)) : Reach a (store (s.openSettle n b newEpoch)) :=
  setRx_reach (setQuay_reach h)

theorem State.restartNoise_reach {n} (h : Reach a (store s)) : Reach a (store (s.restartNoise n)) :=
  setRx_reach (set_reach (set_reach (set_reach h)))

theorem State.loseFlights_reach {n} (h : Reach a (store s)) : Reach a (store (s.loseFlights n)) :=
  setQuay_reach h

theorem State.quayStop_reach {n} (h : Reach a (store s)) : Reach a (store (s.quayStop n)) :=
  ite_reach (setQuay_reach (set_reach h)) h

theorem State.cutQuay_reach {n} (h : Reach a (store s)) : Reach a (store (s.cutQuay n)) := by
  unfold State.cutQuay
  extract_lets s1 q s2
  have h2 : Reach a (store s2) := setQuay_reach (loseFlights_reach (runDac_reach h))
  exact ite_reach (set_reach h2) h2

theorem State.startGrid_reach {n b} (h : Reach a (store s)) : Reach a (store (s.startGrid n b)) := by
  unfold State.startGrid
  refine ite_reach ?_ h
  extract_lets q x s1 s2 s3
  have h3 : Reach a (store s3) := restartNoise_reach (openSettle_reach (setRx_reach (setQuay_reach (wrPair_reach (set_reach (wrPair_reach h))))))
  exact ite_reach (quayStop_reach h3) h3

theorem State.endGrid_reach {n} (h : Reach a (store s)) : Reach a (store (s.endGrid n)) := by
  unfold State.endGrid
  extract_lets q s1
  have h1 : Reach a (store s1) := setQuay_reach h
  exact ite_reach (set_reach h1) h1

theorem State.landRun_reach {n b run} (h : Reach a (store s)) : Reach a (store (s.landRun n b run)) :=
  ite_reach (ite_reach (setQuay_reach h) (ite_reach h (startGrid_reach (setQuay_reach h)))) (endGrid_reach (setQuay_reach h))

theorem State.landResume_reach {n} (h : Reach a (store s)) : Reach a (store (s.landResume n)) :=
  ite_reach (set_reach h) h

theorem State.showNeed_reach {n} (h : Reach a (store s)) : Reach a (store (s.showNeed n)) :=
  set_reach h

theorem State.landPlan_reach {n b p} (h : Reach a (store s)) : Reach a (store (s.landPlan n b p)) := by
  unfold State.landPlan
  refine ite_reach (set_reach (set_reach h)) ?_
  extract_lets old q s1
  have h1 : Reach a (store s1) := showNeed_reach (set_reach (set_reach (set_reach h)))
  exact ite_reach h1 (ite_reach (ite_reach (openSettle_reach (setQuay_reach h1)) (setQuay_reach h1)) (ite_reach (ite_reach h1 (setQuay_reach h1))
      (startGrid_reach h1)))

theorem State.epochDue_reach {n b} (h : Reach a (store s)) : Reach a (store (s.epochDue n b)) := by
  unfold State.epochDue
  split
  · exact ite_reach (startGrid_reach h) h
  · exact h

theorem execQuayRunWrite_reach {n run} (h : Reach a (store s)) : ReachRes a (execQuayRunWrite n run s) :=
  live_reach h fun _ h => quayWrite_reach h fun _ ht => goOn_reach (accept_reach (setQuay_reach (wrB_reach (dropWaiting_reach ht))))

theorem execLaunchStart_reach {n slot phase} (h : Reach a (store s)) : ReachRes a (execLaunchStart n slot phase s) := by
  unfold execLaunchStart
  refine live_reach h fun _ h => ite_res_reach ?_ (goOn_reach h)
  extract_lets s1
  have h1 : Reach a (store s1) := runDac_reach (advance_reach h)
  exact ite_res_reach (goOn_reach (inc_reach (setQuay_reach h1))) (goOn_reach (wrPair_reach (setQuay_reach h1)))

theorem execLaunchEnd_reach {n slot} (h : Reach a (store s)) : ReachRes a (execLaunchEnd n slot s) := by
  unfold execLaunchEnd
  refine live_reach h fun _ h => ?_
  split
  · exact goOn_reach h
  · refine ite_res_reach ?_ (goOn_reach h)
    extract_lets s1 q rest s2
    have h2 : Reach a (store s2) := setQuay_reach (runDac_reach (advance_reach h))
    exact goOn_reach (ite_reach (set_reach h2) h2)

theorem execLgateARise_reach {n slot} (h : Reach a (store s)) : ReachRes a (execLgateARise n slot s) := by
  unfold execLgateARise
  refine live_reach h fun _ h => ?_
  split
  · exact goOn_reach h
  · exact ite_res_reach (goOn_reach (setQuay_reach (advance_reach h))) (goOn_reach h)

theorem execQuayResumeWrite_reach {n} (h : Reach a (store s)) : ReachRes a (execQuayResumeWrite n s) :=
  live_reach h fun _ h => quayWrite_reach h fun _ ht => ite_res_reach (goOn_reach (accept_reach ht)) (goOn_reach ht)

theorem execFaultInputActive_reach {n i} (h : Reach a (store s)) : ReachRes a (execFaultInputActive n i s) := by
  unfold execFaultInputActive
  refine live_reach h fun _ h => ite_res_reach ?_ (goOn_reach h)
  extract_lets s1
  have h1 : Reach a (store s1) := setQuay_reach (wrBit_reach (set_reach h))
  exact goOn_reach (ite_reach (quayStop_reach h1) h1)

theorem execFaultInputInactive_reach {n i} (h : Reach a (store s)) : ReachRes a (execFaultInputInactive n i s) :=
  live_reach h fun _ h => ite_res_reach (goOn_reach (setQuay_reach (wrBit_reach h))) (goOn_reach h)

theorem execPlanSelectWrite_reach {n p} (h : Reach a (store s)) : ReachRes a (execPlanSelectWrite n p s) :=
  live_reach h fun _ h => quayWrite_reach h fun _ ht => ite_res_reach (goOn_reach (set_reach ht)) (goOn_reach (accept_reach (set_reach (set_reach
    (set_reach ht)))))

theorem execLgateTCfgWrite_reach {n period value} (h : Reach a (store s)) : ReachRes a (execLgateTCfgWrite n period value s) := by
  unfold execLgateTCfgWrite
  refine live_reach h fun _ h => quayWrite_reach h fun _ ht => ite_res_reach (ite_res_reach (goOn_reach ht) ?_) (goOn_reach (accept_reach (wrB_reach
      (ite_reach ht ?_))))
  · extract_lets s1
    have h1 : Reach a (store s1) := set_reach ht
    exact goOn_reach (ite_reach (accept_reach h1) (setQuay_reach h1))
  · extract_lets t
    have ht' : Reach a (store t) := set_reach ht
    exact ite_reach (accept_reach ht') (setQuay_reach ht')

theorem State.landLgtEn_reach {n b en} (h : Reach a (store s)) : Reach a (store (s.landLgtEn n b en)) :=
  ite_reach (setQuay_reach h) (setQuay_reach h)

theorem execLgateTPulse_reach {n} (h : Reach a (store s)) : ReachRes a (execLgateTPulse n s) :=
  live_reach h fun _ h => ite_res_reach (goOn_reach (setQuay_reach (advance_reach h))) (goOn_reach h)

theorem State.spiLevels_reach {n} (h : Reach a (store s)) : Reach a (store (s.spiLevels n)) :=
  set_reach (set_reach (set_reach h))

theorem execSpiCommandWrite_reach {n value} (h : Reach a (store s)) : ReachRes a (execSpiCommandWrite n value s) :=
  live_reach h fun _ h => quayWrite_reach h fun _ ht => ite_res_reach (goOn_reach (spiLevels_reach (setQuay_reach ht))) (goOn_reach (set_reach ht))

theorem execSpiFrameStart_reach {n} (h : Reach a (store s)) : ReachRes a (execSpiFrameStart n s) := by
  unfold execSpiFrameStart
  refine live_reach h fun _ h => ?_
  extract_lets
  split
  · exact goOn_reach h
  · exact ite_res_reach (goOn_reach h) (goOn_reach (spiLevels_reach (set_reach (setQuay_reach h))))

theorem execSpiFrameDone_reach {n miso} (h : Reach a (store s)) : ReachRes a (execSpiFrameDone n miso s) := by
  unfold execSpiFrameDone
  refine live_reach h fun _ h => ?_
  extract_lets
  split
  · exact goOn_reach h
  · exact goOn_reach (spiLevels_reach (set_reach (setQuay_reach h)))

theorem execSpiRxdRead_reach {n} (h : Reach a (store s)) : ReachRes a (execSpiRxdRead n s) :=
  live_reach h fun _ h => ite_res_reach (goOn_reach (answer_reach (spiLevels_reach (setQuay_reach h)))) (goOn_reach (answer_reach
    (lockAnswer_reach h)))

theorem State.gpioLine_reach {n v i} (h : Reach a (store s)) : Reach a (store (s.gpioLine n v i)) := by
  unfold State.gpioLine
  extract_lets f q pol s1
  have h1 : Reach a (store s1) := wrB_reach (wrB_reach h)
  exact ite_reach (ite_reach h1 (setQuay_reach h1)) (setQuay_reach (set_reach h1))

theorem execGpioCfgWrite_reach {n value} (h : Reach a (store s)) : ReachRes a (execGpioCfgWrite n value s) :=
  live_reach h fun _ h => quayWrite_reach h fun _ ht => goOn_reach (foldl_reach ht fun _ _ => gpioLine_reach)

theorem execGpioOutWrite_reach {n value} (h : Reach a (store s)) : ReachRes a (execGpioOutWrite n value s) := by
  unfold execGpioOutWrite
  refine live_reach h fun _ h => quayWrite_reach h fun _ ht => ?_
  extract_lets v m s1
  have h1 : Reach a (store s1) := setQuay_reach (set_reach ht)
  exact goOn_reach (ite_reach h1 (accept_reach h1))

theorem State.placeRings_reach {b y l} (h : Reach a (store s)) : Reach a (store (State.placeRings s b y l).1) := by
  induction l generalizing s with
  | nil => exact h
  | cons r rest ih => exact ih (s := { s with rings := _ }) h

theorem State.closeSlot_reach {kind z} (h : Reach a (store s)) : Reach a (store (s.closeSlot kind z)) :=
  update_reach h

theorem State.offer_reach {w p} (h : Reach a (store s)) : Reach a (store (s.offer w p)) :=
  ite_reach (update_reach (set_reach (inc_reach h))) (update_reach h)

theorem State.feed_reach {pick : Nat → Option WatchSample} {kind source} (h : Reach a (store s)) : Reach a (store (s.feed kind source pick)) := by
  unfold State.feed
  refine foldl_reach h fun _ _ ht => ite_reach ?_ ht
  split
  · exact offer_reach ht
  · exact ht

theorem State.chargeReserve_reach {cls n} (h : Reach a (store s)) : Reach a (store (s.chargeReserve cls n)) :=
  chargeTo_reach h

theorem State.whCharge_reach {req n blocks} (h : Reach a (store s)) : Reach a (store (s.whCharge req n blocks)) := by
  unfold State.whCharge
  refine chargeReserve_reach ?_
  split
  · exact chargeTo_reach h
  · exact h

theorem State.whWrite_reach {req at_ bs} (h : Reach a (store s)) : Reach a (store (s.whWrite req at_ bs).1) :=
  ite_fst_reach h (ite_fst_reach (set_reach h) (foldl_fst_reach (whCharge_reach h) fun _ _ ht => whWritePart_reach ht _ _ _ _))

theorem State.whReadPart_reach {req retry luck b} (h : Reach a (store s)) : Reach a (store (s.whReadPart req retry luck b).1) := by
  unfold State.whReadPart
  refine ite_fst_reach h ?_
  extract_lets s1 good t
  have h1 : Reach a (store s1) := h.whTouch _ _
  have ht : Reach a (store t) := ite_reach (chargeReserve_reach h1) h1
  exact ite_fst_reach h1 (ite_fst_reach ht (ite_reach ht ht))

theorem State.whRead_reach {req at_ n retry luck} (h : Reach a (store s)) : Reach a (store (s.whRead req at_ n retry luck).1) := by
  unfold State.whRead
  refine ite_fst_reach h (ite_fst_reach (set_reach h) ?_)
  extract_lets s0 r
  have hr : Reach a (store r.1) := foldl_fst_reach (whCharge_reach (spoil_reach h _)) fun _ _ => whReadPart_reach
  exact ite_reach (nextFree_reach hr) hr

theorem State.whStore_reach {req at_ bs} (h : Reach a (store s)) : Reach a (store (s.whStore req at_ bs)) :=
  whWrite_reach h

theorem State.whSlot_reach {req at_ size bs} (h : Reach a (store s)) : Reach a (store (s.whSlot req at_ size bs)) :=
  whStore_reach h

end Sys2Proof.Machine
end

section
/-! SUPPORT. The memories under the receive path: tiles, points, segments, and the sensing and flow berths. -/

namespace Sys2Proof.Machine
open State
variable {a : Store} {s : State}

theorem State.setDas_reach {b d} (h : Reach a (store s)) : Reach a (store (s.setDas b d)) :=
  update_reach h

theorem State.cornerSample_reach {b i phase tags qual t2} (h : Reach a (store s)) : Reach a (store (s.cornerSample b i phase tags qual t2)) :=
  ite_reach (ite_reach (setDas_reach h) (inc_reach (set_reach (set_reach (setDas_reach h))))) (setDas_reach h)

theorem State.cornerPoint_reach {b pl start q word} (h : Reach a (store s)) : Reach a (store (s.cornerPoint b pl start q word)) :=
  ite_reach h (ite_reach (ite_reach (cornerSample_reach h) h) (ite_reach (setDas_reach h) (cornerSample_reach (setDas_reach h))))

theorem execTileFlush_reach {berth group parityRows} (h : Reach a (store s)) : ReachRes a (execTileFlush berth group parityRows s) :=
  live_reach h fun _ h => ite_res_reach (goOn_reach (foldl_reach (update_reach (setDas_reach (whStore_reach h))) fun _ _ ht => inc_reach
    (set_reach ht))) (goOn_reach h)

theorem State.tileWritten_reach {e} (h : Reach a (store s)) : Reach a (store (s.tileWritten e)) := by
  unfold State.tileWritten
  split
  · exact h
  · exact setDas_reach (spend_reach (update_reach h))

theorem State.readTile_reach {b luck e} (h : Reach a (store s)) : Reach a (store (s.readTile b luck e)) := by
  unfold State.readTile
  extract_lets r
  have hr : Reach a (store r.1) := whRead_reach h
  exact ite_reach (setDas_reach hr) (inc_reach (set_reach (setDas_reach hr)))

theorem State.readTiles_reach {b tiles luck} (h : Reach a (store s)) : Reach a (store (s.readTiles b tiles luck)) :=
  foldl_reach h fun _ _ => readTile_reach

theorem State.stateError_reach {b anchor i} (h : Reach a (store s)) : Reach a (store (s.stateError b anchor i)) :=
  inc_reach (set_reach (setDas_reach h))

theorem execSluiceRowWrite_reach {berth queued once spoilt badState} (h : Reach a (store s)) :
    ReachRes a (execSluiceRowWrite berth queued once spoilt badState s) := by
  unfold execSluiceRowWrite
  refine live_reach h fun _ h => ite_res_reach ?_ (goOn_reach h)
  extract_lets s1 errs s2 w s3 es tags d slot hdr lostN s4 d1 s5 s6 s7
  have h6 : Reach a (store s6) := addSat_reach (wrB_reach (wrPair_reach (setDas_reach (whSlot_reach (spend_reach (foldl_reach
      (readTiles_reach h) fun _ _ => stateError_reach))))))
  have h7 : Reach a (store s7) := ite_reach h6 (set_reach h6)
  exact goOn_reach (feed_reach (ite_reach (set_reach h7) h7))

theorem execSyncWrite_reach (h : Reach a (store s)) : ReachRes a (execSyncWrite s) :=
  live_reach h fun _ h => ite_res_reach (goOn_reach h) (goOn_reach (accept_reach (set_reach h)))

theorem State.setFlow_reach {b f} (h : Reach a (store s)) : Reach a (store (s.setFlow b f)) :=
  update_reach h

theorem State.coilPoint_reach {b pl start q word} (h : Reach a (store s)) : Reach a (store (s.coilPoint b pl start q word)) := by
  unfold State.coilPoint
  extract_lets
  split
  · exact h
  · exact ite_reach h (ite_reach (setFlow_reach h) (cornerSample_reach (setFlow_reach h)))

theorem State.setQuayTrim_reach {n x} (h : Reach a (store s)) : Reach a (store (s.setQuayTrim n x)) :=
  update_reach h

theorem State.countClip_reach {n l} (h : Reach a (store s)) : Reach a (store (s.countClip n l)) :=
  inc_reach (set_reach h)

/-- Words of the Shed written whole are sound again (R340). -/
theorem Reach.badClears {l : List Nat} {b : Store} (h : Reach a b) :
    Reach a { b with shedBad := l.foldl (fun t i => Tab.put false t i false) b.shedBad } := by
  induction l generalizing b with
  | nil => exact h
  | cons i l ih => exact ih (h.badPut i false)

theorem State.takeAdcSample_reach {n t w} (h : Reach a (store s)) : Reach a (store (s.takeAdcSample n t w)) := by
  unfold State.takeAdcSample
  extract_lets adc hit o s1 s2
  have h1 : Reach a (store s1) := foldl_reach h fun _ _ => countClip_reach
  exact (h1.shedPut o (leBytes 6 w.toNat)).badClears

theorem State.takeAdc_reach {n first last ws} (h : Reach a (store s)) : Reach a (store (s.takeAdc n first last ws)) :=
  foldl_reach (setRx_reach h) fun _ _ => takeAdcSample_reach

theorem State.psmError_reach {n} (h : Reach a (store s)) : Reach a (store (s.psmError n)) :=
  inc_reach (set_reach h)

theorem State.noiseStep_reach {n c} (h : Reach a (store s)) : Reach a (store (s.noiseStep n c)) :=
  ite_reach h (ite_reach (setRx_reach h) (set_reach (set_reach (setRx_reach h))))

theorem State.commitOut_reach {get : Nat → AdcSample} {n f point} (h : Reach a (store s)) : Reach a (store (s.commitOut n get f point)) := by
  unfold State.commitOut
  extract_lets p x key lost vx vy e bad alone c code s1
  have h1 : Reach a (store s1) := setRx_reach h
  exact noiseStep_reach (ite_reach (psmError_reach h1) h1)

theorem State.commitSeg_reach {get : Nat → AdcSample} {n g} (h : Reach a (store s)) : Reach a (store (s.commitSeg n g get)) := by
  unfold State.commitSeg
  refine foldl_reach h fun _ _ ht => ?_
  split
  · exact ht
  · refine foldl_reach ht fun _ _ hu => ?_
    split
    · exact commitOut_reach hu
    · exact hu

theorem State.stagePoint_reach {n p r word} (h : Reach a (store s)) : Reach a (store (s.stagePoint n p r word)) :=
  foldl_reach h fun _ _ ht => ite_reach (coilPoint_reach ht) (cornerPoint_reach ht)

theorem State.finishPoint_reach {n g r} (h : Reach a (store s)) : Reach a (store (s.finishPoint n g r)) := by
  unfold State.finishPoint
  split
  · exact h
  · extract_lets p x slots pols _ b out ends inSeg lost0 e badPt valid us ref looks phi lost qual fade phase tags badOfs x1 s1 s2
    have h1 : Reach a (store s1) := setRx_reach h
    have h2 : Reach a (store s2) := ite_reach (inc_reach h1) h1
    exact stagePoint_reach (foldl_reach (ite_reach (inc_reach h2) h2) fun _ _ => psmError_reach)

theorem State.drainHeld_reach {n} (h : Reach a (store s)) : Reach a (store (s.drainHeld n)) :=
  setRx_reach (foldl_reach h fun _ _ => finishPoint_reach)

theorem State.loseSegment_reach {n g} (h : Reach a (store s)) : Reach a (store (s.loseSegment n g)) :=
  setRx_reach (inc_reach (set_reach (ite_reach h (wrPair_reach h))))

theorem State.replayLevel_reach (h : Reach a (store s)) : Reach a (store s.replayLevel) :=
  set_reach (set_reach h)

theorem State.residuesSeen_reach {n c} (h : Reach a (store s)) : Reach a (store (s.residuesSeen n c)) :=
  ite_reach h (addSat_reach (set_reach h))

theorem State.passSeg_reach {n g} (h : Reach a (store s)) : Reach a (store (s.passSeg n g)) := by
  unfold State.passSeg
  extract_lets
  split
  · exact setRx_reach h
  · exact wrPair_reach h

theorem execSegmentClose_reach {n adc residues badPoints badSlots} (h : Reach a (store s)) :
    ReachRes a (execSegmentClose n adc residues badPoints badSlots s) := by
  unfold execSegmentClose
  refine live_reach h fun _ h => ?_
  split
  · exact goOn_reach h
  · refine ite_res_reach ?_ (goOn_reach h)
    extract_lets +onlyGivenNames s1 x s2
    have h2 : Reach a (store s2) := passSeg_reach (setRx_reach (takeAdc_reach (advance_reach h)))
    refine ite_res_reach (goOn_reach (drainHeld_reach (commitSeg_reach h2))) ?_
    extract_lets +onlyGivenNames s3
    have h3 : Reach a (store s3) := residuesSeen_reach h2
    exact ite_res_reach (goOn_reach (drainHeld_reach (replayLevel_reach (update_reach (setRx_reach h3))))) (goOn_reach (drainHeld_reach
        (loseSegment_reach (inc_reach h3))))

theorem execReplayStart_reach (h : Reach a (store s)) : ReachRes a (execReplayStart s) := by
  unfold execReplayStart
  refine live_reach h fun _ h => ?_
  split
  · exact goOn_reach (replayLevel_reach (update_reach h))
  · exact goOn_reach h

theorem execReplayDone_reach {residues badPoints badOffsets badCode} (h : Reach a (store s)) :
    ReachRes a (execReplayDone residues badPoints badOffsets badCode s) := by
  unfold execReplayDone
  refine live_reach h fun _ h => ?_
  split
  · exact goOn_reach h
  · extract_lets n y s1 bad s2 s3
    have h1 : Reach a (store s1) := setRx_reach (update_reach h)
    have h3 : Reach a (store s3) := residuesSeen_reach (ite_reach h1 (addSat_reach (foldl_reach (set_reach h1) fun _ _ => parityCheck_reach)))
    exact ite_res_reach (goOn_reach (drainHeld_reach (commitSeg_reach (setRx_reach (inc_reach h3))))) (goOn_reach (drainHeld_reach
        (loseSegment_reach h3)))

theorem execNoiseEstimateValid_reach {n} (h : Reach a (store s)) : ReachRes a (execNoiseEstimateValid n s) :=
  live_reach h fun _ h => ite_res_reach (goOn_reach (set_reach h)) (goOn_reach h)

theorem execNoiseWindowWrite_reach {n len value} (h : Reach a (store s)) : ReachRes a (execNoiseWindowWrite n len value s) :=
  live_reach h fun _ h => goOn_reach (restartNoise_reach (ite_reach (set_reach h) (set_reach h)))

theorem State.storeRxCfg_reach {n v} (h : Reach a (store s)) : Reach a (store (s.storeRxCfg n v)) := by
  unfold State.storeRxCfg
  extract_lets s1 s2 s3
  have h1 : Reach a (store s1) := ite_reach (set_reach h) h
  have h3 : Reach a (store s3) := set_reach (ite_reach (set_reach h1) h1)
  exact ite_reach (set_reach h3) h3

theorem State.landRxCfg_reach {n b v} (h : Reach a (store s)) : Reach a (store (s.landRxCfg n b v)) := by
  unfold State.landRxCfg
  extract_lets s1 s2
  have h2 : Reach a (store s2) := set_reach (set_reach (set_reach (set_reach (set_reach h))))
  exact ite_reach h2 (openSettle_reach h2)

theorem State.requestRxCfg_reach {n v} (h : Reach a (store s)) : Reach a (store (s.requestRxCfg n v)) :=
  accept_reach (set_reach (storeRxCfg_reach (dropWaiting_reach h)))

theorem execRxCfgWrite_reach {n value} (h : Reach a (store s)) : ReachRes a (execRxCfgWrite n value s) :=
  live_reach h fun _ h => goOn_reach (requestRxCfg_reach h)

theorem State.beforeDas_reach {g} (h : Reach a (store s)) : Reach a (store (s.beforeDas g)) := by
  unfold State.beforeDas
  extract_lets p s1
  have h1 : Reach a (store s1) := ite_reach (accept_reach (set_reach (set_reach (set_reach h)))) h
  exact ite_reach (requestRxCfg_reach h1) h1

theorem State.landDas_reach {i b d} (h : Reach a (store s)) : Reach a (store (s.landDas i b d)) :=
  set_reach (setDas_reach (wrB_reach (wrPair_reach (wrPair_reach (wrPair_reach (wrPair_reach (set_reach (set_reach (wrPair_reach (set_reach (set_reach
    (wrPair_reach (set_reach (set_reach (set_reach (set_reach (wrB_reach (wrB_reach (set_reach (set_reach (set_reach
      (set_reach h))))))))))))))))))))))

theorem State.dropTiles_reach {i} (h : Reach a (store s)) : Reach a (store (s.dropTiles i)) :=
  update_reach h

theorem State.closeDas_reach {i} (h : Reach a (store s)) : Reach a (store (s.closeDas i)) :=
  set_reach (dropTiles_reach (setDas_reach (update_reach (set_reach (wrPair_reach (wrPair_reach (resetRegs_reach h)))))))

theorem State.resyncDas_reach {i b} (h : Reach a (store s)) : Reach a (store (s.resyncDas i b)) :=
  wrB_reach (wrPair_reach (wrPair_reach (setDas_reach h)))

theorem State.beforeFlow_reach {g} (h : Reach a (store s)) : Reach a (store (s.beforeFlow g)) :=
  ite_reach (requestRxCfg_reach h) h

theorem State.showPositions_reach {z pos} (h : Reach a (store s)) : Reach a (store (s.showPositions z pos)) :=
  foldl_reach h fun _ _ => set_reach

theorem State.landFlow_reach {i b d f0} (h : Reach a (store s)) : Reach a (store (s.landFlow i b d f0)) :=
  setFlow_reach (setDas_reach (set_reach (showPositions_reach (wrPair_reach (set_reach (set_reach (wrPair_reach (set_reach (wrPair_reach (set_reach
    (set_reach (set_reach (set_reach (set_reach (set_reach (set_reach (set_reach (set_reach (set_reach (set_reach
      (resetRegs_reach h)))))))))))))))))))))

theorem State.closeFlow_reach {i b} (h : Reach a (store s)) : Reach a (store (s.closeFlow i b)) :=
  closeSlot_reach (setFlow_reach (dropTiles_reach (setDas_reach (set_reach (wrPair_reach (wrPair_reach (resetRegs_reach h)))))))

theorem State.resyncFlow_reach {i b} (h : Reach a (store s)) : Reach a (store (s.resyncFlow i b)) :=
  wrPair_reach (setFlow_reach (setDas_reach h))

theorem State.zoneSample_reach {b c m gained cut} (h : Reach a (store s)) : Reach a (store (s.zoneSample b c m gained cut).1) :=
  setDas_reach h

theorem State.zoneCoil_reach {p : State × CoilUse} {b c m0 gained cut n} (h : Reach a (store p.1)) :
    Reach a (store (State.zoneCoil b c m0 gained cut n p).1) := by
  induction n with
  | zero => exact h
  | succ n ih =>
    unfold State.zoneCoil
    extract_lets r x lost
    exact zoneSample_reach (gained := gained) ih

theorem State.zoneCoils_reach {b m0 n gained cut} (h : Reach a (store s)) : Reach a (store (s.zoneCoils b m0 n gained cut).1) :=
  foldl_fst_reach h fun p _ hp => zoneCoil_reach (p := (p.1, {})) hp

theorem State.flowFinish_reach {b dur stamp frac o f1} (h : Reach a (store s)) : Reach a (store (s.flowFinish b dur stamp frac o f1)) := by
  unfold State.flowFinish
  extract_lets +onlyGivenNames t p z f lost rec_ s1 s2 s3 s4 hold s5 u u1 u2 u3 u4 s6
  have h1 : Reach a (store s1) := setFlow_reach (whStore_reach h)
  have h2 : Reach a (store s2) := ite_reach (inc_reach (set_reach h1)) h1
  have h3 : Reach a (store s3) := ite_reach (set_reach h2) h2
  have h4 : Reach a (store s4) := ite_reach (set_reach h3) h3
  have h5 : Reach a (store s5) := ite_reach (wrPair_reach h4) h4
  have h6 : Reach a (store s6) := by
    refine ite_reach h5 ?_
    have ha : Reach a (store u) := wrB_reach (set_reach h5)
    have ha1 : Reach a (store u1) := ite_reach (set_reach ha) ha
    have ha2 : Reach a (store u2) := ite_reach (set_reach ha1) ha1
    have ha3 : Reach a (store u3) := ite_reach (set_reach ha2) ha2
    have ha4 : Reach a (store u4) := ite_reach (inc_reach (set_reach ha3)) ha3
    exact ite_reach (inc_reach (set_reach ha4)) ha4
  exact ite_reach h6 (ledgerTake_reach (feed_reach h6))

theorem State.coilsRead_reach {b m luck badState} (h : Reach a (store s)) : Reach a (store (s.coilsRead b m luck badState).1) :=
  spend_reach (foldl_reach (readTiles_reach h) fun _ _ => stateError_reach)

theorem execFlowRecordWrite_reach {berth luck} (h : Reach a (store s)) : ReachRes a (execFlowRecordWrite berth luck s) := by
  unfold execFlowRecordWrite
  refine live_reach h fun _ h => ?_
  extract_lets +onlyGivenNames t p d f0
  refine ite_res_reach ?_ (goOn_reach h)
  extract_lets +onlyGivenNames step tau whole stamp frac m0 set
  split
  · extract_lets +onlyGivenNames n k sa
    have hsa : Reach a (store sa) := setFlow_reach h
    refine ite_res_reach ?_ (goOn_reach h)
    exact goOn_reach (update_reach (flowFinish_reach (zoneCoils_reach (ite_fst_reach hsa (coilsRead_reach hsa)))))
  · extract_lets +onlyGivenNames sa
    refine ite_res_reach ?_ (goOn_reach h)
    extract_lets +onlyGivenNames sb sc r us w
    have hb : Reach a (store sb) := advance_reach (setFlow_reach h)
    have hc : Reach a (store sc) := ite_reach (showPositions_reach hb) hb
    have hw : Reach a (store w.1) := spend_reach (zoneCoils_reach (coilsRead_reach hc))
    exact goOn_reach (update_reach (flowFinish_reach hw))

end Sys2Proof.Machine
end

section
/-! SUPPORT. The memories under the Tally's lanes and the Beacon's ports. -/

namespace Sys2Proof.Machine
open State
variable {a : Store} {s : State}

theorem State.setLane_reach {l x} (h : Reach a (store s)) : Reach a (store (s.setLane l x)) :=
  update_reach h

theorem State.fifoEntry_reach {l raw e} (h : Reach a (store s)) : Reach a (store (s.fifoEntry l raw e)) :=
  ite_reach (ite_reach (set_reach (setLane_reach (update_reach h))) (inc_reach (set_reach (setLane_reach h)))) h

theorem State.alertStop_reach {l idx i} (h : Reach a (store s)) : Reach a (store (s.alertStop l idx i).1) :=
  ite_fst_reach h (set_reach (foldl_reach h fun _ _ => inc_reach))

theorem State.binInterval_reach {l i} (h : Reach a (store s)) : Reach a (store (s.binInterval l i)) := by
  unfold State.binInterval
  refine ite_reach (ite_reach (setLane_reach (inc_reach h)) (ite_reach (setLane_reach (inc_reach h)) ?_)) h
  extract_lets c c1 s1
  have h1 : Reach a (store s1) := shedWrite_reach h _ _
  exact ite_reach (setLane_reach (set_reach h1)) h1

theorem State.decideStops_reach {l t} (h : Reach a (store s)) : Reach a (store (s.decideStops l t)) :=
  foldl_reach (setLane_reach h) fun _ _ ht => ite_reach (binInterval_reach ht) (inc_reach ht)

theorem State.decideAll_reach {l} (h : Reach a (store s)) : Reach a (store (s.decideAll l)) :=
  decideStops_reach h

theorem State.statStop_reach {l idx i near} (h : Reach a (store s)) : Reach a (store (s.statStop l idx i near)) :=
  ite_reach (ite_reach (setLane_reach h) (ite_reach (setLane_reach h) (setLane_reach h))) h

theorem State.beginDump_reach {l t} (h : Reach a (store s)) : Reach a (store (s.beginDump l t)) := by
  unfold State.beginDump
  extract_lets
  split
  · exact ite_reach h (set_reach (setLane_reach (decideAll_reach h)))
  · exact h

theorem State.endMeasurement_reach {l t flags} (h : Reach a (store s)) : Reach a (store (s.endMeasurement l t flags)) :=
  ite_reach (beginDump_reach (set_reach (setLane_reach (ite_reach (fifoEntry_reach h) h)))) h

theorem State.closeGate_reach {l} (h : Reach a (store s)) : Reach a (store (s.closeGate l)) := by
  unfold State.closeGate
  extract_lets x g fin span has freq period s1
  have h1 : Reach a (store s1) := set_reach (set_reach (wrPair_reach (set_reach h)))
  exact feed_reach (fifoEntry_reach (setLane_reach (ite_reach (set_reach h1) h1)))

theorem State.closeGates_reach {l t} (h : Reach a (store s)) : Reach a (store (s.closeGates l t)) :=
  foldl_reach h fun _ _ => closeGate_reach

theorem State.countEdge_reach {l} (h : Reach a (store s)) : Reach a (store (s.countEdge l)) :=
  wrPair_reach h

theorem State.takeStop_reach {l raw near} (h : Reach a (store s)) : Reach a (store (s.takeStop l raw near)) := by
  unfold State.takeStop
  extract_lets x idx i order s1 s2 _ s3 x3 s4 x4 chosen ranging _ s5
  have h1 : Reach a (store s1) := ite_reach (set_reach h) h
  have h4 : Reach a (store s4) := statStop_reach (setLane_reach (fifoEntry_reach (alertStop_reach (ite_reach (set_reach h1) h1))))
  have h5 : Reach a (store s5) := ite_reach (setLane_reach h4) (ite_reach h4 (ite_reach (setLane_reach h4) (binInterval_reach h4)))
  exact ite_reach (endMeasurement_reach h5) h5

theorem State.codeHit_reach {l} (h : Reach a (store s)) : Reach a (store (s.codeHit l)) :=
  ite_reach (set_reach h) h

theorem State.ambientHit_reach {l i near} (h : Reach a (store s)) : Reach a (store (s.ambientHit l i near)) :=
  ite_reach (codeHit_reach h) h

theorem State.ambientBins_reach {l k hofs first count} (h : Reach a (store s)) : Reach a (store (s.ambientBins l k hofs first count)) :=
  set_reach (set_reach h)

theorem State.orphan_reach {l} (h : Reach a (store s)) : Reach a (store (s.orphan l)) :=
  set_reach (inc_reach h)

theorem State.restartLane_reach {l b} (h : Reach a (store s)) : Reach a (store (s.restartLane l b)) :=
  setLane_reach (endMeasurement_reach h)

theorem State.endFrame_reach {l b dump} (h : Reach a (store s)) : Reach a (store (s.endFrame l b dump)) :=
  ite_reach h (beginDump_reach (setLane_reach h))

theorem State.putLaneReg_reach {l reg v} (h : Reach a (store s)) : Reach a (store (s.putLaneReg l reg v)) := by
  unfold State.putLaneReg
  extract_lets f any
  have hf : ∀ g lo ok {t : State}, Reach a (store t) → Reach a (store (f g lo ok t)) := fun _ _ _ _ ht => ite_reach ht ht
  clear_value f
  split
  · iterate 12 apply hf
    exact h
  · exact hf _ _ _ h
  · iterate 4 apply hf
    exact h
  · exact hf _ _ _ h
  · iterate 3 apply hf
    exact h
  · exact hf _ _ _ h

theorem State.lanePending_reach {l} (h : Reach a (store s)) : Reach a (store (s.lanePending l)) :=
  wrB_reach h

theorem State.landLaneCfg_reach {l reg v b} (h : Reach a (store s)) : Reach a (store (s.landLaneCfg l reg v b)) :=
  ite_reach (set_reach h) (ite_reach (putLaneReg_reach (restartLane_reach h)) h)

theorem State.landHistClear_reach {l b} (h : Reach a (store s)) : Reach a (store (s.landHistClear l b)) :=
  ite_reach (set_reach h) (endFrame_reach h)

theorem State.ownLane_reach {l b owner sel src tmo k hofs hframe} (h : Reach a (store s)) :
    Reach a (store (s.ownLane l b owner sel src tmo k hofs hframe)) :=
  set_reach (set_reach (set_reach (set_reach (set_reach (set_reach (set_reach (set_reach (set_reach (set_reach (set_reach (set_reach (setLane_reach
    (clearHist_reach (restartLane_reach h) _)))))))))))))

theorem State.freeLane_reach {l b} (h : Reach a (store s)) : Reach a (store (s.freeLane l b)) :=
  set_reach (set_reach (set_reach (set_reach (setLane_reach (restartLane_reach h)))))

theorem State.lanesAt_reach {b} (h : Reach a (store s)) : Reach a (store (s.lanesAt b)) :=
  foldl_reach h fun _ _ ht => ite_reach (endFrame_reach ht) ht

theorem State.loseTally_reach (h : Reach a (store s)) : Reach a (store s.loseTally) :=
  update_reach h

theorem execTallyEdge_reach {s0 : State} {lane raw} (h : Reach a (store s0)) : ReachRes a (execTallyEdge lane raw s0) := by
  unfold execTallyEdge
  refine live_reach h fun _ h => ite_res_reach (goOn_reach h) ?_
  extract_lets +onlyGivenNames mode s1 s
  have h1 : Reach a (store s1) := decideStops_reach (advance_reach h)
  have h' : Reach a (store s) := ite_reach (endMeasurement_reach h1) (ite_reach (closeGates_reach h1) h1)
  refine ite_res_reach (goOn_reach (inc_reach h')) (ite_res_reach (goOn_reach (setLane_reach (inc_reach h'))) ?_)
  extract_lets +onlyGivenNames at_ s2
  have h2 : Reach a (store s2) := countEdge_reach (setLane_reach h')
  exact ite_res_reach (goOn_reach h2) (ite_res_reach (goOn_reach (fifoEntry_reach (codeHit_reach h2))) (ite_res_reach (goOn_reach (ite_reach
      (takeStop_reach (ambientHit_reach h2)) (orphan_reach (codeHit_reach h2)))) (ite_res_reach (goOn_reach (codeHit_reach h2)) (goOn_reach
        (setLane_reach (codeHit_reach h2))))))

theorem execTallyStart_reach {s0 : State} {lane raw} (h : Reach a (store s0)) : ReachRes a (execTallyStart lane raw s0) := by
  unfold execTallyStart
  refine live_reach h fun _ h => ite_res_reach ?_ (goOn_reach h)
  extract_lets +onlyGivenNames s1 late ended s2 s x
  have h1 : Reach a (store s1) := advance_reach h
  have h' : Reach a (store s) := decideAll_reach (ite_reach (endMeasurement_reach h1) (endMeasurement_reach h1))
  refine ite_res_reach (goOn_reach (setLane_reach (inc_reach h'))) ?_
  extract_lets +onlyGivenNames n _ s3 s4
  have h4 : Reach a (store s4) := wrPair_reach (set_reach (setLane_reach h'))
  exact goOn_reach (ite_reach (fifoEntry_reach h4) h4)

theorem execTallyTimeout_reach {lane} (h : Reach a (store s)) : ReachRes a (execTallyTimeout lane s) :=
  live_reach h fun _ h => ite_res_reach (goOn_reach (endMeasurement_reach (advance_reach h))) (goOn_reach h)

theorem State.fifoShadow_reach {n ws} (h : Reach a (store s)) : Reach a (store (s.fifoShadow n ws)) :=
  foldl_reach h fun _ _ => set_reach

theorem State.popFifo_reach {n} (h : Reach a (store s)) : Reach a (store (s.popFifo n).1) := by
  unfold State.popFifo
  split
  · exact fifoShadow_reach h
  · exact fifoShadow_reach (set_reach (update_reach h))

theorem execTallyFifoPop_reach {bank} (h : Reach a (store s)) : ReachRes a (execTallyFifoPop bank s) :=
  live_reach h fun _ h => ite_res_reach (goOn_reach (answer_reach (popFifo_reach h))) (goOn_reach (answer_reach (lockAnswer_reach h)))

theorem execStatSetComplete_reach {lane} (h : Reach a (store s)) : ReachRes a (execStatSetComplete lane s) := by
  unfold execStatSetComplete
  refine live_reach h fun _ h => ?_
  extract_lets
  split
  · exact goOn_reach h
  · exact goOn_reach (feed_reach (setLane_reach (set_reach (set_reach (set_reach (set_reach (set_reach (set_reach (set_reach (set_reach
      (set_reach h)))))))))))

theorem execFreqGateEnd_reach {lane} (h : Reach a (store s)) : ReachRes a (execFreqGateEnd lane s) :=
  live_reach h fun _ h => ite_res_reach (goOn_reach (closeGate_reach h)) (goOn_reach h)

theorem execHistogramClearWrite_reach {lane} (h : Reach a (store s)) : ReachRes a (execHistogramClearWrite lane s) :=
  live_reach h fun _ h => blockWrite_reach h fun _ ht => ite_res_reach (goOn_reach (set_reach ht)) (goOn_reach (accept_reach ht))

theorem execLaneCfgWrite_reach {lane reg value} (h : Reach a (store s)) : ReachRes a (execLaneCfgWrite lane reg value s) :=
  live_reach h fun _ h => blockWrite_reach h fun _ ht => ite_res_reach (goOn_reach (set_reach ht)) (goOn_reach (lanePending_reach (accept_reach ht)))

theorem State.landRaman_reach {i b} (h : Reach a (store s)) : Reach a (store (s.landRaman i b)) :=
  update_reach (ambientBins_reach (ownLane_reach (ambientBins_reach (ownLane_reach (landLgtEn_reach (set_reach (set_reach (set_reach h))))))))

theorem State.closeRaman_reach {i b} (h : Reach a (store s)) : Reach a (store (s.closeRaman i b)) :=
  update_reach (freeLane_reach (freeLane_reach (landLgtEn_reach (set_reach h))))

theorem State.ramanFrame_reach {i f} (h : Reach a (store s)) : Reach a (store (s.ramanFrame i f)) := by
  unfold State.ramanFrame
  extract_lets
  split
  · exact ite_reach (update_reach h) (update_reach h)
  · exact update_reach h

theorem State.dumpFrame_reach {l b ok} (h : Reach a (store s)) : Reach a (store (s.dumpFrame l b ok)) := by
  unfold State.dumpFrame
  split
  · exact h
  · extract_lets _ w1 w2 tag f s1 bytes s2
    have hw2 : Reach a (store w2.1) := spend_reach (spend_reach h)
    have h2 : Reach a (store s2) := whStore_reach (ite_reach hw2 (set_reach hw2))
    exact ite_reach (ramanFrame_reach (chargeTo_reach h2)) (update_reach (chargeTo_reach h2))

theorem execHistogramDumpDone_reach {lane ok} (h : Reach a (store s)) : ReachRes a (execHistogramDumpDone lane ok s) := by
  unfold execHistogramDumpDone
  refine live_reach h fun _ h => ?_
  extract_lets
  split
  · refine ite_res_reach ?_ (goOn_reach h)
    extract_lets s1
    have h1 : Reach a (store s1) := advance_reach h
    exact goOn_reach (setLane_reach (set_reach (clearHist_reach (ite_reach (dumpFrame_reach h1) h1) _)))
  · exact goOn_reach h

theorem State.traceRecord_reach {s0 : State} {i x t rest} (h : Reach a (store s0)) : Reach a (store (s0.traceRecord i x t rest)) :=
  update_reach (whSlot_reach (spend_reach (spend_reach h)))

theorem execRamanTraceRecord_reach {berth} (h : Reach a (store s)) : ReachRes a (execRamanTraceRecord berth s) := by
  unfold execRamanTraceRecord
  refine live_reach h fun _ h => ?_
  extract_lets
  split
  · exact goOn_reach h
  · exact goOn_reach (traceRecord_reach h)

theorem State.setPort_reach {m p} (h : Reach a (store s)) : Reach a (store (s.setPort m p)) :=
  update_reach h

theorem State.haltPort_reach {m} (h : Reach a (store s)) : Reach a (store (s.haltPort m)) :=
  ite_reach (set_reach (setPort_reach h)) h

theorem State.armPort_reach {m} (h : Reach a (store s)) : Reach a (store (s.armPort m)) :=
  wrB_reach h

theorem State.showStep_reach {m y p} (h : Reach a (store s)) : Reach a (store (s.showStep m y p)) :=
  set_reach (set_reach h)

theorem State.setEmitters_reach {m rows cols st} (h : Reach a (store s)) : Reach a (store (s.setEmitters m rows cols st)) :=
  foldl_reach h fun _ _ ht => foldl_reach ht fun _ _ => set_reach

theorem State.showEmitters_reach {m} (h : Reach a (store s)) : Reach a (store (s.showEmitters m)) :=
  wrB_reach (wrB_reach h)

theorem State.landRange_reach {i b} (h : Reach a (store s)) : Reach a (store (s.landRange i b)) :=
  update_reach (wrB_reach (setPort_reach (showEmitters_reach (setEmitters_reach (wrPair_reach (showStep_reach (set_reach (set_reach (set_reach
    (set_reach (set_reach (set_reach (set_reach (foldl_reach h fun _ _ ht => ambientBins_reach (set_reach (set_reach
      (ownLane_reach ht)))))))))))))))))

theorem State.closeRange_reach {i b} (h : Reach a (store s)) : Reach a (store (s.closeRange i b)) :=
  update_reach (setPort_reach (set_reach (set_reach (set_reach (set_reach (set_reach (set_reach (set_reach (set_reach (set_reach (set_reach
    (foldl_reach h fun _ _ => freeLane_reach))))))))))))

theorem State.portsAt_reach {b} (h : Reach a (store s)) : Reach a (store (s.portsAt b)) :=
  foldl_reach h fun _ _ ht => ite_reach (ite_reach (showStep_reach (setPort_reach ht)) (setPort_reach ht)) ht

theorem execScanFrameStart_reach {m} (h : Reach a (store s)) : ReachRes a (execScanFrameStart m s) := by
  unfold execScanFrameStart
  refine live_reach h fun _ h => ite_res_reach ?_ (goOn_reach h)
  extract_lets s1 s2
  have h2 : Reach a (store s2) := wrPair_reach (setPort_reach (advance_reach h))
  exact goOn_reach (ite_reach (showEmitters_reach (setEmitters_reach h2)) h2)

theorem State.govern_reach {m t r pw codes} (h : Reach a (store s)) : Reach a (store (s.govern m t r pw codes).1) := by
  unfold State.govern
  extract_lets cols q ok held set _ _ s1
  have h1 : Reach a (store s1) := setPort_reach h
  exact ite_reach h1 (set_reach (addSat_reach h1))

theorem State.diagnose_reach {m r sense ok} (h : Reach a (store s)) : Reach a (store (s.diagnose m r sense ok)) :=
  showEmitters_reach (foldl_reach h fun _ _ => set_reach)

theorem execRowSlot_reach {m sense} (h : Reach a (store s)) : ReachRes a (execRowSlot m sense s) := by
  unfold execRowSlot
  refine live_reach h fun _ h => ?_
  extract_lets +onlyGivenNames q
  split
  · exact goOn_reach h
  · refine ite_res_reach ?_ (goOn_reach h)
    extract_lets +onlyGivenNames s0 reg j at_ n i pw codes q1 s1
    have h1 : Reach a (store s1) := setPort_reach (advance_reach h)
    refine ite_res_reach (goOn_reach h1) (ite_res_reach (goOn_reach (inc_reach (setPort_reach h1))) ?_)
    extract_lets g
    have hg : Reach a (store g.1) := govern_reach h1
    exact ite_res_reach (goOn_reach hg) (goOn_reach (setPort_reach (ite_reach (diagnose_reach hg) hg)))

theorem execDiagnosticSlot_reach {m sense} (h : Reach a (store s)) : ReachRes a (execDiagnosticSlot m sense s) := by
  unfold execDiagnosticSlot
  refine live_reach h fun _ h => ite_res_reach ?_ (goOn_reach h)
  extract_lets +onlyGivenNames rows r s1
  have h1 : Reach a (store s1) := setPort_reach (advance_reach h)
  refine ite_res_reach (goOn_reach h1) ?_
  extract_lets +onlyGivenNames pl g
  have hg : Reach a (store g.1) := govern_reach h1
  exact goOn_reach (diagnose_reach (foldl_reach (ite_reach hg (setPort_reach hg)) fun _ _ => set_reach))

theorem State.startCheck_reach {m} (h : Reach a (store s)) : Reach a (store (s.startCheck m)) := by
  unfold State.startCheck
  extract_lets s1
  have h1 : Reach a (store s1) := set_reach h
  exact ite_reach (set_reach (setPort_reach h1)) h1

theorem execShortCheckWrite_reach {m} (h : Reach a (store s)) : ReachRes a (execShortCheckWrite m s) :=
  live_reach h fun _ h => whenOn_reach h fun _ ht => goOn_reach (accept_reach ht)

theorem State.reportPairs_reach {m found} (h : Reach a (store s)) : Reach a (store (s.reportPairs m found)) :=
  foldl_reach (wrB_reach (set_reach h)) fun _ _ ht => set_reach (set_reach ht)

theorem execShortCheckDone_reach {m pairs} (h : Reach a (store s)) : ReachRes a (execShortCheckDone m pairs s) := by
  unfold execShortCheckDone
  refine live_reach h fun _ h => ite_res_reach ?_ (goOn_reach h)
  extract_lets s1
  have h1 : Reach a (store s1) := armPort_reach (wrB_reach (reportPairs_reach (set_reach h)))
  exact ite_res_reach (goOn_reach (ite_reach (wrB_reach (setPort_reach h1)) h1)) (goOn_reach (haltPort_reach (setPort_reach h1)))

theorem execBeaconResumeWrite_reach {m} (h : Reach a (store s)) : ReachRes a (execBeaconResumeWrite m s) :=
  live_reach h fun _ h => whenOn_reach h fun _ ht => ite_res_reach (goOn_reach (accept_reach ht)) (goOn_reach ht)

theorem State.landPortResume_reach {m b} (h : Reach a (store s)) : Reach a (store (s.landPortResume m b)) :=
  ite_reach (wrB_reach (setPort_reach h)) h

theorem State.latchPort_reach {m} (h : Reach a (store s)) : Reach a (store (s.latchPort m)) := by
  unfold State.latchPort
  extract_lets q _ s1
  have h1 : Reach a (store s1) := set_reach (setPort_reach h)
  exact haltPort_reach (ite_reach (set_reach (set_reach h1)) h1)

theorem execRangingRecord_reach {berth} (h : Reach a (store s)) : ReachRes a (execRangingRecord berth s) := by
  unfold execRangingRecord
  refine live_reach h fun _ h => ?_
  extract_lets
  split
  · exact goOn_reach h
  · exact ite_res_reach (goOn_reach (setPort_reach (update_reach (whStore_reach (spend_reach (spend_reach (spend_reach h))))))) (goOn_reach h)

end Sys2Proof.Machine
end

section
/-! SUPPORT. The memories under the ledger, the platform's accesses, the links, the safety latch and the network. -/

namespace Sys2Proof.Machine
open State
variable {a : Store} {s : State}

theorem State.landPoint_reach {idx b} (h : Reach a (store s)) : Reach a (store (s.landPoint idx b)) :=
  set_reach (set_reach (set_reach (set_reach (set_reach (event_reach (settleClear_reach (setPoint_reach (ite_reach (event_reach h) h))))))))

theorem State.closePoint_reach {idx b} (h : Reach a (store s)) : Reach a (store (s.closePoint idx b)) :=
  set_reach (set_reach (set_reach (set_reach (set_reach (pruneAlarms_reach (event_reach (setPoint_reach h)))))))

theorem State.timeValid_reach (h : Reach a (store s)) : Reach a (store s.timeValid) := by
  unfold State.timeValid
  refine update_reach (foldl_reach ?_ fun _ _ => event_reach)
  split
  · exact event_reach (update_reach h)
  · exact h

theorem execTimeValidate_reach (h : Reach a (store s)) : ReachRes a (execTimeValidate s) := by
  unfold execTimeValidate
  refine live_reach h fun _ h => ite_res_reach (goOn_reach h) ?_
  extract_lets s1
  have h1 : Reach a (store s1) := set_reach h
  exact goOn_reach (ite_reach (timeValid_reach h1) h1)

theorem execLedgerSecondClose_reach (h : Reach a (store s)) : ReachRes a (execLedgerSecondClose s) := by
  unfold execLedgerSecondClose
  refine live_reach h fun _ h => ite_res_reach ?_ (goOn_reach h)
  extract_lets _ _ s1 s2 c s3 s4
  have h4 : Reach a (store s4) := pruneRecs_reach (foldl_reach (foldl_reach (update_reach (advance_reach h)) fun _ _ => pointInstant_reach) fun _ _ =>
      pointIntervals_reach)
  exact goOn_reach (ite_reach (startCommit_reach h4) h4)

theorem execCommitDone_reach (h : Reach a (store s)) : ReachRes a (execCommitDone s) := by
  unfold execCommitDone
  refine live_reach h fun _ h => ?_
  split
  · exact goOn_reach h
  · exact goOn_reach (update_reach (wrPair_reach (holdWrite_reach h _ _)))

theorem execIntervalRecord_reach (h : Reach a (store s)) : ReachRes a (execIntervalRecord s) := by
  unfold execIntervalRecord
  refine live_reach h fun _ h => ?_
  split
  · exact ite_res_reach (goOn_reach (update_reach h)) (goOn_reach h)
  · exact goOn_reach h

theorem State.czSend_reach {type ver count seq body} (h : Reach a (store s)) : Reach a (store (s.czSend type ver count seq body)) :=
  netSend_reach h

theorem State.czData_reach {ver r} (h : Reach a (store s)) : Reach a (store (s.czData ver r)) := by
  unfold State.czData
  split
  · exact czSend_reach h
  · exact h

theorem State.czGone_reach {ver r n} (h : Reach a (store s)) : Reach a (store (s.czGone ver r n)) :=
  ite_reach h (addSat_reach (czSend_reach h))

theorem State.czServe_reach {ver at_ b} (h : Reach a (store s)) : Reach a (store (s.czServe ver at_ b)) :=
  foldl_reach (foldl_reach h fun _ _ => czData_reach) fun _ _ => czGone_reach

theorem execRecordSign_reach (h : Reach a (store s)) : ReachRes a (execRecordSign s) := by
  unfold execRecordSign
  refine live_reach h fun _ h => ?_
  split
  · exact goOn_reach h
  · refine ite_res_reach (goOn_reach h) ?_
    extract_lets r body digest bytes s1 s2 acked s3 _ _ s4
    have h1 : Reach a (store s1) := holdWrite_reach h _ _
    have h2 : Reach a (store s2) := ite_reach h1 (whSlot_reach h1)
    have h4 : Reach a (store s4) := update_reach (wrPair_reach (ite_reach (set_reach h2) h2))
    split
    · exact ite_res_reach (goOn_reach (update_reach (czSend_reach h4))) (goOn_reach h4)
    · exact goOn_reach h4

theorem execCzHello_reach {min max resume} (h : Reach a (store s)) : ReachRes a (execCzHello min max resume s) :=
  live_reach h fun _ h => ite_res_reach (goOn_reach h) (ite_res_reach (goOn_reach (update_reach (czSend_reach (set_reach (set_reach (set_reach h))))))
    (goOn_reach (update_reach (czServe_reach (czSend_reach (set_reach (set_reach (set_reach h))))))))

theorem execCzNack_reach {seq ranges} (h : Reach a (store s)) : ReachRes a (execCzNack seq ranges s) := by
  unfold execCzNack
  refine live_reach h fun _ h => ite_res_reach (goOn_reach h) ?_
  extract_lets s1
  have h1 : Reach a (store s1) := inc_reach h
  exact goOn_reach (foldl_reach (ite_reach (wrPair_reach h1) h1) fun _ _ => czServe_reach)

theorem execModbusRequest_reach {s0 : State} {client fn addr count} (h : Reach a (store s0)) :
    ReachRes a (execModbusRequest client fn addr count s0) := by
  unfold execModbusRequest
  refine live_reach h fun _ h => ?_
  extract_lets port conn ended others known served _ s
  have h' : Reach a (store s) := update_reach h
  exact ite_res_reach (goOn_reach h') (ite_res_reach (goOn_reach (netSend_reach h')) (ite_res_reach (goOn_reach (netSend_reach h')) (ite_res_reach
      (goOn_reach (netSend_reach h')) (goOn_reach (netSend_reach h')))))

theorem State.handoverRecord_reach {old new digest} (h : Reach a (store s)) : Reach a (store (s.handoverRecord old new digest)) :=
  update_reach h

theorem State.landHandover_reach {b old new} (h : Reach a (store s)) : Reach a (store (s.landHandover b old new)) :=
  update_reach (handoverRecord_reach (set_reach (nextFree_reach h)))

theorem State.handoverRefused_reach {y} (h : Reach a (store s)) : Reach a (store (s.handoverRefused y)) :=
  handoverRecord_reach (update_reach (wrB_reach (set_reach h)))

theorem execLedgerHandoverVerify_reach {same} (h : Reach a (store s)) : ReachRes a (execLedgerHandoverVerify same s) := by
  unfold execLedgerHandoverVerify
  refine live_reach h fun _ h => ?_
  split
  · exact goOn_reach h
  · exact ite_res_reach (goOn_reach (update_reach (set_reach h))) (goOn_reach (handoverRefused_reach h))

theorem execLedgerHandoverTimeout_reach (h : Reach a (store s)) : ReachRes a (execLedgerHandoverTimeout s) := by
  unfold execLedgerHandoverTimeout
  refine live_reach h fun _ h => ?_
  split
  · exact goOn_reach h
  · exact ite_res_reach (goOn_reach (handoverRefused_reach (advance_reach h))) (goOn_reach h)

theorem State.journalToRing_reach (h : Reach a (store s)) : Reach a (store s.journalToRing) :=
  ite_reach h (foldl_reach h fun _ _ => whSlot_reach)

theorem State.holdLost_reach {journal} (h : Reach a (store s)) : Reach a (store (s.holdLost journal)) :=
  event_reach (foldl_reach (set_reach h) fun _ _ => setPoint_reach)

theorem State.showLast_reach (h : Reach a (store s)) : Reach a (store s.showLast) :=
  foldl_reach h fun _ _ ht => ite_reach (wrPair_reach ht) ht

theorem State.ledgerStart_reach (h : Reach a (store s)) : Reach a (store s.ledgerStart) := by
  unfold State.ledgerStart
  refine ite_reach h ?_
  extract_lets +onlyGivenNames j _ s1 g0 g1 pick s2 _ _ s3 s4
  clear_value pick
  have h1 : Reach a (store s1) := by
    unfold s1
    split
    · exact update_reach (wrPair_reach h)
    · exact event_reach h
  clear_value s1
  have h2 : Reach a (store s2) := by
    unfold s2
    split
    · exact update_reach (wrPair_reach (foldl_reach h1 fun _ _ => setPoint_reach))
    · exact holdLost_reach h1
  have h3 : Reach a (store s3) := update_reach (showLast_reach h2)
  have h4 : Reach a (store s4) := set_reach (set_reach (journalToRing_reach h3))
  exact ite_reach (timeValid_reach h4) h4

theorem execUnsupportedAccess_reach {_write addr size} (h : Reach a (store s)) : ReachRes a (execUnsupportedAccess _write addr size s) :=
  live_reach h fun _ h => ite_res_reach (refused_reach _) (goOn_reach (answer_reach h))

theorem execUnmappedAccess_reach {write addr} (h : Reach a (store s)) : ReachRes a (execUnmappedAccess write addr s) :=
  live_reach h fun _ h => ite_res_reach (refused_reach _) (goOn_reach (answer_reach (set_reach (ite_reach h (set_reach h)))))

theorem execDomainOffRead_reach {addr} (h : Reach a (store s)) : ReachRes a (execDomainOffRead addr s) :=
  live_reach h fun _ h => ite_res_reach (goOn_reach h) (goOn_reach (answer_reach (lockAnswer_reach h)))

theorem execShedWindowRead_reach {off len} (h : Reach a (store s)) : ReachRes a (execShedWindowRead off len s) :=
  live_reach h fun _ h => ite_res_reach (refused_reach _) (ite_res_reach (goOn_reach (answer_reach h)) (ite_res_reach (goOn_reach (answer_reach
    (set_reach (parityScan_reach h)))) (goOn_reach (answer_reach h))))

theorem execShedWindowWrite_reach {off bytes} (h : Reach a (store s)) : ReachRes a (execShedWindowWrite off bytes s) :=
  live_reach h fun _ h => ite_res_reach (refused_reach _) (ite_res_reach (goOn_reach (answer_reach h)) (goOn_reach (answer_reach
    (shedWrite_reach h _ _))))

theorem State.ballastPush_reach {addr v} (h : Reach a (store s)) : Reach a (store (s.ballastPush addr v)) :=
  ite_reach (update_reach h) (set_reach h)

theorem execBallastWrite_reach {addr value} (h : Reach a (store s)) : ReachRes a (execBallastWrite addr value s) :=
  live_reach h fun _ h => ite_res_reach (goOn_reach (ballastPush_reach h)) (refused_reach _)

theorem execBallastWriteApply_reach (h : Reach a (store s)) : ReachRes a (execBallastWriteApply s) := by
  unfold execBallastWriteApply
  refine live_reach h fun _ h => ?_
  split
  · exact goOn_reach h
  · extract_lets s1
    have h1 : Reach a (store s1) := update_reach h
    refine ite_res_reach (goOn_reach (set_reach (setRtc_reach h1))) ?_
    split
    · exact goOn_reach (writeRow_reach h1)
    · exact goOn_reach h1

theorem State.clocksUp_reach (h : Reach a (store s)) : Reach a (store s.clocksUp) :=
  set_reach (set_reach h)

theorem State.loseAllFlights_reach (h : Reach a (store s)) : Reach a (store s.loseAllFlights) :=
  foldl_reach h fun _ _ => loseFlights_reach

theorem execFlitCrcMismatch_reach {link flit} (h : Reach a (store s)) : ReachRes a (execFlitCrcMismatch link flit s) :=
  live_reach h fun _ h => goOn_reach (setLink_reach (inc_reach h))

theorem execLinkRetrain_reach {link} (h : Reach a (store s)) : ReachRes a (execLinkRetrain link s) :=
  live_reach h fun _ h => ite_res_reach (goOn_reach h) (goOn_reach (openGap_reach (setLink_reach (inc_reach (wrBit_reach (wrBit_reach (ite_reach
    (loseFlights_reach (runDac_reach h)) h)))))))

theorem execPllLockLoss_reach {pll} (h : Reach a (store s)) : ReachRes a (execPllLockLoss pll s) := by
  unfold execPllLockLoss
  refine live_reach h fun _ h => ite_res_reach (goOn_reach h) ?_
  extract_lets s1 s2 s3
  have h2 : Reach a (store s2) := openGap_reach (update_reach (set_reach (wrBit_reach h)))
  have h3 : Reach a (store s3) := ite_reach (loseAllFlights_reach h2) h2
  exact goOn_reach (event_reach (ite_reach (loseTally_reach h3) h3))

theorem execPllLockRegain_reach {pll} (h : Reach a (store s)) : ReachRes a (execPllLockRegain pll s) :=
  live_reach h fun _ h => goOn_reach (closeGap_reach (update_reach (wrBit_reach h)))

theorem State.armQuay_reach {n} (h : Reach a (store s)) : Reach a (store (s.armQuay n)) := by
  unfold State.armQuay
  refine ite_reach ?_ h
  extract_lets q s1
  have h1 : Reach a (store s1) := set_reach h
  exact ite_reach (accept_reach (setQuay_reach h1)) h1

theorem State.latchQuay_reach {n} (h : Reach a (store s)) : Reach a (store (s.latchQuay n)) :=
  set_reach (cutQuay_reach (quayStop_reach h))

theorem State.latchBeacon_reach (h : Reach a (store s)) : Reach a (store s.latchBeacon) :=
  foldl_reach h fun _ _ => latchPort_reach

theorem State.releaseBeacon_reach (h : Reach a (store s)) : Reach a (store s.releaseBeacon) :=
  ite_reach (foldl_reach h fun _ _ ht => ite_reach (startCheck_reach ht) (armPort_reach ht)) h

theorem State.engageLatch_reach {cause} (h : Reach a (store s)) : Reach a (store (s.engageLatch cause)) :=
  ite_reach (latchBeacon_reach (foldl_reach (set_reach (set_reach h)) fun _ _ => latchQuay_reach)) h

theorem State.releaseLatch_reach (h : Reach a (store s)) : Reach a (store s.releaseLatch) :=
  releaseBeacon_reach (foldl_reach (set_reach h) fun _ _ => armQuay_reach)

theorem execSafeArm_reach {tj rises} (h : Reach a (store s)) : ReachRes a (execSafeArm tj rises s) := by
  unfold execSafeArm
  refine live_reach h fun _ h => ?_
  extract_lets s1
  have h1 : Reach a (store s1) := set_reach h
  exact ite_res_reach (goOn_reach (ite_reach h1 (releaseLatch_reach h1))) (goOn_reach (set_reach h1))

theorem execSafeEngage_reach (h : Reach a (store s)) : ReachRes a (execSafeEngage s) :=
  live_reach h fun _ h => goOn_reach (engageLatch_reach h)

theorem execIlockNHigh_reach (h : Reach a (store s)) : ReachRes a (execIlockNHigh s) :=
  goOn_reach (engageLatch_reach (set_reach (update_reach h)))

theorem execIlockNLow_reach (h : Reach a (store s)) : ReachRes a (execIlockNLow s) :=
  ite_res_reach (goOn_reach h) (goOn_reach (set_reach (update_reach h)))

theorem execThermalWarn_reach {tj} (h : Reach a (store s)) : ReachRes a (execThermalWarn tj s) := by
  unfold execThermalWarn
  refine live_reach h fun _ h => ?_
  extract_lets s1
  have h1 : Reach a (store s1) := set_reach h
  exact ite_res_reach (goOn_reach (engageLatch_reach (set_reach h1))) (goOn_reach h1)

theorem State.stamp_reach {x} (h : Reach a (store s)) : Reach a (store (s.stamp x)) :=
  ite_reach (update_reach h) (set_reach h)

theorem State.takeFrame_reach {n f} (h : Reach a (store s)) : Reach a (store (s.takeFrame n f)) := by
  unfold State.takeFrame
  split
  iterate 3 · exact netSend_reach h
  · exact stamp_reach h
  · exact h

theorem execNetworkFrameReceive_reach {n f} (h : Reach a (store s)) : ReachRes a (execNetworkFrameReceive n f s) :=
  live_reach h fun _ h => ite_res_reach (goOn_reach h) (ite_res_reach (goOn_reach (inc_reach h)) (ite_res_reach (goOn_reach h) (ite_res_reach
    (goOn_reach (inc_reach h)) (goOn_reach (takeFrame_reach (inc_reach h))))))

theorem State.stampShadow_reach {ws} (h : Reach a (store s)) : Reach a (store (s.stampShadow ws)) :=
  foldl_reach h fun _ _ => set_reach

theorem State.popStamp_reach (h : Reach a (store s)) : Reach a (store (s.popStamp).1) := by
  unfold State.popStamp
  split
  · exact stampShadow_reach h
  · exact stampShadow_reach (update_reach h)

theorem execPtpStampPop_reach (h : Reach a (store s)) : ReachRes a (execPtpStampPop s) :=
  live_reach h fun _ h => ite_res_reach (goOn_reach (answer_reach (popStamp_reach h))) (goOn_reach (answer_reach (lockAnswer_reach h)))

theorem execPtpSend_reach {n msg seq at_} (h : Reach a (store s)) : ReachRes a (execPtpSend n msg seq at_ s) :=
  live_reach h fun _ h => ite_res_reach (goOn_reach (stamp_reach (netSend_reach h))) (goOn_reach h)

theorem State.showSource_reach (h : Reach a (store s)) : Reach a (store s.showSource) :=
  set_reach h

theorem State.wrInt32_reach {f v} (h : Reach a (store s)) : Reach a (store (s.wrInt32 f v)) :=
  ite_reach (set_reach h) (nextFree_reach (set_reach h))

theorem State.hawserSync_reach {b} (h : Reach a (store s)) : Reach a (store (s.hawserSync b)) := by
  unfold State.hawserSync
  extract_lets late due s1
  have h1 : Reach a (store s1) := ite_reach (set_reach h) h
  exact ite_reach h1 (acceptAt_reach (set_reach h1))

theorem execHawserFrameReceive_reach {frame coded at_} (h : Reach a (store s)) : ReachRes a (execHawserFrameReceive frame coded at_ s) := by
  unfold execHawserFrameReceive
  refine live_reach h fun _ h => ite_res_reach (goOn_reach h) (ite_res_reach (goOn_reach (set_reach h)) (ite_res_reach (goOn_reach (set_reach h)) ?_))
  extract_lets +onlyGivenNames head hop b s1 s2 _ s3
  have h3 : Reach a (store s3) := update_reach (wrInt32_reach (set_reach (set_reach (set_reach (set_reach (set_reach h))))))
  refine goOn_reach (showSource_reach (ite_reach ?_ h3))
  extract_lets +onlyGivenNames t
  have ht : Reach a (store t) := set_reach h3
  exact ite_reach ht (hawserSync_reach ht)

theorem execHawserForward_reach (h : Reach a (store s)) : ReachRes a (execHawserForward s) := by
  unfold execHawserForward
  refine live_reach h fun _ h => ?_
  split
  · exact goOn_reach h
  · extract_lets +onlyGivenNames _ s1
    have h1 : Reach a (store s1) := update_reach h
    refine ite_res_reach (goOn_reach h1) ?_
    extract_lets +onlyGivenNames hop s2
    have h2 : Reach a (store s2) := ite_reach (nextFree_reach h1) h1
    exact goOn_reach (update_reach (ite_reach (advance_reach h2) h2))

theorem execHawserLost_reach (h : Reach a (store s)) : ReachRes a (execHawserLost s) :=
  live_reach h fun _ h => ite_res_reach (goOn_reach (showSource_reach (set_reach h))) (goOn_reach h)

theorem State.hawserBoundary_reach (h : Reach a (store s)) : Reach a (store s.hawserBoundary) :=
  update_reach h

theorem State.hawserSend_reach {b} (h : Reach a (store s)) : Reach a (store (s.hawserSend b)) :=
  ite_reach (update_reach (nextFree_reach h)) h

theorem execPpsInEdge_reach {at_} (h : Reach a (store s)) : ReachRes a (execPpsInEdge at_ s) :=
  live_reach h fun _ h => goOn_reach (showSource_reach (update_reach (wrInt32_reach h)))

theorem execF10mRateUpdate_reach {rate} (h : Reach a (store s)) : ReachRes a (execF10mRateUpdate rate s) :=
  live_reach h fun _ h => ite_res_reach (goOn_reach (set_reach h)) (goOn_reach h)

end Sys2Proof.Machine
end

section
/-! SUPPORT. The memories under trims, the Warehouse's start, the boot, the Byboviscan and the sounding. -/

namespace Sys2Proof.Machine
open State
variable {a : Store} {s : State}

theorem State.showSlice_reach {n l} (h : Reach a (store s)) : Reach a (store (s.showSlice n l)) :=
  set_reach (set_reach (set_reach h))

theorem State.loadQuay_reach {b n} (h : Reach a (store s)) : Reach a (store (s.loadQuay b n)) := by
  unfold State.loadQuay
  extract_lets body x o s1 s2 s3 s4
  have h4 : Reach a (store s4) := foldl_reach (set_reach (set_reach (foldl_reach (resetRegs_reach (setQuayTrim_reach h)) fun _ _ ht => set_reach
      (set_reach ht)))) fun _ _ => showSlice_reach
  exact ite_reach h4 (restartNoise_reach h4)

theorem State.setTaps_reach {l x} (h : Reach a (store s)) : Reach a (store (s.setTaps l x)) :=
  update_reach h

theorem State.showDelay_reach {l} (h : Reach a (store s)) : Reach a (store (s.showDelay l)) :=
  set_reach h

theorem State.showStamps_reach (h : Reach a (store s)) : Reach a (store s.showStamps) :=
  foldl_reach (foldl_reach h fun _ _ ht => set_reach (set_reach ht)) fun _ _ => set_reach

theorem State.loadBank_reach {n} (h : Reach a (store s)) : Reach a (store (s.loadBank n)) :=
  foldl_reach (set_reach h) fun _ _ ht => showDelay_reach (set_reach (set_reach (setTaps_reach ht)))

theorem State.degrade_reach {t} (h : Reach a (store s)) : Reach a (store (s.degrade t)) := by
  unfold State.degrade
  refine ite_reach h ?_
  extract_lets s1
  have h1 : Reach a (store s1) := set_reach (wrBit_reach h)
  exact ite_reach (event_reach h1) h1

theorem State.checkTable_reach {t} (h : Reach a (store s)) : Reach a (store (s.checkTable t)) :=
  ite_reach h (ite_reach (wrBit_reach h) (ite_reach (wrBit_reach h) (degrade_reach h)))

theorem State.dieTrims_reach {d good} (h : Reach a (store s)) : Reach a (store (s.dieTrims d good)) := by
  unfold State.dieTrims
  refine foldl_reach (update_reach ?_) fun _ _ ht => ite_reach (armQuay_reach ht) ht
  split
  · exact foldl_reach h fun _ _ => loadQuay_reach
  · exact foldl_reach h fun _ _ => loadQuay_reach
  · exact loadBank_reach h
  · exact endHold_reach h

theorem execTrimImageArrive_reach {die ok} (h : Reach a (store s)) : ReachRes a (execTrimImageArrive die ok s) := by
  unfold execTrimImageArrive
  refine live_reach h fun _ h => ite_res_reach (goOn_reach h) (ite_res_reach (goOn_reach (dieTrims_reach h)) ?_)
  extract_lets s1
  have h1 : Reach a (store s1) := by
    unfold s1
    split
    · exact engageLatch_reach h
    · exact engageLatch_reach h
    · exact h
  exact ite_res_reach (goOn_reach (dieTrims_reach (degrade_reach h1))) (goOn_reach (set_reach (update_reach h1)))

theorem State.showTableId_reach {i id} (h : Reach a (store s)) : Reach a (store (s.showTableId i id)) :=
  ite_reach (set_reach h) (ite_reach (set_reach h) (set_reach h))

theorem State.loadUser_reach {i} (h : Reach a (store s)) : Reach a (store (s.loadUser i)) := by
  unfold State.loadUser
  refine ite_reach ?_ h
  extract_lets +onlyGivenNames slot img
  clear_value img
  split
  · exact showTableId_reach (update_reach h)
  · exact ite_reach (event_reach (set_reach h)) h

theorem State.loadUsers_reach (h : Reach a (store s)) : Reach a (store s.loadUsers) :=
  foldl_reach (wrPair_reach (update_reach h)) fun _ _ => loadUser_reach

theorem State.startTrimLoad_reach (h : Reach a (store s)) : Reach a (store s.startTrimLoad) :=
  update_reach (loadUsers_reach (foldl_reach (set_reach h) fun _ _ => checkTable_reach))

theorem State.nameTables_reach (h : Reach a (store s)) : Reach a (store s.nameTables) := by
  unfold State.nameTables
  refine foldl_reach h fun _ _ ht => ?_
  split
  · exact ite_reach ht (event_reach ht)
  · exact ht

theorem State.loadIdentity_reach (h : Reach a (store s)) : Reach a (store s.loadIdentity) := by
  unfold State.loadIdentity
  split
  · exact foldl_reach (set_reach h) fun _ _ => wrPair_reach
  · exact h

theorem execTrimLoadDone_reach (h : Reach a (store s)) : ReachRes a (execTrimLoadDone s) := by
  unfold execTrimLoadDone
  refine live_reach h fun _ h => ite_res_reach ?_ (goOn_reach h)
  extract_lets s1
  have h1 : Reach a (store s1) := set_reach (set_reach (set_reach (set_reach (nameTables_reach (loadIdentity_reach (showStamps_reach h))))))
  exact goOn_reach (ite_reach (set_reach h1) h1)

theorem execBackscatterPass_reach {n l stat iq} (h : Reach a (store s)) : ReachRes a (execBackscatterPass n l stat iq s) := by
  unfold execBackscatterPass
  refine live_reach h fun _ h => ite_res_reach ?_ (goOn_reach h)
  extract_lets done all act errs _ y iqErrs t
  have ht : Reach a (store t) := setQuayTrim_reach h
  exact goOn_reach (ite_reach (update_reach ht) ht)

theorem State.replaceSlice_reach {n l k} (h : Reach a (store s)) : Reach a (store (s.replaceSlice n l k)) :=
  set_reach (set_reach (set_reach (set_reach h)))

theorem State.failLane_reach {n l} (h : Reach a (store s)) : Reach a (store (s.failLane n l)) :=
  event_reach (set_reach (wrBit_reach h))

theorem State.spareStep_reach {n l} (h : Reach a (store s)) : Reach a (store (s.spareStep n l)) := by
  unfold State.spareStep
  refine ite_reach (ite_reach h (failLane_reach h)) ?_
  split
  · extract_lets s1
    have h1 : Reach a (store s1) := ite_reach (setQuayTrim_reach (replaceSlice_reach h)) (setQuayTrim_reach h)
    exact ite_reach (failLane_reach h1) h1
  · split
    · exact ite_reach (setQuayTrim_reach (set_reach h)) (setQuayTrim_reach h)
    · extract_lets s1
      have h1 : Reach a (store s1) := ite_reach (setQuayTrim_reach (replaceSlice_reach h)) (setQuayTrim_reach (set_reach h))
      exact ite_reach h1 (failLane_reach h1)

theorem State.moveLane_reach {n l} (h : Reach a (store s)) : Reach a (store (s.moveLane n l)) :=
  ite_reach h (showSlice_reach (spareStep_reach (setQuayTrim_reach h)))

theorem State.movePols_reach {n} (h : Reach a (store s)) : Reach a (store (s.movePols n)) :=
  ite_reach h (inc_reach (setQuayTrim_reach (foldl_reach h fun _ _ ht => set_reach (set_reach ht))))

theorem State.trimBoundary_reach {n} (h : Reach a (store s)) : Reach a (store (s.trimBoundary n)) :=
  ite_reach h (set_reach (movePols_reach (foldl_reach h fun _ _ => moveLane_reach)))

theorem execCodeDensityPass_reach {lane hits bubbly} (h : Reach a (store s)) : ReachRes a (execCodeDensityPass lane hits bubbly s) := by
  unfold execCodeDensityPass
  refine live_reach h fun _ h => ite_res_reach ?_ (goOn_reach h)
  extract_lets mapped new taken fail y s1 s2 s3 s4
  have h2 : Reach a (store s2) := wrB_reach (set_reach (set_reach (set_reach (set_reach (setTaps_reach h)))))
  have h3 : Reach a (store s3) := ite_reach (set_reach h2) h2
  have h4 : Reach a (store s4) := ite_reach h3 (set_reach h3)
  exact goOn_reach (ite_reach (set_reach h4) h4)

theorem State.tapBoundary_reach (h : Reach a (store s)) : Reach a (store s.tapBoundary) :=
  foldl_reach h fun _ _ ht => ite_reach ht (inc_reach (setTaps_reach ht))

theorem State.takeCal_reach {i img} (h : Reach a (store s)) : Reach a (store (s.takeCal i img)) :=
  accept_reach (update_reach (set_reach (holdWrite_reach (holdWrite_reach h _ _) _ _)))

theorem State.landFlowSet_reach {set b body} (h : Reach a (store s)) : Reach a (store (s.landFlowSet set b body)) :=
  foldl_reach h fun _ _ ht => ite_reach (setFlow_reach ht) ht

theorem State.landCal_reach {i b} (h : Reach a (store s)) : Reach a (store (s.landCal i b)) := by
  unfold State.landCal
  refine ite_reach h ?_
  extract_lets body id d w s1
  have h1 : Reach a (store s1) := wrB_reach (showTableId_reach (update_reach h))
  exact ite_reach (showStamps_reach (foldl_reach h1 fun _ _ => showDelay_reach)) (ite_reach h1 (landFlowSet_reach h1))

theorem State.eventAt_reach {t code point args} (h : Reach a (store s)) : Reach a (store (s.eventAt t code point args)) :=
  update_reach (event_reach (update_reach h))

theorem execCalSelectionWrite_reach (h : Reach a (store s)) : ReachRes a (execCalSelectionWrite s) := by
  unfold execCalSelectionWrite
  refine live_reach h fun _ h => ?_
  split
  · exact goOn_reach h
  · exact goOn_reach (eventAt_reach (wrPair_reach (holdWrite_reach (holdWrite_reach (update_reach h) _ _) _ _)))

theorem State.loseTrims_reach {d} (h : Reach a (store s)) : Reach a (store (s.loseTrims d)) :=
  update_reach (ite_reach (inc_reach h) h)

theorem State.layAreas_reach (h : Reach a (store s)) : Reach a (store s.layAreas) :=
  foldl_reach h fun _ _ ht => set_reach (set_reach ht)

theorem execWarehouseInit_reach (h : Reach a (store s)) : ReachRes a (execWarehouseInit s) :=
  live_reach h fun _ h => whenOn_reach h fun _ ht => ite_res_reach (goOn_reach ht) (goOn_reach (set_reach ht))

theorem execWarehouseReady_reach (h : Reach a (store s)) : ReachRes a (execWarehouseReady s) :=
  live_reach h fun _ h => ite_res_reach (goOn_reach (layAreas_reach (wrPair_reach (set_reach (set_reach h))))) (goOn_reach h)

theorem execWarehouseRead_reach {req addr len luck} (h : Reach a (store s)) : ReachRes a (execWarehouseRead req addr len luck s) :=
  live_reach h fun _ h => goOn_reach (update_reach (whRead_reach h))

theorem execWarehouseWrite_reach {req addr data} (h : Reach a (store s)) : ReachRes a (execWarehouseWrite req addr data s) :=
  live_reach h fun _ h => goOn_reach (update_reach (whWrite_reach (spoil_reach h _)))

theorem execWarehousePromotion_reach {cls waited} (h : Reach a (store s)) : ReachRes a (execWarehousePromotion cls waited s) :=
  live_reach h fun _ h => ite_res_reach (goOn_reach h) (goOn_reach (inc_reach h))

theorem execBootGo_reach (h : Reach a (store s)) : ReachRes a (execBootGo s) :=
  live_reach h fun _ h => ite_res_reach (goOn_reach h) (goOn_reach (update_reach (set_reach (set_reach h))))

theorem State.firmwareStart_reach (h : Reach a (store s)) : Reach a (store s.firmwareStart) := by
  unfold State.firmwareStart
  extract_lets s0
  have h0 : Reach a (store s0) := clocksUp_reach h
  exact ledgerStart_reach (nextFree_reach (update_reach (startTrimLoad_reach (ite_reach (set_reach h0) h0))))

theorem execBootVerifyDone_reach (h : Reach a (store s)) : ReachRes a (execBootVerifyDone s) := by
  unfold execBootVerifyDone
  refine live_reach h fun _ h => ite_res_reach ?_ (goOn_reach h)
  extract_lets e s1
  have h1 : Reach a (store s1) := parityScan_reach h
  exact ite_res_reach (goOn_reach (set_reach (set_reach h1))) (goOn_reach (firmwareStart_reach (set_reach (set_reach h1))))

theorem State.headToPorts_reach {k} (h : Reach a (store s)) : Reach a (store (s.headToPorts k)) := by
  unfold State.headToPorts
  refine foldl_reach h fun _ _ ht => ?_
  extract_lets t1
  have ht1 : Reach a (store t1) := wrB_reach (wrB_reach ht)
  exact ite_reach (haltPort_reach ht1) ht1

theorem State.loseHead_reach {k} (h : Reach a (store s)) : Reach a (store (s.loseHead k)) :=
  headToPorts_reach (set_reach (set_reach h))

theorem execByboviFrameStart_reach (h : Reach a (store s)) : ReachRes a (execByboviFrameStart s) :=
  live_reach h fun _ h => ite_res_reach (goOn_reach (update_reach (ite_reach (foldl_reach (set_reach h) fun _ _ => loseHead_reach) h))) (goOn_reach h)

theorem State.takeStatus_reach {k share} (h : Reach a (store s)) : Reach a (store (s.takeStatus k share)) := by
  unfold State.takeStatus
  extract_lets vmin vmax known changed v s1 s2 s3 s4
  have h2 : Reach a (store s2) := set_reach (wrB_reach (set_reach (set_reach (set_reach (set_reach (wrB_reach (wrB_reach (set_reach
      (set_reach h)))))))))
  have h3 : Reach a (store s3) := ite_reach (set_reach h2) h2
  have h4 : Reach a (store s4) := ite_reach (set_reach h3) h3
  exact headToPorts_reach (update_reach (ite_reach (set_reach h4) h4))

theorem State.bybExcess_reach (h : Reach a (store s)) : Reach a (store s.bybExcess) :=
  update_reach (set_reach h)

theorem execByboviStatusShare_reach {share symbolError} (h : Reach a (store s)) : ReachRes a (execByboviStatusShare share symbolError s) := by
  unfold execByboviStatusShare
  refine live_reach h fun _ h => ite_res_reach ?_ (goOn_reach h)
  extract_lets k bad _ s1
  have h1 : Reach a (store s1) := update_reach h
  exact ite_res_reach (goOn_reach (bybExcess_reach h)) (ite_res_reach (goOn_reach (set_reach (inc_reach h1))) (ite_res_reach (goOn_reach
      (takeStatus_reach h1)) (ite_res_reach (goOn_reach (bybExcess_reach h)) (goOn_reach h))))

theorem execByboviEnd_reach (h : Reach a (store s)) : ReachRes a (execByboviEnd s) := by
  unfold execByboviEnd
  refine live_reach h fun _ h => ite_res_reach ?_ (goOn_reach h)
  extract_lets n missing s1
  have h1 : Reach a (store s1) := inc_reach (set_reach (set_reach h))
  exact goOn_reach (update_reach (foldl_reach (ite_reach (set_reach h1) h1) fun _ _ ht => update_reach (set_reach ht)))

theorem execHeadLost_reach {k} (h : Reach a (store s)) : ReachRes a (execHeadLost k s) :=
  live_reach h fun _ h => ite_res_reach (goOn_reach (loseHead_reach h)) (goOn_reach h)

theorem execByboviCmdWrite_reach {k value} (h : Reach a (store s)) : ReachRes a (execByboviCmdWrite k value s) :=
  live_reach h fun _ h => whenOn_reach h fun _ ht => goOn_reach (update_reach (set_reach (set_reach (set_reach (ite_reach ht (set_reach ht))))))

theorem execByboviDiscover_reach (h : Reach a (store s)) : ReachRes a (execByboviDiscover s) :=
  live_reach h fun _ h => whenOn_reach h fun _ ht => goOn_reach (accept_reach ht)

theorem State.landBybEn_reach {b en} (h : Reach a (store s)) : Reach a (store (s.landBybEn b en)) :=
  ite_reach (ite_reach h (update_reach h)) (update_reach h)

theorem State.setChan_reach {c x} (h : Reach a (store s)) : Reach a (store (s.setChan c x)) :=
  update_reach h

theorem State.putWord_reach {addr v} (h : Reach a (store s)) : Reach a (store (s.putWord addr v)) := by
  unfold State.putWord
  split
  · exact foldl_reach h fun _ _ => set_reach
  · exact h

theorem State.putChan_reach {c owner ws} (h : Reach a (store s)) : Reach a (store (s.putChan c owner ws)) :=
  foldl_reach h fun _ _ => putWord_reach

theorem State.chanStatus_reach {c} (h : Reach a (store s)) : Reach a (store (s.chanStatus c)) :=
  wrB_reach (set_reach (set_reach (wrB_reach (wrB_reach (setChan_reach h)))))

theorem State.chanWrite_reach {c r v} (h : Reach a (store s)) : Reach a (store (s.chanWrite c r v)) :=
  ite_reach (set_reach (set_reach h)) (chanStatus_reach (putWord_reach h))

theorem execSoundingCfgWrite_reach {c reg value} (h : Reach a (store s)) : ReachRes a (execSoundingCfgWrite c reg value s) :=
  live_reach h fun _ h => ite_res_reach (goOn_reach (chanWrite_reach (endHold_reach h))) (goOn_reach (lockAnswer_reach h))

theorem State.startConversion_reach {c t} (h : Reach a (store s)) : Reach a (store (s.startConversion c t)) := by
  unfold State.startConversion
  extract_lets x0 ws x s0 s1
  have h0 : Reach a (store s0) := putChan_reach h
  have h1 : Reach a (store s1) := ite_reach (set_reach h0) h0
  exact chanStatus_reach (setChan_reach (ite_reach (inc_reach h1) h1))

theorem execConversionStart_reach {c t0} (h : Reach a (store s)) : ReachRes a (execConversionStart c t0 s) :=
  live_reach h fun _ h => ite_res_reach (goOn_reach (startConversion_reach h)) (goOn_reach h)

theorem State.disturbGroup_reach {c t} (h : Reach a (store s)) : Reach a (store (s.disturbGroup c t)) :=
  foldl_reach h fun _ _ ht => ite_reach ht (setChan_reach ht)

theorem State.sampleValue_reach {y} (h : Reach a (store s)) : Reach a (store (s.sampleValue y).1) := by
  unfold State.sampleValue
  split
  · exact h
  · exact nextFree_reach h
  · exact ite_fst_reach h (nextFree_reach h)

theorem State.showSample_reach {c p} (h : Reach a (store s)) : Reach a (store (s.showSample c p)) := by
  unfold State.showSample
  extract_lets ovr novr s1 s2 s3
  have h2 : Reach a (store s2) := wrPair_reach (set_reach (set_reach (set_reach (set_reach (set_reach h)))))
  have h3 : Reach a (store s3) := ite_reach (set_reach (inc_reach (set_reach h2))) h2
  exact feed_reach (setChan_reach (ite_reach (set_reach (set_reach h3)) h3))

theorem State.ringSample_reach {c handle p} (h : Reach a (store s)) : Reach a (store (s.ringSample c handle p)) :=
  ite_reach h (ite_reach (inc_reach h) (update_reach (whSlot_reach (spend_reach h))))

theorem State.endConversion_reach {c t code overload exc ended} (h : Reach a (store s)) :
    Reach a (store (s.endConversion c t code overload exc ended)) := by
  unfold State.endConversion
  extract_lets e x cfg next changes y cv none_ lost sv tag p s1 s2 s3
  have h1 : Reach a (store s1) := inc_reach (setChan_reach (sampleValue_reach h))
  have h3 : Reach a (store s3) := chanStatus_reach (ringSample_reach (showSample_reach (ite_reach (set_reach h1) h1)))
  exact ite_reach (disturbGroup_reach h3) h3

theorem State.dropConversion_reach {c} (h : Reach a (store s)) : Reach a (store (s.dropConversion c)) :=
  chanStatus_reach (setChan_reach h)

theorem execConversionEnd_reach {c t code overload exc ended} (h : Reach a (store s)) :
    ReachRes a (execConversionEnd c t code overload exc ended s) :=
  live_reach h fun _ h => ite_res_reach (goOn_reach h) (ite_res_reach (goOn_reach (dropConversion_reach h)) (goOn_reach (endConversion_reach h)))

theorem State.endLead_reach {c t code overload exc ended} (h : Reach a (store s)) : Reach a (store (s.endLead c t code overload exc ended)) := by
  unfold State.endLead
  extract_lets e r _ y s1 s2
  have h2 : Reach a (store s2) := chanStatus_reach (set_reach (set_reach (inc_reach (setChan_reach h))))
  exact ite_reach (disturbGroup_reach h2) h2

theorem execLeadConversionEnd_reach {c t code overload exc ended} (h : Reach a (store s)) :
    ReachRes a (execLeadConversionEnd c t code overload exc ended s) :=
  live_reach h fun _ h => ite_res_reach (goOn_reach h) (ite_res_reach (goOn_reach (dropConversion_reach h)) (goOn_reach (endLead_reach h)))

theorem State.singleAll_reach (h : Reach a (store s)) : Reach a (store s.singleAll) :=
  foldl_reach h fun _ _ ht => ite_reach (setChan_reach ht) ht

theorem State.sndGo_reach (h : Reach a (store s)) : Reach a (store s.sndGo) :=
  ite_reach (update_reach h) (ite_reach (singleAll_reach h) h)

theorem State.sndRestart_reach (h : Reach a (store s)) : Reach a (store s.sndRestart) :=
  sndGo_reach (update_reach h)

theorem State.writeMode_reach {m} (h : Reach a (store s)) : Reach a (store (s.writeMode m)) := by
  unfold State.writeMode
  refine ite_reach h ?_
  extract_lets s1 _ s2
  have h1 : Reach a (store s1) := set_reach h
  have h2 : Reach a (store s2) := ite_reach h1 (update_reach h1)
  exact ite_reach (foldl_reach h2 fun _ _ => setChan_reach) h2

theorem State.writeMsrc_reach {m} (h : Reach a (store s)) : Reach a (store (s.writeMsrc m)) :=
  ite_reach h (sndRestart_reach (foldl_reach (wrB_reach (set_reach (set_reach h))) fun _ _ ht => ite_reach (chanStatus_reach (setChan_reach ht)) ht))

theorem execSoundingStart_reach (h : Reach a (store s)) : ReachRes a (execSoundingStart s) :=
  live_reach h fun _ h => ite_res_reach (goOn_reach (sndGo_reach (endHold_reach h))) (goOn_reach (lockAnswer_reach h))

theorem execSoundingRestart_reach (h : Reach a (store s)) : ReachRes a (execSoundingRestart s) :=
  live_reach h fun _ h => ite_res_reach (goOn_reach (sndRestart_reach (endHold_reach h))) (goOn_reach (lockAnswer_reach h))

theorem execSoundingStop_reach (h : Reach a (store s)) : ReachRes a (execSoundingStop s) :=
  live_reach h fun _ h => ite_res_reach (goOn_reach (writeMode_reach (endHold_reach h))) (goOn_reach (lockAnswer_reach h))

theorem execMsrcWrite_reach {msrc} (h : Reach a (store s)) : ReachRes a (execMsrcWrite msrc s) :=
  live_reach h fun _ h => ite_res_reach (goOn_reach (writeMsrc_reach (endHold_reach h))) (goOn_reach (lockAnswer_reach h))

theorem execMainsLost_reach {period} (h : Reach a (store s)) : ReachRes a (execMainsLost period s) :=
  live_reach h fun _ h => ite_res_reach (goOn_reach (set_reach (set_reach (set_reach (set_reach h))))) (goOn_reach h)

theorem execMainsRelock_reach {period} (h : Reach a (store s)) : ReachRes a (execMainsRelock period s) :=
  live_reach h fun _ h => ite_res_reach (goOn_reach (set_reach (set_reach (set_reach h)))) (goOn_reach h)

theorem State.sndCtl_reach {v} (h : Reach a (store s)) : Reach a (store (s.sndCtl v)) := by
  unfold State.sndCtl
  extract_lets s1 s2
  have h1 : Reach a (store s1) := writeMsrc_reach (writeMode_reach h)
  have h2 : Reach a (store s2) := ite_reach (sndGo_reach h1) h1
  exact ite_reach (sndRestart_reach h2) h2

theorem State.trackReference_reach {k reading} (h : Reach a (store s)) : Reach a (store (s.trackReference k reading)) := by
  unfold State.trackReference
  split
  · exact h
  · extract_lets den d beyond n sv s1
    have h1 : Reach a (store s1) := wrBit_reach (set_reach (ite_fst_reach h (nextFree_reach h)))
    exact ite_reach (set_reach h1) h1

theorem execReferenceRotationStep_reach {reading} (h : Reach a (store s)) : ReachRes a (execReferenceRotationStep reading s) := by
  unfold execReferenceRotationStep
  refine live_reach h fun _ h => ite_res_reach (goOn_reach h) ?_
  extract_lets +onlyGivenNames k _ s1 s2
  have h1 : Reach a (store s1) := update_reach h
  have h2 : Reach a (store s2) := ite_reach (trackReference_reach h1) h1
  refine ite_res_reach ?_ (goOn_reach h2)
  extract_lets +onlyGivenNames s3
  have h3 : Reach a (store s3) := set_reach (inc_reach h2)
  exact goOn_reach (ite_reach (set_reach h3) h3)

theorem State.landSounding_reach {i} (h : Reach a (store s)) : Reach a (store (s.landSounding i)) :=
  chanStatus_reach (setChan_reach (update_reach (putChan_reach h)))

theorem State.closeSounding_reach {i} (h : Reach a (store s)) : Reach a (store (s.closeSounding i)) :=
  chanStatus_reach (setChan_reach (update_reach (putChan_reach h)))

theorem State.resetChan_reach {c} (h : Reach a (store s)) : Reach a (store (s.resetChan c)) :=
  chanStatus_reach (setChan_reach (resetRegs_reach h))

theorem State.activateSounding_reach (h : Reach a (store s)) : Reach a (store s.activateSounding) := by
  unfold State.activateSounding
  split
  · exact sndCtl_reach (foldl_reach h fun _ _ => resetChan_reach)
  · exact sndCtl_reach (foldl_reach h fun _ _ ht => chanStatus_reach (putChan_reach ht))

end Sys2Proof.Machine
end

section
/-! SUPPORT. The memories under the pier's cores: an instruction's effect is a function of the state, so its lemma is a hypothesis here. -/

namespace Sys2Proof.Machine
open State
variable {a : Store} {s : State}

theorem State.setCore_reach {k x} (h : Reach a (store s)) : Reach a (store (s.setCore k x)) :=
  update_reach h

theorem State.setCluster_reach {n x} (h : Reach a (store s)) : Reach a (store (s.setCluster n x)) :=
  update_reach h

theorem State.showCore_reach {k} (h : Reach a (store s)) : Reach a (store (s.showCore k)) :=
  set_reach (set_reach (wrB_reach (set_reach (wrB_reach (set_reach (set_reach (set_reach (set_reach h))))))))

theorem State.showQueue_reach {n} (h : Reach a (store s)) : Reach a (store (s.showQueue n)) :=
  set_reach (set_reach h)

theorem State.coreWrite_reach {k at_ bs} (h : Reach a (store s)) : Reach a (store (s.coreWrite k at_ bs)) := by
  unfold State.coreWrite
  split
  · exact shedWrite_reach h _ _
  · exact setCore_reach h

theorem State.charge_reach {k n} (h : Reach a (store s)) : Reach a (store (s.charge k n)) := by
  unfold State.charge
  refine ite_reach (addSat_reach ?_) h
  split
  · exact chargeTo_reach h
  · exact chargeTo_reach (setCluster_reach h)

theorem State.complete_reach {n d} (h : Reach a (store s)) : Reach a (store (s.complete n d)) :=
  setCluster_reach h

theorem State.startJob_reach {k j} (h : Reach a (store s)) : Reach a (store (s.startJob k j)) :=
  showCore_reach (charge_reach (setCore_reach (ite_reach h (nextFree_reach h))))

theorem State.checkReady_reach {n} (h : Reach a (store s)) : Reach a (store (s.checkReady n)) :=
  ite_reach h (set_reach h)

theorem State.freeCore_reach {k} (h : Reach a (store s)) : Reach a (store (s.freeCore k)) :=
  checkReady_reach (showCore_reach (inc_reach (inc_reach (setCore_reach h))))

theorem State.dropJob_reach {n c} (h : Reach a (store s)) : Reach a (store (s.dropJob n c)) :=
  ite_reach (inc_reach (set_reach h)) h

theorem State.endJob_reach {k} (h : Reach a (store s)) : Reach a (store (s.endJob k)) := by
  unfold State.endJob
  extract_lets
  split
  · exact h
  · exact freeCore_reach (dropJob_reach (ite_reach h (complete_reach h)))

theorem State.parityFault_reach {n code} (h : Reach a (store s)) : Reach a (store (s.parityFault n code)) :=
  ite_reach (inc_reach (set_reach h)) (ite_reach (inc_reach (set_reach h)) (ite_reach (inc_reach (set_reach h)) h))

theorem State.repairWord_reach {k code addr} (h : Reach a (store s)) : Reach a (store (s.repairWord k code addr)) :=
  ite_reach (setCore_reach h) (setCore_reach h)

theorem State.initFault_reach {n arg} (h : Reach a (store s)) : Reach a (store (s.initFault n arg)) :=
  ite_reach (event_reach (set_reach (set_reach (foldl_reach h fun _ _ => setCore_reach)))) h

theorem State.faultJob_reach {k code addr} (h : Reach a (store s)) : Reach a (store (s.faultJob k code addr)) := by
  unfold State.faultJob
  extract_lets +onlyGivenNames x n s1
  have h1 : Reach a (store s1) := parityFault_reach h
  split
  · exact showCore_reach (setCore_reach h1)
  · refine ite_reach (showCore_reach (setCore_reach (inc_reach (repairWord_reach h1)))) ?_
    extract_lets +onlyGivenNames d s2 s3
    have h3 : Reach a (store s3) := inc_reach (set_reach (ite_reach h1 (set_reach (set_reach (set_reach h1)))))
    exact freeCore_reach (dropJob_reach (ite_reach (initFault_reach h3) (complete_reach h3)))

theorem State.issueThen_reach {f : PierEffect} {fin : State → State} {k stall} (h : Reach a (store s))
    (hf : ∀ t, Reach a (store t) → ReachEx a (f t)) (hfin : ∀ t, Reach a (store t) → Reach a (store (fin t))) :
    Reach a (store (s.issueThen k stall f fin)) := by
  unfold State.issueThen
  refine ite_reach h (ite_reach (faultJob_reach h) (ite_reach (faultJob_reach h) ?_))
  split
  · exact faultJob_reach h
  · next t heq =>
    have ht : Reach a (store t) := (hf _ (setCore_reach h)).reach t heq
    extract_lets +onlyGivenNames y issued z w slot c t1 t2
    have h1 : Reach a (store t1) := charge_reach (setCore_reach ht)
    have h2 : Reach a (store t2) := ite_reach (set_reach h1) h1
    exact hfin _ (showCore_reach h2)

theorem State.issue_reach {f : PierEffect} {k stall} (h : Reach a (store s)) (hf : ∀ t, Reach a (store t) → ReachEx a (f t)) :
    Reach a (store (s.issue k stall f)) :=
  issueThen_reach h hf fun _ ht => ht

theorem onCore_reach {k f} (t : State) (h : Reach a (store t)) : ReachEx a (onCore k f t) := ok_reach h

/-- A fold of accesses that ends at the first fault. -/
theorem foldlM_reach {β : Type} {f : State → β → Except (Nat × Nat) State} {l : List β} (h : Reach a (store s))
    (hf : ∀ t x, Reach a (store t) → ReachEx a (f t x)) :
    ReachEx a (l.foldlM f s) := by
  induction l generalizing s with
  | nil => exact ok_reach h
  | cons x l ih =>
    rw [List.foldlM_cons]
    cases hx : f s x with
    | error e => exact error_reach e
    | ok t => exact ih ((hf s x h).reach t hx)

theorem State.accessRead_reach {old : State} {k at_ x} (h : Reach a (store s)) : ReachEx a (old.accessRead s k at_ x) := by
  unfold State.accessRead
  split
  · split
    · exact error_reach _
    · exact ok_reach h
  · exact ite_ex_reach (ok_reach h) (error_reach _)

theorem State.accessWrite_reach {old : State} {k at_ x} (h : Reach a (store s)) : Reach a (store (old.accessWrite s k at_ x)) := by
  unfold State.accessWrite
  split
  · exact h
  · exact coreWrite_reach h

theorem accesses_reach {k as_} (t : State) (h : Reach a (store t)) : ReachEx a (accesses k as_ t) := by
  unfold accesses
  extract_lets addrs pairs
  split
  · exact error_reach _
  · next u hu =>
    have hread : Reach a (store u) := (foldlM_reach h fun _ _ => accessRead_reach).reach u hu
    exact ok_reach (foldl_reach (foldl_reach hread fun _ _ => accessWrite_reach) fun _ _ hv => hv)

theorem State.post_reach {n j} (h : Reach a (store s)) : Reach a (store (s.post n j)) :=
  ite_reach (complete_reach (set_reach h)) (showQueue_reach (setCluster_reach h))

theorem State.takeInterrupt_reach {k src held} (h : Reach a (store s)) : Reach a (store (s.takeInterrupt k src held)) :=
  showCore_reach (set_reach (set_reach (setCore_reach h)))

theorem State.loadProgBank_reach {n b img} (h : Reach a (store s)) : Reach a (store (s.loadProgBank n b img)) :=
  set_reach (set_reach (wrB_reach (wrB_reach (set_reach (foldl_reach (setCluster_reach h) fun _ _ => setCore_reach)))))

theorem State.dueInit_reach {n b arg} (h : Reach a (store s)) : Reach a (store (s.dueInit n b arg)) :=
  foldl_reach h fun _ _ => setCore_reach

theorem State.activateCluster_reach {body n} (h : Reach a (store s)) : Reach a (store (s.activateCluster body n)) := by
  unfold State.activateCluster
  extract_lets +onlyGivenNames img on_ s0 s1
  have h1 : Reach a (store s1) := showQueue_reach (set_reach (set_reach (set_reach (set_reach (setCluster_reach h)))))
  refine ite_reach ?_ (loadProgBank_reach (loadProgBank_reach h1))
  extract_lets +onlyGivenNames s2
  have h2 : Reach a (store s2) := loadProgBank_reach h1
  exact dueInit_reach (ite_reach (loadProgBank_reach h2) (loadProgBank_reach h2))

theorem State.powerCluster_reach {n} (h : Reach a (store s)) : Reach a (store (s.powerCluster n)) := by
  unfold State.powerCluster
  extract_lets _ s1
  have h1 : Reach a (store s1) := loadProgBank_reach (loadProgBank_reach h)
  exact ite_reach h1 (dueInit_reach h1)

theorem State.clearCores_reach {n} (h : Reach a (store s)) : Reach a (store (s.clearCores n)) :=
  setCluster_reach (foldl_reach h fun _ _ => setCore_reach)

theorem State.landPierSwap_reach {n} (h : Reach a (store s)) : Reach a (store (s.landPierSwap n)) := by
  unfold State.landPierSwap
  extract_lets
  split
  · exact h
  · exact event_reach (foldl_reach (dueInit_reach (set_reach (set_reach (set_reach (loadProgBank_reach (setCluster_reach h)))))) fun _ _ ht =>
      showCore_reach (setCore_reach ht))

theorem State.pierBoundary_reach {n} (h : Reach a (store s)) : Reach a (store (s.pierBoundary n)) := by
  unfold State.pierBoundary
  extract_lets now c old s1 s2 s3
  have h3 : Reach a (store s3) := foldl_reach (foldl_reach (showQueue_reach (setCluster_reach h)) fun _ _ ht => dropJob_reach
      (complete_reach ht)) fun _ _ ht => showCore_reach (setCore_reach ht)
  exact ite_reach (set_reach h3) h3

theorem execPierInterrupt_reach {core src} (h : Reach a (store s)) : ReachRes a (execPierInterrupt core src s) := by
  unfold execPierInterrupt
  refine live_reach h fun _ h => ?_
  extract_lets
  split
  · exact goOn_reach h
  · exact ite_res_reach (goOn_reach (takeInterrupt_reach h)) (goOn_reach h)

theorem execHoldOffBreak_reach {core src} (h : Reach a (store s)) : ReachRes a (execHoldOffBreak core src s) := by
  unfold execHoldOffBreak
  refine live_reach h fun _ h => ?_
  extract_lets
  split
  · exact goOn_reach h
  · exact ite_res_reach (goOn_reach (set_reach (inc_reach (takeInterrupt_reach h)))) (goOn_reach h)

theorem execRepeatBody_reach {core n len} (h : Reach a (store s)) : ReachRes a (execRepeatBody core n len s) := by
  refine live_reach h fun _ h => ite_res_reach (refused_reach _) (goOn_reach (issue_reach h fun _ ht => ?_))
  exact ite_ex_reach (error_reach _) (ite_ex_reach (ok_reach ht) (ok_reach ht))

theorem execTapmov_reach {core k y x c step} (h : Reach a (store s)) : ReachRes a (execTapmov core k y x c step s) := by
  refine live_reach h fun _ h => goOn_reach (issue_reach h fun _ ht => ?_)
  refine ite_ex_reach (error_reach _) (ite_ex_reach (error_reach _) ?_)
  split
  · exact error_reach _
  · exact error_reach _
  · exact ok_reach (coreWrite_reach ht)

theorem execMac_reach {core k ga gb} (h : Reach a (store s)) : ReachRes a (execMac core k ga gb s) :=
  live_reach h fun _ h => goOn_reach (issue_reach h onCore_reach)

theorem execMsu_reach {core k ga gb} (h : Reach a (store s)) : ReachRes a (execMsu core k ga gb s) :=
  live_reach h fun _ h => goOn_reach (issue_reach h onCore_reach)

theorem execCmac_reach {core pair ga gb} (h : Reach a (store s)) : ReachRes a (execCmac core pair ga gb s) :=
  live_reach h fun _ h => goOn_reach (issue_reach h onCore_reach)

theorem execExt_reach {core d k sh w32} (h : Reach a (store s)) : ReachRes a (execExt core d k sh w32 s) :=
  live_reach h fun _ h => goOn_reach (issue_reach h onCore_reach)

theorem execClra_reach {core k} (h : Reach a (store s)) : ReachRes a (execClra core k s) :=
  live_reach h fun _ h => goOn_reach (issue_reach h onCore_reach)

theorem execMova_reach {core k value} (h : Reach a (store s)) : ReachRes a (execMova core k value s) :=
  live_reach h fun _ h => goOn_reach (issue_reach h onCore_reach)

theorem execLda_reach {core k addr load} (h : Reach a (store s)) : ReachRes a (execLda core k addr load s) :=
  live_reach h fun _ h => ite_res_reach (refused_reach _) (goOn_reach (issue_reach h accesses_reach))

theorem execCmod_reach {core i step} (h : Reach a (store s)) : ReachRes a (execCmod core i step s) :=
  live_reach h fun _ h => goOn_reach (issue_reach h onCore_reach)

theorem execLd_reach {core dst addr n signed second stall} (h : Reach a (store s)) : ReachRes a (execLd core dst addr n signed second stall s) :=
  live_reach h fun _ h => ite_res_reach (goOn_reach (issue_reach h accesses_reach)) (refused_reach _)

theorem execSt_reach {core src addr n second stall} (h : Reach a (store s)) : ReachRes a (execSt core src addr n second stall s) :=
  live_reach h fun _ h => ite_res_reach (goOn_reach (issue_reach h accesses_reach)) (refused_reach _)

theorem execBranch_reach {core taken target} (h : Reach a (store s)) : ReachRes a (execBranch core taken target s) :=
  live_reach h fun _ h => goOn_reach (issue_reach h fun _ ht => ite_ex_reach (error_reach _) (ok_reach ht))

theorem execPost_reach {core e i} (h : Reach a (store s)) : ReachRes a (execPost core e i s) :=
  live_reach h fun _ h => goOn_reach (issue_reach h fun _ ht => ok_reach (post_reach ht))

theorem execEndJob_reach {core} (h : Reach a (store s)) : ReachRes a (execEndJob core s) :=
  live_reach h fun _ h => ite_res_reach (goOn_reach h) (goOn_reach (issueThen_reach h (fun _ => ok_reach) fun _ => endJob_reach))

theorem execRti_reach {core} (h : Reach a (store s)) : ReachRes a (execRti core s) := by
  unfold execRti
  refine live_reach h fun _ h => ?_
  split
  · exact goOn_reach h
  · exact goOn_reach (issueThen_reach h (fun _ => ok_reach) fun _ ht => showCore_reach (setCore_reach ht))

theorem execJobPostWrite_reach {cluster arg} (h : Reach a (store s)) : ReachRes a (execJobPostWrite cluster arg s) :=
  live_reach h fun _ h => ite_res_reach (goOn_reach (post_reach h)) (goOn_reach (lockAnswer_reach h))

theorem execJobDispatch_reach {core} (h : Reach a (store s)) : ReachRes a (execJobDispatch core s) := by
  unfold execJobDispatch
  refine live_reach h fun _ h => ite_res_reach (goOn_reach h) ?_
  split
  · exact goOn_reach (startJob_reach (setCore_reach h))
  · refine ite_res_reach (goOn_reach h) ?_
    split
    · exact goOn_reach h
    · exact goOn_reach (startJob_reach (showQueue_reach (setCluster_reach h)))

end Sys2Proof.Machine
end

section
/-! SUPPORT. The memories under the manifest, the tugs' chains, power, resets and customs. -/

namespace Sys2Proof.Machine
open State
variable {a : Store} {s : State}

theorem execManifestCheckDone_reach (h : Reach a (store s)) : ReachRes a (execManifestCheckDone s) := by
  unfold execManifestCheckDone
  refine live_reach h fun _ h => ?_
  split
  · exact goOn_reach h
  · extract_lets len _ s1
    have h1 : Reach a (store s1) := update_reach (parityScan_reach h)
    split
    · exact goOn_reach (set_reach (set_reach (set_reach h1)))
    · exact goOn_reach (accept_reach (update_reach (set_reach (set_reach (set_reach h1)))))

theorem State.dropQuayChanges_reach {n} (h : Reach a (store s)) : Reach a (store (s.dropQuayChanges n)) :=
  set_reach (dropWaiting_reach h)

theorem State.loadPlans_reach {n} (h : Reach a (store s)) : Reach a (store (s.loadPlans n)) := by
  unfold State.loadPlans
  split
  · exact foldl_reach h fun _ _ => putWord_reach
  · exact resetRegs_reach h

theorem State.activateQuay_reach {b n} (h : Reach a (store s)) : Reach a (store (s.activateQuay b n)) := by
  unfold State.activateQuay
  extract_lets +onlyGivenNames q busy s1 s2
  have h2 : Reach a (store s2) := loadPlans_reach (endGrid_reach (setQuay_reach (dropQuayChanges_reach h)))
  refine ite_reach ?_ (showNeed_reach (set_reach h2))
  extract_lets +onlyGivenNames s3
  have h3 : Reach a (store s3) := showNeed_reach (set_reach (set_reach h2))
  exact ite_reach (update_reach h3) (landRun_reach h3)

theorem State.activateRx_reach {b n} (h : Reach a (store s)) : Reach a (store (s.activateRx b n)) := by
  unfold State.activateRx
  extract_lets +onlyGivenNames s1 before window s2 route s3 s4
  have h1 : Reach a (store s1) := dropWaiting_reach h
  have h3 : Reach a (store s3) := by
    refine showNeed_reach (set_reach (update_reach ?_))
    unfold s2
    split
    · exact set_reach (set_reach (set_reach (set_reach (set_reach (set_reach (storeRxCfg_reach h1))))))
    · exact resetRegs_reach h1
  have h4 : Reach a (store s4) := ite_reach h3 (openSettle_reach (landRxCfg_reach h3))
  exact ite_reach h4 (restartNoise_reach h4)

theorem State.activateLane_reach {b l} (h : Reach a (store s)) : Reach a (store (s.activateLane b l)) := by
  unfold State.activateLane
  extract_lets _ old s1
  have h1 : Reach a (store s1) := freeLane_reach h
  split
  · extract_lets s2
    have h2 : Reach a (store s2) := set_reach (foldl_reach h1 fun _ _ => putWord_reach)
    exact lanePending_reach (ite_reach h2 (set_reach (putWord_reach h2)))
  · exact lanePending_reach (showDelay_reach (resetRegs_reach h1))

theorem State.activateBeacon_reach {b} (h : Reach a (store s)) : Reach a (store (s.activateBeacon b)) := by
  unfold State.activateBeacon
  extract_lets s1
  have h1 : Reach a (store s1) := foldl_reach h fun _ _ ht => set_reach (set_reach ht)
  exact landBybEn_reach (wrB_reach (ite_reach h1 (set_reach h1)))

theorem State.activateDomain_reach {b d} (h : Reach a (store s)) : Reach a (store (s.activateDomain b d)) :=
  ite_reach (activateQuay_reach h) (ite_reach (foldl_reach h fun _ _ => activateLane_reach) (ite_reach (activateCluster_reach h) (ite_reach
    (activateSounding_reach h) (ite_reach (activateBeacon_reach h) h))))

theorem State.activateBudget_reach (h : Reach a (store s)) : Reach a (store s.activateBudget) :=
  foldl_reach h fun _ _ => set_reach

theorem State.activateInterfaces_reach (h : Reach a (store s)) : Reach a (store s.activateInterfaces) := by
  unfold State.activateInterfaces
  refine foldl_reach h fun _ _ ht => ?_
  split <;> exact set_reach (set_reach ht)

theorem State.activateShed_reach (h : Reach a (store s)) : Reach a (store s.activateShed) := by
  unfold State.activateShed
  extract_lets b grants s1 s2 base s3
  have h1 : Reach a (store s1) := foldl_reach (set_reach (set_reach h)) fun _ _ => set_reach
  have h3 : Reach a (store s3) := set_reach (wrPair_reach (ite_reach (layAreas_reach h1) h1))
  exact ite_reach (journalToRing_reach h3) h3

theorem State.landManifest_reach {b} (h : Reach a (store s)) : Reach a (store (s.landManifest b)) := by
  unfold State.landManifest
  split
  · exact h
  · exact event_reach (foldl_reach (foldl_reach (activateShed_reach (activateInterfaces_reach (activateBudget_reach (set_reach (wrPair_reach
      (set_reach (update_reach h))))))) fun _ _ => activateDomain_reach) fun _ _ => activateRx_reach)

theorem State.setTug_reach {e x} (h : Reach a (store s)) : Reach a (store (s.setTug e x)) :=
  update_reach h

theorem State.signal_reach {v} (h : Reach a (store s)) : Reach a (store (s.signal v)) :=
  update_reach h

theorem execTugEnqueue_reach {e c value} (h : Reach a (store s)) : ReachRes a (execTugEnqueue e c value s) :=
  live_reach h fun _ h => ite_res_reach (goOn_reach (set_reach h)) (goOn_reach (set_reach (setTug_reach h)))

theorem State.tugOverhead_reach {e} (h : Reach a (store s)) : Reach a (store (s.tugOverhead e)) :=
  chargeTo_reach h

theorem State.descDone_reach {e c off irq code cause done} (h : Reach a (store s)) : Reach a (store (s.descDone e c off irq code cause done)) := by
  unfold State.descDone
  extract_lets s1 s2 _ s3
  have h1 : Reach a (store s1) := inc_reach (shedWrite_reach (tugOverhead_reach h) _ _)
  have h2 : Reach a (store s2) := ite_reach (inc_reach h1) (ite_reach h1 (inc_reach h1))
  have h3 : Reach a (store s3) := ite_reach h2 (wrBit_reach (ite_reach (set_reach (set_reach (set_reach (set_reach h2)))) h2))
  exact ite_reach (signal_reach (wrBit_reach h3)) h3

theorem State.chainEnd_reach {e} (h : Reach a (store s)) : Reach a (store (s.chainEnd e)) := by
  unfold State.chainEnd
  extract_lets
  split
  · exact h
  · exact inc_reach (set_reach (set_reach (setTug_reach h)))

theorem State.chainNext_reach {e r d} (h : Reach a (store s)) : Reach a (store (s.chainNext e r d)) :=
  ite_reach (chainEnd_reach h) (set_reach (setTug_reach h))

theorem State.takeChain_reach {e c} (h : Reach a (store s)) : Reach a (store (s.takeChain e c)) :=
  set_reach (setTug_reach h)

theorem execTugChainStart_reach {e} (h : Reach a (store s)) : ReachRes a (execTugChainStart e s) := by
  unfold execTugChainStart
  refine live_reach h fun _ h => ite_res_reach (goOn_reach h) ?_
  split
  · exact goOn_reach h
  · extract_lets s1 r _ s2
    have h2 : Reach a (store s2) := set_reach (set_reach (set_reach (set_reach (setTug_reach (takeChain_reach h)))))
    exact ite_res_reach (goOn_reach h2) (goOn_reach (chainEnd_reach (descDone_reach h2)))

theorem State.dropChain_reach {e c off k} (h : Reach a (store s)) : Reach a (store (s.dropChain e c off k)) := by
  induction k generalizing s off with
  | zero => exact descDone_reach h
  | succ k ih => exact ite_reach (descDone_reach h) (ih (descDone_reach h))

theorem State.cutQueued_reach {e c y} (h : Reach a (store s)) : Reach a (store (s.cutQueued e c y)) :=
  inc_reach (ite_reach (dropChain_reach h) (descDone_reach h))

theorem State.cutQueue_reach {e c} (h : Reach a (store s)) : Reach a (store (s.cutQueue e c)) :=
  foldl_reach h fun _ _ ht => cutQueued_reach (takeChain_reach ht)

theorem State.cutRunning_reach {e done} (h : Reach a (store s)) : Reach a (store (s.cutRunning e done)) := by
  unfold State.cutRunning
  split
  · exact h
  · refine ite_reach ?_ h
    extract_lets d s1
    have h1 : Reach a (store s1) := descDone_reach h
    exact chainEnd_reach (ite_reach h1 (dropChain_reach h1))

theorem State.tugBoundary_reach {e} (h : Reach a (store s)) : Reach a (store (s.tugBoundary e)) :=
  foldl_reach (setTug_reach h) fun _ _ => cutQueue_reach

theorem State.tugCharge_reach {e o n} (h : Reach a (store s)) : Reach a (store (s.tugCharge e o n)) :=
  chargeTo_reach (setTug_reach h)

theorem State.tugWarehouse_reach {o n d} (h : Reach a (store s)) : Reach a (store (s.tugWarehouse o n d)) :=
  chargeTo_reach (ite_reach (chargeTo_reach h) h)

theorem State.keepConfig_reach {d} (h : Reach a (store s)) : Reach a (store (s.keepConfig d)) :=
  ite_reach h (update_reach h)

theorem State.clearQuay_reach {n} (h : Reach a (store s)) : Reach a (store (s.clearQuay n)) :=
  setQuay_reach (setRx_reach h)

theorem State.clearDomain_reach {d} (h : Reach a (store s)) : Reach a (store (s.clearDomain d)) := by
  unfold State.clearDomain
  extract_lets r s1
  have h1 : Reach a (store s1) := resetRegs_reach (ite_reach (clearQuay_reach h) h)
  exact ite_reach h1 (ite_reach (update_reach (foldl_reach h1 fun _ _ => setLane_reach)) (ite_reach (clearCores_reach h1) (ite_reach (set_reach
      (update_reach h1)) (ite_reach (update_reach (foldl_reach h1 fun _ _ => setPort_reach)) (ite_reach (update_reach h1) (ite_reach
        (loseWarehouse_reach h1) h1))))))

theorem State.domainReset_reach {d} (h : Reach a (store s)) : Reach a (store (s.domainReset d)) := by
  unfold State.domainReset
  refine ite_reach ?_ h
  extract_lets s1
  have h1 : Reach a (store s1) := keepConfig_reach h
  exact update_reach (loseTrims_reach (clearDomain_reach (ite_reach (latchQuay_reach h1) (ite_reach (latchBeacon_reach h1) h1))))

theorem State.shutTugs_reach {d} (h : Reach a (store s)) : Reach a (store (s.shutTugs d)) := by
  unfold State.shutTugs
  refine foldl_reach h fun _ _ ht => ?_
  split
  · exact ite_reach (setTug_reach ht) ht
  · exact ht

theorem State.powerOff_reach {d} (h : Reach a (store s)) : Reach a (store (s.powerOff d)) := by
  unfold State.powerOff
  extract_lets s1
  have h1 : Reach a (store s1) := keepConfig_reach (shutTugs_reach h)
  exact update_reach (wrBit_reach (clearDomain_reach (ite_reach (latchQuay_reach h1) (ite_reach (latchBeacon_reach h1) h1))))

theorem State.landPower_reach {d b on} (h : Reach a (store s)) : Reach a (store (s.landPower d b on)) := by
  unfold State.landPower
  extract_lets s1
  have h1 : Reach a (store s1) := set_reach h
  exact ite_reach (ite_reach h1 (update_reach (wrBit_reach h1))) (ite_reach (update_reach h1) h1)

theorem execPowerRequest_reach {domain on} (h : Reach a (store s)) : ReachRes a (execPowerRequest domain on s) :=
  live_reach h fun _ h => ite_res_reach (goOn_reach (set_reach h)) (ite_res_reach (goOn_reach (set_reach h)) (goOn_reach (accept_reach (set_reach
    (set_reach h)))))

theorem execLockClose_reach {domain} (h : Reach a (store s)) : ReachRes a (execLockClose domain s) := by
  unfold execLockClose
  refine live_reach h fun _ h => ?_
  split
  · exact goOn_reach h
  · exact ite_res_reach (ite_res_reach (goOn_reach (powerOff_reach (advance_reach h))) (goOn_reach h)) (goOn_reach (powerOff_reach h))

theorem execDomainReady_reach {domain} (h : Reach a (store s)) : ReachRes a (execDomainReady domain s) := by
  unfold execDomainReady
  refine live_reach h fun _ h => ite_res_reach ?_ (goOn_reach h)
  extract_lets +onlyGivenNames p up s1
  have h1 : Reach a (store s1) := update_reach h
  refine ite_res_reach ?_ (ite_res_reach (goOn_reach (releaseBeacon_reach h1)) (goOn_reach h1))
  extract_lets _ s2
  have h2 : Reach a (store s2) := update_reach h1
  exact goOn_reach (ite_reach (set_reach h2) h2)

theorem State.resumeQuay_reach {n b} (h : Reach a (store s)) : Reach a (store (s.resumeQuay n b)) := by
  unfold State.resumeQuay
  extract_lets s1 s2
  have h1 : Reach a (store s1) := showNeed_reach (setQuay_reach h)
  have h2 : Reach a (store s2) := ite_reach (landLgtEn_reach h1) h1
  exact foldl_reach (foldl_reach (ite_reach (landRun_reach h2) h2) fun _ _ ht => ite_reach (resyncDas_reach ht) ht) fun _ _ ht => ite_reach
      (resyncFlow_reach ht) ht

theorem State.resumeBank_reach {n b} (h : Reach a (store s)) : Reach a (store (s.resumeBank n b)) :=
  foldl_reach (foldl_reach h fun _ _ ht => setLane_reach (restartLane_reach ht)) fun _ _ ht => ite_reach (update_reach ht) ht

theorem State.resumeBeacon_reach {b} (h : Reach a (store s)) : Reach a (store (s.resumeBeacon b)) :=
  foldl_reach (ite_reach (landBybEn_reach h) h) fun _ _ ht => update_reach (setPort_reach (landRange_reach ht))

theorem State.resumeSounding_reach (h : Reach a (store s)) : Reach a (store s.resumeSounding) := by
  unfold State.resumeSounding
  extract_lets s1 s2
  have h2 : Reach a (store s2) := foldl_reach (foldl_reach h fun _ _ => chanStatus_reach) fun _ _ ht => chanStatus_reach (setChan_reach ht)
  exact ite_reach (sndGo_reach h2) h2

theorem State.restoreDomain_reach {b d} (h : Reach a (store s)) : Reach a (store (s.restoreDomain b d)) := by
  unfold State.restoreDomain
  refine ite_reach (update_reach (activateDomain_reach h)) ?_
  extract_lets _ s1
  have h1 : Reach a (store s1) := update_reach h
  exact ite_reach (resumeQuay_reach h1) (ite_reach (resumeBank_reach h1) (ite_reach (powerCluster_reach h1) (ite_reach (resumeSounding_reach h1)
      (ite_reach (resumeBeacon_reach h1) h1))))

theorem State.restoreAll_reach {b} (h : Reach a (store s)) : Reach a (store (s.restoreAll b)) :=
  foldl_reach (update_reach h) fun _ _ => restoreDomain_reach

/-- A reset keeps the Hold, the Charter and, at level L1, what the Warehouse holds (R433). -/
theorem State.resetNow_reach {level src} (h : Reach a (store s)) : Reach a (store (s.resetNow level src)) := by
  by_cases hlevel : level = 1
  · have hstore : store (s.resetNow level src) = { store s with shed := [], shedBad := [], wh := { s.wh with queue := [] } } := by
      simp only [store, State.resetNow, if_pos hlevel]
    exact hstore ▸ h.shedLose.whQueue
  · have hstore : store (s.resetNow level src) = { store s with shed := [], shedBad := [], wh := {} } := by
      simp only [store, State.resetNow, if_neg hlevel]
    exact hstore ▸ h.shedLose.whLose

theorem State.beginReset_reach {level src} (h : Reach a (store s)) : Reach a (store (s.beginReset level src)) := by
  unfold State.beginReset
  split
  · exact ite_reach (resetNow_reach h) h
  · exact resetNow_reach h

theorem State.noteReset_reach {level src} (h : Reach a (store s)) : Reach a (store (s.noteReset level src)) :=
  wrPair_reach (set_reach (set_reach (set_reach (set_reach h))))

theorem State.assertReset_reach {src domains berth} (h : Reach a (store s)) : Reach a (store (s.assertReset src domains berth)) := by
  unfold State.assertReset
  extract_lets +onlyGivenNames s1
  have h1 : Reach a (store s1) := inc_reach h
  refine ite_reach (beginReset_reach h1) (ite_reach h1 (ite_reach (noteReset_reach (foldl_reach h1 fun _ _ => domainReset_reach)) ?_))
  extract_lets +onlyGivenNames s2
  have h2 : Reach a (store s2) := noteReset_reach h1
  exact ite_reach (accept_reach h2) h2

theorem State.powerOn_reach {mv} (h : Reach a (store s)) : Reach a (store (s.powerOn mv)) :=
  update_reach (assertReset_reach h)

theorem State.rampUp_reach (h : Reach a (store s)) : Reach a (store s.rampUp) :=
  update_reach (resetNow_reach h)

theorem execResetAssert_reach {cause} (h : Reach a (store s)) : ReachRes a (execResetAssert cause s) := by
  unfold execResetAssert
  refine ite_res_reach (goOn_reach h) (ite_res_reach (goOn_reach ?_) (ite_res_reach (goOn_reach (assertReset_reach h)) (ite_res_reach (goOn_reach
      (assertReset_reach h)) (ite_res_reach (goOn_reach (assertReset_reach h)) (goOn_reach (assertReset_reach h))))))
  split
  · exact powerOn_reach h
  · exact rampUp_reach h

theorem State.readFuses_reach (h : Reach a (store s)) : Reach a (store s.readFuses) := by
  unfold State.readFuses
  split
  · exact update_reach (set_reach (set_reach (set_reach (foldl_reach h fun _ _ => set_reach))))
  · exact set_reach (set_reach (set_reach (foldl_reach h fun _ _ => set_reach)))

theorem State.showLife_reach (h : Reach a (store s)) : Reach a (store s.showLife) :=
  wrB_reach (wrB_reach (set_reach h))

theorem State.matchSeal_reach (h : Reach a (store s)) : Reach a (store s.matchSeal) :=
  update_reach (set_reach (set_reach h))

theorem State.newNonce_reach (h : Reach a (store s)) : Reach a (store s.newNonce) :=
  nextFree_reach (nextFree_reach (wrPair_reach h))

theorem execResetRelease_reach (h : Reach a (store s)) : ReachRes a (execResetRelease s) := by
  unfold execResetRelease
  split
  · exact goOn_reach h
  · exact ite_res_reach (goOn_reach h) (goOn_reach (update_reach (wrB_reach (wrB_reach (newNonce_reach (showLife_reach (matchSeal_reach (foldl_reach
      (noteReset_reach (readFuses_reach (clocksUp_reach h))) fun _ _ => checkTable_reach))))))))

theorem execWarmResetWrite_reach (h : Reach a (store s)) : ReachRes a (execWarmResetWrite s) :=
  live_reach h fun _ h => goOn_reach (assertReset_reach h)

theorem execColdResetWrite_reach (h : Reach a (store s)) : ReachRes a (execColdResetWrite s) :=
  live_reach h fun _ h => goOn_reach (assertReset_reach h)

theorem execDomainResetWrite_reach {domain} (h : Reach a (store s)) : ReachRes a (execDomainResetWrite domain s) :=
  live_reach h fun _ h => ite_res_reach (goOn_reach h) (goOn_reach (assertReset_reach (set_reach h)))

theorem execBerthResetWrite_reach {index} (h : Reach a (store s)) : ReachRes a (execBerthResetWrite index s) :=
  live_reach h fun _ h => goOn_reach (assertReset_reach (set_reach h))

theorem execLockTimeout_reach {domain} (h : Reach a (store s)) : ReachRes a (execLockTimeout domain s) :=
  live_reach h fun _ h => ite_res_reach (goOn_reach (assertReset_reach (wrBit_reach h))) (goOn_reach h)

theorem execThermalTrip_reach (h : Reach a (store s)) : ReachRes a (execThermalTrip s) :=
  goOn_reach (assertReset_reach h)

theorem execBrownOut_reach (h : Reach a (store s)) : ReachRes a (execBrownOut s) :=
  goOn_reach (assertReset_reach h)

theorem execSupplyFault_reach (h : Reach a (store s)) : ReachRes a (execSupplyFault s) :=
  goOn_reach (powerOn_reach (nextFree_reach h))

theorem State.landBerthReset_reach {i b} (h : Reach a (store s)) : Reach a (store (s.landBerthReset i b)) :=
  ite_reach h (ite_reach (resyncDas_reach (setDas_reach h)) (ite_reach (resyncFlow_reach (setFlow_reach (setDas_reach h))) (ite_reach (update_reach h)
    (ite_reach (update_reach h) h))))

theorem State.startWatchdog_reach {us} (h : Reach a (store s)) : Reach a (store (s.startWatchdog us)) :=
  ite_reach (update_reach h) (update_reach h)

theorem State.stopWatchdog_reach (h : Reach a (store s)) : Reach a (store s.stopWatchdog) :=
  update_reach h

theorem execWatchdogCfgWrite_reach {value} (h : Reach a (store s)) : ReachRes a (execWatchdogCfgWrite value s) := by
  unfold execWatchdogCfgWrite
  refine live_reach h fun _ h => ?_
  extract_lets v per s1 s2
  have h1 : Reach a (store s1) := set_reach h
  have h2 : Reach a (store s2) := ite_reach (set_reach h1) h1
  exact goOn_reach (ite_reach (startWatchdog_reach h2) (stopWatchdog_reach h2))

theorem execWatchdogKick_reach {key} (h : Reach a (store s)) : ReachRes a (execWatchdogKick key s) :=
  live_reach h fun _ h => ite_res_reach (goOn_reach (startWatchdog_reach h)) (goOn_reach h)

theorem execWatchdogExpire_reach (h : Reach a (store s)) : ReachRes a (execWatchdogExpire s) := by
  unfold execWatchdogExpire
  refine live_reach h fun _ h => ?_
  split
  · exact ite_res_reach (goOn_reach (assertReset_reach (update_reach (advance_reach h)))) (goOn_reach h)
  · exact goOn_reach h

theorem execPinHoldRelease_reach (h : Reach a (store s)) : ReachRes a (execPinHoldRelease s) :=
  live_reach h fun _ h => goOn_reach (set_reach (update_reach h))

theorem execRtcLoWrite_reach {value} (h : Reach a (store s)) : ReachRes a (execRtcLoWrite value s) :=
  live_reach h fun _ h => goOn_reach (update_reach h)

theorem execRtcHiWrite_reach {value} (h : Reach a (store s)) : ReachRes a (execRtcHiWrite value s) :=
  live_reach h fun _ h => goOn_reach (ballastPush_reach h)

theorem State.wrFree_reach {f} (h : Reach a (store s)) : Reach a (store (s.wrFree f)) :=
  nextFree_reach (set_reach h)

theorem execVbatLoss_reach (h : Reach a (store s)) : ReachRes a (execVbatLoss s) :=
  ite_res_reach (goOn_reach (update_reach (nextFree_reach (setRtc_reach (foldl_reach h fun _ _ => wrFree_reach))))) (goOn_reach h)

theorem execVbatReturn_reach (h : Reach a (store s)) : ReachRes a (execVbatReturn s) :=
  ite_res_reach (goOn_reach h) (goOn_reach (update_reach (set_reach (set_reach (set_reach (setRtc_reach (foldl_reach h fun _ _ => set_reach)))))))

theorem State.transition_reach {word} (h : Reach a (store s)) : Reach a (store (s.transition word)) :=
  assertReset_reach (update_reach h)

theorem State.newLedgerKey_reach (h : Reach a (store s)) : Reach a (store s.newLedgerKey) :=
  update_reach (nextFree_reach (nextFree_reach h))

theorem State.acceptSeal_reach {made} (h : Reach a (store s)) : Reach a (store (s.acceptSeal made)) :=
  accept_reach (set_reach h)

theorem State.takeToken_reach {tok} (h : Reach a (store s)) : Reach a (store (s.takeToken tok)) := by
  unfold State.takeToken
  refine ite_reach ?_ (ite_reach (ite_reach (transition_reach (newLedgerKey_reach h)) (set_reach h)) (ite_reach (set_reach h) (ite_reach
      (set_reach h) h)))
  extract_lets _ s1
  have h1 : Reach a (store s1) := update_reach h
  exact ite_reach (ite_reach h1 (acceptSeal_reach h1)) (showLife_reach h1)

theorem execTokenApply_reach (h : Reach a (store s)) : ReachRes a (execTokenApply s) := by
  unfold execTokenApply
  refine live_reach h fun _ h => ite_res_reach (goOn_reach (transition_reach (wipe_reach h))) ?_
  extract_lets e s1
  have h1 : Reach a (store s1) := set_reach h
  exact ite_res_reach (goOn_reach (takeToken_reach (newNonce_reach h1))) (goOn_reach h1)

theorem execFitWrite_reach (h : Reach a (store s)) : ReachRes a (execFitWrite s) :=
  live_reach h fun _ h => ite_res_reach (goOn_reach (transition_reach h)) (goOn_reach h)

theorem execSealWrite_reach (h : Reach a (store s)) : ReachRes a (execSealWrite s) :=
  live_reach h fun _ h => ite_res_reach (goOn_reach (acceptSeal_reach (set_reach h))) (goOn_reach (set_reach h))

theorem State.countSeal_reach {isSealed} (h : Reach a (store s)) : Reach a (store (s.countSeal isSealed)) :=
  update_reach (set_reach (set_reach h))

theorem State.landSeal_reach {made} (h : Reach a (store s)) : Reach a (store (s.landSeal made)) := by
  unfold State.landSeal
  extract_lets s0
  have h0 : Reach a (store s0) := set_reach h
  exact ite_reach (event_reach (showLife_reach (update_reach (countSeal_reach h0)))) (ite_reach (event_reach (showLife_reach (update_reach
      (countSeal_reach h0)))) h0)

theorem execCharterProgram_reach (h : Reach a (store s)) : ReachRes a (execCharterProgram s) :=
  live_reach h fun _ h => ite_res_reach (goOn_reach (set_reach (update_reach h))) (goOn_reach h)

theorem execCharterProgramDone_reach {at_ b} (h : Reach a (store s)) : ReachRes a (execCharterProgramDone at_ b s) := by
  unfold execCharterProgramDone
  refine live_reach h fun _ h => ?_
  split
  · exact goOn_reach h
  · extract_lets s1 good _ s2
    have h2 : Reach a (store s2) := set_reach (update_reach (blowWord_reach (blowWord_reach h _ _ _) _ _ _))
    exact goOn_reach (ite_reach h2 (set_reach h2))

theorem State.setMailboxVer_reach {v} (h : Reach a (store s)) : Reach a (store (s.setMailboxVer v)) :=
  set_reach (set_reach (wrB_reach h))

theorem State.holdWatchdog_reach (h : Reach a (store s)) : Reach a (store s.holdWatchdog) :=
  update_reach h

theorem State.releaseWatchdog_reach (h : Reach a (store s)) : Reach a (store s.releaseWatchdog) :=
  update_reach h

theorem State.landFwSwap_reach {b} (h : Reach a (store s)) : Reach a (store (s.landFwSwap b)) := by
  unfold State.landFwSwap
  split
  · exact h
  · refine ite_reach (update_reach (landHandover_reach (wrB_reach h))) ?_
    extract_lets v r s1
    have h1 : Reach a (store s1) := set_reach (wrB_reach h)
    exact update_reach (holdWatchdog_reach (ite_reach h1 (setMailboxVer_reach h1)))

theorem State.revertFw_reach {x} (h : Reach a (store s)) : Reach a (store (s.revertFw x)) :=
  update_reach h

theorem execFwSwapReady_reach {ok} (h : Reach a (store s)) : ReachRes a (execFwSwapReady ok s) := by
  unfold execFwSwapReady
  refine live_reach h fun _ h => ?_
  split
  · exact goOn_reach h
  · split
    · exact goOn_reach h
    · exact ite_res_reach (goOn_reach h) (ite_res_reach (goOn_reach (event_reach (update_reach (releaseWatchdog_reach (set_reach (set_reach h))))))
        (goOn_reach (revertFw_reach h)))

theorem execFwSwapTimeout_reach (h : Reach a (store s)) : ReachRes a (execFwSwapTimeout s) := by
  unfold execFwSwapTimeout
  refine live_reach h fun _ h => ?_
  split
  · exact goOn_reach h
  · split
    · exact goOn_reach h
    · exact ite_res_reach (goOn_reach (revertFw_reach (advance_reach h))) (goOn_reach h)

theorem State.landFwRevert_reach (h : Reach a (store s)) : Reach a (store s.landFwRevert) := by
  unfold State.landFwRevert
  split
  · exact h
  · exact event_reach (update_reach (releaseWatchdog_reach (setMailboxVer_reach (set_reach (set_reach (wrB_reach h))))))

end Sys2Proof.Machine
end

section
/-! SUPPORT. The memories under packing, the watches, the streams and the mailbox. -/

namespace Sys2Proof.Machine
open State
variable {a : Store} {s : State}

theorem State.setPack_reach {e x} (h : Reach a (store s)) : Reach a (store (s.setPack e x)) :=
  set_reach (update_reach h)

theorem execPackingEnqueue_reach {e value} (h : Reach a (store s)) : ReachRes a (execPackingEnqueue e value s) :=
  live_reach h fun _ h => ite_res_reach (goOn_reach (set_reach h)) (goOn_reach (setPack_reach h))

theorem execPackingJobStart_reach {e} (h : Reach a (store s)) : ReachRes a (execPackingJobStart e s) := by
  unfold execPackingJobStart
  refine live_reach h fun _ h => ite_res_reach (goOn_reach h) ?_
  split
  · exact goOn_reach h
  · exact goOn_reach (set_reach (set_reach (setPack_reach h)))

theorem State.packRead_reach {req sp at_ n luck} (h : Reach a (store s)) : Reach a (store (s.packRead req sp at_ n luck).1) := by
  unfold State.packRead
  refine ite_fst_reach (ite_fst_reach h (ite_fst_reach h ?_)) ?_
  · extract_lets len s0 r s1
    have hr : Reach a (store r.1) := by
      refine foldl_fst_reach (spoil_reach h _) fun _ _ ht => ?_
      split
      · exact ht
      · exact whReadPart_reach ht
    have h1 : Reach a (store s1) := ite_reach (nextFree_reach hr) hr
    split
    · exact h1
    · exact ite_reach (set_reach h1) h1
  · extract_lets
    split
    · exact parityCheck_reach h
    · exact h

theorem State.packWrite_reach {req sp at_ bs} (h : Reach a (store s)) : Reach a (store (s.packWrite req sp at_ bs).1) :=
  ite_fst_reach h (ite_fst_reach (ite_fst_reach h (whWrite_reach h)) (ite_fst_reach h (shedWrite_reach h _ _)))

theorem State.packWrites_reach {o j p} (h : Reach a (store s)) : Reach a (store (s.packWrites o j p).1) :=
  foldl_fst_reach h fun _ _ => packWrite_reach

theorem State.packCharge_reach {o j n} (h : Reach a (store s)) : Reach a (store (s.packCharge o j n)) :=
  ite_reach (chargeReserve_reach (chargeTo_reach h)) h

theorem State.packDo_reach {o limit luck} (h : Reach a (store s)) : Reach a (store (s.packDo o limit luck).1) := by
  unfold State.packDo
  refine ite_fst_reach (parityScan_reach h) (ite_fst_reach h ?_)
  extract_lets own r
  have hr : Reach a (store r.1) := packRead_reach h
  exact ite_fst_reach (packWrites_reach (packCharge_reach hr)) (packWrites_reach (packCharge_reach hr))

theorem State.packBack_reach {e o p} (h : Reach a (store s)) : Reach a (store (s.packBack e o p)) := by
  unfold State.packBack
  extract_lets j was s1 s2 s3 _ s4
  have h2 : Reach a (store s2) := addSat_reach (addSat_reach (inc_reach (nextFree_reach (shedWrite_reach (shedWrite_reach h _ _) _ _))))
  have h3 : Reach a (store s3) := ite_reach (inc_reach (set_reach h2)) (ite_reach (inc_reach (set_reach h2)) (ite_reach (set_reach h2) (ite_reach
      (set_reach h2) h2)))
  have h4 : Reach a (store s4) := ite_reach h3 (set_reach (ite_reach h3 (set_reach (set_reach (set_reach (set_reach h3))))))
  exact ite_reach (signal_reach (set_reach h4)) h4

theorem State.packFree_reach {e} (h : Reach a (store s)) : Reach a (store (s.packFree e)) :=
  set_reach (setPack_reach h)

theorem execPackingJobComplete_reach {e cycles luck} (h : Reach a (store s)) : ReachRes a (execPackingJobComplete e cycles luck s) := by
  unfold execPackingJobComplete
  refine live_reach h fun _ h => ?_
  split
  · exact goOn_reach h
  · exact goOn_reach (packFree_reach (chargeTo_reach (update_reach (packBack_reach (packDo_reach h)))))

theorem State.dropPack_reach {e r limit} (h : Reach a (store s)) : Reach a (store (s.dropPack e r limit)) :=
  packBack_reach (packDo_reach h)

theorem State.packBoundary_reach {limit : Nat → Nat} {e} (h : Reach a (store s)) : Reach a (store (s.packBoundary limit e)) := by
  unfold State.packBoundary
  refine foldl_reach (setPack_reach ?_) fun _ _ => packBack_reach
  split
  · exact ite_reach (packFree_reach (dropPack_reach h)) h
  · exact h

theorem State.setWatch_reach {w x} (h : Reach a (store s)) : Reach a (store (s.setWatch w x)) :=
  update_reach h

theorem State.beginFill_reach {w t mark} (h : Reach a (store s)) : Reach a (store (s.beginFill w t mark)) := by
  unfold State.beginFill
  extract_lets x s1 s2
  have h2 : Reach a (store s2) := set_reach (set_reach (setWatch_reach h))
  exact ite_reach (whStore_reach h2) h2

theorem State.captureHeader_reach {w c} (h : Reach a (store s)) : Reach a (store (s.captureHeader w c)) := by
  unfold State.captureHeader
  extract_lets x q _ rest s1 s2
  have h2 : Reach a (store s2) := set_reach (wrBit_reach (wrPair_reach (whStore_reach (whStore_reach (whStore_reach h)))))
  exact setWatch_reach (ite_reach (set_reach (inc_reach h2)) h2)

theorem State.finishCapture_reach {w} (h : Reach a (store s)) : Reach a (store (s.finishCapture w)) := by
  unfold State.finishCapture
  extract_lets x
  split
  · exact h
  · refine ite_reach ?_ h
    extract_lets s1
    have h1 : Reach a (store s1) := captureHeader_reach h
    exact ite_reach (set_reach h1) (beginFill_reach h1)

theorem execCaptureHeaderWrite_reach {w} (h : Reach a (store s)) : ReachRes a (execCaptureHeaderWrite w s) :=
  live_reach h fun _ h => goOn_reach (finishCapture_reach h)

theorem State.preSample_reach {w p} (h : Reach a (store s)) : Reach a (store (s.preSample w p)) := by
  unfold State.preSample
  refine ite_reach h ?_
  extract_lets s1 full y s2
  have h2 : Reach a (store s2) := set_reach (setWatch_reach (whStore_reach h))
  exact ite_reach (set_reach h2) h2

theorem State.postSample_reach {w p c} (h : Reach a (store s)) : Reach a (store (s.postSample w p c)) :=
  set_reach (setWatch_reach (whStore_reach h))

theorem State.trigger_reach {w p at_ posf flags} (h : Reach a (store s)) : Reach a (store (s.trigger w p at_ posf flags)) :=
  postSample_reach (setWatch_reach (set_reach (set_reach (wrPair_reach h))))

theorem State.takeSample_reach {s0 : State} {w p} (h : Reach a (store s0)) : Reach a (store (s0.takeSample w p)) := by
  unfold State.takeSample
  extract_lets +onlyGivenNames s x0 s1 x st cr y s2
  have h' : Reach a (store s) := finishCapture_reach h
  have h2 : Reach a (store s2) := set_reach (wrB_reach (wrB_reach (setWatch_reach (ite_reach (whStore_reach (setWatch_reach h')) h'))))
  refine ite_reach (ite_reach (trigger_reach h2) (ite_reach (trigger_reach h2) (preSample_reach h2))) ?_
  extract_lets +onlyGivenNames s3
  have h3 : Reach a (store s3) := ite_reach (set_reach (inc_reach h2)) h2
  refine ite_reach (preSample_reach h3) (ite_reach ?_ h3)
  split
  · exact postSample_reach h3
  · exact h3

theorem execWatchSampleTake_reach {w} (h : Reach a (store s)) : ReachRes a (execWatchSampleTake w s) := by
  unfold execWatchSampleTake
  refine live_reach h fun _ h => ?_
  extract_lets x
  split
  · exact goOn_reach h
  · exact goOn_reach (takeSample_reach (setWatch_reach h))

theorem execWatchForce_reach {w} (h : Reach a (store s)) : ReachRes a (execWatchForce w s) :=
  live_reach h fun _ h => ite_res_reach (goOn_reach h) (goOn_reach (setWatch_reach h))

theorem State.watchWait_reach {w c} (h : Reach a (store s)) : Reach a (store (s.watchWait w c)) :=
  set_reach (accept_reach h)

theorem execWatchRearm_reach {w} (h : Reach a (store s)) : ReachRes a (execWatchRearm w s) :=
  live_reach h fun _ h => ite_res_reach (goOn_reach (watchWait_reach h)) (goOn_reach h)

theorem execWatchLimitWrite_reach {w hyst value} (h : Reach a (store s)) : ReachRes a (execWatchLimitWrite w hyst value s) :=
  live_reach h fun _ h => ite_res_reach (goOn_reach h) (goOn_reach (watchWait_reach (set_reach h)))

theorem State.watchPending_reach {w} (h : Reach a (store s)) : Reach a (store (s.watchPending w)) :=
  wrB_reach h

theorem State.landWatchLimit_reach {w hyst v} (h : Reach a (store s)) : Reach a (store (s.landWatchLimit w hyst v)) :=
  ite_reach h (watchPending_reach (setWatch_reach h))

theorem State.landWatchRearm_reach {w b} (h : Reach a (store s)) : Reach a (store (s.landWatchRearm w b)) :=
  ite_reach (watchPending_reach (beginFill_reach h)) (watchPending_reach h)

theorem State.landWatch_reach {i b} (h : Reach a (store s)) : Reach a (store (s.landWatch i b)) :=
  beginFill_reach (set_reach (setWatch_reach (set_reach (set_reach (wrPair_reach (set_reach (set_reach (set_reach (set_reach (set_reach (set_reach
    (set_reach (set_reach (resetRegs_reach h))))))))))))))

theorem State.padCapture_reach {w c n} (h : Reach a (store s)) : Reach a (store (s.padCapture w c n)) := by
  induction n with
  | zero => exact h
  | succ n ih => exact whStore_reach ih

theorem State.closeWatch_reach {i} (h : Reach a (store s)) : Reach a (store (s.closeWatch i)) := by
  unfold State.closeWatch
  refine closeSlot_reach (dropWaiting_reach (set_reach (setWatch_reach (wrPair_reach (wrPair_reach (resetRegs_reach ?_))))))
  split
  · exact h
  · exact ite_reach (captureHeader_reach h) (captureHeader_reach (setWatch_reach (padCapture_reach h)))

theorem State.setStream_reach {b x} (h : Reach a (store s)) : Reach a (store (s.setStream b x)) :=
  update_reach h

theorem State.landStream_reach {i} (h : Reach a (store s)) : Reach a (store (s.landStream i)) :=
  setStream_reach h

theorem State.closeStream_reach {i} (h : Reach a (store s)) : Reach a (store (s.closeStream i)) :=
  setStream_reach h

theorem execCaptureUnitRead_reach {b luck} (h : Reach a (store s)) : ReachRes a (execCaptureUnitRead b luck s) := by
  unfold execCaptureUnitRead
  refine live_reach h fun _ h => ite_res_reach (goOn_reach h) ?_
  extract_lets d
  have hd : Reach a (store d.1) := whRead_reach h
  exact ite_res_reach (goOn_reach (inc_reach (setStream_reach hd))) (goOn_reach (setStream_reach hd))

theorem State.exportCrate_reach {handle seq slot k} (h : Reach a (store s)) : Reach a (store (s.exportCrate handle seq slot k)) :=
  ite_reach (inc_reach (chargeTo_reach (foldl_reach h fun _ _ => netSend_reach))) h

theorem execCrateClose_reach {b} (h : Reach a (store s)) : ReachRes a (execCrateClose b s) :=
  live_reach h fun _ h => ite_res_reach (goOn_reach h) (goOn_reach (setStream_reach (foldl_reach (whStore_reach (whStore_reach (whStore_reach
    (chargeTo_reach h)))) fun _ _ => exportCrate_reach)))

theorem State.streamBoundary_reach (h : Reach a (store s)) : Reach a (store s.streamBoundary) :=
  foldl_reach h fun _ _ ht => ite_reach (setStream_reach ht) ht

theorem State.dropExport_reach {k} (h : Reach a (store s)) : Reach a (store (s.dropExport k)) :=
  dropWaiting_reach (set_reach (update_reach (ite_reach (setBerth_reach h) h)))

theorem State.landExport_reach {s0 : State} {k} (h : Reach a (store s0)) : Reach a (store (s0.landExport k)) := by
  unfold State.landExport
  extract_lets s
  have h' : Reach a (store s) := update_reach h
  exact ite_reach (set_reach (update_reach (setBerth_reach h'))) (set_reach (set_reach h'))

theorem State.exportCfg_reach {k v hw} (h : Reach a (store s)) : Reach a (store (s.exportCfg k v hw)) := by
  unfold State.exportCfg
  extract_lets s0
  have h0 : Reach a (store s0) := set_reach (set_reach (set_reach h))
  exact ite_reach (dropExport_reach h0) (ite_reach h0 (accept_reach (update_reach h0)))

theorem execExportEnableWrite_reach {k port dport} (h : Reach a (store s)) : ReachRes a (execExportEnableWrite k port dport s) :=
  live_reach h fun _ h => whenOn_reach h fun _ ht => goOn_reach (exportCfg_reach ht)

theorem State.mailReply_reach {tag cmd r} (h : Reach a (store s)) : Reach a (store (s.mailReply tag cmd r)) :=
  signal_reach (set_reach (set_reach (set_reach (shedWrite_reach h _ _))))

theorem State.mailTake_reach {run : State → List Nat → State × MailAnswer} {code need} (h : Reach a (store s))
    (hrun : ∀ t, Reach a (store t) → ∀ w, Reach a (store (run t w).1)) :
    Reach a (store (s.mailTake code need run)) :=
  ite_reach h (ite_reach (mailReply_reach h) (ite_reach (mailReply_reach h) (mailReply_reach (hrun _ h _))))

theorem same_reach {f : State → List Nat → MailAnswer} {w} (h : Reach a (store s)) : Reach a (store (same f s w).1) :=
  h

theorem State.hello_reach {w} (h : Reach a (store s)) : Reach a (store (s.hello w).1) :=
  setMailboxVer_reach h

theorem execHello_reach (h : Reach a (store s)) : ReachRes a (execHello s) :=
  live_reach h fun _ h => goOn_reach (mailTake_reach h fun _ ht _ => hello_reach ht)

theorem State.grantBerth_reach {kind i g} (h : Reach a (store s)) : Reach a (store (s.grantBerth kind i g).1) :=
  accept_reach (update_reach (placeRings_reach (ite_reach (beforeDas_reach h) (ite_reach (beforeFlow_reach h) h))))

theorem State.openBerth_reach {at_} (h : Reach a (store s)) : Reach a (store (s.openBerth at_).1) := by
  unfold State.openBerth
  refine ite_fst_reach h (ite_fst_reach h (ite_fst_reach h (ite_fst_reach h ?_)))
  split
  · exact h
  · extract_lets +onlyGivenNames s1
    have h1 : Reach a (store s1) := update_reach h
    split
    · exact h
    · exact grantBerth_reach h1

theorem execBerthOpen_reach (h : Reach a (store s)) : ReachRes a (execBerthOpen s) :=
  live_reach h fun _ h => goOn_reach (mailTake_reach h fun _ ht _ => openBerth_reach ht)

theorem State.closeBerth_reach {at_} (h : Reach a (store s)) : Reach a (store (s.closeBerth at_).1) := by
  unfold State.closeBerth
  extract_lets +onlyGivenNames e i
  split
  iterate 4 · exact h
  · exact ite_fst_reach h (accept_reach (setBerth_reach h))

theorem execBerthClose_reach (h : Reach a (store s)) : ReachRes a (execBerthClose s) :=
  live_reach h fun _ h => goOn_reach (mailTake_reach h fun _ ht _ => closeBerth_reach ht)

theorem execBerthQuery_reach (h : Reach a (store s)) : ReachRes a (execBerthQuery s) :=
  live_reach h fun _ h => goOn_reach (mailTake_reach h fun _ ht _ => same_reach ht)

theorem execTideQuery_reach (h : Reach a (store s)) : ReachRes a (execTideQuery s) :=
  live_reach h fun _ h => goOn_reach (mailTake_reach h fun _ ht _ => same_reach ht)

theorem State.swapCal_reach {at_} (h : Reach a (store s)) : Reach a (store (s.swapCal at_).1) := by
  unfold State.swapCal
  split
  · exact h
  · exact takeCal_reach h

theorem execCalSwap_reach (h : Reach a (store s)) : ReachRes a (execCalSwap s) := by
  unfold execCalSwap
  refine live_reach h fun _ h => goOn_reach (mailTake_reach h fun _ ht _ => ?_)
  extract_lets r
  have hr : Reach a (store r.1) := swapCal_reach ht
  exact ite_reach (parityScan_reach hr) hr

theorem State.swapFw_reach {at_} (h : Reach a (store s)) : Reach a (store (s.swapFw at_).1) :=
  ite_fst_reach h (ite_fst_reach h (ite_fst_reach (ite_reach (parityScan_reach h) h) (ite_fst_reach h (accept_reach (update_reach h)))))

theorem execFwSwap_reach (h : Reach a (store s)) : ReachRes a (execFwSwap s) :=
  live_reach h fun _ h => goOn_reach (mailTake_reach h fun _ ht _ => swapFw_reach ht)

theorem State.swapPier_reach {at_} (h : Reach a (store s)) : Reach a (store (s.swapPier at_).1) :=
  ite_fst_reach h (ite_fst_reach (parityScan_reach h) (ite_fst_reach h (ite_fst_reach h (ite_fst_reach h (accept_reach (chargeTo_reach (set_reach
    (setCluster_reach h))))))))

theorem execPierSwap_reach (h : Reach a (store s)) : ReachRes a (execPierSwap s) :=
  live_reach h fun _ h => goOn_reach (mailTake_reach h fun _ ht _ => swapPier_reach ht)

theorem State.readLedger_reach {at_} (h : Reach a (store s)) : Reach a (store (s.readLedger at_).1) :=
  ite_fst_reach (ite_fst_reach h h) (ite_fst_reach (ite_fst_reach h (foldl_reach h fun _ _ ht => shedWrite_reach ht _ _)) (ite_fst_reach
    (ite_fst_reach (update_reach h) h) (ite_fst_reach h h)))

theorem execLedgerRead_reach (h : Reach a (store s)) : ReachRes a (execLedgerRead s) :=
  live_reach h fun _ h => goOn_reach (mailTake_reach h fun _ ht _ => readLedger_reach ht)

theorem State.breakSeal_reach {at_} (h : Reach a (store s)) : Reach a (store (s.breakSeal at_).1) := by
  unfold State.breakSeal
  extract_lets tok e s1
  have h1 : Reach a (store s1) := set_reach h
  exact ite_fst_reach h1 (acceptSeal_reach (newNonce_reach h1))

theorem execSealBreak_reach (h : Reach a (store s)) : ReachRes a (execSealBreak s) :=
  live_reach h fun _ h => goOn_reach (mailTake_reach h fun _ ht _ => breakSeal_reach ht)

theorem execUnknownCmd_reach (h : Reach a (store s)) : ReachRes a (execUnknownCmd s) :=
  live_reach h fun _ h => ite_res_reach (goOn_reach h) (goOn_reach (mailReply_reach h))

theorem execCommandParityFail_reach (h : Reach a (store s)) : ReachRes a (execCommandParityFail s) :=
  live_reach h fun _ h => ite_res_reach (goOn_reach (mailReply_reach (parityScan_reach h))) (goOn_reach h)

end Sys2Proof.Machine
end

section
/-! SUPPORT. The memories under register accesses, the tugs' moves and the tide boundary. -/

namespace Sys2Proof.Machine
open State
variable {a : Store} {s : State}

theorem after_reach {r : Res} (hr : ReachRes a r) (h : Reach a (store s)) : Reach a (store (after r s)) := by
  cases r with
  | next t => exact hr.reach t rfl
  | fault | refused => exact h

theorem State.writeHarbour_reach {plain : State} {name w} (h : Reach a (store s)) (ht : Reach a (store plain)) :
    Reach a (store (s.writeHarbour plain name w)) := by
  unfold State.writeHarbour
  extract_lets +onlyGivenNames v
  split
  · exact set_reach h
  · exact ite_reach (after_reach (execManifestLoad_reach h) h) h
  · exact showSource_reach ht
  · exact after_reach (execTimeRateWrite_reach h) h
  · exact after_reach (execTimeStepRequest_reach h) h
  · extract_lets s1
    have h1 : Reach a (store s1) := set_reach ht
    exact ite_reach (after_reach (execTimeValidate_reach h1) h1) h1
  · exact ht

theorem State.writeQuay_reach {plain : State} {name n w} (h : Reach a (store s)) (ht : Reach a (store plain)) :
    Reach a (store (s.writeQuay plain name n w)) := by
  unfold State.writeQuay
  extract_lets +onlyGivenNames v
  split
  · extract_lets s1
    have h1 : Reach a (store s1) := after_reach (execQuayRunWrite_reach ht) ht
    exact ite_reach (after_reach (execQuayResumeWrite_reach h1) h1) h1
  · exact after_reach (execPlanSelectWrite_reach h) h
  · exact after_reach (execLgateTCfgWrite_reach h) h
  · exact after_reach (execLgateTCfgWrite_reach h) h
  · exact after_reach (execSpiCommandWrite_reach h) h
  · exact after_reach (execGpioCfgWrite_reach h) h
  · exact after_reach (execGpioOutWrite_reach h) h
  · exact after_reach (execRxCfgWrite_reach h) h
  · exact after_reach (execNoiseWindowWrite_reach h) h
  · exact after_reach (execNoiseWindowWrite_reach h) h
  · exact ht

theorem State.writeSluice_reach {plain : State} {name w} (h : Reach a (store s)) (ht : Reach a (store plain)) :
    Reach a (store (s.writeSluice plain name w)) := by
  unfold State.writeSluice
  split
  · exact ite_reach (after_reach (execSyncWrite_reach ht) ht) ht
  · exact ite_reach ht h
  · exact ht

theorem State.writeTally_reach {plain : State} {kept : State} {name n l w} (h : Reach a (store s)) (ht : Reach a (store plain))
    (hu : Reach a (store kept)) :
    Reach a (store (s.writeTally plain kept name n l w)) := by
  unfold State.writeTally
  refine ite_reach (set_reach hu) ?_
  split
  iterate 6 · exact after_reach (execLaneCfgWrite_reach h) h
  · exact set_reach h
  · exact set_reach h
  · exact ite_reach (after_reach (execHistogramClearWrite_reach h) h) h
  · exact ht

theorem State.writeBeacon_reach {plain : State} {name k w} (h : Reach a (store s)) (ht : Reach a (store plain)) :
    Reach a (store (s.writeBeacon plain name k w)) := by
  unfold State.writeBeacon
  extract_lets +onlyGivenNames v
  split
  · extract_lets s1
    have h1 : Reach a (store s1) := accept_reach ht
    exact ite_reach (after_reach (execByboviDiscover_reach h1) h1) h1
  · exact after_reach (execByboviCmdWrite_reach h) h
  · extract_lets m s1
    have h1 : Reach a (store s1) := ite_reach (after_reach (execShortCheckWrite_reach ht) ht) ht
    exact ite_reach (after_reach (execBeaconResumeWrite_reach h1) h1) h1
  · exact ht

theorem State.writeSounding_reach {plain : State} {name c w} (h : Reach a (store s)) (ht : Reach a (store plain)) :
    Reach a (store (s.writeSounding plain name c w)) := by
  unfold State.writeSounding
  extract_lets +onlyGivenNames v
  split
  · extract_lets s1 s2
    have h1 : Reach a (store s1) := writeMode_reach (writeMsrc_reach h)
    have h2 : Reach a (store s2) := ite_reach (sndRestart_reach h1) h1
    exact ite_reach (sndGo_reach h2) h2
  iterate 10 · exact chanWrite_reach h
  · exact after_reach (execWatchLimitWrite_reach h) h
  · exact after_reach (execWatchLimitWrite_reach h) h
  · extract_lets s1
    have h1 : Reach a (store s1) := ite_reach (after_reach (execWatchRearm_reach h) h) h
    exact ite_reach (after_reach (execWatchForce_reach h1) h1) h1
  · exact ht

theorem State.writeEngines_reach {plain : State} {name who i j w hw} (h : Reach a (store s)) (ht : Reach a (store plain)) :
    Reach a (store (s.writeEngines plain name who i j w hw)) := by
  unfold State.writeEngines
  split
  · exact after_reach (execJobPostWrite_reach h) h
  · exact ite_reach (after_reach (execWarehouseInit_reach h) h) h
  · exact ite_reach h ht
  · exact ite_reach (accept_reach h) h
  · exact ite_reach h ht
  · exact after_reach (execTugEnqueue_reach h) h
  · exact after_reach (execPackingEnqueue_reach h) h
  · exact ite_reach (set_reach h) h
  · exact ite_reach (set_reach h) h
  · exact ite_reach (after_reach (execBootGo_reach h) h) h
  · exact ite_reach (set_reach ht) ht
  · exact exportCfg_reach h
  · exact accept_reach h
  · exact showSlice_reach ht
  · exact ht

theorem State.writeSystem_reach {plain : State} {name w} (h : Reach a (store s)) (ht : Reach a (store plain)) :
    Reach a (store (s.writeSystem plain name w)) := by
  unfold State.writeSystem
  extract_lets +onlyGivenNames v
  split
  · exact ite_reach (after_reach (execColdResetWrite_reach h) h) (ite_reach (after_reach (execWarmResetWrite_reach h) h) h)
  · exact after_reach (execWatchdogCfgWrite_reach h) h
  · exact after_reach (execWatchdogKick_reach h) h
  · exact after_reach (execPowerRequest_reach h) h
  · exact after_reach (execDomainResetWrite_reach h) h
  · exact after_reach (execBerthResetWrite_reach h) h
  · exact ite_reach (after_reach (execSafeArm_reach h) h) (ite_reach (after_reach (execSafeEngage_reach h) h) h)
  · exact after_reach (execThermalWarn_reach ht) ht
  · exact ite_reach (after_reach (execPinHoldRelease_reach h) h) h
  · extract_lets s1 s2
    have h1 : Reach a (store s1) := ite_reach (after_reach (execFitWrite_reach h) h) h
    have h2 : Reach a (store s2) := ite_reach (after_reach (execSealWrite_reach h1) h1) h1
    exact ite_reach (after_reach (execTokenApply_reach h2) h2) h2
  · exact ite_reach (after_reach (execCharterProgram_reach h) h) h
  · exact ht

theorem State.writeReg_reach {who r addr w hw} (h : Reach a (store s)) : Reach a (store (s.writeReg who r addr w hw)) := by
  unfold State.writeReg
  extract_lets plain
  have hplain : Reach a (store plain) := writeRow_reach h
  exact ite_reach (ite_reach (after_reach (execRtcLoWrite_reach h) h) (ite_reach (after_reach (execRtcHiWrite_reach h) h) (ballastPush_reach h)))
      (ite_reach (ite_reach (writeHarbour_reach h hplain) (ite_reach (writeSystem_reach h hplain) (ite_reach (writeQuay_reach h hplain) (ite_reach
        (writeSluice_reach h hplain) (ite_reach (writeTally_reach h hplain (ite_reach (writeRow_reach h) h)) (ite_reach (writeBeacon_reach h hplain)
          (ite_reach (writeSounding_reach h hplain) (writeEngines_reach h hplain)))))))) hplain)

theorem execRegisterWrite_reach {who addr value hwSet} (h : Reach a (store s)) : ReachRes a (execRegisterWrite who addr value hwSet s) := by
  unfold execRegisterWrite
  refine live_reach h fun _ h => ite_res_reach (goOn_reach (ite_reach (answer_reach h) h)) ?_
  split
  · exact ite_res_reach (goOn_reach h) (execUnmappedAccess_reach h)
  · exact ite_res_reach (goOn_reach (ite_reach (answer_reach (lockAnswer_reach h)) h)) (blockWrite_reach (ite_reach (answer_reach h) h) fun _ ht =>
      goOn_reach (writeReg_reach ht))

theorem resend_reach {c} (h : Reach a (store s)) : Reach a (store (resend c s)) := by
  unfold resend
  split
  · split
    · exact ite_reach (writeReg_reach (endHold_reach h)) h
    · exact h
  · exact after_reach (execQuayRunWrite_reach h) h
  · exact after_reach (execQuayResumeWrite_reach h) h
  · exact after_reach (execPlanSelectWrite_reach h) h
  · exact after_reach (execLgateTCfgWrite_reach h) h
  · exact after_reach (execSpiCommandWrite_reach h) h
  · exact after_reach (execGpioCfgWrite_reach h) h
  · exact after_reach (execGpioOutWrite_reach h) h
  · exact after_reach (execLaneCfgWrite_reach h) h
  · exact after_reach (execHistogramClearWrite_reach h) h
  · exact h

theorem execLinkRetrainDone_reach {link} (h : Reach a (store s)) : ReachRes a (execLinkRetrainDone link s) :=
  live_reach h fun _ h => ite_res_reach (goOn_reach (foldl_reach (closeGap_reach (setLink_reach (wrBit_reach (ite_reach
    (runDac_reach h) h)))) fun _ _ => resend_reach)) (goOn_reach h)

theorem State.readReg_reach {r addr hw} (h : Reach a (store s)) : Reach a (store (s.readReg r addr hw).1) := by
  unfold State.readReg
  refine ite_fst_reach (popFifo_reach h) (ite_fst_reach (popStamp_reach h) (ite_fst_reach (spiLevels_reach (setQuay_reach h))
      (foldl_reach ?_ fun _ _ => readClearField_reach)))
  split
  · exact latchHigh_reach h
  · exact h

theorem State.hostRead_reach {r addr hw} (h : Reach a (store s)) : Reach a (store (s.hostRead r addr hw)) :=
  ite_reach (answer_reach (readReg_reach h)) (answer_reach (lockAnswer_reach h))

theorem execLowWordRead_reach {addr} (h : Reach a (store s)) : ReachRes a (execLowWordRead addr s) := by
  unfold execLowWordRead
  refine live_reach h fun _ h => ?_
  split
  · exact goOn_reach (hostRead_reach h)
  · exact refused_reach _

theorem execReadClear_reach {addr hwSet} (h : Reach a (store s)) : ReachRes a (execReadClear addr hwSet s) := by
  unfold execReadClear
  refine live_reach h fun _ h => ?_
  split
  · exact refused_reach _
  · exact goOn_reach (hostRead_reach h)

theorem State.tugRead_reach {addr} (h : Reach a (store s)) : Reach a (store (s.tugRead addr).1) := by
  unfold State.tugRead
  split
  · exact nextFree_reach h
  · exact readReg_reach h

theorem State.srcRead_reach {d x i n} (h : Reach a (store s)) : Reach a (store (s.srcRead d x i n).1) := by
  unfold State.srcRead
  refine ite_fst_reach h ?_
  split
  · exact h
  · exact ite_fst_reach (whRead_reach h) (ite_fst_reach (ite_fst_reach h (ite_fst_reach (parityScan_reach h) h)) (ite_fst_reach (tugRead_reach h) h))

theorem State.dstWrite_reach {d x i bs} (h : Reach a (store s)) : Reach a (store (s.dstWrite d x i bs).1) := by
  unfold State.dstWrite
  refine ite_fst_reach h ?_
  split
  · exact h
  · exact ite_fst_reach (whWrite_reach h) (ite_fst_reach (ite_fst_reach h (shedWrite_reach h _ _)) (ite_fst_reach (after_reach
      (execRegisterWrite_reach h) h) (update_reach h)))

theorem readBeats_reach {d x n i k} (h : Reach a (store s)) : Reach a (store (readBeats d x n i k s).1) := by
  induction k generalizing s i with
  | zero => exact h
  | succ k ih =>
    unfold readBeats
    extract_lets r
    have hr : Reach a (store r.1) := srcRead_reach h
    split
    · exact hr
    · exact ih hr

theorem writeBeats_reach {d x n i k bs} (h : Reach a (store s)) : Reach a (store (writeBeats d x n i k bs s).state) := by
  induction k generalizing s i bs with
  | zero => exact h
  | succ k ih =>
    unfold writeBeats
    extract_lets r
    have hr : Reach a (store r.1) := dstWrite_reach h
    split
    · exact hr
    · exact ih hr

theorem moveUnits_reach {d x i k} (h : Reach a (store s)) : Reach a (store (moveUnits d x i k s).state) := by
  induction k generalizing s i with
  | zero => exact h
  | succ k ih =>
    unfold moveUnits
    extract_lets +onlyGivenNames r
    have hr : Reach a (store r.1) := readBeats_reach h
    split
    · exact hr
    · extract_lets w
      have hw : Reach a (store w.state) := writeBeats_reach hr
      split
      · exact hw
      · exact ih hw

theorem State.chargeMove_reach {p : TugProgress} {e o d} (h : Reach a (store s)) : Reach a (store (s.chargeMove e o d p)) :=
  addSat_reach (tugWarehouse_reach (tugCharge_reach h))

theorem State.finishMove_reach {p : TugProgress} {e r d} (ht : Reach a (store p.state)) : Reach a (store (s.finishMove e r d p)) := by
  unfold State.finishMove
  extract_lets s1
  have h1 : Reach a (store s1) := chargeMove_reach ht
  split <;> exact descDone_reach h1

theorem execTugDescriptorComplete_reach {e luck host fails} (h : Reach a (store s)) : ReachRes a (execTugDescriptorComplete e luck host fails s) := by
  unfold execTugDescriptorComplete
  refine live_reach h fun _ h => ?_
  split
  · exact goOn_reach (tileWritten_reach h)
  · refine ite_res_reach (ite_res_reach ?_ (goOn_reach (cutRunning_reach h))) (ite_res_reach (goOn_reach (chainNext_reach (descDone_reach
      (parityScan_reach h)))) (ite_res_reach (goOn_reach (chainEnd_reach (descDone_reach h))) (ite_res_reach (goOn_reach (chainNext_reach
        (descDone_reach h))) (ite_res_reach (goOn_reach (chainNext_reach (descDone_reach h))) ?_))))
    · extract_lets p
      have hp : Reach a (store p.state) := moveUnits_reach h
      exact ite_res_reach (goOn_reach hp) (goOn_reach (cutRunning_reach (chargeMove_reach hp)))
    · extract_lets p
      have hp : Reach a (store p.state) := moveUnits_reach h
      exact ite_res_reach (goOn_reach hp) (goOn_reach (chainNext_reach (finishMove_reach hp)))

theorem State.skipQuay_reach {v b n} (h : Reach a (store s)) : Reach a (store (State.skipQuay v b s n)) :=
  setRx_reach (setQuay_reach h)

theorem State.skipTides_reach {v b} (h : Reach a (store s)) : Reach a (store (s.skipTides v b)) :=
  update_reach (foldl_reach h fun _ _ => skipQuay_reach)

theorem State.dropWork_reach {i} (h : Reach a (store s)) : Reach a (store (s.dropWork i)) :=
  update_reach h

theorem State.startBerth_reach {i b d f} (h : Reach a (store s)) : Reach a (store (s.startBerth i b d f)) :=
  ite_reach (landDas_reach h) (ite_reach (landFlow_reach h) (ite_reach (landRaman_reach h) (ite_reach (landRange_reach h) (ite_reach
    (landSounding_reach h) (ite_reach (landWatch_reach h) (ite_reach (landPoint_reach h) (landStream_reach h)))))))

theorem State.stopBerth_reach {i b} (h : Reach a (store s)) : Reach a (store (s.stopBerth i b)) :=
  ite_reach (closeDas_reach h) (ite_reach (closeFlow_reach h) (ite_reach (closeRaman_reach h) (ite_reach (closeRange_reach h) (ite_reach
    (closeSounding_reach h) (ite_reach (closeWatch_reach h) (ite_reach (closePoint_reach h) (closeStream_reach h)))))))

theorem State.landOpen_reach {i b} (h : Reach a (store s)) : Reach a (store (s.landOpen i b)) :=
  ite_reach h (startBerth_reach (update_reach (setBerth_reach h)))

theorem State.landClose_reach {i b} (h : Reach a (store s)) : Reach a (store (s.landClose i b)) :=
  ite_reach (dropWork_reach (update_reach (setBerth_reach (stopBerth_reach h)))) h

theorem State.landSync_reach {b} (h : Reach a (store s)) : Reach a (store (s.landSync b)) :=
  inc_reach (wrPair_reach (wrB_reach (set_reach (foldl_reach (update_reach h) fun _ _ ht => ite_reach ht (ite_reach (resyncDas_reach ht) (ite_reach
    (resyncFlow_reach ht) ht))))))

theorem State.land_reach {b c} (h : Reach a (store s)) : Reach a (store (s.land b c)) := by
  unfold State.land
  split
  · exact wrB_reach (update_reach h)
  · exact set_reach (set_reach h)
  · exact landManifest_reach h
  · exact landOpen_reach h
  · exact landClose_reach h
  · exact landRun_reach h
  · exact landResume_reach h
  · exact landPlan_reach h
  · exact landLgtEn_reach h
  iterate 3 · exact setQuay_reach h
  · exact landRxCfg_reach h
  · exact landSync_reach h
  · exact lanePending_reach (landLaneCfg_reach h)
  · exact landHistClear_reach h
  · exact startCheck_reach h
  · exact landPortResume_reach h
  · exact landBybEn_reach h
  · exact update_reach h
  · exact landWatchLimit_reach h
  · exact landWatchRearm_reach h
  · exact landPierSwap_reach h
  · exact set_reach h
  · exact landPower_reach h
  · exact landExport_reach h
  · exact landCal_reach h
  · exact set_reach (set_reach (set_reach h))
  · exact landBerthReset_reach h
  · exact landSeal_reach h
  · exact landFwSwap_reach h
  · exact landFwRevert_reach h

theorem State.landDue_reach {b n} (h : Reach a (store s)) : Reach a (store (State.landDue b n s)) := by
  induction n generalizing s with
  | zero => exact h
  | succ n ih =>
    unfold State.landDue
    split
    · exact h
    · exact ih (land_reach h)

theorem State.showAlloc_reach (h : Reach a (store s)) : Reach a (store s.showAlloc) :=
  foldl_reach h fun _ _ => set_reach

theorem State.moveLand_reach {b0 b} (h : Reach a (store s)) : Reach a (store (s.moveLand b0 b)) :=
  ite_reach (setLand_reach h) h

theorem execTideBoundary_reach {loads reserve stops} (h : Reach a (store s)) : ReachRes a (execTideBoundary loads reserve stops s) := by
  unfold execTideBoundary
  refine live_reach h fun _ h => ?_
  extract_lets b0 v b _ s1
  have h1 : Reach a (store s1) := update_reach (closeTide_reach h)
  exact goOn_reach (hawserSend_reach (showAlloc_reach (showSource_reach (portsAt_reach (lanesAt_reach (foldl_reach (landDue_reach (restoreAll_reach
      (hawserBoundary_reach (streamBoundary_reach (tapBoundary_reach (foldl_reach (foldl_reach (update_reach (foldl_reach (foldl_reach (ite_reach h1
        (moveLand_reach (skipTides_reach h1))) fun _ _ => pierBoundary_reach) fun _ _ => tugBoundary_reach)) fun _ _ => packBoundary_reach) fun _ _ =>
          trimBoundary_reach)))))) fun _ _ => epochDue_reach))))))

end Sys2Proof.Machine
end

section
/-! SUPPORT. What a command does to the memories and to the queue. -/

namespace Sys2Proof.Machine
variable {a : Store} {s : State}

/-- The memories after a command are reached from those before it. -/
theorem exec_reach (h : Reach a (store s)) : ∀ c : Instr, ReachRes a (exec c s)
  | .registerWrite .. => execRegisterWrite_reach h
  | .unsupportedAccess write .. => execUnsupportedAccess_reach (_write := write) h
  | .unmappedAccess .. => execUnmappedAccess_reach h
  | .lowWordRead .. => execLowWordRead_reach h
  | .readClear .. => execReadClear_reach h
  | .shedWindowRead .. => execShedWindowRead_reach h
  | .shedWindowWrite .. => execShedWindowWrite_reach h
  | .flitCrcMismatch .. => execFlitCrcMismatch_reach h
  | .linkRetrain .. => execLinkRetrain_reach h
  | .linkRetrainDone .. => execLinkRetrainDone_reach h
  | .pllLockLoss .. => execPllLockLoss_reach h
  | .pllLockRegain .. => execPllLockRegain_reach h
  | .ballastWrite .. => execBallastWrite_reach h
  | .ballastWriteApply => execBallastWriteApply_reach h
  | .tideBoundary .. => execTideBoundary_reach h
  | .timeRateWrite .. => execTimeRateWrite_reach h
  | .timeStepRequest .. => execTimeStepRequest_reach h
  | .timeValidate => execTimeValidate_reach h
  | .manifestLoad => execManifestLoad_reach h
  | .manifestCheckDone => execManifestCheckDone_reach h
  | .hello => execHello_reach h
  | .berthOpen => execBerthOpen_reach h
  | .berthClose => execBerthClose_reach h
  | .berthQuery => execBerthQuery_reach h
  | .tideQuery => execTideQuery_reach h
  | .calSwap => execCalSwap_reach h
  | .fwSwap => execFwSwap_reach h
  | .pierSwap => execPierSwap_reach h
  | .ledgerRead => execLedgerRead_reach h
  | .sealBreak => execSealBreak_reach h
  | .commandParityFail => execCommandParityFail_reach h
  | .bootGo => execBootGo_reach h
  | .bootVerifyDone => execBootVerifyDone_reach h
  | .trimImageArrive .. => execTrimImageArrive_reach h
  | .trimLoadDone => execTrimLoadDone_reach h
  | .quayRunWrite .. => execQuayRunWrite_reach h
  | .launchStart .. => execLaunchStart_reach h
  | .launchEnd .. => execLaunchEnd_reach h
  | .quayResumeWrite .. => execQuayResumeWrite_reach h
  | .faultInputActive .. => execFaultInputActive_reach h
  | .planSelectWrite .. => execPlanSelectWrite_reach h
  | .lgateTCfgWrite .. => execLgateTCfgWrite_reach h
  | .lgateTPulse .. => execLgateTPulse_reach h
  | .spiCommandWrite .. => execSpiCommandWrite_reach h
  | .spiFrameStart .. => execSpiFrameStart_reach h
  | .spiFrameDone .. => execSpiFrameDone_reach h
  | .spiRxdRead .. => execSpiRxdRead_reach h
  | .gpioCfgWrite .. => execGpioCfgWrite_reach h
  | .gpioOutWrite .. => execGpioOutWrite_reach h
  | .segmentClose .. => execSegmentClose_reach h
  | .replayStart => execReplayStart_reach h
  | .replayDone .. => execReplayDone_reach h
  | .noiseEstimateValid .. => execNoiseEstimateValid_reach h
  | .noiseWindowWrite .. => execNoiseWindowWrite_reach h
  | .rxCfgWrite .. => execRxCfgWrite_reach h
  | .tileFlush .. => execTileFlush_reach h
  | .sluiceRowWrite .. => execSluiceRowWrite_reach h
  | .syncWrite => execSyncWrite_reach h
  | .flowRecordWrite .. => execFlowRecordWrite_reach h
  | .ledgerSecondClose => execLedgerSecondClose_reach h
  | .commitDone => execCommitDone_reach h
  | .intervalRecord => execIntervalRecord_reach h
  | .recordSign => execRecordSign_reach h
  | .czHello .. => execCzHello_reach h
  | .czNack .. => execCzNack_reach h
  | .modbusRequest .. => execModbusRequest_reach h
  | .ledgerHandoverVerify .. => execLedgerHandoverVerify_reach h
  | .ledgerHandoverTimeout => execLedgerHandoverTimeout_reach h
  | .tallyEdge .. => execTallyEdge_reach h
  | .tallyStart .. => execTallyStart_reach h
  | .tallyTimeout .. => execTallyTimeout_reach h
  | .tallyFifoPop .. => execTallyFifoPop_reach h
  | .statSetComplete .. => execStatSetComplete_reach h
  | .freqGateEnd .. => execFreqGateEnd_reach h
  | .histogramDumpDone .. => execHistogramDumpDone_reach h
  | .histogramClearWrite .. => execHistogramClearWrite_reach h
  | .laneCfgWrite .. => execLaneCfgWrite_reach h
  | .ramanTraceRecord .. => execRamanTraceRecord_reach h
  | .scanFrameStart .. => execScanFrameStart_reach h
  | .rowSlot .. => execRowSlot_reach h
  | .diagnosticSlot .. => execDiagnosticSlot_reach h
  | .shortCheckWrite .. => execShortCheckWrite_reach h
  | .shortCheckDone .. => execShortCheckDone_reach h
  | .beaconResumeWrite .. => execBeaconResumeWrite_reach h
  | .rangingRecord .. => execRangingRecord_reach h
  | .byboviFrameStart => execByboviFrameStart_reach h
  | .byboviStatusShare .. => execByboviStatusShare_reach h
  | .byboviEnd => execByboviEnd_reach h
  | .headLost .. => execHeadLost_reach h
  | .byboviCmdWrite .. => execByboviCmdWrite_reach h
  | .byboviDiscover => execByboviDiscover_reach h
  | .conversionStart .. => execConversionStart_reach h
  | .conversionEnd .. => execConversionEnd_reach h
  | .leadConversionEnd .. => execLeadConversionEnd_reach h
  | .soundingStart => execSoundingStart_reach h
  | .soundingRestart => execSoundingRestart_reach h
  | .soundingStop => execSoundingStop_reach h
  | .msrcWrite .. => execMsrcWrite_reach h
  | .mainsLost .. => execMainsLost_reach h
  | .mainsRelock .. => execMainsRelock_reach h
  | .soundingCfgWrite .. => execSoundingCfgWrite_reach h
  | .referenceRotationStep .. => execReferenceRotationStep_reach h
  | .watchSampleTake .. => execWatchSampleTake_reach h
  | .captureHeaderWrite .. => execCaptureHeaderWrite_reach h
  | .watchForce .. => execWatchForce_reach h
  | .watchRearm .. => execWatchRearm_reach h
  | .watchLimitWrite .. => execWatchLimitWrite_reach h
  | .pierInterrupt .. => execPierInterrupt_reach h
  | .holdOffBreak .. => execHoldOffBreak_reach h
  | .repeatBody .. => execRepeatBody_reach h
  | .tapmov .. => execTapmov_reach h
  | .mac .. => execMac_reach h
  | .msu .. => execMsu_reach h
  | .cmac .. => execCmac_reach h
  | .ext .. => execExt_reach h
  | .clra .. => execClra_reach h
  | .mova .. => execMova_reach h
  | .lda .. => execLda_reach h
  | .cmod .. => execCmod_reach h
  | .ld .. => execLd_reach h
  | .st .. => execSt_reach h
  | .branch .. => execBranch_reach h
  | .post .. => execPost_reach h
  | .endJob .. => execEndJob_reach h
  | .rti .. => execRti_reach h
  | .jobPostWrite .. => execJobPostWrite_reach h
  | .jobDispatch .. => execJobDispatch_reach h
  | .warehouseInit => execWarehouseInit_reach h
  | .warehouseReady => execWarehouseReady_reach h
  | .warehouseRead .. => execWarehouseRead_reach h
  | .warehouseWrite .. => execWarehouseWrite_reach h
  | .warehousePromotion .. => execWarehousePromotion_reach h
  | .tugEnqueue .. => execTugEnqueue_reach h
  | .tugChainStart .. => execTugChainStart_reach h
  | .tugDescriptorComplete .. => execTugDescriptorComplete_reach h
  | .lockClose .. => execLockClose_reach h
  | .packingEnqueue .. => execPackingEnqueue_reach h
  | .packingJobStart .. => execPackingJobStart_reach h
  | .packingJobComplete .. => execPackingJobComplete_reach h
  | .captureUnitRead .. => execCaptureUnitRead_reach h
  | .crateClose .. => execCrateClose_reach h
  | .exportEnableWrite .. => execExportEnableWrite_reach h
  | .networkFrameReceive .. => execNetworkFrameReceive_reach h
  | .ptpStampPop => execPtpStampPop_reach h
  | .hawserFrameReceive .. => execHawserFrameReceive_reach h
  | .hawserForward => execHawserForward_reach h
  | .hawserLost => execHawserLost_reach h
  | .ppsInEdge .. => execPpsInEdge_reach h
  | .f10mRateUpdate .. => execF10mRateUpdate_reach h
  | .backscatterPass .. => execBackscatterPass_reach h
  | .codeDensityPass .. => execCodeDensityPass_reach h
  | .calSelectionWrite => execCalSelectionWrite_reach h
  | .resetAssert .. => execResetAssert_reach h
  | .resetRelease => execResetRelease_reach h
  | .warmResetWrite => execWarmResetWrite_reach h
  | .coldResetWrite => execColdResetWrite_reach h
  | .domainResetWrite .. => execDomainResetWrite_reach h
  | .berthResetWrite .. => execBerthResetWrite_reach h
  | .domainReady .. => execDomainReady_reach h
  | .watchdogCfgWrite .. => execWatchdogCfgWrite_reach h
  | .watchdogKick .. => execWatchdogKick_reach h
  | .watchdogExpire => execWatchdogExpire_reach h
  | .lockTimeout .. => execLockTimeout_reach h
  | .thermalTrip => execThermalTrip_reach h
  | .brownOut => execBrownOut_reach h
  | .supplyFault => execSupplyFault_reach h
  | .powerRequest .. => execPowerRequest_reach h
  | .pinHoldRelease => execPinHoldRelease_reach h
  | .rtcLoWrite .. => execRtcLoWrite_reach h
  | .rtcHiWrite .. => execRtcHiWrite_reach h
  | .vbatReturn => execVbatReturn_reach h
  | .safeArm .. => execSafeArm_reach h
  | .safeEngage => execSafeEngage_reach h
  | .ilockNHigh => execIlockNHigh_reach h
  | .thermalWarn .. => execThermalWarn_reach h
  | .fitWrite => execFitWrite_reach h
  | .sealWrite => execSealWrite_reach h
  | .tokenApply => execTokenApply_reach h
  | .charterProgram => execCharterProgram_reach h
  | .charterProgramDone .. => execCharterProgramDone_reach h
  | .fwSwapReady .. => execFwSwapReady_reach h
  | .fwSwapTimeout => execFwSwapTimeout_reach h
  | .ilockNLow => execIlockNLow_reach h
  | .faultInputInactive .. => execFaultInputInactive_reach h
  | .vbatLoss => execVbatLoss_reach h
  | .lgateARise .. => execLgateARise_reach h
  | .unknownCmd => execUnknownCmd_reach h
  | .domainOffRead .. => execDomainOffRead_reach h
  | .ptpSend .. => execPtpSend_reach h

/-- No memory operation touches the queue. -/
theorem Reach.pending_eq {a b : Store} (h : Reach a b) : b.pending = a.pending := by
  induction h with
  | refl => rfl
  | _ => assumption

end Sys2Proof.Machine
end

section
namespace Sys2Proof.Machine

/-- Settles O58: a command's effect is a sequence of memory operations, and none of those touches the queue. -/
theorem commandsLeaveTheQueue : Obligations.CommandsLeaveTheQueue := fun c _ t ht =>
  ((exec_reach .refl c).reach t ht).pending_eq

end Sys2Proof.Machine
end

section
/-! SUPPORT. The serial port of a quay's front end (R81 to R83): statement O23. -/

namespace Sys2Proof.Machine

/-! Commands that move one quay. -/

@[simp] theorem State.quay_answer (s : State) (st : BusStatus) (l : List Nat) (k : Nat) : (s.answer st l).quay k = s.quay k := rfl

/-- A quay moves and a bus access is answered. -/
theorem SameButQuayFlights.answer {s t : State} (h : SameButQuayFlights s t) (st : BusStatus) (l : List Nat) :
    t.answer st l = { s with regs := (t.answer st l).regs, quays := (t.answer st l).quays, completion := (t.answer st l).completion } := by
  rw [SameButQuayFlights] at h
  rw [h]
  rfl

/-- From `u` to `t` quay `n` becomes `q`, register fields among `fs` may move, and nothing else differs. -/
structure QuayMoves (u : State) (n : Nat) (q : Quay) (fs : List Fld) (t : State) : Prop where
  same : SameButRegs (u.setQuay n q) t
  only : OnlyRegs fs u t

section Moves
variable {u t : State} {n : Nat} {q : Quay} {fs : List Fld}

theorem QuayMoves.setQuay (u : State) (n : Nat) (q : Quay) (fs : List Fld) : QuayMoves u n q fs (u.setQuay n q) :=
  ⟨.refl _, (OnlyRegs.refl u fs).setQuay n q⟩

theorem QuayMoves.wr (h : QuayMoves u n q fs t) {f : Fld} (hf : f ∈ fs) (v : Nat) : QuayMoves u n q fs (t.wr f v) :=
  ⟨h.same.wr f v, h.only.wr hf v⟩

theorem QuayMoves.ite {t' : State} {c : Prop} [Decidable c] (h : QuayMoves u n q fs t) (h' : QuayMoves u n q fs t') :
    QuayMoves u n q fs (if c then t else t') :=
  ⟨h.same.ite h'.same, h.only.ite h'.only⟩

theorem QuayMoves.quays (h : QuayMoves u n q fs t) (k : Nat) : t.quay k = (u.setQuay n q).quay k := by
  rw [h.same]
  rfl

theorem QuayMoves.quay_same (h : QuayMoves u n q fs t) : t.quay n = q := (h.quays n).trans (State.quay_setQuay_same ..)

theorem QuayMoves.quay_other (h : QuayMoves u n q fs t) (k : Nat) (hk : k ≠ n) : t.quay k = u.quay k :=
  (h.quays k).trans (State.quay_setQuay_other _ _ hk)

theorem QuayMoves.frame (h : QuayMoves u n q fs t) : SameButQuayFlights u t := by
  unfold SameButQuayFlights
  rw [h.same]
  rfl

end Moves

/-! The levels of the queues (Table 3.5). -/

/-- The fields that show the queues of the serial port of quay `n`. -/
def spiFields (n : Nat) : List Fld := [R.QY_SPI_STATUS_CMD_LVL n, R.QY_SPI_STATUS_RX_LVL n, R.QY_SPI_RXD_DATA n]

theorem QuayMoves.spiLevels {u t : State} {n : Nat} {q : Quay} {fs : List Fld} (h : QuayMoves u n q fs t) (hfs : ∀ f ∈ spiFields n, f ∈ fs) :
    QuayMoves u n q fs (t.spiLevels n) :=
  ((h.wr (hfs _ (by simp [spiFields])) _).wr (hfs _ (by simp [spiFields])) _).wr (hfs _ (by simp [spiFields])) _

section Levels
variable (s : State) (n : Nat)

theorem State.spiLevels_onlyRegs : OnlyRegs (spiFields n) s (s.spiLevels n) :=
  (((OnlyRegs.refl s _).wr (by simp [spiFields]) _).wr (by simp [spiFields]) _).wr (by simp [spiFields]) _

theorem State.rd_spiLevels_busy : (s.spiLevels n).rd (R.QY_SPI_STATUS_BUSY n) = s.rd (R.QY_SPI_STATUS_BUSY n) := by
  refine s.spiLevels_onlyRegs n _ ?_
  simp only [spiFields, List.forall_mem_cons, R.QY_SPI_STATUS_CMD_LVL, R.QY_SPI_STATUS_RX_LVL, R.QY_SPI_RXD_DATA, R.QY_SPI_STATUS_BUSY]
  exact ⟨by omega, by omega, by omega, by simp⟩

theorem State.rd_spiLevels_cmdLvl (h : (s.quay n).spiQ.length < 2 ^ 5) :
    (s.spiLevels n).rd (R.QY_SPI_STATUS_CMD_LVL n) = (s.quay n).spiQ.length := by
  rw [State.spiLevels, State.rd_wr_other _ _ (by simp only [R.QY_SPI_RXD_DATA, R.QY_SPI_STATUS_CMD_LVL]; omega),
    State.rd_wr_other _ _ (by simp only [R.QY_SPI_STATUS_RX_LVL, R.QY_SPI_STATUS_CMD_LVL]; omega)]
  exact State.rd_wr_of_lt _ h

end Levels

/-! What each command answers. -/

/-- The command that a write of `v` to QY_SPI_CMD gives: its bits, and the transmit data as it stands (R81). -/
def State.spiCmd (s : State) (n : Nat) (v : Word) : SpiCmd :=
  ⟨bits v.toNat 0 2, bits v.toNat 2 1, bit v.toNat 3, bit v.toNat 4, s.rd (R.QY_SPI_TXD_DATA n)⟩

/-- Quay `n` with command `c` at the end of its queue; an empty queue has it as head since this tide (R82). -/
def State.spiJoined (s : State) (n : Nat) (c : SpiCmd) : Quay :=
  { s.quay n with spiQ := (s.quay n).spiQ ++ [c]
                  spiHeadTide := if (s.quay n).spiQ.isEmpty then tideOf s.now else (s.quay n).spiHeadTide }

/-- Quay `n` with the frame of `c` in progress and `rest` still queued. -/
def State.spiStarted (s : State) (n : Nat) (c : SpiCmd) (rest : List SpiCmd) : Quay :=
  { s.quay n with spiQ := rest, spiFrame := some c, spiHeadTide := tideOf s.now }

/-- Quay `n` without the head of its read queue. -/
def State.spiPopped (s : State) (n : Nat) : Quay := { s.quay n with spiRx := (s.quay n).spiRx.tail }

/-- The read queue of quay `n` after the frame of `c`, in which `miso` came in (R81). -/
def State.spiStored (s : State) (n : Nat) (c : SpiCmd) (miso : Word) : List Nat :=
  if c.rd then (s.quay n).spiRx ++ [low (8 * (c.len + 1)) miso.toNat] else (s.quay n).spiRx

/-- Quay `n` with the frame of `c` over, in which `miso` came in. -/
def State.spiEnded (s : State) (n : Nat) (c : SpiCmd) (miso : Word) : Quay := { s.quay n with spiFrame := none, spiRx := s.spiStored n c miso }

/-- What keeps the head `c` of the queue of quay `n` waiting: a frame in progress, a boundary that has not passed, or a full read queue. -/
def State.spiWaits (s : State) (n : Nat) (c : SpiCmd) : Prop :=
  (s.quay n).spiFrame.isSome = true ∨ (c.atTide = true ∧ tideOf s.now ≤ (s.quay n).spiHeadTide) ∨ (c.rd = true ∧ 16 ≤ (s.quay n).spiRx.length)

theorem State.not_spiWaits {s : State} {n : Nat} {c : SpiCmd} (hfree : (s.quay n).spiFrame = none)
    (htide : c.atTide = true → (s.quay n).spiHeadTide < tideOf s.now) (hroom : c.rd = true → (s.quay n).spiRx.length < 16) : ¬s.spiWaits n c := by
  rintro (hbusy | ⟨hat, hle⟩ | ⟨hrd, hfull⟩)
  · simp [hfree] at hbusy
  · exact absurd (htide hat) (Nat.not_lt.mpr hle)
  · exact absurd (hroom hrd) (Nat.not_lt.mpr hfull)

section Exec
variable {s : State} {n : Fin 8}

theorem exec_spiCommandWrite_of_room (hs : s.quayTakes n) (v : Word) (h : (s.quay n).spiQ.length < 16) :
    exec (.spiCommandWrite n v) s = .next ((s.setQuay n (s.spiJoined n (s.spiCmd n v))).spiLevels n) := by
  show execSpiCommandWrite n v s = _
  rw [execSpiCommandWrite, hs.live, State.quayWrite_takes hs]
  exact if_pos h

theorem exec_spiCommandWrite_of_full (hs : s.quayTakes n) (v : Word) (h : 16 ≤ (s.quay n).spiQ.length) :
    exec (.spiCommandWrite n v) s = .next (s.wr (R.QY_STATUS_SPI_OVF n) 1) := by
  show execSpiCommandWrite n v s = _
  rw [execSpiCommandWrite, hs.live, State.quayWrite_takes hs]
  exact if_neg (Nat.not_lt.mpr h)

theorem exec_spiFrameStart_of_waits (hs : s.runs) {c : SpiCmd} {rest : List SpiCmd} (hq : (s.quay n).spiQ = c :: rest) (h : s.spiWaits n c) :
    exec (.spiFrameStart n) s = .next s := by
  show execSpiFrameStart n s = _
  rw [execSpiFrameStart, State.live_runs hs]
  simp only [hq]
  exact if_pos h

theorem exec_spiFrameStart (hs : s.runs) {c : SpiCmd} {rest : List SpiCmd} (hq : (s.quay n).spiQ = c :: rest) (h : ¬s.spiWaits n c) :
    exec (.spiFrameStart n) s =
      .next (((s.setQuay n (s.spiStarted n c rest)).wr (R.QY_SPI_STATUS_BUSY n) 1).spiLevels n) := by
  show execSpiFrameStart n s = _
  rw [execSpiFrameStart, State.live_runs hs]
  simp only [hq]
  exact if_neg h

theorem exec_spiFrameDone (hs : s.runs) {c : SpiCmd} (hf : (s.quay n).spiFrame = some c) (miso : Word) :
    exec (.spiFrameDone n miso) s =
      .next (((s.setQuay n (s.spiEnded n c miso)).wr (R.QY_SPI_STATUS_BUSY n) 0).spiLevels n) := by
  show execSpiFrameDone n miso s = _
  rw [execSpiFrameDone, State.live_runs hs]
  simp only [hf]
  rfl

theorem exec_spiRxdRead (hs : s.runs) (hon : s.powered (quayDomain n) = true) :
    exec (.spiRxdRead n) s = .next (((s.setQuay n (s.spiPopped n)).spiLevels n).answer .ok [(s.quay n).spiRx.headD 0]) := by
  show execSpiRxdRead n s = _
  rw [execSpiRxdRead, State.live_runs hs]
  exact if_pos hon

end Exec

/-! The clauses of O23. -/

section Clauses
variable {s : State} {n : Fin 8}

theorem spiCommandWrite_joins (hs : s.quayTakes n) (v : Word) (hroom : (s.quay n).spiQ.length < 16) :
    ∃ t, exec (.spiCommandWrite n v) s = .next t ∧ (t.quay n).spiQ = (s.quay n).spiQ ++ [s.spiCmd n v] ∧
      t.rd (R.QY_SPI_STATUS_CMD_LVL n) = (s.quay n).spiQ.length + 1 ∧ OnlyRegs (spiFields n) s t ∧
      (∀ j, j ≠ n.val → t.quay j = s.quay j) ∧ SameButQuayFlights s t := by
  have hmoves := (QuayMoves.setQuay s n (s.spiJoined n (s.spiCmd n v)) (spiFields n)).spiLevels (fun _ hf => hf)
  have hlen : ((s.setQuay n (s.spiJoined n (s.spiCmd n v))).quay n).spiQ.length = (s.quay n).spiQ.length + 1 := by
    rw [State.quay_setQuay_same]
    exact List.length_append
  refine ⟨_, exec_spiCommandWrite_of_room hs v hroom, by rw [hmoves.quay_same]; rfl, ?_, hmoves.only, hmoves.quay_other, hmoves.frame⟩
  rw [State.rd_spiLevels_cmdLvl _ _ (by omega), hlen]

theorem spiCommandWrite_overflows (hs : s.quayTakes n) (v : Word) (hfull : 16 ≤ (s.quay n).spiQ.length) :
    ∃ t, exec (.spiCommandWrite n v) s = .next t ∧ t.rd (R.QY_STATUS_SPI_OVF n) = 1 ∧ OnlyRegs [R.QY_STATUS_SPI_OVF n] s t ∧ SameButRegs s t :=
  ⟨_, exec_spiCommandWrite_of_full hs v hfull, State.rd_wr_same .., (OnlyRegs.refl s _).wr (List.mem_singleton_self _) _, rfl⟩

theorem spiFrameStart_starts (hs : s.runs) {c : SpiCmd} {rest : List SpiCmd} (hq : (s.quay n).spiQ = c :: rest) (h : ¬s.spiWaits n c) :
    ∃ t, exec (.spiFrameStart n) s = .next t ∧ (t.quay n).spiFrame = some c ∧ (t.quay n).spiQ = rest ∧ t.rd (R.QY_SPI_STATUS_BUSY n) = 1 ∧
      OnlyRegs (R.QY_SPI_STATUS_BUSY n :: spiFields n) s t ∧ (∀ j, j ≠ n.val → t.quay j = s.quay j) ∧ SameButQuayFlights s t := by
  have hmoves := ((QuayMoves.setQuay s n (s.spiStarted n c rest) (R.QY_SPI_STATUS_BUSY n :: spiFields n)).wr List.mem_cons_self 1).spiLevels
    (fun _ hf => List.mem_cons_of_mem _ hf)
  refine ⟨_, exec_spiFrameStart hs hq h, by rw [hmoves.quay_same]; rfl, by rw [hmoves.quay_same]; rfl, ?_, hmoves.only, hmoves.quay_other,
    hmoves.frame⟩
  rw [State.rd_spiLevels_busy, State.rd_wr_same]
  rfl

theorem spiFrameDone_stores (hs : s.runs) {c : SpiCmd} (hf : (s.quay n).spiFrame = some c) (miso : Word) :
    ∃ t, exec (.spiFrameDone n miso) s = .next t ∧ (t.quay n).spiFrame = none ∧ (t.quay n).spiQ = (s.quay n).spiQ ∧
      t.rd (R.QY_SPI_STATUS_BUSY n) = 0 ∧ (t.quay n).spiRx = s.spiStored n c miso ∧
      OnlyRegs (R.QY_SPI_STATUS_BUSY n :: spiFields n) s t ∧ (∀ j, j ≠ n.val → t.quay j = s.quay j) ∧ SameButQuayFlights s t := by
  have hmoves := ((QuayMoves.setQuay s n (s.spiEnded n c miso) (R.QY_SPI_STATUS_BUSY n :: spiFields n)).wr List.mem_cons_self 0).spiLevels
    (fun _ hf => List.mem_cons_of_mem _ hf)
  refine ⟨_, exec_spiFrameDone hs hf miso, by rw [hmoves.quay_same]; rfl, by rw [hmoves.quay_same]; rfl, ?_, by rw [hmoves.quay_same]; rfl,
    hmoves.only, hmoves.quay_other, hmoves.frame⟩
  rw [State.rd_spiLevels_busy, State.rd_wr_same]
  rfl

theorem spiRxdRead_pops (hs : s.runs) (hon : s.powered (quayDomain n) = true) :
    ∃ t, exec (.spiRxdRead n) s = .next t ∧ t.completion = ⟨.ok, [(s.quay n).spiRx.headD 0]⟩ ∧ (t.quay n).spiRx = (s.quay n).spiRx.tail ∧
      (t.quay n).spiQ = (s.quay n).spiQ ∧ OnlyRegs (spiFields n) s t ∧ (∀ j, j ≠ n.val → t.quay j = s.quay j) ∧
      t = { s with regs := t.regs, quays := t.quays, completion := t.completion } := by
  have hmoves := (QuayMoves.setQuay s n (s.spiPopped n) (spiFields n)).spiLevels (fun _ hf => hf)
  refine ⟨_, exec_spiRxdRead hs hon, rfl, ?_, ?_, hmoves.only.answer _ _, hmoves.quay_other, hmoves.frame.answer _ _⟩
  · rw [State.quay_answer, hmoves.quay_same]
    rfl
  · rw [State.quay_answer, hmoves.quay_same]
    rfl

end Clauses

/-- Settles O23: each command of the serial port moves its own quay and the fields that show its queues. -/
theorem spiCommandsRunInOrder : Obligations.SpiCommandsRunInOrder :=
  fun _ _ => ⟨fun v hs => spiCommandWrite_joins hs v, fun v hs => spiCommandWrite_overflows hs v,
    fun _ _ hs hq => ⟨exec_spiFrameStart_of_waits hs hq, fun hfree htide hroom => spiFrameStart_starts hs hq (State.not_spiWaits hfree htide hroom)⟩,
    fun _ miso hs hf => spiFrameDone_stores hs hf miso, spiRxdRead_pops⟩

end Sys2Proof.Machine
end

section
/-! SUPPORT. The launch path and the gates of a quay on their grids (R63 to R67, R72 to R74, R77): statement O21. -/

namespace Sys2Proof.Machine

theorem State.on_eq_true {s : State} {f : Fld} (h : s.rd f = 1) : s.on f = true := beq_iff_eq.mpr h

theorem State.on_eq_false {s : State} {f : Fld} (h : s.rd f ≠ 1) : s.on f = false := beq_eq_false_iff_ne.mpr h

/-! The DAC samples that clamp (R67). -/

/-- The DAC samples of quay `n` that are still to send before the instant `h` (half ns) and leave ±511. -/
def State.dacClamped (s : State) (n h : Nat) : Nat :=
  ((List.range (h - (s.quay n).dacAt)).filter (fun i =>
    decide (s.dacSum n ((s.quay n).dacAt + i) ≠ s.dacCodes n ((s.quay n).dacAt + i)))).length

/-- The amplitudes of the launches in flight on quay `n`, added. -/
def State.flightAmps (s : State) (n : Nat) : Nat := ((s.quay n).flights.map (fun f => f.plan.amp)).sum

/-- `t` records the DAC samples of quay `n` that clamp from the state `s` up to the instant `h`. -/
def ClampsCounted (s : State) (n h : Nat) (t : State) : Prop :=
  (s.flightAmps n ≤ 65535 ∨ s.dacClamped n h = 0 → t.rd (R.QY_STATUS_DAC_CLAMP n) = s.rd (R.QY_STATUS_DAC_CLAMP n) ∧
    t.rd (R.QY_CLAMP_CNT_COUNT n) = s.rd (R.QY_CLAMP_CNT_COUNT n)) ∧
  (65535 < s.flightAmps n → 0 < s.dacClamped n h → t.rd (R.QY_STATUS_DAC_CLAMP n) = 1 ∧
    t.rd (R.QY_CLAMP_CNT_COUNT n) = satAdd (R.QY_CLAMP_CNT_COUNT n).width (s.rd (R.QY_CLAMP_CNT_COUNT n)) (s.dacClamped n h))

section Clamp
variable (s : State) (n h : Nat)

theorem State.runDac_of_no_clamp (hno : s.flightAmps n ≤ 65535 ∨ s.dacClamped n h = 0) :
    s.runDac n h = s.setQuay n { s.quay n with dacAt := max (s.quay n).dacAt h } := by
  by_cases hamps : s.flightAmps n ≤ 65535
  · exact if_pos hamps
  · exact (if_neg hamps).trans (if_pos (hno.resolve_left hamps))

theorem State.runDac_of_clamp (hamps : 65535 < s.flightAmps n) (hc : 0 < s.dacClamped n h) :
    s.runDac n h = ((s.setQuay n { s.quay n with dacAt := max (s.quay n).dacAt h }).wr (R.QY_STATUS_DAC_CLAMP n) 1).addSat
      (R.QY_CLAMP_CNT_COUNT n) (s.dacClamped n h) :=
  (if_neg (Nat.not_le.mpr hamps)).trans (if_neg hc.ne')

theorem State.runDac_clampsCounted : ClampsCounted s n h (s.runDac n h) := by
  have hkey : (R.QY_STATUS_DAC_CLAMP n).key ≠ (R.QY_CLAMP_CNT_COUNT n).key := by
    simp only [R.QY_STATUS_DAC_CLAMP, R.QY_CLAMP_CNT_COUNT]
    omega
  refine ⟨fun hno => ?_, fun hamps hc => ?_⟩
  · rw [s.runDac_of_no_clamp n h hno]
    exact ⟨State.rd_setQuay .., State.rd_setQuay ..⟩
  · rw [s.runDac_of_clamp n h hamps hc]
    constructor
    · rw [State.rd_addSat_other _ _ hkey.symm, State.rd_wr_same]
      rfl
    · rw [State.rd_addSat_same, low_satAdd, State.rd_wr_other _ _ hkey, State.rd_setQuay]

end Clamp

/-- The fields that count the launches fired on quay `n`. -/
def launchFields (n : Nat) : List Fld := [R.QY_LAUNCH_LO_COUNT_LO n, R.QY_LAUNCH_HI_COUNT_HI n]

/-- The fields that the start or the end of a launch on quay `n` may move besides those that record a clamp. -/
def launchMoves (n : Nat) : List Fld := R.QY_MISS_CNT_COUNT n :: R.QY_STATUS_RUNNING n :: launchFields n

theorem launchMoves_key {n : Nat} {f g : Fld} (hf : f ∈ launchMoves n) (hg : g ∈ clampFields n) : f.key ≠ g.key := by
  simp only [launchMoves, launchFields, clampFields, List.mem_cons, List.not_mem_nil, or_false] at hf hg
  rcases hf with rfl | rfl | rfl | rfl <;> rcases hg with rfl | rfl <;>
    simp only [R.QY_MISS_CNT_COUNT, R.QY_STATUS_RUNNING, R.QY_LAUNCH_LO_COUNT_LO, R.QY_LAUNCH_HI_COUNT_HI, R.QY_STATUS_DAC_CLAMP,
      R.QY_CLAMP_CNT_COUNT] <;> omega

/-- What moves none of the fields that record a clamp leaves the record. -/
theorem ClampsCounted.onlyRegs {s t u : State} {n h : Nat} {fs : List Fld} (hc : ClampsCounted s n h t) (ho : OnlyRegs fs t u)
    (hfs : fs ⊆ launchMoves n) : ClampsCounted s n h u := by
  have hflag := ho (R.QY_STATUS_DAC_CLAMP n) fun f hf => launchMoves_key (hfs hf) (by simp [clampFields])
  have hcount := ho (R.QY_CLAMP_CNT_COUNT n) fun f hf => launchMoves_key (hfs hf) (by simp [clampFields])
  unfold ClampsCounted
  rw [hflag, hcount]
  exact hc

/-! Time moves on to an instant inside the tide, and the quay sends its samples up to it. -/

/-- Device time has moved on to `at_`, and quay `n` has sent its samples up to then. -/
def State.sentTo (s : State) (n at_ : Nat) : State := (s.advance at_).runDac n (2 * at_)

section Sent
variable (s : State) (n at_ : Nat)

theorem State.quay_sentTo_same : (s.sentTo n at_).quay n = { s.quay n with dacAt := max (s.quay n).dacAt (2 * at_) } :=
  (s.advance at_).quay_runDac_same n (2 * at_)

theorem State.quay_sentTo_other {k : Nat} (hk : k ≠ n) : (s.sentTo n at_).quay k = s.quay k :=
  (s.advance at_).quay_runDac_other n (2 * at_) hk

theorem State.sentTo_clampsCounted : ClampsCounted s n (2 * at_) (s.sentTo n at_) := (s.advance at_).runDac_clampsCounted n (2 * at_)

theorem State.sentTo_onlyRegs : OnlyRegs (clampFields n) s (s.sentTo n at_) := (s.advance at_).runDac_onlyRegs n (2 * at_)

/-- The samples sent move none of the fields that a launch itself moves. -/
theorem State.rd_sentTo {f : Fld} (hf : f ∈ launchMoves n) : (s.sentTo n at_).rd f = s.rd f :=
  s.sentTo_onlyRegs n at_ f fun _ hg => (launchMoves_key hf hg).symm

theorem State.sentTo_frame : s.sentTo n at_ = { s with
    now := max s.now at_, regs := (s.sentTo n at_).regs, quays := (s.sentTo n at_).quays } :=
  (s.advance at_).runDac_frame n (2 * at_)

end Sent

section AfterSent
variable {s t : State} {n at_ : Nat} {q : Quay} {fs : List Fld} (h : QuayMoves (s.sentTo n at_) n q fs t)
include h

theorem QuayMoves.now_of_sentTo : t.now = max s.now at_ := by
  have hframe := h.frame
  rw [SameButQuayFlights, s.sentTo_frame n at_] at hframe
  rw [hframe]

theorem QuayMoves.frame_of_sentTo : t = { s with now := t.now, regs := t.regs, quays := t.quays } := by
  have hnow := h.now_of_sentTo
  have hframe := h.frame
  rw [SameButQuayFlights, s.sentTo_frame n at_, ← hnow] at hframe
  exact hframe

theorem QuayMoves.quay_other_of_sentTo (k : Nat) (hk : k ≠ n) : t.quay k = s.quay k :=
  (h.quay_other k hk).trans (s.quay_sentTo_other n at_ hk)

theorem QuayMoves.onlyRegs_of_sentTo : OnlyRegs (fs ++ clampFields n) s t :=
  ((s.sentTo_onlyRegs n at_).mono fun _ hf => List.mem_append_right _ hf).trans (h.only.mono fun _ hf => List.mem_append_left _ hf)

theorem QuayMoves.clampsCounted_of_sentTo (hfs : fs ⊆ launchMoves n) : ClampsCounted s n (2 * at_) t :=
  (s.sentTo_clampsCounted n at_).onlyRegs h.only hfs

end AfterSent

/-! A launch starts (R63, R66, R77). -/

/-- The start of the next launch of a slot on the grid (R63). -/
def State.launchAt (s : State) (n slot : Nat) : Nat :=
  (s.activePlan n).launchTime (s.epoch n) (Tab.get 0 (s.quay n).nextK slot) slot

/-- The next launch of the slot carries code B (R66). -/
def State.launchOdd (s : State) (n slot : Nat) : Bool := Tab.get 0 (s.quay n).codeK slot % 2 == 1

/-- What the receive pipeline is to know of the next launch of the slot. -/
def State.launchFate (s : State) (n slot : Nat) : Fate :=
  let q := s.quay n
  let t := s.launchAt n slot
  { slot := slot, start := t, epoch := s.epoch n, plan := s.activePlan n, odd := s.launchOdd n slot
    lost := s.on (R.QY_STATUS_STOPPED n) || (s.link n).retraining || s.quayClockLost
    settle := decide (q.settleFrom ≤ t ∧ t < q.settleTo), first := Tab.get 0 q.codeK slot == 0
    gauge := s.rd (R.RX_CFG_ACT_GAUGE n), pol := s.rd (R.RX_CFG_ACT_POL n), polw := s.rd (R.RX_CFG_ACT_POLW n)
    shift := s.rd (R.RX_CFG_ACT_OFS_SHIFT n) }

/-- Quay `n` once the next launch of the slot is due: the schedule of the slot has moved on. -/
def State.launchTaken (s : State) (n slot : Nat) : Quay :=
  let q := s.quay n
  let t := s.launchAt n slot
  { (s.sentTo n t).quay n with
    nextK := Tab.put 0 q.nextK slot (Tab.get 0 q.nextK slot + 1), codeK := Tab.put 0 q.codeK slot (Tab.get 0 q.codeK slot + 1)
    leads := q.leads.filter (fun e => e != (slot, t))
    fates := s.launchFate n slot :: q.fates.filter (fun f => decide (t ≤ f.start + 2 * f.plan.launchPeriod + 1048576)) }

/-- Quay `n` once the next launch of the slot is fired: it is in flight until its last sample, and the gate stays high LAG longer (R72). -/
def State.launchFired (s : State) (n slot : Nat) (phase : Rat) : Quay :=
  let t := s.launchAt n slot
  let stop := t + (s.activePlan n).codeNs
  { s.launchTaken n slot with
    flights := (s.quay n).flights ++ [⟨slot, t, s.activePlan n, s.launchOdd n slot, stop, phase⟩]
    gateUntil := max (s.quay n).gateUntil (stop + 4 * s.rd (R.QY_LGA_CFG_LAG n)) }

/-- The state after the next launch of the slot is missed. -/
def State.afterMiss (s : State) (n slot : Nat) : State :=
  ((s.sentTo n (s.launchAt n slot)).setQuay n (s.launchTaken n slot)).inc (R.QY_MISS_CNT_COUNT n)

/-- The state after the next launch of the slot is fired. -/
def State.afterFire (s : State) (n slot : Nat) (phase : Rat) : State :=
  ((s.sentTo n (s.launchAt n slot)).setQuay n (s.launchFired n slot phase)).wrPair (R.QY_LAUNCH_LO_COUNT_LO n) (R.QY_LAUNCH_HI_COUNT_HI n)
    (s.rdPair (R.QY_LAUNCH_LO_COUNT_LO n) (R.QY_LAUNCH_HI_COUNT_HI n) + 1)

theorem exec_launchStart {s : State} (hs : s.runs) {n : Fin 8} {slot : Fin 16} (phase : Rat) (hg : (s.quay n).grid = true)
    (hslot : slot.val < (s.activePlan n).slots) (hin : s.launchAt n slot < nextBoundary s.now) :
    exec (.launchStart n slot phase) s =
      .next (if s.on (R.QY_STATUS_STOPPED n) then s.afterMiss n slot else s.afterFire n slot phase) := by
  show execLaunchStart n slot phase s = _
  rw [execLaunchStart, State.live_runs hs]
  exact (if_pos ⟨hg, hslot, decide_eq_true hin⟩).trans (apply_ite goOn ..).symm

theorem State.afterMiss_moves (s : State) (n slot : Nat) :
    QuayMoves (s.sentTo n (s.launchAt n slot)) n (s.launchTaken n slot) [R.QY_MISS_CNT_COUNT n] (s.afterMiss n slot) :=
  (QuayMoves.setQuay ..).wr (List.mem_singleton_self _) _

theorem State.afterFire_moves (s : State) (n slot : Nat) (phase : Rat) :
    QuayMoves (s.sentTo n (s.launchAt n slot)) n (s.launchFired n slot phase) (launchFields n) (s.afterFire n slot phase) :=
  ((QuayMoves.setQuay ..).wr (by simp [launchFields]) _).wr (by simp [launchFields]) _

theorem State.rd_afterMiss (s : State) (n slot : Nat) : (s.afterMiss n slot).rd (R.QY_MISS_CNT_COUNT n) =
    satAdd (R.QY_MISS_CNT_COUNT n).width (s.rd (R.QY_MISS_CNT_COUNT n)) 1 := by
  rw [State.afterMiss, State.rd_inc_same, low_satAdd, State.rd_setQuay, State.rd_sentTo _ _ _ (by simp [launchMoves])]

theorem State.rd_afterFire (s : State) (n slot : Nat) (phase : Rat) : (s.afterFire n slot phase).rd (R.QY_LAUNCH_LO_COUNT_LO n) =
    low 32 (s.rd (R.QY_LAUNCH_LO_COUNT_LO n) + 2 ^ 32 * s.rd (R.QY_LAUNCH_HI_COUNT_HI n) + 1) := by
  rw [State.afterFire, State.wrPair, State.rd_wr_other _ _ (by simp only [R.QY_LAUNCH_HI_COUNT_HI, R.QY_LAUNCH_LO_COUNT_LO]; omega),
    State.rd_wr_same]
  rfl

theorem State.launchTaken_nextK (s : State) (n slot j : Nat) : Tab.get 0 (s.launchTaken n slot).nextK j =
    if slot = j then Tab.get 0 (s.quay n).nextK slot + 1 else Tab.get 0 (s.quay n).nextK j := by
  rw [State.launchTaken, Tab.get_put]

/-- What a launch that is due leaves, missed or fired: the instant, the slot's schedule and what is recorded of it. -/
structure LaunchDue (s : State) (n slot : Nat) (t : State) : Prop where
  now : t.now = max s.now (s.launchAt n slot)
  moved : Tab.get 0 (t.quay n).nextK slot = Tab.get 0 (s.quay n).nextK slot + 1
  kept : ∀ j, j ≠ slot → Tab.get 0 (t.quay n).nextK j = Tab.get 0 (s.quay n).nextK j
  clamps : ClampsCounted s n (2 * s.launchAt n slot) t
  fate : (t.quay n).fates.head? = some (s.launchFate n slot)
  others : ∀ j, j ≠ n → t.quay j = s.quay j
  frame : t = { s with now := t.now, regs := t.regs, quays := t.quays }

theorem QuayMoves.launchDue {s t : State} {n slot : Nat} {q : Quay} {fs : List Fld} (h : QuayMoves (s.sentTo n (s.launchAt n slot)) n q fs t)
    (hnext : q.nextK = (s.launchTaken n slot).nextK) (hfates : q.fates = (s.launchTaken n slot).fates)
    (hfs : fs ⊆ launchMoves n) : LaunchDue s n slot t where
  now := h.now_of_sentTo
  moved := by rw [h.quay_same, hnext, s.launchTaken_nextK, if_pos rfl]
  kept j hj := by rw [h.quay_same, hnext, s.launchTaken_nextK, if_neg (Ne.symm hj)]
  clamps := h.clampsCounted_of_sentTo hfs
  fate := by rw [h.quay_same, hfates]; rfl
  others := h.quay_other_of_sentTo
  frame := h.frame_of_sentTo

section Start
variable (s : State) (n slot : Nat)

theorem State.afterMiss_due : LaunchDue s n slot (s.afterMiss n slot) := (s.afterMiss_moves n slot).launchDue rfl rfl (by simp [launchMoves])

theorem State.afterFire_due (phase : Rat) : LaunchDue s n slot (s.afterFire n slot phase) :=
  (s.afterFire_moves n slot phase).launchDue rfl rfl (by simp [launchMoves])

/-- A missed launch leaves the launches in flight and the gate. -/
theorem State.quay_afterMiss : ((s.afterMiss n slot).quay n).flights = (s.quay n).flights ∧
    ((s.afterMiss n slot).quay n).gateUntil = (s.quay n).gateUntil := by
  have hsent := s.quay_sentTo_same n (s.launchAt n slot)
  rw [(s.afterMiss_moves n slot).quay_same, State.launchTaken, hsent]
  exact ⟨rfl, rfl⟩

end Start

/-- R63, R66, R67, R77: what the start of a launch leaves. -/
theorem launchStart_follows_grid {s : State} (hs : s.runs) {n : Fin 8} {slot : Fin 16} (phase : Rat) (hg : (s.quay n).grid = true)
    (hslot : slot.val < (s.activePlan n).slots) (hin : s.launchAt n slot < nextBoundary s.now) :
    ∃ t, exec (.launchStart n slot phase) s = .next t ∧ LaunchDue s n slot t ∧
      (s.rd (R.QY_STATUS_STOPPED n) = 1 → t = s.afterMiss n slot) ∧ (s.rd (R.QY_STATUS_STOPPED n) ≠ 1 → t = s.afterFire n slot phase) := by
  have hexec := exec_launchStart hs phase hg hslot hin
  by_cases hstop : s.rd (R.QY_STATUS_STOPPED n) = 1
  · rw [State.on_eq_true hstop] at hexec
    exact ⟨_, hexec, s.afterMiss_due n slot, fun _ => rfl, fun h => absurd hstop h⟩
  · rw [State.on_eq_false hstop] at hexec
    exact ⟨_, hexec, s.afterFire_due n slot phase, fun h => absurd h hstop, fun _ => rfl⟩

/-! A launch ends (R74). -/

/-- No launch is in flight, no grid runs and no new epoch waits. -/
def Quay.idle (q : Quay) : Bool := q.flights.isEmpty && !q.grid && q.newEpoch.isNone

theorem Quay.idle_iff {q : Quay} : q.idle = true ↔ q.flights = [] ∧ q.grid = false ∧ q.newEpoch = none := by
  simp [Quay.idle, and_assoc]

/-- Quay `n` once the launch `f` is complete. -/
def State.launchEnded (s : State) (n : Nat) (f : Flight) : Quay :=
  { (s.sentTo n f.until_).quay n with flights := ((s.sentTo n f.until_).quay n).flights.filter (fun g => g != f) }

theorem State.launchEnded_eq (s : State) (n : Nat) (f : Flight) : s.launchEnded n f =
    { s.quay n with dacAt := max (s.quay n).dacAt (2 * f.until_), flights := (s.quay n).flights.filter (fun g => g != f) } := by
  rw [State.launchEnded, s.quay_sentTo_same n f.until_]

/-- The state after the launch `f` is complete: the end of the last one clears RUNNING once the grid has ended. -/
def State.afterEnd (s : State) (n : Nat) (f : Flight) : State :=
  let t := (s.sentTo n f.until_).setQuay n (s.launchEnded n f)
  if (s.launchEnded n f).idle then t.wr (R.QY_STATUS_RUNNING n) 0 else t

theorem exec_launchEnd {s : State} (hs : s.runs) {n : Fin 8} {slot : Fin 16} {f : Flight}
    (hf : (s.quay n).flights.find? (fun f => f.slot == slot.val) = some f) (hin : f.until_ < nextBoundary s.now) :
    exec (.launchEnd n slot) s = .next (s.afterEnd n f) := by
  show execLaunchEnd n slot s = _
  rw [execLaunchEnd, State.live_runs hs]
  simp only [hf]
  refine (if_pos (decide_eq_true hin)).trans (congrArg goOn (if_congr ?_ rfl rfl))
  show _ ↔ (s.launchEnded n f).idle = true
  simp [Quay.idle, State.launchEnded, State.sentTo, and_assoc]

section End
variable (s : State) (n : Nat) (f : Flight)

theorem State.afterEnd_moves : QuayMoves (s.sentTo n f.until_) n (s.launchEnded n f) [R.QY_STATUS_RUNNING n] (s.afterEnd n f) :=
  .ite ((QuayMoves.setQuay ..).wr (List.mem_singleton_self _) _) (.setQuay ..)

theorem State.rd_afterEnd_running : (s.afterEnd n f).rd (R.QY_STATUS_RUNNING n) =
    if (s.launchEnded n f).idle then 0 else s.rd (R.QY_STATUS_RUNNING n) := by
  rw [State.afterEnd, State.rd_ite, State.rd_wr_same, State.rd_setQuay, State.rd_sentTo _ _ _ (by simp [launchMoves])]
  rfl

end End

/-- R67, R74: what the end of a launch leaves; RUNNING stays while a new epoch waits (log entry 27). -/
theorem launchEnd_ends {s : State} (hs : s.runs) {n : Fin 8} {slot : Fin 16} {f : Flight}
    (hf : (s.quay n).flights.find? (fun f => f.slot == slot.val) = some f) (hin : f.until_ < nextBoundary s.now) :
    ∃ t, exec (.launchEnd n slot) s = .next t ∧ t.now = max s.now f.until_ ∧
      (t.quay n).flights = (s.quay n).flights.filter (fun g => g != f) ∧ ClampsCounted s n (2 * f.until_) t ∧
      ((t.quay n).flights = [] → (s.quay n).grid = false → (s.quay n).newEpoch = none → t.rd (R.QY_STATUS_RUNNING n) = 0) ∧
      ((t.quay n).flights ≠ [] ∨ (s.quay n).grid = true ∨ (s.quay n).newEpoch ≠ none →
        t.rd (R.QY_STATUS_RUNNING n) = s.rd (R.QY_STATUS_RUNNING n)) ∧
      OnlyRegs (R.QY_STATUS_RUNNING n :: clampFields n) s t ∧ (∀ j, j ≠ n.val → t.quay j = s.quay j) ∧
      t = { s with now := t.now, regs := t.regs, quays := t.quays } := by
  have hmoves := s.afterEnd_moves n f
  have hidle : (s.launchEnded n f).idle = true ↔
      ((s.afterEnd n f).quay n).flights = [] ∧ (s.quay n).grid = false ∧ (s.quay n).newEpoch = none := by
    rw [hmoves.quay_same, Quay.idle_iff, s.launchEnded_eq]
  refine ⟨_, exec_launchEnd hs hf hin, hmoves.now_of_sentTo, ?_, hmoves.clampsCounted_of_sentTo (by simp [launchMoves]),
    fun hnone hgrid hepoch => ?_, fun hmore => ?_, hmoves.onlyRegs_of_sentTo, hmoves.quay_other_of_sentTo, hmoves.frame_of_sentTo⟩
  · rw [hmoves.quay_same, s.launchEnded_eq]
  · rw [s.rd_afterEnd_running, if_pos (hidle.mpr ⟨hnone, hgrid, hepoch⟩)]
  · rw [s.rd_afterEnd_running, if_neg]
    intro h
    obtain ⟨hnone, hgrid, hepoch⟩ := hidle.mp h
    simp [hnone, hgrid, hepoch] at hmore

/-! The gate of the amplifier (R72). -/

theorem State.nextFired_of_grid {s : State} {n : Nat} (slot : Nat) (hg : (s.quay n).grid = true) (hstop : s.rd (R.QY_STATUS_STOPPED n) ≠ 1) :
    s.nextFired n slot = some (s.launchAt n slot, s.activePlan n) := by
  rw [State.nextFired, if_pos hg, State.on_eq_false hstop]
  rfl

theorem State.nextFired_of_startsAhead {s : State} {n : Nat} (slot : Nat) (hg : (s.quay n).grid = false) (hahead : s.startsAhead n = true) :
    s.nextFired n slot = some ((s.planAhead n).launchTime (nextBoundary s.now) 0 slot, s.planAhead n) := by
  rw [State.nextFired, if_neg (by simp [hg]), if_pos hahead]

/-- Quay `n` once the gate has risen for the launch of the slot at `t0`. -/
def State.gateRisen (s : State) (n slot t0 : Nat) : Quay :=
  { s.quay n with leads := (s.quay n).leads.filter (fun e => decide (s.now ≤ e.2)) ++ [(slot, t0)], gateUntil := max (s.quay n).gateUntil t0 }

theorem exec_lgateARise {s : State} (hs : s.runs) {n : Fin 8} {slot : Fin 16} {t0 : Nat} {p : Plan} (hnext : s.nextFired n slot = some (t0, p))
    (hslot : slot.val < p.slots) (hin : t0 - 4 * s.rd (R.QY_LGA_CFG_LEAD n) < nextBoundary s.now) (hnew : (slot.val, t0) ∉ (s.quay n).leads) :
    exec (.lgateARise n slot) s =
      .next ((s.advance (t0 - 4 * s.rd (R.QY_LGA_CFG_LEAD n))).setQuay n (s.gateRisen n slot t0)) := by
  show execLgateARise n slot s = _
  rw [execLgateARise, State.live_runs hs]
  simp only [hnext]
  exact if_pos ⟨hslot, decide_eq_true hin, by simpa using hnew⟩

/-! The pulses of the Raman gate (R73). -/

/-- Quay `n` once a pulse of LGATE_T is due: the grid moves on, and the pulse is given unless WIDTH is below 2 or ARMED is 0. -/
def State.pulseGiven (s : State) (n : Nat) : Quay :=
  let q := s.quay n
  let q1 : Quay := { q with lgtNext := q.lgtNext + 4 * q.lgtPeriod }
  let e := 256 * q.lgtNext + s.rd (R.QY_LGT_DLY_DLY n)
  if q.lgtWidth < 2 ∨ s.rd (R.QY_STATUS_ARMED n) ≠ 1 then q1
  else { q1 with lgtEdge := e, lgtFall := e + 128 * q.lgtWidth, lgtPulses := q.lgtPulses + 1 }

theorem exec_lgateTPulse {s : State} (hs : s.runs) {n : Fin 8} (hen : (s.quay n).lgtEn = true) (hin : (s.quay n).lgtNext < nextBoundary s.now) :
    exec (.lgateTPulse n) s = .next ((s.advance (s.quay n).lgtNext).setQuay n (s.pulseGiven n)) := by
  show execLgateTPulse n s = _
  rw [execLgateTPulse, State.live_runs hs]
  refine (if_pos ⟨hen, decide_eq_true hin⟩).trans (congrArg (fun q => goOn ((s.advance (s.quay n).lgtNext).setQuay n q)) (if_congr ?_ rfl rfl))
  simp [State.on]

section Pulse
variable (s : State) (n : Nat)

theorem State.pulseGiven_next : (s.pulseGiven n).lgtNext = (s.quay n).lgtNext + 4 * (s.quay n).lgtPeriod := by
  rw [State.pulseGiven]
  split <;> rfl

theorem State.pulseGiven_high (hwidth : 2 ≤ (s.quay n).lgtWidth) (harmed : s.rd (R.QY_STATUS_ARMED n) = 1) :
    (s.pulseGiven n).lgtPulses = (s.quay n).lgtPulses + 1 ∧
      (s.pulseGiven n).lgtEdge = 256 * (s.quay n).lgtNext + s.rd (R.QY_LGT_DLY_DLY n) ∧
      (s.pulseGiven n).lgtFall = (s.pulseGiven n).lgtEdge + 128 * (s.quay n).lgtWidth := by
  rw [State.pulseGiven, if_neg (by omega)]
  exact ⟨rfl, rfl, rfl⟩

theorem State.pulseGiven_low (h : (s.quay n).lgtWidth < 2 ∨ s.rd (R.QY_STATUS_ARMED n) ≠ 1) :
    (s.pulseGiven n).lgtPulses = (s.quay n).lgtPulses := by
  rw [State.pulseGiven, if_pos h]

end Pulse

/-- Time moves on and one quay moves: the instant, the quay, the others and the frame. -/
theorem State.advance_setQuay (s : State) (at_ n : Nat) (q : Quay) :
    let t := (s.advance at_).setQuay n q
    t.now = max s.now at_ ∧ t.quay n = q ∧ (∀ j, j ≠ n → t.quay j = s.quay j) ∧ t = { s with now := t.now, quays := t.quays } :=
  ⟨rfl, State.quay_setQuay_same .., fun _ hj => State.quay_setQuay_other _ _ hj, rfl⟩

theorem lgateARise_rises {s : State} (hs : s.runs) {n : Fin 8} {slot : Fin 16} {t0 : Nat} {p : Plan} (hnext : s.nextFired n slot = some (t0, p))
    (hslot : slot.val < p.slots) (hin : t0 - 4 * s.rd (R.QY_LGA_CFG_LEAD n) < nextBoundary s.now) (hnew : (slot.val, t0) ∉ (s.quay n).leads) :
    ∃ t, exec (.lgateARise n slot) s = .next t ∧ t.now = max s.now (t0 - 4 * s.rd (R.QY_LGA_CFG_LEAD n)) ∧ (slot.val, t0) ∈ (t.quay n).leads ∧
      t.quay n = { s.quay n with leads := (t.quay n).leads, gateUntil := max (s.quay n).gateUntil t0 } ∧
      (∀ j, j ≠ n.val → t.quay j = s.quay j) ∧ t = { s with now := t.now, quays := t.quays } := by
  obtain ⟨hnow, hquay, hothers, hframe⟩ := s.advance_setQuay (t0 - 4 * s.rd (R.QY_LGA_CFG_LEAD n)) n (s.gateRisen n slot t0)
  refine ⟨_, exec_lgateARise hs hnext hslot hin hnew, hnow, ?_, ?_, hothers, hframe⟩
  · rw [hquay]
    exact List.mem_append_right _ (List.mem_singleton_self _)
  · rw [hquay]
    rfl

theorem lgateTPulse_moves_on {s : State} (hs : s.runs) {n : Fin 8} (hen : (s.quay n).lgtEn = true)
    (hin : (s.quay n).lgtNext < nextBoundary s.now) :
    ∃ t, exec (.lgateTPulse n) s = .next t ∧ t.now = max s.now (s.quay n).lgtNext ∧ t.quay n = s.pulseGiven n ∧
      (∀ j, j ≠ n.val → t.quay j = s.quay j) ∧ t = { s with now := t.now, quays := t.quays } :=
  ⟨_, exec_lgateTPulse hs hen hin, s.advance_setQuay _ _ _⟩

/-- Settles O21: launches, their ends, the gate's rises and the Raman pulses, each by what it leaves. -/
theorem launchesFollowTheGrid : Obligations.LaunchesFollowTheGrid := by
  intro n slot phase s hs clamped amps counts
  refine ⟨?_, fun f hf hin => launchEnd_ends hs hf hin, State.nextFired_of_grid slot, State.nextFired_of_startsAhead slot,
    fun t0 p => lgateARise_rises hs, fun hen hin => ?_⟩
  · rintro p k t0 rfl rfl rfl hg hslot hin
    obtain ⟨t, hexec, hdue, hmiss, hfire⟩ := launchStart_follows_grid hs phase hg hslot hin
    refine ⟨t, hexec, hdue.now, hdue.moved, hdue.kept, hdue.clamps, ⟨_, hdue.fate, rfl, rfl, rfl, rfl⟩, fun hstop => ?_, fun hrun => ?_,
      hdue.others, hdue.frame⟩
    · rw [hmiss hstop]
      obtain ⟨hflights, hgate⟩ := s.quay_afterMiss n slot
      exact ⟨hflights, hgate, s.rd_afterMiss n slot, (s.afterMiss_moves n slot).onlyRegs_of_sentTo⟩
    · rw [hfire hrun]
      have hmoves := s.afterFire_moves n slot phase
      rw [hmoves.quay_same]
      exact ⟨rfl, rfl, s.rd_afterFire n slot phase, hmoves.onlyRegs_of_sentTo⟩
  · obtain ⟨t, hexec, hnow, hquay, hothers, hframe⟩ := lgateTPulse_moves_on hs hen hin
    exact ⟨t, hexec, hnow, hquay ▸ s.pulseGiven_next n, fun hw ha => hquay ▸ s.pulseGiven_high n hw ha,
      fun h => hquay ▸ s.pulseGiven_low n h, hothers, hframe⟩

end Sys2Proof.Machine
end

section
/-! SUPPORT. Segments of the receive pipeline: their close, replay and loss, and the noise estimate (R92, R97, R102, R104 to R106): statement O24. -/

namespace Sys2Proof.Machine

/-! The registers that tell how the segments stand, in groups of which one operation moves one. -/

/-- What a register field tells about segments: how far the replay queue is filled, how many replays ended, how many found no room, how many segments
closed, residue mismatches, segments lost, and errors of the recompute ring (Tables 4.6 and 4.7). -/
inductive SegGroup where
  | level | replays | dropped | closed | residues | lost | ring

/-- The fields of a group for quay `n`. -/
def SegGroup.fields (n : Nat) : SegGroup → List Fld
  | level => [R.RX_REPLAY_STATUS_LEVEL, R.RX_REPLAY_STATUS_PEAK]
  | replays => [R.RX_REPLAY_CNT_COUNT]
  | dropped => [R.RX_REPLAY_DROP_COUNT]
  | closed => [R.RX_SEG_LO_COUNT_LO n, R.RX_SEG_HI_COUNT_HI n]
  | residues => [R.RX_STATUS_RESIDUE n, R.RX_RESIDUE_CNT_COUNT n]
  | lost => [R.RX_STATUS_LOST_SEG n, R.RX_LOST_SEG_CNT_COUNT n, R.RX_LOST_AT_LO_TIME_LO n, R.RX_LOST_AT_HI_TIME_HI n]
  | ring => [R.RX_STATUS_RING_PARITY n, R.RX_PARITY_CNT_RING n]

/-- All groups. -/
def SegGroup.all : List SegGroup := [level, replays, dropped, closed, residues, lost, ring]

theorem SegGroup.mem_all (a : SegGroup) : a ∈ all := by cases a <;> simp [all]

/-- No field of one group lies where a field of the other does. -/
def SegGroup.Apart (n : Nat) (a b : SegGroup) : Prop := ∀ f ∈ a.fields n, ∀ g ∈ b.fields n, f.key ≠ g.key

theorem SegGroup.all_apart : ∀ n < 8, all.Pairwise (Apart n) := by
  unfold Apart
  decide +kernel

theorem SegGroup.all_below_sluice : ∀ n < 8, ∀ a ∈ all, ∀ f ∈ a.fields n, f.key < 8 * 0x504000 := by
  decide +kernel

theorem SegGroup.apart {n : Nat} (hn : n < 8) {a b : SegGroup} (hab : a ≠ b) {f g : Fld} (hf : f ∈ a.fields n) (hg : g ∈ b.fields n) :
    f.key ≠ g.key :=
  have _hsymm : Std.Symm (Apart n) := ⟨fun _ _ h g hg f hf => (h f hf g hg).symm⟩
  (all_apart n hn).forall a.mem_all b.mem_all hab f hf g hg

/-- Registers from the Sluice's on, the Tugs' among them, tell nothing about segments. -/
theorem SegGroup.apart_of_sluice {n : Nat} (hn : n < 8) {a : SegGroup} {f g : Fld} (hf : 8 * 0x504000 ≤ f.key) (hg : g ∈ a.fields n) :
    f.key ≠ g.key :=
  (lt_of_lt_of_le (all_below_sluice n hn a a.mem_all g hg) hf).ne'

/-- The fields that a point or a sample of quay `n` on its way through the slice may move. -/
def pathFields (n : Nat) : List Fld :=
  (List.range 4).map (R.RX_CLIP_CNT_l_COUNT n) ++ [R.RX_STATUS_CLIP n, R.RX_STATUS_PSM_PARITY n, R.RX_PARITY_CNT_PSM n, R.RX_NOISE_X n,
    R.RX_NOISE_Y n, R.RX_LOST_PS_CNT_COUNT n, R.RX_FADE_CNT_COUNT n]

theorem SegGroup.all_apart_of_path : ∀ n < 8, ∀ a ∈ all, ∀ f ∈ pathFields n, ∀ g ∈ a.fields n, f.key ≠ g.key := by
  decide +kernel

theorem SegGroup.apart_of_path {n : Nat} (hn : n < 8) {a : SegGroup} {f g : Fld} (hf : f ∈ pathFields n) (hg : g ∈ a.fields n) :
    f.key ≠ g.key :=
  all_apart_of_path n hn a a.mem_all f hf g hg

/-- The fields of group `a` for quay `n` read in `t` as they do in `s`. -/
def KeepsGroup (n : Nat) (a : SegGroup) (s t : State) : Prop := ∀ f ∈ a.fields n, t.rd f = s.rd f

section Keeps
variable {n : Nat} {a b : SegGroup} {s t u : State}

theorem KeepsGroup.refl : KeepsGroup n a s s := fun _ _ => rfl

theorem KeepsGroup.trans (h : KeepsGroup n a s t) (h' : KeepsGroup n a t u) : KeepsGroup n a s u := fun f hf => (h' f hf).trans (h f hf)

theorem KeepsGroup.of_regs (h : KeepsGroup n a s t) (hregs : u.regs = t.regs) : KeepsGroup n a s u := fun f hf =>
  (State.rd_congr hregs f).trans (h f hf)

theorem KeepsGroup.wr (h : KeepsGroup n a s t) {f : Fld} (hf : ∀ g ∈ a.fields n, f.key ≠ g.key) (v : Nat) : KeepsGroup n a s (t.wr f v) :=
  fun g hg => (t.rd_wr_other v (hf g hg)).trans (h g hg)

theorem KeepsGroup.wr_group (hn : n < 8) (hba : b ≠ a) (h : KeepsGroup n a s t) {f : Fld} (hf : f ∈ b.fields n) (v : Nat) :
    KeepsGroup n a s (t.wr f v) :=
  h.wr (fun _ => SegGroup.apart hn hba hf) v

end Keeps

/-! What receive operations change besides registers. -/

/-- From `s` to `t` only registers, the slice of quay `n`, and the corner turns and coils of the berths move. -/
structure RxMoves (n : Nat) (s t : State) : Prop where
  others : ∀ k, k ≠ n → t.rxOf k = s.rxOf k
  frame : t = { s with regs := t.regs, rx := t.rx, das := t.das, flow := t.flow }

@[simp] theorem State.rxOf_setRx_same (s : State) (n : Nat) (x : RxSlice) : (s.setRx n x).rxOf n = x := Tab.get_put_same ..

theorem State.rxOf_setRx_other (s : State) {n k : Nat} (x : RxSlice) (h : k ≠ n) : (s.setRx n x).rxOf k = s.rxOf k :=
  Tab.get_put_other _ _ _ _ (Ne.symm h)

@[simp] theorem State.rxOf_wr (s : State) (f : Fld) (v k : Nat) : (s.wr f v).rxOf k = s.rxOf k := rfl

@[simp] theorem State.rd_setRx (s : State) (n : Nat) (x : RxSlice) (f : Fld) : (s.setRx n x).rd f = s.rd f := rfl

section Moves
variable {n : Nat} {s t u : State}

theorem RxMoves.refl : RxMoves n s s := ⟨fun _ _ => rfl, rfl⟩

theorem RxMoves.trans (h : RxMoves n s t) (h' : RxMoves n t u) : RxMoves n s u := by
  refine ⟨fun k hk => (h'.others k hk).trans (h.others k hk), ?_⟩
  rw [h'.frame, h.frame]

theorem RxMoves.regs (h : RxMoves n s t) (hu : SameButRegs t u) : RxMoves n s u := by
  refine h.trans ⟨fun k _ => ?_, ?_⟩
  · rw [hu]
    rfl
  · rw [hu]

theorem RxMoves.setRx (h : RxMoves n s t) (x : RxSlice) : RxMoves n s (t.setRx n x) :=
  h.trans ⟨fun _ hk => t.rxOf_setRx_other x hk, rfl⟩

theorem RxMoves.wr (h : RxMoves n s t) (f : Fld) (v : Nat) : RxMoves n s (t.wr f v) := h.trans ⟨fun _ _ => rfl, rfl⟩

theorem RxMoves.setDas (h : RxMoves n s t) (b : Nat) (d : Das) : RxMoves n s (t.setDas b d) := h.trans ⟨fun _ _ => rfl, rfl⟩

theorem RxMoves.setFlow (h : RxMoves n s t) (b : Nat) (f : Flow) : RxMoves n s (t.setFlow b f) := h.trans ⟨fun _ _ => rfl, rfl⟩

theorem RxMoves.replayQ (h : RxMoves n s t) : t.replayQ = s.replayQ := by rw [h.frame]

/-- The replay queue plays no part in a receive move. -/
theorem RxMoves.withQueue (h : RxMoves n s t) (q : List Replay) : RxMoves n { s with replayQ := q } { t with replayQ := q } := by
  refine ⟨h.others, ?_⟩
  rw [h.frame]

theorem RxMoves.withOwnQueue (h : RxMoves n s t) : RxMoves n { s with replayQ := t.replayQ } t := by
  rw [h.replayQ]
  exact h

/-- What the Shed holds plays no part in a receive move. -/
theorem RxMoves.withShed (h : RxMoves n s t) (m : Tab Byte) (bad : Tab Bool) :
    RxMoves n { s with shed := m, shedBad := bad } { t with shed := m, shedBad := bad } := by
  refine ⟨h.others, ?_⟩
  rw [h.frame]

end Moves

/-! Samples and points on their way through the slice. -/

/-- What a slice holds about its segments: those of earlier epochs that are still to close, the number skipped, and those that wait for replay. -/
def RxSlice.segments (x : RxSlice) : List (Nat × Nat × Nat) × Nat × List Seg := (x.tails, x.skipped, x.waiting)

/-- From `s` to `t` samples and points of quay `n` take their way: its segments stand as before. -/
structure PathWork (n : Nat) (s t : State) : Prop extends RxMoves n s t where
  segments : (t.rxOf n).segments = (s.rxOf n).segments
  keeps : ∀ a, KeepsGroup n a s t

section Path
variable {n : Nat} {s t u : State}

theorem PathWork.refl : PathWork n s s := ⟨.refl, rfl, fun _ => .refl⟩

theorem PathWork.trans (h : PathWork n s t) (h' : PathWork n t u) : PathWork n s u :=
  ⟨h.toRxMoves.trans h'.toRxMoves, h'.segments.trans h.segments, fun a => (h.keeps a).trans (h'.keeps a)⟩

theorem PathWork.ite {c : Prop} [Decidable c] (ht : PathWork n s t) (hu : PathWork n s u) : PathWork n s (if c then t else u) := by
  split <;> assumption

theorem PathWork.foldl {β : Type} {step : State → β → State} {l : List β} (h : PathWork n s t)
    (hstep : ∀ v, ∀ x ∈ l, PathWork n v (step v x)) : PathWork n s (l.foldl step t) :=
  List.foldlRecOn l step h fun v hv x hx => hv.trans (hstep v x hx)

theorem PathWork.setRx (h : PathWork n s t) {x : RxSlice} (hx : x.segments = (t.rxOf n).segments) : PathWork n s (t.setRx n x) :=
  ⟨h.toRxMoves.setRx x, by rw [State.rxOf_setRx_same, hx, h.segments], h.keeps⟩

theorem PathWork.setDas (h : PathWork n s t) (b : Nat) (d : Das) : PathWork n s (t.setDas b d) := ⟨h.toRxMoves.setDas b d, h.segments, h.keeps⟩

theorem PathWork.setFlow (h : PathWork n s t) (b : Nat) (f : Flow) : PathWork n s (t.setFlow b f) := ⟨h.toRxMoves.setFlow b f, h.segments, h.keeps⟩

theorem PathWork.withShed (h : PathWork n s t) (m : Tab Byte) (bad : Tab Bool) :
    PathWork n { s with shed := m, shedBad := bad } { t with shed := m, shedBad := bad } :=
  ⟨h.toRxMoves.withShed m bad, h.segments, h.keeps⟩

variable (hn : n < 8)
include hn

theorem PathWork.wr (h : PathWork n s t) {f : Fld} (hf : f ∈ pathFields n) (v : Nat) : PathWork n s (t.wr f v) :=
  ⟨h.toRxMoves.wr f v, h.segments, fun a => (h.keeps a).wr (fun _ => SegGroup.apart_of_path hn hf) v⟩

theorem PathWork.wr_sluice (h : PathWork n s t) {f : Fld} (hf : 8 * 0x504000 ≤ f.key) (v : Nat) : PathWork n s (t.wr f v) :=
  ⟨h.toRxMoves.wr f v, h.segments, fun a => (h.keeps a).wr (fun _ => SegGroup.apart_of_sluice hn hf) v⟩

theorem PathWork.psmError (h : PathWork n s t) : PathWork n s (t.psmError n) :=
  (h.wr hn (by simp [pathFields]) _).wr hn (by simp [pathFields]) _

theorem PathWork.noiseStep (h : PathWork n s t) (c : Compressed) : PathWork n s (t.noiseStep n c) := by
  unfold State.noiseStep
  extract_lets
  refine h.ite (PathWork.ite (h.setRx (by rfl)) (((h.setRx (by rfl)).wr hn ?_ _).wr hn ?_ _)) <;> simp [pathFields]

theorem PathWork.commitOut (h : PathWork n s t) (get : Nat → AdcSample) (f : Fate) (point : Nat) : PathWork n s (t.commitOut n get f point) := by
  unfold State.commitOut
  extract_lets +onlyGivenNames p x key lost vx vy e bad alone c code s1
  have h1 : PathWork n s s1 := h.setRx rfl
  exact (PathWork.ite (h1.psmError hn) h1).noiseStep hn c

theorem PathWork.commitSeg (h : PathWork n s t) (g : Seg) (get : Nat → AdcSample) : PathWork n s (t.commitSeg n g get) := by
  refine h.foldl fun v r _ => ?_
  split
  · exact .refl
  · refine PathWork.refl.foldl fun u sl _ => ?_
    split
    · exact PathWork.refl.commitOut hn get _ _
    · exact .refl

/-! The corner turn of a berth. -/

theorem PathWork.cornerSample (h : PathWork n s t) (b i phase tags qual t2 : Nat) : PathWork n s (t.cornerSample b i phase tags qual t2) := by
  unfold State.cornerSample
  extract_lets
  refine PathWork.ite ((h.setDas b _).ite ?_) (h.setDas b _)
  refine (((h.setDas b _).wr_sluice hn ?_ _).wr_sluice hn ?_ _).wr_sluice hn ?_ _
  all_goals simp only [R.RX_SL_STATUS_STAGE_OVF, R.RX_BT_i_STATUS_STAGE_OVF, R.RX_SL_STAGE_OVF_CNT_COUNT]; omega

theorem PathWork.cornerPoint (h : PathWork n s t) (b : Nat) (pl : Plan) (start q word : Nat) : PathWork n s (t.cornerPoint b pl start q word) := by
  unfold State.cornerPoint
  extract_lets
  exact h.ite (PathWork.ite ((h.cornerSample hn _ _ _ _ _ _).ite h) ((h.setDas b _).ite ((h.setDas b _).cornerSample hn _ _ _ _ _ _)))

theorem PathWork.coilPoint (h : PathWork n s t) (b : Nat) (pl : Plan) (start q word : Nat) : PathWork n s (t.coilPoint b pl start q word) := by
  unfold State.coilPoint
  extract_lets
  split
  · exact h
  · exact h.ite ((h.setFlow b _).ite ((h.setFlow b _).cornerSample hn _ _ _ _ _ _))

theorem PathWork.stagePoint (h : PathWork n s t) (p : Plan) (r : PointRef) (word : Nat) : PathWork n s (t.stagePoint n p r word) :=
  h.foldl fun _ b _ => PathWork.ite (PathWork.refl.coilPoint hn b p r.start r.p word) (PathWork.refl.cornerPoint hn b p r.start r.p word)

theorem PathWork.finishPoint (h : PathWork n s t) (g : Seg) (r : PointRef) : PathWork n s (t.finishPoint n g r) := by
  unfold State.finishPoint
  split
  · exact h
  · extract_lets +onlyGivenNames p x slots pols a b out ends inSeg lost0 e badPt valid us ref looks phi lost qual fade phase tags badOfs x1
      s1 s2 s3 s4
    have h1 : PathWork n s s1 := h.setRx rfl
    have h2 : PathWork n s s2 := PathWork.ite (h1.wr hn (by simp [pathFields]) _) h1
    have h3 : PathWork n s s3 := PathWork.ite (h2.wr hn (by simp [pathFields]) _) h2
    have h4 : PathWork n s s4 := h3.foldl fun _ _ _ => PathWork.refl.psmError hn
    exact h4.stagePoint hn p r _

theorem PathWork.drainHeld (h : PathWork n s t) : PathWork n s (t.drainHeld n) := by
  unfold State.drainHeld
  extract_lets +onlyGivenNames ready held keep s1 x near
  have h1 : PathWork n s s1 := h.foldl fun _ e _ => PathWork.refl.finishPoint hn e.1 e.2
  exact h1.setRx rfl

end Path

/-! The ADC samples of a segment (R86, R87). -/

/-- From `s` to `t` samples of quay `n` enter the slice and its ring in the Shed. -/
def SampleWork (n : Nat) (s t : State) : Prop := PathWork n { s with shed := t.shed, shedBad := t.shedBad } t

theorem PathWork.sampleWork {n : Nat} {s t : State} (h : PathWork n s t) : SampleWork n s t := h.withShed t.shed t.shedBad

theorem SampleWork.trans {n : Nat} {s t u : State} (h : SampleWork n s t) (h' : SampleWork n t u) : SampleWork n s u :=
  (PathWork.withShed h u.shed u.shedBad).trans h'

theorem State.takeAdcSample_sampleWork {n : Nat} (hn : n < 8) (s : State) (t : Nat) (w : BitVec 48) : SampleWork n s (s.takeAdcSample n t w) := by
  unfold State.takeAdcSample
  extract_lets +onlyGivenNames a hit o s1 s2
  have hclip : ∀ l ∈ hit, R.RX_CLIP_CNT_l_COUNT n l ∈ pathFields n := fun l hl =>
    List.mem_append_left _ (List.mem_map_of_mem (List.mem_of_mem_filter hl : l ∈ List.range 4))
  have h1 : PathWork n s s1 := PathWork.refl.foldl fun v l hl => (PathWork.refl.wr hn (by simp [pathFields]) _).wr hn (hclip l hl) _
  have h2 : SampleWork n s s2 := h1.withShed s2.shed s2.shedBad
  exact PathWork.setRx h2 rfl

theorem State.takeAdc_sampleWork {n : Nat} (hn : n < 8) (s : State) (first last : Nat) (ws : List (BitVec 48)) :
    SampleWork n s (s.takeAdc n first last ws) := by
  unfold State.takeAdc
  extract_lets +onlyGivenNames x t0 fed s1
  have h1 : PathWork n s s1 := PathWork.refl.setRx rfl
  exact List.foldlRecOn fed _ h1.sampleWork fun v hv e _ => hv.trans (v.takeAdcSample_sampleWork hn _ _)

/-! What befalls a segment. -/

section Befall
variable (s : State) (n : Nat) (g : Seg)

theorem State.residuesSeen_sameButRegs (c : Nat) : SameButRegs s (s.residuesSeen n c) :=
  .ite (.refl s) (((SameButRegs.refl s).wr _ _).wr _ _)

theorem State.residuesSeen_keeps (hn : n < 8) {a : SegGroup} (ha : .residues ≠ a) (c : Nat) : KeepsGroup n a s (s.residuesSeen n c) := by
  unfold State.residuesSeen
  split
  · exact .refl
  · exact (KeepsGroup.refl.wr_group hn ha (by simp [SegGroup.fields]) _).wr_group hn ha (by simp [SegGroup.fields]) _

theorem State.rd_residuesSeen {c : Nat} (hc : c ≠ 0) : (s.residuesSeen n c).rd (R.RX_STATUS_RESIDUE n) = 1 ∧
    (s.residuesSeen n c).rd (R.RX_RESIDUE_CNT_COUNT n) = satAdd (R.RX_RESIDUE_CNT_COUNT n).width (s.rd (R.RX_RESIDUE_CNT_COUNT n)) c := by
  have hkey : (R.RX_STATUS_RESIDUE n).key ≠ (R.RX_RESIDUE_CNT_COUNT n).key := by
    simp only [R.RX_STATUS_RESIDUE, R.RX_RESIDUE_CNT_COUNT]
    omega
  rw [State.residuesSeen, if_neg hc]
  constructor
  · rw [State.rd_addSat_other _ _ hkey.symm, State.rd_wr_same]
    rfl
  · rw [State.rd_addSat_same, low_satAdd, State.rd_wr_other _ _ hkey]

theorem State.loseSegment_moves : RxMoves n s (s.loseSegment n g) := by
  unfold State.loseSegment
  extract_lets +onlyGivenNames x p starts s1
  have h1 : RxMoves n s s1 := by
    unfold s1
    split
    · exact .refl
    · exact (RxMoves.refl.wr _ _).wr _ _
  exact ((h1.wr _ _).wr _ _).setRx _

theorem State.segments_loseSegment : ((s.loseSegment n g).rxOf n).segments =
    ((s.rxOf n).tails, (s.rxOf n).skipped, (s.rxOf n).waiting.filter (· != g)) := by
  unfold State.loseSegment
  rw [State.rxOf_setRx_same]
  rfl

theorem State.loseSegment_keeps (hn : n < 8) {a : SegGroup} (ha : .lost ≠ a) : KeepsGroup n a s (s.loseSegment n g) := by
  unfold State.loseSegment
  extract_lets +onlyGivenNames x p starts s1
  have h1 : KeepsGroup n a s s1 := by
    unfold s1
    split
    · exact .refl
    · exact (KeepsGroup.refl.wr_group hn ha (by simp [SegGroup.fields]) _).wr_group hn ha (by simp [SegGroup.fields]) _
  exact ((h1.wr_group hn ha (by simp [SegGroup.fields]) _).wr_group hn ha (by simp [SegGroup.fields]) _).of_regs rfl

theorem State.rd_loseSegment : (s.loseSegment n g).rd (R.RX_STATUS_LOST_SEG n) = 1 ∧
    (s.loseSegment n g).rd (R.RX_LOST_SEG_CNT_COUNT n) = satAdd 32 (s.rd (R.RX_LOST_SEG_CNT_COUNT n)) 1 := by
  have hkey : (R.RX_STATUS_LOST_SEG n).key ≠ (R.RX_LOST_SEG_CNT_COUNT n).key := by
    simp only [R.RX_STATUS_LOST_SEG, R.RX_LOST_SEG_CNT_COUNT]
    omega
  have hlo : (R.RX_LOST_AT_LO_TIME_LO n).key ≠ (R.RX_LOST_SEG_CNT_COUNT n).key := by
    simp only [R.RX_LOST_AT_LO_TIME_LO, R.RX_LOST_SEG_CNT_COUNT]
    omega
  have hhi : (R.RX_LOST_AT_HI_TIME_HI n).key ≠ (R.RX_LOST_SEG_CNT_COUNT n).key := by
    simp only [R.RX_LOST_AT_HI_TIME_HI, R.RX_LOST_SEG_CNT_COUNT]
    omega
  unfold State.loseSegment
  extract_lets +onlyGivenNames x p starts s1
  have h1 : s1.rd (R.RX_LOST_SEG_CNT_COUNT n) = s.rd (R.RX_LOST_SEG_CNT_COUNT n) := by
    unfold s1
    split
    · rfl
    · exact State.rd_wrPair_other _ _ hlo hhi
  rw [State.rd_setRx, State.rd_setRx]
  constructor
  · rw [State.rd_inc_other _ hkey.symm, State.rd_wr_same]
    rfl
  · rw [State.rd_inc_same, low_satAdd, State.rd_wr_other _ _ hkey, h1]
    rfl

theorem State.passSeg_moves : RxMoves n s (s.passSeg n g) := by
  unfold State.passSeg
  extract_lets
  split
  · exact RxMoves.refl.setRx _
  · exact (RxMoves.refl.wr _ _).wr _ _

theorem State.passSeg_keeps (hn : n < 8) {a : SegGroup} (ha : .closed ≠ a) : KeepsGroup n a s (s.passSeg n g) := by
  unfold State.passSeg
  extract_lets
  split
  · exact KeepsGroup.refl.of_regs rfl
  · exact (KeepsGroup.refl.wr_group hn ha (by simp [SegGroup.fields]) _).wr_group hn ha (by simp [SegGroup.fields]) _

theorem State.rd_passSeg (htails : (s.rxOf n).tails = []) :
    (s.passSeg n g).rd (R.RX_SEG_LO_COUNT_LO n) = low 32 (g.2 + 1 - (s.rxOf n).skipped) := by
  have hkey : (R.RX_SEG_HI_COUNT_HI n).key ≠ (R.RX_SEG_LO_COUNT_LO n).key := by
    simp only [R.RX_SEG_HI_COUNT_HI, R.RX_SEG_LO_COUNT_LO]
    omega
  simp only [State.passSeg, htails]
  exact (State.rd_wr_other _ _ hkey).trans (State.rd_wr_same ..)

theorem State.rd_passSeg_of_tails {x : Nat × Nat × Nat} {ts : List (Nat × Nat × Nat)} (htails : (s.rxOf n).tails = x :: ts) (f : Fld) :
    (s.passSeg n g).rd f = s.rd f := by
  simp only [State.passSeg, htails]
  rfl

theorem State.replayLevel_keeps (hn : n < 8) {a : SegGroup} (ha : .level ≠ a) : KeepsGroup n a s s.replayLevel :=
  (KeepsGroup.refl.wr_group hn ha (by simp [SegGroup.fields]) _).wr_group hn ha (by simp [SegGroup.fields]) _

end Befall

/-! The close of a segment (R92, R102, R105). -/

/-- The samples of segment `g` have come. -/
def State.segSampled (s : State) (n : Nat) (g : Seg) (adc : List (BitVec 48)) : State :=
  (s.advance (s.segLast n g)).takeAdc n (s.segFirst n g) (s.segLast n g) adc

/-- The points of segment `g` are held back, with what its close found in the point-state memory. -/
def State.holdPoints (s : State) (n : Nat) (g : Seg) (badPoints : List Nat) (badSlots : SlotParity) : State :=
  let x := s.rxOf n
  s.setRx n { x with held := x.held ++ (s.segPoints n g).map (fun r => (g, r)), badPoints := x.badPoints ++ badPoints
                     badOffsets := x.badOffsets ++ badSlots.offsets, badCode := x.badCode ++ badSlots.code }

/-- The samples of segment `g` have come, and its points are held back. -/
def State.segHeld (s : State) (n : Nat) (g : Seg) (adc : List (BitVec 48)) (badPoints : List Nat) (badSlots : SlotParity) : State :=
  (s.segSampled n g adc).holdPoints n g badPoints badSlots

/-- Segment `g` has come, and is no longer the next to close. -/
def State.segPassed (s : State) (n : Nat) (g : Seg) (adc : List (BitVec 48)) (badPoints : List Nat) (badSlots : SlotParity) : State :=
  (s.segHeld n g adc badPoints badSlots).passSeg n g

/-- Segment `g` joins the replay queue. -/
def State.queueReplay (s : State) (n : Nat) (g : Seg) : State :=
  let y := s.rxOf n
  let u := s.setRx n { y with waiting := y.waiting ++ [g] }
  State.replayLevel { u with replayQ := u.replayQ ++ [{ quay := n, seg := g }] }

/-- Segment `g` finds the replay queue full: it is dropped and lost. -/
def State.dropReplay (s : State) (n : Nat) (g : Seg) : State := (s.inc R.RX_REPLAY_DROP_COUNT).loseSegment n g

section Close
variable {s : State} (hs : s.runs) {n : Fin 8} {g : Seg} (hg : s.nextSeg n = some g) (hin : s.segLast n g < nextBoundary s.now)
  (adc : List (BitVec 48)) (residues : Nat) (badPoints : List Nat) (badSlots : SlotParity)
include hs hg hin

theorem exec_segmentClose : exec (.segmentClose n adc residues badPoints badSlots) s =
    let u := s.segPassed n g adc badPoints badSlots
    let r := u.residuesSeen n residues
    .next (if residues = 0 then (u.commitSeg n g (fun t => Tab.get {} ((s.segSampled n g adc).rxOf n).adc t)).drainHeld n
      else if r.replayQ.length < 16 then (r.queueReplay n g).drainHeld n else (r.dropReplay n g).drainHeld n) := by
  show execSegmentClose n adc residues badPoints badSlots s = _
  rw [execSegmentClose, State.live_runs hs]
  simp only [hg]
  refine (if_pos (decide_eq_true hin)).trans ?_
  by_cases hres : residues = 0
  · simp only [if_pos hres]
    rfl
  · simp only [if_neg hres]
    exact (apply_ite goOn ..).symm

end Close

theorem State.holdPoints_pathWork (s : State) (n : Nat) (g : Seg) (badPoints : List Nat) (badSlots : SlotParity) :
    PathWork n s (s.holdPoints n g badPoints badSlots) := PathWork.refl.setRx rfl

section Held
variable (s : State) {n : Nat} (hn : n < 8) (g : Seg) (adc : List (BitVec 48)) (badPoints : List Nat) (badSlots : SlotParity)
include hn

theorem State.segHeld_sampleWork : SampleWork n (s.advance (s.segLast n g)) (s.segHeld n g adc badPoints badSlots) :=
  ((s.advance (s.segLast n g)).takeAdc_sampleWork hn _ _ _).trans (State.holdPoints_pathWork _ n g badPoints badSlots).sampleWork

theorem State.segPassed_replayQ : (s.segPassed n g adc badPoints badSlots).replayQ = s.replayQ :=
  ((s.segHeld n g adc badPoints badSlots).passSeg_moves n g).replayQ.trans (s.segHeld_sampleWork hn g adc badPoints badSlots).replayQ

theorem State.residuesSeen_segPassed_replayQ (c : Nat) : ((s.segPassed n g adc badPoints badSlots).residuesSeen n c).replayQ = s.replayQ :=
  (RxMoves.regs (n := n) .refl (State.residuesSeen_sameButRegs _ n c)).replayQ.trans (s.segPassed_replayQ hn g adc badPoints badSlots)

theorem State.segPassed_keeps {a : SegGroup} (ha : .closed ≠ a) : KeepsGroup n a s (s.segPassed n g adc badPoints badSlots) :=
  ((s.segHeld_sampleWork hn g adc badPoints badSlots).keeps a).trans (State.passSeg_keeps _ n g hn ha)

end Held

/-- What the close of segment `g` of quay `n` leaves in every case: it is counted, unless it is of an earlier epoch, and nothing else moves than
what receives, stages and stores samples. -/
structure SegClosed (s : State) (n : Nat) (g : Seg) (t : State) : Prop where
  now : t.now = max s.now (s.segLast n g)
  counted : (s.rxOf n).tails = [] → t.rd (R.RX_SEG_LO_COUNT_LO n) = low 32 (g.2 + 1 - (s.rxOf n).skipped)
  tail : ∀ x ts, (s.rxOf n).tails = x :: ts → t.rd (R.RX_SEG_LO_COUNT_LO n) = s.rd (R.RX_SEG_LO_COUNT_LO n)
  others : ∀ k, k ≠ n → t.rxOf k = s.rxOf k
  frame : t = { s with
    now := t.now, regs := t.regs, rx := t.rx, replayQ := t.replayQ, das := t.das, flow := t.flow, shed := t.shed, shedBad := t.shedBad }

/-- `t` counts the residue mismatches found since `s` (R102). -/
def ResiduesCounted (s : State) (n residues : Nat) (t : State) : Prop :=
  t.rd (R.RX_STATUS_RESIDUE n) = 1 ∧
    t.rd (R.RX_RESIDUE_CNT_COUNT n) = satAdd (R.RX_RESIDUE_CNT_COUNT n).width (s.rd (R.RX_RESIDUE_CNT_COUNT n)) residues

/-- `t` counts one segment lost since `s` (R106). -/
def LossCounted (s : State) (n : Nat) (t : State) : Prop :=
  t.rd (R.RX_STATUS_LOST_SEG n) = 1 ∧ t.rd (R.RX_LOST_SEG_CNT_COUNT n) = satAdd 32 (s.rd (R.RX_LOST_SEG_CNT_COUNT n)) 1

section Closed
variable {s h u t : State} {n : Nat} {g : Seg}

theorem SampleWork.pathWork (hh : SampleWork n s h) : PathWork n { s with shed := h.shed, shedBad := h.shedBad } h := hh

theorem SampleWork.replayQ (hh : SampleWork n s h) : h.replayQ = s.replayQ := hh.pathWork.toRxMoves.replayQ

theorem SampleWork.keeps (hh : SampleWork n s h) (a : SegGroup) : KeepsGroup n a s h := hh.pathWork.keeps a

theorem SampleWork.segments (hh : SampleWork n s h) : (h.rxOf n).segments = (s.rxOf n).segments := hh.pathWork.segments

theorem SampleWork.moves_of_close {at_ : Nat} (hh : SampleWork n (s.advance at_) h) (hu : RxMoves n h u)
    (ht : RxMoves n { u with replayQ := t.replayQ } t) : t.now = max s.now at_ ∧ (∀ k, k ≠ n → t.rxOf k = s.rxOf k) ∧ t = { s with
      now := t.now, regs := t.regs, rx := t.rx, replayQ := t.replayQ, das := t.das, flow := t.flow, shed := t.shed, shedBad := t.shedBad } := by
  have hframe := hh.pathWork.frame
  refine ⟨?_, fun k hk => (ht.others k hk).trans ((hu.others k hk).trans (hh.pathWork.others k hk)), ?_⟩
  · rw [ht.frame, hu.frame, hframe]
    rfl
  · rw [ht.frame, hu.frame, hframe]
    rfl

end Closed

/-! The three ways in which a close goes on. -/

section Cases
variable (s : State) {n : Nat} (hn : n < 8) (g : Seg)

theorem State.residuesSeen_counted {c : Nat} (hc : c ≠ 0) {t : State} (hk : KeepsGroup n .residues (s.residuesSeen n c) t) :
    ResiduesCounted s n c t := by
  obtain ⟨hflag, hcount⟩ := s.rd_residuesSeen n hc
  exact ⟨(hk _ (by simp [SegGroup.fields])).trans hflag, (hk _ (by simp [SegGroup.fields])).trans hcount⟩

theorem State.loseSegment_counted {t : State} (hk : KeepsGroup n .lost (s.loseSegment n g) t) : LossCounted s n t := by
  obtain ⟨hflag, hcount⟩ := s.rd_loseSegment n g
  exact ⟨(hk _ (by simp [SegGroup.fields])).trans hflag, (hk _ (by simp [SegGroup.fields])).trans hcount⟩

theorem ResiduesCounted.of_keeps {u t : State} {c : Nat} (h : ResiduesCounted u n c t) (hk : KeepsGroup n .residues s u) :
    ResiduesCounted s n c t := by
  rw [ResiduesCounted, ← hk (R.RX_RESIDUE_CNT_COUNT n) (by simp [SegGroup.fields])]
  exact h

theorem LossCounted.of_keeps {u t : State} (h : LossCounted u n t) (hk : KeepsGroup n .lost s u) : LossCounted s n t := by
  rw [LossCounted, ← hk (R.RX_LOST_SEG_CNT_COUNT n) (by simp [SegGroup.fields])]
  exact h

theorem State.queueReplay_moves : RxMoves n { s with replayQ := s.replayQ ++ [{ quay := n, seg := g }] } (s.queueReplay n g) :=
  ((RxMoves.refl.setRx _).wr _ _).wr _ _

theorem State.waiting_queueReplay : ((s.queueReplay n g).rxOf n).waiting = (s.rxOf n).waiting ++ [g] :=
  congrArg RxSlice.waiting (s.rxOf_setRx_same n _)

theorem PathWork.waiting {u t : State} (h : PathWork n u t) : (t.rxOf n).waiting = (u.rxOf n).waiting :=
  congrArg (fun x => x.2.2) h.segments

theorem State.dropReplay_moves : RxMoves n s (s.dropReplay n g) := (RxMoves.refl.wr _ _).trans (State.loseSegment_moves _ n g)

include hn

theorem State.queueReplay_keeps {a : SegGroup} (ha : .level ≠ a) : KeepsGroup n a s (s.queueReplay n g) :=
  KeepsGroup.trans (KeepsGroup.refl.of_regs rfl) (State.replayLevel_keeps _ n hn ha)

theorem State.dropReplay_keeps {a : SegGroup} (hd : .dropped ≠ a) (hl : .lost ≠ a) : KeepsGroup n a s (s.dropReplay n g) :=
  (KeepsGroup.refl.wr_group hn hd (List.mem_singleton_self _) _).trans (State.loseSegment_keeps _ n g hn hl)

theorem State.rd_dropReplay : (s.dropReplay n g).rd R.RX_REPLAY_DROP_COUNT =
    satAdd (R.RX_REPLAY_DROP_COUNT).width (s.rd R.RX_REPLAY_DROP_COUNT) 1 := by
  rw [State.dropReplay, State.loseSegment_keeps _ n g hn (a := .dropped) (by nofun) _ (List.mem_singleton_self _), State.rd_inc_same, low_satAdd]

variable (adc : List (BitVec 48)) (badPoints : List Nat) (badSlots : SlotParity)

/-- A close is complete in `t` when nothing after the count touches the count. -/
theorem State.segClosed_of {t : State} (ht : RxMoves n { s.segPassed n g adc badPoints badSlots with replayQ := t.replayQ } t)
    (hkeeps : KeepsGroup n .closed (s.segPassed n g adc badPoints badSlots) t) : SegClosed s n g t := by
  have hh := s.segHeld_sampleWork hn g adc badPoints badSlots
  have hpass : RxMoves n _ (s.segPassed n g adc badPoints badSlots) := (s.segHeld n g adc badPoints badSlots).passSeg_moves n g
  obtain ⟨hnow, hothers, hframe⟩ := hh.moves_of_close hpass ht
  have hseg : ((s.segHeld n g adc badPoints badSlots).rxOf n).segments = (s.rxOf n).segments := hh.segments
  simp only [RxSlice.segments, Prod.mk.injEq] at hseg
  obtain ⟨htails, hskipped, -⟩ := hseg
  have hlo : R.RX_SEG_LO_COUNT_LO n ∈ SegGroup.closed.fields n := List.mem_cons_self
  refine ⟨hnow, fun hnil => ?_, fun x ts hcons => ?_, hothers, hframe⟩
  · rw [hkeeps _ hlo, State.segPassed, State.rd_passSeg _ _ _ (htails.trans hnil), hskipped]
  · rw [hkeeps _ hlo, State.segPassed, State.rd_passSeg_of_tails _ _ _ (htails.trans hcons)]
    exact hh.keeps .closed _ hlo

theorem State.segClosed_clean (get : Nat → AdcSample) {t : State}
    (ht : t = ((s.segPassed n g adc badPoints badSlots).commitSeg n g get).drainHeld n) :
    SegClosed s n g t ∧ t.replayQ = s.replayQ ∧ t.rd (R.RX_RESIDUE_CNT_COUNT n) = s.rd (R.RX_RESIDUE_CNT_COUNT n) := by
  have hwork : PathWork n (s.segPassed n g adc badPoints badSlots) t := ht ▸ (PathWork.refl.commitSeg hn g get).drainHeld hn
  refine ⟨s.segClosed_of hn g adc badPoints badSlots hwork.withOwnQueue (hwork.keeps _),
    hwork.replayQ.trans (s.segPassed_replayQ hn g adc badPoints badSlots), ?_⟩
  exact ((s.segPassed_keeps hn g adc badPoints badSlots (by nofun)).trans (hwork.keeps .residues)) _ (by simp [SegGroup.fields])

theorem State.segClosed_queued {c : Nat} (hc : c ≠ 0) {t : State}
    (ht : t = (((s.segPassed n g adc badPoints badSlots).residuesSeen n c).queueReplay n g).drainHeld n) :
    SegClosed s n g t ∧ ResiduesCounted s n c t ∧ t.replayQ = s.replayQ ++ [{ quay := n, seg := g }] ∧ g ∈ (t.rxOf n).waiting := by
  set u := s.segPassed n g adc badPoints badSlots
  have hseen : RxMoves n u (u.residuesSeen n c) := RxMoves.refl.regs (u.residuesSeen_sameButRegs n c)
  have hqueue := (u.residuesSeen n c).queueReplay_moves (n := n) g
  have hwork : PathWork n ((u.residuesSeen n c).queueReplay n g) t := ht ▸ PathWork.refl.drainHeld hn
  have hq : t.replayQ = (u.residuesSeen n c).replayQ ++ [{ quay := n, seg := g }] := hwork.replayQ.trans hqueue.replayQ
  refine ⟨s.segClosed_of hn g adc badPoints badSlots ?_ ?_, ?_, ?_, ?_⟩
  · rw [hq]
    exact (hseen.withQueue _).trans (hqueue.trans hwork.toRxMoves)
  · exact ((u.residuesSeen_keeps n hn (by nofun) c).trans (State.queueReplay_keeps _ hn g (by nofun))).trans (hwork.keeps _)
  · exact (u.residuesSeen_counted hc ((State.queueReplay_keeps _ hn g (by nofun)).trans (hwork.keeps _))).of_keeps s
      (s.segPassed_keeps hn g adc badPoints badSlots (by nofun))
  · rw [hq, s.residuesSeen_segPassed_replayQ hn]
  · rw [hwork.waiting, State.waiting_queueReplay]
    exact List.mem_append_right _ (List.mem_singleton_self g)

theorem State.segClosed_dropped {c : Nat} (hc : c ≠ 0) {t : State}
    (ht : t = (((s.segPassed n g adc badPoints badSlots).residuesSeen n c).dropReplay n g).drainHeld n) :
    SegClosed s n g t ∧ ResiduesCounted s n c t ∧ t.replayQ = s.replayQ ∧ LossCounted s n t ∧
      t.rd R.RX_REPLAY_DROP_COUNT = satAdd (R.RX_REPLAY_DROP_COUNT).width (s.rd R.RX_REPLAY_DROP_COUNT) 1 := by
  set u := s.segPassed n g adc badPoints badSlots
  have hkeeps {a : SegGroup} (hclosed : .closed ≠ a) (hres : .residues ≠ a) : KeepsGroup n a s (u.residuesSeen n c) :=
    (s.segPassed_keeps hn g adc badPoints badSlots hclosed).trans (u.residuesSeen_keeps n hn hres c)
  have hseen : RxMoves n u (u.residuesSeen n c) := RxMoves.refl.regs (u.residuesSeen_sameButRegs n c)
  have hwork : PathWork n ((u.residuesSeen n c).dropReplay n g) t := ht ▸ PathWork.refl.drainHeld hn
  have hmoves : RxMoves n u t := hseen.trans ((State.dropReplay_moves _ g).trans hwork.toRxMoves)
  refine ⟨s.segClosed_of hn g adc badPoints badSlots hmoves.withOwnQueue ?_, ?_, ?_, ?_, ?_⟩
  · exact ((u.residuesSeen_keeps n hn (by nofun) c).trans (State.dropReplay_keeps _ hn g (by nofun) (by nofun))).trans (hwork.keeps _)
  · exact (u.residuesSeen_counted hc ((State.dropReplay_keeps _ hn g (by nofun) (by nofun)).trans (hwork.keeps _))).of_keeps s
      (s.segPassed_keeps hn g adc badPoints badSlots (by nofun))
  · exact hmoves.replayQ.trans (s.segPassed_replayQ hn g adc badPoints badSlots)
  · refine (State.loseSegment_counted _ g (hwork.keeps _)).of_keeps s ((hkeeps (by nofun) (by nofun)).trans ?_)
    exact KeepsGroup.refl.wr_group hn (b := .dropped) (by nofun) (List.mem_singleton_self _) _
  · have hdrop : R.RX_REPLAY_DROP_COUNT ∈ SegGroup.dropped.fields n := List.mem_singleton_self _
    rw [hwork.keeps .dropped _ hdrop, State.rd_dropReplay _ hn g, hkeeps (by nofun) (by nofun) _ hdrop]

end Cases

/-! The replay unit (R104, R105). -/

/-- The replay unit takes `r`, and `rest` stays in the queue. -/
def State.replayBegun (s : State) (r : Replay) (rest : List Replay) : State :=
  State.replayLevel { s with replaying := some { r with at_ := s.now }, replayQ := rest }

theorem exec_replayStart {s : State} (hs : s.runs) {r : Replay} {rest : List Replay} (hfree : s.replaying = none) (hq : s.replayQ = r :: rest) :
    exec .replayStart s = .next (s.replayBegun r rest) := by
  show execReplayStart s = _
  rw [execReplayStart, State.live_runs hs]
  simp only [hfree, hq]
  rfl

theorem State.rd_replayLevel (s : State) : s.replayLevel.rd R.RX_REPLAY_STATUS_LEVEL = low 5 s.replayQ.length :=
  (State.rd_wr_other _ _ (by decide)).trans (State.rd_wr_same ..)

theorem State.replayLevel_onlyRegs (s : State) : OnlyRegs [R.RX_REPLAY_STATUS_LEVEL, R.RX_REPLAY_STATUS_PEAK] s s.replayLevel :=
  ((OnlyRegs.refl s _).wr (by simp) _).wr (by simp) _

theorem replayStart_takes_oldest {s : State} (hs : s.runs) (r : Replay) (rest : List Replay) (hfree : s.replaying = none)
    (hq : s.replayQ = r :: rest) : ∃ t, exec .replayStart s = .next t ∧ t.replaying = some { r with at_ := s.now } ∧ t.replayQ = rest ∧
      t.rd R.RX_REPLAY_STATUS_LEVEL = low 5 rest.length ∧ OnlyRegs [R.RX_REPLAY_STATUS_LEVEL, R.RX_REPLAY_STATUS_PEAK] s t ∧
      t = { s with regs := t.regs, replaying := t.replaying, replayQ := t.replayQ } :=
  ⟨_, exec_replayStart hs hfree hq, rfl, rfl, State.rd_replayLevel _, State.replayLevel_onlyRegs _, rfl⟩

/-- The point-state entries that a replay found to fail parity are noted. -/
def State.notePsm (s : State) (n : Nat) (badPoints badOffsets badCode : List Nat) : State :=
  let y := s.rxOf n
  s.setRx n { y with badPoints := y.badPoints ++ badPoints, badOffsets := y.badOffsets ++ badOffsets, badCode := y.badCode ++ badCode }

/-- The replay has met the words `bad` of the ring, which fail parity (R102). -/
def State.ringChecked (s : State) (n : Nat) (bad : List Nat) : State :=
  if bad.isEmpty then s
  else (bad.foldl State.parityCheck (s.wr (R.RX_STATUS_RING_PARITY n) 1)).addSat (R.RX_PARITY_CNT_RING n) bad.length

/-- The replay of `r` ends, with what its reads have found. -/
def State.replayRead (s : State) (r : Replay) (residues : Nat) (badPoints badOffsets badCode : List Nat) : State :=
  ((({ s with replaying := none } : State).notePsm r.quay badPoints badOffsets badCode).ringChecked r.quay (s.ringErrors r.quay r.seg)).residuesSeen
    r.quay residues

/-- Segment `g` has been replayed and no longer waits. -/
def State.replayed (s : State) (n : Nat) (g : Seg) : State :=
  let x := s.rxOf n
  (s.inc R.RX_REPLAY_CNT_COUNT).setRx n { x with waiting := x.waiting.filter (· != g) }

/-- The sample of instant `t` as the recompute ring holds it. -/
def State.replaySample (s : State) (n t : Nat) : AdcSample := { Tab.get {} (s.rxOf n).adc t with code := s.shedNat (s.ringAddr n t) 6 }

/-- The replay of `r` can be committed: the ring still held its samples without a parity error, no residue mismatched, and it is in time (R104). -/
def State.replayGood (s : State) (r : Replay) (residues : Nat) : Prop :=
  s.ringHolds r.quay r.seg r.at_ = true ∧ s.ringErrors r.quay r.seg = [] ∧ residues = 0 ∧ s.replayInTime r.quay r.seg = true

section Exec
variable {s : State} (hs : s.runs) {r : Replay} (hr : s.replaying = some r) (residues : Nat) (badPoints badOffsets badCode : List Nat)
include hs hr

theorem exec_replayDone_good (hgood : s.replayGood r residues) : exec (.replayDone residues badPoints badOffsets badCode) s =
    .next ((((s.replayRead r residues badPoints badOffsets badCode).replayed r.quay r.seg).commitSeg r.quay r.seg
      ((s.replayRead r residues badPoints badOffsets badCode).replaySample r.quay)).drainHeld r.quay) := by
  show execReplayDone residues badPoints badOffsets badCode s = _
  obtain ⟨hholds, herr, hres, htime⟩ := hgood
  rw [execReplayDone, State.live_runs hs]
  simp only [hr]
  exact if_pos ⟨hholds, List.isEmpty_iff.mpr herr, hres, htime⟩

theorem exec_replayDone_bad (hbad : ¬s.replayGood r residues) : exec (.replayDone residues badPoints badOffsets badCode) s =
    .next (((s.replayRead r residues badPoints badOffsets badCode).loseSegment r.quay r.seg).drainHeld r.quay) := by
  show execReplayDone residues badPoints badOffsets badCode s = _
  rw [execReplayDone, State.live_runs hs]
  simp only [hr]
  exact if_neg fun h => hbad ⟨h.1, List.isEmpty_iff.mp h.2.1, h.2.2⟩

end Exec

/-! What a replay reads, and what it leaves. -/

section Ring
variable (s : State) {n : Nat} (hn : n < 8) (bad : List Nat)

theorem State.ringChecked_sameButRegs : SameButRegs s (s.ringChecked n bad) :=
  .ite (.refl s) ((SameButRegs.trans ((SameButRegs.refl s).wr _ _) (sameButRegs_foldl State.parityCheck_sameButRegs bad _)).wr _ _)

include hn

theorem State.foldl_parityCheck_keeps (a : SegGroup) : KeepsGroup n a s (bad.foldl State.parityCheck s) := fun g hg =>
  onlyRegs_foldl State.parityCheck_onlyRegs bad s g fun f hf =>
    SegGroup.apart_of_sluice hn ((by decide : ∀ f ∈ parityFields, 8 * 0x504000 ≤ f.key) f hf) hg

theorem State.ringChecked_keeps {a : SegGroup} (ha : .ring ≠ a) : KeepsGroup n a s (s.ringChecked n bad) := by
  unfold State.ringChecked
  split
  · exact .refl
  · have hflag : KeepsGroup n a s (s.wr (R.RX_STATUS_RING_PARITY n) 1) := KeepsGroup.refl.wr_group hn ha (by simp [SegGroup.fields]) _
    exact (hflag.trans (State.foldl_parityCheck_keeps _ hn bad a)).wr_group hn ha (by simp [SegGroup.fields]) _

theorem State.rd_ringChecked (hbad : bad ≠ []) : (s.ringChecked n bad).rd (R.RX_STATUS_RING_PARITY n) = 1 := by
  have hkey : (R.RX_PARITY_CNT_RING n).key ≠ (R.RX_STATUS_RING_PARITY n).key := by
    simp only [R.RX_PARITY_CNT_RING, R.RX_STATUS_RING_PARITY]
    omega
  rw [State.ringChecked, if_neg (by simpa using hbad), State.rd_addSat_other _ _ hkey,
    State.foldl_parityCheck_keeps _ hn bad .ring _ (by simp [SegGroup.fields]), State.rd_wr_same]
  rfl

end Ring

section Read
variable (s : State) {r : Replay} (hn : r.quay < 8) (residues : Nat) (badPoints badOffsets badCode : List Nat)

theorem State.notePsm_moves (n : Nat) : RxMoves n s (s.notePsm n badPoints badOffsets badCode) := RxMoves.refl.setRx _

theorem State.replayRead_moves : RxMoves r.quay { s with replaying := none } (s.replayRead r residues badPoints badOffsets badCode) :=
  ((State.notePsm_moves _ badPoints badOffsets badCode r.quay).regs (State.ringChecked_sameButRegs _ _)).regs (State.residuesSeen_sameButRegs _ _ _)

include hn

theorem State.replayRead_keeps {a : SegGroup} (hring : .ring ≠ a) (hres : .residues ≠ a) :
    KeepsGroup r.quay a s (s.replayRead r residues badPoints badOffsets badCode) := by
  have hnote : KeepsGroup r.quay a s (({ s with replaying := none } : State).notePsm r.quay badPoints badOffsets badCode) :=
    fun _ _ => State.rd_setRx ..
  exact (hnote.trans (State.ringChecked_keeps _ hn _ hring)).trans (State.residuesSeen_keeps _ _ hn hres residues)

theorem State.rd_replayRead_ring (hbad : s.ringErrors r.quay r.seg ≠ []) :
    (s.replayRead r residues badPoints badOffsets badCode).rd (R.RX_STATUS_RING_PARITY r.quay) = 1 :=
  (State.residuesSeen_keeps _ _ hn (a := .ring) (by nofun) residues _ (by simp [SegGroup.fields])).trans (State.rd_ringChecked _ hn _ hbad)

end Read

/-- What the end of a replay leaves, whether it is committed or not: the unit is free, the segment waits no longer, and nothing moves but what
receives and stages points. -/
structure ReplayEnded (s : State) (r : Replay) (t : State) : Prop where
  free : t.replaying = none
  decided : r.seg ∉ (t.rxOf r.quay).waiting
  others : ∀ k, k ≠ r.quay → t.rxOf k = s.rxOf k
  frame : t = { s with regs := t.regs, rx := t.rx, replaying := t.replaying, das := t.das, flow := t.flow }

section Ended
variable {s t : State} {r : Replay}

theorem RxMoves.replayEnded (h : RxMoves r.quay { s with replaying := none } t) (hw : r.seg ∉ (t.rxOf r.quay).waiting) : ReplayEnded s r t := by
  refine ⟨?_, hw, h.others, ?_⟩
  · rw [h.frame]
  · rw [h.frame]

theorem not_mem_filter_bne (g : Seg) (l : List Seg) : g ∉ l.filter (· != g) := by simp

theorem State.replayed_moves (s : State) (n : Nat) (g : Seg) : RxMoves n s (s.replayed n g) := (RxMoves.refl.wr _ _).setRx _

theorem State.waiting_replayed (s : State) (n : Nat) (g : Seg) : ((s.replayed n g).rxOf n).waiting = (s.rxOf n).waiting.filter (· != g) :=
  congrArg RxSlice.waiting (State.rxOf_setRx_same ..)

theorem State.waiting_loseSegment (s : State) (n : Nat) (g : Seg) :
    ((s.loseSegment n g).rxOf n).waiting = (s.rxOf n).waiting.filter (· != g) :=
  congrArg (fun x => x.2.2) (s.segments_loseSegment n g)

theorem State.replayed_keeps (s : State) {n : Nat} (hn : n < 8) (g : Seg) {a : SegGroup} (ha : .replays ≠ a) :
    KeepsGroup n a s (s.replayed n g) :=
  (KeepsGroup.refl.wr_group hn ha (List.mem_singleton_self _) _).of_regs rfl

theorem State.rd_replayed (s : State) (n : Nat) (g : Seg) :
    (s.replayed n g).rd R.RX_REPLAY_CNT_COUNT = satAdd 32 (s.rd R.RX_REPLAY_CNT_COUNT) 1 := by
  rw [State.replayed, State.rd_setRx, State.rd_inc_same, low_satAdd]
  rfl

end Ended

section Done
variable {s : State} (hs : s.runs) {r : Replay} (hr : s.replaying = some r) (hn : r.quay < 8) (residues : Nat)
  (badPoints badOffsets badCode : List Nat)
include hs hr hn

theorem replayDone_commits (hgood : s.replayGood r residues) :
    ∃ t, exec (.replayDone residues badPoints badOffsets badCode) s = .next t ∧ ReplayEnded s r t ∧
      t.rd R.RX_REPLAY_CNT_COUNT = satAdd 32 (s.rd R.RX_REPLAY_CNT_COUNT) 1 ∧
      t.rd (R.RX_LOST_SEG_CNT_COUNT r.quay) = s.rd (R.RX_LOST_SEG_CNT_COUNT r.quay) := by
  refine ⟨_, exec_replayDone_good hs hr residues badPoints badOffsets badCode hgood, ?_⟩
  set v := s.replayRead r residues badPoints badOffsets badCode
  have hread : RxMoves r.quay { s with replaying := none } v := s.replayRead_moves residues badPoints badOffsets badCode
  have hkeeps {a : SegGroup} (hring : .ring ≠ a) (hres : .residues ≠ a) : KeepsGroup r.quay a s v :=
    s.replayRead_keeps hn residues badPoints badOffsets badCode hring hres
  have hwork := ((PathWork.refl (s := v.replayed r.quay r.seg)).commitSeg hn r.seg (v.replaySample r.quay)).drainHeld hn
  have hmoves := hread.trans ((v.replayed_moves r.quay r.seg).trans hwork.toRxMoves)
  have hcount : R.RX_REPLAY_CNT_COUNT ∈ SegGroup.replays.fields r.quay := List.mem_singleton_self _
  have hlost : R.RX_LOST_SEG_CNT_COUNT r.quay ∈ SegGroup.lost.fields r.quay := by simp [SegGroup.fields]
  refine ⟨hmoves.replayEnded ?_, ?_, ?_⟩
  · rw [hwork.waiting, State.waiting_replayed]
    exact not_mem_filter_bne _ _
  · rw [hwork.keeps _ _ hcount, State.rd_replayed, hkeeps (by nofun) (by nofun) _ hcount]
  · rw [hwork.keeps _ _ hlost, State.replayed_keeps _ hn _ (by nofun) _ hlost, hkeeps (by nofun) (by nofun) _ hlost]

theorem replayDone_loses (hbad : ¬s.replayGood r residues) :
    ∃ t, exec (.replayDone residues badPoints badOffsets badCode) s = .next t ∧ ReplayEnded s r t ∧ LossCounted s r.quay t ∧
      (s.ringErrors r.quay r.seg ≠ [] → t.rd (R.RX_STATUS_RING_PARITY r.quay) = 1) := by
  refine ⟨_, exec_replayDone_bad hs hr residues badPoints badOffsets badCode hbad, ?_⟩
  set v := s.replayRead r residues badPoints badOffsets badCode
  have hread : RxMoves r.quay { s with replaying := none } v := s.replayRead_moves residues badPoints badOffsets badCode
  have hwork := (PathWork.refl (s := v.loseSegment r.quay r.seg)).drainHeld hn
  have hmoves := hread.trans ((v.loseSegment_moves r.quay r.seg).trans hwork.toRxMoves)
  have hring : R.RX_STATUS_RING_PARITY r.quay ∈ SegGroup.ring.fields r.quay := List.mem_cons_self
  refine ⟨hmoves.replayEnded ?_, ?_, fun herr => ?_⟩
  · rw [hwork.waiting, State.waiting_loseSegment]
    exact not_mem_filter_bne _ _
  · exact (v.loseSegment_counted r.seg (hwork.keeps _)).of_keeps s (s.replayRead_keeps hn _ _ _ _ (by nofun) (by nofun))
  · rw [hwork.keeps _ _ hring, State.loseSegment_keeps _ _ _ hn (by nofun) _ hring]
    exact s.rd_replayRead_ring hn residues badPoints badOffsets badCode herr

end Done

/-! The noise estimate (R97). -/

/-- The field of the noise window that a write gives: its length, or its first point. -/
def noiseField (n : Nat) (len : Bool) : Fld := if len then R.RX_NOISE_LEN_LEN n else R.RX_NOISE_P0_P0 n

/-- The value that a written word gives that field. -/
def noiseValue (len : Bool) (v : Word) : Nat := if len then bits v.toNat 0 10 else bits v.toNat 0 21

/-- The fields that a restart of the noise estimate of quay `n` moves. -/
def noiseFields (n : Nat) : List Fld := [R.RX_STATUS_NOISE_VALID n, R.RX_NOISE_X n, R.RX_NOISE_Y n]

theorem low_noiseValue (n : Nat) (len : Bool) (v : Word) : low (noiseField n len).width (noiseValue len v) = noiseValue len v := by
  cases len
  · exact low_bits ..
  · exact low_bits ..

theorem noiseField_apart : ∀ n < 8, ∀ len : Bool, (∀ f ∈ noiseFields n, f.key ≠ (noiseField n len).key) ∧
    (noiseField n len).key ≠ (R.CL_QY_n_NOISE_X n).key := by
  decide +kernel

theorem State.restartNoise_onlyRegs (s : State) (n : Nat) : OnlyRegs (noiseFields n) s (s.restartNoise n) :=
  ((((OnlyRegs.refl s _).wr (by simp [noiseFields]) _).wr (by simp [noiseFields]) _).wr (by simp [noiseFields]) _).of_regs rfl

theorem State.rd_restartNoise (s : State) (n : Nat) : (s.restartNoise n).rd (R.RX_STATUS_NOISE_VALID n) = 0 ∧
    (s.restartNoise n).rd (R.RX_NOISE_X n) = low (R.RX_NOISE_X n).width (s.rd (R.CL_QY_n_NOISE_X n)) := by
  have hkeys : (R.RX_NOISE_Y n).key ≠ (R.RX_STATUS_NOISE_VALID n).key ∧ (R.RX_NOISE_X n).key ≠ (R.RX_STATUS_NOISE_VALID n).key ∧
      (R.RX_NOISE_Y n).key ≠ (R.RX_NOISE_X n).key := by
    simp only [R.RX_NOISE_Y, R.RX_NOISE_X, R.RX_STATUS_NOISE_VALID]
    exact ⟨by omega, by omega, by omega⟩
  obtain ⟨hyv, hxv, hyx⟩ := hkeys
  unfold State.restartNoise
  rw [State.rd_setRx, State.rd_setRx]
  constructor
  · rw [State.rd_wr_other _ _ hyv, State.rd_wr_other _ _ hxv, State.rd_wr_same]
    rfl
  · rw [State.rd_wr_other _ _ hyx, State.rd_wr_same]

theorem State.noiseCount_restartNoise (s : State) (n : Nat) : ((s.restartNoise n).rxOf n).noiseCount = 0 :=
  congrArg RxSlice.noiseCount (State.rxOf_setRx_same ..)

theorem State.rxOf_restartNoise_other (s : State) {n k : Nat} (h : k ≠ n) : (s.restartNoise n).rxOf k = s.rxOf k := State.rxOf_setRx_other _ _ h

theorem State.restartNoise_frame (s : State) (n : Nat) :
    s.restartNoise n = { s with regs := (s.restartNoise n).regs, rx := (s.restartNoise n).rx } := (rfl)

section Noise
variable {s : State} (hs : s.runs) {n : Fin 8}
include hs

theorem noiseEstimateValid_sets (hlen : s.rd (R.RX_NOISE_LEN_LEN n) ≠ 0) (hcount : 256 ≤ (s.rxOf n).noiseCount) :
    ∃ t, exec (.noiseEstimateValid n) s = .next t ∧ t.rd (R.RX_STATUS_NOISE_VALID n) = 1 ∧ OnlyRegs [R.RX_STATUS_NOISE_VALID n] s t ∧
      t = { s with regs := t.regs } := by
  refine ⟨s.wr (R.RX_STATUS_NOISE_VALID n) 1, ?_, State.rd_wr_same .., (OnlyRegs.refl s _).wr (List.mem_singleton_self _) _, rfl⟩
  show execNoiseEstimateValid n s = _
  rw [execNoiseEstimateValid, State.live_runs hs]
  exact if_pos ⟨hlen, hcount⟩

theorem exec_noiseWindowWrite (len : Bool) (v : Word) :
    exec (.noiseWindowWrite n len v) s = .next ((s.wr (noiseField n len) (noiseValue len v)).restartNoise n) := by
  show execNoiseWindowWrite n len v s = _
  rw [execNoiseWindowWrite, State.live_runs hs]
  cases len <;> rfl

theorem noiseWindowWrite_restarts (len : Bool) (v : Word) :
    ∃ t, exec (.noiseWindowWrite n len v) s = .next t ∧ t.rd (R.RX_STATUS_NOISE_VALID n) = 0 ∧ t.rd (noiseField n len) = noiseValue len v ∧
      t.rd (R.RX_NOISE_X n) = low (R.RX_NOISE_X n).width (s.rd (R.CL_QY_n_NOISE_X n)) ∧ (t.rxOf n).noiseCount = 0 ∧
      OnlyRegs (noiseField n len :: noiseFields n) s t ∧ (∀ k, k ≠ n.val → t.rxOf k = s.rxOf k) ∧ t = { s with regs := t.regs, rx := t.rx } := by
  obtain ⟨hvalid, hx⟩ := (s.wr (noiseField n len) (noiseValue len v)).rd_restartNoise n
  have honly := (s.wr (noiseField n len) (noiseValue len v)).restartNoise_onlyRegs n
  obtain ⟨hapart, hcal⟩ := noiseField_apart n n.isLt len
  have hfield : OnlyRegs (noiseField n len :: noiseFields n) s (s.wr (noiseField n len) (noiseValue len v)) :=
    (OnlyRegs.refl s _).wr List.mem_cons_self _
  refine ⟨_, exec_noiseWindowWrite hs len v, hvalid, ?_, ?_, State.noiseCount_restartNoise _ _,
    hfield.trans (honly.mono fun _ => List.mem_cons_of_mem _),
    fun k hk => (State.rxOf_restartNoise_other _ hk).trans (s.rxOf_wr _ _ k), (s.wr _ _).restartNoise_frame n⟩
  · rw [honly _ hapart, State.rd_wr_same, low_noiseValue]
  · rw [hx, State.rd_wr_other _ _ hcal]

end Noise

theorem State.not_replayGood {s : State} {r : Replay} {residues : Nat} (h : s.ringHolds r.quay r.seg r.at_ = false ∨
    s.ringErrors r.quay r.seg ≠ [] ∨ residues ≠ 0 ∨ s.replayInTime r.quay r.seg = false) : ¬s.replayGood r residues := by
  rintro ⟨hholds, herr, hres, htime⟩
  rcases h with h | h | h | h
  · simp [hholds] at h
  · exact h herr
  · exact h hres
  · simp [htime] at h

/-- Settles O24: a close counts its segment and goes on in one of three ways, a replay begins or ends in one of two, and the noise estimate restarts or
becomes valid. -/
theorem segmentsCloseAndReplay : Obligations.SegmentsCloseAndReplay := by
  intro n s hs
  refine ⟨fun adc residues badPoints badSlots g hg hin => ?_, replayStart_takes_oldest hs,
    fun residues badPoints badOffsets badCode r hr hn => ?_, noiseEstimateValid_sets hs, noiseWindowWrite_restarts hs⟩
  · refine ⟨_, exec_segmentClose hs hg hin adc residues badPoints badSlots, ?_⟩
    by_cases hres : residues = 0
    · rw [if_pos hres]
      obtain ⟨hclosed, hqueue, hcount⟩ := s.segClosed_clean n.isLt g adc badPoints badSlots _ rfl
      exact ⟨hclosed.now, hclosed.counted, hclosed.tail, fun _ => ⟨hqueue, hcount⟩, fun h => absurd hres h, fun h => absurd hres h,
        fun h => absurd hres h, hclosed.others, hclosed.frame⟩
    · rw [if_neg hres, s.residuesSeen_segPassed_replayQ n.isLt]
      by_cases hroom : s.replayQ.length < 16
      · rw [if_pos hroom]
        obtain ⟨hclosed, hcounted, hqueue, hwaits⟩ := s.segClosed_queued n.isLt g adc badPoints badSlots hres rfl
        exact ⟨hclosed.now, hclosed.counted, hclosed.tail, fun h => absurd h hres, fun _ => hcounted, fun _ _ => ⟨hqueue, hwaits⟩,
          fun _ hfull => absurd hroom (Nat.not_lt.mpr hfull), hclosed.others, hclosed.frame⟩
      · rw [if_neg hroom]
        obtain ⟨hclosed, hcounted, hqueue, ⟨hflag, hlost⟩, hdrop⟩ := s.segClosed_dropped n.isLt g adc badPoints badSlots hres rfl
        exact ⟨hclosed.now, hclosed.counted, hclosed.tail, fun h => absurd h hres, fun _ => hcounted, fun _ h => absurd h hroom,
          fun _ _ => ⟨hqueue, hflag, hdrop, hlost⟩, hclosed.others, hclosed.frame⟩
  · by_cases hgood : s.replayGood r residues
    · obtain ⟨t, hexec, hended, hcount, hlost⟩ := replayDone_commits hs hr hn residues badPoints badOffsets badCode hgood
      exact ⟨t, hexec, hended.free, hended.decided, fun _ _ _ _ => ⟨hcount, hlost⟩, fun h => absurd hgood (State.not_replayGood h),
        fun h => absurd hgood.2.1 h, hended.others, hended.frame⟩
    · obtain ⟨t, hexec, hended, hlost, hring⟩ := replayDone_loses hs hr hn residues badPoints badOffsets badCode hgood
      exact ⟨t, hexec, hended.free, hended.decided, fun hh he hz ht => absurd ⟨hh, he, hz, ht⟩ hgood, fun _ => hlost, hring, hended.others,
        hended.frame⟩

end Sys2Proof.Machine
end

section
/-! SUPPORT. What a good Hawser frame leaves of the count of boundaries without one (R409): statement O46. -/

namespace Sys2Proof.Machine

@[simp] theorem State.hawserSync_hawser (s : State) (b : Nat) : (s.hawserSync b).hawser = s.hawser := by
  unfold State.hawserSync
  extract_lets late due s1
  have h1 : s1.hawser = s.hawser := by
    simp only [s1]
    split <;> rfl
  split
  · exact h1
  · exact (State.acceptAt_hawser ..).trans h1

/-- The frame has a START, a CRC that fits, and a version in the interface's range (R407, R409). -/
def State.hawserTakes (s : State) (frame : BitVec 96) : Prop :=
  bits frame.toNat 0 8 = 0xA5 ∧ hawserFrame frame.toNat = frame.toNat ∧
    s.rd (R.HB_IF_i_MIN 4) ≤ Nat.min (bits frame.toNat 8 4) (s.rd (R.HB_IF_i_MAX 4))

/-- R409 counts successive boundaries without a good frame: a good frame begins the count again, whatever it was. -/
theorem hawserFrameReceive_clears_misses {s t : State} (hs : s.runs) {frame : BitVec 96} (hf : s.hawserTakes frame) {at_ : Nat}
    (h : exec (.hawserFrameReceive frame true at_) s = .next t) : t.hawser.misses = 0 := by
  obtain ⟨hstart, hcrc, hver⟩ := hf
  change execHawserFrameReceive frame true at_ s = _ at h
  rw [execHawserFrameReceive, State.live_runs hs] at h
  extract_lets v ver head hop b s1 s2 x s3 u s4 at h
  rw [if_neg (not_not_intro hstart), if_neg (by simpa using hcrc), if_neg (Nat.not_lt.mpr hver)] at h
  have h3 : s3.hawser.misses = 0 := rfl
  have h4 : s4.hawser.misses = 0 := by
    simp only [s4]
    split
    · split
      · exact h3
      · exact (congrArg Hawser.misses (State.hawserSync_hawser ..)).trans h3
    · exact h3
  cases h
  exact h4

/-- The state after reset with one boundary passed without a good frame. -/
def missedOnce : State := { State.reset with hawser := { misses := 1 } }

/-- A frame of version 1 for tide 0, without SYNC, with HOP 0. -/
def tideZeroFrame : BitVec 96 := BitVec.ofNat 96 (hawserFrame (hawserBits 1 0 0 0 0))

theorem missedOnce_takes_tideZeroFrame : missedOnce.hawserTakes tideZeroFrame := by
  unfold State.hawserTakes
  decide +kernel

/-- Refutes O46: its clause on a good frame has the count of boundaries without a good frame stay as it was. A good frame of version 1 that comes after
one such boundary sets the count from 1 to 0, as R409, which counts successive boundaries, asks. -/
theorem not_hawserAndTimeInputs : ¬ Obligations.HawserAndTimeInputs := by
  intro h
  have hruns : missedOnce.runs := rfl
  have htakes := missedOnce_takes_tideZeroFrame
  obtain ⟨hstart, hcrc, hver⟩ := htakes
  obtain ⟨hframes, -⟩ := h missedOnce hruns
  obtain ⟨-, -, hgood⟩ := hframes tideZeroFrame true 0 _ _ _ _ rfl rfl rfl rfl
  obtain ⟨-, haccepted⟩ := hgood hstart rfl (by decide +kernel)
  obtain ⟨t, hexec, -, -, -, -, -, -, -, -, -, -, -, -, hmisses, -⟩ := haccepted hver
  rw [hawserFrameReceive_clears_misses hruns missedOnce_takes_tideZeroFrame hexec] at hmisses
  exact absurd hmisses (by decide)

end Sys2Proof.Machine
end

section
/-! SUPPORT. What a write of the Warehouse stores (R342, R343, R345, R350). -/

namespace Sys2Proof.Machine

/-! What the parts of a request move. -/

/-- Nothing but the Warehouse, register fields, the work of the tide and the count of free values differs. -/
def SameButWarehouse (s t : State) : Prop := t = { s with regs := t.regs, wh := t.wh, free := t.free, work := t.work }

/-- The fields that a write request may move. -/
def whWriteFields : List Fld := [R.WH_STATUS_RMW_ERR, R.WH_STATUS_RANGE_ERR]

/-- From `s` to `t` requests of the Warehouse are served, which may move the fields `fs`. -/
structure WhServes (fs : List Fld) (s t : State) : Prop where
  only : OnlyRegs fs s t
  frame : SameButWarehouse s t

section Serves
variable {fs gs : List Fld} {s t u : State}

theorem WhServes.refl : WhServes fs s s := ⟨.refl s fs, rfl⟩

theorem WhServes.trans (h : WhServes fs s t) (h' : WhServes fs t u) : WhServes fs s u := by
  refine ⟨h.only.trans h'.only, ?_⟩
  have hst := h.frame
  have htu := h'.frame
  unfold SameButWarehouse at *
  rw [htu, hst]

theorem WhServes.mono (h : WhServes fs s t) (hsub : ∀ f ∈ fs, f ∈ gs) : WhServes gs s t := ⟨h.only.mono hsub, h.frame⟩

theorem WhServes.wr (h : WhServes fs s t) {f : Fld} (hf : f ∈ fs) (v : Nat) : WhServes fs s (t.wr f v) :=
  h.trans ⟨(OnlyRegs.refl t fs).wr hf v, rfl⟩

theorem WhServes.ite {c : Prop} [Decidable c] (ht : WhServes fs s t) (hu : WhServes fs s u) : WhServes fs s (if c then t else u) := by
  split <;> assumption

theorem WhServes.wh (h : WhServes fs s t) (w : Warehouse) : WhServes fs s { t with wh := w } := h.trans ⟨(OnlyRegs.refl t fs).of_regs rfl, rfl⟩

theorem WhServes.nextFree (h : WhServes fs s t) : WhServes fs s t.nextFree := h.trans ⟨(OnlyRegs.refl t fs).of_regs rfl, rfl⟩

theorem WhServes.foldl {β : Type} {step : State → β → State} (hstep : ∀ v x, WhServes fs v (step v x)) (l : List β) (s : State) :
    WhServes fs s (l.foldl step s) :=
  List.foldlRecOn l step .refl fun _ hv x _ => hv.trans (hstep _ x)

end Serves

section Charge
variable (s : State) (fs : List Fld)

theorem State.chargeTo_frame (n o k : Nat) : s.chargeTo n o k = { s with work := (s.chargeTo n o k).work } := by
  unfold State.chargeTo
  split <;> rfl

theorem State.chargeTo_serves (n o k : Nat) : WhServes fs s (s.chargeTo n o k) := by
  rw [State.chargeTo_frame]
  exact ⟨(OnlyRegs.refl s fs).of_regs rfl, rfl⟩

@[simp] theorem State.chargeTo_wh (n o k : Nat) : (s.chargeTo n o k).wh = s.wh := by rw [State.chargeTo_frame]

theorem State.whCharge_serves (req : WhReq) (n k : Nat) : WhServes fs s (s.whCharge req n k) := by
  unfold State.whCharge
  split
  · exact (s.chargeTo_serves fs _ _ _).trans (State.chargeTo_serves _ fs _ _ _)
  · exact s.chargeTo_serves fs _ _ _

@[simp] theorem State.whCharge_wh (req : WhReq) (n k : Nat) : (s.whCharge req n k).wh = s.wh := by
  unfold State.whCharge State.chargeReserve
  split
  · rw [State.chargeTo_wh, State.chargeTo_wh]
  · rw [State.chargeTo_wh]

end Charge

/-! One block's part. -/

/-- The write of `n` bytes at `a` covers the whole of block `b`. -/
def coversBlock (a n b : Nat) : Prop := a ≤ 64 * b ∧ 64 * b + 64 ≤ a + n

theorem coversBlock_iff (a n b : Nat) : coversBlock a n b ↔ min (a + n) (64 * b + 64) - max a (64 * b) = 64 := by
  unfold coversBlock
  omega

/-- The bytes of a write of `bs` at `a` that fall in block `b`. -/
def blockPart (a : Nat) (bs : List Byte) (b : Nat) : List Byte :=
  (bs.drop (max a (64 * b) - a)).take (min (a + bs.length) (64 * b + 64) - max a (64 * b))

/-- The 64 bytes of block `b` as a write of `bs` at `a` leaves them where it merges them with what the block held. -/
def State.mergedBlock (s : State) (a : Nat) (bs : List Byte) (b : Nat) : List Byte :=
  (s.whBlock b).take (max a (64 * b) - 64 * b) ++ blockPart a bs b ++ (s.whBlock b).drop (min (a + bs.length) (64 * b + 64) - 64 * b)

section Part
variable (s : State) (req : WhReq) (a : Nat) (bs : List Byte) (b : Nat)

theorem State.whWritePart_serves : WhServes whWriteFields s (s.whWritePart req a bs b).1 := by
  unfold State.whWritePart
  extract_lets lo hi part s0 old s1
  have h0 : WhServes whWriteFields s s0 := s.chargeTo_serves _ _ _ _
  have h1 : WhServes whWriteFields s s1 := h0.ite h0.nextFree
  split
  · exact WhServes.refl.wh _
  · split
    · exact h1.wh _
    · exact (h0.wh _).wr (by simp [whWriteFields]) 1

theorem State.whWritePart_of_covers {b : Nat} (h : coversBlock a bs.length b) :
    (s.whWritePart req a bs b).1.wh = (s.wh.putBlock b (blockPart a bs b)).touch req.page b :=
  congrArg (fun r : State × Bool => r.1.wh) (if_pos ((coversBlock_iff ..).mp h))

theorem State.whBlock_congr {s t : State} (hwh : t.wh = s.wh) (hfree : t.free = s.free) (b : Nat) : t.whBlock b = s.whBlock b := by
  unfold State.whBlock
  rw [hwh, hfree]

theorem State.whWritePart_of_part {b : Nat} (h : ¬coversBlock a bs.length b) :
    (s.whWritePart req a bs b).1.wh = (s.wh.putBlock b (s.mergedBlock a bs b)).touch req.page b ∨
      (s.whWritePart req a bs b).1.wh = s.wh.touch req.page b := by
  have hwh : (s.chargeReserve req.cls 64).wh = s.wh := State.chargeTo_wh ..
  have hblock : (s.chargeReserve req.cls 64).whBlock b = s.whBlock b := by
    refine State.whBlock_congr hwh ?_ b
    rw [State.chargeReserve, State.chargeTo_frame]
  unfold State.whWritePart
  extract_lets lo hi part s0 old s1
  have hs1 : s1.wh = s.wh := by
    simp only [s1]
    split
    · exact hwh
    · exact hwh
  rw [if_neg (fun hw => h ((coversBlock_iff ..).mpr hw))]
  split
  · refine .inl ?_
    show (s1.wh.putBlock b _).touch req.page b = _
    rw [hs1, State.mergedBlock, ← hblock]
    rfl
  · refine .inr ?_
    show s0.wh.touch req.page b = _
    rw [hwh]

/-! The bytes of a block. -/

theorem State.whBlock_length : (s.whBlock b).length = 64 := by
  unfold State.whBlock
  split
  · exact Tab.length_getList ..
  · rw [List.length_map, List.length_range]

/-- A byte of a block that was written is in the memory. -/
theorem State.whBlock_getD {j : Nat} (h : Tab.get false s.wh.written (j / 64) = true) :
    (s.whBlock (j / 64)).getD (j - 64 * (j / 64)) 0 = Tab.get 0 s.wh.bytes j := by
  have hlt : j - 64 * (j / 64) < 64 := by omega
  have hat : 64 * (j / 64) + (j - 64 * (j / 64)) = j := by omega
  rw [State.whBlock, if_pos h, Tab.getList_eq_map, List.getD_eq_getElem?_getD, List.getElem?_map, List.getElem?_range hlt, Option.map_some,
    Option.getD_some, hat]

theorem Warehouse.bytes_putBlock (w : Warehouse) {l : List Byte} (hl : l.length = 64) (j : Nat) :
    Tab.get 0 (w.putBlock b l).bytes j = if j / 64 = b then l.getD (j - 64 * b) 0 else Tab.get 0 w.bytes j := by
  refine (Tab.get_putList ..).trans (if_congr ?_ rfl rfl)
  rw [hl]
  omega

theorem Warehouse.written_putBlock (w : Warehouse) (l : List Byte) (k : Nat) (h : Tab.get false w.written k = true) :
    Tab.get false (w.putBlock b l).written k = true := by
  refine (Tab.get_put false w.written b k true).trans ?_
  split
  · rfl
  · exact h

theorem blockPart_length (h : 64 * b < a + bs.length) : (blockPart a bs b).length = min (a + bs.length) (64 * b + 64) - max a (64 * b) := by
  rw [blockPart, List.length_take, List.length_drop]
  omega

theorem State.mergedBlock_length (hlo : a / 64 ≤ b) (hhi : 64 * b < a + bs.length) : (s.mergedBlock a bs b).length = 64 := by
  rw [State.mergedBlock, List.length_append, List.length_append, blockPart_length a bs b hhi, List.length_take, List.length_drop, s.whBlock_length]
  omega

/-- Outside the bytes written, the merged block holds what the block held. -/
theorem State.mergedBlock_getD_outside (hlo : a / 64 ≤ b) (hhi : 64 * b < a + bs.length) {j : Nat} (hj : j / 64 = b)
    (hout : j < a ∨ a + bs.length ≤ j) : (s.mergedBlock a bs b).getD (j - 64 * b) 0 = (s.whBlock b).getD (j - 64 * b) 0 := by
  have hlen := s.whBlock_length b
  have hpart := blockPart_length a bs b hhi
  rw [State.mergedBlock, List.append_assoc]
  simp only [List.getD_eq_getElem?_getD]
  rcases hout with h | h
  · rw [List.getElem?_append_left (by rw [List.length_take]; omega), List.getElem?_take_of_lt (by omega)]
  · rw [List.getElem?_append_right (by rw [List.length_take]; omega), List.getElem?_append_right (by rw [List.length_take]; omega),
      List.getElem?_drop, hpart, List.length_take]
    congr 2
    omega

/-- A byte outside those written keeps what it holds. -/
theorem State.whWritePart_keeps (hlo : a / 64 ≤ b) (hhi : 64 * b < a + bs.length) {j : Nat} (hout : j < a ∨ a + bs.length ≤ j)
    (hw : Tab.get false s.wh.written (j / 64) = true) : Tab.get false (s.whWritePart req a bs b).1.wh.written (j / 64) = true ∧
      Tab.get 0 (s.whWritePart req a bs b).1.wh.bytes j = Tab.get 0 s.wh.bytes j := by
  by_cases hcov : coversBlock a bs.length b
  · rw [s.whWritePart_of_covers req a bs hcov]
    refine ⟨Warehouse.written_putBlock b s.wh (blockPart a bs b) _ hw, (Warehouse.bytes_putBlock b s.wh ?_ j).trans (if_neg fun hj => ?_)⟩
    · rw [blockPart_length a bs b hhi]
      exact (coversBlock_iff ..).mp hcov
    · obtain ⟨hc1, hc2⟩ := hcov
      omega
  · rcases s.whWritePart_of_part req a bs hcov with hm | ht
    · rw [hm]
      refine ⟨Warehouse.written_putBlock b s.wh (s.mergedBlock a bs b) _ hw, (Warehouse.bytes_putBlock b s.wh (s.mergedBlock_length a bs b hlo hhi) j).trans ?_⟩
      split
      · next hj => rw [s.mergedBlock_getD_outside a bs b hlo hhi hj hout, ← hj, s.whBlock_getD hw]
      · rfl
    · rw [ht]
      exact ⟨hw, rfl⟩

/-- A block that the write covers whole takes its bytes. -/
theorem State.whWritePart_stores {b : Nat} (hcov : coversBlock a bs.length b) (j : Nat) :
    Tab.get 0 (s.whWritePart req a bs b).1.wh.bytes j = if j / 64 = b then bs.getD (j - a) 0 else Tab.get 0 s.wh.bytes j := by
  rw [s.whWritePart_of_covers req a bs hcov]
  have hlen := (coversBlock_iff ..).mp hcov
  obtain ⟨hc1, hc2⟩ := hcov
  refine (Warehouse.bytes_putBlock b s.wh ((blockPart_length a bs b (by omega)).trans hlen) j).trans ?_
  split
  · next hj =>
    have hmax : max a (64 * b) = 64 * b := Nat.max_eq_right hc1
    rw [blockPart, hmax]
    exact getD_part hc1 (by omega) (by omega)
  · rfl

end Part

/-! A whole request. -/

theorem mem_blocksOf {a n b : Nat} : b ∈ blocksOf a n ↔ n ≠ 0 ∧ a / 64 ≤ b ∧ 64 * b < a + n := by
  unfold blocksOf
  split
  · next h => simp [h]
  · next h =>
    rw [List.mem_map]
    constructor
    · rintro ⟨i, hi, rfl⟩
      have := List.mem_range.mp hi
      omega
    · rintro ⟨-, hlo, hhi⟩
      exact ⟨b - a / 64, List.mem_range.mpr (by omega), by omega⟩

/-- The parts of a write in these blocks, one after the other. -/
def State.whWriteParts (s : State) (req : WhReq) (a : Nat) (bs : List Byte) (blocks : List Nat) : State :=
  blocks.foldl (fun t b => (t.whWritePart req a bs b).1) s

section Store
variable (s : State) (req : WhReq) (a : Nat) (bs : List Byte)

theorem State.whStore_of_not_ready (h : s.rd R.WH_STATUS_READY ≠ 1) : s.whStore req a bs = s := by
  unfold State.whStore State.whWrite
  rw [if_pos (by simpa [State.on] using h)]

theorem State.whStore_of_range (hready : s.rd R.WH_STATUS_READY = 1) (h : s.whUsable < a + bs.length) :
    s.whStore req a bs = s.wr R.WH_STATUS_RANGE_ERR 1 := by
  unfold State.whStore State.whWrite
  rw [if_neg (by simp [State.on, hready]), if_pos h]

theorem State.whStore_of_room (hready : s.rd R.WH_STATUS_READY = 1) (h : a + bs.length ≤ s.whUsable) :
    s.whStore req a bs = (s.whCharge req bs.length (blocksOf a bs.length).length).whWriteParts req a bs (blocksOf a bs.length) := by
  unfold State.whStore State.whWrite
  rw [if_neg (by simp [State.on, hready]), if_neg (Nat.not_lt.mpr h)]
  exact (List.foldl_hom Prod.fst fun _ _ => rfl).symm

/-- The three ways in which a request ends. -/
theorem State.whStore_cases {p : State → Prop} (hstay : p s) (hrange : p (s.wr R.WH_STATUS_RANGE_ERR 1))
    (hparts : p ((s.whCharge req bs.length (blocksOf a bs.length).length).whWriteParts req a bs (blocksOf a bs.length))) : p (s.whStore req a bs) := by
  by_cases hready : s.rd R.WH_STATUS_READY = 1
  · by_cases hroom : a + bs.length ≤ s.whUsable
    · rwa [s.whStore_of_room req a bs hready hroom]
    · rwa [s.whStore_of_range req a bs hready (Nat.lt_of_not_le hroom)]
  · rwa [s.whStore_of_not_ready req a bs hready]

theorem State.whStore_serves : WhServes whWriteFields s (s.whStore req a bs) :=
  s.whStore_cases req a bs .refl (WhServes.refl.wr (by simp [whWriteFields]) 1)
    ((s.whCharge_serves _ _ _ _).trans (.foldl (fun t b => t.whWritePart_serves req a bs b) _ _))

theorem State.whWriteParts_keeps {j : Nat} (hout : j < a ∨ a + bs.length ≤ j) : ∀ (blocks : List Nat) (t : State),
    (∀ b ∈ blocks, a / 64 ≤ b ∧ 64 * b < a + bs.length) → Tab.get false t.wh.written (j / 64) = true →
      Tab.get 0 (t.whWriteParts req a bs blocks).wh.bytes j = Tab.get 0 t.wh.bytes j
  | [], _, _, _ => rfl
  | b :: blocks, t, hb, hw => by
    obtain ⟨⟨hlo, hhi⟩, hrest⟩ := List.forall_mem_cons.mp hb
    obtain ⟨hwritten, hbytes⟩ := t.whWritePart_keeps req a bs b hlo hhi hout hw
    exact (State.whWriteParts_keeps hout blocks _ hrest hwritten).trans hbytes

/-- R345: a byte that a request does not write keeps what it holds. -/
theorem State.whStore_keeps {j : Nat} (hout : j < a ∨ a + bs.length ≤ j) (hw : Tab.get false s.wh.written (j / 64) = true) :
    Tab.get 0 (s.whStore req a bs).wh.bytes j = Tab.get 0 s.wh.bytes j := by
  refine s.whStore_cases req a bs (p := fun t => Tab.get 0 t.wh.bytes j = Tab.get 0 s.wh.bytes j) rfl rfl ?_
  have hwh := s.whCharge_wh req bs.length (blocksOf a bs.length).length
  rw [State.whWriteParts_keeps req a bs hout _ _ (fun b hb => (mem_blocksOf.mp hb).2) (by rwa [hwh]), hwh]

theorem State.whWriteParts_stores (j : Nat) : ∀ (blocks : List Nat) (t : State), (∀ b ∈ blocks, coversBlock a bs.length b) →
    Tab.get 0 (t.whWriteParts req a bs blocks).wh.bytes j = if j / 64 ∈ blocks then bs.getD (j - a) 0 else Tab.get 0 t.wh.bytes j
  | [], _, _ => rfl
  | b :: blocks, t, hb => by
    obtain ⟨hcov, hrest⟩ := List.forall_mem_cons.mp hb
    refine (State.whWriteParts_stores j blocks _ hrest).trans ?_
    rw [t.whWritePart_stores req a bs hcov]
    by_cases hj : j / 64 = b <;> by_cases hm : j / 64 ∈ blocks <;> simp [hj, hm]

/-- R345: a request of whole blocks within the usable range stores its bytes. -/
theorem State.whStore_stores (hready : s.rd R.WH_STATUS_READY = 1) (hroom : a + bs.length ≤ s.whUsable) (ha : a % 64 = 0)
    (hlen : bs.length % 64 = 0) {i : Nat} (hi : i < bs.length) : Tab.get 0 (s.whStore req a bs).wh.bytes (a + i) = bs.getD i 0 := by
  have hcov : ∀ b ∈ blocksOf a bs.length, coversBlock a bs.length b := fun b hb => by
    obtain ⟨-, hlo, hhi⟩ := mem_blocksOf.mp hb
    exact ⟨by omega, by omega⟩
  have hmem : (a + i) / 64 ∈ blocksOf a bs.length := mem_blocksOf.mpr ⟨by omega, by omega, by omega⟩
  rw [s.whStore_of_room req a bs hready hroom, State.whWriteParts_stores req a bs _ _ _ hcov, if_pos hmem, Nat.add_sub_cancel_left]

end Store

end Sys2Proof.Machine
end

section
/-! SUPPORT. The corner turn's flush and the synchronising reset (R121 to R123, R133): statement O25. -/

namespace Sys2Proof.Machine

@[simp] theorem State.dasOf_setDas_same (s : State) (b : Nat) (d : Das) : (s.setDas b d).dasOf b = d := Tab.get_put_same ..

theorem State.dasOf_setDas_other (s : State) {b k : Nat} (d : Das) (h : k ≠ b) : (s.setDas b d).dasOf k = s.dasOf k :=
  Tab.get_put_other _ _ _ _ (Ne.symm h)

theorem State.dasOf_congr {s t : State} (h : t.das = s.das) (b : Nat) : t.dasOf b = s.dasOf b := by rw [State.dasOf, State.dasOf, h]

theorem WhServes.dasOf {fs : List Fld} {s t : State} (h : WhServes fs s t) (b : Nat) : t.dasOf b = s.dasOf b := by
  rw [h.frame]
  rfl

theorem Das.tagTile_frame (d : Das) (u g tags : Nat) : d.tagTile u g tags = { d with sums := (d.tagTile u g tags).sums } :=
  List.foldlRecOn (motive := fun e : Das => e = { d with sums := e.sums }) (List.range 256) _ rfl fun e he c _ => by
    rw [he]
    rfl

theorem Das.tagTile_ring (d : Das) (u g tags : Nat) : (d.tagTile u g tags).ring = d.ring := by rw [Das.tagTile_frame]

/-! The bytes of a tile (R118). -/

/-- The rows of a tile, among those named, whose buffers fail parity. -/
def failingRows (parityRows : List Nat) : List Nat := (parityRows.filter (fun r => r < 16)).eraseDups

theorem contains_failingRows (parityRows : List Nat) {r : Nat} (h : r < 16) : (failingRows parityRows).contains r = parityRows.contains r := by
  rw [Bool.eq_iff_iff, List.contains_iff_mem, List.contains_iff_mem, failingRows, List.mem_eraseDups, List.mem_filter]
  simp [h]

theorem Das.tileBytes_failingRows (d : Das) (w u g : Nat) (parityRows : List Nat) :
    d.tileBytes w u g (failingRows parityRows) = d.tileBytes w u g parityRows := by
  unfold Das.tileBytes
  refine List.flatMap_congr fun r hr => ?_
  rw [contains_failingRows parityRows (List.mem_range.mp hr)]

theorem Das.tileBytes_length (d : Das) (w u g : Nat) (bad : List Nat) : (d.tileBytes w u g bad).length = 32 * w := by
  simp only [Das.tileBytes, List.length_flatMap, leBytes_length, List.map_const', List.sum_replicate, List.length_range, smul_eq_mul]
  omega

theorem Berth.width_block (b : Berth) : 32 * b.width % 64 = 0 := by
  unfold Berth.width
  split <;> rfl

/-! The flush. -/

/-- Each of these rows counts as a staging parity error. -/
def State.stageErrors (s : State) (bad : List Nat) : State :=
  bad.foldl (fun t _ => (t.wr R.RX_SL_STATUS_STAGE_PARITY 1).inc R.RX_SL_PARITY_CNT_STAGE) s

section Errors
variable (s : State) (bad : List Nat)

theorem State.stageErrors_onlyRegs : OnlyRegs [R.RX_SL_STATUS_STAGE_PARITY, R.RX_SL_PARITY_CNT_STAGE] s (s.stageErrors bad) :=
  onlyRegs_foldl (fun t _ => ((OnlyRegs.refl t _).wr (by simp) _).wr (by simp) _) bad s

theorem State.stageErrors_sameButRegs : SameButRegs s (s.stageErrors bad) :=
  sameButRegs_foldl (fun t _ => ((SameButRegs.refl t).wr _ _).wr _ _) bad s

theorem State.rd_stageErrors {bad : List Nat} (h : bad ≠ []) : (s.stageErrors bad).rd R.RX_SL_STATUS_STAGE_PARITY = 1 := by
  rw [State.stageErrors, ← List.dropLast_append_getLast h, List.foldl_append]
  refine (State.rd_inc_other _ (by decide)).trans ?_
  exact State.rd_wr_same ..

end Errors

section Flush
variable (s : State) (berth group : Nat) (parityRows : List Nat)

/-- The number of the oldest tile of the group that was not flushed. -/
def State.flushTile : Nat := Tab.get 0 (s.dasOf berth).flushed group

/-- The DAS part of the berth once that tile is flushed. -/
def State.dasFlushed : Das :=
  let d := s.dasOf berth
  let u := s.flushTile berth group
  let d1 : Das := { d with flushed := Tab.put 0 d.flushed group (u + 1)
                           failed := d.failed.filter (fun e => e.1 != group || decide (u < e.2 + tileRingLen d.tin)) }
  if (failingRows parityRows).isEmpty then d1 else d1.tagTile u group tagLost

/-- That tile is stored. -/
def State.tileStored : State :=
  s.whStore { owner := some berth } (s.tileAddr berth group (s.flushTile berth group))
    ((s.dasOf berth).tileBytes (s.berth berth).width (s.flushTile berth group) group (failingRows parityRows))

/-- That tile is stored and joins the writes of the berth's Tug. -/
def State.tileSent : State :=
  { (s.tileStored berth group parityRows).setDas berth (s.dasFlushed berth group parityRows) with
    tileWrites := Tab.put [] s.tileWrites (s.dasOf berth).tug
      (Tab.get [] s.tileWrites (s.dasOf berth).tug ++ [(berth, group, s.flushTile berth group)]) }

theorem State.dasFlushed_flushed : Tab.get 0 (s.dasFlushed berth group parityRows).flushed group = s.flushTile berth group + 1 := by
  unfold State.dasFlushed
  extract_lets d u d1
  have h1 : Tab.get 0 d1.flushed group = u + 1 := Tab.get_put_same 0 d.flushed group (u + 1)
  split
  · exact h1
  · rw [Das.tagTile_frame]
    exact h1

theorem State.dasFlushed_rows : (s.dasFlushed berth group parityRows).rows = (s.dasOf berth).rows := by
  unfold State.dasFlushed
  extract_lets d u d1
  split
  · rfl
  · rw [Das.tagTile_frame]

theorem State.tileStored_serves : WhServes whWriteFields s (s.tileStored berth group parityRows) := s.whStore_serves ..

theorem exec_tileFlush {s : State} {berth group : Nat} (hs : s.runs) (hopen : (s.berth berth).isOpen = true)
    (hgroup : group < groupsOf (s.berth berth).channels)
    (hfull : (s.dasOf berth).tileFull (s.berth berth).channels (s.flushTile berth group) group = true) :
    exec (.tileFlush berth group parityRows) s = .next ((s.tileSent berth group parityRows).stageErrors (failingRows parityRows)) := by
  have hwrites : (s.tileStored berth group parityRows).tileWrites = s.tileWrites := by rw [(s.tileStored_serves berth group parityRows).frame]
  show execTileFlush berth group parityRows s = _
  rw [State.tileSent, ← hwrites, execTileFlush, State.live_runs hs]
  exact if_pos ⟨hopen, hgroup, hfull⟩

theorem State.tileSent_onlyRegs : OnlyRegs whWriteFields s (s.tileSent berth group parityRows) :=
  (s.tileStored_serves berth group parityRows).only.of_regs rfl

theorem State.tileSent_frame : s.tileSent berth group parityRows = { s with
    regs := (s.tileSent berth group parityRows).regs, das := (s.tileSent berth group parityRows).das, wh := (s.tileSent berth group parityRows).wh,
    free := (s.tileSent berth group parityRows).free, work := (s.tileSent berth group parityRows).work,
    tileWrites := (s.tileSent berth group parityRows).tileWrites } := by
  have h := (s.tileStored_serves berth group parityRows).frame
  unfold State.tileSent
  rw [SameButWarehouse] at h
  rw [h]
  rfl

theorem State.tileSent_das : (s.tileSent berth group parityRows).das = Tab.put {} s.das berth (s.dasFlushed berth group parityRows) := by
  have h := (s.tileStored_serves berth group parityRows).frame
  show Tab.put {} (s.tileStored berth group parityRows).das berth _ = _
  rw [h]

/-- R122: the tile is at its slot of the tile ring. -/
theorem State.tileSent_stores (hready : s.rd R.WH_STATUS_READY = 1) (hat : s.tileAddr berth group (s.flushTile berth group) % 64 = 0)
    (hroom : s.tileAddr berth group (s.flushTile berth group) + 32 * (s.berth berth).width ≤ s.whUsable) {i : Nat}
    (hi : i < 32 * (s.berth berth).width) :
    Tab.get 0 (s.tileSent berth group parityRows).wh.bytes (s.tileAddr berth group (s.flushTile berth group) + i) =
      ((s.dasOf berth).tileBytes (s.berth berth).width (s.flushTile berth group) group parityRows).getD i 0 := by
  rw [← Das.tileBytes_failingRows]
  have hlen := (s.dasOf berth).tileBytes_length (s.berth berth).width (s.flushTile berth group) group (failingRows parityRows)
  exact s.whStore_stores _ _ _ hready (by rwa [hlen]) hat (by rw [hlen]; exact (s.berth berth).width_block) (by rwa [hlen])

theorem State.tileSent_keeps {a : Nat} (hout : a < s.tileAddr berth group (s.flushTile berth group) ∨
      s.tileAddr berth group (s.flushTile berth group) + 32 * (s.berth berth).width ≤ a) (hw : Tab.get false s.wh.written (a / 64) = true) :
    Tab.get 0 (s.tileSent berth group parityRows).wh.bytes a = Tab.get 0 s.wh.bytes a := by
  have hlen := (s.dasOf berth).tileBytes_length (s.berth berth).width (s.flushTile berth group) group (failingRows parityRows)
  exact s.whStore_keeps _ _ _ (by rwa [hlen]) hw

end Flush

end Sys2Proof.Machine
end

section
/-! SUPPORT. The rows of the Sluice (R123, R128 to R138): statement O25. -/

namespace Sys2Proof.Machine

/-! What reads of the Warehouse move. -/

/-- The fields that a read request may move. -/
def whReadFields : List Fld :=
  [R.WH_STATUS_RANGE_ERR, R.WH_FWD_CNT_COUNT, R.WH_STATUS_REREAD, R.WH_REREAD_CNT_COUNT, R.WH_STATUS_CHK_ERR, R.WH_CHK_CNT_COUNT,
    R.WH_CHK_ADDR_LO_ADDR_LO, R.WH_CHK_ADDR_HI_ADDR_HI]

section Read
variable (s : State) (req : WhReq) (retry : Bool) (luck : WhLuck)

theorem State.whReadPart_serves (b : Nat) : WhServes whReadFields s (s.whReadPart req retry luck b).1 := by
  unfold State.whReadPart
  extract_lets s1 good t s2
  have h1 : WhServes whReadFields s s1 := WhServes.refl.wh _
  have ht : WhServes whReadFields s t := .ite (h1.trans (s1.chargeTo_serves _ _ _ _)) h1
  have h2 : WhServes whReadFields s s2 := .ite ht ((ht.wr (by simp [whReadFields]) _).wr (by simp [whReadFields]) _)
  split
  · exact WhServes.refl.wr (by simp [whReadFields]) _
  split
  · exact h1
  split
  · exact (ht.wr (by simp [whReadFields]) _).wr (by simp [whReadFields]) _
  · exact (h2.wr (by simp [whReadFields]) _).wr (by simp [whReadFields]) _

theorem State.whRead_serves (a n : Nat) : WhServes whReadFields s (s.whRead req a n retry luck).1 := by
  unfold State.whRead
  split
  · exact .refl
  split
  · exact WhServes.refl.wr (by simp [whReadFields]) _
  · extract_lets s0 r fresh
    have h0 : WhServes whReadFields s s0 := (WhServes.refl.wh _).trans (State.whCharge_serves _ _ _ _ _)
    have hr : WhServes whReadFields s r.1 :=
      List.foldlRecOn (motive := fun p : State × Bool => WhServes whReadFields s p.1) (blocksOf a n) _ h0
        fun p hp b _ => hp.trans (p.1.whReadPart_serves req retry luck b)
    exact .ite hr.nextFree hr

end Read

/-! The Sluice at work on a berth. -/

/-- The fields that let a write request into the Warehouse. -/
def whGates : List Fld := [R.WH_STATUS_READY, R.WH_USABLE_LO_BYTES_LO, R.WH_USABLE_HI_BYTES_HI]

/-- Nothing but register fields, the berths' DAS parts, the Warehouse, the work of the tide and the count of free values differs. -/
def SameButRow (s t : State) : Prop :=
  t = { s with regs := t.regs, das := t.das, wh := t.wh, free := t.free, work := t.work, late := t.late, cutWork := t.cutWork }

theorem SameButRow.trans {s t u : State} (h : SameButRow s t) (h' : SameButRow t u) : SameButRow s u := by
  unfold SameButRow at *
  rw [h', h]

theorem SameButRegs.sameButRow {s t : State} (h : SameButRegs s t) : SameButRow s t := by
  unfold SameButRegs SameButRow at *
  rw [h]

theorem SameButWarehouse.sameButRow {s t : State} (h : SameButWarehouse s t) : SameButRow s t := by
  unfold SameButWarehouse SameButRow at *
  rw [h]

theorem State.setDas_sameButRow (s : State) (b : Nat) (d : Das) : SameButRow s (s.setDas b d) := rfl

/-- From `s` to `t` the Sluice works for berth `b`: the other berths' parts, the berth's ring and the gates of the Warehouse stay. -/
structure SluiceWorks (b : Nat) (s t : State) : Prop where
  others : ∀ k, k ≠ b → t.dasOf k = s.dasOf k
  ring : (t.dasOf b).ring = (s.dasOf b).ring
  gates : ∀ f ∈ whGates, t.rd f = s.rd f
  frame : SameButRow s t

section Works
variable {b : Nat} {s t u : State}

theorem SluiceWorks.refl : SluiceWorks b s s := ⟨fun _ _ => rfl, rfl, fun _ _ => rfl, rfl⟩

theorem SluiceWorks.trans (h : SluiceWorks b s t) (h' : SluiceWorks b t u) : SluiceWorks b s u :=
  ⟨fun k hk => (h'.others k hk).trans (h.others k hk), h'.ring.trans h.ring, fun f hf => (h'.gates f hf).trans (h.gates f hf),
    h.frame.trans h'.frame⟩

theorem SluiceWorks.foldl {β : Type} {step : State → β → State} (hstep : ∀ v x, SluiceWorks b v (step v x)) (l : List β) (s : State) :
    SluiceWorks b s (l.foldl step s) :=
  List.foldlRecOn l step .refl fun _ hv x _ => hv.trans (hstep _ x)

theorem SluiceWorks.setDas (h : SluiceWorks b s t) {d : Das} (hd : d.ring = (t.dasOf b).ring) : SluiceWorks b s (t.setDas b d) := by
  refine h.trans ⟨fun k hk => t.dasOf_setDas_other d hk, ?_, fun _ _ => rfl, rfl⟩
  rw [State.dasOf_setDas_same, hd]

theorem SluiceWorks.wr (h : SluiceWorks b s t) {f : Fld} (hf : ∀ g ∈ whGates, f.key ≠ g.key) (v : Nat) : SluiceWorks b s (t.wr f v) :=
  h.trans ⟨fun _ _ => rfl, rfl, fun g hg => t.rd_wr_other v (hf g hg), rfl⟩

theorem WhServes.sluiceWorks {fs : List Fld} (h : WhServes fs s t) (hfs : ∀ g ∈ whGates, ∀ f ∈ fs, f.key ≠ g.key) : SluiceWorks b s t :=
  ⟨fun k _ => h.dasOf k, by rw [h.dasOf], fun g hg => h.only g (hfs g hg), h.frame.sameButRow⟩

theorem State.spend_sluiceWorks (s : State) (n b amount : Nat) : SluiceWorks b s (s.spend n b amount).1 := by
  unfold State.spend
  extract_lets x y s1
  have h1 : SluiceWorks b s s1 := ⟨fun _ _ => rfl, rfl, fun _ _ => rfl, rfl⟩
  exact h1.trans ((s1.chargeTo_serves [] _ _ _).sluiceWorks (by simp))

/-- The Sluice has read tile `e`, group and number, of berth `b`: it counts as read, and as failed unless the read was good (R123). -/
def State.noteTile (t : State) (b : Nat) (e : Nat × Nat) (good : Prop) [Decidable good] : State :=
  let d : Das := { t.dasOf b with tilesRead := Tab.put 0 (t.dasOf b).tilesRead e.1 (max (e.2 + 1) (Tab.get 0 (t.dasOf b).tilesRead e.1)) }
  if good then t.setDas b d
  else ((t.setDas b { d.tagTile e.2 e.1 tagLost with failed := d.failed ++ [e] }).wr R.RX_SL_STATUS_TILE_ERR 1).inc R.RX_SL_TILE_ERR_CNT_COUNT

theorem State.noteTile_sluiceWorks (t : State) (b : Nat) (e : Nat × Nat) (good : Prop) [Decidable good] : SluiceWorks b t (t.noteTile b e good) := by
  unfold State.noteTile
  extract_lets x d y
  have hd : d.ring = (t.dasOf b).ring := rfl
  have hy : y.ring = d.ring := d.tagTile_ring e.2 e.1 tagLost
  clear_value y
  split
  · exact .setDas .refl hd
  · refine .wr (.wr (.setDas .refl ?_) (f := R.RX_SL_STATUS_TILE_ERR) (by decide) 1) (f := R.RX_SL_TILE_ERR_CNT_COUNT) (by decide) _
    exact hy.trans hd

theorem State.readTile_sluiceWorks (s : State) (b : Nat) (luck : WhLuck) (e : Nat × Nat) : SluiceWorks b s (s.readTile b luck e) :=
  ((State.whRead_serves s _ true luck _ _).sluiceWorks (by decide)).trans (State.noteTile_sluiceWorks _ b e _)

theorem State.stateError_sluiceWorks (s : State) (b anchor i : Nat) : SluiceWorks b s (s.stateError b anchor i) := by
  unfold State.stateError
  extract_lets d f t
  refine .wr (.wr (.setDas .refl ?_) (f := R.RX_SL_STATUS_STATE_PARITY) (by decide) 1) (f := R.RX_SL_PARITY_CNT_STATE) (by decide) _
  rfl

end Works

/-! An entry of a row (R135). -/

theorem makeEntry_length (d : Das) (fmt : Nat) (y : LineVal) (tags qual sum : Nat) :
    (makeEntry d fmt y tags qual sum).bytes.length = entryBytes fmt := by
  unfold makeEntry entryBytes
  extract_lets rtot v16 v32 beyond tag w acc
  split
  · split <;> exact leBytes_length ..
  · split <;> exact leBytes_length ..

theorem State.rowEntry_length (s : State) (b q : Nat) (r : RowAt) (tags i : Nat) :
    (s.rowEntry b q r tags i).2.bytes.length = entryBytes (dasParams (s.berth b).params).fmt := by
  unfold State.rowEntry
  extract_lets
  split <;> exact makeEntry_length ..

end Sys2Proof.Machine
end

section
/-! SUPPORT. How a row of the Sluice is formed, written and shown (R128 to R138), and statement O25. -/

namespace Sys2Proof.Machine

/-! The slot of a ring. -/

theorem ceilDiv_mul_ge (n : Nat) {d : Nat} (hd : 0 < d) : n ≤ ceilDiv n d * d := by
  have h := Nat.lt_div_mul_add (a := n + d - 1) hd
  rw [ceilDiv]
  omega

theorem State.whSlot_serves (s : State) (req : WhReq) (a size : Nat) (bs : List Byte) : WhServes whWriteFields s (s.whSlot req a size bs) :=
  s.whStore_serves ..

/-- A slot of whole blocks within the usable range holds its bytes. -/
theorem State.whSlot_stores (s : State) (req : WhReq) {a size : Nat} {bs : List Byte} (hready : s.rd R.WH_STATUS_READY = 1)
    (hroom : a + size ≤ s.whUsable) (ha : a % 64 = 0) (hsize : size % 64 = 0) (hlen : bs.length ≤ size) {i : Nat} (hi : i < bs.length) :
    Tab.get 0 (s.whSlot req a size bs).wh.bytes (a + i) = bs.getD i 0 := by
  have hall : (bs ++ (List.range (size - bs.length)).map (fun i => Config.padByte (a + bs.length + i))).length = size := by
    rw [List.length_append, List.length_map, List.length_range]
    omega
  rw [State.whSlot, s.whStore_stores _ _ _ hready (by rwa [hall]) ha (by rwa [hall]) (by omega), List.getD_append _ _ _ _ hi]

/-! How samples reach the watches. -/

theorem State.offer_frame (s : State) (w : Nat) (p : WatchSample) :
    s.offer w p = { s with regs := (s.offer w p).regs, watches := (s.offer w p).watches } := by
  unfold State.offer
  extract_lets x close s1
  split <;> rfl

/-- A watch's registers lie above those of the berths. -/
theorem State.rd_offer (s : State) (w : Nat) (p : WatchSample) {f : Fld} (hf : f.key < 8 * 0x901000) : (s.offer w p).rd f = s.rd f := by
  unfold State.offer
  extract_lets x close s1
  split
  · show s1.rd f = s.rd f
    refine (State.rd_wr_other _ _ ?_).trans (State.rd_inc_other _ ?_)
    · dsimp only [R.WT_w_STATUS_SKIPPED]; omega
    · dsimp only [R.WT_w_SKIP_CNT_COUNT]; omega
  · rfl

section Feed
variable (s : State) (kind source : Nat) (pick : Nat → Option WatchSample)

/-- What every sample offered to a watch keeps, the feed of a source keeps. -/
theorem State.feed_induct {p : State → Prop} (hs : p s) (hoffer : ∀ t w x, p t → p (t.offer w x)) : p (s.feed kind source pick) := by
  refine List.foldlRecOn _ _ hs fun t ht e _ => ?_
  split
  · split
    · exact hoffer t _ _ ht
    · exact ht
  · exact ht

theorem State.feed_frame :
    s.feed kind source pick = { s with regs := (s.feed kind source pick).regs, watches := (s.feed kind source pick).watches } := by
  refine s.feed_induct kind source pick (p := fun t => t = { s with regs := t.regs, watches := t.watches }) rfl fun t w x ht => ?_
  rw [t.offer_frame w x, ht]

@[simp] theorem State.feed_wh : (s.feed kind source pick).wh = s.wh := by rw [State.feed_frame]

@[simp] theorem State.feed_das : (s.feed kind source pick).das = s.das := by rw [State.feed_frame]

theorem State.rd_feed {f : Fld} (hf : f.key < 8 * 0x901000) : (s.feed kind source pick).rd f = s.rd f :=
  s.feed_induct kind source pick (p := fun t => t.rd f = s.rd f) rfl fun t w x ht => (t.rd_offer w x hf).trans ht

end Feed

/-! How a row is formed. -/

section Row
variable (s : State) (b q : Nat) (queued once spoilt badState : List Nat)

/-- The Sluice has read the tiles of row `q` and met the states that fail parity, and has spent the row's work: with the tags that this gives. -/
def State.rowWorked : State × Nat :=
  let p := dasParams (s.berth b).params
  let r := s.rowAt b q
  let errs := if p.pass ∨ r.cut then [] else badState.eraseDups.filter (fun i => decide (i < p.count))
  let t := errs.foldl (fun (t : State) i => t.stateError b r.anchor i) (s.readTiles b (s.rowTiles b q r) ⟨queued, once, spoilt⟩)
  t.spend 0 b (t.rowWork b r)

/-- The points of row `q`, each with its cascade and its entry. -/
def State.rowPoints : List (PointFilter × Entry) :=
  let w := s.rowWorked b q queued once spoilt badState
  (List.range (dasParams (s.berth b).params).count).map (w.1.rowEntry b q (s.rowAt b q) w.2)

/-- The tags of row `q`. -/
def State.rowTags : Nat := orTags ((s.rowPoints b q queued once spoilt badState).map (fun e => e.2.tag))

/-- The bytes of row `q`: its header and its entries (R135). -/
def State.rowImage : List Byte :=
  let p := dasParams (s.berth b).params
  (leBytes 8 ((s.rowAt b q).tau / 2 ^ 38) ++ leBytes 8 q ++ leBytes 4 (s.berth b).handle ++ leBytes 4 p.count ++ leBytes 1 p.fmt ++
    leBytes 1 (s.rowTags b q queued once spoilt badState) ++ leBytes 1 ((s.rowAt b q).tau / 2 ^ 30 % 256) ++ leBytes 5 0) ++
    (s.rowPoints b q queued once spoilt badState).flatMap (fun e => e.2.bytes)

/-- The slot of row `q` in the ring of berth `b`. -/
def State.rowSlot : Nat :=
  let p := dasParams (s.berth b).params
  (s.dasOf b).ring + rowBytes p.count p.fmt * (q % p.outRows)

/-- Row `q` is in its slot. -/
def State.rowStored : State :=
  let p := dasParams (s.berth b).params
  let w := (s.rowWorked b q queued once spoilt badState).1
  w.whSlot { owner := some b } ((w.dasOf b).ring + rowBytes p.count p.fmt * (q % p.outRows)) (rowBytes p.count p.fmt)
    (s.rowImage b q queued once spoilt badState)

/-- The DAS part of the berth after the row that `w` has worked on. -/
def State.dasAfterRow (w : State) : Das :=
  let d := w.dasOf b
  { d with filters := (s.rowPoints b q queued once spoilt badState).zipIdx.foldl
             (fun t (e : (PointFilter × Entry) × Nat) => Tab.put {} t e.2 e.1.1) d.filters
           grids := gridsFrom d.grids (q + 1) }

/-- The registers of berth `b` show a row with its SEQ, FILLING, the number of its lost entries and its tags. -/
def State.showRow (t : State) (b q : Nat) (fill : Bool) (lost tags : Nat) : State :=
  let t1 := (((t.wrPair (R.RX_BT_i_SEQ_LO_SEQ_LO b) (R.RX_BT_i_SEQ_HI_SEQ_HI b) (q + 1)).wrB (R.RX_BT_i_STATUS_FILLING b) fill).addSat
    (R.RX_BT_i_LOST_CNT_COUNT b) lost)
  let t2 := if lost = 0 then t1 else t1.wr (R.RX_BT_i_STATUS_LOST_ROWS b) 1
  if hasTag tags tagOvr then t2.wr (R.RX_BT_i_STATUS_OVR b) 1 else t2

/-- Row `q` is in its slot, the berth's part has moved on, and its registers show it. -/
def State.rowShown : State :=
  ((s.rowStored b q queued once spoilt badState).setDas b
    (s.dasAfterRow b q queued once spoilt badState (s.rowWorked b q queued once spoilt badState).1)).showRow b q (s.rowAt b q).fill
      ((s.rowPoints b q queued once spoilt badState).filter (fun e => hasTag e.2.tag tagLost)).length (s.rowTags b q queued once spoilt badState)

theorem exec_sluiceRowWrite {s : State} {b : Nat} (hs : s.runs) (hopen : (s.berth b).isOpen = true) (hkind : (s.berth b).kind = 1)
    (hq : q = s.rd (R.RX_BT_i_SEQ_LO_SEQ_LO b) + 2 ^ 32 * s.rd (R.RX_BT_i_SEQ_HI_SEQ_HI b)) (hready : s.rowReady b q (s.rowAt b q) = true) :
    ∃ pick, exec (.sluiceRowWrite b queued once spoilt badState) s =
      .next ((s.rowShown b q queued once spoilt badState).feed 1 (s.berth b).handle pick) := by
  have hpair : s.rdPair (R.RX_BT_i_SEQ_LO_SEQ_LO b) (R.RX_BT_i_SEQ_HI_SEQ_HI b) = q := hq.symm
  refine ⟨rowSample (dasParams (s.berth b).params) ((s.rowWorked b q queued once spoilt badState).1.dasOf b).slots (s.rowAt b q).tau
    ((s.rowPoints b q queued once spoilt badState).map Prod.snd), ?_⟩
  show execSluiceRowWrite b queued once spoilt badState s = _
  rw [execSluiceRowWrite, State.live_runs hs]
  simp only [hpair]
  rw [if_pos ⟨hopen, hkind, hready⟩]
  rfl

theorem State.rowWorked_sluiceWorks : SluiceWorks b s (s.rowWorked b q queued once spoilt badState).1 := by
  unfold State.rowWorked
  extract_lets p r errs t
  have hread : SluiceWorks b s (s.readTiles b (s.rowTiles b q r) ⟨queued, once, spoilt⟩) := .foldl (fun v e => v.readTile_sluiceWorks b _ e) _ s
  have hstates : SluiceWorks b s t := hread.trans (.foldl (fun v i => v.stateError_sluiceWorks b r.anchor i) errs _)
  exact hstates.trans (t.spend_sluiceWorks 0 b _)

theorem State.rowWorked_berth : (s.rowWorked b q queued once spoilt badState).1.berth b = s.berth b := by
  rw [(s.rowWorked_sluiceWorks b q queued once spoilt badState).frame]
  rfl

theorem State.rowPoints_length : (s.rowPoints b q queued once spoilt badState).length = (dasParams (s.berth b).params).count := by
  simp [State.rowPoints]

theorem State.rowEntries_length : ((s.rowPoints b q queued once spoilt badState).flatMap (fun e => e.2.bytes)).length =
    (dasParams (s.berth b).params).count * entryBytes (dasParams (s.berth b).params).fmt := by
  have heach : ∀ e ∈ s.rowPoints b q queued once spoilt badState, e.2.bytes.length = entryBytes (dasParams (s.berth b).params).fmt := by
    intro e he
    obtain ⟨i, -, rfl⟩ := List.mem_map.mp he
    rw [State.rowEntry_length, State.rowWorked_berth]
  rw [List.length_flatMap, List.map_congr_left heach, List.map_const', List.sum_replicate, State.rowPoints_length, smul_eq_mul]

theorem State.rowImage_length : (s.rowImage b q queued once spoilt badState).length =
    32 + (dasParams (s.berth b).params).count * entryBytes (dasParams (s.berth b).params).fmt := by
  simp only [State.rowImage, List.length_append, leBytes_length, State.rowEntries_length]

/-- A row begins with its instant, its SEQ and the handle of its berth (R135). -/
theorem State.rowImage_header : ∃ rest, s.rowImage b q queued once spoilt badState =
    leBytes 8 ((s.rowAt b q).tau / 2 ^ 38) ++ (leBytes 8 q ++ (leBytes 4 (s.berth b).handle ++ rest)) := by
  simp only [State.rowImage, List.append_assoc]
  exact ⟨_, rfl⟩

theorem State.rowImage_tau {i : Nat} (hi : i < 8) :
    (s.rowImage b q queued once spoilt badState).getD i 0 = (leBytes 8 ((s.rowAt b q).tau / 2 ^ 38)).getD i 0 := by
  obtain ⟨rest, hrest⟩ := s.rowImage_header b q queued once spoilt badState
  rw [hrest, List.getD_append _ _ _ _ (by rwa [leBytes_length])]

theorem State.rowImage_seq {i : Nat} (hi : i < 8) : (s.rowImage b q queued once spoilt badState).getD (8 + i) 0 = (leBytes 8 q).getD i 0 := by
  obtain ⟨rest, hrest⟩ := s.rowImage_header b q queued once spoilt badState
  rw [hrest, List.getD_append_right _ _ _ _ (by rw [leBytes_length]; omega), leBytes_length, Nat.add_sub_cancel_left,
    List.getD_append _ _ _ _ (by rwa [leBytes_length])]

theorem State.rowImage_handle {i : Nat} (hi : i < 4) :
    (s.rowImage b q queued once spoilt badState).getD (16 + i) 0 = (leBytes 4 (s.berth b).handle).getD i 0 := by
  obtain ⟨rest, hrest⟩ := s.rowImage_header b q queued once spoilt badState
  have h8 : 16 + i - 8 = 8 + i := by omega
  rw [hrest, List.getD_append_right _ _ _ _ (by rw [leBytes_length]; omega), leBytes_length, h8,
    List.getD_append_right _ _ _ _ (by rw [leBytes_length]; omega), leBytes_length, Nat.add_sub_cancel_left,
    List.getD_append _ _ _ _ (by rwa [leBytes_length])]

/-- R135: with the Warehouse ready and the slot within its range, the row's bytes are in its slot. -/
theorem State.rowStored_stores (hready : s.rd R.WH_STATUS_READY = 1) (hat : s.rowSlot b q % 64 = 0)
    (hroom : s.rowSlot b q + rowBytes (dasParams (s.berth b).params).count (dasParams (s.berth b).params).fmt ≤ s.whUsable) {i : Nat} (hi : i < 32) :
    Tab.get 0 (s.rowStored b q queued once spoilt badState).wh.bytes (s.rowSlot b q + i) = (s.rowImage b q queued once spoilt badState).getD i 0 := by
  have hworks := s.rowWorked_sluiceWorks b q queued once spoilt badState
  have husable : (s.rowWorked b q queued once spoilt badState).1.whUsable = s.whUsable := by
    rw [State.whUsable, State.rdPair, hworks.gates _ (by simp [whGates]), hworks.gates _ (by simp [whGates])]
    rfl
  have hlen := s.rowImage_length b q queued once spoilt badState
  have hsize := ceilDiv_mul_ge (32 + (dasParams (s.berth b).params).count * entryBytes (dasParams (s.berth b).params).fmt) (d := 64) (by decide)
  rw [State.rowStored, hworks.ring]
  refine State.whSlot_stores _ _ ?_ ?_ hat (Nat.mul_mod_left ..) ?_ ?_
  · rwa [hworks.gates _ (by simp [whGates])]
  · rwa [husable]
  · rwa [hlen]
  · omega

end Row

/-! How a row is shown (Table 5.9). -/

/-- The fields that a row's lost entries and tags may move. -/
def rowMarks (b : Nat) : List Fld := [R.RX_BT_i_LOST_CNT_COUNT b, R.RX_BT_i_STATUS_LOST_ROWS b, R.RX_BT_i_STATUS_OVR b]

section Show
variable (t : State) (b q : Nat) (fill : Bool) (lost tags : Nat)

theorem State.showRow_sameButRegs : SameButRegs t (t.showRow b q fill lost tags) := by
  unfold State.showRow
  extract_lets t1 t2
  have h1 : SameButRegs t t1 := ((((SameButRegs.refl t).wr _ _).wr _ _).wr _ _).wr _ _
  have h2 : SameButRegs t t2 := .ite h1 (h1.wr _ _)
  exact .ite (h2.wr _ _) h2

theorem State.showRow_wh : (t.showRow b q fill lost tags).wh = t.wh := by rw [State.showRow_sameButRegs]

theorem State.showRow_das : (t.showRow b q fill lost tags).das = t.das := by rw [State.showRow_sameButRegs]

theorem State.showRow_onlyRegs : OnlyRegs (rowMarks b)
    ((t.wrPair (R.RX_BT_i_SEQ_LO_SEQ_LO b) (R.RX_BT_i_SEQ_HI_SEQ_HI b) (q + 1)).wrB (R.RX_BT_i_STATUS_FILLING b) fill) (t.showRow b q fill lost tags) := by
  unfold State.showRow
  extract_lets t1 t2
  have h1 : OnlyRegs (rowMarks b)
      ((t.wrPair (R.RX_BT_i_SEQ_LO_SEQ_LO b) (R.RX_BT_i_SEQ_HI_SEQ_HI b) (q + 1)).wrB (R.RX_BT_i_STATUS_FILLING b) fill) t1 :=
    (OnlyRegs.refl _ _).wr (by simp [rowMarks]) _
  have h2 := OnlyRegs.ite (c := lost = 0) h1 (h1.wr (f := R.RX_BT_i_STATUS_LOST_ROWS b) (by simp [rowMarks]) 1)
  exact .ite (h2.wr (by simp [rowMarks]) 1) h2

theorem rowMarks_apart (b : Nat) : ∀ f ∈ rowMarks b,
    f.key ≠ (R.RX_BT_i_SEQ_LO_SEQ_LO b).key ∧ f.key ≠ (R.RX_BT_i_SEQ_HI_SEQ_HI b).key ∧ f.key ≠ (R.RX_BT_i_STATUS_FILLING b).key := by
  simp only [rowMarks, List.forall_mem_cons, R.RX_BT_i_LOST_CNT_COUNT, R.RX_BT_i_STATUS_LOST_ROWS, R.RX_BT_i_STATUS_OVR, R.RX_BT_i_SEQ_LO_SEQ_LO,
    R.RX_BT_i_SEQ_HI_SEQ_HI, R.RX_BT_i_STATUS_FILLING]
  exact ⟨by omega, by omega, by omega, by simp⟩

theorem rowSeq_apart (b : Nat) : (R.RX_BT_i_SEQ_HI_SEQ_HI b).key ≠ (R.RX_BT_i_SEQ_LO_SEQ_LO b).key ∧
    (R.RX_BT_i_STATUS_FILLING b).key ≠ (R.RX_BT_i_SEQ_LO_SEQ_LO b).key ∧ (R.RX_BT_i_STATUS_FILLING b).key ≠ (R.RX_BT_i_SEQ_HI_SEQ_HI b).key := by
  simp only [R.RX_BT_i_SEQ_LO_SEQ_LO, R.RX_BT_i_SEQ_HI_SEQ_HI, R.RX_BT_i_STATUS_FILLING]
  omega

theorem State.rd_showRow : (t.showRow b q fill lost tags).rd (R.RX_BT_i_SEQ_LO_SEQ_LO b) = low 32 (q + 1) ∧
    (t.showRow b q fill lost tags).rd (R.RX_BT_i_SEQ_HI_SEQ_HI b) = low 32 ((q + 1) / 2 ^ 32) ∧
    (t.showRow b q fill lost tags).rd (R.RX_BT_i_STATUS_FILLING b) = flag fill := by
  have honly := t.showRow_onlyRegs b q fill lost tags
  obtain ⟨hhl, hfl, hfh⟩ := rowSeq_apart b
  rw [honly _ fun f hf => (rowMarks_apart b f hf).1, honly _ fun f hf => (rowMarks_apart b f hf).2.1,
    honly _ fun f hf => (rowMarks_apart b f hf).2.2, State.rd_wrB_other _ _ hfl, State.rd_wrB_other _ _ hfh, State.rd_wrB_same, State.wrPair,
    State.rd_wr_other _ _ hhl, State.rd_wr_same, State.rd_wr_same]
  exact ⟨rfl, rfl, low_one_flag fill⟩

end Show

section Shown
variable (s : State) (b q : Nat) (queued once spoilt badState : List Nat)

theorem State.rowStored_serves :
    WhServes whWriteFields (s.rowWorked b q queued once spoilt badState).1 (s.rowStored b q queued once spoilt badState) :=
  State.whSlot_serves ..

theorem State.rowShown_wh : (s.rowShown b q queued once spoilt badState).wh = (s.rowStored b q queued once spoilt badState).wh := by
  rw [State.rowShown, State.showRow_wh, State.setDas_wh]

theorem State.rowShown_others {k : Nat} (hk : k ≠ b) : (s.rowShown b q queued once spoilt badState).dasOf k = s.dasOf k := by
  have hdas : (s.rowShown b q queued once spoilt badState).das = _ := State.showRow_das ..
  rw [State.dasOf_congr hdas, State.dasOf_setDas_other _ _ hk, (s.rowStored_serves b q queued once spoilt badState).dasOf,
    (s.rowWorked_sluiceWorks b q queued once spoilt badState).others k hk]

theorem State.rowShown_sameButRow : SameButRow s (s.rowShown b q queued once spoilt badState) :=
  (((s.rowWorked_sluiceWorks b q queued once spoilt badState).frame.trans
    (s.rowStored_serves b q queued once spoilt badState).frame.sameButRow).trans (State.setDas_sameButRow _ b _)).trans
      (State.showRow_sameButRegs ..).sameButRow

end Shown

/-! The clauses of O25. -/

section Clauses
variable {s : State} (hs : s.runs)
include hs

/-- R121 to R123. -/
theorem tileFlush_sends {berth group : Nat} (parityRows : List Nat) (hopen : (s.berth berth).isOpen = true)
    (hgroup : group < groupsOf (s.berth berth).channels)
    (hfull : (s.dasOf berth).tileFull (s.berth berth).channels (s.flushTile berth group) group = true) :
    ∃ t, exec (.tileFlush berth group parityRows) s = .next t ∧ SameButRegs (s.tileSent berth group parityRows) t ∧
      ((∃ r ∈ parityRows, r < 16) → t.rd R.RX_SL_STATUS_STAGE_PARITY = 1) ∧
      OnlyRegs [R.RX_SL_STATUS_STAGE_PARITY, R.RX_SL_PARITY_CNT_STAGE, R.WH_STATUS_RMW_ERR, R.WH_STATUS_RANGE_ERR] s t := by
  refine ⟨_, exec_tileFlush parityRows hs hopen hgroup hfull, State.stageErrors_sameButRegs _ _, fun ⟨r, hr, hlt⟩ => State.rd_stageErrors _ ?_, ?_⟩
  · refine List.ne_nil_of_mem (a := r) ?_
    rw [failingRows, List.mem_eraseDups, List.mem_filter]
    exact ⟨hr, by simpa using hlt⟩
  · exact ((s.tileSent_onlyRegs berth group parityRows).mono (by simp [whWriteFields])).trans ((State.stageErrors_onlyRegs _ _).mono (by simp))

/-- R133. -/
theorem syncWrite_waits : (s.rd R.RX_SL_STATUS_SYNC_PENDING = 1 → exec .syncWrite s = .next s) ∧
    (s.rd R.RX_SL_STATUS_SYNC_PENDING ≠ 1 → ∃ t, exec .syncWrite s = .next t ∧ t.rd R.RX_SL_STATUS_SYNC_PENDING = 1 ∧ Accepted .sync s t ∧
      OnlyRegs (R.RX_SL_STATUS_SYNC_PENDING :: landFields) s t ∧ t = { s with regs := t.regs, landing := t.landing }) := by
  have hexec : exec .syncWrite s = if s.on R.RX_SL_STATUS_SYNC_PENDING then goOn s else goOn ((s.wr R.RX_SL_STATUS_SYNC_PENDING 1).accept .sync) := by
    show execSyncWrite s = _
    rw [execSyncWrite, State.live_runs hs]
  refine ⟨fun h => ?_, fun h => ⟨(s.wr R.RX_SL_STATUS_SYNC_PENDING 1).accept .sync, ?_, ?_, State.accepted_accept _ rfl rfl, ?_,
    ((SameButRegs.refl s).wr _ _).sameButLanding.accept _⟩⟩
  · rw [hexec, if_pos (by simp [State.on, h])]
    rfl
  · rw [hexec, if_neg (by simpa [State.on] using h)]
    rfl
  · rw [State.rd_accept_other _ _ (by decide), State.rd_wr_same]
    rfl
  · exact ((OnlyRegs.refl s _).wr List.mem_cons_self _).accept (fun _ hf => List.mem_cons_of_mem _ hf) _

end Clauses

/-- Settles O25: the flush of a full tile is one store of the Warehouse and one write more for the Tug, a row is one store of the Warehouse between
work that leaves its slot's place alone and registers that show it, and a reset request is a change that waits. -/
theorem cornerTurnAndSluiceRows : Obligations.CornerTurnAndSluiceRows := by
  refine ⟨?_, ?_, fun s hs => syncWrite_waits hs⟩
  · rintro berth group parityRows d w u slot s hs rfl rfl rfl hopen hgroup hfull rfl
    obtain ⟨t, hexec, hsame, hparity, honly⟩ := tileFlush_sends hs parityRows hopen hgroup hfull
    have hdas : t.das = Tab.put {} s.das berth (s.dasFlushed berth group parityRows) := by
      rw [hsame]
      exact s.tileSent_das berth group parityRows
    have hmine : t.dasOf berth = s.dasFlushed berth group parityRows := by
      rw [State.dasOf, hdas, Tab.get_put_same]
    have hwrites : t.tileWrites = (s.tileSent berth group parityRows).tileWrites := by rw [hsame]
    have hwh : t.wh = (s.tileSent berth group parityRows).wh := by rw [hsame]
    refine ⟨t, hexec, ?_, ?_, ?_, fun hready hat hroom i hi => ?_, fun a hout hw => ?_, hparity, fun k hk => ?_, fun e he => ?_, honly, ?_⟩
    · rw [hmine]
      exact s.dasFlushed_flushed berth group parityRows
    · rw [hmine]
      exact s.dasFlushed_rows berth group parityRows
    · rw [hwrites]
      exact Tab.get_put_same ..
    · rw [hwh]
      exact s.tileSent_stores berth group parityRows hready hat hroom hi
    · rw [hwh]
      exact s.tileSent_keeps berth group parityRows hout hw
    · rw [State.dasOf, hdas]
      exact Tab.get_put_other _ _ _ _ (Ne.symm hk)
    · rw [hwrites]
      exact Tab.get_put_other _ _ _ _ (Ne.symm he)
    · rw [hsame, s.tileSent_frame berth group parityRows]
  · rintro berth q slot queued once spoilt badState p s hs hberth hopen hkind rfl hq hready rfl
    obtain ⟨pick, hexec⟩ := exec_sluiceRowWrite q queued once spoilt badState hs hopen hkind hq hready
    obtain ⟨hlo, hhi, hfilling⟩ := State.rd_showRow ((s.rowStored berth q queued once spoilt badState).setDas berth
      (s.dasAfterRow berth q queued once spoilt badState (s.rowWorked berth q queued once spoilt badState).1)) berth q (s.rowAt berth q).fill
      ((s.rowPoints berth q queued once spoilt badState).filter (fun e => hasTag e.2.tag tagLost)).length (s.rowTags berth q queued once spoilt badState)
    have hshown := s.rowShown_sameButRow berth q queued once spoilt badState
    have hfeed := (s.rowShown berth q queued once spoilt badState).feed_frame 1 (s.berth berth).handle pick
    have hrd {f : Fld} (hf : f.key < 8 * 0x901000) := (s.rowShown berth q queued once spoilt badState).rd_feed 1 (s.berth berth).handle pick hf
    have hwh := s.rowShown_wh berth q queued once spoilt badState
    have hothers {k : Nat} (hk : k ≠ berth) := s.rowShown_others berth q queued once spoilt badState hk
    have hstores := s.rowStored_stores berth q queued once spoilt badState
    refine ⟨_, hexec, ?_, ?_, ?_, fun hwhReady hat hroom => ⟨fun i hi => ?_, fun i hi => ?_, fun i hi => ?_⟩, fun k hk => ?_, ?_⟩
    · rw [hrd (by dsimp only [R.RX_BT_i_SEQ_LO_SEQ_LO]; omega)]
      exact hlo
    · rw [hrd (by dsimp only [R.RX_BT_i_SEQ_HI_SEQ_HI]; omega)]
      exact hhi
    · rw [hrd (by dsimp only [R.RX_BT_i_STATUS_FILLING]; omega)]
      exact hfilling
    · rw [State.feed_wh, hwh, ← s.rowImage_tau berth q queued once spoilt badState hi]
      exact hstores hwhReady hat hroom (by omega)
    · rw [State.feed_wh, hwh, ← s.rowImage_seq berth q queued once spoilt badState hi, Nat.add_assoc]
      exact hstores hwhReady hat hroom (by omega)
    · rw [State.feed_wh, hwh, ← s.rowImage_handle berth q queued once spoilt badState hi, Nat.add_assoc]
      exact hstores hwhReady hat hroom (by omega)
    · rw [State.dasOf_congr (State.feed_das ..), hothers hk]
    · rw [hfeed, hshown]

end Sys2Proof.Machine
end

section
/-! SUPPORT. The engines of the Tugs: what moves an engine, how a descriptor completes, and how a chain goes on or ends (R352, R358 to R360):
statement O43. -/

namespace Sys2Proof.Machine

/-! A word of the Shed. -/

theorem leNat_leBytes : ∀ k n : Nat, leNat (leBytes k n) = low (8 * k) n
  | 0, n => by simp [leBytes, leNat, low, Nat.mod_one]
  | k + 1, n => by
    have hbyte : (BitVec.ofNat 8 n).toNat = n % 2 ^ 8 := BitVec.toNat_ofNat ..
    have hsplit : 2 ^ (8 * (k + 1)) = 2 ^ 8 * 2 ^ (8 * k) := by rw [← Nat.pow_add]; congr 1; omega
    rw [leBytes, leNat, leNat_leBytes k, hbyte, low, low, hsplit, Nat.mod_mul]
    rfl

theorem State.shedByte_shedWrite_outside (s : State) {a : Nat} {bs : List Byte} {j : Nat} (h : j < a ∨ a + bs.length ≤ j) :
    (s.shedWrite a bs).shedByte j = s.shedByte j := by
  classical
  rw [State.shedByte_shedWrite, if_neg]
  rintro ⟨⟨hlo, hhi⟩, -⟩
  omega

/-- A whole word that is written holds its number, whatever its parity was. -/
theorem State.shedNat_shedWrite_word (s : State) {a : Nat} (ha : a % 4 = 0) (v : Nat) : (s.shedWrite a (leBytes 4 v)).shedNat a 4 = low 32 v := by
  classical
  have hbytes : (s.shedWrite a (leBytes 4 v)).shedBytes a 4 = leBytes 4 v := by
    rw [State.shedBytes_eq_map]
    refine List.ext_getElem (by rw [List.length_map, List.length_range, leBytes_length]) fun i hi hi' => ?_
    rw [leBytes_length] at hi'
    rw [List.getElem_map, List.getElem_range, State.shedByte_shedWrite, if_pos, Nat.add_sub_cancel_left, List.getD_eq_getElem]
    rw [takesByte, leBytes_length, coversWord]
    omega
  rw [State.shedNat, hbytes, leNat_leBytes]

/-! What moves an engine. -/

@[simp] theorem State.tug_setTug_same (s : State) (e : Nat) (x : Tug) : (s.setTug e x).tug e = x := Tab.get_put_same ..

theorem State.tug_setTug_other (s : State) {e k : Nat} (x : Tug) (h : k ≠ e) : (s.setTug e x).tug k = s.tug k :=
  Tab.get_put_other _ _ _ _ (Ne.symm h)

theorem State.tug_congr {s t : State} (h : t.tugs = s.tugs) (e : Nat) : t.tug e = s.tug e := by rw [State.tug, State.tug, h]

/-- From `s` to `t` engine `e` becomes `x`, register fields among `fs` may move, and nothing else differs. -/
structure TugMoves (s : State) (e : Nat) (x : Tug) (fs : List Fld) (t : State) : Prop where
  mine : t.tug e = x
  others : ∀ k, k ≠ e → t.tug k = s.tug k
  only : OnlyRegs fs s t
  frame : t = { s with regs := t.regs, tugs := t.tugs }

section Moves
variable {s t : State} {e : Nat} {x : Tug} {fs gs : List Fld}

theorem TugMoves.setTug (s : State) (e : Nat) (x : Tug) (fs : List Fld) : TugMoves s e x fs (s.setTug e x) :=
  ⟨s.tug_setTug_same e x, fun _ hk => s.tug_setTug_other x hk, (OnlyRegs.refl s fs).of_regs rfl, rfl⟩

theorem TugMoves.wr (h : TugMoves s e x fs t) {f : Fld} (hf : f ∈ fs) (v : Nat) : TugMoves s e x fs (t.wr f v) := by
  refine ⟨h.mine, h.others, h.only.wr hf v, ?_⟩
  have hframe := h.frame
  rw [hframe]
  rfl

theorem TugMoves.trans {u : State} {y : Tug} (h : TugMoves s e x fs t) (h' : TugMoves t e y fs u) : TugMoves s e y fs u := by
  refine ⟨h'.mine, fun k hk => (h'.others k hk).trans (h.others k hk), h.only.trans h'.only, ?_⟩
  rw [h'.frame, h.frame]

theorem TugMoves.mono (h : TugMoves s e x fs t) (hsub : ∀ f ∈ fs, f ∈ gs) : TugMoves s e x gs t := ⟨h.mine, h.others, h.only.mono hsub, h.frame⟩

theorem TugMoves.shed (h : TugMoves s e x fs t) : t.shed = s.shed := by rw [h.frame]

theorem TugMoves.signalled (h : TugMoves s e x fs t) : t.signalled = s.signalled := by rw [h.frame]

end Moves

/-- Nothing but register fields, the engines, the Shed with its parity, the vectors signalled and the work of the tide differs. -/
def SameButTugs (s t : State) : Prop :=
  t = { s with regs := t.regs, tugs := t.tugs, shed := t.shed, shedBad := t.shedBad, signalled := t.signalled, work := t.work }

theorem SameButTugs.trans {s t u : State} (h : SameButTugs s t) (h' : SameButTugs t u) : SameButTugs s u := by
  unfold SameButTugs at *
  rw [h', h]

theorem TugMoves.sameButTugs {s t : State} {e : Nat} {x : Tug} {fs : List Fld} (h : TugMoves s e x fs t) : SameButTugs s t := by
  unfold SameButTugs
  rw [h.frame]

theorem SameButRegs.sameButTugs {s t : State} (h : SameButRegs s t) : SameButTugs s t := by
  unfold SameButRegs SameButTugs at *
  rw [h]

theorem SameButShed.sameButTugs {s t : State} (h : SameButShed s t) : SameButTugs s t := by
  unfold SameButShed SameButTugs at *
  rw [h]

/-! How a descriptor completes (R360). -/

/-- The fields that the completion of a descriptor of engine `e` may move. -/
def descFields (e : Nat) : List Fld :=
  [R.TG_e_DESC_CNT_COUNT e, R.TG_e_BAD_CNT_DROPPED e, R.TG_e_BAD_CNT_BAD e, R.TG_e_LASTERR_CODE e, R.TG_e_LASTERR_CAUSE e, R.TG_e_LASTERR_CH e,
    R.TG_e_LASTERR_DESC_OFFSET e, R.TG_e_ERR_ERR e, R.TG_e_DONE_DONE e, R.TG_SHED_STATUS_WRITE_DISC]

/-- The fields of engine `e` and of its channel `c` that its chain moves. -/
def chainFields (e c : Nat) : List Fld :=
  [R.TG_e_STATUS_BUSY e, R.TG_e_STATUS_CH e, R.TG_e_CH_c_STATUS_RUNNING e c, R.TG_e_CH_c_CUR_CUR e c, R.TG_e_CH_c_STATUS_QLVL e c,
    R.TG_e_CH_c_CHAINS_COUNT e c]

/-- A channel's vector, an engine's count of bytes and the power of the domains. -/
def tugOthers (e c : Nat) : List Fld := [R.TG_e_CH_c_CFG_VEC e c, R.TG_e_BYTES_COUNT e, R.RS_PWR_STATUS_ON, R.TG_SHED_STATUS_PARITY]

theorem descFields_apart (e c : Nat) : ∀ f ∈ descFields e, ∀ g ∈ chainFields e c ++ tugOthers e c, f.key ≠ g.key := by
  simp only [descFields, chainFields, tugOthers, List.cons_append, List.nil_append, List.forall_mem_cons, R.TG_e_DESC_CNT_COUNT,
    R.TG_e_BAD_CNT_DROPPED, R.TG_e_BAD_CNT_BAD, R.TG_e_LASTERR_CODE, R.TG_e_LASTERR_CAUSE, R.TG_e_LASTERR_CH, R.TG_e_LASTERR_DESC_OFFSET,
    R.TG_e_ERR_ERR, R.TG_e_DONE_DONE, R.TG_SHED_STATUS_WRITE_DISC, R.TG_e_STATUS_BUSY, R.TG_e_STATUS_CH, R.TG_e_CH_c_STATUS_RUNNING,
    R.TG_e_CH_c_CUR_CUR, R.TG_e_CH_c_STATUS_QLVL, R.TG_e_CH_c_CHAINS_COUNT, R.TG_e_CH_c_CFG_VEC, R.TG_e_BYTES_COUNT, R.RS_PWR_STATUS_ON,
    R.TG_SHED_STATUS_PARITY, List.not_mem_nil, false_implies, implies_true, and_true]
  omega

/-- The completion of the descriptor at `off` on channel `c` of engine `e`, with code `code` and the STATUS word `status`, from `s` to `t`. -/
structure DescDone (e c off : Nat) (irq : Bool) (code status : Nat) (s t : State) : Prop where
  status : off % 4 = 0 → t.shedNat (off + 28) 4 = low 32 status
  outside : ∀ a, a < off + 28 ∨ off + 32 ≤ a → t.shedByte a = s.shedByte a
  only : OnlyRegs (descFields e) s t
  failed : code ≠ tugOk → c < 32 → bit (t.rd (R.TG_e_ERR_ERR e)) c = true
  passed : code = tugOk → t.rd (R.TG_e_ERR_ERR e) = s.rd (R.TG_e_ERR_ERR e)
  signals : irq = true → t.signalled = s.signalled ++ [s.rd (R.TG_e_CH_c_CFG_VEC e c)] ∧ (c < 32 → bit (t.rd (R.TG_e_DONE_DONE e)) c = true)
  silent : irq = false → t.signalled = s.signalled
  frame : t = { s with regs := t.regs, shed := t.shed, shedBad := t.shedBad, signalled := t.signalled, work := t.work }

/-- The registers of engine `e` count a completion with code `code` and cause `cause`, and on a code other than OK record it (R360). -/
def State.countDone (s : State) (e c off code cause : Nat) : State :=
  let s1 := s.inc (R.TG_e_DESC_CNT_COUNT e)
  let s2 := if code = tugDropped then s1.inc (R.TG_e_BAD_CNT_DROPPED e) else if code = tugOk then s1 else s1.inc (R.TG_e_BAD_CNT_BAD e)
  if code = tugOk then s2 else
    let t := if s2.rd (R.TG_e_ERR_ERR e) = 0 then (((s2.wr (R.TG_e_LASTERR_CODE e) code).wr (R.TG_e_LASTERR_CAUSE e) cause).wr
      (R.TG_e_LASTERR_CH e) c).wr (R.TG_e_LASTERR_DESC_OFFSET e) off else s2
    t.wrBit (R.TG_e_ERR_ERR e) c true

section Done
variable (s : State) (e c off : Nat) (irq : Bool) (code cause done : Nat)

theorem State.countDone_sameButRegs : SameButRegs s (s.countDone e c off code cause) := by
  unfold State.countDone
  extract_lets s1 s2 t
  have h1 : SameButRegs s s1 := (SameButRegs.refl s).wr _ _
  have h2 : SameButRegs s s2 := .ite (h1.wr _ _) (.ite h1 (h1.wr _ _))
  have ht : SameButRegs s t := .ite ((((h2.wr _ _).wr _ _).wr _ _).wr _ _) h2
  exact .ite h2 (ht.wr _ _)

theorem State.countDone_onlyRegs : OnlyRegs (descFields e) s (s.countDone e c off code cause) := by
  unfold State.countDone
  extract_lets s1 s2 t
  have h1 : OnlyRegs (descFields e) s s1 := (OnlyRegs.refl s _).wr (by simp [descFields]) _
  have h2 : OnlyRegs (descFields e) s s2 := .ite (h1.wr (by simp [descFields]) _) (.ite h1 (h1.wr (by simp [descFields]) _))
  have ht : OnlyRegs (descFields e) s t :=
    .ite ((((h2.wr (by simp [descFields]) _).wr (by simp [descFields]) _).wr (by simp [descFields]) _).wr (by simp [descFields]) _) h2
  exact .ite h2 (ht.wr (by simp [descFields]) _)

theorem State.countDone_failed (h : code ≠ tugOk) (hc : c < 32) : bit ((s.countDone e c off code cause).rd (R.TG_e_ERR_ERR e)) c = true := by
  unfold State.countDone
  extract_lets s1 s2 t
  rw [if_neg h]
  exact State.bit_wrBit_same _ _ hc

theorem State.countDone_passed : (s.countDone e c off tugOk cause).rd (R.TG_e_ERR_ERR e) = s.rd (R.TG_e_ERR_ERR e) := by
  have hkey : (R.TG_e_DESC_CNT_COUNT e).key ≠ (R.TG_e_ERR_ERR e).key := by
    dsimp only [R.TG_e_DESC_CNT_COUNT, R.TG_e_ERR_ERR]
    omega
  exact State.rd_inc_other s hkey

/-- The engine's overhead is charged and `v` is written to STATUS of the descriptor at `off`. -/
def State.writeStatus (s : State) (e off v : Nat) : State := (s.tugOverhead e).shedWrite (off + 28) (leBytes 4 v)

/-- A descriptor with IRQ sets its channel's bit of DONE and signals its vector. -/
def State.raiseDone (s : State) (e c : Nat) (irq : Bool) : State :=
  if irq then (s.wrBit (R.TG_e_DONE_DONE e) c true).signal (s.rd (R.TG_e_CH_c_CFG_VEC e c)) else s

theorem State.descDone_eq : s.descDone e c off irq code cause done =
    ((s.writeStatus e off (done + cause * 2 ^ 24 + code * 2 ^ 28)).countDone e c off code cause).raiseDone e c irq := rfl

theorem State.shedByte_congr {s t : State} (h : t.shed = s.shed) (a : Nat) : t.shedByte a = s.shedByte a := by
  rw [State.shedByte, State.shedByte, h]

theorem State.shedNat_congr {s t : State} (h : t.shed = s.shed) (a n : Nat) : t.shedNat a n = s.shedNat a n := by
  rw [State.shedNat, State.shedNat, State.shedBytes, State.shedBytes, h]

theorem State.tugOverhead_frame : s.tugOverhead e = { s with work := (s.tugOverhead e).work } := s.chargeTo_frame ..

theorem State.writeStatus_frame (v : Nat) : s.writeStatus e off v = { s with
    regs := (s.writeStatus e off v).regs, shed := (s.writeStatus e off v).shed, shedBad := (s.writeStatus e off v).shedBad,
    work := (s.writeStatus e off v).work } := by
  have h := ((s.tugOverhead e).shedWrite_frame (off + 28) (leBytes 4 v)).1
  rw [SameButShed, s.tugOverhead_frame e] at h
  rw [State.writeStatus, s.tugOverhead_frame e, h]

theorem State.writeStatus_onlyRegs (v : Nat) : OnlyRegs [R.TG_SHED_STATUS_WRITE_DISC] s (s.writeStatus e off v) := by
  have hcharge : OnlyRegs [R.TG_SHED_STATUS_WRITE_DISC] s (s.tugOverhead e) := (s.chargeTo_serves _ _ _ _).only
  exact hcharge.trans ((s.tugOverhead e).shedWrite_frame _ _).2

theorem State.writeStatus_shedNat (v : Nat) (h : off % 4 = 0) : (s.writeStatus e off v).shedNat (off + 28) 4 = low 32 v :=
  State.shedNat_shedWrite_word _ (by omega) v

theorem State.writeStatus_outside (v : Nat) {a : Nat} (h : a < off + 28 ∨ off + 32 ≤ a) : (s.writeStatus e off v).shedByte a = s.shedByte a := by
  rw [State.writeStatus, State.shedByte_shedWrite_outside _ (by rwa [leBytes_length])]
  exact State.shedByte_congr (by rw [s.tugOverhead_frame e]) a

theorem State.raiseDone_onlyRegs : OnlyRegs [R.TG_e_DONE_DONE e] s (s.raiseDone e c irq) :=
  .ite (((OnlyRegs.refl s _).wr (List.mem_singleton_self _) _).of_regs rfl) (.refl s _)

theorem State.raiseDone_frame : s.raiseDone e c irq = { s with regs := (s.raiseDone e c irq).regs, signalled := (s.raiseDone e c irq).signalled } := by
  unfold State.raiseDone
  split <;> rfl

theorem State.raiseDone_raised (hc : c < 32) : bit ((s.raiseDone e c true).rd (R.TG_e_DONE_DONE e)) c = true :=
  (congrArg (bit · c) (State.rd_signal ..)).trans (State.bit_wrBit_same s true hc)

theorem tugErr_apart (e : Nat) : R.TG_SHED_STATUS_WRITE_DISC.key ≠ (R.TG_e_ERR_ERR e).key ∧ (R.TG_e_DONE_DONE e).key ≠ (R.TG_e_ERR_ERR e).key := by
  dsimp only [R.TG_SHED_STATUS_WRITE_DISC, R.TG_e_ERR_ERR, R.TG_e_DONE_DONE]
  omega

theorem State.rd_raiseDone_err : (s.raiseDone e c irq).rd (R.TG_e_ERR_ERR e) = s.rd (R.TG_e_ERR_ERR e) :=
  s.raiseDone_onlyRegs e c irq _ (by simpa using (tugErr_apart e).2)

theorem State.descDone_done :
    DescDone e c off irq code (done + cause * 2 ^ 24 + code * 2 ^ 28) s (s.descDone e c off irq code cause done) := by
  rw [State.descDone_eq]
  generalize done + cause * 2 ^ 24 + code * 2 ^ 28 = v
  have hu := s.writeStatus_frame e off v
  have huregs := s.writeStatus_onlyRegs e off v
  have ht := (s.writeStatus e off v).countDone_sameButRegs e c off code cause
  have htregs := ((huregs.mono (gs := descFields e) (by simp [descFields]))).trans
    ((s.writeStatus e off v).countDone_onlyRegs e c off code cause)
  set t := (s.writeStatus e off v).countDone e c off code cause with htdef
  have hr := t.raiseDone_frame e c irq
  have htsignalled : t.signalled = s.signalled := by rw [ht, hu]
  have hshed : (t.raiseDone e c irq).shed = (s.writeStatus e off v).shed := by rw [hr, ht]
  have hvec : t.rd (R.TG_e_CH_c_CFG_VEC e c) = s.rd (R.TG_e_CH_c_CFG_VEC e c) :=
    htregs _ fun f hf => descFields_apart e c f hf _ (by simp [tugOthers])
  refine ⟨fun hoff => ?_, fun a ha => ?_, htregs.trans ((t.raiseDone_onlyRegs e c irq).mono (by simp [descFields])), fun hcode hc => ?_, ?_, ?_, ?_, ?_⟩
  · rw [State.shedNat_congr hshed, s.writeStatus_shedNat e off v hoff]
  · rw [State.shedByte_congr hshed, s.writeStatus_outside e off v ha]
  · rw [State.rd_raiseDone_err]
    exact State.countDone_failed _ e c off code cause hcode hc
  · rintro rfl
    rw [State.rd_raiseDone_err, htdef, State.countDone_passed]
    exact huregs _ (by simpa using (tugErr_apart e).1)
  · rintro rfl
    refine ⟨?_, t.raiseDone_raised e c⟩
    show t.signalled ++ [t.rd (R.TG_e_CH_c_CFG_VEC e c)] = _
    rw [htsignalled, hvec]
  · rintro rfl
    exact htsignalled
  · rw [hr, ht, hu]

end Done

theorem DescDone.tugs {e c off : Nat} {irq : Bool} {code status : Nat} {s t : State} (h : DescDone e c off irq code status s t) : t.tugs = s.tugs := by
  rw [h.frame]

theorem DescDone.sameButTugs {e c off : Nat} {irq : Bool} {code status : Nat} {s t : State} (h : DescDone e c off irq code status s t) :
    SameButTugs s t := by
  unfold SameButTugs
  rw [h.frame]

theorem DescDone.rd {e c off : Nat} {irq : Bool} {code status : Nat} {s t : State} (h : DescDone e c off irq code status s t) {f : Fld} {k : Nat}
    (hf : f ∈ chainFields e k ++ tugOthers e k) : t.rd f = s.rd f :=
  h.only f fun g hg => descFields_apart e k g hg f hf

/-! How a chain ends or goes on (R358, R360). -/

/-- Engine `x` after the descriptor `d` of its chain `r`, at the instant `now`: free after the last one, else at the next one. -/
def Tug.after (x : Tug) (r : TugRun) (d : Desc) (now : Nat) : Tug :=
  { x with run := if d.last then none else some { r with desc := d.next, num := r.num + 1, since := now, shut := false } }

theorem chainFields_apart (e c : Nat) : (chainFields e c).Pairwise (fun f g => g.key ≠ f.key) := by
  simp only [chainFields, List.pairwise_cons, List.forall_mem_cons, R.TG_e_STATUS_BUSY, R.TG_e_STATUS_CH, R.TG_e_CH_c_STATUS_RUNNING,
    R.TG_e_CH_c_CUR_CUR, R.TG_e_CH_c_STATUS_QLVL, R.TG_e_CH_c_CHAINS_COUNT, List.not_mem_nil, false_implies, implies_true, and_true,
    List.Pairwise.nil]
  omega

theorem TugMoves.rd_err {s t : State} {e c : Nat} {x : Tug} (h : TugMoves s e x (chainFields e c) t) :
    t.rd (R.TG_e_ERR_ERR e) = s.rd (R.TG_e_ERR_ERR e) :=
  h.only _ fun f hf => (descFields_apart e c _ (by simp [descFields]) f (List.mem_append_left _ hf)).symm

section Chain
variable {s : State} {e : Nat} {r : TugRun}

theorem State.chainEnd_moves (h : (s.tug e).run = some r) :
    TugMoves s e { s.tug e with run := none } (chainFields e r.ch) (s.chainEnd e) ∧ (s.chainEnd e).rd (R.TG_e_STATUS_BUSY e) = 0 ∧
      (s.chainEnd e).rd (R.TG_e_CH_c_CHAINS_COUNT e r.ch) = satAdd 32 (s.rd (R.TG_e_CH_c_CHAINS_COUNT e r.ch)) 1 := by
  have heq : s.chainEnd e = (((s.setTug e { s.tug e with run := none }).wr (R.TG_e_STATUS_BUSY e) 0).wr (R.TG_e_CH_c_STATUS_RUNNING e r.ch) 0).inc
      (R.TG_e_CH_c_CHAINS_COUNT e r.ch) := by
    unfold State.chainEnd
    simp only [h]
  have hkeys : (R.TG_e_CH_c_CHAINS_COUNT e r.ch).key ≠ (R.TG_e_STATUS_BUSY e).key ∧
      (R.TG_e_CH_c_STATUS_RUNNING e r.ch).key ≠ (R.TG_e_STATUS_BUSY e).key ∧
      (R.TG_e_CH_c_STATUS_RUNNING e r.ch).key ≠ (R.TG_e_CH_c_CHAINS_COUNT e r.ch).key ∧
      (R.TG_e_STATUS_BUSY e).key ≠ (R.TG_e_CH_c_CHAINS_COUNT e r.ch).key := by
    dsimp only [R.TG_e_STATUS_BUSY, R.TG_e_CH_c_STATUS_RUNNING, R.TG_e_CH_c_CHAINS_COUNT]
    omega
  obtain ⟨hcb, hrb, hrc, hbc⟩ := hkeys
  rw [heq]
  refine ⟨(((TugMoves.setTug s e _ _).wr (by simp [chainFields]) _).wr (by simp [chainFields]) _).wr (by simp [chainFields]) _, ?_, ?_⟩
  · rw [State.rd_inc_other _ hcb, State.rd_wr_other _ _ hrb, State.rd_wr_same]
    rfl
  · rw [State.rd_inc_same, State.rd_wr_other _ _ hrc, State.rd_wr_other _ _ hbc, low_satAdd]
    rfl

theorem State.chainNext_moves (h : (s.tug e).run = some r) (d : Desc) :
    TugMoves s e ((s.tug e).after r d s.now) (chainFields e r.ch) (s.chainNext e r d) ∧
      (d.last = true → (s.chainNext e r d).rd (R.TG_e_CH_c_CHAINS_COUNT e r.ch) = satAdd 32 (s.rd (R.TG_e_CH_c_CHAINS_COUNT e r.ch)) 1) := by
  unfold State.chainNext
  cases hlast : d.last with
  | true =>
    obtain ⟨hmoves, -, hcount⟩ := s.chainEnd_moves h
    rw [if_pos rfl, Tug.after, hlast]
    exact ⟨hmoves, fun _ => hcount⟩
  | false =>
    rw [if_neg (by decide), Tug.after, hlast]
    exact ⟨(TugMoves.setTug s e _ _).wr (by simp [chainFields]) _, nofun⟩

end Chain

/-! How a channel queues a chain (R352). -/

section Enqueue
variable {s : State} {e : Fin 8} {c : Fin 32} (value : Word)

/-- The chain that a write of `value` to HEAD of the channel enqueues. -/
def State.tugChain (s : State) (e c : Nat) (value : Word) : TugChain :=
  ⟨32 * bits value.toNat 5 21, tideOf s.now, s.on (R.TG_e_CH_c_CFG_EN e c) && s.tugOwned e c, (s.tug e).enqueued⟩

/-- Engine `e` with that chain at the end of the channel's queue. -/
def State.tugJoined (s : State) (e c : Nat) (value : Word) : Tug :=
  { s.tug e with queues := Tab.put [] (s.tug e).queues c ((s.tug e).queue c ++ [s.tugChain e c value]), enqueued := (s.tug e).enqueued + 1 }

theorem exec_tugEnqueue_of_full (hs : s.runs) (h : 16 ≤ ((s.tug e).queue c).length) :
    exec (.tugEnqueue e c value) s = .next (s.wr (R.TG_e_CH_c_STATUS_OVF e c) 1) := by
  show execTugEnqueue e c value s = _
  rw [execTugEnqueue, State.live_runs hs]
  exact if_pos h

theorem exec_tugEnqueue_of_room (hs : s.runs) (h : ((s.tug e).queue c).length < 16) : exec (.tugEnqueue e c value) s =
    .next ((s.setTug e (s.tugJoined e c value)).wr (R.TG_e_CH_c_STATUS_QLVL e c) (((s.tug e).queue c).length + 1)) := by
  show execTugEnqueue e c value s = _
  rw [execTugEnqueue, State.live_runs hs]
  exact if_neg (Nat.not_le.mpr h)

theorem tugEnqueue_joins (hs : s.runs) (h : ((s.tug e).queue c).length < 16) : ∃ t, exec (.tugEnqueue e c value) s = .next t ∧
    TugMoves s e (s.tugJoined e c value) [R.TG_e_CH_c_STATUS_QLVL e c] t ∧
    t.rd (R.TG_e_CH_c_STATUS_QLVL e c) = ((s.tug e).queue c).length + 1 := by
  refine ⟨_, exec_tugEnqueue_of_room value hs h, (TugMoves.setTug s e _ _).wr (List.mem_singleton_self _) _, ?_⟩
  rw [State.rd_wr_same]
  exact low_of_lt (Nat.lt_of_le_of_lt (Nat.succ_le_of_lt h) (by decide : 16 < 2 ^ 5))

end Enqueue

/-! How an engine takes a chain (R358). -/

section Start
variable {s : State} {e c : Nat} {h : TugChain}

/-- Engine `e` with the chain `h` of channel `c` running and out of its queue. -/
def State.tugStarted (s : State) (e c : Nat) (h : TugChain) : Tug :=
  { s.tug e with queues := Tab.put [] (s.tug e).queues c ((s.tug e).queue c).tail, run := some ⟨c, h.tide, h.ok, h.head, 1, s.now, false⟩ }

/-- The engine takes the chain, and its registers show it. -/
def State.startChain (s : State) (e c : Nat) (h : TugChain) : State :=
  (((((s.takeChain e c).setTug e (s.tugStarted e c h)).wr (R.TG_e_STATUS_CH e) c).wr (R.TG_e_STATUS_BUSY e) 1).wr
    (R.TG_e_CH_c_STATUS_RUNNING e c) 1).wr (R.TG_e_CH_c_CUR_CUR e c) (h.head / 32)

theorem State.takeChain_moves (s : State) (e c : Nat) :
    TugMoves s e { s.tug e with queues := Tab.put [] (s.tug e).queues c ((s.tug e).queue c).tail } (chainFields e c) (s.takeChain e c) :=
  (TugMoves.setTug s e _ _).wr (by simp [chainFields]) _

theorem exec_tugChainStart {e : Fin 8} (hs : s.runs) (hfree : (s.tug e).run = none) (hnext : s.nextChain e = some (c, h)) :
    exec (.tugChainStart e) s = .next (if h.ok then s.startChain e c h else
      ((s.startChain e c h).descDone e c h.head ((s.startChain e c h).desc h.head).irq tugInvalid 8 0).chainEnd e) := by
  have hstarted : s.tugStarted e c h = { (s.takeChain e c).tug e with run := some ⟨c, h.tide, h.ok, h.head, 1, s.now, false⟩ } := by
    rw [(s.takeChain_moves e c).mine]
    rfl
  show execTugChainStart e s = _
  rw [execTugChainStart, State.live_runs hs, if_neg (by rw [hfree]; decide), hnext]
  unfold State.startChain
  rw [hstarted]
  by_cases hok : h.ok = true
  · simp only [if_pos hok]
    rfl
  · simp only [if_neg hok]
    rfl

theorem State.startChain_moves (s : State) (e c : Nat) (h : TugChain) : TugMoves s e (s.tugStarted e c h)
    [R.TG_e_STATUS_BUSY e, R.TG_e_STATUS_CH e, R.TG_e_CH_c_STATUS_RUNNING e c, R.TG_e_CH_c_CUR_CUR e c, R.TG_e_CH_c_STATUS_QLVL e c]
    (s.startChain e c h) :=
  ((((((TugMoves.setTug s e _ _).wr (by simp) _).trans (TugMoves.setTug _ e _ _)).wr (by simp) _).wr (by simp) _).wr (by simp) _).wr (by simp) _

theorem State.startChain_rd (s : State) (e : Nat) {c : Nat} (hc : c < 32) (h : TugChain) :
    (s.startChain e c h).rd (R.TG_e_STATUS_BUSY e) = 1 ∧ (s.startChain e c h).rd (R.TG_e_STATUS_CH e) = c ∧
      (s.startChain e c h).rd (R.TG_e_CH_c_STATUS_RUNNING e c) = 1 ∧ (s.startChain e c h).rd (R.TG_e_CH_c_CUR_CUR e c) = low 21 (h.head / 32) := by
  have hkeys := chainFields_apart e c
  simp only [chainFields, List.pairwise_cons, List.forall_mem_cons, List.not_mem_nil, false_implies, implies_true, and_true,
    List.Pairwise.nil] at hkeys
  obtain ⟨⟨hcb, hrb, hub, -, -⟩, ⟨hrc, huc, -, -⟩, ⟨hur, -, -⟩, -⟩ := hkeys
  unfold State.startChain
  refine ⟨?_, ?_, ?_, State.rd_wr_same ..⟩
  · rw [State.rd_wr_other _ _ hub, State.rd_wr_other _ _ hrb, State.rd_wr_same]
    rfl
  · rw [State.rd_wr_other _ _ huc, State.rd_wr_other _ _ hrc, State.rd_wr_other _ _ hcb.symm, State.rd_wr_same]
    exact low_of_lt (show c < 2 ^ 5 from hc)
  · rw [State.rd_wr_other _ _ hur, State.rd_wr_same]
    rfl

@[simp] theorem State.tugStarted_queue (s : State) (e c : Nat) (h : TugChain) : (s.tugStarted e c h).queue c = ((s.tug e).queue c).tail :=
  Tab.get_put_same ..

/-- A chain of an invalid owner leaves its queue, and its first descriptor completes INVALID, cause OWNER (R353, R358). -/
theorem State.startChain_refused (s : State) (e : Nat) {c : Nat} (hc : c < 32) (h : TugChain) (hhead : h.head % 4 = 0) (irq : Bool) (t : State)
    (ht : t = ((s.startChain e c h).descDone e c h.head irq tugInvalid 8 0).chainEnd e) :
    t.tug e = { s.tugStarted e c h with run := none } ∧ t.shedNat (h.head + 28) 4 = 8 * 2 ^ 24 + 5 * 2 ^ 28 ∧
      (∀ a, a < h.head + 28 ∨ h.head + 32 ≤ a → t.shedByte a = s.shedByte a) ∧ bit (t.rd (R.TG_e_ERR_ERR e)) c = true ∧
      t.rd (R.TG_e_STATUS_BUSY e) = 0 ∧ (∀ k, k ≠ e → t.tug k = s.tug k) ∧ SameButTugs s t := by
  have hstart := s.startChain_moves e c h
  have hdone := (s.startChain e c h).descDone_done e c h.head irq tugInvalid 8 0
  set u := (s.startChain e c h).descDone e c h.head irq tugInvalid 8 0
  have hmine : u.tug e = s.tugStarted e c h := (State.tug_congr hdone.tugs e).trans hstart.mine
  obtain ⟨hend, hbusy, -⟩ := State.chainEnd_moves (s := u) (e := e) (r := ⟨c, h.tide, h.ok, h.head, 1, s.now, false⟩) (by rw [hmine]; rfl)
  rw [← ht] at hend hbusy
  refine ⟨by rw [hend.mine, hmine], ?_, fun a ha => ?_, ?_, hbusy, fun k hk => ?_, (hstart.sameButTugs.trans hdone.sameButTugs).trans hend.sameButTugs⟩
  · rw [State.shedNat_congr hend.shed, hdone.status hhead]
    rfl
  · rw [State.shedByte_congr hend.shed, hdone.outside a ha, State.shedByte_congr hstart.shed]
  · rw [hend.rd_err]
    exact hdone.failed (by decide) hc
  · rw [hend.others k hk, State.tug_congr hdone.tugs, hstart.others k hk]

end Start

end Sys2Proof.Machine
end

section
/-! SUPPORT. A Tug that copies within the Shed: its beats, its units and the whole descriptor (R356, R357, R361): statement O43. -/

namespace Sys2Proof.Machine

/-! The parity of the Shed (R340). -/

theorem Tab.mem_of_get_ne {α : Type} {d : α} {t : Tab α} {k : Nat} (h : Tab.get d t k ≠ d) : (k, Tab.get d t k) ∈ t := by
  induction t with
  | nil => exact absurd rfl h
  | cons x t ih =>
    rw [Tab.get_cons] at h ⊢
    split at h
    · next hk =>
      rw [if_pos hk, ← hk]
      exact List.mem_cons_self
    · next hk =>
      rw [if_neg hk]
      exact List.mem_cons_of_mem _ (ih h)

section Parity
variable {s : State} {a n : Nat}

theorem State.shedFails_eq_false : s.shedFails a n = false ↔ ∀ x ∈ s.shedBad, x.2 = true → a / 4 ≤ x.1 → a + n ≤ x.1 * 4 := by
  simp only [State.shedFails, List.any_eq_false, Bool.and_eq_true, decide_eq_true_eq, and_assoc, not_and, not_lt]

theorem State.shedFails_part {b m : Nat} (h : s.shedFails a n = false) (hlo : a ≤ b) (hhi : b + m ≤ a + n) : s.shedFails b m = false := by
  rw [State.shedFails_eq_false] at h ⊢
  intro x hx hbad hle
  have := h x hx hbad (by omega)
  omega

theorem State.word_passes {j : Nat} (h : s.shedFails a n = false) (hlo : a ≤ j) (hhi : j < a + n) : Tab.get false s.shedBad (j / 4) = false := by
  by_contra hbad
  rw [State.shedFails_eq_false] at h
  have := h _ (Tab.mem_of_get_ne hbad) (by simpa using hbad) (show a / 4 ≤ j / 4 by omega)
  have : a + n ≤ j / 4 * 4 := this
  omega

theorem Tab.put_false_subset (t : Tab Bool) (w : Nat) : Tab.put false t w false ⊆ t := by
  rw [Tab.put, if_pos rfl]
  exact List.filter_subset_self _

end Parity

/-! A write of the Shed whose words pass parity. -/

/-- From `s` to `t` the bytes `bs` are written at `a` of the Shed, and no word's parity gets worse. -/
structure Wrote (a : Nat) (bs : List Byte) (s t : State) : Prop where
  bytes : ∀ j, t.shedByte j = if a ≤ j ∧ j < a + bs.length then bs.getD (j - a) 0 else s.shedByte j
  bad : t.shedBad ⊆ s.shedBad
  same : SameButShed s t
  only : OnlyRegs [R.TG_SHED_STATUS_WRITE_DISC] s t

theorem State.shedWrite_bad (s : State) (a : Nat) (bs : List Byte) : (s.shedWrite a bs).shedBad ⊆ s.shedBad := by
  unfold State.shedWrite
  induction wordsOf a bs.length generalizing s with
  | nil => exact List.Subset.refl _
  | cons w ws ih =>
    refine List.Subset.trans (ih (s.shedWritePart a bs w)) ?_
    unfold State.shedWritePart
    extract_lets
    split
    · exact Tab.put_false_subset _ w
    · split <;> exact List.Subset.refl _

theorem State.shedWrite_wrote (s : State) (a : Nat) (bs : List Byte) (h : s.shedFails a bs.length = false) : Wrote a bs s (s.shedWrite a bs) := by
  classical
  obtain ⟨hsame, honly⟩ := s.shedWrite_frame a bs
  refine ⟨fun j => ?_, s.shedWrite_bad a bs, hsame, honly⟩
  rw [State.shedByte_shedWrite]
  exact if_congr ⟨And.left, fun hj => ⟨hj, .inr (State.word_passes h hj.1 hj.2)⟩⟩ rfl rfl

section Wrote
variable {a b n : Nat} {bs cs : List Byte} {s t u : State}

theorem Wrote.refl (a : Nat) (s : State) : Wrote a [] s s :=
  ⟨fun j => by rw [if_neg]; simp only [List.length_nil]; omega, List.Subset.refl _, rfl, .refl s _⟩

theorem Wrote.append (h : Wrote a bs s t) (h' : Wrote (a + bs.length) cs t u) : Wrote a (bs ++ cs) s u := by
  refine ⟨fun j => ?_, List.Subset.trans h'.bad h.bad, h.same.trans h'.same, h.only.trans h'.only⟩
  rw [h'.bytes, h.bytes, List.length_append]
  by_cases hlo : a ≤ j ∧ j < a + bs.length
  · rw [if_neg (by omega), if_pos hlo, if_pos (by omega), List.getD_append _ _ _ _ (by omega)]
  · by_cases hhi : a + bs.length ≤ j ∧ j < a + bs.length + cs.length
    · rw [if_pos hhi, if_pos (by omega), List.getD_append_right _ _ _ _ (by omega), Nat.sub_sub]
    · rw [if_neg hhi, if_neg hlo, if_neg (by omega)]

theorem Wrote.fails (h : Wrote a bs s t) (hs : s.shedFails b n = false) : t.shedFails b n = false := by
  rw [State.shedFails_eq_false] at hs ⊢
  exact fun x hx => hs x (h.bad hx)

theorem Wrote.shedBytes_outside (h : Wrote a bs s t) (hout : b + n ≤ a ∨ a + bs.length ≤ b) : t.shedBytes b n = s.shedBytes b n := by
  rw [State.shedBytes_eq_map, State.shedBytes_eq_map]
  refine List.map_congr_left fun i hi => ?_
  rw [List.mem_range] at hi
  rw [h.bytes, if_neg]
  omega

theorem Wrote.powered (h : Wrote a bs s t) (k : Nat) : t.powered k = s.powered k :=
  State.powered_congr (h.only _ fun f hf => by rw [List.mem_singleton] at hf; rw [hf]; decide) k

end Wrote

@[simp] theorem State.length_shedBytes (s : State) (a n : Nat) : (s.shedBytes a n).length = n := Tab.length_getList ..

theorem State.shedBytes_add (s : State) (a n m : Nat) : s.shedBytes a (n + m) = s.shedBytes a n ++ s.shedBytes (a + n) m := by
  rw [← List.take_append_drop n (s.shedBytes a (n + m))]
  congr 1
  · exact Tab.take_getList 0 s.shed n a (n + m) (by omega)
  · rw [State.shedBytes, Tab.drop_getList, Nat.add_sub_cancel_left, State.shedBytes]

theorem State.getD_shedBytes (s : State) (a : Nat) {n i : Nat} (h : i < n) : (s.shedBytes a n).getD i 0 = s.shedByte (a + i) := by
  rw [State.shedBytes_eq_map, List.getD_eq_getElem _ _ (by simpa using h)]
  simp

/-! A plain copy (R356, R357). -/

/-- A descriptor that copies within the Shed, unswapped and unwrapped, between two ranges apart from each other. -/
structure Desc.Copies (d : Desc) : Prop where
  source : d.sspace = 1
  dest : d.dspace = 1
  swap : d.swap = 0
  swrap : d.swrap = 0
  dwrap : d.dwrap = 0
  srcRoom : d.src + d.count ≤ shedSize
  dstRoom : d.dst + d.count ≤ shedSize
  apart : d.src + d.count ≤ d.dst ∨ d.dst + d.count ≤ d.src

/-- The Shed's domain is on, and no word of the two ranges fails parity. -/
structure State.Clean (s : State) (d : Desc) : Prop where
  on : s.powered 0 = true
  src : s.shedFails d.src d.count = false
  dst : s.shedFails d.dst d.count = false

theorem Wrote.clean {a : Nat} {bs : List Byte} {s t : State} {d : Desc} (h : Wrote a bs s t) (hs : s.Clean d) : t.Clean d :=
  ⟨(h.powered 0).trans hs.on, h.fails hs.src, h.fails hs.dst⟩

theorem swapBytes_zero (l : List Byte) : swapBytes 0 l = l := by
  fun_induction swapBytes 0 l <;> simp_all

section Copy
variable {d : Desc} (hd : d.Copies) {x : TugLuck} (hx : x.fails = none)
include hd hx

theorem State.srcRead_of_clean {s : State} (hs : s.Clean d) {i n : Nat} (h : i + n ≤ d.count) :
    s.srcRead d x i n = (s, none, s.shedBytes (d.src + i) n) := by
  have hwrap : wrapAddr d.src d.swrap i = d.src + i := by rw [wrapAddr, if_pos hd.swrap]
  have hon : s.sideOff x 1 (d.src + i) = false := by simp [State.sideOff, sideDomain, hs.on]
  have herr : x.error false i n = none := by rw [TugLuck.error, hx]
  have hroom := hd.srcRoom
  unfold State.srcRead
  simp only [hwrap, hon, herr, hd.source, State.shedFails_part hs.src (Nat.le_add_right _ i) (by omega : d.src + i + n ≤ d.src + d.count)]
  rw [if_neg Bool.false_ne_true, if_neg (by decide), if_pos trivial, if_neg (by omega), if_neg Bool.false_ne_true]

theorem State.dstWrite_of_clean {s : State} (hs : s.Clean d) {i : Nat} {bs : List Byte} (h : i + bs.length ≤ d.count) :
    s.dstWrite d x i bs = (s.shedWrite (d.dst + i) bs, none) ∧ Wrote (d.dst + i) bs s (s.shedWrite (d.dst + i) bs) := by
  have hwrap : wrapAddr d.dst d.dwrap i = d.dst + i := by rw [wrapAddr, if_pos hd.dwrap]
  have hon : s.sideOff x 1 (d.dst + i) = false := by simp [State.sideOff, sideDomain, hs.on]
  have herr : x.error true i bs.length = none := by rw [TugLuck.error, hx]
  have hroom := hd.dstRoom
  refine ⟨?_, s.shedWrite_wrote _ _ (State.shedFails_part hs.dst (Nat.le_add_right _ i) (by omega))⟩
  unfold State.dstWrite
  simp only [hwrap, hon, herr, hd.dest]
  rw [if_neg Bool.false_ne_true, if_neg (by decide), if_pos trivial, if_neg (by omega)]

theorem readBeats_of_clean {s : State} (hs : s.Clean d) (n : Nat) : ∀ (k i : Nat), i + n * k ≤ d.count →
    readBeats d x n i k s = (s, none, s.shedBytes (d.src + i) (n * k))
  | 0, _, _ => rfl
  | k + 1, i, h => by
    rw [Nat.mul_succ] at h
    have hfirst := State.srcRead_of_clean hd hx hs (i := i) (n := n) (by omega)
    have hrest := readBeats_of_clean hs n k (i + n) (by omega)
    simp only [readBeats, hfirst, hrest]
    rw [Nat.mul_succ, Nat.add_comm (n * k), State.shedBytes_add, Nat.add_assoc]

theorem writeBeats_of_clean (n : Nat) : ∀ (k i : Nat) (bs : List Byte) (s : State), s.Clean d → bs.length = n * k → i + n * k ≤ d.count →
    ∃ t, writeBeats d x n i k bs s = ⟨t, i + n * k, none⟩ ∧ Wrote (d.dst + i) bs s t
  | 0, i, bs, s, _, hlen, _ => ⟨s, rfl, List.length_eq_zero_iff.mp hlen ▸ Wrote.refl _ s⟩
  | k + 1, i, bs, s, hs, hlen, h => by
    rw [Nat.mul_succ] at h hlen
    have htake : (bs.take n).length = n := by rw [List.length_take]; omega
    obtain ⟨hfirst, hwrote⟩ := State.dstWrite_of_clean hd hx hs (i := i) (bs := bs.take n) (by omega)
    obtain ⟨t, hrest, hwrote'⟩ := writeBeats_of_clean n k (i + n) (bs.drop n) _ (hwrote.clean hs) (by rw [List.length_drop]; omega) (by omega)
    refine ⟨t, ?_, ?_⟩
    · simp only [writeBeats, hfirst, hrest, Nat.mul_succ]
      congr 1
      omega
    · rw [← List.take_append_drop n bs]
      exact hwrote.append (by rwa [htake, Nat.add_assoc])

theorem moveUnits_of_clean (hsrc : d.srcBeat ∣ d.unit) (hdst : d.dstBeat ∣ d.unit) : ∀ (k i : Nat) (s : State), s.Clean d → i + d.unit * k ≤ d.count →
    ∃ t, moveUnits d x i k s = ⟨t, i + d.unit * k, none⟩ ∧ Wrote (d.dst + i) (s.shedBytes (d.src + i) (d.unit * k)) s t
  | 0, i, s, _, _ => ⟨s, rfl, Wrote.refl _ s⟩
  | k + 1, i, s, hs, h => by
    rw [Nat.mul_succ] at h
    have hread := readBeats_of_clean hd hx hs d.srcBeat (d.unit / d.srcBeat) i (by rw [Nat.mul_div_cancel' hsrc]; omega)
    rw [Nat.mul_div_cancel' hsrc] at hread
    obtain ⟨t, hwrite, hwrote⟩ := writeBeats_of_clean hd hx d.dstBeat (d.unit / d.dstBeat) i (s.shedBytes (d.src + i) d.unit) s hs
      (by rw [State.length_shedBytes, Nat.mul_div_cancel' hdst]) (by rw [Nat.mul_div_cancel' hdst]; omega)
    obtain ⟨u, hrest, hwrote'⟩ := moveUnits_of_clean hsrc hdst k (i + d.unit) t (hwrote.clean hs) (by omega)
    have hsource : t.shedBytes (d.src + (i + d.unit)) (d.unit * k) = s.shedBytes (d.src + (i + d.unit)) (d.unit * k) :=
      hwrote.shedBytes_outside (by rw [State.length_shedBytes]; have := hd.apart; omega)
    refine ⟨u, ?_, ?_⟩
    · simp only [moveUnits, hread, hd.swap, swapBytes_zero, hwrite, hrest, Nat.mul_succ]
      simp only [Option.isSome_none, Bool.false_eq_true, if_false]
      congr 1
      omega
    · rw [Nat.mul_succ, Nat.add_comm (d.unit * k), State.shedBytes_add]
      refine hwrote.append ?_
      rw [State.length_shedBytes, Nat.add_assoc, Nat.add_assoc, ← hsource]
      exact hwrote'

end Copy

end Sys2Proof.Machine
end

section
/-! SUPPORT. A descriptor of a running chain completes (R355 to R361): statement O43. -/

namespace Sys2Proof.Machine

/-! The units of a plain copy (R356, R357). -/

section Units
variable {d : Desc} (hd : d.Copies)
include hd

theorem Desc.Copies.unit_cases : (d.unit = d.srcBeat ∧ d.dstBeat ∣ d.srcBeat) ∨ (d.unit = d.dstBeat ∧ d.srcBeat ∣ d.dstBeat) := by
  have hswap : d.swapUnit = 1 := by rw [Desc.swapUnit, if_pos hd.swap]
  have hone : 1 ≤ 2 ^ d.dw := Nat.one_le_two_pow
  rw [Desc.unit, hswap, Desc.srcBeat, Desc.dstBeat, Nat.max_eq_left hone]
  rcases Nat.le_total d.dw d.sw with hle | hle
  · exact .inl ⟨Nat.max_eq_left (Nat.pow_le_pow_right (by decide) hle), Nat.pow_dvd_pow 2 hle⟩
  · exact .inr ⟨Nat.max_eq_right (Nat.pow_le_pow_right (by decide) hle), Nat.pow_dvd_pow 2 hle⟩

theorem Desc.Copies.beats_dvd_unit : d.srcBeat ∣ d.unit ∧ d.dstBeat ∣ d.unit := by
  rcases hd.unit_cases with ⟨hunit, hdvd⟩ | ⟨hunit, hdvd⟩
  · exact ⟨hunit ▸ dvd_rfl, hunit ▸ hdvd⟩
  · exact ⟨hunit ▸ hdvd, hunit ▸ dvd_rfl⟩

theorem Desc.Copies.unit_dvd_count (hvalid : d.valid = true) : d.unit ∣ d.count := by
  simp only [Desc.valid, Bool.and_eq_true, beq_iff_eq] at hvalid
  obtain ⟨⟨⟨⟨⟨⟨⟨-, hsrc⟩, hdst⟩, -⟩, -⟩, -⟩, -⟩, -⟩ := hvalid
  rcases hd.unit_cases with ⟨hunit, -⟩ | ⟨hunit, -⟩
  · exact hunit ▸ Nat.dvd_of_mod_eq_zero hsrc
  · exact hunit ▸ Nat.dvd_of_mod_eq_zero hdst

theorem State.moveAll_of_clean (hvalid : d.valid = true) {x : TugLuck} (hx : x.fails = none) {s : State} (hs : s.Clean d) :
    ∃ t, s.moveAll d x = ⟨t, d.count, none⟩ ∧ Wrote d.dst (s.shedBytes d.src d.count) s t := by
  have hcount : d.unit * (d.count / d.unit) = d.count := Nat.mul_div_cancel' (hd.unit_dvd_count hvalid)
  obtain ⟨hsrc, hdst⟩ := hd.beats_dvd_unit
  have hmove := moveUnits_of_clean hd hx hsrc hdst (d.count / d.unit) 0 s hs (by omega)
  rwa [hcount, Nat.zero_add] at hmove

end Units

/-! What a descriptor charges (R350, R359). -/

/-- Engine `x` after `n` engine-ns on the account of `o`. -/
def Tug.charged (x : Tug) (o n : Nat) : Tug := { x with used := Tab.put 0 x.used o (Tab.get 0 x.used o + n) }

theorem State.chargeMove_charges (s : State) (e o : Nat) (d : Desc) (p : TugProgress) (t : State) (ht : t = s.chargeMove e o d p) :
    t.tug e = (s.tug e).charged o d.charge ∧ (∀ k, k ≠ e → t.tug k = s.tug k) ∧ OnlyRegs [R.TG_e_BYTES_COUNT e] s t ∧
      t.rd (R.TG_e_BYTES_COUNT e) = satAdd 32 (s.rd (R.TG_e_BYTES_COUNT e)) p.done ∧
      t = { s with regs := t.regs, tugs := t.tugs, work := t.work } := by
  have hcharge : ∃ w, (s.tugCharge e o d.charge).tugWarehouse o p.done d =
      { s.setTug e ((s.tug e).charged o d.charge) with work := w } := by
    unfold State.tugWarehouse State.tugCharge
    split
    · rw [State.chargeTo_frame, State.chargeTo_frame, State.chargeTo_frame]
      exact ⟨_, rfl⟩
    · rw [State.chargeTo_frame, State.chargeTo_frame]
      exact ⟨_, rfl⟩
  obtain ⟨w, hw⟩ := hcharge
  have hset := TugMoves.setTug s e ((s.tug e).charged o d.charge) [R.TG_e_BYTES_COUNT e]
  rw [State.chargeMove, hw] at ht
  generalize hv : ({ s.setTug e ((s.tug e).charged o d.charge) with work := w } : State) = v at ht
  have htugs : v.tugs = (s.setTug e ((s.tug e).charged o d.charge)).tugs := by rw [← hv]
  have hregs : v.regs = s.regs := by rw [← hv]; rfl
  have hsat : t.tugs = v.tugs := by rw [ht]; rfl
  refine ⟨?_, fun k hk => ?_, ?_, ?_, ?_⟩
  · rw [State.tug_congr (hsat.trans htugs), hset.mine]
  · rw [State.tug_congr (hsat.trans htugs), hset.others k hk]
  · rw [ht]
    exact ((OnlyRegs.refl s _).of_regs hregs).wr (List.mem_singleton_self _) _
  · rw [ht, State.addSat, State.rd_wr_same]
    refine low_satAdd.trans ?_
    rw [State.rd, State.rd, hregs]
    rfl
  · rw [ht, ← hv]
    rfl

/-! The parity of a descriptor that is fetched (R341). -/

theorem Tab.get_of_mem {α : Type} (d : α) {k : Nat} {v : α} : ∀ {t : Tab α}, Tab.sorted t = true → (k, v) ∈ t → Tab.get d t k = v
  | x :: t, hsorted, hmem => by
    rw [Tab.sorted_cons] at hsorted
    rw [Tab.get_cons]
    rcases List.mem_cons.mp hmem with rfl | hmem
    · exact if_pos rfl
    · have hlt := hsorted.1 _ hmem
      rw [if_neg (by simpa using hlt.ne)]
      exact Tab.get_of_mem d hsorted.2 hmem

theorem State.parityCheck_parity (s : State) (w : Nat) :
    (s.parityCheck w).rd R.TG_SHED_STATUS_PARITY = if Tab.get false s.shedBad w then 1 else s.rd R.TG_SHED_STATUS_PARITY := by
  unfold State.parityCheck
  split
  · rw [State.rd_inc_other _ (by decide), State.rd_wr_same]
    rfl
  · rfl

theorem State.foldl_parityCheck_parity : ∀ (ws : List Nat) (s : State), (ws.foldl State.parityCheck s).rd R.TG_SHED_STATUS_PARITY =
    if ws.any (Tab.get false s.shedBad) then 1 else s.rd R.TG_SHED_STATUS_PARITY
  | [], _ => rfl
  | w :: ws, s => by
    have hbad : (s.parityCheck w).shedBad = s.shedBad := by rw [s.parityCheck_sameButRegs w]
    rw [List.foldl_cons, State.foldl_parityCheck_parity ws, hbad, State.parityCheck_parity, List.any_cons]
    cases Tab.get false s.shedBad w <;> simp

theorem State.parityScan_parity {s : State} (hwf : s.memoriesWf = true) {a n : Nat} (hn : 0 < n) (h : s.shedFails a n = true) :
    (s.parityScan a n).rd R.TG_SHED_STATUS_PARITY = 1 := by
  rw [State.memoriesWf_store, Store.wf_iff] at hwf
  obtain ⟨-, hbad, -⟩ := hwf
  simp only [State.shedFails, List.any_eq_true, Bool.and_eq_true, decide_eq_true_eq] at h
  obtain ⟨⟨w, v⟩, hmem, ⟨hv, hlo⟩, hhi⟩ := h
  rw [State.parityScan, State.foldl_parityCheck_parity, if_pos]
  refine List.any_eq_true.mpr ⟨w, ?_, ?_⟩
  · rw [wordsOf, if_neg hn.ne', List.mem_map]
    exact ⟨w - a / 4, List.mem_range.mpr (by simp only at hlo hhi; omega), by simp only at hlo hhi; omega⟩
  · exact (Tab.get_of_mem false ((Tab.wf_iff false s.shedBad).mp hbad).1 hmem).trans hv

/-! The completion of the descriptor in progress (R355 to R360). -/

section Complete
variable {e : Fin 8} {s : State} {r : TugRun} (hs : s.runs) (hrun : (s.tug e).run = some r) (htide : tideOf s.now < r.tide + 2)
include hs hrun htide

theorem exec_tugDescriptorComplete_of_parity (h : s.shedFails r.desc 28 = true) : exec (.tugDescriptorComplete e {} [] none) s =
    .next (((s.parityScan r.desc 28).descDone e r.ch r.desc (s.desc r.desc).irq tugBad causeParity 0).chainNext e r (s.desc r.desc)) := by
  show execTugDescriptorComplete e {} [] none s = _
  rw [execTugDescriptorComplete, State.live_runs hs, hrun]
  dsimp only
  rw [if_neg (by omega), if_pos h]
  rfl

theorem exec_tugDescriptorComplete_of_long (hpass : s.shedFails r.desc 28 = false) (h : 1024 < r.num) :
    exec (.tugDescriptorComplete e {} [] none) s =
      .next ((s.descDone e r.ch r.desc (s.desc r.desc).irq tugInvalid causeChain 0).chainEnd e) := by
  show execTugDescriptorComplete e {} [] none s = _
  rw [execTugDescriptorComplete, State.live_runs hs, hrun]
  dsimp only
  rw [if_neg (by omega), hpass, if_neg Bool.false_ne_true, if_pos h]
  rfl

theorem exec_tugDescriptorComplete_of_invalid (hpass : s.shedFails r.desc 28 = false) (hnum : r.num ≤ 1024) (h : (s.desc r.desc).valid = false) :
    exec (.tugDescriptorComplete e {} [] none) s =
      .next ((s.descDone e r.ch r.desc (s.desc r.desc).irq tugInvalid causeFormat 0).chainNext e r (s.desc r.desc)) := by
  show execTugDescriptorComplete e {} [] none s = _
  rw [execTugDescriptorComplete, State.live_runs hs, hrun]
  dsimp only
  rw [if_neg (by omega), hpass, if_neg Bool.false_ne_true, if_neg (by omega), h, Bool.not_false, if_pos rfl]
  rfl

theorem exec_tugDescriptorComplete_of_moves (hpass : s.shedFails r.desc 28 = false) (hnum : r.num ≤ 1024) (hvalid : (s.desc r.desc).valid = true)
    (hdrain : s.draining = []) {p : TugProgress} (hp : s.moveAll (s.desc r.desc) ⟨{}, [], none, r.shut⟩ = p) (hkept : (p.state.tug e).run = some r) :
    exec (.tugDescriptorComplete e {} [] none) s = .next ((s.finishMove e r (s.desc r.desc) p).chainNext e r (s.desc r.desc)) := by
  show execTugDescriptorComplete e {} [] none s = _
  rw [execTugDescriptorComplete, State.live_runs hs, hrun]
  dsimp only
  rw [if_neg (by omega), hpass, if_neg Bool.false_ne_true, if_neg (by omega), hvalid, hdrain, hp, hkept, decide_eq_true hnum]
  rfl

end Complete

theorem chainOthers_apart (e c : Nat) : ∀ f ∈ chainFields e c,
    ∀ g ∈ [R.TG_SHED_STATUS_PARITY, R.TG_e_BYTES_COUNT e, R.TG_e_DONE_DONE e], f.key ≠ g.key := by
  simp only [chainFields, List.forall_mem_cons, R.TG_e_STATUS_BUSY, R.TG_e_STATUS_CH, R.TG_e_CH_c_STATUS_RUNNING, R.TG_e_CH_c_CUR_CUR,
    R.TG_e_CH_c_STATUS_QLVL, R.TG_e_CH_c_CHAINS_COUNT, R.TG_SHED_STATUS_PARITY, R.TG_e_BYTES_COUNT, R.TG_e_DONE_DONE, List.not_mem_nil,
    false_implies, implies_true, and_true]
  omega

/-- What a completed descriptor shows stays while its chain goes on or ends. -/
theorem DescDone.moved {e c off : Nat} {irq : Bool} {code status : Nat} {s u t : State} {x : Tug} (h : DescDone e c off irq code status s u)
    (hm : TugMoves u e x (chainFields e c) t) (hoff : off % 4 = 0) : t.shedNat (off + 28) 4 = low 32 status ∧
      (∀ a, a < off + 28 ∨ off + 32 ≤ a → t.shedByte a = s.shedByte a) ∧ t.rd (R.TG_e_ERR_ERR e) = u.rd (R.TG_e_ERR_ERR e) ∧
      (∀ k, k ≠ e → t.tug k = s.tug k) ∧ SameButTugs s t := by
  refine ⟨?_, fun a ha => ?_, hm.rd_err, fun k hk => ?_, h.sameButTugs.trans hm.sameButTugs⟩
  · rw [State.shedNat_congr hm.shed, h.status hoff]
  · rw [State.shedByte_congr hm.shed, h.outside a ha]
  · rw [hm.others k hk, State.tug_congr h.tugs]

theorem TugMoves.rd_others {s t : State} {e c : Nat} {x : Tug} (h : TugMoves s e x (chainFields e c) t) {f : Fld}
    (hf : f ∈ [R.TG_SHED_STATUS_PARITY, R.TG_e_BYTES_COUNT e, R.TG_e_DONE_DONE e]) : t.rd f = s.rd f :=
  h.only f fun g hg => chainOthers_apart e c g hg f hf

section Moves
variable {e : Nat} {s : State} {r : TugRun} (hrun : (s.tug e).run = some r) (hoff : r.desc % 4 = 0) (hch : r.ch < 32)
include hrun hoff hch

/-- A descriptor that completes with a code other than OK, and then its chain goes on or ends. -/
theorem State.failed_chainNext {irq : Bool} {code cause : Nat} (hcode : code ≠ tugOk) (d : Desc) (t : State)
    (ht : t = (s.descDone e r.ch r.desc irq code cause 0).chainNext e r d) : t.tug e = (s.tug e).after r d s.now ∧
      t.shedNat (r.desc + 28) 4 = low 32 (cause * 2 ^ 24 + code * 2 ^ 28) ∧ bit (t.rd (R.TG_e_ERR_ERR e)) r.ch = true ∧
      (∀ a, a < r.desc + 28 ∨ r.desc + 32 ≤ a → t.shedByte a = s.shedByte a) ∧ t.rd R.TG_SHED_STATUS_PARITY = s.rd R.TG_SHED_STATUS_PARITY := by
  have hdone := s.descDone_done e r.ch r.desc irq code cause 0
  have hmine := State.tug_congr hdone.tugs e
  obtain ⟨hmoves, -⟩ := State.chainNext_moves (hmine ▸ hrun) d
  rw [← ht] at hmoves
  obtain ⟨hstatus, hout, herr, -⟩ := hdone.moved hmoves hoff
  refine ⟨?_, ?_, ?_, hout, ?_⟩
  · rw [hmoves.mine, hmine, show (s.descDone e r.ch r.desc irq code cause 0).now = s.now by rw [hdone.frame]]
  · rw [hstatus, Nat.zero_add]
  · rw [herr]
    exact hdone.failed hcode hch
  · rw [hmoves.rd_others (by simp), hdone.rd (k := r.ch) (by simp [tugOthers])]

/-- A descriptor that completes INVALID, and its chain ends. -/
theorem State.failed_chainEnd {irq : Bool} {code cause : Nat} (hcode : code ≠ tugOk) (t : State)
    (ht : t = (s.descDone e r.ch r.desc irq code cause 0).chainEnd e) : (t.tug e).run = none ∧
      t.shedNat (r.desc + 28) 4 = low 32 (cause * 2 ^ 24 + code * 2 ^ 28) ∧ bit (t.rd (R.TG_e_ERR_ERR e)) r.ch = true ∧
      (∀ a, a < r.desc + 28 ∨ r.desc + 32 ≤ a → t.shedByte a = s.shedByte a) := by
  have hdone := s.descDone_done e r.ch r.desc irq code cause 0
  obtain ⟨hmoves, -⟩ := State.chainEnd_moves ((State.tug_congr hdone.tugs e) ▸ hrun)
  rw [← ht] at hmoves
  obtain ⟨hstatus, hout, herr, -⟩ := hdone.moved hmoves hoff
  refine ⟨by rw [hmoves.mine], ?_, ?_, hout⟩
  · rw [hstatus, Nat.zero_add]
  · rw [herr]
    exact hdone.failed hcode hch

end Moves

/-- From `s` to `t` the descriptor `d` of the chain `r` of engine `e` has copied its bytes, and its owner `o` is charged (R356 to R360). -/
structure DescCopied (e o : Nat) (r : TugRun) (d : Desc) (s t : State) : Prop where
  copied : ∀ i, i < d.count → t.shedByte (d.dst + i) = s.shedByte (d.src + i)
  status : t.shedNat (r.desc + 28) 4 = low 32 (d.count + 2 ^ 28)
  outside : ∀ a, (a < d.dst ∨ d.dst + d.count ≤ a) → (a < r.desc + 28 ∨ r.desc + 32 ≤ a) → t.shedByte a = s.shedByte a
  counted : t.rd (R.TG_e_BYTES_COUNT e) = satAdd 32 (s.rd (R.TG_e_BYTES_COUNT e)) d.count
  mine : t.tug e = ((s.tug e).charged o d.charge).after r d s.now
  chains : d.last = true → t.rd (R.TG_e_CH_c_CHAINS_COUNT e r.ch) = satAdd 32 (s.rd (R.TG_e_CH_c_CHAINS_COUNT e r.ch)) 1
  signals : d.irq = true → t.signalled = s.signalled ++ [s.rd (R.TG_e_CH_c_CFG_VEC e r.ch)] ∧ bit (t.rd (R.TG_e_DONE_DONE e)) r.ch = true
  silent : d.irq = false → t.signalled = s.signalled
  passed : t.rd (R.TG_e_ERR_ERR e) = s.rd (R.TG_e_ERR_ERR e)
  others : ∀ k, k ≠ e → t.tug k = s.tug k
  same : SameButTugs s t

theorem copyFields_apart (e c : Nat) : ∀ f ∈ [R.TG_SHED_STATUS_WRITE_DISC, R.TG_e_BYTES_COUNT e],
    ∀ g ∈ [R.TG_e_ERR_ERR e, R.TG_e_CH_c_CHAINS_COUNT e c, R.TG_e_CH_c_CFG_VEC e c], f.key ≠ g.key := by
  simp only [List.forall_mem_cons, R.TG_SHED_STATUS_WRITE_DISC, R.TG_e_BYTES_COUNT, R.TG_e_ERR_ERR, R.TG_e_CH_c_CHAINS_COUNT,
    R.TG_e_CH_c_CFG_VEC, List.not_mem_nil, false_implies, implies_true, and_true]
  omega

/-- The bytes are written (`u`), the owner is charged (`v`), the descriptor completes OK (`w`), and the chain goes on or ends (`t`). -/
theorem Wrote.descCopied {e : Nat} {s u v w t : State} {r : TugRun} {d : Desc} {o : Nat} (hwrote : Wrote d.dst (s.shedBytes d.src d.count) s u)
    (hv : v = u.chargeMove e o d ⟨u, d.count, none⟩) (hw : w = v.descDone e r.ch r.desc d.irq tugOk 0 d.count) (ht : t = w.chainNext e r d)
    (hrun : (s.tug e).run = some r) (hoff : r.desc % 4 = 0) (hch : r.ch < 32) (hclear : d.dst + d.count ≤ r.desc ∨ r.desc + 32 ≤ d.dst) :
    DescCopied e o r d s t := by
  have hucopy := hwrote.same
  have hutugs : u.tugs = s.tugs := by rw [hucopy]
  obtain ⟨hvmine, hvothers, hvonly, hvbytes, hvframe⟩ := u.chargeMove_charges e o d ⟨u, d.count, none⟩ v hv
  have hdone := v.descDone_done e r.ch r.desc d.irq tugOk 0 d.count
  rw [← hw] at hdone
  have hvtug : v.tug e = (s.tug e).charged o d.charge := by rw [hvmine, State.tug_congr hutugs]
  have hwtug : w.tug e = (s.tug e).charged o d.charge := by rw [State.tug_congr hdone.tugs, hvtug]
  obtain ⟨hmoves, hchains⟩ := State.chainNext_moves (s := w) (e := e) (r := r) (by rw [hwtug]; exact hrun) d
  rw [← ht] at hmoves hchains
  obtain ⟨hstatus, hout, herr, hothers, hsame⟩ := hdone.moved hmoves hoff
  have hshed : ∀ a, v.shedByte a = u.shedByte a := State.shedByte_congr (by rw [hvframe])
  have hnow : w.now = s.now := by rw [hdone.frame, hvframe, hucopy]
  have hsignalled : v.signalled = s.signalled := by rw [hvframe, hucopy]
  have hkeep : ∀ g ∈ [R.TG_e_ERR_ERR e, R.TG_e_CH_c_CHAINS_COUNT e r.ch, R.TG_e_CH_c_CFG_VEC e r.ch], v.rd g = s.rd g := fun g hg =>
    ((hwrote.only.mono (by simp)).trans (hvonly.mono (by simp))) g fun f hf => copyFields_apart e r.ch f hf g hg
  have hubytes : u.rd (R.TG_e_BYTES_COUNT e) = s.rd (R.TG_e_BYTES_COUNT e) := hwrote.only _ fun f hf => by
    rw [List.mem_singleton.mp hf]
    exact descFields_apart e r.ch _ (by simp [descFields]) _ (by simp [tugOthers])
  refine ⟨fun i hi => ?_, ?_, fun a ha ha' => ?_, ?_, ?_, fun hlast => ?_, fun hirq => ?_, fun hirq => ?_, ?_, fun k hk => ?_, ?_⟩
  · rw [hout _ (by omega), hshed, hwrote.bytes, State.length_shedBytes, if_pos (by omega), Nat.add_sub_cancel_left, State.getD_shedBytes _ _ hi]
  · rw [hstatus]
    rfl
  · rw [hout a ha', hshed, hwrote.bytes, State.length_shedBytes, if_neg (by omega)]
  · rw [hmoves.rd_others (by simp), hdone.rd (k := r.ch) (by simp [tugOthers]), hvbytes, hubytes]
  · rw [hmoves.mine, hwtug, hnow]
  · rw [hchains hlast, hdone.rd (k := r.ch) (by simp [chainFields]), hkeep _ (by simp)]
  · obtain ⟨hsig, hbit⟩ := hdone.signals hirq
    rw [hmoves.signalled, hsig, hsignalled, hkeep _ (by simp), hmoves.rd_others (by simp)]
    exact ⟨rfl, hbit hch⟩
  · rw [hmoves.signalled, hdone.silent hirq, hsignalled]
  · rw [herr, hdone.passed rfl, hkeep _ (by simp)]
  · rw [hothers k hk, hvothers k hk, State.tug_congr hutugs]
  · refine SameButTugs.trans (hucopy.sameButTugs.trans ?_) hsame
    unfold SameButTugs
    rw [hvframe]

theorem tugDescriptorComplete_copies {e : Fin 8} {s : State} {r : TugRun} {d : Desc} (hd : d = s.desc r.desc) (hs : s.runs)
    (hrun : (s.tug e).run = some r) (htide : tideOf s.now < r.tide + 2) (hch : r.ch < 32) (hoff : r.desc % 4 = 0) (hdrain : s.draining = [])
    (hpass : s.shedFails r.desc 28 = false) (hnum : r.num ≤ 1024) (hvalid : d.valid = true) (hcopies : d.Copies) (hclean : s.Clean d)
    (hclear : d.dst + d.count ≤ r.desc ∨ r.desc + 32 ≤ d.dst) :
    ∃ t, exec (.tugDescriptorComplete e {} [] none) s = .next t ∧ DescCopied e (s.tugOwner e r.ch) r d s t := by
  subst hd
  obtain ⟨u, hall, hwrote⟩ := State.moveAll_of_clean hcopies hvalid (x := ⟨{}, [], none, r.shut⟩) rfl hclean
  have hutug : u.tug e = s.tug e := State.tug_congr (by rw [hwrote.same]) e
  exact ⟨_, exec_tugDescriptorComplete_of_moves hs hrun htide hpass hnum hvalid hdrain hall (by rw [← hrun, ← hutug]),
    hwrote.descCopied rfl rfl rfl hrun hoff hch hclear⟩

end Sys2Proof.Machine
end

section
/-! SUPPORT. The device's own tile write is complete (R121), and a Lock closes (R364): statement O43. -/

namespace Sys2Proof.Machine

/-! A tile write is complete (R121). -/

section Tile
variable {s : State} {e : Nat}

theorem State.spend_frame (s : State) (n b amount : Nat) : (s.spend n b amount).1 =
    { s with work := (s.spend n b amount).1.work, late := (s.spend n b amount).1.late, cutWork := (s.spend n b amount).1.cutWork } := by
  unfold State.spend
  extract_lets x y s1
  dsimp only
  rw [State.chargeTo_frame]

/-- The keys of the rows of tile `u` of group `g`. -/
def tileKeys (u g : Nat) : List Nat := (List.range 16).map (fun r => rowKey u g r)

theorem mem_tileKeys {u g k : Nat} : k ∈ tileKeys u g ↔ ∃ r, r < 16 ∧ rowKey u g r = k := by simp [tileKeys]

/-- The DAS part once the row buffers of tile `u` of group `g` are free, and the tags of the tile's late or discarded work are noted. -/
def Das.freed (d : Das) (u g tags : Nat) : Das :=
  let d1 : Das := { d with rows := d.rows.filter (fun k => !(tileKeys u g).contains k)
                           dropped := d.dropped.filter (fun k => !(tileKeys u g).contains k)
                           cells := Tab.clear d.cells (rowKey u g 0 * 256) (rowKey u g 16 * 256) }
  if tags = 0 then d1 else d1.tagTile u g tags

theorem Das.freed_rows (d : Das) (u g tags : Nat) : (d.freed u g tags).rows = d.rows.filter (fun k => !(tileKeys u g).contains k) := by
  unfold Das.freed
  extract_lets d1
  split
  · rfl
  · rw [Das.tagTile_frame]

theorem State.tileWritten_of_none (h : Tab.get [] s.tileWrites e = []) : s.tileWritten e = s := by rw [State.tileWritten, h]

/-- The work of the oldest tile write of Tug `e`, of berth `b`, and the tags it gave. -/
def State.tileSpent (s : State) (e b : Nat) (rest : List (Nat × Nat × Nat)) : State × Nat :=
  ({ s with tileWrites := Tab.put [] s.tileWrites e rest } : State).spend (5 + e) b (ceilDiv (s.berth b).tileBytes 16)

theorem State.tileWritten_of_some {b g u : Nat} {rest : List (Nat × Nat × Nat)} (h : Tab.get [] s.tileWrites e = (b, g, u) :: rest) :
    s.tileWritten e = (s.tileSpent e b rest).1.setDas b (((s.tileSpent e b rest).1.dasOf b).freed u g (s.tileSpent e b rest).2) := by
  rw [State.tileWritten, h]
  rfl

theorem State.tileWritten_frees {b g u : Nat} {rest : List (Nat × Nat × Nat)} (h : Tab.get [] s.tileWrites e = (b, g, u) :: rest) (t : State)
    (ht : t = s.tileWritten e) : Tab.get [] t.tileWrites e = rest ∧ (∀ k, k ∈ (t.dasOf b).rows ↔ k ∈ (s.dasOf b).rows ∧ k ∉ tileKeys u g) ∧
      (∀ i, i ≠ b → t.dasOf i = s.dasOf i) ∧
      t = { s with das := t.das, tileWrites := t.tileWrites, work := t.work, late := t.late, cutWork := t.cutWork } := by
  rw [State.tileWritten_of_some h] at ht
  have hspent := State.spend_frame ({ s with tileWrites := Tab.put [] s.tileWrites e rest } : State) (5 + e) b (ceilDiv (s.berth b).tileBytes 16)
  generalize hx : s.tileSpent e b rest = x at ht
  rw [← State.tileSpent, hx] at hspent
  have hdas : x.1.das = s.das := by rw [hspent]
  have hwrites : x.1.tileWrites = Tab.put [] s.tileWrites e rest := by rw [hspent]
  have hmine : t.dasOf b = (x.1.dasOf b).freed u g x.2 := by
    rw [ht]
    exact Tab.get_put_same ..
  refine ⟨?_, fun k => ?_, fun i hi => ?_, ?_⟩
  · rw [ht]
    exact (congrArg (Tab.get [] · e) hwrites).trans (Tab.get_put_same ..)
  · rw [hmine, Das.freed_rows, State.dasOf, hdas, List.mem_filter]
    simp [State.dasOf]
  · rw [ht]
    exact (Tab.get_put_other _ _ _ _ (Ne.symm hi)).trans (congrArg (Tab.get {} · i) hdas)
  · rw [ht, hspent]
    rfl

end Tile

theorem exec_tugDescriptorComplete_of_free {e : Fin 8} {s : State} (hs : s.runs) (hfree : (s.tug e).run = none) (luck : WhLuck) (host : List Byte)
    (fails : Option TugFail) : exec (.tugDescriptorComplete e luck host fails) s = .next (s.tileWritten e) := by
  show execTugDescriptorComplete e luck host fails s = _
  rw [execTugDescriptorComplete, State.live_runs hs, hfree]
  rfl

/-! A domain is switched off (R364). -/

/-- What lies outside the blocks is as before, and so are the Locks that drain. -/
def State.SparesLocks (s t : State) : Prop := s.Spares t ∧ t.draining = s.draining

theorem State.SparesLocks.trans {s t u : State} (h : s.SparesLocks t) (h' : t.SparesLocks u) : s.SparesLocks u :=
  ⟨h.1.trans h'.1, h'.2.trans h.2⟩

section Off
variable (s : State)

theorem State.shutTugs_sparesLocks (d : Nat) : s.SparesLocks (s.shutTugs d) := by
  have hstep : ∀ (t : State) (e : Nat), t.SparesLocks (match (t.tug e).run with
      | some r => if (t.desc r.desc).domains.contains d then t.setTug e { t.tug e with run := some { r with shut := true } } else t
      | none => t) := by
    intro t e
    have hset : ∀ x : Tug, t.SparesLocks (t.setTug e x) := fun x => ⟨(State.Spares.refl t).same rfl rfl, rfl⟩
    have hrefl : t.SparesLocks t := ⟨.refl t, rfl⟩
    split
    · split
      · exact hset _
      · exact hrefl
    · exact hrefl
  exact ⟨.foldl (fun t e => (hstep t e).1) _ s, view_foldl State.draining (fun t e => (hstep t e).2) _ s⟩

theorem State.keepConfig_sparesLocks (d : Nat) : s.SparesLocks (s.keepConfig d) :=
  ⟨s.keepConfig_spares d, by unfold State.keepConfig; split <;> rfl⟩

theorem State.quayStop_draining (n : Nat) : (s.quayStop n).draining = s.draining := by
  unfold State.quayStop
  split <;> rfl

theorem State.runDac_draining (n h : Nat) : (s.runDac n h).draining = s.draining := by
  have hframe := s.runDac_frame n h
  rw [SameButQuayFlights] at hframe
  rw [hframe]

theorem State.loseFlights_draining (n : Nat) : (s.loseFlights n).draining = s.draining := s.setQuay_draining n _

theorem State.cutQuay_draining (n : Nat) : (s.cutQuay n).draining = s.draining := by
  unfold State.cutQuay
  extract_lets s1 q s2
  have h2 : s2.draining = s.draining := by
    simp only [s2, s1, State.setQuay_draining, State.loseFlights_draining, State.runDac_draining]
  split
  · exact h2
  · exact h2

theorem State.latchQuay_draining (n : Nat) : (s.latchQuay n).draining = s.draining := by
  rw [State.latchQuay, State.wr_draining, State.cutQuay_draining, State.quayStop_draining]

theorem State.latchPort_draining (m : Nat) : (s.latchPort m).draining = s.draining := by
  unfold State.latchPort State.haltPort
  extract_lets q p s1 s2
  have h2 : s2.draining = s.draining := by
    simp only [s2, s1]
    split <;> rfl
  split
  · exact h2
  · exact h2

theorem State.domainLatched_sparesLocks (d : Nat) : s.SparesLocks (s.domainLatched d) := by
  refine ⟨s.domainLatched_spares d, ?_⟩
  unfold State.domainLatched
  split
  · exact s.latchQuay_draining _
  · split
    · exact view_foldl State.draining State.latchPort_draining _ s
    · rfl

theorem State.lanesLost_draining (n : Nat) : (s.lanesLost n).draining = s.draining :=
  view_foldl State.draining (fun t _ => t.setLane_draining _ _) _ s

theorem State.portsLost_draining : s.portsLost.draining = s.draining := view_foldl State.draining (fun t _ => t.setPort_draining _ _) _ s

theorem draining_fifos {s t : State} (h : t.draining = s.draining) (x : Tab (List TallyEntry)) : ({ t with fifos := x } : State).draining = s.draining := h

theorem draining_byb {s t : State} (h : t.draining = s.draining) (x : Bybovi) : ({ t with byb := x } : State).draining = s.draining := h

theorem State.clearCores_draining (n : Nat) : (s.clearCores n).draining = s.draining := by
  unfold State.clearCores
  extract_lets s1
  have h1 : s1.draining = s.draining := view_foldl State.draining (fun t _ => t.setCore_draining _ _) _ s
  exact h1

theorem State.quayCleared_draining (d : Nat) : (s.quayCleared d).draining = s.draining := by
  unfold State.quayCleared
  split <;> rfl

theorem State.clearDomain_draining (d : Nat) : (s.clearDomain d).draining = s.draining := by
  unfold State.clearDomain
  extract_lets r s1
  have h1 : s1.draining = s.draining := s.quayCleared_draining d
  clear_value s1
  rw [← h1]
  split
  · rfl
  split
  · have hlanes := s1.lanesLost_draining (d - 9)
    unfold State.lanesLost at hlanes
    exact draining_fifos hlanes _
  split
  · exact s1.clearCores_draining _
  split
  · rfl
  split
  · have hports := s1.portsLost_draining
    unfold State.portsLost at hports
    exact draining_byb hports {}
  split
  · rfl
  split <;> rfl

theorem State.clearDomain_sparesLocks (d : Fin 26) : s.SparesLocks (s.clearDomain d) := by
  refine ⟨?_, s.clearDomain_draining d⟩
  by_cases h : 1 ≤ d.val ∧ d.val < 25
  · exact s.clearDomain_spares h.1 h.2
  · have hregs : domainRegs d = (0, 0) := by
      revert d
      decide
    have hreset : ∀ t : State, t.Spares (t.resetRegs 0 0) := fun t =>
      ⟨rfl, rfl, rfl, rfl, rfl, rfl, fun f _ => by rw [State.rd_resetRegs, if_neg (by omega)]⟩
    have hlost := (s.clearDomain_losesBlock d).1
    rw [hregs] at hlost
    exact ((s.quayCleared_spares d).trans (hreset _)).trans hlost

/-- The switched domain's state once its outputs are latched and its block is lost. -/
def State.domainGone (s : State) (d : Nat) : State := (((s.shutTugs d).keepConfig d).domainLatched d).clearDomain d

theorem State.domainGone_sparesLocks (d : Fin 26) : s.SparesLocks (s.domainGone d) :=
  (((s.shutTugs_sparesLocks d).trans (State.keepConfig_sparesLocks _ d)).trans (State.domainLatched_sparesLocks _ d)).trans
    (State.clearDomain_sparesLocks _ d)

theorem State.powerOff_gone (d : Nat) : s.powerOff d = { (s.domainGone d).wrBit R.RS_PWR_STATUS_ON d false with
    power := (s.powerOff d).power, draining := (s.domainGone d).draining.filter (fun g => g.1 != d) } := rfl

theorem State.powerOff_off (d : Fin 26) : (s.powerOff d).powered d = false ∧ (s.powerOff d).now = s.now ∧
    (∀ k, k < 26 → k ≠ d.val → (s.powerOff d).powered k = s.powered k) ∧
    (s.powerOff d).draining = s.draining.filter (fun g => g.1 != d.val) := by
  obtain ⟨hspares, hdraining⟩ := s.domainGone_sparesLocks d
  have hregs : (s.powerOff d).rd R.RS_PWR_STATUS_ON = ((s.domainGone d).wrBit R.RS_PWR_STATUS_ON d false).rd R.RS_PWR_STATUS_ON := by
    rw [State.powerOff_gone]
    exact State.rd_congr rfl _
  have hpowered := State.powered_congr hregs
  refine ⟨?_, ?_, fun k hk hne => ?_, ?_⟩
  · rw [hpowered]
    exact State.bit_wrBit_same _ _ d.isLt
  · rw [State.powerOff_gone]
    exact hspares.now
  · rw [hpowered]
    refine (State.bit_wrBit_other _ _ hk hne).trans (congrArg (bit · k) (hspares.rd _ ?_))
    unfold Fld.ofBlocks
    decide
  · rw [State.powerOff_gone]
    exact congrArg (List.filter _) hdraining

end Off

/-! A Lock closes (R364). -/

section Lock
variable {s : State} {domain : Fin 26} {b : Nat} (hs : s.runs)
include hs

theorem exec_lockClose_of_none (h : ∀ b, (domain.val, b) ∉ s.draining) : exec (.lockClose domain) s = .next s := by
  have hnone : s.draining.find? (fun g => g.1 == domain.val) = none := by
    rw [List.find?_eq_none]
    rintro ⟨d, b⟩ hmem heq
    rw [beq_iff_eq] at heq
    exact h b (by rwa [← show d = domain.val from heq])
  show execLockClose domain s = _
  rw [execLockClose, State.live_runs hs, hnone]
  rfl

variable (hfind : s.draining.find? (fun g => g.1 == domain.val) = some (domain.val, b))
include hfind

theorem exec_lockClose_of_idle (h : s.tugUses domain b = false) : exec (.lockClose domain) s = .next (s.powerOff domain) := by
  show execLockClose domain s = _
  rw [execLockClose, State.live_runs hs, hfind]
  dsimp only
  rw [h]
  rfl

theorem exec_lockClose_of_busy (h : s.tugUses domain b = true) : exec (.lockClose domain) s =
    .next (if b + 10000 < nextBoundary s.now then (s.advance (b + 10000)).powerOff domain else s) := by
  show execLockClose domain s = _
  rw [execLockClose, State.live_runs hs, hfind]
  dsimp only
  rw [h, if_pos rfl, State.inTide]
  by_cases hin : b + 10000 < nextBoundary s.now
  · rw [if_pos hin, decide_eq_true hin]
    rfl
  · rw [if_neg hin, decide_eq_false hin]
    rfl

end Lock

end Sys2Proof.Machine
end

section
/-! PROOF. The Tugs (R121, R352, R355 to R360, R364): statement O43. -/

namespace Sys2Proof.Machine

section Tugs
variable {e : Fin 8} {s : State} (hs : s.runs)
include hs

theorem tugEnqueue_full (c : Fin 32) (value : Word) (h : 16 ≤ ((s.tug e).queue c).length) : ∃ t, exec (.tugEnqueue e c value) s = .next t ∧
    t.rd (R.TG_e_CH_c_STATUS_OVF e c) = 1 ∧ OnlyRegs [R.TG_e_CH_c_STATUS_OVF e c] s t ∧ t = { s with regs := t.regs } :=
  ⟨_, exec_tugEnqueue_of_full value hs h, State.rd_wr_same .., (OnlyRegs.refl s _).wr (List.mem_singleton_self _) _, rfl⟩

theorem tugEnqueue_queues (c : Fin 32) (value : Word) (h : ((s.tug e).queue c).length < 16) : ∃ t, exec (.tugEnqueue e c value) s = .next t ∧
    (t.tug e).queue c = (s.tug e).queue c ++ [s.tugChain e c value] ∧ (∀ k, k ≠ c.val → (t.tug e).queue k = (s.tug e).queue k) ∧
    (t.tug e).run = (s.tug e).run ∧ t.rd (R.TG_e_CH_c_STATUS_QLVL e c) = ((s.tug e).queue c).length + 1 ∧
    OnlyRegs [R.TG_e_CH_c_STATUS_QLVL e c] s t ∧ (∀ k, k ≠ e.val → t.tug k = s.tug k) ∧ t = { s with regs := t.regs, tugs := t.tugs } := by
  obtain ⟨t, hexec, hmoves, hlevel⟩ := tugEnqueue_joins value hs h
  refine ⟨t, hexec, ?_, fun k hk => ?_, ?_, hlevel, hmoves.only, hmoves.others, hmoves.frame⟩
  · rw [hmoves.mine]
    exact Tab.get_put_same ..
  · rw [hmoves.mine]
    exact Tab.get_put_other _ _ _ _ (Ne.symm hk)
  · rw [hmoves.mine]
    rfl

theorem tugChainStart_takes {c : Fin 32} {h : TugChain} (hfree : (s.tug e).run = none) (hnext : s.nextChain e = some (c.val, h)) (hok : h.ok = true) :
    ∃ t, exec (.tugChainStart e) s = .next t ∧ (t.tug e).run = some ⟨c, h.tide, true, h.head, 1, s.now, false⟩ ∧
      (t.tug e).queue c = ((s.tug e).queue c).tail ∧ t.rd (R.TG_e_STATUS_BUSY e) = 1 ∧ t.rd (R.TG_e_STATUS_CH e) = c.val ∧
      t.rd (R.TG_e_CH_c_STATUS_RUNNING e c) = 1 ∧ t.rd (R.TG_e_CH_c_CUR_CUR e c) = low 21 (h.head / 32) ∧
      OnlyRegs [R.TG_e_STATUS_BUSY e, R.TG_e_STATUS_CH e, R.TG_e_CH_c_STATUS_RUNNING e c, R.TG_e_CH_c_CUR_CUR e c,
        R.TG_e_CH_c_STATUS_QLVL e c] s t ∧ (∀ k, k ≠ e.val → t.tug k = s.tug k) ∧ t = { s with regs := t.regs, tugs := t.tugs } := by
  have hmoves := s.startChain_moves e c h
  obtain ⟨hbusy, hch, hrunning, hcur⟩ := s.startChain_rd e c.isLt h
  refine ⟨s.startChain e c h, ?_, ?_, ?_, hbusy, hch, hrunning, hcur, hmoves.only, hmoves.others, hmoves.frame⟩
  · rw [exec_tugChainStart hs hfree hnext, if_pos hok]
  · rw [hmoves.mine, ← hok]
    rfl
  · rw [hmoves.mine, State.tugStarted_queue]

theorem tugChainStart_refuses {c : Fin 32} {h : TugChain} (hfree : (s.tug e).run = none) (hnext : s.nextChain e = some (c.val, h)) (hok : h.ok = false)
    (hhead : h.head % 32 = 0) : ∃ t, exec (.tugChainStart e) s = .next t ∧ (t.tug e).run = none ∧ (t.tug e).queue c = ((s.tug e).queue c).tail ∧
      t.shedNat (h.head + 28) 4 = 8 * 2 ^ 24 + 5 * 2 ^ 28 ∧ (∀ a, (a < h.head + 28 ∨ h.head + 32 ≤ a) → t.shedByte a = s.shedByte a) ∧
      bit (t.rd (R.TG_e_ERR_ERR e)) c = true ∧ t.rd (R.TG_e_STATUS_BUSY e) = 0 ∧ (∀ k, k ≠ e.val → t.tug k = s.tug k) ∧ SameButTugs s t := by
  have hexec := exec_tugChainStart hs hfree hnext
  rw [hok, if_neg Bool.false_ne_true] at hexec
  obtain ⟨hmine, hstatus, hout, herr, hbusy, hothers, hsame⟩ := s.startChain_refused e c.isLt h (by omega) _ _ rfl
  refine ⟨_, hexec, ?_, ?_, hstatus, hout, herr, hbusy, hothers, hsame⟩
  · rw [hmine]
  · rw [hmine]
    exact s.tugStarted_queue e c h

theorem tugDescriptorComplete_tile {b g u : Nat} {rest : List (Nat × Nat × Nat)} (hfree : (s.tug e).run = none)
    (h : Tab.get [] s.tileWrites e = (b, g, u) :: rest) (luck : WhLuck) (host : List Byte) (fails : Option TugFail) :
    ∃ t, exec (.tugDescriptorComplete e luck host fails) s = .next t ∧ Tab.get [] t.tileWrites e = rest ∧
      (∀ r, r < 16 → rowKey u g r ∉ (t.dasOf b).rows) ∧
      (∀ k, k ∈ (s.dasOf b).rows → (∀ r, r < 16 → k ≠ rowKey u g r) → k ∈ (t.dasOf b).rows) ∧
      (∀ i, i ≠ b → t.dasOf i = s.dasOf i) ∧
      t = { s with das := t.das, tileWrites := t.tileWrites, work := t.work, late := t.late, cutWork := t.cutWork } := by
  obtain ⟨hrest, hrows, hothers, hframe⟩ := State.tileWritten_frees h _ rfl
  refine ⟨_, exec_tugDescriptorComplete_of_free hs hfree luck host fails, hrest, fun r hr hmem => ?_, fun k hk hne => ?_, hothers, hframe⟩
  · exact ((hrows _).mp hmem).2 (mem_tileKeys.mpr ⟨r, hr, rfl⟩)
  · refine (hrows k).mpr ⟨hk, fun hmem => ?_⟩
    obtain ⟨r, hr, hkey⟩ := mem_tileKeys.mp hmem
    exact hne r hr hkey.symm

theorem lockClose_closes (domain : Fin 26) : ((∀ b, (domain.val, b) ∉ s.draining) → exec (.lockClose domain) s = .next s) ∧
    ∀ b, s.draining.find? (fun g => g.1 == domain.val) = some (domain.val, b) →
      (s.tugUses domain b = false → ∃ t, exec (.lockClose domain) s = .next t ∧ t.powered domain = false ∧ t.now = s.now ∧
        (∀ k, k < 26 → k ≠ domain.val → t.powered k = s.powered k) ∧ t.draining = s.draining.filter (fun g => g.1 != domain.val)) ∧
      (s.tugUses domain b = true → b + 10000 < nextBoundary s.now → ∃ t, exec (.lockClose domain) s = .next t ∧ t.powered domain = false ∧
        t.now = max s.now (b + 10000)) ∧
      (s.tugUses domain b = true → nextBoundary s.now ≤ b + 10000 → exec (.lockClose domain) s = .next s) := by
  refine ⟨exec_lockClose_of_none hs, fun b hfind => ⟨fun hidle => ?_, fun hbusy hin => ?_, fun hbusy hout => ?_⟩⟩
  · exact ⟨_, exec_lockClose_of_idle hs hfind hidle, s.powerOff_off domain⟩
  · have hexec := exec_lockClose_of_busy hs hfind hbusy
    rw [if_pos hin] at hexec
    obtain ⟨hoff, hnow, -⟩ := (s.advance (b + 10000)).powerOff_off domain
    exact ⟨_, hexec, hoff, hnow⟩
  · rw [exec_lockClose_of_busy hs hfind hbusy, if_neg (Nat.not_lt.mpr hout)]

end Tugs

/-- Settles O43, by one lemma for each thing that a Tug does and one for the Lock; the copy goes by the units of the descriptor. -/
theorem tugChainsMoveBytes : Obligations.TugChainsMoveBytes := by
  unfold Obligations.TugChainsMoveBytes
  rintro e s x hs rfl
  refine ⟨tugEnqueue_full hs, tugEnqueue_queues hs, fun c h hfree hnext => ⟨tugChainStart_takes hs hfree hnext, tugChainStart_refuses hs hfree hnext⟩,
    ?_, fun hfree luck host fails => ⟨fun hnone => ?_, fun b g u rest hsome => tugDescriptorComplete_tile hs hfree hsome luck host fails⟩,
    lockClose_closes hs⟩
  · rintro r d o hrun rfl rfl htide hch halign hdrain
    have hoff : r.desc % 4 = 0 := by omega
    refine ⟨fun hpass hnum hvalid hsource hdest hswap hswrap hdwrap hon hsrcRoom hdstRoom hsrc hdst hapart hclear => ?_,
      fun hpass hnum hinvalid => ?_, fun hpass hnum => ?_, fun hwf hfails => ?_⟩
    · obtain ⟨t, hexec, h⟩ := tugDescriptorComplete_copies rfl hs hrun htide hch hoff hdrain hpass hnum hvalid
        ⟨hsource, hdest, hswap, hswrap, hdwrap, hsrcRoom, hdstRoom, hapart⟩ ⟨hon, hsrc, hdst⟩ hclear
      refine ⟨t, hexec, h.copied, h.status, h.outside, h.counted, ?_, fun hlast => ⟨?_, h.chains hlast⟩, fun hlast => ?_, h.signals, h.silent,
        h.passed, h.others, h.same⟩
      · rw [h.mine]
        exact Tab.get_put_same ..
      · rw [h.mine, Tug.after, hlast]
        rfl
      · rw [h.mine, Tug.after, hlast]
        rfl
    · obtain ⟨hmine, hstatus, herr, hout, -⟩ := State.failed_chainNext (irq := (s.desc r.desc).irq) (code := tugInvalid) (cause := causeFormat)
        hrun hoff hch (by decide) (s.desc r.desc) _ rfl
      refine ⟨_, exec_tugDescriptorComplete_of_invalid hs hrun htide hpass hnum hinvalid, hstatus, herr, hout, fun hlast => ?_⟩
      rw [hmine, Tug.after, hlast]
      rfl
    · exact ⟨_, exec_tugDescriptorComplete_of_long hs hrun htide hpass hnum, State.failed_chainEnd hrun hoff hch (by decide) _ rfl⟩
    · have hscan := s.parityScan_sameButRegs r.desc 28
      have htug : (s.parityScan r.desc 28).tug e = s.tug e := State.tug_congr (by rw [hscan]) e
      obtain ⟨-, hstatus, herr, -, hparity⟩ := State.failed_chainNext (irq := (s.desc r.desc).irq) (code := tugBad) (cause := causeParity)
        (htug ▸ hrun) hoff hch (by decide) (s.desc r.desc) _ rfl
      exact ⟨_, exec_tugDescriptorComplete_of_parity hs hrun htide hfails, hparity.trans (State.parityScan_parity hwf (by decide) hfails),
        hstatus, herr⟩
  · rw [exec_tugDescriptorComplete_of_free hs hfree, State.tileWritten_of_none hnone]

end Sys2Proof.Machine
end
